-- ==== Sys2Proof/Word.lean ====
section
/-! DEFINITION. The words of the package: registers are 32 bits wide (R4), memory is bytes, every multi-byte field
is little-endian (R3). -/
namespace Sys2Proof

/-- One byte of memory. -/
abbrev Byte := BitVec 8

/-- One register word (R4), also the carrier of an FP32 value. -/
abbrev Word := BitVec 32

/-- A 64-bit word: command QWORDs, counters, addresses, FP64 values. -/
abbrev Dword := BitVec 64

/-- One 256-byte link block as it crosses a fabric port (R314). -/
abbrev Block := BitVec 2048

end Sys2Proof
end

