-- ==== Sys2Proof/Syntax.lean ====
section
/-! DEFINITION. The commands of the block: one constructor of `Instr` for each row of spec/opcode_table.json, with the
operands the row needs. Operands are what comes from outside the block: the hart and the value of a register access, a
link block, a received message, a measurement, the physical outcome of a check. -/
namespace Sys2Proof

/-- The two command streams (R133). -/
inductive Stream where
  | main
  | backfill
deriving DecidableEq, Repr

/-- The block types of the directory (R480). -/
inductive PageType where
  | hub
  | pwr
  | thm
  | irq
  | sec
  | mgt
  | log
  | seq
  | cmp
  | hlm
  | sxt
  | red
  | hng
  | fab
  | cht
  | mem
  | die
  | clu
  | chk
  | sky
  | hot
  | vtb
deriving DecidableEq, Repr

/-- One register page: block type and instance (R476). -/
structure Page where
  type : PageType
  inst : Nat
deriving DecidableEq, Repr

/-- A message or packet as it reaches its unit: the port it arrived on (36 for one this package sends to itself), its
flow (SRC, CLASS, STRIPE), the slot of the Chart that governed it, and its payload bytes joined over its blocks (R326). -/
structure Packet where
  port : Nat
  src : Nat
  cls : Nat
  stripe : Nat
  chart : Nat
  body : List Byte
deriving DecidableEq, Repr

/-- A link control word (R316): ACK, NAK with the expected SEQ, and one credit return for each class. -/
structure ControlWord where
  ack : Nat
  nak : Bool
  expected : Nat
  credits : List Nat
deriving DecidableEq, Repr

/-- How a training attempt ends (R313): all lanes trained and the peer's identity exchanged, or not. -/
inductive Training where
  | trained (package port : Nat)
  | failed
deriving DecidableEq, Repr

/-- One read of a DRAM block as the cells gave it (R116): the block that was really read, and which bits of its 256 data
bytes (0 to 2047) and of its check word (2048 to 2079) came out flipped. -/
structure BlockRead where
  source : Nat
  flips : List Nat
deriving DecidableEq, Repr

/-- A read of the DRAM block at an address, with the re-read that a failed check brings (R117); `half` says that the read
half of a partial write or an add-write met it. -/
structure BlockFinding where
  addr : Nat
  first : BlockRead
  second : BlockRead
  half : Bool
deriving DecidableEq, Repr

/-- Where in a core's engine a fault strikes (R80): a multiply cell; the adder that forms a_8,k or b_k,8 at a position k; a
check cell (8, j) or (i, 8); the corner cell. -/
inductive CellSite where
  | multiply (i j : Fin 8)
  | rowAdder (k : Nat)
  | colAdder (k : Nat)
  | rowCheck (j : Fin 8)
  | colCheck (i : Fin 8)
  | corner
deriving DecidableEq, Repr

/-- A fault in the computation of one block of a work item (R80, R81): the item by group and number (R59), the tile of its
strip, the block along K and, for a compensated pair, which of its three products; where the fault strikes, and what it adds
there in the first computation and in the second. -/
structure CellFinding where
  group : Nat
  item : Nat
  tile : Nat
  block : Nat
  part : Fin 3
  site : CellSite
  first : Int
  second : Int
deriving DecidableEq, Repr

/-- What was duplicated (R363): a work item by group and number, or a row of a vector command on the engine of `core` in the
command's cluster number `place`, duplicated on that of `partner`. -/
inductive DupSite where
  | item (group item : Nat)
  | row (place : Nat) (core partner : Fin 128)
deriving DecidableEq, Repr

/-- The results of a duplicated item or row as its cores computed them (R364): both cores, both again, the referee, and
further cores in order. -/
structure DupFinding where
  site : DupSite
  first : Nat
  second : Nat
  firstAgain : Nat
  secondAgain : Nat
  referee : Nat
  further : List Nat
deriving DecidableEq, Repr

/-- Where a store fault lies (R123): a 32-bit word of a core's store or accumulators, or a 64-byte line of the cluster
store. -/
inductive StoreSite where
  | core (core : Fin 128)
  | line (line : Nat)
deriving DecidableEq, Repr

/-- A read of a word with its parity bit (bit 32), or of a line with its CRC-16 (bits 512 to 527), and the re-read: which
bits came out flipped (R123). -/
structure StoreFinding where
  cluster : Nat
  site : StoreSite
  first : List Nat
  second : List Nat
deriving DecidableEq, Repr

/-- What happens in the hardware under one operation for its own checks to find: reads of DRAM blocks, faults in the engines,
duplicated results, reads of stores. All empty in an operation without a fault; what the checks find is computed from
them. DESIGN CHOICE, log entry 7. -/
structure OpEvents where
  blocks : List BlockFinding
  cells : List CellFinding
  dups : List DupFinding
  stores : List StoreFinding
deriving DecidableEq, Repr

/-- An operation under which nothing happens. -/
def OpEvents.none : OpEvents := ⟨[], [], [], []⟩

/-- A PTP exchange completed by the slave clock (R355): the port it ran on and the measured offset in ns. -/
structure PtpMessage where
  port : Nat
  offsetNs : Int
deriving DecidableEq, Repr

/-- What a client offers in a management TLS handshake (R471), by the registry's code points, whether its certificate is RSA-3072
and chains to the operator anchor, and the handshake's content that the device has to sign. -/
structure TlsHello where
  port : Nat
  ciphers : List Nat
  groups : List Nat
  schemes : List Nat
  resumption : Bool
  certRsa3072 : Bool
  certChains : Bool
  signed : List Byte
deriving DecidableEq, Repr

/-- A run of equal samples of a voltage (R434): so many millivolts, for so many samples of 1 µs. -/
structure InputRun where
  mv : Nat
  us : Nat
deriving DecidableEq, Repr

/-- How the hardware side of a boot stage ends (R412, R413): done, or failed with the stage's error code. -/
inductive StageResult where
  | done
  | failed (code : BitVec 8)
deriving DecidableEq, Repr

/-- The rails of R432 whose regulators can fault. -/
inductive Rail where
  | carrier
  | hub
  | core (cluster : Nat)
  | base (die : Nat)
  | dram (stack : Nat)
  | serdes (die : Nat)
deriving DecidableEq, Repr

/-- What trips the package (R447). -/
inductive TripCause where
  | die (die : Nat)
  | therm
deriving DecidableEq, Repr

/-- The sensors of one die as the thermal manager reads them in a period: degrees C, out of range when invalid. -/
abbrev DieSensors := List Int

/-- The commands of the block, in the order of the table. -/
inductive Instr where
  /-- NOP (R140): A NOP command is issued and completes at once. -/
  | nop (st : Stream)
  /-- FENCE (R149): A FENCE command is issued; it waits for every earlier command of its stream and every write those commands made. -/
  | fence (st : Stream)
  /-- FENCE_COMPLETE (R149): A FENCE's conditions come to hold; it writes VALUE to SEQ_FENCE_VALUE and sets FENCE_DONE. -/
  | fenceComplete (st : Stream)
  /-- FLUSH (R150): A FLUSH command is issued; it drains as FENCE does and discards the stream's look-ahead. -/
  | flush (st : Stream)
  /-- FLUSH_COMPLETE (R150): A FLUSH's drain ends, its look-ahead is discarded and later commands are read from memory again. -/
  | flushComplete (st : Stream)
  /-- WAIT (R151): A WAIT command is issued and blocks its stream until its counter, Hinge, grants or fence condition holds. -/
  | wait (st : Stream)
  /-- WAIT_COMPLETE (R151): The condition of a blocked WAIT comes to hold and the WAIT completes. -/
  | waitComplete (st : Stream)
  /-- WAIT_TIMEOUT (R151): A WAIT has not completed after TIMEOUT_US and is rejected with reason TIMEOUT. -/
  | waitTimeout (st : Stream)
  /-- SETPRED (R153): A SETPRED command sets one predicate from an immediate, a memory word, a slot-empty test or a counter. -/
  | setpred (st : Stream) (blocks : List BlockFinding := [])
  /-- STAMP (R154): A STAMP command copies a template and overwrites its fields from its stamp table, after its grant record is FINAL where it uses grant sources. -/
  | stamp (st : Stream) (blocks : List BlockFinding := [])
  /-- CALL (R135): A CALL command runs a called list of COUNT commands at the next depth with its own descriptor table. -/
  | call (st : Stream)
  /-- RETURN (R135): A RETURN command returns from a called list to the command after its CALL. -/
  | ret (st : Stream)
  /-- MATMUL (R56): A MATMUL command is issued to every cluster its partition table names, which compute block products under the canonical segment tree. -/
  | matmul (st : Stream) (ev : OpEvents)
  /-- MATMUL_H (R51): A MATMUL_H command computes a heritage product in chunks of 64 summed in ascending order. -/
  | matmulH (st : Stream) (ev : OpEvents)
  /-- VPROG (R89): A VPROG command runs an element program once per element of OUT0. -/
  | vprog (st : Stream) (ev : OpEvents)
  /-- SOFTMAX (R102): A VKERNEL SOFTMAX command writes the scaled soft maximum of each row. -/
  | softmax (st : Stream) (ev : OpEvents)
  /-- NORM_RMS (R103): A VKERNEL NORM_RMS command writes the RMS-normalised rows, optionally saving mu and q. -/
  | normRms (st : Stream) (ev : OpEvents)
  /-- NORM_LAYER (R103): A VKERNEL NORM_LAYER command writes the layer-normalised rows, optionally saving mu and q. -/
  | normLayer (st : Stream) (ev : OpEvents)
  /-- VKERNEL_REDUCE (R104): A VKERNEL REDUCE command writes per row a sum, sum of squares, maximum, minimum or non-finite count. -/
  | vkernelReduce (st : Stream) (ev : OpEvents)
  /-- ATTN_STAT (R105): A VKERNEL ATTN_STAT command folds key blocks into running attention statistics, or with FINAL writes the normalised outputs. -/
  | attnStat (st : Stream) (ev : OpEvents)
  /-- LOSS (R106): A VKERNEL LOSS command writes per-row gradients, the loss sum and the count of counted rows. -/
  | loss (st : Stream) (ev : OpEvents)
  /-- TLOAD (R98): A TLOAD command loads a curve table image into a slot of every cluster's curve memory at its operation boundary. -/
  | tload (st : Stream) (ev : OpEvents)
  /-- COPY (R143): A COPY command copies a tensor element by element with format conversion, or moves bits unchanged. -/
  | copy (st : Stream) (ev : OpEvents)
  /-- TRANSPOSE (R143): A TRANSPOSE command copies a tensor exchanging dimensions 0 and 1. -/
  | transpose (st : Stream) (ev : OpEvents)
  /-- ROUTE (R175): A ROUTE command selects candidates and sends the round-0 COUNT sets of the count-then-grant protocol. -/
  | route (ev : OpEvents)
  /-- COUNT (R175): A Compass COUNT message is received; once every member's set has ended, the home allots capacity and sends GRANT sets. -/
  | count (m : Packet) (blocks : List BlockFinding := [])
  /-- GRANT (R175): A Compass GRANT message is received; once every set has ended, slots are accepted or refused and a further round or placement follows. -/
  | grant (m : Packet) (blocks : List BlockFinding := [])
  /-- PLACE (R175): A Compass PLACE message is received; once every set has ended, rows are placed and the track record becomes FINAL. -/
  | place (m : Packet) (blocks : List BlockFinding := [])
  /-- COMPASS_TIMEOUT (R187): A track record is not FINAL within CMP_TIMEOUT of its ROUTE's issue and is abandoned. -/
  | compassTimeout (layerSlot microbatch : Nat)
  /-- DISPATCH (R199): An XCHG DISPATCH sends activations of accepted slots to their homes after their READY. -/
  | dispatch (ev : OpEvents)
  /-- XCHG_RETURN (R199): An XCHG RETURN sends expert outputs from homes back to sources. -/
  | xchgReturn (ev : OpEvents)
  /-- COMBINE (R202): An XCHG COMBINE sums returned rows into token outputs in ascending slot rank. -/
  | combine (ev : OpEvents)
  /-- GRAD_DISPATCH (R203): An XCHG GRAD_DISPATCH sends gated output-gradients to homes and writes gate gradients. -/
  | gradDispatch (ev : OpEvents)
  /-- GRAD_RETURN (R199): An XCHG GRAD_RETURN sends input-gradients from homes back to sources. -/
  | gradReturn (ev : OpEvents)
  /-- READY (R197): An exchange READY message is received and kept, releasing the sender's rows to this peer. -/
  | ready (m : Packet) (blocks : List BlockFinding := [])
  /-- DATA (R199): An exchange DATA packet is received and its rows placed in the home or source buffer. -/
  | data (m : Packet) (blocks : List BlockFinding := [])
  /-- XCHG_COMPLETE (R201): An XCHG's owed rows are accepted by the ports and its expected rows are written; status is written and its counter raised. -/
  | xchgComplete (kind layerSlot microbatch : Nat) (blocks : List BlockFinding := [])
  /-- XCHG_TIMEOUT (R208): An XCHG is not complete within TIMEOUT_US and ends with status TIMEOUT. -/
  | xchgTimeout (kind layerSlot microbatch : Nat)
  /-- REDUCE_SUM (R218): A REDUCE SUM command starts an exact, fast or compressed element-wise sum over the group. -/
  | reduceSum (ev : OpEvents)
  /-- REDUCE_TALLY (R227): A REDUCE TALLY command starts the integer sum of the visit tallies over the group. -/
  | reduceTally (ev : OpEvents)
  /-- REDUCE_MAX (R212): A REDUCE MAX command starts the element-wise maximum over the group on the fast wire. -/
  | reduceMax (ev : OpEvents)
  /-- REDUCE_CONSENSUS (R231): A REDUCE CONSENSUS command sends this package's SEEN flag on class 0. -/
  | reduceConsensus (blocks : List BlockFinding := [])
  /-- AGREE (R216): An exponent agreement message is received and combined by maximum and OR. -/
  | agree (m : Packet) (blocks : List BlockFinding := [])
  /-- EC48 (R218): An EC48 message is received and its integers added into the group totals. -/
  | ec48 (m : Packet) (blocks : List BlockFinding := [])
  /-- TOPK (R222): A TOPK contribution is received and added into the dense EC48 accumulator. -/
  | topk (m : Packet) (blocks : List BlockFinding := [])
  /-- SIGN (R223): A SIGN contribution is received and its integers added into the dense EC48 accumulator. -/
  | sign (m : Packet) (blocks : List BlockFinding := [])
  /-- FAST (R220): A fast-mode FP32 partial sum or root value is received and added in child order or written. -/
  | fast (m : Packet) (blocks : List BlockFinding := [])
  /-- TALLY (R227): A tally message is received and its entries added as integers. -/
  | tally (m : Packet) (blocks : List BlockFinding := [])
  /-- CONSENSUS (R231): A CONSENSUS message is received; once every package's value is held, the OR is written. -/
  | consensus (m : Packet) (blocks : List BlockFinding := [])
  /-- REDUCE_COMPLETE (R234): A REDUCE's results have all been written; status is written and its counter raised. -/
  | reduceComplete (slot : Nat) (blocks : List BlockFinding := [])
  /-- REDUCE_TIMEOUT (R236): A REDUCE or CONSENSUS is not complete within TIMEOUT_US and ends with status TIMEOUT. -/
  | reduceTimeout (slot : Nat)
  /-- HELM_SET_STEP (R250): A HELM_SET STEP writes lr, kappa and the step number at its boundary. -/
  | helmSetStep (ev : OpEvents)
  /-- HELM_SET_NORM (R251): A HELM_SET NORM measures a tensor's squared norm exactly and writes its record. -/
  | helmSetNorm (ev : OpEvents)
  /-- HELM_SET_COEF (R248): A HELM_SET COEF loads the Newton-Schulz coefficient table. -/
  | helmSetCoef (ev : OpEvents)
  /-- HELM_SET_DECAY (R264): A HELM_SET DECAY configures a decay table and marks it VALID. -/
  | helmSetDecay (ev : OpEvents)
  /-- HELM_UPDATE (R242): A HELM_UPDATE updates one layer's weights and momentum into the WRITING slot, catching up lazy rows and forming digests. -/
  | helmUpdate (ev : OpEvents)
  /-- SEND (R296): A STAGE_SEND SEND queues one pipeline packet in the send engine. -/
  | send (ev : OpEvents)
  /-- SEND_COMPLETE (R296): Every block of a SEND has been accepted by the ports; its status is written and its counter raised. -/
  | sendComplete (id : Nat) (blocks : List BlockFinding := [])
  /-- SEND_TIMEOUT (R308): A SEND is not complete within TIMEOUT_US and ends with status TIMEOUT. -/
  | sendTimeout (id : Nat)
  /-- RELEASE (R303): A STAGE_SEND RELEASE removes the head packet of a Hinge and may send GO. -/
  | release
  /-- PIPELINE_BLOCK (R298): A class 2 block lands in its Hinge slot; a packet may complete and STOP may be sent. -/
  | pipelineBlock (m : Packet) (blocks : List BlockFinding := [])
  /-- STOP (R300): A STOP message is received and the sender pauses the stream. -/
  | stop (m : Packet)
  /-- GO (R300): A GO message is received and the sender resumes the stream. -/
  | go (m : Packet)
  /-- LEG (R332): A LEG command is issued and waits for earlier commands and for the governed classes' queues to empty. -/
  | leg
  /-- LEG_SWITCH (R332): A LEG's waits end; it writes the governing Charts and step and sends its barrier up message. -/
  | legSwitch (blocks : List BlockFinding := [])
  /-- BARRIER (R333): A barrier message is received; up messages are combined and forwarded, and a down message completes the LEG. -/
  | barrier (m : Packet) (blocks : List BlockFinding := [])
  /-- LEG_TIMEOUT (R332): A LEG's barrier does not complete within TIMEOUT_US and the LEG is rejected. -/
  | legTimeout
  /-- FIX (R372): A FIX command sends this package's vote up the class 0 tree. -/
  | fix
  /-- FIX_VOTE (R375): A fix vote message is received; up messages combine, and the down message fixes a step, orders a rollback or defers. -/
  | fixVote (m : Packet)
  /-- FIX_TIMEOUT (R372): A FIX is not complete within TIMEOUT_US and is rejected with reason TIMEOUT. -/
  | fixTimeout
  /-- FLUSH_COUNT (R385): A flush count message of TYPE 33 is received and its S and T totals combined. -/
  | flushCount (m : Packet)
  /-- SK_REQUEST (R380): A witness receives SK_REQUEST for a suspect step and answers SK_ACCEPT or BUSY. -/
  | skRequest (m : Packet)
  /-- SK_ACCEPT (R380): A suspect package receives SK_ACCEPT, or BUSY, from its witness. -/
  | skAccept (m : Packet)
  /-- SK_VERDICT (R381): A suspect package receives the witness's EQUAL or UNEQUAL verdict and decides. -/
  | skVerdict (m : Packet)
  /-- SK_DECISION (R381): An SK_DECISION is received and passed down the tree, fixing the step, holding for a third computation or rolling back. -/
  | skDecision (m : Packet)
  /-- SK_CANCEL (R382): A witness receives SK_CANCEL and abandons that request. -/
  | skCancel (m : Packet)
  /-- SK_TIMEOUT (R381): No verdict arrives within SKY_TIMEOUT and the suspect package decides ROLLBACK. -/
  | skTimeout
  /-- LOGMARK_NOTE (R347): A LOGMARK NOTE appends a NOTE record with its DATA. -/
  | logmarkNote
  /-- LOGMARK_TENSOR (R347): A LOGMARK TENSOR digests a tensor's logical byte stream and appends a TENSOR record. -/
  | logmarkTensor (ev : OpEvents)
  /-- LOGMARK_RANGE (R347): A LOGMARK RANGE digests a byte range and appends a TENSOR record. -/
  | logmarkRange (ev : OpEvents)
  /-- COMMAND_DECODE (R144): The sequencer fetches and decodes a command with all its descriptors and tables. -/
  | commandDecode (st : Stream) (blocks : List BlockFinding := [])
  /-- COMMAND_REJECT (R145): After the running command's boundary, the stream stops before a malformed command, records the reason and enters FAULT. -/
  | commandReject (st : Stream)
  /-- OPERATION_BOUNDARY (R56): A running operation reaches its boundary and the sequencer chooses the next command of the main or backfill stream. -/
  | operationBoundary (st : Stream)
  /-- BF_OVERRUN (R160): A backfill command runs longer than LIMIT_US; it is counted and backfill is suspended. -/
  | bfOverrun
  /-- SEQ_TAIL_WRITE (R133): A write to SEQ_TAIL moves the ring tail, or sets TAIL_BAD if out of range. -/
  | seqTailWrite (hart : Fin 28) (st : Stream) (value : Word)
  /-- SEQ_COUNTER_ADD (R151): A write to SEQ_COUNTER_ADD raises a stream counter, saturating. -/
  | seqCounterAdd (hart : Fin 28) (st : Stream) (value : Word)
  /-- BF_ENABLE_WRITE (R162): A write to SEQ_BF_CTRL.ENABLE requests the backfill split on or off. -/
  | bfEnableWrite (hart : Fin 28) (value : Word)
  /-- BF_ENABLE_EFFECT (R162): With no backfill command issued and the main stream at a boundary, EFFECTIVE changes and decoded commands are decoded again. -/
  | bfEnableEffect
  /-- BF_RESUME (R160): A write of RESUME clears SUSP_OVERRUN. -/
  | bfResume (hart : Fin 28) (value : Word)
  /-- LINK_BLOCK_RECEIVE (R316): A link block arrives at a port; it is accepted in order or NAKed, then delivered, captured or forwarded. -/
  | linkBlockReceive (port : Fin 36) (block : Block) (words : List (List Byte) := [])
  /-- LINK_CONTROL_WORD (R316): A link control word is received; ACK frees retry slots, NAK starts a re-send run and credits return. -/
  | linkControlWord (port : Fin 36) (w : ControlWord)
  /-- REMOTE_WRITE_BLOCK (R335): A class 4 block is received and written into the remote-write window, or discarded; the last block raises a counter. -/
  | remoteWriteBlock (m : Packet) (blocks : List BlockFinding := [])
  /-- PARK_WORD (R453): A port receives a park word, leaves ACTIVE at once and enters FAULT. -/
  | parkWord (port : Fin 36)
  /-- FAB_ENABLE_WRITE (R313): Writing FAB_CTRL.ENABLE starts training, and clearing it returns the port to OFF. -/
  | fabEnableWrite (hart : Fin 28) (port : Fin 36) (value : Word)
  /-- TRAINING_ATTEMPT_END (R313): A training attempt ends; the port enters ACTIVE with its peer, tries again, or enters FAULT after 3 failures. -/
  | trainingAttemptEnd (port : Fin 36) (result : Training)
  /-- LANE_LOCK_LOSS (R313): A lane loses lock in service and the port retrains. -/
  | laneLockLoss (port : Fin 36) (lanes : BitVec 8)
  /-- CHT_PACKAGE_WRITE (R323): The first write to CHT_PACKAGE sets the package number. -/
  | chtPackageWrite (hart : Fin 28) (value : Word)
  /-- CHART_LOAD (R328): A write of GO to CHT_LOAD_CTRL checks a Chart image and loads it into a live slot. -/
  | chartLoad (hart : Fin 28) (value : Word) (blocks : List BlockFinding := [])
  /-- CHART_LOAD_REPLAY (R329): A GO with REPLAY set loads a Chart image into the replay bank, checked against SKY_ASSUME. -/
  | chartLoadReplay (hart : Fin 28) (value : Word) (blocks : List BlockFinding := [])
  /-- POST_TAIL_WRITE (R334): A write to CHT_POST_TAIL posts remote-write descriptors, which the engine sends in ring order. -/
  | postTailWrite (hart : Fin 28) (value : Word) (blocks : List BlockFinding := [])
  /-- POST_WRITE_ACKED (R334): Every block of a remote write is acknowledged on its first hop; the post head advances. -/
  | postWriteAcked (blocks : List BlockFinding := [])
  /-- STATE_REQUEST_ACTIVE (R485): A STATE_REQ write asks a READY page for ACTIVE, accepted at once if its condition holds. -/
  | stateRequestActive (hart : Fin 28) (page : Page) (gen : BitVec 8)
  /-- STATE_REQUEST_DRAINING (R485): A STATE_REQ write asks for DRAINING and the unit's drain begins. -/
  | stateRequestDraining (hart : Fin 28) (page : Page) (gen : BitVec 8)
  /-- STATE_REQUEST_READY (R485): A STATE_REQ write asks for READY, taken at once or held until a drain or condition completes. -/
  | stateRequestReady (hart : Fin 28) (page : Page) (gen : BitVec 8)
  /-- STATE_REQUEST_QUARANTINE (R408): A STATE_REQ write puts the HUB page in QUARANTINE. -/
  | stateRequestQuarantine (hart : Fin 28) (page : Page) (gen : BitVec 8)
  /-- DRAIN_COMPLETE (R485): A unit's drain completes and a held READY request takes effect. -/
  | drainComplete (page : Page)
  /-- CHK_CORE_REQ (R370): A write to CHK_CORE_REQ requests probation, fencing or release of the selected core. -/
  | chkCoreReq (hart : Fin 28) (value : Word)
  /-- PIN (R259): Writing HLM_RING_CTRL.PIN requests a pin that takes effect at the next fix leg. -/
  | pin (hart : Fin 28) (value : Word)
  /-- UNPIN (R259): Writing HLM_RING_CTRL.UNPIN releases the pinned slot. -/
  | unpin (hart : Fin 28) (value : Word)
  /-- CMP_TRACK_RECORD_WRITE (R189): A write of a nonzero record size takes the CMP page from READY to ACTIVE. -/
  | cmpTrackRecordWrite (hart : Fin 28) (value : Word)
  /-- HLM_RING_SLOT_WRITE (R271): A write of a nonzero slot size takes the HLM page from READY to ACTIVE. -/
  | hlmRingSlotWrite (hart : Fin 28) (value : Word)
  /-- RED_STEP_NF_FORCE (R229): Writing RED_STEP_NF.FORCE sets the step non-finite flag. -/
  | redStepNfForce (hart : Fin 28) (value : Word)
  /-- LOG_NEXT_READ (R350): A read of LOG_NEXT hands out and removes the next complete record, or sets UNDERRUN. -/
  | logNextRead (hart : Fin 28)
  /-- LOG_DRAINED_WRITE (R350): A write to LOG_DRAINED_HI sets the drained offset and frees ring space, or sets DRAIN_BAD. -/
  | logDrainedWrite (hart : Fin 28) (value : Word)
  /-- LOG_SPILL (R354): The LOG page enters DRAINING and writes every unacknowledged record to the flash spill region. -/
  | logSpill
  /-- SPILL_COMPLETE (R354): The Logbook spill to flash completes. -/
  | spillComplete (ok : Bool)
  /-- HUB_IFACE_OFFER (R489): The first write of OFFER to HUB_IFACE_AGREE agrees or refuses an interface generation. -/
  | hubIfaceOffer (hart : Fin 28) (value : Word)
  /-- MBX_PUT_LO (R415): A write to HUB_MBX_PUT_LO stages the low word for the writing hart. -/
  | mbxPutLo (hart : Fin 28) (mailbox : Fin 32) (value : Word)
  /-- MBX_PUT_HI (R415): A write to HUB_MBX_PUT_HI completes a mailbox packet and raises its notice, or sets OVERRUN. -/
  | mbxPutHi (hart : Fin 28) (mailbox : Fin 32) (value : Word)
  /-- MBX_GET_LO (R415): The owner's read of HUB_MBX_GET_LO returns the head packet's low word, or sets UNDERRUN. -/
  | mbxGetLo (hart : Fin 28) (mailbox : Fin 32)
  /-- MBX_GET_HI (R415): The owner's read of HUB_MBX_GET_HI returns the high word and removes the packet. -/
  | mbxGetHi (hart : Fin 28) (mailbox : Fin 32)
  /-- MBX_OWNER_WRITE (R430): A write to a mailbox OWNER takes effect only while the mailbox is empty. -/
  | mbxOwnerWrite (hart : Fin 28) (mailbox : Fin 32) (value : Word)
  /-- IRQ_CLAIM (R421): A hart's read of IRQ_CLAIM takes the highest offered source, clears it pending and pushes its priority. -/
  | irqClaim (hart reader : Fin 28)
  /-- IRQ_COMPLETE (R421): A hart's write to IRQ_COMPLETE pops its running priority, or sets COMPLETE_BAD. -/
  | irqComplete (hart writer : Fin 28) (value : Word)
  /-- IRQ_SW_TRIGGER (R418): A write to IRQ_SW_TRIGGER gives an edge on a software source. -/
  | irqSwTrigger (hart : Fin 28) (value : Word)
  /-- IRQ_MISSED_CLEAR (R428): A write to IRQ_MISSED_CLEAR sets a source's missed count to 0. -/
  | irqMissedClear (hart : Fin 28) (value : Word)
  /-- HOLDOFF_EXPIRY (R423): A group's hold-off timer expires and its sources may be offered again. -/
  | holdoffExpiry (group : Fin 32)
  /-- EV_EN_WRITE (R418): A write to EV_EN that enables a pending bit raises the page's interrupt line. -/
  | evEnWrite (hart : Fin 28) (page : Page) (value : Word)
  /-- EV_FORCE_WRITE (R482): A write to EV_FORCE sets EV_PEND bits as the events would. -/
  | evForceWrite (hart : Fin 28) (page : Page) (value : Word)
  /-- REGISTER_LO_READ (R479): A read of a _LO register latches the _HI value for the reading hart. -/
  | registerLoRead (hart : Fin 28) (addr : Nat)
  /-- ABSENT_PAGE_ACCESS (R477): An access to an absent page reads 0 or does nothing and is recorded in HUB_BAD_ADDR. -/
  | absentPageAccess (hart : Fin 28) (addr : Nat) (write : Bool)
  /-- ACCESS_FAULT (R478): A misaligned, wrong-width or PMP-denied register access raises an access fault. -/
  | accessFault (hart : Fin 28) (addr : Nat) (width : Nat) (write : Bool)
  /-- REGISTER_WRITE (R5): A write to a register with no row of its own acts under its access codes. -/
  | registerWrite (hart : Fin 28) (addr : Nat) (value : Word)
  /-- EXT_INPUT_RAW_CHANGE (R424): A raw external input changes level and its glitch filter restarts. -/
  | extInputRawChange (input : Fin 5) (level : Bool)
  /-- EXT_INPUT_FILTERED (R424): An input has held its new level for 16 us; the filtered level changes and its source gives an edge. -/
  | extInputFiltered (input : Fin 5)
  /-- INPUT_STUCK (R425): An input's filtered level has stayed active for STUCK_MS; the input becomes stuck and its stuck source gives an edge. -/
  | inputStuck (input : Fin 5)
  /-- PPS_EDGE (R426): A 1PPS rising edge disciplines the time base. -/
  | ppsEdge
  /-- PTP_MESSAGE (R355): A PTP message is received by the slave clock and the servo updates the time base and its lock state. -/
  | ptpMessage (m : PtpMessage)
  /-- MGT_LINK_CHANGE (R494): A management port gains or loses link. -/
  | mgtLinkChange (port : Fin 2) (up : Bool)
  /-- MGT_PTP_PORT_WRITE (R494): A change to MGT_PTP_CTRL.PORT restarts the PTP servo. -/
  | mgtPtpPortWrite (hart : Fin 28) (value : Word)
  /-- ROLL_CALL (R405): Every 1 ms the hub sends a roll call listing pages whose state changed. -/
  | rollCall
  /-- ATTESTATION_REQUEST (R470): A nonce arrives on the management channel and hart 24 answers with a signed report. -/
  | attestationRequest (nonce : List Byte)
  /-- DEBUG_UNLOCK_TOKEN (R473): A debug unlock token is checked and unlocks its scope or is refused. -/
  | debugUnlockToken (token : List Byte)
  /-- TLS_HANDSHAKE (R471): A management TLS 1.3 handshake is accepted or refused. -/
  | tlsHandshake (hello : TlsHello)
  /-- RECOVERY_BUNDLE (R468): In recovery mode a bundle arrives, is checked and written over the failed copy, and the package resets. -/
  | recoveryBundle (bundle : List Byte)
  /-- SCRUB_READ (R122): The patrol scrubber reads a block, handling a mismatch as a transient or lost block. -/
  | scrubRead (stack : Fin 24) (first second : List Nat)
  /-- REFCLK_PRESENT (R502): The reference clock has stayed within limits for 1 ms and is declared present. -/
  | refclkPresent
  /-- REFCLK_LOSS (R13): The reference clock is lost; the array halts at the next boundary and the package enters FAULT. -/
  | refclkLoss
  /-- PRSNT_MATE (R450): PRSNT_N mates and its debounce starts. -/
  | prsntMate
  /-- INSERTION_DEBOUNCE_END (R450): With the latch closed and input in range after debounce, the hot-swap ramp starts. -/
  | insertionDebounceEnd (input : List InputRun := [])
  /-- RAMP_COMPLETE (R450): The hot-swap ramp completes and the 1.8 V stage soft-starts. -/
  | rampComplete
  /-- RAMP_FAULT (R451): The ramp misses 95% within 40 ms or exceeds 150 A; the switch opens. -/
  | rampFault
  /-- RAMP_RETRY (R451): 1 s after a ramp fault the controller retries, up to 3 times. -/
  | rampRetry
  /-- RESET_RELEASE (R433): Input, ramp and carrier rail have held for 2 ms; power-on reset is released and boot begins. -/
  | resetRelease (input rail : List InputRun := [])
  /-- BOOT_STAGE_COMPLETE (R412): A boot stage completes and the next begins, or a failing stage leaves the HUB page in FAULT. -/
  | bootStageComplete (result : StageResult)
  /-- DRAM_FILL_COMPLETE (R115): A stack's boot fill completes and its MEM page becomes ACTIVE. -/
  | dramFillComplete (stack : Fin 24)
  /-- GRACE_EXPIRY (R452): GRACE_S seconds pass after a removal request and the quiesce begins. -/
  | graceExpiry
  /-- HOT_QUIESCE_WRITE (R452): A write of HOT_CTRL.QUIESCE starts a quiesce. -/
  | hotQuiesceWrite (hart : Fin 28) (value : Word)
  /-- SURPRISE_REMOVAL (R455): PRSNT_N breaks with the switch closed; the switch opens within 10 us. -/
  | surpriseRemoval
  /-- OVERCURRENT_TRIP (R499): Input current exceeds 260 A for 100 us and the hot-swap switch opens. -/
  | overcurrentTrip
  /-- SHED_LEVEL_ENTER (R434): The averaged input stays below a level's threshold for its persistence and the shed level is entered. -/
  | shedLevelEnter (level : Fin 6) (input : List InputRun := [])
  /-- SHED_LEVEL_LEAVE (R440): The input has recovered for the hold time and a shed level is left. -/
  | shedLevelLeave (input : List InputRun := [])
  /-- SAG_RESTART (R440): After a power-off on sag, the input has held for 100 ms and the insertion ramp restarts. -/
  | sagRestart (input : List InputRun := [])
  /-- PWR_SAG_CFG_WRITE (R435): A write to PWR_SAG_CFG is taken or ignored in whole with CFG_BAD. -/
  | pwrSagCfgWrite (hart : Fin 28) (level : Fin 5) (value : Word)
  /-- CONTROLLED_POWER_OFF (R439): The controlled power-off sequence begins with all core rails to 0 V. -/
  | controlledPowerOff
  /-- POWER_OFF_RAIL_STEP (R439): The next timed step of the power-off sequence turns off further rails or opens the switch. -/
  | powerOffRailStep
  /-- RAIL_FAULT (R433): A regulator leaves its set point by more than 10% for 1 us. -/
  | railFault (rail : Rail) (microvolts : Nat := 0)
  /-- POWER_MANAGER_PERIOD (R443): Every 100 us the power manager sets each cluster's clock target and runs the cap loop. -/
  | powerManagerPeriod (input : List InputRun) (watts peakWatts : Nat)
  /-- THERMAL_PERIOD (R446): Every 100 us each die's thermal ceiling falls or rises by 100 MHz. -/
  | thermalPeriod (sensors : List DieSensors) (inletC outletC : Int)
  /-- THERMAL_TRIP (R447): A die reaches TRIP_C or THERM becomes active; the package powers off at once. -/
  | thermalTrip (cause : TripCause)
  /-- TRIP_RESTART (R447): 10 s after a trip the controller restarts through the insertion ramp. -/
  | tripRestart
  /-- TRANSMIT_SLOT (R318): At each transmit slot a port sends a class 0 block, a pending re-send or a class 1-4 block chosen by deficit round robin, and every 16 slots a link control word. -/
  | transmitSlot (port : Fin 36)
  /-- CYCLE_STRETCH (R83): An island's core rail droops 3% below set point and the island stretches a cycle, counting it in STRETCHES and setting STRETCH. -/
  | cycleStretch (cluster : Fin 2400)
  /-- SRAM_PARITY_ERROR (R411): A hub SRAM word fails parity; the HUB page and the package enter FAULT and a crash record is written. -/
  | sramParityError (addr : Nat)
  /-- SOFTWARE_RESET (R414): A reset requested over the management channel resets the package with cause SOFTWARE. -/
  | softwareReset
  /-- SUPPLY_APPLIED (R414): 54 V is applied to a seated package; the carrier controller powers up and begins the insertion sequence with cause POWER_ON. -/
  | supplyApplied
  /-- SUPPLY_REMOVED (R431): 54 V is removed; the package loses all state except flash, and the trip lockout and the exclusion of a failed bundle copy end. -/
  | supplyRemoved
  /-- PRSNT_BREAK (R451): PRSNT_N breaks while the hot-swap switch is open, ending a ramp-fault lockout and restarting any later insertion from debounce. -/
  | prsntBreak
  /-- CAPTURE_REPLAY_BLOCK (R379): In WITNESS or THIRD mode the next captured block of the replayed step is offered to the receive buffers as though it had arrived on one port. -/
  | captureReplayBlock
deriving DecidableEq, Repr

end Sys2Proof
end

