-- ==== Sys2Proof/Decode.lean ====
section
/-! DEFINITION. The reading of a word of spec/opcode_table.json. The table gives none of its rows any bits: a command comes
from outside as an event with its operands, and no word spells one. -/
namespace Sys2Proof

/-- The command a word spells by the table's bits: none, since no row gives bits. -/
def decodeTableWord (_nbits _w : Nat) : Option Instr := none

end Sys2Proof
end

