-- ==== Sys2Proof/Machine/Assoc.lean ====
section
/-! DEFINITION. Sparse stores: a list of (key, value) pairs in one canonical form, keys strictly rising and no entry
equal to what an unlisted key reads as, so that equal stores are equal lists. Memory and the register pages are both
kept so. -/
namespace Sys2Proof.Machine

/-- A sparse store of `α` by natural-number key. -/
abbrev Assoc (α : Type) := List (Nat × α)

/-- The value at key `a`; `dflt` says what an unlisted key reads as. -/
def Assoc.get {α : Type} (dflt : Nat → α) : Assoc α → Nat → α
  | [], a => dflt a
  | (k, v) :: rest, a => if a = k then v else if a < k then dflt a else Assoc.get dflt rest a

/-- The store with `v` at key `a`: writing what an unlisted key reads as removes the entry. -/
def Assoc.set {α : Type} [DecidableEq α] (dflt : Nat → α) : Assoc α → Nat → α → Assoc α
  | [], a, v => if v = dflt a then [] else [(a, v)]
  | (k, w) :: rest, a, v =>
    if a = k then (if v = dflt a then rest else (a, v) :: rest)
    else if a < k then (if v = dflt a then (k, w) :: rest else (a, v) :: (k, w) :: rest)
    else (k, w) :: Assoc.set dflt rest a v

/-- Every key of the store is above `lo`, keys rise strictly, and no entry is the default. -/
def Assoc.wfAbove {α : Type} [DecidableEq α] (dflt : Nat → α) : Option Nat → Assoc α → Bool
  | _, [] => true
  | lo, (k, v) :: rest =>
    (match lo with
      | none => true
      | some l => decide (l < k)) && decide (v ≠ dflt k) && Assoc.wfAbove dflt (some k) rest

/-- The canonical form. -/
def Assoc.wf {α : Type} [DecidableEq α] (dflt : Nat → α) (m : Assoc α) : Bool := Assoc.wfAbove dflt none m

/-- What a byte that nothing has written reads as: the boot fill writes zero bytes over the job region, the Logbook
pieces and the cluster stores (R115). -/
def memDefault (_ : Nat) : Byte := 0#8

/-- Byte memory: DRAM and cluster stores by package address, hub SRAM by its hart address. -/
abbrev Mem := List Host.Cell

/-- The byte at an address. DEDUCED and DESIGN CHOICE, log entry 9. -/
def Mem.byte (m : Mem) (a : Nat) : Byte := Assoc.get memDefault m a

/-- The memory with one byte written. -/
def Mem.setByte (m : Mem) (a : Nat) (b : Byte) : Mem := Assoc.set memDefault m a b

/-- The canonical form of memory. -/
def Mem.wf (m : Mem) : Bool := Assoc.wf memDefault m

/-- Consecutive bytes written from address `a` upward. -/
def Mem.setBytes : Mem → Nat → List Byte → Mem
  | m, _, [] => m
  | m, a, b :: bs => Mem.setBytes (Mem.setByte m a b) (a + 1) bs

/-- A source of bytes: memory itself, or memory as a command's staged operands may show it (R68). -/
abbrev ByteSource := Nat → Byte

/-- The `n` bytes from address `a` upward. -/
def readBytes (src : ByteSource) (a n : Nat) : List Byte := (List.range n).map fun i => src (a + i)

/-- Little-endian value of bytes (R3). -/
def leNat : List Byte → Nat
  | [] => 0
  | b :: bs => b.toNat + 256 * leNat bs

/-- The `n` little-endian bytes of a number (R3). -/
def natBytes : Nat → Nat → List Byte
  | 0, _ => []
  | n + 1, v => BitVec.ofNat 8 v :: natBytes n (v / 256)

/-- The little-endian number of `n` bytes at `a`. -/
def readNat (src : ByteSource) (a n : Nat) : Nat := leNat (readBytes src a n)

def readWord (src : ByteSource) (a : Nat) : Word := BitVec.ofNat 32 (readNat src a 4)

def readDword (src : ByteSource) (a : Nat) : Dword := BitVec.ofNat 64 (readNat src a 8)

/-- A run of bytes to be written at an address. -/
structure Chunk where
  addr : Nat
  bytes : List Byte
deriving DecidableEq, Repr

/-- The memory after every run of a list is written, in order. -/
def Mem.apply (m : Mem) (cs : List Chunk) : Mem := cs.foldl (fun m c => m.setBytes c.addr c.bytes) m

/-- The bits [hi:lo] of a word as a number. -/
def bits (w : Word) (hi lo : Nat) : Nat := w.toNat / 2 ^ lo % 2 ^ (hi + 1 - lo)

/-- The word with its bits [hi:lo] replaced by `v`. -/
def setBits (w : Word) (hi lo : Nat) (v : Nat) : Word :=
  let mask : Word := BitVec.ofNat 32 ((2 ^ (hi + 1 - lo) - 1) * 2 ^ lo)
  (w &&& ~~~ mask) ||| (BitVec.ofNat 32 (v * 2 ^ lo) &&& mask)

/-- One bit of a word. -/
def bit (w : Word) (i : Nat) : Bool := w.getLsbD i

/-- The word with one bit set or cleared. -/
def setBit (w : Word) (i : Nat) (b : Bool) : Word := setBits w i i (if b then 1 else 0)

/-- The bits [hi:lo] of a number. -/
def natBits (n hi lo : Nat) : Nat := n / 2 ^ lo % 2 ^ (hi + 1 - lo)

/-- ceil(a / b). -/
def ceilDiv (a b : Nat) : Nat := (a + b - 1) / b

/-- The least n with 2^n ≥ m. -/
def ceilLog2 (m : Nat) : Nat := if m ≤ 1 then 0 else Nat.log2 (m - 1) + 1

/-- The next multiple of `k` at or after `n`. -/
def alignUp (n k : Nat) : Nat := ceilDiv n k * k

/-- Two byte ranges [a, a + n) and [b, b + m) share a byte. -/
def overlaps (a n b m : Nat) : Bool := decide (a < b + m ∧ b < a + n)

end Sys2Proof.Machine
end

