-- ==== Sys2Proof/Machine/Fec.lean ====
section
/-! DEFINITION. The Reed–Solomon code RS(136,128) that guards the bytes of a lane, as the number of symbols it corrects (R312). -/
namespace Sys2Proof.Machine

/-- A symbol times x in GF(2^8) under x^8 + x^4 + x^3 + x^2 + 1. -/
def gfDouble (a : Byte) : Byte := (a <<< 1) ^^^ (if a.getLsbD 7 then 0x1D#8 else 0#8)

/-- The product of two symbols. -/
def gfMul (a b : Byte) : Byte :=
  ((List.range 8).foldl (fun (s : Byte × Byte) i => (if b.getLsbD i then s.1 ^^^ s.2 else s.1, gfDouble s.2)) (0#8, a)).1

def gfPow (a : Byte) : Nat → Byte
  | 0 => 1#8
  | n + 1 => gfMul (gfPow a n) a

/-- The inverse of a symbol that is not 0. -/
def gfInv (a : Byte) : Byte := gfPow a 254

/-- α^n. -/
def gfAlpha (n : Nat) : Byte := gfPow 2#8 (n % 255)

/-- A polynomial, its constant term first, at a point. -/
def gfEval (cs : List Byte) (x : Byte) : Byte := cs.foldr (fun c acc => c ^^^ gfMul acc x) 0#8

def gfAdd (a b : List Byte) : List Byte :=
  (List.range (max a.length b.length)).map fun i => a.getD i 0#8 ^^^ b.getD i 0#8

/-- The eight syndromes of a codeword, whose first symbol has the highest power of x. PRESUMED, log entry 33. -/
def syndromes (word : List Byte) : List Byte := (List.range 8).map fun j => gfEval word.reverse (gfAlpha j)

/-- Berlekamp and Massey's search for the shortest recurrence of some syndromes: the error locator, the locator before its last
change, its length, the discrepancy of that change and the steps since. -/
structure Locator where
  now : List Byte
  old : List Byte
  len : Nat
  disc : Byte
  gap : Nat

/-- One more syndrome taken in. -/
def Locator.step (ss : List Byte) (l : Locator) (n : Nat) : Locator :=
  let d := (List.range (l.len + 1)).foldl (fun acc i =>
    if i ≤ n then acc ^^^ gfMul (l.now.getD i 0#8) (ss.getD (n - i) 0#8) else acc) 0#8
  if d = 0#8 then { l with gap := l.gap + 1 }
  else
    let k := gfMul d (gfInv l.disc)
    let next := gfAdd l.now (List.replicate l.gap 0#8 ++ l.old.map (gfMul k))
    if 2 * l.len ≤ n then ⟨next, l.now, n + 1 - l.len, d, 1⟩ else { l with now := next, gap := l.gap + 1 }

/-- The symbols a codeword of 136 has corrected: none where its errors are beyond the code's four (R312). -/
def fecCorrected (word : List Byte) : Nat :=
  let ss := syndromes word
  let l := (List.range 8).foldl (Locator.step ss) ⟨[1#8], [1#8], 0, 1#8, 1⟩
  let roots := ((List.range 136).filter fun i => gfEval l.now (gfInv (gfAlpha i)) == 0#8).length
  if word.length = 136 ∧ l.len ≤ 4 ∧ roots = l.len then l.len else 0

end Sys2Proof.Machine
end

