-- ==== Sys2Proof/Config.lean ====
section
/-! DEFINITION. The free values: what the spec leaves open and no proof can see (notes/assumptions/2.md). Each is applied
to a counter of State that advances with every use, or to the operands it depends on. -/
namespace Sys2Proof.Config

/-- A byte the spec leaves open, by draw and by place within the draw. -/
opaque freeByte : Nat → Nat → Byte

/-- A 32-bit value the spec leaves open, by draw and by place. -/
opaque freeWord : Nat → Nat → Word

/-- The coefficients of the default curve set (R100): the FP32 word at a place of the image of default table n. The spec
gives the tables' error bounds and three exact values, not their coefficients. -/
opaque curveWord : Nat → Nat → Word

/-- A field of a track record that the spec gives no value for: 0 LIST_FIRST of a local slot without list entries, 1 GATE of
a dropped slot (R177, R180). Equal inputs write equal records (R165). -/
opaque recordBlank : Nat → Word

/-- The device identity key's signature of a digest (R349, R470): 384 bytes, by draw (its salt is random), digest and place. The
key never leaves hart 24 (R469). -/
opaque signature : Nat → List Byte → Nat → Byte

/-- The bytes whose SHA-256 is CONFIG of an attestation report (R470): the fence map, the remap tables (rows spared and spare rows
used, by stack) and the words at HUB offsets 0x040 to 0x07F. The spec states no layout for them. -/
opaque configBytes : List Nat → List (Nat × List Nat × Nat) → List Word → List Byte

/-- The SHA-256 of parts of the package that no command can read: 0 the boot ROM, 1 the bundle header, 2 the operating
image with the service firmware, 3 the curve component (R470), 4 the operating image (R343), by the copy of the bundle that runs. -/
opaque measure : Bool → Nat → List Byte

/-- The core-rail set point of the voltage-frequency table fused at manufacture (R432), in mV, by cluster and clock in MHz. -/
opaque coreRailMv : Nat → Nat → Nat

/-- The X.509 chain of the device certificate, in module flash (R469). -/
opaque identityChain : List Byte

/-- The flash area with the private identity key, encrypted under a fuse-derived key (R469). -/
opaque identityKey : List Byte

/-- The size of a page of module flash in bytes (R439); the spec states none. -/
opaque flashPage : Nat

/-- A cluster's share of array power (R445), in mW. The spec gives no value. -/
opaque arrayShareMw : Nat → Nat

/-- The integer that a SIGN contribution of non-finite scale stands for on a window (R223), by the scale and G: the spec states
none where the sum of magnitudes overflows. -/
opaque openSign : Word → Int → Nat

/-- TEMP_C, eight bits of signed degrees, of a die hotter than 127 °C: the spec states no encoding (R446). -/
opaque tempCode : Int → Nat

end Sys2Proof.Config
end

