-- ==== Sys2Proof/Machine/Crc.lean ====
section
/-! DEFINITION. The cyclic checks of the package, each over bytes: CRC-32C (R101, R116), CRC-16/CCITT (R123) and the
others that the chapters name. -/
namespace Sys2Proof.Machine

/-- One bit step of a reflected CRC. -/
def crcReflStep (poly : Nat) (c : Nat) : Nat := if c % 2 = 1 then c / 2 ^^^ poly else c / 2

/-- Eight bit steps of a reflected CRC. -/
def crcReflByte (poly : Nat) (c : Nat) (b : Byte) : Nat :=
  (List.range 8).foldl (fun x _ => crcReflStep poly x) (c ^^^ b.toNat)

def crcRefl (poly init : Nat) (bs : List Byte) : Nat := bs.foldl (crcReflByte poly) init

/-- CRC-32C: reflected polynomial 0x82F6_3B78, initial value and final exclusive-or all ones (R116). -/
def crc32c (bs : List Byte) : Word := BitVec.ofNat 32 (crcRefl 0x82F63B78 0xFFFFFFFF bs ^^^ 0xFFFFFFFF)

/-- CRC-32 of IEEE 802.3, the check of a link block (R315). -/
def crc32 (bs : List Byte) : Word := BitVec.ofNat 32 (crcRefl 0xEDB88320 0xFFFFFFFF bs ^^^ 0xFFFFFFFF)

/-- One bit step of a direct (most significant bit first) CRC of `w` bits. -/
def crcMsbStep (w poly : Nat) (c : Nat) : Nat :=
  if c.testBit (w - 1) then (c * 2 ^^^ poly) % 2 ^ w else c * 2 % 2 ^ w

def crcMsbByte (w poly : Nat) (c : Nat) (b : Byte) : Nat :=
  (List.range 8).foldl (fun x _ => crcMsbStep w poly x) (c ^^^ b.toNat * 2 ^ (w - 8))

def crcMsb (w poly init : Nat) (bs : List Byte) : Nat := bs.foldl (crcMsbByte w poly) init

/-- CRC-16/CCITT: polynomial 0x1021, initial value 0xFFFF, no final exclusive-or (R123). -/
def crc16 (bs : List Byte) : BitVec 16 := BitVec.ofNat 16 (crcMsb 16 0x1021 0xFFFF bs)

/-- CRC-64/ECMA-182 carried on from the register value `c`: no reflection, no final exclusive-or (R345). -/
def crc64From (c : Dword) (bs : List Byte) : Dword := BitVec.ofNat 64 (crcMsb 64 0x42F0E1EBA9EA3693 c.toNat bs)

def crc64 (bs : List Byte) : Dword := crc64From 0#64 bs

end Sys2Proof.Machine
end

