-- ==== Sys2Proof/Machine/Float.lean ====
section
/-! DEFINITION. Exact binary values, their roundings, and the IEEE formats of the package (R24 to R26, R47).
A value is decoded, combined exactly, and rounded once. -/
namespace Sys2Proof.Machine

/-- A floating-point value taken exactly: `fin neg m e` is (-1)^neg * m * 2^e; a zero keeps its sign (R47). -/
inductive FVal where
  | nan
  | inf (neg : Bool)
  | fin (neg : Bool) (m : Nat) (e : Int)
deriving DecidableEq, Repr

/-- The shape of a binary format: exponent bits, mantissa bits and bias (R24). -/
structure Fmt where
  ebits : Nat
  mbits : Nat
  bias : Nat
deriving DecidableEq, Repr

def fmtF32 : Fmt := ⟨8, 23, 127⟩
def fmtBF16 : Fmt := ⟨8, 7, 127⟩
def fmtF16 : Fmt := ⟨5, 10, 15⟩
def fmtF64 : Fmt := ⟨11, 52, 1023⟩
def fmtE4M3 : Fmt := ⟨4, 3, 7⟩
def fmtE5M2 : Fmt := ⟨5, 2, 15⟩
def fmtE2M3 : Fmt := ⟨2, 3, 1⟩
def fmtE3M2 : Fmt := ⟨3, 2, 3⟩
def fmtE2M1 : Fmt := ⟨2, 1, 1⟩

/-- The exponent of the format's smallest step: a subnormal is mantissa * 2^(1 - bias - mbits). -/
def Fmt.emin (f : Fmt) : Int := 1 - (f.bias : Int) - (f.mbits : Int)

/-- The exponent field with every bit set. -/
def Fmt.emax (f : Fmt) : Nat := 2 ^ f.ebits - 1

/-- The position of the sign bit. -/
def Fmt.signPos (f : Fmt) : Nat := f.ebits + f.mbits

/-- The code of +infinity in a format that has one: exponent all ones, mantissa zero. -/
def Fmt.infCode (f : Fmt) : Nat := f.emax * 2 ^ f.mbits

/-- The canonical NaN of FP32, BF16, FP16 and FP64: the quiet bit alone, sign 0 (R25). -/
def Fmt.nanCode (f : Fmt) : Nat := f.infCode + 2 ^ (f.mbits - 1)

def Fmt.signed (f : Fmt) (neg : Bool) (mag : Nat) : Nat := if neg then mag + 2 ^ f.signPos else mag

/-- The value of a magnitude code, exponent field and mantissa, with no infinity and no NaN (R24). -/
def Fmt.finiteVal (f : Fmt) (code : Nat) : FVal :=
  let neg := code.testBit f.signPos
  let mag := code % 2 ^ f.signPos
  let e := mag / 2 ^ f.mbits
  let m := mag % 2 ^ f.mbits
  if e = 0 then .fin neg m f.emin else .fin neg (2 ^ f.mbits + m) (f.emin + (e : Int) - 1)

/-- The value of an IEEE code (FP32, BF16, FP16, FP64 and E5M2 in R24). -/
def Fmt.decode (f : Fmt) (code : Nat) : FVal :=
  let neg := code.testBit f.signPos
  let mag := code % 2 ^ f.signPos
  if mag = f.infCode then .inf neg
  else if mag > f.infCode then .nan
  else f.finiteVal code

/-- The roundings of the package: to nearest with ties to even (R42) or ties away from zero (R53, R54). -/
inductive Rounding where
  | even
  | away
deriving DecidableEq, Repr

/-- `m` divided by 2^k, rounded to an integer. -/
def roundShift (r : Rounding) (m k : Nat) : Nat :=
  let q := m / 2 ^ k
  let rest := m % 2 ^ k
  let half := 2 ^ k / 2
  if k = 0 then m
  else if rest > half then q + 1
  else if rest = half then
    match r with
    | .even => if q % 2 = 1 then q + 1 else q
    | .away => q + 1
  else q

/-- The exponent of the format's grid spacing at the magnitude m * 2^e (m > 0), the exponent range unbounded above. -/
def Fmt.gridExp (f : Fmt) (m : Nat) (e : Int) : Int :=
  max (e + (Nat.log2 m : Int) - (f.mbits : Int)) f.emin

/-- The magnitude code of mant * 2^q, where q is a grid exponent of the format and mant ≤ 2^(mbits+1). -/
def Fmt.packMag (f : Fmt) (mant : Nat) (q : Int) : Nat :=
  if mant < 2 ^ f.mbits then mant
  else (q - f.emin + 1).toNat * 2 ^ f.mbits + (mant - 2 ^ f.mbits)

/-- m * 2^e rounded onto the format's grid, its magnitude code with the exponent range unbounded above (R40). -/
def Fmt.roundMag (f : Fmt) (r : Rounding) (m : Nat) (e : Int) : Nat :=
  if m = 0 then 0
  else
    let q := f.gridExp m e
    if q ≤ e then f.packMag (m * 2 ^ (e - q).toNat) q
    else f.packMag (roundShift r m (q - e).toNat) q

/-- Stochastic rounding of m * 2^e onto the format's grid with the draw `draw` (R43). -/
def Fmt.roundMagStoch (f : Fmt) (draw : Nat) (m : Nat) (e : Int) : Nat :=
  if m = 0 then 0
  else
    let q := f.gridExp m e
    if q ≤ e then f.packMag (m * 2 ^ (e - q).toNat) q
    else
      let k := (q - e).toNat
      let lo := m / 2 ^ k
      let frac := (m % 2 ^ k) * 2 ^ 32 / 2 ^ k
      f.packMag (if draw < frac then lo + 1 else lo) q

/-- One rounding of an exact value into an IEEE format; overflow gives infinity, a NaN is canonical (R25, R26, R47). -/
def Fmt.round (f : Fmt) (r : Rounding) (v : FVal) : Nat :=
  match v with
  | .nan => f.nanCode
  | .inf neg => f.signed neg f.infCode
  | .fin neg m e => f.signed neg (min (f.roundMag r m e) f.infCode)

def FVal.neg : FVal → FVal
  | .nan => .nan
  | .inf s => .inf (!s)
  | .fin s m e => .fin (!s) m e

def FVal.abs : FVal → FVal
  | .nan => .nan
  | .inf _ => .inf false
  | .fin _ m e => .fin false m e

/-- The signed integer a finite value is at the exponent e' ≤ e. -/
def scaledInt (neg : Bool) (m : Nat) (e e' : Int) : Int :=
  let a : Int := (m * 2 ^ (e - e').toNat : Nat)
  if neg then -a else a

/-- Exact addition; x + (-x) is +0 and -0 + -0 is -0 (R47). -/
def FVal.add (a b : FVal) : FVal :=
  match a, b with
  | .nan, _ => .nan
  | _, .nan => .nan
  | .inf s, .inf t => if s = t then .inf s else .nan
  | .inf s, .fin _ _ _ => .inf s
  | .fin _ _ _, .inf t => .inf t
  | .fin s m e, .fin t n d =>
    let x := min e d
    let sum := scaledInt s m e x + scaledInt t n d x
    if sum = 0 then .fin (s && t && m == 0 && n == 0) 0 x
    else .fin (decide (sum < 0)) sum.natAbs x

def FVal.sub (a b : FVal) : FVal := FVal.add a (FVal.neg b)

/-- Exact multiplication; 0 * infinity is NaN (R47). -/
def FVal.mul (a b : FVal) : FVal :=
  match a, b with
  | .nan, _ => .nan
  | _, .nan => .nan
  | .inf s, .inf t => .inf (s ^^ t)
  | .inf s, .fin t n _ => if n = 0 then .nan else .inf (s ^^ t)
  | .fin s m _, .inf t => if m = 0 then .nan else .inf (s ^^ t)
  | .fin s m e, .fin t n d => .fin (s ^^ t) (m * n) (e + d)

/-- The number of quotient or root bits kept before the sticky bit: more than any format of the package rounds to. -/
def guardBits : Nat := 70

/-- Division to more bits than any rounding here reads, the last one sticky, so that one rounding of it is the
rounding of the exact quotient; x / 0 is infinity and 0 / 0 is NaN (IEEE 754-2019, R47). -/
def FVal.div (a b : FVal) : FVal :=
  match a, b with
  | .nan, _ => .nan
  | _, .nan => .nan
  | .inf _, .inf _ => .nan
  | .inf s, .fin t _ _ => .inf (s ^^ t)
  | .fin s _ _, .inf t => .fin (s ^^ t) 0 0
  | .fin s m e, .fin t n d =>
    if n = 0 then (if m = 0 then .nan else .inf (s ^^ t))
    else if m = 0 then .fin (s ^^ t) 0 0
    else
      let k := guardBits + Nat.log2 n
      let q := m * 2 ^ k / n
      let sticky := if m * 2 ^ k % n = 0 then 0 else 1
      .fin (s ^^ t) (2 * q + sticky) (e - d - (k : Int) - 1)

/-- The integer square root by bits: the largest r with r^2 ≤ n, found from bit `fuel - 1` down. -/
def isqrtBits (n : Nat) : Nat → Nat → Nat
  | 0, r => r
  | b + 1, r => if (r + 2 ^ b) * (r + 2 ^ b) ≤ n then isqrtBits n b (r + 2 ^ b) else isqrtBits n b r

def isqrt (n : Nat) : Nat := isqrtBits n (Nat.log2 n / 2 + 1) 0

/-- Square root with a sticky last bit; of -0 it is -0, of a negative number NaN. -/
def FVal.sqrt (a : FVal) : FVal :=
  match a with
  | .nan => .nan
  | .inf s => if s then .nan else .inf false
  | .fin s m e =>
    if m = 0 then .fin s 0 0
    else if s then .nan
    else
      let k := 2 * guardBits + (if e % 2 = 0 then 0 else 1)
      let n := m * 2 ^ k
      let r := isqrt n
      let sticky := if r * r = n then 0 else 1
      .fin false (2 * r + sticky) ((e - (k : Int)) / 2 - 1)

def FVal.isZero : FVal → Bool
  | .fin _ m _ => m == 0
  | _ => false

def FVal.isNan : FVal → Bool
  | .nan => true
  | _ => false

def FVal.isFinite : FVal → Bool
  | .fin _ _ _ => true
  | _ => false

def FVal.isNeg : FVal → Bool
  | .nan => false
  | .inf s => s
  | .fin s _ _ => s

/-- Exact comparison `a < b` of two values neither of which is NaN; -0 equals +0 (R47). -/
def FVal.lt (a b : FVal) : Bool :=
  match a, b with
  | .nan, _ => false
  | _, .nan => false
  | .inf s, .inf t => s && !t
  | .inf s, .fin _ _ _ => s
  | .fin _ _ _, .inf t => !t
  | .fin s m e, .fin t n d =>
    let x := min e d
    decide (scaledInt s m e x < scaledInt t n d x)

def FVal.eqv (a b : FVal) : Bool := !a.isNan && !b.isNan && !(FVal.lt a b) && !(FVal.lt b a)

def FVal.le (a b : FVal) : Bool := FVal.lt a b || FVal.eqv a b

/-- floor(log2 |v|) of a finite nonzero value. -/
def FVal.floorLog2 : FVal → Int
  | .fin _ m e => e + (Nat.log2 m : Int)
  | _ => 0

/-- The exact integer or power of two m * 2^e as a value. -/
def FVal.ofInt (i : Int) : FVal := .fin (decide (i < 0)) i.natAbs 0

def FVal.pow2 (e : Int) : FVal := .fin false 1 e

/-- Multiplication by 2^k, exact. -/
def FVal.scale (k : Int) : FVal → FVal
  | .nan => .nan
  | .inf s => .inf s
  | .fin s m e => .fin s m (e + k)

/-! FP32 operations: decode, combine exactly, round once to nearest even. -/

def f32 (x : Word) : FVal := fmtF32.decode x.toNat
def toF32 (v : FVal) : Word := BitVec.ofNat 32 (fmtF32.round .even v)
def nanF32 : Word := 0x7FC00000#32

def fAdd (a b : Word) : Word := toF32 (FVal.add (f32 a) (f32 b))
def fSub (a b : Word) : Word := toF32 (FVal.sub (f32 a) (f32 b))
def fMul (a b : Word) : Word := toF32 (FVal.mul (f32 a) (f32 b))
/-- a * b + c with one rounding; an infinite zero product is NaN even when the addend is NaN (R47). -/
def fFma (a b c : Word) : Word := toF32 (FVal.add (FVal.mul (f32 a) (f32 b)) (f32 c))
def fDiv (a b : Word) : Word := toF32 (FVal.div (f32 a) (f32 b))
def fSqrt (a : Word) : Word := toF32 (FVal.sqrt (f32 a))
def fNeg (a : Word) : Word := a ^^^ 0x80000000#32
def fAbs (a : Word) : Word := a &&& 0x7FFFFFFF#32
def fLt (a b : Word) : Bool := FVal.lt (f32 a) (f32 b)
def fLe (a b : Word) : Bool := FVal.le (f32 a) (f32 b)
def fEq (a b : Word) : Bool := FVal.eqv (f32 a) (f32 b)
def fIsNan (a : Word) : Bool := (f32 a).isNan
def fIsFinite (a : Word) : Bool := (f32 a).isFinite
def fOfNat (n : Nat) : Word := toF32 (.fin false n 0)
def fOfInt (i : Int) : Word := toF32 (FVal.ofInt i)

/-- IEEE 754-2019 minimum: -0 is below +0, NaN if either operand is NaN (R47). -/
def fMin (a b : Word) : Word :=
  if fIsNan a || fIsNan b then nanF32
  else if fLt a b then a
  else if fLt b a then b
  else if (f32 a).isNeg then a else b

/-- IEEE 754-2019 maximum (R47). -/
def fMax (a b : Word) : Word :=
  if fIsNan a || fIsNan b then nanF32
  else if fLt a b then b
  else if fLt b a then a
  else if (f32 a).isNeg then b else a

/-- FP32 to BF16 and FP16 by round-to-nearest-even, and back exactly (R42, R47). -/
def f32ToBF16 (x : Word) : BitVec 16 := BitVec.ofNat 16 (fmtBF16.round .even (f32 x))
def f32ToF16 (x : Word) : BitVec 16 := BitVec.ofNat 16 (fmtF16.round .even (f32 x))
def bf16ToF32 (x : BitVec 16) : Word := toF32 (fmtBF16.decode x.toNat)
def f16ToF32 (x : BitVec 16) : Word := toF32 (fmtF16.decode x.toNat)

/-! FP64 operations, which occur only in the Helm's decay tables and lazy catch-up (R25, R264 to R266). -/

def f64 (x : Dword) : FVal := fmtF64.decode x.toNat
def toF64 (v : FVal) : Dword := BitVec.ofNat 64 (fmtF64.round .even v)
def dAdd (a b : Dword) : Dword := toF64 (FVal.add (f64 a) (f64 b))
def dMul (a b : Dword) : Dword := toF64 (FVal.mul (f64 a) (f64 b))
def dDiv (a b : Dword) : Dword := toF64 (FVal.div (f64 a) (f64 b))

/-- An exact value rounded to an integer by round-to-nearest-even; infinities and NaN have none. -/
def FVal.toIntEven : FVal → Option Int
  | .fin s m e =>
    let n : Int := if 0 ≤ e then (m * 2 ^ e.toNat : Nat) else (roundShift .even m (-e).toNat : Nat)
    some (if s then -n else n)
  | _ => none

/-- The floor of an exact finite value. -/
def FVal.floorInt : FVal → Int
  | .fin s m e =>
    let n : Int := scaledInt s m e (min e 0)
    n / (2 ^ (-(min e 0)).toNat : Nat)
  | _ => 0

/-- FP32 to an integer target: nearest even, saturating at the target's limits, 0 for NaN (R47). -/
def f32ToIntSat (lo hi : Int) (x : Word) : Int :=
  match f32 x with
  | .nan => 0
  | .inf s => if s then lo else hi
  | v => match v.toIntEven with
    | some n => max lo (min hi n)
    | none => 0

end Sys2Proof.Machine
end

