-- ==== Sys2Proof/Machine/Formats.lean ====
section
/-! DEFINITION. The storage formats of the package and every conversion between them: MX blocks, compensated pairs,
heritage formats, integers, and the tumbler generator (02_number_formats.md). -/
namespace Sys2Proof.Machine

/-! The tumbler generator (R44 to R46). -/

/-- The rotation counts and constants of the four rounds (R45). -/
def tumblerP : List Nat := [7, 11, 19, 23]
def tumblerQ : List Nat := [13, 5, 17, 29]
def tumblerC : List Word := [0x9E3779B9#32, 0x3C6EF372#32, 0xDAA66D2B#32, 0x78DDE6E4#32]

/-- The four words of the generator's state. -/
structure Tumble where
  x0 : Word
  x1 : Word
  x2 : Word
  x3 : Word
deriving DecidableEq, Repr

/-- One round (R45). -/
def tumblerRound (k : Word) (p q : Nat) (c : Word) (t : Tumble) : Tumble :=
  let x0 := t.x0 + t.x1
  let x3 := (t.x3 ^^^ x0).rotateLeft p
  let x2 := t.x2 + x3
  let x1 := (t.x1 ^^^ x2).rotateLeft q
  ⟨x0 + k + c, x1, x2, x3⟩

/-- The draw of an element (R44, R45): nothing but its four inputs decides it. -/
def tumbler (seed : Dword) (step tensorId : Word) (index : Nat) : Word :=
  let k0 := seed.truncate 32
  let k1 := (seed >>> 32).truncate 32
  let i : Dword := BitVec.ofNat 64 index
  let t0 : Tumble := ⟨i.truncate 32 ^^^ k0, (i >>> 32).truncate 32 ^^^ k1, step, tensorId⟩
  let t := (List.range 4).foldl (fun t r =>
    tumblerRound (if r % 2 = 0 then k0 else k1) (tumblerP.getD r 0) (tumblerQ.getD r 0) (tumblerC.getD r 0#32) t) t0
  t.x1 ^^^ t.x3

/-- The rounding a conversion command names (R42): the element's draw is given by its linear index. -/
inductive ConvMode where
  | rne
  | stoch (seed : Dword) (step tensorId : Word)
deriving DecidableEq, Repr

/-- The magnitude code of |v| on the grid of `f` in the named mode, the exponent range unbounded above (R40, R43). -/
def Fmt.convMag (f : Fmt) (mode : ConvMode) (index : Nat) (m : Nat) (e : Int) : Nat :=
  match mode with
  | .rne => f.roundMag .even m e
  | .stoch seed step tid => f.roundMagStoch (tumbler seed step tid index).toNat m e

/-- FP32 to BF16 in the named mode; a magnitude rounded above the largest finite value is infinity (R42, R43). -/
def f32ToBF16Mode (mode : ConvMode) (index : Nat) (x : Word) : BitVec 16 :=
  match f32 x with
  | .fin s m e => BitVec.ofNat 16 (fmtBF16.signed s (min (fmtBF16.convMag mode index m e) fmtBF16.infCode))
  | v => BitVec.ofNat 16 (fmtBF16.round .even v)

/-! MX elements and blocks (R24, R27 to R33). -/

/-- The three MX element formats, codes 0x4, 0x5 and 0x6. -/
inductive MxKind where
  | e2m3
  | e3m2
  | e2m1
deriving DecidableEq, Repr

def MxKind.fmt : MxKind → Fmt
  | .e2m3 => fmtE2M3
  | .e3m2 => fmtE3M2
  | .e2m1 => fmtE2M1

/-- The constant v of R30: an element's unit is 2^-v. -/
def MxKind.v : MxKind → Nat
  | .e2m3 => 3
  | .e3m2 => 4
  | .e2m1 => 1

/-- emax of R39. -/
def MxKind.emax : MxKind → Nat
  | .e2m3 => 2
  | .e3m2 => 4
  | .e2m1 => 2

def MxKind.bits : MxKind → Nat
  | .e2m3 => 6
  | .e3m2 => 6
  | .e2m1 => 4

/-- Bytes of one 32-element block (R27). -/
def MxKind.blockBytes (k : MxKind) : Nat := k.bits * 4

def MxKind.neg (k : MxKind) (code : Nat) : Bool := code.testBit (k.bits - 1)

/-- The integer magnitude I of an element code (Exact block products). -/
def MxKind.mag (k : MxKind) (code : Nat) : Nat :=
  let body := code % 2 ^ (k.bits - 1)
  let w := k.fmt.mbits
  let e := body / 2 ^ w
  let m := body % 2 ^ w
  if e = 0 then m else (2 ^ w + m) * 2 ^ (e - 1)

/-- ±I of an element code. -/
def MxKind.int (k : MxKind) (code : Nat) : Int :=
  if k.neg code then -(k.mag code : Int) else (k.mag code : Int)

/-- S, the exact integer dot product of two blocks (R32). -/
def MxKind.dot (k : MxKind) (as bs : List Nat) : Int :=
  (List.zipWith (fun a b => k.int a * k.int b) as bs).foldl (· + ·) 0

/-- The block result S * 2^E in FP32 with one rounding; a scale byte 0xFF makes it NaN and S = 0 gives +0 (R33). -/
def mxBlockResult (k : MxKind) (s : Int) (sa sb : Nat) (oa ob : Int) : Word :=
  if sa = 255 ∨ sb = 255 then nanF32
  else if s = 0 then 0#32
  else toF32 (.fin (decide (s < 0)) s.natAbs
    (((sa : Int) - 127) + ((sb : Int) - 127) + oa + ob - 2 * (k.v : Int)))

/-- One MX block: its scale byte and 32 element codes. -/
structure MxBlock where
  scale : Nat
  codes : List Nat
deriving DecidableEq, Repr

/-- The block result of two blocks (R32, R33). -/
def MxBlock.result (k : MxKind) (a b : MxBlock) (oa ob : Int) : Word :=
  mxBlockResult k (k.dot a.codes b.codes) a.scale b.scale oa ob

/-- The block result of a compensated pair: hh + (hl + lh), two FP32 additions in that order (R38). -/
def pairBlockResult (ahi alo bhi blo : MxBlock) (oa ob : Int) : Word :=
  let hh := MxBlock.result .e2m3 ahi bhi oa ob
  let hl := MxBlock.result .e2m3 ahi blo oa ob
  let lh := MxBlock.result .e2m3 alo bhi oa ob
  fAdd hh (fAdd hl lh)

/-- The exact value of an element of a block with scale byte `s` under the outer scale 2^o (R30). -/
def MxKind.value (k : MxKind) (code s : Nat) (o : Int) : FVal :=
  if s = 255 then .nan else .fin (k.neg code) (k.mag code) ((s : Int) - 127 + o - (k.v : Int))

/-- An MX element read by a vector engine: one rounding to FP32, the sign of a zero kept (R35). -/
def MxKind.read (k : MxKind) (code s : Nat) (o : Int) : Word := toF32 (k.value code s o)

/-- The block exponent X of R39 for the largest magnitude `amax`. -/
def mxBlockExp (k : MxKind) (o : Int) (vals : List FVal) : Int :=
  let amax := vals.foldl (fun a v => if FVal.lt a v.abs then v.abs else a) (.fin false 0 0)
  if amax.isZero then -127
  else max (-127) (min 127 (amax.floorLog2 - o - (k.emax : Int)))

/-- The largest finite magnitude code of an element. -/
def MxKind.maxCode (k : MxKind) : Nat := 2 ^ (k.bits - 1) - 1

/-- One element converted under block exponent X: rounded onto the grid, then saturated, the sign kept (R40). -/
def MxKind.conv (k : MxKind) (mode : ConvMode) (index : Nat) (x o : Int) (v : FVal) : Nat :=
  match v with
  | .fin s m e =>
    let mag := min (k.fmt.convMag mode index m (e - (x + o))) k.maxCode
    if s then mag + 2 ^ (k.bits - 1) else mag
  | _ => 0

/-- The values of a block within its length converted to an MX block; a non-finite value makes the scale 0xFF and
every element 0x00 (R39 to R41). The first value has linear index `index`; positions beyond the length hold +0 (R28). -/
def mxConvertBlock (k : MxKind) (mode : ConvMode) (index : Nat) (o : Int) (vals : List FVal) : MxBlock :=
  if vals.all FVal.isFinite then
    let x := mxBlockExp k o vals
    let codes := vals.zipIdx.map fun p => k.conv mode (index + p.2) x o p.1
    ⟨(x + 127).toNat, codes ++ List.replicate (32 - codes.length) 0⟩
  else ⟨255, List.replicate 32 0⟩

/-- A block of a compensated pair, hi and lo (R37): lo is the residual under the pair's one outer scale. -/
def pairConvertBlock (o : Int) (vals : List FVal) : MxBlock × MxBlock :=
  let hi := mxConvertBlock .e2m3 .rne 0 o vals
  if hi.scale = 255 then (hi, hi)
  else
    let resid := List.zipWith (fun v c => FVal.sub v (MxKind.e2m3.value c hi.scale o)) vals hi.codes
    (hi, mxConvertBlock .e2m3 .rne 0 o resid)

/-! Heritage formats (R50 to R54, R515). -/

/-- The two heritage element formats, codes 0xD and 0xE. -/
inductive HerKind where
  | e4m3
  | e5m2
deriving DecidableEq, Repr

/-- The unscaled code value of a heritage element (R24). -/
def HerKind.value : HerKind → Nat → FVal
  | .e4m3, c => if c % 128 = 127 then .nan else fmtE4M3.finiteVal c
  | .e5m2, c => fmtE5M2.decode c

/-- A heritage element read outside a heritage product: code value times d, one rounding (R515). -/
def HerKind.read (k : HerKind) (c : Nat) (d : Word) : Word := toF32 (FVal.mul (k.value c) (f32 d))

/-- The magnitude code of the largest finite value: 448 for E4M3, 57,344 for E5M2. -/
def HerKind.maxCode : HerKind → Nat
  | .e4m3 => 0x7E
  | .e5m2 => 0x7B

def HerKind.nanCode : HerKind → Nat
  | .e4m3 => 0x7F
  | .e5m2 => 0x7E

def HerKind.fmt : HerKind → Fmt
  | .e4m3 => fmtE4M3
  | .e5m2 => fmtE5M2

/-- Heritage conversion of FP32 x with KW-400 scale d: x * rcp(d), rounded once with ties away, saturating (R54). -/
def HerKind.conv (k : HerKind) (x d : Word) : Nat :=
  let rcp := toF32 (FVal.div (.fin false 1 0) (f32 d))
  match FVal.mul (f32 x) (f32 rcp) with
  | .nan => k.nanCode
  | .inf s => k.fmt.signed s k.maxCode
  | .fin s m e => k.fmt.signed s (min (k.fmt.roundMag .away m e) k.maxCode)

/-- FP32 addition followed by the heritage flush of a rounded result below 2^-126 (R51, R52).
DEDUCED, log entry 16. -/
def heritageAdd (a b : Word) : Word :=
  let r := fAdd a b
  if (r &&& 0x7F800000#32) = 0#32 then r &&& 0x80000000#32 else r

/-- round_kw into an IEEE output format: ties away from zero, results below the smallest normal flushed (R53).
DEDUCED, log entry 16. -/
def Fmt.roundKw (f : Fmt) (v : FVal) : Nat :=
  match v with
  | .fin s m e =>
    let mag := f.roundMag .away m e
    f.signed s (if mag < 2 ^ f.mbits then 0 else min mag f.infCode)
  | _ => f.round .even v

/-- The sums of one heritage product over K elements: chunks of 64 in ascending k, then the chunk sums (R51). -/
def heritageChunks (products : List Word) (fuel : Nat) : List Word :=
  match fuel with
  | 0 => []
  | n + 1 =>
    if products.isEmpty then []
    else (products.take 64).foldl heritageAdd 0#32 :: heritageChunks (products.drop 64) n

/-- The accumulator A of a heritage product (R51). -/
def heritageDot (k : HerKind) (as bs : List Nat) : Word :=
  let products := List.zipWith (fun a b => toF32 (FVal.mul (k.value a) (k.value b))) as bs
  (heritageChunks products (products.length + 1)).foldl heritageAdd 0#32

/-- The output value of a heritage product before its code is formed: A * c with c rounded to FP32 (R53). -/
def heritageOut (a scaleA scaleB : Word) : FVal := FVal.mul (f32 a) (f32 (fMul scaleA scaleB))

/-! Outer scales (R30). -/

/-- The exponent o of an outer scale 2^o, where the word is a positive normal power of two (R30). -/
def outerExp? (x : Word) : Option Int :=
  let e : Nat := x.toNat / 2 ^ 23
  if x.toNat % 2 ^ 23 = 0 ∧ 1 ≤ e ∧ e ≤ 254 then some ((e : Int) - 127) else none

/-- A positive normal FP32 value, which a KW-400 scale must be (R50). -/
def isPositiveNormal (x : Word) : Bool :=
  let e : Nat := x.toNat / 2 ^ 23
  decide (1 ≤ e ∧ e ≤ 254)

end Sys2Proof.Machine
end

