-- ==== Sys2Proof/Machine/RegTable.lean ====
section
/-! DEFINITION. The register tables of every page, field by field with access code and reset value, and the address of
every register (R4, R476, R480, R481, and the page tables of each chapter). -/
namespace Sys2Proof.Machine

/-- The access codes of R5; reserved bits are those no field covers. -/
inductive Access where
  | ro
  | rw
  | w1c
  | w1s
  | wo
  | rwo
deriving DecidableEq, Repr

/-- One field of a register: bits [hi:lo], access, reset value, and the encodings a write may place in it (R488); `near` says that a
value outside them is taken as the nearer limit, `floor` what 0 is taken as. DEDUCED, log entry 44. -/
structure RegField where
  hi : Nat
  lo : Nat
  acc : Access
  reset : Nat
  least : Nat := 0
  most : Nat := 0xFFFFFFFF
  near : Bool := false
  floor : Nat := 0
deriving DecidableEq, Repr

/-! Fields by their access codes; `within` takes only the encodings given, `nearest` the nearer limit. -/

def RegField.ro (hi lo reset : Nat) : RegField := { hi, lo, acc := .ro, reset }
def RegField.rw (hi lo reset : Nat) : RegField := { hi, lo, acc := .rw, reset }
def RegField.w1c (hi lo reset : Nat) : RegField := { hi, lo, acc := .w1c, reset }
def RegField.w1s (hi lo reset : Nat) : RegField := { hi, lo, acc := .w1s, reset }
def RegField.wo (hi lo reset : Nat) : RegField := { hi, lo, acc := .wo, reset }
def RegField.rwo (hi lo reset : Nat) : RegField := { hi, lo, acc := .rwo, reset }
def RegField.within (hi lo reset least most : Nat) : RegField := { hi, lo, acc := .rw, reset, least, most }
def RegField.nearest (hi lo reset least most : Nat) : RegField := { hi, lo, acc := .rw, reset, least, most, near := true }

/-- An RW field where 0 is taken as 1 and a value above `most` changes nothing. -/
def RegField.positive (hi lo reset most : Nat) : RegField := { hi, lo, acc := .rw, reset, most, floor := 1 }

/-- `count` registers of one shape, the n-th at offset off + stride * n of its page. -/
structure RegRow where
  off : Nat
  count : Nat
  stride : Nat
  fields : List RegField
deriving DecidableEq, Repr

/-- The type code of R480. -/
def pageCode : PageType → Nat
  | .hub => 0x001
  | .pwr => 0x002
  | .thm => 0x003
  | .irq => 0x004
  | .sec => 0x005
  | .mgt => 0x006
  | .log => 0x007
  | .seq => 0x008
  | .cmp => 0x009
  | .hlm => 0x00A
  | .sxt => 0x00B
  | .red => 0x00C
  | .hng => 0x00D
  | .fab => 0x00E
  | .cht => 0x00F
  | .mem => 0x010
  | .die => 0x011
  | .clu => 0x012
  | .chk => 0x013
  | .sky => 0x014
  | .hot => 0x015
  | .vtb => 0x016

/-- The number of instances of each type (R480). -/
def pageInstances : PageType → Nat
  | .hub => 1
  | .pwr => 1
  | .thm => 1
  | .irq => 1
  | .sec => 1
  | .mgt => 1
  | .log => 1
  | .seq => 2
  | .cmp => 1
  | .hlm => 1
  | .sxt => 1
  | .red => 1
  | .hng => 16
  | .fab => 36
  | .cht => 1
  | .mem => 24
  | .die => 12
  | .clu => 2400
  | .chk => 1
  | .sky => 1
  | .hot => 1
  | .vtb => 1

/-- Every block type of the directory. -/
def allPageTypes : List PageType :=
  [.hub, .pwr, .thm, .irq, .sec, .mgt, .log, .seq, .cmp, .hlm, .sxt, .red, .hng, .fab, .cht, .mem, .die, .clu, .chk, .sky, .hot, .vtb]

/-- The block type of a code; none for a code outside the directory (R477). -/
def pageTypeOf (code : Nat) : Option PageType := allPageTypes.find? fun t => pageCode t = code

/-- The page address of instance `i` of a block type (R476): twelve bits of the address give the instance. -/
def pageAddr (t : PageType) (i : Nat) : Nat := 0x1000000 * pageCode t + 0x1000 * (i % 4096)

/-- The common header of every page (R481). -/
def headerRows : List RegRow :=
  [⟨0x000, 1, 4, [.ro 11 0 0, .ro 27 12 0, .ro 31 28 1]⟩,
   ⟨0x004, 1, 4, [.ro 15 0 1, .ro 19 16 1, .ro 23 20 1]⟩,
   ⟨0x008, 1, 4, [.ro 7 0 0, .ro 15 8 0]⟩,
   ⟨0x00C, 1, 4, [.ro 5 0 0]⟩,
   ⟨0x010, 1, 4, [.rw 0 0 0]⟩,
   ⟨0x014, 1, 4, [.ro 3 0 0, .ro 15 8 0, .ro 19 16 0, .ro 23 20 0]⟩,
   ⟨0x018, 1, 4, [.wo 3 0 0, .wo 15 8 0]⟩,
   ⟨0x020, 1, 4, [.w1c 31 0 0]⟩,
   ⟨0x024, 1, 4, [.rw 31 0 0]⟩,
   ⟨0x028, 1, 4, [.w1s 31 0 0]⟩,
   ⟨0x02C, 1, 4, [.ro 15 0 0, .ro 20 16 0]⟩]

/-- The block registers of the HUB page. -/
def hubRows : List RegRow :=
  [⟨0x040, 1, 4, [.ro 15 0 4644, .ro 23 16 161]⟩,
   ⟨0x044, 1, 4, [.ro 7 0 128, .ro 15 8 200, .ro 19 16 10, .ro 24 20 20]⟩,
   ⟨0x048, 1, 4, [.ro 7 0 12, .ro 15 8 24, .ro 23 16 36]⟩,
   ⟨0x04C, 1, 4, [.ro 18 0 0]⟩,
   ⟨0x050, 1, 4, [.rwo 3 0 0, .ro 7 4 1, .ro 11 8 1, .ro 15 12 1, .ro 16 16 0, .ro 17 17 0]⟩,
   ⟨0x054, 1, 4, [.ro 31 0 0]⟩,
   ⟨0x058, 1, 4, [.ro 3 0 0, .ro 8 8 0, .ro 20 16 0]⟩,
   ⟨0x05C, 1, 4, [.ro 31 0 0]⟩,
   ⟨0x080, 1, 4, [.ro 27 0 0]⟩,
   ⟨0x084, 1, 4, [.ro 7 0 0]⟩,
   ⟨0x088, 1, 4, [.ro 3 0 0, .ro 15 8 0, .ro 31 16 0]⟩,
   ⟨0x200, 32, 16, [.wo 31 0 0]⟩,
   ⟨0x204, 32, 16, [.wo 31 0 0]⟩,
   ⟨0x208, 32, 16, [.ro 31 0 0]⟩,
   ⟨0x20C, 32, 16, [.ro 31 0 0]⟩,
   ⟨0x400, 32, 4, [.rw 4 0 0, .ro 14 8 0, .ro 16 16 1, .ro 17 17 0, .w1c 18 18 0, .w1c 19 19 0, .ro 24 20 0]⟩]

/-- The block registers of the PWR page. -/
def pwrRows : List RegRow :=
  [⟨0x040, 1, 4, [.ro 15 0 0, .ro 31 16 0]⟩,
   ⟨0x044, 1, 4, [.ro 2 0 0, .ro 6 4 0, .ro 31 16 0]⟩,
   ⟨0x048, 1, 4, [.rw 15 0 0xB3B0, .positive 23 16 50 255]⟩,
   ⟨0x04C, 1, 4, [.rw 15 0 0xABE0, .positive 23 16 10 255]⟩,
   ⟨0x050, 1, 4, [.rw 15 0 0xA410, .positive 23 16 10 255]⟩,
   ⟨0x054, 1, 4, [.rw 15 0 0x9C40, .positive 23 16 4 255]⟩,
   ⟨0x058, 1, 4, [.rw 15 0 0x9470, .positive 23 16 4 255]⟩,
   ⟨0x05C, 1, 4, [.nearest 11 0 1000 500 4000, .positive 25 16 10 1000]⟩,
   ⟨0x060, 1, 4, [.nearest 15 0 9600 2000 9600]⟩,
   ⟨0x064, 1, 4, [.within 11 0 2000 2000 3300, .within 27 16 3300 2000 3300]⟩,
   ⟨0x068, 1, 4, [.ro 11 0 3300]⟩,
   ⟨0x06C, 1, 4, [.ro 0 0 0, .ro 1 1 0, .ro 2 2 0, .ro 3 3 0]⟩,
   ⟨0x070, 1, 4, [.ro 15 0 0]⟩]

/-- The block registers of the THM page. -/
def thmRows : List RegRow :=
  [⟨0x040, 1, 4, [.nearest 7 0 95 80 105, .within 15 8 110 100 115, .positive 19 16 5 15]⟩,
   ⟨0x044, 12, 4, [.ro 7 0 0, .ro 15 8 0, .ro 27 16 3300, .ro 31 31 0]⟩,
   ⟨0x074, 1, 4, [.ro 7 0 0, .ro 15 8 0]⟩,
   ⟨0x078, 1, 4, [.ro 7 0 0]⟩,
   ⟨0x07C, 1, 4, [.within 15 0 6000 2000 9600]⟩]

/-- The block registers of the IRQ page. -/
def irqRows : List RegRow :=
  [⟨0x040, 1, 4, [.ro 10 0 1024, .ro 23 16 32, .ro 31 24 28]⟩,
   ⟨0x044, 1, 4, [.wo 9 0 0]⟩,
   ⟨0x048, 1, 4, [.wo 9 0 0]⟩,
   ⟨0x04C, 1, 4, [.ro 4 0 0, .ro 12 8 0]⟩,
   ⟨0x050, 5, 4, [.positive 15 0 100 0xFFFF]⟩,
   ⟨0x100, 28, 16, [.rw 3 0 0]⟩,
   ⟨0x104, 28, 16, [.ro 15 0 0xFFFF]⟩,
   ⟨0x108, 28, 16, [.wo 9 0 0]⟩,
   ⟨0x10C, 28, 16, [.ro 3 0 0, .ro 7 4 0]⟩,
   ⟨0x300, 32, 4, [.rw 27 0 0]⟩,
   ⟨0x380, 32, 4, [.rw 15 0 0, .ro 31 16 0]⟩,
   ⟨0x400, 32, 4, [.w1c 31 0 0]⟩,
   ⟨0x480, 32, 4, [.ro 31 0 0]⟩,
   ⟨0x600, 128, 4, [.rw 3 0 0, .rw 7 4 0, .rw 11 8 0, .rw 15 12 0, .rw 19 16 0, .rw 23 20 0, .rw 27 24 0, .rw 31 28 0]⟩,
   ⟨0x800, 256, 4, [.ro 7 0 0, .ro 15 8 0, .ro 23 16 0, .ro 31 24 0]⟩,
   ⟨0xC00, 75, 4, [.ro 31 0 0]⟩]

/-- The block registers of the SEC page. -/
def secRows : List RegRow :=
  [⟨0x040, 1, 4, [.ro 1 0 0, .ro 2 2 0, .ro 3 3 0, .ro 11 4 0]⟩,
   ⟨0x044, 1, 4, [.ro 2 0 0, .ro 6 4 0, .ro 14 8 0, .ro 15 15 0, .ro 23 16 0]⟩,
   ⟨0x048, 1, 4, [.ro 31 0 0]⟩,
   ⟨0x04C, 1, 4, [.ro 31 0 0]⟩,
   ⟨0x050, 4, 4, [.ro 31 0 0]⟩,
   ⟨0x060, 1, 4, [.ro 7 0 0, .ro 11 8 0, .ro 12 12 0, .ro 15 13 0]⟩,
   ⟨0x064, 1, 4, [.ro 3 0 0]⟩]

/-- The block registers of the MGT page. -/
def mgtRows : List RegRow :=
  [⟨0x040, 1, 4, [.ro 0 0 0, .ro 1 1 0, .ro 2 2 0]⟩,
   ⟨0x044, 1, 4, [.ro 31 0 0]⟩,
   ⟨0x048, 1, 4, [.ro 15 0 0]⟩,
   ⟨0x04C, 1, 4, [.ro 31 0 0]⟩,
   ⟨0x050, 1, 4, [.ro 15 0 0]⟩,
   ⟨0x054, 1, 4, [.rw 0 0 0, .rw 1 1 0]⟩]

/-- The block registers of the LOG page. -/
def logRows : List RegRow :=
  [⟨0x040, 1, 4, [.ro 15 0 4096, .ro 31 16 256]⟩,
   ⟨0x044, 1, 4, [.ro 31 0 0]⟩,
   ⟨0x048, 1, 4, [.ro 31 0 0]⟩,
   ⟨0x04C, 1, 4, [.rw 31 3 0]⟩,
   ⟨0x050, 1, 4, [.rw 31 0 0]⟩,
   ⟨0x054, 1, 4, [.ro 28 0 0]⟩,
   ⟨0x058, 1, 4, [.ro 0 0 1, .ro 1 1 0, .ro 2 2 0, .w1c 3 3 0, .w1c 4 4 0, .ro 5 5 0, .ro 6 6 0, .ro 7 7 0]⟩,
   ⟨0x05C, 1, 4, [.nearest 11 0 64 16 1024]⟩,
   ⟨0x060, 1, 4, [.ro 12 0 0]⟩,
   ⟨0x064, 1, 4, [.rw 0 0 0, .rw 1 1 1]⟩,
   ⟨0x068, 4, 4, [.rw 31 0 0]⟩,
   ⟨0x078, 1, 4, [.rw 31 0 0]⟩,
   ⟨0x07C, 1, 4, [.rw 31 0 0]⟩,
   ⟨0x080, 1, 4, [.ro 31 0 0]⟩,
   ⟨0x084, 1, 4, [.ro 31 0 0]⟩,
   ⟨0x088, 1, 4, [.ro 31 0 0]⟩,
   ⟨0x08C, 1, 4, [.ro 31 0 0]⟩,
   ⟨0x090, 1, 4, [.ro 31 0 0]⟩,
   ⟨0x094, 1, 4, [.ro 31 0 0]⟩,
   ⟨0x098, 1, 4, [.ro 31 0 0]⟩] ++
  [⟨0x09C, 1, 4, [.ro 11 0 0]⟩]

/-- The block registers of the SEQ page. -/
def seqRows : List RegRow :=
  [⟨0x040, 1, 4, [.rw 31 12 0]⟩,
   ⟨0x044, 1, 4, [.rw 8 0 0]⟩,
   ⟨0x048, 1, 4, [.nearest 4 0 6 6 20]⟩,
   ⟨0x04C, 1, 4, [.rw 19 0 0]⟩,
   ⟨0x050, 1, 4, [.rw 19 0 0]⟩,
   ⟨0x054, 1, 4, [.rw 31 6 0]⟩,
   ⟨0x058, 1, 4, [.rw 8 0 0]⟩,
   ⟨0x05C, 1, 4, [.within 15 0 0 0 65534]⟩,
   ⟨0x060, 1, 4, [.ro 31 0 0]⟩,
   ⟨0x064, 1, 4, [.wo 3 0 0, .wo 31 8 0]⟩,
   ⟨0x068, 1, 4, [.ro 31 0 1]⟩,
   ⟨0x06C, 1, 4, [.ro 31 0 0]⟩,
   ⟨0x070, 1, 4, [.ro 3 0 0, .ro 6 4 0]⟩,
   ⟨0x074, 1, 4, [.ro 31 6 0]⟩,
   ⟨0x078, 1, 4, [.ro 8 0 0]⟩,
   ⟨0x07C, 1, 4, [.ro 31 0 0]⟩,
   ⟨0x080, 1, 4, [.ro 31 0 0]⟩,
   ⟨0x084, 1, 4, [.ro 31 0 0]⟩,
   ⟨0x088, 1, 4, [.rw 0 0 0, .rw 15 8 50, .w1s 16 16 0]⟩,
   ⟨0x08C, 1, 4, [.ro 0 0 0, .ro 1 1 0, .ro 2 2 0, .ro 3 3 0]⟩] ++
  [⟨0x090, 1, 4, [.ro 31 0 0]⟩,
   ⟨0x094, 1, 4, [.ro 31 0 0]⟩,
   ⟨0x098, 1, 4, [.ro 31 0 0]⟩,
   ⟨0x0C0, 16, 4, [.ro 31 0 0]⟩,
   ⟨0x100, 16, 4, [.rw 31 0 0]⟩]

/-- The block registers of the CMP page. -/
def cmpRows : List RegRow :=
  [⟨0x040, 1, 4, [.ro 3 0 8, .ro 7 4 8, .ro 15 8 128, .ro 19 16 4]⟩,
   ⟨0x044, 1, 4, [.rw 31 12 0]⟩,
   ⟨0x048, 1, 4, [.rw 8 0 0]⟩,
   ⟨0x04C, 1, 4, [.rw 15 0 0]⟩,
   ⟨0x050, 1, 4, [.within 10 0 1 0 1024]⟩,
   ⟨0x054, 1, 4, [.rw 19 0 1000]⟩,
   ⟨0x058, 1, 4, [.ro 15 0 0, .ro 31 16 0]⟩,
   ⟨0x05C, 1, 4, [.ro 3 0 0]⟩,
   ⟨0x060, 1, 4, [.ro 31 0 0]⟩,
   ⟨0x064, 1, 4, [.ro 31 0 0]⟩,
   ⟨0x068, 1, 4, [.ro 31 0 0]⟩,
   ⟨0x06C, 1, 4, [.ro 31 0 0]⟩,
   ⟨0x070, 1, 4, [.ro 31 0 0]⟩,
   ⟨0x074, 1, 4, [.ro 31 0 0]⟩,
   ⟨0x078, 1, 4, [.ro 31 0 0]⟩,
   ⟨0x07C, 1, 4, [.ro 31 0 0]⟩,
   ⟨0x080, 1, 4, [.ro 15 0 0, .ro 19 16 0]⟩]

/-- The block registers of the HLM page. -/
def hlmRows : List RegRow :=
  [⟨0x040, 1, 4, [.ro 3 0 12, .ro 7 4 5, .ro 12 8 16, .ro 19 16 8]⟩,
   ⟨0x044, 1, 4, [.ro 31 0 0]⟩,
   ⟨0x048, 1, 4, [.ro 31 0 0x3F800000]⟩,
   ⟨0x04C, 1, 4, [.ro 31 0 0]⟩,
   ⟨0x050, 1, 4, [.ro 31 0 0]⟩,
   ⟨0x054, 1, 4, [.ro 31 0 0]⟩,
   ⟨0x058, 1, 4, [.rw 31 12 0]⟩,
   ⟨0x05C, 1, 4, [.rw 8 0 0]⟩,
   ⟨0x060, 1, 4, [.rw 23 0 0]⟩,
   ⟨0x064, 1, 4, [.nearest 3 0 6 3 8, .w1s 8 8 0, .w1s 9 9 0]⟩,
   ⟨0x068, 1, 4, [.ro 31 0 0]⟩,
   ⟨0x06C, 1, 4, [.ro 2 0 0, .ro 6 4 0, .ro 10 8 0, .ro 11 11 0]⟩,
   ⟨0x070, 1, 4, [.rw 31 12 0]⟩,
   ⟨0x074, 1, 4, [.rw 8 0 0]⟩,
   ⟨0x078, 1, 4, [.rw 23 0 0]⟩,
   ⟨0x07C, 1, 4, [.ro 15 0 0, .ro 19 16 0]⟩,
   ⟨0x080, 8, 4, [.ro 31 0 0]⟩,
   ⟨0x0C0, 15, 4, [.ro 31 0 0]⟩,
   ⟨0x100, 16, 16, [.ro 0 0 0, .ro 5 1 0, .ro 24 16 0]⟩,
   ⟨0x104, 16, 16, [.ro 31 0 0]⟩] ++
  [⟨0x108, 16, 16, [.ro 31 0 0]⟩,
   ⟨0x10C, 16, 16, [.ro 31 0 0]⟩]

/-- The block registers of the SXT page. -/
def sxtRows : List RegRow :=
  [⟨0x040, 1, 4, [.ro 15 0 4096, .ro 23 16 64, .ro 31 24 64]⟩,
   ⟨0x044, 1, 4, [.rw 31 12 0]⟩,
   ⟨0x048, 1, 4, [.rw 8 0 0]⟩,
   ⟨0x04C, 1, 4, [.rw 15 0 0]⟩,
   ⟨0x050, 1, 4, [.rw 31 12 0]⟩,
   ⟨0x054, 1, 4, [.rw 8 0 0]⟩,
   ⟨0x058, 1, 4, [.rw 15 0 0]⟩,
   ⟨0x05C, 1, 4, [.rw 31 12 0]⟩,
   ⟨0x060, 1, 4, [.rw 8 0 0]⟩,
   ⟨0x064, 1, 4, [.ro 31 0 0]⟩,
   ⟨0x068, 1, 4, [.ro 15 0 0, .ro 31 31 0]⟩,
   ⟨0x06C, 1, 4, [.ro 31 0 0]⟩,
   ⟨0x070, 1, 4, [.ro 15 0 0, .ro 19 16 0]⟩,
   ⟨0x074, 1, 4, [.ro 31 0 0]⟩,
   ⟨0x078, 1, 4, [.ro 31 0 0]⟩,
   ⟨0x07C, 1, 4, [.ro 31 0 0]⟩,
   ⟨0x080, 1, 4, [.ro 31 0 0]⟩,
   ⟨0x084, 1, 4, [.ro 31 0 0]⟩,
   ⟨0x088, 1, 4, [.ro 31 0 0]⟩,
   ⟨0x08C, 1, 4, [.ro 31 0 0]⟩] ++
  [⟨0x090, 1, 4, [.ro 31 0 0]⟩,
   ⟨0x094, 1, 4, [.ro 31 0 0]⟩,
   ⟨0x098, 1, 4, [.ro 15 0 0, .ro 19 16 0]⟩]

/-- The block registers of the RED page. -/
def redRows : List RegRow :=
  [⟨0x040, 1, 4, [.ro 3 0 12, .ro 7 4 4, .ro 15 8 32, .ro 31 16 4096]⟩,
   ⟨0x044, 1, 4, [.ro 0 0 0, .ro 1 1 0, .w1s 2 2 0]⟩,
   ⟨0x048, 1, 4, [.ro 0 0 0, .ro 1 1 0, .ro 31 16 0]⟩,
   ⟨0x04C, 1, 4, [.ro 31 0 0]⟩,
   ⟨0x050, 1, 4, [.ro 31 0 0]⟩,
   ⟨0x054, 1, 4, [.ro 31 0 0]⟩,
   ⟨0x058, 1, 4, [.ro 31 0 0]⟩,
   ⟨0x05C, 1, 4, [.ro 31 0 0]⟩,
   ⟨0x060, 1, 4, [.ro 31 0 0]⟩,
   ⟨0x064, 1, 4, [.ro 31 0 0]⟩,
   ⟨0x068, 1, 4, [.ro 31 0 0]⟩,
   ⟨0x06C, 1, 4, [.ro 31 0 0]⟩,
   ⟨0x070, 1, 4, [.ro 31 0 0]⟩,
   ⟨0x074, 1, 4, [.ro 15 0 0, .ro 23 16 0]⟩,
   ⟨0x078, 1, 4, [.rw 19 0 2000]⟩]

/-- The block registers of the HNG page. -/
def hngRows : List RegRow :=
  [⟨0x040, 1, 4, [.rw 31 12 0]⟩,
   ⟨0x044, 1, 4, [.rw 8 0 0]⟩,
   ⟨0x048, 1, 4, [.rw 23 0 0]⟩,
   ⟨0x04C, 1, 4, [.within 7 0 2 2 255]⟩,
   ⟨0x050, 1, 4, [.rw 15 0 0]⟩,
   ⟨0x054, 1, 4, [.rw 31 0 0]⟩,
   ⟨0x058, 1, 4, [.ro 7 0 0, .ro 15 8 0, .ro 16 16 1, .ro 17 17 0, .ro 18 18 0, .ro 19 19 0, .ro 20 20 0]⟩,
   ⟨0x05C, 1, 4, [.ro 31 0 0]⟩,
   ⟨0x060, 1, 4, [.ro 31 0 0]⟩,
   ⟨0x064, 1, 4, [.ro 15 0 0]⟩,
   ⟨0x068, 1, 4, [.ro 31 0 0]⟩,
   ⟨0x06C, 1, 4, [.ro 31 0 0]⟩,
   ⟨0x070, 1, 4, [.ro 31 0 0]⟩,
   ⟨0x074, 1, 4, [.ro 3 0 0, .ro 31 16 0]⟩]

/-- The block registers of the FAB page. -/
def fabRows : List RegRow :=
  [⟨0x040, 1, 4, [.ro 3 0 0, .ro 5 4 0]⟩,
   ⟨0x044, 1, 4, [.rw 0 0 0]⟩,
   ⟨0x048, 1, 4, [.ro 15 0 0, .ro 21 16 0, .ro 30 28 0, .ro 31 31 0]⟩,
   ⟨0x04C, 1, 4, [.ro 7 0 0, .ro 31 16 0]⟩,
   ⟨0x050, 1, 4, [.ro 31 0 0]⟩,
   ⟨0x054, 1, 4, [.ro 31 0 0]⟩,
   ⟨0x058, 1, 4, [.ro 31 0 0]⟩,
   ⟨0x05C, 1, 4, [.ro 31 0 0]⟩,
   ⟨0x060, 1, 4, [.ro 31 0 0]⟩,
   ⟨0x064, 1, 4, [.ro 31 0 0]⟩]

/-- The block registers of the CHT page. -/
def chtRows : List RegRow :=
  [⟨0x040, 1, 4, [.rwo 15 0 0xFFFF]⟩,
   ⟨0x044, 1, 4, [.rw 31 6 0]⟩,
   ⟨0x048, 1, 4, [.rw 8 0 0]⟩,
   ⟨0x04C, 1, 4, [.rw 2 0 0, .w1s 8 8 0, .rw 9 9 0]⟩,
   ⟨0x050, 1, 4, [.ro 3 0 0, .ro 6 4 0]⟩,
   ⟨0x054, 1, 4, [.ro 19 0 0]⟩,
   ⟨0x058, 1, 4, [.ro 31 0 0]⟩,
   ⟨0x05C, 1, 4, [.ro 31 0 0]⟩,
   ⟨0x060, 1, 4, [.ro 31 0 0]⟩,
   ⟨0x080, 8, 4, [.ro 31 0 0]⟩,
   ⟨0x0A0, 1, 4, [.rw 31 6 0]⟩,
   ⟨0x0A4, 1, 4, [.rw 8 0 0]⟩,
   ⟨0x0A8, 1, 4, [.nearest 15 0 4 4 16]⟩,
   ⟨0x0AC, 1, 4, [.rw 15 0 0]⟩,
   ⟨0x0B0, 1, 4, [.rw 15 0 0]⟩,
   ⟨0x0B4, 1, 4, [.rw 31 6 0]⟩,
   ⟨0x0B8, 1, 4, [.rw 8 0 0]⟩,
   ⟨0x0BC, 1, 4, [.rw 19 0 0]⟩,
   ⟨0x0C0, 1, 4, [.rw 19 0 1000]⟩,
   ⟨0x0C4, 1, 4, [.ro 15 0 0, .ro 19 16 0]⟩] ++
  [⟨0x0C8, 1, 4, [.ro 31 0 0]⟩,
   ⟨0x0CC, 1, 4, [.ro 31 0 0]⟩,
   ⟨0x0D0, 1, 4, [.ro 31 0 0]⟩,
   ⟨0x0D4, 1, 4, [.ro 31 0 0]⟩]

/-- The block registers of the MEM page. -/
def memRows : List RegRow :=
  [⟨0x040, 1, 4, [.ro 4 0 0, .ro 11 8 0, .ro 12 12 0]⟩,
   ⟨0x044, 1, 4, [.ro 7 0 12, .ro 15 8 96, .ro 23 16 32]⟩,
   ⟨0x048, 1, 4, [.ro 8 0 0]⟩,
   ⟨0x04C, 1, 4, [.ro 11 0 0, .ro 13 12 0]⟩,
   ⟨0x050, 1, 4, [.ro 31 0 0]⟩,
   ⟨0x054, 1, 4, [.ro 31 0 0]⟩,
   ⟨0x058, 1, 4, [.ro 31 8 0]⟩,
   ⟨0x05C, 1, 4, [.ro 8 0 0, .ro 30 30 0, .ro 31 31 0]⟩,
   ⟨0x060, 1, 4, [.ro 10 0 0, .ro 26 16 0]⟩,
   ⟨0x064, 1, 4, [.rw 0 0 1, .rw 15 8 8]⟩,
   ⟨0x068, 1, 4, [.ro 15 0 0, .ro 22 16 0]⟩,
   ⟨0x06C, 1, 4, [.ro 31 0 0]⟩,
   ⟨0x070, 1, 4, [.ro 31 0 0]⟩]

/-- The block registers of the DIE page. -/
def dieRows : List RegRow :=
  [⟨0x040, 1, 4, [.ro 3 0 0, .ro 12 8 0, .ro 21 16 0]⟩,
   ⟨0x044, 1, 4, [.ro 7 0 0, .ro 15 8 0, .ro 23 16 0, .ro 31 24 0]⟩,
   ⟨0x048, 1, 4, [.ro 14 0 0, .ro 30 16 0]⟩]

/-- The block registers of the CLU page. -/
def cluRows : List RegRow :=
  [⟨0x040, 1, 4, [.ro 3 0 0, .ro 15 8 0, .ro 19 16 0, .ro 28 24 0]⟩,
   ⟨0x044, 1, 4, [.ro 7 0 0, .ro 15 8 0]⟩,
   ⟨0x048, 4, 4, [.ro 31 0 0]⟩,
   ⟨0x058, 4, 4, [.ro 31 0 0]⟩,
   ⟨0x068, 1, 4, [.ro 11 0 0, .ro 31 16 0]⟩,
   ⟨0x06C, 1, 4, [.ro 15 0 0]⟩,
   ⟨0x070, 1, 4, [.ro 7 0 0, .ro 11 8 0, .ro 15 12 0]⟩,
   ⟨0x074, 1, 4, [.ro 15 0 0, .ro 31 16 0]⟩,
   ⟨0x078, 1, 4, [.ro 6 0 0, .ro 15 8 0, .ro 23 16 0, .ro 24 24 0, .ro 25 25 0]⟩,
   ⟨0x07C, 1, 4, [.ro 31 0 0]⟩,
   ⟨0x080, 1, 4, [.ro 31 0 0]⟩,
   ⟨0x084, 1, 4, [.ro 11 0 0, .ro 31 31 0]⟩]

/-- The block registers of the CHK page. -/
def chkRows : List RegRow :=
  [⟨0x040, 1, 4, [.nearest 3 0 6 0 6, .within 7 4 4 0 6, .positive 31 16 1000 0xFFFF]⟩,
   ⟨0x044, 1, 4, [.within 18 0 0 0 307199]⟩,
   ⟨0x048, 1, 4, [.ro 3 0 0, .ro 15 8 0, .ro 25 16 0, .ro 31 31 0]⟩,
   ⟨0x04C, 1, 4, [.wo 3 0 0, .wo 15 8 0]⟩,
   ⟨0x050, 1, 4, [.ro 18 0 0, .ro 22 20 0, .ro 23 23 0]⟩,
   ⟨0x054, 1, 4, [.ro 31 0 0]⟩,
   ⟨0x058, 1, 4, [.ro 31 0 0]⟩,
   ⟨0x05C, 1, 4, [.ro 31 0 0]⟩,
   ⟨0x060, 1, 4, [.ro 31 0 0]⟩,
   ⟨0x064, 1, 4, [.ro 31 0 0]⟩,
   ⟨0x068, 1, 4, [.ro 31 0 0]⟩,
   ⟨0x06C, 1, 4, [.ro 31 0 0]⟩,
   ⟨0x070, 1, 4, [.ro 15 0 0]⟩]

/-- The block registers of the SKY page. -/
def skyRows : List RegRow :=
  [⟨0x040, 1, 4, [.nearest 2 0 4 1 4, .rw 3 3 0, .within 5 4 0 0 2]⟩,
   ⟨0x044, 1, 4, [.rw 15 0 0xFFFF]⟩,
   ⟨0x048, 1, 4, [.rw 15 0 0xFFFF]⟩,
   ⟨0x04C, 1, 4, [.rw 31 12 0]⟩,
   ⟨0x050, 1, 4, [.rw 8 0 0]⟩,
   ⟨0x054, 1, 4, [.rw 23 0 0]⟩,
   ⟨0x058, 1, 4, [.nearest 3 0 5 2 8, .rw 8 8 0]⟩,
   ⟨0x05C, 1, 4, [.rw 31 12 0]⟩,
   ⟨0x060, 1, 4, [.rw 8 0 0]⟩,
   ⟨0x064, 1, 4, [.rw 31 12 0]⟩,
   ⟨0x068, 1, 4, [.rw 8 0 0]⟩,
   ⟨0x06C, 1, 4, [.rw 31 0 0]⟩,
   ⟨0x070, 1, 4, [.rw 31 0 0]⟩,
   ⟨0x074, 1, 4, [.ro 31 0 0]⟩,
   ⟨0x078, 1, 4, [.ro 31 0 0]⟩,
   ⟨0x07C, 1, 4, [.ro 4 0 0, .ro 12 8 0, .ro 13 13 0, .ro 14 14 0, .ro 31 16 0]⟩,
   ⟨0x080, 1, 4, [.rw 31 0 0]⟩,
   ⟨0x084, 8, 4, [.ro 31 0 0]⟩,
   ⟨0x0A4, 1, 4, [.positive 19 0 0xEA60 0xFFFFF]⟩,
   ⟨0x0A8, 1, 4, [.ro 31 0 0]⟩] ++
  [⟨0x0AC, 1, 4, [.ro 31 0 0]⟩,
   ⟨0x0B0, 1, 4, [.ro 31 0 0]⟩,
   ⟨0x0B4, 1, 4, [.ro 31 0 0]⟩,
   ⟨0x0B8, 1, 4, [.ro 31 0 0]⟩,
   ⟨0x0BC, 1, 4, [.ro 31 0 0]⟩]

/-- The block registers of the HOT page. -/
def hotRows : List RegRow :=
  [⟨0x040, 1, 4, [.ro 0 0 0, .ro 2 1 0]⟩,
   ⟨0x044, 1, 4, [.within 11 0 10 0 3600, .w1s 16 16 0]⟩,
   ⟨0x048, 1, 4, [.ro 11 0 0, .ro 15 12 0]⟩]

/-- The block registers of the VTB page. -/
def vtbRows : List RegRow :=
  [⟨0x040, 1, 4, [.ro 7 0 16, .ro 15 8 32, .ro 23 16 32, .ro 31 24 128]⟩,
   ⟨0x044, 1, 4, [.ro 4 0 0, .ro 11 8 0]⟩,
   ⟨0x048, 1, 4, [.ro 31 0 0]⟩,
   ⟨0x04C, 1, 4, [.ro 31 0 0]⟩,
   ⟨0x050, 1, 4, [.ro 31 0 0]⟩,
   ⟨0x054, 1, 4, [.ro 31 0 0]⟩,
   ⟨0x080, 32, 4, [.ro 0 0 0, .ro 1 1 0, .ro 3 2 0, .ro 7 4 0, .ro 23 8 0]⟩,
   ⟨0x100, 32, 4, [.ro 31 0 0]⟩,
   ⟨0x180, 32, 4, [.ro 11 0 0, .ro 27 16 0]⟩]

/-- The block registers of each page type. -/
def pageRows : PageType → List RegRow
  | .hub => hubRows
  | .pwr => pwrRows
  | .thm => thmRows
  | .irq => irqRows
  | .sec => secRows
  | .mgt => mgtRows
  | .log => logRows
  | .seq => seqRows
  | .cmp => cmpRows
  | .hlm => hlmRows
  | .sxt => sxtRows
  | .red => redRows
  | .hng => hngRows
  | .fab => fabRows
  | .cht => chtRows
  | .mem => memRows
  | .die => dieRows
  | .clu => cluRows
  | .chk => chkRows
  | .sky => skyRows
  | .hot => hotRows
  | .vtb => vtbRows

/-- The block registers of a page: those of the backfill stream alone are reserved on the main stream's page (R164).
DEDUCED, log entry 15. -/
def blockRows (t : PageType) (inst : Nat) : List RegRow :=
  if t = .seq ∧ inst = 0 then seqRows.filter fun r => !(0x088 ≤ r.off && r.off ≤ 0x098) else pageRows t

/-! The address of each register: `i` is the page instance, `n` the index within an array of registers. -/
namespace Reg

def hubFamily : Nat := 0x01000040
def hubFamGeometry : Nat := 0x01000044
def hubFamCounts : Nat := 0x01000048
def hubFamEnabled : Nat := 0x0100004C
def hubIfaceAgree : Nat := 0x01000050
def hubBadAddrLo : Nat := 0x01000054
def hubBadAddrHi : Nat := 0x01000058
def hubBadCount : Nat := 0x0100005C
def hubHarts : Nat := 0x01000080
def hubResetCause : Nat := 0x01000084
def hubBootStage : Nat := 0x01000088
def hubMbxPutLo (n : Nat) : Nat := 0x01000200 + 16 * (n % 32)
def hubMbxPutHi (n : Nat) : Nat := 0x01000204 + 16 * (n % 32)
def hubMbxGetLo (n : Nat) : Nat := 0x01000208 + 16 * (n % 32)
def hubMbxGetHi (n : Nat) : Nat := 0x0100020C + 16 * (n % 32)
def hubMbxCtrl (n : Nat) : Nat := 0x01000400 + 4 * (n % 32)
def pwrInput : Nat := 0x02000040
def pwrShed : Nat := 0x02000044
def pwrSagCfg (n : Nat) : Nat := 0x02000048 + 4 * (n % 5)
def pwrRecover : Nat := 0x0200005C
def pwrCap : Nat := 0x02000060
def pwrClkLimits : Nat := 0x02000064
def pwrClkCap : Nat := 0x02000068
def pwrPinned : Nat := 0x0200006C
def pwrPeakW : Nat := 0x02000070
def thmCfg : Nat := 0x03000040
def thmDie (n : Nat) : Nat := 0x03000044 + 4 * (n % 12)
def thmColdplate : Nat := 0x03000074
def thmTrips : Nat := 0x03000078
def thmAlertCap : Nat := 0x0300007C
def irqLimits : Nat := 0x04000040
def irqSwTrigger : Nat := 0x04000044
def irqMissedClear : Nat := 0x04000048
def irqExtStatus : Nat := 0x0400004C
def irqExtCfg (n : Nat) : Nat := 0x04000050 + 4 * (n % 5)
def irqThreshold (n : Nat) : Nat := 0x04000100 + 16 * (n % 28)
def irqClaim (n : Nat) : Nat := 0x04000104 + 16 * (n % 28)
def irqComplete (n : Nat) : Nat := 0x04000108 + 16 * (n % 28)
def irqRunning (n : Nat) : Nat := 0x0400010C + 16 * (n % 28)
def irqGroupTarget (n : Nat) : Nat := 0x04000300 + 4 * (n % 32)
def irqHoldoff (n : Nat) : Nat := 0x04000380 + 4 * (n % 32)
def irqPending (n : Nat) : Nat := 0x04000400 + 4 * (n % 32)
def irqLine (n : Nat) : Nat := 0x04000480 + 4 * (n % 32)
def irqPrio (n : Nat) : Nat := 0x04000600 + 4 * (n % 128)
def irqMissed (n : Nat) : Nat := 0x04000800 + 4 * (n % 256)
def irqCluSummary (n : Nat) : Nat := 0x04000C00 + 4 * (n % 75)
def secBoot : Nat := 0x05000040
def secFuses : Nat := 0x05000044
def secSerialLo : Nat := 0x05000048
def secSerialHi : Nat := 0x0500004C
def secDebugNonce (n : Nat) : Nat := 0x05000050 + 4 * (n % 4)
def secDebug : Nat := 0x05000060
def secTlsSessions : Nat := 0x05000064
def mgtLink : Nat := 0x06000040
def mgtMac0Lo : Nat := 0x06000044
def mgtMac0Hi : Nat := 0x06000048
def mgtMac1Lo : Nat := 0x0600004C
def mgtMac1Hi : Nat := 0x06000050
def mgtPtpCtrl : Nat := 0x06000054
def logLimits : Nat := 0x07000040
def logWriteLo : Nat := 0x07000044
def logWriteHi : Nat := 0x07000048
def logDrainedLo : Nat := 0x0700004C
def logDrainedHi : Nat := 0x07000050
def logNext : Nat := 0x07000054
def logStatus : Nat := 0x07000058
def logReserve : Nat := 0x0700005C
def logFree : Nat := 0x07000060
def logCtrl : Nat := 0x07000064
def logJobId (n : Nat) : Nat := 0x07000068 + 4 * (n % 4)
def logSeedLo : Nat := 0x07000078
def logSeedHi : Nat := 0x0700007C
def logRecords : Nat := 0x07000080
def logLost : Nat := 0x07000084
def logStalls : Nat := 0x07000088
def logStallMaxUs : Nat := 0x0700008C
def logSegment : Nat := 0x07000090
def logSegStep : Nat := 0x07000094
def logPtpOffset : Nat := 0x07000098
def logSpill : Nat := 0x0700009C
def seqRingBaseLo (i : Nat) : Nat := 0x08000040 + 0x1000 * (i % 4096)
def seqRingBaseHi (i : Nat) : Nat := 0x08000044 + 0x1000 * (i % 4096)
def seqRingSize (i : Nat) : Nat := 0x08000048 + 0x1000 * (i % 4096)
def seqHead (i : Nat) : Nat := 0x0800004C + 0x1000 * (i % 4096)
def seqTail (i : Nat) : Nat := 0x08000050 + 0x1000 * (i % 4096)
def seqDtableLo (i : Nat) : Nat := 0x08000054 + 0x1000 * (i % 4096)
def seqDtableHi (i : Nat) : Nat := 0x08000058 + 0x1000 * (i % 4096)
def seqDtableCount (i : Nat) : Nat := 0x0800005C + 0x1000 * (i % 4096)
def seqFenceValue (i : Nat) : Nat := 0x08000060 + 0x1000 * (i % 4096)
def seqCounterAdd (i : Nat) : Nat := 0x08000064 + 0x1000 * (i % 4096)
def seqPredLo (i : Nat) : Nat := 0x08000068 + 0x1000 * (i % 4096)
def seqPredHi (i : Nat) : Nat := 0x0800006C + 0x1000 * (i % 4096)
def seqReject (i : Nat) : Nat := 0x08000070 + 0x1000 * (i % 4096)
def seqRejectAddrLo (i : Nat) : Nat := 0x08000074 + 0x1000 * (i % 4096)
def seqRejectAddrHi (i : Nat) : Nat := 0x08000078 + 0x1000 * (i % 4096)
def seqRejectTag (i : Nat) : Nat := 0x0800007C + 0x1000 * (i % 4096)
def seqCmdCount (i : Nat) : Nat := 0x08000080 + 0x1000 * (i % 4096)
def seqSkipped (i : Nat) : Nat := 0x08000084 + 0x1000 * (i % 4096)
def seqBfCtrl (i : Nat) : Nat := 0x08000088 + 0x1000 * (i % 4096)
def seqBfStatus (i : Nat) : Nat := 0x0800008C + 0x1000 * (i % 4096)
def seqBfOverruns (i : Nat) : Nat := 0x08000090 + 0x1000 * (i % 4096)
def seqBfLongestNs (i : Nat) : Nat := 0x08000094 + 0x1000 * (i % 4096)
def seqResumeMaxNs (i : Nat) : Nat := 0x08000098 + 0x1000 * (i % 4096)
def seqCounter (i : Nat) (n : Nat) : Nat := 0x080000C0 + 0x1000 * (i % 4096) + 4 * (n % 16)
def seqStampVar (i : Nat) (n : Nat) : Nat := 0x08000100 + 0x1000 * (i % 4096) + 4 * (n % 16)
def cmpLimits : Nat := 0x09000040
def cmpTrackBaseLo : Nat := 0x09000044
def cmpTrackBaseHi : Nat := 0x09000048
def cmpTrackRecord : Nat := 0x0900004C
def cmpTrackShape : Nat := 0x09000050
def cmpTimeout : Nat := 0x09000054
def cmpLast : Nat := 0x09000058
def cmpLastRounds : Nat := 0x0900005C
def cmpSlotsAccepted : Nat := 0x09000060
def cmpSlotsSpilled : Nat := 0x09000064
def cmpSlotsDropped : Nat := 0x09000068
def cmpNanTokens : Nat := 0x0900006C
def cmpSkippedTokens : Nat := 0x09000070
def cmpRowsGranted : Nat := 0x09000074
def cmpStale : Nat := 0x09000078
def cmpHeld : Nat := 0x0900007C
def cmpProtoLast : Nat := 0x09000080
def hlmLimits : Nat := 0x0A000040
def hlmLr : Nat := 0x0A000044
def hlmClip : Nat := 0x0A000048
def hlmStepLo : Nat := 0x0A00004C
def hlmStepHi : Nat := 0x0A000050
def hlmApplied : Nat := 0x0A000054
def hlmRingBaseLo : Nat := 0x0A000058
def hlmRingBaseHi : Nat := 0x0A00005C
def hlmRingSlot : Nat := 0x0A000060
def hlmRingCtrl : Nat := 0x0A000064
def hlmRingState : Nat := 0x0A000068
def hlmRingCur : Nat := 0x0A00006C
def hlmScratchLo : Nat := 0x0A000070
def hlmScratchHi : Nat := 0x0A000074
def hlmScratchSize : Nat := 0x0A000078
def hlmFaultLast : Nat := 0x0A00007C
def hlmRingStep (n : Nat) : Nat := 0x0A000080 + 4 * (n % 8)
def hlmNsCoef (n : Nat) : Nat := 0x0A0000C0 + 4 * (n % 15)
def hlmDecayCfg (n : Nat) : Nat := 0x0A000100 + 16 * (n % 16)
def hlmDecayBase (n : Nat) : Nat := 0x0A000104 + 16 * (n % 16)
def hlmDecayBeta1 (n : Nat) : Nat := 0x0A000108 + 16 * (n % 16)
def hlmDecayWd (n : Nat) : Nat := 0x0A00010C + 16 * (n % 16)
def sxtLimits : Nat := 0x0B000040
def sxtScaleBaseLo : Nat := 0x0B000044
def sxtScaleBaseHi : Nat := 0x0B000048
def sxtScaleCount : Nat := 0x0B00004C
def sxtLayerBaseLo : Nat := 0x0B000050
def sxtLayerBaseHi : Nat := 0x0B000054
def sxtLayerCount : Nat := 0x0B000058
def sxtBandBaseLo : Nat := 0x0B00005C
def sxtBandBaseHi : Nat := 0x0B000060
def sxtStepLo : Nat := 0x0B000064
def sxtAlarms : Nat := 0x0B000068
def sxtHold : Nat := 0x0B00006C
def sxtHoldLayer : Nat := 0x0B000070
def sxtStepNf : Nat := 0x0B000074
def sxtScaleClamps : Nat := 0x0B000078
def sxtHolds : Nat := 0x0B00007C
def sxtNfOriginUnit : Nat := 0x0B000080
def sxtNfOriginLayer : Nat := 0x0B000084
def sxtNfOriginTensor : Nat := 0x0B000088
def sxtNfOriginIndexLo : Nat := 0x0B00008C
def sxtNfOriginIndexHi : Nat := 0x0B000090
def sxtBandCrc : Nat := 0x0B000094
def sxtFaultLast : Nat := 0x0B000098
def redLimits : Nat := 0x0C000040
def redStepNf : Nat := 0x0C000044
def redConsensus : Nat := 0x0C000048
def redNfOriginLayer : Nat := 0x0C00004C
def redNfOriginTensor : Nat := 0x0C000050
def redNfOriginIndexLo : Nat := 0x0C000054
def redNfOriginIndexHi : Nat := 0x0C000058
def redCommands : Nat := 0x0C00005C
def redNfGroups : Nat := 0x0C000060
def redOverflows : Nat := 0x0C000064
def redUncompressed : Nat := 0x0C000068
def redSkippedExperts : Nat := 0x0C00006C
def redStale : Nat := 0x0C000070
def redFaultLast : Nat := 0x0C000074
def redTimeout : Nat := 0x0C000078
def hngBaseLo (i : Nat) : Nat := 0x0D000040 + 0x1000 * (i % 4096)
def hngBaseHi (i : Nat) : Nat := 0x0D000044 + 0x1000 * (i % 4096)
def hngSlotBytes (i : Nat) : Nat := 0x0D000048 + 0x1000 * (i % 4096)
def hngSlots (i : Nat) : Nat := 0x0D00004C + 0x1000 * (i % 4096)
def hngSource (i : Nat) : Nat := 0x0D000050 + 0x1000 * (i % 4096)
def hngSkid (i : Nat) : Nat := 0x0D000054 + 0x1000 * (i % 4096)
def hngStatus (i : Nat) : Nat := 0x0D000058 + 0x1000 * (i % 4096)
def hngOccupancy (i : Nat) : Nat := 0x0D00005C + 0x1000 * (i % 4096)
def hngMaxOccupancy (i : Nat) : Nat := 0x0D000060 + 0x1000 * (i % 4096)
def hngHeadMb (i : Nat) : Nat := 0x0D000064 + 0x1000 * (i % 4096)
def hngPackets (i : Nat) : Nat := 0x0D000068 + 0x1000 * (i % 4096)
def hngStops (i : Nat) : Nat := 0x0D00006C + 0x1000 * (i % 4096)
def hngStale (i : Nat) : Nat := 0x0D000070 + 0x1000 * (i % 4096)
def hngFaultLast (i : Nat) : Nat := 0x0D000074 + 0x1000 * (i % 4096)
def fabLocation (i : Nat) : Nat := 0x0E000040 + 0x1000 * (i % 4096)
def fabCtrl (i : Nat) : Nat := 0x0E000044 + 0x1000 * (i % 4096)
def fabPeer (i : Nat) : Nat := 0x0E000048 + 0x1000 * (i % 4096)
def fabLanes (i : Nat) : Nat := 0x0E00004C + 0x1000 * (i % 4096)
def fabBlocksTx (i : Nat) : Nat := 0x0E000050 + 0x1000 * (i % 4096)
def fabBlocksRx (i : Nat) : Nat := 0x0E000054 + 0x1000 * (i % 4096)
def fabCrcErrors (i : Nat) : Nat := 0x0E000058 + 0x1000 * (i % 4096)
def fabResends (i : Nat) : Nat := 0x0E00005C + 0x1000 * (i % 4096)
def fabFecCorrected (i : Nat) : Nat := 0x0E000060 + 0x1000 * (i % 4096)
def fabC0Void (i : Nat) : Nat := 0x0E000064 + 0x1000 * (i % 4096)
def chtPackage : Nat := 0x0F000040
def chtLoadLo : Nat := 0x0F000044
def chtLoadHi : Nat := 0x0F000048
def chtLoadCtrl : Nat := 0x0F00004C
def chtLoadStatus : Nat := 0x0F000050
def chtGovern : Nat := 0x0F000054
def chtLeg : Nat := 0x0F000058
def chtStepLo : Nat := 0x0F00005C
def chtStepHi : Nat := 0x0F000060
def chtSlotId (n : Nat) : Nat := 0x0F000080 + 4 * (n % 8)
def chtPostBaseLo : Nat := 0x0F0000A0
def chtPostBaseHi : Nat := 0x0F0000A4
def chtPostSize : Nat := 0x0F0000A8
def chtPostHead : Nat := 0x0F0000AC
def chtPostTail : Nat := 0x0F0000B0
def chtRwBaseLo : Nat := 0x0F0000B4
def chtRwBaseHi : Nat := 0x0F0000B8
def chtRwSize : Nat := 0x0F0000BC
def chtTimeout : Nat := 0x0F0000C0
def chtFaultLast : Nat := 0x0F0000C4
def chtStray : Nat := 0x0F0000C8
def chtRwDiscards : Nat := 0x0F0000CC
def chtPostRejects : Nat := 0x0F0000D0
def chtBarrierMaxNs : Nat := 0x0F0000D4
def memLocation (i : Nat) : Nat := 0x10000040 + 0x1000 * (i % 4096)
def memGeometry (i : Nat) : Nat := 0x10000044 + 0x1000 * (i % 4096)
def memBase (i : Nat) : Nat := 0x10000048 + 0x1000 * (i % 4096)
def memReserved (i : Nat) : Nat := 0x1000004C + 0x1000 * (i % 4096)
def memCrcTransient (i : Nat) : Nat := 0x10000050 + 0x1000 * (i % 4096)
def memLost (i : Nat) : Nat := 0x10000054 + 0x1000 * (i % 4096)
def memLostAddrLo (i : Nat) : Nat := 0x10000058 + 0x1000 * (i % 4096)
def memLostAddrHi (i : Nat) : Nat := 0x1000005C + 0x1000 * (i % 4096)
def memSpare (i : Nat) : Nat := 0x10000060 + 0x1000 * (i % 4096)
def memScrubCtrl (i : Nat) : Nat := 0x10000064 + 0x1000 * (i % 4096)
def memScrubStatus (i : Nat) : Nat := 0x10000068 + 0x1000 * (i % 4096)
def memAowBlocks (i : Nat) : Nat := 0x1000006C + 0x1000 * (i % 4096)
def memAowNonfinite (i : Nat) : Nat := 0x10000070 + 0x1000 * (i % 4096)
def dieLocation (i : Nat) : Nat := 0x11000040 + 0x1000 * (i % 4096)
def dieClusters (i : Nat) : Nat := 0x11000044 + 0x1000 * (i % 4096)
def dieCores (i : Nat) : Nat := 0x11000048 + 0x1000 * (i % 4096)
def cluLocation (i : Nat) : Nat := 0x12000040 + 0x1000 * (i % 4096)
def cluCores (i : Nat) : Nat := 0x12000044 + 0x1000 * (i % 4096)
def cluEnabledMap (i : Nat) (n : Nat) : Nat := 0x12000048 + 0x1000 * (i % 4096) + 4 * (n % 4)
def cluFusedMap (i : Nat) (n : Nat) : Nat := 0x12000058 + 0x1000 * (i % 4096) + 4 * (n % 4)
def cluClock (i : Nat) : Nat := 0x12000068 + 0x1000 * (i % 4096)
def cluSpeedWeight (i : Nat) : Nat := 0x1200006C + 0x1000 * (i % 4096)
def cluProbation (i : Nat) : Nat := 0x12000070 + 0x1000 * (i % 4096)
def cluChkCount (i : Nat) : Nat := 0x12000074 + 0x1000 * (i % 4096)
def cluChkLast (i : Nat) : Nat := 0x12000078 + 0x1000 * (i % 4096)
def cluWork (i : Nat) : Nat := 0x1200007C + 0x1000 * (i % 4096)
def cluKeepSpill (i : Nat) : Nat := 0x12000080 + 0x1000 * (i % 4096)
def cluFallback (i : Nat) : Nat := 0x12000084 + 0x1000 * (i % 4096)
def chkCtrl : Nat := 0x13000040
def chkCoreSel : Nat := 0x13000044
def chkCoreState : Nat := 0x13000048
def chkCoreReq : Nat := 0x1300004C
def chkLast : Nat := 0x13000050
def chkTransients : Nat := 0x13000054
def chkLasting : Nat := 0x13000058
def chkDupItems : Nat := 0x1300005C
def chkDupVector : Nat := 0x13000060
def chkStoreEvents : Nat := 0x13000064
def chkProbations : Nat := 0x13000068
def chkFences : Nat := 0x1300006C
def chkCoreProbLeft : Nat := 0x13000070
def skyCtrl : Nat := 0x14000040
def skyWitness : Nat := 0x14000044
def skyAssume : Nat := 0x14000048
def skyCaptureBaseLo : Nat := 0x1400004C
def skyCaptureBaseHi : Nat := 0x14000050
def skyCaptureSlot : Nat := 0x14000054
def skyCaptureCtrl : Nat := 0x14000058
def skyPrevLo : Nat := 0x1400005C
def skyPrevHi : Nat := 0x14000060
def skyOutLo : Nat := 0x14000064
def skyOutHi : Nat := 0x14000068
def skyReplayStepLo : Nat := 0x1400006C
def skyReplayStepHi : Nat := 0x14000070
def skyFixedLo : Nat := 0x14000074
def skyFixedHi : Nat := 0x14000078
def skyStatus : Nat := 0x1400007C
def skyDigestSel : Nat := 0x14000080
def skyDigest (n : Nat) : Nat := 0x14000084 + 4 * (n % 8)
def skyTimeout : Nat := 0x140000A4
def skyVotes : Nat := 0x140000A8
def skySuspects : Nat := 0x140000AC
def skyRollbacks : Nat := 0x140000B0
def skySkEqual : Nat := 0x140000B4
def skySkThird : Nat := 0x140000B8
def skyCaptureIncomplete : Nat := 0x140000BC
def hotStatus : Nat := 0x15000040
def hotCtrl : Nat := 0x15000044
def hotInrush : Nat := 0x15000048
def vtbLimits : Nat := 0x16000040
def vtbLoadStatus : Nat := 0x16000044
def vtbNonfinite : Nat := 0x16000048
def vtbMaskedRows : Nat := 0x1600004C
def vtbBadTarget : Nat := 0x16000050
def vtbProgReject : Nat := 0x16000054
def vtbSlotStatus (n : Nat) : Nat := 0x16000080 + 4 * (n % 32)
def vtbSlotCrc (n : Nat) : Nat := 0x16000100 + 4 * (n % 32)
def vtbSlotPlace (n : Nat) : Nat := 0x16000180 + 4 * (n % 32)

end Reg

end Sys2Proof.Machine
end

