-- ==== Sys2Proof/Machine/SeqTypes.lean ====
section
/-! DEFINITION. What the sequencer decodes: tensor descriptors, partition tables and the commands themselves
(06_command_streams.md and the operand sections of the chapters of opcodes 0x30 and above). -/
namespace Sys2Proof.Machine

/-- A tensor descriptor with its outer-scale entry as read at decode (R138, R139). -/
structure Desc where
  addr : Nat
  fmt : Nat
  dims : Nat
  len0 : Nat
  len1 : Nat
  len2 : Nat
  len3 : Nat
  stride1 : Nat
  stride2 : Nat
  stride3 : Nat
  scaleRef : Nat
  scale : Word
deriving DecidableEq, Repr

/-- A tensor operand of a vector command: none (0xFFFF), the kept tiles (0xFFFE) or a descriptor (R87). -/
inductive Operand where
  | absent
  | kept
  | tensor (d : Desc)
deriving DecidableEq, Repr

/-- A logical shape: the lengths of the four dimensions. -/
structure Shape where
  l0 : Nat
  l1 : Nat
  l2 : Nat
  l3 : Nat
deriving DecidableEq, Repr

/-- A group entry of a partition table (R61). -/
structure PGroup where
  rows : Nat
  aRow : Nat
  cRow : Nat
  splitLog2 : Nat
  slot : Nat
  bOffset : Nat
  items : Nat
deriving DecidableEq, Repr

/-- A cluster entry of a partition table (R62). -/
structure PEntry where
  cluster : Nat
  group : Nat
  first : Nat
  count : Nat
deriving DecidableEq, Repr

/-- A partition table (R60). -/
structure PTable where
  groups : List PGroup
  entries : List PEntry
deriving DecidableEq, Repr

/-- MATMUL and MATMUL_H as decoded (R141); `table` is none for a plain product with PTABLE 0 (R66). -/
structure MatmulCmd where
  heritage : Bool
  a : Desc
  b : Desc
  c : Option Desc
  pre : Option Desc
  epi : Option Desc
  accBase : Nat
  accCount : Nat
  table : Option PTable
  keep : Bool
  store : Bool
  addWrite : Bool
  broadcast : Bool
  round : Nat
  preload : Nat
  epiOp : Nat
deriving DecidableEq, Repr

/-- One instruction of an element program (R90). -/
structure VInstr where
  op : Nat
  d : Nat
  a : Nat
  b : Nat
  c : Nat
  t : Nat
deriving DecidableEq, Repr

/-- VPROG as decoded (R142, R89). -/
structure VprogCmd where
  ins : List Operand
  outs : List Operand
  consts : List Word
  code : List VInstr
  accBase : Nat
  accCount : Nat
  firstCluster : Nat
  clusterCount : Nat
  addWrite : Bool
  round : Nat
deriving DecidableEq, Repr

/-- VKERNEL as decoded (R142, R517). -/
structure KernelCmd where
  kernel : Nat
  subop : Nat
  in0 : Operand
  in1 : Operand
  in2 : Operand
  out0 : Operand
  out1 : Operand
  scalar : Word
  kb : Nat
  curves : List Nat
  accBase : Nat
  accCount : Nat
  firstCluster : Nat
  clusterCount : Nat
  addWrite : Bool
  round : Nat
deriving DecidableEq, Repr

/-- One entry of a stamp table (R154). -/
structure StampEntry where
  target : Nat
  width : Nat
  source : Nat
  index : Nat
  mul : Nat
  add : Int
deriving DecidableEq, Repr

/-- STAMP as decoded (R143, R154). -/
structure StampCmd where
  template : Nat
  dest : Nat
  length : Nat
  entries : List StampEntry
  layerSlot : Nat
  microbatch : Nat
deriving DecidableEq, Repr

/-- SETPRED as decoded (R143, R153). -/
structure SetpredCmd where
  target : Nat
  source : Nat
  index : Nat
  value : Nat
  addr : Nat
deriving DecidableEq, Repr

/-- CALL as decoded (R135, R143). -/
structure CallCmd where
  list : Nat
  count : Nat
  dtable : Nat
  dcount : Nat
deriving DecidableEq, Repr

/-- WAIT as decoded (R143, R151). -/
structure WaitCmd where
  kind : Nat
  index : Nat
  value : Nat
  timeoutUs : Nat
deriving DecidableEq, Repr

/-- LEG as decoded (R331). -/
structure LegCmd where
  leg : Nat
  chartA : Nat
  chartB : Nat
  timeoutUs : Nat
  step : Dword
deriving DecidableEq, Repr

/-- LOGMARK as decoded (R347). -/
structure LogmarkCmd where
  kind : Nat
  layer : Nat
  step : Dword
  src : Option Desc
  data : List Byte
deriving DecidableEq, Repr

/-! Commands of opcodes 0x30 and above. -/

/-- An entry of an expert map (R167). -/
structure MapEntry where
  expert : Nat
  home : Nat
  slot : Nat
  explicitCap : Bool
  cap : Nat
  bias : Word
deriving DecidableEq, Repr

/-- ROUTE as decoded with its expert map and group table (R166, R167). -/
structure RouteCmd where
  scores : Desc
  skip : Option Desc
  layer : Nat
  microbatch : Nat
  k : Nat
  s : Nat
  renorm : Bool
  bias : Bool
  layerSlot : Nat
  capFactor : Nat
  map : List MapEntry
  mapBytes : List Byte
  group : List Nat
  groupBytes : List Byte
  tGlobal : Nat
  step : Nat
deriving DecidableEq, Repr

/-- TLOAD as decoded (R98, R143), with the MODE and the length of its image. -/
structure TloadCmd where
  slot : Nat
  place64 : Nat
  image : Nat
  mode : Nat
  length : Nat
deriving DecidableEq, Repr

/-- COPY and TRANSPOSE as decoded (R143). -/
structure CopyCmd where
  transpose : Bool
  src : Desc
  dst : Desc
  addWrite : Bool
  round : Nat
deriving DecidableEq, Repr

/-- XCHG as decoded (R192); `oscale` is the outer-scale entry and its value for an MX wire format. -/
structure XchgCmd where
  kind : Nat
  format : Nat
  layerSlot : Nat
  counter : Nat
  microbatch : Nat
  src : Option Desc
  dst : Option Desc
  aux : Option Desc
  aux2 : Option Desc
  oscale : Option (Nat × Word)
  tally : Nat
  status : Nat
  timeoutUs : Nat
  ungated : Bool
  round : Nat
deriving DecidableEq, Repr

/-- STAGE_SEND SEND as decoded (R295). -/
structure SendCmd where
  hinge : Nat
  dest : Nat
  microbatch : Nat
  counter : Nat
  source : Nat
  length : Nat
  timeoutUs : Nat
  status : Nat
deriving DecidableEq, Repr

/-- REDUCE as decoded (R211). -/
structure ReduceCmd where
  kind : Nat
  mode : Nat
  compress : Nat
  topkLog2 : Nat
  src : Option Desc
  dst : Option Desc
  resid : Option Desc
  slot : Nat
  counter : Nat
  layer : Nat
  thresh : Nat
  tally : Nat
  aux : Nat
  status : Nat
  timeoutUs : Nat
  group : Nat
deriving DecidableEq, Repr

/-- HELM_SET as decoded (R249). -/
structure HelmSetCmd where
  kind : Nat
  table : Nat
  layer : Nat
  src : Option Desc
  depth : Nat
  value0 : Word
  value1 : Word
  step : Dword
  address : Nat
deriving DecidableEq, Repr

/-- HELM_UPDATE as decoded (R252). -/
structure HelmUpdateCmd where
  layer : Nat
  lazy : Nat
  nsIters : Nat
  grad : Desc
  mask : Option Desc
  mxcopy : Option Desc
  slot : Nat
  decay : Nat
  beta1 : Word
  beta2 : Word
  wd : Word
  shape : Word
  wOffset : Nat
  mOffset : Nat
  cOffset : Nat
  tally : Nat
  round : Nat
deriving DecidableEq, Repr

/-- FIX as decoded (R372). -/
structure FixCmd where
  step : Dword
  timeoutUs : Nat
deriving DecidableEq, Repr

/-- The operation a command asks for, with its operands (R140). -/
inductive Cmd where
  | nop
  | fence (value : Word)
  | flush
  | wait (c : WaitCmd)
  | setpred (c : SetpredCmd)
  | stamp (c : StampCmd)
  | call (c : CallCmd)
  | ret
  | matmul (c : MatmulCmd)
  | vprog (c : VprogCmd)
  | kernel (c : KernelCmd)
  | tload (c : TloadCmd)
  | copy (c : CopyCmd)
  | route (c : RouteCmd)
  | xchg (c : XchgCmd)
  | send (c : SendCmd)
  | release (hinge microbatch : Nat)
  | reduce (c : ReduceCmd)
  | helmSet (c : HelmSetCmd)
  | helmUpdate (c : HelmUpdateCmd)
  | leg (c : LegCmd)
  | fix (c : FixCmd)
  | logmark (c : LogmarkCmd)
deriving DecidableEq, Repr

/-- A command as decoded completely (R144): where it stood, its header fields (R136, R137), its operation, and the
bytes it feeds to the command-list digests (R348). `early` says it was decoded before the command ahead of it had
reached its boundary, so that its operands may have been staged beside that command (R68). -/
structure Decoded where
  addr : Nat
  depth : Nat
  tag : Word
  tensorId : Word
  pred : Nat
  invert : Bool
  waitWrites : Bool
  notify : Bool
  cmd : Cmd
  feed : List Byte
  /-- DEDUCED, log entry 10: decoded before the command ahead of it had completed -/
  early : Bool
deriving DecidableEq, Repr

/-- One place of a stream's look-ahead: a decoded command, or the first reason that rejects it (R144), with the code and
slot of a rejected table load (R99) in `sub`. -/
inductive Ahead where
  | ok (d : Decoded)
  | bad (reason sub addr depth : Nat) (tag : Word)
deriving DecidableEq, Repr

/-- A called list under way (R135): the place of the command to run next, its length and its descriptor table. -/
structure Frame where
  list : Nat
  index : Nat
  count : Nat
  dtable : Nat
  dcount : Nat
deriving DecidableEq, Repr

/-- Where a stream stands: the called lists it is inside, innermost first, and the ring slot (R133, R135). -/
structure Place where
  frames : List Frame
  head : Nat
deriving DecidableEq, Repr

/-- A command that has been issued and has not completed. `done` says its work is over, so that its boundary is
reached; `waiting` says it only waits (R163). -/
structure Running where
  dec : Decoded
  issued : Nat
  done : Bool
  waiting : Bool
  overran : Bool
deriving DecidableEq, Repr

/-- A cluster's part of an array operation as latched at its start (R64, R65): its enabled cores in ascending index, the
entries it runs in order, and the cores found faulty in the operation, each by its number among the enabled ones and the item
of the cluster from which on it takes no more (R81). -/
structure ClusterDeal where
  cluster : Nat
  cores : List Nat
  entries : List PEntry
  out : List (Nat × Nat)
deriving DecidableEq, Repr

/-- The tiles of an array operation (R74): its window, its strip width, and the deal that says which of them the items use. -/
structure TileUse where
  base : Nat
  count : Nat
  width : Nat
  deals : List ClusterDeal
deriving DecidableEq, Repr

/-- Kept accumulator tiles (R75, R78): the C-shaped result as FP32 values, and the tiles that hold it. -/
structure Kept where
  shape : Shape
  tiles : TileUse
  values : List Word
deriving DecidableEq, Repr

/-- What an operation has computed that takes effect at its boundary (R98, R250): a table load with its image, or a HELM_SET
STEP. -/
inductive Late where
  | tload (c : TloadCmd) (image : List Byte)
  | helmStep (c : HelmSetCmd)
deriving DecidableEq, Repr

/-- One command stream beside its registers: called lists, look-ahead, the issued command, the bytes the latest run
command wrote (R68), kept tiles, the running digests and counts since the latest LEG (R348), in `late` what takes effect at the
boundary of the issued command, in `lastRoute` the record of the latest ROUTE since READY (R153), and in `routes` for each
micro-batch the layer slot of the latest ROUTE (R181). -/
structure StreamState where
  frames : List Frame
  ahead : List Ahead
  running : Option Running
  late : Option Late
  hazard : List (Nat × Nat)
  kept : Option Kept
  listCrc : Dword
  workCrc : Dword
  completed : Nat
  skipped : Nat
  lastRoute : Option (Nat × Nat)
  routes : List (Nat × Nat)
  waitDone : Option Nat
deriving DecidableEq, Repr

/-- A stream with nothing fetched. -/
def StreamState.idle : StreamState := ⟨[], [], none, none, [], none, 0#64, 0#64, 0, 0, none, [], none⟩

end Sys2Proof.Machine
end

