-- ==== Sys2Proof/Machine/UnitTypes.lean ====
section
/-! DEFINITION. The state the units hold beyond their registers: Compass protocols, fabric ports, Charts, the Logbook,
the second key, cores. -/
namespace Sys2Proof.Machine

/-! The Compass (07_compass_routing.md). -/

/-- The state of one slot of one token (R170, R171, R175). -/
inductive SlotState where
  | pending (pos : Nat)
  | accepted (pos : Nat)
  | pass (pos : Nat)
  | refused
  | dropped
  | skipped
deriving DecidableEq, Repr

/-- One token of a running protocol: its candidates (map entry, score) in order, its slots, its next spill position. -/
structure TokenState where
  cands : List (Nat × Word)
  slots : List SlotState
  next : Nat
deriving DecidableEq, Repr

/-- An entry of a COUNT or GRANT set: expert, position, count, and of a PLACE set: expert, base, count. -/
structure CountEntry where
  expert : Nat
  pos : Nat
  count : Nat
deriving DecidableEq, Repr

/-- One message set under way: its sender, its entries so far, whether END has come, and REJECTED of its blocks. -/
structure MsgSet where
  type : Nat
  round : Nat
  sender : Nat
  entries : List CountEntry
  ended : Bool
  rejected : Bool
deriving DecidableEq, Repr

/-- One count-then-grant protocol in flight (R175): the run that owns its round-0 blocks, its tokens, the message sets received,
the COUNT entries sent in each round, the round its source part is in, the rounds run once they have ended, the round its home
part allots next, what its experts have left (by expert), what they granted (source, expert, rows) and were asked for. -/
structure Protocol where
  id : Nat
  cmd : RouteCmd
  tag : Word
  step : Nat
  issued : Nat
  tokens : List TokenState
  sets : List MsgSet
  sent : List (Nat × List CountEntry)
  srcRound : Nat
  rounds : Option Nat
  homeRound : Nat
  left : List (Nat × Nat)
  granted : List (Nat × Nat × Nat)
  demand : List (Nat × Nat)
deriving DecidableEq, Repr

/-- Early messages held for one LAYER and MICROBATCH (R184). -/
structure HeldMsgs where
  layer : Nat
  microbatch : Nat
  msgs : List Packet
deriving DecidableEq, Repr

/-- The figures of a FINAL record that the Compass hands to the Sextant (R185): its header counts, and ROWS and DEMAND of its
local slots. -/
structure RouteFigs where
  tokens : Nat
  k : Nat
  accepted : Nat
  spilled : Nat
  dropped : Nat
  nanTokens : Nat
  skipped : Nat
  rows : List Nat
  demand : List Nat
deriving DecidableEq, Repr

/-- A record claimed in a step, whether it is FINAL, and the experts homed here with their local slots, by which the exchange finds
its rows (R181, R188, R196). -/
structure Claimed where
  layerSlot : Nat
  layer : Nat
  microbatch : Nat
  step : Nat
  final : Bool
  experts : List (Nat × Nat)
deriving DecidableEq, Repr

/-- The figures of one FINAL record as handed over (R185): its layer and step. -/
structure Handed where
  layer : Nat
  step : Nat
  figs : RouteFigs
deriving DecidableEq, Repr

/-- The protocols in flight, the messages held, the records claimed in the step, and the figures handed to the Sextant in it. -/
structure CmpState where
  protocols : List Protocol
  held : List HeldMsgs
  claimed : List Claimed
  handed : List Handed
deriving DecidableEq, Repr

/-! Fabric ports and Charts (13_fabric_and_charts.md). -/

/-- A link block at its sender and the unit that owns it there: 0 for none, else the number of the run that waits for
its blocks to be accepted or acknowledged (R201, R296, R334). `run` is the port's re-send run number when the block joined its
queue (R321). -/
structure Queued where
  block : Block
  /-- DESIGN CHOICE, log entry 4: the run that queued the block -/
  owner : Nat
  /-- the re-send runs of its port that it has not had to wait behind (R322) -/
  run : Nat
  /-- the port whose input buffer it still stands in, for one passing through (R319) -/
  via : Option Nat
  /-- how often in succession it has been re-sent (R316) -/
  again : Nat
deriving DecidableEq, Repr

/-- A packet open in a flow at the receiver (R326): the payload so far. -/
structure OpenFlow where
  src : Nat
  cls : Nat
  stripe : Nat
  chart : Nat
  body : List Byte
deriving DecidableEq, Repr

/-- One fabric port: sender side, receiver side and training (R311 to R319). `retry` holds the blocks not yet acknowledged, oldest
first, `resendFrom` the place in it of the next block of a re-send run, `resends` how often in succession its oldest has been
re-sent; `nak` says that the receiver discards until the expected SEQ arrives, `nakDue` that the next control word says so; `wire`
and `control` are what the latest transmit slot carried, `parkWords` the park words sent on leaving (R453). -/
structure Port where
  attempts : Nat
  retraining : Bool
  txSeq : Nat
  retry : List Queued
  resendFrom : Option Nat
  run : Nat
  queues : List (List Queued)
  credits : List Nat
  deficits : List Nat
  turn : Nat
  slot : Nat
  rxSeq : Nat
  nak : Bool
  nakDue : Bool
  accepted : Nat
  returns : List Nat
  flows : List OpenFlow
  ready : List Packet
  wire : List Block
  control : List ControlWord
  parkWords : Nat
deriving DecidableEq, Repr

/-- A member of a Chart (R327). -/
structure Member where
  package : Nat
  parent : Nat
deriving DecidableEq, Repr

/-- A route-table entry (R327). -/
structure Route where
  dest : Nat
  hops : Nat
  stripes : Nat
  ports : List Nat
deriving DecidableEq, Repr

/-- A node of a group tree (R327). -/
structure Node where
  package : Nat
  parent : Nat
deriving DecidableEq, Repr

/-- A Chart as loaded (R327, R328). -/
structure Chart where
  id : Word
  classes : Nat
  weights : List Nat
  members : List Member
  routes : List Route
  groups : List (List Node)
deriving DecidableEq, Repr

/-- The phases of a LEG (R332). -/
inductive LegPhase where
  | waiting
  | barrier
deriving DecidableEq, Repr

/-- A LEG under way (R332, R333): `begins` says that it begins a step (R331), `stamp` when it was issued, `switched` when its
barrier began. -/
structure LegRun where
  cmd : LegCmd
  begins : Bool
  phase : LegPhase
  stamp : Dword
  /-- the stamp was taken while the time base was not locked (R355) -/
  unsync : Bool
  switched : Nat
  chartAId : Word
  chartBId : Word
  sentUp : Bool
deriving DecidableEq, Repr

/-- A collective's message from a tree neighbour, kept until this package takes part (R333). -/
structure TreeMsg where
  sender : Nat
  body : List Byte
deriving DecidableEq, Repr

/-- A remote write being sent (R334): the number its blocks carry, and whether a failing port has lost one of them (R313). -/
structure PostRun where
  id : Nat
  lost : Bool
deriving DecidableEq, Repr

/-- `live` and `replay` are the two banks of Charts, `govReplay` CHT_GOVERN as it stands in WITNESS mode (R329); `stripeNext` the
next stripe of a remote write by destination (R325), `discardedWrites` the flows of which a block has been discarded since their
last LAST (R335), `replayFlows` the packets open among replayed blocks (R379), `loop` what this package has sent to itself. -/
structure ChtState where
  live : List (Option Chart)
  replay : List (Option Chart)
  /-- DEDUCED, log entry 37: the CHT_GOVERN value that a replay uses in place of the register -/
  govReplay : Word
  leg : Option LegRun
  barriers : List TreeMsg
  firstLeg : Bool
  lastLeg : Option (Nat × Dword)
  post : Option PostRun
  stripeNext : List (Nat × Nat)
  discardedWrites : List (Nat × Nat)
  replayFlows : List OpenFlow
  loop : List Packet
  /-- CHT_PACKAGE has been written since reset (R5) -/
  numbered : Bool
  /-- class 4 has a Chart whose barrier has not completed (R16, R332) -/
  unbarred : Bool
  /-- DESIGN CHOICE, log entry 4: the runs that had blocks discarded at this package, once for each -/
  stuck : List Nat
deriving DecidableEq, Repr

/-! The Logbook (14_logbook_and_replay.md). -/

/-- `nextOut` is the offset of the next record LOG_NEXT hands out (R350), `lost` and `lostFirst` the overrun under way (R352),
`sealOffset` and `sealDigest` the latest seal of the job (R349), `segNumber` and `segDigest` the latest SEGMENT record (R470),
`rerunTo` the last step appended before a rollback (R353), `drainedLo` the staged half of LOG_DRAINED, `ptpShift` the time base's
correction. -/
structure LogState where
  nextOut : Nat
  lastNext : Word
  lost : Nat
  lostFirst : Nat
  sealOffset : Nat
  /-- the bytes appended since the previous seal (R349) -/
  journal : List Byte
  sealDigest : List Byte
  segNumber : Nat
  segDigest : List Byte
  jobStarted : Bool
  jobFirstStep : Dword
  rerunTo : Option Nat
  stallSince : Option Nat
  drainedLo : Word
  spilling : Bool
  ptpOffset : Int
  ptpShift : Int
deriving DecidableEq, Repr

/-! Cores and the second key (15_silent_errors.md). -/

/-- The state of one core that is not plainly ACTIVE, or whose generation has moved (R367). -/
structure CoreInfo where
  state : Nat
  gen : Nat
  probLeft : Nat
  rejected : Bool
deriving DecidableEq, Repr

/-- What an unlisted core reads as: ACTIVE, generation 0. -/
def coreDefault (_ : Nat) : CoreInfo := ⟨2, 0, 0, false⟩

/-- What a core reports of a checksum mismatch to fault checking (R81): the operation by its stream (1 for backfill) and its count
in it, the item by group and number, the block, and the masks of the mismatch. -/
structure ChkReport where
  stream : Nat
  operation : Nat
  group : Nat
  item : Nat
  block : Nat
  rowMask : Nat
  colMask : Nat
  corner : Bool
deriving DecidableEq, Repr

/-- Core states, spare lines used by cluster (R123), the clusters whose margin returns to 0 at the next boundary (R368), the cores
fenced while an operation runs, which stay in its enabled maps until its boundary (R64, R369), and the latest report of a
checksum mismatch (R81). -/
structure ChkState where
  cores : Assoc CoreInfo
  lines : Assoc Nat
  returning : List Nat
  leaving : List Nat
  report : Option ChkReport
deriving DecidableEq, Repr

/-- What the array holds beside the kept results: the table the sequencer built for the latest plain product, which lies in its
region of the hub SRAM (R66, R411), and by cluster how many tiles of partial sums the latest operation put into its combine
buffer (R64). -/
structure ArrState where
  table : Option PTable
  combine : Assoc Nat
deriving DecidableEq, Repr

/-- The two digests of one step (R380). -/
structure StepDigest where
  step : Nat
  rec0 : Dword
  rec1 : Dword
  out0 : Dword
  out1 : Dword
  closed : Bool
deriving DecidableEq, Repr

/-- A FIX under way (R372, R373): when it was issued, whether its up message has gone, and VOTE of its record (R386). -/
structure FixRun where
  cmd : FixCmd
  issued : Nat
  sentUp : Bool
  vote : Nat
deriving DecidableEq, Repr

/-- The digests of one package's step as second-key messages carry them: record lanes 0 and 1, outbound lanes 0 and 1 (R380). -/
structure Digests where
  rec0 : Dword
  rec1 : Dword
  out0 : Dword
  out1 : Dword
deriving DecidableEq, Repr

/-- A second-key request of this package for a step it holds suspect (R380, R381): its own digests, the witness's once its verdict
was UNEQUAL, whether the third computation has been ordered, and CAUSE of the rollback it decided (R386; 0 before). -/
structure SkRequest where
  step : Nat
  since : Nat
  own : Digests
  witness : Option Digests
  third : Bool
  cause : Nat
deriving DecidableEq, Repr

/-- A request this package serves as witness (R380). -/
structure WitnessJob where
  suspect : Nat
  step : Nat
  digests : Digests
deriving DecidableEq, Repr

/-- A capture slot (R378). -/
structure Capture where
  step : Nat
  used : Nat
  incomplete : Bool
deriving DecidableEq, Repr

/-- The fix logic. `firstStep` is the step after the fixed one the job started from (R18), `bad` and `suspect` the flags (R374), `voted` the
steps whose vote has been taken and that are not fixed, `awaiting` the decisions awaited by step (R375, R376), `digests` the last
8 steps', `votes` and `flushMsgs` the messages kept until this package takes part, `replayPos` the place of a replay in its
capture, `rollback` a rollback under way with the pages `drained` for it (R384), `compresses` a job that compresses gradients
(R226), `fixedLost` a lost last fixed version (R119), `holds` the suspect packages and steps for which the next step is held (R383), `flushLast` the totals of the latest flush
round, `flushUp` that the up message of the present one has gone, `sentBlocks` and `takenBlocks` S and T of R385. -/
structure SkyState where
  firstStep : Nat
  bad : List Nat
  suspect : List Nat
  voted : List Nat
  awaiting : List (Nat × Nat)
  digests : List StepDigest
  fix : Option FixRun
  votes : List TreeMsg
  requests : List SkRequest
  jobs : List WitnessJob
  captures : List Capture
  replayPos : Nat
  rollback : Bool
  drained : List (Nat × Nat)
  /-- DEDUCED, log entry 27: a REDUCE of this job compresses -/
  compresses : Bool
  fixedLost : Bool
  holds : List (Nat × Nat)
  flushing : Bool
  flushUp : Bool
  flushLast : Option (Nat × Nat)
  flushMsgs : List TreeMsg
  sentBlocks : Nat
  takenBlocks : Nat
deriving DecidableEq, Repr

/-! Token exchange (08_token_exchange.md). -/

/-- A READY message kept by the exchange engine (R197); `zeros` says that its reserved bytes are 0. -/
structure ReadyMsg where
  kind : Nat
  layer : Nat
  microbatch : Nat
  sender : Nat
  step : Nat
  rows : Nat
  zeros : Bool
deriving DecidableEq, Repr

/-- A DATA packet not yet released: whom it goes to, its rows and its bytes (R198). -/
structure OwedPacket where
  peer : Nat
  rows : Nat
  bytes : List Byte
deriving DecidableEq, Repr

/-- The rows an XCHG owes one peer in all. -/
structure Owed where
  peer : Nat
  rows : Nat
deriving DecidableEq, Repr

/-- A row an XCHG expects: who sends it, its expert and row there, and its row of the receive buffer (R196). -/
structure Expected where
  peer : Nat
  expert : Nat
  row : Nat
  place : Nat
deriving DecidableEq, Repr

/-- An XCHG in flight (R194 to R210): what it owes each peer, the packets not yet released in the order of R199, the rows it
expects, the buffer rows that have arrived. -/
structure XchgRun where
  id : Nat
  cmd : XchgCmd
  tag : Word
  layer : Nat
  step : Nat
  width : Nat
  issued : Nat
  stamp : Dword
  sent : Nat
  received : Nat
  stale : Nat
  owed : List Owed
  queue : List OwedPacket
  expected : List Expected
  got : List Nat
deriving DecidableEq, Repr

/-- An XCHG that ended with a fault, whose later messages are discarded (R209). -/
structure EndedXchg where
  kind : Nat
  layer : Nat
  microbatch : Nat
  step : Nat
deriving DecidableEq, Repr

/-- The exchanges in flight, the READYs kept for later ones (R197), and the exchanges ended with a fault (R209). -/
structure XchState where
  runs : List XchgRun
  readys : List ReadyMsg
  ended : List EndedXchg
deriving DecidableEq, Repr

/-! Reductions (09_reductions.md). -/

/-- How a REDUCE is treated (R212, R220, R221, R227, R228, R231). -/
inductive RedMode where
  | exact
  | fast
  | compressed
  | tally
  | consensus
deriving DecidableEq, Repr

/-- Where a REDUCE in flight stands: live; all its results written; failed, with later messages of it still to be discarded
(R237). -/
inductive RedPhase where
  | live
  | written
  | failed
deriving DecidableEq, Repr

/-- What has come of one TYPE of message: the tree neighbour it came from, the package that formed it, its records by group,
chunk or element, and whether END has come (R233). -/
structure RedSet where
  type : Nat
  fromPkg : Nat
  origin : Nat
  recs : List (Nat × List Byte)
  ended : Bool
deriving DecidableEq, Repr

/-- A REDUCE in flight (R211 to R238): its treatment, whether it contributes (R228), its own elements (the sums c under
compression) or tally, its place in the group's tree, what it has received, the agreed E and NF of each group or chunk (R216),
and the TYPEs it has sent of its own. -/
structure RedRun where
  id : Nat
  cmd : ReduceCmd
  tensorId : Word
  tag : Word
  cfg : Nat
  step : Nat
  issued : Nat
  stamp : Dword
  mode : RedMode
  phase : RedPhase
  nfGroups : Nat
  overflows : Nat
  stale : Nat
  own : Bool
  vals : List Word
  tally : List Int
  members : List Nat
  parent : Option Nat
  children : List Nat
  sets : List RedSet
  agreed : Option (List (Int × Bool))
  sent : List Nat
  /-- SEEN as the command issued (R231) -/
  seen : Bool
deriving DecidableEq, Repr

/-- The slices: the runs, the messages held for later commands (R238), whether the step has its first finding (R232), and the
step's own tally with its step (R228). -/
structure OwnTally where
  step : Nat
  table : Nat
  tally : List Int
deriving DecidableEq, Repr

structure RedState where
  runs : List RedRun
  held : List Packet
  originDone : Bool
  ownTallies : List OwnTally
deriving DecidableEq, Repr

/-! The Helm and the Sextant (10_helm_update.md, 11_scales_and_sextant.md). -/

/-- An exact sum of squares: n2 × 2^(2g - 62), `g` none where no finite nonzero value has entered (R251). -/
structure NormSum where
  n2 : Nat
  g : Option Int
  nf : Bool
deriving DecidableEq, Repr

/-- What the Helm holds of one layer within a step (R251, R255). -/
structure LayerRec where
  layer : Nat
  updated : Bool
  lane0 : Dword
  lane1 : Dword
  blocks : Nat
  xw : NormSum
  xd : NormSum
  gnorm : Word
deriving DecidableEq, Repr

/-- `opened` is the slot the step writes (8 where it lies outside the ring, R379), `seed` says that the next HELM_SET STEP names
the step of slot 0 (R401), `pinAsked` a PIN not yet in effect (R259), `ringWait` a wait for a free slot (R130). -/
structure HlmState where
  opened : Option Nat
  skip : Bool
  seed : Bool
  layers : List LayerRec
  pinAsked : Bool
  ringWait : Bool
deriving DecidableEq, Repr

/-- A non-finite finding as the Sextant keeps it: the command's place in the stream's order, and the element (R281). -/
structure Finding where
  order : Nat
  unit : Nat
  layer : Nat
  tensor : Word
  index : Nat
  tag : Word
deriving DecidableEq, Repr

structure SxtState where
  first : Option Finding
  layerNf : Assoc Nat
  order : Nat
deriving DecidableEq, Repr

/-! Hinges and the send engine (12_pipeline_hinges.md). -/

/-- A packet landing in a Hinge: its micro-batch, the block numbers landed, the bytes landed, and whether it is lost. -/
structure Landing where
  microbatch : Nat
  blocks : List Nat
  bytes : Nat
  lost : Bool
deriving DecidableEq, Repr

structure HngState where
  landings : List Landing
  next : Nat
  held : List Nat
  occ : Nat
  stopped : Bool
  seq : Nat
deriving DecidableEq, Repr

/-- A SEND in flight (R296, R297); `going` says that its blocks have gone to the ports' queues. -/
structure SendRun where
  id : Nat
  going : Bool
  cmd : SendCmd
  tag : Word
  issued : Nat
  stamp : Dword
  blocks : Nat
  stops : Nat
  lost : Bool
deriving DecidableEq, Repr

/-- What the sender keeps of one stream: the SEQ of the latest STOP or GO applied and whether it is stopped (R300). -/
structure SendStream where
  dest : Nat
  hinge : Nat
  lastSeq : Option Nat
  stopped : Bool
deriving DecidableEq, Repr

structure SndState where
  runs : List SendRun
  streams : List SendStream
deriving DecidableEq, Repr

end Sys2Proof.Machine
end

