-- ==== Sys2Proof/Machine/HubTypes.lean ====
section
/-! DEFINITION. The state of the hub, the carrier, the fuse block and module flash (16 to 19, 21). -/
namespace Sys2Proof.Machine

/-- The fuse block (R462) with the fused core maps (R10), the MAC addresses (R494) and whether its fields read without
parity error. A cluster no entry lists has every core fused good. -/
structure Fuse where
  keyHash : List (BitVec 256)
  programmed : BitVec 3
  revoked : BitVec 3
  svn : BitVec 64
  serial : BitVec 64
  debugDisable : Bool
  parityGood : Bool
  mac0 : BitVec 48
  mac1 : BitVec 48
  maps : Assoc (BitVec 128)
deriving DecidableEq, Repr

/-- The fused map of an unlisted cluster. DESIGN CHOICE, log entry 5. -/
def fusedDefault (_ : Nat) : BitVec 128 := BitVec.allOnes 128

/-- One copy of the Cehan bundle as module flash holds it (R463): its header facts and what each check of R465 that is
the copy's own finds. `digests` are, for a copy that a recovery bundle has written, the SHA-256 of its header, of its operating image
with the service firmware, of its curves and of its operating image (R470). -/
structure Bundle where
  headerGood : Bool
  slot : Nat
  svn : Nat
  advance : Bool
  revoke : Bool
  revokeMask : BitVec 3
  keyHash : BitVec 256
  signatureGood : Bool
  firstGood : Bool
  restGood : Bool
  readable : Bool
  digests : Option (List (List Byte))
deriving DecidableEq, Repr

/-- A run of equal averages of the input voltage (R434): four times the average in mV, which is the sum of its four samples, for so
many microseconds. -/
structure AvgRun where
  sum4 : Nat
  us : Nat
deriving DecidableEq, Repr

/-- A crash record (R411, R413, R438): the reset cause, the last PTP time, the page states and the last 4,096 averaged input
samples, newest first. DESIGN CHOICE, log entry 59. -/
structure CrashRecord where
  cause : Nat
  time : Dword
  states : List (Nat × Word)
  samples : List AvgRun
deriving DecidableEq, Repr

/-- The remap table of one stack (R118, R121): rows spared, newest first, and spare rows used. -/
structure Remap where
  rows : List Nat
  used : Nat
deriving DecidableEq, Repr

/-- One of the two copies of the fence map and the remap tables (R439): which of the writes it holds, and its CRC-32C. -/
structure MapCopy where
  gen : Nat
  fenced : List Nat
  remaps : Assoc Remap
  check : Word
deriving DecidableEq, Repr

/-- Module flash: the bundle copies; the fence map by global core index (R11) and the remap tables as they are in force, and their
two copies (R439); the Logbook spill region with the append offset of its header and the offset it begins at (R354, R438); crash
records; the device's certificate chain and the area with its encrypted private key (R469). -/
structure Flash where
  copyA : Bundle
  copyB : Bundle
  fenced : List Nat
  remaps : Assoc Remap
  mapsA : MapCopy
  mapsB : MapCopy
  spill : List Byte
  spillHeader : Nat
  spillStart : Nat
  crash : List CrashRecord
  chain : List Byte
  identityKey : List Byte
deriving DecidableEq, Repr

/-- The remap table of an unlisted stack: nothing spared. DESIGN CHOICE, log entry 5. -/
def remapDefault (_ : Nat) : Remap := ⟨[], 0⟩

/-- Where the carrier controller stands (R433, R439, R447, R449 to R455, R499). -/
inductive CarrierPhase where
  /-- no 54 V: the package is absent (R431) -/
  | dark
  /-- 54 V present, PRSNT_N not mated -/
  | unmated
  /-- PRSNT_N mated, debounce or waiting for the latch and the input (R450) -/
  | debounce
  /-- the hot-swap ramp runs -/
  | ramp
  /-- a ramp fault; a retry follows (R451) -/
  | retryWait
  /-- the ramp is complete, the 1.8 V stage in soft-start, then the 2 ms of R433 -/
  | softStart
  /-- the package is held in reset with its rails up, for want of the reference clock (R13) -/
  | held
  /-- reset released -/
  | running
  /-- the power-off sequence of R439, `step` of its six done -/
  | poweringOff (step : Nat)
  /-- off after a sag (R440) -/
  | offSag
  /-- off after a thermal trip (R447) -/
  | offTrip
  /-- off after a removal: the switch is open (R453, R454) -/
  | offRemoved
  /-- off until 54 V is removed or PRSNT_N breaks (R447, R451, R499); `prsnt` says whether a break ends it -/
  | locked (prsnt : Bool)
deriving DecidableEq, Repr

/-- The carrier controller: what it keeps while 54 V is present. `since` is the time of the latest change of phase,
`cause` the reset cause of the latest release and of the next, `retries` and `peakDa` what HOT_INRUSH shows, `trips` the times of
thermal trips, newest first, `excluded` the bundle copies that stage 6 rejected, with their error codes (R465; false for A),
`firstFailed` the copy that failed first (R468), `refclk` that the reference clock is declared present (R502), `afterOff` where the
power-off sequence under way ends, `mated` that PRSNT_N is mated (R449), `recent` the last three samples of the input and `avg` the
averages of the last second (R434), both newest first. -/
structure Carrier where
  phase : CarrierPhase
  since : Nat
  cause : Nat
  retries : Nat
  trips : List Nat
  peakDa : Nat
  /-- DEDUCED, log entry 54: the copies that stage 6 found bad, left out until 54 V is removed -/
  excluded : List (Bool × Nat)
  /-- DEDUCED, log entry 54 -/
  firstFailed : Option Bool
  refclk : Bool
  afterOff : CarrierPhase
  mated : Bool
  recent : List Nat
  avg : List AvgRun
deriving DecidableEq, Repr

/-- A fault raised on a hart by a register access (R478). -/
structure AccessFaultInfo where
  addr : Nat
  width : Nat
  write : Bool
deriving DecidableEq, Repr

/-- An entry of a hart's physical memory protection that denies it a range of addresses, and whether it is locked (R467). -/
structure PmpEntry where
  lo : Nat
  hi : Nat
  locked : Bool
deriving DecidableEq, Repr

/-- One hub hart as the registers see it (R409, R415, R467, R478, R479): released from reset, the latched _HI values by
address, the staged low words by mailbox, the value of its latest register read, its latest access fault, the ranges that its
physical memory protection denies it. -/
structure Hart where
  released : Bool
  latched : List (Nat × Word)
  staged : Assoc Word
  lastRead : Word
  fault : Option AccessFaultInfo
  pmp : List PmpEntry
deriving DecidableEq, Repr

/-- A packet in a mailbox. -/
structure MbxPacket where
  lo : Word
  hi : Word
  sender : Nat
deriving DecidableEq, Repr

/-- One mailbox (R415, R430). -/
structure Mailbox where
  owner : Nat
  packets : List MbxPacket
  lastLo : Word
  lastHi : Word
  overrun : Bool
  underrun : Bool
deriving DecidableEq, Repr

/-- A claim a hart has not completed: the source and the priority pushed (R421). -/
structure Claim where
  source : Nat
  prio : Nat
deriving DecidableEq, Repr

/-- An external input (R424, R425): raw level and since when, filtered level, when it last became active, stuck. -/
structure ExtInput where
  raw : Bool
  rawSince : Nat
  level : Bool
  activeSince : Nat
  stuck : Bool
deriving DecidableEq, Repr

/-- What the interrupt controller holds beside its registers: the rotation of each group, and the beginning and end of its
hold-off (R422, R423). -/
structure IrqState where
  rot : List Nat
  holdFrom : List Nat
  holdUntil : List Nat
deriving DecidableEq, Repr

/-- Boot as HUB_BOOT_STAGE shows it (R412, R413): the stage (15 complete), the error, the milliseconds frozen at the end;
the bundle copy running (false for A), the other copy's error code, the copy that failed first (R468), and the types of the
components loaded into hub SRAM (R411, R463, R467): 0, 1 and 6 into the Cehan region, 2 to 5 into the service region, 2 MiB each in
hart order. -/
structure BootState where
  stage : Nat
  error : Nat
  frozen : Option Nat
  copy : Option Bool
  otherError : Nat
  firstFailed : Option Bool
  recovery : Bool
  loaded : List Nat
deriving DecidableEq, Repr

/-- The power manager (R434 to R448): shed level and when it was entered, the seeker's requests and the clock targets by
cluster, the 1 ms power, whether a voltage step stands refused (R444), the cap that holds while ALERT is active (R448), when a
removal was requested and whether a quiesce has begun (R452), the sensors that read out of range, by die and place, the dies'
temperatures (R446), and whether the DRAM stacks are in self-refresh (R437). -/
structure PwrState where
  level : Nat
  since : Nat
  perf : Assoc Nat
  target : Assoc Nat
  watts : Nat
  probVRefused : Bool
  alertCap : Option Nat
  graceFrom : Option Nat
  quiesced : Bool
  invalid : List (Nat × Nat)
  temps : List Int
  selfRefresh : Bool
deriving DecidableEq, Repr

/-- The seeker's request and the target of an unlisted cluster. DESIGN CHOICE, log entry 6. -/
def perfDefault (_ : Nat) : Nat := 2000
/-- DESIGN CHOICE, log entry 6. -/
def targetDefault (_ : Nat) : Nat := 2000

/-- The management side (R405, R438, R469 to R471, R473, R494): roll-call count, transitions since the latest roll call by page,
the latest roll call, the latest report with the certificate chain sent beside it, the chain and signature presented in the latest
handshake, the debug nonce, the open sessions, the code of the latest recovery bundle refused (R468), the two links, and the gaps
reported to the collector: where the spill ended and where the journal did. -/
structure MgtState where
  rollSeq : Nat
  changes : Assoc Nat
  rollCall : List Byte
  report : List Byte
  reportChain : List Byte
  presented : List Byte × List Byte
  nonce : List Byte
  sessions : Nat
  refused : Nat
  up : List Bool
  gaps : List (Nat × Nat)
deriving DecidableEq, Repr

/-- A page no transition has touched since the latest roll call. -/
def changesDefault (_ : Nat) : Nat := 0

/-- A curve table as loaded into a slot (R98 to R100): its header facts and its image; the default set's image is free
(R100), named by its number. -/
structure Curve where
  default : Option Nat
  image : List Byte
deriving DecidableEq, Repr

end Sys2Proof.Machine
end

