-- ==== Sys2Proof/Machine/Curves.lean ====
section
/-! DEFINITION. Curve tables and their evaluation (R95 to R97, R100). -/
namespace Sys2Proof.Machine

/-! The default set (R100). -/

/-- The header fields a table of the default set has by R100. -/
structure DefaultCurve where
  mode : Nat
  seg : Nat
  post : Nat
  low : Nat
  high : Nat
  lo : Word
  scale : Word
  lowConst : Word
  highConst : Word
  cm : Word
deriving DecidableEq, Repr

/-- The tables of slots 0 to 11. -/
def defaultCurves : List DefaultCurve :=
  let f1 := 0x3F800000#32
  [⟨2, 6, 0, 0, 0, 0#32, 0#32, 0#32, 0#32, 0x3FB8AA3B#32⟩,
   ⟨2, 6, 0, 0, 0, 0#32, 0#32, 0#32, 0#32, 0x3F800000#32⟩,
   ⟨1, 8, 1, 0, 0, 0#32, 0#32, 0#32, 0#32, 0x3F317218#32⟩,
   ⟨1, 8, 2, 0, 0, 0#32, 0#32, 0#32, 0#32, 0#32⟩,
   ⟨1, 7, 3, 0, 0, 0#32, 0#32, 0#32, 0#32, 0#32⟩,
   ⟨0, 10, 0, 0, 0, 0xC1800000#32, 0x42000000#32, 0#32, f1, 0#32⟩,
   ⟨0, 10, 0, 0, 0, 0xC1000000#32, 0x42800000#32, 0xBF800000#32, f1, 0#32⟩,
   ⟨0, 10, 0, 0, 1, 0xC1000000#32, 0x42800000#32, 0#32, 0#32, 0#32⟩,
   ⟨0, 10, 0, 0, 1, 0xC2000000#32, 0x41800000#32, 0#32, 0#32, 0#32⟩,
   ⟨0, 9, 0, 0, 1, 0xC2000000#32, 0x41000000#32, 0#32, 0#32, 0#32⟩,
   ⟨3, 8, 0, 0, 0, 0#32, 0#32, 0#32, 0#32, 0#32⟩,
   ⟨3, 8, 0, 0, 0, 0#32, 0#32, 0#32, 0#32, 0#32⟩]

def DefaultCurve.zero : DefaultCurve := ⟨0, 0, 0, 0, 0, 0#32, 0#32, 0#32, 0#32, 0#32⟩

def defaultCurve (n : Nat) : DefaultCurve := defaultCurves.getD n DefaultCurve.zero

/-- The length of an image in bytes (R95). -/
def imageBytes (mode seg post : Nat) : Nat :=
  if mode = 3 then 64 + 1024 else 64 + alignUp (16 * 2 ^ seg * (if mode = 1 ∧ post = 3 then 2 else 1)) 64

def DefaultCurve.length (c : DefaultCurve) : Nat := imageBytes c.mode c.seg c.post

/-- A coefficient the spec does not fix: free, and finite, as the bounds of R100 need. -/
def freeCoef (n i : Nat) : Word := let w := Config.curveWord n i; if fIsFinite w then w else 0#32

/-- 32-bit word `i` of the image of default table `n`. The header's CURVE_ID and the coefficients are free but for the exact
points of R100: c0 of the entry that ±0 selects in slots 0 and 1 is 1.0, and c0 of the entry that 1.0 selects in slot 2 is
+0. LUT8 tables hold the exact values of their codes. DESIGN CHOICE, log entry 20. -/
def defaultWord (n i : Nat) : Word :=
  let c := defaultCurve n
  match i with
  | 0 => (Config.curveWord n 0 &&& 0xFFFF#32) ||| BitVec.ofNat 32 (0x10000 * c.mode + 0x1000000 * c.seg)
  | 1 => BitVec.ofNat 32 (c.post + c.low * 0x100 + 0x10000 * c.high)
  | 2 => c.lo
  | 3 => c.scale
  | 4 => c.lowConst
  | 5 => c.highConst
  | 6 => c.cm
  | 7 => BitVec.ofNat 32 c.length
  | _ =>
    if i < 16 then 0#32
    else if n = 10 then HerKind.e4m3.read (i - 16) 0x3F800000#32
    else if n = 11 then HerKind.e5m2.read (i - 16) 0x3F800000#32
    else if (n = 0 ∨ n = 1) ∧ i = 16 + 4 * 32 then 0x3F800000#32
    else if n = 2 ∧ i = 16 then 0#32
    else freeCoef n i

/-- The bytes of the image of default table `n`. -/
def defaultImage (n : Nat) : List Byte :=
  ((List.range ((defaultCurve n).length / 4)).map fun i => natBytes 4 (defaultWord n i).toNat).flatten

/-- 32-bit word `i` of a loaded table. -/
def Curve.word (c : Curve) (i : Nat) : Word :=
  match c.default with
  | some n => defaultWord n i
  | none => BitVec.ofNat 32 (leNat ((c.image.drop (4 * i)).take 4))

def Curve.bytes (c : Curve) : List Byte :=
  match c.default with
  | some n => defaultImage n
  | none => c.image

def Curve.id (c : Curve) : Nat := bits (c.word 0) 15 0
def Curve.mode (c : Curve) : Nat := bits (c.word 0) 23 16
def Curve.seg (c : Curve) : Nat := bits (c.word 0) 31 24
def Curve.post (c : Curve) : Nat := bits (c.word 1) 7 0
def Curve.lowIdent (c : Curve) : Bool := bits (c.word 1) 15 8 == 1
def Curve.highIdent (c : Curve) : Bool := bits (c.word 1) 23 16 == 1

/-! Evaluation (R96, R97). -/

/-- The cubic of entry i. -/
def Curve.poly (c : Curve) (i : Nat) (f : Word) : Word :=
  let k := fun (j : Nat) => c.word (16 + 4 * i + j)
  fFma (fFma (fFma (k 3) f (k 2)) f (k 1)) f (k 0)

/-- v × 2^k with one rounding. -/
def scaleBy (v : Word) (k : Int) : Word := toF32 (FVal.mul (f32 v) (.fin false 1 k))

/-- 2^n as FP32. -/
def fPow2 (n : Nat) : Word := toF32 (.fin false 1 n)

def posInf : Word := 0x7F800000#32
def negInf : Word := 0xFF800000#32
def fOne : Word := 0x3F800000#32

def Curve.lin (c : Curve) (x : Word) : Word :=
  let u := fMul (fSub x (c.word 2)) (c.word 3)
  if fLt u 0#32 then (if c.lowIdent then x else c.word 4)
  else if fLe (fPow2 c.seg) u then (if c.highIdent then x else c.word 5)
  else
    let i := (f32 u).floorInt.toNat
    c.poly i (fSub u (fOfNat i))

def Curve.exp2 (c : Curve) (x : Word) : Word :=
  let t := fMul x (c.word 6)
  if fIsNan t then nanF32
  else if fLe 0x43000000#32 t then posInf
  else if fLt t 0xC3160000#32 then 0#32
  else
    match (f32 t).toIntEven with
    | none => nanF32
    | some k =>
      let r := fSub t (fOfInt k)
      let u := fMul (fAdd r 0x3F000000#32) (fPow2 c.seg)
      let i := min (f32 u).floorInt.toNat (2 ^ c.seg - 1)
      scaleBy (c.poly i (fSub u (fOfNat i))) k

/-- |x| of a finite nonzero value as (1 + m) × 2^e: e, the entry its top mantissa bits name, and the fraction. -/
def fbitParts (seg m : Nat) (e : Int) : Int × Nat × Word :=
  let l := Nat.log2 m
  let frac := m * 2 ^ (23 - l) - 2 ^ 23
  let low := 2 ^ (23 - seg)
  (e + (l : Int), frac / low, toF32 (.fin false (frac % low) (-((23 - seg : Nat) : Int))))

def Curve.fbit (c : Curve) (x : Word) : Word :=
  match f32 x with
  | .nan => nanF32
  | .inf s =>
    (match c.post with
      | 0 => c.word 5
      | 1 => if s then nanF32 else posInf
      | 2 => if s then 0x80000000#32 else 0#32
      | _ => if s then nanF32 else 0#32)
  | .fin s m e =>
    if m = 0 then
      (match c.post with
        | 0 => c.word 4
        | 1 => negInf
        | _ => if s then negInf else posInf)
    else if s ∧ (c.post = 1 ∨ c.post = 3) then nanF32
    else
      let p := fbitParts c.seg m e
      match c.post with
      | 0 => c.poly p.2.1 p.2.2
      | 1 => fFma (fOfInt p.1) (c.word 6) (c.poly p.2.1 p.2.2)
      | 2 => toF32 (FVal.mul (f32 (c.poly p.2.1 p.2.2)) (.fin s 1 (-p.1)))
      | _ => scaleBy (c.poly ((p.1 % 2).toNat * 2 ^ c.seg + p.2.1) p.2.2) (-(p.1 / 2))

/-- The curve applied to an FP32 value, read from the storage code `code` (R96). DEDUCED, log entry 18. -/
def Curve.eval (c : Curve) (x : Word) (code : Nat) : Word :=
  if fIsNan x then nanF32
  else
    match c.mode with
    | 0 => c.lin x
    | 1 => c.fbit x
    | 2 => c.exp2 x
    | _ => c.word (16 + code % 256)

end Sys2Proof.Machine
end

