-- ==== Sys2Proof/Machine/State.lean ====
section
/-! DEFINITION. The machine's state as plain data: the waiting commands, the fuse block, the carrier controller, the harts,
the mailboxes, the claims, and the device proper; the reasons a step could stop; the state after reset. -/
namespace Sys2Proof.Machine

/-- Reasons for a fault. Nothing in this block stops the machine (see the log, entry 1), so no command raises one; the
constructor stands for the interface only. Safe: a fault would only end a run. -/
inductive Fault where
  /-- raised by nobody. Safe. -/
  | none
deriving DecidableEq, Repr

/-- Reasons for a refusal. -/
inductive Refusal where
  /-- raised by an arm of exec whose command has no meaning yet, by its mnemonic. Safe. -/
  | notModelled (mnemonic : String)
deriving DecidableEq, Repr

/-- The value a register reads as while nothing has written it: the reset values of its row's fields; PAGE_ID and the
capability words follow the page (R481). -/
def rowReset (fields : List RegField) : Word :=
  fields.foldl (fun w f => setBits w f.hi f.lo f.reset) 0#32

/-- The row of a page that covers an offset. -/
def rowAt (rows : List RegRow) (off : Nat) : Option RegRow :=
  rows.find? fun r => decide (r.off ≤ off ∧ (off - r.off) % r.stride = 0 ∧ (off - r.off) / r.stride < r.count)

/-- The page a register address lies in and the offset there; none for an absent page (R476, R477). -/
def pageOf (addr : Nat) : Option (Page × Nat) :=
  match pageTypeOf (addr / 0x1000000) with
  | none => none
  | some t =>
    let i := addr % 0x1000000 / 0x1000
    if i < pageInstances t then some (⟨t, i⟩, addr % 0x1000) else none

/-- The number of EV_PEND bits a page defines (CAPS1.EVENTS, R481, and the event table of each chapter). -/
def pageEvents : PageType → Nat
  | .hub => 4
  | .pwr => 6
  | .thm => 4
  | .irq => 3
  | .sec => 4
  | .mgt => 4
  | .log => 7
  | .seq => 7
  | .cmp => 6
  | .hlm => 4
  | .sxt => 5
  | .red => 6
  | .hng => 5
  | .fab => 5
  | .cht => 7
  | .mem => 7
  | .die => 2
  | .clu => 5
  | .chk => 6
  | .sky => 7
  | .hot => 3
  | .vtb => 6

/-- The EV_PEND bits of one page: the main stream's lacks those of the backfill stream (R163).
DEDUCED, log entry 15. -/
def eventCount (p : Page) : Nat := if p.type = .seq ∧ p.inst = 0 then 5 else pageEvents p.type

/-- The state codes software may request of a page (the Requestable column of R480). -/
def pageRequestable : PageType → List Nat
  | .hub => [2, 1, 6]
  | .log | .sxt | .sky => [2, 1]
  | .seq | .hng => [2, 3, 1]
  | .cmp | .hlm | .red | .cht => [3, 1]
  | _ => []

/-- The state codes a page can take (CAPS0.STATE_MASK), as each chapter gives them. -/
def pageStates : PageType → List Nat
  | .hub => [0, 1, 2, 3, 6, 7]
  | .pwr => [1, 2, 7]
  | .thm => [1, 2]
  | .irq => [2]
  | .sec => [1, 2, 7]
  | .mgt => [1, 2]
  | .log => [1, 2, 3, 7]
  | .seq | .cmp | .hlm | .red | .hng | .cht => [1, 2, 3, 7]
  | .sxt => [1, 2, 7]
  | .fab => [0, 1, 2, 7]
  | .mem => [1, 2, 7]
  | .die => [1, 2, 7]
  | .clu => [1, 2, 4, 5, 7]
  | .chk => [1, 2]
  | .sky => [1, 2, 3, 7]
  | .hot => [2, 3]
  | .vtb => [1, 2]

/-- The state code a page has at the release of reset (R83, R108, R131, R163, R239, R271, R289, R309, R336, R338, R360,
R387, R389, R427, R456, R458, R460, R474, R494, R495; HUB, PWR and THM: log entry 6).
DESIGN CHOICE, log entry 6. -/
def pageStateReset : PageType → Nat
  | .hub => 0
  | .fab => 0
  | .irq => 2
  | .hot => 2
  | _ => 1

/-- The bits of a list of codes as a mask. -/
def codeMask (codes : List Nat) : Nat := codes.foldl (fun m c => m + 2 ^ c) 0

/-- The reset value of a header word (R481). -/
def headerReset (p : Page) (off : Nat) : Word :=
  match off with
  | 0x000 => BitVec.ofNat 32 (0x10000000 + pageCode p.type + 0x1000 * p.inst)
  | 0x008 => BitVec.ofNat 32 (codeMask (pageRequestable p.type) + codeMask (pageStates p.type) * 0x100)
  | 0x00C => BitVec.ofNat 32 (eventCount p)
  | 0x014 => BitVec.ofNat 32 (pageStateReset p.type)
  | _ =>
    match rowAt headerRows off with
    | some r => rowReset r.fields
    | none => 0#32

/-- Location words fixed by the instance (CLU_LOCATION, MEM_LOCATION, MEM_BASE, MEM_RESERVED, DIE_LOCATION,
FAB_LOCATION). -/
def locationReset (p : Page) (off : Nat) : Option Word :=
  let i := p.inst
  match p.type, off with
  | .clu, 0x040 => some (BitVec.ofNat 32
      (i / 200 + i % 200 * 0x100 + 0x10000 * (i % 200 % 10) + 0x1000000 * (i % 200 / 10)))
  | .mem, 0x040 => some (BitVec.ofNat 32 (i + i / 2 * 0x100 + 0x1000 * (i % 2)))
  | .mem, 0x048 => some (BitVec.ofNat 32 (12 * i))
  | .mem, 0x04C => some (BitVec.ofNat 32 (if i < 16 then 2048 + 0x1000 else 512 + 0x2000))
  | .die, 0x040 => some (BitVec.ofNat 32 (i + 2 * i * 0x100 + 0x10000 * (3 * i)))
  | .fab, 0x040 => some (BitVec.ofNat 32 (i / 3 + i % 3 * 0x10))
  | _, _ => none

/-- What a register at an address reads as while nothing has written it. -/
def regReset (addr : Nat) : Word :=
  match pageOf addr with
  | none => 0#32
  | some (p, off) =>
    if off < 0x040 then headerReset p off
    else match locationReset p off with
      | some w => w
      | none =>
        match rowAt (blockRows p.type p.inst) off with
        | some r => rowReset r.fields
        | none => 0#32

/-- The device proper: time, the free-value counter, the registers, memory, module flash, and every unit. -/
structure Dev where
  /-- time since the model's origin, ns (log entry 3) -/
  now : Nat
  /-- when reset was last released, ns -/
  resetAt : Nat
  /-- DESIGN CHOICE, log entry 2: the model's own, the draws of free values made so far -/
  freeCtr : Nat
  /-- DESIGN CHOICE, log entry 4: the model's own, the number of the next run of a unit, so that queued blocks name
  their owner -/
  nextRun : Nat
  regs : Assoc Word
  /-- the bytes of DRAM, of the cluster stores and of the hub's SRAM by package address, in the one canonical form; an
  unlisted byte reads 0 (R115; DEDUCED and DESIGN CHOICE, log entries 6 and 9) -/
  mem : Mem
  /-- pages in DRAINING whose drain is complete (R485) -/
  drained : List (Nat × Nat)
  flash : Flash
  ext : List ExtInput
  seqMain : StreamState
  seqBf : StreamState
  curves : List (Option Curve)
  cmp : CmpState
  xch : XchState
  red : RedState
  hlm : HlmState
  sxt : SxtState
  hng : List HngState
  snd : SndState
  ports : List Port
  cht : ChtState
  log : LogState
  sky : SkyState
  chk : ChkState
  arr : ArrState
  /-- where each stack's scrubber stands: the number of its next block (R122) -/
  scrubAt : Assoc Nat
  irq : IrqState
  boot : BootState
  pwr : PwrState
  mgt : MgtState
deriving DecidableEq, Repr

/-- The whole machine: the commands that wait, first in first out, and the parts of the package. -/
structure State where
  pending : List Instr
  fuse : Fuse
  carrier : Carrier
  harts : List Hart
  mbx : List Mailbox
  claims : List (List Claim)
  dev : Dev
deriving DecidableEq, Repr

/-- The fuse block of the model's package (log entry 5): slot 0 programmed. DESIGN CHOICE, log entry 5. -/
def Fuse.initial : Fuse where
  keyHash := [0#256, 0#256, 0#256]
  programmed := 1#3
  revoked := 0#3
  svn := 0#64
  serial := 0#64
  debugDisable := false
  parityGood := true
  mac0 := 0#48
  mac1 := 0#48
  maps := []

/-- A bundle copy that passes R465 under the fuse block of the model's package (log entry 5).
DESIGN CHOICE, log entry 5. -/
def Bundle.initial : Bundle where
  headerGood := true
  slot := 0
  svn := 0
  advance := false
  revoke := false
  revokeMask := 0#3
  keyHash := 0#256
  signatureGood := true
  firstGood := true
  restGood := true
  readable := true
  digests := none

/-- The bytes that the CRC-32C of a copy of the maps covers. DESIGN CHOICE, log entry 5. -/
def mapBytes (gen : Nat) (fenced : List Nat) (remaps : Assoc Remap) : List Byte :=
  natBytes 8 gen ++ natBytes 4 fenced.length ++ (fenced.map (natBytes 4)).flatten ++
    (remaps.map fun e => natBytes 4 e.1 ++ natBytes 4 e.2.used ++ natBytes 4 e.2.rows.length ++
      (e.2.rows.map (natBytes 8)).flatten).flatten

/-- A copy as it is written. -/
def MapCopy.of (gen : Nat) (fenced : List Nat) (remaps : Assoc Remap) : MapCopy :=
  ⟨gen, fenced, remaps, crc32c (mapBytes gen fenced remaps)⟩

/-- Module flash as shipped (R511), with an empty fence map and empty remap tables (log entry 5).
DESIGN CHOICE, log entry 5. -/
def Flash.initial : Flash where
  copyA := Bundle.initial
  copyB := Bundle.initial
  fenced := []
  remaps := []
  mapsA := MapCopy.of 1 [] []
  mapsB := MapCopy.of 0 [] []
  spill := []
  spillHeader := 0
  spillStart := 0
  crash := []
  chain := Config.identityChain
  identityKey := Config.identityKey

/-- The carrier controller after it has released reset on an insertion, the input at 54 V (R433, R434, R450).
DESIGN CHOICE, log entry 47. -/
def Carrier.initial : Carrier where
  phase := .running
  since := 0
  cause := 1
  retries := 0
  trips := []
  peakDa := 0
  excluded := []
  firstFailed := none
  refclk := true
  afterOff := .offRemoved
  mated := true
  recent := [54000, 54000, 54000]
  avg := [⟨216000, 1000000⟩]

/-- A hart as reset leaves it. -/
def Hart.reset (released : Bool) : Hart := ⟨released, [], [], 0#32, none, []⟩

/-- The harts at the release of reset: hart 24 alone runs (R412 stage 1). -/
def hartsReset : List Hart := (List.range 28).map fun h => Hart.reset (h == 24)

/-- The mailboxes at reset: owner m mod 28, empty (R430). -/
def mailboxesReset : List Mailbox := (List.range 32).map fun m => ⟨m % 28, [], 0#32, 0#32, false, false⟩

/-- A port that has never trained. DESIGN CHOICE, log entry 6. -/
def Port.reset : Port where
  attempts := 0
  retraining := false
  txSeq := 0
  retry := []
  resendFrom := none
  run := 0
  queues := List.replicate 5 []
  credits := [32, 512, 512, 512, 512]
  deficits := [0, 0, 0, 0, 0]
  turn := 1
  slot := 0
  rxSeq := 0
  nak := false
  nakDue := false
  accepted := 4095
  returns := [0, 0, 0, 0, 0]
  flows := []
  ready := []
  wire := []
  control := []
  parkWords := 0

/-- DESIGN CHOICE, log entry 6. -/
def ExtInput.reset : ExtInput := ⟨false, 0, false, 0, false⟩

def HngState.reset : HngState := ⟨[], 0, [], 0, false, 0⟩

def LogState.reset : LogState where
  nextOut := 0
  lastNext := 0#32
  lost := 0
  lostFirst := 0
  sealOffset := 0
  journal := []
  sealDigest := List.replicate 32 0#8
  segNumber := 0
  segDigest := List.replicate 32 0#8
  jobStarted := false
  jobFirstStep := 0#64
  rerunTo := none
  stallSince := none
  drainedLo := 0#32
  spilling := false
  ptpOffset := 0
  ptpShift := 0

def SkyState.reset : SkyState where
  firstStep := 0
  bad := []
  suspect := []
  voted := []
  awaiting := []
  digests := []
  fix := none
  votes := []
  requests := []
  jobs := []
  captures := []
  replayPos := 0
  rollback := false
  drained := []
  compresses := false
  fixedLost := false
  holds := []
  flushing := false
  flushUp := false
  flushLast := none
  flushMsgs := []
  sentBlocks := 0
  takenBlocks := 0

/-- The device proper at the release of reset: registers at the values of their tables, memory with nothing listed,
every unit empty; `flash`, the levels at the external inputs, the time and the free-value counter are kept over a reset; the glitch
filters start afresh (log entry 6). DESIGN CHOICE, log entry 6. -/
def Dev.resetWith (flash : Flash) (ext : List ExtInput) (now freeCtr : Nat) : Dev where
  now := now
  resetAt := now
  freeCtr := freeCtr
  nextRun := 1
  regs := []
  mem := []
  drained := []
  flash := flash
  ext := ext.map fun x => ⟨x.raw, now, false, 0, false⟩
  seqMain := StreamState.idle
  seqBf := StreamState.idle
  curves := List.replicate 32 none
  cmp := ⟨[], [], [], []⟩
  xch := ⟨[], [], []⟩
  red := ⟨[], [], false, []⟩
  hlm := ⟨none, false, false, [], false, false⟩
  sxt := ⟨none, [], 0⟩
  hng := List.replicate 16 HngState.reset
  snd := ⟨[], []⟩
  ports := List.replicate 36 Port.reset
  cht := ⟨List.replicate 8 none, List.replicate 8 none, 0#32, none, [], true, none, none, [], [], [], [], false, false, []⟩
  log := LogState.reset
  sky := SkyState.reset
  chk := ⟨[], [], [], [], none⟩
  arr := ⟨none, []⟩
  scrubAt := []
  irq := ⟨List.replicate 32 0, List.replicate 32 0, List.replicate 32 0⟩
  boot := ⟨1, 0, none, none, 0, none, false, []⟩
  pwr := ⟨0, now, [], [], 0, false, none, none, false, [], List.replicate 12 0, false⟩
  mgt := ⟨0, [], [], [], [], ([], []), List.replicate 16 0#8, 0, 0, [false, false], []⟩

/-- The device at the first release of reset. -/
def Dev.initial : Dev :=
  Dev.resetWith Flash.initial (List.replicate 5 ExtInput.reset) 0 0

/-- The machine right after power-on reset is released (R412, R433): boot stage 1, hart 24 out of reset, cause POWER_ON
in the carrier's `cause`, nothing waiting. -/
def State.reset : State where
  pending := []
  fuse := Fuse.initial
  carrier := Carrier.initial
  harts := hartsReset
  mbx := mailboxesReset
  claims := List.replicate 28 []
  dev := Dev.initial

end Sys2Proof.Machine
end

