-- ==== Sys2Proof/Machine/Ops.lean ====
section
/-! DEFINITION. The named operations every unit uses: registers, time stamps, free values, events with their interrupts and
Logbook records, page states, step flags. -/
namespace Sys2Proof.Machine

/-! Registers. -/

/-- The stored word of a register. -/
def Dev.reg (d : Dev) (a : Nat) : Word := Assoc.get regReset d.regs a

def Dev.setReg (d : Dev) (a : Nat) (w : Word) : Dev := { d with regs := Assoc.set regReset d.regs a w }

/-- The field [hi:lo] of a register. -/
def Dev.fld (d : Dev) (a hi lo : Nat) : Nat := bits (d.reg a) hi lo

def Dev.setFld (d : Dev) (a hi lo v : Nat) : Dev := d.setReg a (setBits (d.reg a) hi lo v)

def Dev.flag (d : Dev) (a i : Nat) : Bool := bit (d.reg a) i

def Dev.setFlag (d : Dev) (a i : Nat) (b : Bool) : Dev := d.setReg a (setBit (d.reg a) i b)

/-- A counter field raised by `n`, saturating at the field's largest value. -/
def Dev.addSatFld (d : Dev) (a hi lo n : Nat) : Dev :=
  d.setFld a hi lo (min (d.fld a hi lo + n) (2 ^ (hi + 1 - lo) - 1))

/-- A 32-bit counter raised by `n`, saturating at 0xFFFF_FFFF. -/
def Dev.addSat (d : Dev) (a n : Nat) : Dev := d.setReg a (BitVec.ofNat 32 (min ((d.reg a).toNat + n) 0xFFFFFFFF))

/-- A 32-bit counter raised by `n`, wrapping. -/
def Dev.addWrap (d : Dev) (a n : Nat) : Dev := d.setReg a (BitVec.ofNat 32 ((d.reg a).toNat + n))

/-- The larger of a register's value and `n`, saturating. -/
def Dev.raiseTo (d : Dev) (a n : Nat) : Dev :=
  d.setReg a (BitVec.ofNat 32 (min (max (d.reg a).toNat n) 0xFFFFFFFF))

/-- The 64-bit value of a _LO and _HI pair at consecutive offsets. -/
def Dev.pair (d : Dev) (lo : Nat) : Nat := (d.reg lo).toNat + 0x100000000 * (d.reg (lo + 4)).toNat

def Dev.setPair (d : Dev) (lo v : Nat) : Dev :=
  (d.setReg lo (BitVec.ofNat 32 v)).setReg (lo + 4) (BitVec.ofNat 32 (v / 0x100000000))

/-! Page headers (R481). -/

def Page.addr (p : Page) : Nat := pageAddr p.type p.inst

def stateReg (p : Page) : Nat := pageAddr p.type p.inst + 0x014
def evPendReg (p : Page) : Nat := pageAddr p.type p.inst + 0x020
def evEnReg (p : Page) : Nat := pageAddr p.type p.inst + 0x024
def evMissedReg (p : Page) : Nat := pageAddr p.type p.inst + 0x02C

/-- The state code of a page (R483). -/
def Dev.code (d : Dev) (p : Page) : Nat := d.fld (stateReg p) 3 0

def Dev.active (d : Dev) (p : Page) : Bool := d.code p == 2

def Dev.ready (d : Dev) (p : Page) : Bool := d.code p == 1

/-- The pages of which there is one. -/
def page1 (t : PageType) : Page := ⟨t, 0⟩

/-! Time. -/

/-- The PTP time stamp of now (R344): seconds above bit 30, nanoseconds below. -/
def Dev.stamp (d : Dev) : Dword :=
  let t := (Int.ofNat d.now + d.log.ptpShift).toNat
  BitVec.ofNat 64 (0x40000000 * (t / 1000000000) + t % 1000000000)

/-- Microseconds as nanoseconds of the model's clock. -/
def us (n : Nat) : Nat := 1000 * n

def ms (n : Nat) : Nat := 1000000 * n

/-- The current step: the STEP of the latest LEG, which is that of the latest LEG that began a step (R331). -/
def Dev.step (d : Dev) : Nat := d.pair Reg.chtStepLo

/-! Free values (log entry 2). -/

/-- The draw's first 32-bit value, with the counter advanced. DESIGN CHOICE, log entry 2. -/
def Dev.drawWord (d : Dev) : Word × Dev := (Config.freeWord d.freeCtr 0, { d with freeCtr := d.freeCtr + 1 })

/-- `n` free bytes of one draw. DESIGN CHOICE, log entry 2. -/
def Dev.drawBytes (d : Dev) (n : Nat) : List Byte × Dev :=
  ((List.range n).map (Config.freeByte d.freeCtr), { d with freeCtr := d.freeCtr + 1 })

/-- A signature by the identity key over a digest. -/
def Dev.sign (d : Dev) (digest : List Byte) : List Byte × Dev :=
  ((List.range 384).map (Config.signature d.freeCtr digest), { d with freeCtr := d.freeCtr + 1 })

/-- A number for a new run of a unit. DESIGN CHOICE, log entry 4. -/
def Dev.newRun (d : Dev) : Nat × Dev := (d.nextRun, { d with nextRun := d.nextRun + 1 })

/-! Block digests (R345). -/

def rotl64 (x : Dword) (n : Nat) : Dword := x.rotateLeft (n % 64)

/-- One 256-byte block of index `i` added into a pair of lanes. -/
def addBlock (lanes : Dword × Dword) (i : Nat) (block : List Byte) : Dword × Dword :=
  let c := crc64 block
  (lanes.1 + (c ^^^ BitVec.ofNat 64 (0x9E3779B97F4A7C15 * i)),
   lanes.2 + rotl64 (c ^^^ BitVec.ofNat 64 i) (1 + i % 2 ^ 64 % 63))

/-- Bytes cut into pieces of `n`, the last zero-padded; `fuel` bounds the number of pieces. -/
def cutPadded (n : Nat) : Nat → List Byte → List (List Byte)
  | 0, _ => []
  | _, [] => []
  | fuel + 1, bs =>
    let p := bs.take n
    (p ++ List.replicate (n - p.length) 0#8) :: cutPadded n fuel (bs.drop n)

/-- Bytes digested from block index `i` upward, the last block zero-padded. -/
def digestFrom (lanes : Dword × Dword) (i : Nat) (bs : List Byte) : Dword × Dword :=
  ((cutPadded 256 (bs.length / 256 + 1) bs).foldl
    (fun (acc : Nat × (Dword × Dword)) b => (acc.1 + 1, addBlock acc.2 acc.1 b)) (i, lanes)).2

/-- Two digests added lane by lane. -/
def addLanes (a b : Dword × Dword) : Dword × Dword := (a.1 + b.1, a.2 + b.2)

/-! Step flags (R374). -/

/-- The flag BAD for some steps; none at or before the job's starting fixed step. -/
def Dev.markBad (d : Dev) (steps : List Nat) : Dev :=
  { d with sky := { d.sky with bad := (steps.filter (d.sky.firstStep ≤ ·) ++ d.sky.bad).eraseDups } }

/-- This package votes not clean for the step in progress. -/
def Dev.bad (d : Dev) : Dev := d.markBad [d.step]

/-- The last fixed step. -/
def Dev.lastFixed (d : Dev) : Nat := d.pair Reg.skyFixedLo

/-- Every unfixed step and the step in progress; a ring of 8 slots (R257) and 4 fix-only steps keep them far below 64. -/
def Dev.unfixedSteps (d : Dev) : List Nat :=
  (List.range (min 64 ((2 ^ 64 + d.step - d.lastFixed) % 2 ^ 64))).map (fun j => d.step - j) ++ [d.step]

def Dev.badUnfixed (d : Dev) : Dev := d.markBad d.unfixedSteps

/-! Events, interrupts and Logbook records. -/

/-- A Logbook record to append (R341, R343): its type, layer (0xFFFF for none), step and payload from 0x10; `stamped` says
that it holds a time stamp taken as it is appended, `unsync` that one it holds was taken while the time base was not locked. -/
structure Rec where
  type : Nat
  layer : Nat
  step : Nat
  backfill : Bool
  stamped : Bool
  unsync : Bool
  payload : List Byte
deriving DecidableEq, Repr

/-- What one happening sets off: an event bit of a page (`forced` where EV_LOG writes no record of it: EV_FORCE stands for the event,
or its chapter names it as logged), a record, an edge on an interrupt source. -/
inductive Act where
  | event (p : Page) (bit : Nat) (forced : Bool)
  | record (r : Rec)
  | edge (source : Nat)
deriving DecidableEq, Repr

/-- The interrupt source of a page's line (R417); the CLU pages raise their die's summary source. -/
def pageSource (p : Page) : Nat :=
  match p.type with
  | .hub => 0
  | .pwr => 1
  | .thm => 2
  | .irq => 3
  | .sec => 4
  | .mgt => 5
  | .log => 6
  | .seq => 7 + p.inst
  | .cmp => 9
  | .hlm => 10
  | .sxt => 11
  | .red => 12
  | .cht => 13
  | .chk => 14
  | .sky => 15
  | .hot => 16
  | .vtb => 17
  | .hng => 32 + p.inst
  | .die => 48 + p.inst
  | .mem => 64 + p.inst
  | .fab => 96 + p.inst
  | .clu => 132 + p.inst / 200

/-- The sources R417 assigns. -/
def sourceExists (x : Nat) : Bool :=
  decide (x ≤ 17 ∨ (32 ≤ x ∧ x ≤ 59) ∨ (64 ≤ x ∧ x ≤ 87) ∨ (96 ≤ x ∧ x ≤ 143) ∨ (160 ≤ x ∧ x ≤ 164) ∨
    (168 ≤ x ∧ x ≤ 172) ∨ (192 ≤ x ∧ x ≤ 255))

/-- How a record names a page: its type and instance. -/
def pageBytes (p : Page) : List Byte := natBytes 2 (pageCode p.type) ++ natBytes 2 p.inst

/-- An EVENT record (R343 type 0x000F). -/
def Dev.eventRec (d : Dev) (p : Page) (code peer : Nat) (detail : List Byte) : Rec where
  type := 0x000F
  layer := 0xFFFF
  step := d.step
  backfill := p.type == .seq && p.inst == 1
  stamped := true
  unsync := false
  payload := pageBytes p ++ natBytes 2 code ++ natBytes 2 peer ++ (detail ++ List.replicate (8 - detail.length) 0#8) ++
    natBytes 8 d.stamp.toNat

/-- A FAULT record (R343 type 0x000E). DEDUCED, log entry 22. -/
def Dev.faultRec (d : Dev) (p : Page) (layer reason : Nat) (tag : Word) (address : Nat) (detail : List Byte)
    (backfill : Bool := false) : Rec where
  type := 0x000E
  layer := layer
  step := d.step
  backfill := backfill
  stamped := true
  unsync := false
  payload := pageBytes p ++ natBytes 1 reason ++ natBytes 1 (d.code p) ++ natBytes 2 0 ++ natBytes 4 tag.toNat ++
    natBytes 4 0 ++ natBytes 8 address ++ (detail ++ List.replicate (16 - detail.length) 0#8) ++ natBytes 8 d.stamp.toNat

/-- The package address of a position of the Logbook ring (R113, R340). -/
def ringAddr (pos : Nat) : Nat :=
  let q := pos % 0x100000000
  0xBE0000000 + 0xC00000000 * (16 + q / 0x20000000) + q % 0x20000000

/-- Bytes written into the ring from an offset, piece by piece. -/
def ringWrite : Mem → Nat → List Byte → Mem
  | m, _, [] => m
  | m, off, b :: bs => ringWrite (m.setByte (ringAddr off) b) (off + 1) bs

/-- The types that hold time stamps or other values outside the promise (R343). -/
def recTimed (type : Nat) : Bool := [0x0003, 0x000E, 0x000F, 0x0012, 0x0013].contains type

/-- The bytes of a record under the flags in force (R341, R342). -/
def Dev.recBytes (d : Dev) (r : Rec) : List Byte :=
  let n := alignUp (16 + r.payload.length) 8
  let rerun := match d.log.rerunTo with
    | some a => decide (r.step ≤ a)
    | none => false
  let flags := (if rerun then 2 else 0) + (if d.flag Reg.logCtrl 0 then 4 else 0) + (if recTimed r.type then 8 else 0) +
    (if r.backfill then 16 else 0) + (if r.unsync || (r.stamped && !d.flag Reg.logStatus 6) then 32 else 0)
  natBytes 2 r.type ++ natBytes 2 n ++ natBytes 2 r.layer ++ natBytes 2 flags ++ natBytes 8 r.step ++ r.payload ++
    List.replicate (n - 16 - r.payload.length) 0#8

/-- The free space of the ring (R351). -/
def Dev.logFree (d : Dev) : Nat := 0x100000000 - (d.pair Reg.logWriteLo - d.pair Reg.logDrainedLo)

/-- The record types outside the record digest (R380). -/
def recUndigested (type : Nat) : Bool := [0x0000, 0x0001, 0x0010, 0x0011, 0x0012, 0x0013].contains type

/-- A record's contribution to the record digest of its step (R380): its bytes with FLAGS [2:0] cleared. -/
def Dev.digestRec (d : Dev) (r : Rec) (bytes : List Byte) : Dev :=
  if recUndigested r.type || recTimed r.type || r.backfill then d
  else
    let clean := bytes.take 6 ++ ((bytes.drop 6).take 1).map (fun b => b &&& 0xF8#8) ++ bytes.drop 7
    { d with sky := { d.sky with digests := d.sky.digests.map fun s =>
        if s.step = r.step ∧ !s.closed then
          let l := digestFrom (s.rec0, s.rec1) 0 clean
          { s with rec0 := l.1, rec1 := l.2 }
        else s } }

/-- The bytes of a PAD record that fills `n` bytes (R340, R342, R343). -/
def padBytes (n : Nat) (replay : Bool) : List Byte :=
  natBytes 2 0 ++ natBytes 2 n ++ natBytes 2 0xFFFF ++ natBytes 2 (if replay then 4 else 0) ++ List.replicate (n - 8) 0#8

/-- The free bytes between an append offset and the ring's end. -/
def ringRoom (w : Nat) : Nat := 0x100000000 - w % 0x100000000

/-- One record's bytes put at the append offset, with the PAD record it needs at the ring's end; raises RECORD for each. -/
def Dev.putRecord (d : Dev) (bytes : List Byte) : Dev × List Act :=
  let w := d.pair Reg.logWriteLo
  let room := ringRoom w
  let recordEvent := Act.event (page1 .log) 0 false
  let crosses := decide (room < bytes.length)
  let all := if crosses then padBytes room (d.flag Reg.logCtrl 0) ++ bytes else bytes
  ((({ d with mem := ringWrite d.mem w all, log := { d.log with journal := d.log.journal ++ all } }).setPair Reg.logWriteLo
      (w + all.length)).addWrap Reg.logRecords (if crosses then 2 else 1),
    if crosses then [recordEvent, recordEvent] else [recordEvent])

/-- The offset at which a record of `n` bytes stands that is appended at `w`, its PAD before it (R340). -/
def recordAtOffset (w n : Nat) : Nat := if n ≤ ringRoom w then w else w + ringRoom w

/-- The space some records take at an append offset, their PADs included. DEDUCED and DESIGN CHOICE, log entry 42. -/
def spaceFor (w : Nat) : List Nat → Nat
  | [] => 0
  | n :: ns =>
    let next := recordAtOffset w n + n
    next - w + spaceFor next ns

/-- The LOSS record that ends an overrun (R352). -/
def Dev.lossRec (d : Dev) : Rec where
  type := 0x0013
  layer := 0xFFFF
  step := d.step
  backfill := false
  stamped := false
  unsync := false
  payload := natBytes 4 d.log.lost ++ natBytes 4 0 ++ natBytes 8 d.log.lostFirst

/-- A record of `n` bytes that finds too little space: ignored and counted, and the step voted not clean; of the first, where it
would have stood (R352). -/
def Dev.loseRecord (d : Dev) (n : Nat) : Dev :=
  let d := { d with log := { d.log with
    lost := d.log.lost + 1
    lostFirst := if d.log.lost = 0 then recordAtOffset (d.pair Reg.logWriteLo) n else d.log.lostFirst } }
  ((d.setFlag Reg.logStatus 3 true).addSat Reg.logLost 1).bad

/-- The LOSS record put before the first record after an overrun (R352). -/
def Dev.closeLoss (d : Dev) (loss : List Byte) : Dev × List Act := if d.log.lost = 0 then (d, []) else d.putRecord loss

/-- A record that finds its space put into the ring. -/
def Dev.keepRecord (d : Dev) (r : Rec) (loss bytes : List Byte) : Dev × List Act :=
  let p := d.closeLoss loss
  let q := (({ p.1 with log := { p.1.log with lost := 0 } } : Dev).digestRec r bytes).putRecord bytes
  (q.1, p.2 ++ q.2)

/-- A record appended to the ring (R340 to R342, R352): not while the page is READY; ignored and counted where it finds
too little space; after an overrun the LOSS record comes first. DEDUCED and DESIGN CHOICE, log entry 42. -/
def Dev.append (d : Dev) (r : Rec) : Dev × List Act :=
  if d.code (page1 .log) = 1 then (d, [])
  else
    let bytes := d.recBytes r
    let loss := if d.log.lost = 0 then [] else d.recBytes d.lossRec
    let sizes := (if d.log.lost = 0 then [] else [loss.length]) ++ [bytes.length]
    if d.logFree < spaceFor (d.pair Reg.logWriteLo) sizes then (d.loseRecord bytes.length, [.event (page1 .log) 3 false])
    else d.keepRecord r loss bytes

/-- A rising edge on a source (R419): pending, or counted as missed. -/
def Dev.edge (d : Dev) (x : Nat) : Dev × List Act :=
  if !sourceExists x then (d, [])
  else if d.flag (Reg.irqPending (x / 32)) (x % 32) then
    let a := Reg.irqMissed (x / 4)
    let lo := 8 * (x % 4)
    let c := d.fld a (lo + 7) lo
    (d.setFld a (lo + 7) lo (min (c + 1) 255), if c = 254 then [.event (page1 .irq) 1 false] else [])
  else (d.setFlag (Reg.irqPending (x / 32)) (x % 32) true, [])

/-- An event bit of a page (R482, R418): set with its interrupt edge and its record, or counted in EV_MISSED. -/
def Dev.event (d : Dev) (p : Page) (b : Nat) (forced : Bool) : Dev × List Act :=
  if d.flag (evPendReg p) b then
    ((d.addSatFld (evMissedReg p) 15 0 1).setFld (evMissedReg p) 20 16 b, [])
  else
    let d' := d.setFlag (evPendReg p) b true
    let irq := if d.flag (evEnReg p) b then [Act.edge (pageSource p)] else []
    let log := if !forced && d.flag (pageAddr p.type p.inst + 0x010) 0 then
        [Act.record (d'.eventRec p b 0xFFFF [])] else []
    (d', irq ++ log)

/-- One act, with the acts it sets off. -/
def Dev.act (d : Dev) : Act → Dev × List Act
  | .event p b f => d.event p b f
  | .record r => d.append r
  | .edge x => d.edge x

/-- A list of acts run in order, each followed by what it sets off; `fuel` bounds the number of acts. -/
def Dev.runActs : Nat → Dev → List Act → Dev
  | 0, d, _ => d
  | _, d, [] => d
  | n + 1, d, a :: as =>
    let r := d.act a
    Dev.runActs n r.1 (r.2 ++ as)

/-- Acts run to their end. Each act sets off at most three further acts in a chain of at most eight, since an event bit
sets once. -/
def Dev.acts (d : Dev) (as : List Act) : Dev := Dev.runActs (32 * as.length + 32) d as

/-- An event of a page. -/
def Dev.raise (d : Dev) (p : Page) (b : Nat) : Dev := d.acts [.event p b false]

/-- An event that its chapter names as logged (R343): its record each time it happens, with the package it concerns and its
detail. -/
def Dev.raiseLogged (d : Dev) (p : Page) (b peer : Nat) (detail : List Byte) : Dev :=
  d.acts [.event p b true, .record (d.eventRec p b peer detail)]

/-- A record appended. -/
def Dev.record (d : Dev) (r : Rec) : Dev := d.acts [.record r]

/-- An edge on an interrupt source. -/
def Dev.irqEdge (d : Dev) (x : Nat) : Dev := d.acts [.edge x]

/-! Page states (R483 to R486). -/

/-- A hardware transition of a page: GEN rises, a held request is dropped with RESULT CANCELLED, and the roll call counts
the change (R405, R486). No transition to the state the page has. -/
def Dev.moveTo (d : Dev) (p : Page) (c : Nat) : Dev :=
  if d.code p = c then d
  else
    let w := d.reg (stateReg p)
    let w := if bits w 23 20 ≠ 0 then setBits (setBits w 23 20 0) 19 16 5 else w
    let w := setBits (setBits w 3 0 c) 15 8 (bits w 15 8 + 1)
    let k := 4096 * pageCode p.type + p.inst
    { d.setReg (stateReg p) w with
      mgt := { d.mgt with changes := Assoc.set changesDefault d.mgt.changes k (Assoc.get changesDefault d.mgt.changes k + 1) } }

/-- The outcome of a request in STATE.RESULT (R484). -/
def Dev.reqResult (d : Dev) (p : Page) (r : Nat) : Dev := d.setFld (stateReg p) 19 16 r

/-- A request accepted: the transition, with RESULT ACCEPTED and nothing held. -/
def Dev.accept (d : Dev) (p : Page) (c : Nat) : Dev :=
  ((d.setFld (stateReg p) 23 20 0).moveTo p c).reqResult p 1

/-- A page put in FAULT. -/
def Dev.pageFault (d : Dev) (p : Page) : Dev := d.moveTo p 7

/-- The package enters FAULT (R429): its HUB page is in FAULT. -/
def Dev.packageFault (d : Dev) : Dev := d.moveTo (page1 .hub) 7

/-- The package is in FAULT, so its array and its fabric stand still (R13, R391, R413). -/
def Dev.halted (d : Dev) : Bool := d.code (page1 .hub) == 7

/-! Stream counters (R151). -/

/-- A stream's counter raised, saturating. -/
def Dev.raiseCounter (d : Dev) (stream n amount : Nat) : Dev := d.addSat (Reg.seqCounter stream n) amount

/-- A command's COUNTER field raised on completion: 0xFF names none. -/
def Dev.notifyCounter (d : Dev) (n : Nat) : Dev := if n < 16 then d.raiseCounter 0 n 1 else d

/-! Memory. -/

/-- Plain writes in order. -/
def Dev.write (d : Dev) (cs : List Chunk) : Dev := { d with mem := d.mem.apply cs }

/-- Bytes written at an address. -/
def Dev.writeAt (d : Dev) (a : Nat) (bs : List Byte) : Dev := { d with mem := d.mem.setBytes a bs }

/-- A range of memory left with undefined bits. DESIGN CHOICE, log entry 2. -/
def Dev.leaveOpen (d : Dev) (x : Nat × Nat) : Dev :=
  let b := d.drawBytes x.2
  b.2.writeAt x.1 b.1

/-- Memory as it stands. -/
def Dev.src (d : Dev) : ByteSource := d.mem.byte

end Sys2Proof.Machine
end

