-- ==== Sys2Proof/Machine/Hinge.lean ====
section
/-! DEFINITION. What every unit needs of the Hinges: their geometry, what their pages show, their faults (R293, R300, R302,
R305, R308, R310). -/
namespace Sys2Proof.Machine

def hngPage (i : Nat) : Page := ⟨.hng, i⟩

def Dev.hinge (d : Dev) (i : Nat) : HngState := d.hng.getD i HngState.reset

def Dev.setHinge (d : Dev) (i : Nat) (h : HngState) : Dev := { d with hng := d.hng.set i h }

def Dev.hngBase (d : Dev) (i : Nat) : Nat := d.pair (Reg.hngBaseLo i)

def Dev.hngBytes (d : Dev) (i : Nat) : Nat := 256 * d.fld (Reg.hngSlotBytes i) 23 0

def Dev.hngSlotCount (d : Dev) (i : Nat) : Nat := d.fld (Reg.hngSlots i) 7 0

/-- CAP (R294). -/
def Dev.hngCap (d : Dev) (i : Nat) : Nat := d.hngSlotCount i * d.hngBytes i

/-- The page's status registers follow the Hinge (R310). -/
def Dev.showHinge (d : Dev) (i : Nat) : Dev :=
  let h := d.hinge i
  let a := Reg.hngStatus i
  let head := h.held.headD 0
  let d := d.setFld a 7 0 h.held.length
  let d := d.setFld a 15 8 (if h.held.isEmpty then 0 else head % max 1 (d.hngSlotCount i))
  let d := (d.setFlag a 16 h.held.isEmpty).setFlag a 17 (h.occ == d.hngCap i && h.occ != 0)
  let d := d.setFlag a 18 h.stopped
  let d := d.setReg (Reg.hngOccupancy i) (BitVec.ofNat 32 (ceilDiv h.occ 256))
  let d := d.raiseTo (Reg.hngMaxOccupancy i) (ceilDiv h.occ 256)
  d.setReg (Reg.hngHeadMb i) (BitVec.ofNat 32 (head % 65536))

/-- A fault of a Hinge, from step 3 of R302. -/
def Dev.hngFault (d : Dev) (i reason mb : Nat) : Dev :=
  let p := hngPage i
  let d := d.setReg (Reg.hngFaultLast i) (BitVec.ofNat 32 (reason + 0x10000 * (mb % 65536)))
  let d := (d.raise p 3).pageFault p
  (d.record (d.faultRec p 0xFFFF reason 0#32 (d.hngBase i) (natBytes 2 mb))).bad

/-- The micro-batch whose packet, landing or held, has a byte range of its slot overlapping [a, a + n). -/
def Dev.hingeAt (d : Dev) (i a n : Nat) : Option Nat :=
  let h := d.hinge i
  (h.landings.map (·.microbatch) ++ h.held).find? fun mb =>
    overlaps (d.hngBase i + mb % max 1 (d.hngSlotCount i) * d.hngBytes i) (d.hngBytes i) a n

/-- A lost block in a Hinge's slot marks the packet there lost (R308). -/
def Dev.hingeLoss (d : Dev) (a : Nat) : Dev :=
  (List.range 16).foldl (fun d i =>
    match d.hingeAt i a 256 with
    | none => d
    | some mb =>
      let h := d.hinge i
      (d.setHinge i { h with landings := h.landings.map fun x => if x.microbatch = mb then { x with lost := true } else x })
        |>.hngFault i 7 mb) d

end Sys2Proof.Machine
end

