-- ==== Sys2Proof/Machine/Memory.lean ====
section
/-! DEFINITION. The package address space, lost blocks and sparing, plain writes and add-writes (05_memory.md). -/
namespace Sys2Proof.Machine

/-! The address map (R112 to R114). -/

def stackSpan : Nat := 0xC00000000
def dramEnd : Nat := 24 * stackSpan
def storeBase : Nat := 0x20000000000
def storeSpan : Nat := 0x400000
def storeEnd : Nat := storeBase + 2400 * storeSpan

/-- What lies at a package address. -/
inductive Region where
  | job
  | cehan
  | logbook
  | resident
  | staging
  | combine
  | keepMain
  | keepBackfill
  | unmapped
deriving DecidableEq, Repr

/-- What lies at an offset of a cluster store (R114). -/
def storeRegion (off : Nat) : Region :=
  if off < 0x200000 then .resident
  else if off < 0x300000 then .staging
  else if off < 0x380000 then .combine
  else if off < 0x3E0000 then .keepMain
  else .keepBackfill

/-- The bytes of a cluster store's keep area that a stream has: the main stream all 512 KiB while the backfill stream is
disabled (R76, R114). -/
def keepArea (split : Bool) : Stream → Nat
  | .main => if split then 0x60000 else 0x80000
  | .backfill => if split then 0x20000 else 0

def regionOf (a : Nat) : Region :=
  if a < dramEnd then
    let s := a / stackSpan
    let off := a % stackSpan
    if s < 16 then (if off < 0xB80000000 then .job else .cehan)
    else if off < 0xBE0000000 then .job else .logbook
  else if storeBase ≤ a ∧ a < storeEnd then
    storeRegion ((a - storeBase) % storeSpan)
  else .unmapped

/-- The region and its instance, so that two addresses of one dense run can be compared. -/
def regionId (a : Nat) : Region × Nat := (regionOf a, if a < dramEnd then a / stackSpan else (a - storeBase) / storeSpan)

/-- A run of bytes descriptors may address (R113): all of it in one job region or one resident area. A run of no bytes
addresses nothing. -/
def addressable (a n : Nat) : Bool :=
  n == 0 || (((regionOf a == .job) || (regionOf a == .resident)) && regionId a == regionId (a + n - 1))

/-- A run in the job region alone. -/
def inJob (a n : Nat) : Bool := addressable a n && (n == 0 || regionOf a == .job)

/-- A mapped run of bytes in one region. -/
def mapped (a n : Nat) : Bool := n == 0 || (regionOf a != .unmapped && regionId a == regionId (a + n - 1))

/-! Lost blocks (R117 to R121). -/

def memPage (s : Nat) : Page := ⟨.mem, s⟩

/-- The row of a block of a stack (R118). -/
def rowOf (block : Nat) : Nat := block / 768 * 96 + block % 96

/-- The remap table of a stack. -/
def Dev.remap (d : Dev) (s : Nat) : Remap := Assoc.get remapDefault d.flash.remaps s

/-- The tables in force written over the older of their two copies (R439). -/
def Flash.saveMaps (f : Flash) : Flash :=
  if f.mapsA.gen < f.mapsB.gen then { f with mapsA := MapCopy.of (f.mapsB.gen + 1) f.fenced f.remaps }
  else { f with mapsB := MapCopy.of (f.mapsA.gen + 1) f.fenced f.remaps }

def Dev.setRemap (d : Dev) (s : Nat) (r : Remap) : Dev :=
  { d with flash := ({ d.flash with remaps := Assoc.set remapDefault d.flash.remaps s r } : Flash).saveMaps }

/-- The slot of the version ring that holds an address, where one does (R257). -/
def Dev.ringSlotAt (d : Dev) (a : Nat) : Option Nat :=
  let base := d.pair Reg.hlmRingBaseLo
  let size := 0x100000 * d.fld Reg.hlmRingSlot 23 0
  let count := max 3 (min 8 (d.fld Reg.hlmRingCtrl 3 0))
  if base ≤ a ∧ a < base + count * size then some ((a - base) / size) else none

/-- The state code of a ring slot (R257). -/
def Dev.slotState (d : Dev) (i : Nat) : Nat := d.fld Reg.hlmRingState (4 * i + 3) (4 * i)

/-- A position of the Logbook ring within the block at `a`, from its offset (R113, R340). -/
def ringOffset (a : Nat) : Nat := 0x20000000 * (a / stackSpan - 16) + (a % stackSpan - 0xBE0000000)

/-- The block at `a` holds bytes of records not yet drained. -/
def Dev.undrained (d : Dev) (a : Nat) : Bool :=
  let lo := d.pair Reg.logDrainedLo
  let hi := d.pair Reg.logWriteLo
  let first := lo - lo % 0x100000000 + ringOffset a
  overlaps lo (hi - lo) first 256 || overlaps lo (hi - lo) (0x100000000 + first) 256

/-- A lost block in a slot of the version ring: a fixed version is lost, an unfixed one rolls back, a stale one is free. -/
def Dev.slotLoss (d : Dev) (state : Nat) : Dev :=
  let b := d.badUnfixed
  if state = 3 then { b with sky := { b.sky with fixedLost := true } }
  else if state = 4 then d
  else b

/-- A lost block of the job region. -/
def Dev.jobLoss (d : Dev) (a : Nat) : Dev :=
  match d.ringSlotAt a with
  | some i => d.slotLoss (d.slotState i)
  | none => d.badUnfixed

/-- What follows from where a lost block lay (R119). -/
def Dev.lossEffect (d : Dev) (a : Nat) : Dev :=
  match regionOf a with
  | .cehan => (d.pageFault (memPage (a / stackSpan))).packageFault
  | .logbook => if d.undrained a then d.badUnfixed else d
  | .job => d.jobLoss a
  | _ => d

/-- How a lost block was met, for MEM_LOST_ADDR_HI. -/
inductive Met where
  | read
  | half
  | scrub
deriving DecidableEq, Repr

/-- MEM_LOST_ADDR_HI of a lost block (R119). -/
def lostAddrHi (a : Nat) (met : Met) : Word :=
  BitVec.ofNat 32 (a / 0x100000000 % 0x200 + (if met = .half then 0x40000000 else 0) + (if met = .scrub then 0x80000000 else 0))

/-- A lost block counted and reported (R119, R121): MEM_LOST, its address, BLOCK_LOST and a fault record. -/
def Dev.noteLoss (d : Dev) (s a : Nat) (met : Met) : Dev :=
  let p := memPage s
  let d := ((d.addSat (Reg.memLost s) 1).setReg (Reg.memLostAddrLo s) (BitVec.ofNat 32 a)).setReg (Reg.memLostAddrHi s)
    (lostAddrHi a met)
  let d := d.raise p 1
  d.record (d.faultRec p 0xFFFF 1 0#32 a [])

/-- A row of a stack replaced by a spare one (R118), or the page and the package in FAULT where none is left (R121). -/
def Dev.spareRow (d : Dev) (s row : Nat) : Dev :=
  let p := memPage s
  let r := d.remap s
  if r.used < 1024 then
    let d := (d.setRemap s ⟨row :: r.rows, r.used + 1⟩).raise p 2
    if r.used + 1 = 960 then d.raise p 3 else d
  else ((d.raise p 4).pageFault p).packageFault

/-- A lasting fault of the block at a DRAM address (R118, R119, R121): zero bytes, the loss counted and reported, its
row spared, or the page and the package in FAULT where no spare row is left. -/
def Dev.loseBlock (d : Dev) (addr : Nat) (met : Met) : Dev :=
  let a := addr - addr % 256
  let s := a / stackSpan
  ((((d.writeAt a (List.replicate 256 0#8)).noteLoss s a met).spareRow s (rowOf (a % stackSpan / 256))).lossEffect a).hingeLoss a

/-- A CRC mismatch that the re-read cleared (R117). -/
def Dev.transientBlock (d : Dev) (addr : Nat) : Dev :=
  let s := addr / stackSpan
  (d.addSat (Reg.memCrcTransient s) 1).raise (memPage s) 0

/-! The check of a block (R116, R117). -/

/-- What the check of one DRAM block finds: it matches; the re-read matches; both fail. -/
inductive BlockCheck where
  | clean
  | transient
  | lasting
deriving DecidableEq, Repr

/-- Bytes with some of their bits flipped, numbered from bit 0 of the first byte. -/
def flipBits (bs : List Byte) (flips : List Nat) : List Byte :=
  bs.zipIdx.map fun b =>
    ((List.range 8).filter fun i => flips.contains (8 * b.2 + i)).foldl (fun x i => x ^^^ (1#8 <<< i)) b.1

/-- The check kept with the 256 bytes of the block at an address (R116). -/
def blockCheck (bs : List Byte) (a : Nat) : Word := crc32c (bs ++ natBytes 8 a)

/-- A read of the block at `a` passes its check: the block that was really read was written with the check of its own
address. -/
def readPasses (r : BlockRead) (m : Mem) (a : Nat) : Bool :=
  let own := r.source - r.source % 256
  let stored := readBytes m.byte own 256
  let w := flipBits (stored ++ natBytes 4 (blockCheck stored own).toNat) r.flips
  (blockCheck (w.take 256) (a - a % 256)).toNat == leNat (w.drop 256)

/-- The verdict on a block (R117). An address outside the DRAM has no such check. -/
def blockVerdict (f : BlockFinding) (m : Mem) : BlockCheck :=
  if dramEnd ≤ f.addr then .clean
  else if readPasses f.first m f.addr then .clean
  else if readPasses f.second m f.addr then .transient
  else .lasting

/-- What the check of one DRAM block brings. -/
def Dev.blockFinding (d : Dev) (met : Met) (f : BlockFinding) : Dev :=
  match blockVerdict f d.mem with
  | .clean => d
  | .transient => d.transientBlock f.addr
  | .lasting => d.loseBlock f.addr met

/-- Some block is lost. -/
def Dev.loses (d : Dev) (fs : List BlockFinding) : Bool := fs.any fun f => blockVerdict f d.mem == .lasting

/-! Writes of operations. -/

/-- One FP32 value added into memory (R124). -/
structure AddWrite where
  addr : Nat
  value : Word
deriving DecidableEq, Repr

/-- One add-write applied, with whether its sum is non-finite (R124, R128). -/
def addOne (acc : Mem × List Nat) (w : AddWrite) : Mem × List Nat :=
  let sum := fAdd (readWord acc.1.byte w.addr) w.value
  (acc.1.setBytes w.addr (natBytes 4 sum.toNat), if fIsFinite sum then acc.2 else acc.2 ++ [w.addr])

/-- Blocks of a list of byte addresses, each once. -/
def blocksOf (as : List Nat) : List Nat :=
  as.foldl (fun bs a => if bs.contains (a / 256) then bs else bs ++ [a / 256]) []

/-- The add-writes of one operation (R124, R126, R131): applied in order, counted by stack and block, with the addresses
of the non-finite sums. DESIGN CHOICE, log entry 21. -/
def Dev.addWrites (d : Dev) (ws : List AddWrite) : Dev × List Nat :=
  let r := ws.foldl addOne (d.mem, [])
  let d := { d with mem := r.1 }
  let dram := (ws.map (·.addr)).filter fun a => a < dramEnd
  let d := (blocksOf dram).foldl (fun d b => d.addWrap (Reg.memAowBlocks (b * 256 / stackSpan)) 1) d
  let d := (r.2.filter fun a => a < dramEnd).foldl (fun d a => d.addSat (Reg.memAowNonfinite (a / stackSpan)) 1) d
  (d, r.2)

/-- How an operation that writes some ranges met a block: by the read half of a partial write or an add-write of its own
(MEM_LOST_ADDR_HI bit 30), or by a read. -/
def metOf (written : List (Nat × Nat)) (f : BlockFinding) : Met :=
  if f.half && written.any fun w => overlaps w.1 w.2 (f.addr - f.addr % 256) 256 then .half else .read

/-- The reads of blocks under a command that writes some ranges (R117). -/
def Dev.found (d : Dev) (written : List (Nat × Nat)) (fs : List BlockFinding) : Dev :=
  fs.foldl (fun d f => d.blockFinding (metOf written f) f) d

end Sys2Proof.Machine
end

