-- ==== Sys2Proof/Machine/Check.lean ====
section
/-! DEFINITION. Cores and clusters, and what fault checking does with a finding (R10 to R12, R81, R83, R123, R364 to R370). -/
namespace Sys2Proof.Machine

/-! Cores. -/

def cluPage (x : Nat) : Page := ⟨.clu, x⟩

/-- The fused map of a cluster (R10). -/
def Fuse.map (f : Fuse) (x : Nat) : BitVec 128 := Assoc.get fusedDefault f.maps x

/-- What the package keeps of one core. -/
def Dev.core (d : Dev) (c : Nat) : CoreInfo := Assoc.get coreDefault d.chk.cores c

def Dev.setCore (d : Dev) (c : Nat) (i : CoreInfo) : Dev :=
  { d with chk := { d.chk with cores := Assoc.set coreDefault d.chk.cores c i } }

/-- The state code of a core (R367): OFF where fused off, FENCED where the fence map names it. -/
def Dev.coreState (d : Dev) (f : Fuse) (c : Nat) : Nat :=
  if !(f.map (c / 128)).getLsbD (c % 128) then 0
  else if d.flash.fenced.contains c then 5
  else (d.core c).state

/-- The enabled cores of a cluster in ascending core index: those ACTIVE or on probation, and those fenced in the operation under
way, which leave the map at its boundary (R10, R64, R369). -/
def Dev.enabledCores (d : Dev) (f : Fuse) (x : Nat) : List Nat :=
  (List.range 128).filter fun i =>
    let c := d.coreState f (128 * x + i)
    c == 2 || c == 4 || d.chk.leaving.contains (128 * x + i)

/-- The cores of a cluster on probation. -/
def Dev.probationCores (d : Dev) (f : Fuse) (x : Nat) : List Nat :=
  (List.range 128).filter fun i => d.coreState f (128 * x + i) == 4

/-- A cluster takes work: ACTIVE or in PROBATION (R65, R83). -/
def Dev.cluAvail (d : Dev) (x : Nat) : Bool := d.code (cluPage x) == 2 || d.code (cluPage x) == 4

/-- A cluster's page moves; its die's page reports FAULT and FENCED (R495). -/
def Dev.cluTo (d : Dev) (x c : Nat) : Dev :=
  if d.code (cluPage x) = c then d
  else
    let d := d.moveTo (cluPage x) c
    match c with
    | 7 => d.raise ⟨.die, x / 200⟩ 0
    | 5 => d.raise ⟨.die, x / 200⟩ 1
    | _ => d

/-- The page state a cluster's cores give it (R83), unless boot has not reached it or it is in FAULT. -/
def Dev.cluSettle (d : Dev) (f : Fuse) (x : Nat) : Dev :=
  let p := cluPage x
  if d.code p = 1 ∨ d.code p = 7 then d
  else if (d.enabledCores f x).isEmpty then d.cluTo x 5
  else if (d.probationCores f x).isEmpty then d.cluTo x 2
  else d.cluTo x 4

/-- The next cluster in ascending global index, wrapping, that takes work (R65); the search ends with the cluster itself, which is
its own fallback where no other takes work. DESIGN CHOICE, log entry 63. -/
def Dev.fallback (d : Dev) (x : Nat) : Option Nat :=
  ((List.range 2400).map fun j => (x + 1 + j) % 2400).find? d.cluAvail

/-- A change of core state: the generation rises and the change is logged (R367, R370). -/
def Dev.coreTo (d : Dev) (f : Fuse) (c st probLeft event : Nat) : Dev :=
  let i := d.core c
  let d := d.setCore c ⟨st, (i.gen + 1) % 256, probLeft, i.rejected⟩
  let p := page1 .chk
  let d := d.raiseLogged p event 0xFFFF (natBytes 4 c)
  let d := d.setFld (Reg.cluProbation (c / 128)) 7 0 (d.probationCores f (c / 128)).length
  d.cluSettle f (c / 128)

/-- THROTTLE_C, the nearer limit where it lies outside its range (R459). -/
def Dev.throttleC (d : Dev) : Int := max 80 (min 105 (d.fld Reg.thmCfg 7 0))

/-- A signed byte. -/
def signed8 (n : Nat) : Int := if n < 128 then n else (n : Int) - 256

/-- The temperature of a die (R446). -/
def Dev.tempC (d : Dev) (die : Nat) : Int := d.pwr.temps.getD die 0

/-! What the power manager holds clusters to (R432, R443 to R445). -/

def pwrPage : Page := page1 .pwr

/-- The target clock of a cluster. -/
def Dev.clock (d : Dev) (x : Nat) : Nat := Assoc.get targetDefault d.pwr.target x

/-- The seeker's request for a cluster. -/
def Dev.perf (d : Dev) (x : Nat) : Nat := Assoc.get perfDefault d.pwr.perf x

/-- The core rail of a cluster in microvolts at its target clock with so many voltage steps, before its limit: the fused table's
value and 12.5 mV a step (R432). -/
def Dev.coreRailAt (d : Dev) (x steps : Nat) : Nat := 1000 * Config.coreRailMv x (d.clock x) + 12500 * steps

/-- The set point of a cluster's core rail in microvolts: never above 0.85 V, and from 0.55 V on (R432). -/
def Dev.coreRailUv (d : Dev) (x : Nat) : Nat := max 550000 (min 850000 (d.coreRailAt x (d.fld (Reg.cluProbation x) 11 8)))

/-- PWR_CAP, the nearer limit where it lies outside its range. -/
def Dev.powerCap (d : Dev) : Nat := max 2000 (min 9600 (d.fld Reg.pwrCap 15 0))

/-- The cap under ALERT (R448). -/
def Dev.cappedPower (d : Dev) : Nat := min d.powerCap (d.fld Reg.thmAlertCap 15 0)

/-- The bits of PWR_PINNED (R444): FLOOR, CAP, PROB_V, PERF. DESIGN CHOICE, log entry 50. -/
def Dev.pinnedBits (d : Dev) : List Bool :=
  let some' := fun (f : Nat → Bool) => (List.range 2400).any f
  [some' fun x => decide (d.clock x < d.fld Reg.pwrClkLimits 11 0),
   decide (d.powerCap < d.pwr.watts) &&
     (d.fld Reg.pwrClkCap 11 0 == 2000 || some' fun x => d.fld (Reg.cluProbation x) 11 8 != 0),
   d.pwr.probVRefused,
   some' fun x => decide (d.clock x < d.perf x)]

/-- PWR_PINNED follows what it shows; each bit that becomes set is an event, and logged. It does so wherever the clock targets, the
limits, the measured power or the margins change. -/
def Dev.showPinned (d : Dev) : Dev :=
  (d.pinnedBits.zipIdx).foldl (fun d b =>
    let was := d.flag Reg.pwrPinned b.2
    let d := d.setFlag Reg.pwrPinned b.2 b.1
    if b.1 && !was then d.raiseLogged pwrPage 2 0xFFFF (natBytes 4 b.2) else d) d

/-- Whether the power manager grants a cluster one more voltage step (R445). The rail's set point and the share of array
power are fused or unstated values (notes/assumptions/2.md). -/
def Dev.grantsVolt (d : Dev) (x : Nat) : Bool :=
  decide (d.pwr.level = 0 ∧ d.tempC (x / 200) < d.throttleC ∧ d.coreRailAt x (d.fld (Reg.cluProbation x) 11 8 + 1) ≤ 850000 ∧
    1000 * d.pwr.watts + Config.arrayShareMw x * 3 / 100 ≤ 9600000)

/-- A cluster's margin raised by one step (R368): a voltage step where granted, else a clock step; a refusal is kept for
PWR_PINNED.PROB_V (R444). DEDUCED, log entry 22. -/
def Dev.raiseMargin (d : Dev) (x : Nat) : Dev :=
  let a := Reg.cluProbation x
  let v := d.fld a 11 8
  let k := d.fld a 15 12
  if v < 4 ∧ d.grantsVolt x then (d.setFld a 11 8 (v + 1)).showPinned
  else
    let d := if v < 4 then { d with pwr := { d.pwr with probVRefused := true } }.showPinned else d
    if k < 9 then d.setFld a 15 12 (k + 1) else d

/-- A core enters probation (R367). DEDUCED, log entry 22. -/
def Dev.probation (d : Dev) (f : Fuse) (c : Nat) : Dev :=
  let d := d.raiseMargin (c / 128)
  let d := d.addSat Reg.chkProbations 1
  d.coreTo f c 4 (max 1 (d.fld Reg.chkCtrl 31 16)) 2

/-- The margin of a cluster with no core left on probation returns to 0 at the next operation boundary (R368). -/
def Dev.marginBack (d : Dev) (f : Fuse) (x : Nat) : Dev :=
  if (d.probationCores f x).isEmpty then { d with chk := { d.chk with returning := (x :: d.chk.returning).eraseDups } }
  else d

/-- An operation runs in a stream. -/
def StreamState.operating (s : StreamState) : Bool :=
  match s.running with
  | some r => !r.waiting
  | none => false

/-- A core fenced while an operation runs keeps its items until the boundary (R64). -/
def Dev.keepTillBoundary (d : Dev) (c : Nat) : Dev :=
  if d.seqMain.operating || d.seqBf.operating then
    { d with chk := { d.chk with leaving := (c :: d.chk.leaving).eraseDups } }
  else d

/-- A core is fenced (R11, R369): the fence map in flash, MAP_CHANGE, the fence event, and a fault record; it leaves the enabled
map from the next operation. DEDUCED, log entry 22. -/
def Dev.fence (d : Dev) (f : Fuse) (c source : Nat) : Dev :=
  let d := (d.raise (cluPage (c / 128)) 1).keepTillBoundary c
  let d := { d with flash := ({ d.flash with fenced := d.flash.fenced ++ [c] } : Flash).saveMaps }
  let d := d.addSat Reg.chkFences 1
  let d := (d.coreTo f c 5 0 3).marginBack f (c / 128)
  d.record (d.faultRec (page1 .chk) 0xFFFF source 0#32 c [])

/-- A core leaves probation (R367, R370). -/
def Dev.release (d : Dev) (f : Fuse) (c : Nat) : Dev := (d.coreTo f c 2 0 4).marginBack f (c / 128)

/-- A lasting fault of a core (R367). -/
def Dev.lastingCore (d : Dev) (f : Fuse) (c source : Nat) : Dev :=
  match d.coreState f c with
  | 2 =>
    let a := Reg.cluProbation (c / 128)
    if d.fld a 11 8 = 4 ∧ d.fld a 15 12 = 9 then d.fence f c source else d.probation f c
  | 4 => d.fence f c source
  | _ => d

/-- A margin raised for good is taken back at the boundary (R368). -/
def Dev.returnMargins (d : Dev) : Dev :=
  let d' := d.chk.returning.foldl (fun d x =>
    if d.fld (Reg.cluProbation x) 7 0 = 0 then (d.setFld (Reg.cluProbation x) 15 8 0).showPinned else d) d
  { d' with chk := { d'.chk with returning := [] } }

/-- At an operation boundary no core fenced before is enabled any more, and its cluster's page follows (R64, R83, R369). While the
other stream's operation runs, they stay until that one's boundary too. -/
def Dev.leaveMaps (d : Dev) (f : Fuse) : Dev :=
  if d.seqMain.operating || d.seqBf.operating then d
  else
    let xs := (d.chk.leaving.map (· / 128)).eraseDups
    xs.foldl (fun d x => d.cluSettle f x) { d with chk := { d.chk with leaving := [] } }

/-! Findings. -/

/-- A finding classified on the CHK page (R366, R387, R388). DEDUCED, log entry 22. -/
def Dev.classify (d : Dev) (c source : Nat) (lasting : Bool) : Dev :=
  let d := d.setReg Reg.chkLast (BitVec.ofNat 32 (c % 0x80000 + 0x100000 * source + (if lasting then 0x800000 else 0)))
  if lasting then (d.addSat Reg.chkLasting 1).raise (page1 .chk) 1
  else (d.addSat Reg.chkTransients 1).raise (page1 .chk) 0

/-- A mismatch in a core's block sums, or a parity error handled as one (R81, R123). -/
def Dev.coreMismatch (d : Dev) (f : Fuse) (x core rowMask colMask : Nat) (corner repeated : Bool) (source : Nat) : Dev :=
  let d := d.setReg (Reg.cluChkLast x) (BitVec.ofNat 32 (core % 128 + rowMask % 256 * 0x100 + 0x10000 * (colMask % 256) +
    (if corner then 0x1000000 else 0) + (if repeated then 0x2000000 else 0)))
  let d := d.addSatFld (Reg.cluChkCount x) 15 0 1
  let d := if repeated then d.addSatFld (Reg.cluChkCount x) 31 16 1 else d
  let d := d.raise (cluPage x) 0
  let d := d.classify (128 * x + core) source repeated
  if repeated then d.lastingCore f (128 * x + core) source else d

/-- A fault of a cluster-store line (R123): counted; a lasting one loses the line, whose bytes the spec leaves open, and
uses up a spare line, or stops the cluster and moves its entries where none is left. -/
def Dev.lineFinding (d : Dev) (x line : Nat) (lasting : Bool) : Dev :=
  let d := d.addSat Reg.chkStoreEvents 1
  let d := d.classify (128 * x) 5 lasting
  if !lasting then d
  else
    let (bs, d) := d.drawBytes 64
    let d := d.writeAt (storeBase + storeSpan * x + line % 0x10000 * 64) bs
    let used := Assoc.get (fun _ => 0) d.chk.lines x
    let d := d.badUnfixed
    if used < 32 then { d with chk := { d.chk with lines := Assoc.set (fun _ => 0) d.chk.lines x (used + 1) } }
    else d.cluTo x 7

/-! The checks of the stores (R123). -/

/-- The word of a core's store fails its parity bit: an odd number of its 33 bits came out flipped. -/
def parityFails (flips : List Nat) : Bool := ((flips.eraseDups.filter (· < 33)).length) % 2 == 1

/-- A line of a cluster store read with some of its 64 data bytes' bits and of its 16 check bits (from 512) flipped fails its
CRC-16. -/
def Dev.lineFails (d : Dev) (x line : Nat) (flips : List Nat) : Bool :=
  let bs := readBytes d.src (storeBase + storeSpan * x + line % 0x10000 * 64) 64
  let w := flipBits (bs ++ natBytes 2 (crc16 bs).toNat) flips
  (crc16 (w.take 64)).toNat != leNat (w.drop 64)

/-- A read of a cluster-store line with its re-read. -/
def Dev.lineRead (d : Dev) (s : StoreFinding) : Dev :=
  match s.site with
  | .core _ => d
  | .line n =>
    if 2400 ≤ s.cluster ∨ !d.lineFails s.cluster n s.first then d else d.lineFinding s.cluster n (d.lineFails s.cluster n s.second)

/-- A read of a word of a core's store or accumulators: a parity error is a checksum mismatch without masks. -/
def Dev.coreRead (d : Dev) (f : Fuse) (s : StoreFinding) : Dev :=
  match s.site with
  | .line _ => d
  | .core c =>
    if 2400 ≤ s.cluster ∨ !parityFails s.first then d
    else (d.addSat Reg.chkStoreEvents 1).coreMismatch f s.cluster c 0 0 false (parityFails s.second) 4

/-- The reads an operation's operands come from, before its effect: DRAM blocks, and lines of the cluster stores (R117, R123).
`written` is where the operation writes. DESIGN CHOICE, log entry 7. -/
def Dev.findings (d : Dev) (written : List (Nat × Nat)) (ev : OpEvents) : Dev :=
  ev.stores.foldl Dev.lineRead (d.found written ev.blocks)

/-- The parity of the cores' stores under an operation, from its effect on (R64, R123). DESIGN CHOICE, log entry 7. -/
def Dev.coreFindings (d : Dev) (f : Fuse) (ev : OpEvents) : Dev := ev.stores.foldl (fun d s => d.coreRead f s) d

/-! The deal of an operation (R64, R65, R74, R363). -/

def listSum (ns : List Nat) : Nat := ns.foldl (· + ·) 0

/-- The items of a cluster in an operation. -/
def ClusterDeal.items (x : ClusterDeal) : Nat := listSum (x.entries.map (·.count))

/-- The first of some core numbers, from `u` on and wrapping within `e`, that is not `out`; `u` itself where all are. -/
def nextCore (e u : Nat) (out : Nat → Bool) : Nat :=
  (((List.range e).map fun j => (u + j) % e).find? fun v => !out v).getD u

/-- The core number that runs item t of a cluster: t mod c (R64), or, from the item on in which that core was found faulty, the next
one in ascending order (R81). DESIGN CHOICE, log entry 17. -/
def ClusterDeal.coreOf (x : ClusterDeal) (t : Nat) : Nat :=
  let e := max 1 x.cores.length
  nextCore e (t % e) fun v => x.out.any fun o => o.1 == v && decide (o.2 ≤ t)

/-- The items core number u has. -/
def ClusterDeal.itemsOf (x : ClusterDeal) (u : Nat) : Nat :=
  ((List.range x.items).filter fun t => x.coreOf t = u).length

/-- The place t of an item of a group in some entries; none where they do not name it. -/
def placeIn (group item : Nat) : List PEntry → Option Nat
  | [] => none
  | e :: es =>
    if e.group = group ∧ e.first ≤ item ∧ item < e.first + e.count then some (item - e.first)
    else (placeIn group item es).map (e.count + ·)

/-- The cluster that runs an item, with its place t there. -/
def findItem (deals : List ClusterDeal) (group item : Nat) : Option (ClusterDeal × Nat) :=
  deals.findSome? fun x => (placeIn group item x.entries).map fun t => (x, t)

/-- The tiles a core with `n` items uses (R74): item j takes tiles ACC_BASE + ((j × w + x) mod ACC_COUNT), mod 64. -/
def TileUse.tilesOf (u : TileUse) (n : Nat) : List Nat :=
  (List.range (min u.count (n * u.width))).map fun i => (u.base + i % max 1 u.count) % 64

/-- Items of two operations of a stream use a tile of one core in common. -/
def TileUse.meets (a b : TileUse) : Bool :=
  (((List.range a.count).any fun i => (List.range b.count).any fun j => (a.base + i) % 64 == (b.base + j) % 64)) &&
  a.deals.any fun x => b.deals.any fun y => x.cluster == y.cluster &&
    (x.cores.zipIdx.any fun p => y.cores.zipIdx.any fun q => p.1 == q.1 &&
      ((a.tilesOf (x.itemsOf p.2)).any fun t => (b.tilesOf (y.itemsOf q.2)).contains t))

/-- The tiles a cluster's cores have beyond the window, which it writes to its keep area (R75). -/
def TileUse.excess (u : TileUse) (x : ClusterDeal) : Nat :=
  listSum ((List.range x.cores.length).map fun i => u.width * x.itemsOf i - u.count)

/-- The cluster that runs a cluster's entries: itself while it takes work, else its fallback (R65). -/
def Dev.runner (d : Dev) (x : Nat) : Option Nat := if d.cluAvail x then some x else d.fallback x

/-- The entries a cluster runs: its own first, then those moved to it, in table order (R65). -/
def Dev.entriesOf (d : Dev) (entries : List PEntry) (y : Nat) : List PEntry :=
  (entries.filter fun e => e.cluster = y) ++ (entries.filter fun e => e.cluster ≠ y ∧ d.runner e.cluster = some y)

/-- The deal of an operation's entries over the clusters that run them, as latched at its start. -/
def Dev.dealOf (d : Dev) (f : Fuse) (entries : List PEntry) : List ClusterDeal :=
  ((entries.filterMap fun e => d.runner e.cluster).eraseDups).map fun y =>
    ⟨y, d.enabledCores f y, d.entriesOf entries y, []⟩

/-- The clusters a table names that do not take work. -/
def Dev.movedClusters (d : Dev) (entries : List PEntry) : List Nat :=
  ((entries.map (·.cluster)).filter fun x => !d.cluAvail x).eraseDups

/-- The FALLBACK event and the fault record of a cluster whose entries are moved (R65). -/
def Dev.noteMoved (d : Dev) (x : Nat) : Dev :=
  match d.fallback x with
  | none => d
  | some y =>
    let d := d.raise (cluPage x) 2
    d.record (d.faultRec (cluPage x) 0xFFFF 2 0#32 0 (natBytes 2 y))

/-! Duplication (R363, R364). -/

/-- The sampling interval D of duplication: every item in THIRD mode (R363, R379). -/
def Dev.dupRate (d : Dev) : Nat := if d.fld Reg.skyCtrl 5 4 = 2 then 1 else 2 ^ min 6 (d.fld Reg.chkCtrl 3 0)

/-- Item t of a cluster is duplicated in the operation numbered `c` of its stream. DEDUCED, log entry 11. -/
def Dev.dupDue (d : Dev) (f : Fuse) (x : ClusterDeal) (c t : Nat) : Bool :=
  let big := d.dupRate
  let small := min big (2 ^ min 6 (d.fld Reg.chkCtrl 7 4))
  let core := x.cores.getD (t % max 1 x.cores.length) 0
  (t + c) % big == 0 || (d.coreState f (128 * x.cluster + core) == 4 && (t + c) % small == 0)

/-- The cluster and core that run the duplicate of an item of core number u: core number (u + 1 + (c mod (e − 1))) mod e of the
same cluster, or, where it has one enabled core, a core of its fallback. DESIGN CHOICE, log entry 22. -/
def Dev.partner (d : Dev) (f : Fuse) (x : ClusterDeal) (c u : Nat) : Nat × Nat :=
  let e := x.cores.length
  if 2 ≤ e then (x.cluster, x.cores.getD ((u + 1 + c % (e - 1)) % e) 0)
  else
    let y := (d.fallback x.cluster).getD x.cluster
    let cores := d.enabledCores f y
    (y, cores.getD (c % max 1 cores.length) 0)

/-- What comparing the results of a duplicate finds (R364): they agree; the new results agree; the cores that are faulty, and how
many further cores computed the item. -/
inductive DupVerdict where
  | agree
  | transient
  | lasting (first second : Bool) (further : Nat)
deriving DecidableEq, Repr

/-- How many further results come until one equals an earlier one. -/
def furtherRuns (seen : List Nat) : List Nat → Nat
  | [] => 0
  | r :: rs => if seen.contains r then 1 else 1 + furtherRuns (r :: seen) rs

def dupVerdict (m : DupFinding) : DupVerdict :=
  if m.first = m.second then .agree
  else if m.firstAgain = m.secondAgain then .transient
  else
    let a := m.firstAgain != m.referee
    let b := m.secondAgain != m.referee
    .lasting a b (if a && b then furtherRuns [m.referee, m.secondAgain, m.firstAgain] m.further else 0)

/-- The items computed beyond the first two results: both again, the referee, the further cores. -/
def DupVerdict.reruns : DupVerdict → Nat
  | .agree => 0
  | .transient => 2
  | .lasting _ _ n => 3 + n

/-- A core outvoted by a referee (R366): every unfixed step and the step in progress are bad. -/
def Dev.outvoted (d : Dev) (f : Fuse) (source c : Nat) (faulty : Bool) : Dev :=
  if faulty then ((d.classify c source true).badUnfixed).lastingCore f c source else d

/-- What follows from the comparison of the results of two cores (R364, R366): both are counted where the repeat agrees. -/
def Dev.dupEffect (d : Dev) (f : Fuse) (source first second : Nat) (v : DupVerdict) : Dev :=
  match v with
  | .agree => d
  | .transient => (d.classify first source false).classify second source false
  | .lasting a b _ => (d.outvoted f source first a).outvoted f source second b

/-- A duplicated item's results compared (R363, R364): `start` is the package as the operation found it. The computations it
brings count as items of the clusters that run them (R84). -/
def Dev.dupItem (d : Dev) (f : Fuse) (start : Dev) (c : Nat) (deals : List ClusterDeal) (m : DupFinding) : Dev :=
  match m.site with
  | .row .. => d
  | .item group item =>
    match findItem deals group item with
    | none => d
    | some (x, t) =>
      if !start.dupDue f x c t then d
      else
        let u := x.coreOf t
        let q := start.partner f x c u
        let v := dupVerdict m
        let third := if 3 ≤ x.cores.length then x.cluster else (start.fallback x.cluster).getD x.cluster
        let d := match v with
          | .agree => d
          | .transient => (d.addWrap (Reg.cluWork x.cluster) 1).addWrap (Reg.cluWork q.1) 1
          | .lasting _ _ n => ((d.addWrap (Reg.cluWork x.cluster) 1).addWrap (Reg.cluWork q.1) 1).addWrap (Reg.cluWork third) (1 + n)
        d.dupEffect f 2 (128 * x.cluster + x.cores.getD u 0) (128 * q.1 + q.2) v

/-- The items of a cluster run, with their duplicates. -/
def Dev.workItems (d : Dev) (f : Fuse) (c : Nat) (x : ClusterDeal) : Dev :=
  let dups := ((List.range x.items).filter fun t => d.dupDue f x c t).length
  let y := if x.cores.length = 1 then (d.fallback x.cluster).getD x.cluster else x.cluster
  ((d.addWrap (Reg.cluWork x.cluster) x.items).addWrap (Reg.cluWork y) dups).addSat Reg.chkDupItems dups

end Sys2Proof.Machine
end

