-- ==== Sys2Proof/Machine/Operands.lean ====
section
/-! DEFINITION. Every operand form of the commands: tensors through their descriptors, in each storage format, read as FP32
values or as codes and written as bytes (R24 to R41, R54, R138, R139, R512, R515). -/
namespace Sys2Proof.Machine

/-! Format codes (R24). -/

/-- The codes of R24. -/
def formatExists (f : Nat) : Bool := [0x0, 0x1, 0x2, 0x4, 0x5, 0x6, 0x8, 0xA, 0xB, 0xC, 0xD, 0xE].contains f

/-- The element kind of an MX format code; of a pair, that of its halves. -/
def mxKind (f : Nat) : Option MxKind :=
  match f with
  | 0x4 => some .e2m3
  | 0x5 => some .e3m2
  | 0x6 => some .e2m1
  | 0x8 => some .e2m3
  | _ => none

def isPair (f : Nat) : Bool := f == 0x8

/-- A block format: MX or a compensated pair. -/
def isBlock (f : Nat) : Bool := (mxKind f).isSome

def herKind (f : Nat) : Option HerKind :=
  match f with
  | 0xD => some .e4m3
  | 0xE => some .e5m2
  | _ => none

def isHeritage (f : Nat) : Bool := (herKind f).isSome

/-- The element size z of a format that is not a block format, in bytes (R139). -/
def elemSize (f : Nat) : Nat :=
  match f with
  | 0x0 | 0xA => 4
  | 0x1 | 0x2 | 0xB => 2
  | _ => 1

/-! Geometry. -/

def Desc.rows (d : Desc) : Nat := d.len1 * d.len2 * d.len3

def Desc.elems (d : Desc) : Nat := d.len0 * d.rows

def Desc.shape (d : Desc) : Shape := ⟨d.len0, d.len1, d.len2, d.len3⟩

def Shape.rows (s : Shape) : Nat := s.l1 * s.l2 * s.l3

def Desc.s1 (d : Desc) : Nat := if d.stride1 = 0 then d.len0 else d.stride1

def Desc.s2 (d : Desc) : Nat := if d.stride2 = 0 then ceilDiv (elemSize d.fmt * d.s1 * d.len1) 256 else d.stride2

def Desc.s3 (d : Desc) : Nat := if d.stride3 = 0 then d.s2 * d.len2 else d.stride3

/-- The address of element 0 of a row, rows counted with dimension 1 fastest (R139). -/
def Desc.rowAddr (d : Desc) (row : Nat) : Nat :=
  let i1 := row % d.len1
  let i2 := row / d.len1 % d.len2
  let i3 := row / (d.len1 * d.len2)
  d.addr + elemSize d.fmt * (i1 * d.s1) + 256 * (i2 * d.s2 + i3 * d.s3)

/-- Blocks along a row (R27, R28). -/
def Desc.rowBlocks (d : Desc) : Nat := ceilDiv d.len0 32

def Desc.blocks (d : Desc) : Nat := d.rowBlocks * d.rows

/-- Bytes of one element block of a block format. -/
def blockSize (f : Nat) : Nat :=
  match mxKind f with
  | some k => k.blockBytes
  | none => 0

/-- The start of the scale plane, counted from the start of its element plane (R27). -/
def Desc.scalePlane (d : Desc) : Nat := alignUp (blockSize d.fmt * d.blocks) 256

/-- The start of the lo elements of a pair, counted from the tensor's address (R36). -/
def Desc.loPlane (d : Desc) : Nat := d.scalePlane + alignUp d.blocks 256

/-- The runs of bytes a tensor occupies: its rows, or its planes (R113). -/
def Desc.runs (d : Desc) : List (Nat × Nat) :=
  if isBlock d.fmt then
    let plane := fun base => [(base, blockSize d.fmt * d.blocks), (base + d.scalePlane, d.blocks)]
    if isPair d.fmt then plane d.addr ++ plane (d.addr + d.loPlane) else plane d.addr
  else if d.s1 = d.len0 then
    let n := elemSize d.fmt * d.len0 * d.len1
    (List.range (d.len2 * d.len3)).map fun j => (d.rowAddr (j * d.len1), n)
  else (List.range d.rows).map fun r => (d.rowAddr r, elemSize d.fmt * d.len0)

/-! Reading. -/

/-- The outer exponent o of a descriptor whose scale decode has accepted (R30). -/
def Desc.outer (d : Desc) : Int := (outerExp? d.scale).getD 0

/-- Element i of a block's bytes (R27). -/
def blockCode (k : MxKind) (bytes : List Byte) (i : Nat) : Nat := natBits (leNat bytes) (k.bits * i + k.bits - 1) (k.bits * i)

/-- Block j of the plane pair at `base`: its scale byte and its 32 codes. -/
def readBlock (src : ByteSource) (k : MxKind) (base scalePlane j : Nat) : MxBlock :=
  let bytes := readBytes src (base + k.blockBytes * j) k.blockBytes
  ⟨(src (base + scalePlane + j)).toNat, (List.range 32).map (blockCode k bytes)⟩

/-- A block with its positions beyond the row's length read as +0 (R28). -/
def MxBlock.within (b : MxBlock) (n : Nat) : MxBlock :=
  ⟨b.scale, b.codes.zipIdx.map fun c => if c.2 < n then c.1 else 0⟩

/-- Block `b` of a row, positions beyond the length as +0. -/
def Desc.block (d : Desc) (k : MxKind) (src : ByteSource) (row b : Nat) : MxBlock :=
  (readBlock src k d.addr d.scalePlane (row * d.rowBlocks + b)).within (d.len0 - 32 * b)

/-- The same block of a pair's lo half (R36). -/
def Desc.blockLo (d : Desc) (src : ByteSource) (row b : Nat) : MxBlock :=
  (readBlock src .e2m3 (d.addr + d.loPlane) d.scalePlane (row * d.rowBlocks + b)).within (d.len0 - 32 * b)

/-- The storage code of one element of a format that is not a block format. -/
def Desc.code (d : Desc) (src : ByteSource) (row i : Nat) : Nat :=
  let z := elemSize d.fmt
  readNat src (d.rowAddr row + z * i) z

/-- A code read as an FP32 value (R35, R47, R515). -/
def readCode (fmt : Nat) (scale : Word) (c : Nat) : Word :=
  match fmt with
  | 0x0 => BitVec.ofNat 32 c
  | 0x1 => bf16ToF32 (BitVec.ofNat 16 c)
  | 0x2 => f16ToF32 (BitVec.ofNat 16 c)
  | 0xA => fOfInt (BitVec.ofNat 32 c).toInt
  | 0xB => fOfInt (BitVec.ofNat 16 c).toInt
  | 0xC => fOfNat c
  | 0xD => HerKind.e4m3.read c scale
  | _ => HerKind.e5m2.read c scale

/-- The FP32 values of a block of a row. -/
def Desc.blockValues (d : Desc) (k : MxKind) (src : ByteSource) (row b : Nat) : List Word :=
  let n := min 32 (d.len0 - 32 * b)
  let one := fun (x : MxBlock) => (x.codes.take n).map fun c => k.read c x.scale d.outer
  let hi := one (d.block k src row b)
  if isPair d.fmt then List.zipWith fAdd hi (one (d.blockLo src row b)) else hi

/-- The FP32 values of a row (R35, R47, R143, R515). -/
def Desc.row (d : Desc) (src : ByteSource) (row : Nat) : List Word :=
  match mxKind d.fmt with
  | some k => ((List.range d.rowBlocks).map (d.blockValues k src row)).flatten
  | none => (List.range d.len0).map fun i => readCode d.fmt d.scale (d.code src row i)

/-- The rows of a tensor. -/
def Desc.allRows (d : Desc) (src : ByteSource) : List (List Word) := (List.range d.rows).map (d.row src)

/-! Writing. -/

/-- What a converted output is: the bytes to write, the positions counted as non-finite (R512), by linear element index,
and the largest finite magnitude of the FP32 values (R276). -/
structure Out where
  chunks : List Chunk
  nf : List Nat
  amax : Word
deriving DecidableEq, Repr

def Out.empty : Out := ⟨[], [], 0#32⟩

def Out.join (a b : Out) : Out := ⟨a.chunks ++ b.chunks, a.nf ++ b.nf, fMax a.amax b.amax⟩

def Out.concat (os : List Out) : Out := ⟨(os.map (·.chunks)).flatten, (os.map (·.nf)).flatten,
  os.foldl (fun a o => fMax a o.amax) 0#32⟩

/-- The largest finite magnitude of a list of FP32 values; +0 where there is none. -/
def amaxOf (vs : List Word) : Word :=
  vs.foldl (fun a v => if fIsFinite v && fLt a (fAbs v) then fAbs v else a) 0#32

/-- The code of an FP32 value in a format that is not a block format, with whether R512 counts it (R42, R47, R54). An FP32
value is written exactly (R87). -/
def writeCode (mode : ConvMode) (fmt : Nat) (scale : Word) (index : Nat) (x : Word) : Nat × Bool :=
  let unfit := !fIsFinite x
  match fmt with
  | 0x0 => (x.toNat, unfit)
  | 0x1 => let c := f32ToBF16Mode mode index x
    (c.toNat, !(fmtBF16.decode c.toNat).isFinite)
  | 0x2 => let c := f32ToF16 x
    (c.toNat, !(fmtF16.decode c.toNat).isFinite)
  | 0xA => ((BitVec.ofInt 32 (f32ToIntSat (-2147483648) 2147483647 x)).toNat, unfit)
  | 0xB => ((BitVec.ofInt 16 (f32ToIntSat (-32768) 32767 x)).toNat, unfit)
  | 0xC => ((f32ToIntSat 0 255 x).toNat, unfit)
  | 0xD => (HerKind.e4m3.conv x scale, unfit)
  | _ => (HerKind.e5m2.conv x scale, unfit)

/-- The bytes of a block's 32 codes (R27). -/
def packBlock (k : MxKind) (codes : List Nat) : List Byte :=
  natBytes k.blockBytes (codes.foldr (fun c n => c % 2 ^ k.bits + n * 2 ^ k.bits) 0)

/-- The chunks of block j of a plane pair. -/
def putBlock (k : MxKind) (base scalePlane j : Nat) (b : MxBlock) : List Chunk :=
  [⟨base + k.blockBytes * j, packBlock k b.codes⟩, ⟨base + scalePlane + j, [BitVec.ofNat 8 b.scale]⟩]

/-- The linear index of the first value of a list that is not finite, counted from `index`. -/
def firstNonfinite (index : Nat) (vs : List Word) : Nat :=
  index + (vs.findIdx fun v => !fIsFinite v)

/-- One block of a row converted and placed (R37, R39 to R41); the draws are those of linear index `index` upward. -/
def Desc.putBlockValues (d : Desc) (k : MxKind) (mode : ConvMode) (index row b : Nat) (vs : List Word) : Out :=
  let j := row * d.rowBlocks + b
  let vals := vs.map f32
  let nf := fun (x : MxBlock) => if x.scale = 255 then [firstNonfinite index vs] else []
  if isPair d.fmt then
    let p := pairConvertBlock d.outer vals
    ⟨putBlock k d.addr d.scalePlane j p.1 ++ putBlock k (d.addr + d.loPlane) d.scalePlane j p.2, nf p.1, amaxOf vs⟩
  else
    let x := mxConvertBlock k mode index d.outer vals
    ⟨putBlock k d.addr d.scalePlane j x, nf x, amaxOf vs⟩

/-- The pieces of 32 of a row of values. -/
def cutBlocks (n : Nat) (vs : List Word) : List (List Word) :=
  (List.range n).map fun b => (vs.drop (32 * b)).take 32

/-- One row of FP32 values converted into a tensor's format, element 0 of linear index `index` for the draws. -/
def Desc.putRowAt (d : Desc) (mode : ConvMode) (index row : Nat) (vs : List Word) : Out :=
  match mxKind d.fmt with
  | some k =>
    Out.concat ((cutBlocks d.rowBlocks vs).zipIdx.map fun p => d.putBlockValues k mode (index + 32 * p.2) row p.2 p.1)
  | none =>
    let z := elemSize d.fmt
    let cs := vs.zipIdx.map fun p => writeCode mode d.fmt d.scale (index + p.2) p.1
    ⟨[⟨d.rowAddr row, (cs.map fun c => natBytes z c.1).flatten⟩],
      (cs.zipIdx.filter fun c => c.1.2).map fun c => index + c.2, amaxOf vs⟩

/-- One row of FP32 values converted into a tensor's format (R44: the linear index runs with dimension 0 fastest). -/
def Desc.putRow (d : Desc) (mode : ConvMode) (row : Nat) (vs : List Word) : Out := d.putRowAt mode (row * d.len0) row vs

/-- Every row of a tensor. -/
def Desc.putRows (d : Desc) (mode : ConvMode) (rows : List (List Word)) : Out :=
  Out.concat (rows.zipIdx.map fun p => d.putRow mode p.2 p.1)

/-- The codes of a row written unchanged, for formats that are not block formats. -/
def Desc.putCodes (d : Desc) (row : Nat) (codes : List Nat) : Chunk :=
  ⟨d.rowAddr row, (codes.map fun c => natBytes (elemSize d.fmt) c).flatten⟩

/-- A row of FP32 values as add-writes (R124). -/
def Desc.addRow (d : Desc) (row : Nat) (vs : List Word) : List AddWrite :=
  vs.zipIdx.map fun p => ⟨d.rowAddr row + 4 * p.2, p.1⟩

def Desc.addRows (d : Desc) (rows : List (List Word)) : List AddWrite :=
  (rows.zipIdx.map fun p => d.addRow p.2 p.1).flatten

/-- The linear index of the element of an FP32 tensor at an address. -/
def Desc.indexAt (d : Desc) (a : Nat) : Nat :=
  match (List.range d.rows).find? fun r => decide (d.rowAddr r ≤ a ∧ a < d.rowAddr r + 4 * d.len0) with
  | some r => r * d.len0 + (a - d.rowAddr r) / 4
  | none => 0

/-- The rounding mode a command's ROUND names (R42), with the draws of its TENSOR_ID. -/
def convMode (round : Nat) (seed : Dword) (step : Nat) (tensorId : Word) : ConvMode :=
  if round = 1 then .stoch seed (BitVec.ofNat 32 step) tensorId else .rne

/-- The job seed (R44). -/
def Dev.seed (d : Dev) : Dword := BitVec.ofNat 64 (d.pair Reg.logSeedLo)

/-- The mode of a command in the current step. -/
def Dev.mode (d : Dev) (round : Nat) (tensorId : Word) : ConvMode := convMode round d.seed d.step tensorId

end Sys2Proof.Machine
end

