-- ==== Sys2Proof/Machine/Flags.lean ====
section
/-! DEFINITION. Every flag and figure an operation leaves: its non-finite count, the step flag, the layer counts, the maxima
merged into the outer-scale table, the first finding (R41, R107, R124, R229, R276, R280, R281, R512). -/
namespace Sys2Proof.Machine

/-- The units of SXT_NF_ORIGIN_UNIT. -/
inductive NfUnit where
  | conversion
  | vector
  | addWrite
  | compass
  | helm
deriving DecidableEq, Repr

def NfUnit.code : NfUnit → Nat
  | .conversion => 1
  | .vector => 2
  | .addWrite => 3
  | .compass => 4
  | .helm => 5

/-- The step's non-finite flag (R229, R230), with its event where it becomes set (R239). -/
def Dev.setLocalNf (d : Dev) : Dev :=
  if d.flag Reg.redStepNf 0 then d
  else (d.setReg Reg.redStepNf (d.reg Reg.redStepNf ||| 3#32)).raise (page1 .red) 0

/-- The address of an entry of the outer-scale table (R273). -/
def Dev.scaleEntry (d : Dev) (ref : Nat) : Nat := d.pair Reg.sxtScaleBaseLo + 0x440 + 320 * ref

/-- An entry's AUTO flag (R274), for a reference that names an entry. -/
def Dev.autoEntry (d : Dev) (ref : Nat) : Bool :=
  decide (ref < (d.reg Reg.sxtScaleCount).toNat) && (d.mem.byte (d.scaleEntry ref + 4)).getLsbD 0

/-- The layer and tensor id a reference gives a finding: its entry's where it names an AUTO entry (R280, R281). -/
def Dev.findingOf (d : Dev) (ref : Nat) (layer : Nat) (tensorId : Word) : Nat × Word :=
  (if d.autoEntry ref then readNat d.src (d.scaleEntry ref + 8) 2 else layer,
    if ref < (d.reg Reg.sxtScaleCount).toNat then readWord d.src (d.scaleEntry ref + 0xC) else tensorId)

/-- A finding of a main-stream command kept as the step's first where it comes earlier (R281). -/
def keepFirst (old : Option Finding) (x : Finding) : Option Finding :=
  match old with
  | none => some x
  | some o => if x.order < o.order ∨ (x.order = o.order ∧ x.index < o.index) then some x else some o

/-- Layers the Sextant keeps (R290: larger counts are treated as 4,096). -/
def Dev.layerCount (d : Dev) : Nat := min 4096 (d.fld Reg.sxtLayerCount 15 0)

/-- A non-finite count attributed by the Sextant (R280, R281): SXT_STEP_NF, the layer's count, and the first finding. `nf` holds
the element indices counted. Nothing for a count of 0. -/
def Dev.attribute (d : Dev) (unit : NfUnit) (order layer : Nat) (tensor tag : Word) (nf : List Nat) : Dev :=
  match nf with
  | [] => d
  | i :: is =>
    let n := nf.length
    let d := d.addSat Reg.sxtStepNf n
    let idx := is.foldl min i
    let s := d.sxt
    let layerNf := if layer < d.layerCount then
        Assoc.set (fun _ => 0) s.layerNf layer (Assoc.get (fun _ => 0) s.layerNf layer + n)
      else s.layerNf
    { d with sxt := { s with
        layerNf := layerNf, first := keepFirst s.first ⟨order, unit.code, layer, tensor, idx, tag⟩ } }

/-- A main-stream command's non-finite count at a unit (R229): the step flag, and the Sextant's figures. -/
def Dev.nonfinite (d : Dev) (unit : NfUnit) (order layer : Nat) (tensor tag : Word) (nf : List Nat) : Dev :=
  if nf.isEmpty then d else (d.setLocalNf).attribute unit order layer tensor tag nf

/-- The maxima and the count of an output merged into its AUTO entry (R276), while the page is ACTIVE (R274).
DEDUCED, log entry 31. -/
def Dev.merge (d : Dev) (ref : Nat) (amax : Word) (n : Nat) : Dev :=
  if d.autoEntry ref && d.active (page1 .sxt) then
    let a := d.scaleEntry ref
    let d := d.writeAt (a + 0x10) (natBytes 4 (fMax (readWord d.src (a + 0x10)) amax).toNat)
    d.writeAt (a + 0x14) (natBytes 4 (min (readNat d.src (a + 0x14) 4 + n) 0xFFFFFFFF))
  else d

/-- What a command is to the figures it leaves: its stream, its place in the stream's order, its LAYER where it has one,
and its header's tensor id and tag. -/
structure Origin where
  main : Bool
  order : Nat
  layer : Nat
  tensorId : Word
  tag : Word
deriving DecidableEq, Repr

/-- An output tensor written by conversion: its bytes, its merge and its findings. Backfill findings belong to another job
and touch neither the step flag nor the Sextant (R159). -/
def Dev.output (d : Dev) (o : Origin) (unit : NfUnit) (t : Desc) (out : Out) : Dev :=
  let d := d.write out.chunks
  if o.main then
    let w := d.findingOf t.scaleRef o.layer o.tensorId
    (d.merge t.scaleRef out.amax out.nf.length).nonfinite unit o.order w.1 w.2 o.tag out.nf
  else d

/-- An output tensor written by add-writes (R124), with the number of its non-finite sums.
DESIGN CHOICE, log entry 21. -/
def Dev.addOutput (d : Dev) (o : Origin) (t : Desc) (ws : List AddWrite) : Dev × Nat :=
  let r := d.addWrites ws
  let d := if o.main then
      let w := r.1.findingOf t.scaleRef o.layer o.tensorId
      r.1.nonfinite .addWrite o.order w.1 w.2 o.tag (r.2.map t.indexAt)
    else r.1
  (d, r.2.length)

end Sys2Proof.Machine
end

