-- ==== Sys2Proof/Machine/Net.lean ====
section
/-! DEFINITION. Link blocks, Charts and the sending of messages (13_fabric_and_charts.md), as every unit uses them. -/
namespace Sys2Proof.Machine

/-! Link blocks (R314, R315). -/

/-- The header fields of a link block. -/
structure Hdr where
  cls : Nat
  last : Bool
  void : Bool
  chart : Nat
  stripe : Nat
  seq : Nat
  src : Nat
  dest : Nat
  hops : Nat
  rsv : Nat
deriving DecidableEq, Repr

/-- Byte i of a block. -/
def blockByte (b : Block) (i : Nat) : Byte := b.extractLsb' (8 * i) 8

def blockBytes (b : Block) : List Byte := (List.range 256).map (blockByte b)

/-- The block of 256 bytes. -/
def blockOf (bs : List Byte) : Block := BitVec.ofNat 2048 (leNat (bs.take 256))

/-- The header of a block, read under R314. -/
def hdrOf (b : Block) : Hdr :=
  let h := b.toNat % 2 ^ 64
  { cls := natBits h 2 0, last := h.testBit 3, void := h.testBit 4, chart := natBits h 7 5, stripe := natBits h 10 8,
    seq := natBits h 22 11, src := natBits h 38 23, dest := natBits h 54 39, hops := natBits h 59 55,
    rsv := natBits h 63 60 }

/-- The eight header bytes of a block. -/
def hdrBytes (h : Hdr) : List Byte :=
  natBytes 8 (h.cls + (if h.last then 8 else 0) + (if h.void then 16 else 0) + h.chart * 32 + h.stripe * 256 +
    2048 * (h.seq % 4096) + 2 ^ 23 * (h.src % 65536) + 2 ^ 39 * (h.dest % 65536) + 2 ^ 55 * (h.hops % 32) + 2 ^ 60 * (h.rsv % 16))

/-- The payload of a block: bytes 8 to 251. -/
def payloadOf (b : Block) : List Byte := ((blockBytes b).drop 8).take 244

/-- A block of a header and a payload of at most 244 bytes, with its CRC. -/
def mkBlock (h : Hdr) (payload : List Byte) : Block :=
  let body := hdrBytes h ++ (payload ++ List.replicate (244 - payload.length) 0#8).take 244
  blockOf (body ++ natBytes 4 (crc32 body).toNat)

/-- The block with another header and a new CRC. -/
def reheader (b : Block) (f : Hdr → Hdr) : Block := mkBlock (f (hdrOf b)) (payloadOf b)

/-- The check of R315: CRC, CLASS and reserved bits. -/
def blockGood (b : Block) : Bool :=
  let bs := blockBytes b
  let h := hdrOf b
  decide (leNat (bs.drop 252) = (crc32 (bs.take 252)).toNat ∧ h.cls ≤ 4 ∧ h.rsv = 0)

/-! Package number and Charts (R323, R327 to R330, R379). -/

/-- SKY_CTRL.MODE (R379): 0 NORMAL, 1 WITNESS, 2 THIRD. -/
def Dev.skyMode (d : Dev) : Nat := d.fld Reg.skyCtrl 5 4

/-- The number every unit uses: SKY_ASSUME in the witness modes (R379). -/
def Dev.self (d : Dev) : Nat := if d.skyMode = 0 then d.fld Reg.chtPackage 15 0 else d.fld Reg.skyAssume 15 0

/-- The Chart of a slot: of the replay bank while MODE is WITNESS (R329). -/
def Dev.chart (d : Dev) (slot : Nat) : Option Chart :=
  (if d.skyMode = 1 then d.cht.replay else d.cht.live).getD slot none

/-- CHT_GOVERN as the mode in force shows it (R329). -/
def Dev.governWord (d : Dev) : Word := if d.skyMode = 1 then d.cht.govReplay else d.reg Reg.chtGovern

/-- The slot a value of CHT_GOVERN gives a class (R339). -/
def governedSlot (w : Word) (cls : Nat) : Option Nat :=
  if bit w (4 * cls + 3) then some (bits w (4 * cls + 2) (4 * cls)) else none

/-- The slot governing a class, where it is governed (R330). -/
def Dev.govern (d : Dev) (cls : Nat) : Option Nat := governedSlot d.governWord cls

/-- The package's own number, which its live traffic carries also while it serves as witness (R329). -/
def Dev.number (d : Dev) : Nat := d.fld Reg.chtPackage 15 0

/-- The live slot governing a class of the live traffic (R329). -/
def Dev.governLive (d : Dev) (cls : Nat) : Option Nat := governedSlot (d.reg Reg.chtGovern) cls

/-- The Chart governing a class. -/
def Dev.governing (d : Dev) (cls : Nat) : Option Chart := (d.govern cls).bind d.chart

/-- The route-table entry of a destination. -/
def Chart.route (c : Chart) (dest : Nat) : Option Route := c.routes.find? fun r => r.dest = dest

/-- The port a route gives a stripe (R324). -/
def Route.port (r : Route) (stripe : Nat) : Nat := r.ports.getD (stripe % max 1 r.stripes) 0xFF

/-- The index of a package in a member list. -/
def memberIndex (ms : List Member) (p : Nat) : Option Nat := ms.findIdx? fun m => m.package = p

/-- The parent of a member in the class 0 tree (R327). -/
def Chart.parentOf (c : Chart) (p : Nat) : Option Nat :=
  match c.members.find? fun m => m.package = p with
  | some m => if m.parent = 0xFFFF then none else (c.members[m.parent]?).map (·.package)
  | none => none

/-- The children of a member in the class 0 tree. -/
def Chart.childrenOf (c : Chart) (p : Nat) : List Nat :=
  match memberIndex c.members p with
  | some i => (c.members.filter fun m => m.parent = i).map (·.package)
  | none => []

/-- The nodes of a reduction group (R327). -/
def Chart.group (c : Chart) (g : Nat) : Option (List Node) := c.groups[g]?

/-- The parent of a package in a group tree. -/
def groupParent (ns : List Node) (p : Nat) : Option Nat :=
  match ns.find? fun n => n.package = p with
  | some n => if n.parent = 0xFFFFFFFF then none else (ns[n.parent]?).map (·.package)
  | none => none

/-- The children of a package in a group tree, in ascending node index. -/
def groupChildren (ns : List Node) (p : Nat) : List Nat :=
  match ns.findIdx? fun n => n.package = p with
  | some i => (ns.filter fun n => n.parent = i).map (·.package)
  | none => []

/-! Ports. -/

def fabPage (q : Nat) : Page := ⟨.fab, q⟩

def Dev.port (d : Dev) (q : Nat) : Port := d.ports.getD q Port.reset

def Dev.setPort (d : Dev) (q : Nat) (f : Port → Port) : Dev := { d with ports := d.ports.modify q f }

/-- A block or message discarded as stray (R317, R324, R333). -/
def Dev.stray (d : Dev) : Dev := (d.addSat Reg.chtStray 1).raise (page1 .cht) 4

/-- A block discarded in forwarding or at its origin: counted, signalled and logged (R324). -/
def Dev.strayBlock (d : Dev) (b : Block) : Dev :=
  let h := hdrOf b
  (d.addSat Reg.chtStray 1).raiseLogged (page1 .cht) 4 h.src (natBytes 8 (h.cls + 0x10000 * h.dest))

/-- A block joins a port's queue of its class. A class 0 block that finds more than 4 blocks there becomes VOID; one that joins
during a re-send run waits behind that run (R321, R322). -/
def Dev.enqueue (d : Dev) (q : Nat) (b : Block) (owner : Nat) (via : Option Nat) : Dev :=
  d.setPort q fun p =>
    let c := (hdrOf b).cls
    let queue := p.queues.getD c []
    let b := if c = 0 ∧ queue.length > 4 then reheader b fun h => { h with void := true } else b
    let run := if p.resendFrom.isSome then p.run - 1 else p.run
    { p with queues := p.queues.set c (queue ++ [⟨b, owner, run, via, 0⟩]) }

/-- The port a block goes out on: its live Chart slot's for its DEST and STRIPE, while it is ACTIVE (R324, R329). -/
def Dev.routeOf (d : Dev) (h : Hdr) : Option Nat :=
  match (d.cht.live.getD h.chart none).bind fun c => c.route h.dest with
  | some r =>
    let q := r.port h.stripe
    if q < 36 ∧ d.active (fabPage q) ∧ h.hops < 31 then some q else none
  | none => none

/-- Blocks of a run discarded here: the ports never accept them, and the run waits for them until it times out (R324). -/
def Dev.notAccepted (d : Dev) (owner n : Nat) : Dev :=
  if owner = 0 then d else { d with cht := { d.cht with stuck := List.replicate n owner ++ d.cht.stuck } }

/-- A block of this package sent on its port, or discarded as stray (R324). -/
def Dev.forward (d : Dev) (b : Block) (owner : Nat) : Dev :=
  match d.routeOf (hdrOf b) with
  | some q => d.enqueue q b owner none
  | none => (d.strayBlock b).notAccepted owner 1

/-- The payloads of a packet: its bytes over as many blocks as they take (R326). -/
def packetPayloads (bs : List Byte) : List (List Byte) :=
  if bs.isEmpty then [[]] else cutPadded 244 (bs.length / 244 + 1) bs

/-- The payloads of one message added into the outbound digest of the current step (R380): each payload zero-padded to a
block, from index `i`. -/
def Dev.digestOut (d : Dev) (i : Nat) (payloads : List (List Byte)) : Dev :=
  { d with sky := { d.sky with digests := d.sky.digests.map fun s =>
      if s.step = d.step ∧ !s.closed then
        let l := (payloads.foldl (fun (acc : Nat × (Dword × Dword)) p =>
          (acc.1 + 1, addBlock acc.2 acc.1 (p ++ List.replicate (256 - p.length) 0#8))) (i, (s.out0, s.out1))).2
        { s with out0 := l.1, out1 := l.2 }
      else s } }

/-- Blocks of one packet sent in order on one stripe under the Chart of a slot. -/
def Dev.sendBlocks (d : Dev) (cls slot dest stripe owner : Nat) (payloads : List (List Byte)) : Dev :=
  (payloads.foldl (fun (acc : Nat × Dev) p =>
    let h : Hdr := ⟨cls, acc.1 + 1 == payloads.length, false, slot, stripe, 0, d.number, dest, 0, 0⟩
    (acc.1 + 1, acc.2.forward (mkBlock h p) owner)) (0, d)).2

/-- A packet this package originates in a class of 1 to 4 (R325, R326, R379, R380): it enters the outbound digest; in the
witness modes it goes no further; to this package itself it is delivered without a port. -/
def Dev.sendPacket (d : Dev) (cls dest stripe owner : Nat) (bs : List Byte) : Dev :=
  let payloads := packetPayloads bs
  let d := d.digestOut 0 payloads
  match d.govern cls with
  | none => d.notAccepted owner payloads.length
  | some slot =>
    if dest = d.self then
      { d with cht := { d.cht with loop := d.cht.loop ++ [⟨36, d.self, cls, stripe, slot, payloads.flatten⟩] } }
    else if d.skyMode ≠ 0 then d
    else d.sendBlocks cls slot dest stripe owner payloads

/-- The number of stripes the governing Chart gives a destination. -/
def Dev.stripesTo (d : Dev) (cls dest : Nat) : Nat :=
  match (d.governing cls).bind fun c => c.route dest with
  | some r => max 1 r.stripes
  | none => 1

/-- A class 0 message of one block (R317, R325, R329); to this package itself it is delivered without a port. -/
def Dev.sendControl (d : Dev) (dest : Nat) (bs : List Byte) : Dev :=
  match d.governLive 0 with
  | none => d
  | some slot =>
    if dest = d.number then { d with cht := { d.cht with loop := d.cht.loop ++ [⟨36, d.number, 0, 0, slot, bs⟩] } }
    else d.sendBlocks 0 slot dest 0 0 [bs]

/-- A class 0 message sent to each of a list of packages. -/
def Dev.sendControls (d : Dev) (dests : List Nat) (bs : List Byte) : Dev :=
  dests.foldl (fun d p => d.sendControl p bs) d

/-- Some block of a run has not been accepted by the ports: it stands in a queue of one, or was discarded here (R201, R296, R324).
DESIGN CHOICE, log entry 4. -/
def Dev.queued (d : Dev) (owner : Nat) : Bool :=
  d.cht.stuck.contains owner || d.ports.any fun p => p.queues.any fun q => q.any fun x => x.owner = owner

/-- Whether some port still holds a block of a run in its queues or its retry buffer (R334).
DESIGN CHOICE, log entry 4. -/
def Dev.unacked (d : Dev) (owner : Nat) : Bool :=
  d.queued owner || d.ports.any fun p => p.retry.any fun x => x.owner = owner

/-- Two packets of one flow (R325, R326). -/
def sameFlow (a b : Packet) : Bool := a.src == b.src && a.cls == b.cls && a.stripe == b.stripe

/-- A packet stands received, the first of its flow still there: at its port, or among those this package sent to itself
(R184, R325). DEDUCED, log entry 35. -/
def Dev.has (d : Dev) (m : Packet) : Bool :=
  ((if m.port = 36 then d.cht.loop else (d.port m.port).ready).find? (sameFlow m)) == some m

/-- A received packet taken out of its port's buffer where it stands there, its last block's credit returned (R319). -/
def Dev.takePacket (d : Dev) (m : Packet) : Dev :=
  if m.port = 36 then { d with cht := { d.cht with loop := d.cht.loop.erase m } }
  else if (d.port m.port).ready.contains m then
    { d.setPort m.port fun p => { p with
        ready := p.ready.erase m
        returns := p.returns.set m.cls (p.returns.getD m.cls 0 + 1) } with
      sky := { d.sky with takenBlocks := d.sky.takenBlocks + (if m.cls = 0 then 0 else 1) } }
  else d

/-! Capture (R378). -/

/-- The number of capture slots. -/
def Dev.captureSlots (d : Dev) : Nat := max 2 (min 8 (d.fld Reg.skyCaptureCtrl 3 0))

/-- The bytes of a capture slot. -/
def Dev.captureBytes (d : Dev) : Nat := 0x100000 * d.fld Reg.skyCaptureSlot 23 0

/-- The address of the capture slot of a step. -/
def Dev.captureAddr (d : Dev) (step : Nat) : Nat :=
  d.pair Reg.skyCaptureBaseLo + step % d.captureSlots * d.captureBytes

/-- 256 bytes captured for the current step; where they do not fit, the capture is marked INCOMPLETE and counted, once. A replay
reads its capture and takes none (R379). DEDUCED, log entry 35. -/
def Dev.capture (d : Dev) (bytes : List Byte) : Dev :=
  if !d.flag Reg.skyCaptureCtrl 8 ∨ d.skyMode ≠ 0 then d
  else
    match d.sky.captures.find? fun c => c.step = d.step with
    | none => d
    | some c =>
      let put := fun (d : Dev) (c : Capture) => { d with sky := { d.sky with
        captures := d.sky.captures.map fun x => if x.step = c.step then c else x } }
      if c.used + 256 ≤ d.captureBytes then
        put (d.writeAt (d.captureAddr d.step + c.used) bytes) { c with used := c.used + 256 }
      else if c.incomplete then d
      else ((put d { c with incomplete := true }).addSat Reg.skyCaptureIncomplete 1).raise (page1 .sky) 5

/-- SUSPECT for a held step; BAD where the second key is not enabled or the step has no complete capture (R374). -/
def Dev.flagSuspect (d : Dev) (n : Nat) : Dev :=
  let whole := d.sky.captures.any fun c => c.step == n && !c.incomplete
  if !d.flag Reg.skyCtrl 3 || !whole then d.markBad [n]
  else if n < d.sky.firstStep then d
  else { d with sky := { d.sky with suspect := (n :: d.sky.suspect).eraseDups } }

end Sys2Proof.Machine
end

