-- ==== Sys2Proof/Machine/SeqOps.lean ====
section
/-! DEFINITION. The sequencer's own operations: where a stream stands, which command may issue, how a command completes, is
skipped or is rejected (06_command_streams.md). -/
namespace Sys2Proof.Machine

/-! Streams. -/

def sidx : Stream → Nat
  | .main => 0
  | .backfill => 1

def otherStream : Stream → Stream
  | .main => .backfill
  | .backfill => .main

def seqPage (st : Stream) : Page := ⟨.seq, sidx st⟩

def Dev.stream (d : Dev) : Stream → StreamState
  | .main => d.seqMain
  | .backfill => d.seqBf

def Dev.setStream (d : Dev) : Stream → (StreamState → StreamState) → Dev
  | .main, f => { d with seqMain := f d.seqMain }
  | .backfill, f => { d with seqBf := f d.seqBf }

/-- EFFECTIVE (R162). -/
def Dev.bfEffective (d : Dev) : Bool := d.flag (Reg.seqBfStatus 1) 0

/-- A suspension bit of SEQ_BF_STATUS set, with its event (R160, R163). -/
def Dev.suspend (d : Dev) (bit : Nat) : Dev :=
  if d.flag (Reg.seqBfStatus 1) bit then d else (d.setFlag (Reg.seqBfStatus 1) bit true).raise (seqPage .backfill) 6

/-! Places (R133, R135). -/

/-- The number of slots of a stream's ring. -/
def Dev.ringSize (d : Dev) (st : Stream) : Nat := 2 ^ max 6 (min 20 (d.fld (Reg.seqRingSize (sidx st)) 4 0))

/-- The place after the command at a place completes: the next of its list, or, after the list's last, the place after the
CALL that reached it. -/
def nextIn (size head : Nat) : List Frame → Place
  | [] => ⟨[], (head + 1) % size⟩
  | f :: fs => if f.index + 1 < f.count then ⟨{ f with index := f.index + 1 } :: fs, head⟩ else nextIn size head fs

def Place.next (size : Nat) (p : Place) : Place := nextIn size p.head p.frames

def Place.skip (size : Nat) : Nat → Place → Place
  | 0, p => p
  | n + 1, p => Place.skip size n (p.next size)

/-- The place of the command the stream runs or will run next. -/
def Dev.place (d : Dev) (st : Stream) : Place := ⟨(d.stream st).frames, d.fld (Reg.seqHead (sidx st)) 19 0⟩

/-- The address of the command at a place. -/
def Dev.placeAddr (d : Dev) (st : Stream) (p : Place) : Nat :=
  match p.frames with
  | [] => d.pair (Reg.seqRingBaseLo (sidx st)) + 64 * p.head
  | f :: _ => f.list + 64 * f.index

/-- The descriptor table in force at a place: its address and its count (R135). -/
def Dev.placeTable (d : Dev) (st : Stream) (p : Place) : Nat × Nat :=
  match p.frames with
  | [] => (d.pair (Reg.seqDtableLo (sidx st)), d.fld (Reg.seqDtableCount (sidx st)) 15 0)
  | f :: _ => (f.dtable, f.dcount)

/-- The place of the next command to fetch: after the running one and those looked ahead. -/
def Dev.fetchPlace (d : Dev) (st : Stream) : Place :=
  let s := d.stream st
  Place.skip (d.ringSize st) (s.ahead.length + (if s.running.isSome then 1 else 0)) (d.place st)

/-- A tail write covers the slot at a place; the slots of a called list stand behind their CALL (R133, R134). -/
def Dev.covered (d : Dev) (st : Stream) (p : Place) : Bool :=
  !p.frames.isEmpty || p.head != d.fld (Reg.seqTail (sidx st)) 19 0

/-! Predicates (R152). -/

def Dev.pred (d : Dev) (st : Stream) (n : Nat) : Bool :=
  n == 0 || (if n < 32 then d.flag (Reg.seqPredLo (sidx st)) n else d.flag (Reg.seqPredHi (sidx st)) (n - 32))

def Dev.setPred (d : Dev) (st : Stream) (n : Nat) (v : Bool) : Dev :=
  if n < 32 then d.setFlag (Reg.seqPredLo (sidx st)) n v else d.setFlag (Reg.seqPredHi (sidx st)) (n - 32) v

/-- A decoded command runs. -/
def Dev.runs (d : Dev) (st : Stream) (c : Decoded) : Bool := d.pred st c.pred != c.invert

/-! What a command may see of memory (R14, R68). -/

/-- Memory with the bytes of some ranges left open, by draw. DESIGN CHOICE, log entry 8. -/
def Dev.openSource (d : Dev) (ranges : List (Nat × Nat)) : ByteSource × Dev :=
  match ranges with
  | [] => (d.src, d)
  | _ =>
    let k := d.freeCtr
    (fun a => if ranges.any fun r => decide (r.1 ≤ a ∧ a < r.1 + r.2) then Config.freeByte k a else d.mem.byte a,
      { d with freeCtr := k + 1 })

/-- What the operands of a command show: memory, but free values where the command before it of its stream wrote, when the
command was staged beside it without WAIT_WRITES. DESIGN CHOICE, log entry 8. -/
def Dev.operandSource (d : Dev) (st : Stream) (c : Decoded) : ByteSource × Dev :=
  d.openSource (if c.early && !c.waitWrites then (d.stream st).hazard else [])

/-! Digests and counts (R348). -/

/-- A command in the running digests of its stream. -/
def StreamState.feedIn (s : StreamState) (c : Decoded) : StreamState :=
  let observes := match c.cmd with
    | .nop => true
    | .logmark _ => true
    | _ => false
  { s with
    listCrc := crc64From s.listCrc c.feed
    workCrc := if observes then s.workCrc else crc64From s.workCrc c.feed }

/-! The run limit of the backfill stream (R160, R164). -/

/-- The number of a command in its stream, for duplication (R363). DEDUCED, log entry 11. -/
def Dev.opNumber (d : Dev) (st : Stream) : Nat := (d.reg (Reg.seqCmdCount (sidx st))).toNat

/-- The run limit of a backfill command in ns (R160, R164). -/
def Dev.bfLimit (d : Dev) : Nat := us (max 1 (min 50 (d.fld (Reg.seqBfCtrl 1) 15 8)))

/-- A backfill command has run too long (R160). -/
def Dev.countOverrun (d : Dev) : Dev :=
  ((d.addSat (Reg.seqBfOverruns 1) 1).suspend 1).raise (seqPage .backfill) 5

/-- A backfill command measured from issue to boundary (R160, R164). -/
def Dev.measureBf (d : Dev) (r : Running) : Dev :=
  let t := d.now - r.issued
  let d := d.raiseTo (Reg.seqBfLongestNs 1) t
  if d.bfLimit < t ∧ !r.overran then d.countOverrun else d

/-- A command of a stream measured at its boundary, where its stream is the backfill stream. -/
def Dev.measureTime (d : Dev) (st : Stream) : Dev :=
  match st, d.seqBf.running with
  | .backfill, some r => d.measureBf r
  | _, _ => d

/-! Moving on. -/

/-- The stream stands at a place; HEAD reaching TAIL sets IDLE (R133, R163). DEDUCED, log entry 10. -/
def Dev.moveOn (d : Dev) (st : Stream) (p : Place) : Dev :=
  let old := d.fld (Reg.seqHead (sidx st)) 19 0
  let d := d.setStream st fun s => { s with frames := p.frames }
  if p.head = old then d
  else
    let d := d.setFld (Reg.seqHead (sidx st)) 19 0 p.head
    if p.head = d.fld (Reg.seqTail (sidx st)) 19 0 then d.raise (seqPage st) 3 else d

/-- A command completes: measured in the backfill stream, counted, digested, NOTIFY, and the stream moves to `p` (R133, R137, R160,
R348). DEDUCED, log entry 11. -/
def Dev.completeAt (d : Dev) (st : Stream) (c : Decoded) (p : Place) : Dev :=
  let d := (d.measureTime st).setStream st fun s => { s.feedIn c with running := none, completed := s.completed + 1 }
  let d := d.addWrap (Reg.seqCmdCount (sidx st)) 1
  let d := if c.notify then d.raise (seqPage st) 2 else d
  d.moveOn st p

/-- A command completes and the next one of its list follows. -/
def Dev.complete (d : Dev) (st : Stream) (c : Decoded) : Dev :=
  d.completeAt st c ((d.place st).next (d.ringSize st))

/-- A command skipped by its predicate (R152). DEDUCED, log entry 11. -/
def Dev.skipOne (d : Dev) (st : Stream) (c : Decoded) (rest : List Ahead) : Dev :=
  let d := d.setStream st fun s => { s.feedIn c with ahead := rest, skipped := s.skipped + 1 }
  let d := d.addSat (Reg.seqSkipped (sidx st)) 1
  d.moveOn st ((d.place st).next (d.ringSize st))

/-- The commands at the front of the look-ahead whose predicates say no are skipped while nothing of the stream runs. -/
def Dev.skipAhead (st : Stream) : Nat → Dev → Dev
  | 0, d => d
  | n + 1, d =>
    let s := d.stream st
    match s.running, s.ahead with
    | none, .ok c :: rest =>
      if d.active (seqPage st) && !d.runs st c then Dev.skipAhead st n (d.skipOne st c rest) else d
    | _, _ => d

/-- Skips, as many as the look-ahead can hold. -/
def Dev.settle (d : Dev) (st : Stream) : Dev := Dev.skipAhead st 9 d

/-! Rejection (R145, R146). -/

/-- The stream stops before a rejected command. -/
def Dev.reject (d : Dev) (st : Stream) (reason addr depth : Nat) (tag : Word) : Dev :=
  let i := sidx st
  let p := seqPage st
  let d := d.setStream st fun s => { s with running := none, late := none, ahead := [] }
  let d := d.setReg (Reg.seqReject i) (BitVec.ofNat 32 (reason % 16 + depth % 8 * 16))
  let d := d.setReg (Reg.seqRejectAddrLo i) (BitVec.ofNat 32 (addr - addr % 64))
  let d := d.setReg (Reg.seqRejectAddrHi i) (BitVec.ofNat 32 (addr / 0x100000000 % 0x200))
  let d := d.setReg (Reg.seqRejectTag i) tag
  let d := d.raise p 0
  let d := d.pageFault p
  let d := d.record (d.faultRec p 0xFFFF reason tag addr [] (st == .backfill))
  match st with
  | .main => d.bad
  | .backfill => d.suspend 3

/-- A command rejected while it runs or at its issue. DEDUCED, log entry 14. -/
def Dev.rejectRun (d : Dev) (st : Stream) (c : Decoded) (reason : Nat) : Dev :=
  d.reject st reason c.addr c.depth c.tag

/-! Issue (R56, R158, R391). -/

/-- A command that waits at issue at shed level 2 or deeper (R436): compensated-pair and heritage products, and a HELM_UPDATE with
Newton-Schulz iterations. -/
def Cmd.shedWaits (c : Cmd) : Bool :=
  match c with
  | .matmul m => m.heritage || m.a.fmt == 8 || m.b.fmt == 8
  | .helmUpdate h => h.nsIters != 0
  | _ => false

/-- The command waits for the input to recover. -/
def Dev.shedHolds (d : Dev) (c : Cmd) : Bool := decide (2 ≤ d.pwr.level) && c.shedWaits

/-- The main stream's next command waits for the input to recover. -/
def Dev.shedBlocked (d : Dev) : Bool :=
  match d.seqMain.ahead with
  | .ok c :: _ => d.runs .main c && d.shedHolds c.cmd
  | _ => false

/-- The main stream is blocked in a WAIT: its running command only waits and is one that R158 counts as such (a WAIT, or
a command its chapter says waits as one), or a LEG is held at issue (R351, R383), the Helm waits for a slot (R130) or the
command for the input (R436). -/
def Dev.mainBlocked (d : Dev) : Bool :=
  (match d.seqMain.running with
    | some r => (match r.dec.cmd with
      | .wait _ => r.waiting
      | _ => false)
    | none => (d.flag Reg.skyStatus 13 && d.skyMode == 0) || d.hlm.ringWait || d.log.stallSince.isSome || d.shedBlocked)

/-- Nothing of a stream is doing work. DEDUCED, log entry 13. -/
def Dev.quiet (d : Dev) (st : Stream) : Bool :=
  match (d.stream st).running with
  | none => true
  | some r => r.waiting

/-- The array may take the next operation (R13, R391, R434, R453). -/
def Dev.arrayFree (d : Dev) : Bool := !d.halted && decide (d.pwr.level < 3) && !d.pwr.quiesced

/-- The stream's next command, where it may issue now: decoded, to be run, the page ACTIVE, no operation in progress, for
the main stream no rollback under way (R384), and for the backfill stream the conditions of R158. -/
def Dev.next? (d : Dev) (st : Stream) : Option Decoded :=
  let s := d.stream st
  let chosen := match st with
    | .main => !d.sky.rollback
    | .backfill => d.mainBlocked && d.bfEffective && d.fld (Reg.seqBfStatus 1) 3 1 == 0
  if d.active (seqPage st) && d.arrayFree && chosen && d.quiet (otherStream st) then
    match s.running, s.ahead with
    | none, .ok c :: _ => if d.runs st c && !d.shedHolds c.cmd then some c else none
    | _, _ => none
  else none

/-- The interval since the completion of the main stream's WAIT, kept as the longest (R161). -/
def Dev.resumeTime (d : Dev) (st : Stream) : Dev :=
  match st, d.seqMain.waitDone with
  | .main, some t =>
    let d := d.raiseTo (Reg.seqResumeMaxNs 1) (d.now - t)
    { d with seqMain := { d.seqMain with waitDone := none } }
  | _, _ => d

/-- The command leaves the look-ahead and runs. `waiting` says that it only waits; `done` that its work is over. The place
it takes in the stream's order (R281) is counted. DEDUCED, log entry 10. -/
def Dev.issue (d : Dev) (st : Stream) (c : Decoded) (done waiting : Bool) : Dev :=
  let d := d.resumeTime st
  let d := d.setStream st fun s => { s with
    ahead := s.ahead.tail, running := some ⟨c, d.now, done, waiting, false⟩, late := none, hazard := [] }
  match st with
  | .main => { d with sxt := { d.sxt with order := d.sxt.order + 1 } }
  | .backfill => d

/-- What the command about to issue is to the figures it leaves. -/
def Dev.origin (d : Dev) (st : Stream) (c : Decoded) (layer : Nat) : Origin :=
  ⟨st == .main, d.sxt.order, layer, c.tensorId, c.tag⟩

/-- The bytes a command wrote, for the staging of the next (R68). -/
def Dev.wrote (d : Dev) (st : Stream) (ranges : List (Nat × Nat)) : Dev :=
  d.setStream st fun s => { s with hazard := ranges }


/-- The result of an operation carried into the state: the findings of its operands' checks, the stream in the run of it, its
effect, and the findings of the cores it ran on, which change the array from the next operation on (R64). DESIGN CHOICE, log
entry 7. DESIGN CHOICE, log entry 8. -/
def Dev.operate (d : Dev) (f : Fuse) (st : Stream) (c : Decoded) (written : List (Nat × Nat)) (ev : OpEvents)
    (effect : ByteSource → Dev → Dev) : Dev :=
  let d := d.findings written ev
  let r := d.operandSource st c
  let d := r.2.issue st c true false
  ((effect r.1 d).wrote st written).coreFindings f ev

end Sys2Proof.Machine
end

