-- ==== Sys2Proof/Machine/Decoding.lean ====
section
/-! DEFINITION. The decoding of commands, first part: fields, headers, descriptors, and the operands of the array and vector
commands (R57, R60 to R63, R74 to R78, R87 to R99, R136 to R144, R513 to R517). Every check a command fails gives the reason
code of R144; the lowest is recorded. -/
namespace Sys2Proof.Machine

/-! Reasons (R144). -/

def rOpcode : Nat := 0x1
def rField : Nat := 0x2
def rStream : Nat := 0x3
def rDesc : Nat := 0x4
def rFormat : Nat := 0x5
def rPtable : Nat := 0x6

def rProgram : Nat := 0x7
def rTable : Nat := 0x8
def rRegion : Nat := 0x9
def rTiles : Nat := 0xA
def rScale : Nat := 0xB
def rStamp : Nat := 0xC
def rDepth : Nat := 0xD
def rTimeout : Nat := 0xE

/-- A check: its reason where it fails. -/
def need (ok : Bool) (reason : Nat) : List Nat := if ok then [] else [reason]

/-- Checks of what some descriptors hold: they say nothing while one of those cannot be read. -/
def given (known : Bool) (fails : List Nat) : List Nat := if known then fails else []

/-! Fields of a byte string. -/

def u8 (b : List Byte) (o : Nat) : Nat := leNat ((b.drop o).take 1)
def u16 (b : List Byte) (o : Nat) : Nat := leNat ((b.drop o).take 2)
def u24 (b : List Byte) (o : Nat) : Nat := leNat ((b.drop o).take 3)
def u32 (b : List Byte) (o : Nat) : Nat := leNat ((b.drop o).take 4)
def u64 (b : List Byte) (o : Nat) : Nat := leNat ((b.drop o).take 8)
def w32 (b : List Byte) (o : Nat) : Word := BitVec.ofNat 32 (u32 b o)
def d64 (b : List Byte) (o : Nat) : Dword := BitVec.ofNat 64 (u64 b o)

/-- The `n` bytes at `o` are zero. -/
def zeros (b : List Byte) (o n : Nat) : Bool := ((b.drop o).take n).all fun x => x == 0#8

/-! The context of a decode. -/

/-- A kept result as decode follows it (R514): its shape and its tiles. -/
abbrev KeptInfo := Shape × TileUse

/-- A curve slot as decode judges it (R98): owner stream and MODE, placement and length in 64-byte units. -/
structure SlotInfo where
  owner : Nat
  mode : Nat
  place : Nat
  length : Nat
deriving DecidableEq, Repr

/-- What a decode reads: the device and the fuses, the stream, memory as the fetch sees it, the descriptor table and depth in
force, the kept result and the curve slots as the commands ahead leave them. -/
structure Ctx where
  d : Dev
  fuse : Fuse
  st : Stream
  src : ByteSource
  table : Nat × Nat
  depth : Nat
  kept : Option KeptInfo
  slots : List (Option SlotInfo)

/-- The header of a command (R136, R137). -/
structure Head where
  opcode : Nat
  stream : Nat
  flags : Nat
  pred : Nat
  tag : Word
  tensorId : Word
deriving DecidableEq, Repr

def headOf (b : List Byte) : Head := ⟨u8 b 0, u8 b 1, u16 b 2, u8 b 4, w32 b 8, w32 b 0xC⟩

def Head.round (h : Head) : Nat := natBits h.flags 9 8

/-- What the decode of one opcode's operands gives: the operation, the bytes fed to the digests after the command's own
(R348), the failed checks, and the code and slot of a rejected table load. -/
structure Decode1 where
  cmd : Cmd
  feed : List Byte
  fails : List Nat
  sub : Nat := 0

/-! Descriptors (R138, R139). -/

/-- The descriptor of 32 bytes, its outer scale still to be read. -/
def descOf (b : List Byte) : Desc where
  addr := leNat (b.take 6)
  fmt := u8 b 6 % 16
  dims := natBits (u8 b 6) 5 4 + 1
  len0 := u32 b 0x08
  len1 := u32 b 0x0C
  len2 := u16 b 0x10
  len3 := u16 b 0x12
  stride1 := u32 b 0x14
  stride2 := u24 b 0x18
  stride3 := u24 b 0x1B
  scaleRef := u16 b 0x1E
  scale := 0x3F800000#32

/-- The checks of R138 and R139 on a descriptor's fields other than its format code. -/
def descFieldsOk (b : List Byte) (t : Desc) : Bool :=
  decide (t.addr < 2 ^ 42 ∧ natBits (u8 b 6) 7 6 = 0 ∧ u8 b 7 = 0) &&
  decide (1 ≤ t.len0 ∧ 1 ≤ t.len1 ∧ 1 ≤ t.len2 ∧ 1 ≤ t.len3) &&
  decide ((2 ≤ t.dims ∨ t.len1 = 1) ∧ (3 ≤ t.dims ∨ t.len2 = 1) ∧ (4 ≤ t.dims ∨ t.len3 = 1)) &&
  (if isBlock t.fmt then decide (t.stride1 = 0 ∧ t.stride2 = 0 ∧ t.stride3 = 0 ∧ t.addr % 256 = 0)
   else decide (t.addr % elemSize t.fmt = 0)) &&
  (isBlock t.fmt || isHeritage t.fmt || decide (t.scaleRef = 0xFFFF))

/-- The outer-scale entry a descriptor names, read at decode (R139, R273), with the checks of R30, R50, R274 and R275. -/
def readScale (x : Ctx) (t : Desc) : Word × List Nat :=
  if t.scaleRef = 0xFFFF ∨ !(isBlock t.fmt || isHeritage t.fmt) then (0x3F800000#32, [])
  else if (x.d.reg Reg.sxtScaleCount).toNat ≤ t.scaleRef then (0x3F800000#32, [rScale])
  else
    let a := x.d.scaleEntry t.scaleRef
    let v := readWord x.src a
    let auto := (x.src (a + 4)).getLsbD 0
    (v, need (if isBlock t.fmt then (outerExp? v).isSome else isPositiveNormal v && !auto) rScale ++
      need (!(auto && x.st == .backfill)) rScale)

/-- A descriptor read for a command: with its scale, its failed checks, its bytes for the digests, and whether it could be read at
all, so that its fields are known. -/
structure ReadDesc where
  desc : Desc
  fails : List Nat
  bytes : List Byte
  known : Bool := true

/-- The descriptor of a table index (R138, R139, R113, R144). -/
def readDesc (x : Ctx) (idx : Nat) : ReadDesc :=
  if x.table.2 ≤ idx then ⟨descOf [], [rDesc], [], false⟩
  else
    let a := x.table.1 + 32 * idx
    if !inJob a 32 then ⟨descOf [], [rRegion], [], false⟩
    else
      let b := readBytes x.src a 32
      let t := descOf b
      let sc := readScale x t
      let t := { t with scale := sc.1 }
      let ok := descFieldsOk b t
      ⟨t, need ok rDesc ++ need (formatExists t.fmt) rFormat ++ sc.2 ++
        (if ok && formatExists t.fmt then need (t.runs.all fun r => addressable r.1 r.2) rRegion else []), b, true⟩

/-- An optional descriptor: 0xFFFF is none. -/
structure ReadOpt where
  desc : Option Desc
  fails : List Nat
  bytes : List Byte
  known : Bool := true

def readOpt (x : Ctx) (idx : Nat) : ReadOpt :=
  if idx = 0xFFFF then ⟨none, [], [], true⟩
  else
    let r := readDesc x idx
    ⟨some r.desc, r.fails, r.bytes, r.known⟩

/-- A check of an optional descriptor that only a present and readable one can fail. -/
def ReadOpt.whenSome (r : ReadOpt) (p : Desc → Bool) (reason : Nat) : List Nat :=
  match r.desc with
  | some t => given r.known (need (p t) reason)
  | none => []

/-! Tile windows (R74, R76). -/

def accCount (b : Nat) : Nat := if b % 64 = 0 then 64 else b % 64

/-- The window lies in the stream's range while the backfill split is in force (R76). -/
def tilesOk (x : Ctx) (base count : Nat) : Bool :=
  !x.d.bfEffective ||
  (match x.st with
    | .main => decide (base + count ≤ 48)
    | .backfill => decide (48 ≤ base ∧ base + count ≤ 64))

/-! Partition tables (R59 to R63). -/

/-- The strip width w (R59). DEDUCED, log entry 16. -/
def stripWidth (c : Option Desc) : Nat :=
  match c with
  | some t => if isBlock t.fmt then 4 else 1
  | none => 1

/-- ITEMS of a group: tile rows × strips × parts (R59). -/
def groupItems (rows n w splitLog2 : Nat) : Nat := ceilDiv rows 8 * ceilDiv n (8 * w) * 2 ^ splitLog2

def pgroupOf (b : List Byte) : PGroup :=
  ⟨u32 b 0, u32 b 4, u32 b 8, u8 b 0xC, u8 b 0xD, u64 b 0x10, u32 b 0x18⟩

def pentryOf (b : List Byte) : PEntry := ⟨u16 b 0, u8 b 2, u32 b 4, u32 b 8⟩

/-- The entries of a group cover its items exactly, in order (R62, R63). -/
def coversFrom (first items : Nat) : List PEntry → Bool
  | [] => first == items
  | e :: es => e.first == first && decide (1 ≤ e.count ∧ first + e.count ≤ items) && coversFrom (first + e.count) items es

/-- The numbers do not fall. -/
def rising : List Nat → Bool
  | a :: b :: rest => decide (a ≤ b) && rising (b :: rest)
  | _ => true

/-- The table at an address, where its bytes may be read: none where its header gives no readable extent. -/
def readPTable (x : Ctx) (a : Nat) : Option (PTable × List Byte) :=
  if !inJob a 64 then none
  else
    let h := readBytes x.src a 64
    let n := 64 + 32 * u16 h 2 + 16 * u32 h 4
    if u16 h 2 ≤ 256 ∧ u32 h 4 ≤ 8192 then
      if inJob a n then
        let g := (List.range (u16 h 2)).map fun i => pgroupOf (readBytes x.src (a + 64 + 32 * i) 32)
        let e := (List.range (u32 h 4)).map fun i => pentryOf (readBytes x.src (a + 64 + 32 * u16 h 2 + 16 * i) 16)
        some (⟨g, e⟩, h)
      else none
    else some (⟨[], []⟩, h)

/-- The reserved bytes of a table are zero (R60 to R62). -/
def ptableZero (x : Ctx) (a : Nat) (h : List Byte) : Bool :=
  let g := u16 h 2
  decide (u32 h 0xC / 2 = 0) && zeros h 0x10 48 &&
  ((List.range g).all fun i =>
    let b := readBytes x.src (a + 64 + 32 * i) 32
    zeros b 0x0E 2 && zeros b 0x1C 4) &&
  ((List.range (u32 h 4)).all fun i =>
    let b := readBytes x.src (a + 64 + 32 * g + 16 * i) 16
    zeros b 3 1 && zeros b 0xC 4)

/-- One group passes R61 and R63 for a product with the named operands; `extra` are its preload and epilogue rows. -/
def groupOk (a b : Desc) (c : Option Desc) (extra : List Desc) (n w : Nat) (t : PTable) (i : Nat) (g : PGroup) : Bool :=
  let es := t.entries.filter fun e => e.group = i
  decide (g.rows ≤ 4194304 ∧ g.splitLog2 ≤ 6 ∧ (g.slot ≤ 127 ∨ g.slot = 0xFF) ∧ g.bOffset % 256 = 0) &&
  decide (g.items = groupItems g.rows n w g.splitLog2 ∧ g.items < 2 ^ 32) &&
  (if g.rows = 0 then es.isEmpty else coversFrom 0 g.items es) &&
  (g.rows == 0 || (decide (g.aRow + g.rows ≤ a.len1) &&
    (match c with
      | some t => decide (g.cRow + g.rows ≤ t.len1)
      | none => true) &&
    extra.all fun t => decide (g.cRow + g.rows ≤ t.len1))) &&
  (({ b with addr := b.addr + g.bOffset } : Desc).runs.all fun r => addressable r.1 r.2)

/-- The checks of R63; a table whose entries or fields break R61 in a way that R63 does not name fails them too.
DESIGN CHOICE, log entry 63. -/
def ptableOk (x : Ctx) (at_ : Nat) (h : List Byte) (t : PTable) (a b : Desc) (c : Option Desc) (extra : List Desc) : Bool :=
  let n := b.len1
  let w := stripWidth c
  decide (u16 h 0 = 1 ∧ 1 ≤ u16 h 2 ∧ u16 h 2 ≤ 256 ∧ 1 ≤ u32 h 4 ∧ u32 h 4 ≤ 8192) &&
  decide (u32 h 0xC % 2 = 1 ∨ u16 h 2 = 1) && ptableZero x at_ h &&
  decide (u32 h 8 = (t.groups.map (·.items)).foldl (· + ·) 0) &&
  (t.entries.all fun e => decide (e.cluster ≤ 2399 ∧ e.group < t.groups.length)) &&
  rising (t.entries.map (·.group)) &&
  (t.groups.zipIdx.all fun g => groupOk a b c extra n w t g.2 g.1)

/-! The sequencer's own table for a plain product (R66, R67). -/

/-- CLU_SPEED_WEIGHT of a cluster: its enabled cores times its clock in units of 100 MHz (R84). -/
def Dev.speedWeight (d : Dev) (f : Fuse) (x : Nat) : Nat :=
  (d.enabledCores f x).length * Assoc.get targetDefault d.pwr.target x / 100

/-- The clusters that take work, in ascending global index (R67). -/
def Dev.avail (d : Dev) : List Nat := (List.range 2400).filter d.cluAvail

/-- `items` dealt in proportion to weights by largest remainder, ties to the earlier (R67). -/
def dealItems (items : Nat) (ws : List (Nat × Nat)) : List (Nat × Nat) :=
  let total := max 1 ((ws.map (·.2)).foldl (· + ·) 0)
  let parts := ws.map fun w => (w.1, items * w.2 / total, items * w.2 % total)
  let left := items - (parts.map (·.2.1)).foldl (· + ·) 0
  parts.map fun p =>
    let before := (parts.filter fun q => p.2.2 < q.2.2 ∨ (p.2.2 = q.2.2 ∧ q.1 < p.1)).length
    (p.1, p.2.1 + (if before < left then 1 else 0))

/-- The smallest exponent p ≤ 6 with strips × 2^p ≥ cores, or 6 (R67). -/
def splitFor (strips cores : Nat) : Nat := ((List.range 7).find? fun p => decide (cores ≤ strips * 2 ^ p)).getD 6

/-- Shares of one group as entries of ascending ranges. -/
def shareEntries (first : Nat) : List (Nat × Nat) → List PEntry
  | [] => []
  | (x, n) :: rest => if n = 0 then shareEntries first rest else ⟨x, 0, first, n⟩ :: shareEntries (first + n) rest

/-- The table the sequencer builds for a plain product: one group over the clusters that take work (R66, R67). -/
def Dev.builtTable (d : Dev) (f : Fuse) (m : MatmulCmd) : PTable :=
  let xs := d.avail
  let w := stripWidth m.c
  let cores := listSum (xs.map fun x => (d.enabledCores f x).length)
  let p := splitFor (ceilDiv m.a.len1 8 * ceilDiv m.b.len1 (8 * w)) cores
  let items := groupItems m.a.len1 m.b.len1 w p
  ⟨[⟨m.a.len1, 0, 0, p, 0xFF, 0, items⟩], shareEntries 0 (dealItems items (xs.map fun x => (x, d.speedWeight f x)))⟩

/-- The table a product runs by. -/
def Dev.tableFor (d : Dev) (f : Fuse) (m : MatmulCmd) : PTable := m.table.getD (d.builtTable f m)

/-- The tiles a product uses if it starts now (R64, R74). -/
def Dev.tileUse (d : Dev) (f : Fuse) (m : MatmulCmd) : TileUse :=
  ⟨m.accBase, m.accCount, stripWidth m.c, d.dealOf f (d.tableFor f m).entries⟩

/-! MATMUL and MATMUL_H (R57, R141, R516). -/

def isFloat3 (f : Nat) : Bool := f == 0x0 || f == 0x1 || f == 0x2

def flat2 (t : Desc) : Bool := t.len2 == 1 && t.len3 == 1

/-- The logical shape of a product's result: N by M, the rows of all groups one after another (R57). -/
def productShape (a b : Desc) : Shape := ⟨b.len1, a.len1, 1, 1⟩

def decodeMatmul (x : Ctx) (heritage : Bool) (h : Head) (b : List Byte) : Decode1 :=
  let keep := h.flags.testBit 1
  let store := h.flags.testBit 2
  let addWrite := h.flags.testBit 3
  let broadcast := h.flags.testBit 4
  let preload := natBits h.flags 11 10
  let epiOp := natBits h.flags 13 12
  let ra := readDesc x (u16 b 0x10)
  let rb := readDesc x (u16 b 0x12)
  let rc := readOpt x (u16 b 0x14)
  let rp := readOpt x (u16 b 0x16)
  let re := readOpt x (u16 b 0x18)
  let base := u8 b 0x1A % 64
  let count := accCount (u8 b 0x1B)
  let n := rb.desc.len1
  let at_ := u64 b 0x20
  let pt := if at_ = 0 ∨ at_ % 256 ≠ 0 then none else readPTable x at_
  let fields :=
    need (zeros b 0x1C 4 && zeros b 0x28 24) rField ++
    need (decide (u8 b 0x1A < 64 ∧ u8 b 0x1B < 64)) rField ++
    need (keep || store) rField ++ need (decide (preload ≤ 2 ∧ epiOp ≤ 2 ∧ h.round ≤ 1)) rField ++
    need (store || u16 b 0x14 == 0xFFFF) rField ++
    need (preload ≠ 0 || u16 b 0x16 == 0xFFFF) rField ++ need (epiOp ≠ 0 || u16 b 0x18 == 0xFFFF) rField ++
    (if heritage then need (decide (preload = 0 ∧ epiOp = 0 ∧ h.round = 0) && !broadcast) rField else [])
  let descs := ra.fails ++ rb.fails ++ rc.fails ++ rp.fails ++ re.fails ++
    need (!store || rc.desc.isSome) rDesc ++ need (preload == 0 || rp.desc.isSome) rDesc ++
    need (epiOp == 0 || re.desc.isSome) rDesc
  let okIn := fun (t : Desc) => flat2 t && (if heritage then isHeritage t.fmt else isBlock t.fmt)
  let likeC := fun (t : Desc) => flat2 t && (!rb.known || t.len0 == n) && (!ra.known || t.len1 == ra.desc.len1)
  let rowOfC := fun (t : Desc) => (!rb.known || t.len0 == n) && t.rows == 1
  let formats :=
    given ra.known (need (okIn ra.desc) rFormat) ++ given rb.known (need (okIn rb.desc) rFormat) ++
    given (ra.known && rb.known) (need (ra.desc.fmt == rb.desc.fmt && ra.desc.len0 == rb.desc.len0) rFormat) ++
    rc.whenSome likeC rFormat ++
    rc.whenSome (fun c => if heritage then c.fmt == 0x0 || c.fmt == 0x1 else isFloat3 c.fmt || isBlock c.fmt) rFormat ++
    rc.whenSome (fun c => !addWrite || c.fmt == 0x0) rFormat ++
    rp.whenSome (fun p => isFloat3 p.fmt && (if preload = 1 then rowOfC p else likeC p)) rFormat ++
    re.whenSome (fun e => isFloat3 e.fmt && (if broadcast then rowOfC e else likeC e)) rFormat
  let extra := (if preload = 2 then rp.desc.toList else []) ++ (if broadcast then [] else re.desc.toList)
  let table := if at_ = 0 then [] else if at_ % 256 ≠ 0 then [rPtable] else
    match pt with
    | none => [rRegion]
    | some (t, hb) => given (ra.known && rb.known && rc.known && rp.known && re.known)
        (need (ptableOk x at_ hb t ra.desc rb.desc rc.desc extra) rPtable)
  let tiles := given rc.known (need (count % stripWidth rc.desc == 0) rTiles) ++ need (tilesOk x base count) rTiles
  { cmd := .matmul ⟨heritage, ra.desc, rb.desc, rc.desc, rp.desc, re.desc, base, count, pt.map (·.1), keep, store, addWrite,
      broadcast, h.round, preload, epiOp⟩
    feed := ra.bytes ++ rb.bytes ++ rc.bytes ++ rp.bytes ++ re.bytes
    fails := fields ++ descs ++ formats ++ table ++ tiles }

/-! Vector operands (R87, R88, R142, R514). -/

/-- A vector operand as named. -/
structure ReadOperand where
  op : Operand
  fails : List Nat
  bytes : List Byte
  known : Bool := true

def readOperand (x : Ctx) (idx : Nat) : ReadOperand :=
  if idx = 0xFFFF then ⟨.absent, [], [], true⟩
  else if idx = 0xFFFE then ⟨.kept, [], [], true⟩
  else
    let r := readDesc x idx
    ⟨.tensor r.desc, r.fails, r.bytes, r.known⟩

/-- An operand whose checks say something. -/
def ReadOperand.shown (r : ReadOperand) : Operand := if r.known then r.op else .absent

/-- The logical shape of an operand. -/
def Operand.shape (x : Ctx) : Operand → Option Shape
  | .absent => none
  | .kept => x.kept.map (·.1)
  | .tensor t => some t.shape

def Operand.isKept : Operand → Bool
  | .kept => true
  | _ => false

def Operand.named : Operand → Bool
  | .absent => false
  | _ => true

def Operand.desc? : Operand → Option Desc
  | .tensor t => some t
  | _ => none

def Operand.fmt : Operand → Nat
  | .tensor t => t.fmt
  | _ => 0x0

/-- The checks on the operands every vector command shares: kept operands need the stream's kept result in the command's
window (R514) inside the stream's tiles (R88); no compensated pairs (R87); add-writes go to FP32 tensors (R124). -/
def vectorChecks (x : Ctx) (ins outs : List Operand) (base count : Nat) (addWrite : Bool) : List Nat :=
  let anyKept := (ins ++ outs).any Operand.isKept
  (if anyKept then
    need (match x.kept with
      | some k => decide (k.2.base = base ∧ k.2.count = count)
      | none => false) rDesc ++ need (tilesOk x base count) rTiles
   else []) ++
  need ((ins ++ outs).all fun o => !isPair o.fmt) rFormat ++
  need (!addWrite || outs.all fun o => o.fmt == 0x0) rFormat ++
  need (!addWrite || outs.all fun o => !o.isKept) rRegion

/-! Element programs (R89 to R92, R513). -/

def vinstrOf (w : Nat) : VInstr :=
  ⟨natBits w 5 0, natBits w 9 6, natBits w 13 10, natBits w 17 14, natBits w 21 18, natBits w 26 22⟩

/-- How many source operands an operation reads; none for a reserved one (R91). -/
def opSources (op : Nat) : Option Nat :=
  match op with
  | 0x01 | 0x02 | 0x03 | 0x05 | 0x06 | 0x07 | 0x08 | 0x09 | 0x0A => some 2
  | 0x04 | 0x0B => some 3
  | 0x0C | 0x0D | 0x0E | 0x0F => some 1
  | _ => none

/-- A curve slot holds a table an element program of the stream may use (R92, R98). -/
def slotUsable (x : Ctx) (n : Nat) : Bool :=
  match x.slots.getD n none with
  | some s => !x.d.bfEffective || s.owner == sidx x.st
  | none => false

/-- A curve slot holds a table of the command's own stream, as a kernel needs it (R142). -/
def slotOwn (x : Ctx) (n : Nat) : Bool :=
  match x.slots.getD n none with
  | some s => s.owner == sidx x.st
  | none => false

def slotMode (x : Ctx) (n : Nat) : Nat :=
  match x.slots.getD n none with
  | some s => s.mode
  | none => 0

/-- One instruction passes R90 to R92; `fmts` are the formats of the inputs, none where an input cannot be read. -/
def vinstrOk (x : Ctx) (inputs outputs : Nat) (fmts : List (Option Nat)) (w : Nat) : Bool :=
  let v := vinstrOf w
  match opSources v.op with
  | none => false
  | some n =>
    let srcOk := fun (s : Nat) => decide (s < 8 ∨ 12 ≤ s ∨ s - 8 < inputs)
    decide (w / 2 ^ 27 = 0) && decide (v.d < 8 ∨ (v.d - 8 < outputs ∧ v.d ≤ 9)) &&
    srcOk v.a && (decide (2 ≤ n) || v.b == 0) && (decide (n < 2) || srcOk v.b) && (decide (3 ≤ n) || v.c == 0) &&
    (decide (n < 3) || srcOk v.c) &&
    (if v.op = 0x0F then
      slotUsable x v.t &&
      (slotMode x v.t != 3 || (decide (8 ≤ v.a ∧ v.a < 12) && (match fmts.getD (v.a - 8) (some 0) with
        | some t => [0xC, 0xD, 0xE].contains t
        | none => true)))
     else v.t == 0)

/-- The clusters of a vector command (R142). -/
def clustersOk (b : List Byte) : Bool := decide (u16 b 0x34 ≤ 2399 ∧ u16 b 0x36 ≤ 2400)

def decodeVprog (x : Ctx) (h : Head) (b : List Byte) : Decode1 :=
  let ri := (List.range 4).map fun i => readOperand x (u16 b (0x10 + 2 * i))
  let ro := (List.range 2).map fun i => readOperand x (u16 b (0x18 + 2 * i))
  let ins := ri.map (·.op)
  let outs := ro.map (·.op)
  let base := u8 b 0x1C % 64
  let count := accCount (u8 b 0x1D)
  let at_ := u64 b 0x20
  let hdr := readBytes x.src at_ 32
  let n := u8 hdr 0
  let inputs := u8 hdr 1
  let outputs := u8 hdr 2
  let words := (List.range n).map fun i => readNat x.src (at_ + 0x20 + 4 * i) 4
  let sized := decide (1 ≤ n ∧ n ≤ 32 ∧ inputs ≤ 4 ∧ 1 ≤ outputs ∧ outputs ≤ 2)
  let readable := at_ % 64 == 0 && inJob at_ 32 && (!sized || inJob at_ (0x20 + 4 * n))
  let program := need (at_ % 64 == 0) rProgram ++
    (if at_ % 64 = 0 then
      need readable rRegion ++
      (if readable then
        need (sized && zeros hdr 3 13 &&
          (words.all (vinstrOk x inputs outputs (ri.map fun r => if r.known then some r.op.fmt else none))) &&
          ((List.range outputs).all fun j => words.any fun w => natBits w 9 6 == 8 + j)) rProgram
       else [])
     else [])
  let used := readable && sized
  let fields :=
    need (decide (u8 b 0x1C < 64 ∧ u8 b 0x1D < 64 ∧ u8 b 0x1E = 0 ∧ u8 b 0x1F = 0 ∧ h.round ≤ 1) && clustersOk b &&
      zeros b 0x2C 4 && zeros b 0x38 8) rField ++
    (if used then
      need (ins.zipIdx.all fun o => o.1.named == decide (o.2 < inputs)) rField ++
      need (outs.zipIdx.all fun o => o.1.named == decide (o.2 < outputs)) rField
     else [])
  let shown := (ro ++ ri).map ReadOperand.shown
  let shapes := need (shown.all fun o => !o.named || o.shape x == (shown.filter Operand.named).head?.bind (Operand.shape x)) rFormat
  let keptShapes := need (outs.all fun o => !o.isKept || (ro.map ReadOperand.shown).all fun p => !p.named || p.shape x == o.shape x) rDesc
  { cmd := .vprog ⟨ins, outs, (List.range 4).map fun i => w32 hdr (0x10 + 4 * i), words.map vinstrOf, base, count,
      u16 b 0x34, (if u16 b 0x36 = 0 then 2400 else u16 b 0x36), h.flags.testBit 3, h.round⟩
    feed := (ri.map (·.bytes)).flatten ++ (ro.map (·.bytes)).flatten ++ readBytes x.src at_ (0x20 + 4 * n)
    fails := fields ++ (ri.map (·.fails)).flatten ++ (ro.map (·.fails)).flatten ++ program ++ shapes ++
      keptShapes ++ vectorChecks x ins outs base count (h.flags.testBit 3) }

/-! Statistics kernels (R102 to R106, R517). -/

/-- The default slots of EXP, LOG, RCP and RSQRT (R100, R142). -/
def curveSlot (b : List Byte) (i : Nat) : Nat :=
  let s := u8 b (0x30 + i)
  if s = 0xFF then [0, 2, 3, 4].getD i 0 else s

/-- The curves a kernel uses, by place in CURVES. -/
def kernelCurves (kernel subop : Nat) : List Nat :=
  match kernel with
  | 0 => [0, 2]
  | 1 | 2 => [3]
  | 4 => if subop = 1 then [2] else [0]
  | 5 => [0, 1, 2]
  | _ => []

/-- SUBOP of a kernel in range (R142). -/
def subopOk (kernel subop : Nat) : Bool :=
  match kernel with
  | 1 | 2 | 4 => decide (subop ≤ 1)
  | 3 => decide (subop ≤ 4)
  | _ => subop == 0

/-- Which of IN0 to IN2, OUT0 and OUT1 a kernel takes: required, optional or none (R517). -/
inductive Need where
  | yes
  | may
  | no
deriving DecidableEq, Repr

def kernelNeeds (kernel subop : Nat) : List Need :=
  match kernel with
  | 0 => [.yes, .no, .no, .yes, .no]
  | 1 => [.yes, .yes, .no, .yes, if subop = 1 then .yes else .no]
  | 2 => [.yes, .yes, .may, .yes, if subop = 1 then .yes else .no]
  | 3 => [.yes, .no, .no, .yes, .no]
  | 4 => [.yes, .yes, .no, .yes, if subop = 1 then .no else .yes]
  | _ => [.yes, .yes, .no, .yes, .yes]

def needMet (n : Need) (o : Operand) : Bool :=
  match n with
  | .yes => o.named
  | .may => true
  | .no => !o.named

/-- A one-dimensional tensor of a length and format; 0xFFFE is none, whatever the kept result's shape. DESIGN CHOICE, log entry 64. -/
def vectorOf (o : Operand) (n : Nat) (fmts : Nat → Bool) : Bool :=
  match o with
  | .tensor t => t.dims == 1 && t.len0 == n && fmts t.fmt
  | .kept => false
  | .absent => true

/-- A tensor of `n` values per row with the rows of IN0. -/
def perRow (o : Operand) (x : Ctx) (n rows : Nat) (fmts : Nat → Bool) : Bool :=
  match o with
  | .absent => true
  | _ => fmts o.fmt && (match o.shape x with
    | some s => s.l0 == n && s.rows == rows
    | none => true)

/-- The shapes and formats of R517. -/
def kernelShapes (x : Ctx) (kernel subop kb : Nat) (i0 i1 i2 o0 o1 : Operand) : Bool :=
  match i0.shape x with
  | none => true
  | some s =>
    let rows := s.rows
    let any := fun (_ : Nat) => true
    let f32 := fun (f : Nat) => f == 0x0
    let i32 := fun (f : Nat) => f == 0xA
    let same := match o0.shape x with
      | some t => t == s
      | none => true
    match kernel with
    | 0 => same
    | 1 | 2 => same && vectorOf i1 s.l0 any && vectorOf i2 s.l0 any && perRow o1 x 2 rows f32
    | 3 => perRow o0 x 1 rows (if subop = 4 then i32 else f32)
    | 4 => same && perRow i1 x 2 rows f32 && perRow o1 x (ceilDiv s.l0 (max 1 kb)) rows f32
    | _ => same && vectorOf i1 rows i32 && vectorOf o1 2 i32

/-- The values per row and the rows of a kernel's outputs for an input of shape `s` (R517). -/
def kernelOuts (kernel kb : Nat) (s : Shape) : (Nat × Nat) × (Nat × Nat) :=
  match kernel with
  | 1 | 2 => ((s.l0, s.rows), (2, s.rows))
  | 3 => ((1, s.rows), (1, s.rows))
  | 4 => ((s.l0, s.rows), (ceilDiv s.l0 (max 1 kb), s.rows))
  | 5 => ((s.l0, s.rows), (2, 1))
  | _ => ((s.l0, s.rows), (s.l0, s.rows))

/-- An output kept in the tiles has the kept result's shape (R514). -/
def keptFits (x : Ctx) (o : Operand) (n : Nat × Nat) : Bool :=
  match o.isKept, x.kept with
  | true, some k => decide (k.1.l0 = n.1 ∧ k.1.rows = n.2)
  | _, _ => true

/-- A key block of R105. -/
def kbOk (kb : Nat) : Bool := decide (kb % 8 = 0 ∧ 8 ≤ kb ∧ kb ≤ 16384)

def decodeKernel (x : Ctx) (h : Head) (b : List Byte) : Decode1 :=
  let ri := (List.range 4).map fun i => readOperand x (u16 b (0x10 + 2 * i))
  let ro := (List.range 2).map fun i => readOperand x (u16 b (0x18 + 2 * i))
  let op := fun (i : Nat) => (ri.map (·.op)).getD i .absent
  let o0 := (ro.map (·.op)).getD 0 .absent
  let o1 := (ro.map (·.op)).getD 1 .absent
  let kernel := u8 b 0x1E
  let subop := u8 b 0x1F
  let kb := u32 b 0x2C
  let base := u8 b 0x1C % 64
  let count := accCount (u8 b 0x1D)
  let curves := (List.range 4).map (curveSlot b)
  let attn := kernel == 4 && subop != 1
  let fields :=
    need (decide (u8 b 0x1C < 64 ∧ u8 b 0x1D < 64 ∧ kernel ≤ 5 ∧ h.round ≤ 1 ∧ u64 b 0x20 = 0) && subopOk kernel subop &&
      clustersOk b && zeros b 0x38 8) rField ++
    need (if attn then kbOk kb else kb == 0 || (kernel == 4 && kbOk kb)) rField ++
    need ((kernelCurves kernel subop).all fun i =>
      slotOwn x (curves.getD i 0) && slotMode x (curves.getD i 0) != 3) rField
  let present := need ((List.zipWith needMet (kernelNeeds kernel subop) [op 0, op 1, op 2, o0, o1]).all id &&
    !(op 3).named) rDesc
  let shown := fun (i : Nat) => (ri.map ReadOperand.shown).getD i .absent
  let out := fun (i : Nat) => (ro.map ReadOperand.shown).getD i .absent
  let keptShape := match (shown 0).shape x with
    | some s =>
      let n := kernelOuts kernel kb s
      need (keptFits x o0 n.1 && keptFits x o1 n.2 &&
        (kernel == 3 || !o0.isKept || (match x.kept with
          | some k => k.1 == s
          | none => true))) rDesc
    | none => []
  { cmd := .kernel ⟨kernel, subop, op 0, op 1, op 2, o0, o1, w32 b 0x28, kb, curves, base, count, u16 b 0x34,
      (if u16 b 0x36 = 0 then 2400 else u16 b 0x36), h.flags.testBit 3, h.round⟩
    feed := (ri.map (·.bytes)).flatten ++ (ro.map (·.bytes)).flatten
    fails := fields ++ (ri.map (·.fails)).flatten ++ (ro.map (·.fails)).flatten ++ present ++ keptShape ++
      need (kernelShapes x kernel subop kb (shown 0) (shown 1) (shown 2) (out 0) (out 1)) rFormat ++
      vectorChecks x [op 0, op 1, op 2] [o0, o1] base count (h.flags.testBit 3) }

/-! Table loads (R95, R98, R99, R143). -/

/-- The codes of R99 an image and its placement fail; in order of code. LOW_ACT and HIGH_ACT of a mode other than LIN have to be 0.
DESIGN CHOICE, log entry 64. -/
def curveFails (x : Ctx) (hdr : List Byte) (slot place : Nat) : List Nat :=
  let mode := u8 hdr 2
  let seg := u8 hdr 3
  let post := u8 hdr 4
  let bytes := u32 hdr 0x1C
  let finite := fun (o : Nat) => fIsFinite (w32 hdr o)
  let fieldsOk := decide (mode ≤ 3 ∧ u8 hdr 7 = 0 ∧ (if mode = 3 then seg = 8 else seg ≤ 10) ∧
      (if mode = 1 then post ≤ 3 else post = 0) ∧ (if mode = 0 then u8 hdr 5 ≤ 1 ∧ u8 hdr 6 ≤ 1 else
        u8 hdr 5 = 0 ∧ u8 hdr 6 = 0)) && zeros hdr 0x20 32 &&
    (mode != 0 || (finite 8 && finite 0xC && fLt 0#32 (w32 hdr 0xC))) &&
    (!(mode == 2 || (mode == 1 && post == 1)) || finite 0x18)
  let split := x.d.bfEffective
  let last := 64 * place + bytes
  need fieldsOk 1 ++ need (decide (bytes % 64 = 0 ∧ bytes = imageBytes mode seg post)) 2 ++
  need (decide (last ≤ 131072) && (!split || (match x.st with
    | .main => decide (last ≤ 98304)
    | .backfill => decide (98304 ≤ 64 * place)))) 3 ++
  need (decide (slot ≤ 31) && (!split || (match x.st with
    | .main => decide (slot ≤ 23)
    | .backfill => decide (24 ≤ slot)))) 4

def decodeTload (x : Ctx) (b : List Byte) : Decode1 :=
  let slot := u8 b 0x10
  let place := u16 b 0x12
  let image := u64 b 0x18
  let hdr := readBytes x.src image 64
  let bytes := u32 hdr 0x1C
  let readable := inJob image 64
  let codes := if image % 64 = 0 ∧ readable then curveFails x hdr slot place else []
  { cmd := .tload ⟨slot, place, image, u8 hdr 2, bytes⟩
    feed := []
    fails := need (decide (slot ≤ 31) && zeros b 0x11 1 && zeros b 0x14 4 && zeros b 0x20 32) rField ++
      need (image % 64 == 0) rTable ++ need codes.isEmpty rTable ++
      need (readable && (!codes.isEmpty || inJob image bytes)) rRegion
    sub := slot % 32 + 256 * codes.headD 0 }

/-! COPY and TRANSPOSE (R143). -/

def decodeCopy (x : Ctx) (transpose : Bool) (h : Head) (b : List Byte) : Decode1 :=
  let rs := readDesc x (u16 b 0x10)
  let rd := readDesc x (u16 b 0x12)
  let s := rs.desc
  let t := rd.desc
  { cmd := .copy ⟨transpose, s, t, h.flags.testBit 3, h.round⟩
    feed := rs.bytes ++ rd.bytes
    fails := need (decide (h.round ≤ 1) && zeros b 0x14 44) rField ++ rs.fails ++ rd.fails ++
      given (rs.known && rd.known) (need (if transpose then s.len0 == t.len1 && s.len1 == t.len0 && s.len2 == t.len2 && s.len3 == t.len3
        else s.shape == t.shape) rFormat) ++
      given rd.known (need (!h.flags.testBit 3 || t.fmt == 0x0) rFormat) }

end Sys2Proof.Machine
end

