-- ==== Sys2Proof/Machine/DecodeUnits.lean ====
section
/-! DEFINITION. The decoding of commands, second part: control commands and the commands of the Compass, the exchange, the
pipeline, the reductions, the Helm, the legs, the votes and the Logbook, with the checks of their chapters. -/
namespace Sys2Proof.Machine

/-! Control commands (R135, R143, R151, R153 to R155). -/

def decodeWait (b : List Byte) : Decode1 :=
  let kind := u8 b 0x10
  let index := u16 b 0x12
  { cmd := .wait ⟨kind, index, u32 b 0x14, u32 b 0x18⟩
    feed := []
    fails := need (decide (kind ≤ 3) && zeros b 0x11 1 && zeros b 0x1C 36) rField ++
      need (match kind with
        | 0 | 1 => decide (index ≤ 15)
        | 3 => decide (index ≤ 1)
        | _ => true) rField }

def decodeSetpred (b : List Byte) : Decode1 :=
  let target := u8 b 0x10
  let source := u8 b 0x11
  let index := u16 b 0x12
  let addr := u64 b 0x18
  { cmd := .setpred ⟨target, source, index, u32 b 0x14, addr⟩
    feed := []
    fails := need (decide (1 ≤ target ∧ target ≤ 63 ∧ source ≤ 3) && zeros b 0x20 32) rField ++
      need (source != 1 || addr % 4 == 0) rField ++ need (source != 2 || decide (index ≤ 127)) rField ++
      need (source != 3 || decide (index ≤ 15)) rField ++ need (source != 1 || inJob addr 4) rRegion }

def stampEntryOf (b : List Byte) : StampEntry :=
  ⟨u32 b 0, u8 b 4, u8 b 5, u16 b 6, u32 b 8, (BitVec.ofNat 32 (u32 b 0xC)).toInt⟩

/-- A grant source (R155). -/
def StampEntry.grant (e : StampEntry) : Bool := e.source == 2 || e.source == 3 || e.source == 4

def stampEntryOk (length : Nat) (e : StampEntry) : Bool :=
  decide ((e.width = 1 ∨ e.width = 2 ∨ e.width = 4 ∨ e.width = 8) ∧ e.target + e.width ≤ length ∧ e.source ≤ 5) &&
  (match e.source with
    | 1 | 5 => decide (e.index ≤ 15)
    | 2 => decide (e.index ≤ 127)
    | 3 => decide (e.index ≤ 128)
    | _ => true)

/-- MICROBATCHES (R190). -/
def Dev.microbatches (d : Dev) : Nat := max 1 (min 1024 (d.fld Reg.cmpTrackShape 10 0))

/-- What the Compass holds of a record claimed in the current step (R181). -/
def Dev.claimOf (d : Dev) (layerSlot microbatch : Nat) : Option Claimed :=
  d.cmp.claimed.find? fun c => c.layerSlot = layerSlot ∧ c.microbatch = microbatch ∧ c.step = d.step % 0x100000000

def decodeStamp (x : Ctx) (b : List Byte) : Decode1 :=
  let template := u64 b 0x10
  let dest := u64 b 0x18
  let at_ := u64 b 0x20
  let length := u32 b 0x28
  let n := u16 b 0x2C
  let layerSlot := u8 b 0x2E
  let mb := u16 b 0x30
  let sized := decide (length % 64 = 0 ∧ 1 ≤ length ∧ length ≤ 0x100000 ∧ 1 ≤ n ∧ n ≤ 4096)
  let readable := at_ % 16 == 0 && inJob at_ (16 * n)
  let es := if sized && readable then (List.range n).map fun i => stampEntryOf (readBytes x.src (at_ + 16 * i) 16) else []
  let ring := fun (st : Stream) =>
    overlaps dest length (x.d.pair (Reg.seqRingBaseLo (sidx st))) (64 * x.d.ringSize st)
  { cmd := .stamp ⟨template, dest, length, es, layerSlot, mb⟩
    feed := []
    fails := need (sized && zeros b 0x2F 1 && zeros b 0x32 14 && decide (layerSlot ≤ 63 ∧ mb < x.d.microbatches)) rField ++
      need (decide (template % 64 = 0 ∧ dest % 64 = 0 ∧ at_ % 16 = 0)) rStamp ++
      need (es.all (stampEntryOk length)) rStamp ++
      need (!(es.any StampEntry.grant) || (x.d.claimOf layerSlot mb).isSome) rStamp ++
      need (inJob dest length && !overlaps dest length template length && !overlaps dest length at_ (16 * n) &&
        !ring .main && !ring .backfill) rStamp ++
      need (inJob template length && (at_ % 16 != 0 || readable)) rRegion }

def decodeCall (x : Ctx) (b : List Byte) : Decode1 :=
  let list := u64 b 0x10
  let count := u32 b 0x18
  let dt := u64 b 0x20
  let dc := u16 b 0x28
  { cmd := .call ⟨list, count, dt, dc⟩
    feed := []
    fails := need (decide (list % 64 = 0 ∧ 1 ≤ count ∧ count ≤ 65536 ∧ dt % 64 = 0 ∧ 1 ≤ dc ∧ dc ≤ 65534) &&
        zeros b 0x1C 4 && zeros b 0x2A 22) rField ++
      need (decide (65536 < count) || inJob list (64 * count)) rRegion ++ need (decide (x.depth < 4)) rDepth }

/-! ROUTE (R166 to R168, R172, R180). -/

def mapEntryOf (b : List Byte) : MapEntry :=
  ⟨u16 b 0, u16 b 2, u8 b 4, (u8 b 5) % 2 == 1, u32 b 8, w32 b 0xC⟩

/-- The pass-through expert's number (R171). -/
def passExpert : Nat := 0x3FFF

def mapEntryOk (b : List Byte) (group : List Nat) : Bool :=
  let e := mapEntryOf b
  decide (e.expert < 0x4000 ∧ u8 b 5 ≤ 1 ∧ e.cap ≤ 4194304) && zeros b 6 2 && (e.explicitCap || e.cap == 0) &&
  (if e.expert = passExpert then decide (e.home = 0xFFFF ∧ e.slot = 0xFF)
   else decide (e.slot ≤ 127) && group.contains e.home)

/-- The numbers rise strictly. -/
def ascending : List Nat → Bool
  | a :: b :: rest => decide (a < b) && ascending (b :: rest)
  | _ => true

/-- The capacity of an expert at its home (R172). -/
def RouteCmd.capacity (c : RouteCmd) (e : MapEntry) : Nat :=
  if e.explicitCap then e.cap
  else
    let n := (c.map.filter fun m => m.expert ≠ passExpert).length
    min 4194304 (ceilDiv (c.capFactor * c.tGlobal * c.k) (256 * max 1 n))

/-- The entries a package homes. -/
def RouteCmd.localMap (c : RouteCmd) (self : Nat) : List MapEntry :=
  c.map.filter fun e => e.expert ≠ passExpert ∧ e.home = self

/-- The bytes a ROUTE's record needs (R180). -/
def RouteCmd.recordNeed (c : RouteCmd) (self : Nat) : Nat :=
  let l := c.localMap self
  0x840 + 16 * c.scores.len1 * c.k +
    8 * min ((l.map c.capacity).foldl (· + ·) 0) (l.length * c.group.length)

/-- Record size in bytes (R180). -/
def Dev.recordSize (d : Dev) : Nat := 0x10000 * d.fld Reg.cmpTrackRecord 15 0

/-- The address of a record of the track table (R180). -/
def Dev.recordAddr (d : Dev) (layerSlot microbatch : Nat) : Nat :=
  d.pair Reg.cmpTrackBaseLo + (layerSlot * d.microbatches + microbatch) * d.recordSize

def decodeRoute (x : Ctx) (b : List Byte) : Decode1 :=
  let rs := readDesc x (u16 b 0x10)
  let rk := readOpt x (u16 b 0x12)
  let mapAt := u64 b 0x20
  let groupAt := u64 b 0x28
  let mh := readBytes x.src mapAt 16
  let n := u16 mh 2
  let gh := readBytes x.src groupAt 16
  let gn := u32 gh 0
  let mapSized := decide (u16 mh 0 = 1 ∧ 1 ≤ n ∧ n ≤ 16384) && zeros mh 4 12
  let groupSized := decide (1 ≤ gn ∧ gn ≤ 4096) && zeros gh 4 12
  let mapRead := mapAt % 16 == 0 && inJob mapAt 16 && (!mapSized || inJob mapAt (16 + 16 * n))
  let groupRead := groupAt % 16 == 0 && inJob groupAt 16 && (!groupSized || inJob groupAt (16 + 2 * gn))
  let raw := if mapRead && mapSized then (List.range n).map fun i => readBytes x.src (mapAt + 16 + 16 * i) 16 else []
  let map := raw.map mapEntryOf
  let group := if groupRead && groupSized then (List.range gn).map fun i => readNat x.src (groupAt + 16 + 2 * i) 2 else []
  let k := u8 b 0x18
  let s := u8 b 0x19
  let mode := u8 b 0x1A
  let layerSlot := u8 b 0x1B
  let mb := u16 b 0x16
  let t := rs.desc.len1
  let c : RouteCmd := ⟨rs.desc, rk.desc, u16 b 0x14, mb, k, s, mode % 2 == 1, mode / 2 % 2 == 1, layerSlot, u16 b 0x1C, map,
    mh ++ raw.flatten, group, gh ++ readBytes x.src (groupAt + 16) (2 * group.length), u32 b 0x30, u32 b 0x34⟩
  let homes := (map.filter fun e => e.expert ≠ passExpert).map fun e => (e.home, e.slot)
  { cmd := .route c
    feed := rs.bytes ++ rk.bytes ++ c.mapBytes ++ c.groupBytes
    fails :=
      need (decide (1 ≤ k ∧ k ≤ 8 ∧ s ≤ 8 ∧ mode ≤ 3 ∧ layerSlot ≤ 63 ∧ mb < x.d.microbatches) && zeros b 0x1E 2 &&
        zeros b 0x38 8) rField ++
      need (decide (mapAt % 16 = 0 ∧ groupAt % 16 = 0)) rField ++
      (if mapRead then need (mapSized && decide (k + s ≤ n)) rField else []) ++
      (if groupRead then need (groupSized && ascending group && group.contains x.d.self) rField else []) ++
      (if mapRead && groupRead && mapSized && groupSized then
        need (ascending (map.map (·.expert)) && raw.all (fun e => mapEntryOk e group) && homes.eraseDups == homes) rField ++
        given rs.known (need (decide (c.recordNeed x.d.self ≤ x.d.recordSize)) rField)
       else []) ++
      rs.fails ++ rk.fails ++
      given rs.known (need (rs.desc.fmt == 0x0 && rs.desc.dims == 2 && (map.isEmpty || rs.desc.len0 == n) && decide (t ≤ 4194304)) rFormat) ++
      rk.whenSome (fun d => d.fmt == 0xC && d.dims == 1 && (!rs.known || d.len0 == t)) rFormat ++
      need ((mapAt % 16 != 0 || mapRead) && (groupAt % 16 != 0 || groupRead) &&
        inJob (x.d.recordAddr layerSlot mb) x.d.recordSize) rRegion }

/-! XCHG (R191 to R194). -/

/-- The figures of a FINAL record an XCHG is checked by: T, K and N_H. -/
structure RecFigures where
  t : Nat
  k : Nat
  nh : Nat

def recFigures (src : ByteSource) (a : Nat) : RecFigures :=
  ⟨readNat src (a + 0x0C) 4, (src (a + 0x09)).toNat, readNat src (a + 0x24) 4⟩

/-- FINAL stands in a record (R180, R181). -/
def Dev.recordFinal (d : Dev) (layerSlot microbatch : Nat) : Bool :=
  (d.mem.byte (d.recordAddr layerSlot microbatch + 8)).getLsbD 0

/-- A record this step claimed was abandoned: not FINAL, and no protocol runs for it (R186, R187). -/
def Dev.recordAbandoned (d : Dev) (layerSlot microbatch : Nat) : Bool :=
  match d.claimOf layerSlot microbatch with
  | some k => !k.final && !d.cmp.protocols.any fun p => p.cmd.layerSlot == layerSlot && p.cmd.microbatch == microbatch
  | none => false

def decodeXchg (x : Ctx) (h : Head) (b : List Byte) : Decode1 :=
  let kind := u8 b 0x10
  let fmt := u8 b 0x11
  let layerSlot := u8 b 0x12
  let counter := u8 b 0x13
  let mb := u16 b 0x14
  let rs := readOpt x (u16 b 0x16)
  let rd := readOpt x (u16 b 0x18)
  let ra := readOpt x (u16 b 0x1A)
  let r2 := readOpt x (u16 b 0x1C)
  let oref := u16 b 0x1E
  let tally := u64 b 0x20
  let status := u64 b 0x28
  let mx := fmt == 0x4 || fmt == 0x5
  let oread := readScale x { descOf [] with fmt := fmt, scaleRef := oref }
  let f := recFigures x.src (x.d.recordAddr layerSlot mb)
  let final := x.d.recordFinal layerSlot mb && !x.d.recordAbandoned layerSlot mb
  let knownOf := fun (r : ReadOpt) => if r.known then r.desc.map (·.len0) else none
  let width := match kind with
    | 3 => knownOf rs
    | 2 => knownOf rd
    | _ => if rs.desc.isSome then knownOf rs else knownOf rd
  let like := fun (d : Desc) (l0 : Option Nat) (l1 : Nat) => d.dims == 2 && (match l0 with
    | some n => d.len0 == n
    | none => true) && d.len1 == l1
  let home := rd.whenSome (fun d => d.fmt == fmt && like d width f.nh && (!mx || d.scaleRef == oref)) rFormat ++
    need (rd.desc.isSome == decide (0 < f.nh)) rDesc
  let wireSrc := fun (d : Desc) => d.fmt == 0x0 || d.fmt == 0x1 || d.fmt == fmt
  let shapes := if !final then [] else
    match kind with
    | 0 =>
      need rs.desc.isSome rDesc ++ rs.whenSome (fun d => wireSrc d && like d width f.t) rFormat ++ home ++
        need (ra.desc.isNone && r2.desc.isNone) rDesc
    | 1 | 4 =>
      need (rs.desc.isSome == decide (0 < f.nh)) rDesc ++ rs.whenSome (fun d => wireSrc d && like d width f.nh) rFormat ++
        need rd.desc.isSome rDesc ++
        rd.whenSome (fun d => d.fmt == fmt && like d width (f.t * f.k) && (!mx || d.scaleRef == oref)) rFormat ++
        need (ra.desc.isNone && r2.desc.isNone) rDesc
    | 2 =>
      need (rs.desc.isSome && rd.desc.isSome) rDesc ++
        rs.whenSome (fun d => [0x0, 0x1, 0x4, 0x5].contains d.fmt && like d width (f.t * f.k)) rFormat ++
        rd.whenSome (fun d => (d.fmt == 0x0 || d.fmt == 0x1) && like d width f.t) rFormat ++
        ra.whenSome (fun d => (d.fmt == 0x0 || d.fmt == 0x1) && like d width f.t) rFormat ++ need r2.desc.isNone rDesc
    | _ =>
      need (rs.desc.isSome && ra.desc.isSome && r2.desc.isSome) rDesc ++
        rs.whenSome (fun d => (d.fmt == 0x0 || d.fmt == 0x1) && like d width f.t) rFormat ++ home ++
        ra.whenSome (fun d => [0x0, 0x1, 0x4, 0x5].contains d.fmt && like d width (f.t * f.k)) rFormat ++
        r2.whenSome (fun d => d.fmt == 0x0 && like d (some f.k) f.t) rFormat
  { cmd := .xchg ⟨kind, fmt, layerSlot, counter, mb, rs.desc, rd.desc, ra.desc, r2.desc,
      (if mx then some (oref, oread.1) else none), tally, status, u32 b 0x30, u8 b 0x34 % 2 == 1, h.round⟩
    feed := rs.bytes ++ rd.bytes ++ ra.bytes ++ r2.bytes
    fails :=
      need (decide (kind ≤ 4 ∧ layerSlot ≤ 63 ∧ (counter ≤ 15 ∨ counter = 0xFF) ∧ mb < x.d.microbatches ∧
        status % 64 = 0 ∧ h.round ≤ 1) && zeros b 0x35 11) rField ++
      need (kind != 2 || fmt == 0) rField ++ need (decide (u8 b 0x34 ≤ 1) && (kind == 2 || u8 b 0x34 == 0)) rField ++
      need (mx || oref == 0xFFFF) rField ++ need (kind == 0 || tally == 0) rField ++
      rs.fails ++ rd.fails ++ ra.fails ++ r2.fails ++ shapes ++
      need (kind == 2 || [0x0, 0x1, 0x4, 0x5].contains fmt) rFormat ++ (if mx then oread.2 else []) ++
      need (inJob status 64 && (tally == 0 || inJob tally 512)) rRegion }

/-! STAGE_SEND (R295). -/

def decodeSend (x : Ctx) (b : List Byte) : Decode1 :=
  let kind := u8 b 0x10
  let hinge := u8 b 0x11
  let dest := u16 b 0x12
  let mb := u16 b 0x14
  let counter := u8 b 0x16
  let source := u64 b 0x18
  let length := u32 b 0x20
  let status := u64 b 0x28
  let reach := dest == x.d.self || (match x.d.governing 2 with
    | some c => (c.route dest).isSome
    | none => false)
  if kind = 1 then
    { cmd := .release hinge mb
      feed := []
      fails := need (decide (hinge ≤ 15) && zeros b 0x12 2 && zeros b 0x16 42) rField }
  else
    { cmd := .send ⟨hinge, dest, mb, counter, source, length, u32 b 0x24, status⟩
      feed := []
      fails := need (decide (kind = 0 ∧ hinge ≤ 15 ∧ (counter ≤ 15 ∨ counter = 0xFF) ∧ source % 256 = 0 ∧ 1 ≤ length ∧
          length % 256 = 0 ∧ status % 32 = 0) && zeros b 0x17 1 && zeros b 0x30 16 && reach) rField ++
        need (inJob source length && inJob status 32) rRegion }

/-! REDUCE (R211 to R214). -/

def decodeReduce (x : Ctx) (b : List Byte) : Decode1 :=
  let kind := u8 b 0x10
  let mode := u8 b 0x11
  let compress := u8 b 0x12
  let topk := u8 b 0x13
  let rs := readOpt x (u16 b 0x14)
  let rd := readOpt x (u16 b 0x16)
  let rr := readOpt x (u16 b 0x18)
  let slot := u8 b 0x1A
  let counter := u8 b 0x1B
  let tally := u64 b 0x20
  let aux := u64 b 0x28
  let status := u64 b 0x30
  let group := u8 b 0x3C
  let dense := kind == 0 || kind == 2
  let auxLen := if kind = 3 then 8 else 512
  let usesAux := kind == 1 || kind == 3 || (kind == 0 && slot != 0xFF)
  let member := match (x.d.governing 3).bind fun c => c.group group with
    | some ns => ns.any fun n => n.package = x.d.self
    | none => false
  let runs := fun (o : Option Desc) => match o with
    | some t => t.runs
    | none => []
  let jobOnly := fun (o : Option Desc) => (runs o).all fun r => inJob r.1 r.2
  let meets := fun (p q : List (Nat × Nat)) => p.any fun a => q.any fun c => overlaps a.1 a.2 c.1 c.2
  let auxRun := if usesAux then [(aux, auxLen)] else []
  let tallyRun := if kind = 1 then [(tally, 512)] else []
  let statusRun := [(status, 64)]
  let sameDst := u16 b 0x14 == u16 b 0x16 || rs.desc == rd.desc
  let clash := (!sameDst && meets (runs rd.desc) (runs rs.desc)) ||
    meets (runs rd.desc) (runs rr.desc ++ auxRun ++ tallyRun ++ statusRun) ||
    meets (runs rr.desc) (runs rs.desc ++ auxRun ++ tallyRun ++ statusRun) || meets auxRun (runs rs.desc ++ tallyRun ++ statusRun)
  { cmd := .reduce ⟨kind, mode, compress, topk, rs.desc, rd.desc, rr.desc, slot, counter, u16 b 0x1C, u16 b 0x1E, tally, aux,
      status, u32 b 0x38, group⟩
    feed := rs.bytes ++ rd.bytes ++ rr.bytes
    fails :=
      need (decide (kind ≤ 3 ∧ mode ≤ 1 ∧ compress ≤ 2 ∧ (slot ≤ 127 ∨ slot = 0xFF) ∧ (counter ≤ 15 ∨ counter = 0xFF) ∧
        status % 64 = 0) && zeros b 0x3D 3) rField ++
      need (if compress = 1 then decide (4 ≤ topk ∧ topk ≤ 8) else topk == 0) rField ++
      need (kind != 2 || (mode == 0 && compress == 0)) rField ++ need (kind == 0 || slot == 0xFF) rField ++
      need (kind != 0 || slot == 0xFF || aux != 0) rField ++ need (usesAux || aux == 0) rField ++ need (kind == 1 || tally == 0) rField ++
      need (if kind = 3 then group == 0 else member) rField ++ need (x.d.fld Reg.chtLeg 2 0 == 2) rField ++
      need (dense || (rs.desc.isNone && rd.desc.isNone)) rField ++
      need (!dense || (rs.desc.isSome && rd.desc.isSome)) rDesc ++ rs.fails ++ rd.fails ++ rr.fails ++
      need (rr.desc.isSome == (compress != 0)) rDesc ++
      ([rs, rd, rr].map fun r => r.whenSome (fun t => t.fmt == 0x0) rFormat).flatten ++
      need ([rs, rd, rr].all fun q => [rs, rd, rr].all fun r => (match q.desc, r.desc with
        | some s, some t => !q.known || !r.known || t.shape == s.shape
        | _, _ => true)) rFormat ++
      need (jobOnly rs.desc && jobOnly rd.desc && jobOnly rr.desc && (kind != 1 || inJob tally 512) &&
        (!usesAux || inJob aux auxLen) && inJob status 64 && !clash) rRegion }

/-! The Helm (R241, R244, R247 to R254, R264). -/

/-- A finite FP32 value in [0, 1]. -/
def unitRange (w : Word) : Bool := fLe 0#32 w && fLe w 0x3F800000#32

/-- A non-negative finite FP32 value; -0 counts as zero. -/
def nonNegFinite (w : Word) : Bool := fIsFinite w && fLe 0#32 w

def decodeHelmSet (x : Ctx) (b : List Byte) : Decode1 :=
  let kind := u8 b 0x10
  let table := u8 b 0x11
  let layer := u16 b 0x12
  let rs := readOpt x (u16 b 0x14)
  let depth := u8 b 0x16
  let v0 := w32 b 0x18
  let v1 := w32 b 0x1C
  let step := d64 b 0x20
  let addr := u64 b 0x28
  let leg := x.d.fld Reg.chtLeg 2 0
  let size := if kind = 1 then 32 else if kind = 2 then 64 else 32 * 2 ^ depth
  { cmd := .helmSet ⟨kind, table, layer, rs.desc, depth, v0, v1, step, addr⟩
    feed := rs.bytes
    fails :=
      need (decide (kind ≤ 3) && zeros b 0x17 1 && zeros b 0x30 16) rField ++
      need (if kind = 3 then decide (table ≤ 15 ∧ 10 ≤ depth ∧ depth ≤ 24) else table == 0 && depth == 0) rField ++
      need (kind == 1 || layer == 0) rField ++ need (kind == 0 || (step == 0#64)) rField ++
      need (kind == 0 || kind == 3 || (v0 == 0#32 && v1 == 0#32)) rField ++ need (kind != 0 || addr == 0) rField ++
      need (kind != 0 || (nonNegFinite v0 && nonNegFinite v1)) rField ++
      need (kind != 3 || (unitRange v0 && nonNegFinite v1)) rField ++
      need (match kind with
        | 0 => true
        | 1 => addr % 32 == 0
        | _ => addr % 64 == 0) rField ++
      need (if kind = 1 then leg == 2 || leg == 3 else leg != 3) rField ++ rs.fails ++
      need (kind == 1 || rs.desc.isNone) rField ++ need (kind != 1 || rs.desc.isSome) rDesc ++
      rs.whenSome (fun t => t.fmt == 0x0) rFormat ++
      need (kind == 0 || decide (24 < depth) || inJob addr size) rRegion ++
      (if kind = 2 ∧ inJob addr 64 then need (zeros (readBytes x.src addr 64) 60 4) rField else []) }

def decodeHelmUpdate (x : Ctx) (h : Head) (b : List Byte) : Decode1 :=
  let lazy := u8 b 0x12
  let ns := u8 b 0x13
  let rg := readDesc x (u16 b 0x14)
  let rm := readOpt x (u16 b 0x16)
  let rx := readOpt x (u16 b 0x18)
  let slot := u8 b 0x1A
  let decay := u8 b 0x1B
  let beta1 := w32 b 0x1C
  let beta2 := w32 b 0x20
  let wd := w32 b 0x24
  let shape := w32 b 0x28
  let wo := u32 b 0x2C
  let mo := u32 b 0x30
  let co := u32 b 0x34
  let tally := u64 b 0x38
  let g := rg.desc
  let r := g.len1
  let c := g.len0
  let size := 0x100000 * x.d.fld Reg.hlmRingSlot 23 0
  let counts := if lazy = 1 then 4 * r else if lazy = 2 then 4 else 0
  let m := min r c
  { cmd := .helmUpdate ⟨u16 b 0x10, lazy, ns, g, rm.desc, rx.desc, slot, decay, beta1, beta2, wd, shape, wo, mo, co, tally,
      h.round⟩
    feed := rg.bytes ++ rm.bytes ++ rx.bytes
    fails :=
      need (decide (lazy ≤ 2 ∧ ns ≤ 5 ∧ h.round ≤ 1)) rField ++
      need (if lazy = 2 then decide (slot ≤ 127) else slot == 0xFF) rField ++
      need (if lazy = 0 then decay == 0 && co == 0 else decide (decay ≤ 15)) rField ++
      need (lazy == 2 || tally == 0) rField ++ need (lazy == 1 || rm.desc.isNone) rField ++
      need (unitRange beta1 && unitRange beta2 && !fLt wd 0#32 && fIsFinite shape) rField ++
      need (ns == 0 || lazy != 1) rField ++ given rg.known (need (ns == 0 || g.dims != 1) rField) ++
      need (lazy == 0 || decide (15 < decay) || (x.d.flag (Reg.hlmDecayCfg decay) 0 &&
        x.d.reg (Reg.hlmDecayBeta1 decay) == beta1 && x.d.reg (Reg.hlmDecayWd decay) == wd)) rField ++
      need (x.d.fld Reg.chtLeg 2 0 == 3) rField ++ rg.fails ++ rm.fails ++ rx.fails ++
      need (lazy != 1 || rm.desc.isSome) rDesc ++
      given rg.known (need (g.fmt == 0x0 && decide (g.dims ≤ 2)) rFormat) ++
      rm.whenSome (fun t => t.fmt == 0xC && t.dims == 1 && (!rg.known || t.len0 == r)) rFormat ++
      rx.whenSome (fun t => isBlock t.fmt && !isPair t.fmt && (!rg.known || t.shape == g.shape)) rFormat ++
      need (lazy != 2 || inJob tally 512) rRegion ++
      given rg.known (need (decide (256 * wo + 4 * r * c ≤ size ∧ 256 * mo + 2 * r * c ≤ size ∧ 256 * co + counts ≤ size) &&
        (ns == 0 || decide (16 * (r * c + m * m) ≤ 0x100000 * x.d.fld Reg.hlmScratchSize 23 0)))
        (if size = 0 then rField else rRegion)) }

/-! LEG, FIX and LOGMARK (R331, R347, R372). -/

/-- A LEG in sequence (R331). -/
def Dev.legInSequence (d : Dev) (leg : Nat) (step : Dword) : Bool :=
  if d.cht.firstLeg then leg == 0 || leg == 4
  else
    match d.cht.lastLeg with
    | none => leg == 0 || leg == 4
    | some (l, s) => if l = 4 then (leg == 0 || leg == 4) && step == s + 1 else leg == l + 1 && step == s

/-- The packages of a Chart's member list. -/
def Chart.packages (c : Chart) : List Nat := c.members.map (·.package)

/-- The classes a Chart governs beside class 0, as a mask with bit 0 clear. -/
def Chart.others (c : Chart) : Nat := c.classes / 2 * 2

def decodeLeg (x : Ctx) (b : List Byte) : Decode1 :=
  let leg := u8 b 0x10
  let a := u8 b 0x11
  let bb := u8 b 0x12
  let step := d64 b 0x18
  let slotOk := fun (s : Nat) => s == 0xFF || (decide (s ≤ 7) && (x.d.chart s).isSome)
  let chartA := if a = 0xFF then x.d.governing 0 else x.d.chart a
  let chartB := if bb = 0xFF then none else x.d.chart bb
  let bOk := match chartB with
    | none => true
    | some cb => decide (cb.others / 4 = 0) && (match chartA with
      | some ca => ca.packages == cb.packages
      | none => false)
  let disjoint := match chartB, (if a = 0xFF then none else x.d.chart a) with
    | some cb, some ca => (ca.others &&& cb.others) == 0
    | _, _ => true
  { cmd := .leg ⟨leg, a, bb, u32 b 0x14, step⟩
    feed := []
    fails := need (decide (leg ≤ 4) && zeros b 0x13 1 && zeros b 0x20 32 && slotOk a && slotOk bb &&
      (leg == 1 || bb == 0xFF) && (a != 0xFF || (x.d.governing 0).isSome) && bOk && disjoint &&
      x.d.legInSequence leg step) rField }

def decodeFix (x : Ctx) (b : List Byte) : Decode1 :=
  let s := x.d.stream x.st
  let first := s.completed == 0 && s.skipped == 0 && s.running.isNone && s.ahead.isEmpty
  let step := d64 b 0x10
  { cmd := .fix ⟨step, u32 b 0x18⟩
    feed := []
    fails := need (zeros b 0x1C 36 && first && x.d.fld Reg.chtLeg 2 0 == 4 && step.toNat == x.d.step) rField }

def decodeLogmark (x : Ctx) (h : Head) (b : List Byte) : Decode1 :=
  let kind := u8 b 0x10
  let rs := readOpt x (u16 b 0x14)
  let addr := u64 b 0x20
  let base := u64 b 0x28
  let length := u32 b 0x30
  { cmd := .logmark ⟨kind, u16 b 0x12, d64 b 0x18, rs.desc, (b.drop 0x20).take 32⟩
    feed := rs.bytes
    fails := need (decide (kind ≤ 2) && zeros b 0x11 1 && zeros b 0x16 2) rField ++
      need (kind == 0 || h.flags.testBit 0) rField ++
      need (match kind with
        | 0 => true
        | 1 => zeros b 0x20 32
        | _ => decide (addr % 256 = 0 ∧ base % 256 = 0 ∧ 1 ≤ length ∧ length % 256 = 0) && zeros b 0x34 12)
        rField ++
      need (kind == 1 || rs.desc.isNone) rField ++ need (kind != 1 || rs.desc.isSome) rDesc ++ rs.fails ++
      need (kind != 2 || inJob addr length) rRegion }

end Sys2Proof.Machine
end

