-- ==== Sys2Proof/Machine/Decoder.lean ====
section
/-! DEFINITION. The decode of a whole command (R136, R137, R140, R144, R516), and the fetch of the next one (R68, R134, R147). -/
namespace Sys2Proof.Machine

/-- The opcodes of R140 that exist. -/
def opcodes : List Nat :=
  [0x01, 0x02, 0x03, 0x04, 0x05, 0x06, 0x07, 0x08, 0x10, 0x11, 0x18, 0x19, 0x1A, 0x20, 0x21, 0x30, 0x31, 0x38, 0x40, 0x48,
    0x49, 0x50, 0x52, 0x58]

/-- The bits of FLAGS an opcode may set (R137, R516). -/
def flagMask (op : Nat) : Nat :=
  (if [0x05, 0x06, 0x07, 0x10, 0x11, 0x18, 0x19, 0x1A, 0x20, 0x21, 0x30, 0x31, 0x38, 0x40, 0x48, 0x49, 0x58].contains op
    then 0x0001 else 0) +
  (if [0x10, 0x11].contains op then 0x0006 else 0) +
  (if [0x10, 0x18, 0x19, 0x20].contains op then 0x0008 else 0) +
  (if op = 0x10 then 0x3C10 else 0) + 0x0020 +
  (if [0x10, 0x18, 0x19, 0x20, 0x21, 0x31, 0x49].contains op then 0x0300 else 0)

/-- The checks on the header (R136, R137, R140, R144). -/
def headFails (x : Ctx) (h : Head) (b : List Byte) : List Nat :=
  let known := opcodes.contains h.opcode
  need known rOpcode ++
  need (decide (h.stream ≤ 1) && decide (h.pred < 128) && zeros b 5 3) rField ++
  need (!known || (h.flags &&& (0xFFFF - flagMask h.opcode)) == 0) rField ++
  need (h.stream % 2 == sidx x.st && (decide (h.opcode < 0x30) || x.st == .main)) rStream

/-- The operands of a command, by opcode. -/
def decodeOperands (x : Ctx) (h : Head) (b : List Byte) : Decode1 :=
  let plain := fun (c : Cmd) (o : Nat) => ({ cmd := c, feed := [], fails := need (zeros b o (64 - o)) rField } : Decode1)
  match h.opcode with
  | 0x02 => plain (.fence (w32 b 0x10)) 0x14
  | 0x03 => plain .flush 0x10
  | 0x04 => decodeWait b
  | 0x05 => decodeSetpred b
  | 0x06 => decodeStamp x b
  | 0x07 => decodeCall x b
  | 0x08 => { cmd := .ret, feed := [], fails := need (zeros b 0x10 48) rField ++ need (decide (1 ≤ x.depth)) rDepth }
  | 0x10 => decodeMatmul x false h b
  | 0x11 => decodeMatmul x true h b
  | 0x18 => decodeVprog x h b
  | 0x19 => decodeKernel x h b
  | 0x1A => decodeTload x b
  | 0x20 => decodeCopy x false h b
  | 0x21 => decodeCopy x true h b
  | 0x30 => decodeRoute x b
  | 0x31 => decodeXchg x h b
  | 0x38 => decodeSend x b
  | 0x40 => decodeReduce x b
  | 0x48 => decodeHelmSet x b
  | 0x49 => decodeHelmUpdate x h b
  | 0x50 => decodeLeg x b
  | 0x52 => decodeFix x b
  | 0x58 => decodeLogmark x h b
  | _ => plain .nop 0x10

/-- The lowest of a list of reasons. -/
def lowest : List Nat → Option Nat
  | [] => none
  | r :: rs => some (rs.foldl min r)

/-- A command of 64 bytes decoded: complete, or rejected with the first reason of R144 that applies.
DEDUCED, log entry 14. -/
def decodeCommand (x : Ctx) (addr : Nat) (early : Bool) (b : List Byte) : Ahead :=
  let h := headOf b
  let o := decodeOperands x h b
  match lowest (headFails x h b ++ (if opcodes.contains h.opcode then o.fails else [])) with
  | some r => .bad r o.sub addr x.depth h.tag
  | none => .ok ⟨addr, x.depth, h.tag, h.tensorId, h.pred % 64, h.pred / 64 % 2 == 1, h.flags.testBit 0, h.flags.testBit 5,
      o.cmd, b ++ o.feed, early⟩

/-! What the commands ahead leave (R98, R514). -/

/-- The kept result after a command that runs (R75, R514). -/
def Dev.keptAfter (d : Dev) (f : Fuse) (k : Option KeptInfo) (c : Cmd) : Option KeptInfo :=
  match c with
  | .matmul m =>
    if m.keep then some (productShape m.a m.b, d.tileUse f m)
    else match k with
      | some i => if i.2.meets (d.tileUse f m) then none else k
      | none => none
  | _ => k

/-- Two placements of curve memory share a byte. -/
def SlotInfo.meets (a b : SlotInfo) : Bool := overlaps a.place a.length b.place b.length

/-- The curve slots after a table load (R98): the slot filled, the stream's other slots that overlap it invalid. -/
def slotsAfter (i : Nat) (slots : List (Option SlotInfo)) (c : Cmd) : List (Option SlotInfo) :=
  match c with
  | .tload t =>
    let new : SlotInfo := ⟨i, t.mode, t.place64, t.length / 64⟩
    (slots.map fun s => match s with
      | some o => if o.owner == i && o.meets new then none else some o
      | none => none).set t.slot (some new)
  | _ => slots

/-- The curve slots as the registers show them. -/
def Dev.slotInfos (d : Dev) : List (Option SlotInfo) :=
  (List.range 32).map fun n =>
    if d.flag (Reg.vtbSlotStatus n) 0 then
      some ⟨d.fld (Reg.vtbSlotStatus n) 1 1, d.fld (Reg.vtbSlotStatus n) 3 2, d.fld (Reg.vtbSlotPlace n) 11 0,
        d.fld (Reg.vtbSlotPlace n) 27 16⟩
    else none

/-- The context a fetch at a place decodes in: the commands ahead, and a table load that has not reached its boundary, count as
they will leave the kept result and the slots. -/
def Dev.decodeCtx (d : Dev) (f : Fuse) (st : Stream) (src : ByteSource) (p : Place) : Ctx :=
  let s := d.stream st
  let coming := s.ahead.filterMap fun a => match a with
    | .ok c => if d.runs st c then some c.cmd else none
    | .bad _ _ _ _ _ => none
  let late := match s.late with
    | some (.tload t _) => [Cmd.tload t]
    | _ => []
  { d := d, fuse := f, st := st, src := src, table := d.placeTable st p, depth := p.frames.length
    kept := coming.foldl (d.keptAfter f) (s.kept.map fun k => (k.shape, k.tiles))
    slots := (late ++ coming).foldl (slotsAfter (sidx st)) d.slotInfos }

/-! Fetching. -/

/-- The barriers of R147. -/
def Cmd.barrier : Cmd → Bool
  | .wait _ | .flush | .setpred _ | .stamp _ | .call _ | .ret | .leg _ => true
  | _ => false

/-- Something ahead ends the look-ahead: a barrier not yet complete, or a rejected command. -/
def StreamState.closed (s : StreamState) : Bool :=
  (match s.running with
    | some r => r.dec.cmd.barrier
    | none => false) ||
  s.ahead.any fun a => match a with
    | .ok c => c.cmd.barrier
    | .bad _ _ _ _ _ => true

/-- An XCHG whose record is neither FINAL nor abandoned is decoded only when it is (R194). -/
def Dev.recordPending (d : Dev) (a : Ahead) : Bool :=
  match a with
  | .ok c => (match c.cmd with
    | .xchg x => !d.recordFinal x.layerSlot x.microbatch && !d.recordAbandoned x.layerSlot x.microbatch
    | _ => false)
  | .bad _ _ _ _ _ => false

/-- The next command fetched and decoded, where the stream may look further ahead (R134, R144, R147, R159). -/
def Dev.fetch (d : Dev) (f : Fuse) (st : Stream) : Dev :=
  let s := d.stream st
  let p := d.fetchPlace st
  if d.active (seqPage st) && !d.halted && decide (s.ahead.length < 8) && !s.closed && d.covered st p then
    let busy := s.running.isSome || !s.ahead.isEmpty
    let r := d.openSource (if s.running.isSome then s.hazard else [])
    let addr := d.placeAddr st p
    let b := readBytes r.1 addr 64
    if (headOf b).flags.testBit 0 && busy then d
    else
      let a := decodeCommand (d.decodeCtx f st r.1 p) addr (busy && st == .main) b
      if d.recordPending a then d
      else (r.2.setStream st fun s => { s with ahead := s.ahead ++ [a] }).settle st
  else d

end Sys2Proof.Machine
end

