-- ==== Sys2Proof/Machine/Sequencer.lean ====
section
/-! DEFINITION. The sequencer's commands: decode, rejection, boundaries, and the control operations NOP to RETURN
(06_command_streams.md). -/
namespace Sys2Proof.Machine

/-- The outcome of a command that acts on the device proper: nothing happens in a package whose reset is not released
(R431, R433, R439). -/
def State.act (s : State) (f : Dev → Dev) : Host.Outcome State Fault Refusal :=
  .next (if s.carrier.phase = .running then { s with dev := f s.dev } else s)

/-- The stream's next command, where it may issue and is of the kind asked for. -/
def Dev.issueIf (d : Dev) (st : Stream) (f : Decoded → Option Dev) : Dev :=
  match d.next? st with
  | none => d
  | some c => (f c).getD d

/-- A command issued that completes in the same step, after its effect. -/
def Dev.instant (d : Dev) (st : Stream) (c : Decoded) (f : Dev → Dev) : Dev :=
  ((f (d.issue st c true false)).complete st c).settle st

/-- The running command of a stream, where it waits. DEDUCED, log entry 10. -/
def Dev.waits (d : Dev) (st : Stream) : Option Running :=
  match (d.stream st).running with
  | some r => if r.waiting then some r else none
  | none => none

/-- The timeout of a waiting command has passed. -/
def Dev.overdue (d : Dev) (issued timeoutUs : Nat) : Bool := decide (issued + us timeoutUs ≤ d.now)

/-! NOP, FENCE, FLUSH (R140, R149, R150). -/

def execNop (st : Stream) (s : State) : Host.Outcome State Fault Refusal :=
  s.act fun d => d.issueIf st fun c => match c.cmd with
    | .nop => some (d.instant st c id)
    | _ => none

def execFence (st : Stream) (s : State) : Host.Outcome State Fault Refusal :=
  s.act fun d => d.issueIf st fun c => match c.cmd with
    | .fence _ => some (d.issue st c false true)
    | _ => none

/-- The writes of the commands before it are in memory as each of them reached its boundary, so that a FENCE that has
issued may complete. -/
def execFenceComplete (st : Stream) (s : State) : Host.Outcome State Fault Refusal :=
  s.act fun d => match d.waits st with
    | some r => (match r.dec.cmd with
      | .fence v => (((d.setReg (Reg.seqFenceValue (sidx st)) v).raise (seqPage st) 1).complete st r.dec).settle st
      | _ => d)
    | none => d

def execFlush (st : Stream) (s : State) : Host.Outcome State Fault Refusal :=
  s.act fun d => d.issueIf st fun c => match c.cmd with
    | .flush => some (d.issue st c false true)
    | _ => none

def execFlushComplete (st : Stream) (s : State) : Host.Outcome State Fault Refusal :=
  s.act fun d => match d.waits st with
    | some r => (match r.dec.cmd with
      | .flush => (d.complete st r.dec).setStream st fun x => { x with ahead := [], hazard := [] }
      | _ => d)
    | none => d

/-! WAIT (R151). -/

/-- The record of the stream's latest ROUTE of a micro-batch is FINAL (R181). -/
def Dev.grantsFinal (d : Dev) (st : Stream) (mb : Nat) : Bool :=
  match (d.stream st).routes.find? fun r => r.1 = mb with
  | some r => d.recordFinal r.2 mb
  | none => false

/-- The condition of a WAIT. -/
def Dev.waitHolds (d : Dev) (st : Stream) (w : WaitCmd) : Bool :=
  match w.kind with
  | 0 => decide (w.value ≤ (d.reg (Reg.seqCounter (sidx st) w.index)).toNat)
  | 1 => (match d.hng[w.index]? with
    | some h => decide (w.value ≤ h.held.length)
    | none => false)
  | 2 => d.grantsFinal st w.index
  | _ => decide (w.value ≤ (d.reg (Reg.seqFenceValue w.index)).toNat)

/-- A WAIT completes; the main stream's resume delay runs from now (R161). -/
def Dev.endWait (d : Dev) (st : Stream) (c : Decoded) : Dev :=
  let d := (d.complete st c).settle st
  match st with
  | .main => { d with seqMain := { d.seqMain with waitDone := some d.now } }
  | .backfill => d

def execWait (st : Stream) (s : State) : Host.Outcome State Fault Refusal :=
  s.act fun d => d.issueIf st fun c => match c.cmd with
    | .wait w =>
      let d := d.issue st c false true
      some (if d.waitHolds st w then d.endWait st c else d)
    | _ => none

def execWaitComplete (st : Stream) (s : State) : Host.Outcome State Fault Refusal :=
  s.act fun d => match d.waits st with
    | some r => (match r.dec.cmd with
      | .wait w => if d.waitHolds st w then d.endWait st r.dec else d
      | _ => d)
    | none => d

def execWaitTimeout (st : Stream) (s : State) : Host.Outcome State Fault Refusal :=
  s.act fun d => match d.waits st with
    | some r => (match r.dec.cmd with
      | .wait w =>
        if w.timeoutUs ≠ 0 ∧ d.overdue r.issued w.timeoutUs ∧ !d.waitHolds st w then d.rejectRun st r.dec rTimeout else d
      | _ => d)
    | none => d

/-! SETPRED and STAMP (R153 to R156, R181). Both may wait for a record to become FINAL. -/

/-- A command that has to wait for a record is issued and waits; once it holds, `f` is its effect. -/
def Dev.whenFinal (d : Dev) (st : Stream) (c : Decoded) (ready : Bool) (f : Dev → Dev) : Dev :=
  match d.waits st with
  | some r => if r.dec = c ∧ ready then f d else d
  | none => if ready then f (d.issue st c true false) else d.issue st c false true

/-- The command a row acts on: the one that waits, or the one that may issue. -/
def Dev.current (d : Dev) (st : Stream) : Option Decoded :=
  match d.waits st with
  | some r => some r.dec
  | none => d.next? st

/-- ROWS of a local slot in a grant record (R180). -/
def slotRows (src : ByteSource) (record i : Nat) : Nat := readNat src (record + 0x40 + 16 * i) 4

def Dev.runSetpred (d : Dev) (st : Stream) (c : Decoded) (p : SetpredCmd) : Dev :=
  let done := fun (v : Bool) (d : Dev) => ((d.setPred st p.target v).complete st c).settle st
  match p.source with
  | 0 => d.whenFinal st c true (done (p.value % 2 == 1))
  | 1 =>
    let r := d.operandSource st c
    r.2.whenFinal st c true (done (readNat r.1 p.addr 4 != 0))
  | 2 =>
    (match (d.stream st).lastRoute with
      | none => (d.issue st c true false).rejectRun st c rField
      | some (ls, mb) =>
        d.whenFinal st c (d.recordFinal ls mb) (done (slotRows d.src (d.recordAddr ls mb) p.index == 0)))
  | _ => d.whenFinal st c true (done (decide (p.value ≤ (d.reg (Reg.seqCounter (sidx st) p.index)).toNat)))

def execSetpred (st : Stream) (s : State) (blocks : List BlockFinding := []) : Host.Outcome State Fault Refusal :=
  s.act fun d => match d.current st with
    | some c => (match c.cmd with
      | .setpred p => (d.found [] blocks).runSetpred st c p
      | _ => d)
    | none => d

/-- The source value of a stamp entry (R155). -/
def Dev.stampSource (d : Dev) (st : Stream) (record : Nat) (e : StampEntry) : Nat :=
  let rows := fun (n : Nat) => ((List.range n).map fun i => slotRows d.src record i).foldl (· + ·) 0
  match e.source with
  | 1 => (d.reg (Reg.seqStampVar (sidx st) e.index)).toNat
  | 2 => slotRows d.src record e.index
  | 3 => rows e.index
  | 4 => rows 128
  | 5 => (d.reg (Reg.seqCounter (sidx st) e.index)).toNat
  | _ => 0

/-- The entries applied in order to the copy; none where a value is negative or does not fit (R154). -/
def Dev.stampEntries (d : Dev) (st : Stream) (record : Nat) : List StampEntry → List Byte → Option (List Byte)
  | [], bs => some bs
  | e :: es, bs =>
    let v := (d.stampSource st record e : Int) * e.mul + e.add
    if v < 0 ∨ (256 : Int) ^ e.width ≤ v then none
    else d.stampEntries st record es (bs.take e.target ++ natBytes e.width v.toNat ++ bs.drop (e.target + e.width))

def Dev.runStamp (d : Dev) (st : Stream) (c : Decoded) (p : StampCmd) : Dev :=
  let record := d.recordAddr p.layerSlot p.microbatch
  let ready := !(p.entries.any StampEntry.grant) || d.recordFinal p.layerSlot p.microbatch
  let r := d.operandSource st c
  r.2.whenFinal st c ready fun d =>
    match d.stampEntries st record p.entries (readBytes r.1 p.template p.length) with
    | some bs => (((d.writeAt p.dest bs).wrote st [(p.dest, p.length)]).complete st c).settle st
    | none =>
      let b := d.drawBytes p.length
      (b.2.writeAt p.dest b.1).rejectRun st c rStamp

def execStamp (st : Stream) (s : State) (blocks : List BlockFinding := []) : Host.Outcome State Fault Refusal :=
  s.act fun d => match d.current st with
    | some c => (match c.cmd with
      | .stamp p => (d.found [(p.dest, p.length)] blocks).runStamp st c p
      | _ => d)
    | none => d

/-! CALL and RETURN (R135). -/

/-- DEDUCED, log entry 10. -/
def execCall (st : Stream) (s : State) : Host.Outcome State Fault Refusal :=
  s.act fun d => d.issueIf st fun c => match c.cmd with
    | .call k =>
      let d := d.issue st c true false
      let p := d.place st
      some (d.completeAt st c ⟨⟨k.list, 0, k.count, k.dtable, k.dcount⟩ :: p.frames, p.head⟩)
    | _ => none

def execRet (st : Stream) (s : State) : Host.Outcome State Fault Refusal :=
  s.act fun d => d.issueIf st fun c => match c.cmd with
    | .ret =>
      let d := d.issue st c true false
      let p := d.place st
      some (d.completeAt st c (nextIn (d.ringSize st) p.head p.frames.tail))
    | _ => none

/-! Decode, rejection and boundaries. -/

/-- The fetch reads the command and all that its decode reads; `blocks` are its reads of DRAM blocks (R117). -/
def execCommandDecode (st : Stream) (s : State) (blocks : List BlockFinding := []) : Host.Outcome State Fault Refusal :=
  s.act fun d => (d.found [] blocks).fetch s.fuse st

/-- What the VTB page shows of a rejected program or table load (R92, R99): of the command's reason alone, a misaligned program's
among the programs'. DESIGN CHOICE, log entry 64. -/
def Dev.vtbReject (d : Dev) (reason sub : Nat) : Dev :=
  if reason = rProgram then (d.addSat Reg.vtbProgReject 1).raise (page1 .vtb) 5
  else if reason = rTable ∧ sub / 256 ≠ 0 then
    ((d.setFld Reg.vtbLoadStatus 4 0 (sub % 256)).setFld Reg.vtbLoadStatus 11 8 (sub / 256)).raise (page1 .vtb) 1
  else d

def execCommandReject (st : Stream) (s : State) : Host.Outcome State Fault Refusal :=
  s.act fun d => match (d.stream st).running, (d.stream st).ahead with
    | none, .bad reason sub addr depth tag :: _ =>
      if d.active (seqPage st) then (d.vtbReject reason sub).reject st reason addr depth tag else d
    | _, _ => d

/-- A ROUTE whose round-0 COUNT sets the ports have not all accepted has not reached its boundary (R182). -/
def Dev.boundaryHeld (d : Dev) (c : Cmd) : Bool :=
  match c with
  | .route r => d.cmp.protocols.any fun p =>
      p.cmd.layerSlot == r.layerSlot && p.cmd.microbatch == r.microbatch && d.queued p.id
  | _ => false

def execBfOverrun (s : State) : Host.Outcome State Fault Refusal :=
  s.act fun d => match d.seqBf.running with
    | some r =>
      if r.overran ∨ d.now - r.issued ≤ d.bfLimit then d
      else { d.countOverrun with seqBf := { d.countOverrun.seqBf with running := some { r with overran := true } } }
    | none => d

/-- A change of EFFECTIVE; what is decoded ahead is decoded again (R162). DEDUCED, log entry 13. -/
def execBfEnableEffect (s : State) : Host.Outcome State Fault Refusal :=
  s.act fun d =>
    let want := d.flag (Reg.seqBfCtrl 1) 0
    if want ≠ d.bfEffective ∧ d.seqBf.running.isNone ∧ d.quiet .main then
      let d := d.setFlag (Reg.seqBfStatus 1) 0 want
      { d with seqMain := { d.seqMain with ahead := [] }, seqBf := { d.seqBf with ahead := [] } }
    else d

end Sys2Proof.Machine
end

