-- ==== Sys2Proof/Machine/Array.lean ====
section
/-! DEFINITION. The array: the canonical segment tree, preload and epilogue, heritage products, work items (R32 to R38, R50 to
R55, R56 to R84). -/
namespace Sys2Proof.Machine

/-! The canonical segment tree (R69 to R73). -/

/-- Neighbours added, the lower-numbered as left operand. -/
def pairSums : List Word → List Word
  | a :: b :: rest => fAdd a b :: pairSums rest
  | rest => rest

/-- The root of a complete binary tree of `h` levels above its leaves. -/
def treeRoot : Nat → List Word → Word
  | 0, ws => ws.headD 0#32
  | h + 1, ws => treeRoot h (pairSums ws)

/-- The sum of a run of values in ascending order; +0 for none (R70). -/
def chainSum : List Word → Word
  | [] => 0#32
  | w :: ws => ws.foldl fAdd w

/-- The sum of segment s of `n` block results (R69, R70). -/
def segmentSum (blocks : List Word) (s : Nat) : Word :=
  let n := blocks.length
  chainSum ((blocks.zipIdx.filter fun b => 64 * b.2 / n = s).map (·.1))

/-- The root of the tree over the block results of one element (R71). -/
def segmentTree (blocks : List Word) : Word := treeRoot 6 ((List.range 64).map (segmentSum blocks))

/-! One element of a product. -/

/-- The block results of one element of C (R33, R38). -/
def blockResults (src : ByteSource) (a b : Desc) (row col : Nat) : List Word :=
  match mxKind a.fmt with
  | none => []
  | some k =>
    (List.range a.rowBlocks).map fun j =>
      if isPair a.fmt then
        pairBlockResult (a.block k src row j) (a.blockLo src row j) (b.block k src col j) (b.blockLo src col j) a.outer b.outer
      else MxBlock.result k (a.block k src row j) (b.block k src col j) a.outer b.outer

/-- The preload value of an element (R77). -/
def MatmulCmd.init (m : MatmulCmd) (src : ByteSource) (row col : Nat) : Word :=
  match m.preload, m.pre with
  | 1, some p => readCode p.fmt p.scale (p.code src 0 col)
  | 2, some p => readCode p.fmt p.scale (p.code src row col)
  | _, _ => 0#32

/-- The epilogue applied to y0 (R78). -/
def MatmulCmd.epilogue (m : MatmulCmd) (src : ByteSource) (row col : Nat) (y0 : Word) : Word :=
  match m.epi with
  | none => y0
  | some e =>
    let v := readCode e.fmt e.scale (e.code src (if m.broadcast then 0 else row) col)
    match m.epiOp with
    | 1 => fAdd y0 v
    | 2 => fMul y0 v
    | _ => y0

/-- The groups of a product: those of its table, or the whole product as one (R66). -/
def MatmulCmd.groups (m : MatmulCmd) : List PGroup :=
  match m.table with
  | some t => t.groups
  | none => [⟨m.a.len1, 0, 0, 0, 0xFF, 0, 0⟩]

/-- One row of a group's result: its row in C and its values y1 (R71, R77, R78). -/
def MatmulCmd.row (m : MatmulCmd) (src : ByteSource) (g : PGroup) (r : Nat) : Nat × List Word :=
  let b := { m.b with addr := m.b.addr + g.bOffset }
  let crow := g.cRow + r
  (crow, (List.range m.b.len1).map fun j =>
    m.epilogue src crow j (fAdd (m.init src crow j) (segmentTree (blockResults src m.a b (g.aRow + r) j))))

/-- The exact A × c of one heritage element, before its output rounding (R51, R53). -/
def MatmulCmd.heritageRow (m : MatmulCmd) (src : ByteSource) (g : PGroup) (r : Nat) : Nat × List FVal :=
  let b := { m.b with addr := m.b.addr + g.bOffset }
  let codes := fun (t : Desc) (row : Nat) => (List.range t.len0).map fun i => t.code src row i
  let as := codes m.a (g.aRow + r)
  let k := (herKind m.a.fmt).getD .e4m3
  (g.cRow + r, (List.range m.b.len1).map fun j => heritageOut (heritageDot k as (codes b j)) m.a.scale m.b.scale)

/-- Every row of a product, in group and row order. -/
def overGroups {α : Type} (m : MatmulCmd) (f : PGroup → Nat → Nat × List α) : List (Nat × List α) :=
  (m.groups.map fun g => (List.range g.rows).map (f g)).flatten

def MatmulCmd.shape (m : MatmulCmd) : Shape := productShape m.a m.b

/-! The checksum cells (R80, R81). -/

/-- The signed magnitudes that feed one block's cells: rows 0 to 7 of A's part and columns 0 to 7 of B's part of a tile, K
positions each (R58, R80). -/
structure CellFeed where
  a : List (List Int)
  b : List (List Int)

def dotInts (x y : List Int) : Int := (List.zipWith (· * ·) x y).foldl (· + ·) 0

/-- Position by position sums of some rows. -/
def columnSums : List (List Int) → List Int
  | [] => []
  | [r] => r
  | r :: rs => List.zipWith (· + ·) r (columnSums rs)

/-- An integer added at a position of a list. -/
def addAt (xs : List Int) (k : Nat) (v : Int) : List Int := xs.zipIdx.map fun p => if p.2 = k then p.1 + v else p.1

/-- What the comparisons at the end of a block find: bit j where T_j is not the sum of S_i,j over i, bit i where U_i is not the
sum of S_i,j over j, and whether V is not the sum of the U_i. -/
structure CellMasks where
  row : Nat
  col : Nat
  corner : Bool
deriving DecidableEq, Repr

def CellMasks.mismatch (m : CellMasks) : Bool := m.row != 0 || m.col != 0 || m.corner

/-- A bit for each position at which two lists differ. -/
def diffMask (xs ys : List Int) : Nat :=
  listSum (((xs.zip ys).zipIdx.filter fun p => p.1.1 ≠ p.1.2).map fun p => 2 ^ p.2)

/-- The check cells of R80 over one block, with `v` added where a fault strikes. -/
def CellFeed.check (x : CellFeed) (site : CellSite) (v : Int) : CellMasks :=
  let struck := fun (s : CellSite) => if site = s then v else 0
  let a8 := match site with
    | .rowAdder k => addAt (columnSums x.a) k v
    | _ => columnSums x.a
  let b8 := match site with
    | .colAdder k => addAt (columnSums x.b) k v
    | _ => columnSums x.b
  let s := (List.finRange 8).map fun (i : Fin 8) => (List.finRange 8).map fun (j : Fin 8) =>
    dotInts (x.a.getD i []) (x.b.getD j []) + struck (.multiply i j)
  let t := (List.finRange 8).map fun (j : Fin 8) => dotInts a8 (x.b.getD j []) + struck (.rowCheck j)
  let u := (List.finRange 8).map fun (i : Fin 8) => dotInts (x.a.getD i []) b8 + struck (.colCheck i)
  let c := dotInts a8 b8 + struck .corner
  ⟨diffMask t (columnSums s), diffMask u (s.map fun r => r.foldl (· + ·) 0), decide (c ≠ u.foldl (· + ·) 0)⟩

/-- What feeds the cells of block `blk` of tile `x` of an item's strip; `part` picks the product of a compensated pair, hi by hi,
hi by lo or lo by hi (R38). None where the item has no such block or the operands no cells. -/
def MatmulCmd.feed (m : MatmulCmd) (src : ByteSource) (g : PGroup) (item x blk part : Nat) : Option CellFeed :=
  let w := stripWidth m.c
  let parts := 2 ^ g.splitLog2
  let strips := ceilDiv m.b.len1 (8 * w)
  let q := item % parts
  let strip := item / parts % strips
  let tr := item / parts / strips
  let own := decide (x < w ∧ blk < m.a.rowBlocks ∧ 64 * blk / m.a.rowBlocks * parts / 64 = q ∧ (part = 0 ∨ isPair m.a.fmt))
  match mxKind m.a.fmt, own with
  | some k, true =>
    let b := { m.b with addr := m.b.addr + g.bOffset }
    let ints := fun (z : MxBlock) => z.codes.map k.int
    let zero := List.replicate 32 (0 : Int)
    let aRow := fun (i : Nat) =>
      let r := 8 * tr + i
      if r < g.rows then
        ints (if part = 2 then m.a.blockLo src (g.aRow + r) blk else m.a.block k src (g.aRow + r) blk) else zero
    let bCol := fun (j : Nat) =>
      let c := 8 * (strip * w + x) + j
      if c < b.len1 then ints (if part = 1 then b.blockLo src c blk else b.block k src c blk) else zero
    some ⟨(List.range 8).map aRow, (List.range 8).map bCol⟩
  | _, _ => none

/-- The faults in the engines under a product, in turn: the mismatch recorded and reported, and after a second mismatch the
item run again on the next enabled core, which takes the faulty one's further items too (R81, R84). `seen` is the operation as
dealt so far. -/
def Dev.cellFinding (f : Fuse) (st : Stream) (m : MatmulCmd) (src : ByteSource) (groups : List PGroup)
    (seen : Dev × List ClusterDeal) (c : CellFinding) : Dev × List ClusterDeal :=
  match findItem seen.2 c.group c.item, groups[c.group]? with
  | some (x, t), some g =>
    (match m.feed src g c.item c.tile c.block c.part with
    | none => seen
    | some cells =>
      let masks := cells.check c.site c.first
      if !masks.mismatch then seen
      else
        let repeated := (cells.check c.site c.second).mismatch
        let u := x.coreOf t
        let report : ChkReport := ⟨sidx st, seen.1.opNumber st, c.group, c.item, c.block, masks.row, masks.col, masks.corner⟩
        let d := (seen.1.coreMismatch f x.cluster (x.cores.getD u 0) masks.row masks.col masks.corner repeated 1)
        let d : Dev := { d with chk := { d.chk with report := some report } }
        if repeated then
          (d.addWrap (Reg.cluWork x.cluster) 1,
            seen.2.map fun y => if y.cluster = x.cluster then { y with out := y.out ++ [(u, t)] } else y)
        else (d, seen.2))
  | _, _ => seen

/-! Work items (R59, R64, R65, R67, R75, R84). -/

/-- The tiles of partial sums in the combine buffers of the clusters that own a strip (R64): for each further part of a strip,
its w tiles. -/
def combineTiles (w : Nat) (groups : List PGroup) (deals : List ClusterDeal) : Assoc Nat :=
  deals.foldl (fun acc x =>
    let owned := listSum (x.entries.map fun e =>
      let parts := 2 ^ ((groups.getD e.group ⟨0, 0, 0, 0, 0xFF, 0, 0⟩).splitLog2)
      (ceilDiv (e.first + e.count) parts - ceilDiv e.first parts) * (parts - 1) * w)
    Assoc.set (fun _ => 0) acc x.cluster owned) []

/-- An array operation as it starts and runs (R64 to R66, R81, R84, R363 to R366): the sequencer's own table placed, the entries of
clusters that take no work moved, the cores latched, the items and their duplicates counted, and what the cells and the
comparisons find. None where no cluster takes work and the package enters FAULT. DEDUCED, log entry 17. -/
def Dev.runItems (d : Dev) (f : Fuse) (st : Stream) (m : MatmulCmd) (src : ByteSource) (ev : OpEvents) :
    Dev × Option (List ClusterDeal) :=
  let t := d.tableFor f m
  let deals := d.dealOf f t.entries
  let placed : Dev := if m.table.isNone then { d with arr := { d.arr with table := some t } } else d
  if d.avail.isEmpty then (placed.packageFault, none)
  else
    let moved := (d.movedClusters t.entries).foldl Dev.noteMoved placed
    let c := d.opNumber st
    let ran := deals.foldl (fun e x => e.workItems f c x) moved
    let ran : Dev := { ran with arr := { ran.arr with combine := combineTiles (stripWidth m.c) t.groups deals } }
    let celled := ev.cells.foldl (Dev.cellFinding f st m src t.groups) (ran, deals)
    (ev.dups.foldl (fun e x => e.dupItem f d c celled.2 x) celled.1, some celled.2)

/-- The kept tiles that do not fit the windows of a cluster's cores, written to its keep area and counted (R75). -/
def Dev.countSpill (d : Dev) (u : TileUse) : Dev :=
  u.deals.foldl (fun d x =>
    let n := u.excess x
    if n = 0 then d else (d.addSat (Reg.cluKeepSpill x.cluster) n).raise (cluPage x.cluster) 3) d

/-! The operation. -/

/-- The kept result a product leaves (R75, R514): with KEEP its C, whose rows no group names hold what the tiles held; else
the earlier one, unless an item uses one of its tiles. DEDUCED, log entry 17. -/
def Dev.keepProduct (d : Dev) (st : Stream) (m : MatmulCmd) (deals : List ClusterDeal) (rows : List (Nat × List Word)) : Dev :=
  let u : TileUse := ⟨m.accBase, m.accCount, stripWidth m.c, deals⟩
  if m.keep then
    let s := m.shape
    let r := (d.countSpill u).drawWord
    let whole := (List.range s.rows).map fun i =>
      match rows.find? fun x => x.1 = i with
      | some x => x.2
      | none => (List.range s.l0).map fun j => Config.freeWord d.freeCtr (i * s.l0 + j)
    r.2.setStream st fun x => { x with kept := some ⟨s, u, whole.flatten⟩ }
  else
    d.setStream st fun x => { x with kept := match x.kept with
      | some k => if k.tiles.meets u then none else some k
      | none => none }

/-- Results left only in tiles count as an FP32 output (R512). -/
def Dev.keptFindings (d : Dev) (o : Origin) (l0 : Nat) (rows : List (Nat × List Word)) : Dev :=
  if o.main then
    d.nonfinite .conversion o.order o.layer o.tensorId o.tag
      ((rows.map fun r => (r.2.zipIdx.filter fun v => !fIsFinite v.1).map fun v => r.1 * l0 + v.2).flatten)
  else d

/-- The effect of a plain or grouped product (R56 to R79). -/
def Dev.matmulEffect (d : Dev) (f : Fuse) (st : Stream) (c : Decoded) (m : MatmulCmd) (src : ByteSource) (ev : OpEvents) :
    Dev :=
  let ran := d.runItems f st m src ev
  let d := ran.1
  match ran.2 with
  | none => d
  | some deals =>
    let rows : List (Nat × List Word) := overGroups m fun g r => m.row src g r
    let o := d.origin st c 0xFFFF
    let d := match m.store, m.c with
      | true, some t =>
        if m.addWrite then (d.addOutput o t ((rows.map fun (r : Nat × List Word) => t.addRow r.1 r.2).flatten)).1
        else d.output o .conversion t (Out.concat (rows.map fun (r : Nat × List Word) => t.putRow (d.mode m.round c.tensorId) r.1 r.2))
      | _, _ => d.keptFindings o m.b.len1 rows
    d.keepProduct st m deals rows

/-- One row of heritage results in the output's format: codes and non-finite positions (R53). -/
def heritagePut (t : Desc) (r : Nat × List FVal) : Out :=
  let f := if t.fmt = 0x1 then fmtBF16 else fmtF32
  let codes := r.2.map f.roundKw
  ⟨[t.putCodes r.1 codes], (codes.zipIdx.filter fun c => !(f.decode c.1).isFinite).map fun c => r.1 * t.len0 + c.2, 0#32⟩

/-- The effect of a heritage product (R51 to R55, R516). Its non-finite outputs count as a conversion's findings alone.
DESIGN CHOICE, log entry 64. -/
def Dev.heritageEffect (d : Dev) (f : Fuse) (st : Stream) (c : Decoded) (m : MatmulCmd) (src : ByteSource) (ev : OpEvents) :
    Dev :=
  let ran := d.runItems f st m src ev
  let d := ran.1
  match ran.2 with
  | none => d
  | some deals =>
    let rows : List (Nat × List FVal) := overGroups m fun g r => m.heritageRow src g r
    let f32rows : List (Nat × List Word) := rows.map fun r => (r.1, r.2.map fun v => BitVec.ofNat 32 (fmtF32.roundKw v))
    let o := d.origin st c 0xFFFF
    let d := match m.store, m.c with
      | true, some t => d.output o .conversion t (Out.concat (rows.map (heritagePut t)))
      | _, _ => d.keptFindings o m.b.len1 f32rows
    d.keepProduct st m deals f32rows

/-- Where a product writes. -/
def MatmulCmd.written (m : MatmulCmd) : List (Nat × Nat) :=
  match m.store, m.c with
  | true, some t => t.runs
  | _, _ => []

def execMatmul (st : Stream) (ev : OpEvents) (s : State) : Host.Outcome State Fault Refusal :=
  s.act fun d => d.issueIf st fun c => match c.cmd with
    | .matmul m =>
      if m.heritage then none
      else some (d.operate s.fuse st c m.written ev fun src d => d.matmulEffect s.fuse st c m src ev)
    | _ => none

def execMatmulH (st : Stream) (ev : OpEvents) (s : State) : Host.Outcome State Fault Refusal :=
  s.act fun d => d.issueIf st fun c => match c.cmd with
    | .matmul m =>
      if m.heritage then some (d.operate s.fuse st c m.written ev fun src d => d.heritageEffect s.fuse st c m src ev)
      else none
    | _ => none

end Sys2Proof.Machine
end

