-- ==== Sys2Proof/Machine/Compass.lean ====
section
/-! DEFINITION. The Compass: candidates, the count-then-grant protocol, gates, the track table (07_compass_routing.md). -/
namespace Sys2Proof.Machine

def cmpPage : Page := page1 .cmp

/-! Candidates (R170, R171). -/

/-- An entry put among the largest keys so far, after equal ones. -/
def insertKey (x : Word × Nat × Word) : List (Word × Nat × Word) → List (Word × Nat × Word)
  | [] => [x]
  | y :: ys => if fLt y.1 x.1 then x :: y :: ys else y :: insertKey x ys

/-- The `n` candidates of a row of keys and scores: map index and score, in descending key order, equal keys by lower expert
number. -/
def candidates (n : Nat) (keys scores : List Word) : List (Nat × Word) :=
  (((keys.zip scores).zipIdx.foldl (fun best e => (insertKey (e.1.1, e.2, e.1.2) best).take n) []).map (·.2))

/-- The keys of a row of scores. -/
def RouteCmd.keys (c : RouteCmd) (scores : List Word) : List Word :=
  if c.bias then List.zipWith (fun v e => fAdd v e.bias) scores c.map else scores

/-- The first NaN of a row, score or key. -/
def firstNan (keys scores : List Word) : Option Nat :=
  (keys.zip scores).findIdx? fun v => fIsNan v.1 || fIsNan v.2

/-- The state of a token before round 0. -/
def RouteCmd.token (c : RouteCmd) (src : ByteSource) (t : Nat) : TokenState :=
  let scores := c.scores.row src t
  let keys := c.keys scores
  let skip := match c.skip with
    | some k => k.code src 0 t != 0
    | none => false
  if skip then ⟨[], List.replicate c.k .skipped, c.k + c.s⟩
  else if (firstNan keys scores).isSome then ⟨[], List.replicate c.k .dropped, c.k + c.s⟩
  else ⟨candidates (c.k + c.s) keys scores, (List.range c.k).map .pending, c.k⟩

/-- A NaN token (R170): not skipped, no candidates. -/
def TokenState.isNan (t : TokenState) : Bool := t.cands.isEmpty && !t.slots.all fun s => s == .skipped

def TokenState.isSkipped (t : TokenState) : Bool := t.cands.isEmpty && t.slots.all fun s => s == .skipped

/-- The expert of a candidate position. -/
def TokenState.expert (c : RouteCmd) (t : TokenState) (pos : Nat) : Nat :=
  match t.cands[pos]? with
  | some x => (match c.map[x.1]? with
    | some e => e.expert
    | none => passExpert)
  | none => passExpert

/-- Slots that request the pass-through expert are accepted at once (R171). -/
def TokenState.pass (c : RouteCmd) (t : TokenState) : TokenState :=
  { t with slots := t.slots.map fun s => match s with
    | .pending q => if t.expert c q = passExpert then .pass q else s
    | _ => s }

/-! Rounds (R173 to R175). -/

/-- The requests of a token: expert and position of every pending slot. -/
def TokenState.requests (c : RouteCmd) (t : TokenState) : List (Nat × Nat) :=
  t.slots.filterMap fun s => match s with
    | .pending q => some (t.expert c q, q)
    | _ => none

/-- The COUNT entries of a round, by expert and position. -/
def countEntries (c : RouteCmd) (tokens : List TokenState) : List CountEntry :=
  let reqs := (tokens.map (·.requests c)).flatten
  ((c.map.map fun e => (List.range (c.k + c.s)).filterMap fun q =>
    let n := reqs.count (e.expert, q)
    if n = 0 then none else some ⟨e.expert, q, n⟩)).flatten

/-- The home of an expert. -/
def RouteCmd.homeOf (c : RouteCmd) (expert : Nat) : Option Nat :=
  (c.map.find? fun e => e.expert = expert ∧ e.expert ≠ passExpert).map (·.home)

/-- Entries for the experts of one home. -/
def RouteCmd.entriesFor (c : RouteCmd) (h : Nat) (es : List CountEntry) : List CountEntry :=
  es.filter fun e => c.homeOf e.expert == some h

/-- One grant taken for a request, where some are left. -/
def takeGrant (expert pos : Nat) : List CountEntry → Option (List CountEntry)
  | [] => none
  | g :: gs =>
    if g.expert = expert ∧ g.pos = pos ∧ 0 < g.count then some ({ g with count := g.count - 1 } :: gs)
    else (takeGrant expert pos gs).map (g :: ·)

/-- The pending slots of one token settled by the grants left (R175). -/
def settleSlots (c : RouteCmd) (t : TokenState) : List SlotState → List CountEntry → List SlotState × List CountEntry
  | [], gs => ([], gs)
  | .pending q :: rest, gs =>
    (match takeGrant (t.expert c q) q gs with
      | some gs' => let r := settleSlots c t rest gs'
        (.accepted q :: r.1, r.2)
      | none => let r := settleSlots c t rest gs
        (.refused :: r.1, r.2))
  | s :: rest, gs => let r := settleSlots c t rest gs
    (s :: r.1, r.2)

/-- Refused slots take the token's next unused candidates, or are dropped (R174). -/
def substitute (more : Bool) (limit : Nat) : List SlotState → Nat → List SlotState × Nat
  | [], n => ([], n)
  | .refused :: rest, n =>
    if more ∧ n < limit then
      let r := substitute more limit rest (n + 1)
      (.pending n :: r.1, r.2)
    else
      let r := substitute more limit rest n
      (.dropped :: r.1, r.2)
  | s :: rest, n => let r := substitute more limit rest n
    (s :: r.1, r.2)

/-- Every token after the grants of a round: tokens in ascending index. -/
def settleTokens (c : RouteCmd) (more : Bool) : List TokenState → List CountEntry → List TokenState
  | [], _ => []
  | t :: ts, gs =>
    let r := settleSlots c t t.slots gs
    let u := substitute more (c.k + c.s) r.1 t.next
    ({ t with slots := u.1, next := u.2 } : TokenState).pass c :: settleTokens c more ts r.2

/-! Message sets (R175, R176). -/

/-- MAPTAG of a command's map. -/
def RouteCmd.mapTag (c : RouteCmd) : Nat := (crc32c c.mapBytes).toNat % 65536

/-- An entry's bytes: COUNT and GRANT, or PLACE (`pos` then is the base). -/
def entryBytes (type : Nat) (e : CountEntry) : List Byte :=
  if type = 3 then natBytes 2 e.expert ++ natBytes 3 e.pos ++ natBytes 3 e.count
  else natBytes 2 e.expert ++ natBytes 1 e.pos ++ natBytes 1 0 ++ natBytes 4 e.count

/-- Entries cut into blocks of 28. -/
def cutEntries : Nat → List CountEntry → List (List CountEntry)
  | 0, _ => []
  | n + 1, es => if es.length ≤ 28 then [es] else es.take 28 :: cutEntries n (es.drop 28)

/-- The messages of a set: only the last carries END. -/
def setMessages (c : RouteCmd) (self type round : Nat) (rejected : Bool) (es : List CountEntry) : List (List Byte) :=
  let blocks := cutEntries (es.length / 28 + 1) es
  blocks.zipIdx.map fun b =>
    natBytes 1 type ++ natBytes 1 round ++
      natBytes 1 ((if b.2 + 1 = blocks.length then 1 else 0) + (if rejected then 2 else 0)) ++ natBytes 1 b.1.length ++
      natBytes 2 c.layer ++ natBytes 2 c.microbatch ++ natBytes 2 self ++ natBytes 2 c.step ++ natBytes 1 c.k ++
      natBytes 1 c.s ++ natBytes 2 c.mapTag ++ (b.1.map (entryBytes type)).flatten

/-- A set's entries added; `last` ends it. -/
def addSet (sets : List MsgSet) (type round sender : Nat) (es : List CountEntry) (last rejected : Bool) : List MsgSet :=
  if sets.any fun x => x.type = type ∧ x.round = round ∧ x.sender = sender then
    sets.map fun x =>
      if x.type = type ∧ x.round = round ∧ x.sender = sender then
        { x with entries := x.entries ++ es, ended := x.ended || last, rejected := x.rejected || rejected }
      else x
  else sets ++ [⟨type, round, sender, es, last, rejected⟩]

/-- The set of one type, round and sender. -/
def Protocol.set? (p : Protocol) (type round sender : Nat) : Option MsgSet :=
  p.sets.find? fun x => x.type = type ∧ x.round = round ∧ x.sender = sender

def Protocol.endedFrom (p : Protocol) (type round sender : Nat) : Bool :=
  match p.set? type round sender with
  | some x => x.ended
  | none => false

/-- Every member's set of a type and round has ended. -/
def Protocol.allEnded (p : Protocol) (type round : Nat) : Bool := p.cmd.group.all fun h => p.endedFrom type round h

/-- A set to be sent to a member. -/
structure Sending where
  dest : Nat
  type : Nat
  round : Nat
  rejected : Bool
  entries : List CountEntry

/-- The COUNT sets of the protocol's round, with the entries kept. -/
def Protocol.counts (p : Protocol) : Protocol × List Sending :=
  let es := countEntries p.cmd p.tokens
  ({ p with sent := p.sent ++ [(p.srcRound, es)] },
    p.cmd.group.map fun h => ⟨h, 1, p.srcRound, false, p.cmd.entriesFor h es⟩)

/-- The value by key of a list of pairs, 0 where there is none. -/
def amountOf (xs : List (Nat × Nat)) (k : Nat) : Nat :=
  match xs.find? fun x => x.1 = k with
  | some x => x.2
  | none => 0

/-- The value at a key changed. -/
def setAmount (xs : List (Nat × Nat)) (k v : Nat) : List (Nat × Nat) :=
  if xs.any fun x => x.1 = k then xs.map fun x => if x.1 = k then (k, v) else x else xs ++ [(k, v)]

/-- One allotment of the home part: what is left, and the grants so far as (source, entry). -/
structure Allot where
  left : List (Nat × Nat)
  grants : List (Nat × CountEntry)
  rejected : Bool

/-- One request met from what is left (R173). -/
def Allot.give (a : Allot) (src expert pos n : Nat) : Allot :=
  let l := amountOf a.left expert
  let g := min n l
  ⟨setAmount a.left expert (l - g), if 0 < n then a.grants ++ [(src, ⟨expert, pos, g⟩)] else a.grants,
    a.rejected || decide (g < n)⟩

/-- The requests a member's COUNT set holds for one expert and position. -/
def Protocol.asked (p : Protocol) (src expert pos : Nat) : Nat :=
  match p.set? 1 p.homeRound src with
  | some x => ((x.entries.filter fun e => e.expert = expert ∧ e.pos = pos).map (·.count)).foldl (· + ·) 0
  | none => 0

/-- The home part of a round (R173, R175): own experts ascending, positions ascending, sources ascending. -/
def Protocol.allot (p : Protocol) (self : Nat) : Protocol × List Sending :=
  let own := (p.cmd.localMap self).map (·.expert)
  let asks := (own.map fun e => ((List.range (p.cmd.k + p.cmd.s)).map fun q =>
    p.cmd.group.map fun src => (src, e, q, p.asked src e q)).flatten).flatten
  let a := asks.foldl (fun (a : Allot) x => a.give x.1 x.2.1 x.2.2.1 x.2.2.2) ⟨p.left, [], false⟩
  let granted := a.grants.foldl (fun (gs : List (Nat × Nat × Nat)) g =>
    if gs.any fun x => x.1 = g.1 ∧ x.2.1 = g.2.expert then
      gs.map fun x => if x.1 = g.1 ∧ x.2.1 = g.2.expert then (x.1, x.2.1, x.2.2 + g.2.count) else x
    else gs ++ [(g.1, g.2.expert, g.2.count)]) p.granted
  let demand := asks.foldl (fun ds x => setAmount ds x.2.1 (amountOf ds x.2.1 + x.2.2.2)) p.demand
  ({ p with left := a.left, granted := granted, demand := demand, homeRound := p.homeRound + 1 },
    p.cmd.group.map fun h => ⟨h, 2, p.homeRound, a.rejected, (a.grants.filter fun g => g.1 = h).map (·.2)⟩)

/-- The rows an expert granted to a source. -/
def Protocol.grantedTo (p : Protocol) (src expert : Nat) : Nat :=
  match p.granted.find? fun x => x.1 = src ∧ x.2.1 = expert with
  | some x => x.2.2
  | none => 0

/-- The list of an expert: source, base, rows, sources ascending (R175, R180). -/
def Protocol.rowsOf (p : Protocol) (expert : Nat) : List (Nat × Nat × Nat) :=
  (p.cmd.group.foldl (fun (a : List (Nat × Nat × Nat) × Nat) src =>
    let n := p.grantedTo src expert
    if 0 < n then (a.1 ++ [(src, a.2, n)], a.2 + n) else a) ([], 0)).1

/-- Rows granted on an expert. -/
def Protocol.total (p : Protocol) (expert : Nat) : Nat :=
  ((p.rowsOf expert).map fun x => x.2.2).foldl (· + ·) 0

/-- The PLACE sets (R175). -/
def Protocol.places (p : Protocol) (self : Nat) : List Sending :=
  let own := (p.cmd.localMap self).map (·.expert)
  p.cmd.group.map fun h => ⟨h, 3, 0, false,
    own.filterMap fun e => ((p.rowsOf e).find? fun x => x.1 = h).map fun x => ⟨e, x.2.1, x.2.2⟩⟩

/-- Grants this package has from a home on an expert, over all rounds. -/
def Protocol.taken (p : Protocol) (home expert : Nat) : Nat :=
  (((p.sets.filter fun x => x.type = 2 ∧ x.sender = home).map fun x =>
    ((x.entries.filter fun e => e.expert = expert).map (·.count)).foldl (· + ·) 0)).foldl (· + ·) 0

/-- A PLACE set agrees with the grants of its sender (R186 EXCESS). -/
def Protocol.placeAgrees (p : Protocol) (x : MsgSet) : Bool :=
  (p.cmd.localMap x.sender).all fun e =>
    ((x.entries.filter fun y => y.expert = e.expert).map (·.count)).foldl (· + ·) 0 == p.taken x.sender e.expert

/-! What the protocol does next. -/

/-- The reasons of R186. -/
def pField : Nat := 1
def pConfig : Nat := 2
def pMember : Nat := 3
def pDup : Nat := 4
def pExcess : Nat := 5
def pRound : Nat := 6
def pMissing : Nat := 7

/-- The next thing a protocol does of itself. -/
inductive Advance where
  | stay
  | send (p : Protocol) (xs : List Sending)
  | fault (reason sender : Nat)
  | final

/-- An ended GRANT set of a round whose COUNT sets have gone out that lacks an entry for one of them (R186 MISSING). The COUNT may go
out after the END has come. -/
def Protocol.lacks (p : Protocol) (x : MsgSet) : Bool :=
  x.type == 2 && x.ended && p.sent.any fun s => s.1 == x.round &&
    (p.cmd.entriesFor x.sender s.2).any fun e => !(x.entries.any fun y => y.expert == e.expert && y.pos == e.pos)

/-- The source part after every GRANT set of its round has ended (R174, R175). -/
def Protocol.afterGrants (p : Protocol) (self : Nat) : Advance :=
  let grants := (p.cmd.group.filterMap fun h => p.set? 2 p.srcRound h)
  let rej := grants.any (·.rejected)
  let more := decide (p.srcRound < p.cmd.s)
  let tokens := settleTokens p.cmd more p.tokens ((grants.map (·.entries)).flatten)
  let p : Protocol := { p with tokens := tokens, srcRound := p.srcRound + 1 }
  if rej ∧ p.srcRound ≤ p.cmd.s then
    let r := p.counts
    .send r.1 r.2
  else .send { p with rounds := some p.srcRound } (p.places self)

def Protocol.advance (p : Protocol) (self : Nat) : Advance :=
  match p.rounds with
  | none =>
    (match p.sets.find? p.lacks with
    | some x => .fault pMissing x.sender
    | none =>
      if p.homeRound = p.srcRound ∧ p.allEnded 1 p.homeRound then
        let r := p.allot self
        .send r.1 r.2
      else if p.homeRound = p.srcRound + 1 ∧ p.allEnded 2 p.srcRound then p.afterGrants self
      else .stay)
  | some r =>
    match p.sets.find? fun x => x.type ≠ 3 ∧ r ≤ x.round with
    | some x => .fault pRound x.sender
    | none =>
      match p.sets.find? fun x => x.type = 3 ∧ x.ended ∧ !p.placeAgrees x with
      | some x => .fault pExcess x.sender
      | none => if p.allEnded 3 0 then .final else .stay

/-! The record (R177, R180, R181, R185). -/

/-- The gates of a token's slots (R177). -/
def TokenState.gates (renorm : Bool) (t : TokenState) : List Word :=
  let score := fun (s : SlotState) => match s with
    | .accepted q => (t.cands[q]?).map (·.2)
    | .pass q => (t.cands[q]?).map (·.2)
    | _ => none
  let scores := t.slots.map score
  let sigma := chainSum (scores.filterMap id)
  t.slots.map fun s => match score s with
    | some v => if !renorm then v else if (f32 sigma).isZero then 0#32 else fDiv v sigma
    | none => (match s with
      | .skipped => 0#32
      | _ => Config.recordBlank 1)

/-- The row each accepted slot of an expert takes: the PLACE entries' base plus its place among the expert's accepted slots
in ascending token index; given as (token, slot, row). -/
def Protocol.rowFor (p : Protocol) (expert t : Nat) : Nat :=
  let base := match (p.cmd.homeOf expert).bind fun h => p.set? 3 0 h with
    | some x => (match x.entries.find? fun e => e.expert = expert with
      | some e => e.pos
      | none => 0)
    | none => 0
  let holds := fun (tk : TokenState) => tk.slots.any fun s => match s with
    | .accepted q => tk.expert p.cmd q == expert
    | _ => false
  base + ((p.tokens.take t).filter holds).length

/-- The 16 bytes of a token entry. -/
def Protocol.tokenEntry (p : Protocol) (t : Nat) (tk : TokenState) (s : SlotState) (gate : Word) : List Byte :=
  let entry := fun (expert pos state row home : Nat) => natBytes 2 expert ++ natBytes 1 pos ++ natBytes 1 state ++
    natBytes 4 row ++ natBytes 4 gate.toNat ++ natBytes 2 home ++ natBytes 2 0
  match s with
  | .accepted q => let e := tk.expert p.cmd q
    entry e q 0 (p.rowFor e t) ((p.cmd.homeOf e).getD 0xFFFF)
  | .pass q => entry passExpert q 1 0 0xFFFF
  | .skipped => entry passExpert 0xFF 3 0 0xFFFF
  | _ => entry 0xFFFF 0xFF 2 0 0xFFFF

/-- The bytes of the token section. -/
def Protocol.tokenSection (p : Protocol) : List Byte :=
  (p.tokens.zipIdx.map fun t =>
    (List.zipWith (fun s g => p.tokenEntry t.2 t.1 s g) t.1.slots (t.1.gates p.cmd.renorm)).flatten).flatten

/-- The entry of a local slot. -/
def RouteCmd.atSlot (c : RouteCmd) (self i : Nat) : Option MapEntry := (c.localMap self).find? fun e => e.slot = i

/-- The list section by local slot: slot, source, base, rows. -/
def Protocol.lists (p : Protocol) (self : Nat) : List (Nat × Nat × Nat × Nat) :=
  ((List.range 128).map fun i => match p.cmd.atSlot self i with
    | some e => (p.rowsOf e.expert).map fun x => (i, x)
    | none => []).flatten

def Protocol.slotSection (p : Protocol) (self : Nat) : List Byte :=
  let lists := p.lists self
  ((List.range 128).map fun i =>
    let mine := lists.filter fun x => x.1 = i
    let first := match lists.findIdx? fun x => x.1 = i with
      | some j => j
      | none => (Config.recordBlank 0).toNat
    match p.cmd.atSlot self i with
    | some e => natBytes 4 (p.total e.expert) ++ natBytes 4 first ++ natBytes 4 mine.length ++
        natBytes 4 (amountOf p.demand e.expert)
    | none => natBytes 4 0 ++ natBytes 4 first ++ natBytes 4 0 ++ natBytes 4 0).flatten

/-- The figures of a record (R180, R185). -/
def Protocol.figs (p : Protocol) (self : Nat) : RouteFigs :=
  let slots := (p.tokens.map (·.slots)).flatten
  let own := fun (f : Nat → Nat) => (List.range 128).map fun i => match p.cmd.atSlot self i with
    | some e => f e.expert
    | none => 0
  { tokens := p.tokens.length
    k := p.cmd.k
    accepted := (slots.filter fun s => match s with
      | .accepted _ | .pass _ => true
      | _ => false).length
    spilled := (slots.filter fun s => match s with
      | .accepted q | .pass q => decide (p.cmd.k ≤ q)
      | _ => false).length
    dropped := (slots.filter fun s => s == .dropped).length
    nanTokens := (p.tokens.filter (·.isNan)).length
    skipped := (p.tokens.filter (·.isSkipped)).length
    rows := own p.total
    demand := own (amountOf p.demand) }


/-- The header of a record, its FLAGS as given. DEDUCED, log entry 23. -/
def Protocol.header (p : Protocol) (f : RouteFigs) (flags lists : Nat) : List Byte :=
  natBytes 2 p.cmd.layer ++ natBytes 2 p.cmd.microbatch ++ natBytes 4 p.cmd.step ++ natBytes 1 flags ++ natBytes 1 p.cmd.k ++
    natBytes 1 p.cmd.s ++ natBytes 1 (p.rounds.getD 0) ++ natBytes 4 f.tokens ++ natBytes 4 f.accepted ++
    natBytes 4 f.spilled ++ natBytes 4 f.dropped ++ natBytes 4 f.nanTokens ++ natBytes 4 f.skipped ++
    natBytes 4 (listSum f.rows) ++ natBytes 4 lists ++ List.replicate 20 0#8

/-- The whole record. -/
def Protocol.record (p : Protocol) (self : Nat) : List Byte :=
  let lists := p.lists self
  p.header (p.figs self) (1 + (if p.cmd.renorm then 2 else 0)) lists.length ++ p.slotSection self ++ p.tokenSection ++
    (lists.map fun x => natBytes 2 x.2.1 ++ natBytes 3 x.2.2.1 ++ natBytes 3 x.2.2.2).flatten

/-- The ROUTING record (R343). -/
def Dev.routingRec (p : Protocol) (f : RouteFigs) : Rec where
  type := 0x0009
  layer := p.cmd.layer
  step := p.step
  backfill := false
  stamped := false
  unsync := false
  payload := natBytes 2 p.cmd.microbatch ++ natBytes 1 p.cmd.k ++ natBytes 1 p.cmd.s ++ natBytes 1 (p.rounds.getD 0) ++
    natBytes 3 0 ++ natBytes 4 f.tokens ++ natBytes 4 f.accepted ++ natBytes 4 f.spilled ++ natBytes 4 f.dropped ++
    natBytes 4 f.nanTokens ++ natBytes 4 f.skipped ++ natBytes 4 (listSum f.rows) ++ natBytes 4 0 ++
    ((f.rows.zip f.demand).zipIdx.map fun x =>
      if 0 < x.1.2 then natBytes 1 x.2 ++ natBytes 3 0 ++ natBytes 4 x.1.1 ++ natBytes 4 x.1.2 else []).flatten

/-! Protocols in the device. -/

def Protocol.keyIs (p : Protocol) (layer microbatch : Nat) : Bool := p.cmd.layer == layer && p.cmd.microbatch == microbatch

/-- The running protocol of a LAYER and MICROBATCH. -/
def Dev.protocol (d : Dev) (layer microbatch : Nat) : Option Protocol :=
  d.cmp.protocols.find? fun p => p.keyIs layer microbatch

def Dev.putProtocol (d : Dev) (p : Protocol) : Dev :=
  { d with cmp := { d.cmp with protocols := d.cmp.protocols.map fun x => if x.id = p.id then p else x } }

def Dev.endProtocol (d : Dev) (p : Protocol) : Dev :=
  { d with cmp := { d.cmp with protocols := d.cmp.protocols.filter fun x => x.id ≠ p.id } }

/-- A set sent to a member; a set for this package is received at once. Round-0 COUNT blocks belong to the ROUTE's run. -/
def Dev.sendSet (d : Dev) (p : Protocol) (x : Sending) : Dev :=
  let ms := setMessages p.cmd d.self x.type x.round x.rejected x.entries
  if x.dest = d.self then
    let d := ms.foldl (fun d m => d.digestOut 0 [m]) d
    match d.protocol p.cmd.layer p.cmd.microbatch with
    | some q => d.putProtocol { q with sets := addSet q.sets x.type x.round d.self x.entries true x.rejected }
    | none => d
  else
    ms.foldl (fun d m => d.sendPacket 1 x.dest 0 (if x.type = 1 ∧ x.round = 0 then p.id else 0) m) d

/-- A record abandoned (R186, R187): `reason` 0 with `timeout`. -/
def Dev.abandonRecord (d : Dev) (p : Protocol) (reason sender : Nat) (timeout : Bool) : Dev :=
  let d := d.endProtocol p
  let d := d.setReg Reg.cmpProtoLast (BitVec.ofNat 32 (sender % 65536 + 0x10000 * reason))
  let d := d.raise cmpPage (if timeout then 4 else 3)
  let d := d.pageFault cmpPage
  (d.record (d.faultRec cmpPage p.cmd.layer reason p.tag (d.recordAddr p.cmd.layerSlot p.cmd.microbatch)
    (natBytes 2 sender))).bad

/-- A record written and FINAL (R181, R185, R189, R190). -/
def Dev.finishRecord (d : Dev) (p : Protocol) : Dev :=
  let f := p.figs d.self
  let d := d.endProtocol p
  let d := d.writeAt (d.recordAddr p.cmd.layerSlot p.cmd.microbatch) (p.record d.self)
  let d := { d with cmp := { d.cmp with
    claimed := d.cmp.claimed.map fun (c : Claimed) =>
      if c.layerSlot = p.cmd.layerSlot ∧ c.microbatch = p.cmd.microbatch then { c with final := true } else c
    handed := d.cmp.handed ++ [(⟨p.cmd.layer, p.step, f⟩ : Handed)] } }
  let d := d.setReg Reg.cmpLast (BitVec.ofNat 32 (p.cmd.layer + 0x10000 * p.cmd.microbatch))
  let d := d.setReg Reg.cmpLastRounds (BitVec.ofNat 32 (p.rounds.getD 0))
  let d := ((d.addSat Reg.cmpSlotsAccepted f.accepted).addSat Reg.cmpSlotsSpilled f.spilled).addSat Reg.cmpSlotsDropped
    f.dropped
  let d := ((d.addSat Reg.cmpNanTokens f.nanTokens).addSat Reg.cmpSkippedTokens f.skipped).addSat Reg.cmpRowsGranted
    (listSum f.rows)
  let d := d.raise cmpPage 0
  let d := if f.dropped = 0 then d else d.raise cmpPage 1
  d.record (Dev.routingRec p f)

/-- A protocol goes on as far as its message sets let it; `fuel` bounds its moves. -/
def Dev.runProtocol : Nat → Dev → Nat → Nat → Dev
  | 0, d, _, _ => d
  | n + 1, d, layer, mb =>
    match d.protocol layer mb with
    | none => d
    | some p =>
      match p.advance d.self with
      | .stay => d
      | .fault reason sender => d.abandonRecord p reason sender false
      | .final => d.finishRecord p
      | .send q xs => Dev.runProtocol n (xs.foldl (fun d x => d.sendSet q x) (d.putProtocol q)) layer mb

/-- As many moves as a protocol can make: two for each of at most nine rounds, and its end. -/
def Dev.advanceRecord (d : Dev) (layer mb : Nat) : Dev := Dev.runProtocol 24 d layer mb

/-! Messages received (R184, R186). -/

/-- A Compass message's fields. -/
structure CmpMsg where
  type : Nat
  round : Nat
  flags : Nat
  count : Nat
  layer : Nat
  microbatch : Nat
  sender : Nat
  step : Nat
  k : Nat
  s : Nat
  mapTag : Nat
  raw : List (List Byte)
deriving DecidableEq, Repr

def cmpMsgOf (b : List Byte) : CmpMsg :=
  ⟨u8 b 0, u8 b 1, u8 b 2, u8 b 3, u16 b 4, u16 b 6, u16 b 8, u16 b 0xA, u8 b 0xC, u8 b 0xD, u16 b 0xE,
    (List.range (min 28 (u8 b 3))).map fun i => (b.drop (16 + 8 * i)).take 8⟩

/-- The entries of a message. -/
def CmpMsg.entries (m : CmpMsg) : List CountEntry :=
  m.raw.map fun b =>
    if m.type = 3 then ⟨u16 b 0 % 0x4000, leNat ((b.drop 2).take 3), leNat ((b.drop 5).take 3)⟩
    else ⟨u16 b 0 % 0x4000, u8 b 2, u32 b 4⟩

def CmpMsg.last (m : CmpMsg) : Bool := m.flags.testBit 0

def CmpMsg.rejected (m : CmpMsg) : Bool := m.flags.testBit 1

/-- The first check of R186 a message of a running protocol fails. DEDUCED, log entry 23. -/
def Protocol.check (p : Protocol) (self : Nat) (m : CmpMsg) : List Nat :=
  let c := p.cmd
  let es := m.entries
  let sentHere := match p.sent.find? fun x => x.1 = m.round with
    | some x => c.entriesFor m.sender x.2
    | none => []
  let got := (match p.set? m.type m.round m.sender with
    | some x => x.entries
    | none => []) ++ es
  let sum := fun (xs : List CountEntry) (e : CountEntry) =>
    listSum ((xs.filter fun x => x.expert = e.expert ∧ x.pos = e.pos).map (·.count))
  let homes := fun (h : Nat) => es.all fun e => c.homeOf e.expert == some h
  need (decide (1 ≤ m.type ∧ m.type ≤ 3 ∧ m.flags / 4 = 0 ∧ (m.type = 2 ∨ m.flags / 2 = 0) ∧ m.count ≤ 28 ∧
      (m.type ≠ 3 ∨ m.round = 0)) &&
    (m.raw.all fun b => decide (u16 b 0 < 0x4000) && (m.type == 3 || u8 b 3 == 0)) &&
    (m.type == 3 || es.all fun e => decide (e.pos < c.k + c.s))) pField ++
  need (m.k == c.k && m.s == c.s && m.mapTag == c.mapTag) pConfig ++
  need (c.group.contains m.sender && homes (if m.type = 1 then self else m.sender)) pMember ++
  need (!(m.last && p.endedFrom m.type m.round m.sender)) pDup ++
  need (m.type != 2 || es.all fun e =>
    (sentHere.any fun x => x.expert = e.expert ∧ x.pos = e.pos) && decide (sum got e ≤ sum sentHere e)) pExcess ++
  need (m.type == 3 || (decide (m.round ≤ c.s) && (match p.rounds with
    | some r => decide (m.round < r)
    | none => true))) pRound ++
  need (!(m.type == 2 && m.last) || sentHere.all fun e => got.any fun x => x.expert = e.expert ∧ x.pos = e.pos) pMissing

/-- A message taken by its running protocol. -/
def Dev.takeCmp (d : Dev) (p : Protocol) (m : CmpMsg) : Dev :=
  if m.step ≠ p.cmd.step % 65536 then d.addSat Reg.cmpStale 1
  else
    match lowest (p.check d.self m) with
    | some r => d.abandonRecord p r m.sender false
    | none =>
      let d := d.putProtocol { p with sets := addSet p.sets m.type m.round m.sender m.entries m.last m.rejected }
      d.advanceRecord p.cmd.layer p.cmd.microbatch

/-- A message held for a ROUTE not yet issued (R184). -/
def Dev.holdCmp (d : Dev) (m : CmpMsg) (pk : Packet) : Dev :=
  let d := d.addSat Reg.cmpHeld 1
  if d.cmp.held.any fun h => h.layer = m.layer ∧ h.microbatch = m.microbatch then
    { d with cmp := { d.cmp with held := d.cmp.held.map fun h =>
        if h.layer = m.layer ∧ h.microbatch = m.microbatch then { h with msgs := h.msgs ++ [pk] } else h } }
  else
    let d := { d with cmp := { d.cmp with held := d.cmp.held ++ [⟨m.layer, m.microbatch, [pk]⟩] } }
    if d.cmp.held.length = 8 then d.raise cmpPage 5 else d

/-- A received Compass message: taken, held, or left in its buffer while 8 records hold messages (R184).
DEDUCED, log entry 23. -/
def Dev.receiveCmp (d : Dev) (pk : Packet) : Dev :=
  let m := cmpMsgOf pk.body
  match d.protocol m.layer m.microbatch with
  | some p => (d.takePacket pk).takeCmp p m
  | none =>
    if d.cmp.held.length < 8 ∨ d.cmp.held.any fun h => h.layer = m.layer ∧ h.microbatch = m.microbatch then
      (d.takePacket pk).holdCmp m pk
    else d

/-- A Compass message of a TYPE `ok` accepts, standing received. A message of class 1 with a reserved TYPE is a FIELD
fault of the Compass (R186, R197, R317). `blocks` are the reads of the record it brings (R117). -/
def State.cmpMessage (s : State) (pk : Packet) (blocks : List BlockFinding) (ok : Nat → Bool) :
    Host.Outcome State Fault Refusal :=
  s.act fun d =>
    if d.has pk && pk.cls == 1 && ok (u8 pk.body 0) then (d.found [] blocks).receiveCmp pk else d

def execCount (m : Packet) (s : State) (blocks : List BlockFinding := []) : Host.Outcome State Fault Refusal :=
  s.cmpMessage m blocks fun t => t == 1 || !([2, 3, 8, 9].contains t)

def execGrant (m : Packet) (s : State) (blocks : List BlockFinding := []) : Host.Outcome State Fault Refusal :=
  s.cmpMessage m blocks fun t => t == 2

def execPlace (m : Packet) (s : State) (blocks : List BlockFinding := []) : Host.Outcome State Fault Refusal :=
  s.cmpMessage m blocks fun t => t == 3

/-! ROUTE (R166, R175, R181, R182). -/

/-- A ROUTE waits at issue (R182). -/
def Dev.routeWaits (d : Dev) (c : RouteCmd) : Bool :=
  decide (4 ≤ d.cmp.protocols.length) ||
  d.cmp.protocols.any fun p => (p.cmd.layerSlot == c.layerSlot && p.cmd.microbatch == c.microbatch) ||
    p.keyIs c.layer c.microbatch

/-- A record claimed: FINAL cleared, and the ROUTE the latest of its stream (R181). -/
def Dev.claimRecord (d : Dev) (c : RouteCmd) : Dev :=
  let a := d.recordAddr c.layerSlot c.microbatch
  let d := d.writeAt (a + 8) [d.mem.byte (a + 8) &&& 0xFE#8]
  let others := d.cmp.claimed.filter fun x => !(x.layerSlot == c.layerSlot && x.microbatch == c.microbatch)
  { d with
    cmp := { d.cmp with claimed := others ++ [⟨c.layerSlot, c.layer, c.microbatch, d.step % 0x100000000, false, (c.localMap d.self).map fun e => (e.expert, e.slot)⟩] }
    seqMain := { d.seqMain with
      lastRoute := some (c.layerSlot, c.microbatch)
      routes := (c.microbatch, c.layerSlot) :: d.seqMain.routes.filter fun r => r.1 ≠ c.microbatch } }

/-- The first NaN of each NaN token by element index, and its count (R170). DEDUCED, log entry 23. -/
def RouteCmd.nanIndices (c : RouteCmd) (src : ByteSource) (tokens : List TokenState) : List Nat :=
  tokens.zipIdx.filterMap fun t =>
    if t.1.isNan then
      let scores := c.scores.row src t.2
      some (t.2 * c.scores.len0 + (firstNan (c.keys scores) scores).getD 0)
    else none

def Dev.routeEffect (d : Dev) (c : Decoded) (r : RouteCmd) (src : ByteSource) : Dev :=
  let d := d.claimRecord r
  let tokens := (List.range r.scores.len1).map fun t => r.token src t
  let nan := r.nanIndices src tokens
  let d := if nan.isEmpty then d else
    (d.nonfinite .compass d.sxt.order r.layer c.tensorId c.tag nan).raise cmpPage 2
  let (id, d) := d.newRun
  let left := (r.localMap d.self).map fun e => (e.expert, r.capacity e)
  let p : Protocol := ⟨id, r, c.tag, d.step, d.now, tokens.map (·.pass r), [], [], 0, none, 0, left, [], []⟩
  let (q, xs) := p.counts
  let d := { d with cmp := { d.cmp with protocols := d.cmp.protocols ++ [q] } }
  let d := xs.foldl (fun d x => d.sendSet q x) d
  let early := d.cmp.held.filter fun h => h.layer = r.layer ∧ h.microbatch = r.microbatch
  let d := { d with cmp := { d.cmp with held := d.cmp.held.filter fun h => !(h.layer == r.layer && h.microbatch == r.microbatch) } }
  let d := ((early.map (·.msgs)).flatten).foldl (fun d m => match d.protocol r.layer r.microbatch with
    | some p => d.takeCmp p (cmpMsgOf m.body)
    | none => d) d
  d.advanceRecord r.layer r.microbatch

def execRoute (ev : OpEvents) (s : State) : Host.Outcome State Fault Refusal :=
  s.act fun d => d.issueIf .main fun c => match c.cmd with
    | .route r =>
      if !d.active cmpPage then some ((d.issue .main c true false).rejectRun .main c rField)
      else if d.routeWaits r then none
      else some (d.operate s.fuse .main c [] ev fun src d => d.routeEffect c r src)
    | _ => none

/-- A protocol that is not FINAL in time is abandoned (R187). -/
def execCompassTimeout (layerSlot microbatch : Nat) (s : State) : Host.Outcome State Fault Refusal :=
  s.act fun d =>
    match d.cmp.protocols.find? fun p => p.cmd.layerSlot = layerSlot ∧ p.cmd.microbatch = microbatch with
    | some p =>
      if d.overdue p.issued (max 1 (d.fld Reg.cmpTimeout 19 0)) then d.abandonRecord p 0 d.self true else d
    | none => d

end Sys2Proof.Machine
end

