-- ==== Sys2Proof/Machine/Vector.lean ====
section
/-! DEFINITION. The vector engines: element programs, the canonical row tree, statistics kernels, table loads (R85 to R109,
R513, R514, R517). -/
namespace Sys2Proof.Machine

/-! The canonical row tree (R93, R94). -/

/-- The octets of a row; `fuel` bounds their number. -/
def octets : Nat → List Word → List (List Word)
  | 0, _ => []
  | _, [] => []
  | n + 1, ws => ws.take 8 :: octets n (ws.drop 8)

/-- The row sum (R93); a NaN is the canonical one even where a row of one element adds nothing (R25, R104). A row longer than the
engine's 4,194,304 elements is summed by a larger tree. DESIGN CHOICE, log entry 64. -/
def rowSum (ws : List Word) : Word :=
  let os := (octets (ws.length / 8 + 1) ws).map chainSum
  let h := ceilLog2 os.length
  let s := treeRoot h (os ++ List.replicate (2 ^ h - os.length) 0#32)
  if fIsNan s then nanF32 else s

/-- The row maximum and minimum (R94). -/
def rowMax : List Word → Word
  | [] => negInf
  | w :: ws => ws.foldl fMax (if fIsNan w then nanF32 else w)

def rowMin : List Word → Word
  | [] => posInf
  | w :: ws => ws.foldl fMin (if fIsNan w then nanF32 else w)

/-! Operands. -/

/-- A row of an operand as FP32 values; the kept tiles in C's logical shape (R87). -/
def Operand.row (k : Option Kept) (src : ByteSource) (o : Operand) (r : Nat) : List Word :=
  match o with
  | .absent => []
  | .kept => (match k with
    | some k => (k.values.drop (r * k.shape.l0)).take k.shape.l0
    | none => [])
  | .tensor t => t.row src r

/-- The storage codes of a row, for the LUT8 tables: of formats 0xC, 0xD and 0xE. -/
def Operand.codes (src : ByteSource) (o : Operand) (r : Nat) : List Nat :=
  match o with
  | .tensor t => if [0xC, 0xD, 0xE].contains t.fmt then (List.range t.len0).map fun i => t.code src r i else []
  | _ => []

/-- The logical shape an operand has when its command runs. -/
def Operand.shapeOf (k : Option Kept) : Operand → Shape
  | .absent => ⟨0, 0, 0, 0⟩
  | .kept => (match k with
    | some k => k.shape
    | none => ⟨0, 0, 0, 0⟩)
  | .tensor t => t.shape

/-- Where the outputs of a vector command lie in memory. -/
def Operand.runs : Operand → List (Nat × Nat)
  | .tensor t => t.runs
  | _ => []

/-- Positions of the values that are not finite. -/
def badPositions (vs : List Word) : List Nat := (vs.zipIdx.filter fun v => !fIsFinite v.1).map (·.2)

/-- How a vector command writes: its stream, its place in the figures, add-write or converted, its rounding. -/
structure VWrite where
  st : Stream
  o : Origin
  add : Bool
  mode : ConvMode

/-- The rows of one output written, with its non-finite count (R87, R107, R512). -/
def Dev.vout (d : Dev) (w : VWrite) (op : Operand) (rows : List (List Word)) : Dev × Nat :=
  match op with
  | .absent => (d, 0)
  | .kept =>
    let vals := rows.flatten
    let nf := badPositions vals
    let d := d.setStream w.st fun s => { s with kept := s.kept.map fun k => { k with values := vals } }
    (if w.o.main then d.nonfinite .vector w.o.order w.o.layer w.o.tensorId w.o.tag nf else d, nf.length)
  | .tensor t =>
    if w.add then d.addOutput w.o t (t.addRows rows)
    else
      let out := t.putRows w.mode rows
      (d.output w.o .vector t out, out.nf.length)

/-- The figures a vector command leaves on the VTB page (R107, R108, R109): each event is raised once for all rows of a command or of
an output. DESIGN CHOICE, log entry 64. -/
def Dev.vtbCount (d : Dev) (nf masked bad : Nat) : Dev :=
  let d := if nf = 0 then d else (d.addSat Reg.vtbNonfinite nf).raise (page1 .vtb) 2
  let d := if masked = 0 then d else (d.addSat Reg.vtbMaskedRows masked).raise (page1 .vtb) 3
  if bad = 0 then d else (d.addSat Reg.vtbBadTarget bad).raise (page1 .vtb) 4

/-- A vector operation is duplicated (R363). -/
def Dev.dupVector (d : Dev) (st : Stream) : Dev :=
  if d.opNumber st % d.dupRate = 0 then d.addSat Reg.chkDupVector 1 else d

/-- The results of a duplicated row compared (R364): a core of one of the command's clusters, and one of the cluster that follows
the command's clusters by as many places (R363). -/
def Dev.dupRow (d : Dev) (f : Fuse) (start : Dev) (first count : Nat) (m : DupFinding) : Dev :=
  match m.site with
  | .item .. => d
  | .row place core partner =>
    let x := (first + place) % 2400
    let y := (first + count + place) % 2400
    if place < count ∧ (start.enabledCores f x).contains core ∧ (start.enabledCores f y).contains partner then
      d.dupEffect f 3 (128 * x + core) (128 * y + partner) (dupVerdict m)
    else d

/-- The duplicate of a vector command on the clusters that follow its own (R363, R364), where its count in the stream asks for
one. -/
def Dev.dupRows (d : Dev) (f : Fuse) (st : Stream) (start : Dev) (first count : Nat) (ev : OpEvents) : Dev :=
  if start.opNumber st % start.dupRate = 0 then ev.dups.foldl (fun e m => e.dupRow f start first count m) d else d

/-- The curve of a slot. -/
def Dev.curve (d : Dev) (n : Nat) : Curve := (d.curves.getD n none).getD ⟨none, []⟩

/-! Element programs (R89 to R92, R513). -/

/-- The registers and outputs of one element. -/
structure Lane where
  v : List Word
  out : List Word
deriving DecidableEq, Repr

/-- What one element reads: its inputs, their storage codes, the constants. -/
structure LaneIn where
  ins : List Word
  codes : List Nat
  consts : List Word

/-- The value of an operand code (R90). -/
def Lane.src (l : Lane) (x : LaneIn) (c : Nat) : Word :=
  if c < 8 then l.v.getD c 0#32 else if c < 12 then x.ins.getD (c - 8) 0#32 else x.consts.getD (c - 12) 0#32

/-- 1.0 or +0. -/
def fTruth (b : Bool) : Word := if b then fOne else 0#32

/-- The result of one instruction (R91). -/
def vop (curve : Nat → Curve) (i : VInstr) (a b c : Word) (code : Nat) : Word :=
  match i.op with
  | 0x01 => fAdd a b
  | 0x02 => fSub a b
  | 0x03 => fMul a b
  | 0x04 => fFma a b c
  | 0x05 => fMin a b
  | 0x06 => fMax a b
  | 0x07 => fTruth (fLt a b)
  | 0x08 => fTruth (fLe a b)
  | 0x09 => fTruth (fEq a b)
  | 0x0A => fTruth (!fEq a b)
  | 0x0B => if fEq a 0#32 then c else b
  | 0x0C => if fIsNan a then nanF32 else fAbs a
  | 0x0D => if fIsNan a then nanF32 else fNeg a
  | 0x0E => a
  | _ => (curve i.t).eval a code

/-- One instruction of a program on one element. -/
def Lane.step (curve : Nat → Curve) (x : LaneIn) (l : Lane) (i : VInstr) : Lane :=
  let r := vop curve i (l.src x i.a) (l.src x i.b) (l.src x i.c) (if 8 ≤ i.a ∧ i.a < 12 then x.codes.getD (i.a - 8) 0 else 0)
  if i.d < 8 then { l with v := l.v.set i.d r } else { l with out := l.out.set (i.d - 8) r }

/-- The outputs of a program for one element: v0 to v7 start at +0 (R90). -/
def runLane (curve : Nat → Curve) (code : List VInstr) (x : LaneIn) : List Word :=
  (code.foldl (Lane.step curve x) ⟨List.replicate 8 0#32, [0#32, 0#32]⟩).out

/-- The outputs of a program along one row of OUT0. -/
def VprogCmd.row (p : VprogCmd) (curve : Nat → Curve) (k : Option Kept) (src : ByteSource) (l0 r : Nat) : List (List Word) :=
  let ins := p.ins.map fun o => o.row k src r
  let codes := p.ins.map fun o => o.codes src r
  (List.range l0).map fun i =>
    runLane curve p.code ⟨ins.map fun v => v.getD i 0#32, codes.map fun v => v.getD i 0, p.consts⟩

/-- The effect of an element program (R89 to R92); `k` is the kept result it may read. -/
def Dev.vprogEffect (d : Dev) (st : Stream) (c : Decoded) (p : VprogCmd) (k : Option Kept) (src : ByteSource) : Dev :=
  let s := (p.outs.getD 0 .absent).shapeOf k
  let rows := (List.range s.rows).map fun r => p.row d.curve k src s.l0 r
  let w : VWrite := ⟨st, d.origin st c 0xFFFF, p.addWrite, d.mode p.round c.tensorId⟩
  let out := fun (j : Nat) => rows.map fun r => r.map fun e => e.getD j 0#32
  let r0 := (d.dupVector st).vout w (p.outs.getD 0 .absent) (out 0)
  let r1 := r0.1.vout w (p.outs.getD 1 .absent) (out 1)
  r1.1.vtbCount (r0.2 + r1.2) 0 0

def VprogCmd.written (p : VprogCmd) : List (Nat × Nat) := (p.outs.map Operand.runs).flatten

def execVprog (st : Stream) (ev : OpEvents) (s : State) : Host.Outcome State Fault Refusal :=
  s.act fun d => d.issueIf st fun c => match c.cmd with
    | .vprog p =>
      let kept := (d.stream st).kept
      some (d.operate s.fuse st c p.written ev fun src d =>
        (d.vprogEffect st c p kept src).dupRows s.fuse st d p.firstCluster p.clusterCount ev)
    | _ => none

/-! Statistics kernels (R102 to R106, R517). -/

/-- What a kernel works with: its curves EXP, LOG, RCP and RSQRT. -/
structure Curves4 where
  exp : Word → Word
  log : Word → Word
  rcp : Word → Word
  rsqrt : Word → Word

/-- The curves of the slots a command names. -/
def Dev.curves4 (d : Dev) (k : KernelCmd) : Curves4 :=
  let e := fun (i : Nat) (x : Word) => (d.curve (k.curves.getD i 0)).eval x 0
  ⟨e 0, e 1, e 2, e 3⟩

/-- What a kernel writes for one row: outputs 0 and 1, the new state of ATTN_STAT, and how the row counts. -/
structure RowOut where
  out0 : List Word
  out1 : List Word
  state : List Word
  masked : Bool
  bad : Bool
deriving DecidableEq, Repr

def RowOut.plain (out0 out1 : List Word) : RowOut := ⟨out0, out1, [], false, false⟩

/-- A row of canonical NaNs. -/
def nanRow (n : Nat) : List Word := List.replicate n nanF32

/-- Steps 2 to 5 of R102. -/
inductive Soft where
  | nan
  | masked
  | ok (m : Word) (e : List Word) (s : Word)
deriving DecidableEq, Repr

def softSteps (k : Curves4) (xs : List Word) : Soft :=
  let m := rowMax xs
  if fIsNan m || m == posInf then .nan
  else if m == negInf then .masked
  else
    let e := xs.map fun x => k.exp (fSub x m)
    .ok m e (rowSum e)

/-- SOFTMAX of a row (R102). -/
def softmaxRow (k : Curves4) (alpha : Word) (xs : List Word) : RowOut :=
  let a := if alpha = 0#32 then fOne else alpha
  match softSteps k (xs.map fun x => fMul x a) with
  | .nan => .plain (nanRow xs.length) []
  | .masked => ⟨List.replicate xs.length 0#32, [], [], true, false⟩
  | .ok _ e s => let q := k.rcp s
    .plain (e.map fun v => fMul v q) []

/-- 1/n rounded to nearest even (R103). -/
def invCount (n : Nat) : Word := toF32 (FVal.div (.fin false 1 0) (.fin false n 0))

/-- NORM of a row: outputs and the pair (μ, q) (R103). -/
def normRow (k : Curves4) (layer : Bool) (eps : Word) (gain : List Word) (bias : Option (List Word)) (xs : List Word) :
    RowOut :=
  let inv := invCount xs.length
  if xs.any fIsNan then .plain (nanRow xs.length) [nanF32, nanF32]
  else if layer then
    let mu := fMul (rowSum xs) inv
    let ds := xs.map fun x => fSub x mu
    let var := fMul (rowSum (ds.map fun v => fMul v v)) inv
    let q := k.rsqrt (fAdd var eps)
    let ys := match bias with
      | none => List.zipWith (fun v g => fMul (fMul v q) g) ds gain
      | some b => List.zipWith (fun (v : Word × Word) b => fFma (fMul v.1 q) v.2 b) (ds.zip gain) b
    .plain ys [mu, q]
  else
    let ms := fMul (rowSum (xs.map fun x => fMul x x)) inv
    let q := k.rsqrt (fAdd ms eps)
    .plain (List.zipWith (fun x g => fMul (fMul x q) g) xs gain) [0#32, q]

/-- REDUCE of a row for SUBOP 0 to 3 (R104). -/
def reduceRow (subop : Nat) (xs : List Word) : Word :=
  match subop with
  | 0 => rowSum xs
  | 1 => rowSum (xs.map fun x => fMul x x)
  | 2 => rowMax xs
  | _ => rowMin xs

/-- The running statistics of one query row. -/
structure Attn where
  m : Word
  l : Word
  p : List Word
  alphas : List Word
deriving DecidableEq, Repr

/-- One key block (R105). -/
def Attn.block (k : Curves4) (a : Attn) (xs : List Word) : Attn :=
  let mb := rowMax xs
  if mb = negInf ∧ !fIsNan a.m then
    { a with p := a.p ++ List.replicate xs.length 0#32, alphas := a.alphas ++ [fOne] }
  else
    let mNew := fMax a.m mb
    let alpha := if fEq mNew a.m then fOne else if a.m = negInf ∧ !fIsNan mNew then 0#32 else k.exp (fSub a.m mNew)
    let e := xs.map fun x => k.exp (fSub x mNew)
    ⟨mNew, fFma a.l alpha (rowSum e), a.p ++ e, a.alphas ++ [alpha]⟩

/-- The key blocks of a row: KB keys each, the last maybe shorter. -/
def keyBlocks (kb : Nat) : Nat → List Word → List (List Word)
  | 0, _ => []
  | _, [] => []
  | n + 1, xs => xs.take (max 1 kb) :: keyBlocks kb n (xs.drop (max 1 kb))

/-- ATTN_STAT over the blocks of a row (R105). -/
def attnRow (k : Curves4) (kb : Nat) (state xs : List Word) : RowOut :=
  let a := (keyBlocks kb xs.length xs).foldl (Attn.block k) ⟨state.getD 0 negInf, state.getD 1 0#32, [], []⟩
  ⟨a.p, a.alphas, [a.m, a.l], false, false⟩

/-- ATTN_STAT with FINAL: o × RCP(l) (R105). -/
def attnFinalRow (k : Curves4) (state os : List Word) : RowOut :=
  let l := state.getD 1 0#32
  if l = 0#32 then ⟨List.replicate os.length 0#32, [], state, true, false⟩
  else if os.any fIsNan then ⟨nanRow os.length, [], state, false, false⟩
  else
    let q := k.rcp l
    ⟨os.map fun o => fMul o q, [], state, false, false⟩

/-- LOSS of a row: its gradients, and in `out1` its loss; `counted` says whether it counts (R106). -/
def lossRow (k : Curves4) (g : Word) (target : Nat) (zs : List Word) : RowOut × Bool :=
  let n := zs.length
  if target = 0xFFFFFFFF then (.plain (List.replicate n 0#32) [0#32], false)
  else if n ≤ target then (⟨nanRow n, [nanF32], [], false, true⟩, true)
  else
    match softSteps k (zs.map fun z => fMul z fOne) with
    | .nan => (.plain (nanRow n) [nanF32], true)
    | .masked => (⟨List.replicate n 0#32, [0#32], [], true, false⟩, false)
    | .ok m e s =>
      let lse := fAdd (k.log s) m
      let q := k.rcp s
      (.plain (e.zipIdx.map fun v => fMul (fSub (fMul v.1 q) (if v.2 = target then fOne else 0#32)) g)
        [fSub lse (fMul (zs.getD target 0#32) fOne)], true)

/-- The rows of IN0 with their numbers. -/
def KernelCmd.inRows (k : KernelCmd) (kept : Option Kept) (src : ByteSource) : List (Nat × List Word) :=
  (List.range (k.in0.shapeOf kept).rows).map fun r => (r, k.in0.row kept src r)

/-- How a kernel command writes. -/
def Dev.kernelWrite (d : Dev) (st : Stream) (c : Decoded) (k : KernelCmd) : VWrite :=
  ⟨st, d.origin st c 0xFFFF, k.addWrite, d.mode k.round c.tensorId⟩

/-- The outputs and counts of a kernel whose rows are at hand. -/
def Dev.kernelOut (d : Dev) (w : VWrite) (k : KernelCmd) (rows : List RowOut) : Dev :=
  let r0 := d.vout w k.out0 (rows.map (·.out0))
  let r1 := r0.1.vout w k.out1 (rows.map (·.out1))
  r1.1.vtbCount (r0.2 + r1.2) (rows.filter (·.masked)).length (rows.filter (·.bad)).length

def KernelCmd.written (k : KernelCmd) : List (Nat × Nat) :=
  k.out0.runs ++ k.out1.runs ++ (if k.kernel = 4 ∧ k.subop ≠ 1 then k.in1.runs else [])

/-- A kernel command of one kind issued; its effect is given the kept result. Its result does not depend on which of the clusters it
names take work, and it is computed though none does. DESIGN CHOICE, log entry 64. -/
def State.kernel (s : State) (st : Stream) (ev : OpEvents) (kind : Nat)
    (effect : Decoded → KernelCmd → Option Kept → ByteSource → Dev → Dev) : Host.Outcome State Fault Refusal :=
  s.act fun d => d.issueIf st fun c => match c.cmd with
    | .kernel k =>
      let kept := (d.stream st).kept
      if k.kernel = kind then
        some (d.operate s.fuse st c k.written ev fun src d =>
          (effect c k kept src (d.dupVector st)).dupRows s.fuse st d k.firstCluster k.clusterCount ev)
      else none
    | _ => none

def execSoftmax (st : Stream) (ev : OpEvents) (s : State) : Host.Outcome State Fault Refusal :=
  s.kernel st ev 0 fun c k kept src d =>
    d.kernelOut (d.kernelWrite st c k) k
      ((k.inRows kept src).map fun r => softmaxRow (d.curves4 k) k.scalar r.2)

/-- The rows of a NORM. -/
def Dev.normEffect (d : Dev) (st : Stream) (layer : Bool) (c : Decoded) (k : KernelCmd) (kept : Option Kept)
    (src : ByteSource) : Dev :=
  let gain := k.in1.row kept src 0
  let bias := match k.in2 with
    | .absent => none
    | o => some (o.row kept src 0)
  d.kernelOut (d.kernelWrite st c k) k
    ((k.inRows kept src).map fun r => normRow (d.curves4 k) layer k.scalar gain bias r.2)

def execNormRms (st : Stream) (ev : OpEvents) (s : State) : Host.Outcome State Fault Refusal :=
  s.kernel st ev 1 fun c k kept src d => d.normEffect st false c k kept src

def execNormLayer (st : Stream) (ev : OpEvents) (s : State) : Host.Outcome State Fault Refusal :=
  s.kernel st ev 2 fun c k kept src d => d.normEffect st true c k kept src

/-- The INT32 counts of SUBOP 4 (R104). -/
def Dev.countRows (d : Dev) (op : Operand) (counts : List (Nat × Nat)) : Dev :=
  match op with
  | .tensor t => d.write (counts.map fun r => t.putCodes r.1 [r.2])
  | _ => d

def execVkernelReduce (st : Stream) (ev : OpEvents) (s : State) : Host.Outcome State Fault Refusal :=
  s.kernel st ev 3 fun c k kept src d =>
    let rows := k.inRows kept src
    if k.subop = 4 then d.countRows k.out0 (rows.map fun r => (r.1, (badPositions r.2).length))
    else d.kernelOut (d.kernelWrite st c k) k (rows.map fun r => .plain [reduceRow k.subop r.2] [])

/-- The statistics m and l written back in place (R517). They are the kernel's state, not an output of R107. -/
def Dev.attnState (d : Dev) (st : Stream) (op : Operand) (rows : List (List Word)) : Dev :=
  match op with
  | .absent => d
  | .kept => d.setStream st fun s => { s with kept := s.kept.map fun k => { k with values := rows.flatten } }
  | .tensor t => d.write (t.putRows .rne rows).chunks

def execAttnStat (st : Stream) (ev : OpEvents) (s : State) : Host.Outcome State Fault Refusal :=
  s.kernel st ev 4 fun c k kept src d =>
    let cs := d.curves4 k
    let w := d.kernelWrite st c k
    let rows := k.inRows kept src
    if k.subop = 1 then d.kernelOut w k (rows.map fun r => attnFinalRow cs (k.in1.row kept src r.1) r.2)
    else
      let outs := rows.map fun r => attnRow cs k.kb (k.in1.row kept src r.1) r.2
      (d.kernelOut w k outs).attnState st k.in1 (outs.map (·.state))

/-- The loss output: the bits of the loss sum and the count (R106, R517). A sum that is not finite counts once (R107). -/
def Dev.lossOut (d : Dev) (w : VWrite) (op : Operand) (sum : Word) (count : Nat) : Dev :=
  match op with
  | .tensor t =>
    let d := d.write [t.putCodes 0 [sum.toNat, count]]
    if fIsFinite sum then d
    else
      let d := if w.o.main then d.nonfinite .vector w.o.order w.o.layer w.o.tensorId w.o.tag [0] else d
      d.vtbCount 1 0 0
  | _ => d

def execLoss (st : Stream) (ev : OpEvents) (s : State) : Host.Outcome State Fault Refusal :=
  s.kernel st ev 5 fun c k kept src d =>
    let w := d.kernelWrite st c k
    let target := fun (r : Nat) => match k.in1 with
      | .tensor t => t.code src 0 r
      | _ => 0
    let rows := (k.inRows kept src).map fun r => lossRow (d.curves4 k) k.scalar (target r.1) r.2
    let outs := rows.map (·.1)
    let r0 := d.vout w k.out0 (outs.map (·.out0))
    let d := r0.1.vtbCount r0.2 (outs.filter (·.masked)).length (outs.filter (·.bad)).length
    d.lossOut w k.out1 (rowSum ((outs.map (·.out1)).flatten)) (rows.filter (·.2)).length

/-! Table loads (R98, R99, R101, R109). -/

/-- The registers of a slot that holds a table. -/
def Dev.showSlot (d : Dev) (n owner place : Nat) (c : Curve) : Dev :=
  let bs := c.bytes
  let d := d.setReg (Reg.vtbSlotStatus n)
    (BitVec.ofNat 32 (1 + owner * 2 + c.mode % 4 * 4 + c.seg % 16 * 0x10 + c.id * 0x100))
  let d := d.setReg (Reg.vtbSlotCrc n) (crc32c bs)
  let d := d.setReg (Reg.vtbSlotPlace n) (BitVec.ofNat 32 (place + 0x10000 * (bs.length / 64)))
  { d with curves := d.curves.set n (some c) }

/-- The other slots of a stream that a new placement overlaps become invalid (R98). -/
def Dev.dropSlots (d : Dev) (slot owner place length : Nat) : Dev :=
  (d.slotInfos.zipIdx).foldl (fun d s => match s.1 with
    | some o =>
      if s.2 ≠ slot ∧ o.owner = owner ∧ overlaps o.place o.length place length then
        { d.setFlag (Reg.vtbSlotStatus s.2) 0 false with curves := d.curves.set s.2 none }
      else d
    | none => d) d

/-- A table load at its boundary: the image in the curve memory of every cluster, the registers of its slot, the other slots it
overlaps invalid, LOAD_DONE. DESIGN CHOICE, log entry 20. -/
def Dev.loadTable (d : Dev) (st : Stream) (t : TloadCmd) (image : List Byte) : Dev :=
  let c : Curve := ⟨none, image⟩
  let d := d.dropSlots t.slot (sidx st) t.place64 (t.length / 64)
  let d := d.showSlot t.slot (sidx st) t.place64 c
  (d.setFld Reg.vtbLoadStatus 4 0 t.slot).raise (page1 .vtb) 0

/-- A table load reads its image and waits for its boundary (R98). -/
def Dev.tloadEffect (d : Dev) (st : Stream) (t : TloadCmd) (src : ByteSource) : Dev :=
  d.setStream st fun s => { s with late := some (.tload t (readBytes src t.image t.length)) }

def execTload (st : Stream) (ev : OpEvents) (s : State) : Host.Outcome State Fault Refusal :=
  s.act fun d => d.issueIf st fun c => match c.cmd with
    | .tload t => some (d.operate s.fuse st c [] ev fun src d => d.tloadEffect st t src)
    | _ => none

end Sys2Proof.Machine
end

