-- ==== Sys2Proof/Machine/Exchange.lean ====
section
/-! DEFINITION. Token exchange: the five kinds of XCHG, READY and DATA, completion and status (08_token_exchange.md). -/
namespace Sys2Proof.Machine

/-! The record as the exchange reads it (R155, R180, R196). -/

/-- One token entry of a record. -/
structure RecSlot where
  t : Nat
  r : Nat
  expert : Nat
  state : Nat
  row : Nat
  gate : Word
  home : Nat
deriving DecidableEq, Repr

/-- One list entry of a record, with its local slot. -/
structure RecList where
  slot : Nat
  source : Nat
  base : Nat
  count : Nat
deriving DecidableEq, Repr

/-- A record: its header figures and sections. -/
structure Record where
  layer : Nat
  step : Nat
  t : Nat
  k : Nat
  rows : List Nat
  slots : List RecSlot
  lists : List RecList
deriving DecidableEq, Repr

/-- The record at an address. -/
def recordAt (src : ByteSource) (a : Nat) : Record :=
  let t := readNat src (a + 0x0C) 4
  let k := (src (a + 0x09)).toNat
  let lists := a + 0x840 + 16 * (t * k)
  { layer := readNat src a 2
    step := readNat src (a + 4) 4
    t := t
    k := k
    rows := (List.range 128).map fun i => readNat src (a + 0x40 + 16 * i) 4
    slots := (List.range (t * k)).map fun j =>
      let e := a + 0x840 + 16 * j
      ⟨j / k, j % k, readNat src e 2 % 0x4000, (src (e + 3)).toNat, readNat src (e + 4) 4, readWord src (e + 8),
        readNat src (e + 0xC) 2⟩
    lists := ((List.range 128).map fun i =>
      let first := readNat src (a + 0x40 + 16 * i + 4) 4
      (List.range (readNat src (a + 0x40 + 16 * i + 8) 4)).map fun j =>
        let e := lists + 8 * (first + j)
        (⟨i, readNat src e 2, readNat src (e + 2) 3, readNat src (e + 5) 3⟩ : RecList)).flatten }

/-- GRANT_PREFIX (R155). -/
def Record.prefix (x : Record) (slot : Nat) : Nat := listSum (x.rows.take slot)

def Record.accepted (x : Record) : List RecSlot := x.slots.filter fun s => s.state = 0

/-- Numbers in ascending order, each once. -/
def insertNat (n : Nat) : List Nat → List Nat
  | [] => [n]
  | m :: ms => if n < m then n :: m :: ms else if n = m then m :: ms else m :: insertNat n ms

def sortNats (ns : List Nat) : List Nat := ns.foldl (fun acc n => insertNat n acc) []

/-! Wire rows (R198, R200). -/

/-- A row of FP32 values in a wire format: bytes, positions counted as non-finite, largest magnitude. -/
def wireConvert (fmt : Nat) (outer : Int) (mode : ConvMode) (index : Nat) (vs : List Word) : List Byte × List Nat × Word :=
  match mxKind fmt with
  | some k =>
    let bs := (cutBlocks (ceilDiv vs.length 32) vs).zipIdx.map fun p =>
      (p.1, index + 32 * p.2, mxConvertBlock k mode (index + 32 * p.2) outer (p.1.map f32))
    ((bs.map fun b => packBlock k b.2.2.codes).flatten ++ bs.map fun b => BitVec.ofNat 8 b.2.2.scale,
      (bs.filter fun b => b.2.2.scale = 255).map fun b => firstNonfinite b.2.1 b.1, amaxOf vs)
  | none =>
    let cs := vs.zipIdx.map fun p => writeCode mode fmt fOne (index + p.2) p.1
    ((cs.map fun c => natBytes (elemSize fmt) c.1).flatten, (cs.zipIdx.filter fun c => c.1.2).map fun c => index + c.2,
      amaxOf vs)

/-- A row of a tensor as it lies: elements, then the scale bytes of an MX row. -/
def Desc.wireBits (t : Desc) (src : ByteSource) (row : Nat) : List Byte :=
  match mxKind t.fmt with
  | some k =>
    readBytes src (t.addr + k.blockBytes * (row * t.rowBlocks)) (k.blockBytes * t.rowBlocks) ++
      readBytes src (t.addr + t.scalePlane + row * t.rowBlocks) t.rowBlocks
  | none => readBytes src (t.rowAddr row) (elemSize t.fmt * t.len0)

/-- Where a wire row lands in a buffer (R196). -/
def Desc.placeRow (t : Desc) (row : Nat) (bytes : List Byte) : List Chunk :=
  match mxKind t.fmt with
  | some k =>
    let n := k.blockBytes * t.rowBlocks
    [⟨t.addr + n * row, bytes.take n⟩, ⟨t.addr + t.scalePlane + row * t.rowBlocks, bytes.drop n⟩]
  | none => [⟨t.rowAddr row, bytes⟩]

/-- Bytes of a row on the wire. -/
def wireBytes (fmt d : Nat) : Nat :=
  match mxKind fmt with
  | some k => (k.blockBytes + 1) * ceilDiv d 32
  | none => elemSize fmt * d

/-- The outer-scale exponent field a packet carries: 0 for a wire format without one. -/
def XchgCmd.expField (c : XchgCmd) : Nat :=
  match c.oscale with
  | some o => natBits o.2.toNat 30 23
  | none => 0

/-- The 32-byte header of a DATA packet (R198). -/
def dataHeader (c : XchgCmd) (layer step self expert first count width : Nat) : List Byte :=
  natBytes 1 8 ++ natBytes 1 c.kind ++ natBytes 1 0 ++ natBytes 1 c.format ++ natBytes 2 layer ++ natBytes 2 c.microbatch ++
    natBytes 2 self ++ natBytes 2 step ++ natBytes 2 expert ++ natBytes 1 c.expField ++ natBytes 1 0 ++ natBytes 4 first ++
    natBytes 4 count ++ natBytes 4 width ++ natBytes 4 0

/-! What an XCHG sends and expects (R196, R199, R200, R203). -/

/-- A row to be sent: to whom, its expert and row there, its bytes, its counted positions and largest magnitude. -/
structure WireRow where
  dest : Nat
  expert : Nat
  row : Nat
  bytes : List Byte
  nf : List Nat
  amax : Word

/-- What an XCHG works from. -/
structure XCtx where
  c : XchgCmd
  track : Record
  experts : List (Nat × Nat)
  self : Nat
  width : Nat
  mode : ConvMode
  src : ByteSource

def XCtx.outer (x : XCtx) : Int :=
  match x.c.oscale with
  | some o => (outerExp? o.2).getD 0
  | none => 0

/-- A source row as it goes on the wire: converted unless it has the wire's format already. -/
def XCtx.wire (x : XCtx) (t : Desc) (row index dest expert place : Nat) : WireRow :=
  if t.fmt = x.c.format then ⟨dest, expert, place, t.wireBits x.src row, [], 0#32⟩
  else
    let w := wireConvert x.c.format x.outer x.mode index (t.row x.src row)
    ⟨dest, expert, place, w.1, w.2.1, w.2.2⟩

/-- The gated gradient row of a slot (R203). -/
def XCtx.gated (x : XCtx) (t : Desc) (s : RecSlot) : WireRow :=
  let vs := (t.row x.src s.t).map fun v => fMul s.gate v
  let w := wireConvert x.c.format x.outer x.mode ((s.t * x.track.k + s.r) * x.width) vs
  ⟨s.home, s.expert, s.row, w.1, w.2.1, w.2.2⟩

/-- The expert of a local slot. -/
def XCtx.expertOf (x : XCtx) (slot : Nat) : Nat :=
  match x.experts.find? fun e => e.2 = slot with
  | some e => e.1
  | none => 0

/-- The rows sent, packet by packet in the order of R199. -/
def XCtx.packets (x : XCtx) : List (List WireRow) :=
  match x.c.src with
  | none => []
  | some t =>
    if x.c.kind = 0 ∨ x.c.kind = 3 then
      let acc := x.track.accepted
      ((sortNats (acc.map (·.home))).map fun h =>
        let mine := acc.filter fun s => s.home = h
        (sortNats (mine.map (·.expert))).map fun e => (mine.filter fun s => s.expert = e).map fun s =>
          if x.c.kind = 0 then x.wire t s.t (s.t * x.width) h e s.row else x.gated t s).flatten
    else
      x.track.lists.map fun l => (List.range l.count).map fun j =>
        let n := x.track.prefix l.slot + l.base + j
        x.wire t n (n * x.width) l.source (x.expertOf l.slot) (l.base + j)

/-- The rows this member expects. -/
def XCtx.expected (x : XCtx) : List Expected :=
  if x.c.kind = 0 ∨ x.c.kind = 3 then
    (x.track.lists.map fun l => (List.range l.count).map fun j =>
      (⟨l.source, x.expertOf l.slot, l.base + j, x.track.prefix l.slot + l.base + j⟩ : Expected)).flatten
  else x.track.accepted.map fun s => ⟨s.home, s.expert, s.row, s.t * x.track.k + s.r⟩

/-- The packet of a list of rows of one expert. -/
def XCtx.packet (x : XCtx) (rows : List WireRow) : OwedPacket :=
  match rows with
  | [] => ⟨x.self, 0, []⟩
  | r :: _ => ⟨r.dest, rows.length, dataHeader x.c x.track.layer x.track.step x.self r.expert r.row rows.length x.width ++
      (rows.map (·.bytes)).flatten⟩

/-- The packets for members other than this one, in the order of R199. -/
def XCtx.queue (x : XCtx) (ps : List (List WireRow)) : List OwedPacket := (ps.map x.packet).filter fun p => p.peer ≠ x.self

/-- The rows owed each peer. -/
def owedRows (queue : List OwedPacket) : List Owed :=
  (sortNats (queue.map (·.peer))).map fun h => ⟨h, listSum ((queue.filter fun p => p.peer = h).map (·.rows))⟩

/-! Status (R208, R209). -/

def xPage : Page := cmpPage

/-- The 64-byte status record. -/
def XchgRun.status (x : XchgRun) (status peer : Nat) (done : Dword) : List Byte :=
  natBytes 1 status ++ natBytes 1 x.cmd.kind ++ natBytes 2 x.layer ++ natBytes 2 x.cmd.microbatch ++ natBytes 2 peer ++
    natBytes 4 x.sent ++ natBytes 4 x.expected.length ++ natBytes 4 x.received ++ natBytes 4 x.stale ++
    natBytes 8 x.stamp.toNat ++ natBytes 8 done.toNat ++ List.replicate 24 0#8

def Dev.dropXchg (d : Dev) (x : XchgRun) : Dev :=
  { d with
    xch := { d.xch with runs := d.xch.runs.filter fun y => y.id ≠ x.id }
    cht := { d.cht with stuck := d.cht.stuck.filter (· ≠ x.id) } }

def Dev.putXchg (d : Dev) (x : XchgRun) : Dev :=
  { d with xch := { d.xch with runs := d.xch.runs.map fun y => if y.id = x.id then x else y } }

/-- An XCHG completed (R201): its status, its counter; on any status but DONE a fault record and a vote not clean (R209). -/
def Dev.endXchg (d : Dev) (x : XchgRun) (status peer : Nat) : Dev :=
  let d := d.dropXchg x
  let d := d.writeAt x.cmd.status (x.status status peer d.stamp)
  let d := d.notifyCounter x.cmd.counter
  if status = 1 then d
  else
    let d : Dev := { d with xch := { d.xch with
      ended := ⟨x.cmd.kind, x.layer, x.cmd.microbatch, x.step % 65536⟩ :: d.xch.ended } }
    (d.record (d.faultRec xPage x.layer status x.tag x.cmd.status (natBytes 2 peer ++ natBytes 1 x.cmd.kind ++ natBytes 1 0 ++
      natBytes 2 x.layer ++ natBytes 2 x.cmd.microbatch))).bad

/-! READY and release (R197, R199). -/

/-- A READY message (R198). -/
def readyBytes (kind layer microbatch self step rows : Nat) : List Byte :=
  natBytes 1 9 ++ natBytes 1 kind ++ natBytes 2 0 ++ natBytes 2 layer ++ natBytes 2 microbatch ++ natBytes 2 self ++
    natBytes 2 step ++ natBytes 4 rows

/-- The packets owed some peers sent in the order of R199: to each peer stripes in turn from 0 (R325). -/
def Dev.releaseRows (d : Dev) (x : XchgRun) (peers : List Nat) : Dev :=
  let go := x.queue.filter fun p => peers.contains p.peer
  let d := (go.foldl (fun (acc : List Nat × Dev) p =>
    (p.peer :: acc.1, acc.2.sendPacket 1 p.peer (acc.1.count p.peer % acc.2.stripesTo 1 p.peer) x.id p.bytes)) ([], d)).2
  d.putXchg { x with
    sent := x.sent + listSum (go.map (·.rows))
    queue := x.queue.filter fun p => !peers.contains p.peer }

/-- What a READY for a running XCHG does: stale; a fault of the exchange; or it lets the rows of its sender go. -/
inductive ReadyAct where
  | stale
  | fault (status : Nat)
  | release

/-- A READY judged: its STEP (R210), its reserved bytes (R208), its rows against those owed (R197). DEDUCED, log entry 24. -/
def XchgRun.judge (x : XchgRun) (m : ReadyMsg) : ReadyAct :=
  if m.step ≠ x.step % 65536 then .stale
  else if !m.zeros then .fault 2
  else if m.rows = ((x.owed.find? fun o => o.peer = m.sender).map (·.rows)).getD 0 then .release
  else .fault 6

/-- A READY for a running XCHG. -/
def Dev.takeReady (d : Dev) (x : XchgRun) (m : ReadyMsg) : Dev :=
  match x.judge m with
  | .stale => d.putXchg { x with stale := x.stale + 1 }
  | .fault status => d.endXchg x status m.sender
  | .release => d.releaseRows x [m.sender]

/-- The run of a KIND, LAYER and MICROBATCH. -/
def Dev.xchgRun (d : Dev) (kind layer microbatch : Nat) : Option XchgRun :=
  d.xch.runs.find? fun x => x.cmd.kind = kind ∧ x.layer = layer ∧ x.cmd.microbatch = microbatch

/-! Issue (R194, R197, R201, R208). -/

/-- Rows for this member itself, placed at once through the base dies. -/
def placeOwn (x : XCtx) (ex : List Expected) (own : List WireRow) : List Chunk × List Nat :=
  match x.c.dst with
  | none => ([], [])
  | some t =>
    let at_ := own.filterMap fun r => (ex.find? fun e => e.peer = x.self ∧ e.expert = r.expert ∧ e.row = r.row).map fun e =>
      (e.place, r.bytes)
    ((at_.map fun p => t.placeRow p.1 p.2).flatten, at_.map (·.1))

/-- The figures of the wire conversions: merged into OSCALE's entry, counted as conversion (R200, R276, R512).
DEDUCED, log entry 24. -/
def Dev.wireFigures (d : Dev) (o : Origin) (c : XchgCmd) (rows : List WireRow) : Dev :=
  let ref := match c.oscale with
    | some x => x.1
    | none => 0xFFFF
  let nf := (rows.map (·.nf)).flatten
  let w := d.findingOf ref o.layer o.tensorId
  (d.merge ref (rows.foldl (fun a r => fMax a r.amax) 0#32) nf.length).nonfinite .conversion o.order w.1 w.2 o.tag nf

/-- The gate gradients of GRAD_DISPATCH (R203). -/
def XCtx.gateGrads (x : XCtx) (t y : Desc) : List (List Word) :=
  (List.range x.track.t).map fun i =>
    let dout := t.row x.src i
    (List.range x.track.k).map fun r =>
      match x.track.slots[i * x.track.k + r]? with
      | some s =>
        if s.state = 0 then rowSum (List.zipWith fMul dout (y.row x.src (i * x.track.k + r))) else 0#32
      | none => 0#32

def Dev.writeGateGrads (d : Dev) (o : Origin) (x : XCtx) : Dev :=
  match x.c.kind, x.c.src, x.c.aux, x.c.aux2 with
  | 3, some t, some y, some g =>
    let out := g.putRows .rne (x.gateGrads t y)
    (d.output o .vector g out).vtbCount out.nf.length 0 0
  | _, _, _, _ => d

/-- The kept READYs of a run that starts: those of another step are stale; the first that faults ends it; else the rows for all
their senders go in the order of R199. -/
def Dev.keptReadys (d : Dev) (x : XchgRun) (ms : List ReadyMsg) : Dev :=
  let stale := (ms.filter fun m => decide (m.step ≠ x.step % 65536)).length
  let x : XchgRun := { x with stale := x.stale + stale }
  let d := d.putXchg x
  let good := ms.filter fun m => decide (m.step = x.step % 65536)
  match good.findSome? fun m => match x.judge m with
    | .fault status => some (status, m.sender)
    | _ => none with
  | some q => d.endXchg x q.1 q.2
  | none => d.releaseRows x (good.map (·.sender))

def Dev.xchgCtx (d : Dev) (c : Decoded) (x : XchgCmd) (src : ByteSource) : XCtx :=
  let experts := match d.cmp.claimed.find? fun k => k.layerSlot = x.layerSlot ∧ k.microbatch = x.microbatch with
    | some k => k.experts
    | none => []
  { c := x, track := recordAt src (d.recordAddr x.layerSlot x.microbatch), experts := experts, self := d.self
    width := ((x.src.orElse fun _ => x.dst).map (·.len0)).getD 0, mode := d.mode x.round c.tensorId, src := src }

def Dev.startXchg (d : Dev) (c : Decoded) (x : XCtx) (queue : List OwedPacket) (ex : List Expected) (own : Nat) (got : List Nat) :
    XchgRun × Dev :=
  let (id, d) := d.newRun
  let run : XchgRun := ⟨id, x.c, c.tag, x.track.layer, x.track.step, x.width, d.now, d.stamp, own, got.length, 0, owedRows queue,
    queue, ex, got⟩
  let mine := fun (e : EndedXchg) => e.kind == run.cmd.kind && e.layer == run.layer && e.microbatch == run.cmd.microbatch
  (run, { d.writeAt x.c.status (run.status 0 0xFFFF 0#64) with
    xch := { d.xch with runs := d.xch.runs ++ [run], ended := d.xch.ended.filter fun e => !mine e } })

/-- DISPATCH, RETURN, GRAD_DISPATCH and GRAD_RETURN. -/
def Dev.moveEffect (d : Dev) (c : Decoded) (x : XchgCmd) (lost : Bool) (src : ByteSource) : Dev :=
  let o := d.origin .main c 0xFFFF
  let ctx := d.xchgCtx c x src
  if d.recordAbandoned x.layerSlot x.microbatch then
    let r := d.startXchg c ctx [] [] 0 []
    r.2.endXchg r.1 9 0xFFFF
  else
    let ps := ctx.packets
    let ex := ctx.expected
    let own := (ps.flatten).filter fun r => r.dest = d.self
    let placed := placeOwn ctx ex own
    let r := d.startXchg c ctx (ctx.queue ps) ex own.length placed.2
    let d := (r.2.write placed.1).wireFigures o x ps.flatten
    let d := d.writeGateGrads o ctx
    if lost then d.endXchg r.1 8 0xFFFF
    else if ps.isEmpty ∧ ex.isEmpty then d.endXchg r.1 1 0xFFFF
    else
      let peers := (sortNats (ex.map (·.peer))).filter fun h => h ≠ d.self
      let d := peers.foldl (fun d h => d.sendPacket 1 h 0 r.1.id
        (readyBytes x.kind ctx.track.layer x.microbatch d.self ctx.track.step (ex.filter fun e => e.peer = h).length)) d
      let mine := d.xch.readys.filter fun m => m.kind = x.kind ∧ m.layer = ctx.track.layer ∧ m.microbatch = x.microbatch
      let d := { d with xch := { d.xch with readys := d.xch.readys.filter fun m => !mine.contains m } }
      d.keptReadys r.1 mine

/-! COMBINE (R202). -/

/-- One element of a token's output. -/
def combineElem (ungated : Bool) (ss : List RecSlot) (ys : List (List Word)) (resid : Option (List Word)) (i : Nat) : Word :=
  let acc := (ss.zip ys).foldl (fun acc p =>
    let y := p.2.getD i 0#32
    match p.1.state with
    | 0 => if ungated then fAdd acc y else fFma p.1.gate y acc
    | 1 | 3 => fAdd acc 0#32
    | _ => acc) 0#32
  match resid with
  | some r => fAdd (r.getD i 0#32) acc
  | none => acc

def XCtx.combineRow (x : XCtx) (buf : Desc) (t : Nat) : List Word :=
  let ss := (x.track.slots.drop (t * x.track.k)).take x.track.k
  let ys := ss.map fun s => if s.state = 0 then buf.row x.src (t * x.track.k + s.r) else []
  let resid := x.c.aux.map fun a => a.row x.src t
  (List.range buf.len0).map (combineElem x.c.ungated ss ys resid)

def Dev.combineEffect (d : Dev) (c : Decoded) (x : XchgCmd) (lost : Bool) (src : ByteSource) : Dev :=
  let o := d.origin .main c 0xFFFF
  let ctx := d.xchgCtx c x src
  let r := (d.dupVector .main).startXchg c ctx [] [] 0 []
  if r.2.recordAbandoned x.layerSlot x.microbatch then r.2.endXchg r.1 9 0xFFFF
  else
    match x.src, x.dst with
    | some buf, some t =>
      let out := t.putRows ctx.mode ((List.range ctx.track.t).map (ctx.combineRow buf))
      let d := (r.2.output o .vector t out).vtbCount out.nf.length 0 0
      d.endXchg r.1 (if lost then 8 else 1) 0xFFFF
    | _, _ => r.2.endXchg r.1 1 0xFFFF

/-! The rows of the table. -/

/-- An XCHG waits at issue: its record neither FINAL nor abandoned, eight in flight, or one of its KIND and record (R194). -/
def Dev.xchgWaits (d : Dev) (x : XchgCmd) : Bool :=
  (!d.recordFinal x.layerSlot x.microbatch && !d.recordAbandoned x.layerSlot x.microbatch) ||
  decide (8 ≤ d.xch.runs.length) ||
  d.xch.runs.any fun y => y.cmd.kind == x.kind && y.cmd.layerSlot == x.layerSlot && y.cmd.microbatch == x.microbatch

/-- Where an XCHG writes at its issue. -/
def XchgCmd.written (x : XchgCmd) : List (Nat × Nat) :=
  let runs := fun (t : Option Desc) => match t with
    | some t => t.runs
    | none => []
  runs x.dst ++ runs x.aux2 ++ [(x.status, 64)]

def State.xchg (s : State) (ev : OpEvents) (kind : Nat) (effect : Decoded → XchgCmd → Bool → ByteSource → Dev → Dev) :
    Host.Outcome State Fault Refusal :=
  s.act fun d => d.issueIf .main fun c => match c.cmd with
    | .xchg x =>
      if x.kind = kind ∧ !d.xchgWaits x then
        some (d.operate s.fuse .main c x.written ev fun src e => effect c x (d.loses ev.blocks) src e)
      else none
    | _ => none

def execDispatch (ev : OpEvents) (s : State) : Host.Outcome State Fault Refusal :=
  s.xchg ev 0 fun c x lost src d => d.moveEffect c x lost src

def execXchgReturn (ev : OpEvents) (s : State) : Host.Outcome State Fault Refusal :=
  s.xchg ev 1 fun c x lost src d => d.moveEffect c x lost src

def execCombine (ev : OpEvents) (s : State) : Host.Outcome State Fault Refusal :=
  s.xchg ev 2 fun c x lost src d => d.combineEffect c x lost src

def execGradDispatch (ev : OpEvents) (s : State) : Host.Outcome State Fault Refusal :=
  s.xchg ev 3 fun c x lost src d => d.moveEffect c x lost src

def execGradReturn (ev : OpEvents) (s : State) : Host.Outcome State Fault Refusal :=
  s.xchg ev 4 fun c x lost src d => d.moveEffect c x lost src

/-! READY and DATA (R197, R199, R209, R210). -/

def readyOf (b : List Byte) : ReadyMsg := ⟨u8 b 1, u16 b 4, u16 b 6, u16 b 8, u16 b 0xA, u32 b 0xC, zeros b 2 2⟩

/-- A READY of an XCHG that ended with a fault (R209). -/
def Dev.lateReady (d : Dev) (r : ReadyMsg) : Bool := d.xch.ended.contains ⟨r.kind, r.layer, r.microbatch, r.step⟩

/-- A READY no XCHG runs for: discarded where its XCHG ended with a fault, else kept, or left in its buffer while 64 are (R197,
R209). -/
def Dev.keepReady (d : Dev) (m : Packet) (r : ReadyMsg) : Dev :=
  if d.lateReady r then d.takePacket m
  else if d.xch.readys.length < 64 then
    let d := d.takePacket m
    { d with xch := { d.xch with readys := d.xch.readys ++ [r] } }
  else d

/-- `blocks` are the reads of the rows that the READY releases (R117, R208). -/
def execReady (m : Packet) (s : State) (blocks : List BlockFinding := []) : Host.Outcome State Fault Refusal :=
  s.act fun d =>
    if d.has m && m.cls == 1 && u8 m.body 0 == 9 then
      let r := readyOf m.body
      match d.xchgRun r.kind r.layer r.microbatch with
      | some x =>
        let e := (d.found [] blocks).takePacket m
        if d.loses blocks then e.endXchg x 8 0xFFFF else e.takeReady x r
      | none => d.keepReady m r
    else d

/-- The fields of a DATA packet match this member's XCHG (R195, R208 FIELD). -/
def XchgRun.fieldsOk (x : XchgRun) (b : List Byte) : Bool :=
  u8 b 2 == 0 && u8 b 3 == x.cmd.format && decide (u16 b 0xC < 0x4000) && u8 b 0xE == x.cmd.expField && u8 b 0xF == 0 &&
    u32 b 0x18 == x.width && zeros b 0x1C 4 && decide (32 + u32 b 0x14 * wireBytes x.cmd.format x.width ≤ b.length)

/-- The rows of a packet as expected rows; none where one is not expected of its sender (R208 RANGE). -/
def XchgRun.places (x : XchgRun) (sender expert first : Nat) : Nat → Option (List Nat)
  | 0 => some []
  | n + 1 =>
    match x.places sender expert first n, x.expected.find? fun e => e.peer = sender ∧ e.expert = expert ∧ e.row = first + n with
    | some ps, some e => some (ps ++ [e.place])
    | _, _ => none

/-- A DATA packet of a running XCHG; `lost` says that the write of a row met a lost block (R208). DEDUCED, log entry 24. -/
def Dev.takeData (d : Dev) (x : XchgRun) (b : List Byte) (lost : Bool) : Dev :=
  let sender := u16 b 8
  if u16 b 0xA ≠ x.step % 65536 then d.putXchg { x with stale := x.stale + 1 }
  else if !x.fieldsOk b then d.endXchg x 2 sender
  else if !(x.expected.any fun e => e.peer = sender) then d.endXchg x 5 sender
  else
    match x.places sender (u16 b 0xC) (u32 b 0x10) (u32 b 0x14), x.cmd.dst with
    | some ps, some t =>
      if ps.any fun p => x.got.contains p then d.endXchg x 4 sender
      else
        let w := wireBytes x.cmd.format x.width
        let d := d.write ((ps.zipIdx.map fun p => t.placeRow p.1 ((b.drop (32 + w * p.2)).take w)).flatten)
        let x : XchgRun := { x with received := x.received + ps.length, got := ps ++ x.got }
        if lost then d.endXchg x 8 0xFFFF else d.putXchg x
    | _, _ => d.endXchg x 3 sender

/-- Where an XCHG's rows land. -/
def XchgRun.buffer (x : XchgRun) : List (Nat × Nat) :=
  match x.cmd.dst with
  | some t => t.runs
  | none => []

/-- DATA with no XCHG of its kind in flight belongs to one that has ended: discarded (R209). `blocks` are the read halves of the
partial writes it brings (R117). -/
def execData (m : Packet) (s : State) (blocks : List BlockFinding := []) : Host.Outcome State Fault Refusal :=
  s.act fun d =>
    if d.has m && m.cls == 1 && u8 m.body 0 == 8 then
      match d.xchgRun (u8 m.body 1) (u16 m.body 4) (u16 m.body 6) with
      | some x => ((d.found x.buffer blocks).takePacket m).takeData x m.body (d.loses blocks)
      | none => d.takePacket m
    else d

/-! Completion (R201, R205, R208). -/

/-- The visit tally of a DISPATCH (R205). DEDUCED, log entry 24. -/
def Dev.addTally (d : Dev) (x : XchgRun) : Dev :=
  if x.cmd.kind = 0 ∧ x.cmd.tally ≠ 0 then
    let rows := (recordAt d.src (d.recordAddr x.cmd.layerSlot x.cmd.microbatch)).rows
    d.writeAt x.cmd.tally ((rows.zipIdx.map fun r => natBytes 4 (readNat d.src (x.cmd.tally + 4 * r.2) 4 + r.1)).flatten)
  else d

/-- Every row owed has been accepted by the ports and every row expected has come. -/
def Dev.xchgOver (d : Dev) (x : XchgRun) : Bool :=
  x.queue.isEmpty && !d.queued x.id && x.received == x.expected.length

/-- The XCHG of a kind and record in flight. -/
def Dev.xchgOf (d : Dev) (kind layerSlot microbatch : Nat) : Option XchgRun :=
  d.xch.runs.find? fun x => x.cmd.kind = kind ∧ x.cmd.layerSlot = layerSlot ∧ x.cmd.microbatch = microbatch

/-- `blocks` are the reads of the record and the partial writes of the tally and the status record (R117, R205). -/
def execXchgComplete (kind layerSlot microbatch : Nat) (s : State) (blocks : List BlockFinding := []) :
    Host.Outcome State Fault Refusal :=
  s.act fun d => match d.xchgOf kind layerSlot microbatch with
    | some x =>
      if d.xchgOver x then
        ((d.found [(x.cmd.status, 64), (x.cmd.tally, 512)] blocks).addTally x).endXchg x (if d.loses blocks then 8 else 1) 0xFFFF
      else d
    | none => d

/-- The package an XCHG that is not complete waits for: a peer whose READY has not come, else one whose rows have not (R208,
R391). DEDUCED, log entry 24. -/
def XchgRun.silent (x : XchgRun) : Nat :=
  ((x.queue.head?.map (·.peer)).orElse fun _ =>
    (x.expected.find? fun e => !x.got.contains e.place).map (·.peer)).getD 0xFFFF

/-- DEDUCED, log entry 24. -/
def execXchgTimeout (kind layerSlot microbatch : Nat) (s : State) : Host.Outcome State Fault Refusal :=
  s.act fun d => match d.xchgOf kind layerSlot microbatch with
    | some x =>
      let us := if x.cmd.timeoutUs = 0 then max 1 (d.fld Reg.cmpTimeout 19 0) else x.cmd.timeoutUs
      if d.overdue x.issued us ∧ !d.xchgOver x then d.endXchg x 7 x.silent else d
    | none => d

end Sys2Proof.Machine
end

