-- ==== Sys2Proof/Machine/Pipeline.lean ====
section
/-! DEFINITION. Pipeline stages: SEND and its engine, class 2 blocks landing in a Hinge, STOP and GO, RELEASE, drain
(12_pipeline_hinges.md). -/
namespace Sys2Proof.Machine

/-! Sending (R295 to R297, R300, R308). -/

/-- The 12-byte header of a class 2 block (R297). -/
def SendCmd.header (c : SendCmd) (self step offset : Nat) (last : Bool) : List Byte :=
  natBytes 1 c.hinge ++ natBytes 1 (if last then 1 else 0) ++ natBytes 2 c.microbatch ++ natBytes 2 step ++ natBytes 2 self ++
    natBytes 4 offset

/-- The payloads of a packet by OFFSET div 232. -/
def SendCmd.payloads (c : SendCmd) (self step : Nat) (bytes : List Byte) : List (List Byte) :=
  let n := ceilDiv c.length 232
  (List.range n).map fun i => c.header self step (232 * i) (i + 1 == n) ++ (bytes.drop (232 * i)).take 232

/-- The blocks of a packet sent, each on the stripe of its offset (R325, R379, R380). -/
def Dev.sendPipeline (d : Dev) (dest owner : Nat) (payloads : List (List Byte)) : Dev :=
  let n := d.stripesTo 2 dest
  (payloads.foldl (fun (acc : Nat × Dev) p =>
    let i := acc.1
    let d := acc.2.digestOut i [p]
    (i + 1, match d.govern 2 with
      | none => d.notAccepted owner 1
      | some slot =>
        if dest = d.self then { d with cht := { d.cht with loop := d.cht.loop ++ [⟨36, d.self, 2, i % n, slot, p⟩] } }
        else if d.skyMode ≠ 0 then d
        else d.forward (mkBlock ⟨2, i + 1 == payloads.length, false, slot, i % n, 0, d.self, dest, 0, 0⟩ p) owner)) (0, d)).2

def Dev.putSend (d : Dev) (r : SendRun) : Dev :=
  { d with snd := { d.snd with runs := d.snd.runs.map fun x => if x.id = r.id then r else x } }

def SendRun.onStream (r : SendRun) (dest hinge : Nat) : Bool := r.cmd.dest == dest && r.cmd.hinge == hinge

/-- The SEND at the head of a stream goes to the ports. DEDUCED and DESIGN CHOICE, log entry 32. -/
def Dev.startSend (d : Dev) (dest hinge : Nat) : Dev :=
  match d.snd.runs.find? fun r => r.onStream dest hinge with
  | some r =>
    if r.going then d
    else
      let bytes := readBytes d.src r.cmd.source r.cmd.length
      (d.putSend { r with going := true }).sendPipeline dest r.id (r.cmd.payloads d.self d.step bytes)
  | none => d

/-- Blocks of a SEND that its ports have not accepted. -/
def Dev.unsent (d : Dev) (owner : Nat) : Nat :=
  d.cht.stuck.count owner + listSum (d.ports.map fun p => listSum (p.queues.map fun q => (q.filter fun x => x.owner = owner).length))

/-- The 32-byte status record. -/
def SendRun.status (r : SendRun) (status blocks : Nat) (done : Dword) : List Byte :=
  natBytes 1 status ++ natBytes 3 0 ++ natBytes 4 blocks ++ natBytes 4 r.stops ++ natBytes 4 0 ++ natBytes 8 r.stamp.toNat ++
    natBytes 8 done.toNat

/-- A SEND ended: its unsent blocks dropped, its status written, its counter raised; a failure recorded (R308). -/
def Dev.closeSend (d : Dev) (r : SendRun) (status : Nat) : Dev :=
  let sent := if r.going then r.blocks - d.unsent r.id else 0
  let snd : SndState := { d.snd with runs := d.snd.runs.filter fun x => x.id ≠ r.id }
  let ports : List Port := d.ports.map fun p => { p with queues := p.queues.map fun q => q.filter fun x => x.owner ≠ r.id }
  let d : Dev := { d with snd := snd, ports := ports, cht := { d.cht with stuck := d.cht.stuck.filter (· ≠ r.id) } }
  let d := (d.writeAt r.cmd.status (r.status status sent d.stamp)).notifyCounter r.cmd.counter
  if status = 2 ∨ status = 3 then
    (d.record (d.faultRec (hngPage r.cmd.hinge) 0xFFFF status r.tag r.cmd.status (natBytes 2 r.cmd.dest ++
      natBytes 2 r.cmd.microbatch))).bad
  else d

/-- A SEND ended, and the next of its stream begun. DEDUCED and DESIGN CHOICE, log entry 32. -/
def Dev.endSend (d : Dev) (r : SendRun) (status : Nat) : Dev :=
  (d.closeSend r status).startSend r.cmd.dest r.cmd.hinge

/-- A SEND waits at issue (R296). -/
def Dev.sendWaits (d : Dev) (c : SendCmd) : Bool :=
  decide (32 ≤ d.snd.runs.length ∨ 8 ≤ (d.snd.runs.filter fun r => r.onStream c.dest c.hinge).length)

def Dev.sendEffect (d : Dev) (c : Decoded) (s : SendCmd) (lost : Bool) : Dev :=
  let n := d.newRun
  let run : SendRun := ⟨n.1, false, s, c.tag, d.now, d.stamp, ceilDiv s.length 232, 0, lost⟩
  let d : Dev := { n.2.writeAt s.status (run.status 0 0 0#64) with snd := { n.2.snd with runs := n.2.snd.runs ++ [run] } }
  if lost then d.endSend run 3 else d.startSend s.dest s.hinge

def execSend (ev : OpEvents) (s : State) : Host.Outcome State Fault Refusal :=
  s.act fun d => d.issueIf .main fun c => match c.cmd with
    | .send x =>
      if d.sendWaits x then none
      else some (d.operate s.fuse .main c [(x.status, 32)] ev fun _ e => e.sendEffect c x (d.loses ev.blocks))
    | _ => none

def Dev.sendRun (d : Dev) (id : Nat) : Option SendRun := d.snd.runs.find? fun r => r.id = id

/-- Every block of a SEND has been accepted by the ports. -/
def Dev.sendOver (d : Dev) (r : SendRun) : Bool := r.going && !d.queued r.id

/-- `blocks` are the blocks of SOURCE as they were read (R117, R308). -/
def execSendComplete (id : Nat) (s : State) (blocks : List BlockFinding := []) : Host.Outcome State Fault Refusal :=
  s.act fun d => match d.sendRun id with
    | some r =>
      if d.sendOver r then (d.found [(r.cmd.status, 32)] blocks).endSend r (if d.loses blocks then 3 else 1) else d
    | none => d

def execSendTimeout (id : Nat) (s : State) : Host.Outcome State Fault Refusal :=
  s.act fun d => match d.sendRun id with
    | some r =>
      if d.overdue r.issued (if r.cmd.timeoutUs = 0 then 100000 else r.cmd.timeoutUs) ∧ !d.sendOver r then d.endSend r 2 else d
    | none => d

/-! STOP and GO at the sender (R300, R305). -/

/-- A stale block or message (R305, R309). -/
def Dev.hngStaleOne (d : Dev) (i : Nat) : Dev :=
  if i < 16 then (d.addSat (Reg.hngStale i) 1).raise (hngPage i) 4 else d

/-- A SEQ newer than the last applied, modulo 2^16. -/
def newerSeq (last : Option Nat) (seq : Nat) : Bool :=
  match last with
  | none => true
  | some l => let k := (65536 + seq - l) % 65536
    decide (1 ≤ k ∧ k < 32768)

/-- A STOP or GO applied to a stream. -/
def Dev.pauseStream (d : Dev) (dest hinge seq : Nat) (stop : Bool) : Dev :=
  let s := (d.snd.streams.find? fun s => s.dest = dest ∧ s.hinge = hinge).getD ⟨dest, hinge, none, false⟩
  if !newerSeq s.lastSeq seq then d
  else
    let d := match stop && !s.stopped, d.snd.runs.find? fun r => r.onStream dest hinge with
      | true, some r => d.putSend { r with stops := r.stops + 1 }
      | _, _ => d
    { d with snd := { d.snd with streams :=
      ⟨dest, hinge, some seq, stop⟩ :: d.snd.streams.filter fun s => !(s.dest = dest ∧ s.hinge = hinge) } }

def State.pause (s : State) (m : Packet) (type : Nat) : Host.Outcome State Fault Refusal :=
  s.act fun d =>
    if d.has m && m.cls == 0 && u8 m.body 0 == type then
      let d := d.takePacket m
      if u16 m.body 6 ≠ d.step % 65536 then d.hngStaleOne (u8 m.body 1)
      else d.pauseStream (u16 m.body 4) (u8 m.body 1) (u16 m.body 2) (type == 26)
    else d

def execStop (m : Packet) (s : State) : Host.Outcome State Fault Refusal := s.pause m 26

def execGo (m : Packet) (s : State) : Host.Outcome State Fault Refusal := s.pause m 27

/-! The Hinge (R298 to R305). -/

/-- STOP or GO sent to a Hinge's sender (R300). -/
def Dev.tellSender (d : Dev) (i : Nat) (stop : Bool) : Dev :=
  let h := d.hinge i
  let seq := (h.seq + 1) % 65536
  let d := d.setHinge i { h with seq := seq, stopped := stop }
  let d := if stop then (d.addSat (Reg.hngStops i) 1).raise (hngPage i) 1 else d.raise (hngPage i) 2
  let free := min ((d.hngCap i - h.occ) / 256) 0xFFFFFFFF
  d.sendControl (d.fld (Reg.hngSource i) 15 0) (natBytes 1 (if stop then 26 else 27) ++ natBytes 1 i ++ natBytes 2 seq ++
    natBytes 2 d.self ++ natBytes 2 d.step ++ natBytes 4 free ++ natBytes 4 0)

/-- STOP where too little is free; GO where enough is free again. -/
def Dev.regulate (d : Dev) (i : Nat) : Dev :=
  let h := d.hinge i
  let free := d.hngCap i - h.occ
  let skid := (d.reg (Reg.hngSkid i)).toNat
  if free < skid ∧ !h.stopped then d.tellSender i true else d

def Dev.unregulate (d : Dev) (i : Nat) : Dev :=
  let h := d.hinge i
  if (d.reg (Reg.hngSkid i)).toNat ≤ d.hngCap i - h.occ ∧ h.stopped then d.tellSender i false else d

/-- Packets become complete in ascending micro-batch order (R298, R299); `fuel` bounds their number. -/
def Dev.completePackets : Nat → Dev → Nat → Dev
  | 0, d, _ => d
  | n + 1, d, i =>
    let h := d.hinge i
    match h.landings.find? fun x => x.microbatch = h.next with
    | some x =>
      if x.bytes = d.hngBytes i ∧ !x.lost then
        let d := d.setHinge i { h with
          landings := h.landings.filter fun y => y.microbatch ≠ x.microbatch
          next := h.next + 1
          held := h.held ++ [x.microbatch] }
        Dev.completePackets n ((d.addWrap (Reg.hngPackets i) 1).raise (hngPage i) 0) i
      else d
    | none => d

/-- The data bytes of the block at an offset of a packet. -/
def blockData (slotBytes offset : Nat) : Nat := min 232 (slotBytes - offset)

/-- A block landed (R298, R299, R300). -/
def Dev.land (d : Dev) (i mb offset : Nat) (data : List Byte) : Dev :=
  let h := d.hinge i
  let n := blockData (d.hngBytes i) offset
  let d := d.writeAt (d.hngBase i + mb % max 1 (d.hngSlotCount i) * d.hngBytes i + offset) (data.take n)
  let old := (h.landings.find? fun x => x.microbatch = mb).getD ⟨mb, [], 0, false⟩
  let d := d.setHinge i { h with
    occ := h.occ + n
    landings := { old with blocks := offset / 232 :: old.blocks, bytes := old.bytes + n } ::
      h.landings.filter fun x => x.microbatch ≠ mb }
  (((d.completePackets 256 i).regulate i).showHinge i)

/-- A block that would land in an occupied slot (R302). -/
def Dev.overrunBlock (d : Dev) (i mb : Nat) : Dev :=
  let h := d.hinge i
  let old := (h.landings.find? fun x => x.microbatch = mb).getD ⟨mb, [], 0, true⟩
  let d := d.setHinge i { h with landings := { old with lost := true } :: h.landings.filter fun x => x.microbatch ≠ mb }
  (d.setFlag (Reg.hngStatus i) 19 true).hngFault i 1 mb

/-- A block offered to Hinge i (R298 to R305, R309). DEDUCED and DESIGN CHOICE, log entry 32. -/
def Dev.hingeBlock (d : Dev) (i : Nat) (b : List Byte) : Dev :=
  let h := d.hinge i
  let mb := u16 b 2
  let offset := u32 b 8
  let size := d.hngBytes i
  let slots := max 1 (d.hngSlotCount i)
  let last := (u8 b 1).testBit 0
  let same := h.landings.find? fun x => x.microbatch = mb
  let again : Bool := match same with
    | some x => x.blocks.contains (offset / 232)
    | none => false
  let taken := (h.held ++ (h.landings.filter fun x => !x.blocks.isEmpty).map (·.microbatch)).any fun x =>
    x != mb && x % slots == mb % slots
  if !d.active (hngPage i) ∨ u16 b 4 ≠ d.step % 65536 then d.hngStaleOne i
  else if u16 b 6 ≠ d.fld (Reg.hngSource i) 15 0 then d.hngFault i 5 mb
  else if mb < h.next || again then d.hngFault i 4 mb
  else if offset % 232 ≠ 0 ∨ size ≤ offset ∨ last ≠ decide (size ≤ offset + 232) then d.hngFault i 3 mb
  else if taken then d.overrunBlock i mb
  else d.land i mb offset (b.drop 12)

/-- The ring of a Hinge. -/
def Dev.hngRing (d : Dev) (i : Nat) : List (Nat × Nat) := [(d.hngBase i, d.hngCap i)]

/-- `blocks` are the read halves of the partial writes it brings (R117). -/
def execPipelineBlock (m : Packet) (s : State) (blocks : List BlockFinding := []) : Host.Outcome State Fault Refusal :=
  s.act fun d =>
    if d.has m && m.cls == 2 then
      let i := u8 m.body 0
      if i < 16 then ((d.found (d.hngRing i) blocks).takePacket m).hingeBlock i m.body else (d.takePacket m).stray
    else d

/-- RELEASE (R303). -/
def Dev.releaseHead (d : Dev) (i mb : Nat) : Dev :=
  let h := d.hinge i
  match h.held with
  | [] => (d.setFlag (Reg.hngStatus i) 20 true).hngFault i 2 mb
  | x :: rest =>
    if x ≠ mb then d.hngFault i 4 mb
    else ((d.setHinge i { h with held := rest, occ := h.occ - d.hngBytes i }).unregulate i).showHinge i

def execRelease (s : State) : Host.Outcome State Fault Refusal :=
  s.act fun d => d.issueIf .main fun c => match c.cmd with
    | .release i mb => some (d.instant .main c fun d => d.releaseHead i mb)
    | _ => none

/-- The leg that ends forward/backward finds bytes left in a Hinge (R305). -/
def Dev.residue (d : Dev) : Dev :=
  (List.range 16).foldl (fun d i =>
    let h := d.hinge i
    if h.occ = 0 then d else d.hngFault i 6 ((h.held ++ h.landings.map (·.microbatch)).headD 0)) d

/-- Micro-batches are numbered from 0 in each step (R293). DEDUCED and DESIGN CHOICE, log entry 32. -/
def Dev.hingesBegin (d : Dev) : Dev := { d with hng := d.hng.map fun h => { h with next := 0 } }

/-! Drain (R294, R308). -/

/-- The conditions of ACTIVE (R294). -/
def Dev.hingeOk (d : Dev) (i : Nat) : Bool :=
  let slots := d.hngSlotCount i
  let bytes := d.hngBytes i
  decide (2 ≤ slots ∧ bytes ≠ 0 ∧ (d.reg (Reg.hngSkid i)).toNat ≤ d.hngCap i - bytes) && inJob (d.hngBase i) (d.hngCap i)

/-- A Hinge's contents discarded. -/
def Dev.emptyHinge (d : Dev) (i : Nat) : Dev :=
  let h := d.hinge i
  let d := d.setHinge i { h with landings := [], next := 0, held := [], occ := 0 }
  let d := if h.stopped then d.tellSender i false else d
  (d.setFld (Reg.hngStatus i) 20 19 0).showHinge i

/-- Every SEND in flight abandoned, once every page has drained. -/
def Dev.abandonSends (d : Dev) : Dev :=
  if (List.range 16).all fun i => d.ready (hngPage i) then
    d.snd.runs.foldl (fun d r => d.closeSend r 4) d
  else d

end Sys2Proof.Machine
end

