-- ==== Sys2Proof/Machine/Regs.lean ====
section
/-! DEFINITION. Writes to registers under their access codes, and in which states a page takes them (R5, R163, R189, R271, R289,
R309, R360, R389, R488). -/
namespace Sys2Proof.Machine

/-- The register at an address takes writes to the field at bit `lo` in the state its page is in. -/
def Dev.takesWrite (d : Dev) (addr lo : Nat) : Bool :=
  match pageOf addr with
  | none => false
  | some (p, off) =>
    let ready := d.ready p
    match p.type with
    | .seq => (off < 0x040 || 0x060 ≤ off || off == 0x050) || ready || d.code p == 7
    | .cmp => !(0x044 ≤ off && off ≤ 0x050) || ready
    | .hlm => !((0x058 ≤ off && off ≤ 0x060) || (off == 0x064 && lo == 0) || (0x070 ≤ off && off ≤ 0x078)) || ready
    | .sxt => !(0x044 ≤ off && off ≤ 0x060) || ready
    | .hng => !(0x040 ≤ off && off ≤ 0x054) || ready
    | .log => !(0x068 ≤ off && off ≤ 0x07C) || ready
    | .sky => !((off == 0x040 && lo == 0) || (0x04C ≤ off && off ≤ 0x058)) || ready
    | _ => true

/-- A register's word after a write to one of its fields (R5, R488): RW takes an encoding the field admits, or the nearer limit, W1C clears, W1S
sets; a write to a field of any other code has its effect, where it has one, by the rule that names it.
DEDUCED, log entry 44. -/
def writeField (w v : Word) (f : RegField) : Word :=
  let x := bits v f.hi f.lo
  match f.acc with
  | .rw =>
    if f.least ≤ x ∧ x ≤ f.most then setBits w f.hi f.lo (max f.floor x)
    else if f.near then setBits w f.hi f.lo (max f.least (min f.most x))
    else w
  | .w1c => setBits w f.hi f.lo (bits (w &&& ~~~v) f.hi f.lo)
  | .w1s => setBits w f.hi f.lo (bits (w ||| v) f.hi f.lo)
  | .ro | .wo | .rwo => w

/-- The fields of the register at an address: of its page's header or of its block registers; none where it is reserved. -/
def fieldsAt (addr : Nat) : List RegField :=
  match pageOf addr with
  | none => []
  | some (p, off) =>
    match rowAt (if off < 0x040 then headerRows else blockRows p.type p.inst) off with
    | some r => r.fields
    | none => []

/-- A write to a register under its access codes. DEDUCED, log entry 44. -/
def Dev.store (d : Dev) (addr : Nat) (v : Word) : Dev :=
  d.setReg addr ((fieldsAt addr).foldl (fun w f => if d.takesWrite addr f.lo then writeField w v f else w) (d.reg addr))

/-- A hart that makes accesses: a held one makes none, none is made while reset stands, and harts 0 to 23 halt from shed level 4
on (R409, R433, R438). DESIGN CHOICE, log entry 45. -/
def State.liveHart (s : State) (hart : Nat) : Option Hart :=
  match s.harts[hart]? with
  | some h => if s.carrier.phase = .running ∧ h.released ∧ (s.dev.pwr.level < 4 ∨ 24 ≤ hart) then some h else none
  | none => none

/-- What a hart's access does to the device proper. DESIGN CHOICE, log entry 45. -/
def State.byHart (s : State) (hart : Nat) (f : Dev → Dev) : State :=
  match s.liveHart hart with
  | some _ => { s with dev := f s.dev }
  | none => s

end Sys2Proof.Machine
end

