-- ==== Sys2Proof/Machine/Fabric.lean ====
section
/-! DEFINITION. Fabric ports: training, link blocks in both directions, link control words, remote writes, capture and its replay
(13_fabric_and_charts.md, R378, R379). -/
namespace Sys2Proof.Machine

def chtPage : Page := page1 .cht

/-! Training (R313, R323, R336). -/

/-- What a port loses with its link: the blocks in its retry buffer and input buffers, those that wait there to pass on among them
(R313). A remote write that loses a block is never acknowledged. -/
def Dev.loseLink (d : Dev) (q : Nat) : Dev :=
  let owned := fun (id : Nat) => (d.port q).retry.any fun x => x.owner = id
  let d : Dev := { d with ports := d.ports.map fun p => { p with
    queues := p.queues.map fun xs => xs.filter fun x => x.via ≠ some q } }
  let d := d.setPort q fun p => { p with
    retry := [], resendFrom := none, retraining := false, flows := [], ready := [], nak := false, nakDue := false }
  { d with cht := { d.cht with post := d.cht.post.map fun r => { r with lost := r.lost || owned r.id } } }

/-- A port enters FAULT; REASON is 0 where the rule names none. DEDUCED and DESIGN CHOICE, log entry 34. -/
def Dev.portFault (d : Dev) (q reason : Nat) : Dev :=
  let page := fabPage q
  let d := d.setFld (Reg.fabPeer q) 30 28 reason
  let d := if d.active page then d.raise page 1 else d
  (d.loseLink q).pageFault page

/-- A port starts to train afresh. -/
def Dev.trainPort (d : Dev) (q : Nat) : Dev :=
  let d := (d.setReg (Reg.fabPeer q) 0#32).setPort q fun _ => Port.reset
  d.moveTo (fabPage q) 1

/-- Blocks of a class leave a port's buffer: their credits return, and they count for R385. -/
def Dev.leaveBuffer (d : Dev) (q cls n : Nat) : Dev :=
  let d := d.setPort q fun p => { p with returns := p.returns.set cls (p.returns.getD cls 0 + n) }
  { d with sky := { d.sky with takenBlocks := d.sky.takenBlocks + (if cls = 0 then 0 else n) } }

/-- A queued block that waited in another port's buffer leaves that buffer. -/
def Dev.freeVia (d : Dev) (x : Queued) : Dev :=
  match x.via with
  | some v => d.leaveBuffer v (hdrOf x.block).cls 1
  | none => d

/-- The blocks that wait for a port discarded with it (R324). -/
def Dev.dropQueues (d : Dev) (q : Nat) : Dev :=
  ((d.port q).queues.flatten).foldl (fun d x => (d.freeVia x).notAccepted x.owner 1) d

/-- A port is switched off. -/
def Dev.portOff (d : Dev) (q : Nat) : Dev :=
  let page := fabPage q
  let d := if d.active page then d.raise page 1 else d
  let d := ((d.dropQueues q).loseLink q).setPort q fun _ => Port.reset
  let d := (d.setFlag (Reg.fabPeer q) 31 false).setFld (Reg.fabLanes q) 7 0 0
  d.moveTo page 0

/-- A package in FAULT trains no port (R413). -/
def execFabEnableWrite (hart : Fin 28) (port : Fin 36) (value : Word) (s : State) : Host.Outcome State Fault Refusal :=
  .next (s.byHart hart fun d =>
    let a := Reg.fabCtrl port
    if d.number = 0xFFFF then d
    else
      let was := d.flag a 0
      let d := d.store a value
      match was, d.flag a 0 with
      | false, true => if d.halted then d else d.trainPort port
      | true, false => d.portOff port
      | _, _ => d)

/-- A port begins to retrain: it keeps its retry buffer and its sequence numbers.
DESIGN CHOICE, log entry 33. -/
def Dev.retrain (d : Dev) (q : Nat) : Dev := d.setPort q fun p => { p with
  retraining := true, attempts := 0, retry := p.retry.map fun x => { x with again := 0 } }

/-- A training attempt has succeeded. -/
def Dev.trained (d : Dev) (q package port : Nat) : Dev :=
  let page := fabPage q
  let again := (d.port q).retraining
  if package = d.number then d.portFault q 3
  else
    let d := d.setReg (Reg.fabPeer q) (BitVec.ofNat 32 (package % 65536 + 0x10000 * (port % 64) + 0x80000000))
    let d := d.setFld (Reg.fabLanes q) 7 0 0xFF
    let d := d.setPort q fun p => { p with
      attempts := 0, retraining := false, slot := 0
      run := if p.retry.isEmpty then p.run else p.run + 1
      resendFrom := if p.retry.isEmpty then none else some 0 }
    if again then (d.addSatFld (Reg.fabLanes q) 31 16 1).raise page 3
    else (d.moveTo page 2).raise page 0

/-- A training attempt has failed: the third in succession puts the port in FAULT. -/
def Dev.trainFailed (d : Dev) (q : Nat) : Dev :=
  let p := d.port q
  if p.attempts < 2 then d.setPort q fun p => { p with attempts := p.attempts + 1 }
  else if p.retraining then
    let d := d.portFault q 2
    d.record (d.faultRec (fabPage q) 0xFFFF 2 0#32 0 (natBytes 4 (d.reg (Reg.fabPeer q)).toNat))
  else d.portFault q 1

/-- DESIGN CHOICE, log entry 7. -/
def execTrainingAttemptEnd (port : Fin 36) (result : Training) (s : State) : Host.Outcome State Fault Refusal :=
  s.act fun d =>
    if !d.halted && (d.ready (fabPage port) || (d.active (fabPage port) && (d.port port).retraining)) then
      match result with
      | .trained package peer => d.trained port package peer
      | .failed => d.trainFailed port
    else d

def execLaneLockLoss (port : Fin 36) (lanes : BitVec 8) (s : State) : Host.Outcome State Fault Refusal :=
  s.act fun d =>
    if d.active (fabPage port) && lanes != 0#8 then
      let d := d.setFld (Reg.fabLanes port) 7 0 (BitVec.ofNat 8 (d.fld (Reg.fabLanes port) 7 0) &&& ~~~lanes).toNat
      if (d.port port).retraining then d else d.retrain port
    else d

def execParkWord (port : Fin 36) (s : State) : Host.Outcome State Fault Refusal :=
  s.act fun d => if d.active (fabPage port) then d.portFault port 0 else d

/-! Reception (R316, R319, R322, R324, R326). -/

/-- A port sends and receives: trained, not retraining, in a package that takes part in its fabric. -/
def Dev.linked (d : Dev) (q : Nat) : Bool := d.active (fabPage q) && !(d.port q).retraining && !d.halted

/-- A packet stands received at a port, or among the replayed ones. -/
def Dev.arrive (d : Dev) (m : Packet) : Dev :=
  if m.port = 36 then { d with cht := { d.cht with loop := d.cht.loop ++ [m] } }
  else d.setPort m.port fun p => { p with ready := p.ready ++ [m] }

/-- A block of class 1 or 3 in its flow: the flows after it, and the packet it closes, with its Chart slot (R326). -/
def joinFlow (fs : List OpenFlow) (h : Hdr) (payload : List Byte) : List OpenFlow × Option (Nat × List Byte) :=
  let same := fun (f : OpenFlow) => f.src == h.src && f.cls == h.cls && f.stripe == h.stripe
  let f := match fs.find? same with
    | some f => { f with body := f.body ++ payload }
    | none => ⟨h.src, h.cls, h.stripe, h.chart, payload⟩
  let rest := fs.filter fun f => !same f
  if h.last then (rest, some (f.chart, f.body)) else (f :: rest, none)

/-- A class 0 message type that some unit takes (R317). -/
def controlType (t : Nat) : Bool := t == 22 || t == 26 || t == 27 || t == 30 || (32 ≤ t && t ≤ 38)

/-- A VOID block arrived (R322). -/
def Dev.voidArrived (d : Dev) (q : Nat) (h : Hdr) (type : Nat) : Dev :=
  let page := fabPage q
  let d := d.addSat (Reg.fabC0Void q) 1
  d.raiseLogged page 4 h.src (natBytes 1 type)

/-- What the blocks of classes 2 and 4 bring their unit: each its payload, class 4 with LAST behind it (R297, R334). -/
def singleBody (h : Hdr) (payload : List Byte) : List Byte :=
  if h.cls = 4 then payload ++ natBytes 1 (if h.last then 1 else 0) else payload

/-- A block addressed to this package, accepted at a port.
DEDUCED and DESIGN CHOICE, log entry 34. DEDUCED, log entry 35. -/
def Dev.deliver (d : Dev) (q : Nat) (b : Block) : Dev :=
  let h := hdrOf b
  let payload := payloadOf b
  let m := fun (chart : Nat) (body : List Byte) => (⟨q, h.src, h.cls, h.stripe, chart, body⟩ : Packet)
  if h.cls = 0 then
    let t := u8 payload 0
    let d := if h.void then d.voidArrived q h t else d
    if controlType t then d.arrive (m h.chart payload) else (d.leaveBuffer q 0 1).stray
  else if d.sky.flushing then d.leaveBuffer q h.cls 1
  else if d.skyMode ≠ 0 ∧ h.cls ≠ 4 then (d.leaveBuffer q h.cls 1).stray
  else
    let d := d.capture (blockBytes b)
    if h.cls = 2 ∨ h.cls = 4 then d.arrive (m h.chart (singleBody h payload))
    else
      let r := joinFlow (d.port q).flows h payload
      let d := d.setPort q fun p => { p with flows := r.1 }
      match r.2 with
      | some x => d.arrive (m x.1 x.2)
      | none => d.leaveBuffer q h.cls 1

/-- A block passing through: it joins its port's queue and keeps its place in the buffer until that port sends it on, or is
discarded (R319, R324). -/
def Dev.passOn (d : Dev) (q : Nat) (b : Block) : Dev :=
  let h := hdrOf b
  match d.routeOf { h with hops := h.hops + 1 } with
  | some p => d.enqueue p (reheader b fun h => { h with hops := h.hops + 1 }) 0 (some q)
  | none => (d.leaveBuffer q h.cls 1).strayBlock b

/-- A block accepted at a port: delivered here or forwarded (R324). -/
def Dev.acceptBlock (d : Dev) (q : Nat) (b : Block) : Dev :=
  if (hdrOf b).dest = d.number then d.deliver q b else d.passOn q b

/-- A block not accepted: the first of them sends NAK (R316). DESIGN CHOICE, log entry 33. -/
def Dev.refuseBlock (d : Dev) (q : Nat) (bad : Bool) : Dev :=
  let d := if bad then d.addSat (Reg.fabCrcErrors q) 1 else d
  if (d.port q).nak && !bad then d
  else (d.setPort q fun p => { p with nak := true, nakDue := true }).raise (fabPage q) 2

/-- `words` are the lane codewords that ended with the block, as they arrived (R312). -/
def execLinkBlockReceive (port : Fin 36) (block : Block) (s : State) (words : List (List Byte) := []) :
    Host.Outcome State Fault Refusal :=
  s.act fun d =>
    let q := port.val
    if !d.linked q then d
    else
    let d := d.addSat (Reg.fabFecCorrected q) (listSum (words.map fecCorrected))
    if !blockGood block then d.refuseBlock q true
    else
      let seq := (hdrOf block).seq
      if seq ≠ (d.port q).rxSeq then d.refuseBlock q false
      else
        let d := d.addWrap (Reg.fabBlocksRx q) 1
        let d := d.setPort q fun p => { p with rxSeq := (seq + 1) % 4096, accepted := seq, nak := false, nakDue := false }
        d.acceptBlock q block

/-! Link control words (R316, R319). -/

/-- The credits a port can hold of a class. -/
def creditLimit (cls : Nat) : Nat := if cls = 0 then 32 else 512

/-- ACK: the blocks up to it leave the retry buffer. -/
def Port.acked (p : Port) (ack : Nat) : Port :=
  match p.retry.findIdx? fun x => (hdrOf x.block).seq = ack with
  | none => p
  | some i =>
    { p with
      retry := p.retry.drop (i + 1)
      resendFrom := match p.resendFrom with
        | some j => if p.retry.length ≤ i + 1 then none else some (j - (i + 1))
        | none => none }

/-- NAK: a re-send run begins at the expected SEQ. -/
def Port.nakked (p : Port) (expected : Nat) : Port :=
  match p.retry.findIdx? fun x => (hdrOf x.block).seq = expected with
  | none => p
  | some i => { p with resendFrom := some i, run := p.run + 1 }

/-- The credits a control word returns. -/
def Port.credited (p : Port) (cs : List Nat) : Port :=
  { p with credits := (List.range 5).map fun c => min (creditLimit c) (p.credits.getD c 0 + cs.getD c 0) }

def execLinkControlWord (port : Fin 36) (w : ControlWord) (s : State) : Host.Outcome State Fault Refusal :=
  s.act fun d =>
    if !d.linked port then d
    else
      let d := d.setPort port fun p => (p.acked w.ack).credited w.credits
      if w.nak then (d.setPort port fun p => p.nakked w.expected).raise (fabPage port) 2 else d

/-! Transmission (R316, R318, R321, R322, R324). -/

/-- A block of a pipeline stream that its sender holds back (R300). DEDUCED and DESIGN CHOICE, log entry 32. -/
def Dev.heldBack (d : Dev) (x : Queued) : Bool :=
  let h := hdrOf x.block
  h.cls == 2 && h.src == d.number &&
    d.snd.streams.any fun s => s.stopped && s.dest == h.dest && s.hinge == (blockByte x.block 8).toNat

/-- The place in a queue of the next block that may leave it. -/
def Dev.nextQueued (d : Dev) (q cls : Nat) : Option Nat :=
  ((d.port q).queues.getD cls []).findIdx? fun x => !d.heldBack x

/-- The weight of a class: of the Chart that governs it. -/
def Dev.weight (d : Dev) (cls : Nat) : Nat :=
  match (d.governLive cls).bind fun i => d.cht.live.getD i none with
  | some c => max 1 (c.weights.getD (cls - 1) 0)
  | none => 1

/-- Deficit round robin over classes 1 to 4: the class chosen, whose turn follows, and the deficits left.
DESIGN CHOICE, log entry 33. -/
def roundRobin (ready : Nat → Bool) (weight : Nat → Nat) : Nat → Nat → List Nat → Option (Nat × Nat × List Nat)
  | 0, _, _ => none
  | n + 1, c, ds =>
    let after := if c = 4 then 1 else c + 1
    if ready c then
      let x := if ds.getD c 0 = 0 then weight c else ds.getD c 0
      some (c, if x ≤ 1 then after else c, ds.set c (x - 1))
    else roundRobin ready weight n after (ds.set c 0)

/-- A block leaves a queue for the link: its SEQ, VOID where the bound of R321 no longer holds, its credit spent, a copy kept. -/
def Dev.launch (d : Dev) (q cls i : Nat) : Dev :=
  match ((d.port q).queues.getD cls [])[i]? with
  | none => d
  | some x =>
    let p := d.port q
    let b := reheader x.block fun h => { h with
      seq := p.txSeq
      void := h.void || (cls == 0 && (decide (16 ≤ h.hops) || decide (x.run + 1 < p.run))) }
    let d := d.setPort q fun p => { p with
      txSeq := (p.txSeq + 1) % 4096
      retry := p.retry ++ [{ x with block := b, via := none }]
      queues := p.queues.set cls ((p.queues.getD cls []).eraseIdx i)
      credits := p.credits.set cls (p.credits.getD cls 0 - 1)
      wire := [b] }
    let d := d.freeVia x
    { d.addWrap (Reg.fabBlocksTx q) 1 with sky := { d.sky with sentBlocks := d.sky.sentBlocks + (if cls = 0 then 0 else 1) } }

/-- The next block of a re-send run. A block re-sent for the eighth time in succession makes the port retrain.
DESIGN CHOICE, log entry 33. -/
def Dev.resend (d : Dev) (q i : Nat) : Dev :=
  match (d.port q).retry[i]? with
  | none => d.setPort q fun p => { p with resendFrom := none }
  | some x =>
    let d := d.setPort q fun p => { p with
      wire := [x.block]
      retry := p.retry.set i { x with again := x.again + 1 }
      resendFrom := if i + 1 < p.retry.length then some (i + 1) else none }
    let d := d.addSat (Reg.fabResends q) 1
    if x.again + 1 = 8 then d.retrain q else d

/-- What slot k carries. -/
def Dev.slotBlock (d : Dev) (q : Nat) : Dev :=
  let p := d.port q
  let sendable := fun (c : Nat) => (d.nextQueued q c).isSome && decide (0 < p.credits.getD c 0)
  match p.resendFrom with
  | some i => d.resend q i
  | none =>
    if 4095 ≤ p.retry.length then d
    else if p.slot % 32 = 0 then (if sendable 0 then d.launch q 0 0 else d)
    else
      match roundRobin sendable d.weight 4 p.turn p.deficits with
      | some (c, turn, ds) =>
        (d.setPort q fun p => { p with turn := turn, deficits := ds }).launch q c ((d.nextQueued q c).getD 0)
      | none => d

/-- The link control word that follows every 16 slots. DESIGN CHOICE, log entry 33. -/
def Port.controlWord (p : Port) : Port :=
  if p.slot % 16 = 15 then
    { p with control := [⟨p.accepted, p.nakDue, p.rxSeq, p.returns⟩], nakDue := false, returns := [0, 0, 0, 0, 0] }
  else p

def execTransmitSlot (port : Fin 36) (s : State) : Host.Outcome State Fault Refusal :=
  s.act fun d =>
    if !d.linked port then d
    else
      let d := d.setPort port fun p => { p with wire := [], control := [] }
      (d.slotBlock port).setPort port fun p => { p.controlWord with slot := p.slot + 1 }

/-! The replay of a capture (R379). -/

/-- The captured block that a replay offers next, with whether there is one. DEDUCED, log entry 35. -/
def Dev.capturedBlock (d : Dev) : Option Block :=
  let step := d.pair Reg.skyReplayStepLo
  let off := 256 * d.sky.replayPos
  let limit := match d.sky.captures.find? fun c => c.step = step with
    | some c => c.used
    | none => d.captureBytes
  let b := blockOf (readBytes d.src (d.captureAddr step + off) 256)
  if off + 256 ≤ limit ∧ blockGood b then some b else none

def execCaptureReplayBlock (s : State) : Host.Outcome State Fault Refusal :=
  s.act fun d =>
    if d.skyMode = 0 then d
    else
      match d.capturedBlock with
      | none => d
      | some b =>
        let h := hdrOf b
        let payload := payloadOf b
        let next : Dev := { d with sky := { d.sky with replayPos := d.sky.replayPos + 1 } }
        let m := fun (chart : Nat) (body : List Byte) => (⟨36, h.src, h.cls, h.stripe, chart, body⟩ : Packet)
        if h.cls = 0 then next
        else if 512 ≤ (d.cht.loop.filter fun m => m.cls = h.cls).length then d
        else if h.cls = 2 ∨ h.cls = 4 then next.arrive (m h.chart (singleBody h payload))
        else
          let r := joinFlow d.cht.replayFlows h payload
          let next : Dev := { next with cht := { next.cht with replayFlows := r.1 } }
          match r.2 with
          | some x => next.arrive (m x.1 x.2)
          | none => next

/-! Remote writes (R325, R334, R335). -/

/-- The posting ring's slots. -/
def Dev.postSize (d : Dev) : Nat := 2 ^ max 4 (min 16 (d.fld Reg.chtPostSize 15 0))

def Dev.postHead (d : Dev) : Nat := d.fld Reg.chtPostHead 15 0

def Dev.postTail (d : Dev) : Nat := d.fld Reg.chtPostTail 15 0

/-- The head moves on; POST_IDLE where it reaches the tail. -/
def Dev.nextPost (d : Dev) : Dev :=
  let d := d.setFld Reg.chtPostHead 15 0 ((d.postHead + 1) % d.postSize)
  if d.postHead = d.postTail then d.raise chtPage 6 else d

/-- A descriptor that is skipped. DESIGN CHOICE, log entry 36. -/
def postBad (b : List Byte) : Bool :=
  let n := u32 b 4
  !(zeros b 0x18 8 && inJob (u64 b 8) n && inJob (u64 b 0x10) n && n != 0 && n % 4 == 0)

/-- The payloads of a remote write: sub-header and up to 228 bytes of data each. -/
def postPayloads (b data : List Byte) : List (List Byte) :=
  (List.range (ceilDiv data.length 228)).map fun i =>
    natBytes 8 (u64 b 0x10 + 228 * i) ++ (b.drop 2).take 2 ++ natBytes 6 0 ++ (data.drop (228 * i)).take 228

/-- One remote write sent: on the next stripe to its destination; in the witness modes only digested. -/
def Dev.sendPost (d : Dev) (b : List Byte) : Dev :=
  let dest := u16 b 0
  let n := d.newRun
  let d := n.2
  let payloads := postPayloads b (readBytes d.src (u64 b 8) (u32 b 4))
  let slot := (d.governLive 4).getD 0
  let stripes := match (d.cht.live.getD slot none).bind fun c => c.route dest with
    | some r => max 1 r.stripes
    | none => 1
  let k := (((d.cht.stripeNext.find? fun x => x.1 = dest).map (·.2)).getD 0) % stripes
  let d := d.digestOut 0 payloads
  let d : Dev := { d with cht := { d.cht with
    post := some ⟨n.1, false⟩
    stripeNext := (dest, k + 1) :: d.cht.stripeNext.filter fun x => x.1 ≠ dest } }
  if d.skyMode ≠ 0 then d
  else if dest = d.number then
    (payloads.foldl (fun (acc : Nat × Dev) p =>
      let h : Hdr := ⟨4, acc.1 + 1 == payloads.length, false, slot, k, 0, dest, dest, 0, 0⟩
      (acc.1 + 1, acc.2.arrive ⟨36, dest, 4, k, slot, singleBody h (p ++ List.replicate (244 - p.length) 0#8) ++
        natBytes 1 (p.length - 16)⟩)) (0, d)).2
  else d.sendBlocks 4 slot dest k n.1 payloads

/-- Nothing new may be sent in class 4: the barrier of the Chart that governs it has not completed, or a rollback's flush is under
way (R16, R332, R385). -/
def Dev.postsHeld (d : Dev) : Bool := d.cht.unbarred || d.sky.flushing

/-- The most descriptors that the ring holds. -/
def postFuel : Nat := 65536

/-- The engine goes through the ring until a write is on its way; `fuel` bounds the descriptors skipped.
DESIGN CHOICE, log entry 36. -/
def Dev.runPosts : Nat → Dev → Dev
  | 0, d => d
  | n + 1, d =>
    if d.cht.post.isSome ∨ d.postHead = d.postTail ∨ (d.governLive 4).isNone ∨ d.postsHeld then d
    else
      let b := readBytes d.src (d.pair Reg.chtPostBaseLo + 32 * d.postHead) 32
      if postBad b then Dev.runPosts n ((d.addSat Reg.chtPostRejects 1).nextPost) else d.sendPost b

/-- `blocks` are the reads of the descriptors and of the data posted (R117). -/
def execPostTailWrite (hart : Fin 28) (value : Word) (s : State) (blocks : List BlockFinding := []) :
    Host.Outcome State Fault Refusal :=
  .next (s.byHart hart fun d =>
    if d.postSize ≤ bits value 15 0 then d
    else Dev.runPosts postFuel ((d.found [] blocks).store Reg.chtPostTail value))

/-- `blocks` are the reads of the descriptors and of the data that follow (R117). -/
def execPostWriteAcked (s : State) (blocks : List BlockFinding := []) : Host.Outcome State Fault Refusal :=
  s.act fun d => match d.cht.post with
    | some r =>
      if r.lost || d.unacked r.id then d
      else
        let d := d.found [] blocks
        Dev.runPosts postFuel { d with cht := { d.cht with post := none } }.nextPost
    | none => d

/-- The data bytes of a remote-write block: 228; for the last block those its LENGTH leaves where this package sent it to itself,
and else a number that its sub-header does not give and the spec leaves open. DESIGN CHOICE, log entry 36. -/
def Dev.postData (d : Dev) (body : List Byte) : Nat × Dev :=
  if u8 body 244 = 1 then
    match body[245]? with
    | some n => (n.toNat, d)
    | none =>
      let r := d.drawWord
      (4 * (1 + r.1.toNat % 57), r.2)
  else (228, d)

/-- The window of remote writes. -/
def Dev.rwWindow (d : Dev) : List (Nat × Nat) := [(d.pair Reg.chtRwBaseLo, 0x100000 * d.fld Reg.chtRwSize 19 0)]

/-- `blocks` are the read halves of the partial writes it brings (R117). DESIGN CHOICE, log entry 36. -/
def execRemoteWriteBlock (m : Packet) (s : State) (blocks : List BlockFinding := []) : Host.Outcome State Fault Refusal :=
  s.act fun d =>
    if d.has m && m.cls == 4 then
      let addr := u64 m.body 0
      let last := u8 m.body 244 == 1
      let r := ((d.found d.rwWindow blocks).takePacket m).postData m.body
      let n := r.1
      let d := r.2
      let base := d.pair Reg.chtRwBaseLo
      let flow := (m.src, m.stripe)
      let open_ := d.cht.discardedWrites.filter fun f => f ≠ flow
      let ok := decide (base ≤ addr ∧ addr + n ≤ base + 0x100000 * d.fld Reg.chtRwSize 19 0) && mapped addr n
      if ok then
        let d := d.writeAt addr ((m.body.drop 16).take n)
        if !last then d
        else if d.cht.discardedWrites.contains flow then { d with cht := { d.cht with discardedWrites := open_ } }
        else if u8 m.body 9 < 16 ∧ u8 m.body 8 < 2 then d.raiseCounter (u8 m.body 8) (u8 m.body 9) 1
        else d
      else
        let d := (d.addSat Reg.chtRwDiscards 1).raise chtPage 5
        { d with cht := { d.cht with discardedWrites := if last then open_ else flow :: open_ } }
    else d

end Sys2Proof.Machine
end

