-- ==== Sys2Proof/Machine/Reduce.lean ====
section
/-! DEFINITION. Reductions: the exact carrier, fast mode, compression, the tally, the non-finite consensus (09_reductions.md). -/
namespace Sys2Proof.Machine

def redPage : Page := page1 .red

/-! The window (R215 to R219). -/

/-- The e of a group without a finite nonzero value. -/
def noExp : Int := -32768

/-- Local exponent and flag of some elements (R216). -/
def exponentOf (ws : List Word) : Int × Bool :=
  ws.foldl (fun a w =>
    if !fIsFinite w then (a.1, true)
    else if (f32 w).isZero then a
    else (max a.1 (f32 w).floorLog2, a.2)) (noExp, false)

/-- G of an agreed E. -/
def windowOf (e : Int) : Int := if e = noExp then noExp else e + 1

/-- trunc(x × 2^(31 − G)) (R217); 0 where the window is empty or x is not finite. -/
def encodeInt (g : Int) (x : Word) : Int :=
  if g = noExp then 0
  else match f32 x with
    | .fin neg m e =>
      let k := e + 31 - g
      let mag := if 0 ≤ k then m * 2 ^ k.toNat else m / 2 ^ (-k).toNat
      if neg then -(mag : Int) else mag
    | _ => 0

/-- n × 2^(G − 31), exactly. -/
def windowValue (g n : Int) : FVal := .fin (decide (n < 0)) n.natAbs (g - 31)

/-- A total rounded to FP32 (R218, R219). -/
def roundTotal (nf : Bool) (g n : Int) : Word :=
  if nf then nanF32 else if g = noExp ∨ n = 0 then 0#32 else toF32 (windowValue g n)

/-- The largest magnitude one participant's VALUE may have. -/
def valueBound : Nat := 2 ^ 31 - 1

/-- A signed integer in `w` bytes, two's complement. -/
def intBytes (w : Nat) (n : Int) : List Byte := natBytes w (n % (2 : Int) ^ (8 * w)).toNat

/-- A two's complement integer of some bytes. -/
def bytesInt (bs : List Byte) : Int :=
  let n := leNat bs
  let top := 2 ^ (8 * bs.length)
  if 2 * n < top then n else (n : Int) - top

/-- Pieces of `k` of a list, the last one partial. -/
def pieces {α : Type} (k : Nat) (xs : List α) : List (List α) :=
  (List.range (ceilDiv xs.length k)).map fun i => (xs.drop (k * i)).take k

/-! Records on the wire (R215, R216, R222, R223, R227). -/

def agreeBytes (a : Int × Bool) : List Byte := intBytes 2 a.1 ++ natBytes 1 (if a.2 then 1 else 0) ++ natBytes 1 0

def agreeOf (b : List Byte) : Int × Bool := (bytesInt (b.take 2), (b.getD 2 0#8).getLsbD 0)

/-- One EC48 group: its count and its 32 integers. -/
structure Carrier48 where
  count : Nat
  vals : List Int

def Carrier48.bytes (c : Carrier48) (g : Int) (nf : Bool) : List Byte :=
  let blank := nf || g == noExp
  intBytes 2 g ++ natBytes 1 ((if nf then 1 else 0) + (if g = noExp then 2 else 0)) ++ natBytes 1 0 ++ natBytes 4 c.count ++
    ((List.range 32).map fun i => intBytes 6 (if blank then 0 else c.vals.getD i 0)).flatten

def carrierOf (b : List Byte) : Carrier48 := ⟨u32 b 4, (List.range 32).map fun i => bytesInt ((b.drop (8 + 6 * i)).take 6)⟩

def Carrier48.add (a b : Carrier48) : Carrier48 := ⟨a.count + b.count, List.zipWith (· + ·) a.vals b.vals⟩

/-- One participant's group. -/
def ownCarrier (g : Int) (ws : List Word) : Carrier48 :=
  ⟨1, (List.range 32).map fun i => encodeInt g (ws.getD i 0#32)⟩

/-! Compression (R221 to R225). -/

def insertBig (x : Nat × Nat) : List (Nat × Nat) → List (Nat × Nat)
  | [] => [x]
  | y :: ys => if y.1 < x.1 then x :: y :: ys else y :: insertBig x ys

/-- The indices TOPK keeps of a chunk, ascending: the largest magnitudes, ties to the lower index. -/
def keptIndices (log2 : Nat) (chunk : List Word) : List Nat :=
  let sorted := chunk.zipIdx.foldl (fun acc p => insertBig ((fAbs p.1).toNat, p.2) acc) []
  sortNats ((sorted.take (ceilDiv chunk.length (2 ^ log2))).map (·.2))

/-- The scale of a SIGN group. -/
def signScale (ws : List Word) : Word := fMul (rowSum (ws.map fAbs)) 0x3D000000#32

/-- trunc(s × 2^(31 − G)) of a SIGN scale; free where the scale is not finite. -/
def signInt (g : Int) (s : Word) : Int :=
  if fIsFinite s then encodeInt g s else (Config.openSign s g % 2 ^ 31 : Nat)

def chunkBad (ws : List Word) : Bool := ws.any fun w => !fIsFinite w

/-- The values a chunk sends, whose largest gives its e (R221). -/
def ReduceCmd.sentOf (c : ReduceCmd) (chunk : List Word) : List Word :=
  if chunkBad chunk then []
  else if c.compress = 1 then (keptIndices c.topkLog2 chunk).map fun i => chunk.getD i 0#32
  else ((pieces 32 chunk).map signScale).filter fIsFinite

/-- DEDUCED, log entry 26. -/
def chunkHeader (i count : Nat) (nf : Bool) : List Byte :=
  natBytes 4 i ++ natBytes 2 count ++ natBytes 1 (if nf then 1 else 0) ++ natBytes 1 0

/-- One chunk of a contribution. -/
def ReduceCmd.chunkBytes (c : ReduceCmd) (g : Int) (i : Nat) (chunk : List Word) : List Byte :=
  if chunkBad chunk then chunkHeader i 0 true
  else if c.compress = 1 then
    let ks := keptIndices c.topkLog2 chunk
    chunkHeader i ks.length false ++ (ks.map fun j => natBytes 2 j ++ intBytes 6 (encodeInt g (chunk.getD j 0#32))).flatten
  else
    let gs := pieces 32 chunk
    chunkHeader i gs.length false ++
      (gs.map fun ws => natBytes 4 (ws.zipIdx.foldl (fun n w => if w.1.getLsbD 31 then n + 2 ^ w.2 else n) 0) ++
        natBytes 4 (signScale ws).toNat).flatten

/-- The integers a received chunk adds, for a chunk of `l` elements. -/
def ReduceCmd.chunkInts (c : ReduceCmd) (g : Int) (l : Nat) (b : List Byte) : List Int :=
  let entry := fun (i : Nat) => (b.drop (8 + 8 * i)).take 8
  let n := u16 b 4
  if c.compress = 1 then
    (List.range n).foldl (fun vs i => vs.set (leNat ((entry i).take 2) % 4096) (bytesInt ((entry i).drop 2)))
      (List.replicate l 0)
  else
    (((List.range n).map fun i =>
      let bits := leNat ((entry i).take 4)
      let v := signInt g (BitVec.ofNat 32 (leNat ((entry i).drop 4)))
      (List.range 32).map fun j => if bits.testBit j then -v else v).flatten).take l

/-- The new residual of a chunk (R225); none where it stays. -/
def ReduceCmd.residual (c : ReduceCmd) (g : Int) (chunk : List Word) : Option (List Word) :=
  if chunkBad chunk then none
  else if c.compress = 1 then
    let ks := keptIndices c.topkLog2 chunk
    some (chunk.zipIdx.map fun w =>
      if ks.contains w.2 then toF32 (FVal.sub (f32 w.1) (windowValue g (encodeInt g w.1))) else w.1)
  else
    some ((pieces 32 chunk).map fun ws =>
      let q := toF32 (windowValue g (signInt g (signScale ws)))
      ws.map fun w => fSub w (if w.getLsbD 31 then fNeg q else q)).flatten

/-! Runs. -/

/-- Elements to a record of agreement: a group, or a chunk under compression. -/
def RedRun.unit (r : RedRun) : Nat := if r.mode = .compressed then 4096 else 32

/-- The groups or chunks of the tensor. -/
def RedRun.parts (r : RedRun) : List (List Word) := pieces r.unit r.vals

/-- The records a complete set of a TYPE holds. -/
def RedRun.records (r : RedRun) (type : Nat) : Nat :=
  match type with
  | 16 | 17 => r.parts.length
  | 20 => r.vals.length
  | 21 => 128
  | _ => 0

/-- The TYPE that carries a run's values. -/
def RedRun.valueType (r : RedRun) : Nat :=
  match r.mode with
  | .exact => 17
  | .fast => 20
  | .compressed => if r.cmd.compress = 1 then 18 else 19
  | .tally => 21
  | .consensus => 22

/-- The TYPEs a run takes. -/
def RedRun.takes (r : RedRun) (type : Nat) : Bool :=
  type == r.valueType || (type == 16 && (r.mode == .exact || r.mode == .compressed))

def RedRun.neighbours (r : RedRun) : List Nat := r.parent.toList ++ r.children

def RedRun.set? (r : RedRun) (type origin : Nat) : Option RedSet := r.sets.find? fun x => x.type = type ∧ x.origin = origin

/-- All that a sender owes of a TYPE has come. -/
def RedRun.has (r : RedRun) (type origin : Nat) : Bool :=
  match r.set? type origin with
  | some x => x.ended && (type == 18 || type == 19 || type == 22 || x.recs.length == r.records type)
  | none => false

/-- The records of a sender, in order. -/
def RedRun.from (r : RedRun) (type origin : Nat) : List (List Byte) :=
  match r.set? type origin with
  | some x => (List.range (r.records type)).map fun i => ((x.recs.find? fun p => p.1 = i).map (·.2)).getD []
  | none => []

/-- This participant's own agreement records (R216, R221, R228). -/
def RedRun.ownAgree (r : RedRun) : List (Int × Bool) :=
  if !r.own then r.parts.map fun _ => (noExp, false)
  else if r.mode = .compressed then r.parts.map fun c => ((exponentOf (r.cmd.sentOf c)).1, chunkBad c)
  else r.parts.map exponentOf

def joinAgree (a b : List (Int × Bool)) : List (Int × Bool) := List.zipWith (fun x y => (max x.1 y.1, x.2 || y.2)) a b

/-- Own records with those of every child. -/
def RedRun.upAgree (r : RedRun) : List (Int × Bool) :=
  r.children.foldl (fun a c => joinAgree a ((r.from 16 c).map agreeOf)) r.ownAgree

/-- This participant's groups with those of every child. -/
def RedRun.upCarriers (r : RedRun) (a : List (Int × Bool)) : List Carrier48 :=
  let own := (r.parts.zip a).map fun p => ownCarrier (windowOf p.2.1) (if r.own then p.1 else [])
  r.children.foldl (fun cs c => List.zipWith Carrier48.add cs ((r.from 17 c).map carrierOf)) own

/-- A node's partial values (R220): its own, then each child's in child order. -/
def RedRun.partials (r : RedRun) : List Word :=
  let op := if r.cmd.kind = 2 then fMax else fAdd
  let own := if r.own then r.vals else r.vals.map fun _ => 0#32
  r.children.foldl (fun vs c => List.zipWith op vs ((r.from 20 c).map fun b => BitVec.ofNat 32 (leNat b))) own

/-- The tally of a subtree. -/
def RedRun.upTally (r : RedRun) : List Int :=
  r.children.foldl (fun vs c => List.zipWith (· + ·) vs ((r.from 21 c).map bytesInt)) r.tally

/-! What a run does next. -/

/-- The results a run owes: values for DST, groups or chunks that are NaN, overflows, the summed tally, or the outcome. -/
inductive RedOut where
  | vals (vs : List Word) (nf overflows : Nat)
  | tally (vs : List Int)
  | outcome (flag : Bool)

inductive RedMove where
  | stay
  | fault (status peer : Nat)
  /-- records sent to some neighbours; `resid` the new residual by chunk -/
  | send (r : RedRun) (type : Nat) (dests : List Nat) (body : List Byte) (resid : List (Option (List Word)))
  /-- records sent to some neighbours and the results written -/
  | finish (r : RedRun) (type : Nat) (dests : List Nat) (body : List Byte) (out : RedOut)

def RedRun.allHave (r : RedRun) (type : Nat) : Bool := r.children.all (r.has type)

/-- Values rounded from totals, group by group or chunk by chunk (R218, R219). -/
def RedRun.rounded (r : RedRun) (a : List (Int × Bool)) (totals : List (List Int)) : RedOut :=
  let vs := ((a.zip r.parts).zip totals).map fun p =>
    (p.1.2.zipIdx.map fun w => roundTotal p.1.1.2 (windowOf p.1.1.1) (p.2.getD w.2 0))
  let finals := ((a.zip vs).map fun p => if p.1.2 then 0 else (p.2.filter fun w => !fIsFinite w).length)
  .vals vs.flatten ((a.filter (·.2)).length) (listSum finals)

/-- The move of the agreement phase (R216). -/
def RedRun.agreeMove (r : RedRun) : RedMove :=
  let down := fun (a : List (Int × Bool)) =>
    RedMove.send { r with agreed := some a } 16 r.children ((a.map agreeBytes).flatten) []
  if !r.allHave 16 then .stay
  else match r.parent with
    | none => down r.upAgree
    | some p =>
      if !r.sent.contains 16 then
        .send { r with sent := 16 :: r.sent } 16 [p] ((r.upAgree.map agreeBytes).flatten) []
      else if r.has 16 p then down ((r.from 16 p).map agreeOf)
      else .stay

def carrierBytes (a : List (Int × Bool)) (cs : List Carrier48) : List Byte :=
  (List.zipWith (fun (x : Int × Bool) c => c.bytes (windowOf x.1) x.2) a cs).flatten

/-- An EC48 header agrees with the agreement, as far as one is known. -/
def RedRun.headerAgrees (r : RedRun) (p : Nat × List Byte) : Bool :=
  match r.agreed with
  | none => true
  | some agreed =>
    match agreed[p.1]? with
    | some a => bytesInt (p.2.take 2) == windowOf a.1 && (u8 p.2 2).testBit 0 == a.2
    | none => false

/-- The move of the exact sum (R218). -/
def RedRun.exactMove (r : RedRun) (a : List (Int × Bool)) : RedMove :=
  let finish := fun (cs : List Carrier48) (peer : Nat) =>
    if cs.any fun c => c.count ≠ r.members.length then RedMove.fault 6 peer
    else .finish r 17 r.children (carrierBytes a cs) (r.rounded a (cs.map (·.vals)))
  match r.sets.find? fun x => x.type = 17 ∧ !x.recs.all r.headerAgrees with
  | some x => .fault 6 x.origin
  | none =>
  if !r.allHave 17 then .stay
  else match r.parent with
    | none => finish (r.upCarriers a) 0xFFFF
    | some p =>
      if !r.sent.contains 17 then .send { r with sent := 17 :: r.sent } 17 [p] (carrierBytes a (r.upCarriers a)) []
      else if r.has 17 p then finish ((r.from 17 p).map carrierOf) p
      else .stay

/-- The chunks of a contribution as integers, by chunk (R224). -/
def RedRun.contribution (r : RedRun) (a : List (Int × Bool)) (recs : List (Nat × List Byte)) : List (List Int) :=
  (r.parts.zip a).zipIdx.map fun p =>
    match recs.find? fun x => x.1 = p.2 with
    | some x => r.cmd.chunkInts (windowOf p.1.2.1) p.1.1.length x.2
    | none => []

/-- This participant's own contribution by chunk. -/
def RedRun.ownChunks (r : RedRun) (a : List (Int × Bool)) : List (Nat × List Byte) :=
  if !r.own then []
  else (r.parts.zip a).zipIdx.map fun p => (p.2, r.cmd.chunkBytes (windowOf p.1.2.1) p.2 p.1.1)

def addInts (l : Nat) (a b : List Int) : List Int := (List.range l).map fun i => a.getD i 0 + b.getD i 0

/-- The origin of a contribution that lacks a chunk, so that the chunk's count falls short of the group's size (R218, R224); one
without any chunk is that of a participant whose own tally entry is 0 (R228). DEDUCED, log entry 26. -/
def RedRun.short (r : RedRun) (a : List (Int × Bool)) (self : Nat) : Option Nat :=
  let own := (self, (r.ownChunks a).map (·.1))
  let all := own :: (r.sets.filter fun x => x.type = r.valueType).map fun x => (x.origin, x.recs.map (·.1))
  (all.find? fun c => !c.2.isEmpty && (List.range r.parts.length).any fun i => !c.2.contains i).map (·.1)

/-- The move of a compressed sum (R222 to R225). -/
def RedRun.compressedMove (r : RedRun) (a : List (Int × Bool)) (self : Nat) : RedMove :=
  let t := r.valueType
  if !r.sent.contains t then
    .send { r with sent := t :: r.sent } t r.neighbours (((r.ownChunks a).map (·.2)).flatten)
      (if r.own then (r.parts.zip a).map fun p => r.cmd.residual (windowOf p.2.1) p.1 else [])
  else if !((r.members.filter fun m => m ≠ self).all (r.has t)) then .stay
  else
    let all := (self, r.contribution a (r.ownChunks a)) :: (r.sets.filter fun x => x.type = t).map fun x =>
      (x.origin, r.contribution a x.recs)
    match all.find? fun c => c.2.any fun vs => vs.any fun v => valueBound < v.natAbs with
    | some c => .fault 7 c.1
    | none =>
      match r.short a self with
      | some p => .fault 6 p
      | none =>
      let totals := all.foldl (fun acc c => ((acc.zip c.2).zip r.parts).map fun p => addInts p.2.length p.1.1 p.1.2)
        (r.parts.map fun _ => [])
      .finish r t [] [] (r.rounded a totals)

/-- The move of a run whose one phase sends values up and a result down: fast mode and the tally (R220, R227).
DEDUCED, log entry 26. -/
def RedRun.treeMove (r : RedRun) (up : List Byte) (root : RedOut) (down : Nat → List Byte × RedOut) : RedMove :=
  let t := r.valueType
  if !r.allHave t then .stay
  else match r.parent with
    | none => .finish r t r.children up root
    | some p =>
      if !r.sent.contains t then .send { r with sent := t :: r.sent } t [p] up []
      else if r.has t p then .finish r t r.children (down p).1 (down p).2
      else .stay

def wordsBytes (ws : List Word) : List Byte := (ws.map fun w => natBytes 4 w.toNat).flatten

/-- What the consensus message of a sender says. DEDUCED, log entry 27. -/
def RedRun.flagFrom (r : RedRun) (origin : Nat) : Bool :=
  match r.set? 22 origin with
  | some x => x.recs.any fun p => p.1 = 1
  | none => false

/-- The OR of SEEN, as it stood at issue, over a subtree (R231). -/
def RedRun.upFlag (r : RedRun) : Bool := r.seen || r.children.any r.flagFrom

/-- The next move of a run. -/
def RedRun.move (r : RedRun) (self : Nat) : RedMove :=
  if r.phase ≠ .live then .stay
  else match r.mode, r.agreed with
    | .exact, none => r.agreeMove
    | .compressed, none => r.agreeMove
    | .exact, some a => r.exactMove a
    | .compressed, some a => r.compressedMove a self
    | .fast, _ =>
      r.treeMove (wordsBytes r.partials) (.vals r.partials 0 0) fun p =>
        ((r.from 20 p).flatten, .vals ((r.from 20 p).map fun b => BitVec.ofNat 32 (leNat b)) 0 0)
    | .tally, _ =>
      r.treeMove ((r.upTally.map (intBytes 8)).flatten) (.tally r.upTally) fun p =>
        ((r.from 21 p).flatten, .tally ((r.from 21 p).map bytesInt))
    | .consensus, _ => r.treeMove [] (.outcome r.upFlag) fun p => ([], .outcome (r.flagFrom p))

/-! Runs in the device. -/

def Dev.putRed (d : Dev) (r : RedRun) : Dev :=
  { d with red := { d.red with runs := d.red.runs.map fun x => if x.id = r.id then r else x } }

/-- The REDUCEs in flight, in order of issue. -/
def Dev.redLive (d : Dev) : List RedRun := d.red.runs.filter fun r => r.phase ≠ .failed

/-- The 64-byte status record (R236). -/
def RedRun.status (r : RedRun) (status peer : Nat) (done : Dword) : List Byte :=
  natBytes 1 status ++ natBytes 1 r.cmd.kind ++ natBytes 2 r.cmd.layer ++ natBytes 2 peer ++ natBytes 2 0 ++
    natBytes 4 r.members.length ++ natBytes 4 r.nfGroups ++ natBytes 4 r.overflows ++ natBytes 4 r.stale ++
    natBytes 8 r.stamp.toNat ++ natBytes 8 done.toNat ++ List.replicate 24 0#8

/-- Words written to a tensor bit for bit. -/
def Dev.putWords (d : Dev) (t : Desc) (vs : List Word) : Dev :=
  d.write ((List.range t.rows).map fun i => t.putCodes i (((vs.drop (t.len0 * i)).take t.len0).map (·.toNat)))

/-- The bits of DST after a failure are open (R237). -/
def Dev.spoil (d : Dev) (t : Option Desc) : Dev :=
  match t with
  | none => d
  | some t => t.runs.foldl Dev.leaveOpen d

/-- A REDUCE completed (R234, R237, R239). -/
def Dev.endRed (d : Dev) (r : RedRun) (status peer : Nat) : Dev :=
  let bad := decide (3 ≤ status)
  let d := if bad ∧ status ≠ 10 then d.putRed { r with phase := .failed }
    else { d with red := { d.red with runs := d.red.runs.filter fun x => x.id ≠ r.id } }
  let d := if bad then d.spoil r.cmd.dst else d
  let d := d.writeAt r.cmd.status (r.status status peer d.stamp)
  let d := (d.notifyCounter r.cmd.counter).addSat Reg.redCommands 1
  if !bad then d
  else
    let d := d.setReg Reg.redFaultLast (BitVec.ofNat 32 (peer % 65536 + 0x10000 * status))
    let d := d.raise redPage (if status = 8 then 4 else 3)
    let d := if status = 10 then d else d.pageFault redPage
    (d.record (d.faultRec redPage r.cmd.layer status r.tag r.cmd.status (natBytes 2 peer ++ natBytes 1 r.cmd.kind))).bad

/-- The header of a reduction message (R233). -/
def RedRun.header (r : RedRun) (type origin first : Nat) (ended seen : Bool) : List Byte :=
  natBytes 1 type ++ natBytes 1 ((if ended then 1 else 0) + (if seen then 2 else 0)) ++ natBytes 2 r.cmd.layer ++
    natBytes 2 origin ++ natBytes 2 r.step ++ natBytes 2 r.cfg ++ natBytes 1 r.cmd.group ++ natBytes 1 0 ++ natBytes 4 first

/-- SEEN (R230). -/
def Dev.seen (d : Dev) : Bool := d.flag Reg.redStepNf 1

/-- A message of a run sent to some neighbours on the stripe of its group; CONSENSUS on class 0.
DEDUCED, log entry 26. -/
def Dev.sendRed (d : Dev) (r : RedRun) (type origin : Nat) (dests : List Nat) (seen : Bool) (body : List Byte) : Dev :=
  let bs := r.header type origin 0 true seen ++ body
  if type = 22 then (if d.skyMode = 0 then d.sendControls dests bs else d)
  else dests.foldl (fun d p => d.sendPacket 3 p (r.cmd.group % d.stripesTo 3 p) r.id bs) d

/-- The results of a run written. -/
def Dev.writeRed (d : Dev) (r : RedRun) (out : RedOut) : Dev :=
  match out with
  | .vals vs nf finals =>
    let d := (d.putRed { r with phase := .written, nfGroups := nf, overflows := finals }).addSat Reg.redNfGroups nf
    let d := match r.cmd.dst with
      | some t => d.putWords t vs
      | none => d
    if finals = 0 then d else ((d.addSat Reg.redOverflows finals).raise redPage 2).setLocalNf
  | .tally vs =>
    (d.putRed { r with phase := .written }).writeAt r.cmd.aux
      ((vs.map fun v => natBytes 4 (min v.toNat 0xFFFFFFFF)).flatten)
  | .outcome flag =>
    let d := d.putRed { r with phase := .written }
    let w := if flag then 1 else 0
    let d := d.setReg Reg.redConsensus (BitVec.ofNat 32 (1 + 2 * w + 0x10000 * (r.step % 65536)))
    let d := d.writeAt r.cmd.aux (natBytes 4 w ++ natBytes 4 r.step)
    let d := if flag then d.raise redPage 1 else d
    d.capture (blockBytes (mkBlock ⟨0, true, false, 0, 0, 0, d.self, d.self, 0, 0⟩ (r.header 22 d.self 0 true flag)))

/-- The new residuals of a tensor's chunks, those that stay left out. -/
def Dev.putResidual (d : Dev) (t : Option Desc) (src : List (Option (List Word))) : Dev :=
  match t with
  | none => d
  | some t =>
    src.zipIdx.foldl (fun d c => match c.1 with
      | none => d
      | some ws => d.write (ws.zipIdx.map fun w =>
          let i := 4096 * c.2 + w.2
          ⟨t.rowAddr (i / max 1 t.len0) + 4 * (i % max 1 t.len0), natBytes 4 w.1.toNat⟩)) d

/-- A run goes on as far as what has come lets it; `fuel` bounds its moves, of which there are at most four.
DEDUCED, log entry 27. -/
def Dev.runRed : Nat → Dev → Nat → Dev
  | 0, d, _ => d
  | n + 1, d, id =>
    match d.red.runs.find? fun r => r.id = id with
    | none => d
    | some r =>
      match r.move d.self with
      | .stay => d
      | .fault status peer => d.endRed r status peer
      | .send r' type dests body resid =>
        let seen := if type = 22 then r'.upFlag else d.seen
        Dev.runRed n (((d.putRed r').putResidual r.cmd.resid resid).sendRed r' type d.self dests seen body) id
      | .finish r' type dests body out =>
        let seen := match out with
          | .outcome flag => flag
          | _ => d.seen
        (d.sendRed r' type d.self dests seen body).writeRed r' out

def Dev.advanceRed (d : Dev) (id : Nat) : Dev := Dev.runRed 8 d id

/-! Receiving (R213, R217, R222, R233, R236). -/

/-- A reduction message's header. -/
structure RedHdr where
  type : Nat
  flags : Nat
  layer : Nat
  sender : Nat
  step : Nat
  cfg : Nat
  group : Nat
  first : Nat

def redHdrOf (b : List Byte) : RedHdr := ⟨u8 b 0, u8 b 1, u16 b 2, u16 b 4, u16 b 6, u16 b 8, u8 b 0xA, u32 b 0xC⟩

/-- Bytes of a record of a TYPE; 0 for chunks. -/
def recordBytes (type : Nat) : Nat :=
  match type with
  | 16 => 4
  | 17 => 200
  | 20 => 4
  | 21 => 8
  | _ => 0

/-- The chunks of a payload: each a header and its entries, up to the zero bytes that fill the last block. DEDUCED, log entry
26. -/
def chunksOf : Nat → List Byte → List (Nat × List Byte)
  | 0, _ => []
  | n + 1, b =>
    let size := 8 + 8 * u16 b 4
    if b.length < size ∨ (u16 b 4 = 0 ∧ !(b.getD 6 0#8).getLsbD 0) then []
    else (u32 b 0, b.take size) :: chunksOf n (b.drop size)

/-- The records of a message. -/
def RedRun.recordsOf (r : RedRun) (h : RedHdr) (b : List Byte) : List (Nat × List Byte) :=
  let body := b.drop 16
  if h.type = 22 then (if h.flags.testBit 1 then [(1, [])] else [])
  else
    let z := recordBytes h.type
    if z = 0 then chunksOf (body.length / 8) body
    else (List.range (min (r.records h.type - h.first) (body.length / z))).map fun i =>
      (h.first + i, (body.drop (z * i)).take z)

/-- A record of a TYPE is well formed in its reserved fields. -/
def RedRun.recordOk (r : RedRun) (type : Nat) (b : List Byte) : Bool :=
  match type with
  | 16 => zeros b 3 1 && decide (u8 b 2 < 2)
  | 17 => zeros b 3 1 && decide (u8 b 2 < 4 ∧ 1 ≤ u32 b 4)
  | 18 => zeros b 7 1 && decide (u8 b 6 < 2) &&
      (List.range (u16 b 4)).all fun i => decide (u16 b (8 + 8 * i) < 4096)
  | 19 => zeros b 7 1 && decide (u8 b 6 < 2) && decide (r.cmd.compress = 2)
  | _ => true

/-- A record's values lie in R217's bound, its index in its chunk. -/
def RedRun.inRange (r : RedRun) (type : Nat) (p : Nat × List Byte) : Bool :=
  match type with
  | 17 => let c := carrierOf p.2
    c.vals.all fun v => decide (v.natAbs ≤ c.count * valueBound)
  | 18 =>
    let l := (r.parts.getD p.1 []).length
    decide (p.1 < r.parts.length) && (List.range (u16 p.2 4)).all fun i =>
      let e := (p.2.drop (8 + 8 * i)).take 8
      decide (leNat (e.take 2) < l ∧ (bytesInt (e.drop 2)).natAbs ≤ valueBound)
  | 19 => decide (p.1 < r.parts.length ∧ u16 p.2 4 ≤ ceilDiv (r.parts.getD p.1 []).length 32)
  | _ => true

/-- The sender may send this TYPE: a neighbour in the tree, or any other member for a compressed contribution. -/
def RedRun.senderOk (r : RedRun) (self : Nat) (h : RedHdr) : Bool :=
  if h.type = 18 ∨ h.type = 19 then r.members.contains h.sender && h.sender != self else r.neighbours.contains h.sender

/-- The status codes a message earns (R236). -/
def RedRun.check (r : RedRun) (self : Nat) (h : RedHdr) (b : List Byte) (recs : List (Nat × List Byte)) : List Nat :=
  let dup := match r.set? h.type h.sender with
    | some x => x.ended || recs.any fun p => x.recs.any fun q => q.1 = p.1
    | none => false
  let dup := dup || decide (¬ (recs.map (·.1)).Nodup)
  need (r.takes h.type && decide (h.flags < 4) && zeros b 0xB 1 && h.cfg == r.cfg &&
    ((h.type != 21 && h.type != 22) || h.first == 0) && recs.all fun p => r.recordOk h.type p.2) 3 ++
  need (r.senderOk self h) 4 ++ need (!dup) 5 ++
  need (h.type != 17 || recs.all r.headerAgrees) 6 ++
  need (recs.all (r.inRange h.type) && (recordBytes h.type == 0 || decide (h.first ≤ r.records h.type))) 7

/-- A message's records joined to what its sender has sent. -/
def addRedSet (sets : List RedSet) (type fromPkg origin : Nat) (recs : List (Nat × List Byte)) (last : Bool) : List RedSet :=
  if sets.any fun x => x.type = type ∧ x.origin = origin then
    sets.map fun x => if x.type = type ∧ x.origin = origin then { x with recs := x.recs ++ recs, ended := x.ended || last } else x
  else sets ++ [⟨type, fromPkg, origin, recs, last⟩]

/-- The runs a message may belong to: of its GROUP and LAYER and taking its TYPE (any, for a reserved TYPE), oldest first.
DEDUCED, log entry 25. -/
def Dev.redCands (d : Dev) (h : RedHdr) : List RedRun :=
  d.red.runs.filter fun r =>
    if h.type = 22 then r.mode == .consensus else r.mode != .consensus && r.cmd.group == h.group && r.cmd.layer == h.layer &&
      (r.takes h.type || decide (h.type < 16 ∨ 21 < h.type))

/-- A run has the END of a message's TYPE from its sender. -/
def RedRun.endedBy (r : RedRun) (h : RedHdr) : Bool :=
  match r.set? h.type h.sender with
  | some x => x.ended
  | none => false

/-- The run that a message of a TYPE none of its LAYER takes contradicts (R213, R236 FIELD): one of its LAYER and GROUP that
has nothing yet from the sender, a neighbour, and whose CFG differs; or one of its LAYER where this package has no part in
the GROUP. DEDUCED, log entry 25. -/
def Dev.redAgainst (d : Dev) (h : RedHdr) : Option RedRun :=
  let same := d.red.runs.filter fun r => r.phase = .live ∧ r.mode ≠ .consensus ∧ r.cmd.layer = h.layer
  let part := match (d.governing 3).bind fun c => c.group h.group with
    | some ns => ns.any fun n => n.package == d.self
    | none => false
  if h.type = 22 then none
  else (same.find? fun r => r.cmd.group == h.group && r.neighbours.contains h.sender &&
      !(r.sets.any fun x => x.origin == h.sender) && h.cfg != r.cfg).orElse fun _ => if part then none else same.head?

/-- A compressed contribution passed on along the tree. -/
def Dev.floodRed (d : Dev) (r : RedRun) (h : RedHdr) (fromPkg : Nat) (b : List Byte) : Dev :=
  if h.type = 18 ∨ h.type = 19 then
    let head := r.header h.type h.sender h.first (h.flags.testBit 0) d.seen
    (r.neighbours.filter fun p => p ≠ fromPkg).foldl (fun d p =>
      d.sendPacket 3 p (r.cmd.group % d.stripesTo 3 p) r.id (head ++ b.drop 16)) d
  else d

/-- A message taken by the oldest run that still lacks the END of its TYPE from its sender; a further END under an equal CFG is
DUP; a contradiction ends its run with FIELD; else it is held for a later command (R213, R236, R238).
DEDUCED, log entry 25. -/
def Dev.takeRed (d : Dev) (m : Packet) : Dev :=
  let h := redHdrOf m.body
  let hold := if d.active redPage then { d with red := { d.red with held := d.red.held ++ [m] } } else d
  match (d.redCands h).find? fun r => !r.endedBy h with
  | some r =>
    let recs := r.recordsOf h m.body
    let r' := { r with sets := addRedSet r.sets h.type m.src h.sender recs (h.flags.testBit 0) }
    if r.phase ≠ .live then d.putRed r'
    else match lowest (r.check d.self h m.body recs) with
      | some status => d.endRed r status h.sender
      | none => ((d.putRed r').floodRed r' h m.src m.body).advanceRed r.id
  | none =>
    match (d.redCands h).reverse.find? fun r => r.cfg == h.cfg with
    | some r =>
      match r.phase with
      | .live => d.endRed r 5 h.sender
      | .written => hold
      | .failed => d
    | none =>
      match if (d.redCands h).isEmpty then d.redAgainst h else none with
      | some r => d.endRed r 3 h.sender
      | none => hold

/-- A reduction message received (R230, R233). -/
def Dev.receiveRed (d : Dev) (m : Packet) : Dev :=
  let d := d.takePacket m
  let h := redHdrOf m.body
  if h.step ≠ d.step % 65536 then
    let d := (d.addSat Reg.redStale 1).raise redPage 5
    match d.red.runs.find? fun r => r.phase = .live ∧ r.cmd.group = h.group ∧ r.cmd.layer = h.layer with
    | some r => d.putRed { r with stale := r.stale + 1 }
    | none => d
  else
    let d := if h.flags.testBit 1 then d.setFlag Reg.redStepNf 1 true else d
    d.takeRed m

/-- Where a run writes after its issue. -/
def RedRun.written (r : RedRun) : List (Nat × Nat) :=
  let runs := fun (t : Option Desc) => match t with
    | some t => t.runs
    | none => []
  let aux := match r.cmd.kind with
    | 1 => [(r.cmd.aux, 512)]
    | 3 => [(r.cmd.aux, 8)]
    | _ => []
  runs r.cmd.dst ++ runs r.cmd.resid ++ aux ++ [(r.cmd.status, 64)]

/-- A run whose reads or writes met a lost block ends with LOST, unless another status has ended it (R236). -/
def Dev.loseRed (d : Dev) (lost : Bool) (id : Nat) : Dev :=
  match d.redLive.find? fun r => r.id = id with
  | some r => if lost then d.endRed r 9 0xFFFF else d
  | none => d

/-- A message row: its packet stands received in its class with a TYPE of the row. `blocks` are the blocks read as its run writes
what it owes (R117, R236). -/
def State.redMessage (s : State) (m : Packet) (blocks : List BlockFinding) (cls : Nat) (ok : Nat → Bool) :
    Host.Outcome State Fault Refusal :=
  s.act fun d =>
    if d.has m && m.cls == cls && ok (u8 m.body 0) then
      let h := redHdrOf m.body
      match (d.redCands h).find? fun r => !r.endedBy h with
      | some r => ((d.found r.written blocks).receiveRed m).loseRed (d.loses blocks) r.id
      | none => d.receiveRed m
    else d

/-- AGREE, and any reserved TYPE of class 3 (R237). -/
def execAgree (m : Packet) (s : State) (blocks : List BlockFinding := []) : Host.Outcome State Fault Refusal :=
  s.redMessage m blocks 3 fun t => t == 16 || decide (t < 16 ∨ 21 < t)

def execEc48 (m : Packet) (s : State) (blocks : List BlockFinding := []) : Host.Outcome State Fault Refusal :=
  s.redMessage m blocks 3 fun t => t == 17

def execTopk (m : Packet) (s : State) (blocks : List BlockFinding := []) : Host.Outcome State Fault Refusal :=
  s.redMessage m blocks 3 fun t => t == 18

def execSign (m : Packet) (s : State) (blocks : List BlockFinding := []) : Host.Outcome State Fault Refusal :=
  s.redMessage m blocks 3 fun t => t == 19

def execFast (m : Packet) (s : State) (blocks : List BlockFinding := []) : Host.Outcome State Fault Refusal :=
  s.redMessage m blocks 3 fun t => t == 20

def execTally (m : Packet) (s : State) (blocks : List BlockFinding := []) : Host.Outcome State Fault Refusal :=
  s.redMessage m blocks 3 fun t => t == 21

def execConsensus (m : Packet) (s : State) (blocks : List BlockFinding := []) : Host.Outcome State Fault Refusal :=
  s.redMessage m blocks 0 fun t => t == 22

/-! Issue (R211 to R214, R228, R231, R232, R235). -/

/-- CFG (R213). DEDUCED, log entry 26. -/
def ReduceCmd.cfg (c : ReduceCmd) (elems : Nat) : Nat :=
  (crc32c (natBytes 1 c.kind ++ natBytes 1 c.mode ++ natBytes 1 c.compress ++ natBytes 1 c.topkLog2 ++
    natBytes 1 (if c.slot < 0xFF then 1 else 0) ++ natBytes 2 c.thresh ++ natBytes 8 elems)).toNat % 65536

/-- What R228 makes of a command: none where V = 0; whether the uncompressed rule applies. -/
def ReduceCmd.treat (c : ReduceCmd) (src : ByteSource) : Option (RedMode × Bool) :=
  let plain := if c.compress ≠ 0 then RedMode.compressed else if c.mode = 1 ∨ c.kind = 2 then .fast else .exact
  match c.kind with
  | 1 => some (.tally, false)
  | 3 => some (.consensus, false)
  | _ =>
    if c.kind = 2 ∨ c.slot = 0xFF then some (plain, false)
    else
      let v := readNat src (c.aux + 4 * c.slot) 4
      if v = 0 then none else if v < c.thresh then some (.exact, true) else some (plain, false)

/-- This participant contributes: its own tally entry is not 0, as the step's TALLY that wrote the table read it (R206, R228).
DEDUCED, log entry 27. -/
def Dev.contributes (d : Dev) (c : ReduceCmd) : Bool :=
  c.kind != 0 || c.slot == 0xFF ||
    match d.red.ownTallies.find? fun t => t.step = d.step ∧ t.table = c.aux with
    | some t => t.tally.getD c.slot 0 != 0
    | none => true

/-- A TALLY's own entries kept for the step's reductions, the latest of a table first. -/
def Dev.keepTally (d : Dev) (table : Nat) (tally : List Int) : Dev :=
  { d with red := { d.red with ownTallies := ⟨d.step, table, tally⟩ :: d.red.ownTallies.filter fun t => t.step = d.step } }

/-- A finding in SRC or c (R229, R232, R280). `agrees` says that the treatment has agreement records. -/
def Dev.redFinding (d : Dev) (c : Decoded) (r : ReduceCmd) (agrees : Bool) (vs : List Word) : Dev :=
  let nf := badPositions vs
  match nf with
  | [] => d
  | i :: _ =>
    let d := if agrees then d.setLocalNf else d
    let d := d.addSat Reg.sxtStepNf nf.length
    let d := if r.layer < d.layerCount then
        let x := d.sxt.layerNf
        { d with sxt := { d.sxt with
          layerNf := Assoc.set (fun _ => 0) x r.layer (Assoc.get (fun _ => 0) x r.layer + nf.length) } }
      else d
    if d.red.originDone then d
    else
      let d := { d with red := { d.red with originDone := true } }
      let d := (d.setReg Reg.redNfOriginLayer (BitVec.ofNat 32 r.layer)).setReg Reg.redNfOriginTensor c.tensorId
      let d := d.setPair Reg.redNfOriginIndexLo i
      d.record ⟨0x0008, r.layer, d.step, false, false, false, natBytes 1 6 ++ natBytes 3 0 ++ natBytes 4 c.tensorId.toNat ++
        natBytes 8 i ++ natBytes 4 c.tag.toNat ++ natBytes 4 0⟩

/-- The members of a command's group and this package's place in its tree. -/
def Dev.redTree (d : Dev) (c : ReduceCmd) : List Nat × Option Nat × List Nat :=
  if c.kind = 3 then
    match d.governing 0 with
    | some ch => (ch.members.map (·.package), ch.parentOf d.self, ch.childrenOf d.self)
    | none => ([d.self], none, [])
  else
    match (d.governing 3).bind fun ch => ch.group c.group with
    | some ns => (ns.map (·.package), groupParent ns d.self, groupChildren ns d.self)
    | none => ([d.self], none, [])

/-- A REDUCE waits at issue (R235). -/
def Dev.reduceWaits (d : Dev) (c : ReduceCmd) : Bool :=
  if c.kind = 3 then !d.redLive.isEmpty else decide (4 ≤ d.redLive.length)

/-- The elements a command works on: SRC, or the sums c (R221). -/
def ReduceCmd.values (c : ReduceCmd) (mode : RedMode) (src : ByteSource) : List Word :=
  let of := fun (t : Option Desc) => match t with
    | some t => (t.allRows src).flatten
    | none => []
  if mode = .compressed then List.zipWith fAdd (of c.src) (of c.resid) else of c.src

/-- The captured outcome of the replayed step's CONSENSUS (R378, R379): STEP_NF of the first record of CLASS 0 in the slot.
DEDUCED and DESIGN CHOICE, log entry 28. -/
def Dev.capturedOutcome (d : Dev) : Bool :=
  let a := d.captureAddr (d.pair Reg.skyReplayStepLo)
  match (List.range (d.captureBytes / 256)).find? fun i => (d.mem.byte (a + 256 * i)).toNat % 8 = 0 with
  | some i => (d.mem.byte (a + 256 * i + 9)).getLsbD 1
  | none => false

/-- Messages held for a later command offered to the runs again, in order of arrival. -/
def Dev.offerHeld (d : Dev) : Dev :=
  let ms := d.red.held
  ms.foldl (fun d m => d.takeRed m) { d with red := { d.red with held := [] } }

/-- The effect of a REDUCE at its issue. DEDUCED, log entry 27. -/
def Dev.reduceEffect (d : Dev) (c : Decoded) (r : ReduceCmd) (lost : Bool) (src : ByteSource) : Dev :=
  let treat : Option (RedMode × Bool) := r.treat src
  let mode : RedMode := (treat.map (·.1)).getD .exact
  let own := d.contributes r
  let elems := if r.kind = 1 then 128 else (r.src.map Desc.elems).getD 0
  let vals := match r.src with
    | none => []
    | some t => if own ∧ treat.isSome then r.values mode src else List.replicate t.elems 0#32
  let tally := if r.kind = 1 then (List.range 128).map fun i => bytesInt (readBytes src (r.tally + 4 * i) 4) else []
  let tree := d.redTree r
  let n := d.newRun
  let id := n.1
  let d := n.2
  let run : RedRun := ⟨id, r, c.tensorId, c.tag, r.cfg elems, d.step, d.now, d.stamp, mode, .live, 0, 0, 0, own, vals, tally,
    tree.1, tree.2.1, tree.2.2, [], none, [], d.seen⟩
  let d : Dev := { d.writeAt r.status (run.status 0 0xFFFF 0#64) with
    red := { d.red with runs := d.red.runs ++ [run] }
    sky := { d.sky with compresses := d.sky.compresses || r.compress != 0 } }
  let d := if r.kind = 1 then d.keepTally r.aux tally else d
  match treat with
  | none => (d.addSat Reg.redSkippedExperts 1).endRed run 2 0xFFFF
  | some t =>
    let d := if t.2 then d.addSat Reg.redUncompressed 1 else d
    let d := if own then d.redFinding c r (mode = .exact || mode = .compressed) vals else d
    if lost then d.endRed run 9 0xFFFF
    else if mode = .consensus ∧ d.skyMode ≠ 0 then d.writeRed run (.outcome d.capturedOutcome)
    else (d.advanceRed id).offerHeld

/-- Where a REDUCE writes at its issue. -/
def ReduceCmd.written (r : ReduceCmd) : List (Nat × Nat) := [(r.status, 64)]

def State.reduce (s : State) (ev : OpEvents) (kind : Nat) : Host.Outcome State Fault Refusal :=
  s.act fun d => d.issueIf .main fun c => match c.cmd with
    | .reduce r =>
      if r.kind ≠ kind then none
      else if !d.active redPage then some ((d.issue .main c true false).rejectRun .main c rField)
      else if d.reduceWaits r then none
      else some (d.operate s.fuse .main c r.written ev fun src e => e.reduceEffect c r (d.loses ev.blocks) src)
    | _ => none

def execReduceSum (ev : OpEvents) (s : State) : Host.Outcome State Fault Refusal := s.reduce ev 0

def execReduceTally (ev : OpEvents) (s : State) : Host.Outcome State Fault Refusal := s.reduce ev 1

def execReduceMax (ev : OpEvents) (s : State) : Host.Outcome State Fault Refusal := s.reduce ev 2

def execReduceConsensus (s : State) (blocks : List BlockFinding := []) : Host.Outcome State Fault Refusal :=
  s.reduce ⟨blocks, [], [], []⟩ 3

/-! Completion, timeout and drain (R234, R236, R238). -/

/-- `blocks` are the blocks read as the status record is written (R117, R236). -/
def execReduceComplete (slot : Nat) (s : State) (blocks : List BlockFinding := []) : Host.Outcome State Fault Refusal :=
  s.act fun d => match d.redLive[slot]? with
    | some r =>
      if r.phase = .written then (d.found r.written blocks).endRed r (if d.loses blocks then 9 else 1) 0xFFFF else d
    | none => d

/-- The package a run that is not complete waits for: one whose records have not come, the children before the parent, which
itself waits for them (R236, R391). DEDUCED, log entry 27. -/
def RedRun.silent (r : RedRun) (self : Nat) : Nat :=
  let agrees := (r.mode == .exact || r.mode == .compressed) && r.agreed.isNone
  let type := if agrees then 16 else r.valueType
  let awaited := if r.mode = .compressed ∧ !agrees then r.members.filter fun m => m ≠ self else r.children ++ r.parent.toList
  (awaited.find? fun p => !r.has type p).getD 0xFFFF

def execReduceTimeout (slot : Nat) (s : State) : Host.Outcome State Fault Refusal :=
  s.act fun d => match d.redLive[slot]? with
    | some r =>
      let us := if r.cmd.timeoutUs = 0 then max 1 (d.fld Reg.redTimeout 19 0) else r.cmd.timeoutUs
      if r.phase = .live ∧ d.overdue r.issued us then d.endRed r 8 (r.silent d.self) else d
    | none => d

/-- The slices drained (R238). DEDUCED, log entry 25. -/
def Dev.drainRed (d : Dev) : Dev :=
  let d := d.redLive.foldl (fun d r => d.endRed r 10 0xFFFF) d
  { d with red := { d.red with runs := [], held := [] } }

end Sys2Proof.Machine
end

