-- ==== Sys2Proof/Machine/Charts.lean ====
section
/-! DEFINITION. Charts: their images, the checks of a load, the two banks (R327 to R330). -/
namespace Sys2Proof.Machine

/-! Images (R327). -/

/-- Where the sections of an image start and end, from the counts of its header and its group table. -/
structure ChartMap where
  members : Nat
  routes : Nat
  groups : Nat
  nodes : Nat
  fin : Nat
deriving DecidableEq, Repr

/-- `n` entries of `k` bytes from address `a`. -/
def entriesAt (src : ByteSource) (a k n : Nat) : List (List Byte) := (List.range n).map fun i => readBytes src (a + k * i) k

/-- The sections of the image at address `a` whose header is `h`; `groups` are its group entries.
DEDUCED, log entry 37. -/
def chartMap (h : List Byte) (groups : Nat → List (List Byte)) : ChartMap :=
  let routes := alignUp (64 + 4 * u32 h 8) 64
  let gs := alignUp (routes + 16 * u32 h 0xC) 64
  let nodes := alignUp (gs + 8 * u16 h 0x10) 64
  let count := (groups gs).foldl (fun n g => max n (u32 g 0 + u32 g 4)) 0
  ⟨64, routes, gs, nodes, nodes + 8 * count⟩

/-- The weights of a header. -/
def headerWeights (h : List Byte) : List Nat := (List.range 4).map fun i => u8 h (0x12 + i)

/-- The fields of a header are in range (FIELD of R328). -/
def headerOk (h : List Byte) : Bool :=
  let classes := u8 h 2
  u16 h 0 == 1 && classes % 2 == 1 && classes < 32 && zeros h 3 1 && zeros h 0x16 2 && zeros h 0x1C 36 &&
    decide (1 ≤ u32 h 8 ∧ u32 h 8 ≤ 65535 ∧ u32 h 0xC ≤ 65535 ∧ u16 h 0x10 ≤ 256) &&
    (List.range 4).all fun i => classes.testBit (i + 1) == (u8 h (0x12 + i) != 0)

/-- A route entry's fields are in range. -/
def routeOk (r : List Byte) : Bool :=
  let n := u8 r 3
  decide (1 ≤ u8 r 2 ∧ u8 r 2 ≤ 16 ∧ 1 ≤ n ∧ n ≤ 8) && zeros r 0xC 4 &&
    (List.range 8).all fun i => if i < n then decide (u8 r (4 + i) < 36) else u8 r (4 + i) == 0xFF

/-- Values that rise strictly. -/
def strictlyRising : List Nat → Bool
  | a :: b :: rest => decide (a < b) && strictlyRising (b :: rest)
  | _ => true

/-- Following PARENT from a node reaches the root within 16 edges; `fuel` counts the nodes visited. -/
def climbs (parents : List Nat) (root : Nat) : Nat → Nat → Bool
  | 0, _ => false
  | fuel + 1, i =>
    match parents[i]? with
    | none => false
    | some p => p == root || climbs parents root fuel p

/-- A tree of R328: exactly one root, every node within 16 edges of it, so that there is no cycle. -/
def treeOk (parents : List Nat) (root : Nat) : Bool :=
  (parents.filter fun p => p == root).length == 1 && (List.range parents.length).all fun i => climbs parents root 17 i

def memberOf (b : List Byte) : Member := ⟨u16 b 0, u16 b 2⟩

def routeEntry (b : List Byte) : Route := ⟨u16 b 0, u8 b 2, u8 b 3, (List.range 8).map fun i => u8 b (4 + i)⟩

def nodeOf (b : List Byte) : Node := ⟨u16 b 0, u32 b 4⟩

/-- What a load finds in an image: the lowest reason that applies (0 for none) and the Chart (R328, R329). Reserved bytes and fields
are judged of the entries that lie in the image's BYTES. `self` is the package
the MEMBER check looks for, none where a replay-bank load names none; `busy` that the slot governs a class.
DEDUCED, log entry 37. -/
def Dev.readChart (d : Dev) (a : Nat) (self : Option Nat) (busy : Bool) : Nat × Chart :=
  let src := d.src
  let known := fun (k : Nat) (es : List Nat) => (es.filter fun x => inJob x k).map fun x => readBytes src x k
  let h := readBytes src a 64
  let m := chartMap h fun gs => entriesAt src (a + gs) 8 (u16 h 0x10)
  let empty : Chart := ⟨0#32, 0, [], [], [], []⟩
  let size := min 0x400000 (u32 h 0x18)
  let inImage := fun (off k n : Nat) => known k ((List.range (min n ((size - off) / k))).map fun i => a + off + k * i)
  let fields := headerOk h && (inImage m.routes 16 (u32 h 0xC)).all routeOk &&
    (inImage m.groups 8 (u16 h 0x10)).all fun g =>
      u32 g 4 != 0 && (inImage (m.nodes + 8 * u32 g 0) 8 (u32 g 4)).all fun n => zeros n 2 2
  if !inJob a 64 then (2, empty)
  else if !fields then (1, empty)
  else if 0x400000 < m.fin ∨ !inJob a m.fin then (2, empty)
  else
    let members := (entriesAt src (a + m.members) 4 (u32 h 8)).map memberOf
    let routeBytes := entriesAt src (a + m.routes) 16 (u32 h 0xC)
    let groupBytes := entriesAt src (a + m.groups) 8 (u16 h 0x10)
    let nodeBytes := fun (g : List Byte) => entriesAt src (a + m.nodes + 8 * u32 g 0) 8 (u32 g 4)
    let groups := groupBytes.map fun g => (nodeBytes g).map nodeOf
    let isMember := fun (p : Nat) => members.any fun m => m.package == p
    let chart : Chart := ⟨BitVec.ofNat 32 (u32 h 4), u8 h 2, headerWeights h, members, routeBytes.map routeEntry, groups⟩
    let bad :=
      if 0x400000 < u32 h 0x18 ∨ u32 h 0x18 ≠ alignUp m.fin 64 ∨ !inJob a (u32 h 0x18) then 2
      else if !(strictlyRising (members.map (·.package)) && strictlyRising (chart.routes.map (·.dest)) &&
          groups.all fun ns => (ns.map (·.package)).eraseDups.length == ns.length) then 3
      else if !((match self with
          | some p => isMember p
          | none => false) && groups.all fun ns => ns.all fun n => isMember n.package) then 4
      else if !(treeOk (members.map (·.parent)) 0xFFFF && groups.all fun ns => treeOk (ns.map (·.parent)) 0xFFFFFFFF) then 5
      else if busy then 6
      else 0
    (bad, chart)

/-! Loads (R328, R329, R338). -/

/-- Some class is governed by a slot under a value of CHT_GOVERN. -/
def governs (w : Word) (slot : Nat) : Bool := (List.range 5).any fun c => governedSlot w c == some slot

/-- The pages that the first Chart takes out of READY (R239, R338). DEDUCED, log entry 37. -/
def Dev.chartLoaded (d : Dev) : Dev :=
  if d.cht.live.all (·.isNone) then d
  else
    let d := if d.ready chtPage then d.moveTo chtPage 2 else d
    if d.ready redPage then d.moveTo redPage 2 else d

/-- GO: the Chart at CHT_LOAD into a slot of one bank. DEDUCED, log entry 37. -/
def Dev.loadChart (d : Dev) (slot : Nat) (replay : Bool) : Dev :=
  let assume := d.fld Reg.skyAssume 15 0
  let self := if replay then (if assume = 0xFFFF then none else some assume) else some d.number
  let busy := if replay then d.skyMode == 1 && governs d.cht.govReplay slot else governs (d.reg Reg.chtGovern) slot
  let r := d.readChart (d.pair Reg.chtLoadLo) self busy
  let d := d.setFld Reg.chtLoadStatus 6 4 slot
  if r.1 ≠ 0 then (d.setFld Reg.chtLoadStatus 3 0 r.1).raise chtPage 1
  else if replay then
    { d with cht := { d.cht with replay := d.cht.replay.set slot (some r.2) } }.raise chtPage 0
  else
    let d : Dev := { d with cht := { d.cht with live := d.cht.live.set slot (some r.2) } }
    ((d.setReg (Reg.chtSlotId slot) r.2.id).chartLoaded).raise chtPage 0

/-- A write to CHT_LOAD_CTRL for one of the two banks. -/
def Dev.writeLoad (d : Dev) (value : Word) (replay : Bool) : Dev :=
  if bit value 9 ≠ replay then d
  else
    let d := (d.store Reg.chtLoadCtrl value).setFlag Reg.chtLoadCtrl 8 false
    if bit value 8 then d.loadChart (bits value 2 0) replay else d

/-- `blocks` are the reads of the image (R117). -/
def execChartLoad (hart : Fin 28) (value : Word) (s : State) (blocks : List BlockFinding := []) : Host.Outcome State Fault Refusal :=
  .next (s.byHart hart fun d => (d.found [] blocks).writeLoad value false)

/-- `blocks` are the reads of the image (R117). -/
def execChartLoadReplay (hart : Fin 28) (value : Word) (s : State) (blocks : List BlockFinding := []) :
    Host.Outcome State Fault Refusal :=
  .next (s.byHart hart fun d => (d.found [] blocks).writeLoad value true)

/-- The first write since reset sets the number, whatever it writes; 0xFFFF means unset (R5, R323). -/
def execChtPackageWrite (hart : Fin 28) (value : Word) (s : State) : Host.Outcome State Fault Refusal :=
  .next (s.byHart hart fun d =>
    if d.cht.numbered then d
    else { d with cht := { d.cht with numbered := true } }.setFld Reg.chtPackage 15 0 (bits value 15 0))

end Sys2Proof.Machine
end

