-- ==== Sys2Proof/Machine/Helm.lean ====
section
/-! DEFINITION. The Helm: step sizes, exact norms, decay tables, the update rule, orthogonalisation, the version ring
(10_helm_update.md). -/
namespace Sys2Proof.Machine

def hlmPage : Page := page1 .hlm

/-! Exact norms (R251, R255, R256). -/

def NormSum.zero : NormSum := ⟨0, none, false⟩

/-- The squared norm of some FP32 values on one window. -/
def normOf (ws : List Word) : NormSum :=
  let fin := (ws.map f32).filter fun v => v.isFinite && !v.isZero
  let nf := ws.any fun w => !fIsFinite w
  match fin with
  | [] => ⟨0, none, nf⟩
  | v :: vs =>
    let g := vs.foldl (fun a v => max a v.floorLog2) v.floorLog2 + 1
    let sq := fun (v : FVal) => match v with
      | .fin _ m e =>
        let k := e + 31 - g
        let n := if 0 ≤ k then m * 2 ^ k.toNat else m / 2 ^ (-k).toNat
        n * n
      | _ => 0
    ⟨listSum (fin.map sq), some g, nf⟩

/-- Two records added exactly by the shift rule. -/
def NormSum.add (a b : NormSum) : NormSum :=
  match a.g, b.g with
  | none, _ => { b with nf := a.nf || b.nf }
  | _, none => { a with nf := a.nf || b.nf }
  | some x, some y =>
    let z := min x y
    ⟨a.n2 * 4 ^ (x - z).toNat + b.n2 * 4 ^ (y - z).toNat, some z, a.nf || b.nf⟩

/-- A record's value rounded once to FP32; NaN where a non-finite element is present. -/
def NormSum.value (a : NormSum) : Word :=
  if a.nf then nanF32
  else match a.g with
    | none => 0#32
    | some g => toF32 (.fin false a.n2 (2 * g - 62))

/-- The 32-byte record of a NORM. -/
def NormSum.record (a : NormSum) (layer elems : Nat) : List Byte :=
  let g : Int := a.g.getD (-32768)
  natBytes 2 (g % 65536).toNat ++ natBytes 1 (if a.nf then 1 else 0) ++ natBytes 1 0 ++ natBytes 2 layer ++ natBytes 2 0 ++
    natBytes 12 a.n2 ++ natBytes 4 a.value.toNat ++ natBytes 8 elems

/-- The update ratio √(x_d / x_w) of a layer (R256). -/
def LayerRec.ratio (l : LayerRec) : Word :=
  let xd := l.xd.value
  let xw := l.xw.value
  if xw = 0#32 then (if xd = 0#32 then 0#32 else posInf) else fSqrt (fDiv xd xw)

def LayerRec.empty (layer : Nat) : LayerRec := ⟨layer, false, 0#64, 0#64, 0, NormSum.zero, NormSum.zero, 0#32⟩

/-- The step's figures of a layer changed; layers stand in ascending order. -/
def onLayer (layer : Nat) (f : LayerRec → LayerRec) : List LayerRec → List LayerRec
  | [] => [f (LayerRec.empty layer)]
  | l :: ls =>
    if l.layer = layer then f l :: ls
    else if layer < l.layer then f (LayerRec.empty layer) :: l :: ls
    else l :: onLayer layer f ls

def Dev.onLayer (d : Dev) (layer : Nat) (f : LayerRec → LayerRec) : Dev :=
  { d with hlm := { d.hlm with layers := Machine.onLayer layer f d.hlm.layers } }

/-! Orthogonalisation (R245 to R247). -/

abbrev Matrix := List (List Word)

def transposeOf (cols : Nat) (x : Matrix) : Matrix := (List.range cols).map fun j => x.map fun row => row.getD j 0#32

/-- A row of FP32 values as blocks of a compensated pair (R37). -/
def pairRow (ws : List Word) : List (MxBlock × MxBlock) :=
  (cutBlocks (ceilDiv ws.length 32) ws).map fun b => pairConvertBlock 0 (b.map f32)

/-- The array product of two matrices given by rows along K, as pairs (R38, R71). -/
def pairProduct (a b : Matrix) : Matrix :=
  let bs := b.map pairRow
  (a.map pairRow).map fun x => bs.map fun y =>
    fAdd 0#32 (segmentTree (List.zipWith (fun p q => pairBlockResult p.1 p.2 q.1 q.2 0 0) x y))

def onPairs (f : Word → Word → Word) (a b : Matrix) : Matrix := List.zipWith (List.zipWith f) a b

/-- One iteration of R246 on X of m rows and k columns, m not above k. -/
def nsStep (m k : Nat) (coef : Word × Word × Word) (x : Matrix) : Matrix :=
  let a := pairProduct x x
  let p := pairProduct a (transposeOf m a)
  let b := onPairs (fun p a => fFma coef.2.2 p (fMul coef.2.1 a)) p a
  let y := pairProduct b (transposeOf k x)
  onPairs (fun x y => fFma coef.1 x y) x y

/-- The iterations; none where one produces a non-finite value. -/
def nsRun (m k : Nat) : List (Word × Word × Word) → Matrix → Option Matrix
  | [], x => some x
  | c :: cs, x =>
    let y := nsStep m k c x
    if y.all fun row => row.all fIsFinite then nsRun m k cs y else none

/-- The smallest h with 4^h ≥ n, for n at least 1. -/
def halfLog (n : Nat) : Nat := (ceilLog2 n + 1) / 2

/-- The orthogonalised matrix of a sign matrix of `r` rows and `c` columns. DEDUCED, log entry 29. -/
def orthogonal (coefs : List (Word × Word × Word)) (r c : Nat) (dm : Matrix) : Option Matrix :=
  let nnz := listSum (dm.map fun row => (row.filter fun w => !(f32 w).isZero).length)
  if nnz = 0 then some dm
  else
    let x := dm.map fun row => row.map fun w => scaleBy w (-(halfLog nnz : Int))
    if r ≤ c then nsRun r c coefs x
    else (nsRun c r coefs (transposeOf c x)).map (transposeOf r)

/-- The coefficient rows of the first `n` iterations (R248). -/
def Dev.nsCoefs (d : Dev) (n : Nat) : List (Word × Word × Word) :=
  (List.range n).map fun i => (d.reg (Reg.hlmNsCoef (3 * i)), d.reg (Reg.hlmNsCoef (3 * i + 1)), d.reg (Reg.hlmNsCoef (3 * i + 2)))

/-! The update rule (R242, R243). -/

/-- sign(v). -/
def signOf (v : Word) : Word := if (f32 v).isZero then 0#32 else if (f32 v).isNeg then fNeg fOne else fOne

/-- Steps 1 to 4 for one element: m′ and v. -/
def momentum (u : HelmUpdateCmd) (kappa g m : Word) : BitVec 16 × Word :=
  let g' := fMul g kappa
  let m' := f32ToBF16 (fFma u.beta1 m (fMul (fSub fOne u.beta1) g'))
  (m', fFma u.beta2 (bf16ToF32 m') (fMul (fSub fOne u.beta2) g'))

/-- Steps 7 and 8 for one element. -/
def newWeight (f h w dir : Word) : Word := fFma w f (fNeg (fMul h dir))

/-! Decay tables (R264 to R268). -/

/-- A decay table as configured: its address and the log2 of its entries. -/
def Dev.decayTable (d : Dev) (n : Nat) : Nat × Nat :=
  let cfg := d.reg (Reg.hlmDecayCfg n)
  ((d.reg (Reg.hlmDecayBase n)).toNat + 0x100000000 * bits cfg 24 16, bits cfg 5 1)

/-- The entry of a step. -/
def decayEntry (t : Nat × Nat) (step : Nat) : Nat := t.1 + 32 * (step % 2 ^ t.2)

/-- f_n of R265. -/
def decayFactor (lr wd : Word) : Word := fSub fOne (fMul lr wd)

/-- FP64 fma of widened operands. -/
def dFma (a b c : FVal) : Dword := toF64 (FVal.add (FVal.mul a b) c)

/-- The VALID tables. -/
def Dev.validTables (d : Dev) : List Nat := (List.range 16).filter fun n => d.flag (Reg.hlmDecayCfg n) 0

/-- Entry n − 1 of every VALID table stands. DEDUCED, log entry 29. -/
def Dev.decayReady (d : Dev) (n : Nat) : Bool :=
  d.validTables.all fun t => readNat d.src (decayEntry (d.decayTable t) (n - 1) + 0x18) 4 == (n - 1) % 0x100000000

/-- Entry n of a table written from entry n − 1. -/
def Dev.writeDecay (d : Dev) (n : Nat) (skip : Bool) (t : Nat) : Dev :=
  let tab := d.decayTable t
  let e := decayEntry tab (n - 1)
  let p := readDword d.src e
  let s := readDword d.src (e + 8)
  let m := readDword d.src (e + 16)
  let lr := d.reg Reg.hlmLr
  let f := f32 (decayFactor lr (d.reg (Reg.hlmDecayWd t)))
  let psm := if skip then (p, s, m)
    else (toF64 (FVal.mul (f64 p) f), dFma (f64 s) f (f32 lr), toF64 (FVal.mul (f64 m) (f32 (d.reg (Reg.hlmDecayBeta1 t)))))
  d.writeAt (decayEntry tab n) (natBytes 8 psm.1.toNat ++ natBytes 8 psm.2.1.toNat ++ natBytes 8 psm.2.2.toNat ++
    natBytes 4 n ++ natBytes 1 (if skip then 1 else 0) ++ natBytes 3 0)

/-- What a catch-up from step t to n − 1 works with: ρ, q = s × σ, μ (R266). -/
structure CatchUp where
  rho : Dword
  q : Dword
  mu : Dword

def catchUpOf (src : ByteSource) (tab : Nat × Nat) (n t : Nat) (shape : Word) : CatchUp :=
  let a := decayEntry tab (n - 1)
  let b := decayEntry tab t
  let rho := dDiv (readDword src a) (readDword src b)
  let sigma := dFma ((f64 (readDword src (b + 8))).neg) (f64 rho) (f64 (readDword src (a + 8)))
  ⟨rho, toF64 (FVal.mul (f32 shape) (f64 sigma)), dDiv (readDword src (a + 16)) (readDword src (b + 16))⟩

/-- W_c and m_c of one element, for its direction O. -/
def CatchUp.apply (k : CatchUp) (w m o : Word) : Word × Word :=
  let step := toF64 (FVal.mul (f32 o) (f64 k.q))
  (toF32 (FVal.sub (FVal.mul (f32 w) (f64 k.rho)) (f64 step)),
    bf16ToF32 (BitVec.ofNat 16 (fmtBF16.round .even (FVal.mul (f32 m) (f64 k.mu)))))

/-! The version ring (R257 to R260, R379). -/

def Dev.ringCount (d : Dev) : Nat := max 3 (min 8 (d.fld Reg.hlmRingCtrl 3 0))

def Dev.slotBytes (d : Dev) : Nat := 0x100000 * d.fld Reg.hlmRingSlot 23 0

def Dev.slotBase (d : Dev) (i : Nat) : Nat := d.pair Reg.hlmRingBaseLo + i * d.slotBytes

def Dev.setSlot (d : Dev) (i st : Nat) : Dev := d.setFld Reg.hlmRingState (4 * i + 3) (4 * i) st

/-- The lowest slot in a state. -/
def Dev.slotIn (d : Dev) (st : Nat) : Option Nat := (List.range d.ringCount).find? fun i => d.slotState i = st

/-- The slot that holds a step. -/
def Dev.slotOf (d : Dev) (step : Nat) : Option Nat :=
  (List.range d.ringCount).find? fun i =>
    d.slotState i ≠ 0 ∧ d.slotState i ≠ 1 ∧ (d.reg (Reg.hlmRingStep i)).toNat = step % 0x100000000

/-- The Helm's step number n (R250). -/
def Dev.helmStep (d : Dev) : Nat := d.pair Reg.hlmStepLo

/-- Where the version of step n − 1 lies. -/
def Dev.prevBase (d : Dev) : Option Nat :=
  if d.skyMode ≠ 0 then some (d.pair Reg.skyPrevLo) else (d.slotOf (d.helmStep - 1)).map d.slotBase

/-- Where the new version is written. -/
def Dev.outBase (d : Dev) : Nat := if d.skyMode ≠ 0 then d.pair Reg.skyOutLo else d.slotBase (d.hlm.opened.getD ((d.slotIn 0).getD 0))

/-- The end of the update leg (R257, R343 DIGEST): the slot becomes UNFIXED, the layers' digests are recorded.
DEDUCED and DESIGN CHOICE, log entry 30. -/
def Dev.endUpdateLeg (d : Dev) : Dev :=
  let d := (d.hlm.layers.filter (·.updated)).foldl (fun d l =>
    d.record ⟨0x000B, l.layer, d.step, false, false, false, natBytes 8 l.lane0.toNat ++ natBytes 8 l.lane1.toNat ++
      natBytes 8 l.blocks ++ natBytes 4 l.ratio.toNat ++ natBytes 4 0⟩) d
  match d.hlm.opened with
  | none => d
  | some i =>
    let d := if d.hlm.skip then d else d.addWrap Reg.hlmApplied 1
    let d := { d with hlm := { d.hlm with opened := none } }
    if i < 8 then (d.setSlot i 2).setReg (Reg.hlmRingStep i) (BitVec.ofNat 32 d.helmStep) else d

/-- The pinned slot, where a pin is held. -/
def Dev.pinned (d : Dev) : Option Nat :=
  if d.flag Reg.hlmRingCur 11 then some (d.fld Reg.hlmRingCur 10 8) else none

/-- A step fixed: its slot becomes FIXED, the slot FIXED before PINNED or FREE. -/
def Dev.ringFix (d : Dev) (step : Nat) : Dev :=
  match d.slotOf step with
  | none => d
  | some i =>
    if d.slotState i ≠ 2 then d
    else
      let d := match d.slotIn 3 with
        | some j => d.setSlot j (if d.pinned = some j then 4 else 0)
        | none => d
      (d.setSlot i 3).setFld Reg.hlmRingCur 6 4 i

/-- A fix leg completes: a PIN asked for takes effect (R259). -/
def Dev.ringPin (d : Dev) : Dev :=
  match d.hlm.pinAsked, d.slotIn 3 with
  | true, some i =>
    let d := { d.setFlag Reg.hlmRingCtrl 8 false with hlm := { d.hlm with pinAsked := false } }
    ((d.setFld Reg.hlmRingCur 10 8 i).setFlag Reg.hlmRingCur 11 true).raise hlmPage 3
  | _, _ => d

/-- UNPIN (R259). -/
def Dev.ringUnpin (d : Dev) : Dev :=
  match d.pinned with
  | none => d
  | some i =>
    let d := if d.slotState i = 4 then d.setSlot i 0 else d
    d.setFlag Reg.hlmRingCur 11 false

/-- A rollback to the last fixed step (R260). -/
def Dev.ringRollback (d : Dev) : Dev :=
  let d := (List.range 8).foldl (fun d i => if d.slotState i = 1 ∨ d.slotState i = 2 then d.setSlot i 0 else d) d
  { d with hlm := { d.hlm with opened := none, layers := [], ringWait := false } }

/-! Failures (R269). -/

/-- A Helm command failed. -/
def Dev.helmFail (d : Dev) (c : Decoded) (layer reason : Nat) : Dev :=
  let d := d.setReg Reg.hlmFaultLast (BitVec.ofNat 32 (layer % 65536 + 0x10000 * reason))
  let d := (d.raise hlmPage 2).pageFault hlmPage
  (d.record (d.faultRec hlmPage layer reason c.tag c.addr [])).bad

/-! HELM_SET (R248 to R251, R264). -/

/-- What a HELM_SET STEP does at its operation boundary (R250, R343, R401): the step sizes, the number n, the STEP record, and f
in HLM_RING_STEP0 where the ring holds a restored version. -/
def Dev.setStep (d : Dev) (h : HelmSetCmd) : Dev :=
  let n := h.step.toNat
  let d := ((d.setReg Reg.hlmLr h.value0).setReg Reg.hlmClip h.value1).setPair Reg.hlmStepLo n
  let d := if d.hlm.seed then
      { d.setReg (Reg.hlmRingStep 0) (BitVec.ofNat 32 (0x100000000 + n - 1)) with hlm := { d.hlm with seed := false } }
    else d
  d.record ⟨0x0005, 0xFFFF, n, false, false, false, natBytes 4 h.value0.toNat ++ natBytes 4 h.value1.toNat⟩

def Dev.helmSetEffect (d : Dev) (c : Decoded) (h : HelmSetCmd) (lost : Bool) (src : ByteSource) : Dev :=
  if lost then d.helmFail c h.layer 4
  else match h.kind with
    | 0 => d.setStream .main fun s => { s with late := some (.helmStep h) }
    | 1 =>
      match h.src with
      | none => d
      | some t =>
        let x := normOf (t.allRows src).flatten
        (d.writeAt h.address (x.record h.layer t.elems)).onLayer h.layer fun l => { l with gnorm := fAdd l.gnorm x.value }
    | 2 => (List.range 15).foldl (fun d i => d.setReg (Reg.hlmNsCoef i) (readWord src (h.address + 4 * i))) d
    | _ =>
      let d := d.setReg (Reg.hlmDecayCfg h.table) (BitVec.ofNat 32 (1 + 2 * h.depth + 0x10000 * (h.address / 0x100000000 % 512)))
      let d := d.setReg (Reg.hlmDecayBase h.table) (BitVec.ofNat 32 h.address)
      (d.setReg (Reg.hlmDecayBeta1 h.table) h.value0).setReg (Reg.hlmDecayWd h.table) h.value1

def HelmSetCmd.written (h : HelmSetCmd) : List (Nat × Nat) := if h.kind = 1 then [(h.address, 32)] else []

def State.helmSet (s : State) (ev : OpEvents) (kind : Nat) : Host.Outcome State Fault Refusal :=
  s.act fun d => d.issueIf .main fun c => match c.cmd with
    | .helmSet h =>
      if h.kind = kind then
        some (d.operate s.fuse .main c h.written ev fun src e => e.helmSetEffect c h (d.loses ev.blocks) src)
      else none
    | _ => none

def execHelmSetStep (ev : OpEvents) (s : State) : Host.Outcome State Fault Refusal := s.helmSet ev 0

def execHelmSetNorm (ev : OpEvents) (s : State) : Host.Outcome State Fault Refusal := s.helmSet ev 1

def execHelmSetCoef (ev : OpEvents) (s : State) : Host.Outcome State Fault Refusal := s.helmSet ev 2

def execHelmSetDecay (ev : OpEvents) (s : State) : Host.Outcome State Fault Refusal := s.helmSet ev 3

/-! HELM_UPDATE (R252 to R268). -/

/-- One row of a tensor as the Helm works on it: the weights and momentum read, the momentum's codes, the gradient, whether the row is touched, its
count, and its weights and momentum as caught up. -/
structure HelmRow where
  w : List Word
  raw : List (BitVec 16)
  m : List Word
  g : List Word
  touched : Bool
  count : Nat
  wc : List Word
  mc : List Word

def readWords (src : ByteSource) (a n : Nat) : List Word := (List.range n).map fun i => readWord src (a + 4 * i)

def readHalves (src : ByteSource) (a n : Nat) : List (BitVec 16) :=
  (List.range n).map fun i => BitVec.ofNat 16 (readNat src (a + 2 * i) 2)

/-- Whether a row or expert is touched (R263). -/
def HelmUpdateCmd.touched (u : HelmUpdateCmd) (src : ByteSource) (i : Nat) : Bool :=
  match u.lazy with
  | 0 => true
  | 1 => (match u.mask with
    | some t => t.code src 0 i != 0
    | none => false)
  | _ => readNat src (u.tally + 4 * u.slot) 4 != 0

/-- The rows as read. -/
def HelmUpdateCmd.rows (u : HelmUpdateCmd) (prev src : ByteSource) (base : Nat) : List HelmRow :=
  let c := u.grad.len0
  (List.range u.grad.len1).map fun i =>
    let w := readWords prev (base + 256 * u.wOffset + 4 * c * i) c
    let raw := readHalves prev (base + 256 * u.mOffset + 2 * c * i) c
    let m := raw.map bf16ToF32
    let touched := u.touched src i
    let count := match u.lazy with
      | 0 => 0
      | 1 => readNat prev (base + 256 * u.cOffset + 4 * i) 4
      | _ => readNat prev (base + 256 * u.cOffset) 4
    ⟨w, raw, m, if touched then u.grad.row src i else [], touched, count, w, m⟩

/-- The steps a touched lazy row lies behind n − 1 (R266, R268). -/
def HelmRow.behind (x : HelmRow) (n : Nat) : Nat := (0x100000000 + n - 1 - x.count) % 0x100000000

/-- Touched rows caught up to step n − 1, with the direction of each row. -/
def HelmUpdateCmd.caughtUp (u : HelmUpdateCmd) (src : ByteSource) (tab : Nat × Nat) (n : Nat) (rows : List HelmRow)
    (dirs : Matrix) : List HelmRow :=
  (rows.zip dirs).map fun p =>
    let x := p.1
    if u.lazy = 0 ∨ !x.touched ∨ x.behind n = 0 then x
    else
      let k := catchUpOf src tab n x.count u.shape
      let e := ((x.w.zip x.m).zip p.2).map fun q => k.apply q.1.1 q.1.2 q.2
      { x with wc := e.map (·.1), mc := e.map (·.2) }

/-- The linear indices of the touched elements with a non-finite input. DEDUCED, log entry 29. -/
def badInputs (c : Nat) (rows : List HelmRow) : List Nat :=
  (rows.zipIdx.map fun p =>
    if p.1.touched then
      (badPositions (List.zipWith (fun a b => if fIsFinite a then b else a) p.1.g
        (List.zipWith (fun a b => if fIsFinite a then b else a) p.1.wc p.1.mc))).map fun j => p.2 * c + j
    else []).flatten

/-- What an update makes of its rows: the new weights and momentum, or the reason it fails with the inputs at fault. -/
inductive Updated where
  | failed (reason : Nat) (inputs : List Nat)
  | done (w : Matrix) (m : List (List (BitVec 16)))

/-- R242 with R266 and R267 over all rows of a tensor; an untouched row keeps its codes (R129). DEDUCED, log entry 29. -/
def Dev.helmRows (d : Dev) (u : HelmUpdateCmd) (rows : List HelmRow) : Updated :=
  let n := d.helmStep
  let r := u.grad.len1
  let c := u.grad.len0
  let tab := d.decayTable u.decay
  let coefs := d.nsCoefs u.nsIters
  let late := rows.any fun x => x.touched && u.lazy != 0 && x.behind n != 0
  let aged := rows.any fun x => x.touched && u.lazy != 0 && decide (2 ^ tab.2 ≤ x.behind n)
  let bad := badInputs c rows
  let signs := rows.map fun x => x.m.map signOf
  let dirs := if late ∧ u.nsIters ≠ 0 then orthogonal coefs r c signs else some signs
  if !bad.isEmpty then .failed 1 bad
  else if aged then .failed 2 []
  else match dirs with
    | none => .failed 1 []
    | some dirs =>
      let rows := u.caughtUp d.src tab n rows dirs
      let bad := badInputs c rows
      if !bad.isEmpty then .failed 1 bad
      else
        let kappa := d.reg Reg.hlmClip
        let mv := rows.map fun x => List.zipWith (momentum u kappa) x.g x.mc
        let sd := mv.map fun row => row.map fun p => signOf p.2
        match if u.nsIters = 0 ∨ !(rows.any (·.touched)) then some sd else orthogonal coefs r c sd with
        | none => .failed 1 []
        | some dm =>
          let lr := d.reg Reg.hlmLr
          let f := decayFactor lr u.wd
          let h := fMul lr u.shape
          .done
            ((rows.zip dm).map fun p => if p.1.touched then List.zipWith (newWeight f h) p.1.wc p.2 else p.1.w)
            ((rows.zip mv).map fun p => if p.1.touched then p.2.map (·.1) else p.1.raw)

/-- The ranges a command names in a slot: offset and length in bytes (R253). -/
def HelmUpdateCmd.ranges (u : HelmUpdateCmd) : List (Nat × Nat) :=
  let n := u.grad.len0 * u.grad.len1
  let counts := match u.lazy with
    | 0 => []
    | 1 => [(256 * u.cOffset, 4 * u.grad.len1)]
    | _ => [(256 * u.cOffset, 4)]
  [(256 * u.wOffset, 4 * n), (256 * u.mOffset, 2 * n)] ++ counts

/-- A range of the new version written, filled with zero bytes to a block's end, and added to the layer's digest (R346). -/
def Dev.writeRange (d : Dev) (layer off : Nat) (bs : List Byte) : Dev :=
  let bs := bs ++ List.replicate (alignUp bs.length 256 - bs.length) 0#8
  (d.writeAt (d.outBase + off) bs).onLayer layer fun l =>
    let x := digestFrom (l.lane0, l.lane1) (off / 256) bs
    { l with updated := true, lane0 := x.1, lane1 := x.2, blocks := l.blocks + bs.length / 256 }

/-- The step opened at its first HELM_UPDATE (R257, R258, R261, R262, R265): the slot, whose bytes are open until a command
names them, the flag, the decay tables; whether entry n − 1 of a VALID table is missing. -/
def Dev.openStep (d : Dev) : Dev × Bool :=
  if d.hlm.opened.isSome then (d, false)
  else
    let skip := d.flag Reg.redConsensus 1
    let slot := if d.skyMode ≠ 0 then 8 else (d.slotIn 0).getD 0
    let d := if slot < 8 then ((d.leaveOpen (d.slotBase slot, d.slotBytes)).setSlot slot 1).setFld Reg.hlmRingCur 2 0 slot else d
    let d := { d with hlm := { d.hlm with opened := some slot, skip := skip, ringWait := false } }
    let d := if skip then d.raise hlmPage 0 else d
    if d.decayReady d.helmStep then (d.validTables.foldl (fun d t => d.writeDecay d.helmStep skip t) d, false) else (d, true)

/-- A failed update leaves open bits in its ranges of the new version. -/
def Dev.updateFail (d : Dev) (c : Decoded) (u : HelmUpdateCmd) (reason : Nat) (inputs : List Nat) : Dev :=
  let d := u.ranges.foldl (fun d x => d.leaveOpen (d.outBase + x.1, x.2)) d
  (d.attribute .helm d.sxt.order u.layer c.tensorId c.tag inputs).helmFail c u.layer reason

/-- The MX copy of the rows updated (R253). -/
def Dev.writeCopy (d : Dev) (o : Origin) (u : HelmUpdateCmd) (touched : List Bool) (w : Matrix) : Dev :=
  match u.mxcopy with
  | none => d
  | some t =>
    let mode := d.mode u.round o.tensorId
    let rows := ((w.zip touched).zipIdx.filter fun p => p.1.2).map fun p => t.putRow mode p.2 p.1.1
    d.output o .conversion t (Out.concat rows)

/-- The counts after an update. -/
def HelmUpdateCmd.counts (u : HelmUpdateCmd) (n : Nat) (rows : List HelmRow) : List Byte :=
  let one := fun (x : HelmRow) => natBytes 4 (if x.touched then n else x.count)
  match u.lazy with
  | 1 => (rows.map one).flatten
  | _ => ((rows.take 1).map one).flatten

/-- DEDUCED, log entry 29. -/
def Dev.helmUpdateEffect (d : Dev) (c : Decoded) (u : HelmUpdateCmd) (lost : Bool) (src : ByteSource) : Dev :=
  let o := d.origin .main c 0xFFFF
  let opened := d.openStep
  let d := opened.1
  if opened.2 then d.updateFail c u 3 []
  else if lost then d.updateFail c u 4 []
  else
    let k := d.freeCtr
    let at_ : Nat × ByteSource × Dev := match d.prevBase with
      | some b => (b, src, d)
      | none => (0, Config.freeByte k, { d with freeCtr := k + 1 })
    let d := at_.2.2
    if d.hlm.skip then
      u.ranges.foldl (fun d x => d.writeRange u.layer x.1 (readBytes at_.2.1 (at_.1 + x.1) x.2)) d
    else
      let rows := u.rows at_.2.1 src at_.1
      match d.helmRows u rows with
      | .failed reason inputs => d.updateFail c u reason inputs
      | .done w m =>
        let d := d.writeRange u.layer (256 * u.wOffset) ((w.map fun row => (row.map fun x => natBytes 4 x.toNat).flatten).flatten)
        let d := d.writeRange u.layer (256 * u.mOffset) ((m.map fun row => (row.map fun x => natBytes 2 x.toNat).flatten).flatten)
        let d := if u.lazy = 0 then d else d.writeRange u.layer (256 * u.cOffset) (u.counts d.helmStep rows)
        let old := (rows.map (·.w)).flatten
        let delta := List.zipWith fSub w.flatten old
        let d := d.onLayer u.layer fun l => { l with xw := l.xw.add (normOf old), xd := l.xd.add (normOf delta) }
        d.writeCopy o u (rows.map (·.touched)) w

/-- Where an update writes. -/
def Dev.updateWritten (d : Dev) (u : HelmUpdateCmd) : List (Nat × Nat) :=
  (u.ranges.map fun x => (d.outBase + x.1, alignUp x.2 256)) ++ (match u.mxcopy with
    | some t => t.runs
    | none => [])

/-- The consensus flag of the step may be read (R261). -/
def Dev.consensusValid (d : Dev) : Bool :=
  d.flag Reg.redConsensus 0 && d.fld Reg.redConsensus 31 16 == d.fld Reg.hlmStepLo 15 0

def execHelmUpdate (ev : OpEvents) (s : State) : Host.Outcome State Fault Refusal :=
  s.act fun d => d.issueIf .main fun c => match c.cmd with
    | .helmUpdate u =>
      let first := d.hlm.opened.isNone
      if !d.active hlmPage || (first && !d.consensusValid) then
        some ((d.issue .main c true false).rejectRun .main c rField)
      else if first && d.skyMode == 0 && (d.slotIn 0).isNone then
        some (if d.hlm.ringWait then d else ({ d with hlm := { d.hlm with ringWait := true } }).raise hlmPage 1)
      else some (d.operate s.fuse .main c (d.updateWritten u) ev fun src e => e.helmUpdateEffect c u (d.loses ev.blocks) src)
    | _ => none

end Sys2Proof.Machine
end

