-- ==== Sys2Proof/Machine/Sextant.lean ====
section
/-! DEFINITION. Outer scales recomputed, the step close, the Sextant's evaluation and alarms (11_scales_and_sextant.md). -/
namespace Sys2Proof.Machine

def sxtPage : Page := page1 .sxt

/-! The outer-scale table (R273 to R279). -/

def Dev.scaleBase (d : Dev) : Nat := d.pair Reg.sxtScaleBaseLo

def Dev.scaleCount (d : Dev) : Nat := d.fld Reg.sxtScaleCount 15 0

/-- The AUTO entries. -/
def Dev.autoEntries (d : Dev) : List Nat := (List.range d.scaleCount).filter d.autoEntry

/-- The step record of a step. -/
def Dev.stepRecord (d : Dev) (j : Nat) : Nat := d.scaleBase + 0x40 + 8 * (j % 128)

/-- The address of EXP of a step in an entry. -/
def Dev.expAddr (d : Dev) (e j : Nat) : Nat := d.scaleEntry e + 0x40 + 2 * (j % 128)

def signed16 (n : Nat) : Int := if n < 32768 then n else (n : Int) - 65536

/-- An AUTO entry is sound (R274, R279). -/
def Dev.entryOk (d : Dev) (e : Nat) : Bool :=
  let b := readBytes d.src (d.scaleEntry e) 0x40
  let margin := signed8 (u8 b 6)
  decide (u8 b 4 < 4 ∧ 1 ≤ u8 b 5 ∧ u8 b 5 ≤ 64 ∧ -16 ≤ margin ∧ margin ≤ 16 ∧ -126 ≤ signed8 (u8 b 7) ∧ u8 b 0xA ≤ 8) &&
    (u8 b 0xA == 0 || (u8 b 4).testBit 1) && zeros b 0xB 1 && zeros b 0x1C 36 && readNat d.src d.scaleBase 2 == 1

/-- A and B of R278 over the window of an entry. -/
def Dev.window (d : Dev) (e n h : Nat) (grad : Bool) : Int × Nat :=
  (List.range h).foldl (fun acc i =>
    if n < i + 1 then acc
    else
      let j := n - 1 - i
      let r := d.stepRecord j
      let flags := (d.mem.byte (r + 4)).toNat
      if flags.testBit 0 ∧ readNat d.src r 4 = j % 0x100000000 then
        (max acc.1 (signed16 (readNat d.src (d.expAddr e j) 2)), if grad ∧ flags.testBit 1 then acc.2 + 1 else acc.2)
      else acc) (-32768, 0)

/-- One sound AUTO entry recomputed for step n (R278). -/
def Dev.rescale (d : Dev) (n e : Nat) : Dev :=
  let a := d.scaleEntry e
  let b := readBytes d.src a 0x40
  let grad := (u8 b 4).testBit 1
  let w := d.window e n (u8 b 5) grad
  let o : Int := if w.1 = -32768 then signed8 (u8 b 7) else w.1 + 1 + signed8 (u8 b 6)
  let o := if grad then o + min w.2 (u8 b 0xA) else o
  let c := max (-126) (min 127 o)
  let d := if c = o then d else (d.addSat Reg.sxtScaleClamps 1).raise sxtPage 3
  let d := d.writeAt a (natBytes 4 (2 ^ 23 * (c + 127).toNat))
  d.writeAt (a + 0x10) (natBytes 4 0 ++ natBytes 4 0 ++ natBytes 4 n)

/-- A fault of an entry (1), a band group (2) or a layer (3) (R279, R288). -/
def Dev.sxtFault (d : Dev) (index reason addr : Nat) : Dev :=
  let d := d.setReg Reg.sxtFaultLast (BitVec.ofNat 32 (index % 65536 + 0x10000 * reason))
  let d := (d.raise sxtPage 4).pageFault sxtPage
  (d.record (d.faultRec sxtPage (if reason = 3 then index else 0xFFFF) reason 0#32 addr (natBytes 4 index))).bad

/-- The scales of step n (R278, R279). -/
def Dev.rescaleAll (d : Dev) (n : Nat) : Dev :=
  d.autoEntries.foldl (fun d e => if d.entryOk e then d.rescale n e else d.sxtFault e 1 (d.scaleEntry e)) d

/-! Quantities (R282). -/

/-- The seven quantities of a layer; none where one does not exist. -/
def Dev.quantities (d : Dev) (n layer : Nat) : List (Option Word) :=
  let rec_ := d.hlm.layers.find? fun l => l.layer = layer ∧ l.updated
  let mine := d.autoEntries.filter fun e =>
    decide (readNat d.src (d.scaleEntry e + 8) 2 = layer ∧ readNat d.src (d.scaleEntry e + 0x18) 4 = n % 0x100000000)
  let amax := mine.foldl (fun a e => fMax a (readWord d.src (d.scaleEntry e + 0x10))) 0#32
  let nf := Assoc.get (fun _ => 0) d.sxt.layerNf layer
  let figs := (d.cmp.handed.filter fun h => h.layer = layer ∧ h.step = n).map (·.figs)
  let slot := fun (f : RouteFigs → List Nat) (i : Nat) => listSum (figs.map fun x => (f x).getD i 0)
  let rows := (List.range 128).map (slot (·.rows))
  let visited := ((List.range 128).filter fun i => 0 < slot (·.demand) i).length
  let total := listSum rows
  let asked := listSum (figs.map fun x => x.tokens * x.k)
  let routed := fun (w : Word) => if figs.isEmpty then none else some w
  [ rec_.map (·.ratio)
  , rec_.map fun l => fSqrt l.gnorm
  , some amax
  , some (fOfNat nf)
  , routed (if total = 0 then 0#32 else fDiv (fOfNat (rows.foldl max 0 * visited)) (fOfNat total))
  , routed (fDiv (fOfNat (listSum (figs.map (·.spilled)))) (fOfNat asked))
  , routed (fDiv (fOfNat (listSum (figs.map (·.dropped)))) (fOfNat asked)) ]

/-! Bands and jumps (R284 to R287). -/

/-- A band group as read. -/
structure Band where
  lows : List Word
  highs : List Word
  actions : List Nat
  k : Word
  alpha : Word
  warmup : Nat
  jumps : List Nat

def bandOf (b : List Byte) : Band where
  lows := (List.range 7).map fun i => w32 b (16 * i)
  highs := (List.range 7).map fun i => w32 b (16 * i + 4)
  actions := (List.range 7).map fun i => u8 b (16 * i + 8)
  k := w32 b 0x70
  alpha := w32 b 0x74
  warmup := u16 b 0x78
  jumps := [u8 b 0x7A, u8 b 0x7B]

/-- A band group without a reserved ACTION or a nonzero reserved byte (R288). -/
def bandOk (b : List Byte) : Bool :=
  ((List.range 7).all fun i => decide (u8 b (16 * i + 8) ≤ 2) && zeros b (16 * i + 9) 7) &&
    decide (u8 b 0x7A ≤ 2 ∧ u8 b 0x7B ≤ 2) && zeros b 0x7C 4

/-- A layer entry without a reserved bit set and with a GROUP in range. -/
def layerOk (b : List Byte) : Bool :=
  decide (u8 b 0 ≤ 63 ∧ u8 b 1 ≤ 1) && zeros b 2 14 && zeros b 0x32 14 && zeros b 0xC0 64 &&
    (List.range 8).all fun i => zeros b (0x40 + 16 * i + 14) 2

def Dev.layerEntry (d : Dev) (layer : Nat) : Nat := d.pair Reg.sxtLayerBaseLo + 256 * layer

def Dev.bandGroup (d : Dev) (g : Nat) : Nat := d.pair Reg.sxtBandBaseLo + 128 * g

/-- Outside its band, or NaN (R285). -/
def outside (b : Band) (i : Nat) (v : Word) : Bool :=
  fIsNan v || fLt v (b.lows.getD i 0#32) || fLt (b.highs.getD i 0#32) v

/-- One EMA of the jump detector (R286): its new value and whether the jump alarm is raised. `old` is the entry of step n − 1,
none where the history is lost: its EMA and SEEN. -/
def jumpStep (b : Band) (old : Option (Word × Nat)) (v : Option Word) : Word × Bool :=
  match old, v with
  | none, some v => (if fIsFinite v then v else 0#32, false)
  | none, none => (0#32, false)
  | some (e, _), none => (e, false)
  | some (e, seen), some v =>
    if !fIsFinite v then (e, false)
    else (fFma b.alpha v (fMul (fSub fOne b.alpha) e), decide (b.warmup ≤ seen) && fLt (fMul b.k e) v)

/-- SEEN after a step, that of RATIO. -/
def seenStep (old : Option (Word × Nat)) (v : Option Word) : Nat :=
  let fin := match v with
    | some v => fIsFinite v
    | none => false
  match old with
  | none => if fin then 1 else 0
  | some (_, seen) => if fin then min (seen + 1) 65535 else seen

/-- An alarm raised: its layer, its ID (8 and 9 for the jumps), its ACTION. DEDUCED, log entry 31. -/
structure Alarm where
  layer : Nat
  id : Nat
  action : Nat
deriving DecidableEq, Repr

/-- A layer evaluated at step n (R285, R286): its alarms, with its entry written and its record appended. -/
def Dev.evalLayer (d : Dev) (n layer : Nat) (skip : Bool) : Dev × List Alarm :=
  let a := d.layerEntry layer
  let g := (d.mem.byte a).toNat
  let band := bandOf (readBytes d.src (d.bandGroup g) 128)
  let qs := d.quantities n layer
  let ring := fun (j : Nat) => a + 0x40 + 16 * (j % 8)
  let p := ring (n + 7)
  let seen := readNat d.src (p + 12) 2
  let known := decide (1 ≤ n ∧ readNat d.src p 4 = (n - 1) % 0x100000000 ∧ seen ≠ 0)
  let old := fun (off : Nat) => if known then some (readWord d.src (p + off), seen) else none
  let used := fun (i : Nat) => if skip then none else qs.getD i none
  let r := jumpStep band (old 4) (used 0)
  let m := jumpStep band (old 8) (used 1)
  let bands := (qs.zipIdx.filter fun q => match q.1 with
    | some v => (!skip || decide (2 ≤ q.2)) && outside band q.2 v
    | none => false).map fun q => (⟨layer, q.2, band.actions.getD q.2 0⟩ : Alarm)
  let jumps := (if r.2 then [(⟨layer, 8, band.jumps.getD 0 0⟩ : Alarm)] else []) ++
    (if m.2 then [⟨layer, 9, band.jumps.getD 1 0⟩] else [])
  let alarms := (bands ++ jumps).filter fun x => x.action ≠ 0
  let mask := listSum (alarms.map fun x => 2 ^ x.id)
  let exist := listSum ((qs.zipIdx.filter fun q => q.1.isSome).map fun q => 2 ^ q.2)
  let now := seenStep (old 4) (used 0)
  let d := qs.zipIdx.foldl (fun d q => match q.1 with
    | some v => d.writeAt (a + 0x10 + 4 * q.2) (natBytes 4 v.toNat)
    | none => d) d
  let d := d.writeAt (a + 0x2C) (natBytes 4 n ++ natBytes 2 mask)
  let d := d.writeAt (ring n) (natBytes 4 n ++ natBytes 4 r.1.toNat ++ natBytes 4 m.1.toNat ++ natBytes 2 now)
  (d.record ⟨0x000A, layer, n, false, false, false, natBytes 1 g ++ natBytes 1 0 ++ natBytes 2 mask ++ natBytes 1 exist ++
    natBytes 3 0 ++ (qs.map fun q => natBytes 4 (q.getD 0#32).toNat).flatten ++ natBytes 4 r.1.toNat ++ natBytes 4 m.1.toNat ++
    natBytes 2 now ++ natBytes 2 0⟩, alarms)

/-- An alarm's EVENT, logged (R284). -/
def Dev.alarm (d : Dev) (x : Alarm) : Dev :=
  d.raiseLogged sxtPage 0 0xFFFF (natBytes 2 x.layer ++ natBytes 1 x.id ++ natBytes 1 x.action)

/-- The alarms of a step take effect (R287). -/
def Dev.alarms (d : Dev) (n : Nat) (xs : List Alarm) : Dev :=
  let d := xs.foldl (fun d x => d.alarm x) d
  let held := xs.filter fun x => x.action = 2
  let d := d.setReg Reg.sxtAlarms (BitVec.ofNat 32 (min xs.length 65535 + (if held.isEmpty then 0 else 0x80000000)))
  match held with
  | [] => d
  | x :: _ =>
    let id := ((xs.filter fun y => y.layer = x.layer).map (·.id)).foldl min x.id
    let d := (d.setReg Reg.sxtHold (BitVec.ofNat 32 n)).setReg Reg.sxtHoldLayer (BitVec.ofNat 32 (x.layer + 0x10000 * id))
    ((d.addSat Reg.sxtHolds 1).raise sxtPage 1).flagSuspect n

/-- The Sextant evaluates step n. DEDUCED, log entry 31. -/
def Dev.evaluate (d : Dev) (n : Nat) (skip : Bool) : Dev :=
  let table := readBytes d.src (d.bandGroup 0) 8192
  let d := (d.setReg Reg.sxtBandCrc (crc32c table)).setReg Reg.sxtStepLo (BitVec.ofNat 32 n)
  let badBands := (List.range 64).filter fun g => !bandOk ((table.drop (128 * g)).take 128)
  let d := badBands.foldl (fun d g => d.sxtFault g 2 (d.bandGroup g)) d
  let badLayers := (List.range d.layerCount).filter fun l => !layerOk (readBytes d.src (d.layerEntry l) 256)
  let d := badLayers.foldl (fun d l => d.sxtFault l 3 (d.layerEntry l)) d
  let watched := (List.range d.layerCount).filter fun l =>
    !badLayers.contains l && (d.mem.byte (d.layerEntry l + 1)).getLsbD 0 && !badBands.contains (d.mem.byte (d.layerEntry l)).toNat
  let r := watched.foldl (fun (acc : Dev × List Alarm) l =>
    let x := acc.1.evalLayer n l skip
    (x.1, acc.2 ++ x.2)) (d, [])
  r.1.alarms n r.2

/-! The step close (R277, R281, R343). -/

/-- EXP of a step for every AUTO entry that the step wrote. -/
def Dev.writeExps (d : Dev) (n : Nat) : Dev :=
  d.autoEntries.foldl (fun d e =>
    let a := d.scaleEntry e
    if readNat d.src (a + 0x18) 4 = n % 0x100000000 then
      let v := f32 (readWord d.src (a + 0x10))
      d.writeAt (d.expAddr e n) (natBytes 2 ((if v.isZero then (-32768 : Int) else v.floorLog2) % 65536).toNat)
    else d) d

/-- The SCALES records of the step. -/
def Dev.scalesRecords (d : Dev) (n : Nat) : Dev :=
  (List.range (ceilDiv d.scaleCount 4096)).foldl (fun d i =>
    let first := 4096 * i
    let count := min 4096 (d.scaleCount - first)
    d.record ⟨0x0007, 0xFFFF, n, false, false, false, natBytes 2 first ++ natBytes 2 count ++ natBytes 4 0 ++
      ((List.range count).map fun j =>
        let e := first + j
        let a := d.scaleEntry e
        readBytes d.src a 4 ++ (if d.autoEntry e then readBytes d.src (d.expAddr e n) 2 else natBytes 2 0x8000) ++ natBytes 2 0 ++
          readBytes d.src (a + 0x14) 4).flatten⟩) d

/-- The first finding of the step latched and recorded. -/
def Dev.latchOrigin (d : Dev) (n : Nat) : Dev :=
  match d.sxt.first with
  | none => d
  | some f =>
    let d := (d.setReg Reg.sxtNfOriginUnit (BitVec.ofNat 32 f.unit)).setReg Reg.sxtNfOriginLayer (BitVec.ofNat 32 f.layer)
    let d := (d.setReg Reg.sxtNfOriginTensor f.tensor).setPair Reg.sxtNfOriginIndexLo f.index
    (d.raise sxtPage 2).record ⟨0x0008, f.layer, n, false, false, false, natBytes 1 f.unit ++ natBytes 3 0 ++
      natBytes 4 f.tensor.toNat ++ natBytes 8 f.index ++ natBytes 4 f.tag.toNat ++ natBytes 4 0⟩

/-- Step n closed (R277), while the page is ACTIVE (R274). DEDUCED, log entry 31. -/
def Dev.closeStep (d : Dev) (n : Nat) : Dev :=
  if !d.active sxtPage then d
  else
    let flag := d.flag Reg.redConsensus 0 && d.flag Reg.redConsensus 1
    let d := d.writeExps n
    let d := d.writeAt (d.stepRecord n) (natBytes 4 n ++ natBytes 1 (if flag then 3 else 1) ++ natBytes 3 0)
    let d := (d.evaluate n flag).latchOrigin n
    let b := fun (x : Bool) => natBytes 1 (if x then 1 else 0)
    let d := d.record ⟨0x0006, 0xFFFF, n, false, false, false, b flag ++ b (d.flag Reg.redStepNf 1) ++ b (d.flag Reg.redStepNf 0) ++
      b (d.flag Reg.sxtAlarms 31) ++ natBytes 4 (d.reg Reg.sxtStepNf).toNat ++ natBytes 4 (d.reg Reg.sxtBandCrc).toNat ++
      natBytes 4 (d.reg Reg.hlmApplied).toNat⟩
    d.scalesRecords n

end Sys2Proof.Machine
end

