-- ==== Sys2Proof/Machine/Sha.lean ====
section
/-! DEFINITION. SHA-256 of FIPS 180-4, and the verification of RSASSA-PSS signatures of RFC 8017 with RSA-3072 (R464). -/
namespace Sys2Proof.Machine

/-- The 64 round constants of SHA-256: the first 32 fraction bits of the cube roots of the first 64 primes. -/
def shaK : List Word :=
  [0x428A2F98#32, 0x71374491#32, 0xB5C0FBCF#32, 0xE9B5DBA5#32, 0x3956C25B#32, 0x59F111F1#32, 0x923F82A4#32, 0xAB1C5ED5#32] ++
  [0xD807AA98#32, 0x12835B01#32, 0x243185BE#32, 0x550C7DC3#32, 0x72BE5D74#32, 0x80DEB1FE#32, 0x9BDC06A7#32, 0xC19BF174#32] ++
  [0xE49B69C1#32, 0xEFBE4786#32, 0x0FC19DC6#32, 0x240CA1CC#32, 0x2DE92C6F#32, 0x4A7484AA#32, 0x5CB0A9DC#32, 0x76F988DA#32] ++
  [0x983E5152#32, 0xA831C66D#32, 0xB00327C8#32, 0xBF597FC7#32, 0xC6E00BF3#32, 0xD5A79147#32, 0x06CA6351#32, 0x14292967#32] ++
  [0x27B70A85#32, 0x2E1B2138#32, 0x4D2C6DFC#32, 0x53380D13#32, 0x650A7354#32, 0x766A0ABB#32, 0x81C2C92E#32, 0x92722C85#32] ++
  [0xA2BFE8A1#32, 0xA81A664B#32, 0xC24B8B70#32, 0xC76C51A3#32, 0xD192E819#32, 0xD6990624#32, 0xF40E3585#32, 0x106AA070#32] ++
  [0x19A4C116#32, 0x1E376C08#32, 0x2748774C#32, 0x34B0BCB5#32, 0x391C0CB3#32, 0x4ED8AA4A#32, 0x5B9CCA4F#32, 0x682E6FF3#32] ++
  [0x748F82EE#32, 0x78A5636F#32, 0x84C87814#32, 0x8CC70208#32, 0x90BEFFFA#32, 0xA4506CEB#32, 0xBEF9A3F7#32, 0xC67178F2#32]

/-- The initial hash words: the first 32 fraction bits of the square roots of the first 8 primes. -/
def shaH0 : List Word :=
  [0x6A09E667#32, 0xBB67AE85#32, 0x3C6EF372#32, 0xA54FF53A#32, 0x510E527F#32, 0x9B05688C#32, 0x1F83D9AB#32, 0x5BE0CD19#32]

/-- The message with its padding: a 1 bit, zeros, and the 64-bit length, a multiple of 64 bytes. -/
def shaPad (m : List Byte) : List Byte :=
  let zeros := (119 - m.length % 64) % 64
  let len : Dword := BitVec.ofNat 64 (m.length * 8)
  m ++ [0x80#8] ++ List.replicate zeros 0#8 ++ (List.range 8).map fun i => (len >>> (56 - 8 * i)).truncate 8

def shaS0 (x : Word) : Word := x.rotateRight 7 ^^^ x.rotateRight 18 ^^^ (x >>> 3)
def shaS1 (x : Word) : Word := x.rotateRight 17 ^^^ x.rotateRight 19 ^^^ (x >>> 10)

/-- The big-endian words of a byte list. -/
def beWords : List Byte → List Word
  | a :: b :: c :: d :: rest => (a ++ b ++ c ++ d) :: beWords rest
  | _ => []

/-- The message schedule, newest word first. -/
def shaSchedule : Nat → List Word → List Word
  | 0, ws => ws
  | n + 1, ws =>
    shaSchedule n ((shaS1 (ws.getD 1 0#32) + ws.getD 6 0#32 + shaS0 (ws.getD 14 0#32) + ws.getD 15 0#32) :: ws)

/-- One round on the eight working words. -/
def shaRound (h : List Word) (kw : Word) : List Word :=
  match h with
  | [a, b, c, d, e, f, g, hh] =>
    let s1 := e.rotateRight 6 ^^^ e.rotateRight 11 ^^^ e.rotateRight 25
    let ch := (e &&& f) ^^^ (~~~ e &&& g)
    let t1 := hh + s1 + ch + kw
    let s0 := a.rotateRight 2 ^^^ a.rotateRight 13 ^^^ a.rotateRight 22
    let maj := (a &&& b) ^^^ (a &&& c) ^^^ (b &&& c)
    [t1 + s0 + maj, a, b, c, d + t1, e, f, g]
  | other => other

/-- One 64-byte block folded into the hash. -/
def shaBlock (h : List Word) (block : List Byte) : List Word :=
  let w := (shaSchedule 48 (beWords block).reverse).reverse
  let out := (List.zipWith (· + ·) shaK w).foldl shaRound h
  List.zipWith (· + ·) h out

def shaBlocks : Nat → List Word → List Byte → List Word
  | 0, h, _ => h
  | n + 1, h, bs => shaBlocks n (shaBlock h (bs.take 64)) (bs.drop 64)

/-- SHA-256: 32 bytes in digest order. -/
def sha256 (m : List Byte) : List Byte :=
  let p := shaPad m
  (shaBlocks (p.length / 64) shaH0 p).flatMap fun (w : Word) =>
    [(w >>> 24).truncate 8, (w >>> 16).truncate 8, (w >>> 8).truncate 8, w.truncate 8]

/-- The big-endian number of a byte list. -/
def beNat (bs : List Byte) : Nat := bs.foldl (fun n b => n * 256 + b.toNat) 0

/-- The `n` big-endian bytes of a number. -/
def beBytes (n v : Nat) : List Byte := (natBytes n v).reverse

/-- b^e mod m by squaring, over the bits of e from `fuel` down. -/
def powMod (m b e : Nat) : Nat → Nat
  | 0 => 1 % m
  | k + 1 =>
    let h := powMod m b (e / 2) k
    if e % 2 = 1 then h * h % m * b % m else h * h % m

/-- MGF1 with SHA-256: `n` blocks of 32 bytes from the seed. -/
def mgf1 (seed : List Byte) (n : Nat) : List Byte :=
  (List.range n).flatMap fun i => sha256 (seed ++ beBytes 4 i)

/-- RSASSA-PSS verification of the SHA-256 hash `mHash`, salt of 32 bytes, trailer 0xBC, exponent 65,537 (R464). -/
def pssVerify (modulus : Nat) (mHash : List Byte) (signature : Nat) : Bool :=
  let bitLen := Nat.log2 modulus
  let emLen := ceilDiv bitLen 8
  let em := beBytes emLen (powMod modulus signature 65537 17)
  let dbLen := emLen - 33
  let db := em.take dbLen
  let h := (em.drop dbLen).take 32
  let topBits := 8 * emLen - bitLen
  let dbMask := mgf1 h (ceilDiv dbLen 32)
  let plain := List.zipWith (· ^^^ ·) db dbMask
  let plain := match plain with
    | b :: bs => (b &&& (0xFF#8 >>> topBits)) :: bs
    | [] => []
  let padLen := dbLen - 33
  let salt := plain.drop (padLen + 1)
  decide (signature < modulus) && decide (65 < emLen) &&
  decide (em.getLast? = some 0xBC#8) &&
  decide ((em.getD 0 0#8).toNat / 2 ^ (8 - topBits) = 0) &&
  (plain.take padLen).all (· == 0#8) && decide (plain.getD padLen 0#8 = 0x01#8) &&
  decide (sha256 (List.replicate 8 0#8 ++ mHash ++ salt) = h)

end Sys2Proof.Machine
end

