-- ==== Sys2Proof/Machine/Leg.lean ====
section
/-! DEFINITION. Legs: LEG from its issue to its completion, the barrier, what a step's beginning and end do, and the records of a
LEG (R16, R229, R257, R277, R278, R330 to R333, R343, R348, R349, R378, R380). -/
namespace Sys2Proof.Machine

def skyPage : Page := page1 .sky
def logPage : Page := page1 .log

/-! Issue (R331, R338, R351, R360, R383). -/

/-- A LEG that begins a step (R331). -/
def Dev.legBegins (d : Dev) (leg : Nat) : Bool :=
  leg == 0 || (leg == 4 && (d.cht.firstLeg || (match d.cht.lastLeg with
    | some (l, _) => l == 4
    | none => true)))

/-- LOG_RESERVE in bytes. -/
def Dev.logReserveBytes (d : Dev) : Nat := 0x100000 * (max 16 (min 1024 (d.fld Reg.logReserve 11 0)))

/-- The Logbook holds LEGs for ring space (R351). -/
def Dev.logShort (d : Dev) : Bool := d.flag Reg.logCtrl 1 && decide (d.logFree < d.logReserveBytes)

/-- A LEG is held for ring space. -/
def Dev.stall (d : Dev) : Dev :=
  if d.log.stallSince.isSome then d
  else
    let d := ((d.setFlag Reg.logStatus 2 true).addSat Reg.logStalls 1).raise logPage 2
    { d with log := { d.log with stallSince := some d.now } }

/-- The hold ends. -/
def Dev.endStall (d : Dev) : Dev :=
  match d.log.stallSince with
  | none => d
  | some t =>
    let d := (d.setFlag Reg.logStatus 2 false).raiseTo Reg.logStallMaxUs ((d.now - t) / 1000)
    { d with log := { d.log with stallSince := none } }

/-- A LEG that is rejected at its issue. -/
def Dev.legRejected (d : Dev) (l : LegCmd) : Bool :=
  !d.active chtPage || d.ready logPage || (l.leg == 0 && !d.active sxtPage)

/-- DESIGN CHOICE, log entry 38. -/
def execLeg (s : State) : Host.Outcome State Fault Refusal :=
  s.act fun d => d.issueIf .main fun c => match c.cmd with
    | .leg l =>
      let begins := d.legBegins l.leg
      if d.logShort then some d.stall
      else if begins ∧ !d.sky.holds.isEmpty ∧ d.skyMode = 0 then some (d.endStall.setFlag Reg.skyStatus 13 true)
      else
        let d := d.endStall.issue .main c false true
        if d.legRejected l then some (d.rejectRun .main c rField)
        else some { d with cht := { d.cht with leg := some ⟨l, begins, .waiting, d.stamp, !d.flag Reg.logStatus 6, 0, 0#32, 0#32, false⟩ } }
    | _ => none

/-! Records (R343, R348). -/

def boolByte (b : Bool) : List Byte := natBytes 1 (if b then 1 else 0)

def wordBytes (w : Word) : List Byte := natBytes 4 w.toNat

def dwordBytes (w : Dword) : List Byte := natBytes 8 w.toNat

/-- A record of the current step that concerns no layer. -/
def Dev.stepRec (d : Dev) (type : Nat) (stamped : Bool) (payload : List Byte) : Rec :=
  ⟨type, 0xFFFF, d.step, false, stamped, false, payload⟩

/-- The bundle copy that runs. -/
def Dev.runningCopy (d : Dev) : Bool := d.boot.copy.getD false

/-- The digest of a part of the bundle that runs (R470). -/
def Dev.measure (d : Dev) (n : Nat) : List Byte :=
  match (if d.runningCopy then d.flash.copyB else d.flash.copyA).digests with
  | some ds => ds.getD (n - 1) []
  | none => Config.measure d.runningCopy n

/-- DEDUCED, log entry 39. -/
def Dev.jobStartRec (d : Dev) : Rec :=
  d.stepRec 0x0001 false (((List.range 4).map fun i => wordBytes (d.reg (Reg.logJobId i))).flatten ++ natBytes 8 (d.pair Reg.logSeedLo) ++
    natBytes 2 d.self ++ natBytes 1 0xA1 ++ natBytes 1 (d.fld Reg.hubIfaceAgree 7 4) ++
    ((List.range 4).map fun i => (d.measure 4).getD i 0#8))

def Dev.configRec (d : Dev) : Rec :=
  let crc := fun i => wordBytes (if d.flag (Reg.vtbSlotStatus i) 0 then d.reg (Reg.vtbSlotCrc i) else 0#32)
  let decay := fun i => wordBytes (d.reg (Reg.hlmDecayBeta1 i)) ++ wordBytes (d.reg (Reg.hlmDecayWd i)) ++
    natBytes 1 (d.fld (Reg.hlmDecayCfg i) 5 1) ++ boolByte (d.flag (Reg.hlmDecayCfg i) 0) ++ natBytes 2 0
  let chart := fun i => wordBytes (match d.chart i with
    | some c => c.id
    | none => 0#32)
  d.stepRec 0x0002 false (natBytes 8 (d.pair Reg.logSeedLo) ++ ((List.range 32).map crc).flatten ++
    ((List.range 15).map fun i => wordBytes (d.reg (Reg.hlmNsCoef i))).flatten ++ natBytes 4 0 ++
    ((List.range 16).map decay).flatten ++ ((List.range 8).map chart).flatten)

def Dev.legRec (d : Dev) (r : LegRun) : Rec :=
  { d.stepRec 0x0003 true (natBytes 1 r.cmd.leg ++ natBytes 3 0 ++ wordBytes r.chartAId ++ wordBytes r.chartBId ++ natBytes 4 0 ++
      dwordBytes r.stamp ++ dwordBytes d.stamp) with
    unsync := r.unsync }

def Dev.listRec (d : Dev) (st : Stream) (leg : Nat) : Rec :=
  let s := d.stream st
  { d.stepRec 0x0004 false (natBytes 1 (sidx st) ++ natBytes 1 leg ++ natBytes 2 0 ++ natBytes 4 s.completed ++
      natBytes 4 s.skipped ++ natBytes 4 0 ++ dwordBytes s.listCrc ++ dwordBytes s.workCrc) with
    backfill := st == .backfill }

/-! Segments (R349). -/

/-- The bytes of the ring between two offsets. -/
def Dev.ringBytes (d : Dev) (lo hi : Nat) : List Byte := (List.range (hi - lo)).map fun i => d.mem.byte (ringAddr (lo + i))

/-- A segment sealed at the ingest LEG of step n, over the bytes as they were appended. DEDUCED, log entry 39. -/
def Dev.sealSegment (d : Dev) (n : Nat) : Dev :=
  let at_ := d.pair Reg.logWriteLo
  let digest := sha256 (d.log.sealDigest ++ d.log.journal)
  let first := max (n - 256) d.log.jobFirstStep.toNat
  let number := (2 ^ 64 + n / 256 - 1) % 2 ^ 64
  let last := (2 ^ 64 + n - 1) % 2 ^ 64
  let sig := d.sign digest
  let d : Dev := { sig.2 with log := { sig.2.log with journal := [] } }
  let d := d.record (d.stepRec 0x0012 true (natBytes 8 number ++ natBytes 8 first ++ natBytes 8 last ++ natBytes 8 at_ ++ digest ++
    sig.1 ++ dwordBytes d.stamp))
  let d := (d.setReg Reg.logSegment (BitVec.ofNat 32 number)).setReg Reg.logSegStep (BitVec.ofNat 32 last)
  { d with log := { d.log with sealOffset := at_, sealDigest := digest, segNumber := number, segDigest := digest } }.raise logPage 1

/-! The beginning of a step and of a job. -/

/-- The first LEG after the LOG page entered ACTIVE starts a job: its record, its first step and segment, and, on a package that
runs as itself, its fixed version and its flags (R18, R343, R349). DEDUCED, log entry 39. -/
def Dev.startJob (d : Dev) (n : Nat) : Dev :=
  if d.log.jobStarted then d
  else
    let d : Dev := { d with log := { d.log with
      jobStarted := true, jobFirstStep := BitVec.ofNat 64 n, sealOffset := d.pair Reg.logWriteLo, journal := []
      sealDigest := List.replicate 32 0#8, rerunTo := none } }
    let d : Dev := if d.skyMode ≠ 0 then d
      else { d.setPair Reg.skyFixedLo ((2 ^ 64 + n - 1) % 2 ^ 64) with sky := { d.sky with
        firstStep := n, bad := [], suspect := [], voted := [], awaiting := [], compresses := false, fixedLost := false } }
    d.record d.jobStartRec

/-- The capture slot and the digests of a step begun (R378, R380), and a replay set to the start of its capture (R379). -/
def Dev.openStepRecords (d : Dev) (n : Nat) : Dev :=
  let kept := d.sky.digests.filter fun x => x.step ≠ n
  let captures := d.sky.captures.filter fun c => c.step % d.captureSlots ≠ n % d.captureSlots
  { d with
    sky := { d.sky with
      digests := kept.drop (kept.length - 7) ++ [⟨n, 0#64, 0#64, 0#64, 0#64, false⟩]
      captures := if d.skyMode ≠ 0 then d.sky.captures
        else if d.flag Reg.skyCaptureCtrl 8 then ⟨n, 0, false⟩ :: captures else captures
      replayPos := 0 }
    cht := { d.cht with replayFlows := [] } }

/-- What the units keep within a step starts afresh. -/
def Dev.freshStep (d : Dev) (n : Nat) : Dev :=
  { d.hingesBegin with
    red := { d.red with originDone := false }
    sxt := ⟨none, [], 0⟩
    hlm := { d.hlm with layers := [] }
    cmp := { d.cmp with
      claimed := d.cmp.claimed.filter fun c => c.step = n % 0x100000000
      handed := [] } }.setFlag Reg.redConsensus 0 false

/-- The ingest LEG: the step's non-finite figures cleared, the scales recomputed (R229, R278, R280). -/
def Dev.ingest (d : Dev) (n : Nat) : Dev :=
  (((d.setReg Reg.redStepNf 0#32).setReg Reg.sxtStepNf 0#32)).rescaleAll n

/-- RERUN ends with the LEG that begins the step after ABANDONED_TO (R353). -/
def Dev.endRerun (d : Dev) (n : Nat) : Dev :=
  match d.log.rerunTo with
  | some a => if a < n then { d with log := { d.log with rerunTo := none } } else d
  | none => d

/-- A step begins. -/
def Dev.beginStep (d : Dev) (n leg : Nat) : Dev :=
  let d := ((d.endRerun n).openStepRecords n).freshStep n
  let d := if leg = 0 then d.ingest n else d
  d.record d.configRec

/-- The digests of a step close when its FIX LEG completes (R380). -/
def Dev.closeDigests (d : Dev) (n : Nat) : Dev :=
  { d with sky := { d.sky with digests := d.sky.digests.map fun x => if x.step = n then { x with closed := true } else x } }

/-! Completion (R332). -/

/-- What the end of the leg before leaves, and what the new leg starts with. DESIGN CHOICE, log entry 38. -/
def Dev.turnLeg (d : Dev) (r : LegRun) : Dev :=
  let n := r.cmd.step.toNat
  let d := if r.begins then d.beginStep n r.cmd.leg else d
  match r.cmd.leg with
  | 2 => d.residue
  | 4 => d.endUpdateLeg.closeStep n
  | _ => d

/-- The LIST records of the leg; the running digests start afresh (R348). -/
def Dev.listRecords (d : Dev) (leg : Nat) : Dev :=
  let d := (d.record (d.listRec .main leg)).record (d.listRec .backfill leg)
  let clear := fun (s : StreamState) => { s with listCrc := 0#64, workCrc := 0#64, completed := 0, skipped := 0 }
  (d.setStream .main clear).setStream .backfill clear

/-- A LEG completes; the posts that waited for its barrier go on (R332). DESIGN CHOICE, log entry 38. -/
def Dev.finishLeg (d : Dev) (c : Decoded) (r : LegRun) : Dev :=
  let n := r.cmd.step.toNat
  let d : Dev := { d with cht := { d.cht with
    leg := none, firstLeg := false, lastLeg := some (r.cmd.leg, r.cmd.step), barriers := [], unbarred := false } }
  let d := (d.raiseTo Reg.chtBarrierMaxNs (d.now - r.switched)).raise chtPage 2
  let d := (d.startJob n).turnLeg r
  let d := d.record (d.legRec r)
  let d := (d.complete .main c).listRecords r.cmd.leg
  let d := if r.cmd.leg = 4 then d.closeDigests n else d
  let d := if r.cmd.leg = 0 ∧ n % 256 = 0 then d.sealSegment n else d
  Dev.runPosts postFuel (d.settle .main)

/-- A LEG's barrier is over: it completes, or, an ingest LEG while the SXT page is not ACTIVE, is rejected (R274, R289). -/
def Dev.legDone (d : Dev) (c : Decoded) (r : LegRun) : Dev :=
  if r.cmd.leg = 0 ∧ !d.active sxtPage then
    { d with cht := { d.cht with leg := none, barriers := [] } }.rejectRun .main c rField
  else d.finishLeg c r

/-! The barrier (R333). -/

/-- The running LEG, its command and its state. -/
def Dev.runningLeg (d : Dev) : Option (Decoded × LegRun) :=
  match d.seqMain.running, d.cht.leg with
  | some r, some l => some (r.dec, l)
  | _, _ => none

/-- A barrier message of this package. -/
def Dev.barrierBytes (d : Dev) (r : LegRun) (dir count : Nat) : List Byte :=
  natBytes 1 30 ++ natBytes 1 dir ++ natBytes 1 r.cmd.leg ++ natBytes 1 0 ++ natBytes 2 d.self ++ natBytes 2 r.cmd.step.toNat ++
    wordBytes r.chartAId ++ wordBytes r.chartBId ++ natBytes 4 count ++ natBytes 4 0

/-- A barrier message agrees with the LEG in LEG, STEP and Chart identifiers. -/
def LegRun.agrees (r : LegRun) (b : List Byte) : Bool :=
  u8 b 2 == r.cmd.leg && u16 b 6 == r.cmd.step.toNat % 65536 && u32 b 8 == r.chartAId.toNat && u32 b 0xC == r.chartBId.toNat

/-- The LEG ends in a mismatch with a package. -/
def Dev.legMismatch (d : Dev) (c : Decoded) (peer : Nat) : Dev :=
  let d := d.setReg Reg.chtFaultLast (BitVec.ofNat 32 (peer % 65536 + 0x10000))
  let d := (d.raise chtPage 3).pageFault chtPage
  let d : Dev := { d with cht := { d.cht with leg := none, barriers := [] } }
  d.rejectRun .main c rField

/-- The message of a collective that came from a package in a direction. -/
def treeMsg (ms : List TreeMsg) (sender dir : Nat) : Option TreeMsg := ms.find? fun m => m.sender == sender && u8 m.body 1 == dir

/-- The up messages of every child, where all have come. -/
def upMessages (ms : List TreeMsg) (children : List Nat) : Option (List TreeMsg) := children.mapM fun p => treeMsg ms p 0

/-- A STEP that lies behind another, modulo 2^16. -/
def olderStep (now s : Nat) : Bool := let k := (65536 + now % 65536 - s % 65536) % 65536
  decide (1 ≤ k ∧ k < 32768)

/-- A barrier older than the LEG that waits; with none, than the current step, except where the next LEG may have any STEP
(R331, R333). DESIGN CHOICE, log entry 38. -/
def Dev.barrierOlder (d : Dev) (b : List Byte) : Bool :=
  match d.runningLeg with
  | some (_, r) => olderStep r.cmd.step.toNat (u16 b 6)
  | none => !d.cht.firstLeg && olderStep d.step (u16 b 6)

/-- Barriers that the LEG now waiting finds older are discarded as stray (R333). -/
def Dev.dropBarriers (d : Dev) : Dev :=
  let old := d.cht.barriers.filter fun m => d.barrierOlder m.body
  old.foldl (fun d _ => d.stray) { d with cht := { d.cht with barriers := d.cht.barriers.filter fun m => !d.barrierOlder m.body } }

/-- The barrier goes on as far as what has come allows. DESIGN CHOICE, log entry 38. -/
def Dev.runBarrier (d : Dev) : Dev :=
  match d.runningLeg, d.governing 0 with
  | some (c, r), some chart =>
    if r.phase ≠ .barrier then d
    else
      match d.cht.barriers.find? fun m => !r.agrees m.body with
      | some m => d.legMismatch c m.sender
      | none =>
        let children := chart.childrenOf d.self
        let parent := chart.parentOf d.self
        match upMessages d.cht.barriers children with
        | none => d
        | some ups =>
          let count := ups.foldl (fun n m => n + u32 m.body 0x10) 1
          match parent with
          | none =>
            if count ≠ chart.members.length then d.legMismatch c ((ups.getLast?.map (·.sender)).getD d.self)
            else (d.sendControls children (d.barrierBytes r 1 count)).legDone c r
          | some p =>
            match treeMsg d.cht.barriers p 1 with
            | some m => if r.sentUp then (d.sendControls children (d.barrierBytes r 1 (u32 m.body 0x10))).legDone c r else d
            | none =>
              if r.sentUp then d
              else
                let d := d.sendControl p (d.barrierBytes r 0 count)
                { d with cht := { d.cht with leg := some { r with sentUp := true } } }
  | _, _ => d

/-- `blocks` are the reads of what the LEG that it completes recomputes, records and posts (R117). -/
def execBarrier (m : Packet) (s : State) (blocks : List BlockFinding := []) : Host.Outcome State Fault Refusal :=
  s.act fun d =>
    if d.has m && m.cls == 0 && u8 m.body 0 == 30 then
      let d := (d.found [] blocks).takePacket m
      if d.barrierOlder m.body then d.stray
      else
        let sender := u16 m.body 4
        let kept := d.cht.barriers.filter fun x => !(x.sender == sender && u8 x.body 1 == u8 m.body 1)
        let d : Dev := { d with cht := { d.cht with barriers := kept ++ [⟨sender, m.body⟩] } }
        d.runBarrier
    else d

/-! The switch (R330, R332). -/

/-- A class of this package has nothing queued and nothing unacknowledged on its working ports.
DEDUCED and DESIGN CHOICE, log entry 34. -/
def Dev.classDrained (d : Dev) (cls : Nat) : Bool :=
  (List.range 36).all fun q => !d.active (fabPage q) ||
    ((d.port q).queues.getD cls []).isEmpty && (d.port q).retry.all fun x => (hdrOf x.block).cls != cls

/-- The classes the incoming Charts of a LEG govern. -/
def Dev.incoming (d : Dev) (l : LegCmd) : List Nat :=
  (match d.chart l.chartA with
    | some c => if l.chartA = 0xFF then [] else (List.range 5).filter fun i => c.classes.testBit i
    | none => []) ++ (if l.chartB = 0xFF then [] else [1])

/-- CHT_GOVERN with a class governed by a slot. -/
def governSet (w : Word) (cls slot : Nat) : Word := setBit (setBits w (4 * cls + 2) (4 * cls) slot) (4 * cls + 3) true

/-- CHT_GOVERN after a LEG. -/
def Dev.newGovern (d : Dev) (l : LegCmd) : Word :=
  let a := match d.chart l.chartA with
    | some c => if l.chartA = 0xFF then [] else (List.range 5).filter fun i => c.classes.testBit i
    | none => []
  let w := a.foldl (fun w c => governSet w c l.chartA) d.governWord
  if l.chartB = 0xFF then w else governSet w 1 l.chartB

/-- The registers that a switch writes: CHT_GOVERN, in a witness for its replay alone, CHT_LEG and CHT_STEP. -/
def Dev.switchCharts (d : Dev) (l : LegCmd) : Dev :=
  let w := d.newGovern l
  let d : Dev := if d.skyMode = 1 then { d with cht := { d.cht with govReplay := w } } else d.setReg Reg.chtGovern w
  (d.setReg Reg.chtLeg (BitVec.ofNat 32 l.leg)).setPair Reg.chtStepLo l.step.toNat

/-- A LEG at its barrier, after the switch: it shows the identifiers of the Charts that now govern. -/
def Dev.switchedRun (d : Dev) (r : LegRun) : LegRun :=
  let idOf := fun (x : Option Chart) => match x with
    | some k => k.id
    | none => 0#32
  { r with phase := .barrier, switched := d.now, chartAId := idOf (d.governing 0)
           chartBId := if r.cmd.chartB = 0xFF then 0#32 else idOf (d.chart r.cmd.chartB) }

/-- The LEG stands at its barrier; where its Charts govern class 4, nothing is posted until the barrier completes (R16, R332). -/
def Dev.toBarrier (d : Dev) (r : LegRun) : Dev :=
  { d with cht := { d.cht with leg := some r, unbarred := d.cht.unbarred || (d.incoming r.cmd).contains 4 } }

/-- `blocks` are the reads of what the LEG, where it completes here, recomputes, records and posts (R117). -/
def execLegSwitch (s : State) (blocks : List BlockFinding := []) : Host.Outcome State Fault Refusal :=
  s.act fun d => match d.runningLeg with
    | none => d
    | some (c, r) =>
      if r.phase ≠ .waiting ∨ !((d.incoming r.cmd).all d.classDrained) then d
      else
        let d := (d.found [] blocks).switchCharts r.cmd
        let r := d.switchedRun r
        let d := d.toBarrier r
        if d.skyMode ≠ 0 then d.legDone c r else d.dropBarriers.runBarrier

/-- TIMEOUT_US of a LEG or FIX, 0 meaning CHT_TIMEOUT.US (R331, R339, R372). -/
def Dev.chtTimeoutUs (d : Dev) (us : Nat) : Nat := if us = 0 then max 1 (d.fld Reg.chtTimeout 19 0) else us

def execLegTimeout (s : State) : Host.Outcome State Fault Refusal :=
  s.act fun d => match d.runningLeg with
    | none => d
    | some (c, r) =>
      if r.phase = .barrier ∧ d.overdue r.switched (d.chtTimeoutUs r.cmd.timeoutUs) then
        let d := d.setReg Reg.chtFaultLast 0x20000#32
        { d with cht := { d.cht with leg := none, barriers := [] } }.rejectRun .main c rTimeout
      else d

end Sys2Proof.Machine
end

