-- ==== Sys2Proof/Machine/Votes.lean ====
section
/-! DEFINITION. Fix votes, the second key, rollback and the flush (R353, R367, R372 to R386). -/
namespace Sys2Proof.Machine

/-! Fixing a step (R257, R367, R375, R376). -/

/-- The commit lag L. -/
def Dev.lag (d : Dev) : Nat := max 1 (min 4 (d.fld Reg.skyCtrl 2 0))

/-- The step after the last fixed one. -/
def Dev.firstUnfixed (d : Dev) : Nat := (d.lastFixed + 1) % 2 ^ 64

/-- A step became fixed: every core on probation has one step less of it (R367). -/
def Dev.lessProbation (d : Dev) (f : Fuse) : Dev :=
  d.chk.cores.foldl (fun d x =>
    let i := d.core x.1
    if i.state ≠ 4 then d
    else if i.probLeft ≤ 1 then d.release f x.1
    else d.setCore x.1 { i with probLeft := i.probLeft - 1 }) d

/-- A step becomes fixed. -/
def Dev.fixStep (d : Dev) (f : Fuse) (s : Nat) : Dev :=
  let d := ((d.setPair Reg.skyFixedLo s).ringFix s).raise skyPage 0
  let later := fun (xs : List Nat) => xs.filter fun x => s < x
  let d : Dev := { d with sky := { d.sky with
    bad := later d.sky.bad, suspect := later d.sky.suspect, voted := later d.sky.voted } }
  d.lessProbation f

/-- Steps that were voted for and await nothing more become fixed in ascending order; `fuel` bounds their number. -/
def Dev.fixReleased (f : Fuse) : Nat → Dev → Dev
  | 0, d => d
  | n + 1, d =>
    let s := d.firstUnfixed
    if d.sky.voted.contains s && !(d.sky.awaiting.any fun x => x.1 == s) then Dev.fixReleased f n (d.fixStep f s) else d

/-! Second-key messages (R382). -/

/-- The fields of a second-key message. -/
structure SkMsg where
  type : Nat
  code : Nat
  dir : Nat
  suspect : Nat
  sender : Nat
  step : Nat
  digests : Digests
deriving DecidableEq, Repr

def Digests.none : Digests := ⟨0#64, 0#64, 0#64, 0#64⟩

def skOf (b : List Byte) : SkMsg :=
  let w := fun o => BitVec.ofNat 64 (u64 b o)
  ⟨u8 b 0, u8 b 1, u8 b 2, u16 b 4, u16 b 6, u64 b 8, ⟨w 0x10, w 0x18, w 0x20, w 0x28⟩⟩

def SkMsg.bytes (m : SkMsg) : List Byte :=
  natBytes 1 m.type ++ natBytes 1 m.code ++ natBytes 1 m.dir ++ natBytes 1 0 ++ natBytes 2 m.suspect ++ natBytes 2 m.sender ++
    natBytes 8 m.step ++ dwordBytes m.digests.rec0 ++ dwordBytes m.digests.rec1 ++ dwordBytes m.digests.out0 ++
    dwordBytes m.digests.out1

/-- The reserved byte and the reserved codes of a message are clear. DESIGN CHOICE, log entry 41. -/
def skFieldsOk (b : List Byte) : Bool :=
  let m := skOf b
  let codes := if m.type = 37 then 3 else if m.type = 35 ∨ m.type = 36 then 2 else 1
  u8 b 3 == 0 && decide (m.code < codes ∧ m.dir < (if m.type = 37 then 2 else 1))

/-- A message of this package. -/
def Dev.skSend (d : Dev) (dest type code dir suspect step : Nat) (x : Digests) : Dev :=
  d.sendControl dest (SkMsg.bytes ⟨type, code, dir, suspect, d.number, step, x⟩)

/-- A second-key message received: taken, and handled where its reserved fields are clear (R389). -/
def State.skMessage (s : State) (m : Packet) (type : Nat) (f : SkMsg → Dev → Dev) : Host.Outcome State Fault Refusal :=
  s.act fun d =>
    if d.has m && m.cls == 0 && u8 m.body 0 == type then
      let d := d.takePacket m
      if skFieldsOk m.body then f (skOf m.body) d else d.pageFault skyPage
    else d

/-- The digests held of a step (R380). -/
def Dev.digestsOf (d : Dev) (step : Nat) : Option Digests :=
  (d.sky.digests.find? fun x => x.step = step).map fun x => ⟨x.rec0, x.rec1, x.out0, x.out1⟩

def Dev.witness (d : Dev) : Nat := d.fld Reg.skyWitness 15 0

def Dev.request (d : Dev) (step : Nat) : Option SkRequest := d.sky.requests.find? fun r => r.step = step

def Dev.putRequest (d : Dev) (r : SkRequest) : Dev :=
  { d with sky := { d.sky with requests := d.sky.requests.map fun x => if x.step = r.step then r else x } }

def Dev.dropRequest (d : Dev) (step : Nat) : Dev :=
  { d with sky := { d.sky with requests := d.sky.requests.filter fun x => x.step ≠ step } }

/-- The root of the class 0 tree in force. -/
def Dev.treeRoot (d : Dev) : Option Nat :=
  match (d.governLive 0).bind fun i => d.cht.live.getD i none with
  | some c => (c.members.find? fun m => m.parent = 0xFFFF).map (·.package)
  | none => none

/-- A decision sent to the root: 0 FIX, 1 THIRD, 2 ROLLBACK. -/
def Dev.sendDecision (d : Dev) (step code : Nat) : Dev :=
  match d.treeRoot with
  | some root => d.skSend root 37 code 0 d.number step Digests.none
  | none => d

/-- A decision of FIX: the package withdraws its SUSPECT. -/
def Dev.decideFix (d : Dev) (step : Nat) : Dev :=
  let d := d.dropRequest step
  { d with sky := { d.sky with suspect := d.sky.suspect.filter (· ≠ step) } }.sendDecision step 0

/-- A decision of ROLLBACK with its CAUSE. -/
def Dev.decideRollback (d : Dev) (r : SkRequest) (cause : Nat) : Dev := (d.putRequest { r with cause := cause }).sendDecision r.step 2

/-- The witness, or this package too, reported (R381). DESIGN CHOICE, log entry 41. -/
def Dev.reportFaulty (d : Dev) (package step : Nat) : Dev := d.record (d.eventRec skyPage 4 package (natBytes 8 step))

/-- A suspect step reported by the vote goes to the witness. DESIGN CHOICE, log entry 41. -/
def Dev.requestKey (d : Dev) (step : Nat) : Dev :=
  if (d.request step).isSome then d
  else
    let own := (d.digestsOf step).getD Digests.none
    let r : SkRequest := ⟨step, d.now, own, none, false, 0⟩
    let d : Dev := { d with sky := { d.sky with requests := d.sky.requests ++ [r] } }
    if d.sky.captures.any fun c => c.step == step && !c.incomplete then d.skSend d.witness 34 0 0 d.number step own
    else d.decideRollback r 3

/-! Rollback (R353, R384). -/

/-- VOID set in the records of the ring from offset `x` on, but for PAD and ROLLBACK, whose STEP is at or after `first`; `fuel` bounds their number. -/
def voidRecords (first hi : Nat) : Nat → Mem → Nat → Mem
  | 0, m, _ => m
  | n + 1, m, x =>
    if hi ≤ x then m
    else
      let at_ := fun i k => leNat ((List.range k).map fun j => m.byte (ringAddr (x + i + j)))
      let flags := ringAddr (x + 6)
      let len := max 8 (at_ 2 2)
      let m := if at_ 0 2 ≠ 0 ∧ at_ 0 2 ≠ 0x0011 ∧ first ≤ at_ 8 8 then m.setByte flags (m.byte flags ||| 1#8) else m
      voidRecords first hi n m (x + len)

/-- The Logbook on a rollback (R353, R360). -/
def Dev.logRollback (d : Dev) (cause : Nat) : Dev :=
  let hi := d.pair Reg.logWriteLo
  let d : Dev := { d with mem := voidRecords d.firstUnfixed hi ((hi - d.log.nextOut) / 8 + 1) d.mem d.log.nextOut }
  let n := d.step
  let w := d.pair Reg.logWriteLo
  let d := d.record (d.stepRec 0x0011 false (natBytes 8 d.lastFixed ++ natBytes 8 n ++ natBytes 1 cause ++ natBytes 7 0))
  let d : Dev := { d with log := { d.log with rerunTo := some (max n (d.log.rerunTo.getD 0)) } }
  if d.pair Reg.logWriteLo = w then d else d.raise logPage 6

/-- The fix logic orders a rollback to the last fixed step. -/
def Dev.orderRollback (d : Dev) (cause : Nat) : Dev :=
  let d := d.logRollback cause
  let d := ((d.addSat Reg.skyRollbacks 1).raise skyPage 2).setFlag Reg.skyStatus 13 false
  let d := d.sky.requests.foldl (fun d r => d.skSend d.witness 38 0 0 d.number r.step Digests.none) d
  let d := if d.sky.compresses || d.sky.fixedLost then d.raise skyPage 3 else d
  { d with sky := { d.sky with
    bad := [], suspect := [], voted := [], awaiting := [], requests := [], holds := []
    rollback := true, drained := [], fixedLost := false } }

/-! The vote (R18, R372 to R375, R386). -/

/-- This package's BAD bits: entry L also carries what was flagged of earlier unfixed steps after their votes (R374).
DEDUCED, log entry 40. -/
def Dev.voteBad (d : Dev) (n : Nat) : Nat :=
  let l := d.lag
  let late := d.sky.bad.any fun s => s + l ≤ n && decide (d.firstUnfixed ≤ s)
  ((List.range l).filter fun j => d.sky.bad.any fun s => s + j == n).foldl (fun m j => m + 2 ^ j) 0 + (if late then 2 ^ l else 0)

/-- This package's SUSPECT entries. -/
def Dev.voteSuspect (d : Dev) (n : Nat) : List Nat :=
  (List.range 5).map fun j => if j ≤ d.lag ∧ d.sky.suspect.any (fun s => s + j == n) then 1 else 0

/-- VOTE of this package's record. -/
def Dev.voteCode (d : Dev) (n : Nat) : Nat :=
  if (d.voteBad n).testBit d.lag then 2 else if (d.voteSuspect n).getD d.lag 0 ≠ 0 then 1 else 0

/-- What a vote message carries. -/
structure Vote where
  count : Nat
  bad : Nat
  suspect : List Nat
deriving DecidableEq, Repr

def voteOf (b : List Byte) : Vote := ⟨u32 b 8, u8 b 0xC % 32, (List.range 5).map fun j => u16 b (0x10 + 2 * j)⟩

def Vote.join (a b : Vote) : Vote :=
  ⟨a.count + b.count, a.bad ||| b.bad, List.zipWith (fun x y => min 0xFFFF (x + y)) a.suspect b.suspect⟩

def Dev.voteBytes (d : Dev) (dir n : Nat) (v : Vote) : List Byte :=
  natBytes 1 32 ++ natBytes 1 dir ++ natBytes 1 d.lag ++ natBytes 1 0 ++ natBytes 2 d.self ++ natBytes 2 n ++ natBytes 4 v.count ++
    natBytes 1 v.bad ++ natBytes 3 0 ++ (v.suspect.map (natBytes 2)).flatten ++ natBytes 6 0

/-- The record of a fix leg. DEDUCED, log entry 40. -/
def Dev.fixRec (d : Dev) (n vote cause : Nat) : Rec :=
  ⟨0x0010, 0xFFFF, n, false, false, false, natBytes 8 (n - d.lag) ++ natBytes 8 d.lastFixed ++ natBytes 1 vote ++ natBytes 1 cause ++
    natBytes 6 0⟩

/-- The FIX completes: its record, the pin asked for, the command (R259, R375). -/
def Dev.fixDone (d : Dev) (c : Decoded) (n vote cause : Nat) : Dev :=
  let d : Dev := { d with sky := { d.sky with fix := none, votes := [] } }
  let d := d.record (d.fixRec n vote cause)
  let d := if d.skyMode = 0 then d.ringPin else d
  (d.complete .main c).settle .main

/-- What SKY_STATUS and its counters show of a vote; the steps newly reported suspect are counted. -/
def Dev.showVote (d : Dev) (n : Nat) (v : Vote) : Dev :=
  let hot := (List.range 5).filter fun j => v.suspect.getD j 0 ≠ 0
  let mask := hot.foldl (fun m j => m + 2 ^ j) 0
  let d := d.addSat Reg.skyVotes 1
  let d := ((d.setFld Reg.skyStatus 4 0 v.bad).setFld Reg.skyStatus 12 8 mask).setFld Reg.skyStatus 31 16 n
  let fresh := hot.filter fun j => !(d.sky.awaiting.any fun x => x.1 + j == n)
  let d := d.addSat Reg.skySuspects fresh.length
  if hot.isEmpty then d else d.raise skyPage 1

/-- The outcome of a vote (R375); where step n - L is fixed already no step is due (R386). -/
def Dev.applyVote (d : Dev) (f : Fuse) (c : Decoded) (n vote : Nat) (v : Vote) : Dev :=
  let l := d.lag
  let s := n - l
  let d := d.showVote n v
  let due := decide (d.firstUnfixed ≤ s)
  let vote := if due then vote else 3
  let fixes := due && !v.bad.testBit l && v.suspect.getD l 0 == 0 && s == d.firstUnfixed
  let d := if fixes then d.fixStep f s else d
  if v.bad ≠ 0 then (d.fixDone c n vote 2).orderRollback 0
  else
    let hot := (List.range (l + 1)).filter fun j => v.suspect.getD j 0 ≠ 0
    let awaits := hot.map fun j => (n - j, v.suspect.getD j 0)
    let kept := d.sky.awaiting.filter fun x => !awaits.any fun y => y.1 == x.1
    let d : Dev := { d with sky := { d.sky with
      awaiting := kept ++ awaits
      voted := if due && !fixes then s :: d.sky.voted else d.sky.voted } }
    let own := (hot.map fun j => n - j).filter d.sky.suspect.contains
    let d := d.fixDone c n vote (if fixes then 0 else if due then 1 else 3)
    own.foldl (fun d s => d.requestKey s) d

/-- The running FIX with its state. -/
def Dev.runningFix (d : Dev) : Option (Decoded × FixRun) :=
  match d.seqMain.running, d.sky.fix with
  | some r, some x => some (r.dec, x)
  | _, _ => none

/-- A vote that does not fit is a barrier mismatch (R333, R373). -/
def Dev.fixMismatch (d : Dev) (c : Decoded) (peer : Nat) : Dev :=
  { d with sky := { d.sky with fix := none, votes := [] } }.legMismatch c peer

/-- The vote goes on as far as what has come allows. -/
def Dev.runVote (d : Dev) (f : Fuse) : Dev :=
  match d.runningFix, d.governing 0 with
  | some (c, r), some chart =>
    let n := r.cmd.step.toNat
    match d.sky.votes.find? fun m => !(u8 m.body 2 == d.lag && u16 m.body 6 == n % 65536) with
    | some m => d.fixMismatch c m.sender
    | none =>
      let children := chart.childrenOf d.self
      let parent := chart.parentOf d.self
      let own : Vote := ⟨1, d.voteBad n, d.voteSuspect n⟩
      match upMessages d.sky.votes children with
      | none => d
      | some ups =>
        let total := ups.foldl (fun v m => v.join (voteOf m.body)) own
        match parent with
        | none =>
          if total.count ≠ chart.members.length then d.fixMismatch c ((ups.getLast?.map (·.sender)).getD d.self)
          else (d.sendControls children (d.voteBytes 1 n total)).applyVote f c n (d.voteCode n) total
        | some p =>
          if r.sentUp then
            match treeMsg d.sky.votes p 1 with
            | some m => (d.sendControls children (d.voteBytes 1 n (voteOf m.body))).applyVote f c n r.vote (voteOf m.body)
            | none => d
          else
            let run : FixRun := { r with sentUp := true, vote := d.voteCode n }
            let d := d.sendControl p (d.voteBytes 0 n total)
            { d with sky := { d.sky with fix := some run } }
  | _, _ => d

/-- A replay's step ends: the witness's verdict, or the third computation's decision (R380, R381, R383). -/
def Dev.replayEnds (d : Dev) (n : Nat) : Dev :=
  let x := (d.digestsOf n).getD Digests.none
  if d.skyMode = 1 then
    match d.sky.jobs.find? fun j => j.suspect = d.self ∧ j.step = n with
    | some j =>
      let d : Dev := { d with sky := { d.sky with jobs := d.sky.jobs.filter fun k => !(k.suspect == j.suspect && k.step == n) } }
      d.skSend j.suspect 36 (if x = j.digests then 0 else 1) 0 j.suspect n x
    | none => d
  else
    match d.request n with
    | some r =>
      if !r.third then d
      else if x = r.own then (d.reportFaulty d.witness n).decideFix n
      else if r.witness = some x then d.decideRollback r 1
      else ((d.reportFaulty d.number n).reportFaulty d.witness n).decideRollback r 2
    | none => d

/-- DEDUCED, log entry 40. -/
def execFix (s : State) : Host.Outcome State Fault Refusal :=
  s.act fun d => d.issueIf .main fun c => match c.cmd with
    | .fix x =>
      let n := x.step.toNat
      let d := d.issue .main c false true
      some (if !d.active skyPage then d.rejectRun .main c rField
        else if d.skyMode ≠ 0 then (d.fixDone c n 3 3).replayEnds n
        else if n < d.sky.firstStep + d.lag then d.fixDone c n 3 3
        else
          let d : Dev := { d with sky := { d.sky with fix := some ⟨x, d.now, false, 0⟩ } }
          d.runVote s.fuse)
    | _ => none

def execFixVote (m : Packet) (s : State) : Host.Outcome State Fault Refusal :=
  s.act fun d =>
    if d.has m && m.cls == 0 && u8 m.body 0 == 32 then
      let d := d.takePacket m
      if olderStep d.step (u16 m.body 6) then d.stray
      else
        let sender := u16 m.body 4
        let kept := d.sky.votes.filter fun x => !(x.sender == sender && u8 x.body 1 == u8 m.body 1)
        let d : Dev := { d with sky := { d.sky with votes := kept ++ [⟨sender, m.body⟩] } }
        d.runVote s.fuse
    else d

def execFixTimeout (s : State) : Host.Outcome State Fault Refusal :=
  s.act fun d => match d.runningFix with
    | some (c, r) =>
      if d.overdue r.issued (d.chtTimeoutUs r.cmd.timeoutUs) then
        { d with sky := { d.sky with fix := none, votes := [] } }.rejectRun .main c rTimeout
      else d
    | none => d

/-! The second key (R380 to R383). -/

/-- A witness asked (R380). -/
def Dev.takeRequest (d : Dev) (m : SkMsg) : Dev :=
  let d := d.raise skyPage 6
  if 4 ≤ d.sky.jobs.length then d.skSend m.sender 35 1 0 m.suspect m.step Digests.none
  else
    let d : Dev := { d with sky := { d.sky with jobs := d.sky.jobs ++ [⟨m.suspect, m.step, m.digests⟩] } }
    d.skSend m.sender 35 0 0 m.suspect m.step Digests.none

def execSkRequest (m : Packet) (s : State) : Host.Outcome State Fault Refusal := s.skMessage m 34 fun x d => d.takeRequest x

/-- A message about a request this package no longer holds is stray (R382). -/
def Dev.aboutRequest (d : Dev) (m : SkMsg) (f : SkRequest → Dev) : Dev :=
  match d.request m.step with
  | some r => if m.suspect = d.number ∧ r.cause = 0 then f r else d.stray
  | none => d.stray

def execSkAccept (m : Packet) (s : State) : Host.Outcome State Fault Refusal :=
  s.skMessage m 35 fun x d => d.aboutRequest x fun r => if x.code = 1 then d.decideRollback r 3 else d

def execSkVerdict (m : Packet) (s : State) : Host.Outcome State Fault Refusal :=
  s.skMessage m 36 fun x d => d.aboutRequest x fun r =>
    if x.code = 0 then (d.addSat Reg.skySkEqual 1).decideFix x.step
    else ((d.addSat Reg.skySkThird 1).putRequest { r with witness := some x.digests, third := true }).sendDecision x.step 1

/-- The CAUSE of a rollback by decision: the suspect package's own; the message carries none to the others, so that it is open
among the three of R386. DEDUCED, log entry 40. -/
def Dev.decisionCause (d : Dev) (m : SkMsg) : Nat × Dev :=
  match d.request m.step with
  | some r => if m.suspect = d.number then (r.cause, d) else let w := d.drawWord
    (1 + w.1.toNat % 3, w.2)
  | none =>
    let w := d.drawWord
    (1 + w.1.toNat % 3, w.2)

/-- A hold for a step ends. -/
def Dev.endHold (d : Dev) (m : SkMsg) : Dev :=
  let d : Dev := { d with sky := { d.sky with holds := d.sky.holds.filter fun x => x ≠ (m.suspect, m.step) } }
  if d.sky.holds.isEmpty then d.setFlag Reg.skyStatus 13 false else d

/-- One awaited decision of FIX has come. -/
def Dev.awaitLess (d : Dev) (step : Nat) : Dev :=
  let left := (d.sky.awaiting.map fun x => if x.1 = step then (x.1, x.2 - 1) else x).filter fun x => x.2 != 0
  { d with sky := { d.sky with awaiting := left } }

/-- A decision takes effect (R376, R381, R383). -/
def Dev.applyDecision (d : Dev) (f : Fuse) (m : SkMsg) : Dev :=
  let d := d.raise skyPage 4
  match m.code with
  | 0 => Dev.fixReleased f 64 ((d.endHold m).awaitLess m.step)
  | 1 => { d with sky := { d.sky with holds := (m.suspect, m.step) :: d.sky.holds } }
  | _ =>
    let x := d.decisionCause m
    (x.2.endHold m).orderRollback x.1

/-- A decision received: stray where its step is fixed or rolled back, else passed down the tree and applied. -/
def Dev.takeDecision (d : Dev) (f : Fuse) (m : SkMsg) : Dev :=
  if !(d.sky.awaiting.any fun x => x.1 == m.step) then d.stray
  else
    let children := match (d.governLive 0).bind fun i => d.cht.live.getD i none with
      | some c => c.childrenOf d.number
      | none => []
    (d.sendControls children (SkMsg.bytes { m with dir := 1, sender := d.number })).applyDecision f m

def execSkDecision (m : Packet) (s : State) : Host.Outcome State Fault Refusal :=
  s.skMessage m 37 fun x d => d.takeDecision s.fuse x

def execSkCancel (m : Packet) (s : State) : Host.Outcome State Fault Refusal :=
  s.skMessage m 38 fun x d =>
    { d with sky := { d.sky with jobs := d.sky.jobs.filter fun j => !(j.suspect == x.suspect && j.step == x.step) } }

def execSkTimeout (s : State) : Host.Outcome State Fault Refusal :=
  s.act fun d =>
    let limit := ms (max 1 (d.fld Reg.skyTimeout 19 0))
    match d.sky.requests.find? fun r => !r.third ∧ r.cause = 0 ∧ r.since + limit ≤ d.now with
    | some r => d.decideRollback r 3
    | none => d

/-! The flush (R384, R385). -/

/-- The pages a rollback drains. -/
def rollbackPages : List Page :=
  [page1 .cmp, page1 .red, page1 .hlm, page1 .cht, ⟨.seq, 0⟩] ++ (List.range 16).map hngPage

def pageKey (p : Page) : Nat × Nat := (pageCode p.type, p.inst)

/-- Blocks of classes 1 to 4 that stand received are discarded, their credits returned. -/
def Dev.discardReceived (d : Dev) : Dev :=
  let d := (List.range 36).foldl (fun d q => (d.port q).ready.foldl (fun d m => if m.cls = 0 then d else d.takePacket m) d) d
  { d with
    ports := d.ports.map fun p => { p with flows := [] }
    cht := { d.cht with loop := d.cht.loop.filter fun m => m.cls = 0, replayFlows := [] } }

/-- A count message of the flush: TYPE, DIR, SENDER, STEP, S and T. The spec gives the values and their width, and no layout.
DESIGN CHOICE, log entry 41. -/
def Dev.flushBytes (d : Dev) (dir s t : Nat) : List Byte :=
  natBytes 1 33 ++ natBytes 1 dir ++ natBytes 2 0 ++ natBytes 2 d.number ++ natBytes 2 d.step ++ natBytes 8 s ++ natBytes 8 t

def flushTotals (b : List Byte) : Nat × Nat := (u64 b 8, u64 b 0x10)

/-- A round's totals arrived: two successive rounds of S = T with equal totals end the flush, after which remote writes go out
again. -/
def Dev.flushRound (d : Dev) (x : Nat × Nat) : Dev :=
  if x.1 = x.2 ∧ d.sky.flushLast = some x then
    let d : Dev := { d with sky := { d.sky with
      flushing := false, flushUp := false, flushLast := none, flushMsgs := [], rollback := false, drained := [] } }
    let d := d.setFlag Reg.skyStatus 14 true
    Dev.runPosts postFuel (if d.code skyPage = 3 then d.moveTo skyPage 2 else d)
  else { d with sky := { d.sky with flushUp := false, flushLast := some x, flushMsgs := [] } }

/-- The flush goes on as far as what has come allows; `fuel` bounds the rounds taken at once.
DESIGN CHOICE, log entry 3. -/
def Dev.runFlush : Nat → Dev → Dev
  | 0, d => d
  | n + 1, d =>
    match (d.governLive 0).bind fun i => d.cht.live.getD i none with
    | none => d
    | some chart =>
      if !d.sky.flushing then d
      else
        let children := chart.childrenOf d.number
        match upMessages d.sky.flushMsgs children with
        | none => d
        | some ups =>
          let sum := ups.foldl (fun (a : Nat × Nat) m => (a.1 + (flushTotals m.body).1, a.2 + (flushTotals m.body).2))
            (d.sky.sentBlocks, d.sky.takenBlocks)
          match chart.parentOf d.number with
          | none => Dev.runFlush n ((d.sendControls children (d.flushBytes 1 sum.1 sum.2)).flushRound sum)
          | some p =>
            if d.sky.flushUp then
              match treeMsg d.sky.flushMsgs p 1 with
              | some m =>
                let x := flushTotals m.body
                Dev.runFlush n ((d.sendControls children (d.flushBytes 1 x.1 x.2)).flushRound x)
              | none => d
            else
              let d := d.sendControl p (d.flushBytes 0 sum.1 sum.2)
              { d with sky := { d.sky with flushUp := true } }

/-- Once every page of a rollback has drained, the flush begins. DESIGN CHOICE, log entry 41. -/
def Dev.startFlush (d : Dev) : Dev :=
  let idle := rollbackPages.all fun p => d.sky.drained.contains (pageKey p) || d.ready p
  if d.sky.rollback && !d.sky.flushing && idle then
    let d := (d.setFlag Reg.skyStatus 14 false).discardReceived
    let d := if d.active skyPage then d.moveTo skyPage 3 else d
    Dev.runFlush 2 { d with sky := { d.sky with flushing := true, flushUp := false, flushLast := none } }
  else d

def execFlushCount (m : Packet) (s : State) : Host.Outcome State Fault Refusal :=
  s.act fun d =>
    if d.has m && m.cls == 0 && u8 m.body 0 == 33 then
      let d := d.takePacket m
      let sender := u16 m.body 4
      let kept := d.sky.flushMsgs.filter fun x => !(x.sender == sender && u8 x.body 1 == u8 m.body 1)
      Dev.runFlush 2 { d with sky := { d.sky with flushMsgs := kept ++ [⟨sender, m.body⟩] } }
    else d

end Sys2Proof.Machine
end

