-- ==== Sys2Proof/Machine/Clock.lean ====
section
/-! DEFINITION. What passes while no command waits. -/
namespace Sys2Proof.Machine

/-- 1 ns passes (DESIGN CHOICE, notes/assumptions/3.md); a flush that needs nothing from another package goes on (R385).
DESIGN CHOICE, log entry 3. -/
def Dev.tick (d : Dev) (running : Bool) : Dev :=
  let d := { d with now := d.now + 1 }
  if running then d.runFlush 2 else d

/-- DESIGN CHOICE, log entry 3. -/
def State.tick (s : State) : State := { s with dev := s.dev.tick (s.carrier.phase == .running) }

end Sys2Proof.Machine
end

