-- ==== Sys2Proof/Machine/Logbook.lean ====
section
/-! DEFINITION. LOGMARK, the Logbook's drain and spill, the time base (14_logbook_and_replay.md). -/
namespace Sys2Proof.Machine

/-! LOGMARK (R347). -/

/-- The planes of a tensor's logical byte stream. -/
def Desc.planes (t : Desc) (src : ByteSource) : List (List Byte) :=
  if isBlock t.fmt then t.runs.map fun r => readBytes src r.1 r.2
  else [((List.range t.rows).map fun r => readBytes src (t.rowAddr r) (elemSize t.fmt * t.len0)).flatten]

/-- The digest of planes, each starting a new block, the block indices running on. -/
def digestPlanes (ps : List (List Byte)) : Dword × Dword :=
  (ps.foldl (fun (acc : Nat × (Dword × Dword)) p => (acc.1 + ceilDiv p.length 256, digestFrom acc.2 acc.1 p)) (0, (0#64, 0#64))).2

/-- The digest of a byte range, its block indices counted from BASE modulo 2^64. -/
def digestRange (src : ByteSource) (address base length : Nat) : Dword × Dword :=
  (List.range (length / 256)).foldl (fun l i =>
    let a := address + 256 * i
    addBlock l (((a : Int) - base) / 256 % (2 : Int) ^ 64).toNat (readBytes src a 256)) (0#64, 0#64)

/-- The record of a LOGMARK TENSOR or RANGE. -/
def tensorRec (c : Decoded) (x : LogmarkCmd) (format extent : Nat) (lanes : Dword × Dword) : Rec :=
  ⟨0x000C, x.layer, x.step.toNat, false, false, false, natBytes 1 x.kind ++ natBytes 1 format ++ natBytes 2 0 ++ wordBytes c.tensorId ++
    natBytes 8 extent ++ dwordBytes lanes.1 ++ dwordBytes lanes.2 ++ wordBytes c.tag ++ natBytes 4 0⟩

/-- What a LOGMARK records. -/
def logmarkRec (c : Decoded) (x : LogmarkCmd) (src : ByteSource) : Rec :=
  match x.kind, x.src with
  | 0, _ => ⟨0x000D, x.layer, x.step.toNat, false, false, false, wordBytes c.tag ++ natBytes 4 0 ++ x.data⟩
  | _, some t => tensorRec c x t.fmt t.elems (digestPlanes (t.planes src))
  | _, none =>
    let n := u32 x.data 16
    tensorRec c x 0xFF n (digestRange src (u64 x.data 0) (u64 x.data 8) n)

def State.logmark (s : State) (ev : OpEvents) (kind : Nat) : Host.Outcome State Fault Refusal :=
  s.act fun d => d.issueIf .main fun c => match c.cmd with
    | .logmark x =>
      if x.kind ≠ kind then none else some (d.operate s.fuse .main c [] ev fun src d => d.record (logmarkRec c x src))
    | _ => none

def execLogmarkNote (s : State) : Host.Outcome State Fault Refusal := s.logmark OpEvents.none 0

def execLogmarkTensor (ev : OpEvents) (s : State) : Host.Outcome State Fault Refusal := s.logmark ev 1

def execLogmarkRange (ev : OpEvents) (s : State) : Host.Outcome State Fault Refusal := s.logmark ev 2

/-! The drain (R350). -/

/-- A register read by a hart: the value it sees and what the read does. -/
def State.hartReads (s : State) (hart : Nat) (f : Dev → Word × Dev) : State :=
  match s.liveHart hart with
  | some h => { s with harts := s.harts.set hart { h with lastRead := (f s.dev).1 }, dev := (f s.dev).2 }
  | none => s

/-- The record at an offset of the ring: its LENGTH. -/
def Dev.recordLength (d : Dev) (x : Nat) : Nat :=
  max 8 (leNat [d.mem.byte (ringAddr (x + 2)), d.mem.byte (ringAddr (x + 3))])

/-- A read of LOG_NEXT. -/
def Dev.readLogNext (d : Dev) : Word × Dev :=
  let x := d.log.nextOut
  if x < d.pair Reg.logWriteLo then
    let w := BitVec.ofNat 32 (x % 0x100000000 / 8)
    (w, { d with log := { d.log with nextOut := x + d.recordLength x, lastNext := w } })
  else (d.log.lastNext, (d.setFlag Reg.logStatus 4 true).raise logPage 4)

def execLogNextRead (hart : Fin 28) (s : State) : Host.Outcome State Fault Refusal := .next (s.hartReads hart Dev.readLogNext)

def execLogDrainedWrite (hart : Fin 28) (value : Word) (s : State) : Host.Outcome State Fault Refusal :=
  .next (s.byHart hart fun d =>
    let v := 0x100000000 * value.toNat + d.log.drainedLo.toNat
    if d.pair Reg.logDrainedLo ≤ v ∧ v ≤ d.pair Reg.logWriteLo ∧ v % 8 = 0 then d.setPair Reg.logDrainedLo v
    else d.raise logPage 5)

/-! The spill (R354, R360, R438). -/

/-- Every port has left the fabric and neither stream does work, after a sag or at a quiesce (R437, R453). -/
def Dev.parked (d : Dev) : Bool :=
  (decide (3 ≤ d.pwr.level) || d.pwr.quiesced) && d.quiet .main && d.quiet .backfill &&
    (List.range 36).all fun q => !d.active (fabPage q)

/-- The page enters DRAINING and spills; the spill's header holds the append offset of that moment. -/
def Dev.startSpill (d : Dev) : Dev :=
  if d.active logPage then
    { d.moveTo logPage 3 with
      log := { d.log with spilling := true }
      flash := { d.flash with spillHeader := d.pair Reg.logWriteLo, spillStart := d.pair Reg.logDrainedLo } }
  else d

def execLogSpill (s : State) : Host.Outcome State Fault Refusal :=
  s.act fun d => if d.parked then d.startSpill else d

/-- The lengths of the whole records from an offset to the end; `fuel` bounds their number. -/
def Dev.recordsFrom (d : Dev) (hi : Nat) : Nat → Nat → List Nat
  | 0, _ => []
  | n + 1, x => if hi ≤ x then [] else d.recordLength x :: d.recordsFrom hi n (x + d.recordLength x)

/-- The leading records that fit in `room` bytes: their bytes in all, and how many records remain. -/
def fitting : Nat → List Nat → Nat × Nat
  | _, [] => (0, 0)
  | room, n :: ns =>
    if n ≤ room then
      let r := fitting (room - n) ns
      (n + r.1, r.2)
    else (0, ns.length + 1)

/-- What the spill region holds once every record not acknowledged has been written, and how many records did not fit. -/
def Dev.spilled (d : Dev) : List Byte × Nat :=
  let lo := d.pair Reg.logDrainedLo
  let hi := d.pair Reg.logWriteLo
  let r := fitting (0x80000000 - d.flash.spill.length) (d.recordsFrom hi ((hi - lo) / 8 + 1) lo)
  (d.flash.spill ++ d.ringBytes lo (lo + r.1), r.2)

/-- The spill is complete; records that do not fit are counted. DEDUCED and DESIGN CHOICE, log entry 42. -/
def Dev.spill (d : Dev) : Dev :=
  let x := d.spilled
  let d := d.addSat Reg.logLost x.2
  { d with flash := { d.flash with spill := x.1 }, log := { d.log with spilling := false } }

/-- A spill cut short (R439): how many whole flash pages it has written is open, and a partial one is discarded.
DEDUCED and DESIGN CHOICE, log entry 42. -/
def Dev.cutSpill (d : Dev) : Dev :=
  if !d.log.spilling then d
  else
    let w := d.drawWord
    let old := d.flash.spill.length
    let all := d.spilled.1
    let page := max 1 Config.flashPage
    { w.2 with
      flash := { d.flash with spill := all.take (old + page * (w.1.toNat % ((all.length - old) / page + 1))) }
      log := { d.log with spilling := false } }

/-- The drain service after a boot: where the header and the last spilled record differ it reports the gap, and the region is
drained (R354, R438). -/
def Dev.drainSpill (d : Dev) : Dev :=
  let last := d.flash.spillStart + d.flash.spill.length
  let gaps := if last < d.flash.spillHeader then d.mgt.gaps ++ [(last, d.flash.spillHeader)] else d.mgt.gaps
  { d with
    mgt := { d.mgt with gaps := gaps }
    flash := { d.flash with spill := [], spillHeader := 0, spillStart := 0 } }

/-- A held request for READY takes effect. DEDUCED and DESIGN CHOICE, log entry 42. -/
def Dev.releaseHeld (d : Dev) (p : Page) : Dev := if d.fld (stateReg p) 23 20 = 1 then d.accept p 1 else d

def execSpillComplete (ok : Bool) (s : State) : Host.Outcome State Fault Refusal :=
  s.act fun d =>
    if !d.log.spilling then d
    else if ok then d.spill.releaseHeld logPage
    else { d with log := { d.log with spilling := false } }.pageFault logPage

/-! The time base (R355, R494). -/

def mgtPage : Page := page1 .mgt

/-- The lock of the servo, with its event where it changes. DESIGN CHOICE, log entry 43. -/
def Dev.ptpLock (d : Dev) (on : Bool) : Dev :=
  if d.flag Reg.logStatus 6 = on then d
  else (d.setFlag Reg.logStatus 6 on).raise mgtPage (if on then 2 else 3)

/-- An exchange completed: the offset seen, a correction that the spec leaves to the servo, and the lock, which stands while the
offset lies within 1 µs. DESIGN CHOICE, log entry 43. -/
def Dev.servo (d : Dev) (offset : Int) : Dev :=
  let w := d.drawWord
  { w.2 with log := { w.2.log with ptpOffset := offset, ptpShift := w.2.log.ptpShift + w.1.toInt } }.ptpLock
    (decide (offset.natAbs ≤ 1000))

/-- PTP runs from boot stage 8 on (R412). DESIGN CHOICE, log entry 43. -/
def execPtpMessage (m : PtpMessage) (s : State) : Host.Outcome State Fault Refusal :=
  s.act fun d =>
    if d.active mgtPage ∧ m.port = d.fld Reg.mgtPtpCtrl 0 0 ∧ d.mgt.up.getD m.port false then d.servo m.offsetNs else d

def execMgtPtpPortWrite (hart : Fin 28) (value : Word) (s : State) : Host.Outcome State Fault Refusal :=
  .next (s.byHart hart fun d =>
    let old := d.flag Reg.mgtPtpCtrl 0
    let d := d.store Reg.mgtPtpCtrl value
    let d := if d.flag Reg.mgtPtpCtrl 1 then d else d.setFlag Reg.logStatus 7 false
    if d.flag Reg.mgtPtpCtrl 0 = old then d else d.ptpLock false)

end Sys2Proof.Machine
end

