-- ==== Sys2Proof/Machine/Parking.lean ====
section
/-! DEFINITION. Boundaries of operations, and how the package withdraws from its fabric: the quiesce of a removal and what a
sagging input takes away (R56, R434 to R442, R449 to R454, R460). -/
namespace Sys2Proof.Machine

def hubPage : Page := page1 .hub
def hotPage : Page := page1 .hot

/-! Leaving the fabric (R437, R453). -/

/-- A port sends its 64 park words and returns to OFF, its ENABLE with it, so that it stays OFF until it is enabled again.
DEDUCED and DESIGN CHOICE, log entry 34. -/
def Dev.parkPort (d : Dev) (q : Nat) : Dev :=
  if d.active (fabPage q) then
    ((d.portOff q).setPort q fun p => { p with parkWords := 64 }).setFlag (Reg.fabCtrl q) 0 false
  else d

/-- Once neither stream does work, the DRAM stacks enter self-refresh, but not for a quiesce (R453), the ports are parked and the HUB
page enters DRAINING (R437). -/
def Dev.park (d : Dev) : Dev :=
  if (decide (3 ≤ d.pwr.level) || d.pwr.quiesced) && d.quiet .main && d.quiet .backfill then
    let d : Dev := { d with pwr := { d.pwr with selfRefresh := d.pwr.selfRefresh || decide (3 ≤ d.pwr.level) } }
    let d := (List.range 36).foldl Dev.parkPort d
    if [1, 2, 6].contains (d.code hubPage) then d.moveTo hubPage 3 else d
  else d

/-- What takes effect at the boundary of the operation that runs: the table a TLOAD has read (R98), a HELM_SET's step and rates
(R250). -/
def Dev.applyLate (d : Dev) (st : Stream) : Dev :=
  let d' := d.setStream st fun s => { s with late := none }
  match (d.stream st).late with
  | some (.tload t image) => d'.loadTable st t image
  | some (.helmStep h) => d'.setStep h
  | none => d'

def execOperationBoundary (st : Stream) (s : State) : Host.Outcome State Fault Refusal :=
  s.act fun d => match (d.stream st).running with
    | some r =>
      if r.done && !d.boundaryHeld r.dec.cmd then
        let d := (d.applyLate st).complete st r.dec
        (((d.returnMargins.settle st).settle (otherStream st)).leaveMaps s.fuse).park
      else d
    | none => d

/-! The quiesce (R452 to R454). -/

/-- A quiesce begins; one that has begun does not begin again. -/
def Dev.startQuiesce (d : Dev) : Dev :=
  if d.pwr.quiesced then d
  else
    let d : Dev := { d with pwr := { d.pwr with quiesced := true, graceFrom := none } }
    (((d.moveTo hotPage 3).setFld Reg.hotStatus 2 1 2).raise hotPage 2).park

/-- Removal is requested: GRACE, and the quiesce at once where the HUB page is not ACTIVE or no grace is given; once a quiesce has
begun only the event is left. -/
def Dev.latchOpened (d : Dev) : Dev :=
  if d.pwr.quiesced then d.raise hotPage 0
  else
    let d : Dev := { d with pwr := { d.pwr with graceFrom := some d.now } }
    let d := (d.setFld Reg.hotStatus 2 1 1).raise hotPage 0
    if !d.active hubPage || d.fld Reg.hotCtrl 11 0 == 0 then d.startQuiesce else d

/-- The Latch closed: during GRACE this cancels the request. -/
def Dev.latchClosed (d : Dev) : Dev :=
  match d.pwr.graceFrom with
  | some _ =>
    let d : Dev := { d with pwr := { d.pwr with graceFrom := none } }
    (d.setFld Reg.hotStatus 2 1 0).raise hotPage 1
  | none => d

/-- The HUB page left ACTIVE during GRACE: the quiesce begins. -/
def Dev.hubLeft (d : Dev) : Dev :=
  if d.pwr.graceFrom.isSome && !d.active hubPage then d.startQuiesce else d

/-- GRACE ends when its time has passed, or when hardware has taken the HUB page out of ACTIVE. -/
def execGraceExpiry (s : State) : Host.Outcome State Fault Refusal :=
  s.act fun d => match d.pwr.graceFrom with
    | some t =>
      if t + 1000 * ms (min 3600 (d.fld Reg.hotCtrl 11 0)) ≤ d.now ∨ !d.active hubPage then d.startQuiesce else d
    | none => d

/-- QUIESCE reads 0 again as soon as the quiesce it starts has begun. DESIGN CHOICE, log entry 65. -/
def execHotQuiesceWrite (hart : Fin 28) (value : Word) (s : State) : Host.Outcome State Fault Refusal :=
  .next (s.byHart hart fun d =>
    let d := (d.store Reg.hotCtrl value).setFlag Reg.hotCtrl 16 false
    if bit value 16 then d.startQuiesce else d)

/-! The input voltage (R434). -/

/-- The newest `n` averages. -/
def AvgRun.newest : Nat → List AvgRun → List AvgRun
  | _, [] => []
  | n, r :: rs => if r.us < n then r :: AvgRun.newest (n - r.us) rs else [⟨r.sum4, n⟩]

/-- The newest averages have all met a condition for `n` microseconds. -/
def AvgRun.holds (ok : Nat → Bool) : Nat → List AvgRun → Bool
  | 0, _ => true
  | _, [] => false
  | n, r :: rs => ok r.sum4 && AvgRun.holds ok (n - r.us) rs

/-- How many microseconds of averages the controller keeps: the longest time that a rule looks back. -/
def avgKept : Nat := 1000000

/-- A sample of 1 µs taken in, with the average of the last four. -/
def Carrier.sample1 (c : Carrier) (mv : Nat) : Carrier :=
  { c with recent := mv :: c.recent.take 2, avg := ⟨mv + listSum (c.recent.take 3), 1⟩ :: c.avg }

/-- A run of equal samples taken in: from the fourth one on the average is the sample. -/
def Carrier.sampleRun (c : Carrier) (r : InputRun) : Carrier :=
  let c' := (List.range (min 3 r.us)).foldl (fun c _ => c.sample1 r.mv) c
  if 3 < r.us then { c' with avg := ⟨4 * r.mv, r.us - 3⟩ :: c'.avg } else c'

/-- The samples since the last row that brought any taken in, oldest first. -/
def Carrier.sample (c : Carrier) (input : List InputRun) : Carrier :=
  let c := input.foldl Carrier.sampleRun c
  { c with avg := AvgRun.newest avgKept c.avg }

/-- The input as sampled by the carrier controller, while it has 54 V. DESIGN CHOICE, log entries 7 and 47. -/
def State.sample (s : State) (input : List InputRun) : State :=
  if s.carrier.phase = .dark then s else { s with carrier := s.carrier.sample input }

/-- The newest averaged sample in quarter millivolts. -/
def Carrier.newestAvg (c : Carrier) : Nat := (c.avg.head?.map (·.sum4)).getD 0

/-! Crash records (R411, R413, R438). -/

/-- Every page of the package. -/
def allPages : List Page := (allPageTypes.map fun t => (List.range (pageInstances t)).map fun i => (⟨t, i⟩ : Page)).flatten

/-- The averaged samples that a crash record holds. -/
def crashSamples : Nat := 4096

/-- A crash record written to module flash. DESIGN CHOICE, log entry 59. -/
def Dev.crash (d : Dev) (c : Carrier) : Dev :=
  let r : CrashRecord :=
    ⟨c.cause, d.stamp, allPages.map fun p => (Page.addr p, d.reg (stateReg p)), AvgRun.newest crashSamples c.avg⟩
  { d with flash := { d.flash with crash := d.flash.crash ++ [r] } }

/-! Shed levels (R434 to R442). -/

/-- At level 4 the work of a stream is stopped at once. -/
def Dev.stopWork (d : Dev) (st : Stream) : Dev := d.setStream st fun s => { s with running := none, late := none }

/-- The actions of one level. -/
def Dev.shedActions (d : Dev) (c : Carrier) (level : Nat) : Dev :=
  match level with
  | 1 => (d.addSatFld Reg.pwrShed 31 16 1).suspend 2
  | 2 => ({ d with pwr := { d.pwr with target := d.pwr.target.map fun x => (x.1, min 2400 x.2) } } : Dev).showPinned
  | 3 => d.park
  | 4 => (((d.stopWork .main).stopWork .backfill).park).crash c
  | _ => d

/-- A level entered. DEDUCED, log entry 47. -/
def Dev.enterLevel (c : Carrier) (d : Dev) (level : Nat) : Dev :=
  let d : Dev := { d with pwr := { d.pwr with level := level, since := d.now } }
  let d := d.setFld Reg.pwrShed 6 4 (max level (d.fld Reg.pwrShed 6 4))
  (d.raise pwrPage 0).shedActions c level

/-- The threshold of a level from 1 to 5 (R434). -/
def Dev.sagThreshold (d : Dev) (level : Nat) : Nat := d.fld (Reg.pwrSagCfg (level - 1)) 15 0

/-- The persistence of a level in microseconds, 0 taken as 1 (R435). -/
def Dev.persistUs (d : Dev) (level : Nat) : Nat := max 1 (d.fld (Reg.pwrSagCfg (level - 1)) 23 16)

/-- The next level is entered once the averaged input has lain below its threshold for its persistence. -/
def execShedLevelEnter (level : Fin 6) (s : State) (input : List InputRun := []) : Host.Outcome State Fault Refusal :=
  let s := s.sample input
  s.act fun d =>
    let n := level.val
    if n = d.pwr.level + 1 ∧ AvgRun.holds (fun a => decide (a < 4 * d.sagThreshold n)) (d.persistUs n) s.carrier.avg then
      d.enterLevel s.carrier n
    else d

/-- PWR_FAIL became active: every level up to 3 is entered (R442). DEDUCED, log entry 47. -/
def Dev.pwrFail (d : Dev) (c : Carrier) : Dev :=
  if 3 ≤ d.pwr.level then d
  else
    let levels := (List.range 4).filter fun n => d.pwr.level < n
    (levels.foldl (Dev.enterLevel c) d).raise pwrPage 5

/-- An external input, in the order of R417: LATCH, PWR_FAIL, ALERT, THERM, PPS. -/
def Dev.input (d : Dev) (i : Nat) : ExtInput := d.ext.getD i ExtInput.reset

/-- PWR_RECOVER.HYST_MV, the nearer limit where it lies outside its range. -/
def Dev.hysteresis (d : Dev) : Nat := max 500 (min 4000 (d.fld Reg.pwrRecover 11 0))

/-- The time in microseconds that the input has to have recovered for a level to be left: level 3 needs 100 ms, the others
HOLD_MS (R440). -/
def Dev.recoverUs (d : Dev) : Nat := 1000 * (if d.pwr.level = 3 then 100 else max 1 (min 1000 (d.fld Reg.pwrRecover 25 16)))

/-- The averaged input has stayed at or above a level's threshold plus the hysteresis for so many microseconds (R440). -/
def Dev.recovered (d : Dev) (avg : List AvgRun) (level us : Nat) : Bool :=
  AvgRun.holds (fun a => decide (4 * (d.sagThreshold level + d.hysteresis) ≤ a)) us avg

/-- A level left: 1 to 3 one at a time, 3 by the threshold of level 1 and only with PWR_FAIL inactive; the DRAM stacks then leave
self-refresh (R440, R442). DEDUCED, log entry 47. -/
def Dev.leaveLevel (d : Dev) (avg : List AvgRun) : Dev :=
  let n := d.pwr.level
  let held := n == 3 && (d.input 1).level
  if n = 0 ∨ 3 < n ∨ held ∨ !d.recovered avg (if n = 3 then 1 else n) d.recoverUs then d
  else
    let d : Dev := { d with pwr := { d.pwr with level := n - 1, selfRefresh := false } }
    let d := d.raise pwrPage 1
    match n with
    | 1 => d.setFlag (Reg.seqBfStatus 1) 2 false
    | 3 => if d.pwr.quiesced then d else d.releaseHeld hubPage
    | _ => d

def execShedLevelLeave (s : State) (input : List InputRun := []) : Host.Outcome State Fault Refusal :=
  let s := s.sample input
  s.act fun d => d.leaveLevel s.carrier.avg

/-- The ranges of the five thresholds in mV. -/
def sagRange (level : Nat) : Nat × Nat :=
  match level with
  | 0 => (44000, 48000)
  | 1 => (42000, 46000)
  | 2 => (40000, 44000)
  | 3 => (39000, 42000)
  | _ => (38000, 40000)

/-- The threshold of level n + 1 with `value` written to PWR_SAG_CFGk. -/
def Dev.sagMv (d : Dev) (k : Nat) (value : Word) (n : Nat) : Nat :=
  if n = k then bits value 15 0 else d.fld (Reg.pwrSagCfg n) 15 0

def execPwrSagCfgWrite (hart : Fin 28) (level : Fin 5) (value : Word) (s : State) : Host.Outcome State Fault Refusal :=
  .next (s.byHart hart fun d =>
    let mv := d.sagMv level value
    let r := sagRange level
    if r.1 ≤ mv level ∧ mv level ≤ r.2 ∧ (List.range 4).all fun n => mv (n + 1) + 1000 ≤ mv n then
      d.store (Reg.pwrSagCfg level) value
    else d.raise pwrPage 3)

end Sys2Proof.Machine
end

