-- ==== Sys2Proof/Machine/Drains.lean ====
section
/-! DEFINITION. The request protocol of the pages and the drains of the units (R163, R188, R210, R238, R270, R308, R338, R360, R389,
R408, R484, R485). -/
namespace Sys2Proof.Machine

/-! What the drains do. -/

/-- A command that only waits ends without completing; a LEG's barrier or a FIX's vote ends with it (R163). -/
def Dev.endWaiting (d : Dev) (st : Stream) : Dev :=
  match (d.stream st).running with
  | some r =>
    if r.waiting then
      let d := d.setStream st fun s => { s with running := none }
      match r.dec.cmd with
      | .leg _ => { d with cht := { d.cht with leg := none } }
      | .fix _ => { d with sky := { d.sky with fix := none } }
      | _ => d
    else d
  | none => d

/-- A stream begins to drain: nothing further is issued, and what only waits ends. -/
def Dev.stopStream (d : Dev) (st : Stream) : Dev :=
  let d := (d.endWaiting st).setStream st fun s => { s with ahead := [] }
  match st with
  | .main => { (d.endStall).setFlag Reg.skyStatus 13 false with hlm := { d.hlm with ringWait := false } }
  | .backfill => d.setFlag (Reg.seqBfStatus 1) 3 false

/-- A stream enters READY: predicates 1 to 63 false, counters 0, no called list under way, no rejection shown, no kept result and no
ROUTE issued (R144, R151 to R153, R514).
DEDUCED, log entry 12. -/
def Dev.clearStream (d : Dev) (st : Stream) : Dev :=
  let i := sidx st
  let d := (d.setReg (Reg.seqPredLo i) 1#32).setReg (Reg.seqPredHi i) 0#32
  let d := (List.range 16).foldl (fun d n => d.setReg (Reg.seqCounter i n) 0#32) d
  let d := d.setFld (Reg.seqReject i) 3 0 0
  d.setStream st fun s => { s with frames := [], ahead := [], hazard := [], kept := none, lastRoute := none, waitDone := none }

/-- FINAL cleared in the records claimed in the current step. -/
def Dev.clearFinals (d : Dev) : Dev :=
  let mine := fun (c : Claimed) => c.step == d.step % 0x100000000
  let mem := d.cmp.claimed.foldl (fun (m : Mem) c =>
    if mine c then
      let a := d.recordAddr c.layerSlot c.microbatch + 8
      m.setByte a (m.byte a &&& 0xFE#8)
    else m) d.mem
  { d with
    mem := mem
    cmp := { d.cmp with
      claimed := d.cmp.claimed.map fun (c : Claimed) => if mine c then { c with final := false } else c
      handed := d.cmp.handed.filter fun h => h.step ≠ d.step } }

/-- The Compass and the exchange drained (R188, R210). -/
def Dev.drainCmp (d : Dev) : Dev :=
  let d := d.xch.runs.foldl (fun d x => d.endXchg x 9 0xFFFF) d.clearFinals
  { d with cmp := { d.cmp with protocols := [], held := [] }, xch := { d.xch with readys := [], ended := [] } }

/-- The CHT page drained (R338): barriers and votes in flight are abandoned, and the next LEG is a first LEG. -/
def Dev.drainCht (d : Dev) : Dev :=
  { d with
    cht := { d.cht with leg := none, barriers := [], firstLeg := true }
    sky := { d.sky with fix := none, votes := [] } }

/-- The work in flight lets a page's drain end: a stream's command and the Helm's have reached their boundaries. -/
def Dev.drainOver (d : Dev) (p : Page) : Bool :=
  match p.type with
  | .seq => (d.stream (if p.inst = 0 then .main else .backfill)).running.isNone
  | .hlm => d.quiet .main
  | .cmp | .red | .hng | .cht => true
  | _ => false

/-- What a page's drain discards. -/
def Dev.drainEffect (d : Dev) (p : Page) : Dev :=
  match p.type with
  | .cmp => d.drainCmp
  | .red => d.drainRed
  | .hlm => d.ringRollback
  | .hng => d.emptyHinge p.inst
  | .cht => d.drainCht
  | _ => d

/-! States entered (R484, R485). -/

/-- The Helm's page goes ACTIVE once its slot size is set, slot 0 FIXED and every other slot FREE (R271, R401); a rollback's drain
keeps the ring, whose fixed version the replay reads (R260, R384). DEDUCED and DESIGN CHOICE, log entry 30. -/
def Dev.wakeHelm (d : Dev) : Dev :=
  if d.ready hlmPage && d.fld Reg.hlmRingSlot 23 0 != 0 then
    let d := if d.sky.rollback then d
      else { ((List.range 8).foldl (fun d i => d.setSlot i (if i = 0 then 3 else 0)) d).setFld Reg.hlmRingCur 6 4 0 with
        hlm := { d.hlm with seed := true } }
    d.moveTo hlmPage 2
  else d

/-- The Compass's page goes ACTIVE once its record size is set (R189). -/
def Dev.wakeCmp (d : Dev) : Dev :=
  if d.ready cmpPage && d.reg Reg.cmpTrackRecord != 0#32 then d.moveTo cmpPage 2 else d

/-- A page entered READY; those whose condition for ACTIVE holds go on by themselves. DEDUCED, log entry 12. -/
def Dev.enterReady (d : Dev) (p : Page) : Dev :=
  match p.type with
  | .seq => d.clearStream (if p.inst = 0 then .main else .backfill)
  | .cmp => d.wakeCmp
  | .hlm => d.wakeHelm
  | .red | .cht => d.chartLoaded
  | .hng => d.abandonSends
  | .hub => d.hubLeft
  | _ => d

/-- A page entered DRAINING. -/
def Dev.enterDraining (d : Dev) (p : Page) : Dev :=
  let d : Dev := { d with drained := d.drained.filter fun k => k != pageKey p }
  match p.type with
  | .seq => d.stopStream (if p.inst = 0 then .main else .backfill)
  | _ => d

/-- A page entered ACTIVE on request; a job's first LEG follows the LOG page's (R343). -/
def Dev.enterActive (d : Dev) (p : Page) : Dev :=
  match p.type with
  | .log => { d with log := { d.log with jobStarted := false } }
  | _ => d

/-! Requests (R484, R485). -/

/-- The condition of a page for ACTIVE, where it may be requested. -/
def Dev.activeOk (d : Dev) (p : Page) : Bool :=
  match p.type with
  | .log => d.flash.spill.isEmpty
  | .sky => decide (d.lag + 2 ≤ max 3 (min 8 (d.fld Reg.hlmRingCtrl 3 0)))
  | .hng => d.hingeOk p.inst
  | .hub | .seq | .sxt => true
  | _ => false

/-- What holds a page in DRAINING is over. DEDUCED, log entry 46. -/
def Dev.readyOk (d : Dev) (p : Page) : Bool :=
  match p.type with
  | .hub => decide (d.pwr.level < 3) && !d.pwr.quiesced
  | .log => !d.log.spilling
  | _ => d.drained.contains (pageKey p)

/-- A page leaves DRAINING for READY. -/
def Dev.leaveDraining (d : Dev) (p : Page) : Dev :=
  (({ d with drained := d.drained.filter fun k => k != pageKey p } : Dev).accept p 1).enterReady p

/-- A request for a transition that the page's type offers: taken, held, or rejected (R485).
DEDUCED, log entry 46. -/
def Dev.transition (d : Dev) (p : Page) (c : Nat) : Dev :=
  let direct := [PageType.hub, .log, .sxt, .sky].contains p.type
  match d.code p, c with
  | 1, 2 => if d.activeOk p then (d.accept p 2).enterActive p else d.reqResult p 3
  | 2, 3 => (d.accept p 3).enterDraining p
  | 7, 3 => (d.accept p 3).enterDraining p
  | 3, 1 => if d.readyOk p then d.leaveDraining p else (d.setFld (stateReg p) 23 20 1).reqResult p 4
  | 2, 1 => if direct then (d.accept p 1).enterReady p else d.reqResult p 3
  | 7, 1 => if direct && p.type != .hub then (d.accept p 1).enterReady p else d.reqResult p 3
  | 1, 6 => d.accept p 6
  | 2, 6 => (d.accept p 6).hubLeft
  | 6, 1 => (d.accept p 1).enterReady p
  | _, _ => d.reqResult p 3

/-- A request for state `c` with the generation `gen` (R484). DEDUCED, log entry 46. -/
def Dev.stateRequest (d : Dev) (p : Page) (c gen : Nat) : Dev :=
  let w := d.reg (stateReg p)
  if gen ≠ bits w 15 8 then d.reqResult p 2
  else if bits w 23 20 ≠ 0 || !(pageRequestable p.type).contains c then d.reqResult p 3
  else d.transition p c

/-- Where the harts see the register pages (R410, R476). -/
def windowBase : Nat := 0x40000000000

/-- The SEC page in the harts' address space (R476). -/
def secWindow : PmpEntry := ⟨windowBase + pageAddr .sec 0, windowBase + pageAddr .sec 0 + 0x1000, true⟩

/-- A hart's physical memory protection denies it an access (R467); under the unlocked scope the SEC page may be read (R472). -/
def State.denied (s : State) (hart addr : Nat) (write : Bool) : Bool :=
  match s.harts[hart]? with
  | some h => h.pmp.any fun e => decide (e.lo ≤ addr ∧ addr < e.hi) && !(e == secWindow && !write && s.dev.flag Reg.secDebug 2)
  | none => false

/-- A hart may reach a page: it is in the directory, and the hart's protection does not deny it (R467, R477). -/
def State.reaches (s : State) (hart : Nat) (p : Page) (write : Bool) : Bool :=
  decide (p.inst < pageInstances p.type) && !s.denied hart (windowBase + Page.addr p) write

/-- What a hart's access to a page does, where the hart reaches the page. -/
def State.access (s : State) (hart : Nat) (p : Page) (write : Bool) (f : Dev → Dev) : Host.Outcome State Fault Refusal :=
  .next (s.byHart hart fun d => if s.reaches hart p write then f d else d)

/-- A write of STATE_REQ by a hart. -/
def State.request (s : State) (hart : Nat) (p : Page) (c : Nat) (gen : BitVec 8) : Host.Outcome State Fault Refusal :=
  s.access hart p true fun d => d.stateRequest p c gen.toNat

def execStateRequestActive (hart : Fin 28) (page : Page) (gen : BitVec 8) (s : State) : Host.Outcome State Fault Refusal :=
  s.request hart page 2 gen

def execStateRequestDraining (hart : Fin 28) (page : Page) (gen : BitVec 8) (s : State) : Host.Outcome State Fault Refusal :=
  s.request hart page 3 gen

def execStateRequestReady (hart : Fin 28) (page : Page) (gen : BitVec 8) (s : State) : Host.Outcome State Fault Refusal :=
  s.request hart page 1 gen

def execStateRequestQuarantine (hart : Fin 28) (page : Page) (gen : BitVec 8) (s : State) : Host.Outcome State Fault Refusal :=
  s.request hart page 6 gen

/-- A drain completes: a held request for READY takes effect, and after a rollback's last drain the flush begins (R384, R385).
DEDUCED, log entry 46. -/
def Dev.completeDrain (d : Dev) (p : Page) : Dev :=
  let d := d.drainEffect p
  let sky : SkyState := if d.sky.rollback then { d.sky with drained := pageKey p :: d.sky.drained } else d.sky
  let d : Dev := { d with drained := pageKey p :: d.drained, sky := sky }
  (if d.fld (stateReg p) 23 20 = 1 then d.leaveDraining p else d).startFlush

def execDrainComplete (page : Page) (s : State) : Host.Outcome State Fault Refusal :=
  s.act fun d =>
    if page.inst < pageInstances page.type && d.code page == 3 && !d.drained.contains (pageKey page) && d.drainOver page then
      d.completeDrain page
    else d

end Sys2Proof.Machine
end

