-- ==== Sys2Proof/Machine/Writes.lean ====
section
/-! DEFINITION. Register writes that do more than their access codes say, and those that do not (R5, R133, R151, R160, R162, R189, R229,
R259, R271, R370, R418, R477, R478, R482, R489). -/
namespace Sys2Proof.Machine

/-! The sequencer (R133, R151, R160, R162). -/

def execSeqTailWrite (hart : Fin 28) (st : Stream) (value : Word) (s : State) : Host.Outcome State Fault Refusal :=
  .next (s.byHart hart fun d =>
    let tail := bits value 19 0
    if tail < d.ringSize st then d.setFld (Reg.seqTail (sidx st)) 19 0 tail else d.raise (seqPage st) 4)

def execSeqCounterAdd (hart : Fin 28) (st : Stream) (value : Word) (s : State) : Host.Outcome State Fault Refusal :=
  .next (s.byHart hart fun d => d.raiseCounter (sidx st) (bits value 3 0) (bits value 31 8))

/-- A write to SEQ_BF_CTRL: RESUME clears SUSP_OVERRUN and is clear again at once. -/
def Dev.writeBfCtrl (d : Dev) (value : Word) : Dev :=
  let d := (d.store (Reg.seqBfCtrl 1) value).setFlag (Reg.seqBfCtrl 1) 16 false
  if bit value 16 then d.setFlag (Reg.seqBfStatus 1) 1 false else d

def execBfEnableWrite (hart : Fin 28) (value : Word) (s : State) : Host.Outcome State Fault Refusal :=
  .next (s.byHart hart fun d => d.writeBfCtrl value)

def execBfResume (hart : Fin 28) (value : Word) (s : State) : Host.Outcome State Fault Refusal :=
  .next (s.byHart hart fun d => if bit value 16 then d.writeBfCtrl value else d)

/-! Cores (R370). -/

/-- A request for the core CHK_CORE_SEL names. -/
def Dev.coreRequest (d : Dev) (f : Fuse) (state gen : Nat) : Dev :=
  let c := d.fld Reg.chkCoreSel 18 0
  let accepted := fun (d : Dev) => d.setCore c { d.core c with rejected := false }
  let rejected := (d.setCore c { d.core c with rejected := true }).raise (page1 .chk) 5
  if gen ≠ (d.core c).gen then rejected
  else match d.coreState f c, state with
    | 2, 4 => accepted (d.probation f c)
    | 2, 5 => accepted (d.fence f c 0)
    | 4, 5 => accepted (d.fence f c 0)
    | 4, 2 => accepted (d.release f c)
    | _, _ => rejected

def execChkCoreReq (hart : Fin 28) (value : Word) (s : State) : Host.Outcome State Fault Refusal :=
  .next (s.byHart hart fun d => d.coreRequest s.fuse (bits value 3 0) (bits value 15 8))

/-! The Helm and the Compass (R189, R259, R271). -/

/-- A write to HLM_RING_CTRL: UNPIN acts at once; PIN stands until a fix leg completes, and is ignored while a pin is held. -/
def Dev.writeRingCtrl (d : Dev) (value : Word) : Dev :=
  let d := (d.store Reg.hlmRingCtrl value).setFlag Reg.hlmRingCtrl 9 false
  let d := if bit value 9 then d.ringUnpin else d
  let asked := d.hlm.pinAsked || (bit value 8 && d.pinned.isNone)
  { d.setFlag Reg.hlmRingCtrl 8 asked with hlm := { d.hlm with pinAsked := asked } }

def execPin (hart : Fin 28) (value : Word) (s : State) : Host.Outcome State Fault Refusal :=
  .next (s.byHart hart fun d => if bit value 8 then d.writeRingCtrl value else d)

def execUnpin (hart : Fin 28) (value : Word) (s : State) : Host.Outcome State Fault Refusal :=
  .next (s.byHart hart fun d => if bit value 9 then d.writeRingCtrl value else d)

def execCmpTrackRecordWrite (hart : Fin 28) (value : Word) (s : State) : Host.Outcome State Fault Refusal :=
  .next (s.byHart hart fun d => (d.store Reg.cmpTrackRecord value).wakeCmp)

def execHlmRingSlotWrite (hart : Fin 28) (value : Word) (s : State) : Host.Outcome State Fault Refusal :=
  .next (s.byHart hart fun d => (d.store Reg.hlmRingSlot value).wakeHelm)

def execRedStepNfForce (hart : Fin 28) (value : Word) (s : State) : Host.Outcome State Fault Refusal :=
  .next (s.byHart hart fun d => if bit value 2 then d.setLocalNf else d)

/-! The interface generation (R489). -/

/-- DEDUCED, log entry 53. -/
def execHubIfaceOffer (hart : Fin 28) (value : Word) (s : State) : Host.Outcome State Fault Refusal :=
  .next (s.byHart hart fun d =>
    let a := Reg.hubIfaceAgree
    let offer := bits value 3 0
    if d.flag a 16 || d.flag a 17 then d
    else
      let d := d.setFld a 3 0 offer
      if offer ≠ 0 ∧ d.fld a 11 8 ≤ offer then
        (d.setFld a 7 4 (min offer (d.fld a 15 12))).setFlag a 16 true
      else d.setFlag a 17 true)

/-! Events (R418, R482). -/

/-- The event bits of a page that a word names. -/
def eventBits (p : Page) (w : Word) : List Nat := (List.range (eventCount p)).filter fun b => bit w b

/-- A write to EV_EN: one edge where it sets the enable of a bit that is pending. DEDUCED, log entry 51. -/
def Dev.writeEnables (d : Dev) (p : Page) (value : Word) : Dev :=
  let rises := (eventBits p value).any fun b => !d.flag (evEnReg p) b && d.flag (evPendReg p) b
  let d := d.setReg (evEnReg p) (BitVec.ofNat 32 (value.toNat % 2 ^ eventCount p))
  if rises then d.irqEdge (pageSource p) else d

def execEvEnWrite (hart : Fin 28) (page : Page) (value : Word) (s : State) : Host.Outcome State Fault Refusal :=
  s.access hart page true fun d => d.writeEnables page value

def execEvForceWrite (hart : Fin 28) (page : Page) (value : Word) (s : State) : Host.Outcome State Fault Refusal :=
  s.access hart page true fun d => d.acts ((eventBits page value).map fun b => .event page b true)

/-! Addresses (R477, R478). -/

/-- The size of the window of register pages (R410, R476). -/
def pageWindow : Nat := 0x1000000000

/-- The page address and offset that a hart's address names, where it lies in the window. -/
def windowAddr (a : Nat) : Option Nat := if windowBase ≤ a ∧ a < windowBase + pageWindow then some (a - windowBase) else none

/-- The ranges that the harts see (R410). -/
inductive HartRange where
  | dram
  | clusterStores
  | pages
  | hubSram
  | bootRom
deriving DecidableEq, Repr

/-- The range an address lies in. -/
def hartRange (a : Nat) : Option HartRange :=
  if a < 0x12000000000 then some .dram
  else if 0x20000000000 ≤ a ∧ a < 0x20258000000 then some .clusterStores
  else if windowBase ≤ a ∧ a < windowBase + pageWindow then some .pages
  else if 0x50000000000 ≤ a ∧ a < 0x50004000000 then some .hubSram
  else if 0x50010000000 ≤ a ∧ a < 0x50010040000 then some .bootRom
  else none

/-- An access to an absent page recorded. -/
def Dev.badAccess (d : Dev) (hart addr : Nat) (write : Bool) : Dev :=
  let d := d.setReg Reg.hubBadAddrLo (BitVec.ofNat 32 addr)
  let d := d.setReg Reg.hubBadAddrHi
    (BitVec.ofNat 32 (addr / 0x100000000 % 16 + (if write then 0x100 else 0) + 0x10000 * (hart % 32)))
  d.addSat Reg.hubBadCount 1

/-- The state with the record of one hart changed, where that hart makes accesses.
DESIGN CHOICE, log entry 45. -/
def State.onHart (s : State) (hart : Nat) (f : Hart → Hart) : State :=
  match s.liveHart hart with
  | some h => { s with harts := s.harts.set hart (f h) }
  | none => s

def execAbsentPageAccess (hart : Fin 28) (addr : Nat) (write : Bool) (s : State) : Host.Outcome State Fault Refusal :=
  .next (match windowAddr addr with
    | some a =>
      if a % 4 = 0 ∧ (pageOf a).isNone then
        let s := s.byHart hart fun d => d.badAccess hart a write
        if write then s else s.onHart hart fun h => { h with lastRead := 0#32 }
      else s
    | none => s)

/-- An access raises an access fault (R410, R467, R478): outside every range, or across the end of one; a write to the boot ROM; in
the register window another width than 4 or 8 bytes, or a misaligned one; one that the hart's protection denies. -/
def State.accessFaults (s : State) (hart addr width : Nat) (write : Bool) : Bool :=
  let last := addr + width - 1
  hartRange addr == none || hartRange last != hartRange addr || (write && hartRange addr == some .bootRom) ||
    (hartRange addr == some .pages && (!(width == 4 || width == 8) || addr % width != 0)) ||
    s.denied hart addr write || s.denied hart last write

def execAccessFault (hart : Fin 28) (addr width : Nat) (write : Bool) (s : State) : Host.Outcome State Fault Refusal :=
  .next (if s.accessFaults hart addr width write then s.onHart hart fun h => { h with fault := some ⟨addr, width, write⟩ }
    else s)

/-! Plain writes (R5, R488). -/

/-- The write at an offset of a page has a row of its own in the table. -/
def ownRow (p : Page) (off : Nat) (v : Word) : Bool :=
  off == 0x024 || off == 0x028 || (off == 0x018 && [1, 2, 3, 6].contains (bits v 3 0)) ||
  match p.type with
  | .hub => off == 0x050 || (0x200 ≤ off && off < 0x480)
  | .seq => off == 0x050 || off == 0x064 || (p.inst == 1 && off == 0x088)
  | .fab => off == 0x044
  | .cht => off == 0x040 || off == 0x04C || off == 0x0B0
  | .chk => off == 0x04C
  | .hlm => (off == 0x064 && (bit v 8 || bit v 9)) || off == 0x060
  | .cmp => off == 0x04C
  | .red => off == 0x044
  | .log => off == 0x050
  | .irq => off == 0x044 || off == 0x048 || (0x100 ≤ off && off < 0x2C0 && off % 16 == 8)
  | .mgt => off == 0x054
  | .hot => off == 0x044 && bit v 16
  | .pwr => 0x048 ≤ off && off ≤ 0x058
  | _ => false

/-- A write to THM_CFG is ignored where it would leave TRIP_C less than 5 above THROTTLE_C (R459).
DEDUCED, log entry 44. -/
def Dev.writeThmCfg (d : Dev) (value : Word) : Dev :=
  let d' := d.store Reg.thmCfg value
  if d'.throttleC + 5 ≤ d'.fld Reg.thmCfg 15 8 then d' else d

/-- While ALERT is active the cap it brought stays, and a write can only lower it (R448). -/
def Dev.lowerCap (d : Dev) : Dev := { d with pwr := { d.pwr with alertCap := d.pwr.alertCap.map fun c => min c d.cappedPower } }

/-- A plain write to a register of a page. Of the registers without a row of their own, LOG_DRAINED_LO stages a half (R350), STATE_REQ
takes a request for a code that may not be requested (R484), THM_CFG is checked, CHT_POST_HEAD lets the post engine run (R334), and
PWR_PINNED and the cap follow their limits (R444, R448). -/
def Dev.plainWrite (d : Dev) (p : Page) (off addr : Nat) (v : Word) : Dev :=
  if off = 0x018 then d.stateRequest p (bits v 3 0) (bits v 15 8)
  else if addr = Reg.logDrainedLo then { d with log := { d.log with drainedLo := v } }
  else if addr = Reg.thmCfg then d.writeThmCfg v
  else if addr = Reg.chtPostHead then (d.store addr v).runPosts postFuel
  else if [Reg.pwrCap, Reg.pwrClkLimits, Reg.thmAlertCap].contains addr then (d.store addr v).lowerCap.showPinned
  else d.store addr v

def execRegisterWrite (hart : Fin 28) (addr : Nat) (value : Word) (s : State) : Host.Outcome State Fault Refusal :=
  match windowAddr addr with
  | some a =>
    (match pageOf a with
      | some (p, off) =>
        if a % 4 ≠ 0 ∨ ownRow p off value then .next s
        else s.access hart p true fun d => d.plainWrite p off a value
      | none => .next s)
  | none => .next s

end Sys2Proof.Machine
end

