-- ==== Sys2Proof/Machine/Mailbox.lean ====
section
/-! DEFINITION. The mailboxes (R415, R416, R430). -/
namespace Sys2Proof.Machine

/-- The largest number of packets a mailbox holds. -/
def mailboxSize : Nat := 64

def Mailbox.empty (m : Nat) : Mailbox := ⟨m % 28, [], 0#32, 0#32, false, false⟩

def State.mailbox (s : State) (m : Nat) : Mailbox := s.mbx.getD m (Mailbox.empty m)

/-- A packet completed: held, or, where the mailbox is full, ignored. -/
def Mailbox.put (b : Mailbox) (p : MbxPacket) : Mailbox :=
  if b.packets.length < mailboxSize then { b with packets := b.packets ++ [p] } else { b with overrun := true }

/-- The owner's read of a low word: the value it sees, and the mailbox after it. -/
def Mailbox.getLo (b : Mailbox) : Word × Mailbox :=
  match b.packets with
  | p :: _ => (p.lo, { b with lastLo := p.lo })
  | [] => (b.lastLo, { b with underrun := true })

/-- The owner's read of a high word, which removes the packet. -/
def Mailbox.getHi (b : Mailbox) : Word × Mailbox :=
  match b.packets with
  | p :: rest => (p.hi, { b with packets := rest, lastHi := p.hi })
  | [] => (b.lastHi, { b with underrun := true })

/-- A write to HUB_MBX_CTRL: OWNER only while the mailbox is empty, OVERRUN and UNDERRUN cleared by ones. -/
def Mailbox.control (b : Mailbox) (v : Word) : Mailbox :=
  { b with
    owner := if b.packets.isEmpty then min 27 (bits v 4 0) else b.owner
    overrun := b.overrun && !bit v 18
    underrun := b.underrun && !bit v 19 }

/-- An access of a hart to a mailbox, where the hart makes accesses. -/
def State.atMailbox (s : State) (hart : Nat) (f : Hart → State) : State :=
  match s.liveHart hart with
  | some h => f h
  | none => s

/-- The word the writing hart stages for a mailbox. -/
def stagedWord (_ : Nat) : Word := 0#32

def execMbxPutLo (hart : Fin 28) (mailbox : Fin 32) (value : Word) (s : State) : Host.Outcome State Fault Refusal :=
  .next (s.atMailbox hart fun h =>
    { s with harts := s.harts.set hart { h with staged := Assoc.set stagedWord h.staged mailbox value } })

/-- The packet this write completes goes in with its notice, or is ignored with MBX_OVERRUN. -/
def execMbxPutHi (hart : Fin 28) (mailbox : Fin 32) (value : Word) (s : State) : Host.Outcome State Fault Refusal :=
  .next (s.atMailbox hart fun h =>
    let b := s.mailbox mailbox
    let full := decide (mailboxSize ≤ b.packets.length)
    { s with
      harts := s.harts.set hart { h with staged := Assoc.set stagedWord h.staged mailbox 0#32 }
      mbx := s.mbx.set mailbox (b.put ⟨Assoc.get stagedWord h.staged mailbox, value, hart⟩)
      dev := if full then s.dev.raise hubPage 1 else s.dev.irqEdge (192 + mailbox) })

/-- A read of a mailbox register: the owner's has its effect, any other hart's returns 0. -/
def State.readMailbox (s : State) (hart mailbox : Nat) (f : Mailbox → Word × Mailbox) : State :=
  s.atMailbox hart fun h =>
    let b := s.mailbox mailbox
    if b.owner = hart then
      { s with
        harts := s.harts.set hart { h with lastRead := (f b).1 }
        mbx := s.mbx.set mailbox (f b).2
        dev := if b.packets.isEmpty then s.dev.raise hubPage 2 else s.dev }
    else { s with harts := s.harts.set hart { h with lastRead := 0#32 } }

/-- DEDUCED, log entry 52. -/
def execMbxGetLo (hart : Fin 28) (mailbox : Fin 32) (s : State) : Host.Outcome State Fault Refusal :=
  .next (s.readMailbox hart mailbox Mailbox.getLo)

/-- DEDUCED, log entry 52. -/
def execMbxGetHi (hart : Fin 28) (mailbox : Fin 32) (s : State) : Host.Outcome State Fault Refusal :=
  .next (s.readMailbox hart mailbox Mailbox.getHi)

def execMbxOwnerWrite (hart : Fin 28) (mailbox : Fin 32) (value : Word) (s : State) : Host.Outcome State Fault Refusal :=
  .next (s.atMailbox hart fun _ => { s with mbx := s.mbx.set mailbox ((s.mailbox mailbox).control value) })

end Sys2Proof.Machine
end

