-- ==== Sys2Proof/Machine/Interrupts.lean ====
section
/-! DEFINITION. The interrupt controller and the external inputs (R417 to R428, R442, R448, R452). -/
namespace Sys2Proof.Machine

/-! Sources, priorities, offers (R417, R420, R422). -/

def sourceCount : Nat := 1024

def Dev.pendingSource (d : Dev) (x : Nat) : Bool := d.flag (Reg.irqPending (x / 32)) (x % 32)

def Dev.prioOf (d : Dev) (x : Nat) : Nat := d.fld (Reg.irqPrio (x / 8)) (4 * (x % 8) + 3) (4 * (x % 8))

/-- Group g is in hold-off and no longer in the cycle in which that began: what was offered in that cycle may still be claimed.
DEDUCED, log entry 66. -/
def Dev.heldOff (d : Dev) (g : Nat) : Bool := d.irq.holdUntil.getD g 0 != 0 && d.irq.holdFrom.getD g 0 != d.now

/-- The running priority of a hart. -/
def running (claims : List (List Claim)) (h : Nat) : Nat :=
  match claims.getD h [] with
  | c :: _ => c.prio
  | [] => 0

/-- The deliverable sources of one priority in ascending order. -/
def Dev.deliverable (d : Dev) (prio : Nat) : List Nat :=
  (List.range sourceCount).filter fun x => d.pendingSource x && d.prioOf x == prio && !d.heldOff (x / 32)

/-- The deliverable sources in descending priority, then ascending number. -/
def Dev.deliverables (d : Dev) : List Nat := ((List.range 15).map fun i => d.deliverable (15 - i)).flatten

/-- The hart a source goes to: of those of its group that may take it, one running at the lowest priority, the first from the
group's rotation on. -/
def Dev.pick (d : Dev) (eff : List Nat) (x : Nat) : Option Nat :=
  let g := x / 32
  let ok := fun (h : Nat) => d.flag (Reg.irqGroupTarget g) h && decide (d.fld (Reg.irqThreshold h) 3 0 < d.prioOf x) &&
    decide (eff.getD h 0 < d.prioOf x)
  let cand := (List.range 28).filter ok
  let low := cand.foldl (fun m h => min m (eff.getD h 0)) 15
  ((List.range 28).map fun k => (d.irq.rot.getD g 0 + k) % 28).find? fun h => ok h && eff.getD h 0 == low

/-- The offers of one cycle: (source, hart), highest first. -/
def Dev.offersFrom (d : Dev) (eff : List Nat) : List Nat → List (Nat × Nat)
  | [] => []
  | x :: xs =>
    match d.pick eff x with
    | some h => (x, h) :: d.offersFrom (eff.set h (d.prioOf x)) xs
    | none => d.offersFrom eff xs

def State.offers (s : State) : List (Nat × Nat) :=
  s.dev.offersFrom ((List.range 28).map (running s.claims)) s.dev.deliverables

/-- The source a hart's claim takes. -/
def State.offered (s : State) (h : Nat) : Option Nat := (s.offers.find? fun o => o.2 == h).map (·.1)

/-! Claim and complete (R421 to R423). -/

/-- The claim's effect on the controller: pending cleared, the rotation moved on, the group's hold-off begun, but not begun again by
a claim that falls within it. -/
def Dev.claimed (d : Dev) (x h : Nat) : Dev :=
  let g := x / 32
  let us' := d.fld (Reg.irqHoldoff g) 15 0
  let starts := us' != 0 && d.irq.holdUntil.getD g 0 == 0
  let d := d.setFlag (Reg.irqPending (x / 32)) (x % 32) false
  { d with irq := { d.irq with
      rot := d.irq.rot.set g ((h + 1) % 28)
      holdFrom := if starts then d.irq.holdFrom.set g d.now else d.irq.holdFrom
      holdUntil := if starts then d.irq.holdUntil.set g (d.now + us us') else d.irq.holdUntil } }

def execIrqClaim (hart reader : Fin 28) (s : State) : Host.Outcome State Fault Refusal :=
  .next (s.atMailbox reader fun r =>
    let see := fun (s : State) (v : Word) => { s with harts := s.harts.set reader { r with lastRead := v } }
    match (if hart = reader then s.offered hart else none) with
    | none => see s 0xFFFF#32
    | some x => see { s with
        dev := s.dev.claimed x hart
        claims := s.claims.set hart (⟨x, s.dev.prioOf x⟩ :: s.claims.getD hart []) } (BitVec.ofNat 32 x))

def execIrqComplete (hart writer : Fin 28) (value : Word) (s : State) : Host.Outcome State Fault Refusal :=
  .next (s.atMailbox writer fun _ =>
    if hart ≠ writer then s
    else match s.claims.getD hart [] with
      | c :: rest =>
        if c.source = bits value 9 0 then { s with claims := s.claims.set hart rest }
        else { s with dev := s.dev.raise (page1 .irq) 2 }
      | [] => { s with dev := s.dev.raise (page1 .irq) 2 })

def execIrqSwTrigger (hart : Fin 28) (value : Word) (s : State) : Host.Outcome State Fault Refusal :=
  .next (s.byHart hart fun d =>
    let x := bits value 9 0
    if 224 ≤ x ∧ x ≤ 255 then d.irqEdge x else d)

def execIrqMissedClear (hart : Fin 28) (value : Word) (s : State) : Host.Outcome State Fault Refusal :=
  .next (s.byHart hart fun d =>
    let x := bits value 9 0
    d.setFld (Reg.irqMissed (x / 4)) (8 * (x % 4) + 7) (8 * (x % 4)) 0)

def execHoldoffExpiry (group : Fin 32) (s : State) : Host.Outcome State Fault Refusal :=
  s.act fun d =>
    let t := d.irq.holdUntil.getD group 0
    if t ≠ 0 ∧ t ≤ d.now then { d with irq := { d.irq with holdUntil := d.irq.holdUntil.set group 0 } } else d

/-! External inputs (R424 to R426). -/

def Dev.setInput (d : Dev) (i : Nat) (x : ExtInput) : Dev := { d with ext := d.ext.set i x }

/-- The raw level of an input, with the time of its latest change. It is a level of the tray's or of the Latch, so it changes
whether the package runs or not, while 54 V is present. -/
def execExtInputRawChange (input : Fin 5) (level : Bool) (s : State) : Host.Outcome State Fault Refusal :=
  .next (if s.carrier.phase = .dark then s
    else
      let x := s.dev.input input
      if x.raw = level then s else { s with dev := s.dev.setInput input { x with raw := level, rawSince := s.dev.now } })

/-- What the rest of the package does when a filtered level changes: LATCH (R452), PWR_FAIL (R442), ALERT (R448). -/
def Dev.inputActs (d : Dev) (c : Carrier) (i : Nat) (level : Bool) : Dev :=
  match i, level with
  | 0, true => d.latchOpened
  | 0, false => d.latchClosed
  | 1, true => d.pwrFail c
  | 2, true => ({ d with pwr := { d.pwr with alertCap := some d.cappedPower } } : Dev).raise (page1 .thm) 2
  | 2, false => { d with pwr := { d.pwr with alertCap := none } }
  | _, _ => d

/-- The filtered level takes the raw one: an edge as it becomes active, the end of the stuck state as it becomes inactive. -/
def Dev.filterInput (d : Dev) (c : Carrier) (i : Nat) : Dev :=
  let x := d.input i
  if x.raw = x.level ∨ d.now < x.rawSince + us 16 then d
  else
    let y : ExtInput := { x with level := x.raw, activeSince := d.now, stuck := x.stuck && x.raw }
    let d := d.setInput i y
    (if x.raw then d.irqEdge (160 + i) else d).inputActs c i x.raw

def execExtInputFiltered (input : Fin 5) (s : State) : Host.Outcome State Fault Refusal :=
  s.act fun d => d.filterInput s.carrier input

def execInputStuck (input : Fin 5) (s : State) : Host.Outcome State Fault Refusal :=
  s.act fun d =>
    let x := d.input input
    if x.level && !x.stuck && decide (x.activeSince + ms (max 1 (d.fld (Reg.irqExtCfg input) 15 0)) ≤ d.now) then
      ((d.setInput input { x with stuck := true }).irqEdge (168 + input)).raiseLogged (page1 .irq) 0 0xFFFF (natBytes 4 input)
    else d

/-- The rising edge of 1PPS disciplines the time base where PPS_EN is set, by a correction that the spec leaves open. LOG_STATUS.PPS
shows the discipline in use. DESIGN CHOICE, log entry 43. -/
def Dev.ppsEdge (d : Dev) : Dev :=
  if d.flag Reg.mgtPtpCtrl 1 then
    let w := d.drawWord
    { w.2.setFlag Reg.logStatus 7 true with log := { w.2.log with ptpShift := w.2.log.ptpShift + w.1.toInt } }
  else d

def execPpsEdge (s : State) : Host.Outcome State Fault Refusal := s.act Dev.ppsEdge

end Sys2Proof.Machine
end

