-- ==== Sys2Proof/Machine/Boot.lean ====
section
/-! DEFINITION. Reset and boot: the stages, the checks of the bundle, the fuses, recovery (R412 to R414, R462 to R468, R411, R115, R502). -/
namespace Sys2Proof.Machine

def secPage : Page := page1 .sec

/-! Reset (R409, R412, R433). -/

/-- A new debug nonce (R473). DESIGN CHOICE, log entry 57. -/
def Dev.newNonce (d : Dev) : Dev :=
  let b := d.drawBytes 16
  { b.2 with mgt := { b.2.mgt with nonce := b.1 } }

/-- Power-on reset is released with a reset cause: everything but module flash, the fuses and the carrier controller starts afresh.
THM shows a reset that followed a trip (R458). -/
def State.release (s : State) (cause : Nat) : State :=
  let d := (Dev.resetWith s.dev.flash s.dev.ext s.dev.now s.dev.freeCtr).newNonce
  { s with
    carrier := { s.carrier with phase := .running, since := s.dev.now, cause := cause }
    harts := hartsReset
    mbx := mailboxesReset
    claims := List.replicate 28 []
    dev := if cause = 4 then d.raise (page1 .thm) 1 else d }

/-- A reset of the running package: it is released at once, or held until the reference clock is present (R13).
DEDUCED, log entry 49. -/
def State.resetPackage (s : State) (cause : Nat) : State :=
  if s.carrier.refclk then s.release cause
  else { s with carrier := { s.carrier with phase := .held, since := s.dev.now, cause := cause } }

/-- The phase has lasted long enough: 2 ms, and before that the soft-start of the 1.8 V stage where the ramp has just ended (R433,
R450). DEDUCED, log entry 49. -/
def Carrier.settled (c : Carrier) (now : Nat) : Bool :=
  match c.phase with
  | .softStart => decide (c.since + ms 4 ≤ now)
  | .held => decide (c.since + ms 2 ≤ now)
  | _ => false

/-- The averaged input in its operating range, in quarter millivolts (R432). -/
def inputInRange (a : Nat) : Bool := decide (4 * 46000 ≤ a ∧ a ≤ 4 * 58000)

/-- The carrier rail's samples, oldest first, end with 2 ms within 3% of 1.8 V. -/
def railGood (rail : List InputRun) : Bool :=
  AvgRun.holds (fun mv => decide (1746 ≤ mv ∧ mv ≤ 1854)) 2000 (rail.reverse.map fun r => ⟨r.mv, r.us⟩)

/-- Power-on reset is released once the reference clock is present and the input, the ramp and the carrier rail have held for 2 ms.
DEDUCED, log entries 47 and 49. -/
def execResetRelease (s : State) (input rail : List InputRun := []) : Host.Outcome State Fault Refusal :=
  let s := s.sample input
  .next (if s.carrier.settled s.dev.now && s.carrier.refclk && AvgRun.holds inputInRange 2000 s.carrier.avg && railGood rail then
      s.release s.carrier.cause
    else s)

/-- The management channel carries requests: its page is ACTIVE and a session is open (R471). -/
def Dev.channel (d : Dev) : Bool := d.active mgtPage && decide (0 < d.mgt.sessions)

def execSoftwareReset (s : State) : Host.Outcome State Fault Refusal :=
  .next (if s.carrier.phase = .running ∧ s.dev.channel then s.resetPackage 2 else s)

/-! The reference clock (R13, R502). -/

def execRefclkPresent (s : State) : Host.Outcome State Fault Refusal :=
  .next (if s.carrier.phase = .dark then s else { s with carrier := { s.carrier with refclk := true } })

def execRefclkLoss (s : State) : Host.Outcome State Fault Refusal :=
  .next (if s.carrier.phase = .dark then s
    else { s with
      carrier := { s.carrier with refclk := false }
      dev := if s.carrier.phase = .running then s.dev.packageFault else s.dev })

/-! The bundle (R462, R465, R466). -/

/-- Slot k is programmed and not revoked. -/
def Fuse.usable (f : Fuse) (k : Nat) : Bool := f.programmed.getLsbD k && !f.revoked.getLsbD k

def Fuse.anyUsable (f : Fuse) : Bool := f.usable 0 || f.usable 1 || f.usable 2

/-- The fused SVN: the number of bits set. -/
def Fuse.svnCount (f : Fuse) : Nat := ((List.range 64).filter fun i => f.svn.getLsbD i).length

/-- The first check of R465 that a copy fails, 0 for none: what stage 2 reads of it. -/
def Bundle.check (b : Bundle) (f : Fuse) : Nat :=
  if !f.parityGood then 1
  else if !f.anyUsable then 2
  else if !b.headerGood then 3
  else if !(f.usable b.slot && f.keyHash.getD b.slot 0#256 == b.keyHash) then 4
  else if !b.signatureGood then 5
  else if !b.firstGood then 6
  else if b.svn < f.svnCount then 7
  else if !b.readable then 8
  else 0

/-- The checks with the components that stage 6 reads. -/
def Bundle.checkAll (b : Bundle) (f : Fuse) : Nat :=
  let c := b.check f
  if c = 0 ∨ c = 7 ∨ c = 8 then (if b.restGood then c else 6) else c

/-- The fused SVN raised to `n`, the lowest clear bits first. DEDUCED, log entry 54. -/
def blowSvn (n : Nat) (w : BitVec 64) : BitVec 64 :=
  (List.range 64).foldl (fun w i =>
    if ((List.range 64).filter fun j => w.getLsbD j).length < n then w ||| BitVec.ofNat 64 (2 ^ i) else w) w

/-- The fuse writes of an accepted copy (R466): the slots it revokes, its own excepted, then its SVN.
DEDUCED, log entry 54. -/
def Fuse.blow (f : Fuse) (b : Bundle) : Fuse :=
  let mask := b.revokeMask &&& ~~~(BitVec.ofNat 3 (2 ^ b.slot))
  { f with
    revoked := if b.revoke then f.revoked ||| mask else f.revoked
    svn := if b.advance then blowSvn b.svn f.svn else f.svn }

def Flash.copy (f : Flash) (b : Bool) : Bundle := if b then f.copyB else f.copyA

/-- A copy is left out since it failed in stage 6 (R465). -/
def Carrier.excludes (c : Carrier) (b : Bool) : Bool := c.excluded.any fun e => e.1 == b

/-- What stage 2 finds of the two copies: their codes, one excluded failing as it did in stage 6. -/
def State.copyCode (s : State) (b : Bool) : Nat :=
  match s.carrier.excluded.find? fun e => e.1 == b with
  | some e => e.2
  | none => (s.dev.flash.copy b).check s.fuse

/-- The copy stage 2 boots: of the accepted copies the one with the higher SVN, A on a tie.
DEDUCED, log entry 54. -/
def State.chooseCopy (s : State) : Option Bool :=
  let ok := fun b => s.copyCode b == 0 && !s.carrier.excludes b
  match ok false, ok true with
  | true, true => some (decide (s.dev.flash.copyA.svn < s.dev.flash.copyB.svn))
  | true, false => some false
  | false, true => some true
  | false, false => none

/-! The stages (R412, R413). -/

/-- The stage in progress is over, and the next begins. -/
def Dev.nextStage (d : Dev) : Dev := { d with boot := { d.boot with stage := d.boot.stage + 1 } }

/-- Milliseconds since reset. -/
def Dev.bootMs (d : Dev) : Nat := (d.now - d.resetAt) / 1000000

/-- A stage fails: its code, the HUB page in FAULT, and a crash record if stage 3 has completed. -/
def Dev.bootFail (d : Dev) (c : Carrier) (code : Nat) : Dev :=
  let d : Dev := { d with boot := { d.boot with error := code, frozen := some d.bootMs } }
  let d := d.packageFault
  if 3 < d.boot.stage then d.crash c else d

/-- Both copies failed (R468): the package waits in recovery mode. -/
def Dev.recover (d : Dev) (c : Carrier) (code : Nat) (first : Bool) : Dev :=
  let d := (d.bootFail c code).pageFault secPage
  { d with boot := { d.boot with recovery := true, firstFailed := some first } }

/-- Pages that a stage makes ACTIVE. -/
def Dev.wake (d : Dev) (ps : List Page) : Dev := ps.foldl (fun d p => d.moveTo p 2) d

/-- A copy of the maps reads without error. -/
def MapCopy.valid (m : MapCopy) : Bool := m.check == crc32c (mapBytes m.gen m.fenced m.remaps)

/-- The newer valid copy of the maps (R439). -/
def Flash.newestMaps (f : Flash) : Option MapCopy :=
  match f.mapsA.valid, f.mapsB.valid with
  | true, true => some (if f.mapsA.gen < f.mapsB.gen then f.mapsB else f.mapsA)
  | true, false => some f.mapsA
  | false, true => some f.mapsB
  | false, false => none

/-- The newer valid copy is loaded. -/
def Flash.loadMaps (f : Flash) : Flash :=
  match f.newestMaps with
  | some m => { f with fenced := m.fenced, remaps := m.remaps }
  | none => f

/-- Stage 5: the fence map and the remap tables are loaded, and in force. -/
def Dev.applyMaps (d : Dev) (f : Fuse) : Dev :=
  let d : Dev := { d with flash := d.flash.loadMaps }
  let d := (List.range 24).foldl (fun d x => if 960 ≤ (d.remap x).used then d.raise (memPage x) 3 else d) d
  let d := (List.range 2400).foldl (fun d x => d.cluTo x (if (d.enabledCores f x).isEmpty then 5 else 2)) d
  d.moveTo (page1 .chk) 2

/-- The orthogonalisation coefficients that Cehan loads into every row at boot (R248): 3.4375, -4.75 and 2.03125.
DESIGN CHOICE, log entry 20. -/
def Dev.loadCoefs (d : Dev) : Dev :=
  (List.range 15).foldl (fun d i => d.setReg (Reg.hlmNsCoef i) ([0x405C0000#32, 0xC0980000#32, 0x40020000#32].getD (i % 3) 0#32)) d

/-- The default curve set loaded into slots 0 to 11 of the main stream, packed from offset 0 (R100).
DESIGN CHOICE, log entry 20. -/
def Dev.loadDefaults (d : Dev) : Dev :=
  let r := (List.range 12).foldl (fun (x : Nat × Dev) n =>
    (x.1 + (defaultCurve n).length / 64, x.2.showSlot n 0 x.1 ⟨some n, []⟩)) (0, d)
  r.2.moveTo (page1 .vtb) 2

/-- Components of the running copy read into hub SRAM. -/
def Dev.loadComponents (d : Dev) (types : List Nat) : Dev := { d with boot := { d.boot with loaded := d.boot.loaded ++ types } }

/-- The service region of hub SRAM as the harts see it (R411). -/
def serviceRegion : PmpEntry := ⟨0x50003000000, 0x50003800000, true⟩

/-- What stage 7 does before it releases the harts: 0 to 23 are kept from the service region and the SEC page, by locked
entries (R467). -/
def Hart.released7 (h : Hart) (i : Nat) : Hart := { h with released := true, pmp := if i < 24 then [serviceRegion, secWindow] else h.pmp }

/-- Stage 2: the accepted copy with the higher SVN goes on; where both have failed, recovery mode. DEDUCED, log entry 54. -/
def State.stage2 (s : State) : State :=
  let a := s.copyCode false
  let b := s.copyCode true
  let first := match s.carrier.firstFailed with
    | some x => some x
    | none => if a ≠ 0 then some false else if b ≠ 0 then some true else none
  let s : State := { s with carrier := { s.carrier with firstFailed := first } }
  let d := s.dev
  match s.chooseCopy with
  | some x =>
    { s with dev := (({ d with boot := { d.boot with copy := some x, otherError := s.copyCode (!x) } } : Dev).loadComponents [0]).nextStage }
  | none => { s with dev := d.recover s.carrier (s.copyCode (first.getD false)) (first.getD false) }

/-- Stage 6 has failed: the failure is kept while 54 V stands, and the package is reset and boots without that copy (R465).
DEDUCED, log entry 54. -/
def State.stage6Fails (s : State) (code : Nat) : State :=
  let copy := s.dev.boot.copy.getD false
  ({ s with carrier := { s.carrier with
      excluded := s.carrier.excluded ++ [(copy, code)]
      firstFailed := some (s.carrier.firstFailed.getD copy) } } : State).resetPackage s.carrier.cause

/-- Stage 6: the rest of the copy is accepted, the fuses it asks for are blown, and its other components are loaded. -/
def State.stage6 (s : State) : State :=
  let d := s.dev
  let b := d.flash.copy (d.boot.copy.getD false)
  if !b.restGood then s.stage6Fails 6
  else if !b.readable then s.stage6Fails 8
  else
    let f := s.fuse.blow b
    let d := if f = s.fuse then d else d.raise secPage 0
    { s with fuse := f, dev := ((d.moveTo secPage 2).loadComponents [1, 2, 3, 4, 5]).nextStage }

/-- A stage's hardware side is done. DEDUCED, log entry 49. -/
def State.stageDone (s : State) : State :=
  let d := s.dev
  let set := fun (d : Dev) => { s with dev := d }
  match d.boot.stage with
  | 1 =>
    if s.fuse.parityGood then set d.nextStage else set (d.bootFail s.carrier 1)
  | 2 => s.stage2
  | 3 => set ((d.wake ([pwrPage, page1 .thm] ++ (List.range 12).map fun x => ⟨.die, x⟩)).nextStage)
  | 4 => if (List.range 24).all fun x => d.active (memPage x) then set d.nextStage else s
  | 5 => set (d.applyMaps s.fuse).nextStage
  | 6 => s.stage6
  | 7 =>
    { s with
      harts := (s.harts.zipIdx).map fun h => h.1.released7 h.2
      dev := (d.loadComponents [6]).loadDefaults.loadCoefs.nextStage }
  | 8 => set ((d.moveTo mgtPage 2).drainSpill).nextStage
  | 9 =>
    let d := (d.moveTo hubPage 1).raise hubPage 0
    set { d with boot := { d.boot with stage := 15, frozen := some d.bootMs } }
  | _ => s

/-- DESIGN CHOICE, log entry 7. -/
def execBootStageComplete (result : StageResult) (s : State) : Host.Outcome State Fault Refusal :=
  .next (if s.carrier.phase = .running ∧ s.dev.boot.stage ≤ 9 ∧ s.dev.code hubPage = 0 then
      match result with
      | .done => s.stageDone
      | .failed code =>
        if s.dev.boot.stage = 6 then s.stage6Fails code.toNat else { s with dev := s.dev.bootFail s.carrier code.toNat }
    else s)

/-- DEDUCED and DESIGN CHOICE, log entry 9. -/
def execDramFillComplete (stack : Fin 24) (s : State) : Host.Outcome State Fault Refusal :=
  s.act fun d =>
    if d.boot.stage = 4 ∧ d.ready (memPage stack) then (d.moveTo (memPage stack) 2).raise (memPage stack) 6 else d

/-- A word of hub SRAM fails its parity (R411). -/
def execSramParityError (addr : Nat) (s : State) : Host.Outcome State Fault Refusal :=
  s.act fun d => if addr < 0x4000000 then ((d.raise hubPage 3).packageFault).crash s.carrier else d

end Sys2Proof.Machine
end

