-- ==== Sys2Proof/Machine/CarrierOps.lean ====
section
/-! DEFINITION. The carrier controller: insertion, the power-off sequence, removal, trips (R431, R433, R439, R440, R447 to R455, R499). -/
namespace Sys2Proof.Machine

/-- The controller goes to a phase now. -/
def State.toPhase (s : State) (p : CarrierPhase) : State :=
  { s with carrier := { s.carrier with phase := p, since := s.dev.now } }

/-- What is left of the package proper without its rails: module flash and the levels at its inputs. -/
def State.unpowered (s : State) : State :=
  { s with
    harts := (List.range 28).map fun _ => Hart.reset false
    mbx := mailboxesReset
    claims := List.replicate 28 []
    dev := Dev.resetWith s.dev.flash s.dev.ext s.dev.now s.dev.freeCtr }

/-- The Latch's lever is open, as its sensor shows it. -/
def State.latchOpen (s : State) : Bool := (s.dev.input 0).raw

/-- The hot-swap switch is closed. -/
def CarrierPhase.closed : CarrierPhase → Bool
  | .ramp | .softStart | .held | .running | .poweringOff _ => true
  | _ => false

/-- RDY_REMOVE_N is driven active (R449). -/
def State.readyToRemove (s : State) : Bool :=
  s.carrier.phase != .dark && !s.carrier.phase.closed && s.latchOpen

/-- The switch opens at once: the package proper loses its state but for module flash. A spill under way stops where it is. A third
trip's power-off still ends in the lockout that only the loss of 54 V ends (R447). -/
def State.cutPower (s : State) (p : CarrierPhase) : State :=
  let p := match s.carrier.phase, s.carrier.afterOff, p with
    | .poweringOff _, .locked false, .dark => .dark
    | .poweringOff _, .locked false, _ => .locked false
    | _, _, p => p
  (({ s with dev := s.dev.cutSpill } : State).unpowered).toPhase p

/-- The power-off sequence begins with the core rails; it ends in `after` (R439). -/
def State.powerOff (s : State) (after : CarrierPhase) : State :=
  let s : State := { s with dev := s.dev.cutSpill, carrier := { s.carrier with afterOff := after } }
  s.toPhase (.poweringOff 1)

/-! Insertion (R450, R451). -/

/-- The carrier controller without 54 V: it keeps nothing, but PRSNT_N is where it is (R431, R449). -/
def Carrier.unpowered (c : Carrier) : Carrier :=
  { Carrier.initial with phase := .dark, refclk := false, mated := c.mated, recent := [], avg := [] }

/-- 54 V is applied: a seated package begins with the debounce, one whose PRSNT_N has not mated yet waits for it (R414, R449, R450). -/
def execSupplyApplied (s : State) : Host.Outcome State Fault Refusal :=
  .next (if s.carrier.phase = .dark then s.toPhase (if s.carrier.mated then .debounce else .unmated) else s)

def execPrsntMate (s : State) : Host.Outcome State Fault Refusal :=
  let s : State := { s with carrier := { s.carrier with mated := true } }
  .next (if s.carrier.phase = .unmated then ({ s with carrier := { s.carrier with cause := 1 } } : State).toPhase .debounce else s)

/-- The ramp starts once the debounce is over, the Latch closed and the input in range, or, after a removal's power-off, once the last
two hold (R454). DESIGN CHOICE, log entry 48. DEDUCED, log entry 49. -/
def execInsertionDebounceEnd (s : State) (input : List InputRun := []) : Host.Outcome State Fault Refusal :=
  let s := s.sample input
  .next (
    let due := decide (s.carrier.phase = .debounce ∧ s.carrier.since + ms 10 ≤ s.dev.now) || s.carrier.phase == .offRemoved
    if due && !s.latchOpen && inputInRange s.carrier.newestAvg then
      ({ s with carrier := { s.carrier with retries := 0, cause := 1 } } : State).toPhase .ramp
    else s)

/-- The ramp is complete; its peak current, at most 120 A, is open. -/
def execRampComplete (s : State) : Host.Outcome State Fault Refusal :=
  .next (if s.carrier.phase = .ramp then
      let w := s.dev.drawWord
      ({ s with dev := w.2, carrier := { s.carrier with peakDa := w.1.toNat % 1201 } } : State).toPhase .softStart
    else s)

def execRampFault (s : State) : Host.Outcome State Fault Refusal :=
  .next (if s.carrier.phase = .ramp then s.toPhase (if s.carrier.retries < 3 then .retryWait else .locked true) else s)

def execRampRetry (s : State) : Host.Outcome State Fault Refusal :=
  .next (if s.carrier.phase = .retryWait ∧ s.carrier.since + ms 1000 ≤ s.dev.now then
      ({ s with carrier := { s.carrier with retries := s.carrier.retries + 1 } } : State).toPhase .ramp
    else s)

/-! Removal, loss of the supply, excess current (R431, R451, R455, R499). -/

/-- PRSNT_N breaks with the switch open. A lockout that only the loss of 54 V ends stands. -/
def execPrsntBreak (s : State) : Host.Outcome State Fault Refusal :=
  let broken : State := { s with carrier := { s.carrier with mated := false } }
  .next (match s.carrier.phase with
    | .dark => broken
    | .locked false => broken
    | p => if p.closed then s else broken.toPhase .unmated)

def execSurpriseRemoval (s : State) : Host.Outcome State Fault Refusal :=
  .next (if s.carrier.phase.closed then
      ({ s with carrier := { s.carrier with mated := false } } : State).cutPower .unmated
    else s)

def execOvercurrentTrip (s : State) : Host.Outcome State Fault Refusal :=
  .next (if s.carrier.phase.closed then s.cutPower (.locked true) else s)

/-- Without 54 V nothing is kept but module flash (R431). -/
def execSupplyRemoved (s : State) : Host.Outcome State Fault Refusal :=
  .next (if s.carrier.phase = .dark then s
    else
      let s := s.cutPower .dark
      { s with
        carrier := { s.carrier.unpowered with since := s.dev.now }
        dev := { s.dev with ext := List.replicate 5 ExtInput.reset } })

/-! The power-off sequence (R434, R439, R440, R447, R453). -/

/-- Everything a quiesce does before the rails go down is done (R453). -/
def Dev.quiesceOver (d : Dev) : Bool := d.pwr.quiesced && d.parked && !d.active logPage && !d.log.spilling

/-- A sag ends in the power-off: at level 5, or at level 4, which is never left, once the input has recovered (R434, R440).
DESIGN CHOICE, log entry 48. -/
def State.sagOver (s : State) : Bool :=
  s.dev.pwr.level == 5 || (s.dev.pwr.level == 4 && decide (4 * s.dev.sagThreshold 4 ≤ s.carrier.newestAvg))

/-- The sequence begins at the end of a sag, or at the end of a quiesce. DESIGN CHOICE, log entry 48. -/
def execControlledPowerOff (s : State) : Host.Outcome State Fault Refusal :=
  .next (if s.carrier.phase = .running then
      if s.dev.quiesceOver || (s.dev.pwr.quiesced && s.sagOver) then s.powerOff .offRemoved
      else if s.sagOver then s.powerOff .offSag
      else s
    else s)

/-- The next step, 1 ms after the one before: base logic; DRAM, whose contents are lost; SerDes; hub and the 1.8 V stage; the
switch. DESIGN CHOICE, log entry 48. -/
def execPowerOffRailStep (s : State) : Host.Outcome State Fault Refusal :=
  .next (match s.carrier.phase with
    | .poweringOff n =>
      if s.dev.now < s.carrier.since + ms 1 then s
      else match n with
        | 2 => ({ s with dev := { s.dev with mem := [] } } : State).toPhase (.poweringOff 3)
        | 4 => s.unpowered.toPhase (.poweringOff 5)
        | 5 => s.toPhase s.carrier.afterOff
        | _ => s.toPhase (.poweringOff (n + 1))
    | _ => s)

/-- The ramp runs again with a reset cause. -/
def State.restart (s : State) (cause : Nat) : State :=
  ({ s with carrier := { s.carrier with retries := 0, cause := cause } } : State).toPhase .ramp

/-- After a sag the input has to hold for 100 ms; the settings of the PWR page stand at their reset values by then.
DEDUCED, log entry 48. -/
def execSagRestart (s : State) (input : List InputRun := []) : Host.Outcome State Fault Refusal :=
  let s := s.sample input
  .next (if s.carrier.phase = .offSag ∧ s.carrier.since + ms 100 ≤ s.dev.now ∧ s.dev.recovered s.carrier.avg 1 100000 then s.restart 3
    else s)

/-- A third trip within 10 minutes of the first (R447). DESIGN CHOICE, log entry 48. -/
def tripLockout (trips : List Nat) : Bool :=
  match trips with
  | c :: _ :: a :: _ => decide (c ≤ a + 600 * 1000000000)
  | _ => false

/-- A trip's cause holds: the die reads TRIP_C or more, or the filtered THERM input is active. -/
def Dev.trips (d : Dev) (c : TripCause) : Bool :=
  match c with
  | .die x => decide (x < 12) && decide ((d.fld Reg.thmCfg 15 8 : Int) ≤ d.tempC x)
  | .therm => (d.input 3).level

def execThermalTrip (cause : TripCause) (s : State) : Host.Outcome State Fault Refusal :=
  .next (if s.carrier.phase = .running ∧ s.dev.trips cause then
      let trips := s.dev.now :: s.carrier.trips
      ({ s with carrier := { s.carrier with trips := trips } } : State).powerOff
        (if tripLockout trips then .locked false else .offTrip)
    else s)

def execTripRestart (s : State) : Host.Outcome State Fault Refusal :=
  .next (if s.carrier.phase = .offTrip ∧ s.carrier.since + ms 10000 ≤ s.dev.now then s.restart 4 else s)

/-! Rails (R432, R433, R439, R456, R495). -/

/-- A rail is up: the carrier rail from the end of the ramp, the hub's from the release of reset, the others from boot stage 3, each
until its step of the power-off sequence. -/
def State.railUp (s : State) (r : Rail) : Bool :=
  match s.carrier.phase with
  | .held => r == .carrier
  | .softStart => r == .carrier
  | .running =>
    (match r with
      | .carrier | .hub => true
      | .core _ | .base _ | .dram _ | .serdes _ => decide (3 < s.dev.boot.stage))
  | .poweringOff n =>
    (match r with
      | .core _ => false
      | .base _ => decide (n < 2)
      | .dram _ => decide (n < 3)
      | .serdes _ => decide (n < 4)
      | .carrier | .hub => decide (n < 5))
  | _ => false

/-- The set point of a rail in microvolts, 0 while it is down (R432). -/
def State.railUv (s : State) (r : Rail) : Nat :=
  if !s.railUp r then 0
  else match r with
    | .carrier => 1800000
    | .hub => 800000
    | .core x => s.dev.coreRailUv x
    | .base _ => 750000
    | .dram _ => 1050000
    | .serdes _ => 900000

/-- A rail that is up lies more than 10% off its set point. -/
def State.railOff (s : State) (r : Rail) (uv : Nat) : Bool :=
  let set := s.railUv r
  set != 0 && decide (set < 10 * (max set uv - min set uv))

/-- The die a rail belongs to. -/
def Rail.die : Rail → Option Nat
  | .carrier | .hub => none
  | .core x => some (x / 200)
  | .base x => some x
  | .dram x => some (x / 2)
  | .serdes x => some x

/-- A rail fault other than a core rail's: pages and package in FAULT. -/
def Dev.railFault (d : Dev) (r : Rail) : Dev :=
  let d := (d.raise pwrPage 4).pageFault pwrPage
  let d := match Rail.die r with
    | some x => if x < 12 then d.pageFault ⟨.die, x⟩ else d
    | none => d
  d.packageFault

/-- A core rail's fault stops its cluster; any other one stops the package and runs the power-off sequence, after which no rule
starts it again before 54 V is removed or PRSNT_N breaks. DESIGN CHOICE, log entry 48. -/
def execRailFault (rail : Rail) (s : State) (microvolts : Nat := 0) : Host.Outcome State Fault Refusal :=
  .next (if s.carrier.phase = .running ∧ s.railOff rail microvolts then
      match rail with
      | .core x => if x < 2400 then { s with dev := (s.dev.raise pwrPage 4).cluTo x 7 } else s
      | r => ({ s with dev := s.dev.railFault r } : State).powerOff (.locked true)
    else s)

end Sys2Proof.Machine
end

