-- ==== Sys2Proof/Machine/Copying.lean ====
section
/-! DEFINITION. COPY and TRANSPOSE (R143, R276, R512, R515). -/
namespace Sys2Proof.Machine

/-- Rows exchanged between dimensions 0 and 1, in DST's order; `n` is SRC's LEN1. -/
def transposeRows {α : Type} (dflt : α) (t : Desc) (n : Nat) (rows : List (List α)) : List (List α) :=
  (List.range t.rows).map fun r =>
    (List.range t.len0).map fun i => (rows.getD (r / t.len1 * n + i) []).getD (r % t.len1) dflt

/-- A copy that moves bits (R143). DEDUCED, log entry 19. -/
def CopyCmd.bitwise (c : CopyCmd) : Bool :=
  !c.addWrite && c.src.fmt == c.dst.fmt &&
  (!(isBlock c.src.fmt || isHeritage c.src.fmt) || c.src.scale == c.dst.scale) &&
  !(c.transpose && isBlock c.src.fmt)

/-- The blocks of a block format moved unchanged, positions beyond a row's length as +0 (R28, R143). -/
def CopyCmd.blockChunks (c : CopyCmd) (k : MxKind) (src : ByteSource) : List Chunk :=
  ((List.range c.src.rows).map fun r => ((List.range c.src.rowBlocks).map fun b =>
    let j := r * c.dst.rowBlocks + b
    let hi := putBlock k c.dst.addr c.dst.scalePlane j (c.src.block k src r b)
    if isPair c.src.fmt then
      hi ++ putBlock k (c.dst.addr + c.dst.loPlane) c.dst.scalePlane j (c.src.blockLo src r b)
    else hi).flatten).flatten

/-- The first element of each block moved with scale byte 0xFF (R512). -/
def CopyCmd.blockNf (c : CopyCmd) (k : MxKind) (src : ByteSource) : List Nat :=
  ((List.range c.src.rows).map fun r => ((List.range c.src.rowBlocks).filter fun b =>
    (c.src.block k src r b).scale = 255).map fun b => r * c.src.len0 + 32 * b).flatten

/-- The codes of every row. -/
def Desc.allCodes (t : Desc) (src : ByteSource) : List (List Nat) :=
  (List.range t.rows).map fun r => (List.range t.len0).map fun i => t.code src r i

/-- A code of an IEEE format that is not finite (R512). -/
def codeNonfinite (fmt code : Nat) : Bool :=
  match fmt with
  | 0x0 => !(fmtF32.decode code).isFinite
  | 0x1 => !(fmtBF16.decode code).isFinite
  | 0x2 => !(fmtF16.decode code).isFinite
  | _ => false

/-- What a bit copy writes and counts. -/
def CopyCmd.bits (c : CopyCmd) (src : ByteSource) : Out :=
  match mxKind c.src.fmt with
  | some k => ⟨c.blockChunks k src, c.blockNf k src, 0#32⟩
  | none =>
    let rows := c.src.allCodes src
    let rows := if c.transpose then transposeRows 0 c.dst c.src.len1 rows else rows
    ⟨rows.zipIdx.map fun r => c.dst.putCodes r.2 r.1,
      (rows.flatten.zipIdx.filter fun v => codeNonfinite c.dst.fmt v.1).map (·.2), 0#32⟩

/-- The effect of a COPY or TRANSPOSE. A bit copy merges nothing into the outer-scale table.
DEDUCED, log entry 19. -/
def Dev.copyEffect (d : Dev) (o : Origin) (mode : ConvMode) (c : CopyCmd) (src : ByteSource) : Dev :=
  if c.bitwise then
    let out := c.bits src
    let d := d.write out.chunks
    if o.main then
      let w := d.findingOf c.dst.scaleRef o.layer o.tensorId
      d.nonfinite .conversion o.order w.1 w.2 o.tag out.nf
    else d
  else
    let rows := c.src.allRows src
    let rows := if c.transpose then transposeRows 0#32 c.dst c.src.len1 rows else rows
    if c.addWrite then (d.addOutput o c.dst (c.dst.addRows rows)).1
    else d.output o .conversion c.dst (c.dst.putRows mode rows)

/-- A copy of one kind issued. -/
def State.copy (s : State) (st : Stream) (ev : OpEvents) (transpose : Bool) : Host.Outcome State Fault Refusal :=
  s.act fun d => d.issueIf st fun c => match c.cmd with
    | .copy p =>
      if p.transpose == transpose then
        some (d.operate s.fuse st c p.dst.runs ev fun src d =>
          d.copyEffect (d.origin st c 0xFFFF) (d.mode p.round c.tensorId) p src)
      else none
    | _ => none

def execCopy (st : Stream) (ev : OpEvents) (s : State) : Host.Outcome State Fault Refusal := s.copy st ev false

def execTranspose (st : Stream) (ev : OpEvents) (s : State) : Host.Outcome State Fault Refusal := s.copy st ev true

end Sys2Proof.Machine
end

