-- ==== Sys2Proof/Machine/Managers.lean ====
section
/-! DEFINITION. The power and thermal managers and the islands' clocks (R83, R443 to R448, R456 to R459). -/
namespace Sys2Proof.Machine

def thmPage : Page := page1 .thm

/-! The power manager (R443, R444). -/

/-- The cap in force: PWR_CAP, or what ALERT holds it to (R448). DEDUCED, log entry 50. -/
def Dev.effectiveCap (d : Dev) : Nat :=
  match d.pwr.alertCap with
  | some c => min c d.cappedPower
  | none => d.powerCap

/-- Enabled cores of every cluster. -/
def Dev.enabledCount (d : Dev) (f : Fuse) : Nat :=
  (List.range 2400).foldl (fun n x => n + (d.enabledCores f x).length) 0

/-- No sensor of the die reads in range. -/
def Dev.noSensor (d : Dev) (die : Nat) : Bool := d.flag (Reg.thmDie die) 31

def Dev.die (d : Dev) (x : Nat) : Word := d.reg (Reg.thmDie (x / 200))

/-- The protection limit of a cluster. -/
def Dev.protMhz (d : Dev) (x : Nat) : Nat :=
  min (min 3300 (if 2 ≤ d.pwr.level then 2400 else 3300)) (min (bits (d.die x) 27 16) (if bit (d.die x) 31 then 2400 else 3300))

/-- The policy limit: the ceiling, the cap loop's and the rating's. `enabled` counts the package's enabled cores. -/
def Dev.policyMhz (d : Dev) (enabled : Nat) : Nat :=
  min (min (d.fld Reg.pwrClkLimits 27 16) (d.fld Reg.pwrClkCap 11 0)) (3300 * 300000 / max 1 enabled)

/-- The clock target of a cluster. -/
def Dev.targetMhz (d : Dev) (enabled x perf : Nat) : Nat :=
  let rem := 3300 - 100 * d.fld (Reg.cluProbation x) 15 12
  let pol := d.policyMhz enabled
  let want := min pol (max (d.fld Reg.pwrClkLimits 11 0) perf)
  let t := max 2000 (min (min (d.protMhz x) rem) want)
  t - t % 25

/-- The seeker's next request for a cluster: up while power and the die's temperature allow, else down, within the clock's range.
DESIGN CHOICE, log entry 50. -/
def Dev.seek (d : Dev) (watts x perf : Nat) : Nat :=
  if watts + 200 ≤ d.effectiveCap ∧ d.tempC (x / 200) + 5 ≤ d.throttleC then min 3300 (perf + 25) else max 2000 (perf - 25)

/-- The cap loop's next ceiling. DESIGN CHOICE, log entry 50. -/
def Dev.capLoop (d : Dev) (watts : Nat) : Nat :=
  let c := d.fld Reg.pwrClkCap 11 0
  if d.effectiveCap < watts then max 2000 (c - 25)
  else if watts + 200 ≤ d.effectiveCap then min 3300 (c + 25)
  else c

/-- The clusters' values that are not the default, in ascending order. -/
def sparse (dflt : Nat → Nat) (f : Nat → Nat) : Assoc Nat :=
  ((List.range 2400).map fun x => (x, f x)).filter fun e => e.2 != dflt e.1

/-- One period of the power manager. A refused voltage step stands while a cluster still holds a clock step. -/
def Dev.powerPeriod (d : Dev) (f : Fuse) (watts peak : Nat) : Dev :=
  let cap := d.capLoop watts
  let perf := fun x => d.seek watts x (d.perf x)
  let d := (d.setFld Reg.pwrClkCap 11 0 cap).setFld Reg.pwrPeakW 15 0 (max (d.fld Reg.pwrPeakW 15 0) (min peak 65535))
  let enabled := d.enabledCount f
  let stands := d.pwr.probVRefused && (List.range 2400).any fun x => d.fld (Reg.cluProbation x) 15 12 != 0
  let d : Dev := { d with pwr := { d.pwr with
    watts := watts, probVRefused := stands, perf := sparse perfDefault perf
    target := sparse targetDefault fun x => d.targetMhz enabled x (perf x) } }
  d.showPinned

/-- DESIGN CHOICE, log entry 7. -/
def execPowerManagerPeriod (input : List InputRun) (watts peakWatts : Nat) (s : State) : Host.Outcome State Fault Refusal :=
  (s.sample input).act fun d => if d.active pwrPage then d.powerPeriod s.fuse watts peakWatts else d

/-! The thermal manager (R446). -/

/-- A reading within the sensors' range. -/
def validTemp (t : Int) : Bool := decide (-40 ≤ t ∧ t ≤ 150)

def byteOfInt (t : Int) : Nat := (t % 256).toNat

/-- TEMP_C of a temperature; what it shows above 127 °C is open (notes/assumptions/2.md).
DESIGN CHOICE, log entry 50. -/
def tempByte (t : Int) : Nat := if t < 128 then byteOfInt t else Config.tempCode t % 256

/-- The ceiling's next value. -/
def Dev.nextCeil (d : Dev) (t : Int) (c : Nat) : Nat :=
  if d.throttleC ≤ t then max 2000 (c - 100)
  else if t + (max 1 (d.fld Reg.thmCfg 19 16) : Nat) ≤ d.throttleC then min 3300 (c + 100)
  else c

/-- The hottest valid sensor of a die's 16. -/
def hottest (sensors : List Int) : Option Int :=
  match (sensors.take 16).filter validTemp with
  | [] => none
  | t :: ts => some (ts.foldl max t)

/-- One die in one period: its registers, from the temperature before (`was`) and its sensors.
DESIGN CHOICE, log entry 50. -/
def Dev.thermalDie (d : Dev) (x : Nat) (was : Int) (sensors : List Int) : Dev :=
  let a := Reg.thmDie x
  match hottest sensors with
  | none => d.setFlag a 31 true
  | some hot =>
    let d := d.setFlag a 31 false
    let d := d.setFld a 7 0 (tempByte hot)
    let d := d.setFld a 15 8 (max hot.toNat (d.fld a 15 8))
    let d := d.setFld a 27 16 (d.nextCeil hot (d.fld a 27 16))
    if d.throttleC ≤ hot ∧ was < d.throttleC then d.raise thmPage 0 else d

/-- The sensors out of range, by die and place. -/
def invalidSensors (ds : List DieSensors) : List (Nat × Nat) :=
  ((ds.take 12).zipIdx.map fun s => ((s.1.take 16).zipIdx.filter fun t => !validTemp t.1).map fun t => (s.2, t.2)).flatten

/-- One period of the thermal manager: every die, the cold plate, and an event where a sensor has become invalid. -/
def Dev.thermalPeriod (d : Dev) (ds : List DieSensors) (inlet outlet : Int) : Dev :=
  let bad := invalidSensors ds
  let fresh := bad.any fun x => !d.pwr.invalid.contains x
  let was := d.tempC
  let temps := (List.range 12).map fun x => (hottest (ds.getD x [])).getD (was x)
  let d : Dev := { d with pwr := { d.pwr with invalid := bad, temps := temps } }
  let d := (List.range 12).foldl (fun d x => d.thermalDie x (was x) (ds.getD x [])) d
  let d := d.setReg Reg.thmColdplate (BitVec.ofNat 32 (byteOfInt inlet + byteOfInt outlet * 0x100))
  if fresh then d.raise thmPage 3 else d

/-- DESIGN CHOICE, log entry 7. -/
def execThermalPeriod (sensors : List DieSensors) (inletC outletC : Int) (s : State) : Host.Outcome State Fault Refusal :=
  s.act fun d => if d.active thmPage then d.thermalPeriod sensors inletC outletC else d

/-! Islands (R83). -/

def execCycleStretch (cluster : Fin 2400) (s : State) : Host.Outcome State Fault Refusal :=
  s.act fun d => (d.addSatFld (Reg.cluClock cluster) 31 16 1).raise (cluPage cluster) 4

end Sys2Proof.Machine
end

