-- ==== Sys2Proof/Machine/Reads.lean ====
section
/-! DEFINITION. Reads of registers: the live values, and the halves of a pair (R5, R100, R118, R121, R344, R350, R367, R380, R412 to R424,
R430, R475, R479, R487, R494, R495). -/
namespace Sys2Proof.Machine

/-! Live values by page, where the value is not the stored word. -/

/-- A count of clusters of a die whose pages have a state code. -/
def Dev.clustersIn (d : Dev) (die c : Nat) : Nat :=
  ((List.range 200).filter fun i => d.code (cluPage (200 * die + i)) == c).length

/-- The sum over the clusters of a die. -/
def dieSum (die : Nat) (f : Nat → Nat) : Nat := (List.range 200).foldl (fun n i => n + f (200 * die + i)) 0

/-- Cores of the fused map of a cluster. -/
def Fuse.fusedCount (f : Fuse) (x : Nat) : Nat := ((List.range 128).filter fun i => (f.map x).getLsbD i).length

/-- The bits of a list of flags, from bit 0 up. -/
def flagWord (bs : List Bool) : Word := BitVec.ofNat 32 ((bs.zipIdx).foldl (fun n b => if b.1 then n + 2 ^ b.2 else n) 0)

/-- Live values of a CLU page; CLU_FALLBACK.TARGET reads 0 without VALID. DESIGN CHOICE, log entry 63. -/
def Dev.readClu (d : Dev) (f : Fuse) (x off : Nat) (w : Word) : Word :=
  let enabled := fun (_ : Unit) => d.enabledCores f x
  if off = 0x044 then BitVec.ofNat 32 ((enabled ()).length + f.fusedCount x * 0x100)
  else if 0x048 ≤ off ∧ off ≤ 0x054 then
    flagWord ((List.range 32).map fun i => (enabled ()).contains (32 * ((off - 0x048) / 4) + i))
  else if 0x058 ≤ off ∧ off ≤ 0x064 then flagWord ((List.range 32).map fun i => (f.map x).getLsbD (32 * ((off - 0x058) / 4) + i))
  else if off = 0x068 then setBits w 11 0 (d.clock x)
  else if off = 0x06C then BitVec.ofNat 32 (if d.code (cluPage x) = 5 then 0 else (enabled ()).length * d.clock x / 100)
  else if off = 0x084 then
    (match d.fallback x with
    | some y => BitVec.ofNat 32 (0x80000000 + y)
    | none => 0#32)
  else w

def Dev.readChk (d : Dev) (f : Fuse) (off : Nat) (w : Word) : Word :=
  let c := d.fld Reg.chkCoreSel 18 0
  let i := d.core c
  if off = 0x048 then
    BitVec.ofNat 32 (d.coreState f c + i.gen * 0x100 + 0x10000 * (min 1023 i.probLeft) + if i.rejected then 0x80000000 else 0)
  else if off = 0x070 then BitVec.ofNat 32 i.probLeft
  else w

/-- Cluster pages with a bit set in both EV_PEND and EV_EN. DEDUCED, log entry 51. -/
def Dev.pageLine (d : Dev) (p : Page) : Bool := d.reg (evPendReg p) &&& d.reg (evEnReg p) != 0#32

/-- The level of a source's line: notices and software triggers are edges alone. DEDUCED, log entry 51. -/
def Dev.line (d : Dev) (x : Nat) : Bool :=
  if 132 ≤ x ∧ x ≤ 143 then (List.range 200).any fun i => d.pageLine (cluPage (200 * (x - 132) + i))
  else if 160 ≤ x ∧ x ≤ 164 then (d.input (x - 160)).level
  else if 168 ≤ x ∧ x ≤ 172 then (d.input (x - 168)).stuck
  else if 192 ≤ x then false
  else allPages.any fun p => pageSource p == x && p.type != .clu && d.pageLine p

/-- Hold-off time left of a group, in microseconds, rounded up. -/
def Dev.holdoffLeft (d : Dev) (g : Nat) : Nat := min 65535 ((d.irq.holdUntil.getD g 0 - d.now + 999) / 1000)

def State.readIrq (s : State) (off : Nat) (w : Word) : Word :=
  let d := s.dev
  if off = 0x04C then
    flagWord ((List.range 5).map (fun i => (d.input i).level) ++ [false, false, false] ++ (List.range 5).map fun i => (d.input i).stuck)
  else if 0x100 ≤ off ∧ off < 0x2C0 ∧ off % 16 = 12 then
    let h := (off - 0x100) / 16
    BitVec.ofNat 32 (running s.claims h + (s.claims.getD h []).length * 0x10)
  else if 0x380 ≤ off ∧ off < 0x400 then setBits w 31 16 (d.holdoffLeft ((off - 0x380) / 4))
  else if 0x480 ≤ off ∧ off < 0x500 then flagWord ((List.range 32).map fun i => d.line (8 * (off - 0x480) + i))
  else if 0xC00 ≤ off ∧ off < 0xD2C then flagWord ((List.range 32).map fun i => d.pageLine (cluPage (8 * (off - 0xC00) + i)))
  else w

/-- A mailbox's control word (R430). -/
def Mailbox.word (b : Mailbox) : Word :=
  BitVec.ofNat 32 (b.owner + b.packets.length * 0x100 + (if b.packets.isEmpty then 0x10000 else 0) +
    (if mailboxSize ≤ b.packets.length then 0x20000 else 0) + (if b.overrun then 0x40000 else 0) +
    (if b.underrun then 0x80000 else 0) + 0x100000 * (b.packets.head?.map (·.sender)).getD 0)

def State.readHub (s : State) (off : Nat) (w : Word) : Word :=
  let d := s.dev
  if off = 0x04C then BitVec.ofNat 32 (d.enabledCount s.fuse)
  else if off = 0x080 then flagWord (s.harts.map (·.released))
  else if off = 0x084 then BitVec.ofNat 32 s.carrier.cause
  else if off = 0x088 then
    BitVec.ofNat 32 (d.boot.stage + d.boot.error * 0x100 + 0x10000 * (min 65535 (d.boot.frozen.getD d.bootMs)))
  else if 0x400 ≤ off ∧ off < 0x480 then (s.mailbox ((off - 0x400) / 4)).word
  else w

/-- Live values of the PWR page, the newest averaged input given in quarter millivolts. -/
def Dev.readPwr (d : Dev) (mv4 off : Nat) (w : Word) : Word :=
  if off = 0x040 then BitVec.ofNat 32 (min 65535 (mv4 / 4) + 0x10000 * (min 65535 d.pwr.watts))
  else if off = 0x044 then setBits w 2 0 d.pwr.level
  else if off = 0x06C then flagWord d.pinnedBits
  else w

def State.readHot (s : State) (off : Nat) (w : Word) : Word :=
  if off = 0x040 then setBits w 0 0 (if (s.dev.input 0).level then 1 else 0)
  else if off = 0x048 then BitVec.ofNat 32 (min 4095 s.carrier.peakDa + 0x1000 * (min 15 s.carrier.retries))
  else w

/-- The bundle copy that runs; none before stage 2 is over. -/
def Dev.running (d : Dev) : Option Bundle := d.boot.copy.map d.flash.copy

def State.readSec (s : State) (off : Nat) (w : Word) : Word :=
  let d := s.dev
  let f := s.fuse
  if off = 0x040 then
    BitVec.ofNat 32 ((d.running.map (·.slot)).getD 0 % 4 + (if d.runningCopy then 4 else 0) +
      (if d.boot.otherError ≠ 0 then 8 else 0) + d.boot.otherError * 0x10)
  else if off = 0x044 then
    BitVec.ofNat 32 (f.programmed.toNat + f.revoked.toNat * 0x10 + f.svnCount * 0x100 + (if f.debugDisable then 0x8000 else 0) +
      0x10000 * ((d.running.map (·.svn)).getD 0 % 256))
  else if off = 0x048 then BitVec.ofNat 32 f.serial.toNat
  else if off = 0x04C then BitVec.ofNat 32 (f.serial.toNat / 0x100000000)
  else if 0x050 ≤ off ∧ off ≤ 0x05C then BitVec.ofNat 32 (leNat ((d.mgt.nonce.drop (off - 0x050)).take 4))
  else if off = 0x064 then BitVec.ofNat 32 d.mgt.sessions
  else w

def State.readMgt (s : State) (off : Nat) (w : Word) : Word :=
  let mac := fun (m : BitVec 48) (hi : Bool) => BitVec.ofNat 32 (if hi then m.toNat / 0x100000000 else m.toNat)
  if off = 0x040 then flagWord (s.dev.mgt.up.take 2 ++ [s.dev.boot.recovery])
  else if off = 0x044 then mac s.fuse.mac0 false
  else if off = 0x048 then mac s.fuse.mac0 true
  else if off = 0x04C then mac s.fuse.mac1 false
  else if off = 0x050 then mac s.fuse.mac1 true
  else w

def Dev.readLog (d : Dev) (off : Nat) (w : Word) : Word :=
  let mib := 0x100000
  if off = 0x058 then
    let w := setBit w 0 (decide (d.pair Reg.logWriteLo ≤ d.log.nextOut))
    let w := setBit w 1 (decide (d.logFree < 0x10000))
    setBit w 5 (decide (d.logFree < max 16 (min 1024 (d.fld Reg.logReserve 11 0)) * mib))
  else if off = 0x060 then BitVec.ofNat 32 (d.logFree / mib)
  else if off = 0x098 then BitVec.ofInt 32 (max (-0x80000000) (min 0x7FFFFFFF d.log.ptpOffset))
  else if off = 0x09C then BitVec.ofNat 32 ((d.flash.spill.length + mib - 1) / mib)
  else w

def Dev.readDie (d : Dev) (f : Fuse) (die off : Nat) (w : Word) : Word :=
  if off = 0x044 then
    BitVec.ofNat 32 (d.clustersIn die 2 + d.clustersIn die 4 * 0x100 + 0x10000 * d.clustersIn die 5 + 0x1000000 * d.clustersIn die 7)
  else if off = 0x048 then
    BitVec.ofNat 32 (dieSum die (fun x => (d.enabledCores f x).length) + 0x10000 * dieSum die f.fusedCount)
  else w

def Dev.readMem (d : Dev) (s off : Nat) (w : Word) : Word :=
  if off = 0x060 then BitVec.ofNat 32 (1024 - (d.remap s).used + 0x10000 * (d.remap s).used) else w

/-- The digest registers show the step that SKY_DIGEST_SEL names. -/
def Dev.readSky (d : Dev) (off : Nat) (w : Word) : Word :=
  if 0x084 ≤ off ∧ off ≤ 0x0A0 then
    (match d.sky.digests.find? fun x => x.step % 0x100000000 == (d.reg Reg.skyDigestSel).toNat with
    | some x =>
      let k := (off - 0x084) / 4
      let v := [x.rec0, x.rec1, x.out0, x.out1].getD (k / 2) 0#64
      BitVec.ofNat 32 (if k % 2 = 0 then v.toNat else v.toNat / 0x100000000)
    | none => 0#32)
  else w

/-- What a register reads as. -/
def State.readReg (s : State) (p : Page) (off : Nat) : Word :=
  let d := s.dev
  let w := d.reg (Page.addr p + off)
  if off < 0x040 then w
  else match p.type with
    | .hub => s.readHub off w
    | .pwr => d.readPwr s.carrier.newestAvg off w
    | .thm => if off = 0x078 then BitVec.ofNat 32 (min 255 s.carrier.trips.length) else w
    | .irq => s.readIrq off w
    | .sec => s.readSec off w
    | .mgt => s.readMgt off w
    | .log => d.readLog off w
    | .cht => if off = 0x054 then d.governWord else w
    | .mem => d.readMem p.inst off w
    | .die => d.readDie s.fuse p.inst off w
    | .clu => d.readClu s.fuse p.inst off w
    | .chk => d.readChk s.fuse off w
    | .sky => d.readSky off w
    | .hot => s.readHot off w
    | _ => w

/-! Pairs (R479). -/

/-- The offsets of the low halves of the read-only pairs of a page. -/
def lowHalves : PageType → List Nat
  | .hub => [0x054]
  | .sec => [0x048]
  | .mgt => [0x044, 0x04C]
  | .log => [0x044]
  | .seq => [0x068, 0x074]
  | .hlm => [0x04C]
  | .sxt => [0x08C]
  | .red => [0x054]
  | .cht => [0x05C]
  | .mem => [0x058]
  | .sky => [0x074, 0x084, 0x08C, 0x094, 0x09C]
  | _ => []

/-- The read of a register has a row of its own: LOG_NEXT, a claim, a mailbox's words.
DEDUCED, log entry 52. -/
def ownRead (p : Page) (off : Nat) : Bool :=
  (p.type == .log && off == 0x054) || (p.type == .irq && decide (0x100 ≤ off ∧ off < 0x2C0) && off % 16 == 4) ||
  (p.type == .hub && decide (0x200 ≤ off ∧ off < 0x400) && (off % 16 == 8 || off % 16 == 12))

/-- The value a hart sees at an address, and its latches after the read. -/
def State.hartSees (s : State) (h : Hart) (p : Page) (off addr : Nat) : Hart :=
  if (lowHalves p.type).contains off then
    { h with
      lastRead := s.readReg p off
      latched := (addr + 4, s.readReg p (off + 4)) :: h.latched.filter fun e => e.1 != addr + 4 }
  else match h.latched.find? fun e => e.1 == addr with
    | some e => { h with lastRead := e.2, latched := h.latched.filter fun e => e.1 != addr }
    | none => { h with lastRead := s.readReg p off }

def execRegisterLoRead (hart : Fin 28) (addr : Nat) (s : State) : Host.Outcome State Fault Refusal :=
  match windowAddr addr with
  | some a =>
    .next (match pageOf a with
      | some (p, off) =>
        if a % 4 = 0 ∧ !ownRead p off ∧ s.reaches hart p false then s.onHart hart fun h => s.hartSees h p off a else s
      | none => s)
  | none => .next s

end Sys2Proof.Machine
end

