-- ==== Sys2Proof/Machine/Management.lean ====
section
/-! DEFINITION. The patrol scrubber, the roll call, and what hart 24 answers on the management channel (R122, R405, R463 to R465, R468,
R470 to R474, R494). -/
namespace Sys2Proof.Machine

/-! The patrol scrubber (R122). -/

/-- Blocks of a stack's job region and Logbook piece, from its first block on. -/
def scrubBlocks (stack : Nat) : Nat := if stack < 16 then 0xB800000 else 0xC000000

/-- A scrubber that has read nothing stands at block 0. -/
def scrubDefault (_ : Nat) : Nat := 0

/-- The scrubber goes on past a block; the last one ends the pass. DESIGN CHOICE, log entry 58. -/
def Dev.scrubbed (d : Dev) (s block : Nat) : Dev :=
  let a := Reg.memScrubStatus s
  let d : Dev := { d with scrubAt := Assoc.set scrubDefault d.scrubAt s ((block + 1) % scrubBlocks s) }
  if block + 1 = scrubBlocks s then
    ((d.addSatFld a 15 0 1).setFld a 22 16 0).raise (memPage s) 5
  else d.setFld a 22 16 ((block + 1) * 100 / scrubBlocks s)

/-- The number of the block that a stack's scrubber reads next. -/
def Dev.scrubNext (d : Dev) (s : Nat) : Nat := Assoc.get scrubDefault d.scrubAt s

/-- The scrubber reads its next block; `first` and `second` say which bits came out flipped in the read and in a re-read.
DESIGN CHOICE, log entries 7 and 58. -/
def execScrubRead (stack : Fin 24) (first second : List Nat) (s : State) : Host.Outcome State Fault Refusal :=
  s.act fun d =>
    if d.active (memPage stack) && d.flag (Reg.memScrubCtrl stack) 0 then
      let a := stackSpan * stack.val + 256 * d.scrubNext stack
      (d.blockFinding .scrub ⟨a, ⟨a, first⟩, ⟨a, second⟩, false⟩).scrubbed stack (d.scrubNext stack)
    else d

/-! The roll call (R405). -/

/-- The key of a page among the transitions that a roll call reports. -/
def rollKey (p : Page) : Nat := 4096 * pageCode p.type + p.inst

/-- The entry of a page. -/
def Dev.rollEntry (d : Dev) (p : Page) : List Byte :=
  let w := d.reg (stateReg p)
  pageBytes p ++ natBytes 1 (bits w 3 0) ++ natBytes 1 (bits w 15 8) ++
    natBytes 1 (min 255 (Assoc.get changesDefault d.mgt.changes (rollKey p))) ++ natBytes 1 0

/-- The roll call numbered `n`: the pages that changed, or every page. DESIGN CHOICE, log entry 56. -/
def Dev.rollCall (d : Dev) (n : Nat) : List Byte :=
  let full := n % 1024 == 0
  let pages := if full then allPages else allPages.filter fun p => Assoc.get changesDefault d.mgt.changes (rollKey p) != 0
  natBytes 4 n ++ boolByte full ++ natBytes 1 0 ++ natBytes 2 pages.length ++ natBytes 8 d.stamp.toNat ++
    (pages.map d.rollEntry).flatten

/-- The roll call goes out over an open session. DESIGN CHOICE, log entry 56. -/
def execRollCall (s : State) : Host.Outcome State Fault Refusal :=
  s.act fun d =>
    if d.channel then
      let n := (d.mgt.rollSeq + 1) % 0x100000000
      { d with mgt := { d.mgt with rollSeq := n, changes := [], rollCall := d.rollCall n } }
    else d

/-! Links and sessions (R471, R494). -/

/-- A management port is up: both from boot stage 8 on, port 0 in recovery mode (R412, R468). -/
def Dev.mgtPortOn (d : Dev) (port : Nat) : Bool := d.active mgtPage || (d.boot.recovery && port == 0)

/-- DEDUCED, log entry 56. -/
def execMgtLinkChange (port : Fin 2) (up : Bool) (s : State) : Host.Outcome State Fault Refusal :=
  s.act fun d =>
    if d.mgt.up.getD port false = up || !d.mgtPortOn port then d
    else ({ d with mgt := { d.mgt with up := d.mgt.up.set port up } } : Dev).raise mgtPage (if up then 0 else 1)

/-- A handshake that R471 admits: TLS 1.3's suites, groups and the one signature scheme by their code points, no resumption, an
RSA-3072 certificate under the operator's anchor. DESIGN CHOICE, log entry 56. -/
def TlsHello.admitted (h : TlsHello) : Bool :=
  !h.resumption && h.certRsa3072 && h.certChains && h.schemes.contains 0x0804 &&
    h.ciphers.any (fun c => c == 0x1301 || c == 0x1302) && h.groups.any fun g => g == 0x001D || g == 0x0018

/-- The largest number of sessions open. -/
def maxSessions : Nat := 8

/-- The device's side of a handshake: its identity chain, and its signature over the handshake's content (R469, R471). -/
def Dev.present (d : Dev) (signed : List Byte) : Dev :=
  let sig := d.sign (sha256 signed)
  { sig.2 with mgt := { sig.2.mgt with presented := (sig.2.flash.chain, sig.1), sessions := sig.2.mgt.sessions + 1 } }

/-- In recovery mode port 0 takes a handshake as well (R468). DESIGN CHOICE, log entry 56. -/
def execTlsHandshake (hello : TlsHello) (s : State) : Host.Outcome State Fault Refusal :=
  s.act fun d =>
    if d.mgtPortOn hello.port && d.mgt.up.getD hello.port false then
      if TlsHello.admitted hello && decide (d.mgt.sessions < maxSessions) then d.present hello.signed else d.raise secPage 3
    else d

/-! Attestation (R470). -/

/-- The words at HUB offsets 0x040 to 0x07F. -/
def State.hubWords (s : State) : List Word := (List.range 16).map fun i => s.readReg hubPage (0x040 + 4 * i)

/-- A digest's 32 bytes. -/
def digest32 (b : List Byte) : List Byte := (List.range 32).map fun i => b.getD i 0#8

/-- The report up to its signature. DESIGN CHOICE, log entry 56. -/
def State.reportBody (s : State) (nonce : List Byte) : List Byte :=
  let d := s.dev
  let config := Config.configBytes d.flash.fenced (d.flash.remaps.map fun e => (e.1, e.2.rows, e.2.used)) s.hubWords
  natBytes 2 1 ++ natBytes 2 (d.fld Reg.chtPackage 15 0) ++ natBytes 1 ((d.running.map (·.slot)).getD 0) ++
    natBytes 1 s.fuse.svnCount ++ natBytes 1 ((d.running.map (·.svn)).getD 0) ++ natBytes 1 (d.fld Reg.secDebug 7 0) ++ nonce ++
    natBytes 8 s.fuse.serial.toNat ++ natBytes 8 d.stamp.toNat ++ natBytes 8 0 ++
    digest32 (Config.measure false 0) ++ digest32 (d.measure 1) ++ digest32 (d.measure 2) ++ digest32 (d.measure 3) ++
    sha256 config ++ natBytes 8 d.log.segNumber ++ d.log.segDigest ++
    ((List.range 4).map fun i => wordBytes (d.reg (Reg.logJobId i))).flatten ++ natBytes 8 0

/-- DESIGN CHOICE, log entry 56. -/
def execAttestationRequest (nonce : List Byte) (s : State) : Host.Outcome State Fault Refusal :=
  .next (if s.carrier.phase = .running ∧ s.dev.channel ∧ nonce.length = 32 then
      let body := s.reportBody nonce
      let sig := s.dev.sign (sha256 body)
      { s with dev := { sig.2 with mgt := { sig.2.mgt with report := body ++ sig.1, reportChain := sig.2.flash.chain } } }
    else s)

/-! Signatures and keys (R462, R464). -/

/-- A 256-bit hash as the fuse block keeps it. -/
def hashWord (h : List Byte) : BitVec 256 := BitVec.ofNat 256 (beNat h)

/-- A key of 388 bytes, RSA-3072 with exponent 65,537, verifies a signature over a message.
DEDUCED, log entry 54. -/
def signedBy (key msg sig : List Byte) : Bool :=
  let n := beNat (key.take 384)
  beNat (key.drop 384) == 65537 && Nat.log2 n == 3071 && pssVerify n (sha256 msg) (beNat sig)

/-- A slot and a key that the fuse block trusts. -/
def Fuse.trusts (f : Fuse) (slot : Nat) (key : List Byte) : Bool :=
  f.usable slot && f.keyHash.getD slot 0#256 == hashWord (sha256 key)

/-! Debug (R472, R473). -/

/-- The reason a token is refused, 0 for none. DESIGN CHOICE, log entry 57. -/
def State.tokenReason (s : State) (t : List Byte) : Nat :=
  if s.fuse.debugDisable then 7
  else if !s.dev.ready hubPage then 6
  else if !(t.length == 0x324 && u16 t 0 == 1 && decide (u8 t 3 < 8) && zeros t 4 4) then 1
  else if u64 t 8 ≠ s.fuse.serial.toNat then 2
  else if (t.drop 0x10).take 16 ≠ s.dev.mgt.nonce then 3
  else if !s.fuse.trusts (u8 t 2) ((t.drop 0x20).take 388) then 4
  else if !signedBy ((t.drop 0x20).take 388) (t.take 0x1A4) (t.drop 0x1A4) then 5
  else 0

/-- A token refused: counted, its reason shown, and the eighth locks tokens out.
DESIGN CHOICE, log entry 57. -/
def Dev.refuseToken (d : Dev) (reason : Nat) : Dev :=
  let d := (d.addSatFld Reg.secDebug 11 8 1).setFld Reg.secDebug 15 13 reason
  (d.setFlag Reg.secDebug 12 (decide (8 ≤ d.fld Reg.secDebug 11 8))).raise secPage 2

/-- After the lockout a token is refused unchecked. DESIGN CHOICE, log entry 57. -/
def execDebugUnlockToken (token : List Byte) (s : State) : Host.Outcome State Fault Refusal :=
  s.act fun d =>
    if !d.channel then d
    else if d.flag Reg.secDebug 12 then d.raise secPage 2
    else
      let r := s.tokenReason token
      let d := if r = 0 then (d.setFld Reg.secDebug 7 0 (d.fld Reg.secDebug 7 0 ||| u8 token 3)).raise secPage 1 else d.refuseToken r
      d.newNonce

/-! Recovery (R463, R465, R468). -/

/-- A component of a bundle. -/
structure Component where
  type : Nat
  offset : Nat
  length : Nat
  digest : List Byte
deriving DecidableEq, Repr

def bundleComponents (b : List Byte) : List Component :=
  (List.range (u8 b 5)).map fun i =>
    let a := 0x190 + 48 * i
    ⟨u32 b a, u32 b (a + 4), u64 b (a + 8), (b.drop (a + 16)).take 32⟩

/-- The bytes of a component, from its offset in the bundle. -/
def Component.bytes (c : Component) (b : List Byte) : List Byte := (b.drop c.offset).take c.length

/-- A component lies in the bundle and matches its digest. DESIGN CHOICE, log entry 55. -/
def Component.good (c : Component) (b : List Byte) : Bool :=
  decide (c.offset + c.length ≤ b.length) && sha256 (c.bytes b) == c.digest

/-- The bytes of the components of some types, in the order of the types. -/
def typedBytes (b : List Byte) (types : List Nat) : List Byte :=
  (types.map fun t => (((bundleComponents b).filter fun c => c.type == t).map fun c => c.bytes b).flatten).flatten

/-- What a copy holds once a bundle is written over it. DESIGN CHOICE, log entry 55. -/
def bundleOf (b : List Byte) : Bundle :=
  let cs := bundleComponents b
  let body := 0x190 + 48 * u8 b 5
  let flags := u8 b 4
  { headerGood := decide (body + 384 ≤ b.length) && u16 b 0 == 1 && decide (1 ≤ u8 b 5 ∧ u8 b 5 ≤ 16) && u16 b 6 == 0x00A1 &&
      flags / 4 % 4 == 0 && flags / 128 == 0 && zeros b 0x18C 4 && (flags / 2 % 2 == 1 || flags / 16 % 8 == 0) &&
      (cs.head?.map (·.type)) == some 0 && cs.all fun c => decide (c.type ≤ 6)
    slot := u8 b 2
    svn := u8 b 3
    advance := flags % 2 == 1
    revoke := flags / 2 % 2 == 1
    revokeMask := BitVec.ofNat 3 (flags / 16)
    keyHash := hashWord (sha256 ((b.drop 8).take 388))
    signatureGood := signedBy ((b.drop 8).take 388) (b.take body) ((b.drop body).take 384)
    firstGood := (cs.take 1).all fun c => c.good b
    restGood := (cs.drop 1).all fun c => c.good b
    readable := true
    digests := some [sha256 (b.take (body + 384)), sha256 (typedBytes b [1, 2, 3, 4, 5]), sha256 (typedBytes b [6]),
      sha256 (typedBytes b [1])] }

/-- A copy written to module flash: the one named, false for A. -/
def Flash.writeCopy (f : Flash) (b : Bool) (x : Bundle) : Flash := if b then { f with copyB := x } else { f with copyA := x }

/-- The copy rewritten is no longer left out, nor the one that failed first. DESIGN CHOICE, log entry 55. -/
def Carrier.rewritten (c : Carrier) (b : Bool) : Carrier :=
  { c with excluded := c.excluded.filter fun e => e.1 != b, firstFailed := none }

/-- The one exchange of recovery mode, in a session on port 0. DEDUCED, log entry 49. DESIGN CHOICE, log entry 55. -/
def execRecoveryBundle (bundle : List Byte) (s : State) : Host.Outcome State Fault Refusal :=
  .next (if s.carrier.phase = .running ∧ s.dev.boot.recovery ∧ s.dev.mgt.up.getD 0 false ∧ 0 < s.dev.mgt.sessions then
      let x := bundleOf bundle
      let code := x.checkAll s.fuse
      let d := s.dev
      let first := d.boot.firstFailed.getD false
      if code = 0 then
        ({ s with
          dev := { d with flash := d.flash.writeCopy first x }
          carrier := s.carrier.rewritten first } : State).resetPackage s.carrier.cause
      else { s with dev := { d with mgt := { d.mgt with refused := code } } }
    else s)

end Sys2Proof.Machine
end

