-- ==== Sys2Proof/Machine/Dispatch.lean ====
section
/-! DEFINITION. What each command of the table does to the state, arm by arm. -/
namespace Sys2Proof.Machine

/-- The effect of a command on everything but the queue of waiting commands. -/
def exec (i : Instr) (s : State) : Host.Outcome State Fault Refusal :=
  match i with
  | .nop st => Sys2Proof.Machine.execNop st s
  | .fence st => Sys2Proof.Machine.execFence st s
  | .fenceComplete st => Sys2Proof.Machine.execFenceComplete st s
  | .flush st => Sys2Proof.Machine.execFlush st s
  | .flushComplete st => Sys2Proof.Machine.execFlushComplete st s
  | .wait st => Sys2Proof.Machine.execWait st s
  | .waitComplete st => Sys2Proof.Machine.execWaitComplete st s
  | .waitTimeout st => Sys2Proof.Machine.execWaitTimeout st s
  | .setpred st blocks => Sys2Proof.Machine.execSetpred st s blocks
  | .stamp st blocks => Sys2Proof.Machine.execStamp st s blocks
  | .call st => Sys2Proof.Machine.execCall st s
  | .ret st => Sys2Proof.Machine.execRet st s
  | .matmul st ev => Sys2Proof.Machine.execMatmul st ev s
  | .matmulH st ev => Sys2Proof.Machine.execMatmulH st ev s
  | .vprog st ev => Sys2Proof.Machine.execVprog st ev s
  | .softmax st ev => Sys2Proof.Machine.execSoftmax st ev s
  | .normRms st ev => Sys2Proof.Machine.execNormRms st ev s
  | .normLayer st ev => Sys2Proof.Machine.execNormLayer st ev s
  | .vkernelReduce st ev => Sys2Proof.Machine.execVkernelReduce st ev s
  | .attnStat st ev => Sys2Proof.Machine.execAttnStat st ev s
  | .loss st ev => Sys2Proof.Machine.execLoss st ev s
  | .tload st ev => Sys2Proof.Machine.execTload st ev s
  | .copy st ev => Sys2Proof.Machine.execCopy st ev s
  | .transpose st ev => Sys2Proof.Machine.execTranspose st ev s
  | .route ev => Sys2Proof.Machine.execRoute ev s
  | .count m blocks => Sys2Proof.Machine.execCount m s blocks
  | .grant m blocks => Sys2Proof.Machine.execGrant m s blocks
  | .place m blocks => Sys2Proof.Machine.execPlace m s blocks
  | .compassTimeout layerSlot microbatch => Sys2Proof.Machine.execCompassTimeout layerSlot microbatch s
  | .dispatch ev => Sys2Proof.Machine.execDispatch ev s
  | .xchgReturn ev => Sys2Proof.Machine.execXchgReturn ev s
  | .combine ev => Sys2Proof.Machine.execCombine ev s
  | .gradDispatch ev => Sys2Proof.Machine.execGradDispatch ev s
  | .gradReturn ev => Sys2Proof.Machine.execGradReturn ev s
  | .ready m blocks => Sys2Proof.Machine.execReady m s blocks
  | .data m blocks => Sys2Proof.Machine.execData m s blocks
  | .xchgComplete kind layerSlot microbatch blocks => Sys2Proof.Machine.execXchgComplete kind layerSlot microbatch s blocks
  | .xchgTimeout kind layerSlot microbatch => Sys2Proof.Machine.execXchgTimeout kind layerSlot microbatch s
  | .reduceSum ev => Sys2Proof.Machine.execReduceSum ev s
  | .reduceTally ev => Sys2Proof.Machine.execReduceTally ev s
  | .reduceMax ev => Sys2Proof.Machine.execReduceMax ev s
  | .reduceConsensus blocks => Sys2Proof.Machine.execReduceConsensus s blocks
  | .agree m blocks => Sys2Proof.Machine.execAgree m s blocks
  | .ec48 m blocks => Sys2Proof.Machine.execEc48 m s blocks
  | .topk m blocks => Sys2Proof.Machine.execTopk m s blocks
  | .sign m blocks => Sys2Proof.Machine.execSign m s blocks
  | .fast m blocks => Sys2Proof.Machine.execFast m s blocks
  | .tally m blocks => Sys2Proof.Machine.execTally m s blocks
  | .consensus m blocks => Sys2Proof.Machine.execConsensus m s blocks
  | .reduceComplete slot blocks => Sys2Proof.Machine.execReduceComplete slot s blocks
  | .reduceTimeout slot => Sys2Proof.Machine.execReduceTimeout slot s
  | .helmSetStep ev => Sys2Proof.Machine.execHelmSetStep ev s
  | .helmSetNorm ev => Sys2Proof.Machine.execHelmSetNorm ev s
  | .helmSetCoef ev => Sys2Proof.Machine.execHelmSetCoef ev s
  | .helmSetDecay ev => Sys2Proof.Machine.execHelmSetDecay ev s
  | .helmUpdate ev => Sys2Proof.Machine.execHelmUpdate ev s
  | .send ev => Sys2Proof.Machine.execSend ev s
  | .sendComplete id blocks => Sys2Proof.Machine.execSendComplete id s blocks
  | .sendTimeout id => Sys2Proof.Machine.execSendTimeout id s
  | .release => Sys2Proof.Machine.execRelease s
  | .pipelineBlock m blocks => Sys2Proof.Machine.execPipelineBlock m s blocks
  | .stop m => Sys2Proof.Machine.execStop m s
  | .go m => Sys2Proof.Machine.execGo m s
  | .leg => Sys2Proof.Machine.execLeg s
  | .legSwitch blocks => Sys2Proof.Machine.execLegSwitch s blocks
  | .barrier m blocks => Sys2Proof.Machine.execBarrier m s blocks
  | .legTimeout => Sys2Proof.Machine.execLegTimeout s
  | .fix => Sys2Proof.Machine.execFix s
  | .fixVote m => Sys2Proof.Machine.execFixVote m s
  | .fixTimeout => Sys2Proof.Machine.execFixTimeout s
  | .flushCount m => Sys2Proof.Machine.execFlushCount m s
  | .skRequest m => Sys2Proof.Machine.execSkRequest m s
  | .skAccept m => Sys2Proof.Machine.execSkAccept m s
  | .skVerdict m => Sys2Proof.Machine.execSkVerdict m s
  | .skDecision m => Sys2Proof.Machine.execSkDecision m s
  | .skCancel m => Sys2Proof.Machine.execSkCancel m s
  | .skTimeout => Sys2Proof.Machine.execSkTimeout s
  | .logmarkNote => Sys2Proof.Machine.execLogmarkNote s
  | .logmarkTensor ev => Sys2Proof.Machine.execLogmarkTensor ev s
  | .logmarkRange ev => Sys2Proof.Machine.execLogmarkRange ev s
  | .commandDecode st blocks => Sys2Proof.Machine.execCommandDecode st s blocks
  | .commandReject st => Sys2Proof.Machine.execCommandReject st s
  | .operationBoundary st => Sys2Proof.Machine.execOperationBoundary st s
  | .bfOverrun => Sys2Proof.Machine.execBfOverrun s
  | .seqTailWrite hart st value => Sys2Proof.Machine.execSeqTailWrite hart st value s
  | .seqCounterAdd hart st value => Sys2Proof.Machine.execSeqCounterAdd hart st value s
  | .bfEnableWrite hart value => Sys2Proof.Machine.execBfEnableWrite hart value s
  | .bfEnableEffect => Sys2Proof.Machine.execBfEnableEffect s
  | .bfResume hart value => Sys2Proof.Machine.execBfResume hart value s
  | .linkBlockReceive port block words => Sys2Proof.Machine.execLinkBlockReceive port block s words
  | .linkControlWord port w => Sys2Proof.Machine.execLinkControlWord port w s
  | .remoteWriteBlock m blocks => Sys2Proof.Machine.execRemoteWriteBlock m s blocks
  | .parkWord port => Sys2Proof.Machine.execParkWord port s
  | .fabEnableWrite hart port value => Sys2Proof.Machine.execFabEnableWrite hart port value s
  | .trainingAttemptEnd port result => Sys2Proof.Machine.execTrainingAttemptEnd port result s
  | .laneLockLoss port lanes => Sys2Proof.Machine.execLaneLockLoss port lanes s
  | .chtPackageWrite hart value => Sys2Proof.Machine.execChtPackageWrite hart value s
  | .chartLoad hart value blocks => Sys2Proof.Machine.execChartLoad hart value s blocks
  | .chartLoadReplay hart value blocks => Sys2Proof.Machine.execChartLoadReplay hart value s blocks
  | .postTailWrite hart value blocks => Sys2Proof.Machine.execPostTailWrite hart value s blocks
  | .postWriteAcked blocks => Sys2Proof.Machine.execPostWriteAcked s blocks
  | .stateRequestActive hart page gen => Sys2Proof.Machine.execStateRequestActive hart page gen s
  | .stateRequestDraining hart page gen => Sys2Proof.Machine.execStateRequestDraining hart page gen s
  | .stateRequestReady hart page gen => Sys2Proof.Machine.execStateRequestReady hart page gen s
  | .stateRequestQuarantine hart page gen => Sys2Proof.Machine.execStateRequestQuarantine hart page gen s
  | .drainComplete page => Sys2Proof.Machine.execDrainComplete page s
  | .chkCoreReq hart value => Sys2Proof.Machine.execChkCoreReq hart value s
  | .pin hart value => Sys2Proof.Machine.execPin hart value s
  | .unpin hart value => Sys2Proof.Machine.execUnpin hart value s
  | .cmpTrackRecordWrite hart value => Sys2Proof.Machine.execCmpTrackRecordWrite hart value s
  | .hlmRingSlotWrite hart value => Sys2Proof.Machine.execHlmRingSlotWrite hart value s
  | .redStepNfForce hart value => Sys2Proof.Machine.execRedStepNfForce hart value s
  | .logNextRead hart => Sys2Proof.Machine.execLogNextRead hart s
  | .logDrainedWrite hart value => Sys2Proof.Machine.execLogDrainedWrite hart value s
  | .logSpill => Sys2Proof.Machine.execLogSpill s
  | .spillComplete ok => Sys2Proof.Machine.execSpillComplete ok s
  | .hubIfaceOffer hart value => Sys2Proof.Machine.execHubIfaceOffer hart value s
  | .mbxPutLo hart mailbox value => Sys2Proof.Machine.execMbxPutLo hart mailbox value s
  | .mbxPutHi hart mailbox value => Sys2Proof.Machine.execMbxPutHi hart mailbox value s
  | .mbxGetLo hart mailbox => Sys2Proof.Machine.execMbxGetLo hart mailbox s
  | .mbxGetHi hart mailbox => Sys2Proof.Machine.execMbxGetHi hart mailbox s
  | .mbxOwnerWrite hart mailbox value => Sys2Proof.Machine.execMbxOwnerWrite hart mailbox value s
  | .irqClaim hart reader => Sys2Proof.Machine.execIrqClaim hart reader s
  | .irqComplete hart writer value => Sys2Proof.Machine.execIrqComplete hart writer value s
  | .irqSwTrigger hart value => Sys2Proof.Machine.execIrqSwTrigger hart value s
  | .irqMissedClear hart value => Sys2Proof.Machine.execIrqMissedClear hart value s
  | .holdoffExpiry group => Sys2Proof.Machine.execHoldoffExpiry group s
  | .evEnWrite hart page value => Sys2Proof.Machine.execEvEnWrite hart page value s
  | .evForceWrite hart page value => Sys2Proof.Machine.execEvForceWrite hart page value s
  | .registerLoRead hart addr => Sys2Proof.Machine.execRegisterLoRead hart addr s
  | .absentPageAccess hart addr write => Sys2Proof.Machine.execAbsentPageAccess hart addr write s
  | .accessFault hart addr width write => Sys2Proof.Machine.execAccessFault hart addr width write s
  | .registerWrite hart addr value => Sys2Proof.Machine.execRegisterWrite hart addr value s
  | .extInputRawChange input level => Sys2Proof.Machine.execExtInputRawChange input level s
  | .extInputFiltered input => Sys2Proof.Machine.execExtInputFiltered input s
  | .inputStuck input => Sys2Proof.Machine.execInputStuck input s
  | .ppsEdge => Sys2Proof.Machine.execPpsEdge s
  | .ptpMessage m => Sys2Proof.Machine.execPtpMessage m s
  | .mgtLinkChange port up => Sys2Proof.Machine.execMgtLinkChange port up s
  | .mgtPtpPortWrite hart value => Sys2Proof.Machine.execMgtPtpPortWrite hart value s
  | .rollCall => Sys2Proof.Machine.execRollCall s
  | .attestationRequest nonce => Sys2Proof.Machine.execAttestationRequest nonce s
  | .debugUnlockToken token => Sys2Proof.Machine.execDebugUnlockToken token s
  | .tlsHandshake hello => Sys2Proof.Machine.execTlsHandshake hello s
  | .recoveryBundle bundle => Sys2Proof.Machine.execRecoveryBundle bundle s
  | .scrubRead stack first second => Sys2Proof.Machine.execScrubRead stack first second s
  | .refclkPresent => Sys2Proof.Machine.execRefclkPresent s
  | .refclkLoss => Sys2Proof.Machine.execRefclkLoss s
  | .prsntMate => Sys2Proof.Machine.execPrsntMate s
  | .insertionDebounceEnd input => Sys2Proof.Machine.execInsertionDebounceEnd s input
  | .rampComplete => Sys2Proof.Machine.execRampComplete s
  | .rampFault => Sys2Proof.Machine.execRampFault s
  | .rampRetry => Sys2Proof.Machine.execRampRetry s
  | .resetRelease input rail => Sys2Proof.Machine.execResetRelease s input rail
  | .bootStageComplete result => Sys2Proof.Machine.execBootStageComplete result s
  | .dramFillComplete stack => Sys2Proof.Machine.execDramFillComplete stack s
  | .graceExpiry => Sys2Proof.Machine.execGraceExpiry s
  | .hotQuiesceWrite hart value => Sys2Proof.Machine.execHotQuiesceWrite hart value s
  | .surpriseRemoval => Sys2Proof.Machine.execSurpriseRemoval s
  | .overcurrentTrip => Sys2Proof.Machine.execOvercurrentTrip s
  | .shedLevelEnter level input => Sys2Proof.Machine.execShedLevelEnter level s input
  | .shedLevelLeave input => Sys2Proof.Machine.execShedLevelLeave s input
  | .sagRestart input => Sys2Proof.Machine.execSagRestart s input
  | .pwrSagCfgWrite hart level value => Sys2Proof.Machine.execPwrSagCfgWrite hart level value s
  | .controlledPowerOff => Sys2Proof.Machine.execControlledPowerOff s
  | .powerOffRailStep => Sys2Proof.Machine.execPowerOffRailStep s
  | .railFault rail microvolts => Sys2Proof.Machine.execRailFault rail s microvolts
  | .powerManagerPeriod input watts peakWatts => Sys2Proof.Machine.execPowerManagerPeriod input watts peakWatts s
  | .thermalPeriod sensors inletC outletC => Sys2Proof.Machine.execThermalPeriod sensors inletC outletC s
  | .thermalTrip cause => Sys2Proof.Machine.execThermalTrip cause s
  | .tripRestart => Sys2Proof.Machine.execTripRestart s
  | .transmitSlot port => Sys2Proof.Machine.execTransmitSlot port s
  | .cycleStretch cluster => Sys2Proof.Machine.execCycleStretch cluster s
  | .sramParityError addr => Sys2Proof.Machine.execSramParityError addr s
  | .softwareReset => Sys2Proof.Machine.execSoftwareReset s
  | .supplyApplied => Sys2Proof.Machine.execSupplyApplied s
  | .supplyRemoved => Sys2Proof.Machine.execSupplyRemoved s
  | .prsntBreak => Sys2Proof.Machine.execPrsntBreak s
  | .captureReplayBlock => Sys2Proof.Machine.execCaptureReplayBlock s

end Sys2Proof.Machine
end

