-- ==== Sys2Proof/Machine/Step.lean ====
section
/-! DEFINITION. One step of the block: the command at the front of the queue, or a tick of the clock where none waits. -/
namespace Sys2Proof.Machine

/-- The step: the front command's effect with the queue's rest; on an empty queue, a tick.
DESIGN CHOICE, log entry 3. DESIGN CHOICE, log entry 8. -/
def step (s : State) : Host.Outcome State Fault Refusal :=
  match s.pending with
  | [] => .next s.tick
  | c :: rest => exec c { s with pending := rest }

/-- No row of the table gives a command's bits, so no word spells one: the state is unchanged. -/
def State.withFetchWord (s : State) (nbits w : Nat) : State :=
  match decodeTableWord nbits w with
  | some c => { s with pending := c :: s.pending }
  | none => s

end Sys2Proof.Machine
end

