-- ==== Sys2Proof/Safety.lean ====
section
/-! DEFINITION. Sound states: what the spec says holds of the package at every moment and every step keeps; the registers
that hold configuration alone. -/
namespace Sys2Proof.Machine

/-- Memory and registers are in their canonical form, so that equal contents are equal lists. -/
def Dev.Tidy (d : Dev) : Prop := d.mem.wf = true ∧ Assoc.wf regReset d.regs = true

/-- Claims of one hart, the latest first: each was claimed above the one before it (R420, R421), so that their 4-bit
priorities fall strictly and at most 15 stand open. -/
def nested : List Claim → Bool
  | [] => true
  | [c] => decide (1 ≤ c.prio ∧ c.prio ≤ 15)
  | c :: d :: cs => decide (d.prio < c.prio ∧ c.prio ≤ 15) && nested (d :: cs)

/-- A mailbox holds at most 64 packets and has a hart for its owner (R415, R430). -/
def Mailbox.sound (b : Mailbox) : Bool := decide (b.packets.length ≤ mailboxSize ∧ b.owner < 28)

/-- The mailboxes of the hub (R415). -/
def mailboxesSound (bs : List Mailbox) : Prop := bs.length = 32 ∧ ∀ b ∈ bs, b.sound = true

/-- The claims of the harts (R420). -/
def claimsSound (cs : List (List Claim)) : Prop := cs.length = 28 ∧ ∀ c ∈ cs, nested c = true

/-- A sound state: memory and registers in canonical form, 28 harts (R409), the mailboxes and the claims as R415 and R420
say. -/
structure State.Sound (s : State) : Prop where
  tidy : s.dev.Tidy
  harts : s.harts.length = 28
  mailboxes : mailboxesSound s.mbx
  claims : claimsSound s.claims

/-- The RW registers that hardware moves on its own: SEQ_HEAD (R133), CHT_POST_HEAD (R334) and FAB_CTRL, whose ENABLE the
parking of the fabric clears (R453). -/
def movedRegs : List (PageType × Nat) := [(.seq, 0x04C), (.cht, 0x0AC), (.fab, 0x044)]

/-- Every field of the register at an offset of a page is RW (R5) and hardware moves none of them. -/
def configOffset (t : PageType) (off : Nat) : Bool :=
  match rowAt (if off < 0x040 then headerRows else pageRows t) off with
  | some r => (r.fields.all fun f => f.acc == .rw) && !movedRegs.contains (t, off)
  | none => false

/-- The registers that hold configuration alone: whatever the hardware does, they read as software last wrote them (R5). -/
def configReg (a : Nat) : Bool :=
  match pageTypeOf (a / 0x1000000) with
  | some t => configOffset t (a % 0x1000)
  | none => false

/-! What an operation leaves as it was. -/

/-- The configuration registers are as they were. -/
def Dev.SameConfig (o d : Dev) : Prop := ∀ a, configReg a = true → d.reg a = o.reg a

/-- Every byte of memory outside the Logbook's region (R113) is as it was. -/
def Dev.SameMemory (o d : Dev) : Prop := ∀ a, regionOf a ≠ .logbook → d.mem.byte a = o.mem.byte a

/-- Neither configuration nor any byte outside the Logbook's region has changed. -/
def Dev.Calm (o d : Dev) : Prop := o.SameConfig d ∧ o.SameMemory d

/-- The running command of a stream and the number of its completed commands. -/
def StreamState.turn (s : StreamState) : Option Running × Nat := (s.running, s.completed)

/-- The same commands run at the same time. -/
def Dev.Steady (o d : Dev) : Prop :=
  d.seqMain.turn = o.seqMain.turn ∧ d.seqBf.turn = o.seqBf.turn ∧ d.now = o.now

/-- Memory, the streams' running commands, the time and every register but those listed are as they were. -/
def Dev.Only (o d : Dev) (as : List Nat) : Prop := d.mem = o.mem ∧ o.Steady d ∧ ∀ a, a ∉ as → d.reg a = o.reg a

/-- A stream has just issued a command whose work is done in its issue step; the other stream stands where it stood. -/
def Dev.Issued (o d : Dev) (st : Stream) (c : Decoded) : Prop :=
  (d.stream st).turn = (some ⟨c, o.now, true, false, false⟩, (o.stream st).completed) ∧
    (d.stream (otherStream st)).turn = (o.stream (otherStream st)).turn ∧ d.now = o.now

/-- A stream has just issued a command that only waits; the other stream stands where it stood. -/
def Dev.Awaits (o d : Dev) (st : Stream) (c : Decoded) : Prop :=
  (d.stream st).turn = (some ⟨c, o.now, false, true, false⟩, (o.stream st).completed) ∧
    (d.stream (otherStream st)).turn = (o.stream (otherStream st)).turn ∧ d.now = o.now

/-- A stream has just completed a command; the other stream stands where it stood. -/
def Dev.Completed (o d : Dev) (st : Stream) : Prop :=
  (d.stream st).turn = (none, (o.stream st).completed + 1) ∧
    (d.stream (otherStream st)).turn = (o.stream (otherStream st)).turn ∧ d.now = o.now

/-- The device alone has changed: the fuses, the carrier controller, the harts, the mailboxes and the claims are as they
were. -/
def State.DeviceOnly (s t : State) : Prop := t = { s with dev := t.dev }

/-- An event bit of a page stands in EV_PEND (R482). -/
def Dev.pend (d : Dev) (p : Page) (b : Nat) : Bool := d.flag (evPendReg p) b

/-- The package afresh after a reset with a cause (R409, R412): boot stage 1, memory and configuration at their reset values,
hart 24 alone released, mailboxes empty, nothing claimed; module flash, the fuses and the queue of commands kept. -/
def State.Afresh (s t : State) (cause : Nat) : Prop :=
  t.carrier.phase = .running ∧ t.carrier.cause = cause ∧ t.dev.boot.stage = 1 ∧ t.dev.code (page1 .hub) = 0 ∧
    t.dev.SameMemory (Dev.resetWith s.dev.flash s.dev.ext s.dev.now s.dev.freeCtr) ∧
    (∀ a, configReg a = true → t.dev.reg a = regReset a) ∧ t.harts = hartsReset ∧ t.mbx = mailboxesReset ∧
    t.claims = List.replicate 28 [] ∧ t.dev.flash = s.dev.flash ∧ t.fuse = s.fuse ∧ t.pending = s.pending

/-! Where operations store. -/

/-- A read of the block at `a` that is without error: of that block, no bit flipped (R116). -/
def readClean (r : BlockRead) (a : Nat) : Bool := r.flips.isEmpty && r.source / 256 == a / 256

/-- A read of a block that may lose it: neither the read nor the re-read is without error (R117). -/
def mayLose (f : BlockFinding) : Bool := !readClean f.first f.addr && !readClean f.second f.addr

/-- `a` is a byte of a block that these reads may lose, to be replaced by zeros (R119). -/
def lostBy (fs : List BlockFinding) (a : Nat) : Bool :=
  fs.any fun f => mayLose f && decide (f.addr - f.addr % 256 ≤ a ∧ a < f.addr - f.addr % 256 + 256)

/-- `a` is a byte of a line of a cluster store that this read may lose: neither it nor the re-read is without error (R123). -/
def lineLost (s : StoreFinding) (a : Nat) : Bool :=
  match s.site with
  | .core _ => false
  | .line n => !s.first.isEmpty && !s.second.isEmpty &&
      decide (storeBase + storeSpan * s.cluster + n % 0x10000 * 64 ≤ a ∧
        a < storeBase + storeSpan * s.cluster + n % 0x10000 * 64 + 64)

/-- Neither configuration nor any byte outside the Logbook's region has changed, but for the blocks that these reads may lose. -/
def Dev.CalmBut (o d : Dev) (fs : List BlockFinding) : Prop :=
  o.SameConfig d ∧ ∀ a, regionOf a ≠ .logbook → lostBy fs a = false → d.mem.byte a = o.mem.byte a

/-- These bytes stand at an address. -/
def Dev.Holds (d : Dev) (a : Nat) (bs : List Byte) : Prop := ∀ i b, bs[i]? = some b → d.mem.byte (a + i) = b

/-- No byte of a range lies in the Logbook's region. -/
def offLogbook (a n : Nat) : Prop := ∀ i, i < n → regionOf (a + i) ≠ .logbook

/-- No byte has changed outside the Logbook's region, the blocks that these reads may lose and these ranges. -/
def Dev.SameBut (o d : Dev) (fs : List BlockFinding) (ranges : List (Nat × Nat)) : Prop :=
  ∀ a, regionOf a ≠ .logbook → lostBy fs a = false → (∀ r ∈ ranges, a < r.1 ∨ r.1 + r.2 ≤ a) → d.mem.byte a = o.mem.byte a

/-- The stream has stopped before a command that it rejects: nothing runs and nothing is looked ahead, no command has completed, the
other stream runs what it ran, SEQ_REJECT and SEQ_REJECT_TAG show the reason and the tag, and its page is in FAULT (R145). -/
def Dev.Rejected (o d : Dev) (st : Stream) (reason : Nat) (tag : Word) : Prop :=
  (d.stream st).running = none ∧ (d.stream st).ahead = [] ∧ (d.stream st).completed = (o.stream st).completed ∧
    (d.stream (otherStream st)).turn = (o.stream (otherStream st)).turn ∧
    bits (d.reg (Reg.seqReject (sidx st))) 3 0 = reason % 16 ∧ d.reg (Reg.seqRejectTag (sidx st)) = tag ∧ d.code (seqPage st) = 7

/-- The bytes an operation's own checks may replace: its lost blocks (R119) and its lost lines of cluster stores (R123). -/
def replacedBy (ev : OpEvents) (a : Nat) : Bool := lostBy ev.blocks a || ev.stores.any fun s => lineLost s a

/-- `a` is a byte of the first `n` elements of a row of a tensor, stored as codes (R139). -/
def Desc.codesHave (t : Desc) (row n a : Nat) : Bool :=
  decide (t.rowAddr row ≤ a ∧ a < t.rowAddr row + elemSize t.fmt * n)

/-- `a` is a byte of the first `n` elements of a row of a tensor, stored as FP32 add-writes (R124). -/
def Desc.addsHave (t : Desc) (row n a : Nat) : Bool := decide (t.rowAddr row ≤ a ∧ a < t.rowAddr row + 4 * n)

/-- `a` is a byte of block `j` of the planes at `base`: of its elements, or its scale (R27). -/
def Desc.planeHas (t : Desc) (k : MxKind) (base j a : Nat) : Bool :=
  decide (base + k.blockBytes * j ≤ a ∧ a < base + k.blockBytes * j + k.blockBytes) || a == base + t.scalePlane + j

/-- `a` is a byte of the first `n` elements of a row of a tensor: of its codes, or, in a block format, of the row's blocks
with their scales, in both halves of a pair (R27, R36). -/
def Desc.rowHas (t : Desc) (row n a : Nat) : Bool :=
  match mxKind t.fmt with
  | none => t.codesHave row n a
  | some k => (List.range t.rowBlocks).any fun b =>
      t.planeHas k t.addr (row * t.rowBlocks + b) a ||
        (isPair t.fmt && t.planeHas k (t.addr + t.loPlane) (row * t.rowBlocks + b) a)

/-- `a` is a byte of the figures that conversion merges into an entry of the outer-scale table (R276). -/
def Dev.mergeHas (d : Dev) (ref a : Nat) : Bool :=
  decide (ref < (d.reg Reg.sxtScaleCount).toNat ∧ d.scaleEntry ref + 0x10 ≤ a ∧ a < d.scaleEntry ref + 0x18)

/-- `a` is a byte that writing the first `n` elements of some rows of a tensor stores: add-written (R124), or converted, with
the figures of its outer-scale entry. -/
def Desc.stores (t : Desc) (d : Dev) (add : Bool) (rows : List Nat) (n a : Nat) : Bool :=
  if add then rows.any fun r => t.addsHave r n a else (rows.any fun r => t.rowHas r n a) || d.mergeHas t.scaleRef a

/-- The rows of C that a product computes (R60, R66). -/
def MatmulCmd.cRows (m : MatmulCmd) : List Nat := (m.groups.map fun g => (List.range g.rows).map (g.cRow + ·)).flatten

/-- `a` is a byte that a product stores (R56, R124); a heritage product stores codes (R53). -/
def MatmulCmd.stores (m : MatmulCmd) (d : Dev) (a : Nat) : Bool :=
  match m.store, m.c with
  | true, some t =>
    if m.heritage then (m.cRows.any fun r => t.codesHave r m.b.len1 a) || d.mergeHas t.scaleRef a
    else t.stores d m.addWrite m.cRows m.b.len1 a
  | _, _ => false

/-- `a` is a byte that an output of a vector command stores: `n` elements of each of `rows` rows; kept tiles are no memory. -/
def Operand.stores (op : Operand) (d : Dev) (add : Bool) (rows n a : Nat) : Bool :=
  match op with
  | .tensor t => t.stores d add (List.range rows) n a
  | _ => false

/-- `a` is a byte that an element program stores (R89). -/
def VprogCmd.stores (p : VprogCmd) (d : Dev) (kept : Option Kept) (a : Nat) : Bool :=
  let s := (p.outs.getD 0 .absent).shapeOf kept
  (p.outs.getD 0 .absent).stores d p.addWrite s.rows s.l0 a || (p.outs.getD 1 .absent).stores d p.addWrite s.rows s.l0 a

/-- The elements of each row of outputs 0 and 1 that a kernel writes, for rows of `n` elements (R102 to R105). -/
def KernelCmd.widths (k : KernelCmd) (n : Nat) : Nat × Nat :=
  match k.kernel with
  | 0 => (n, 0)
  | 1 | 2 => (n, 2)
  | 3 => (1, 0)
  | 4 => (n, if k.subop = 1 then 0 else ceilDiv n (max 1 k.kb))
  | _ => (n, 0)

/-- `a` is a byte that a statistics kernel stores: in its outputs, in the running statistics of ATTN_STAT (R517), in the
loss output (R106). -/
def KernelCmd.stores (k : KernelCmd) (d : Dev) (kept : Option Kept) (a : Nat) : Bool :=
  let s := k.in0.shapeOf kept
  let w := k.widths s.l0
  k.out0.stores d k.addWrite s.rows w.1 a || k.out1.stores d k.addWrite s.rows w.2 a ||
    match k.kernel, k.in1, k.out0, k.out1 with
    | 3, _, .tensor t, _ => k.subop == 4 && (List.range s.rows).any fun r => t.codesHave r 1 a
    | 4, .tensor t, _, _ => k.subop != 1 && (List.range s.rows).any fun r => t.rowHas r 2 a
    | 5, _, _, .tensor t => t.codesHave 0 2 a
    | _, _, _, _ => false

/-- `a` is a byte that a COPY or TRANSPOSE stores (R143); a bit copy merges nothing. -/
def CopyCmd.stores (c : CopyCmd) (d : Dev) (a : Nat) : Bool :=
  if c.bitwise then (List.range c.dst.rows).any fun r => c.dst.rowHas r c.dst.len0 a
  else c.dst.stores d c.addWrite (List.range c.dst.rows) c.dst.len0 a

/-! Kinds of command. -/

/-- The commands that write configuration: the registers a hart writes. -/
def configures : Instr → Bool
  | .postTailWrite .. | .logDrainedWrite .. | .mgtPtpPortWrite .. | .pwrSagCfgWrite .. | .seqTailWrite ..
  | .cmpTrackRecordWrite .. | .hlmRingSlotWrite .. | .evEnWrite .. | .registerWrite .. => true
  | _ => false

/-- The commands that reset the package or cut its power. -/
def resets : Instr → Bool
  | .resetRelease .. | .softwareReset | .recoveryBundle .. | .bootStageComplete .. | .supplyRemoved | .surpriseRemoval
  | .overcurrentTrip | .powerOffRailStep => true
  | _ => false

/-- Commands that store nothing in memory but records, and zeros where a block they read is lost: control commands, timers, register
accesses, the managers. -/
def storesNothing : Instr → Bool
  | .nop .. | .fence .. | .fenceComplete .. | .flush .. | .flushComplete .. | .wait .. | .waitComplete ..
  | .waitTimeout .. | .setpred .. | .call .. | .ret .. | .commandDecode .. | .commandReject .. | .bfOverrun
  | .bfEnableEffect | .compassTimeout .. | .stop .. | .go .. | .release | .fabEnableWrite ..
  | .trainingAttemptEnd .. | .laneLockLoss .. | .parkWord .. | .linkControlWord .. | .transmitSlot ..
  | .captureReplayBlock | .postWriteAcked .. | .chartLoad .. | .chartLoadReplay .. | .chtPackageWrite .. | .leg
  | .legTimeout | .fix | .fixVote .. | .fixTimeout | .skRequest .. | .skAccept .. | .skVerdict .. | .skDecision ..
  | .skCancel .. | .skTimeout | .flushCount .. | .logNextRead .. | .logSpill | .spillComplete .. | .ptpMessage ..
  | .operationBoundary .. | .graceExpiry | .hotQuiesceWrite .. | .shedLevelEnter .. | .shedLevelLeave ..
  | .seqCounterAdd .. | .bfEnableWrite .. | .bfResume .. | .chkCoreReq .. | .pin .. | .unpin .. | .redStepNfForce ..
  | .hubIfaceOffer .. | .evForceWrite .. | .absentPageAccess .. | .accessFault .. | .mbxPutLo .. | .mbxPutHi ..
  | .mbxGetLo .. | .mbxGetHi .. | .mbxOwnerWrite .. | .irqClaim .. | .irqComplete .. | .irqSwTrigger ..
  | .irqMissedClear .. | .holdoffExpiry .. | .extInputRawChange .. | .extInputFiltered .. | .inputStuck ..
  | .ppsEdge | .refclkPresent | .refclkLoss | .dramFillComplete .. | .sramParityError .. | .supplyApplied
  | .prsntMate | .insertionDebounceEnd .. | .rampComplete | .rampFault | .rampRetry | .prsntBreak | .controlledPowerOff
  | .sagRestart .. | .thermalTrip .. | .tripRestart | .railFault .. | .powerManagerPeriod .. | .thermalPeriod ..
  | .cycleStretch .. | .registerLoRead .. | .rollCall | .mgtLinkChange .. | .tlsHandshake ..
  | .attestationRequest .. | .debugUnlockToken .. => true
  | _ => false

/-- The reads of DRAM blocks that the commands among those bring with them (R117). -/
def blocksRead : Instr → List BlockFinding
  | .setpred _ blocks | .commandDecode _ blocks | .chartLoad _ _ blocks | .chartLoadReplay _ _ blocks
  | .postWriteAcked blocks => blocks
  | _ => []

end Sys2Proof.Machine
end

