-- ==== Sys2Proof/Certificates/Slice0/Obligations.lean ====
section
/-! DEFINITION. The statements for the provers: what the block does on each command, by the numbered rules of the spec. -/
open Sys2Proof Sys2Proof.Machine

/-! The machine. -/

/-- A step with a command at the front of the queue is that command's effect on the state with the queue's rest. -/
def Obligations.StepRunsFrontCommand : Prop :=
  ∀ (s : State) (c : Instr) (rest : List Instr), s.pending = c :: rest → step s = exec c { s with pending := rest }

/-- On an empty queue one step is a tick of 1 ns (the model's choice: log entry 3): it moves the time alone, but for the
flush that goes on in a package whose reset is released; no configuration register and no byte outside the Logbook's region
changes. -/
def Obligations.EmptyQueueTicks : Prop :=
  ∀ s : State, s.pending = [] → s.dev.Tidy → ∃ d, step s = .next { s with dev := d } ∧ d.now = s.dev.now + 1 ∧
    s.dev.SameConfig d ∧ s.dev.SameMemory d ∧ (s.carrier.phase ≠ .running → d = { s.dev with now := s.dev.now + 1 })

/-- The state after reset is sound. -/
def Obligations.ResetIsSound : Prop := State.reset.Sound

/-- Every step keeps a sound state sound: memory and registers in canonical form, 28 harts, mailboxes of at most 64 packets
with a hart for owner (R415), claims whose priorities fall strictly from the latest down (R420, R421). -/
def Obligations.EveryStepKeepsSound : Prop := ∀ s t : State, s.Sound → step s = .next t → t.Sound

/-- Every command answers a next state, and none touches the queue of the commands that wait (the model's choice: log
entry 1). -/
def Obligations.CommandsComplete : Prop := ∀ (c : Instr) (s : State), ∃ t, exec c s = .next t ∧ t.pending = s.pending

/-- A configuration register, one whose fields are all RW (R5) and which no hardware moves, reads after a command as before
it, whatever the command, but for the commands that are writes of a hart to configuration and those that reset the package. -/
def Obligations.ConfigurationIsSoftwares : Prop :=
  ∀ (c : Instr) (s t : State), s.dev.Tidy → configures c = false → resets c = false → exec c s = .next t →
    s.dev.SameConfig t.dev

/-- The commands that store nothing leave every byte outside the Logbook's region as it was, but for the blocks that their own
reads lose (R119). -/
def Obligations.CommandsThatStoreNothing : Prop :=
  ∀ (c : Instr) (s t : State), s.dev.Tidy → storesNothing c = true → exec c s = .next t →
    ∀ a, regionOf a ≠ .logbook → lostBy (blocksRead c) a = false → t.dev.mem.byte a = s.dev.mem.byte a

/-- With 54 V absent the package does nothing and answers nothing: every command but the coming of the supply and the seating of
the package leaves the state as it is, and those two change only the carrier controller's phase and PRSNT_N's own state; the supply
coming takes a seated package to the debounce and any other to wait for PRSNT_N (R450); and the loss of the supply leaves of the
package only what its flash holds, its fuses, its seating and the commands that wait aside. -/
def Obligations.DarkPackage : Prop :=
  (∀ (c : Instr) (s : State), s.carrier.phase = .dark → c ≠ .supplyApplied → c ≠ .prsntMate → c ≠ .prsntBreak →
      exec c s = .next s) ∧
    (∀ s : State, s.carrier.phase = .dark →
      exec .prsntMate s = .next { s with carrier := { s.carrier with mated := true } } ∧
      exec .prsntBreak s = .next { s with carrier := { s.carrier with mated := false } } ∧
      exec .supplyApplied s = .next { s with carrier := { s.carrier with
        phase := (if s.carrier.mated then .debounce else .unmated)
        since := s.dev.now } }) ∧
    ∀ s : State, s.carrier.phase ≠ .dark → ∃ t, exec .supplyRemoved s = .next t ∧ t.carrier.phase = .dark ∧
      t.carrier = { s.carrier.unpowered with since := s.dev.now } ∧ t.pending = s.pending ∧ t.fuse = s.fuse ∧
      t.harts = (List.range 28).map (fun _ => Hart.reset false) ∧ t.mbx = mailboxesReset ∧ t.claims = List.replicate 28 [] ∧
      t.dev = { Dev.resetWith s.dev.cutSpill.flash [] s.dev.now s.dev.cutSpill.freeCtr with ext := List.replicate 5 ExtInput.reset }

/-! The sequencer. -/

/-- NOP, CALL and RETURN complete as they issue (R140, R135): the stream's next command is over and counted as completed, a CALL
leaves the stream at the first command of its list, one deeper, with SEQ_HEAD as it was, and a RETURN after the CALL that it returns
from; the other stream runs what it ran, no configuration register and no byte outside the Logbook's region changes. -/
def Obligations.ControlCommandsComplete : Prop :=
  ∀ (s : State) (st : Stream) (c : Decoded), s.carrier.phase = .running → s.dev.Tidy → s.dev.next? st = some c →
    (c.cmd = .nop →
      ∃ d, exec (.nop st) s = .next { s with dev := d } ∧ s.dev.Completed d st ∧ s.dev.Calm d) ∧
    (∀ k, c.cmd = .call k →
      ∃ d, exec (.call st) s = .next { s with dev := d } ∧ s.dev.Completed d st ∧ s.dev.Calm d ∧
        (d.stream st).frames = ⟨k.list, 0, k.count, k.dtable, k.dcount⟩ :: (s.dev.stream st).frames ∧
        d.reg (Reg.seqHead (sidx st)) = s.dev.reg (Reg.seqHead (sidx st))) ∧
    (c.cmd = .ret →
      ∃ d, exec (.ret st) s = .next { s with dev := d } ∧ s.dev.Completed d st ∧ s.dev.Calm d ∧
        d.place st = nextIn (s.dev.ringSize st) (s.dev.place st).head (s.dev.place st).frames.tail)

/-- FENCE, FLUSH and WAIT issue and wait (R149, R150, R151): the stream runs them and does no work, and no configuration register
and no byte outside the Logbook's region changes; a WAIT whose condition holds as it issues completes at once. -/
def Obligations.WaitingCommandsIssue : Prop :=
  ∀ (s : State) (st : Stream) (c : Decoded), s.carrier.phase = .running → s.dev.Tidy → s.dev.next? st = some c →
    (∀ v, c.cmd = .fence v →
      ∃ d, exec (.fence st) s = .next { s with dev := d } ∧ s.dev.Awaits d st c ∧ s.dev.Calm d) ∧
    (c.cmd = .flush →
      ∃ d, exec (.flush st) s = .next { s with dev := d } ∧ s.dev.Awaits d st c ∧ s.dev.Calm d) ∧
    (∀ w, c.cmd = .wait w → s.dev.waitHolds st w = false →
      ∃ d, exec (.wait st) s = .next { s with dev := d } ∧ s.dev.Awaits d st c ∧ s.dev.Calm d) ∧
    (∀ w, c.cmd = .wait w → s.dev.waitHolds st w = true →
      ∃ d, exec (.wait st) s = .next { s with dev := d } ∧ s.dev.Completed d st ∧ s.dev.Calm d)

/-- A FENCE, a FLUSH or a WAIT that waits completes: the FENCE with its VALUE in SEQ_FENCE_VALUE and FENCE_DONE pending
(R149), the FLUSH with the look-ahead discarded and SEQ_FENCE_VALUE as it was (R150), the WAIT once its condition holds
(R151). A WAIT that has not completed after TIMEOUT_US is rejected with reason TIMEOUT (R151, R145): the stream stops before it,
with nothing looked ahead, and its page enters FAULT. -/
def Obligations.WaitsEnd : Prop :=
  (∀ (s : State) (st : Stream) (r : Running), s.carrier.phase = .running → s.dev.Tidy → s.dev.waits st = some r →
    (∀ v, r.dec.cmd = .fence v →
      ∃ d, exec (.fenceComplete st) s = .next { s with dev := d } ∧ s.dev.Completed d st ∧ s.dev.Calm d ∧
        d.reg (Reg.seqFenceValue (sidx st)) = v ∧ d.pend (seqPage st) 1 = true) ∧
    (r.dec.cmd = .flush →
      ∃ d, exec (.flushComplete st) s = .next { s with dev := d } ∧ s.dev.Completed d st ∧ s.dev.Calm d ∧
        (d.stream st).ahead = [] ∧ d.reg (Reg.seqFenceValue (sidx st)) = s.dev.reg (Reg.seqFenceValue (sidx st))) ∧
    (∀ w, r.dec.cmd = .wait w → s.dev.waitHolds st w = true →
      ∃ d, exec (.waitComplete st) s = .next { s with dev := d } ∧ s.dev.Completed d st ∧ s.dev.Calm d)) ∧
    ∀ (s : State) (st : Stream) (r : Running) (w : WaitCmd), s.carrier.phase = .running → s.dev.Tidy →
      s.dev.waits st = some r → r.dec.cmd = .wait w → w.timeoutUs ≠ 0 → r.issued + us w.timeoutUs ≤ s.dev.now →
      s.dev.waitHolds st w = false →
      ∃ d, exec (.waitTimeout st) s = .next { s with dev := d } ∧ s.dev.Calm d ∧ s.dev.Rejected d st rTimeout r.dec.tag

/-- A command that the decoder refused is rejected when its turn comes (R145, R146): the stream stops before it with its
reason and its TAG shown, and its page enters FAULT. -/
def Obligations.RefusedCommandRejected : Prop :=
  ∀ (s : State) (st : Stream) (reason sub addr depth : Nat) (tag : Word) (rest : List Ahead),
    s.carrier.phase = .running → s.dev.Tidy → (s.dev.stream st).running = none →
    (s.dev.stream st).ahead = .bad reason sub addr depth tag :: rest → s.dev.active (seqPage st) = true →
    ∃ d, exec (.commandReject st) s = .next { s with dev := d } ∧ s.dev.Calm d ∧ s.dev.Rejected d st reason tag

/-- SETPRED writes its predicate and no other (R152, R153, R156): from its VALUE, from a word of memory, from an empty slot of
the FINAL record of its stream's latest ROUTE, or from a counter that has reached a value, as memory stands after the checks of the
blocks that it reads. From a grant record it waits until the record is FINAL, and it is rejected with reason FIELD where its stream
has issued no ROUTE. -/
def Obligations.SetpredWritesItsPredicate : Prop :=
  (∀ (s : State) (st : Stream) (c : Decoded) (p : SetpredCmd) (blocks : List BlockFinding) (e : Dev) (v : Bool),
    s.carrier.phase = .running → s.dev.Tidy → s.dev.current st = some c → c.cmd = .setpred p → 0 < p.target → p.target < 64 →
    e = s.dev.found [] blocks →
    (p.source = 0 ∧ v = (p.value % 2 == 1) ∨
      p.source = 1 ∧ v = (readNat (e.operandSource st c).1 p.addr 4 != 0) ∨
      (p.source = 2 ∧ ∃ ls mb, (e.stream st).lastRoute = some (ls, mb) ∧ e.recordFinal ls mb = true ∧
        v = (slotRows e.src (e.recordAddr ls mb) p.index == 0)) ∨
      p.source = 3 ∧ v = decide (p.value ≤ (e.reg (Reg.seqCounter (sidx st) p.index)).toNat)) →
    ∃ d, exec (.setpred st blocks) s = .next { s with dev := d } ∧ s.dev.Completed d st ∧ s.dev.CalmBut d blocks ∧
      d.pred st p.target = v ∧ ∀ n, n < 64 → n ≠ p.target → d.pred st n = s.dev.pred st n) ∧
    ∀ (s : State) (st : Stream) (c : Decoded) (p : SetpredCmd) (blocks : List BlockFinding) (e : Dev),
      s.carrier.phase = .running → s.dev.Tidy → s.dev.next? st = some c → c.cmd = .setpred p → p.source = 2 →
      e = s.dev.found [] blocks →
      (∀ ls mb, (e.stream st).lastRoute = some (ls, mb) → e.recordFinal ls mb = false →
        ∃ d, exec (.setpred st blocks) s = .next { s with dev := d } ∧ s.dev.Awaits d st c ∧ s.dev.CalmBut d blocks) ∧
      ((e.stream st).lastRoute = none →
        ∃ d, exec (.setpred st blocks) s = .next { s with dev := d } ∧ s.dev.CalmBut d blocks ∧ s.dev.Rejected d st rField c.tag)

/-- STAMP copies LENGTH bytes of its template, as memory stands after the checks of the blocks that it reads, with its entries put in
(R154, R155): they stand at the destination, every other byte outside the Logbook's region and the blocks that its reads lose is as
it was, and the command is over; where an entry's value is negative or does not fit, it is rejected with reason STAMP; and where its
entries read a grant record that is not FINAL it waits (R181). -/
def Obligations.StampWritesItsCopy : Prop :=
  ∀ (s : State) (st : Stream) (c : Decoded) (p : StampCmd) (blocks : List BlockFinding) (e : Dev),
    s.carrier.phase = .running → s.dev.Tidy → s.dev.current st = some c → c.cmd = .stamp p →
    e = s.dev.found [(p.dest, p.length)] blocks →
    ((p.entries.any StampEntry.grant = true → e.recordFinal p.layerSlot p.microbatch = true) →
      (∀ bs, e.stampEntries st (e.recordAddr p.layerSlot p.microbatch) p.entries
          (readBytes (e.operandSource st c).1 p.template p.length) = some bs →
        ∃ d, exec (.stamp st blocks) s = .next { s with dev := d } ∧ s.dev.Completed d st ∧ s.dev.SameConfig d ∧
          (offLogbook p.dest bs.length → d.Holds p.dest bs) ∧ s.dev.SameBut d blocks [(p.dest, bs.length)]) ∧
      (e.stampEntries st (e.recordAddr p.layerSlot p.microbatch) p.entries
          (readBytes (e.operandSource st c).1 p.template p.length) = none →
        ∃ d, exec (.stamp st blocks) s = .next { s with dev := d } ∧ s.dev.SameConfig d ∧ s.dev.Rejected d st rStamp c.tag ∧
          s.dev.SameBut d blocks [(p.dest, p.length)])) ∧
    (s.dev.next? st = some c → p.entries.any StampEntry.grant = true → e.recordFinal p.layerSlot p.microbatch = false →
      ∃ d, exec (.stamp st blocks) s = .next { s with dev := d } ∧ s.dev.Awaits d st c ∧ s.dev.CalmBut d blocks)

/-- A stream with nothing running and nothing looked ahead fetches the command at its head and decodes it, as memory stands after the
checks of the blocks that the fetch reads (R134, R144): it stands looked ahead, or, where its predicate says no, it is skipped
(R152); an XCHG whose record is neither FINAL nor abandoned is left for later (R194); the streams run what they ran, and no
configuration register and no byte outside the Logbook's region and the blocks that are lost changes. -/
def Obligations.HeadCommandDecoded : Prop :=
  ∀ (s : State) (st : Stream) (a : Ahead) (blocks : List BlockFinding) (e : Dev), s.carrier.phase = .running → s.dev.Tidy →
    e = s.dev.found [] blocks → e.active (seqPage st) = true → e.halted = false → (e.stream st).running = none →
    (e.stream st).ahead = [] → e.covered st (e.place st) = true →
    a = decodeCommand (e.decodeCtx s.fuse st e.src (e.place st)) (e.placeAddr st (e.place st)) false
      (readBytes e.src (e.placeAddr st (e.place st)) 64) →
    (e.recordPending a = false →
      ∃ d, exec (.commandDecode st blocks) s = .next { s with dev := d } ∧ s.dev.Steady d ∧ s.dev.CalmBut d blocks ∧
        ((∀ c, a = .ok c → e.runs st c = true) → (d.stream st).ahead = [a]) ∧
        (∀ c, a = .ok c → e.runs st c = false →
          (d.stream st).ahead = [] ∧ (d.stream st).skipped = (s.dev.stream st).skipped + 1)) ∧
    (e.recordPending a = true → exec (.commandDecode st blocks) s = .next { s with dev := e })

/-- The work of a running command is over: its stream is at the boundary between operations (R13), the command is counted and,
where it asks for it, NOTIFY is pending (R137), but for a ROUTE whose COUNT sets the ports have not yet all accepted, which stays as
it is (R182); the other stream runs what it ran, and no configuration register and no byte outside the Logbook's region changes. -/
def Obligations.OperationReachesItsBoundary : Prop :=
  ∀ (s : State) (st : Stream) (r : Running), s.carrier.phase = .running → s.dev.Tidy →
    (s.dev.stream st).running = some r → r.done = true →
    (s.dev.boundaryHeld r.dec.cmd = false →
      ∃ d, exec (.operationBoundary st) s = .next { s with dev := d } ∧ s.dev.Completed d st ∧ s.dev.Calm d ∧
        (d.reg (Reg.seqCmdCount (sidx st))).toNat = ((s.dev.reg (Reg.seqCmdCount (sidx st))).toNat + 1) % 2 ^ 32 ∧
        (r.dec.notify = true → d.pend (seqPage st) 2 = true)) ∧
    (s.dev.boundaryHeld r.dec.cmd = true → exec (.operationBoundary st) s = .next s)

/-- The backfill stream's limits: a command that has run longer than its limit is counted once, sets SUSP_OVERRUN and event 5
(R160); EFFECTIVE follows ENABLE between two commands, and what was decoded ahead is decoded again (R162). -/
def Obligations.BackfillLimits : Prop :=
  ∀ s : State, s.carrier.phase = .running → s.dev.Tidy →
    (∀ r, s.dev.seqBf.running = some r → r.overran = false → s.dev.bfLimit < s.dev.now - r.issued →
      ∃ d, exec .bfOverrun s = .next { s with dev := d } ∧ s.dev.Calm d ∧ d.seqMain.turn = s.dev.seqMain.turn ∧
        d.seqBf.turn = (some { r with overran := true }, s.dev.seqBf.completed) ∧
        d.reg (Reg.seqBfOverruns 1) = BitVec.ofNat 32 (min ((s.dev.reg (Reg.seqBfOverruns 1)).toNat + 1) 0xFFFFFFFF) ∧
        d.flag (Reg.seqBfStatus 1) 1 = true ∧ d.pend (seqPage .backfill) 5 = true) ∧
    (s.dev.flag (Reg.seqBfCtrl 1) 0 ≠ s.dev.bfEffective → s.dev.seqBf.running = none → s.dev.quiet .main = true →
      ∃ d, exec .bfEnableEffect s = .next { s with dev := d } ∧ s.dev.Only d [Reg.seqBfStatus 1] ∧
        d.bfEffective = s.dev.flag (Reg.seqBfCtrl 1) 0 ∧ d.seqMain.ahead = [] ∧ d.seqBf.ahead = [])

/-- A hart commands the streams: a TAIL within the ring is taken and any other raises event 4 (R133, R163), COUNTER_ADD raises a
counter, saturating (R138), and BF_CTRL takes ENABLE at once while RESUME clears SUSP_OVERRUN (R160, R162). -/
def Obligations.HartsCommandTheStreams : Prop :=
  ∀ (s : State) (hart : Fin 28) (st : Stream) (v : Word), (s.liveHart hart).isSome = true → s.dev.Tidy →
    (bits v 19 0 < s.dev.ringSize st →
      ∃ d, exec (.seqTailWrite hart st v) s = .next { s with dev := d } ∧ s.dev.Only d [Reg.seqTail (sidx st)] ∧
        d.fld (Reg.seqTail (sidx st)) 19 0 = bits v 19 0) ∧
    (s.dev.ringSize st ≤ bits v 19 0 →
      ∃ d, exec (.seqTailWrite hart st v) s = .next { s with dev := d } ∧ s.dev.Steady d ∧ s.dev.SameMemory d ∧
        d.reg (Reg.seqTail (sidx st)) = s.dev.reg (Reg.seqTail (sidx st)) ∧ d.pend (seqPage st) 4 = true) ∧
    (∃ d, exec (.seqCounterAdd hart st v) s = .next { s with dev := d } ∧
        s.dev.Only d [Reg.seqCounter (sidx st) (bits v 3 0)] ∧
        (d.reg (Reg.seqCounter (sidx st) (bits v 3 0))).toNat =
          min ((s.dev.reg (Reg.seqCounter (sidx st) (bits v 3 0))).toNat + bits v 31 8) 0xFFFFFFFF) ∧
    ∀ c, c = .bfEnableWrite hart v ∨ c = .bfResume hart v ∧ bit v 16 = true →
      ∃ d, exec c s = .next { s with dev := d } ∧ s.dev.Only d [Reg.seqBfCtrl 1, Reg.seqBfStatus 1] ∧
        d.flag (Reg.seqBfCtrl 1) 0 = bit v 0 ∧ d.flag (Reg.seqBfCtrl 1) 16 = false ∧
        d.flag (Reg.seqBfStatus 1) 1 = (s.dev.flag (Reg.seqBfStatus 1) 1 && !bit v 16)

/-! Legs and fixes. -/

/-- A LEG issues and waits for its switch (R331); it is rejected with reason FIELD where the Chart page is not ACTIVE, the Logbook's is
READY, or, for an ingest LEG, the Sextant's is not ACTIVE; it is held for ring space (R351), and the LEG that begins a step while a
hold of the second key stands (R383). -/
def Obligations.LegIssues : Prop :=
  ∀ (s : State) (c : Decoded) (l : LegCmd), s.carrier.phase = .running → s.dev.Tidy → s.dev.next? .main = some c →
    c.cmd = .leg l →
    (s.dev.logShort = false → (s.dev.legBegins l.leg = true → s.dev.skyMode = 0 → s.dev.sky.holds = []) →
      s.dev.active chtPage = true → s.dev.ready logPage = false → (l.leg = 0 → s.dev.active sxtPage = true) →
      ∃ d, exec .leg s = .next { s with dev := d } ∧ s.dev.Awaits d .main c ∧ s.dev.Calm d ∧
        ∃ r, d.cht.leg = some r ∧ r.cmd = l ∧ r.begins = s.dev.legBegins l.leg ∧ r.phase = .waiting) ∧
    (s.dev.logShort = false → (s.dev.legBegins l.leg = true → s.dev.skyMode = 0 → s.dev.sky.holds = []) →
      s.dev.active chtPage = false ∨ s.dev.ready logPage = true ∨ l.leg = 0 ∧ s.dev.active sxtPage = false →
      ∃ d, exec .leg s = .next { s with dev := d } ∧ s.dev.Calm d ∧ s.dev.Rejected d .main rField c.tag) ∧
    (s.dev.logShort = true → s.dev.log.stallSince = none →
      ∃ d, exec .leg s = .next { s with dev := d } ∧ s.dev.Steady d ∧ s.dev.Calm d ∧ d.log.stallSince = some s.dev.now ∧
        d.reg Reg.logStalls = BitVec.ofNat 32 (min ((s.dev.reg Reg.logStalls).toNat + 1) 0xFFFFFFFF)) ∧
    (s.dev.logShort = true → s.dev.log.stallSince ≠ none → exec .leg s = .next s) ∧
    (s.dev.logShort = false → s.dev.legBegins l.leg = true → s.dev.skyMode = 0 → s.dev.sky.holds ≠ [] →
      ∃ d, exec .leg s = .next { s with dev := d } ∧ s.dev.Steady d ∧ s.dev.Calm d ∧ d.flag Reg.skyStatus 13 = true)

/-- The Chart switch of a LEG (R330, R332): once nothing of the incoming classes is queued or unacknowledged, CHT_GOVERN,
CHT_LEG and CHT_STEP take the LEG's charts, number and step and no other register changes, a witness's replay leaving CHT_GOVERN as
it is; the LEG stands at its barrier, with nothing posted where its Charts govern class 4; in NORMAL mode the barrier begins, while
a replay's LEG is over at once (R381). Until the classes have drained nothing happens. -/
def Obligations.LegSwitches : Prop :=
  ∀ (s : State) (c : Decoded) (r : LegRun) (blocks : List BlockFinding), s.carrier.phase = .running → s.dev.Tidy →
    s.dev.runningLeg = some (c, r) → r.phase = .waiting →
    ((∀ k ∈ s.dev.incoming r.cmd, s.dev.classDrained k = true) →
      ∃ e d x q, e = s.dev.found [] blocks ∧ d = e.switchCharts r.cmd ∧ q = d.switchedRun r ∧ x = d.toBarrier q ∧
        exec (.legSwitch blocks) s = .next { s with dev :=
          if e.skyMode = 0 then x.dropBarriers.runBarrier else x.legDone c q } ∧
        s.dev.Steady x ∧ s.dev.CalmBut x blocks ∧
        e.Only d [Reg.chtGovern, Reg.chtLeg, Reg.chtStepLo, Reg.chtStepLo + 4] ∧
        (e.skyMode ≠ 1 → d.reg Reg.chtGovern = e.newGovern r.cmd) ∧ (e.skyMode = 1 → d.reg Reg.chtGovern = e.reg Reg.chtGovern) ∧
        d.reg Reg.chtLeg = BitVec.ofNat 32 r.cmd.leg ∧ d.pair Reg.chtStepLo = r.cmd.step.toNat ∧ q.cmd = r.cmd ∧
        q.phase = .barrier ∧ q.switched = s.dev.now ∧ x.cht.leg = some q ∧
        (4 ∈ d.incoming r.cmd → x.cht.unbarred = true)) ∧
    ((∃ k ∈ s.dev.incoming r.cmd, s.dev.classDrained k = false) → exec (.legSwitch blocks) s = .next s)

/-- A FIX in a job's first legs has nothing to fix and is over at once: SKY_FIXED stays (R18, R372), as it does in a replay's FIX
(R381); from the LAG-th leg on it starts the vote with its own figures (R373); where the SKY page is not ACTIVE it is rejected with
reason FIELD. -/
def Obligations.FixIssues : Prop :=
  ∀ (s : State) (c : Decoded) (x : FixCmd), s.carrier.phase = .running → s.dev.Tidy → s.dev.next? .main = some c →
    c.cmd = .fix x →
    (s.dev.active skyPage = true → s.dev.skyMode = 0 → x.step.toNat < s.dev.sky.firstStep + s.dev.lag →
      ∃ d, exec .fix s = .next { s with dev := d } ∧ s.dev.Completed d .main ∧ s.dev.Calm d ∧
        d.lastFixed = s.dev.lastFixed ∧ d.sky.fix = none) ∧
    (s.dev.active skyPage = true → s.dev.skyMode ≠ 0 →
      ∃ d, exec .fix s = .next { s with dev := d } ∧ s.dev.Completed d .main ∧ s.dev.Calm d ∧ d.lastFixed = s.dev.lastFixed) ∧
    (s.dev.active skyPage = true → s.dev.skyMode = 0 → s.dev.sky.firstStep + s.dev.lag ≤ x.step.toNat →
      ∃ d : Dev, s.dev.Awaits d .main c ∧ s.dev.Calm d ∧ d.sky.fix = some ⟨x, s.dev.now, false, 0⟩ ∧
        exec .fix s = .next { s with dev := d.runVote s.fuse }) ∧
    (s.dev.active skyPage = false →
      ∃ d, exec .fix s = .next { s with dev := d } ∧ s.dev.Calm d ∧ s.dev.Rejected d .main rField c.tag)

/-- A LEG at its barrier, a FIX in its vote, that have not completed after their TIMEOUT_US, or after CHT_TIMEOUT.US where that
is 0, are rejected with reason TIMEOUT (R331, R339, R372): the stream stops before them, its page enters FAULT and the barrier or
the vote is over. -/
def Obligations.LegAndFixTimeOut : Prop :=
  ∀ (s : State) (c : Decoded), s.carrier.phase = .running → s.dev.Tidy →
    (∀ r, s.dev.runningLeg = some (c, r) → r.phase = .barrier →
      r.switched + us (if r.cmd.timeoutUs = 0 then max 1 (s.dev.fld Reg.chtTimeout 19 0) else r.cmd.timeoutUs) ≤ s.dev.now →
      ∃ d, exec .legTimeout s = .next { s with dev := d } ∧ s.dev.Calm d ∧ s.dev.Rejected d .main rTimeout c.tag ∧
        d.cht.leg = none ∧ d.cht.barriers = []) ∧
    ∀ r, s.dev.runningFix = some (c, r) →
      r.issued + us (if r.cmd.timeoutUs = 0 then max 1 (s.dev.fld Reg.chtTimeout 19 0) else r.cmd.timeoutUs) ≤ s.dev.now →
      ∃ d, exec .fixTimeout s = .next { s with dev := d } ∧ s.dev.Calm d ∧ s.dev.Rejected d .main rTimeout c.tag ∧
        d.sky.fix = none ∧ d.sky.votes = []

/-- A message of a barrier, of a vote or of the flush is taken from its port and carries its tree on: an older one of the
barrier or the vote is stray (R333, R373), and any other takes the place of what its sender sent before in its direction, and the
barrier, the vote or the flush goes on as far as what has come allows. -/
def Obligations.CollectiveMessages : Prop :=
  ∀ (s : State) (m : Packet), s.carrier.phase = .running → s.dev.Tidy → s.dev.has m = true → m.cls = 0 →
    (∀ (blocks : List BlockFinding) (d : Dev), u8 m.body 0 = 30 → d = (s.dev.found [] blocks).takePacket m →
      (d.barrierOlder m.body = true → exec (.barrier m blocks) s = .next { s with dev := d.stray }) ∧
      (d.barrierOlder m.body = false →
        ∃ e : Dev, exec (.barrier m blocks) s = .next { s with dev := e.runBarrier } ∧
          s.dev.Steady e ∧ s.dev.CalmBut e blocks ∧ e = { d with cht := { d.cht with barriers := e.cht.barriers } } ∧
          treeMsg e.cht.barriers (u16 m.body 4) (u8 m.body 1) = some ⟨u16 m.body 4, m.body⟩ ∧
          ∀ p dir, p ≠ u16 m.body 4 ∨ dir ≠ u8 m.body 1 → treeMsg e.cht.barriers p dir = treeMsg d.cht.barriers p dir)) ∧
    ∀ d : Dev, d = s.dev.takePacket m →
      (u8 m.body 0 = 32 → olderStep d.step (u16 m.body 6) = true → exec (.fixVote m) s = .next { s with dev := d.stray }) ∧
      (u8 m.body 0 = 32 → olderStep d.step (u16 m.body 6) = false →
        ∃ e : Dev, exec (.fixVote m) s = .next { s with dev := e.runVote s.fuse } ∧
          e = { d with sky := { d.sky with votes := e.sky.votes } } ∧
          treeMsg e.sky.votes (u16 m.body 4) (u8 m.body 1) = some ⟨u16 m.body 4, m.body⟩ ∧
          ∀ p dir, p ≠ u16 m.body 4 ∨ dir ≠ u8 m.body 1 → treeMsg e.sky.votes p dir = treeMsg d.sky.votes p dir) ∧
      (u8 m.body 0 = 33 →
        ∃ e : Dev, exec (.flushCount m) s = .next { s with dev := Dev.runFlush 2 e } ∧
          e = { d with sky := { d.sky with flushMsgs := e.sky.flushMsgs } } ∧
          treeMsg e.sky.flushMsgs (u16 m.body 4) (u8 m.body 1) = some ⟨u16 m.body 4, m.body⟩ ∧
          ∀ p dir, p ≠ u16 m.body 4 ∨ dir ≠ u8 m.body 1 → treeMsg e.sky.flushMsgs p dir = treeMsg d.sky.flushMsgs p dir)

/-- The messages of the second key (R380 to R383): a request is kept where fewer than four stand, with its event; a refusal and a
timeout decide a rollback; an equal verdict drops the request and withdraws the suspicion, an unequal one asks for the third
computation; a decision is awaited, else stray: THIRD holds the steps after it, ROLLBACK begins the rollback, each with its event,
as FIX has; a cancelled job is dropped; and a message whose reserved fields are set leaves the SKY page in FAULT. -/
def Obligations.SecondKeyMessages : Prop :=
  ∀ (s : State) (m : Packet) (d : Dev) (x : SkMsg), s.carrier.phase = .running → s.dev.Tidy → s.dev.has m = true →
    m.cls = 0 → d = s.dev.takePacket m → x = skOf m.body →
    (skFieldsOk m.body = true →
      (u8 m.body 0 = 34 → ∃ e, exec (.skRequest m) s = .next { s with dev := e } ∧ s.dev.Calm e ∧ e.pend skyPage 6 = true ∧
        e.sky.jobs = if 4 ≤ d.sky.jobs.length then d.sky.jobs else d.sky.jobs ++ [⟨x.suspect, x.step, x.digests⟩]) ∧
      (u8 m.body 0 = 35 → ∀ r, d.request x.step = some r → x.suspect = d.number → r.cause = 0 →
        ∃ e, exec (.skAccept m) s = .next { s with dev := e } ∧ s.dev.Calm e ∧
          (x.code = 1 → e.request x.step = some { r with cause := 3 }) ∧ (x.code = 0 → e = d)) ∧
      (u8 m.body 0 = 36 → ∀ r, d.request x.step = some r → x.suspect = d.number → r.cause = 0 →
        ∃ e, exec (.skVerdict m) s = .next { s with dev := e } ∧ s.dev.Calm e ∧
          (x.code = 0 → e.request x.step = none ∧ x.step ∉ e.sky.suspect) ∧
          (x.code = 1 → e.request x.step = some { r with witness := some x.digests, third := true })) ∧
      (u8 m.body 0 = 37 → (d.sky.awaiting.any fun y => y.1 == x.step) = true →
        ∃ e, exec (.skDecision m) s = .next { s with dev := e } ∧ s.dev.Calm e ∧ e.pend skyPage 4 = true ∧
          (x.code = 1 → e.sky.holds = (x.suspect, x.step) :: d.sky.holds) ∧
          (x.code = 2 → e.sky.rollback = true ∧ e.sky.requests = [] ∧ e.sky.holds = [])) ∧
      (u8 m.body 0 = 37 → (d.sky.awaiting.any fun y => y.1 == x.step) = false →
        exec (.skDecision m) s = .next { s with dev := d.stray }) ∧
      (u8 m.body 0 = 38 →
        exec (.skCancel m) s = .next { s with dev := { d with sky := { d.sky with
          jobs := d.sky.jobs.filter fun j => !(j.suspect == x.suspect && j.step == x.step) } } })) ∧
    (skFieldsOk m.body = false → ∀ i, (u8 m.body 0, i) ∈ [(34, Instr.skRequest m), (35, .skAccept m), (36, .skVerdict m),
        (37, .skDecision m), (38, .skCancel m)] →
      ∃ e, exec i s = .next { s with dev := e } ∧ s.dev.Calm e ∧ e.code skyPage = 7) ∧
    ∀ r, s.dev.sky.requests.find? (fun r => !r.third ∧ r.cause = 0 ∧
        r.since + ms (max 1 (s.dev.fld Reg.skyTimeout 19 0)) ≤ s.dev.now) = some r →
      ∃ e, exec .skTimeout s = .next { s with dev := e } ∧ s.dev.Calm e ∧ e.request r.step = some { r with cause := 3 }

/-! Operations. -/

/-- A product issues and its work is done in its issue step (the model's choice: log entry 1): it changes no configuration
register and no byte but those of C that it stores (R56, R60, R66, R124), the figures of C's outer-scale entry (R276), those
that its own checks replace (R119, R123) and the Logbook's region; the heritage products store codes (R53). -/
def Obligations.ProductsIssue : Prop :=
  ∀ (s : State) (st : Stream) (c : Decoded) (m : MatmulCmd) (ev : OpEvents), s.carrier.phase = .running → s.dev.Tidy →
    s.dev.next? st = some c → c.cmd = .matmul m →
    ∃ d, exec (if m.heritage then .matmulH st ev else .matmul st ev) s = .next { s with dev := d } ∧
      d = s.dev.operate s.fuse st c m.written ev (fun src e =>
        if m.heritage then e.heritageEffect s.fuse st c m src ev else e.matmulEffect s.fuse st c m src ev) ∧
      s.dev.Issued d st c ∧ s.dev.SameConfig d ∧
      ∀ a, regionOf a ≠ .logbook → m.stores s.dev a = false → replacedBy ev a = false → d.mem.byte a = s.dev.mem.byte a

/-- The vector array's commands issue and their work is done in their issue step: an element program (R89) and the statistics
kernels (R102 to R106) change no configuration register and no byte but those that they store, those that their own checks
replace and the Logbook's region. -/
def Obligations.VectorCommandsIssue : Prop :=
  ∀ (s : State) (st : Stream) (c : Decoded) (ev : OpEvents), s.carrier.phase = .running → s.dev.Tidy →
    s.dev.next? st = some c →
    (∀ p, c.cmd = .vprog p →
      ∃ d, exec (.vprog st ev) s = .next { s with dev := d } ∧ s.dev.Issued d st c ∧ s.dev.SameConfig d ∧
        ∀ a, regionOf a ≠ .logbook → p.stores s.dev (s.dev.stream st).kept a = false → replacedBy ev a = false →
          d.mem.byte a = s.dev.mem.byte a) ∧
    ∀ k i, c.cmd = .kernel k →
      [.softmax st ev, .normRms st ev, .normLayer st ev, .vkernelReduce st ev, .attnStat st ev, .loss st ev][k.kernel]? = some i →
      ∃ d, exec i s = .next { s with dev := d } ∧ s.dev.Issued d st c ∧ s.dev.SameConfig d ∧
        ∀ a, regionOf a ≠ .logbook → k.stores s.dev (s.dev.stream st).kept a = false → replacedBy ev a = false →
          d.mem.byte a = s.dev.mem.byte a

/-- COPY and TRANSPOSE issue and their work is done in their issue step (R143): they change no configuration register and no
byte but those of the destination's rows, the figures of its outer-scale entry, those that their own checks replace and the
Logbook's region. -/
def Obligations.CopiesIssue : Prop :=
  ∀ (s : State) (st : Stream) (c : Decoded) (p : CopyCmd) (ev : OpEvents), s.carrier.phase = .running → s.dev.Tidy →
    s.dev.next? st = some c → c.cmd = .copy p → (p.transpose = false → p.src.shape = p.dst.shape) →
    ∃ d, exec (if p.transpose then .transpose st ev else .copy st ev) s = .next { s with dev := d } ∧
      s.dev.Issued d st c ∧ s.dev.SameConfig d ∧
      ∀ a, regionOf a ≠ .logbook → p.stores s.dev a = false → replacedBy ev a = false → d.mem.byte a = s.dev.mem.byte a

/-- TLOAD issues and reads its image, as memory stands after its own checks, and its operation boundary loads it (R98): until then no
curve slot changes, and at the boundary the image stands in its slot, VTB_LOAD_STATUS shows the slot, LOAD_DONE is pending and the
command is over; neither changes a configuration register or a byte outside the Logbook's region but those that the checks replace. -/
def Obligations.TableLoads : Prop :=
  (∀ (s : State) (st : Stream) (c : Decoded) (t : TloadCmd) (ev : OpEvents), s.carrier.phase = .running → s.dev.Tidy →
    s.dev.next? st = some c → c.cmd = .tload t →
    ∃ d, exec (.tload st ev) s = .next { s with dev := d } ∧ s.dev.Issued d st c ∧ s.dev.SameConfig d ∧
      (∀ a, regionOf a ≠ .logbook → replacedBy ev a = false → d.mem.byte a = s.dev.mem.byte a) ∧ d.curves = s.dev.curves ∧
      (d.stream st).late = some (.tload t (readBytes ((s.dev.findings [] ev).operandSource st c).1 t.image t.length))) ∧
    ∀ (s : State) (st : Stream) (r : Running) (t : TloadCmd) (image : List Byte), s.carrier.phase = .running → s.dev.Tidy →
      (s.dev.stream st).running = some r → r.done = true → r.dec.cmd = .tload t →
      (s.dev.stream st).late = some (.tload t image) → t.slot < s.dev.curves.length →
      ∃ d, exec (.operationBoundary st) s = .next { s with dev := d } ∧ s.dev.Completed d st ∧ s.dev.Calm d ∧
        d.curves[t.slot]? = some (some ⟨none, image⟩) ∧ d.pend (page1 .vtb) 0 = true ∧ d.fld Reg.vtbLoadStatus 4 0 = t.slot % 32

/-- The operations that go between packages issue, and what they do at once is done in their issue step (the model's choice:
log entry 1): the exchanges once their record is FINAL or abandoned (R194), a SEND where its stream has room (R296), a ROUTE
(R166, R182) and a reduction (R211, R239) on an ACTIVE page; no configuration register changes; one that has to wait stays as it
is. -/
def Obligations.FabricOperationsIssue : Prop :=
  ∀ (s : State) (c : Decoded) (ev : OpEvents), s.carrier.phase = .running → s.dev.Tidy → s.dev.next? .main = some c →
    (∀ x i, c.cmd = .xchg x →
      [.dispatch ev, .xchgReturn ev, .combine ev, .gradDispatch ev, .gradReturn ev][x.kind]? = some i →
      (s.dev.xchgWaits x = false →
        ∃ d, exec i s = .next { s with dev := d } ∧ s.dev.Issued d .main c ∧ s.dev.SameConfig d ∧
          d = s.dev.operate s.fuse .main c x.written ev (fun src e =>
            if x.kind = 2 then e.combineEffect c x (s.dev.loses ev.blocks) src
            else e.moveEffect c x (s.dev.loses ev.blocks) src)) ∧
      (s.dev.xchgWaits x = true → exec i s = .next s)) ∧
    (∀ x, c.cmd = .send x →
      (s.dev.sendWaits x = false →
        ∃ d, exec (.send ev) s = .next { s with dev := d } ∧ s.dev.Issued d .main c ∧ s.dev.SameConfig d ∧
          d = s.dev.operate s.fuse .main c [(x.status, 32)] ev (fun _ e => e.sendEffect c x (s.dev.loses ev.blocks))) ∧
      (s.dev.sendWaits x = true → exec (.send ev) s = .next s)) ∧
    (∀ r, c.cmd = .route r → s.dev.active cmpPage = true →
      (s.dev.routeWaits r = false →
        ∃ d, exec (.route ev) s = .next { s with dev := d } ∧ s.dev.Issued d .main c ∧ s.dev.SameConfig d ∧
          d = s.dev.operate s.fuse .main c [] ev (fun src e => e.routeEffect c r src)) ∧
      (s.dev.routeWaits r = true → exec (.route ev) s = .next s)) ∧
    ∀ r i e, c.cmd = .reduce r → s.dev.active redPage = true →
      e = (if r.kind = 3 then (⟨ev.blocks, [], [], []⟩ : OpEvents) else ev) →
      [.reduceSum ev, .reduceTally ev, .reduceMax ev, .reduceConsensus ev.blocks][r.kind]? = some i →
      (s.dev.reduceWaits r = false →
        ∃ d, exec i s = .next { s with dev := d } ∧ s.dev.Issued d .main c ∧ s.dev.SameConfig d ∧
          d = s.dev.operate s.fuse .main c r.written e (fun src x => x.reduceEffect c r (s.dev.loses ev.blocks) src)) ∧
      (s.dev.reduceWaits r = true → exec i s = .next s)

/-- A ROUTE on a CMP page that is not ACTIVE and a reduction on a RED page that is not are rejected with reason FIELD (R189,
R239): the stream stops before them, its page in FAULT. -/
def Obligations.InactivePagesReject : Prop :=
  ∀ (s : State) (c : Decoded) (ev : OpEvents), s.carrier.phase = .running → s.dev.Tidy → s.dev.next? .main = some c →
    ∀ i, ((∃ r, c.cmd = .route r ∧ s.dev.active cmpPage = false ∧ i = .route ev) ∨
        ∃ r, c.cmd = .reduce r ∧ s.dev.active redPage = false ∧
          [.reduceSum ev, .reduceTally ev, .reduceMax ev, .reduceConsensus ev.blocks][r.kind]? = some i) →
      ∃ d, exec i s = .next { s with dev := d } ∧ s.dev.Calm d ∧ s.dev.Rejected d .main rField c.tag

/-- The Helm's set commands issue (R248 to R251, R264), reading memory as it stands after their own checks: with no block lost, STEP
waits with its values for its operation boundary, COEF leaves the fifteen coefficients as memory has them, DECAY the table's
registers, and NORM its record, no other byte outside the Logbook's region changed but those that the checks replace; with a block
lost the Helm's page is in FAULT. At STEP's boundary HLM_LR, HLM_CLIP and HLM_STEP show its values. No configuration register
changes. -/
def Obligations.HelmSets : Prop :=
  (∀ (s : State) (c : Decoded) (h : HelmSetCmd) (ev : OpEvents) (src : ByteSource), s.carrier.phase = .running → s.dev.Tidy →
    s.dev.next? .main = some c → c.cmd = .helmSet h → src = ((s.dev.findings h.written ev).operandSource .main c).1 →
    (s.dev.loses ev.blocks = true → ∀ i, [.helmSetStep ev, .helmSetNorm ev, .helmSetCoef ev, .helmSetDecay ev][h.kind]? = some i →
      ∃ d, exec i s = .next { s with dev := d } ∧ s.dev.Issued d .main c ∧ s.dev.SameConfig d ∧ d.code hlmPage = 7 ∧
        ∀ a, regionOf a ≠ .logbook → replacedBy ev a = false → d.mem.byte a = s.dev.mem.byte a) ∧
    (s.dev.loses ev.blocks = false →
      (h.kind = 0 → ∃ d, exec (.helmSetStep ev) s = .next { s with dev := d } ∧ s.dev.Issued d .main c ∧ s.dev.SameConfig d ∧
        d.seqMain.late = some (.helmStep h) ∧
        ∀ a, regionOf a ≠ .logbook → replacedBy ev a = false → d.mem.byte a = s.dev.mem.byte a) ∧
      (∀ t, h.kind = 1 → h.src = some t →
        ∃ d x, exec (.helmSetNorm ev) s = .next { s with dev := d } ∧ s.dev.Issued d .main c ∧ s.dev.SameConfig d ∧
          x = (normOf (t.allRows src).flatten).record h.layer t.elems ∧ (offLogbook h.address x.length → d.Holds h.address x) ∧
          ∀ a, regionOf a ≠ .logbook → replacedBy ev a = false → (a < h.address ∨ h.address + x.length ≤ a) →
            d.mem.byte a = s.dev.mem.byte a) ∧
      (h.kind = 2 → ∃ d, exec (.helmSetCoef ev) s = .next { s with dev := d } ∧ s.dev.Issued d .main c ∧ s.dev.SameConfig d ∧
        (∀ i, i < 15 → d.reg (Reg.hlmNsCoef i) = readWord src (h.address + 4 * i)) ∧
        ∀ a, regionOf a ≠ .logbook → replacedBy ev a = false → d.mem.byte a = s.dev.mem.byte a) ∧
      (h.kind = 3 → ∃ d, exec (.helmSetDecay ev) s = .next { s with dev := d } ∧
        s.dev.Issued d .main c ∧ s.dev.SameConfig d ∧ d.reg (Reg.hlmDecayBase h.table) = BitVec.ofNat 32 h.address ∧
        d.reg (Reg.hlmDecayBeta1 h.table) = h.value0 ∧ d.reg (Reg.hlmDecayWd h.table) = h.value1 ∧
        d.flag (Reg.hlmDecayCfg h.table) 0 = true ∧
        ∀ a, regionOf a ≠ .logbook → replacedBy ev a = false → d.mem.byte a = s.dev.mem.byte a))) ∧
    ∀ (s : State) (r : Running) (h : HelmSetCmd), s.carrier.phase = .running → s.dev.Tidy → s.dev.seqMain.running = some r →
      r.done = true → r.dec.cmd = .helmSet h → s.dev.seqMain.late = some (.helmStep h) →
      ∃ d, exec (.operationBoundary .main) s = .next { s with dev := d } ∧ s.dev.Completed d .main ∧ s.dev.Calm d ∧
        d.reg Reg.hlmLr = h.value0 ∧ d.reg Reg.hlmClip = h.value1 ∧ d.pair Reg.hlmStepLo = h.step.toNat

/-- The three LOGMARKs issue and append the record that R347 gives them, of memory as it stands after their own checks; but for the
blocks that their reads lose they change no byte outside the Logbook's region, and no configuration register. -/
def Obligations.Logmarks : Prop :=
  ∀ (s : State) (c : Decoded) (x : LogmarkCmd) (ev : OpEvents), s.carrier.phase = .running → s.dev.Tidy →
    s.dev.next? .main = some c → c.cmd = .logmark x →
    ∀ i e, [.logmarkNote, .logmarkTensor ev, .logmarkRange ev][x.kind]? = some i →
      e = (if x.kind = 0 then OpEvents.none else ev) →
      ∃ d, exec i s = .next { s with dev := d } ∧ s.dev.Issued d .main c ∧ s.dev.SameConfig d ∧
        d = s.dev.operate s.fuse .main c [] e (fun src y => y.record (logmarkRec c x src)) ∧
        ∀ a, regionOf a ≠ .logbook → replacedBy e a = false → d.mem.byte a = s.dev.mem.byte a

/-- HELM_UPDATE issues, and its work is done in its issue step (the model's choice: log entry 1), once its page is ACTIVE and, at the
first of its step, the consensus stands and a slot is FREE to write (R252, R258, R261); it waits for a slot (R130) and is otherwise
rejected with reason FIELD; no configuration register changes. -/
def Obligations.HelmUpdateIssues : Prop :=
  ∀ (s : State) (c : Decoded) (u : HelmUpdateCmd) (ev : OpEvents), s.carrier.phase = .running → s.dev.Tidy →
    s.dev.next? .main = some c → c.cmd = .helmUpdate u →
    (s.dev.active hlmPage = true → (s.dev.hlm.opened = none → s.dev.consensusValid = true) →
      (s.dev.hlm.opened = none → s.dev.skyMode = 0 → (s.dev.slotIn 0).isSome = true) →
      ∃ d, exec (.helmUpdate ev) s = .next { s with dev := d } ∧ s.dev.Issued d .main c ∧ s.dev.SameConfig d ∧
        d = s.dev.operate s.fuse .main c (s.dev.updateWritten u) ev
          (fun src e => e.helmUpdateEffect c u (s.dev.loses ev.blocks) src)) ∧
    (s.dev.active hlmPage = true → s.dev.hlm.opened = none → s.dev.consensusValid = true → s.dev.skyMode = 0 →
      s.dev.slotIn 0 = none →
      ∃ d, exec (.helmUpdate ev) s = .next { s with dev := d } ∧ s.dev.Steady d ∧ s.dev.SameConfig d ∧
        d.hlm.ringWait = true ∧ (s.dev.hlm.ringWait = false → d.pend hlmPage 1 = true)) ∧
    (s.dev.active hlmPage = false ∨ s.dev.hlm.opened = none ∧ s.dev.consensusValid = false →
      ∃ d, exec (.helmUpdate ev) s = .next { s with dev := d } ∧ s.dev.SameConfig d ∧ s.dev.Rejected d .main rField c.tag)

/-! Messages of the units. -/

/-- A Compass message of each type (R184, R186), the blocks of its record read first: with no ROUTE of its layer and micro-batch
running it is held and counted, or stays in its buffer while eight other records hold messages; one of another step is stale and
counted; one that breaks the protocol abandons its record, its sender and the reason shown and the CMP page in FAULT; any other joins
the messages of its ROUTE, which goes on. -/
def Obligations.CompassMessages : Prop :=
  ∀ (s : State) (m : Packet) (blocks : List BlockFinding) (i : Instr) (e : Dev) (k : CmpMsg),
    s.carrier.phase = .running → s.dev.Tidy → s.dev.has m = true → m.cls = 1 →
    (u8 m.body 0 = 1 ∧ i = .count m blocks ∨ u8 m.body 0 = 2 ∧ i = .grant m blocks ∨ u8 m.body 0 = 3 ∧ i = .place m blocks) →
    e = s.dev.found [] blocks → k = cmpMsgOf m.body →
    (s.dev.protocol k.layer k.microbatch = none →
      (s.dev.cmp.held.length < 8 ∨ (s.dev.cmp.held.any fun h => h.layer = k.layer ∧ h.microbatch = k.microbatch) = true →
        ∃ d, exec i s = .next { s with dev := d } ∧ s.dev.Steady d ∧ s.dev.CalmBut d blocks ∧
          d.reg Reg.cmpHeld = BitVec.ofNat 32 (min ((s.dev.reg Reg.cmpHeld).toNat + 1) 0xFFFFFFFF) ∧
          ∃ h ∈ d.cmp.held, h.layer = k.layer ∧ h.microbatch = k.microbatch ∧ m ∈ h.msgs) ∧
      (8 ≤ s.dev.cmp.held.length → (s.dev.cmp.held.any fun h => h.layer = k.layer ∧ h.microbatch = k.microbatch) = false →
        exec i s = .next { s with dev := e } ∧ s.dev.CalmBut e blocks)) ∧
    ∀ p, s.dev.protocol k.layer k.microbatch = some p →
      (k.step ≠ p.cmd.step % 65536 →
        ∃ d, exec i s = .next { s with dev := d } ∧ s.dev.Steady d ∧ s.dev.CalmBut d blocks ∧ d.cmp = s.dev.cmp ∧
          d.reg Reg.cmpStale = BitVec.ofNat 32 (min ((s.dev.reg Reg.cmpStale).toNat + 1) 0xFFFFFFFF)) ∧
      (k.step = p.cmd.step % 65536 →
        (∀ reason, lowest (p.check s.dev.self k) = some reason →
          ∃ d, exec i s = .next { s with dev := d } ∧ s.dev.Steady d ∧ s.dev.CalmBut d blocks ∧
            (∀ q ∈ d.cmp.protocols, q.id ≠ p.id) ∧ d.code cmpPage = 7 ∧ d.pend cmpPage 3 = true ∧
            d.reg Reg.cmpProtoLast = BitVec.ofNat 32 (k.sender % 65536 + 0x10000 * reason)) ∧
        (lowest (p.check s.dev.self k) = none →
          ∃ d, exec i s = .next { s with dev := d } ∧ s.dev.SameConfig d ∧
            d = ((e.takePacket m).putProtocol { p with
              sets := addSet p.sets k.type k.round k.sender k.entries k.last k.rejected }).advanceRecord p.cmd.layer
                p.cmd.microbatch))

/-- READY and DATA of the token exchange (R197, R199, R202, R208 to R210). A READY with no run of its kind is kept, up to 64, the next
stays in its buffer, and one of a run that ended with a fault is discarded; one of another step is counted in its run; one whose rows
are those owed releases them, in the order of R199; one with other rows or with reserved bytes ends its run, as a lost block does.
DATA with no run is discarded; rows that the run expects are stored in its destination, each where the record places it, and counted,
and end the run with LOST where their own reads lose a block. -/
def Obligations.ExchangeMessages : Prop :=
  ∀ (s : State) (m : Packet) (blocks : List BlockFinding), s.carrier.phase = .running → s.dev.Tidy → s.dev.has m = true →
    m.cls = 1 →
    (u8 m.body 0 = 9 → ∀ r e, r = readyOf m.body → e = s.dev.takePacket m → s.dev.xchgRun r.kind r.layer r.microbatch = none →
      (s.dev.lateReady r = true → exec (.ready m blocks) s = .next { s with dev := e }) ∧
      (s.dev.lateReady r = false → s.dev.xch.readys.length < 64 →
        exec (.ready m blocks) s = .next { s with dev := { e with xch := { e.xch with readys := e.xch.readys ++ [r] } } }) ∧
      (s.dev.lateReady r = false → 64 ≤ s.dev.xch.readys.length → exec (.ready m blocks) s = .next s)) ∧
    (u8 m.body 0 = 9 → ∀ r e x, r = readyOf m.body → e = (s.dev.found [] blocks).takePacket m →
      s.dev.xchgRun r.kind r.layer r.microbatch = some x →
      (s.dev.loses blocks = true → exec (.ready m blocks) s = .next { s with dev := e.endXchg x 8 0xFFFF }) ∧
      (s.dev.loses blocks = false →
        (r.step ≠ x.step % 65536 →
          exec (.ready m blocks) s = .next { s with dev := e.putXchg { x with stale := x.stale + 1 } }) ∧
        (r.step = x.step % 65536 → r.zeros = false →
          exec (.ready m blocks) s = .next { s with dev := e.endXchg x 2 r.sender }) ∧
        ∀ o, r.step = x.step % 65536 → r.zeros = true → (x.owed.find? fun o => o.peer = r.sender) = some o →
          (r.rows = o.rows → exec (.ready m blocks) s = .next { s with dev := e.releaseRows x [r.sender] }) ∧
          (r.rows ≠ o.rows → exec (.ready m blocks) s = .next { s with dev := e.endXchg x 6 r.sender }))) ∧
    (u8 m.body 0 = 8 → s.dev.xchgRun (u8 m.body 1) (u16 m.body 4) (u16 m.body 6) = none →
      exec (.data m blocks) s = .next { s with dev := s.dev.takePacket m }) ∧
    (u8 m.body 0 = 8 → ∀ e x t ps ws, s.dev.xchgRun (u8 m.body 1) (u16 m.body 4) (u16 m.body 6) = some x →
      e = (s.dev.found x.buffer blocks).takePacket m →
      u16 m.body 0xA = x.step % 65536 → x.fieldsOk m.body = true → (x.expected.any fun y => y.peer = u16 m.body 8) = true →
      x.places (u16 m.body 8) (u16 m.body 0xC) (u32 m.body 0x10) (u32 m.body 0x14) = some ps → x.cmd.dst = some t →
      (ps.any fun p => x.got.contains p) = false →
      ws = (ps.zipIdx.map fun p => t.placeRow p.1
        ((m.body.drop (32 + wireBytes x.cmd.format x.width * p.2)).take (wireBytes x.cmd.format x.width))).flatten →
      (s.dev.loses blocks = false →
        ∃ d, exec (.data m blocks) s = .next { s with dev := d } ∧ s.dev.SameConfig d ∧ s.dev.Steady d ∧
          d.mem = e.mem.apply ws ∧
          d = (e.write ws).putXchg { x with received := x.received + ps.length, got := ps ++ x.got }) ∧
      (s.dev.loses blocks = true →
        ∃ d, exec (.data m blocks) s = .next { s with dev := d } ∧ s.dev.SameConfig d ∧ s.dev.Steady d ∧
          (∀ y ∈ d.xch.runs, y.id ≠ x.id) ∧
          d = (e.write ws).endXchg { x with received := x.received + ps.length, got := ps ++ x.got } 8 0xFFFF))

/-- A message of a reduction, of each type (R230, R233, R236): one of another step is stale, counted and signalled; any other goes to
its reduction, the first of its candidates that still lacks its END, the blocks that this brings read first, and its NF flag sets SEEN
in RED_STEP_NF; where those reads lose a block the reduction ends with LOST. -/
def Obligations.ReductionMessages : Prop :=
  ∀ (s : State) (m : Packet) (blocks : List BlockFinding) (i : Instr) (h : RedHdr), s.carrier.phase = .running → s.dev.Tidy →
    s.dev.has m = true → h = redHdrOf m.body →
    (m.cls = 3 ∧ (u8 m.body 0 = 16 ∧ i = .agree m blocks ∨ u8 m.body 0 = 17 ∧ i = .ec48 m blocks ∨
      u8 m.body 0 = 18 ∧ i = .topk m blocks ∨ u8 m.body 0 = 19 ∧ i = .sign m blocks ∨ u8 m.body 0 = 20 ∧ i = .fast m blocks ∨
      u8 m.body 0 = 21 ∧ i = .tally m blocks) ∨ m.cls = 0 ∧ u8 m.body 0 = 22 ∧ i = .consensus m blocks) →
    ((s.dev.redCands h).find? (fun r => !r.endedBy h) = none →
      (h.step ≠ s.dev.step % 65536 →
        ∃ d, exec i s = .next { s with dev := d } ∧ s.dev.Steady d ∧ s.dev.Calm d ∧ d.pend redPage 5 = true ∧
          d.reg Reg.redStale = BitVec.ofNat 32 (min ((s.dev.reg Reg.redStale).toNat + 1) 0xFFFFFFFF)) ∧
      (h.step = s.dev.step % 65536 →
        ∃ d x, exec i s = .next { s with dev := d } ∧ s.dev.SameConfig d ∧ d = x.takeRed m ∧
          x = (if h.flags.testBit 1 then (s.dev.takePacket m).setFlag Reg.redStepNf 1 true else s.dev.takePacket m))) ∧
    ∀ r e, (s.dev.redCands h).find? (fun r => !r.endedBy h) = some r → e = s.dev.found r.written blocks →
      (h.step ≠ s.dev.step % 65536 → s.dev.loses blocks = false →
        ∃ d, exec i s = .next { s with dev := d } ∧ s.dev.Steady d ∧ s.dev.CalmBut d blocks ∧ d.pend redPage 5 = true ∧
          d.reg Reg.redStale = BitVec.ofNat 32 (min ((s.dev.reg Reg.redStale).toNat + 1) 0xFFFFFFFF)) ∧
      (h.step = s.dev.step % 65536 →
        ∃ d x, exec i s = .next { s with dev := d } ∧ s.dev.SameConfig d ∧
          d = (x.takeRed m).loseRed (s.dev.loses blocks) r.id ∧
          x = (if h.flags.testBit 1 then (e.takePacket m).setFlag Reg.redStepNf 1 true else e.takePacket m))

/-- What ends an exchange, a reduction and a send (R201, R209, R234, R237, R296, R308), in time or by its timeout: its run is gone, or
has failed and takes no further part; its status record stands at its address, its status first, and LOST where the reads that end it
lose a block; its counter is one higher; a reduction that fails leaves its destination open, the RED page in FAULT and its
event pending; no other byte changes outside the Logbook's region, a tally and the blocks that are lost. -/
def Obligations.RunsEnd : Prop :=
  ∀ (s : State) (blocks : List BlockFinding), s.carrier.phase = .running → s.dev.Tidy →
    (∀ kind slot mb x, s.dev.xchgOf kind slot mb = some x →
      (s.dev.xchgOver x = true →
        ∃ d, exec (.xchgComplete kind slot mb blocks) s = .next { s with dev := d } ∧ s.dev.Steady d ∧ s.dev.SameConfig d ∧
          (∀ y ∈ d.xch.runs, y.id ≠ x.id) ∧
          (offLogbook x.cmd.status 64 →
            d.Holds x.cmd.status (x.status (if s.dev.loses blocks then 8 else 1) 0xFFFF s.dev.stamp)) ∧
          (x.cmd.counter < 16 → d.reg (Reg.seqCounter 0 x.cmd.counter) =
            BitVec.ofNat 32 (min ((s.dev.reg (Reg.seqCounter 0 x.cmd.counter)).toNat + 1) 0xFFFFFFFF)) ∧
          s.dev.SameBut d blocks [(x.cmd.status, 64), (x.cmd.tally, if x.cmd.kind = 0 ∧ x.cmd.tally ≠ 0 then 512 else 0)]) ∧
      (s.dev.xchgOver x = false →
        x.issued + us (if x.cmd.timeoutUs = 0 then max 1 (s.dev.fld Reg.cmpTimeout 19 0) else x.cmd.timeoutUs) ≤ s.dev.now →
        ∃ d, exec (.xchgTimeout kind slot mb) s = .next { s with dev := d } ∧ s.dev.Steady d ∧ s.dev.SameConfig d ∧
          (∀ y ∈ d.xch.runs, y.id ≠ x.id) ∧
          (offLogbook x.cmd.status 64 → d.Holds x.cmd.status (x.status 7 x.silent s.dev.stamp)) ∧
          (x.cmd.counter < 16 → d.reg (Reg.seqCounter 0 x.cmd.counter) =
            BitVec.ofNat 32 (min ((s.dev.reg (Reg.seqCounter 0 x.cmd.counter)).toNat + 1) 0xFFFFFFFF)) ∧
          s.dev.SameBut d [] [(x.cmd.status, 64)])) ∧
    (∀ slot r, s.dev.redLive[slot]? = some r →
      (r.phase = .written →
        ∃ d, exec (.reduceComplete slot blocks) s = .next { s with dev := d } ∧ s.dev.Steady d ∧ s.dev.SameConfig d ∧
          (∀ y ∈ d.redLive, y.id ≠ r.id) ∧
          (offLogbook r.cmd.status 64 →
            d.Holds r.cmd.status (r.status (if s.dev.loses blocks then 9 else 1) 0xFFFF s.dev.stamp)) ∧
          (r.cmd.counter < 16 → d.reg (Reg.seqCounter 0 r.cmd.counter) =
            BitVec.ofNat 32 (min ((s.dev.reg (Reg.seqCounter 0 r.cmd.counter)).toNat + 1) 0xFFFFFFFF)) ∧
          (s.dev.loses blocks = false → s.dev.SameBut d blocks [(r.cmd.status, 64)]) ∧
          (s.dev.loses blocks = true → d.code redPage = 7 ∧ d.pend redPage 3 = true ∧
            s.dev.SameBut d blocks ((r.cmd.status, 64) :: (r.cmd.dst.map Desc.runs).getD []))) ∧
      (r.phase = .live →
        r.issued + us (if r.cmd.timeoutUs = 0 then max 1 (s.dev.fld Reg.redTimeout 19 0) else r.cmd.timeoutUs) ≤ s.dev.now →
        ∃ d, exec (.reduceTimeout slot) s = .next { s with dev := d } ∧ s.dev.Steady d ∧ s.dev.SameConfig d ∧
          (∀ y ∈ d.redLive, y.id ≠ r.id) ∧
          (offLogbook r.cmd.status 64 → d.Holds r.cmd.status (r.status 8 (r.silent s.dev.self) s.dev.stamp)) ∧
          (r.cmd.counter < 16 → d.reg (Reg.seqCounter 0 r.cmd.counter) =
            BitVec.ofNat 32 (min ((s.dev.reg (Reg.seqCounter 0 r.cmd.counter)).toNat + 1) 0xFFFFFFFF)) ∧
          d.code redPage = 7 ∧ d.pend redPage 4 = true ∧
          s.dev.SameBut d [] ((r.cmd.status, 64) :: (r.cmd.dst.map Desc.runs).getD []))) ∧
    ∀ id r, s.dev.sendRun id = some r →
      (s.dev.sendOver r = true →
        ∃ d, exec (.sendComplete id blocks) s = .next { s with dev := d } ∧ s.dev.Steady d ∧ s.dev.SameConfig d ∧
          (∀ y ∈ d.snd.runs, y.id ≠ r.id) ∧
          (offLogbook r.cmd.status 32 →
            d.Holds r.cmd.status (r.status (if s.dev.loses blocks then 3 else 1) (r.blocks - s.dev.unsent r.id) s.dev.stamp)) ∧
          (r.cmd.counter < 16 → d.reg (Reg.seqCounter 0 r.cmd.counter) =
            BitVec.ofNat 32 (min ((s.dev.reg (Reg.seqCounter 0 r.cmd.counter)).toNat + 1) 0xFFFFFFFF)) ∧
          s.dev.SameBut d blocks [(r.cmd.status, 32)]) ∧
      (s.dev.sendOver r = false →
        r.issued + us (if r.cmd.timeoutUs = 0 then 100000 else r.cmd.timeoutUs) ≤ s.dev.now →
        ∃ d, exec (.sendTimeout id) s = .next { s with dev := d } ∧ s.dev.Steady d ∧ s.dev.SameConfig d ∧
          (∀ y ∈ d.snd.runs, y.id ≠ r.id) ∧
          (offLogbook r.cmd.status 32 → d.Holds r.cmd.status
            (r.status 2 (if r.going then r.blocks - s.dev.unsent r.id else 0) s.dev.stamp)) ∧
          (r.cmd.counter < 16 → d.reg (Reg.seqCounter 0 r.cmd.counter) =
            BitVec.ofNat 32 (min ((s.dev.reg (Reg.seqCounter 0 r.cmd.counter)).toNat + 1) 0xFFFFFFFF)) ∧
          s.dev.SameBut d [] [(r.cmd.status, 32)])

/-- A ROUTE whose record has not become FINAL within CMP_TIMEOUT.US is abandoned (R186, R187): its protocol runs no longer, this
package is named in CMP_PROTO_LAST with reason 0, the CMP page enters FAULT and event 4 is pending. -/
def Obligations.RouteTimesOut : Prop :=
  ∀ (s : State) (slot mb : Nat) (p : Protocol), s.carrier.phase = .running → s.dev.Tidy →
    (s.dev.cmp.protocols.find? fun p => p.cmd.layerSlot = slot ∧ p.cmd.microbatch = mb) = some p →
    p.issued + us (max 1 (s.dev.fld Reg.cmpTimeout 19 0)) ≤ s.dev.now →
    ∃ d, exec (.compassTimeout slot mb) s = .next { s with dev := d } ∧ s.dev.Steady d ∧ s.dev.Calm d ∧
      (∀ q ∈ d.cmp.protocols, q.id ≠ p.id) ∧
      d.reg Reg.cmpProtoLast = BitVec.ofNat 32 (s.dev.self % 65536) ∧ d.code cmpPage = 7 ∧ d.pend cmpPage 4 = true

/-! The pipeline. -/

/-- STOP and GO of the current step, newer than the last of their stream, stop the stream and let it go on (R300); a stale one
is counted, and one that is not newer changes nothing. RELEASE of the micro-batch at a Hinge's head frees its bytes and completes
(R303). -/
def Obligations.PipelineControl : Prop :=
  ∀ s : State, s.carrier.phase = .running → s.dev.Tidy →
    (∀ m i, s.dev.has m = true → m.cls = 0 → (u8 m.body 0 = 26 ∧ i = .stop m ∨ u8 m.body 0 = 27 ∧ i = .go m) →
      u16 m.body 6 = s.dev.step % 65536 → ∀ last,
      last = ((s.dev.takePacket m).snd.streams.find? fun x => x.dest = u16 m.body 4 ∧ x.hinge = u8 m.body 1).bind (·.lastSeq) →
      (newerSeq last (u16 m.body 2) = true →
        ∃ d, exec i s = .next { s with dev := d } ∧ s.dev.Only d [] ∧
          (d.snd.streams.find? fun x => x.dest = u16 m.body 4 ∧ x.hinge = u8 m.body 1) =
            some ⟨u16 m.body 4, u8 m.body 1, some (u16 m.body 2), u8 m.body 0 == 26⟩) ∧
      (newerSeq last (u16 m.body 2) = false → exec i s = .next { s with dev := s.dev.takePacket m })) ∧
    (∀ m i, s.dev.has m = true → m.cls = 0 → (u8 m.body 0 = 26 ∧ i = .stop m ∨ u8 m.body 0 = 27 ∧ i = .go m) →
      u16 m.body 6 ≠ s.dev.step % 65536 →
      ∃ d, exec i s = .next { s with dev := d } ∧ d = (s.dev.takePacket m).hngStaleOne (u8 m.body 1) ∧ s.dev.Steady d ∧
        s.dev.Calm d ∧ (u8 m.body 1 < 16 → d.pend (hngPage (u8 m.body 1)) 4 = true)) ∧
    ∀ c i mb rest, s.dev.next? .main = some c → c.cmd = .release i mb → (s.dev.hinge i).held = mb :: rest →
      ∃ d, exec .release s = .next { s with dev := d } ∧ s.dev.Completed d .main ∧ s.dev.Calm d ∧
        (i < s.dev.hng.length → (d.hinge i).held = rest ∧ (d.hinge i).occ = (s.dev.hinge i).occ - s.dev.hngBytes i)

/-- A class 2 block goes to the Hinge that it names and one that names none is stray (R298 to R305); the blocks its partial writes read
are read first. Where the Hinge is not ACTIVE or the block is of another step it is stale; a wrong source is a fault 5, a block of a
released micro-batch or one that has landed already a fault 4, a bad offset or end a fault 3, a slot that another micro-batch
holds a fault 1; any other lands: its data stands in its micro-batch's slot of the ring, and no other byte changes outside the
Logbook's region and the blocks that are lost. -/
def Obligations.PipelineBlocks : Prop :=
  ∀ (s : State) (m : Packet) (blocks : List BlockFinding) (i mb offset : Nat) (e : Dev), s.carrier.phase = .running →
    s.dev.Tidy → s.dev.has m = true → m.cls = 2 → i = u8 m.body 0 → mb = u16 m.body 2 → offset = u32 m.body 8 →
    e = (s.dev.found (s.dev.hngRing i) blocks).takePacket m →
    (16 ≤ i → exec (.pipelineBlock m blocks) s = .next { s with dev := (s.dev.takePacket m).stray }) ∧
    (i < 16 → (e.active (hngPage i) = false ∨ u16 m.body 4 ≠ e.step % 65536) →
      exec (.pipelineBlock m blocks) s = .next { s with dev := e.hngStaleOne i }) ∧
    (i < 16 → e.active (hngPage i) = true → u16 m.body 4 = e.step % 65536 →
      (u16 m.body 6 ≠ e.fld (Reg.hngSource i) 15 0 →
        exec (.pipelineBlock m blocks) s = .next { s with dev := e.hngFault i 5 mb }) ∧
      (u16 m.body 6 = e.fld (Reg.hngSource i) 15 0 → ∀ again good taken : Bool,
        again = ((e.hinge i).landings.find? (fun x => x.microbatch = mb)).any (fun x => x.blocks.contains (offset / 232)) →
        good = decide (offset % 232 = 0 ∧ offset < e.hngBytes i ∧
          (u8 m.body 1).testBit 0 = decide (e.hngBytes i ≤ offset + 232)) →
        taken = (((e.hinge i).held ++ ((e.hinge i).landings.filter fun x => !x.blocks.isEmpty).map (·.microbatch)).any fun x =>
          x != mb && x % max 1 (e.hngSlotCount i) == mb % max 1 (e.hngSlotCount i)) →
        (mb < (e.hinge i).next ∨ again = true → exec (.pipelineBlock m blocks) s = .next { s with dev := e.hngFault i 4 mb }) ∧
        ((e.hinge i).next ≤ mb → again = false →
          (good = false → exec (.pipelineBlock m blocks) s = .next { s with dev := e.hngFault i 3 mb }) ∧
          (good = true → taken = true →
            ∃ d, exec (.pipelineBlock m blocks) s = .next { s with dev := d } ∧ s.dev.CalmBut d blocks ∧
              d.code (hngPage i) = 7 ∧ d.pend (hngPage i) 3 = true ∧ d.fld (Reg.hngFaultLast i) 3 0 = 1) ∧
          (good = true → taken = false → ∀ a x,
            a = e.hngBase i + mb % max 1 (e.hngSlotCount i) * e.hngBytes i + offset →
            x = (m.body.drop 12).take (blockData (e.hngBytes i) offset) →
            ∃ d, exec (.pipelineBlock m blocks) s = .next { s with dev := d } ∧ d = e.land i mb offset (m.body.drop 12) ∧
              s.dev.SameConfig d ∧ (offLogbook a x.length → d.Holds a x) ∧ s.dev.SameBut d blocks [(a, x.length)]))))

/-! The fabric. -/

/-- The ports (R310 to R314, R453): ENABLE makes a port of a numbered package train; an attempt that finds another package makes it
ACTIVE with its peer and its eight lanes shown, one that finds this package a FAULT of reason 3, the third failure in succession one
of reason 1, and an earlier one is counted alone; a loss of lock drops lanes and the port trains again; a park word is a FAULT. -/
def Obligations.FabricPorts : Prop :=
  ∀ (s : State) (q : Fin 36), s.carrier.phase = .running → s.dev.Tidy →
    (∀ (hart : Fin 28) v, (s.liveHart hart).isSome = true → s.dev.number ≠ 0xFFFF → s.dev.halted = false →
      s.dev.flag (Reg.fabCtrl q) 0 = false → bit v 0 = true →
      ∃ d, exec (.fabEnableWrite hart q v) s = .next { s with dev := d } ∧ s.dev.Steady d ∧ s.dev.SameMemory d ∧
        d.flag (Reg.fabCtrl q) 0 = true ∧ d.code (fabPage q) = 1 ∧ d.reg (Reg.fabPeer q) = 0#32) ∧
    (s.dev.halted = false →
      (∀ package peer, s.dev.ready (fabPage q) = true → (s.dev.port q).retraining = false → package ≠ s.dev.number →
        ∃ d, exec (.trainingAttemptEnd q (.trained package peer)) s = .next { s with dev := d } ∧ s.dev.Steady d ∧
          s.dev.Calm d ∧ d.code (fabPage q) = 2 ∧ d.pend (fabPage q) 0 = true ∧ d.fld (Reg.fabLanes q) 7 0 = 0xFF ∧
          d.reg (Reg.fabPeer q) = BitVec.ofNat 32 (package % 65536 + 0x10000 * (peer % 64) + 0x80000000)) ∧
      (∀ peer, s.dev.ready (fabPage q) = true →
        ∃ d, exec (.trainingAttemptEnd q (.trained s.dev.number peer)) s = .next { s with dev := d } ∧ s.dev.Steady d ∧
          s.dev.Calm d ∧ d.code (fabPage q) = 7 ∧ d.fld (Reg.fabPeer q) 30 28 = 3) ∧
      (s.dev.ready (fabPage q) = true → 2 ≤ (s.dev.port q).attempts → (s.dev.port q).retraining = false →
        ∃ d, exec (.trainingAttemptEnd q .failed) s = .next { s with dev := d } ∧ s.dev.Steady d ∧ s.dev.Calm d ∧
          d.code (fabPage q) = 7 ∧ d.fld (Reg.fabPeer q) 30 28 = 1) ∧
      (s.dev.ready (fabPage q) = true → (s.dev.port q).attempts < 2 → (s.dev.port q).retraining = false →
        ∃ d, exec (.trainingAttemptEnd q .failed) s = .next { s with dev := d } ∧ s.dev.Steady d ∧ s.dev.Calm d ∧
          d.code (fabPage q) = 1 ∧ (q.val < s.dev.ports.length → (d.port q).attempts = (s.dev.port q).attempts + 1))) ∧
    (∀ lanes : BitVec 8, s.dev.active (fabPage q) = true → lanes ≠ 0#8 →
      ∃ d, exec (.laneLockLoss q lanes) s = .next { s with dev := d } ∧ s.dev.Only d [Reg.fabLanes q] ∧
        d.fld (Reg.fabLanes q) 7 0 = (BitVec.ofNat 8 (s.dev.fld (Reg.fabLanes q) 7 0) &&& ~~~lanes).toNat ∧
        (q.val < s.dev.ports.length → (d.port q).retraining = true)) ∧
    (s.dev.active (fabPage q) = true →
      ∃ d, exec (.parkWord q) s = .next { s with dev := d } ∧ s.dev.Steady d ∧ s.dev.Calm d ∧ d.code (fabPage q) = 7 ∧
        d.fld (Reg.fabPeer q) 30 28 = 0 ∧ d.pend (fabPage q) 1 = true)

/-- The link (R312, R315 to R319): the symbols that the lanes' codes correct are counted; a block whose check fails is counted and
asks for a NAK, one out of sequence asks for a NAK once, a good one in sequence is counted, moves the expected SEQ on and is
delivered here or passed on; a control word acknowledges and returns credits, and re-sends from its expected SEQ on a NAK; a transmit
slot is counted and carries at most one block. -/
def Obligations.LinkProtocol : Prop :=
  ∀ (s : State) (q : Fin 36) (words : List (List Byte)) (fec : Word), s.carrier.phase = .running → s.dev.Tidy →
    s.dev.linked q = true → fec = BitVec.ofNat 32 (min ((s.dev.reg (Reg.fabFecCorrected q)).toNat +
      listSum (words.map fecCorrected)) 0xFFFFFFFF) →
    (∀ b, blockGood b = false →
      ∃ d, exec (.linkBlockReceive q b words) s = .next { s with dev := d } ∧ s.dev.Steady d ∧ s.dev.Calm d ∧
        d.reg (Reg.fabCrcErrors q) = BitVec.ofNat 32 (min ((s.dev.reg (Reg.fabCrcErrors q)).toNat + 1) 0xFFFFFFFF) ∧
        d.reg (Reg.fabFecCorrected q) = fec ∧ d.pend (fabPage q) 2 = true ∧ (q.val < s.dev.ports.length → (d.port q).nak = true ∧ (d.port q).nakDue = true)) ∧
    (∀ b, blockGood b = true → (hdrOf b).seq ≠ (s.dev.port q).rxSeq →
      ((s.dev.port q).nak = false →
        ∃ d, exec (.linkBlockReceive q b words) s = .next { s with dev := d } ∧ s.dev.Steady d ∧ s.dev.Calm d ∧
          d.reg (Reg.fabCrcErrors q) = s.dev.reg (Reg.fabCrcErrors q) ∧ d.reg (Reg.fabFecCorrected q) = fec ∧
          d.pend (fabPage q) 2 = true ∧
          (q.val < s.dev.ports.length → (d.port q).nak = true ∧ (d.port q).nakDue = true)) ∧
      ((s.dev.port q).nak = true →
        ∃ d, exec (.linkBlockReceive q b words) s = .next { s with dev := d } ∧ s.dev.Only d [Reg.fabFecCorrected q] ∧
          d.reg (Reg.fabFecCorrected q) = fec ∧ d.ports = s.dev.ports)) ∧
    (∀ b, blockGood b = true → (hdrOf b).seq = (s.dev.port q).rxSeq →
      ∃ d, s.dev.Only d [Reg.fabFecCorrected q, Reg.fabBlocksRx q] ∧
        (d.reg (Reg.fabBlocksRx q)).toNat = ((s.dev.reg (Reg.fabBlocksRx q)).toNat + 1) % 2 ^ 32 ∧
        d.reg (Reg.fabFecCorrected q) = fec ∧
        (q.val < s.dev.ports.length → (d.port q).rxSeq = ((hdrOf b).seq + 1) % 4096 ∧ (d.port q).nak = false) ∧
        exec (.linkBlockReceive q b words) s = .next { s with dev :=
          (if (hdrOf b).dest = d.number then d.deliver q b else d.passOn q b) }) ∧
    (∀ w, w.nak = false →
      exec (.linkControlWord q w) s =
        .next { s with dev := s.dev.setPort q fun p => (p.acked w.ack).credited w.credits }) ∧
    (∀ w, w.nak = true →
      ∃ d, exec (.linkControlWord q w) s = .next { s with dev := d } ∧ s.dev.Steady d ∧ s.dev.Calm d ∧
        d.pend (fabPage q) 2 = true ∧
        d.ports = (s.dev.setPort q fun p => ((p.acked w.ack).credited w.credits).nakked w.expected).ports) ∧
    ∃ d, exec (.transmitSlot q) s = .next { s with dev := d } ∧ s.dev.Steady d ∧ s.dev.Calm d ∧
      (q.val < s.dev.ports.length → (d.port q).slot = (s.dev.port q).slot + 1 ∧ (d.port q).wire.length ≤ 1)

/-- Posts, remote writes and the replay of a capture (R334, R335, R379): a TAIL outside the posting ring is ignored; one within it is
taken, and the engine, idle and not held, posts the descriptor at its head, or skips a bad one and counts it; the acknowledged last
post leaves the ring idle with event 6; a block of a remote write within the window stores its data, all 228 bytes or those that its
LENGTH leaves, and the last one raises its counter (where it came from another package its length is open, log entry 36); one outside it is discarded and counted; a replay offers the captured blocks in
order. -/
def Obligations.RemoteWrites : Prop :=
  ∀ (s : State) (blocks : List BlockFinding), s.carrier.phase = .running → s.dev.Tidy →
    (∀ (hart : Fin 28) v, (s.liveHart hart).isSome = true →
      (s.dev.postSize ≤ bits v 15 0 → exec (.postTailWrite hart v blocks) s = .next s) ∧
      (bits v 15 0 < s.dev.postSize → ∀ e, e = (s.dev.found [] blocks).store Reg.chtPostTail v →
        (e.cht.post.isSome = true ∨ e.postHead = e.postTail ∨ (e.governLive 4).isNone = true ∨ e.postsHeld = true →
          exec (.postTailWrite hart v blocks) s = .next { s with dev := e } ∧
            (s.dev.found [] blocks).Only e [Reg.chtPostTail] ∧ e.postTail = bits v 15 0) ∧
        (e.cht.post = none → e.postHead ≠ e.postTail → (e.governLive 4).isSome = true → e.postsHeld = false →
          ∀ b, b = readBytes e.src (e.pair Reg.chtPostBaseLo + 32 * e.postHead) 32 →
            (postBad b = false → exec (.postTailWrite hart v blocks) s = .next { s with dev := e.sendPost b }) ∧
            (postBad b = true → (e.postHead + 1) % e.postSize = e.postTail →
              ∃ d, exec (.postTailWrite hart v blocks) s = .next { s with dev := d } ∧ s.dev.Steady d ∧
                (∀ a, configReg a = true → a ≠ Reg.chtPostTail → d.reg a = s.dev.reg a) ∧ d.postHead = e.postTail ∧ d.pend chtPage 6 = true ∧
                d.reg Reg.chtPostRejects =
                  BitVec.ofNat 32 (min ((s.dev.reg Reg.chtPostRejects).toNat + 1) 0xFFFFFFFF))))) ∧
    (∀ r, s.dev.cht.post = some r → r.lost = false → s.dev.unacked r.id = false →
      (s.dev.postHead + 1) % s.dev.postSize = s.dev.postTail →
      ∃ d, exec (.postWriteAcked blocks) s = .next { s with dev := d } ∧ s.dev.Steady d ∧ s.dev.CalmBut d blocks ∧
        d.cht.post = none ∧ d.postHead = s.dev.postTail ∧ d.pend chtPage 6 = true) ∧
    (∀ m a n, s.dev.has m = true → m.cls = 4 → a = u64 m.body 0 →
      (u8 m.body 244 ≠ 1 ∧ n = 228 ∨ u8 m.body 244 = 1 ∧ (m.body[245]?).map BitVec.toNat = some n) → mapped a n = true →
      s.dev.pair Reg.chtRwBaseLo ≤ a → a + n ≤ s.dev.pair Reg.chtRwBaseLo + 0x100000 * s.dev.fld Reg.chtRwSize 19 0 →
      ∃ d x, exec (.remoteWriteBlock m blocks) s = .next { s with dev := d } ∧ s.dev.Steady d ∧ s.dev.SameConfig d ∧
        x = (m.body.drop 16).take n ∧ d.Holds a x ∧ s.dev.SameBut d blocks [(a, x.length)] ∧
        (u8 m.body 244 = 1 → s.dev.cht.discardedWrites.contains (m.src, m.stripe) = false → u8 m.body 9 < 16 →
          u8 m.body 8 < 2 → d.reg (Reg.seqCounter (u8 m.body 8) (u8 m.body 9)) =
            BitVec.ofNat 32 (min ((s.dev.reg (Reg.seqCounter (u8 m.body 8) (u8 m.body 9))).toNat + 1) 0xFFFFFFFF))) ∧
    (∀ m a, s.dev.has m = true → m.cls = 4 → a = u64 m.body 0 → u8 m.body 244 = 1 → m.body[245]? = none → mapped a 228 = true →
      s.dev.pair Reg.chtRwBaseLo ≤ a → a + 228 ≤ s.dev.pair Reg.chtRwBaseLo + 0x100000 * s.dev.fld Reg.chtRwSize 19 0 →
      ∃ d x n, exec (.remoteWriteBlock m blocks) s = .next { s with dev := d } ∧ s.dev.Steady d ∧ s.dev.SameConfig d ∧
        n % 4 = 0 ∧ 4 ≤ n ∧ n ≤ 228 ∧ x = (m.body.drop 16).take n ∧ d.Holds a x ∧ s.dev.SameBut d blocks [(a, x.length)]) ∧
    (∀ m, s.dev.has m = true → m.cls = 4 → u64 m.body 0 < s.dev.pair Reg.chtRwBaseLo →
      ∃ d, exec (.remoteWriteBlock m blocks) s = .next { s with dev := d } ∧ s.dev.Steady d ∧ s.dev.CalmBut d blocks ∧
        d.reg Reg.chtRwDiscards = BitVec.ofNat 32 (min ((s.dev.reg Reg.chtRwDiscards).toNat + 1) 0xFFFFFFFF) ∧
        d.pend chtPage 5 = true) ∧
    ∀ b, s.dev.skyMode ≠ 0 → s.dev.capturedBlock = some b →
      ((hdrOf b).cls = 0 →
        exec .captureReplayBlock s =
          .next { s with dev := { s.dev with sky := { s.dev.sky with replayPos := s.dev.sky.replayPos + 1 } } }) ∧
      ((hdrOf b).cls ≠ 0 → 512 ≤ (s.dev.cht.loop.filter fun m => m.cls = (hdrOf b).cls).length →
        exec .captureReplayBlock s = .next s) ∧
      ((hdrOf b).cls = 2 ∨ (hdrOf b).cls = 4 → (s.dev.cht.loop.filter fun m => m.cls = (hdrOf b).cls).length < 512 →
        ∃ d, exec .captureReplayBlock s = .next { s with dev := d } ∧ s.dev.Only d [] ∧
          d.sky.replayPos = s.dev.sky.replayPos + 1 ∧ d.cht.loop = s.dev.cht.loop ++
            [⟨36, (hdrOf b).src, (hdrOf b).cls, (hdrOf b).stripe, (hdrOf b).chart, singleBody (hdrOf b) (payloadOf b)⟩]) ∧
      ((hdrOf b).cls = 1 ∨ (hdrOf b).cls = 3 → (s.dev.cht.loop.filter fun m => m.cls = (hdrOf b).cls).length < 512 → ∀ r,
        r = joinFlow s.dev.cht.replayFlows (hdrOf b) (payloadOf b) →
        ∃ d, exec .captureReplayBlock s = .next { s with dev := d } ∧ s.dev.Only d [] ∧
          d.sky.replayPos = s.dev.sky.replayPos + 1 ∧ d.cht.replayFlows = r.1 ∧ d.cht.loop = s.dev.cht.loop ++
            (r.2.map fun x => (⟨36, (hdrOf b).src, (hdrOf b).cls, (hdrOf b).stripe, x.1, x.2⟩ : Packet)).toList)

/-! Charts. -/

/-- The package's number is taken once, whatever is written (R5, R323); GO in CHT_LOAD_CTRL reads the image at CHT_LOAD, after the
checks of the blocks that it reads, into a slot of one bank (R328, R329, R338): the slot holds the Chart and LOADED is pending, or
CHT_LOAD_STATUS shows the lowest reason that applies, REJECTED is pending and no slot changes. -/
def Obligations.ChartsLoad : Prop :=
  ∀ (s : State) (hart : Fin 28) (v : Word) (slot : Nat) (blocks : List BlockFinding) (e : Dev),
    (s.liveHart hart).isSome = true → s.dev.Tidy → slot = bits v 2 0 → e = s.dev.found [] blocks →
    (s.dev.cht.numbered = false →
      ∃ d, exec (.chtPackageWrite hart v) s = .next { s with dev := d } ∧ s.dev.Only d [Reg.chtPackage] ∧
        d.number = bits v 15 0 ∧ d.cht.numbered = true) ∧
    (s.dev.cht.numbered = true → exec (.chtPackageWrite hart v) s = .next s) ∧
    (bit v 9 = false → bit v 8 = true → ∀ r,
      r = e.readChart (e.pair Reg.chtLoadLo) (some s.dev.number) (governs (s.dev.reg Reg.chtGovern) slot) →
      ∃ d, exec (.chartLoad hart v blocks) s = .next { s with dev := d } ∧ s.dev.Steady d ∧ s.dev.CalmBut d blocks ∧
        (r.1 ≠ 0 → d.fld Reg.chtLoadStatus 3 0 = r.1 % 16 ∧ d.pend chtPage 1 = true ∧ d.cht.live = s.dev.cht.live) ∧
        (r.1 = 0 → d.cht.live = s.dev.cht.live.set slot (some r.2) ∧ d.reg (Reg.chtSlotId slot) = r.2.id ∧
          d.pend chtPage 0 = true)) ∧
    (bit v 9 = true → bit v 8 = true → ∀ r,
      r = e.readChart (e.pair Reg.chtLoadLo)
        (if s.dev.fld Reg.skyAssume 15 0 = 0xFFFF then none else some (s.dev.fld Reg.skyAssume 15 0))
        (s.dev.skyMode == 1 && governs s.dev.cht.govReplay slot) →
      ∃ d, exec (.chartLoadReplay hart v blocks) s = .next { s with dev := d } ∧ s.dev.Steady d ∧ s.dev.CalmBut d blocks ∧
        d.cht.live = s.dev.cht.live ∧
        (r.1 ≠ 0 → d.fld Reg.chtLoadStatus 3 0 = r.1 % 16 ∧ d.pend chtPage 1 = true ∧ d.cht.replay = s.dev.cht.replay) ∧
        (r.1 = 0 → d.cht.replay = s.dev.cht.replay.set slot (some r.2) ∧ d.pend chtPage 0 = true)) ∧
    (bit v 8 = false →
      (bit v 9 = false → ∃ d, exec (.chartLoad hart v blocks) s = .next { s with dev := d } ∧ s.dev.Steady d ∧
        s.dev.CalmBut d blocks ∧ d.cht = s.dev.cht) ∧
      (bit v 9 = true → ∃ d, exec (.chartLoadReplay hart v blocks) s = .next { s with dev := d } ∧ s.dev.Steady d ∧
        s.dev.CalmBut d blocks ∧ d.cht = s.dev.cht))

/-! Registers of the pages. -/

/-- A request for a page's state (R484, R485): with a GEN that is not the page's, or for a transition that is held or not
offered, STATE shows the result and nothing else happens; a permitted one moves the page, with GEN one higher and RESULT
ACCEPTED; a request for READY before the drain is over is held; and a drain that ends lets it take effect. -/
def Obligations.StateRequests : Prop :=
  ∀ (s : State) (hart : Fin 28) (p : Page) (gen : BitVec 8), s.dev.Tidy →
    ((s.liveHart hart).isSome = true → s.reaches hart p true = true → ∀ c req,
      (c, req) ∈ [(1, Instr.stateRequestReady hart p gen), (2, Instr.stateRequestActive hart p gen),
        (3, Instr.stateRequestDraining hart p gen), (6, Instr.stateRequestQuarantine hart p gen)] →
      (gen.toNat ≠ s.dev.fld (stateReg p) 15 8 → exec req s = .next { s with dev := s.dev.reqResult p 2 }) ∧
      (gen.toNat = s.dev.fld (stateReg p) 15 8 →
        ((s.dev.fld (stateReg p) 23 20 ≠ 0 ∨ (pageRequestable p.type).contains c = false) →
          exec req s = .next { s with dev := s.dev.reqResult p 3 }) ∧
        (s.dev.fld (stateReg p) 23 20 = 0 → (pageRequestable p.type).contains c = true →
          (c = 2 ∧ s.dev.code p = 1 ∧ s.dev.activeOk p = true ∨ c = 6 ∧ s.dev.code p = 1 ∨
            c = 1 ∧ s.dev.code p = 2 ∧ [PageType.log, .sxt, .sky].contains p.type = true →
            ∃ d, exec req s = .next { s with dev := d } ∧ s.dev.Only d [stateReg p] ∧ d.code p = c ∧
              d.fld (stateReg p) 19 16 = 1 ∧ d.fld (stateReg p) 15 8 = (gen.toNat + 1) % 256) ∧
          (c = 3 → s.dev.code p = 2 ∨ s.dev.code p = 7 →
            ∃ d, exec req s = .next { s with dev := d } ∧ s.dev.Calm d ∧ d.code p = 3 ∧ d.fld (stateReg p) 19 16 = 1 ∧
              d.fld (stateReg p) 15 8 = (gen.toNat + 1) % 256) ∧
          (c = 1 → s.dev.code p = 3 → s.dev.readyOk p = false →
            ∃ d, exec req s = .next { s with dev := d } ∧ s.dev.Only d [stateReg p] ∧ d.code p = 3 ∧
              d.fld (stateReg p) 19 16 = 4 ∧ d.fld (stateReg p) 23 20 = 1 ∧
              d.fld (stateReg p) 15 8 = gen.toNat)))) ∧
    (s.carrier.phase = .running → p.inst < pageInstances p.type → s.dev.code p = 3 →
      s.dev.drained.contains (pageKey p) = false → s.dev.drainOver p = true → s.dev.sky.rollback = false →
      (s.dev.fld (stateReg p) 23 20 = 0 →
        ∃ d, exec (.drainComplete p) s = .next { s with dev := d } ∧ s.dev.SameConfig d ∧
          d.drained.contains (pageKey p) = true) ∧
      (s.dev.fld (stateReg p) 23 20 = 1 → p.type = .hng ∨ p.type = .seq →
        ∃ d, exec (.drainComplete p) s = .next { s with dev := d } ∧ s.dev.SameConfig d ∧ d.code p = 1 ∧
          d.drained.contains (pageKey p) = false))

/-- The writes to configuration that have an effect of their own: a request for a core (R370) with its generation fences it or
is rejected; PIN is kept until a fix leg, UNPIN frees the pinned slot (R259); the record and slot sizes wake the Compass and
the Helm (R189, R271); FORCE sets the step's non-finite flag (R229, R230); the first offer of a generation is answered once
(R489). -/
def Obligations.WritesWithEffects : Prop :=
  ∀ (s : State) (hart : Fin 28) (v : Word) (c : Nat), (s.liveHart hart).isSome = true → s.dev.Tidy →
    c = s.dev.fld Reg.chkCoreSel 18 0 →
    (bits v 15 8 ≠ (s.dev.core c).gen →
      ∃ d, exec (.chkCoreReq hart v) s = .next { s with dev := d } ∧ s.dev.Calm d ∧ s.dev.Steady d ∧
        d.coreState s.fuse c = s.dev.coreState s.fuse c ∧ (d.core c).rejected = true ∧ d.pend (page1 .chk) 5 = true) ∧
    (bits v 15 8 = (s.dev.core c).gen → bits v 3 0 = 5 → s.dev.coreState s.fuse c = 4 →
      ∃ d, exec (.chkCoreReq hart v) s = .next { s with dev := d } ∧ s.dev.Calm d ∧ s.dev.Steady d ∧
        d.coreState s.fuse c = 5 ∧ d.flash.fenced.contains c = true ∧ (d.core c).rejected = false) ∧
    (bit v 8 = true → bit v 9 = false → s.dev.pinned = none →
      ∃ d, exec (.pin hart v) s = .next { s with dev := d } ∧ s.dev.Only d [Reg.hlmRingCtrl] ∧
        d.hlm.pinAsked = true ∧ d.flag Reg.hlmRingCtrl 8 = true) ∧
    (bit v 9 = true → ∀ i, s.dev.pinned = some i → s.dev.slotState i = 4 →
      ∃ d, exec (.unpin hart v) s = .next { s with dev := d } ∧
        s.dev.Only d [Reg.hlmRingCtrl, Reg.hlmRingState, Reg.hlmRingCur] ∧ d.pinned = none ∧ d.slotState i = 0) ∧
    (s.dev.ready cmpPage = true → (s.dev.store Reg.cmpTrackRecord v).reg Reg.cmpTrackRecord ≠ 0#32 →
      ∃ d, exec (.cmpTrackRecordWrite hart v) s = .next { s with dev := d } ∧
        s.dev.Only d [Reg.cmpTrackRecord, stateReg cmpPage] ∧ d.code cmpPage = 2) ∧
    (s.dev.ready hlmPage = true → bits v 23 0 ≠ 0 →
      ∃ d, exec (.hlmRingSlotWrite hart v) s = .next { s with dev := d } ∧
        s.dev.Only d [Reg.hlmRingSlot, Reg.hlmRingState, Reg.hlmRingCur, stateReg hlmPage] ∧ d.code hlmPage = 2 ∧
        (d.slotIn 3).isSome = true) ∧
    (bit v 2 = true →
      ∃ d, exec (.redStepNfForce hart v) s = .next { s with dev := d } ∧ s.dev.Calm d ∧ s.dev.Steady d ∧
        d.flag Reg.redStepNf 0 = true) ∧
    (s.dev.fld Reg.hubIfaceAgree 17 16 = 0 →
      ∃ d, exec (.hubIfaceOffer hart v) s = .next { s with dev := d } ∧ s.dev.Only d [Reg.hubIfaceAgree] ∧
        d.fld Reg.hubIfaceAgree 3 0 = bits v 3 0 ∧
        (bits v 3 0 ≠ 0 → s.dev.fld Reg.hubIfaceAgree 11 8 ≤ bits v 3 0 → d.flag Reg.hubIfaceAgree 16 = true ∧
          d.fld Reg.hubIfaceAgree 7 4 = min (bits v 3 0) (s.dev.fld Reg.hubIfaceAgree 15 12)) ∧
        (bits v 3 0 < max 1 (s.dev.fld Reg.hubIfaceAgree 11 8) → d.flag Reg.hubIfaceAgree 17 = true)) ∧
    (s.dev.fld Reg.hubIfaceAgree 17 16 ≠ 0 → exec (.hubIfaceOffer hart v) s = .next s)

/-- A hart's accesses to registers, at its physical addresses (R5, R410, R467, R476 to R478, R482, R488): a plain write changes its
register alone, and in it each RW field takes a value that it admits, a W1C field loses the bits written as 1 and a read-only field
stays; the writes that bring more take their value as well; a read shows the register; EV_EN takes the bits that exist; EV_FORCE
sets its event bit; an access to an absent page is recorded, and a read of one returns 0; an access outside every range, to the boot
ROM to write it, or of harts 0 to 23 to what their protection denies, is a fault that stays with the hart and reaches nothing. -/
def Obligations.RegisterAccesses : Prop :=
  ∀ (s : State) (hart : Fin 28) (p : Page) (a off : Nat) (v : Word) (h : Hart), s.liveHart hart = some h → s.dev.Tidy →
    (pageOf a = some (p, off) → a % 4 = 0 → a < pageWindow →
      (s.reaches hart p true = true → ownRow p off v = false → off ≠ 0x018 → a ≠ Reg.logDrainedLo → a ≠ Reg.thmCfg →
        a ≠ Reg.chtPostHead → [Reg.pwrCap, Reg.pwrClkLimits, Reg.thmAlertCap].contains a = false →
        ∃ d, exec (.registerWrite hart (windowBase + a) v) s = .next { s with dev := d } ∧ s.dev.Only d [a] ∧
          ∀ f, f ∈ fieldsAt a →
          (f.acc = .ro → d.fld a f.hi f.lo = s.dev.fld a f.hi f.lo) ∧
          (s.dev.takesWrite a f.lo = true →
            (f.acc = .w1c → d.fld a f.hi f.lo = bits (s.dev.reg a &&& ~~~v) f.hi f.lo) ∧
            (f.acc = .rw → f.least ≤ bits v f.hi f.lo → bits v f.hi f.lo ≤ f.most → f.floor ≤ bits v f.hi f.lo →
              d.fld a f.hi f.lo = bits v f.hi f.lo))) ∧
      (s.reaches hart p true = true → ownRow p off v = false → off = 0x018 →
        ∃ d, exec (.registerWrite hart (windowBase + a) v) s = .next { s with dev := d } ∧ s.dev.Only d [stateReg p] ∧
          d.code p = s.dev.code p ∧
          d.fld (stateReg p) 19 16 = if bits v 15 8 ≠ s.dev.fld (stateReg p) 15 8 then 2 else 3) ∧
      (s.reaches hart p true = true → a = Reg.logDrainedLo → exec (.registerWrite hart (windowBase + a) v) s =
        .next { s with dev := { s.dev with log := { s.dev.log with drainedLo := v } } }) ∧
      (s.reaches hart p true = true → a = Reg.thmCfg ∨ [Reg.pwrCap, Reg.pwrClkLimits, Reg.thmAlertCap].contains a = true →
        ∃ d, exec (.registerWrite hart (windowBase + a) v) s = .next { s with dev := d } ∧ s.dev.Steady d ∧
          s.dev.SameMemory d ∧ 
          (a = Reg.thmCfg → ∀ e, e = s.dev.store a v → d = if e.throttleC + 5 ≤ e.fld a 15 8 then e else s.dev) ∧
          (a ≠ Reg.thmCfg → d.reg a = (s.dev.store a v).reg a)) ∧
      (s.reaches hart p true = true → a = Reg.chtPostHead → exec (.registerWrite hart (windowBase + a) v) s =
        .next { s with dev := Dev.runPosts postFuel (s.dev.store a v) }) ∧
      (s.reaches hart p true = false → exec (.registerWrite hart (windowBase + a) v) s = .next s) ∧
      (ownRead p off = false → s.reaches hart p false = true →
        exec (.registerLoRead hart (windowBase + a)) s =
          .next { s with harts := s.harts.set hart (s.hartSees h p off a) })) ∧
    (s.reaches hart p true = true →
      (∃ d, exec (.evEnWrite hart p v) s = .next { s with dev := d } ∧ s.dev.SameMemory d ∧ s.dev.Steady d ∧
        (∀ a, configReg a = true → a ≠ evEnReg p → d.reg a = s.dev.reg a) ∧
        ∀ b, b < 32 → d.flag (evEnReg p) b = (decide (b < eventCount p) && bit v b)) ∧
      ∃ d, exec (.evForceWrite hart p v) s = .next { s with dev := d } ∧ s.dev.Calm d ∧ s.dev.Steady d ∧
        ∀ b ∈ eventBits p v, d.pend p b = true) ∧
    (pageOf a = none → a % 4 = 0 → a < pageWindow → ∀ write, ∃ t,
      exec (.absentPageAccess hart (windowBase + a) write) s = .next t ∧
        s.dev.Only t.dev [Reg.hubBadAddrLo, Reg.hubBadAddrHi, Reg.hubBadCount] ∧
        (t.dev.reg Reg.hubBadAddrLo).toNat = a % 0x100000000 ∧ t.dev.fld Reg.hubBadAddrHi 3 0 = a / 0x100000000 ∧
        t.dev.fld Reg.hubBadAddrHi 20 16 = hart.val ∧ t.dev.flag Reg.hubBadAddrHi 8 = write ∧
        t.dev.reg Reg.hubBadCount = BitVec.ofNat 32 (min ((s.dev.reg Reg.hubBadCount).toNat + 1) 0xFFFFFFFF) ∧
        t.harts[hart.val]? = some (if write then h else { h with lastRead := 0#32 })) ∧
    ∀ addr width write, 0 < width →
      (hartRange addr = none ∨ hartRange addr = some .bootRom ∧ write = true ∨
        hartRange addr = some .pages ∧ (width ≠ 4 ∧ width ≠ 8 ∨ addr % width ≠ 0) ∨
        (∃ e ∈ h.pmp, e ≠ secWindow ∧ e.lo ≤ addr ∧ addr < e.hi) ∨ s.accessFaults hart addr width write = true →
        exec (.accessFault hart addr width write) s =
          .next { s with harts := s.harts.set hart { h with fault := some ⟨addr, width, write⟩ } }) ∧
      (s.accessFaults hart addr width write = false → exec (.accessFault hart addr width write) s = .next s)

/-! The Logbook. -/

/-- The Logbook's reader and its spill (R346, R349, R350, R437): a read of LOG_NEXT gives the offset of the next record and
moves on by its length, or sets UNDERRUN and repeats; LOG_DRAINED takes an acknowledgement between what is drained and what is
written, and refuses any other with its event; the spill begins when the package is parked, keeps the append offset, and
leaves in flash what was there and every whole record not acknowledged, or its page in FAULT. -/
def Obligations.LogbookReading : Prop :=
  ∀ (s : State) (hart : Fin 28) (h : Hart) (v : Word) (x : Nat), s.liveHart hart = some h → s.dev.Tidy →
    x = 0x100000000 * v.toNat + s.dev.log.drainedLo.toNat →
    (s.dev.log.nextOut < s.dev.pair Reg.logWriteLo →
      ∃ t, exec (.logNextRead hart) s = .next t ∧ s.dev.Only t.dev [] ∧
        t.dev.log.nextOut = s.dev.log.nextOut + s.dev.recordLength s.dev.log.nextOut ∧
        t.harts[hart.val]? = some { h with lastRead := BitVec.ofNat 32 (s.dev.log.nextOut % 0x100000000 / 8) }) ∧
    (s.dev.pair Reg.logWriteLo ≤ s.dev.log.nextOut →
      ∃ t, exec (.logNextRead hart) s = .next t ∧ s.dev.Calm t.dev ∧ s.dev.Steady t.dev ∧
        t.dev.log.nextOut = s.dev.log.nextOut ∧ t.dev.flag Reg.logStatus 4 = true ∧ t.dev.pend logPage 4 = true ∧
        t.harts[hart.val]? = some { h with lastRead := s.dev.log.lastNext }) ∧
    (s.dev.pair Reg.logDrainedLo ≤ x → x ≤ s.dev.pair Reg.logWriteLo → x % 8 = 0 →
      ∃ d, exec (.logDrainedWrite hart v) s = .next { s with dev := d } ∧
        s.dev.Only d [Reg.logDrainedLo, Reg.logDrainedLo + 4] ∧ d.pair Reg.logDrainedLo = x) ∧
    (x < s.dev.pair Reg.logDrainedLo ∨ s.dev.pair Reg.logWriteLo < x ∨ x % 8 ≠ 0 →
      ∃ d, exec (.logDrainedWrite hart v) s = .next { s with dev := d } ∧ s.dev.Calm d ∧ s.dev.Steady d ∧
        d.pair Reg.logDrainedLo = s.dev.pair Reg.logDrainedLo ∧ d.pend logPage 5 = true) ∧
    (s.dev.parked = true → s.dev.active logPage = true →
      ∃ d, exec .logSpill s = .next { s with dev := d } ∧ s.dev.Only d [stateReg logPage] ∧ d.code logPage = 3 ∧
        d.log.spilling = true ∧ d.flash.spillHeader = s.dev.pair Reg.logWriteLo ∧ d.flash.spill = s.dev.flash.spill) ∧
    (s.dev.parked = false → exec .logSpill s = .next s) ∧
    (s.dev.log.spilling = true → s.dev.fld (stateReg logPage) 23 20 ≠ 1 →
      ∃ d, exec (.spillComplete true) s = .next { s with dev := d } ∧ s.dev.Only d [Reg.logLost] ∧
        d.log.spilling = false ∧ d.code logPage = s.dev.code logPage ∧ ∃ n : Nat, d.flash.spill =
          s.dev.flash.spill ++ s.dev.ringBytes (s.dev.pair Reg.logDrainedLo) (s.dev.pair Reg.logDrainedLo + n)) ∧
    (s.dev.log.spilling = true →
      ∃ d, exec (.spillComplete false) s = .next { s with dev := d } ∧ s.dev.Only d [stateReg logPage] ∧
        d.log.spilling = false ∧ d.code logPage = 7 ∧ d.flash = s.dev.flash)

/-- The time base (R355, R412, R494): while the management channel's page is ACTIVE an exchange on the port in use sets the offset seen
and the lock, and another port's does nothing; a change of the port loses the lock, and the end of the discipline by PPS its flag; an
edge of PPS disciplines the clock where software has enabled it. -/
def Obligations.TimeBase : Prop :=
  ∀ s : State, s.carrier.phase = .running → s.dev.Tidy →
    (∀ m, s.dev.active mgtPage = true → m.port = s.dev.fld Reg.mgtPtpCtrl 0 0 → s.dev.mgt.up.getD m.port false = true →
      ∃ d, exec (.ptpMessage m) s = .next { s with dev := d } ∧ s.dev.Calm d ∧ s.dev.Steady d ∧
        d.log.ptpOffset = m.offsetNs ∧ d.flag Reg.logStatus 6 = decide (m.offsetNs.natAbs ≤ 1000)) ∧
    (∀ m, s.dev.active mgtPage = false ∨ m.port ≠ s.dev.fld Reg.mgtPtpCtrl 0 0 → exec (.ptpMessage m) s = .next s) ∧
    (∀ (hart : Fin 28) (v : Word), (s.liveHart hart).isSome = true →
      ∃ d, exec (.mgtPtpPortWrite hart v) s = .next { s with dev := d } ∧ s.dev.SameMemory d ∧ s.dev.Steady d ∧
        d.fld Reg.mgtPtpCtrl 1 0 = bits v 1 0 ∧ (bit v 1 = false → d.flag Reg.logStatus 7 = false) ∧
        (s.dev.fld Reg.mgtPtpCtrl 0 0 ≠ bits v 0 0 → d.flag Reg.logStatus 6 = false) ∧
        (s.dev.fld Reg.mgtPtpCtrl 0 0 = bits v 0 0 → d.flag Reg.logStatus 6 = s.dev.flag Reg.logStatus 6)) ∧
    (s.dev.flag Reg.mgtPtpCtrl 1 = true →
      ∃ d, exec .ppsEdge s = .next { s with dev := d } ∧ s.dev.Only d [Reg.logStatus] ∧ d.flag Reg.logStatus 7 = true) ∧
    (s.dev.flag Reg.mgtPtpCtrl 1 = false → exec .ppsEdge s = .next s)

/-! Mailboxes, interrupts and inputs. -/

/-- The mailboxes (R415): a write of the low word is staged for its hart; the high word completes a packet and resets the
staged word; the packet goes in last with its notice, or is ignored with MBX_OVERRUN where 64 wait; the owner reads the oldest packet and removes it with its
high word; a read of an empty mailbox repeats the last word with MBX_UNDERRUN, another hart's returns 0; OWNER changes only
while the mailbox is empty. -/
def Obligations.Mailboxes : Prop :=
  ∀ (s : State) (hart : Fin 28) (m : Fin 32) (h : Hart) (b : Mailbox) (v lo : Word), s.liveHart hart = some h → s.dev.Tidy →
    s.mbx[m.val]? = some b → Assoc.wf stagedWord h.staged = true → lo = Assoc.get stagedWord h.staged m →
    (∃ h', exec (.mbxPutLo hart m v) s = .next { s with harts := s.harts.set hart h' } ∧
      Assoc.get stagedWord h'.staged m = v ∧ ∀ n, n ≠ m.val → Assoc.get stagedWord h'.staged n = Assoc.get stagedWord h.staged n) ∧
    (b.packets.length < 64 → ∃ t, exec (.mbxPutHi hart m v) s = .next t ∧ s.dev.Calm t.dev ∧ s.dev.Steady t.dev ∧
      t.mbx = s.mbx.set m { b with packets := b.packets ++ [⟨lo, v, hart⟩] } ∧ t.dev.flag (Reg.irqPending 6) m = true ∧
      ∃ h', t.harts = s.harts.set hart h' ∧ Assoc.get stagedWord h'.staged m = 0#32) ∧
    (64 ≤ b.packets.length → ∃ t, exec (.mbxPutHi hart m v) s = .next t ∧ s.dev.Calm t.dev ∧ s.dev.Steady t.dev ∧
      t.mbx = s.mbx.set m { b with overrun := true } ∧ t.dev.pend hubPage 1 = true ∧
      ∃ h', t.harts = s.harts.set hart h' ∧ Assoc.get stagedWord h'.staged m = 0#32) ∧
    (b.owner = hart.val →
      (∀ p rest, b.packets = p :: rest →
        exec (.mbxGetLo hart m) s = .next { s with
          harts := s.harts.set hart { h with lastRead := p.lo }
          mbx := s.mbx.set m { b with lastLo := p.lo } } ∧
        exec (.mbxGetHi hart m) s = .next { s with
          harts := s.harts.set hart { h with lastRead := p.hi }
          mbx := s.mbx.set m { b with packets := rest, lastHi := p.hi } }) ∧
      (b.packets = [] →
        (∃ t, exec (.mbxGetLo hart m) s = .next t ∧ s.dev.Calm t.dev ∧ t.dev.pend hubPage 2 = true ∧
          t.mbx = s.mbx.set m { b with underrun := true } ∧ t.harts[hart.val]? = some { h with lastRead := b.lastLo }) ∧
        ∃ t, exec (.mbxGetHi hart m) s = .next t ∧ s.dev.Calm t.dev ∧ t.dev.pend hubPage 2 = true ∧
          t.mbx = s.mbx.set m { b with underrun := true } ∧ t.harts[hart.val]? = some { h with lastRead := b.lastHi })) ∧
    (b.owner ≠ hart.val →
      exec (.mbxGetLo hart m) s = .next { s with harts := s.harts.set hart { h with lastRead := 0#32 } } ∧
      exec (.mbxGetHi hart m) s = .next { s with harts := s.harts.set hart { h with lastRead := 0#32 } }) ∧
    ∃ b', exec (.mbxOwnerWrite hart m v) s = .next { s with mbx := s.mbx.set m b' } ∧ b'.packets = b.packets ∧
      (b.packets ≠ [] → b'.owner = b.owner) ∧ (b.packets = [] → bits v 4 0 < 28 → b'.owner = bits v 4 0) ∧
      b'.overrun = (b.overrun && !bit v 18) ∧ b'.underrun = (b.underrun && !bit v 19)

/-- The interrupt controller (R418 to R424): a claim takes a source above the hart's running priority, whose pending flag it
clears and whose priority the hart then runs at, and begins its group's hold-off; it reads 0xFFFF where none is offered or the hart
is another; a completion ends the latest claim, and any other raises its event; software's sources become pending; a count of missed
edges is cleared; a hold-off ends with its time and not before. -/
def Obligations.InterruptControl : Prop :=
  ∀ (s : State) (hart : Fin 28) (h : Hart) (v : Word), s.Sound → s.liveHart hart = some h →
    (∀ x, s.offered hart = some x →
      ∃ t, exec (.irqClaim hart hart) s = .next t ∧ s.dev.Only t.dev [Reg.irqPending (x / 32)] ∧
        running s.claims hart < s.dev.prioOf x ∧ running t.claims hart = s.dev.prioOf x ∧
        s.dev.flag (Reg.irqPending (x / 32)) (x % 32) = true ∧
        t.dev.flag (Reg.irqPending (x / 32)) (x % 32) = false ∧
        (s.dev.fld (Reg.irqHoldoff (x / 32)) 15 0 ≠ 0 → s.dev.irq.holdUntil[x / 32]? = some 0 →
          t.dev.irq.holdUntil[x / 32]? = some (s.dev.now + us (s.dev.fld (Reg.irqHoldoff (x / 32)) 15 0))) ∧
        t.harts[hart.val]? = some { h with lastRead := BitVec.ofNat 32 x } ∧
        ∀ k, k ≠ hart.val → t.claims[k]? = s.claims[k]? ∧ t.harts[k]? = s.harts[k]?) ∧
    (s.offered hart = none →
      exec (.irqClaim hart hart) s = .next { s with harts := s.harts.set hart { h with lastRead := 0xFFFF#32 } }) ∧
    (∀ k, k ≠ hart →
      exec (.irqClaim k hart) s = .next { s with harts := s.harts.set hart { h with lastRead := 0xFFFF#32 } } ∧
      exec (.irqComplete k hart v) s = .next s) ∧
    (∀ c rest, s.claims[hart.val]? = some (c :: rest) → c.source = bits v 9 0 →
      exec (.irqComplete hart hart v) s = .next { s with claims := s.claims.set hart rest }) ∧
    ((∀ c rest, s.claims[hart.val]? = some (c :: rest) → c.source ≠ bits v 9 0) →
      ∃ d, exec (.irqComplete hart hart v) s = .next { s with dev := d } ∧ s.dev.Calm d ∧ s.dev.Steady d ∧
        d.pend (page1 .irq) 2 = true) ∧
    (224 ≤ bits v 9 0 → bits v 9 0 ≤ 255 →
      ∃ d, exec (.irqSwTrigger hart v) s = .next { s with dev := d } ∧ s.dev.Calm d ∧ s.dev.Steady d ∧
        d.flag (Reg.irqPending 7) (bits v 9 0 - 224) = true) ∧
    (bits v 9 0 < 224 → exec (.irqSwTrigger hart v) s = .next s) ∧
    (∃ d, exec (.irqMissedClear hart v) s = .next { s with dev := d } ∧ s.dev.Only d [Reg.irqMissed (bits v 9 0 / 4)] ∧
      d.fld (Reg.irqMissed (bits v 9 0 / 4)) (8 * (bits v 9 0 % 4) + 7) (8 * (bits v 9 0 % 4)) = 0) ∧
    ∀ (g : Fin 32) (n : Nat), s.dev.irq.holdUntil[g.val]? = some n → n ≠ 0 →
      (n ≤ s.dev.now →
        ∃ d, exec (.holdoffExpiry g) s = .next { s with dev := d } ∧ s.dev.Only d [] ∧ d.heldOff g = false ∧
          d.irq.holdUntil[g.val]? = some 0 ∧ ∀ k, k ≠ g.val → d.heldOff k = s.dev.heldOff k) ∧
      (s.dev.now < n → exec (.holdoffExpiry g) s = .next s)

/-- The external inputs (R417, R442, R448, R452): the raw level with the time of its change; 16 µs later the filtered level takes it,
with the edge of its source where it becomes active: LATCH opening is an event and begins the grace, unless a quiesce has begun,
PWR_FAIL brings level 3 at once, and ALERT holds the power to its cap until it ends; an input active for STUCK_MS is stuck, with its
edge and its event. -/
def Obligations.ExternalInputs : Prop :=
  ∀ (s : State) (i : Fin 5) (x : ExtInput) (level : Bool), s.carrier.phase = .running → s.dev.Tidy →
    s.dev.ext[i.val]? = some x →
    (x.raw ≠ level →
      exec (.extInputRawChange i level) s = .next { s with
        dev := s.dev.setInput i { x with raw := level, rawSince := s.dev.now } }) ∧
    (x.raw ≠ x.level → x.rawSince + us 16 ≤ s.dev.now →
      ∃ d, exec (.extInputFiltered i) s = .next { s with dev := d } ∧ s.dev.SameConfig d ∧ s.dev.SameMemory d ∧
        (d.input i).level = x.raw ∧ (x.raw = true → d.flag (Reg.irqPending 5) i = true) ∧
        (x.raw = true → i = 1 → 3 ≤ d.pwr.level) ∧
        (x.raw = true → i = 0 → d.pend hotPage 0 = true ∧ (d.pwr.quiesced = true ∨ d.pwr.graceFrom = some s.dev.now)) ∧
        (x.raw = true → i = 2 → d.pwr.alertCap = some s.dev.cappedPower ∧ d.pend (page1 .thm) 2 = true) ∧
        (x.raw = false → i = 2 → d.pwr.alertCap = none)) ∧
    (s.dev.now < x.rawSince + us 16 → exec (.extInputFiltered i) s = .next s) ∧
    (x.level = true → x.stuck = false → x.activeSince + ms (max 1 (s.dev.fld (Reg.irqExtCfg i) 15 0)) ≤ s.dev.now →
      ∃ d, exec (.inputStuck i) s = .next { s with dev := d } ∧ s.dev.Calm d ∧ s.dev.Steady d ∧
        (d.input i).stuck = true ∧ d.flag (Reg.irqPending 5) (i + 8) = true ∧ d.pend (page1 .irq) 0 = true)

/-! Management, reset and boot. -/

/-- The management side (R405, R469 to R473, R494): a link of a port that is on raises its event as it changes; in an open session the
roll call is numbered, reports the pages that changed, and starts their counts afresh; a report carries its nonce and the package's
serial number in its signed body, and the identity's chain; a handshake that is admitted is answered with that chain and opens a
session, another raises its event; a token that passes every check adds its scope, another is counted with its reason, the eighth
locks tokens out, and either redraws the nonce; a token refused unchecked changes nothing. -/
def Obligations.ManagementChannel : Prop :=
  ∀ s : State, s.carrier.phase = .running → s.dev.Tidy →
    (∀ (port : Fin 2) (up : Bool), s.dev.mgtPortOn port = true → s.dev.mgt.up[port.val]? = some (!up) →
      ∃ d, exec (.mgtLinkChange port up) s = .next { s with dev := d } ∧ s.dev.Calm d ∧ s.dev.Steady d ∧
        d.mgt.up[port.val]? = some up ∧ d.pend mgtPage (if up then 0 else 1) = true) ∧
    (s.dev.channel = true → ∀ n, n = (s.dev.mgt.rollSeq + 1) % 0x100000000 →
      ∃ d, exec .rollCall s = .next { s with dev := d } ∧ s.dev.Only d [] ∧ d.mgt.rollSeq = n ∧ d.mgt.changes = [] ∧
        d.mgt.rollCall = s.dev.rollCall n) ∧
    (∀ nonce : List Byte, s.dev.channel = true → nonce.length = 32 →
      ∃ d, exec (.attestationRequest nonce) s = .next { s with dev := d } ∧ s.dev.Only d [] ∧
        (d.mgt.report.drop 8).take 32 = nonce ∧ u64 d.mgt.report 40 = s.fuse.serial.toNat ∧
        d.mgt.report.take (s.reportBody nonce).length = s.reportBody nonce ∧ d.mgt.reportChain = s.dev.flash.chain) ∧
    (∀ hello, s.dev.mgtPortOn hello.port = true → s.dev.mgt.up.getD hello.port false = true →
      (TlsHello.admitted hello = true → s.dev.mgt.sessions < 8 →
        ∃ d, exec (.tlsHandshake hello) s = .next { s with dev := d } ∧ s.dev.Only d [] ∧
          d.mgt.sessions = s.dev.mgt.sessions + 1 ∧ d.mgt.presented.1 = s.dev.flash.chain) ∧
      (TlsHello.admitted hello = false ∨ 8 ≤ s.dev.mgt.sessions →
        ∃ d, exec (.tlsHandshake hello) s = .next { s with dev := d } ∧ s.dev.Calm d ∧ s.dev.Steady d ∧
          d.mgt.sessions = s.dev.mgt.sessions ∧ d.pend secPage 3 = true)) ∧
    ∀ token, s.dev.channel = true →
      (s.dev.flag Reg.secDebug 12 = true →
        ∃ d, exec (.debugUnlockToken token) s = .next { s with dev := d } ∧ s.dev.Calm d ∧ s.dev.Steady d ∧
          d.reg Reg.secDebug = s.dev.reg Reg.secDebug ∧ d.mgt.nonce = s.dev.mgt.nonce ∧ d.pend secPage 2 = true) ∧
      (s.dev.flag Reg.secDebug 12 = false →
        (s.tokenReason token = 0 →
          ∃ d, exec (.debugUnlockToken token) s = .next { s with dev := d } ∧ s.dev.Calm d ∧ s.dev.Steady d ∧
            d.fld Reg.secDebug 7 0 = s.dev.fld Reg.secDebug 7 0 ||| u8 token 3 ∧ d.mgt.nonce.length = 16 ∧
            d.pend secPage 1 = true) ∧
        (s.tokenReason token ≠ 0 →
          ∃ d, exec (.debugUnlockToken token) s = .next { s with dev := d } ∧ s.dev.Calm d ∧ s.dev.Steady d ∧
            d.fld Reg.secDebug 7 0 = s.dev.fld Reg.secDebug 7 0 ∧ d.fld Reg.secDebug 15 13 = s.tokenReason token ∧
            d.fld Reg.secDebug 11 8 = min 15 (s.dev.fld Reg.secDebug 11 8 + 1) ∧
            d.flag Reg.secDebug 12 = decide (7 ≤ s.dev.fld Reg.secDebug 11 8) ∧ d.mgt.nonce.length = 16 ∧
            d.pend secPage 2 = true))

/-- Reset and recovery (R409, R412, R433, R450, R468): with the reference clock present, the input and the 1.8 V rail in range for 2 ms,
power-on reset is released 4 ms into the soft start, or 2 ms after a reset that had to wait for the clock, and not before; a reset on
request of the management channel, and, in recovery mode and in a session, a bundle that passes every check, written over the copy
that failed first, start the package afresh; a bundle refused leaves its code; without the clock the package is held. -/
def Obligations.ResetsStartAfresh : Prop :=
  ∀ s : State,
    (∀ input rail t, t = s.sample input →
      ((s.carrier.phase = .softStart ∧ s.carrier.since + ms 4 ≤ s.dev.now ∨
          s.carrier.phase = .held ∧ s.carrier.since + ms 2 ≤ s.dev.now) → s.carrier.refclk = true →
        AvgRun.holds inputInRange 2000 t.carrier.avg = true → railGood rail = true →
        ∃ u, exec (.resetRelease input rail) s = .next u ∧ s.Afresh u s.carrier.cause) ∧
      (s.carrier.phase = .softStart ∧ s.dev.now < s.carrier.since + ms 4 ∨
          s.carrier.phase = .held ∧ s.dev.now < s.carrier.since + ms 2 ∨ s.carrier.refclk = false ∨
          AvgRun.holds inputInRange 2000 t.carrier.avg = false ∨ railGood rail = false →
        exec (.resetRelease input rail) s = .next t)) ∧
    (s.carrier.phase = .running → s.dev.channel = true →
      (s.carrier.refclk = true → ∃ t, exec .softwareReset s = .next t ∧ s.Afresh t 2) ∧
      (s.carrier.refclk = false → exec .softwareReset s =
        .next { s with carrier := { s.carrier with phase := .held, since := s.dev.now, cause := 2 } })) ∧
    ∀ bundle x, x = bundleOf bundle → s.carrier.phase = .running → s.dev.boot.recovery = true →
      s.dev.mgt.up.getD 0 false = true → 0 < s.dev.mgt.sessions →
      (x.checkAll s.fuse = 0 → s.carrier.refclk = true → ∃ t s', exec (.recoveryBundle bundle) s = .next t ∧
        s' = { s with dev := { s.dev with flash := s.dev.flash.writeCopy (s.dev.boot.firstFailed.getD false) x } } ∧
        s'.Afresh t s.carrier.cause) ∧
      (x.checkAll s.fuse ≠ 0 →
        exec (.recoveryBundle bundle) s =
          .next { s with dev := { s.dev with mgt := { s.dev.mgt with refused := x.checkAll s.fuse } } })

/-- The boot's stages (R412, R413, R465 to R468) and what stops a package (R13, R411): stage 1 passes with sound fuses; stage 2
takes a copy that passes, or leaves the package in recovery; stage 3 wakes power, thermal and dies; stages 4 and 5 go on once every
stack is ACTIVE and the maps are applied; stage 6 blows what its copy asks for and wakes the SEC page, or leaves that copy out and
starts afresh; stage 7 releases the harts, 0 to 23 locked out of the service region and the SEC page; stage 8 wakes the management
channel, the spill drained; stage 9 ends with the HUB page READY; another stage that fails leaves its code and the HUB page in FAULT,
as do the loss of the reference clock and a parity error of the hub's SRAM; a stack filled with zeros goes ACTIVE. -/
def Obligations.BootStages : Prop :=
  ∀ s : State, s.carrier.phase = .running → s.dev.Tidy →
    (s.dev.code hubPage = 0 →
      (s.dev.boot.stage = 1 → s.fuse.parityGood = true →
        ∃ d, exec (.bootStageComplete .done) s = .next { s with dev := d } ∧ s.dev.Only d [] ∧ d.boot.stage = 2) ∧
      (s.dev.boot.stage = 1 → s.fuse.parityGood = false →
        ∃ d, exec (.bootStageComplete .done) s = .next { s with dev := d } ∧ s.dev.Calm d ∧ s.dev.Steady d ∧
          d.boot.error = 1 ∧ d.code hubPage = 7) ∧
      (s.dev.boot.stage = 2 →
        (∀ b, s.chooseCopy = some b → ∃ d f, exec (.bootStageComplete .done) s =
          .next { s with carrier := { s.carrier with firstFailed := f }, dev := d } ∧ s.dev.Only d [] ∧ d.boot.stage = 3 ∧
            d.boot.copy = some b) ∧
        (s.chooseCopy = none → ∃ d f, exec (.bootStageComplete .done) s =
          .next { s with carrier := { s.carrier with firstFailed := some f }, dev := d } ∧ s.dev.Calm d ∧
            d.boot.recovery = true ∧ d.code hubPage = 7 ∧ d.boot.firstFailed = some f ∧ d.boot.error = s.copyCode f)) ∧
      (s.dev.boot.stage = 3 →
        ∃ d, exec (.bootStageComplete .done) s = .next { s with dev := d } ∧ s.dev.Calm d ∧ s.dev.Steady d ∧
          d.boot.stage = 4 ∧ d.active pwrPage = true ∧ d.active thmPage = true ∧ ∀ x, x < 12 → d.active ⟨.die, x⟩ = true) ∧
      (s.dev.boot.stage = 4 →
        ((∀ x, x < 24 → s.dev.active (memPage x) = true) →
          ∃ d, exec (.bootStageComplete .done) s = .next { s with dev := d } ∧ s.dev.Only d [] ∧ d.boot.stage = 5) ∧
        (∀ x, x < 24 → s.dev.active (memPage x) = false → exec (.bootStageComplete .done) s = .next s)) ∧
      (s.dev.boot.stage = 5 →
        ∃ d, exec (.bootStageComplete .done) s = .next { s with dev := d } ∧ s.dev.Calm d ∧ s.dev.Steady d ∧
          d.boot.stage = 6 ∧ d.boot.error = s.dev.boot.error) ∧
      (s.dev.boot.stage = 6 → ∀ b c, c = s.dev.boot.copy.getD false → b = s.dev.flash.copy c →
        (b.restGood = true → b.readable = true →
          ∃ d, exec (.bootStageComplete .done) s = .next { s with fuse := s.fuse.blow b, dev := d } ∧ s.dev.Calm d ∧
            s.dev.Steady d ∧ d.boot.stage = 7 ∧ d.active secPage = true) ∧
        ∀ result n, result = .done ∧ n = (if b.restGood then 8 else 6) ∧ (b.restGood && b.readable) = false ∨
            result = .failed (BitVec.ofNat 8 n) ∧ n < 256 → s.carrier.refclk = true →
          ∃ t, exec (.bootStageComplete result) s = .next t ∧ s.Afresh t s.carrier.cause ∧
            t.carrier.excluded = s.carrier.excluded ++ [(c, n)]) ∧
      (s.dev.boot.stage = 7 →
        ∃ t, exec (.bootStageComplete .done) s = .next t ∧ t.dev.boot.stage = 8 ∧ t.dev.mem = s.dev.mem ∧
          t.harts.length = s.harts.length ∧ ∀ (k : Nat) (h : Hart), t.harts[k]? = some h →
            h.released = true ∧ (k < 24 → h.pmp = [serviceRegion, secWindow])) ∧
      (s.dev.boot.stage = 8 →
        ∃ d, exec (.bootStageComplete .done) s = .next { s with dev := d } ∧ s.dev.Only d [stateReg mgtPage] ∧
          d.boot.stage = 9 ∧ d.active mgtPage = true ∧ d.flash.spill = []) ∧
      (s.dev.boot.stage = 9 →
        ∃ d, exec (.bootStageComplete .done) s = .next { s with dev := d } ∧ s.dev.Calm d ∧ s.dev.Steady d ∧
          d.boot.stage = 15 ∧ d.code hubPage = 1 ∧ d.pend hubPage 0 = true) ∧
      ∀ code : BitVec 8, s.dev.boot.stage ≤ 9 → s.dev.boot.stage ≠ 6 →
        ∃ d, exec (.bootStageComplete (.failed code)) s = .next { s with dev := d } ∧ s.dev.Calm d ∧ s.dev.Steady d ∧
          d.boot.error = code.toNat ∧ d.code hubPage = 7) ∧
    (∀ x : Fin 24, s.dev.boot.stage = 4 → s.dev.ready (memPage x) = true →
      ∃ d, exec (.dramFillComplete x) s = .next { s with dev := d } ∧ s.dev.Calm d ∧ s.dev.Steady d ∧
        d.active (memPage x) = true ∧ d.pend (memPage x) 6 = true) ∧
    (∀ a, a < 0x4000000 →
      ∃ d, exec (.sramParityError a) s = .next { s with dev := d } ∧ s.dev.Calm d ∧ s.dev.Steady d ∧ d.code hubPage = 7 ∧
        d.pend hubPage 3 = true ∧ d.flash.crash.length = s.dev.flash.crash.length + 1) ∧
    (∃ d, exec .refclkLoss s = .next { s with carrier := { s.carrier with refclk := false }, dev := d } ∧
      s.dev.Only d [stateReg hubPage] ∧ d.code hubPage = 7) ∧
    exec .refclkPresent s = .next { s with carrier := { s.carrier with refclk := true } }

/-! The carrier. -/

/-- Insertion and removal (R431, R432, R447, R449 to R451, R454, R455, R499): each event takes the controller to its phase, from which its times
count: 10 ms of debounce with the Latch closed and the input in range, the ramp, a fault of it with at most three retries a second
apart, the soft start; a break with the switch open waits for the next insertion; removal under power and excess current open the
switch at once, and the package keeps its flash alone; the lockout after a third trip stands until 54 V goes. -/
def Obligations.InsertionAndRemoval : Prop :=
  ∀ s : State,
    (s.carrier.phase = .unmated →
      exec .prsntMate s = .next { s with
        carrier := { s.carrier with mated := true, phase := .debounce, since := s.dev.now, cause := 1 } }) ∧
    (∀ input t, t = s.sample input →
      (s.carrier.phase = .offRemoved ∨ s.carrier.phase = .debounce ∧ s.carrier.since + ms 10 ≤ s.dev.now →
        s.latchOpen = false → inputInRange t.carrier.newestAvg = true →
        exec (.insertionDebounceEnd input) s = .next { t with
          carrier := { t.carrier with phase := .ramp, since := s.dev.now, cause := 1, retries := 0 } }) ∧
      (s.carrier.phase = .debounce ∧ s.dev.now < s.carrier.since + ms 10 ∨ s.latchOpen = true ∨
        inputInRange t.carrier.newestAvg = false → exec (.insertionDebounceEnd input) s = .next t)) ∧
    (s.carrier.phase = .ramp →
      (∃ t, exec .rampComplete s = .next t ∧ t.carrier.phase = .softStart ∧ t.carrier.since = s.dev.now ∧
        t.carrier.peakDa ≤ 1200 ∧ t.dev = { s.dev with freeCtr := t.dev.freeCtr }) ∧
      exec .rampFault s = .next { s with
        carrier := { s.carrier with
          phase := (if s.carrier.retries < 3 then .retryWait else .locked true)
          since := s.dev.now } }) ∧
    (s.carrier.phase = .retryWait →
      (s.carrier.since + ms 1000 ≤ s.dev.now →
        exec .rampRetry s = .next { s with
          carrier := { s.carrier with phase := .ramp, since := s.dev.now, retries := s.carrier.retries + 1 } }) ∧
      (s.dev.now < s.carrier.since + ms 1000 → exec .rampRetry s = .next s)) ∧
    (s.carrier.phase ≠ .dark → s.carrier.phase ≠ .locked false → s.carrier.phase.closed = false →
      exec .prsntBreak s = .next { s with carrier := { s.carrier with mated := false, phase := .unmated, since := s.dev.now } }) ∧
    (s.carrier.phase = .locked false →
      exec .prsntBreak s = .next { s with carrier := { s.carrier with mated := false } }) ∧
    (s.carrier.phase.closed = true → exec .prsntBreak s = .next s ∧ ∀ c p mated,
      (c, p, mated) ∈ [(Instr.surpriseRemoval, CarrierPhase.unmated, false),
        (.overcurrentTrip, .locked true, s.carrier.mated)] →
        ∃ t, exec c s = .next t ∧
          t.carrier = { s.carrier with
            mated := mated
            phase := (match s.carrier.phase, s.carrier.afterOff with
              | .poweringOff _, .locked false => .locked false
              | _, _ => p)
            since := s.dev.now } ∧
          t.dev.flash = s.dev.cutSpill.flash ∧ t.dev.mem = [] ∧ t.dev.regs = [] ∧ t.fuse = s.fuse ∧ t.pending = s.pending) ∧
    (s.carrier.phase.closed = false → exec .surpriseRemoval s = .next s ∧ exec .overcurrentTrip s = .next s)

/-- Power taken away in order (R433, R434, R439, R440, R447, R453, R454): the quiesce ends in it, as do shed level 5, level 4 once the
input has recovered, a trip, and a rail other than a core's that lies more than 10% off; its steps follow 1 ms apart, with DRAM lost
at the third; the package starts again once the input has held for 100 ms after a sag, and 10 s after a trip, and after the third trip
within 10 minutes not at all. -/
def Obligations.PowerOff : Prop :=
  ∀ s : State,
    (s.carrier.phase = .running →
      (s.dev.quiesceOver = true ∨ s.dev.pwr.quiesced = true ∧ s.sagOver = true → ∃ t, exec .controlledPowerOff s = .next t ∧
        t.carrier.phase = .poweringOff 1 ∧ t.carrier.since = s.dev.now ∧ t.carrier.afterOff = .offRemoved ∧
        t.dev = s.dev.cutSpill) ∧
      (s.dev.pwr.quiesced = false → s.dev.pwr.level = 5 ∨ s.dev.pwr.level = 4 ∧
          4 * s.dev.sagThreshold 4 ≤ s.carrier.newestAvg → ∃ t, exec .controlledPowerOff s = .next t ∧
        t.carrier.phase = .poweringOff 1 ∧ t.carrier.since = s.dev.now ∧ t.carrier.afterOff = .offSag ∧
        t.dev = s.dev.cutSpill) ∧
      (s.dev.quiesceOver = false → s.sagOver = false → exec .controlledPowerOff s = .next s) ∧
      (∀ c, (s.dev.trips c = true → ∃ t, exec (.thermalTrip c) s = .next t ∧ t.carrier.phase = .poweringOff 1 ∧
        t.carrier.trips = s.dev.now :: s.carrier.trips ∧ t.dev = s.dev.cutSpill ∧
        t.carrier.afterOff = (match s.carrier.trips with
          | _ :: a :: _ => if s.dev.now ≤ a + 600 * 1000000000 then .locked false else .offTrip
          | _ => .offTrip)) ∧
        (s.dev.trips c = false → exec (.thermalTrip c) s = .next s)) ∧
      ∀ r uv, (s.railOff r uv = false → exec (.railFault r uv) s = .next s) ∧
        (s.railOff r uv = true → s.dev.Tidy →
          (∀ x, r = .core x → x < 2400 → ∃ d, exec (.railFault r uv) s = .next { s with dev := d } ∧ s.dev.Calm d ∧
            d.code (cluPage x) = 7 ∧ d.pend pwrPage 4 = true) ∧
          ((∀ x, r ≠ .core x) → ∃ t, exec (.railFault r uv) s = .next t ∧ t.carrier.phase = .poweringOff 1 ∧
            t.carrier.afterOff = .locked true ∧ t.dev.code hubPage = 7 ∧ t.dev.code pwrPage = 7))) ∧
    (∀ n, s.carrier.phase = .poweringOff n →
      (s.carrier.since + ms 1 ≤ s.dev.now →
        ∃ t, exec .powerOffRailStep s = .next t ∧ t.carrier.since = s.dev.now ∧
          t.carrier.phase = (if n = 5 then s.carrier.afterOff else .poweringOff (n + 1)) ∧
          (n = 2 → t.dev = { s.dev with mem := [] }) ∧ (n = 4 → t.dev.regs = [] ∧ t.dev.flash = s.dev.flash) ∧
          (n ≠ 2 → n ≠ 4 → t.dev = s.dev)) ∧
      (s.dev.now < s.carrier.since + ms 1 → exec .powerOffRailStep s = .next s)) ∧
    (s.carrier.phase = .offSag → ∀ input t, t = s.sample input →
      (s.carrier.since + ms 100 ≤ s.dev.now → s.dev.recovered t.carrier.avg 1 100000 = true →
        exec (.sagRestart input) s = .next { t with
          carrier := { t.carrier with phase := .ramp, since := s.dev.now, cause := 3, retries := 0 } }) ∧
      (s.dev.now < s.carrier.since + ms 100 ∨ s.dev.recovered t.carrier.avg 1 100000 = false →
        exec (.sagRestart input) s = .next t)) ∧
    (s.carrier.phase = .offTrip →
      (s.carrier.since + ms 10000 ≤ s.dev.now →
        exec .tripRestart s = .next { s with
          carrier := { s.carrier with phase := .ramp, since := s.dev.now, cause := 4, retries := 0 } }) ∧
      (s.dev.now < s.carrier.since + ms 10000 → exec .tripRestart s = .next s))

/-- Shedding and the quiesce (R434 to R442, R452, R460): a level is entered from the one below once the averaged input has lain below
its threshold for its persistence, and left once the input has stayed above its threshold and the hysteresis for the recovery time,
each with its event; level 4 stops the work of both streams and is not left; a threshold is taken only where it keeps its range and
its distance; the grace ends in the quiesce, which software may also begin, by a bit that reads 0 again (log entry 65). -/
def Obligations.SheddingAndQuiesce : Prop :=
  ∀ s : State, s.carrier.phase = .running → s.dev.Tidy →
    (∀ input t, t = s.sample input →
      (∀ level : Fin 6, level.val = s.dev.pwr.level + 1 →
        AvgRun.holds (fun a => decide (a < 4 * s.dev.sagThreshold level)) (s.dev.persistUs level) t.carrier.avg = true →
        ∃ d, exec (.shedLevelEnter level input) s = .next { t with dev := d } ∧ s.dev.SameConfig d ∧ s.dev.SameMemory d ∧
          d.now = s.dev.now ∧ d.pwr.level = level ∧ d.pwr.since = s.dev.now ∧ d.pend pwrPage 0 = true ∧
          (level = 4 → d.seqMain.running = none ∧ d.seqBf.running = none)) ∧
      (∀ level : Fin 6, level.val ≠ s.dev.pwr.level + 1 ∨
        AvgRun.holds (fun a => decide (a < 4 * s.dev.sagThreshold level)) (s.dev.persistUs level) t.carrier.avg = false →
        exec (.shedLevelEnter level input) s = .next t) ∧
      (∀ n, s.dev.pwr.level = n + 1 → n < 3 → (n = 2 → (s.dev.input 1).level = false) →
        s.dev.recovered t.carrier.avg (if n = 2 then 1 else n + 1) s.dev.recoverUs = true →
        ∃ d, exec (.shedLevelLeave input) s = .next { t with dev := d } ∧ s.dev.Calm d ∧ s.dev.Steady d ∧ d.pwr.level = n ∧
          d.pend pwrPage 1 = true) ∧
      (∀ n, s.dev.pwr.level = n + 1 → n < 3 → s.dev.recovered t.carrier.avg (if n = 2 then 1 else n + 1) s.dev.recoverUs = false →
        exec (.shedLevelLeave input) s = .next t) ∧
      (3 < s.dev.pwr.level → exec (.shedLevelLeave input) s = .next t)) ∧
    (∀ (hart : Fin 28) (k : Fin 5) (v : Word), (s.liveHart hart).isSome = true →
      ((sagRange k).1 ≤ bits v 15 0 → bits v 15 0 ≤ (sagRange k).2 →
        (∀ n, n < 4 → s.dev.sagMv k v (n + 1) + 1000 ≤ s.dev.sagMv k v n) →
        ∃ d, exec (.pwrSagCfgWrite hart k v) s = .next { s with dev := d } ∧ s.dev.Only d [Reg.pwrSagCfg k] ∧
          d.fld (Reg.pwrSagCfg k) 15 0 = bits v 15 0) ∧
      (bits v 15 0 < (sagRange k).1 ∨ (sagRange k).2 < bits v 15 0 ∨
        (∃ n, n < 4 ∧ s.dev.sagMv k v n < s.dev.sagMv k v (n + 1) + 1000) →
        ∃ d, exec (.pwrSagCfgWrite hart k v) s = .next { s with dev := d } ∧ s.dev.Calm d ∧ s.dev.Steady d ∧
          d.pend pwrPage 3 = true) ∧
      ∃ d, exec (.hotQuiesceWrite hart v) s = .next { s with dev := d } ∧ s.dev.SameMemory d ∧ s.dev.Steady d ∧
        d.flag Reg.hotCtrl 16 = false ∧ (bits v 11 0 ≤ 3600 → d.fld Reg.hotCtrl 11 0 = bits v 11 0) ∧ (bit v 16 = true → d.pwr.quiesced = true) ∧
        (bit v 16 = false → d.pwr = s.dev.pwr)) ∧
    ∀ t, s.dev.pwr.graceFrom = some t →
      (t + 1000 * ms (min 3600 (s.dev.fld Reg.hotCtrl 11 0)) ≤ s.dev.now ∨ s.dev.active hubPage = false →
        ∃ d, exec .graceExpiry s = .next { s with dev := d } ∧ s.dev.Calm d ∧ s.dev.Steady d ∧ d.pwr.quiesced = true) ∧
      (s.dev.now < t + 1000 * ms (min 3600 (s.dev.fld Reg.hotCtrl 11 0)) → s.dev.active hubPage = true →
        exec .graceExpiry s = .next s)

/-- The managers (R83, R122, R443, R446, R448): a power period lowers the cap loop's ceiling by 25 MHz while the package draws more
than its cap, keeps the highest peak, and keeps every island's target a multiple of 25 MHz between 2,000 and 3,300; a thermal period
shows the hottest valid sensor of each die, or that none is valid; a stretched cycle is counted with its event; the scrubber reads the
blocks of its stack in turn, shows how far it has come, counts a pass with the last one, and changes no byte but of a block lost. -/
def Obligations.Managers : Prop :=
  ∀ s : State, s.carrier.phase = .running → s.dev.Tidy →
    (∀ input watts peak, s.dev.active pwrPage = true →
      ∃ d, exec (.powerManagerPeriod input watts peak) s = .next { s.sample input with dev := d } ∧ s.dev.Calm d ∧
        s.dev.Steady d ∧ d.pwr.watts = watts ∧ d.fld Reg.pwrPeakW 15 0 = max (s.dev.fld Reg.pwrPeakW 15 0) (min peak 65535) ∧
        (s.dev.effectiveCap < watts → d.fld Reg.pwrClkCap 11 0 = max 2000 (s.dev.fld Reg.pwrClkCap 11 0 - 25)) ∧
        ∀ x f, x < 2400 → f = Assoc.get targetDefault d.pwr.target x → 2000 ≤ f ∧ f ≤ 3300 ∧ f % 25 = 0) ∧
    (∀ sensors inlet outlet, s.dev.active thmPage = true →
      ∃ d, exec (.thermalPeriod sensors inlet outlet) s = .next { s with dev := d } ∧ s.dev.Calm d ∧ s.dev.Steady d ∧
        ∀ x (ts : List Int), x < 12 → ts = ((sensors.getD x []).take 16).filter validTemp →
          d.flag (Reg.thmDie x) 31 = ts.isEmpty ∧
          (∀ t, t ∈ ts → (∀ u, u ∈ ts → u ≤ t) →
            d.tempC x = t ∧ (t < 128 → d.fld (Reg.thmDie x) 7 0 = (t % 256).toNat) ∧
              (s.dev.throttleC ≤ t → d.fld (Reg.thmDie x) 27 16 = max 2000 (s.dev.fld (Reg.thmDie x) 27 16 - 100))) ∧
          (ts = [] → d.tempC x = s.dev.tempC x)) ∧
    (∀ x : Fin 2400,
      ∃ d, exec (.cycleStretch x) s = .next { s with dev := d } ∧ s.dev.Calm d ∧ s.dev.Steady d ∧
        d.fld (Reg.cluClock x) 31 16 = min 0xFFFF (s.dev.fld (Reg.cluClock x) 31 16 + 1) ∧ d.pend (cluPage x) 4 = true) ∧
    ∀ (x : Fin 24) (first second : List Nat) (n a : Nat), s.dev.active (memPage x) = true →
      s.dev.flag (Reg.memScrubCtrl x) 0 = true → Assoc.wf scrubDefault s.dev.scrubAt = true → n = s.dev.scrubNext x →
      a = stackSpan * x.val + 256 * n →
      (n + 1 < scrubBlocks x →
        ∃ d, exec (.scrubRead x first second) s = .next { s with dev := d } ∧ s.dev.Steady d ∧
          s.dev.CalmBut d [⟨a, ⟨a, first⟩, ⟨a, second⟩, false⟩] ∧ d.scrubNext x = n + 1 ∧
          d.fld (Reg.memScrubStatus x) 22 16 = (n + 1) * 100 / scrubBlocks x) ∧
      (n + 1 = scrubBlocks x →
        ∃ d, exec (.scrubRead x first second) s = .next { s with dev := d } ∧ s.dev.Steady d ∧
          s.dev.CalmBut d [⟨a, ⟨a, first⟩, ⟨a, second⟩, false⟩] ∧ d.scrubNext x = 0 ∧
          d.fld (Reg.memScrubStatus x) 15 0 = min 0xFFFF (s.dev.fld (Reg.memScrubStatus x) 15 0 + 1) ∧
          d.fld (Reg.memScrubStatus x) 22 16 = 0 ∧ d.pend (memPage x) 5 = true)

/-! Rounding. -/

/-- The generator of the stochastic rounding reproduces the worked state after each round, and the draw (R46). -/
def Obligations.TumblerVector : Prop :=
  ∀ t : Nat → Tumble, t 0 = ⟨0#32, 0#32, 0#32, 0#32⟩ →
    (∀ r, r < 4 → t (r + 1) = tumblerRound 0#32 (tumblerP.getD r 0) (tumblerQ.getD r 0) (tumblerC.getD r 0#32) (t r)) →
    t 1 = ⟨0x9E3779B9#32, 0#32, 0#32, 0#32⟩ ∧
    t 2 = ⟨0xDAA66D2B#32, 0x79B99E37#32, 0xBBCDCCF1#32, 0xBBCDCCF1#32⟩ ∧
    t 3 = ⟨0x2F06788D#32, 0xA8D103A9#32, 0xF86D4A5F#32, 0x3C9F7D6E#32⟩ ∧
    t 4 = ⟨0x50B5631A#32, 0xC1867DBE#32, 0xA4E2EE5F#32, 0xAC75A400#32⟩ ∧
    tumbler 0#64 0#32 0#32 0 = 0x6DF3D9BE#32
end

