-- ==== Sys2Proof/Laws/Bits.lean ====
section
/-! SUPPORT. Fields and bits of a word read back after they are set. -/
set_option Elab.async false
namespace Sys2Proof.Machine

theorem testBit_bits (w : Word) (hi lo i : Nat) : (bits w hi lo).testBit i = (decide (i < hi + 1 - lo) && w.getLsbD (lo + i)) := by
  unfold bits
  rw [Nat.testBit_mod_two_pow, Nat.testBit_div_two_pow, Nat.add_comm i lo]
  rfl

theorem getLsbD_setBits (w : Word) (hi lo v j : Nat) : (setBits w hi lo v).getLsbD j =
    if j < 32 ∧ lo ≤ j ∧ j < lo + (hi + 1 - lo) then v.testBit (j - lo) else w.getLsbD j := by
  have hm : (BitVec.ofNat 32 ((2 ^ (hi + 1 - lo) - 1) * 2 ^ lo)).getLsbD j =
      (decide (j < 32) && (decide (lo ≤ j) && decide (j - lo < hi + 1 - lo))) := by
    rw [BitVec.getLsbD_ofNat, Nat.testBit_mul_two_pow, Nat.testBit_two_pow_sub_one]
  have hv : (BitVec.ofNat 32 (v * 2 ^ lo)).getLsbD j = (decide (j < 32) && (decide (lo ≤ j) && v.testBit (j - lo))) := by
    rw [BitVec.getLsbD_ofNat, Nat.testBit_mul_two_pow]
  unfold setBits
  dsimp only
  rw [BitVec.getLsbD_or, BitVec.getLsbD_and, BitVec.getLsbD_and, BitVec.getLsbD_not, hm, hv]
  by_cases h1 : j < 32
  · by_cases h2 : lo ≤ j
    · by_cases h3 : j - lo < hi + 1 - lo
      · have h4 : j < lo + (hi + 1 - lo) := by omega
        simp [h1, h2, h3, h4]
      · have h4 : ¬ j < lo + (hi + 1 - lo) := by omega
        simp [h1, h2, h3, h4]
    · simp [h1, h2]
  · have h5 : w.getLsbD j = false := BitVec.getLsbD_of_ge w j (by omega)
    simp [h1, h5]

/-- A field reads as it was set. -/
theorem bits_setBits (w : Word) {hi lo : Nat} (h : hi < 32) (hl : lo ≤ hi) (v : Nat) :
    bits (setBits w hi lo v) hi lo = v % 2 ^ (hi + 1 - lo) := by
  refine Nat.eq_of_testBit_eq fun i => ?_
  rw [testBit_bits, getLsbD_setBits, Nat.testBit_mod_two_pow]
  by_cases hi' : i < hi + 1 - lo
  · rw [if_pos ⟨by omega, by omega, by omega⟩]
    have : lo + i - lo = i := by omega
    rw [this]
  · simp [hi']

/-- A field apart from the one set reads as before. -/
theorem bits_setBits_other (w : Word) {h1 l1 h2 l2 : Nat} (h : h2 < l1 ∨ h1 < l2) (v : Nat) :
    bits (setBits w h1 l1 v) h2 l2 = bits w h2 l2 := by
  refine Nat.eq_of_testBit_eq fun i => ?_
  rw [testBit_bits, testBit_bits, getLsbD_setBits]
  by_cases hi' : i < h2 + 1 - l2
  · rw [if_neg (by omega)]
  · simp [hi']

/-- A bit reads as it was set. -/
theorem bit_setBit (w : Word) {i : Nat} (h : i < 32) (b : Bool) : bit (setBit w i b) i = b := by
  unfold bit setBit
  rw [getLsbD_setBits, if_pos ⟨h, by omega, by omega⟩]
  cases b <;> simp

/-- Another bit reads as before. -/
theorem bit_setBit_other (w : Word) {i j : Nat} (h : j ≠ i) (b : Bool) : bit (setBit w i b) j = bit w j := by
  unfold bit setBit
  rw [getLsbD_setBits, if_neg (by omega)]

/-- A bit apart from the field set reads as before. -/
theorem bit_setBits_other (w : Word) {hi lo j : Nat} (h : j < lo ∨ hi < j) (v : Nat) : bit (setBits w hi lo v) j = bit w j := by
  unfold bit
  rw [getLsbD_setBits, if_neg (by omega)]

/-- A field apart from the bit set reads as before. -/
theorem bits_setBit_other (w : Word) {hi lo i : Nat} (h : hi < i ∨ i < lo) (b : Bool) :
    bits (setBit w i b) hi lo = bits w hi lo := bits_setBits_other w h _

end Sys2Proof.Machine
end

