-- ==== Sys2Proof/Laws/Config.lean ====
section
/-! SUPPORT. Which registers hold configuration alone: one lemma for each register that does not. -/
set_option Elab.async false
namespace Sys2Proof.Machine

@[simp] theorem config_hubFamily : configReg Reg.hubFamily = false := rfl

@[simp] theorem config_hubFamGeometry : configReg Reg.hubFamGeometry = false := rfl

@[simp] theorem config_hubFamCounts : configReg Reg.hubFamCounts = false := rfl

@[simp] theorem config_hubFamEnabled : configReg Reg.hubFamEnabled = false := rfl

@[simp] theorem config_hubIfaceAgree : configReg Reg.hubIfaceAgree = false := rfl

@[simp] theorem config_hubBadAddrLo : configReg Reg.hubBadAddrLo = false := rfl

@[simp] theorem config_hubBadAddrHi : configReg Reg.hubBadAddrHi = false := rfl

@[simp] theorem config_hubBadCount : configReg Reg.hubBadCount = false := rfl

@[simp] theorem config_hubHarts : configReg Reg.hubHarts = false := rfl

@[simp] theorem config_hubResetCause : configReg Reg.hubResetCause = false := rfl

@[simp] theorem config_hubBootStage : configReg Reg.hubBootStage = false := rfl

@[simp] theorem config_hubMbxPutLo (n : Nat) : configReg (Reg.hubMbxPutLo n) = false := by
  unfold Reg.hubMbxPutLo configReg
  rw [show (0x01000200 + 16 * (n % 32)) / 0x1000000 = 1 by omega, show (0x01000200 + 16 * (n % 32)) % 0x1000 = 0x200 + 16 * (n % 32) by omega]
  exact (by decide : ∀ k, k < 32 → configOffset .hub (0x200 + 16 * k) = false) _ (Nat.mod_lt _ (by decide))

@[simp] theorem config_hubMbxPutHi (n : Nat) : configReg (Reg.hubMbxPutHi n) = false := by
  unfold Reg.hubMbxPutHi configReg
  rw [show (0x01000204 + 16 * (n % 32)) / 0x1000000 = 1 by omega, show (0x01000204 + 16 * (n % 32)) % 0x1000 = 0x204 + 16 * (n % 32) by omega]
  exact (by decide : ∀ k, k < 32 → configOffset .hub (0x204 + 16 * k) = false) _ (Nat.mod_lt _ (by decide))

@[simp] theorem config_hubMbxGetLo (n : Nat) : configReg (Reg.hubMbxGetLo n) = false := by
  unfold Reg.hubMbxGetLo configReg
  rw [show (0x01000208 + 16 * (n % 32)) / 0x1000000 = 1 by omega, show (0x01000208 + 16 * (n % 32)) % 0x1000 = 0x208 + 16 * (n % 32) by omega]
  exact (by decide : ∀ k, k < 32 → configOffset .hub (0x208 + 16 * k) = false) _ (Nat.mod_lt _ (by decide))

@[simp] theorem config_hubMbxGetHi (n : Nat) : configReg (Reg.hubMbxGetHi n) = false := by
  unfold Reg.hubMbxGetHi configReg
  rw [show (0x0100020C + 16 * (n % 32)) / 0x1000000 = 1 by omega, show (0x0100020C + 16 * (n % 32)) % 0x1000 = 0x20C + 16 * (n % 32) by omega]
  exact (by decide : ∀ k, k < 32 → configOffset .hub (0x20C + 16 * k) = false) _ (Nat.mod_lt _ (by decide))

@[simp] theorem config_hubMbxCtrl (n : Nat) : configReg (Reg.hubMbxCtrl n) = false := by
  unfold Reg.hubMbxCtrl configReg
  rw [show (0x01000400 + 4 * (n % 32)) / 0x1000000 = 1 by omega, show (0x01000400 + 4 * (n % 32)) % 0x1000 = 0x400 + 4 * (n % 32) by omega]
  exact (by decide : ∀ k, k < 32 → configOffset .hub (0x400 + 4 * k) = false) _ (Nat.mod_lt _ (by decide))

@[simp] theorem config_pwrInput : configReg Reg.pwrInput = false := rfl

@[simp] theorem config_pwrShed : configReg Reg.pwrShed = false := rfl

@[simp] theorem config_pwrClkCap : configReg Reg.pwrClkCap = false := rfl

@[simp] theorem config_pwrPinned : configReg Reg.pwrPinned = false := rfl

@[simp] theorem config_pwrPeakW : configReg Reg.pwrPeakW = false := rfl

@[simp] theorem config_thmDie (n : Nat) : configReg (Reg.thmDie n) = false := by
  unfold Reg.thmDie configReg
  rw [show (0x03000044 + 4 * (n % 12)) / 0x1000000 = 3 by omega, show (0x03000044 + 4 * (n % 12)) % 0x1000 = 0x044 + 4 * (n % 12) by omega]
  exact (by decide : ∀ k, k < 12 → configOffset .thm (0x044 + 4 * k) = false) _ (Nat.mod_lt _ (by decide))

@[simp] theorem config_thmColdplate : configReg Reg.thmColdplate = false := rfl

@[simp] theorem config_thmTrips : configReg Reg.thmTrips = false := rfl

@[simp] theorem config_irqLimits : configReg Reg.irqLimits = false := rfl

@[simp] theorem config_irqSwTrigger : configReg Reg.irqSwTrigger = false := rfl

@[simp] theorem config_irqMissedClear : configReg Reg.irqMissedClear = false := rfl

@[simp] theorem config_irqExtStatus : configReg Reg.irqExtStatus = false := rfl

@[simp] theorem config_irqClaim (n : Nat) : configReg (Reg.irqClaim n) = false := by
  unfold Reg.irqClaim configReg
  rw [show (0x04000104 + 16 * (n % 28)) / 0x1000000 = 4 by omega, show (0x04000104 + 16 * (n % 28)) % 0x1000 = 0x104 + 16 * (n % 28) by omega]
  exact (by decide : ∀ k, k < 28 → configOffset .irq (0x104 + 16 * k) = false) _ (Nat.mod_lt _ (by decide))

@[simp] theorem config_irqComplete (n : Nat) : configReg (Reg.irqComplete n) = false := by
  unfold Reg.irqComplete configReg
  rw [show (0x04000108 + 16 * (n % 28)) / 0x1000000 = 4 by omega, show (0x04000108 + 16 * (n % 28)) % 0x1000 = 0x108 + 16 * (n % 28) by omega]
  exact (by decide : ∀ k, k < 28 → configOffset .irq (0x108 + 16 * k) = false) _ (Nat.mod_lt _ (by decide))

@[simp] theorem config_irqRunning (n : Nat) : configReg (Reg.irqRunning n) = false := by
  unfold Reg.irqRunning configReg
  rw [show (0x0400010C + 16 * (n % 28)) / 0x1000000 = 4 by omega, show (0x0400010C + 16 * (n % 28)) % 0x1000 = 0x10C + 16 * (n % 28) by omega]
  exact (by decide : ∀ k, k < 28 → configOffset .irq (0x10C + 16 * k) = false) _ (Nat.mod_lt _ (by decide))

@[simp] theorem config_irqHoldoff (n : Nat) : configReg (Reg.irqHoldoff n) = false := by
  unfold Reg.irqHoldoff configReg
  rw [show (0x04000380 + 4 * (n % 32)) / 0x1000000 = 4 by omega, show (0x04000380 + 4 * (n % 32)) % 0x1000 = 0x380 + 4 * (n % 32) by omega]
  exact (by decide : ∀ k, k < 32 → configOffset .irq (0x380 + 4 * k) = false) _ (Nat.mod_lt _ (by decide))

@[simp] theorem config_irqPending (n : Nat) : configReg (Reg.irqPending n) = false := by
  unfold Reg.irqPending configReg
  rw [show (0x04000400 + 4 * (n % 32)) / 0x1000000 = 4 by omega, show (0x04000400 + 4 * (n % 32)) % 0x1000 = 0x400 + 4 * (n % 32) by omega]
  exact (by decide : ∀ k, k < 32 → configOffset .irq (0x400 + 4 * k) = false) _ (Nat.mod_lt _ (by decide))

@[simp] theorem config_irqLine (n : Nat) : configReg (Reg.irqLine n) = false := by
  unfold Reg.irqLine configReg
  rw [show (0x04000480 + 4 * (n % 32)) / 0x1000000 = 4 by omega, show (0x04000480 + 4 * (n % 32)) % 0x1000 = 0x480 + 4 * (n % 32) by omega]
  exact (by decide : ∀ k, k < 32 → configOffset .irq (0x480 + 4 * k) = false) _ (Nat.mod_lt _ (by decide))

@[simp] theorem config_irqMissed (n : Nat) : configReg (Reg.irqMissed n) = false := by
  unfold Reg.irqMissed configReg
  rw [show (0x04000800 + 4 * (n % 256)) / 0x1000000 = 4 by omega, show (0x04000800 + 4 * (n % 256)) % 0x1000 = 0x800 + 4 * (n % 256) by omega]
  exact (by decide +kernel : ∀ k, k < 256 → configOffset .irq (0x800 + 4 * k) = false) _ (Nat.mod_lt _ (by decide))

@[simp] theorem config_irqCluSummary (n : Nat) : configReg (Reg.irqCluSummary n) = false := by
  unfold Reg.irqCluSummary configReg
  rw [show (0x04000C00 + 4 * (n % 75)) / 0x1000000 = 4 by omega, show (0x04000C00 + 4 * (n % 75)) % 0x1000 = 0xC00 + 4 * (n % 75) by omega]
  exact (by decide : ∀ k, k < 75 → configOffset .irq (0xC00 + 4 * k) = false) _ (Nat.mod_lt _ (by decide))

@[simp] theorem config_secBoot : configReg Reg.secBoot = false := rfl

@[simp] theorem config_secFuses : configReg Reg.secFuses = false := rfl

@[simp] theorem config_secSerialLo : configReg Reg.secSerialLo = false := rfl

@[simp] theorem config_secSerialHi : configReg Reg.secSerialHi = false := rfl

@[simp] theorem config_secDebugNonce (n : Nat) : configReg (Reg.secDebugNonce n) = false := by
  unfold Reg.secDebugNonce configReg
  rw [show (0x05000050 + 4 * (n % 4)) / 0x1000000 = 5 by omega, show (0x05000050 + 4 * (n % 4)) % 0x1000 = 0x050 + 4 * (n % 4) by omega]
  exact (by decide : ∀ k, k < 4 → configOffset .sec (0x050 + 4 * k) = false) _ (Nat.mod_lt _ (by decide))

@[simp] theorem config_secDebug : configReg Reg.secDebug = false := rfl

@[simp] theorem config_secTlsSessions : configReg Reg.secTlsSessions = false := rfl

@[simp] theorem config_mgtLink : configReg Reg.mgtLink = false := rfl

@[simp] theorem config_mgtMac0Lo : configReg Reg.mgtMac0Lo = false := rfl

@[simp] theorem config_mgtMac0Hi : configReg Reg.mgtMac0Hi = false := rfl

@[simp] theorem config_mgtMac1Lo : configReg Reg.mgtMac1Lo = false := rfl

@[simp] theorem config_mgtMac1Hi : configReg Reg.mgtMac1Hi = false := rfl

@[simp] theorem config_logLimits : configReg Reg.logLimits = false := rfl

@[simp] theorem config_logWriteLo : configReg Reg.logWriteLo = false := rfl

@[simp] theorem config_logWriteHi : configReg Reg.logWriteHi = false := rfl

@[simp] theorem config_logNext : configReg Reg.logNext = false := rfl

@[simp] theorem config_logStatus : configReg Reg.logStatus = false := rfl

@[simp] theorem config_logFree : configReg Reg.logFree = false := rfl

@[simp] theorem config_logRecords : configReg Reg.logRecords = false := rfl

@[simp] theorem config_logLost : configReg Reg.logLost = false := rfl

@[simp] theorem config_logStalls : configReg Reg.logStalls = false := rfl

@[simp] theorem config_logStallMaxUs : configReg Reg.logStallMaxUs = false := rfl

@[simp] theorem config_logSegment : configReg Reg.logSegment = false := rfl

@[simp] theorem config_logSegStep : configReg Reg.logSegStep = false := rfl

@[simp] theorem config_logPtpOffset : configReg Reg.logPtpOffset = false := rfl

@[simp] theorem config_logSpill : configReg Reg.logSpill = false := rfl

@[simp] theorem config_seqHead (i : Nat) : configReg (Reg.seqHead i) = false := by
  unfold Reg.seqHead configReg
  rw [show (0x0800004C + 0x1000 * (i % 4096)) / 0x1000000 = 8 by omega, show (0x0800004C + 0x1000 * (i % 4096)) % 0x1000 = 0x04C by omega]
  rfl

@[simp] theorem config_seqFenceValue (i : Nat) : configReg (Reg.seqFenceValue i) = false := by
  unfold Reg.seqFenceValue configReg
  rw [show (0x08000060 + 0x1000 * (i % 4096)) / 0x1000000 = 8 by omega, show (0x08000060 + 0x1000 * (i % 4096)) % 0x1000 = 0x060 by omega]
  rfl

@[simp] theorem config_seqCounterAdd (i : Nat) : configReg (Reg.seqCounterAdd i) = false := by
  unfold Reg.seqCounterAdd configReg
  rw [show (0x08000064 + 0x1000 * (i % 4096)) / 0x1000000 = 8 by omega, show (0x08000064 + 0x1000 * (i % 4096)) % 0x1000 = 0x064 by omega]
  rfl

@[simp] theorem config_seqPredLo (i : Nat) : configReg (Reg.seqPredLo i) = false := by
  unfold Reg.seqPredLo configReg
  rw [show (0x08000068 + 0x1000 * (i % 4096)) / 0x1000000 = 8 by omega, show (0x08000068 + 0x1000 * (i % 4096)) % 0x1000 = 0x068 by omega]
  rfl

@[simp] theorem config_seqPredHi (i : Nat) : configReg (Reg.seqPredHi i) = false := by
  unfold Reg.seqPredHi configReg
  rw [show (0x0800006C + 0x1000 * (i % 4096)) / 0x1000000 = 8 by omega, show (0x0800006C + 0x1000 * (i % 4096)) % 0x1000 = 0x06C by omega]
  rfl

@[simp] theorem config_seqReject (i : Nat) : configReg (Reg.seqReject i) = false := by
  unfold Reg.seqReject configReg
  rw [show (0x08000070 + 0x1000 * (i % 4096)) / 0x1000000 = 8 by omega, show (0x08000070 + 0x1000 * (i % 4096)) % 0x1000 = 0x070 by omega]
  rfl

@[simp] theorem config_seqRejectAddrLo (i : Nat) : configReg (Reg.seqRejectAddrLo i) = false := by
  unfold Reg.seqRejectAddrLo configReg
  rw [show (0x08000074 + 0x1000 * (i % 4096)) / 0x1000000 = 8 by omega, show (0x08000074 + 0x1000 * (i % 4096)) % 0x1000 = 0x074 by omega]
  rfl

@[simp] theorem config_seqRejectAddrHi (i : Nat) : configReg (Reg.seqRejectAddrHi i) = false := by
  unfold Reg.seqRejectAddrHi configReg
  rw [show (0x08000078 + 0x1000 * (i % 4096)) / 0x1000000 = 8 by omega, show (0x08000078 + 0x1000 * (i % 4096)) % 0x1000 = 0x078 by omega]
  rfl

@[simp] theorem config_seqRejectTag (i : Nat) : configReg (Reg.seqRejectTag i) = false := by
  unfold Reg.seqRejectTag configReg
  rw [show (0x0800007C + 0x1000 * (i % 4096)) / 0x1000000 = 8 by omega, show (0x0800007C + 0x1000 * (i % 4096)) % 0x1000 = 0x07C by omega]
  rfl

@[simp] theorem config_seqCmdCount (i : Nat) : configReg (Reg.seqCmdCount i) = false := by
  unfold Reg.seqCmdCount configReg
  rw [show (0x08000080 + 0x1000 * (i % 4096)) / 0x1000000 = 8 by omega, show (0x08000080 + 0x1000 * (i % 4096)) % 0x1000 = 0x080 by omega]
  rfl

@[simp] theorem config_seqSkipped (i : Nat) : configReg (Reg.seqSkipped i) = false := by
  unfold Reg.seqSkipped configReg
  rw [show (0x08000084 + 0x1000 * (i % 4096)) / 0x1000000 = 8 by omega, show (0x08000084 + 0x1000 * (i % 4096)) % 0x1000 = 0x084 by omega]
  rfl

@[simp] theorem config_seqBfCtrl (i : Nat) : configReg (Reg.seqBfCtrl i) = false := by
  unfold Reg.seqBfCtrl configReg
  rw [show (0x08000088 + 0x1000 * (i % 4096)) / 0x1000000 = 8 by omega, show (0x08000088 + 0x1000 * (i % 4096)) % 0x1000 = 0x088 by omega]
  rfl

@[simp] theorem config_seqBfStatus (i : Nat) : configReg (Reg.seqBfStatus i) = false := by
  unfold Reg.seqBfStatus configReg
  rw [show (0x0800008C + 0x1000 * (i % 4096)) / 0x1000000 = 8 by omega, show (0x0800008C + 0x1000 * (i % 4096)) % 0x1000 = 0x08C by omega]
  rfl

@[simp] theorem config_seqBfOverruns (i : Nat) : configReg (Reg.seqBfOverruns i) = false := by
  unfold Reg.seqBfOverruns configReg
  rw [show (0x08000090 + 0x1000 * (i % 4096)) / 0x1000000 = 8 by omega, show (0x08000090 + 0x1000 * (i % 4096)) % 0x1000 = 0x090 by omega]
  rfl

@[simp] theorem config_seqBfLongestNs (i : Nat) : configReg (Reg.seqBfLongestNs i) = false := by
  unfold Reg.seqBfLongestNs configReg
  rw [show (0x08000094 + 0x1000 * (i % 4096)) / 0x1000000 = 8 by omega, show (0x08000094 + 0x1000 * (i % 4096)) % 0x1000 = 0x094 by omega]
  rfl

@[simp] theorem config_seqResumeMaxNs (i : Nat) : configReg (Reg.seqResumeMaxNs i) = false := by
  unfold Reg.seqResumeMaxNs configReg
  rw [show (0x08000098 + 0x1000 * (i % 4096)) / 0x1000000 = 8 by omega, show (0x08000098 + 0x1000 * (i % 4096)) % 0x1000 = 0x098 by omega]
  rfl

@[simp] theorem config_seqCounter (i : Nat) (n : Nat) : configReg (Reg.seqCounter i n) = false := by
  unfold Reg.seqCounter configReg
  rw [show (0x080000C0 + 0x1000 * (i % 4096) + 4 * (n % 16)) / 0x1000000 = 8 by omega, show (0x080000C0 + 0x1000 * (i % 4096) + 4 * (n % 16)) % 0x1000 = 0x0C0 + 4 * (n % 16) by omega]
  exact (by decide : ∀ k, k < 16 → configOffset .seq (0x0C0 + 4 * k) = false) _ (Nat.mod_lt _ (by decide))

@[simp] theorem config_cmpLimits : configReg Reg.cmpLimits = false := rfl

@[simp] theorem config_cmpLast : configReg Reg.cmpLast = false := rfl

@[simp] theorem config_cmpLastRounds : configReg Reg.cmpLastRounds = false := rfl

@[simp] theorem config_cmpSlotsAccepted : configReg Reg.cmpSlotsAccepted = false := rfl

@[simp] theorem config_cmpSlotsSpilled : configReg Reg.cmpSlotsSpilled = false := rfl

@[simp] theorem config_cmpSlotsDropped : configReg Reg.cmpSlotsDropped = false := rfl

@[simp] theorem config_cmpNanTokens : configReg Reg.cmpNanTokens = false := rfl

@[simp] theorem config_cmpSkippedTokens : configReg Reg.cmpSkippedTokens = false := rfl

@[simp] theorem config_cmpRowsGranted : configReg Reg.cmpRowsGranted = false := rfl

@[simp] theorem config_cmpStale : configReg Reg.cmpStale = false := rfl

@[simp] theorem config_cmpHeld : configReg Reg.cmpHeld = false := rfl

@[simp] theorem config_cmpProtoLast : configReg Reg.cmpProtoLast = false := rfl

@[simp] theorem config_hlmLimits : configReg Reg.hlmLimits = false := rfl

@[simp] theorem config_hlmLr : configReg Reg.hlmLr = false := rfl

@[simp] theorem config_hlmClip : configReg Reg.hlmClip = false := rfl

@[simp] theorem config_hlmStepLo : configReg Reg.hlmStepLo = false := rfl

@[simp] theorem config_hlmStepHi : configReg Reg.hlmStepHi = false := rfl

@[simp] theorem config_hlmApplied : configReg Reg.hlmApplied = false := rfl

@[simp] theorem config_hlmRingCtrl : configReg Reg.hlmRingCtrl = false := rfl

@[simp] theorem config_hlmRingState : configReg Reg.hlmRingState = false := rfl

@[simp] theorem config_hlmRingCur : configReg Reg.hlmRingCur = false := rfl

@[simp] theorem config_hlmFaultLast : configReg Reg.hlmFaultLast = false := rfl

@[simp] theorem config_hlmRingStep (n : Nat) : configReg (Reg.hlmRingStep n) = false := by
  unfold Reg.hlmRingStep configReg
  rw [show (0x0A000080 + 4 * (n % 8)) / 0x1000000 = 10 by omega, show (0x0A000080 + 4 * (n % 8)) % 0x1000 = 0x080 + 4 * (n % 8) by omega]
  exact (by decide : ∀ k, k < 8 → configOffset .hlm (0x080 + 4 * k) = false) _ (Nat.mod_lt _ (by decide))

@[simp] theorem config_hlmNsCoef (n : Nat) : configReg (Reg.hlmNsCoef n) = false := by
  unfold Reg.hlmNsCoef configReg
  rw [show (0x0A0000C0 + 4 * (n % 15)) / 0x1000000 = 10 by omega, show (0x0A0000C0 + 4 * (n % 15)) % 0x1000 = 0x0C0 + 4 * (n % 15) by omega]
  exact (by decide : ∀ k, k < 15 → configOffset .hlm (0x0C0 + 4 * k) = false) _ (Nat.mod_lt _ (by decide))

@[simp] theorem config_hlmDecayCfg (n : Nat) : configReg (Reg.hlmDecayCfg n) = false := by
  unfold Reg.hlmDecayCfg configReg
  rw [show (0x0A000100 + 16 * (n % 16)) / 0x1000000 = 10 by omega, show (0x0A000100 + 16 * (n % 16)) % 0x1000 = 0x100 + 16 * (n % 16) by omega]
  exact (by decide : ∀ k, k < 16 → configOffset .hlm (0x100 + 16 * k) = false) _ (Nat.mod_lt _ (by decide))

@[simp] theorem config_hlmDecayBase (n : Nat) : configReg (Reg.hlmDecayBase n) = false := by
  unfold Reg.hlmDecayBase configReg
  rw [show (0x0A000104 + 16 * (n % 16)) / 0x1000000 = 10 by omega, show (0x0A000104 + 16 * (n % 16)) % 0x1000 = 0x104 + 16 * (n % 16) by omega]
  exact (by decide : ∀ k, k < 16 → configOffset .hlm (0x104 + 16 * k) = false) _ (Nat.mod_lt _ (by decide))

@[simp] theorem config_hlmDecayBeta1 (n : Nat) : configReg (Reg.hlmDecayBeta1 n) = false := by
  unfold Reg.hlmDecayBeta1 configReg
  rw [show (0x0A000108 + 16 * (n % 16)) / 0x1000000 = 10 by omega, show (0x0A000108 + 16 * (n % 16)) % 0x1000 = 0x108 + 16 * (n % 16) by omega]
  exact (by decide : ∀ k, k < 16 → configOffset .hlm (0x108 + 16 * k) = false) _ (Nat.mod_lt _ (by decide))

@[simp] theorem config_hlmDecayWd (n : Nat) : configReg (Reg.hlmDecayWd n) = false := by
  unfold Reg.hlmDecayWd configReg
  rw [show (0x0A00010C + 16 * (n % 16)) / 0x1000000 = 10 by omega, show (0x0A00010C + 16 * (n % 16)) % 0x1000 = 0x10C + 16 * (n % 16) by omega]
  exact (by decide : ∀ k, k < 16 → configOffset .hlm (0x10C + 16 * k) = false) _ (Nat.mod_lt _ (by decide))

@[simp] theorem config_sxtLimits : configReg Reg.sxtLimits = false := rfl

@[simp] theorem config_sxtStepLo : configReg Reg.sxtStepLo = false := rfl

@[simp] theorem config_sxtAlarms : configReg Reg.sxtAlarms = false := rfl

@[simp] theorem config_sxtHold : configReg Reg.sxtHold = false := rfl

@[simp] theorem config_sxtHoldLayer : configReg Reg.sxtHoldLayer = false := rfl

@[simp] theorem config_sxtStepNf : configReg Reg.sxtStepNf = false := rfl

@[simp] theorem config_sxtScaleClamps : configReg Reg.sxtScaleClamps = false := rfl

@[simp] theorem config_sxtHolds : configReg Reg.sxtHolds = false := rfl

@[simp] theorem config_sxtNfOriginUnit : configReg Reg.sxtNfOriginUnit = false := rfl

@[simp] theorem config_sxtNfOriginLayer : configReg Reg.sxtNfOriginLayer = false := rfl

@[simp] theorem config_sxtNfOriginTensor : configReg Reg.sxtNfOriginTensor = false := rfl

@[simp] theorem config_sxtNfOriginIndexLo : configReg Reg.sxtNfOriginIndexLo = false := rfl

@[simp] theorem config_sxtNfOriginIndexHi : configReg Reg.sxtNfOriginIndexHi = false := rfl

@[simp] theorem config_sxtBandCrc : configReg Reg.sxtBandCrc = false := rfl

@[simp] theorem config_sxtFaultLast : configReg Reg.sxtFaultLast = false := rfl

@[simp] theorem config_redLimits : configReg Reg.redLimits = false := rfl

@[simp] theorem config_redStepNf : configReg Reg.redStepNf = false := rfl

@[simp] theorem config_redConsensus : configReg Reg.redConsensus = false := rfl

@[simp] theorem config_redNfOriginLayer : configReg Reg.redNfOriginLayer = false := rfl

@[simp] theorem config_redNfOriginTensor : configReg Reg.redNfOriginTensor = false := rfl

@[simp] theorem config_redNfOriginIndexLo : configReg Reg.redNfOriginIndexLo = false := rfl

@[simp] theorem config_redNfOriginIndexHi : configReg Reg.redNfOriginIndexHi = false := rfl

@[simp] theorem config_redCommands : configReg Reg.redCommands = false := rfl

@[simp] theorem config_redNfGroups : configReg Reg.redNfGroups = false := rfl

@[simp] theorem config_redOverflows : configReg Reg.redOverflows = false := rfl

@[simp] theorem config_redUncompressed : configReg Reg.redUncompressed = false := rfl

@[simp] theorem config_redSkippedExperts : configReg Reg.redSkippedExperts = false := rfl

@[simp] theorem config_redStale : configReg Reg.redStale = false := rfl

@[simp] theorem config_redFaultLast : configReg Reg.redFaultLast = false := rfl

@[simp] theorem config_hngStatus (i : Nat) : configReg (Reg.hngStatus i) = false := by
  unfold Reg.hngStatus configReg
  rw [show (0x0D000058 + 0x1000 * (i % 4096)) / 0x1000000 = 13 by omega, show (0x0D000058 + 0x1000 * (i % 4096)) % 0x1000 = 0x058 by omega]
  rfl

@[simp] theorem config_hngOccupancy (i : Nat) : configReg (Reg.hngOccupancy i) = false := by
  unfold Reg.hngOccupancy configReg
  rw [show (0x0D00005C + 0x1000 * (i % 4096)) / 0x1000000 = 13 by omega, show (0x0D00005C + 0x1000 * (i % 4096)) % 0x1000 = 0x05C by omega]
  rfl

@[simp] theorem config_hngMaxOccupancy (i : Nat) : configReg (Reg.hngMaxOccupancy i) = false := by
  unfold Reg.hngMaxOccupancy configReg
  rw [show (0x0D000060 + 0x1000 * (i % 4096)) / 0x1000000 = 13 by omega, show (0x0D000060 + 0x1000 * (i % 4096)) % 0x1000 = 0x060 by omega]
  rfl

@[simp] theorem config_hngHeadMb (i : Nat) : configReg (Reg.hngHeadMb i) = false := by
  unfold Reg.hngHeadMb configReg
  rw [show (0x0D000064 + 0x1000 * (i % 4096)) / 0x1000000 = 13 by omega, show (0x0D000064 + 0x1000 * (i % 4096)) % 0x1000 = 0x064 by omega]
  rfl

@[simp] theorem config_hngPackets (i : Nat) : configReg (Reg.hngPackets i) = false := by
  unfold Reg.hngPackets configReg
  rw [show (0x0D000068 + 0x1000 * (i % 4096)) / 0x1000000 = 13 by omega, show (0x0D000068 + 0x1000 * (i % 4096)) % 0x1000 = 0x068 by omega]
  rfl

@[simp] theorem config_hngStops (i : Nat) : configReg (Reg.hngStops i) = false := by
  unfold Reg.hngStops configReg
  rw [show (0x0D00006C + 0x1000 * (i % 4096)) / 0x1000000 = 13 by omega, show (0x0D00006C + 0x1000 * (i % 4096)) % 0x1000 = 0x06C by omega]
  rfl

@[simp] theorem config_hngStale (i : Nat) : configReg (Reg.hngStale i) = false := by
  unfold Reg.hngStale configReg
  rw [show (0x0D000070 + 0x1000 * (i % 4096)) / 0x1000000 = 13 by omega, show (0x0D000070 + 0x1000 * (i % 4096)) % 0x1000 = 0x070 by omega]
  rfl

@[simp] theorem config_hngFaultLast (i : Nat) : configReg (Reg.hngFaultLast i) = false := by
  unfold Reg.hngFaultLast configReg
  rw [show (0x0D000074 + 0x1000 * (i % 4096)) / 0x1000000 = 13 by omega, show (0x0D000074 + 0x1000 * (i % 4096)) % 0x1000 = 0x074 by omega]
  rfl

@[simp] theorem config_fabLocation (i : Nat) : configReg (Reg.fabLocation i) = false := by
  unfold Reg.fabLocation configReg
  rw [show (0x0E000040 + 0x1000 * (i % 4096)) / 0x1000000 = 14 by omega, show (0x0E000040 + 0x1000 * (i % 4096)) % 0x1000 = 0x040 by omega]
  rfl

@[simp] theorem config_fabCtrl (i : Nat) : configReg (Reg.fabCtrl i) = false := by
  unfold Reg.fabCtrl configReg
  rw [show (0x0E000044 + 0x1000 * (i % 4096)) / 0x1000000 = 14 by omega, show (0x0E000044 + 0x1000 * (i % 4096)) % 0x1000 = 0x044 by omega]
  rfl

@[simp] theorem config_fabPeer (i : Nat) : configReg (Reg.fabPeer i) = false := by
  unfold Reg.fabPeer configReg
  rw [show (0x0E000048 + 0x1000 * (i % 4096)) / 0x1000000 = 14 by omega, show (0x0E000048 + 0x1000 * (i % 4096)) % 0x1000 = 0x048 by omega]
  rfl

@[simp] theorem config_fabLanes (i : Nat) : configReg (Reg.fabLanes i) = false := by
  unfold Reg.fabLanes configReg
  rw [show (0x0E00004C + 0x1000 * (i % 4096)) / 0x1000000 = 14 by omega, show (0x0E00004C + 0x1000 * (i % 4096)) % 0x1000 = 0x04C by omega]
  rfl

@[simp] theorem config_fabBlocksTx (i : Nat) : configReg (Reg.fabBlocksTx i) = false := by
  unfold Reg.fabBlocksTx configReg
  rw [show (0x0E000050 + 0x1000 * (i % 4096)) / 0x1000000 = 14 by omega, show (0x0E000050 + 0x1000 * (i % 4096)) % 0x1000 = 0x050 by omega]
  rfl

@[simp] theorem config_fabBlocksRx (i : Nat) : configReg (Reg.fabBlocksRx i) = false := by
  unfold Reg.fabBlocksRx configReg
  rw [show (0x0E000054 + 0x1000 * (i % 4096)) / 0x1000000 = 14 by omega, show (0x0E000054 + 0x1000 * (i % 4096)) % 0x1000 = 0x054 by omega]
  rfl

@[simp] theorem config_fabCrcErrors (i : Nat) : configReg (Reg.fabCrcErrors i) = false := by
  unfold Reg.fabCrcErrors configReg
  rw [show (0x0E000058 + 0x1000 * (i % 4096)) / 0x1000000 = 14 by omega, show (0x0E000058 + 0x1000 * (i % 4096)) % 0x1000 = 0x058 by omega]
  rfl

@[simp] theorem config_fabResends (i : Nat) : configReg (Reg.fabResends i) = false := by
  unfold Reg.fabResends configReg
  rw [show (0x0E00005C + 0x1000 * (i % 4096)) / 0x1000000 = 14 by omega, show (0x0E00005C + 0x1000 * (i % 4096)) % 0x1000 = 0x05C by omega]
  rfl

@[simp] theorem config_fabFecCorrected (i : Nat) : configReg (Reg.fabFecCorrected i) = false := by
  unfold Reg.fabFecCorrected configReg
  rw [show (0x0E000060 + 0x1000 * (i % 4096)) / 0x1000000 = 14 by omega, show (0x0E000060 + 0x1000 * (i % 4096)) % 0x1000 = 0x060 by omega]
  rfl

@[simp] theorem config_fabC0Void (i : Nat) : configReg (Reg.fabC0Void i) = false := by
  unfold Reg.fabC0Void configReg
  rw [show (0x0E000064 + 0x1000 * (i % 4096)) / 0x1000000 = 14 by omega, show (0x0E000064 + 0x1000 * (i % 4096)) % 0x1000 = 0x064 by omega]
  rfl

@[simp] theorem config_chtPackage : configReg Reg.chtPackage = false := rfl

@[simp] theorem config_chtLoadCtrl : configReg Reg.chtLoadCtrl = false := rfl

@[simp] theorem config_chtLoadStatus : configReg Reg.chtLoadStatus = false := rfl

@[simp] theorem config_chtGovern : configReg Reg.chtGovern = false := rfl

@[simp] theorem config_chtLeg : configReg Reg.chtLeg = false := rfl

@[simp] theorem config_chtStepLo : configReg Reg.chtStepLo = false := rfl

@[simp] theorem config_chtStepHi : configReg Reg.chtStepHi = false := rfl

@[simp] theorem config_chtSlotId (n : Nat) : configReg (Reg.chtSlotId n) = false := by
  unfold Reg.chtSlotId configReg
  rw [show (0x0F000080 + 4 * (n % 8)) / 0x1000000 = 15 by omega, show (0x0F000080 + 4 * (n % 8)) % 0x1000 = 0x080 + 4 * (n % 8) by omega]
  exact (by decide : ∀ k, k < 8 → configOffset .cht (0x080 + 4 * k) = false) _ (Nat.mod_lt _ (by decide))

@[simp] theorem config_chtPostHead : configReg Reg.chtPostHead = false := rfl

@[simp] theorem config_chtFaultLast : configReg Reg.chtFaultLast = false := rfl

@[simp] theorem config_chtStray : configReg Reg.chtStray = false := rfl

@[simp] theorem config_chtRwDiscards : configReg Reg.chtRwDiscards = false := rfl

@[simp] theorem config_chtPostRejects : configReg Reg.chtPostRejects = false := rfl

@[simp] theorem config_chtBarrierMaxNs : configReg Reg.chtBarrierMaxNs = false := rfl

@[simp] theorem config_memLocation (i : Nat) : configReg (Reg.memLocation i) = false := by
  unfold Reg.memLocation configReg
  rw [show (0x10000040 + 0x1000 * (i % 4096)) / 0x1000000 = 16 by omega, show (0x10000040 + 0x1000 * (i % 4096)) % 0x1000 = 0x040 by omega]
  rfl

@[simp] theorem config_memGeometry (i : Nat) : configReg (Reg.memGeometry i) = false := by
  unfold Reg.memGeometry configReg
  rw [show (0x10000044 + 0x1000 * (i % 4096)) / 0x1000000 = 16 by omega, show (0x10000044 + 0x1000 * (i % 4096)) % 0x1000 = 0x044 by omega]
  rfl

@[simp] theorem config_memBase (i : Nat) : configReg (Reg.memBase i) = false := by
  unfold Reg.memBase configReg
  rw [show (0x10000048 + 0x1000 * (i % 4096)) / 0x1000000 = 16 by omega, show (0x10000048 + 0x1000 * (i % 4096)) % 0x1000 = 0x048 by omega]
  rfl

@[simp] theorem config_memReserved (i : Nat) : configReg (Reg.memReserved i) = false := by
  unfold Reg.memReserved configReg
  rw [show (0x1000004C + 0x1000 * (i % 4096)) / 0x1000000 = 16 by omega, show (0x1000004C + 0x1000 * (i % 4096)) % 0x1000 = 0x04C by omega]
  rfl

@[simp] theorem config_memCrcTransient (i : Nat) : configReg (Reg.memCrcTransient i) = false := by
  unfold Reg.memCrcTransient configReg
  rw [show (0x10000050 + 0x1000 * (i % 4096)) / 0x1000000 = 16 by omega, show (0x10000050 + 0x1000 * (i % 4096)) % 0x1000 = 0x050 by omega]
  rfl

@[simp] theorem config_memLost (i : Nat) : configReg (Reg.memLost i) = false := by
  unfold Reg.memLost configReg
  rw [show (0x10000054 + 0x1000 * (i % 4096)) / 0x1000000 = 16 by omega, show (0x10000054 + 0x1000 * (i % 4096)) % 0x1000 = 0x054 by omega]
  rfl

@[simp] theorem config_memLostAddrLo (i : Nat) : configReg (Reg.memLostAddrLo i) = false := by
  unfold Reg.memLostAddrLo configReg
  rw [show (0x10000058 + 0x1000 * (i % 4096)) / 0x1000000 = 16 by omega, show (0x10000058 + 0x1000 * (i % 4096)) % 0x1000 = 0x058 by omega]
  rfl

@[simp] theorem config_memLostAddrHi (i : Nat) : configReg (Reg.memLostAddrHi i) = false := by
  unfold Reg.memLostAddrHi configReg
  rw [show (0x1000005C + 0x1000 * (i % 4096)) / 0x1000000 = 16 by omega, show (0x1000005C + 0x1000 * (i % 4096)) % 0x1000 = 0x05C by omega]
  rfl

@[simp] theorem config_memSpare (i : Nat) : configReg (Reg.memSpare i) = false := by
  unfold Reg.memSpare configReg
  rw [show (0x10000060 + 0x1000 * (i % 4096)) / 0x1000000 = 16 by omega, show (0x10000060 + 0x1000 * (i % 4096)) % 0x1000 = 0x060 by omega]
  rfl

@[simp] theorem config_memScrubStatus (i : Nat) : configReg (Reg.memScrubStatus i) = false := by
  unfold Reg.memScrubStatus configReg
  rw [show (0x10000068 + 0x1000 * (i % 4096)) / 0x1000000 = 16 by omega, show (0x10000068 + 0x1000 * (i % 4096)) % 0x1000 = 0x068 by omega]
  rfl

@[simp] theorem config_memAowBlocks (i : Nat) : configReg (Reg.memAowBlocks i) = false := by
  unfold Reg.memAowBlocks configReg
  rw [show (0x1000006C + 0x1000 * (i % 4096)) / 0x1000000 = 16 by omega, show (0x1000006C + 0x1000 * (i % 4096)) % 0x1000 = 0x06C by omega]
  rfl

@[simp] theorem config_memAowNonfinite (i : Nat) : configReg (Reg.memAowNonfinite i) = false := by
  unfold Reg.memAowNonfinite configReg
  rw [show (0x10000070 + 0x1000 * (i % 4096)) / 0x1000000 = 16 by omega, show (0x10000070 + 0x1000 * (i % 4096)) % 0x1000 = 0x070 by omega]
  rfl

@[simp] theorem config_dieLocation (i : Nat) : configReg (Reg.dieLocation i) = false := by
  unfold Reg.dieLocation configReg
  rw [show (0x11000040 + 0x1000 * (i % 4096)) / 0x1000000 = 17 by omega, show (0x11000040 + 0x1000 * (i % 4096)) % 0x1000 = 0x040 by omega]
  rfl

@[simp] theorem config_dieClusters (i : Nat) : configReg (Reg.dieClusters i) = false := by
  unfold Reg.dieClusters configReg
  rw [show (0x11000044 + 0x1000 * (i % 4096)) / 0x1000000 = 17 by omega, show (0x11000044 + 0x1000 * (i % 4096)) % 0x1000 = 0x044 by omega]
  rfl

@[simp] theorem config_dieCores (i : Nat) : configReg (Reg.dieCores i) = false := by
  unfold Reg.dieCores configReg
  rw [show (0x11000048 + 0x1000 * (i % 4096)) / 0x1000000 = 17 by omega, show (0x11000048 + 0x1000 * (i % 4096)) % 0x1000 = 0x048 by omega]
  rfl

@[simp] theorem config_cluLocation (i : Nat) : configReg (Reg.cluLocation i) = false := by
  unfold Reg.cluLocation configReg
  rw [show (0x12000040 + 0x1000 * (i % 4096)) / 0x1000000 = 18 by omega, show (0x12000040 + 0x1000 * (i % 4096)) % 0x1000 = 0x040 by omega]
  rfl

@[simp] theorem config_cluCores (i : Nat) : configReg (Reg.cluCores i) = false := by
  unfold Reg.cluCores configReg
  rw [show (0x12000044 + 0x1000 * (i % 4096)) / 0x1000000 = 18 by omega, show (0x12000044 + 0x1000 * (i % 4096)) % 0x1000 = 0x044 by omega]
  rfl

@[simp] theorem config_cluEnabledMap (i : Nat) (n : Nat) : configReg (Reg.cluEnabledMap i n) = false := by
  unfold Reg.cluEnabledMap configReg
  rw [show (0x12000048 + 0x1000 * (i % 4096) + 4 * (n % 4)) / 0x1000000 = 18 by omega, show (0x12000048 + 0x1000 * (i % 4096) + 4 * (n % 4)) % 0x1000 = 0x048 + 4 * (n % 4) by omega]
  exact (by decide : ∀ k, k < 4 → configOffset .clu (0x048 + 4 * k) = false) _ (Nat.mod_lt _ (by decide))

@[simp] theorem config_cluFusedMap (i : Nat) (n : Nat) : configReg (Reg.cluFusedMap i n) = false := by
  unfold Reg.cluFusedMap configReg
  rw [show (0x12000058 + 0x1000 * (i % 4096) + 4 * (n % 4)) / 0x1000000 = 18 by omega, show (0x12000058 + 0x1000 * (i % 4096) + 4 * (n % 4)) % 0x1000 = 0x058 + 4 * (n % 4) by omega]
  exact (by decide : ∀ k, k < 4 → configOffset .clu (0x058 + 4 * k) = false) _ (Nat.mod_lt _ (by decide))

@[simp] theorem config_cluClock (i : Nat) : configReg (Reg.cluClock i) = false := by
  unfold Reg.cluClock configReg
  rw [show (0x12000068 + 0x1000 * (i % 4096)) / 0x1000000 = 18 by omega, show (0x12000068 + 0x1000 * (i % 4096)) % 0x1000 = 0x068 by omega]
  rfl

@[simp] theorem config_cluSpeedWeight (i : Nat) : configReg (Reg.cluSpeedWeight i) = false := by
  unfold Reg.cluSpeedWeight configReg
  rw [show (0x1200006C + 0x1000 * (i % 4096)) / 0x1000000 = 18 by omega, show (0x1200006C + 0x1000 * (i % 4096)) % 0x1000 = 0x06C by omega]
  rfl

@[simp] theorem config_cluProbation (i : Nat) : configReg (Reg.cluProbation i) = false := by
  unfold Reg.cluProbation configReg
  rw [show (0x12000070 + 0x1000 * (i % 4096)) / 0x1000000 = 18 by omega, show (0x12000070 + 0x1000 * (i % 4096)) % 0x1000 = 0x070 by omega]
  rfl

@[simp] theorem config_cluChkCount (i : Nat) : configReg (Reg.cluChkCount i) = false := by
  unfold Reg.cluChkCount configReg
  rw [show (0x12000074 + 0x1000 * (i % 4096)) / 0x1000000 = 18 by omega, show (0x12000074 + 0x1000 * (i % 4096)) % 0x1000 = 0x074 by omega]
  rfl

@[simp] theorem config_cluChkLast (i : Nat) : configReg (Reg.cluChkLast i) = false := by
  unfold Reg.cluChkLast configReg
  rw [show (0x12000078 + 0x1000 * (i % 4096)) / 0x1000000 = 18 by omega, show (0x12000078 + 0x1000 * (i % 4096)) % 0x1000 = 0x078 by omega]
  rfl

@[simp] theorem config_cluWork (i : Nat) : configReg (Reg.cluWork i) = false := by
  unfold Reg.cluWork configReg
  rw [show (0x1200007C + 0x1000 * (i % 4096)) / 0x1000000 = 18 by omega, show (0x1200007C + 0x1000 * (i % 4096)) % 0x1000 = 0x07C by omega]
  rfl

@[simp] theorem config_cluKeepSpill (i : Nat) : configReg (Reg.cluKeepSpill i) = false := by
  unfold Reg.cluKeepSpill configReg
  rw [show (0x12000080 + 0x1000 * (i % 4096)) / 0x1000000 = 18 by omega, show (0x12000080 + 0x1000 * (i % 4096)) % 0x1000 = 0x080 by omega]
  rfl

@[simp] theorem config_cluFallback (i : Nat) : configReg (Reg.cluFallback i) = false := by
  unfold Reg.cluFallback configReg
  rw [show (0x12000084 + 0x1000 * (i % 4096)) / 0x1000000 = 18 by omega, show (0x12000084 + 0x1000 * (i % 4096)) % 0x1000 = 0x084 by omega]
  rfl

@[simp] theorem config_chkCoreState : configReg Reg.chkCoreState = false := rfl

@[simp] theorem config_chkCoreReq : configReg Reg.chkCoreReq = false := rfl

@[simp] theorem config_chkLast : configReg Reg.chkLast = false := rfl

@[simp] theorem config_chkTransients : configReg Reg.chkTransients = false := rfl

@[simp] theorem config_chkLasting : configReg Reg.chkLasting = false := rfl

@[simp] theorem config_chkDupItems : configReg Reg.chkDupItems = false := rfl

@[simp] theorem config_chkDupVector : configReg Reg.chkDupVector = false := rfl

@[simp] theorem config_chkStoreEvents : configReg Reg.chkStoreEvents = false := rfl

@[simp] theorem config_chkProbations : configReg Reg.chkProbations = false := rfl

@[simp] theorem config_chkFences : configReg Reg.chkFences = false := rfl

@[simp] theorem config_chkCoreProbLeft : configReg Reg.chkCoreProbLeft = false := rfl

@[simp] theorem config_skyFixedLo : configReg Reg.skyFixedLo = false := rfl

@[simp] theorem config_skyFixedHi : configReg Reg.skyFixedHi = false := rfl

@[simp] theorem config_skyStatus : configReg Reg.skyStatus = false := rfl

@[simp] theorem config_skyDigest (n : Nat) : configReg (Reg.skyDigest n) = false := by
  unfold Reg.skyDigest configReg
  rw [show (0x14000084 + 4 * (n % 8)) / 0x1000000 = 20 by omega, show (0x14000084 + 4 * (n % 8)) % 0x1000 = 0x084 + 4 * (n % 8) by omega]
  exact (by decide : ∀ k, k < 8 → configOffset .sky (0x084 + 4 * k) = false) _ (Nat.mod_lt _ (by decide))

@[simp] theorem config_skyVotes : configReg Reg.skyVotes = false := rfl

@[simp] theorem config_skySuspects : configReg Reg.skySuspects = false := rfl

@[simp] theorem config_skyRollbacks : configReg Reg.skyRollbacks = false := rfl

@[simp] theorem config_skySkEqual : configReg Reg.skySkEqual = false := rfl

@[simp] theorem config_skySkThird : configReg Reg.skySkThird = false := rfl

@[simp] theorem config_skyCaptureIncomplete : configReg Reg.skyCaptureIncomplete = false := rfl

@[simp] theorem config_hotStatus : configReg Reg.hotStatus = false := rfl

@[simp] theorem config_hotCtrl : configReg Reg.hotCtrl = false := rfl

@[simp] theorem config_hotInrush : configReg Reg.hotInrush = false := rfl

@[simp] theorem config_vtbLimits : configReg Reg.vtbLimits = false := rfl

@[simp] theorem config_vtbLoadStatus : configReg Reg.vtbLoadStatus = false := rfl

@[simp] theorem config_vtbNonfinite : configReg Reg.vtbNonfinite = false := rfl

@[simp] theorem config_vtbMaskedRows : configReg Reg.vtbMaskedRows = false := rfl

@[simp] theorem config_vtbBadTarget : configReg Reg.vtbBadTarget = false := rfl

@[simp] theorem config_vtbProgReject : configReg Reg.vtbProgReject = false := rfl

@[simp] theorem config_vtbSlotStatus (n : Nat) : configReg (Reg.vtbSlotStatus n) = false := by
  unfold Reg.vtbSlotStatus configReg
  rw [show (0x16000080 + 4 * (n % 32)) / 0x1000000 = 22 by omega, show (0x16000080 + 4 * (n % 32)) % 0x1000 = 0x080 + 4 * (n % 32) by omega]
  exact (by decide : ∀ k, k < 32 → configOffset .vtb (0x080 + 4 * k) = false) _ (Nat.mod_lt _ (by decide))

@[simp] theorem config_vtbSlotCrc (n : Nat) : configReg (Reg.vtbSlotCrc n) = false := by
  unfold Reg.vtbSlotCrc configReg
  rw [show (0x16000100 + 4 * (n % 32)) / 0x1000000 = 22 by omega, show (0x16000100 + 4 * (n % 32)) % 0x1000 = 0x100 + 4 * (n % 32) by omega]
  exact (by decide : ∀ k, k < 32 → configOffset .vtb (0x100 + 4 * k) = false) _ (Nat.mod_lt _ (by decide))

@[simp] theorem config_vtbSlotPlace (n : Nat) : configReg (Reg.vtbSlotPlace n) = false := by
  unfold Reg.vtbSlotPlace configReg
  rw [show (0x16000180 + 4 * (n % 32)) / 0x1000000 = 22 by omega, show (0x16000180 + 4 * (n % 32)) % 0x1000 = 0x180 + 4 * (n % 32) by omega]
  exact (by decide : ∀ k, k < 32 → configOffset .vtb (0x180 + 4 * k) = false) _ (Nat.mod_lt _ (by decide))

@[simp] theorem config_hubBadAddrLo4 : configReg (Reg.hubBadAddrLo + 4) = false := rfl

@[simp] theorem config_secSerialLo4 : configReg (Reg.secSerialLo + 4) = false := rfl

@[simp] theorem config_mgtMac0Lo4 : configReg (Reg.mgtMac0Lo + 4) = false := rfl

@[simp] theorem config_mgtMac1Lo4 : configReg (Reg.mgtMac1Lo + 4) = false := rfl

@[simp] theorem config_logWriteLo4 : configReg (Reg.logWriteLo + 4) = false := rfl

@[simp] theorem config_seqPredLo4 (i : Nat) : configReg (Reg.seqPredLo i + 4) = false := by
  unfold Reg.seqPredLo configReg
  rw [show (0x08000068 + 0x1000 * (i % 4096) + 4) / 0x1000000 = 8 by omega, show (0x08000068 + 0x1000 * (i % 4096) + 4) % 0x1000 = 0x06C by omega]
  rfl

@[simp] theorem config_seqRejectAddrLo4 (i : Nat) : configReg (Reg.seqRejectAddrLo i + 4) = false := by
  unfold Reg.seqRejectAddrLo configReg
  rw [show (0x08000074 + 0x1000 * (i % 4096) + 4) / 0x1000000 = 8 by omega, show (0x08000074 + 0x1000 * (i % 4096) + 4) % 0x1000 = 0x078 by omega]
  rfl

@[simp] theorem config_hlmStepLo4 : configReg (Reg.hlmStepLo + 4) = false := rfl

@[simp] theorem config_sxtStepLo4 : configReg (Reg.sxtStepLo + 4) = false := rfl

@[simp] theorem config_sxtNfOriginIndexLo4 : configReg (Reg.sxtNfOriginIndexLo + 4) = false := rfl

@[simp] theorem config_redNfOriginIndexLo4 : configReg (Reg.redNfOriginIndexLo + 4) = false := rfl

@[simp] theorem config_chtStepLo4 : configReg (Reg.chtStepLo + 4) = false := rfl

@[simp] theorem config_memLostAddrLo4 (i : Nat) : configReg (Reg.memLostAddrLo i + 4) = false := by
  unfold Reg.memLostAddrLo configReg
  rw [show (0x10000058 + 0x1000 * (i % 4096) + 4) / 0x1000000 = 16 by omega, show (0x10000058 + 0x1000 * (i % 4096) + 4) % 0x1000 = 0x05C by omega]
  rfl

@[simp] theorem config_skyFixedLo4 : configReg (Reg.skyFixedLo + 4) = false := rfl

/-- The header registers but EV_EN and the page's control word hold no configuration. -/
theorem config_header (t : PageType) (i off : Nat) (ho : off < 0x040) (h1 : off ≠ 0x010) (h2 : off ≠ 0x024) :
    configReg (pageAddr t i + off) = false := by
  have hc : pageTypeOf (pageCode t) = some t := by cases t <;> rfl
  unfold configReg pageAddr
  rw [show (0x1000000 * pageCode t + 0x1000 * (i % 4096) + off) / 0x1000000 = pageCode t by omega,
    show (0x1000000 * pageCode t + 0x1000 * (i % 4096) + off) % 0x1000 = off by omega, hc]
  have := (by decide : ∀ k, k < 0x040 → k ≠ 0x010 → k ≠ 0x024 → configOffset .hub k = false) off ho h1 h2
  have hn : movedRegs.contains (t, off) = false := by
    simp [movedRegs]
    omega
  have hm : movedRegs.contains (PageType.hub, off) = false := by
    simp [movedRegs]
  unfold configOffset at this ⊢
  simp only [ho, if_true, hn, hm] at this ⊢
  exact this

@[simp] theorem config_stateReg (p : Page) : configReg (stateReg p) = false :=
  config_header _ _ _ (by decide) (by decide) (by decide)

@[simp] theorem config_evPendReg (p : Page) : configReg (evPendReg p) = false :=
  config_header _ _ _ (by decide) (by decide) (by decide)

@[simp] theorem config_evMissedReg (p : Page) : configReg (evMissedReg p) = false :=
  config_header _ _ _ (by decide) (by decide) (by decide)

end Sys2Proof.Machine
end

