-- ==== Sys2Proof/Laws/Stores.lean ====
section
/-! SUPPORT. The laws of sparse stores and of byte memory: reading after writing, and the canonical form kept. -/
set_option Elab.async false
namespace Sys2Proof.Machine

variable {α : Type} [DecidableEq α] {dflt : Nat → α}

/-- In canonical form above `lo`, a key not above `lo` is unlisted. -/
theorem Assoc.get_of_le {m : Assoc α} {lo a : Nat} (h : Assoc.wfAbove dflt (some lo) m = true) (ha : a ≤ lo) :
    Assoc.get dflt m a = dflt a := by
  cases m with
  | nil => rfl
  | cons e rest =>
    obtain ⟨k, v⟩ := e
    simp only [Assoc.wfAbove, Bool.and_eq_true, decide_eq_true_eq] at h
    have h1 : a ≠ k := by omega
    have h2 : a < k := by omega
    simp [Assoc.get, h1, h2]

/-- A weaker bound below keeps the canonical form. -/
theorem Assoc.wfAbove_mono {m : Assoc α} {lo k : Nat} (h : Assoc.wfAbove dflt (some k) m = true) (hk : lo ≤ k) :
    Assoc.wfAbove dflt (some lo) m = true := by
  cases m with
  | nil => rfl
  | cons e rest =>
    simp only [Assoc.wfAbove, Bool.and_eq_true, decide_eq_true_eq] at h ⊢
    exact ⟨⟨by omega, h.1.2⟩, h.2⟩

/-- Dropping the bound keeps the canonical form. -/
theorem Assoc.wf_of_wfAbove {m : Assoc α} {lo : Option Nat} (h : Assoc.wfAbove dflt lo m = true) :
    Assoc.wf dflt m = true := by
  cases m with
  | nil => rfl
  | cons e rest =>
    simp only [Assoc.wf, Assoc.wfAbove, Bool.and_eq_true, decide_eq_true_eq, true_and] at h ⊢
    exact ⟨h.1.2, h.2⟩

theorem Assoc.wfAbove_set {m : Assoc α} {lo : Option Nat} {a : Nat} {v : α} (h : Assoc.wfAbove dflt lo m = true)
    (ha : ∀ l, lo = some l → l < a) : Assoc.wfAbove dflt lo (Assoc.set dflt m a v) = true := by
  induction m generalizing lo with
  | nil =>
    simp only [Assoc.set]
    split
    · rfl
    · cases lo with
      | none => simp_all [Assoc.wfAbove]
      | some l => simp_all [Assoc.wfAbove]
  | cons e rest ih =>
    obtain ⟨k, w⟩ := e
    have hrest : Assoc.wfAbove dflt (some k) rest = true := by
      simp only [Assoc.wfAbove, Bool.and_eq_true] at h
      exact h.2
    simp only [Assoc.set]
    split
    · rename_i hk
      split
      · cases lo with
        | none => exact Assoc.wf_of_wfAbove hrest
        | some l => exact Assoc.wfAbove_mono hrest (by have := ha l rfl; omega)
      · cases lo <;> simp_all [Assoc.wfAbove]
    · split
      · split
        · exact h
        · cases lo <;> simp_all [Assoc.wfAbove]
      · have := ih hrest (by intro l hl; cases hl; omega)
        cases lo <;> simp_all [Assoc.wfAbove]

/-- Writing a key keeps the canonical form. -/
theorem Assoc.wf_set {m : Assoc α} (h : Assoc.wf dflt m = true) (a : Nat) (v : α) :
    Assoc.wf dflt (Assoc.set dflt m a v) = true :=
  Assoc.wfAbove_set h (by intro l hl; cases hl)

/-- What is written is read. -/
theorem Assoc.get_set_same {m : Assoc α} (h : Assoc.wf dflt m = true) (a : Nat) (v : α) :
    Assoc.get dflt (Assoc.set dflt m a v) a = v := by
  induction m with
  | nil =>
    simp only [Assoc.set]
    split <;> simp_all [Assoc.get]
  | cons e rest ih =>
    obtain ⟨k, w⟩ := e
    have hrest : Assoc.wfAbove dflt (some k) rest = true := by
      simp only [Assoc.wf, Assoc.wfAbove, Bool.and_eq_true] at h
      exact h.2
    simp only [Assoc.set]
    split
    · rename_i hk
      split
      · rename_i hv
        rw [Assoc.get_of_le hrest (by omega), hv]
      · simp [Assoc.get]
    · rename_i hk
      split
      · rename_i hlt
        split
        · simp_all [Assoc.get]
        · simp [Assoc.get]
      · rename_i hlt
        simp [Assoc.get, hk, hlt, ih (Assoc.wf_of_wfAbove hrest)]

/-- Other keys read as before. -/
theorem Assoc.get_set_other {m : Assoc α} (h : Assoc.wf dflt m = true) {a b : Nat} (hab : b ≠ a) (v : α) :
    Assoc.get dflt (Assoc.set dflt m a v) b = Assoc.get dflt m b := by
  induction m with
  | nil =>
    simp only [Assoc.set]
    split
    · rfl
    · simp [Assoc.get, hab]
  | cons e rest ih =>
    obtain ⟨k, w⟩ := e
    have hrest : Assoc.wfAbove dflt (some k) rest = true := by
      simp only [Assoc.wf, Assoc.wfAbove, Bool.and_eq_true] at h
      exact h.2
    simp only [Assoc.set]
    split
    · rename_i hk
      split
      · have hbk : b ≠ k := by omega
        simp only [Assoc.get, hbk, if_false]
        split
        · exact Assoc.get_of_le hrest (by omega)
        · rfl
      · subst hk
        simp [Assoc.get, hab]
    · rename_i hk
      split
      · rename_i hlt
        split
        · rfl
        · have : ∀ x, Assoc.get dflt ((a, v) :: (k, w) :: rest) x =
            if x = a then v else if x < a then dflt x else Assoc.get dflt ((k, w) :: rest) x := fun _ => rfl
          rw [this]
          simp only [hab, if_false]
          split
          · have h1 : b ≠ k := by omega
            have h2 : b < k := by omega
            simp [Assoc.get, h1, h2]
          · rfl
      · simp only [Assoc.get]
        rw [ih (Assoc.wf_of_wfAbove hrest)]

/-- A read of a written store, for either case. -/
theorem Assoc.get_set {m : Assoc α} (h : Assoc.wf dflt m = true) (a b : Nat) (v : α) :
    Assoc.get dflt (Assoc.set dflt m a v) b = if b = a then v else Assoc.get dflt m b := by
  split
  · rename_i hab
    subst hab
    exact Assoc.get_set_same h b v
  · rename_i hab
    exact Assoc.get_set_other h hab v

/-! Bytes. -/

theorem Mem.wf_setByte {m : Mem} (h : m.wf = true) (a : Nat) (b : Byte) : (m.setByte a b).wf = true := Assoc.wf_set h a b

theorem Mem.byte_setByte {m : Mem} (h : m.wf = true) (a x : Nat) (b : Byte) :
    (m.setByte a b).byte x = if x = a then b else m.byte x := Assoc.get_set h a x b

theorem Mem.wf_setBytes {m : Mem} (h : m.wf = true) (a : Nat) (bs : List Byte) : (m.setBytes a bs).wf = true := by
  induction bs generalizing m a with
  | nil => exact h
  | cons b bs ih => exact ih (Mem.wf_setByte h a b) (a + 1)

/-- A byte outside the written run reads as before. -/
theorem Mem.byte_setBytes_outside {m : Mem} (h : m.wf = true) {a x : Nat} {bs : List Byte}
    (hx : x < a ∨ a + bs.length ≤ x) : (m.setBytes a bs).byte x = m.byte x := by
  induction bs generalizing m a with
  | nil => rfl
  | cons b bs ih =>
    simp only [List.length_cons] at hx
    simp only [Mem.setBytes]
    rw [ih (Mem.wf_setByte h a b) (by omega), Mem.byte_setByte h]
    have : x ≠ a := by omega
    simp [this]

/-- A byte inside the written run reads as written. -/
theorem Mem.byte_setBytes_inside {m : Mem} (h : m.wf = true) {a : Nat} {bs : List Byte} {i : Nat} (hi : i < bs.length) :
    (m.setBytes a bs).byte (a + i) = bs[i] := by
  induction bs generalizing m a i with
  | nil => simp at hi
  | cons b bs ih =>
    simp only [Mem.setBytes]
    cases i with
    | zero =>
      rw [Mem.byte_setBytes_outside (Mem.wf_setByte h a b) (by omega), Mem.byte_setByte h]
      simp
    | succ n =>
      have := ih (Mem.wf_setByte h a b) (a := a + 1) (i := n) (by simpa using hi)
      rw [show a + (n + 1) = a + 1 + n by omega, this]
      rfl

theorem Mem.wf_apply {m : Mem} (h : m.wf = true) (cs : List Chunk) : (m.apply cs).wf = true := by
  unfold Mem.apply
  induction cs generalizing m with
  | nil => exact h
  | cons c cs ih => exact ih (Mem.wf_setBytes h c.addr c.bytes)

/-- The number of bytes of a little-endian number. -/
@[simp] theorem natBytes_length (n v : Nat) : (natBytes n v).length = n := by
  induction n generalizing v with
  | zero => rfl
  | succ n ih => simp [natBytes, ih]

/-- Bytes written and read back (R3). -/
theorem leNat_natBytes (n v : Nat) : leNat (natBytes n v) = v % 256 ^ n := by
  induction n generalizing v with
  | zero => simp [natBytes, leNat, Nat.mod_one]
  | succ n ih =>
    simp only [natBytes, leNat, ih, BitVec.toNat_ofNat]
    rw [show 256 ^ (n + 1) = 256 * 256 ^ n by rw [Nat.pow_succ, Nat.mul_comm], Nat.mod_mul]

end Sys2Proof.Machine
end

