-- ==== Sys2Proof/Laws/Keep.lean ====
section
/-! SUPPORT. What every operation on the device keeps: the canonical form of memory and of the registers, and, for the
operations that no stream's turn changes, the running commands and the time. -/
set_option Elab.async false
namespace Sys2Proof.Machine

/-- `d` comes from `o` with the canonical forms kept and, at the level `true`, with the same commands running at the
same time. -/
structure Keeps (level : Bool) (o d : Dev) : Prop where
  mem : o.mem.wf = true → d.mem.wf = true
  regs : Assoc.wf regReset o.regs = true → Assoc.wf regReset d.regs = true
  main : level = true → d.seqMain.turn = o.seqMain.turn
  backfill : level = true → d.seqBf.turn = o.seqBf.turn
  now : level = true → d.now = o.now

variable {level : Bool} {o d : Dev}

theorem Keeps.refl : Keeps level o o := ⟨id, id, fun _ => rfl, fun _ => rfl, fun _ => rfl⟩

theorem Keeps.tidy (h : Keeps level o d) (ho : o.Tidy) : d.Tidy := ⟨h.mem ho.1, h.regs ho.2⟩

theorem Keeps.weaken (h : Keeps level o d) : Keeps false o d :=
  ⟨h.mem, h.regs, (fun x => by cases x), (fun x => by cases x), (fun x => by cases x)⟩

/-- Other fields may change. -/
theorem Keeps.other {d' : Dev} (h : Keeps level o d) (h1 : d'.mem = d.mem := by rfl) (h2 : d'.regs = d.regs := by rfl)
    (h3 : d'.seqMain.turn = d.seqMain.turn := by rfl) (h4 : d'.seqBf.turn = d.seqBf.turn := by rfl)
    (h5 : d'.now = d.now := by rfl) : Keeps level o d' :=
  ⟨by rw [h1]; exact h.mem, by rw [h2]; exact h.regs, by rw [h3]; exact h.main, by rw [h4]; exact h.backfill,
    by rw [h5]; exact h.now⟩

/-- At the level `false` the streams and the time may change too. -/
theorem Keeps.free {d' : Dev} (h : Keeps false o d) (h1 : d'.mem = d.mem := by rfl) (h2 : d'.regs = d.regs := by rfl) :
    Keeps false o d' :=
  ⟨by rw [h1]; exact h.mem, by rw [h2]; exact h.regs, (fun x => by cases x), (fun x => by cases x), (fun x => by cases x)⟩

/-- Memory replaced by canonical memory. -/
theorem Keeps.memory {d' : Dev} (h : Keeps level o d) (h1 : d.mem.wf = true → d'.mem.wf = true)
    (h2 : d'.regs = d.regs := by rfl) (h3 : d'.seqMain.turn = d.seqMain.turn := by rfl)
    (h4 : d'.seqBf.turn = d.seqBf.turn := by rfl) (h5 : d'.now = d.now := by rfl) : Keeps level o d' :=
  ⟨fun x => h1 (h.mem x), by rw [h2]; exact h.regs, by rw [h3]; exact h.main, by rw [h4]; exact h.backfill,
    by rw [h5]; exact h.now⟩

theorem Keeps.ite {c : Prop} [Decidable c] {a b : Dev} (ha : Keeps level o a) (hb : Keeps level o b) :
    Keeps level o (if c then a else b) := by
  split
  · exact ha
  · exact hb

theorem Keeps.foldl {α : Type} {f : Dev → α → Dev} {l : List α} (h : Keeps level o d)
    (hf : ∀ x a, Keeps level o x → Keeps level o (f x a)) : Keeps level o (l.foldl f d) := by
  induction l generalizing d with
  | nil => exact h
  | cons a l ih => exact ih (hf d a h)

/-- The accumulator of a fold holds the device in its first place. -/
theorem Keeps.foldl_fst {α β : Type} {f : Dev × β → α → Dev × β} {l : List α} {b : Dev × β} (h : Keeps level o b.1)
    (hf : ∀ x a, Keeps level o x.1 → Keeps level o (f x a).1) : Keeps level o (l.foldl f b).1 := by
  induction l generalizing b with
  | nil => exact h
  | cons a l ih => exact ih (hf b a h)

/-- The accumulator of a fold holds the device in its second place. -/
theorem Keeps.foldl_snd {α β : Type} {f : β × Dev → α → β × Dev} {l : List α} {b : β × Dev} (h : Keeps level o b.2)
    (hf : ∀ x a, Keeps level o x.2 → Keeps level o (f x a).2) : Keeps level o (l.foldl f b).2 := by
  induction l generalizing b with
  | nil => exact h
  | cons a l ih => exact ih (hf b a h)

/-- The device, where there is one, keeps. -/
structure KeepsOpt (level : Bool) (o : Dev) (x : Option Dev) : Prop where
  keeps : ∀ y, x = some y → Keeps level o y

theorem KeepsOpt.none : KeepsOpt level o none := ⟨fun _ h => by cases h⟩

theorem KeepsOpt.some (h : Keeps level o d) : KeepsOpt level o (some d) := ⟨fun _ hy => by
  cases hy
  exact h⟩

theorem KeepsOpt.ite {c : Prop} [Decidable c] {a b : Option Dev} (ha : KeepsOpt level o a) (hb : KeepsOpt level o b) :
    KeepsOpt level o (if c then a else b) := by
  split
  · exact ha
  · exact hb

theorem Keeps.getD {x : Option Dev} (h : Keeps level o d) (hx : KeepsOpt level o x) : Keeps level o (x.getD d) := by
  cases x with
  | none => exact h
  | some y => exact hx.keeps y rfl

/-- Any field but the tracked ones may change. -/
theorem Keeps.upd {x : Dev} {resetAt' freeCtr' nextRun' drained' flash' ext' curves' cmp' xch' red' hlm' sxt' hng' snd'
      ports' cht' log' sky' chk' arr' scrubAt' irq' boot' pwr' mgt'} :
    Keeps level o (Dev.mk x.now resetAt' freeCtr' nextRun' x.regs x.mem drained' flash' ext' x.seqMain x.seqBf curves'
      cmp' xch' red' hlm' sxt' hng' snd' ports' cht' log' sky' chk' arr' scrubAt' irq' boot' pwr' mgt') ↔ Keeps level o x :=
  ⟨fun h => h.other, fun h => h.other⟩

/-- The same, with the main stream changed but for its running command. -/
theorem Keeps.updMain {x : Dev} {resetAt' freeCtr' nextRun' drained' flash' ext' curves' cmp' xch' red' hlm' sxt' hng'
      snd' ports' cht' log' sky' chk' arr' scrubAt' irq' boot' pwr' mgt'
    frames' ahead' late' hazard' kept' listCrc' workCrc' skipped' lastRoute' routes' waitDone'} :
    Keeps level o (Dev.mk x.now resetAt' freeCtr' nextRun' x.regs x.mem drained' flash' ext' (StreamState.mk frames'
      ahead' x.seqMain.running late' hazard' kept' listCrc' workCrc' x.seqMain.completed skipped' lastRoute' routes' waitDone') x.seqBf
      curves' cmp' xch' red' hlm' sxt' hng' snd' ports' cht' log' sky' chk' arr' scrubAt' irq' boot' pwr' mgt') ↔
      Keeps level o x :=
  ⟨fun h => h.other, fun h => h.other⟩

/-- At the level `false`, streams and time may change as well. -/
theorem Keeps.updFree {x : Dev} {resetAt' freeCtr' nextRun' drained' flash' ext' curves' cmp' xch' red' hlm' sxt' hng'
      snd' ports' cht' log' sky' chk' arr' scrubAt' irq' boot' pwr' mgt' now' seqMain' seqBf'} :
    Keeps false o (Dev.mk now' resetAt' freeCtr' nextRun' x.regs x.mem drained' flash' ext' seqMain' seqBf' curves'
      cmp' xch' red' hlm' sxt' hng' snd' ports' cht' log' sky' chk' arr' scrubAt' irq' boot' pwr' mgt') ↔ Keeps false o x :=
  ⟨fun h => h.free, fun h => h.free⟩

theorem Keeps.ite1 {α : Type} {c : Prop} [Decidable c] {a b : Dev × α} (ha : Keeps level o a.1) (hb : Keeps level o b.1) :
    Keeps level o (if c then a else b).1 := by
  split
  · exact ha
  · exact hb

theorem Keeps.ite2 {α : Type} {c : Prop} [Decidable c] {a b : α × Dev} (ha : Keeps level o a.2) (hb : Keeps level o b.2) :
    Keeps level o (if c then a else b).2 := by
  split
  · exact ha
  · exact hb

/-! Registers. -/

theorem Keeps.setReg (h : Keeps level o d) (a : Nat) (w : Word) : Keeps level o (d.setReg a w) :=
  ⟨h.mem, fun x => Assoc.wf_set (h.regs x) a w, h.main, h.backfill, h.now⟩

theorem wf_ringWrite {m : Mem} (h : m.wf = true) (off : Nat) (bs : List Byte) : (ringWrite m off bs).wf = true := by
  induction bs generalizing m off with
  | nil => exact h
  | cons b bs ih => exact ih (Mem.wf_setByte h _ b) _

theorem Keeps.setBytes (h : Keeps level o d) (a : Nat) (bs : List Byte) : Keeps level o (d.writeAt a bs) :=
  h.memory fun x => Mem.wf_setBytes x a bs

end Sys2Proof.Machine
end

