-- ==== Sys2Proof/Laws/KeepOps.lean ====
section
/-! SUPPORT. What the operations of Machine/Ops.lean keep (`Keeps`). -/
set_option Elab.async false
set_option linter.unusedTactic false
set_option linter.unreachableTactic false
set_option linter.unusedSimpArgs false

namespace Sys2Proof.Machine

variable {level : Bool} {o d : Dev}

theorem Keeps.setFld (h : Keeps level o d) (a : Nat) (hi : Nat) (lo : Nat) (v : Nat) : Keeps level o (Dev.setFld d a hi lo v) := by
  unfold Dev.setFld
  try dsimp only
  repeat' first
    | with_reducible assumption | with_reducible exact h | with_reducible apply Keeps.setReg
    | with_reducible apply Keeps.ite | with_reducible apply Keeps.ite1 | with_reducible apply Keeps.ite2
    | with_reducible apply Keeps.foldl | with_reducible apply Keeps.foldl_fst | with_reducible apply Keeps.foldl_snd
    | simp only [Keeps.upd] | simp only [Keeps.updMain] | intro _ _ _ | intro _ _ | intro _ | dsimp only | split | rfl

theorem Keeps.setFlag (h : Keeps level o d) (a : Nat) (i : Nat) (b : Bool) : Keeps level o (Dev.setFlag d a i b) := by
  unfold Dev.setFlag
  try dsimp only
  repeat' first
    | with_reducible assumption | with_reducible exact h | with_reducible apply Keeps.setReg
    | with_reducible apply Keeps.ite | with_reducible apply Keeps.ite1 | with_reducible apply Keeps.ite2
    | with_reducible apply Keeps.foldl | with_reducible apply Keeps.foldl_fst | with_reducible apply Keeps.foldl_snd
    | simp only [Keeps.upd] | simp only [Keeps.updMain] | intro _ _ _ | intro _ _ | intro _ | dsimp only | split | rfl

theorem Keeps.addSatFld (h : Keeps level o d) (a : Nat) (hi : Nat) (lo : Nat) (n : Nat) : Keeps level o (Dev.addSatFld d a hi lo n) := by
  unfold Dev.addSatFld
  try dsimp only
  repeat' first
    | with_reducible assumption | with_reducible exact h | with_reducible apply Keeps.setFld
    | with_reducible apply Keeps.ite | with_reducible apply Keeps.ite1 | with_reducible apply Keeps.ite2
    | with_reducible apply Keeps.foldl | with_reducible apply Keeps.foldl_fst | with_reducible apply Keeps.foldl_snd
    | simp only [Keeps.upd] | simp only [Keeps.updMain] | intro _ _ _ | intro _ _ | intro _ | dsimp only | split | rfl

theorem Keeps.addSat (h : Keeps level o d) (a : Nat) (n : Nat) : Keeps level o (Dev.addSat d a n) := by
  unfold Dev.addSat
  try dsimp only
  repeat' first
    | with_reducible assumption | with_reducible exact h | with_reducible apply Keeps.setReg
    | with_reducible apply Keeps.ite | with_reducible apply Keeps.ite1 | with_reducible apply Keeps.ite2
    | with_reducible apply Keeps.foldl | with_reducible apply Keeps.foldl_fst | with_reducible apply Keeps.foldl_snd
    | simp only [Keeps.upd] | simp only [Keeps.updMain] | intro _ _ _ | intro _ _ | intro _ | dsimp only | split | rfl

theorem Keeps.addWrap (h : Keeps level o d) (a : Nat) (n : Nat) : Keeps level o (Dev.addWrap d a n) := by
  unfold Dev.addWrap
  try dsimp only
  repeat' first
    | with_reducible assumption | with_reducible exact h | with_reducible apply Keeps.setReg
    | with_reducible apply Keeps.ite | with_reducible apply Keeps.ite1 | with_reducible apply Keeps.ite2
    | with_reducible apply Keeps.foldl | with_reducible apply Keeps.foldl_fst | with_reducible apply Keeps.foldl_snd
    | simp only [Keeps.upd] | simp only [Keeps.updMain] | intro _ _ _ | intro _ _ | intro _ | dsimp only | split | rfl

theorem Keeps.raiseTo (h : Keeps level o d) (a : Nat) (n : Nat) : Keeps level o (Dev.raiseTo d a n) := by
  unfold Dev.raiseTo
  try dsimp only
  repeat' first
    | with_reducible assumption | with_reducible exact h | with_reducible apply Keeps.setReg
    | with_reducible apply Keeps.ite | with_reducible apply Keeps.ite1 | with_reducible apply Keeps.ite2
    | with_reducible apply Keeps.foldl | with_reducible apply Keeps.foldl_fst | with_reducible apply Keeps.foldl_snd
    | simp only [Keeps.upd] | simp only [Keeps.updMain] | intro _ _ _ | intro _ _ | intro _ | dsimp only | split | rfl

theorem Keeps.setPair (h : Keeps level o d) (lo : Nat) (v : Nat) : Keeps level o (Dev.setPair d lo v) := by
  unfold Dev.setPair
  try dsimp only
  repeat' first
    | with_reducible assumption | with_reducible exact h | with_reducible apply Keeps.setReg
    | with_reducible apply Keeps.ite | with_reducible apply Keeps.ite1 | with_reducible apply Keeps.ite2
    | with_reducible apply Keeps.foldl | with_reducible apply Keeps.foldl_fst | with_reducible apply Keeps.foldl_snd
    | simp only [Keeps.upd] | simp only [Keeps.updMain] | intro _ _ _ | intro _ _ | intro _ | dsimp only | split | rfl

theorem Keeps.drawWord (h : Keeps level o d)  : Keeps level o (Dev.drawWord d).2 := by
  unfold Dev.drawWord
  try dsimp only
  repeat' first
    | with_reducible assumption | with_reducible exact h | with_reducible apply Keeps.ite
    | with_reducible apply Keeps.ite1 | with_reducible apply Keeps.ite2 | with_reducible apply Keeps.foldl
    | with_reducible apply Keeps.foldl_fst | with_reducible apply Keeps.foldl_snd | simp only [Keeps.upd]
    | simp only [Keeps.updMain] | intro _ _ _ | intro _ _ | intro _ | dsimp only | split | rfl

theorem Keeps.drawBytes (h : Keeps level o d) (n : Nat) : Keeps level o (Dev.drawBytes d n).2 := by
  unfold Dev.drawBytes
  try dsimp only
  repeat' first
    | with_reducible assumption | with_reducible exact h | with_reducible apply Keeps.ite
    | with_reducible apply Keeps.ite1 | with_reducible apply Keeps.ite2 | with_reducible apply Keeps.foldl
    | with_reducible apply Keeps.foldl_fst | with_reducible apply Keeps.foldl_snd | simp only [Keeps.upd]
    | simp only [Keeps.updMain] | intro _ _ _ | intro _ _ | intro _ | dsimp only | split | rfl

theorem Keeps.sign (h : Keeps level o d) (digest : List Byte) : Keeps level o (Dev.sign d digest).2 := by
  unfold Dev.sign
  try dsimp only
  repeat' first
    | with_reducible assumption | with_reducible exact h | with_reducible apply Keeps.ite
    | with_reducible apply Keeps.ite1 | with_reducible apply Keeps.ite2 | with_reducible apply Keeps.foldl
    | with_reducible apply Keeps.foldl_fst | with_reducible apply Keeps.foldl_snd | simp only [Keeps.upd]
    | simp only [Keeps.updMain] | intro _ _ _ | intro _ _ | intro _ | dsimp only | split | rfl

theorem Keeps.newRun (h : Keeps level o d)  : Keeps level o (Dev.newRun d).2 := by
  unfold Dev.newRun
  try dsimp only
  repeat' first
    | with_reducible assumption | with_reducible exact h | with_reducible apply Keeps.ite
    | with_reducible apply Keeps.ite1 | with_reducible apply Keeps.ite2 | with_reducible apply Keeps.foldl
    | with_reducible apply Keeps.foldl_fst | with_reducible apply Keeps.foldl_snd | simp only [Keeps.upd]
    | simp only [Keeps.updMain] | intro _ _ _ | intro _ _ | intro _ | dsimp only | split | rfl

theorem Keeps.markBad (h : Keeps level o d) (steps : List Nat) : Keeps level o (Dev.markBad d steps) := by
  unfold Dev.markBad
  try dsimp only
  repeat' first
    | with_reducible assumption | with_reducible exact h | with_reducible apply Keeps.ite
    | with_reducible apply Keeps.ite1 | with_reducible apply Keeps.ite2 | with_reducible apply Keeps.foldl
    | with_reducible apply Keeps.foldl_fst | with_reducible apply Keeps.foldl_snd | simp only [Keeps.upd]
    | simp only [Keeps.updMain] | intro _ _ _ | intro _ _ | intro _ | dsimp only | split | rfl

theorem Keeps.bad (h : Keeps level o d)  : Keeps level o (Dev.bad d) := by
  unfold Dev.bad
  try dsimp only
  repeat' first
    | with_reducible assumption | with_reducible exact h | with_reducible apply Keeps.markBad
    | with_reducible apply Keeps.ite | with_reducible apply Keeps.ite1 | with_reducible apply Keeps.ite2
    | with_reducible apply Keeps.foldl | with_reducible apply Keeps.foldl_fst | with_reducible apply Keeps.foldl_snd
    | simp only [Keeps.upd] | simp only [Keeps.updMain] | intro _ _ _ | intro _ _ | intro _ | dsimp only | split | rfl

theorem Keeps.badUnfixed (h : Keeps level o d)  : Keeps level o (Dev.badUnfixed d) := by
  unfold Dev.badUnfixed
  try dsimp only
  repeat' first
    | with_reducible assumption | with_reducible exact h | with_reducible apply Keeps.markBad
    | with_reducible apply Keeps.ite | with_reducible apply Keeps.ite1 | with_reducible apply Keeps.ite2
    | with_reducible apply Keeps.foldl | with_reducible apply Keeps.foldl_fst | with_reducible apply Keeps.foldl_snd
    | simp only [Keeps.upd] | simp only [Keeps.updMain] | intro _ _ _ | intro _ _ | intro _ | dsimp only | split | rfl

theorem Keeps.digestRec (h : Keeps level o d) (r : Rec) (bytes : List Byte) : Keeps level o (Dev.digestRec d r bytes) := by
  unfold Dev.digestRec
  try dsimp only
  repeat' first
    | with_reducible assumption | with_reducible exact h | with_reducible apply Keeps.ite
    | with_reducible apply Keeps.ite1 | with_reducible apply Keeps.ite2 | with_reducible apply Keeps.foldl
    | with_reducible apply Keeps.foldl_fst | with_reducible apply Keeps.foldl_snd | simp only [Keeps.upd]
    | simp only [Keeps.updMain] | intro _ _ _ | intro _ _ | intro _ | dsimp only | split | rfl

theorem Keeps.putRecord (h : Keeps level o d) (bytes : List Byte) : Keeps level o (Dev.putRecord d bytes).1 := by
  unfold Dev.putRecord
  exact Keeps.addWrap (Keeps.setPair (h.memory fun x => wf_ringWrite x _ _) _ _) _ _

theorem Keeps.loseRecord (h : Keeps level o d) (n : Nat) : Keeps level o (Dev.loseRecord d n) := by
  unfold Dev.loseRecord
  try dsimp only
  repeat' first
    | with_reducible assumption | with_reducible exact h | with_reducible apply Keeps.bad
    | with_reducible apply Keeps.addSat | with_reducible apply Keeps.setFlag | with_reducible apply Keeps.ite
    | with_reducible apply Keeps.ite1 | with_reducible apply Keeps.ite2 | with_reducible apply Keeps.foldl
    | with_reducible apply Keeps.foldl_fst | with_reducible apply Keeps.foldl_snd | simp only [Keeps.upd]
    | simp only [Keeps.updMain] | intro _ _ _ | intro _ _ | intro _ | dsimp only | split | rfl

theorem Keeps.closeLoss (h : Keeps level o d) (loss : List Byte) : Keeps level o (Dev.closeLoss d loss).1 := by
  unfold Dev.closeLoss
  try dsimp only
  repeat' first
    | with_reducible assumption | with_reducible exact h | with_reducible apply Keeps.putRecord
    | with_reducible apply Keeps.ite | with_reducible apply Keeps.ite1 | with_reducible apply Keeps.ite2
    | with_reducible apply Keeps.foldl | with_reducible apply Keeps.foldl_fst | with_reducible apply Keeps.foldl_snd
    | simp only [Keeps.upd] | simp only [Keeps.updMain] | intro _ _ _ | intro _ _ | intro _ | dsimp only | split | rfl

theorem Keeps.keepRecord (h : Keeps level o d) (r : Rec) (loss : List Byte) (bytes : List Byte) : Keeps level o (Dev.keepRecord d r loss bytes).1 := by
  unfold Dev.keepRecord
  try dsimp only
  repeat' first
    | with_reducible assumption | with_reducible exact h | with_reducible apply Keeps.closeLoss
    | with_reducible apply Keeps.putRecord | with_reducible apply Keeps.digestRec | with_reducible apply Keeps.ite
    | with_reducible apply Keeps.ite1 | with_reducible apply Keeps.ite2 | with_reducible apply Keeps.foldl
    | with_reducible apply Keeps.foldl_fst | with_reducible apply Keeps.foldl_snd | simp only [Keeps.upd]
    | simp only [Keeps.updMain] | intro _ _ _ | intro _ _ | intro _ | dsimp only | split | rfl

theorem Keeps.append (h : Keeps level o d) (r : Rec) : Keeps level o (Dev.append d r).1 := by
  unfold Dev.append
  try dsimp only
  repeat' first
    | with_reducible assumption | with_reducible exact h | with_reducible apply Keeps.loseRecord
    | with_reducible apply Keeps.keepRecord | with_reducible apply Keeps.ite | with_reducible apply Keeps.ite1
    | with_reducible apply Keeps.ite2 | with_reducible apply Keeps.foldl | with_reducible apply Keeps.foldl_fst
    | with_reducible apply Keeps.foldl_snd | simp only [Keeps.upd] | simp only [Keeps.updMain] | intro _ _ _
    | intro _ _ | intro _ | dsimp only | split | rfl

theorem Keeps.edge (h : Keeps level o d) (x : Nat) : Keeps level o (Dev.edge d x).1 := by
  unfold Dev.edge
  try dsimp only
  repeat' first
    | with_reducible assumption | with_reducible exact h | with_reducible apply Keeps.setFld
    | with_reducible apply Keeps.setFlag | with_reducible apply Keeps.ite | with_reducible apply Keeps.ite1
    | with_reducible apply Keeps.ite2 | with_reducible apply Keeps.foldl | with_reducible apply Keeps.foldl_fst
    | with_reducible apply Keeps.foldl_snd | simp only [Keeps.upd] | simp only [Keeps.updMain] | intro _ _ _
    | intro _ _ | intro _ | dsimp only | split | rfl

theorem Keeps.event (h : Keeps level o d) (p : Page) (b : Nat) (forced : Bool) : Keeps level o (Dev.event d p b forced).1 := by
  unfold Dev.event
  try dsimp only
  repeat' first
    | with_reducible assumption | with_reducible exact h | with_reducible apply Keeps.setFld
    | with_reducible apply Keeps.addSatFld | with_reducible apply Keeps.setFlag | with_reducible apply Keeps.ite
    | with_reducible apply Keeps.ite1 | with_reducible apply Keeps.ite2 | with_reducible apply Keeps.foldl
    | with_reducible apply Keeps.foldl_fst | with_reducible apply Keeps.foldl_snd | simp only [Keeps.upd]
    | simp only [Keeps.updMain] | intro _ _ _ | intro _ _ | intro _ | dsimp only | split | rfl

theorem Keeps.act (h : Keeps level o d) (a1 : Act) : Keeps level o (Dev.act d a1).1 := by
  cases a1 with
  | event p b f => exact h.event p b f
  | record r => exact h.append r
  | edge x => exact h.edge x

theorem Keeps.runActs (h : Keeps level o d) (a1 : Nat) (a3 : List Act) : Keeps level o (Dev.runActs a1 d a3) := by
  induction a1 generalizing d a3 with
  | zero => exact h
  | succ n ih =>
    cases a3 with
    | nil => exact h
    | cons a as => exact ih (h.act a) _

theorem Keeps.acts (h : Keeps level o d) (as : List Act) : Keeps level o (Dev.acts d as) := by
  unfold Dev.acts
  try dsimp only
  repeat' first
    | with_reducible assumption | with_reducible exact h | with_reducible apply Keeps.runActs
    | with_reducible apply Keeps.ite | with_reducible apply Keeps.ite1 | with_reducible apply Keeps.ite2
    | with_reducible apply Keeps.foldl | with_reducible apply Keeps.foldl_fst | with_reducible apply Keeps.foldl_snd
    | simp only [Keeps.upd] | simp only [Keeps.updMain] | intro _ _ _ | intro _ _ | intro _ | dsimp only | split | rfl

theorem Keeps.raise (h : Keeps level o d) (p : Page) (b : Nat) : Keeps level o (Dev.raise d p b) := by
  unfold Dev.raise
  try dsimp only
  repeat' first
    | with_reducible assumption | with_reducible exact h | with_reducible apply Keeps.acts
    | with_reducible apply Keeps.ite | with_reducible apply Keeps.ite1 | with_reducible apply Keeps.ite2
    | with_reducible apply Keeps.foldl | with_reducible apply Keeps.foldl_fst | with_reducible apply Keeps.foldl_snd
    | simp only [Keeps.upd] | simp only [Keeps.updMain] | intro _ _ _ | intro _ _ | intro _ | dsimp only | split | rfl

theorem Keeps.raiseLogged (h : Keeps level o d) (p : Page) (b : Nat) (peer : Nat) (detail : List Byte) : Keeps level o (Dev.raiseLogged d p b peer detail) := by
  unfold Dev.raiseLogged
  try dsimp only
  repeat' first
    | with_reducible assumption | with_reducible exact h | with_reducible apply Keeps.acts
    | with_reducible apply Keeps.ite | with_reducible apply Keeps.ite1 | with_reducible apply Keeps.ite2
    | with_reducible apply Keeps.foldl | with_reducible apply Keeps.foldl_fst | with_reducible apply Keeps.foldl_snd
    | simp only [Keeps.upd] | simp only [Keeps.updMain] | intro _ _ _ | intro _ _ | intro _ | dsimp only | split | rfl

theorem Keeps.record (h : Keeps level o d) (r : Rec) : Keeps level o (Dev.record d r) := by
  unfold Dev.record
  try dsimp only
  repeat' first
    | with_reducible assumption | with_reducible exact h | with_reducible apply Keeps.acts
    | with_reducible apply Keeps.ite | with_reducible apply Keeps.ite1 | with_reducible apply Keeps.ite2
    | with_reducible apply Keeps.foldl | with_reducible apply Keeps.foldl_fst | with_reducible apply Keeps.foldl_snd
    | simp only [Keeps.upd] | simp only [Keeps.updMain] | intro _ _ _ | intro _ _ | intro _ | dsimp only | split | rfl

theorem Keeps.irqEdge (h : Keeps level o d) (x : Nat) : Keeps level o (Dev.irqEdge d x) := by
  unfold Dev.irqEdge
  try dsimp only
  repeat' first
    | with_reducible assumption | with_reducible exact h | with_reducible apply Keeps.acts
    | with_reducible apply Keeps.ite | with_reducible apply Keeps.ite1 | with_reducible apply Keeps.ite2
    | with_reducible apply Keeps.foldl | with_reducible apply Keeps.foldl_fst | with_reducible apply Keeps.foldl_snd
    | simp only [Keeps.upd] | simp only [Keeps.updMain] | intro _ _ _ | intro _ _ | intro _ | dsimp only | split | rfl

theorem Keeps.moveTo (h : Keeps level o d) (p : Page) (c : Nat) : Keeps level o (Dev.moveTo d p c) := by
  unfold Dev.moveTo
  try dsimp only
  repeat' first
    | with_reducible assumption | with_reducible exact h | with_reducible apply Keeps.setReg
    | with_reducible apply Keeps.ite | with_reducible apply Keeps.ite1 | with_reducible apply Keeps.ite2
    | with_reducible apply Keeps.foldl | with_reducible apply Keeps.foldl_fst | with_reducible apply Keeps.foldl_snd
    | simp only [Keeps.upd] | simp only [Keeps.updMain] | intro _ _ _ | intro _ _ | intro _ | dsimp only | split | rfl

theorem Keeps.reqResult (h : Keeps level o d) (p : Page) (r : Nat) : Keeps level o (Dev.reqResult d p r) := by
  unfold Dev.reqResult
  try dsimp only
  repeat' first
    | with_reducible assumption | with_reducible exact h | with_reducible apply Keeps.setFld
    | with_reducible apply Keeps.ite | with_reducible apply Keeps.ite1 | with_reducible apply Keeps.ite2
    | with_reducible apply Keeps.foldl | with_reducible apply Keeps.foldl_fst | with_reducible apply Keeps.foldl_snd
    | simp only [Keeps.upd] | simp only [Keeps.updMain] | intro _ _ _ | intro _ _ | intro _ | dsimp only | split | rfl

theorem Keeps.accept (h : Keeps level o d) (p : Page) (c : Nat) : Keeps level o (Dev.accept d p c) := by
  unfold Dev.accept
  try dsimp only
  repeat' first
    | with_reducible assumption | with_reducible exact h | with_reducible apply Keeps.reqResult
    | with_reducible apply Keeps.moveTo | with_reducible apply Keeps.setFld | with_reducible apply Keeps.ite
    | with_reducible apply Keeps.ite1 | with_reducible apply Keeps.ite2 | with_reducible apply Keeps.foldl
    | with_reducible apply Keeps.foldl_fst | with_reducible apply Keeps.foldl_snd | simp only [Keeps.upd]
    | simp only [Keeps.updMain] | intro _ _ _ | intro _ _ | intro _ | dsimp only | split | rfl

theorem Keeps.pageFault (h : Keeps level o d) (p : Page) : Keeps level o (Dev.pageFault d p) := by
  unfold Dev.pageFault
  try dsimp only
  repeat' first
    | with_reducible assumption | with_reducible exact h | with_reducible apply Keeps.moveTo
    | with_reducible apply Keeps.ite | with_reducible apply Keeps.ite1 | with_reducible apply Keeps.ite2
    | with_reducible apply Keeps.foldl | with_reducible apply Keeps.foldl_fst | with_reducible apply Keeps.foldl_snd
    | simp only [Keeps.upd] | simp only [Keeps.updMain] | intro _ _ _ | intro _ _ | intro _ | dsimp only | split | rfl

theorem Keeps.packageFault (h : Keeps level o d)  : Keeps level o (Dev.packageFault d) := by
  unfold Dev.packageFault
  try dsimp only
  repeat' first
    | with_reducible assumption | with_reducible exact h | with_reducible apply Keeps.moveTo
    | with_reducible apply Keeps.ite | with_reducible apply Keeps.ite1 | with_reducible apply Keeps.ite2
    | with_reducible apply Keeps.foldl | with_reducible apply Keeps.foldl_fst | with_reducible apply Keeps.foldl_snd
    | simp only [Keeps.upd] | simp only [Keeps.updMain] | intro _ _ _ | intro _ _ | intro _ | dsimp only | split | rfl

theorem Keeps.raiseCounter (h : Keeps level o d) (stream : Nat) (n : Nat) (amount : Nat) : Keeps level o (Dev.raiseCounter d stream n amount) := by
  unfold Dev.raiseCounter
  try dsimp only
  repeat' first
    | with_reducible assumption | with_reducible exact h | with_reducible apply Keeps.addSat
    | with_reducible apply Keeps.ite | with_reducible apply Keeps.ite1 | with_reducible apply Keeps.ite2
    | with_reducible apply Keeps.foldl | with_reducible apply Keeps.foldl_fst | with_reducible apply Keeps.foldl_snd
    | simp only [Keeps.upd] | simp only [Keeps.updMain] | intro _ _ _ | intro _ _ | intro _ | dsimp only | split | rfl

theorem Keeps.notifyCounter (h : Keeps level o d) (n : Nat) : Keeps level o (Dev.notifyCounter d n) := by
  unfold Dev.notifyCounter
  try dsimp only
  repeat' first
    | with_reducible assumption | with_reducible exact h | with_reducible apply Keeps.raiseCounter
    | with_reducible apply Keeps.ite | with_reducible apply Keeps.ite1 | with_reducible apply Keeps.ite2
    | with_reducible apply Keeps.foldl | with_reducible apply Keeps.foldl_fst | with_reducible apply Keeps.foldl_snd
    | simp only [Keeps.upd] | simp only [Keeps.updMain] | intro _ _ _ | intro _ _ | intro _ | dsimp only | split | rfl

theorem Keeps.write (h : Keeps level o d) (cs : List Chunk) : Keeps level o (Dev.write d cs) :=
  h.memory fun x => Mem.wf_apply x cs

theorem Keeps.writeAt (h : Keeps level o d) (a : Nat) (bs : List Byte) : Keeps level o (Dev.writeAt d a bs) :=
  h.memory fun x => Mem.wf_setBytes x a bs

theorem Keeps.leaveOpen (h : Keeps level o d) (x : Nat × Nat) : Keeps level o (Dev.leaveOpen d x) := by
  unfold Dev.leaveOpen
  try dsimp only
  repeat' first
    | with_reducible assumption | with_reducible exact h | with_reducible apply Keeps.drawBytes
    | with_reducible apply Keeps.writeAt | with_reducible apply Keeps.ite | with_reducible apply Keeps.ite1
    | with_reducible apply Keeps.ite2 | with_reducible apply Keeps.foldl | with_reducible apply Keeps.foldl_fst
    | with_reducible apply Keeps.foldl_snd | simp only [Keeps.upd] | simp only [Keeps.updMain] | intro _ _ _
    | intro _ _ | intro _ | dsimp only | split | rfl

end Sys2Proof.Machine
end

