-- ==== Sys2Proof/Laws/State.lean ====
section
/-! SUPPORT. One lemma for each field of the device and each plain update of it: what the update leaves as it was. -/
set_option Elab.async false
namespace Sys2Proof.Machine

variable (d : Dev) (s : State)

/-! Updates of registers: `setReg`. -/

@[simp] theorem Dev.setReg_now (a : Nat) (w : Word) : (d.setReg a w).now = d.now := rfl
@[simp] theorem Dev.setReg_resetAt (a : Nat) (w : Word) : (d.setReg a w).resetAt = d.resetAt := rfl
@[simp] theorem Dev.setReg_freeCtr (a : Nat) (w : Word) : (d.setReg a w).freeCtr = d.freeCtr := rfl
@[simp] theorem Dev.setReg_nextRun (a : Nat) (w : Word) : (d.setReg a w).nextRun = d.nextRun := rfl
@[simp] theorem Dev.setReg_mem (a : Nat) (w : Word) : (d.setReg a w).mem = d.mem := rfl
@[simp] theorem Dev.setReg_drained (a : Nat) (w : Word) : (d.setReg a w).drained = d.drained := rfl
@[simp] theorem Dev.setReg_flash (a : Nat) (w : Word) : (d.setReg a w).flash = d.flash := rfl
@[simp] theorem Dev.setReg_ext (a : Nat) (w : Word) : (d.setReg a w).ext = d.ext := rfl
@[simp] theorem Dev.setReg_seqMain (a : Nat) (w : Word) : (d.setReg a w).seqMain = d.seqMain := rfl
@[simp] theorem Dev.setReg_seqBf (a : Nat) (w : Word) : (d.setReg a w).seqBf = d.seqBf := rfl
@[simp] theorem Dev.setReg_curves (a : Nat) (w : Word) : (d.setReg a w).curves = d.curves := rfl
@[simp] theorem Dev.setReg_cmp (a : Nat) (w : Word) : (d.setReg a w).cmp = d.cmp := rfl
@[simp] theorem Dev.setReg_xch (a : Nat) (w : Word) : (d.setReg a w).xch = d.xch := rfl
@[simp] theorem Dev.setReg_red (a : Nat) (w : Word) : (d.setReg a w).red = d.red := rfl
@[simp] theorem Dev.setReg_hlm (a : Nat) (w : Word) : (d.setReg a w).hlm = d.hlm := rfl
@[simp] theorem Dev.setReg_sxt (a : Nat) (w : Word) : (d.setReg a w).sxt = d.sxt := rfl
@[simp] theorem Dev.setReg_hng (a : Nat) (w : Word) : (d.setReg a w).hng = d.hng := rfl
@[simp] theorem Dev.setReg_snd (a : Nat) (w : Word) : (d.setReg a w).snd = d.snd := rfl
@[simp] theorem Dev.setReg_ports (a : Nat) (w : Word) : (d.setReg a w).ports = d.ports := rfl
@[simp] theorem Dev.setReg_cht (a : Nat) (w : Word) : (d.setReg a w).cht = d.cht := rfl
@[simp] theorem Dev.setReg_log (a : Nat) (w : Word) : (d.setReg a w).log = d.log := rfl
@[simp] theorem Dev.setReg_sky (a : Nat) (w : Word) : (d.setReg a w).sky = d.sky := rfl
@[simp] theorem Dev.setReg_chk (a : Nat) (w : Word) : (d.setReg a w).chk = d.chk := rfl
@[simp] theorem Dev.setReg_arr (a : Nat) (w : Word) : (d.setReg a w).arr = d.arr := rfl
@[simp] theorem Dev.setReg_scrubAt (a : Nat) (w : Word) : (d.setReg a w).scrubAt = d.scrubAt := rfl
@[simp] theorem Dev.setReg_irq (a : Nat) (w : Word) : (d.setReg a w).irq = d.irq := rfl
@[simp] theorem Dev.setReg_boot (a : Nat) (w : Word) : (d.setReg a w).boot = d.boot := rfl
@[simp] theorem Dev.setReg_pwr (a : Nat) (w : Word) : (d.setReg a w).pwr = d.pwr := rfl
@[simp] theorem Dev.setReg_mgt (a : Nat) (w : Word) : (d.setReg a w).mgt = d.mgt := rfl

/-! Updates of registers: `setFld`. -/

@[simp] theorem Dev.setFld_now (a hi lo v : Nat) : (d.setFld a hi lo v).now = d.now := rfl
@[simp] theorem Dev.setFld_resetAt (a hi lo v : Nat) : (d.setFld a hi lo v).resetAt = d.resetAt := rfl
@[simp] theorem Dev.setFld_freeCtr (a hi lo v : Nat) : (d.setFld a hi lo v).freeCtr = d.freeCtr := rfl
@[simp] theorem Dev.setFld_nextRun (a hi lo v : Nat) : (d.setFld a hi lo v).nextRun = d.nextRun := rfl
@[simp] theorem Dev.setFld_mem (a hi lo v : Nat) : (d.setFld a hi lo v).mem = d.mem := rfl
@[simp] theorem Dev.setFld_drained (a hi lo v : Nat) : (d.setFld a hi lo v).drained = d.drained := rfl
@[simp] theorem Dev.setFld_flash (a hi lo v : Nat) : (d.setFld a hi lo v).flash = d.flash := rfl
@[simp] theorem Dev.setFld_ext (a hi lo v : Nat) : (d.setFld a hi lo v).ext = d.ext := rfl
@[simp] theorem Dev.setFld_seqMain (a hi lo v : Nat) : (d.setFld a hi lo v).seqMain = d.seqMain := rfl
@[simp] theorem Dev.setFld_seqBf (a hi lo v : Nat) : (d.setFld a hi lo v).seqBf = d.seqBf := rfl
@[simp] theorem Dev.setFld_curves (a hi lo v : Nat) : (d.setFld a hi lo v).curves = d.curves := rfl
@[simp] theorem Dev.setFld_cmp (a hi lo v : Nat) : (d.setFld a hi lo v).cmp = d.cmp := rfl
@[simp] theorem Dev.setFld_xch (a hi lo v : Nat) : (d.setFld a hi lo v).xch = d.xch := rfl
@[simp] theorem Dev.setFld_red (a hi lo v : Nat) : (d.setFld a hi lo v).red = d.red := rfl
@[simp] theorem Dev.setFld_hlm (a hi lo v : Nat) : (d.setFld a hi lo v).hlm = d.hlm := rfl
@[simp] theorem Dev.setFld_sxt (a hi lo v : Nat) : (d.setFld a hi lo v).sxt = d.sxt := rfl
@[simp] theorem Dev.setFld_hng (a hi lo v : Nat) : (d.setFld a hi lo v).hng = d.hng := rfl
@[simp] theorem Dev.setFld_snd (a hi lo v : Nat) : (d.setFld a hi lo v).snd = d.snd := rfl
@[simp] theorem Dev.setFld_ports (a hi lo v : Nat) : (d.setFld a hi lo v).ports = d.ports := rfl
@[simp] theorem Dev.setFld_cht (a hi lo v : Nat) : (d.setFld a hi lo v).cht = d.cht := rfl
@[simp] theorem Dev.setFld_log (a hi lo v : Nat) : (d.setFld a hi lo v).log = d.log := rfl
@[simp] theorem Dev.setFld_sky (a hi lo v : Nat) : (d.setFld a hi lo v).sky = d.sky := rfl
@[simp] theorem Dev.setFld_chk (a hi lo v : Nat) : (d.setFld a hi lo v).chk = d.chk := rfl
@[simp] theorem Dev.setFld_arr (a hi lo v : Nat) : (d.setFld a hi lo v).arr = d.arr := rfl
@[simp] theorem Dev.setFld_scrubAt (a hi lo v : Nat) : (d.setFld a hi lo v).scrubAt = d.scrubAt := rfl
@[simp] theorem Dev.setFld_irq (a hi lo v : Nat) : (d.setFld a hi lo v).irq = d.irq := rfl
@[simp] theorem Dev.setFld_boot (a hi lo v : Nat) : (d.setFld a hi lo v).boot = d.boot := rfl
@[simp] theorem Dev.setFld_pwr (a hi lo v : Nat) : (d.setFld a hi lo v).pwr = d.pwr := rfl
@[simp] theorem Dev.setFld_mgt (a hi lo v : Nat) : (d.setFld a hi lo v).mgt = d.mgt := rfl

/-! Updates of registers: `setFlag`. -/

@[simp] theorem Dev.setFlag_now (a i : Nat) (b : Bool) : (d.setFlag a i b).now = d.now := rfl
@[simp] theorem Dev.setFlag_resetAt (a i : Nat) (b : Bool) : (d.setFlag a i b).resetAt = d.resetAt := rfl
@[simp] theorem Dev.setFlag_freeCtr (a i : Nat) (b : Bool) : (d.setFlag a i b).freeCtr = d.freeCtr := rfl
@[simp] theorem Dev.setFlag_nextRun (a i : Nat) (b : Bool) : (d.setFlag a i b).nextRun = d.nextRun := rfl
@[simp] theorem Dev.setFlag_mem (a i : Nat) (b : Bool) : (d.setFlag a i b).mem = d.mem := rfl
@[simp] theorem Dev.setFlag_drained (a i : Nat) (b : Bool) : (d.setFlag a i b).drained = d.drained := rfl
@[simp] theorem Dev.setFlag_flash (a i : Nat) (b : Bool) : (d.setFlag a i b).flash = d.flash := rfl
@[simp] theorem Dev.setFlag_ext (a i : Nat) (b : Bool) : (d.setFlag a i b).ext = d.ext := rfl
@[simp] theorem Dev.setFlag_seqMain (a i : Nat) (b : Bool) : (d.setFlag a i b).seqMain = d.seqMain := rfl
@[simp] theorem Dev.setFlag_seqBf (a i : Nat) (b : Bool) : (d.setFlag a i b).seqBf = d.seqBf := rfl
@[simp] theorem Dev.setFlag_curves (a i : Nat) (b : Bool) : (d.setFlag a i b).curves = d.curves := rfl
@[simp] theorem Dev.setFlag_cmp (a i : Nat) (b : Bool) : (d.setFlag a i b).cmp = d.cmp := rfl
@[simp] theorem Dev.setFlag_xch (a i : Nat) (b : Bool) : (d.setFlag a i b).xch = d.xch := rfl
@[simp] theorem Dev.setFlag_red (a i : Nat) (b : Bool) : (d.setFlag a i b).red = d.red := rfl
@[simp] theorem Dev.setFlag_hlm (a i : Nat) (b : Bool) : (d.setFlag a i b).hlm = d.hlm := rfl
@[simp] theorem Dev.setFlag_sxt (a i : Nat) (b : Bool) : (d.setFlag a i b).sxt = d.sxt := rfl
@[simp] theorem Dev.setFlag_hng (a i : Nat) (b : Bool) : (d.setFlag a i b).hng = d.hng := rfl
@[simp] theorem Dev.setFlag_snd (a i : Nat) (b : Bool) : (d.setFlag a i b).snd = d.snd := rfl
@[simp] theorem Dev.setFlag_ports (a i : Nat) (b : Bool) : (d.setFlag a i b).ports = d.ports := rfl
@[simp] theorem Dev.setFlag_cht (a i : Nat) (b : Bool) : (d.setFlag a i b).cht = d.cht := rfl
@[simp] theorem Dev.setFlag_log (a i : Nat) (b : Bool) : (d.setFlag a i b).log = d.log := rfl
@[simp] theorem Dev.setFlag_sky (a i : Nat) (b : Bool) : (d.setFlag a i b).sky = d.sky := rfl
@[simp] theorem Dev.setFlag_chk (a i : Nat) (b : Bool) : (d.setFlag a i b).chk = d.chk := rfl
@[simp] theorem Dev.setFlag_arr (a i : Nat) (b : Bool) : (d.setFlag a i b).arr = d.arr := rfl
@[simp] theorem Dev.setFlag_scrubAt (a i : Nat) (b : Bool) : (d.setFlag a i b).scrubAt = d.scrubAt := rfl
@[simp] theorem Dev.setFlag_irq (a i : Nat) (b : Bool) : (d.setFlag a i b).irq = d.irq := rfl
@[simp] theorem Dev.setFlag_boot (a i : Nat) (b : Bool) : (d.setFlag a i b).boot = d.boot := rfl
@[simp] theorem Dev.setFlag_pwr (a i : Nat) (b : Bool) : (d.setFlag a i b).pwr = d.pwr := rfl
@[simp] theorem Dev.setFlag_mgt (a i : Nat) (b : Bool) : (d.setFlag a i b).mgt = d.mgt := rfl

/-! Updates of registers: `addSatFld`. -/

@[simp] theorem Dev.addSatFld_now (a hi lo n : Nat) : (d.addSatFld a hi lo n).now = d.now := rfl
@[simp] theorem Dev.addSatFld_resetAt (a hi lo n : Nat) : (d.addSatFld a hi lo n).resetAt = d.resetAt := rfl
@[simp] theorem Dev.addSatFld_freeCtr (a hi lo n : Nat) : (d.addSatFld a hi lo n).freeCtr = d.freeCtr := rfl
@[simp] theorem Dev.addSatFld_nextRun (a hi lo n : Nat) : (d.addSatFld a hi lo n).nextRun = d.nextRun := rfl
@[simp] theorem Dev.addSatFld_mem (a hi lo n : Nat) : (d.addSatFld a hi lo n).mem = d.mem := rfl
@[simp] theorem Dev.addSatFld_drained (a hi lo n : Nat) : (d.addSatFld a hi lo n).drained = d.drained := rfl
@[simp] theorem Dev.addSatFld_flash (a hi lo n : Nat) : (d.addSatFld a hi lo n).flash = d.flash := rfl
@[simp] theorem Dev.addSatFld_ext (a hi lo n : Nat) : (d.addSatFld a hi lo n).ext = d.ext := rfl
@[simp] theorem Dev.addSatFld_seqMain (a hi lo n : Nat) : (d.addSatFld a hi lo n).seqMain = d.seqMain := rfl
@[simp] theorem Dev.addSatFld_seqBf (a hi lo n : Nat) : (d.addSatFld a hi lo n).seqBf = d.seqBf := rfl
@[simp] theorem Dev.addSatFld_curves (a hi lo n : Nat) : (d.addSatFld a hi lo n).curves = d.curves := rfl
@[simp] theorem Dev.addSatFld_cmp (a hi lo n : Nat) : (d.addSatFld a hi lo n).cmp = d.cmp := rfl
@[simp] theorem Dev.addSatFld_xch (a hi lo n : Nat) : (d.addSatFld a hi lo n).xch = d.xch := rfl
@[simp] theorem Dev.addSatFld_red (a hi lo n : Nat) : (d.addSatFld a hi lo n).red = d.red := rfl
@[simp] theorem Dev.addSatFld_hlm (a hi lo n : Nat) : (d.addSatFld a hi lo n).hlm = d.hlm := rfl
@[simp] theorem Dev.addSatFld_sxt (a hi lo n : Nat) : (d.addSatFld a hi lo n).sxt = d.sxt := rfl
@[simp] theorem Dev.addSatFld_hng (a hi lo n : Nat) : (d.addSatFld a hi lo n).hng = d.hng := rfl
@[simp] theorem Dev.addSatFld_snd (a hi lo n : Nat) : (d.addSatFld a hi lo n).snd = d.snd := rfl
@[simp] theorem Dev.addSatFld_ports (a hi lo n : Nat) : (d.addSatFld a hi lo n).ports = d.ports := rfl
@[simp] theorem Dev.addSatFld_cht (a hi lo n : Nat) : (d.addSatFld a hi lo n).cht = d.cht := rfl
@[simp] theorem Dev.addSatFld_log (a hi lo n : Nat) : (d.addSatFld a hi lo n).log = d.log := rfl
@[simp] theorem Dev.addSatFld_sky (a hi lo n : Nat) : (d.addSatFld a hi lo n).sky = d.sky := rfl
@[simp] theorem Dev.addSatFld_chk (a hi lo n : Nat) : (d.addSatFld a hi lo n).chk = d.chk := rfl
@[simp] theorem Dev.addSatFld_arr (a hi lo n : Nat) : (d.addSatFld a hi lo n).arr = d.arr := rfl
@[simp] theorem Dev.addSatFld_scrubAt (a hi lo n : Nat) : (d.addSatFld a hi lo n).scrubAt = d.scrubAt := rfl
@[simp] theorem Dev.addSatFld_irq (a hi lo n : Nat) : (d.addSatFld a hi lo n).irq = d.irq := rfl
@[simp] theorem Dev.addSatFld_boot (a hi lo n : Nat) : (d.addSatFld a hi lo n).boot = d.boot := rfl
@[simp] theorem Dev.addSatFld_pwr (a hi lo n : Nat) : (d.addSatFld a hi lo n).pwr = d.pwr := rfl
@[simp] theorem Dev.addSatFld_mgt (a hi lo n : Nat) : (d.addSatFld a hi lo n).mgt = d.mgt := rfl

/-! Updates of registers: `addSat`. -/

@[simp] theorem Dev.addSat_now (a n : Nat) : (d.addSat a n).now = d.now := rfl
@[simp] theorem Dev.addSat_resetAt (a n : Nat) : (d.addSat a n).resetAt = d.resetAt := rfl
@[simp] theorem Dev.addSat_freeCtr (a n : Nat) : (d.addSat a n).freeCtr = d.freeCtr := rfl
@[simp] theorem Dev.addSat_nextRun (a n : Nat) : (d.addSat a n).nextRun = d.nextRun := rfl
@[simp] theorem Dev.addSat_mem (a n : Nat) : (d.addSat a n).mem = d.mem := rfl
@[simp] theorem Dev.addSat_drained (a n : Nat) : (d.addSat a n).drained = d.drained := rfl
@[simp] theorem Dev.addSat_flash (a n : Nat) : (d.addSat a n).flash = d.flash := rfl
@[simp] theorem Dev.addSat_ext (a n : Nat) : (d.addSat a n).ext = d.ext := rfl
@[simp] theorem Dev.addSat_seqMain (a n : Nat) : (d.addSat a n).seqMain = d.seqMain := rfl
@[simp] theorem Dev.addSat_seqBf (a n : Nat) : (d.addSat a n).seqBf = d.seqBf := rfl
@[simp] theorem Dev.addSat_curves (a n : Nat) : (d.addSat a n).curves = d.curves := rfl
@[simp] theorem Dev.addSat_cmp (a n : Nat) : (d.addSat a n).cmp = d.cmp := rfl
@[simp] theorem Dev.addSat_xch (a n : Nat) : (d.addSat a n).xch = d.xch := rfl
@[simp] theorem Dev.addSat_red (a n : Nat) : (d.addSat a n).red = d.red := rfl
@[simp] theorem Dev.addSat_hlm (a n : Nat) : (d.addSat a n).hlm = d.hlm := rfl
@[simp] theorem Dev.addSat_sxt (a n : Nat) : (d.addSat a n).sxt = d.sxt := rfl
@[simp] theorem Dev.addSat_hng (a n : Nat) : (d.addSat a n).hng = d.hng := rfl
@[simp] theorem Dev.addSat_snd (a n : Nat) : (d.addSat a n).snd = d.snd := rfl
@[simp] theorem Dev.addSat_ports (a n : Nat) : (d.addSat a n).ports = d.ports := rfl
@[simp] theorem Dev.addSat_cht (a n : Nat) : (d.addSat a n).cht = d.cht := rfl
@[simp] theorem Dev.addSat_log (a n : Nat) : (d.addSat a n).log = d.log := rfl
@[simp] theorem Dev.addSat_sky (a n : Nat) : (d.addSat a n).sky = d.sky := rfl
@[simp] theorem Dev.addSat_chk (a n : Nat) : (d.addSat a n).chk = d.chk := rfl
@[simp] theorem Dev.addSat_arr (a n : Nat) : (d.addSat a n).arr = d.arr := rfl
@[simp] theorem Dev.addSat_scrubAt (a n : Nat) : (d.addSat a n).scrubAt = d.scrubAt := rfl
@[simp] theorem Dev.addSat_irq (a n : Nat) : (d.addSat a n).irq = d.irq := rfl
@[simp] theorem Dev.addSat_boot (a n : Nat) : (d.addSat a n).boot = d.boot := rfl
@[simp] theorem Dev.addSat_pwr (a n : Nat) : (d.addSat a n).pwr = d.pwr := rfl
@[simp] theorem Dev.addSat_mgt (a n : Nat) : (d.addSat a n).mgt = d.mgt := rfl

/-! Updates of registers: `addWrap`. -/

@[simp] theorem Dev.addWrap_now (a n : Nat) : (d.addWrap a n).now = d.now := rfl
@[simp] theorem Dev.addWrap_resetAt (a n : Nat) : (d.addWrap a n).resetAt = d.resetAt := rfl
@[simp] theorem Dev.addWrap_freeCtr (a n : Nat) : (d.addWrap a n).freeCtr = d.freeCtr := rfl
@[simp] theorem Dev.addWrap_nextRun (a n : Nat) : (d.addWrap a n).nextRun = d.nextRun := rfl
@[simp] theorem Dev.addWrap_mem (a n : Nat) : (d.addWrap a n).mem = d.mem := rfl
@[simp] theorem Dev.addWrap_drained (a n : Nat) : (d.addWrap a n).drained = d.drained := rfl
@[simp] theorem Dev.addWrap_flash (a n : Nat) : (d.addWrap a n).flash = d.flash := rfl
@[simp] theorem Dev.addWrap_ext (a n : Nat) : (d.addWrap a n).ext = d.ext := rfl
@[simp] theorem Dev.addWrap_seqMain (a n : Nat) : (d.addWrap a n).seqMain = d.seqMain := rfl
@[simp] theorem Dev.addWrap_seqBf (a n : Nat) : (d.addWrap a n).seqBf = d.seqBf := rfl
@[simp] theorem Dev.addWrap_curves (a n : Nat) : (d.addWrap a n).curves = d.curves := rfl
@[simp] theorem Dev.addWrap_cmp (a n : Nat) : (d.addWrap a n).cmp = d.cmp := rfl
@[simp] theorem Dev.addWrap_xch (a n : Nat) : (d.addWrap a n).xch = d.xch := rfl
@[simp] theorem Dev.addWrap_red (a n : Nat) : (d.addWrap a n).red = d.red := rfl
@[simp] theorem Dev.addWrap_hlm (a n : Nat) : (d.addWrap a n).hlm = d.hlm := rfl
@[simp] theorem Dev.addWrap_sxt (a n : Nat) : (d.addWrap a n).sxt = d.sxt := rfl
@[simp] theorem Dev.addWrap_hng (a n : Nat) : (d.addWrap a n).hng = d.hng := rfl
@[simp] theorem Dev.addWrap_snd (a n : Nat) : (d.addWrap a n).snd = d.snd := rfl
@[simp] theorem Dev.addWrap_ports (a n : Nat) : (d.addWrap a n).ports = d.ports := rfl
@[simp] theorem Dev.addWrap_cht (a n : Nat) : (d.addWrap a n).cht = d.cht := rfl
@[simp] theorem Dev.addWrap_log (a n : Nat) : (d.addWrap a n).log = d.log := rfl
@[simp] theorem Dev.addWrap_sky (a n : Nat) : (d.addWrap a n).sky = d.sky := rfl
@[simp] theorem Dev.addWrap_chk (a n : Nat) : (d.addWrap a n).chk = d.chk := rfl
@[simp] theorem Dev.addWrap_arr (a n : Nat) : (d.addWrap a n).arr = d.arr := rfl
@[simp] theorem Dev.addWrap_scrubAt (a n : Nat) : (d.addWrap a n).scrubAt = d.scrubAt := rfl
@[simp] theorem Dev.addWrap_irq (a n : Nat) : (d.addWrap a n).irq = d.irq := rfl
@[simp] theorem Dev.addWrap_boot (a n : Nat) : (d.addWrap a n).boot = d.boot := rfl
@[simp] theorem Dev.addWrap_pwr (a n : Nat) : (d.addWrap a n).pwr = d.pwr := rfl
@[simp] theorem Dev.addWrap_mgt (a n : Nat) : (d.addWrap a n).mgt = d.mgt := rfl

/-! Updates of registers: `raiseTo`. -/

@[simp] theorem Dev.raiseTo_now (a n : Nat) : (d.raiseTo a n).now = d.now := rfl
@[simp] theorem Dev.raiseTo_resetAt (a n : Nat) : (d.raiseTo a n).resetAt = d.resetAt := rfl
@[simp] theorem Dev.raiseTo_freeCtr (a n : Nat) : (d.raiseTo a n).freeCtr = d.freeCtr := rfl
@[simp] theorem Dev.raiseTo_nextRun (a n : Nat) : (d.raiseTo a n).nextRun = d.nextRun := rfl
@[simp] theorem Dev.raiseTo_mem (a n : Nat) : (d.raiseTo a n).mem = d.mem := rfl
@[simp] theorem Dev.raiseTo_drained (a n : Nat) : (d.raiseTo a n).drained = d.drained := rfl
@[simp] theorem Dev.raiseTo_flash (a n : Nat) : (d.raiseTo a n).flash = d.flash := rfl
@[simp] theorem Dev.raiseTo_ext (a n : Nat) : (d.raiseTo a n).ext = d.ext := rfl
@[simp] theorem Dev.raiseTo_seqMain (a n : Nat) : (d.raiseTo a n).seqMain = d.seqMain := rfl
@[simp] theorem Dev.raiseTo_seqBf (a n : Nat) : (d.raiseTo a n).seqBf = d.seqBf := rfl
@[simp] theorem Dev.raiseTo_curves (a n : Nat) : (d.raiseTo a n).curves = d.curves := rfl
@[simp] theorem Dev.raiseTo_cmp (a n : Nat) : (d.raiseTo a n).cmp = d.cmp := rfl
@[simp] theorem Dev.raiseTo_xch (a n : Nat) : (d.raiseTo a n).xch = d.xch := rfl
@[simp] theorem Dev.raiseTo_red (a n : Nat) : (d.raiseTo a n).red = d.red := rfl
@[simp] theorem Dev.raiseTo_hlm (a n : Nat) : (d.raiseTo a n).hlm = d.hlm := rfl
@[simp] theorem Dev.raiseTo_sxt (a n : Nat) : (d.raiseTo a n).sxt = d.sxt := rfl
@[simp] theorem Dev.raiseTo_hng (a n : Nat) : (d.raiseTo a n).hng = d.hng := rfl
@[simp] theorem Dev.raiseTo_snd (a n : Nat) : (d.raiseTo a n).snd = d.snd := rfl
@[simp] theorem Dev.raiseTo_ports (a n : Nat) : (d.raiseTo a n).ports = d.ports := rfl
@[simp] theorem Dev.raiseTo_cht (a n : Nat) : (d.raiseTo a n).cht = d.cht := rfl
@[simp] theorem Dev.raiseTo_log (a n : Nat) : (d.raiseTo a n).log = d.log := rfl
@[simp] theorem Dev.raiseTo_sky (a n : Nat) : (d.raiseTo a n).sky = d.sky := rfl
@[simp] theorem Dev.raiseTo_chk (a n : Nat) : (d.raiseTo a n).chk = d.chk := rfl
@[simp] theorem Dev.raiseTo_arr (a n : Nat) : (d.raiseTo a n).arr = d.arr := rfl
@[simp] theorem Dev.raiseTo_scrubAt (a n : Nat) : (d.raiseTo a n).scrubAt = d.scrubAt := rfl
@[simp] theorem Dev.raiseTo_irq (a n : Nat) : (d.raiseTo a n).irq = d.irq := rfl
@[simp] theorem Dev.raiseTo_boot (a n : Nat) : (d.raiseTo a n).boot = d.boot := rfl
@[simp] theorem Dev.raiseTo_pwr (a n : Nat) : (d.raiseTo a n).pwr = d.pwr := rfl
@[simp] theorem Dev.raiseTo_mgt (a n : Nat) : (d.raiseTo a n).mgt = d.mgt := rfl

/-! Updates of registers: `setPair`. -/

@[simp] theorem Dev.setPair_now (lo v : Nat) : (d.setPair lo v).now = d.now := rfl
@[simp] theorem Dev.setPair_resetAt (lo v : Nat) : (d.setPair lo v).resetAt = d.resetAt := rfl
@[simp] theorem Dev.setPair_freeCtr (lo v : Nat) : (d.setPair lo v).freeCtr = d.freeCtr := rfl
@[simp] theorem Dev.setPair_nextRun (lo v : Nat) : (d.setPair lo v).nextRun = d.nextRun := rfl
@[simp] theorem Dev.setPair_mem (lo v : Nat) : (d.setPair lo v).mem = d.mem := rfl
@[simp] theorem Dev.setPair_drained (lo v : Nat) : (d.setPair lo v).drained = d.drained := rfl
@[simp] theorem Dev.setPair_flash (lo v : Nat) : (d.setPair lo v).flash = d.flash := rfl
@[simp] theorem Dev.setPair_ext (lo v : Nat) : (d.setPair lo v).ext = d.ext := rfl
@[simp] theorem Dev.setPair_seqMain (lo v : Nat) : (d.setPair lo v).seqMain = d.seqMain := rfl
@[simp] theorem Dev.setPair_seqBf (lo v : Nat) : (d.setPair lo v).seqBf = d.seqBf := rfl
@[simp] theorem Dev.setPair_curves (lo v : Nat) : (d.setPair lo v).curves = d.curves := rfl
@[simp] theorem Dev.setPair_cmp (lo v : Nat) : (d.setPair lo v).cmp = d.cmp := rfl
@[simp] theorem Dev.setPair_xch (lo v : Nat) : (d.setPair lo v).xch = d.xch := rfl
@[simp] theorem Dev.setPair_red (lo v : Nat) : (d.setPair lo v).red = d.red := rfl
@[simp] theorem Dev.setPair_hlm (lo v : Nat) : (d.setPair lo v).hlm = d.hlm := rfl
@[simp] theorem Dev.setPair_sxt (lo v : Nat) : (d.setPair lo v).sxt = d.sxt := rfl
@[simp] theorem Dev.setPair_hng (lo v : Nat) : (d.setPair lo v).hng = d.hng := rfl
@[simp] theorem Dev.setPair_snd (lo v : Nat) : (d.setPair lo v).snd = d.snd := rfl
@[simp] theorem Dev.setPair_ports (lo v : Nat) : (d.setPair lo v).ports = d.ports := rfl
@[simp] theorem Dev.setPair_cht (lo v : Nat) : (d.setPair lo v).cht = d.cht := rfl
@[simp] theorem Dev.setPair_log (lo v : Nat) : (d.setPair lo v).log = d.log := rfl
@[simp] theorem Dev.setPair_sky (lo v : Nat) : (d.setPair lo v).sky = d.sky := rfl
@[simp] theorem Dev.setPair_chk (lo v : Nat) : (d.setPair lo v).chk = d.chk := rfl
@[simp] theorem Dev.setPair_arr (lo v : Nat) : (d.setPair lo v).arr = d.arr := rfl
@[simp] theorem Dev.setPair_scrubAt (lo v : Nat) : (d.setPair lo v).scrubAt = d.scrubAt := rfl
@[simp] theorem Dev.setPair_irq (lo v : Nat) : (d.setPair lo v).irq = d.irq := rfl
@[simp] theorem Dev.setPair_boot (lo v : Nat) : (d.setPair lo v).boot = d.boot := rfl
@[simp] theorem Dev.setPair_pwr (lo v : Nat) : (d.setPair lo v).pwr = d.pwr := rfl
@[simp] theorem Dev.setPair_mgt (lo v : Nat) : (d.setPair lo v).mgt = d.mgt := rfl

/-! Writes to memory: `write`. -/

@[simp] theorem Dev.write_now (cs : List Chunk) : (d.write cs).now = d.now := rfl
@[simp] theorem Dev.write_resetAt (cs : List Chunk) : (d.write cs).resetAt = d.resetAt := rfl
@[simp] theorem Dev.write_freeCtr (cs : List Chunk) : (d.write cs).freeCtr = d.freeCtr := rfl
@[simp] theorem Dev.write_nextRun (cs : List Chunk) : (d.write cs).nextRun = d.nextRun := rfl
@[simp] theorem Dev.write_regs (cs : List Chunk) : (d.write cs).regs = d.regs := rfl
@[simp] theorem Dev.write_drained (cs : List Chunk) : (d.write cs).drained = d.drained := rfl
@[simp] theorem Dev.write_flash (cs : List Chunk) : (d.write cs).flash = d.flash := rfl
@[simp] theorem Dev.write_ext (cs : List Chunk) : (d.write cs).ext = d.ext := rfl
@[simp] theorem Dev.write_seqMain (cs : List Chunk) : (d.write cs).seqMain = d.seqMain := rfl
@[simp] theorem Dev.write_seqBf (cs : List Chunk) : (d.write cs).seqBf = d.seqBf := rfl
@[simp] theorem Dev.write_curves (cs : List Chunk) : (d.write cs).curves = d.curves := rfl
@[simp] theorem Dev.write_cmp (cs : List Chunk) : (d.write cs).cmp = d.cmp := rfl
@[simp] theorem Dev.write_xch (cs : List Chunk) : (d.write cs).xch = d.xch := rfl
@[simp] theorem Dev.write_red (cs : List Chunk) : (d.write cs).red = d.red := rfl
@[simp] theorem Dev.write_hlm (cs : List Chunk) : (d.write cs).hlm = d.hlm := rfl
@[simp] theorem Dev.write_sxt (cs : List Chunk) : (d.write cs).sxt = d.sxt := rfl
@[simp] theorem Dev.write_hng (cs : List Chunk) : (d.write cs).hng = d.hng := rfl
@[simp] theorem Dev.write_snd (cs : List Chunk) : (d.write cs).snd = d.snd := rfl
@[simp] theorem Dev.write_ports (cs : List Chunk) : (d.write cs).ports = d.ports := rfl
@[simp] theorem Dev.write_cht (cs : List Chunk) : (d.write cs).cht = d.cht := rfl
@[simp] theorem Dev.write_log (cs : List Chunk) : (d.write cs).log = d.log := rfl
@[simp] theorem Dev.write_sky (cs : List Chunk) : (d.write cs).sky = d.sky := rfl
@[simp] theorem Dev.write_chk (cs : List Chunk) : (d.write cs).chk = d.chk := rfl
@[simp] theorem Dev.write_arr (cs : List Chunk) : (d.write cs).arr = d.arr := rfl
@[simp] theorem Dev.write_scrubAt (cs : List Chunk) : (d.write cs).scrubAt = d.scrubAt := rfl
@[simp] theorem Dev.write_irq (cs : List Chunk) : (d.write cs).irq = d.irq := rfl
@[simp] theorem Dev.write_boot (cs : List Chunk) : (d.write cs).boot = d.boot := rfl
@[simp] theorem Dev.write_pwr (cs : List Chunk) : (d.write cs).pwr = d.pwr := rfl
@[simp] theorem Dev.write_mgt (cs : List Chunk) : (d.write cs).mgt = d.mgt := rfl

/-! Writes to memory: `writeAt`. -/

@[simp] theorem Dev.writeAt_now (a : Nat) (bs : List Byte) : (d.writeAt a bs).now = d.now := rfl
@[simp] theorem Dev.writeAt_resetAt (a : Nat) (bs : List Byte) : (d.writeAt a bs).resetAt = d.resetAt := rfl
@[simp] theorem Dev.writeAt_freeCtr (a : Nat) (bs : List Byte) : (d.writeAt a bs).freeCtr = d.freeCtr := rfl
@[simp] theorem Dev.writeAt_nextRun (a : Nat) (bs : List Byte) : (d.writeAt a bs).nextRun = d.nextRun := rfl
@[simp] theorem Dev.writeAt_regs (a : Nat) (bs : List Byte) : (d.writeAt a bs).regs = d.regs := rfl
@[simp] theorem Dev.writeAt_drained (a : Nat) (bs : List Byte) : (d.writeAt a bs).drained = d.drained := rfl
@[simp] theorem Dev.writeAt_flash (a : Nat) (bs : List Byte) : (d.writeAt a bs).flash = d.flash := rfl
@[simp] theorem Dev.writeAt_ext (a : Nat) (bs : List Byte) : (d.writeAt a bs).ext = d.ext := rfl
@[simp] theorem Dev.writeAt_seqMain (a : Nat) (bs : List Byte) : (d.writeAt a bs).seqMain = d.seqMain := rfl
@[simp] theorem Dev.writeAt_seqBf (a : Nat) (bs : List Byte) : (d.writeAt a bs).seqBf = d.seqBf := rfl
@[simp] theorem Dev.writeAt_curves (a : Nat) (bs : List Byte) : (d.writeAt a bs).curves = d.curves := rfl
@[simp] theorem Dev.writeAt_cmp (a : Nat) (bs : List Byte) : (d.writeAt a bs).cmp = d.cmp := rfl
@[simp] theorem Dev.writeAt_xch (a : Nat) (bs : List Byte) : (d.writeAt a bs).xch = d.xch := rfl
@[simp] theorem Dev.writeAt_red (a : Nat) (bs : List Byte) : (d.writeAt a bs).red = d.red := rfl
@[simp] theorem Dev.writeAt_hlm (a : Nat) (bs : List Byte) : (d.writeAt a bs).hlm = d.hlm := rfl
@[simp] theorem Dev.writeAt_sxt (a : Nat) (bs : List Byte) : (d.writeAt a bs).sxt = d.sxt := rfl
@[simp] theorem Dev.writeAt_hng (a : Nat) (bs : List Byte) : (d.writeAt a bs).hng = d.hng := rfl
@[simp] theorem Dev.writeAt_snd (a : Nat) (bs : List Byte) : (d.writeAt a bs).snd = d.snd := rfl
@[simp] theorem Dev.writeAt_ports (a : Nat) (bs : List Byte) : (d.writeAt a bs).ports = d.ports := rfl
@[simp] theorem Dev.writeAt_cht (a : Nat) (bs : List Byte) : (d.writeAt a bs).cht = d.cht := rfl
@[simp] theorem Dev.writeAt_log (a : Nat) (bs : List Byte) : (d.writeAt a bs).log = d.log := rfl
@[simp] theorem Dev.writeAt_sky (a : Nat) (bs : List Byte) : (d.writeAt a bs).sky = d.sky := rfl
@[simp] theorem Dev.writeAt_chk (a : Nat) (bs : List Byte) : (d.writeAt a bs).chk = d.chk := rfl
@[simp] theorem Dev.writeAt_arr (a : Nat) (bs : List Byte) : (d.writeAt a bs).arr = d.arr := rfl
@[simp] theorem Dev.writeAt_scrubAt (a : Nat) (bs : List Byte) : (d.writeAt a bs).scrubAt = d.scrubAt := rfl
@[simp] theorem Dev.writeAt_irq (a : Nat) (bs : List Byte) : (d.writeAt a bs).irq = d.irq := rfl
@[simp] theorem Dev.writeAt_boot (a : Nat) (bs : List Byte) : (d.writeAt a bs).boot = d.boot := rfl
@[simp] theorem Dev.writeAt_pwr (a : Nat) (bs : List Byte) : (d.writeAt a bs).pwr = d.pwr := rfl
@[simp] theorem Dev.writeAt_mgt (a : Nat) (bs : List Byte) : (d.writeAt a bs).mgt = d.mgt := rfl

/-! The main stream changed: `setStream .main`; the backfill stream changed: `setStream .backfill`. -/

@[simp] theorem Dev.setStream_main_now (f : StreamState → StreamState) : (d.setStream .main f).now = d.now := rfl
@[simp] theorem Dev.setStream_main_resetAt (f : StreamState → StreamState) : (d.setStream .main f).resetAt = d.resetAt := rfl
@[simp] theorem Dev.setStream_main_freeCtr (f : StreamState → StreamState) : (d.setStream .main f).freeCtr = d.freeCtr := rfl
@[simp] theorem Dev.setStream_main_nextRun (f : StreamState → StreamState) : (d.setStream .main f).nextRun = d.nextRun := rfl
@[simp] theorem Dev.setStream_main_regs (f : StreamState → StreamState) : (d.setStream .main f).regs = d.regs := rfl
@[simp] theorem Dev.setStream_main_mem (f : StreamState → StreamState) : (d.setStream .main f).mem = d.mem := rfl
@[simp] theorem Dev.setStream_main_drained (f : StreamState → StreamState) : (d.setStream .main f).drained = d.drained := rfl
@[simp] theorem Dev.setStream_main_flash (f : StreamState → StreamState) : (d.setStream .main f).flash = d.flash := rfl
@[simp] theorem Dev.setStream_main_ext (f : StreamState → StreamState) : (d.setStream .main f).ext = d.ext := rfl
@[simp] theorem Dev.setStream_main_seqMain (f : StreamState → StreamState) : (d.setStream .main f).seqMain = f d.seqMain := rfl
@[simp] theorem Dev.setStream_main_seqBf (f : StreamState → StreamState) : (d.setStream .main f).seqBf = d.seqBf := rfl
@[simp] theorem Dev.setStream_main_curves (f : StreamState → StreamState) : (d.setStream .main f).curves = d.curves := rfl
@[simp] theorem Dev.setStream_main_cmp (f : StreamState → StreamState) : (d.setStream .main f).cmp = d.cmp := rfl
@[simp] theorem Dev.setStream_main_xch (f : StreamState → StreamState) : (d.setStream .main f).xch = d.xch := rfl
@[simp] theorem Dev.setStream_main_red (f : StreamState → StreamState) : (d.setStream .main f).red = d.red := rfl
@[simp] theorem Dev.setStream_main_hlm (f : StreamState → StreamState) : (d.setStream .main f).hlm = d.hlm := rfl
@[simp] theorem Dev.setStream_main_sxt (f : StreamState → StreamState) : (d.setStream .main f).sxt = d.sxt := rfl
@[simp] theorem Dev.setStream_main_hng (f : StreamState → StreamState) : (d.setStream .main f).hng = d.hng := rfl
@[simp] theorem Dev.setStream_main_snd (f : StreamState → StreamState) : (d.setStream .main f).snd = d.snd := rfl
@[simp] theorem Dev.setStream_main_ports (f : StreamState → StreamState) : (d.setStream .main f).ports = d.ports := rfl
@[simp] theorem Dev.setStream_main_cht (f : StreamState → StreamState) : (d.setStream .main f).cht = d.cht := rfl
@[simp] theorem Dev.setStream_main_log (f : StreamState → StreamState) : (d.setStream .main f).log = d.log := rfl
@[simp] theorem Dev.setStream_main_sky (f : StreamState → StreamState) : (d.setStream .main f).sky = d.sky := rfl
@[simp] theorem Dev.setStream_main_chk (f : StreamState → StreamState) : (d.setStream .main f).chk = d.chk := rfl
@[simp] theorem Dev.setStream_main_arr (f : StreamState → StreamState) : (d.setStream .main f).arr = d.arr := rfl
@[simp] theorem Dev.setStream_main_scrubAt (f : StreamState → StreamState) : (d.setStream .main f).scrubAt = d.scrubAt := rfl
@[simp] theorem Dev.setStream_main_irq (f : StreamState → StreamState) : (d.setStream .main f).irq = d.irq := rfl
@[simp] theorem Dev.setStream_main_boot (f : StreamState → StreamState) : (d.setStream .main f).boot = d.boot := rfl
@[simp] theorem Dev.setStream_main_pwr (f : StreamState → StreamState) : (d.setStream .main f).pwr = d.pwr := rfl
@[simp] theorem Dev.setStream_main_mgt (f : StreamState → StreamState) : (d.setStream .main f).mgt = d.mgt := rfl
@[simp] theorem Dev.setStream_backfill_now (f : StreamState → StreamState) : (d.setStream .backfill f).now = d.now := rfl
@[simp] theorem Dev.setStream_backfill_resetAt (f : StreamState → StreamState) : (d.setStream .backfill f).resetAt = d.resetAt := rfl
@[simp] theorem Dev.setStream_backfill_freeCtr (f : StreamState → StreamState) : (d.setStream .backfill f).freeCtr = d.freeCtr := rfl
@[simp] theorem Dev.setStream_backfill_nextRun (f : StreamState → StreamState) : (d.setStream .backfill f).nextRun = d.nextRun := rfl
@[simp] theorem Dev.setStream_backfill_regs (f : StreamState → StreamState) : (d.setStream .backfill f).regs = d.regs := rfl
@[simp] theorem Dev.setStream_backfill_mem (f : StreamState → StreamState) : (d.setStream .backfill f).mem = d.mem := rfl
@[simp] theorem Dev.setStream_backfill_drained (f : StreamState → StreamState) : (d.setStream .backfill f).drained = d.drained := rfl
@[simp] theorem Dev.setStream_backfill_flash (f : StreamState → StreamState) : (d.setStream .backfill f).flash = d.flash := rfl
@[simp] theorem Dev.setStream_backfill_ext (f : StreamState → StreamState) : (d.setStream .backfill f).ext = d.ext := rfl
@[simp] theorem Dev.setStream_backfill_seqMain (f : StreamState → StreamState) : (d.setStream .backfill f).seqMain = d.seqMain := rfl
@[simp] theorem Dev.setStream_backfill_seqBf (f : StreamState → StreamState) : (d.setStream .backfill f).seqBf = f d.seqBf := rfl
@[simp] theorem Dev.setStream_backfill_curves (f : StreamState → StreamState) : (d.setStream .backfill f).curves = d.curves := rfl
@[simp] theorem Dev.setStream_backfill_cmp (f : StreamState → StreamState) : (d.setStream .backfill f).cmp = d.cmp := rfl
@[simp] theorem Dev.setStream_backfill_xch (f : StreamState → StreamState) : (d.setStream .backfill f).xch = d.xch := rfl
@[simp] theorem Dev.setStream_backfill_red (f : StreamState → StreamState) : (d.setStream .backfill f).red = d.red := rfl
@[simp] theorem Dev.setStream_backfill_hlm (f : StreamState → StreamState) : (d.setStream .backfill f).hlm = d.hlm := rfl
@[simp] theorem Dev.setStream_backfill_sxt (f : StreamState → StreamState) : (d.setStream .backfill f).sxt = d.sxt := rfl
@[simp] theorem Dev.setStream_backfill_hng (f : StreamState → StreamState) : (d.setStream .backfill f).hng = d.hng := rfl
@[simp] theorem Dev.setStream_backfill_snd (f : StreamState → StreamState) : (d.setStream .backfill f).snd = d.snd := rfl
@[simp] theorem Dev.setStream_backfill_ports (f : StreamState → StreamState) : (d.setStream .backfill f).ports = d.ports := rfl
@[simp] theorem Dev.setStream_backfill_cht (f : StreamState → StreamState) : (d.setStream .backfill f).cht = d.cht := rfl
@[simp] theorem Dev.setStream_backfill_log (f : StreamState → StreamState) : (d.setStream .backfill f).log = d.log := rfl
@[simp] theorem Dev.setStream_backfill_sky (f : StreamState → StreamState) : (d.setStream .backfill f).sky = d.sky := rfl
@[simp] theorem Dev.setStream_backfill_chk (f : StreamState → StreamState) : (d.setStream .backfill f).chk = d.chk := rfl
@[simp] theorem Dev.setStream_backfill_arr (f : StreamState → StreamState) : (d.setStream .backfill f).arr = d.arr := rfl
@[simp] theorem Dev.setStream_backfill_scrubAt (f : StreamState → StreamState) : (d.setStream .backfill f).scrubAt = d.scrubAt := rfl
@[simp] theorem Dev.setStream_backfill_irq (f : StreamState → StreamState) : (d.setStream .backfill f).irq = d.irq := rfl
@[simp] theorem Dev.setStream_backfill_boot (f : StreamState → StreamState) : (d.setStream .backfill f).boot = d.boot := rfl
@[simp] theorem Dev.setStream_backfill_pwr (f : StreamState → StreamState) : (d.setStream .backfill f).pwr = d.pwr := rfl
@[simp] theorem Dev.setStream_backfill_mgt (f : StreamState → StreamState) : (d.setStream .backfill f).mgt = d.mgt := rfl

/-! The stream a change is for, and the other one. -/

@[simp] theorem Dev.stream_setStream (st : Stream) (f : StreamState → StreamState) :
    (d.setStream st f).stream st = f (d.stream st) := by cases st <;> rfl

@[simp] theorem Dev.other_setStream (st : Stream) (f : StreamState → StreamState) :
    (d.setStream st f).stream (otherStream st) = d.stream (otherStream st) := by cases st <;> rfl

/-! The carrier controller in another phase: `toPhase`. -/

@[simp] theorem State.toPhase_pending (p : CarrierPhase) : (s.toPhase p).pending = s.pending := rfl
@[simp] theorem State.toPhase_fuse (p : CarrierPhase) : (s.toPhase p).fuse = s.fuse := rfl
@[simp] theorem State.toPhase_harts (p : CarrierPhase) : (s.toPhase p).harts = s.harts := rfl
@[simp] theorem State.toPhase_mbx (p : CarrierPhase) : (s.toPhase p).mbx = s.mbx := rfl
@[simp] theorem State.toPhase_claims (p : CarrierPhase) : (s.toPhase p).claims = s.claims := rfl
@[simp] theorem State.toPhase_dev (p : CarrierPhase) : (s.toPhase p).dev = s.dev := rfl
@[simp] theorem State.toPhase_phase (p : CarrierPhase) : (s.toPhase p).carrier.phase = p := rfl

/-! The input sampled: `sample`. -/

theorem Carrier.sampleRun_frame (c : Carrier) (r : InputRun) :
    c.sampleRun r = { c with recent := (c.sampleRun r).recent, avg := (c.sampleRun r).avg } := by
  have h : ∀ (l : List Nat) (c : Carrier), l.foldl (fun c _ => c.sample1 r.mv) c =
      { c with
        recent := (l.foldl (fun c _ => c.sample1 r.mv) c).recent
        avg := (l.foldl (fun c _ => c.sample1 r.mv) c).avg } := by
    intro l
    induction l with
    | nil => intro c; rfl
    | cons x l ih =>
      intro c
      rw [List.foldl_cons]
      exact (ih (c.sample1 r.mv)).trans rfl
  unfold Carrier.sampleRun
  dsimp only
  rw [h (List.range (min 3 r.us)) c]
  split <;> rfl

/-- Sampling changes what is kept of the samples alone. -/
theorem Carrier.sample_frame (c : Carrier) (input : List InputRun) :
    c.sample input = { c with recent := (c.sample input).recent, avg := (c.sample input).avg } := by
  have h : ∀ (l : List InputRun) (c : Carrier), l.foldl Carrier.sampleRun c =
      { c with recent := (l.foldl Carrier.sampleRun c).recent, avg := (l.foldl Carrier.sampleRun c).avg } := by
    intro l
    induction l with
    | nil => intro c; rfl
    | cons x l ih =>
      intro c
      rw [List.foldl_cons]
      refine (ih (c.sampleRun x)).trans ?_
      rw [Carrier.sampleRun_frame c x]
  unfold Carrier.sample
  rw [h input c]

theorem State.sample_frame (input : List InputRun) :
    s.sample input = { s with
      carrier := { s.carrier with recent := (s.sample input).carrier.recent, avg := (s.sample input).carrier.avg } } := by
  unfold State.sample
  split
  · rfl
  · rw [Carrier.sample_frame s.carrier input]

@[simp] theorem State.sample_pending (input : List InputRun) : (s.sample input).pending = s.pending := by rw [State.sample_frame]
@[simp] theorem State.sample_fuse (input : List InputRun) : (s.sample input).fuse = s.fuse := by rw [State.sample_frame]
@[simp] theorem State.sample_harts (input : List InputRun) : (s.sample input).harts = s.harts := by rw [State.sample_frame]
@[simp] theorem State.sample_mbx (input : List InputRun) : (s.sample input).mbx = s.mbx := by rw [State.sample_frame]
@[simp] theorem State.sample_claims (input : List InputRun) : (s.sample input).claims = s.claims := by rw [State.sample_frame]
@[simp] theorem State.sample_dev (input : List InputRun) : (s.sample input).dev = s.dev := by rw [State.sample_frame]
@[simp] theorem State.sample_phase (input : List InputRun) : (s.sample input).carrier.phase = s.carrier.phase := by rw [State.sample_frame]
@[simp] theorem State.sample_since (input : List InputRun) : (s.sample input).carrier.since = s.carrier.since := by rw [State.sample_frame]
@[simp] theorem State.sample_cause (input : List InputRun) : (s.sample input).carrier.cause = s.carrier.cause := by rw [State.sample_frame]
@[simp] theorem State.sample_retries (input : List InputRun) : (s.sample input).carrier.retries = s.carrier.retries := by rw [State.sample_frame]
@[simp] theorem State.sample_trips (input : List InputRun) : (s.sample input).carrier.trips = s.carrier.trips := by rw [State.sample_frame]
@[simp] theorem State.sample_peakDa (input : List InputRun) : (s.sample input).carrier.peakDa = s.carrier.peakDa := by rw [State.sample_frame]
@[simp] theorem State.sample_excluded (input : List InputRun) : (s.sample input).carrier.excluded = s.carrier.excluded := by rw [State.sample_frame]
@[simp] theorem State.sample_firstFailed (input : List InputRun) : (s.sample input).carrier.firstFailed = s.carrier.firstFailed := by rw [State.sample_frame]
@[simp] theorem State.sample_refclk (input : List InputRun) : (s.sample input).carrier.refclk = s.carrier.refclk := by rw [State.sample_frame]
@[simp] theorem State.sample_afterOff (input : List InputRun) : (s.sample input).carrier.afterOff = s.carrier.afterOff := by rw [State.sample_frame]
@[simp] theorem State.sample_mated (input : List InputRun) : (s.sample input).carrier.mated = s.carrier.mated := by rw [State.sample_frame]

end Sys2Proof.Machine
end

