-- ==== Sys2Proof/Laws/Events.lean ====
section
/-! SUPPORT. Everything an event, a record or an edge can change: its own registers, the Logbook ring and the step flags. -/
set_option Elab.async false
namespace Sys2Proof.Machine

variable {d o : Dev}

/-- A register read after a register write. -/
theorem Dev.reg_setReg (h : Assoc.wf regReset d.regs = true) (a b : Nat) (w : Word) :
    (d.setReg a w).reg b = if b = a then w else d.reg b := Assoc.get_set h a b w

theorem Dev.reg_setReg_same (h : Assoc.wf regReset d.regs = true) (a : Nat) (w : Word) : (d.setReg a w).reg a = w :=
  Assoc.get_set_same h a w

/-- The registers that events, edges and records write: EV_PEND and EV_MISSED of a page, IRQ_PENDING, IRQ_MISSED, and the
Logbook's append offset, counts and status. -/
def eventReg (a : Nat) : Bool :=
  a % 0x1000 == 0x020 || a % 0x1000 == 0x02C || decide (0x04000400 ≤ a ∧ a < 0x04000480) ||
    decide (0x04000800 ≤ a ∧ a < 0x04000C00) ||
    [Reg.logWriteLo, Reg.logWriteLo + 4, Reg.logRecords, Reg.logStatus, Reg.logLost].contains a

/-- `d` comes from `o` by events, edges and records alone. -/
structure EventsOnly (o d : Dev) : Prop where
  rest : ∃ r m l b s, d = { o with regs := r, mem := m, log := l, sky := { o.sky with bad := b, digests := s } }
  reg : Assoc.wf regReset o.regs = true → ∀ a, eventReg a = false → d.reg a = o.reg a
  byte : o.mem.wf = true → ∀ a, (∀ off, ringAddr off ≠ a) → d.mem.byte a = o.mem.byte a
  keeps : Keeps false o d

theorem EventsOnly.refl : EventsOnly o o := ⟨⟨_, _, _, _, _, rfl⟩, fun _ _ _ => rfl, fun _ _ _ => rfl, Keeps.refl⟩

theorem EventsOnly.trans {e : Dev} (h1 : EventsOnly o d) (h2 : EventsOnly d e) : EventsOnly o e := by
  refine ⟨?_, fun h a ha => ?_, fun h a ha => ?_, ?_⟩
  · obtain ⟨r, m, l, b, s, rfl⟩ := h1.rest
    obtain ⟨r', m', l', b', s', rfl⟩ := h2.rest
    exact ⟨_, _, _, _, _, rfl⟩
  · rw [h2.reg (h1.keeps.regs h) a ha, h1.reg h a ha]
  · rw [h2.byte (h1.keeps.mem h) a ha, h1.byte h a ha]
  · exact ⟨fun x => h2.keeps.mem (h1.keeps.mem x), fun x => h2.keeps.regs (h1.keeps.regs x), (fun x => by cases x),
      (fun x => by cases x), (fun x => by cases x)⟩

theorem EventsOnly.setReg (h : EventsOnly o d) {a : Nat} (ha : eventReg a = true) (w : Word) :
    EventsOnly o (d.setReg a w) := by
  refine h.trans ⟨⟨_, _, _, _, _, rfl⟩, fun hr b hb => ?_, fun _ _ _ => rfl, Keeps.refl.setReg a w⟩
  have hne : b ≠ a := fun e => by
    rw [e, ha] at hb
    cases hb
  rw [Dev.reg_setReg hr, if_neg hne]

theorem ringWrite_byte {m : Mem} (h : m.wf = true) {a : Nat} (ha : ∀ off, ringAddr off ≠ a) (off : Nat) (bs : List Byte) :
    (ringWrite m off bs).byte a = m.byte a := by
  induction bs generalizing m off with
  | nil => rfl
  | cons b bs ih =>
    simp only [ringWrite]
    rw [ih (Mem.wf_setByte h _ b), Mem.byte_setByte h, if_neg (fun e => ha off e.symm)]

/-- Memory changed in the Logbook ring alone. -/
theorem EventsOnly.ring (h : EventsOnly o d) (off : Nat) (bs : List Byte) :
    EventsOnly o { d with mem := ringWrite d.mem off bs } :=
  h.trans ⟨⟨_, _, _, _, _, rfl⟩, fun _ _ _ => rfl, fun hm _ ha => ringWrite_byte hm ha off bs,
    Keeps.refl.memory fun x => wf_ringWrite x off bs⟩

theorem EventsOnly.withLog (h : EventsOnly o d) (l : LogState) : EventsOnly o { d with log := l } :=
  h.trans ⟨⟨_, _, _, _, _, rfl⟩, fun _ _ _ => rfl, fun _ _ _ => rfl, Keeps.refl.other⟩

theorem EventsOnly.digest (h : EventsOnly o d) (r : Rec) (bytes : List Byte) : EventsOnly o (d.digestRec r bytes) := by
  unfold Dev.digestRec
  split
  · exact h
  · exact h.trans ⟨⟨d.regs, d.mem, d.log, d.sky.bad, _, rfl⟩, fun _ _ _ => rfl, fun _ _ _ => rfl, Keeps.refl.other⟩

theorem EventsOnly.bad (h : EventsOnly o d) : EventsOnly o d.bad :=
  h.trans ⟨⟨d.regs, d.mem, d.log, _, d.sky.digests, rfl⟩, fun _ _ _ => rfl, fun _ _ _ => rfl, Keeps.refl.bad⟩

theorem EventsOnly.ite {c : Prop} [Decidable c] {a b : Dev} (ha : EventsOnly o a) (hb : EventsOnly o b) :
    EventsOnly o (if c then a else b) := by
  split
  · exact ha
  · exact hb

theorem EventsOnly.ite1 {α : Type} {c : Prop} [Decidable c] {a b : Dev × α} (ha : EventsOnly o a.1) (hb : EventsOnly o b.1) :
    EventsOnly o (if c then a else b).1 := by
  split
  · exact ha
  · exact hb

theorem eventReg_write : eventReg Reg.logWriteLo = true := by decide

theorem eventReg_writeHi : eventReg (Reg.logWriteLo + 4) = true := by decide

theorem EventsOnly.setPair (h : EventsOnly o d) (v : Nat) : EventsOnly o (d.setPair Reg.logWriteLo v) :=
  (h.setReg eventReg_write _).setReg eventReg_writeHi _

theorem EventsOnly.addWrap (h : EventsOnly o d) {a : Nat} (ha : eventReg a = true) (n : Nat) :
    EventsOnly o (d.addWrap a n) := h.setReg ha _

theorem eventReg_records : eventReg Reg.logRecords = true := by decide

theorem EventsOnly.put (h : EventsOnly o d) (bytes : List Byte) : EventsOnly o (d.putRecord bytes).1 := by
  unfold Dev.putRecord
  exact EventsOnly.addWrap (EventsOnly.setPair ((h.ring _ _).withLog _) _) eventReg_records _

theorem EventsOnly.setFlag (h : EventsOnly o d) {a : Nat} (ha : eventReg a = true) (i : Nat) (b : Bool) :
    EventsOnly o (d.setFlag a i b) := h.setReg ha _

theorem EventsOnly.addSat (h : EventsOnly o d) {a : Nat} (ha : eventReg a = true) (n : Nat) :
    EventsOnly o (d.addSat a n) := h.setReg ha _

theorem eventReg_status : eventReg Reg.logStatus = true := by decide

theorem eventReg_lost : eventReg Reg.logLost = true := by decide

theorem EventsOnly.lost (h : EventsOnly o d) (n : Nat) : EventsOnly o (d.loseRecord n) := by
  unfold Dev.loseRecord
  refine EventsOnly.bad (EventsOnly.addSat (EventsOnly.setFlag ?_ eventReg_status 3 true) eventReg_lost 1)
  exact h.withLog _

theorem EventsOnly.closed (h : EventsOnly o d) (loss : List Byte) : EventsOnly o (d.closeLoss loss).1 := by
  unfold Dev.closeLoss
  exact EventsOnly.ite1 h (h.put _)

theorem EventsOnly.kept (h : EventsOnly o d) (r : Rec) (loss bytes : List Byte) :
    EventsOnly o (d.keepRecord r loss bytes).1 := by
  unfold Dev.keepRecord
  exact (((h.closed loss).withLog _).digest _ _).put _

theorem EventsOnly.append (h : EventsOnly o d) (r : Rec) : EventsOnly o (d.append r).1 := by
  unfold Dev.append
  exact EventsOnly.ite1 h (EventsOnly.ite1 (h.lost _) (h.kept _ _ _))

theorem eventReg_pend (p : Page) : eventReg (evPendReg p) = true := by
  have : evPendReg p % 0x1000 = 0x020 := by
    unfold evPendReg pageAddr
    omega
  simp [eventReg, this]

theorem eventReg_missed (p : Page) : eventReg (evMissedReg p) = true := by
  have : evMissedReg p % 0x1000 = 0x02C := by
    unfold evMissedReg pageAddr
    omega
  simp [eventReg, this]

theorem sourceExists_lt {x : Nat} (h : sourceExists x = true) : x < 256 := by
  simp only [sourceExists, decide_eq_true_eq] at h
  omega

theorem eventReg_irqPending {x : Nat} (h : sourceExists x = true) : eventReg (Reg.irqPending (x / 32)) = true := by
  have := sourceExists_lt h
  have h1 : 0x04000400 ≤ Reg.irqPending (x / 32) ∧ Reg.irqPending (x / 32) < 0x04000480 := by
    unfold Reg.irqPending
    omega
  simp [eventReg, h1]

theorem eventReg_irqMissed {x : Nat} (h : sourceExists x = true) : eventReg (Reg.irqMissed (x / 4)) = true := by
  have := sourceExists_lt h
  have h1 : 0x04000800 ≤ Reg.irqMissed (x / 4) ∧ Reg.irqMissed (x / 4) < 0x04000C00 := by
    unfold Reg.irqMissed
    omega
  simp [eventReg, h1]

theorem EventsOnly.edge (h : EventsOnly o d) (x : Nat) : EventsOnly o (d.edge x).1 := by
  unfold Dev.edge
  split
  · exact h
  · rename_i hx
    have hx : sourceExists x = true := by simpa using hx
    exact EventsOnly.ite1 (h.setReg (eventReg_irqMissed hx) _) (h.setReg (eventReg_irqPending hx) _)

theorem EventsOnly.event (h : EventsOnly o d) (p : Page) (b : Nat) (f : Bool) : EventsOnly o (d.event p b f).1 := by
  unfold Dev.event
  exact EventsOnly.ite1 ((h.setReg (eventReg_missed p) _).setReg (eventReg_missed p) _) (h.setReg (eventReg_pend p) _)

theorem EventsOnly.act (h : EventsOnly o d) (a : Act) : EventsOnly o (d.act a).1 := by
  cases a with
  | event p b f => exact h.event p b f
  | record r => exact h.append r
  | edge x => exact h.edge x

/-- Everything a list of acts can do. -/
theorem EventsOnly.runActs (h : EventsOnly o d) (n : Nat) (as : List Act) : EventsOnly o (Dev.runActs n d as) := by
  induction n generalizing d as with
  | zero => exact h
  | succ n ih =>
    cases as with
    | nil => exact h
    | cons a as => exact ih (h.act a) _

theorem EventsOnly.acts (h : EventsOnly o d) (as : List Act) : EventsOnly o (d.acts as) := h.runActs _ as

theorem EventsOnly.raise (h : EventsOnly o d) (p : Page) (b : Nat) : EventsOnly o (d.raise p b) := h.acts _

theorem EventsOnly.raiseLogged (h : EventsOnly o d) (p : Page) (b peer : Nat) (detail : List Byte) :
    EventsOnly o (d.raiseLogged p b peer detail) := h.acts _

theorem EventsOnly.record (h : EventsOnly o d) (r : Rec) : EventsOnly o (d.record r) := h.acts _

theorem EventsOnly.irqEdge (h : EventsOnly o d) (x : Nat) : EventsOnly o (d.irqEdge x) := h.acts _

/-! The parts of the device that events leave as they were. -/

variable (d)

@[simp] theorem Dev.acts_now (as : List Act) : (d.acts as).now = d.now := by
  obtain ⟨r, m, l, b, s, h⟩ := (EventsOnly.refl.acts as (o := d)).rest
  rw [h]

@[simp] theorem Dev.acts_resetAt (as : List Act) : (d.acts as).resetAt = d.resetAt := by
  obtain ⟨r, m, l, b, s, h⟩ := (EventsOnly.refl.acts as (o := d)).rest
  rw [h]

@[simp] theorem Dev.acts_freeCtr (as : List Act) : (d.acts as).freeCtr = d.freeCtr := by
  obtain ⟨r, m, l, b, s, h⟩ := (EventsOnly.refl.acts as (o := d)).rest
  rw [h]

@[simp] theorem Dev.acts_nextRun (as : List Act) : (d.acts as).nextRun = d.nextRun := by
  obtain ⟨r, m, l, b, s, h⟩ := (EventsOnly.refl.acts as (o := d)).rest
  rw [h]

@[simp] theorem Dev.acts_drained (as : List Act) : (d.acts as).drained = d.drained := by
  obtain ⟨r, m, l, b, s, h⟩ := (EventsOnly.refl.acts as (o := d)).rest
  rw [h]

@[simp] theorem Dev.acts_flash (as : List Act) : (d.acts as).flash = d.flash := by
  obtain ⟨r, m, l, b, s, h⟩ := (EventsOnly.refl.acts as (o := d)).rest
  rw [h]

@[simp] theorem Dev.acts_ext (as : List Act) : (d.acts as).ext = d.ext := by
  obtain ⟨r, m, l, b, s, h⟩ := (EventsOnly.refl.acts as (o := d)).rest
  rw [h]

@[simp] theorem Dev.acts_seqMain (as : List Act) : (d.acts as).seqMain = d.seqMain := by
  obtain ⟨r, m, l, b, s, h⟩ := (EventsOnly.refl.acts as (o := d)).rest
  rw [h]

@[simp] theorem Dev.acts_seqBf (as : List Act) : (d.acts as).seqBf = d.seqBf := by
  obtain ⟨r, m, l, b, s, h⟩ := (EventsOnly.refl.acts as (o := d)).rest
  rw [h]

@[simp] theorem Dev.acts_curves (as : List Act) : (d.acts as).curves = d.curves := by
  obtain ⟨r, m, l, b, s, h⟩ := (EventsOnly.refl.acts as (o := d)).rest
  rw [h]

@[simp] theorem Dev.acts_cmp (as : List Act) : (d.acts as).cmp = d.cmp := by
  obtain ⟨r, m, l, b, s, h⟩ := (EventsOnly.refl.acts as (o := d)).rest
  rw [h]

@[simp] theorem Dev.acts_xch (as : List Act) : (d.acts as).xch = d.xch := by
  obtain ⟨r, m, l, b, s, h⟩ := (EventsOnly.refl.acts as (o := d)).rest
  rw [h]

@[simp] theorem Dev.acts_red (as : List Act) : (d.acts as).red = d.red := by
  obtain ⟨r, m, l, b, s, h⟩ := (EventsOnly.refl.acts as (o := d)).rest
  rw [h]

@[simp] theorem Dev.acts_hlm (as : List Act) : (d.acts as).hlm = d.hlm := by
  obtain ⟨r, m, l, b, s, h⟩ := (EventsOnly.refl.acts as (o := d)).rest
  rw [h]

@[simp] theorem Dev.acts_sxt (as : List Act) : (d.acts as).sxt = d.sxt := by
  obtain ⟨r, m, l, b, s, h⟩ := (EventsOnly.refl.acts as (o := d)).rest
  rw [h]

@[simp] theorem Dev.acts_hng (as : List Act) : (d.acts as).hng = d.hng := by
  obtain ⟨r, m, l, b, s, h⟩ := (EventsOnly.refl.acts as (o := d)).rest
  rw [h]

@[simp] theorem Dev.acts_snd (as : List Act) : (d.acts as).snd = d.snd := by
  obtain ⟨r, m, l, b, s, h⟩ := (EventsOnly.refl.acts as (o := d)).rest
  rw [h]

@[simp] theorem Dev.acts_ports (as : List Act) : (d.acts as).ports = d.ports := by
  obtain ⟨r, m, l, b, s, h⟩ := (EventsOnly.refl.acts as (o := d)).rest
  rw [h]

@[simp] theorem Dev.acts_cht (as : List Act) : (d.acts as).cht = d.cht := by
  obtain ⟨r, m, l, b, s, h⟩ := (EventsOnly.refl.acts as (o := d)).rest
  rw [h]

@[simp] theorem Dev.acts_chk (as : List Act) : (d.acts as).chk = d.chk := by
  obtain ⟨r, m, l, b, s, h⟩ := (EventsOnly.refl.acts as (o := d)).rest
  rw [h]

@[simp] theorem Dev.acts_arr (as : List Act) : (d.acts as).arr = d.arr := by
  obtain ⟨r, m, l, b, s, h⟩ := (EventsOnly.refl.acts as (o := d)).rest
  rw [h]

@[simp] theorem Dev.acts_scrubAt (as : List Act) : (d.acts as).scrubAt = d.scrubAt := by
  obtain ⟨r, m, l, b, s, h⟩ := (EventsOnly.refl.acts as (o := d)).rest
  rw [h]

@[simp] theorem Dev.acts_irq (as : List Act) : (d.acts as).irq = d.irq := by
  obtain ⟨r, m, l, b, s, h⟩ := (EventsOnly.refl.acts as (o := d)).rest
  rw [h]

@[simp] theorem Dev.acts_boot (as : List Act) : (d.acts as).boot = d.boot := by
  obtain ⟨r, m, l, b, s, h⟩ := (EventsOnly.refl.acts as (o := d)).rest
  rw [h]

@[simp] theorem Dev.acts_pwr (as : List Act) : (d.acts as).pwr = d.pwr := by
  obtain ⟨r, m, l, b, s, h⟩ := (EventsOnly.refl.acts as (o := d)).rest
  rw [h]

@[simp] theorem Dev.acts_mgt (as : List Act) : (d.acts as).mgt = d.mgt := by
  obtain ⟨r, m, l, b, s, h⟩ := (EventsOnly.refl.acts as (o := d)).rest
  rw [h]


@[simp] theorem Dev.raise_now (p : Page) (b : Nat) : (d.raise p b).now = d.now := Dev.acts_now d _
@[simp] theorem Dev.raise_resetAt (p : Page) (b : Nat) : (d.raise p b).resetAt = d.resetAt := Dev.acts_resetAt d _
@[simp] theorem Dev.raise_freeCtr (p : Page) (b : Nat) : (d.raise p b).freeCtr = d.freeCtr := Dev.acts_freeCtr d _
@[simp] theorem Dev.raise_nextRun (p : Page) (b : Nat) : (d.raise p b).nextRun = d.nextRun := Dev.acts_nextRun d _
@[simp] theorem Dev.raise_drained (p : Page) (b : Nat) : (d.raise p b).drained = d.drained := Dev.acts_drained d _
@[simp] theorem Dev.raise_flash (p : Page) (b : Nat) : (d.raise p b).flash = d.flash := Dev.acts_flash d _
@[simp] theorem Dev.raise_ext (p : Page) (b : Nat) : (d.raise p b).ext = d.ext := Dev.acts_ext d _
@[simp] theorem Dev.raise_seqMain (p : Page) (b : Nat) : (d.raise p b).seqMain = d.seqMain := Dev.acts_seqMain d _
@[simp] theorem Dev.raise_seqBf (p : Page) (b : Nat) : (d.raise p b).seqBf = d.seqBf := Dev.acts_seqBf d _
@[simp] theorem Dev.raise_curves (p : Page) (b : Nat) : (d.raise p b).curves = d.curves := Dev.acts_curves d _
@[simp] theorem Dev.raise_cmp (p : Page) (b : Nat) : (d.raise p b).cmp = d.cmp := Dev.acts_cmp d _
@[simp] theorem Dev.raise_xch (p : Page) (b : Nat) : (d.raise p b).xch = d.xch := Dev.acts_xch d _
@[simp] theorem Dev.raise_red (p : Page) (b : Nat) : (d.raise p b).red = d.red := Dev.acts_red d _
@[simp] theorem Dev.raise_hlm (p : Page) (b : Nat) : (d.raise p b).hlm = d.hlm := Dev.acts_hlm d _
@[simp] theorem Dev.raise_sxt (p : Page) (b : Nat) : (d.raise p b).sxt = d.sxt := Dev.acts_sxt d _
@[simp] theorem Dev.raise_hng (p : Page) (b : Nat) : (d.raise p b).hng = d.hng := Dev.acts_hng d _
@[simp] theorem Dev.raise_snd (p : Page) (b : Nat) : (d.raise p b).snd = d.snd := Dev.acts_snd d _
@[simp] theorem Dev.raise_ports (p : Page) (b : Nat) : (d.raise p b).ports = d.ports := Dev.acts_ports d _
@[simp] theorem Dev.raise_cht (p : Page) (b : Nat) : (d.raise p b).cht = d.cht := Dev.acts_cht d _
@[simp] theorem Dev.raise_chk (p : Page) (b : Nat) : (d.raise p b).chk = d.chk := Dev.acts_chk d _
@[simp] theorem Dev.raise_arr (p : Page) (b : Nat) : (d.raise p b).arr = d.arr := Dev.acts_arr d _
@[simp] theorem Dev.raise_scrubAt (p : Page) (b : Nat) : (d.raise p b).scrubAt = d.scrubAt := Dev.acts_scrubAt d _
@[simp] theorem Dev.raise_irq (p : Page) (b : Nat) : (d.raise p b).irq = d.irq := Dev.acts_irq d _
@[simp] theorem Dev.raise_boot (p : Page) (b : Nat) : (d.raise p b).boot = d.boot := Dev.acts_boot d _
@[simp] theorem Dev.raise_pwr (p : Page) (b : Nat) : (d.raise p b).pwr = d.pwr := Dev.acts_pwr d _
@[simp] theorem Dev.raise_mgt (p : Page) (b : Nat) : (d.raise p b).mgt = d.mgt := Dev.acts_mgt d _

@[simp] theorem Dev.raiseLogged_now (p : Page) (b peer : Nat) (x : List Byte) : (d.raiseLogged p b peer x).now = d.now := Dev.acts_now d _
@[simp] theorem Dev.raiseLogged_resetAt (p : Page) (b peer : Nat) (x : List Byte) : (d.raiseLogged p b peer x).resetAt = d.resetAt := Dev.acts_resetAt d _
@[simp] theorem Dev.raiseLogged_freeCtr (p : Page) (b peer : Nat) (x : List Byte) : (d.raiseLogged p b peer x).freeCtr = d.freeCtr := Dev.acts_freeCtr d _
@[simp] theorem Dev.raiseLogged_nextRun (p : Page) (b peer : Nat) (x : List Byte) : (d.raiseLogged p b peer x).nextRun = d.nextRun := Dev.acts_nextRun d _
@[simp] theorem Dev.raiseLogged_drained (p : Page) (b peer : Nat) (x : List Byte) : (d.raiseLogged p b peer x).drained = d.drained := Dev.acts_drained d _
@[simp] theorem Dev.raiseLogged_flash (p : Page) (b peer : Nat) (x : List Byte) : (d.raiseLogged p b peer x).flash = d.flash := Dev.acts_flash d _
@[simp] theorem Dev.raiseLogged_ext (p : Page) (b peer : Nat) (x : List Byte) : (d.raiseLogged p b peer x).ext = d.ext := Dev.acts_ext d _
@[simp] theorem Dev.raiseLogged_seqMain (p : Page) (b peer : Nat) (x : List Byte) : (d.raiseLogged p b peer x).seqMain = d.seqMain := Dev.acts_seqMain d _
@[simp] theorem Dev.raiseLogged_seqBf (p : Page) (b peer : Nat) (x : List Byte) : (d.raiseLogged p b peer x).seqBf = d.seqBf := Dev.acts_seqBf d _
@[simp] theorem Dev.raiseLogged_curves (p : Page) (b peer : Nat) (x : List Byte) : (d.raiseLogged p b peer x).curves = d.curves := Dev.acts_curves d _
@[simp] theorem Dev.raiseLogged_cmp (p : Page) (b peer : Nat) (x : List Byte) : (d.raiseLogged p b peer x).cmp = d.cmp := Dev.acts_cmp d _
@[simp] theorem Dev.raiseLogged_xch (p : Page) (b peer : Nat) (x : List Byte) : (d.raiseLogged p b peer x).xch = d.xch := Dev.acts_xch d _
@[simp] theorem Dev.raiseLogged_red (p : Page) (b peer : Nat) (x : List Byte) : (d.raiseLogged p b peer x).red = d.red := Dev.acts_red d _
@[simp] theorem Dev.raiseLogged_hlm (p : Page) (b peer : Nat) (x : List Byte) : (d.raiseLogged p b peer x).hlm = d.hlm := Dev.acts_hlm d _
@[simp] theorem Dev.raiseLogged_sxt (p : Page) (b peer : Nat) (x : List Byte) : (d.raiseLogged p b peer x).sxt = d.sxt := Dev.acts_sxt d _
@[simp] theorem Dev.raiseLogged_hng (p : Page) (b peer : Nat) (x : List Byte) : (d.raiseLogged p b peer x).hng = d.hng := Dev.acts_hng d _
@[simp] theorem Dev.raiseLogged_snd (p : Page) (b peer : Nat) (x : List Byte) : (d.raiseLogged p b peer x).snd = d.snd := Dev.acts_snd d _
@[simp] theorem Dev.raiseLogged_ports (p : Page) (b peer : Nat) (x : List Byte) : (d.raiseLogged p b peer x).ports = d.ports := Dev.acts_ports d _
@[simp] theorem Dev.raiseLogged_cht (p : Page) (b peer : Nat) (x : List Byte) : (d.raiseLogged p b peer x).cht = d.cht := Dev.acts_cht d _
@[simp] theorem Dev.raiseLogged_chk (p : Page) (b peer : Nat) (x : List Byte) : (d.raiseLogged p b peer x).chk = d.chk := Dev.acts_chk d _
@[simp] theorem Dev.raiseLogged_arr (p : Page) (b peer : Nat) (x : List Byte) : (d.raiseLogged p b peer x).arr = d.arr := Dev.acts_arr d _
@[simp] theorem Dev.raiseLogged_scrubAt (p : Page) (b peer : Nat) (x : List Byte) : (d.raiseLogged p b peer x).scrubAt = d.scrubAt := Dev.acts_scrubAt d _
@[simp] theorem Dev.raiseLogged_irq (p : Page) (b peer : Nat) (x : List Byte) : (d.raiseLogged p b peer x).irq = d.irq := Dev.acts_irq d _
@[simp] theorem Dev.raiseLogged_boot (p : Page) (b peer : Nat) (x : List Byte) : (d.raiseLogged p b peer x).boot = d.boot := Dev.acts_boot d _
@[simp] theorem Dev.raiseLogged_pwr (p : Page) (b peer : Nat) (x : List Byte) : (d.raiseLogged p b peer x).pwr = d.pwr := Dev.acts_pwr d _
@[simp] theorem Dev.raiseLogged_mgt (p : Page) (b peer : Nat) (x : List Byte) : (d.raiseLogged p b peer x).mgt = d.mgt := Dev.acts_mgt d _

@[simp] theorem Dev.record_now (r : Rec) : (d.record r).now = d.now := Dev.acts_now d _
@[simp] theorem Dev.record_resetAt (r : Rec) : (d.record r).resetAt = d.resetAt := Dev.acts_resetAt d _
@[simp] theorem Dev.record_freeCtr (r : Rec) : (d.record r).freeCtr = d.freeCtr := Dev.acts_freeCtr d _
@[simp] theorem Dev.record_nextRun (r : Rec) : (d.record r).nextRun = d.nextRun := Dev.acts_nextRun d _
@[simp] theorem Dev.record_drained (r : Rec) : (d.record r).drained = d.drained := Dev.acts_drained d _
@[simp] theorem Dev.record_flash (r : Rec) : (d.record r).flash = d.flash := Dev.acts_flash d _
@[simp] theorem Dev.record_ext (r : Rec) : (d.record r).ext = d.ext := Dev.acts_ext d _
@[simp] theorem Dev.record_seqMain (r : Rec) : (d.record r).seqMain = d.seqMain := Dev.acts_seqMain d _
@[simp] theorem Dev.record_seqBf (r : Rec) : (d.record r).seqBf = d.seqBf := Dev.acts_seqBf d _
@[simp] theorem Dev.record_curves (r : Rec) : (d.record r).curves = d.curves := Dev.acts_curves d _
@[simp] theorem Dev.record_cmp (r : Rec) : (d.record r).cmp = d.cmp := Dev.acts_cmp d _
@[simp] theorem Dev.record_xch (r : Rec) : (d.record r).xch = d.xch := Dev.acts_xch d _
@[simp] theorem Dev.record_red (r : Rec) : (d.record r).red = d.red := Dev.acts_red d _
@[simp] theorem Dev.record_hlm (r : Rec) : (d.record r).hlm = d.hlm := Dev.acts_hlm d _
@[simp] theorem Dev.record_sxt (r : Rec) : (d.record r).sxt = d.sxt := Dev.acts_sxt d _
@[simp] theorem Dev.record_hng (r : Rec) : (d.record r).hng = d.hng := Dev.acts_hng d _
@[simp] theorem Dev.record_snd (r : Rec) : (d.record r).snd = d.snd := Dev.acts_snd d _
@[simp] theorem Dev.record_ports (r : Rec) : (d.record r).ports = d.ports := Dev.acts_ports d _
@[simp] theorem Dev.record_cht (r : Rec) : (d.record r).cht = d.cht := Dev.acts_cht d _
@[simp] theorem Dev.record_chk (r : Rec) : (d.record r).chk = d.chk := Dev.acts_chk d _
@[simp] theorem Dev.record_arr (r : Rec) : (d.record r).arr = d.arr := Dev.acts_arr d _
@[simp] theorem Dev.record_scrubAt (r : Rec) : (d.record r).scrubAt = d.scrubAt := Dev.acts_scrubAt d _
@[simp] theorem Dev.record_irq (r : Rec) : (d.record r).irq = d.irq := Dev.acts_irq d _
@[simp] theorem Dev.record_boot (r : Rec) : (d.record r).boot = d.boot := Dev.acts_boot d _
@[simp] theorem Dev.record_pwr (r : Rec) : (d.record r).pwr = d.pwr := Dev.acts_pwr d _
@[simp] theorem Dev.record_mgt (r : Rec) : (d.record r).mgt = d.mgt := Dev.acts_mgt d _

@[simp] theorem Dev.irqEdge_now (x : Nat) : (d.irqEdge x).now = d.now := Dev.acts_now d _
@[simp] theorem Dev.irqEdge_resetAt (x : Nat) : (d.irqEdge x).resetAt = d.resetAt := Dev.acts_resetAt d _
@[simp] theorem Dev.irqEdge_freeCtr (x : Nat) : (d.irqEdge x).freeCtr = d.freeCtr := Dev.acts_freeCtr d _
@[simp] theorem Dev.irqEdge_nextRun (x : Nat) : (d.irqEdge x).nextRun = d.nextRun := Dev.acts_nextRun d _
@[simp] theorem Dev.irqEdge_drained (x : Nat) : (d.irqEdge x).drained = d.drained := Dev.acts_drained d _
@[simp] theorem Dev.irqEdge_flash (x : Nat) : (d.irqEdge x).flash = d.flash := Dev.acts_flash d _
@[simp] theorem Dev.irqEdge_ext (x : Nat) : (d.irqEdge x).ext = d.ext := Dev.acts_ext d _
@[simp] theorem Dev.irqEdge_seqMain (x : Nat) : (d.irqEdge x).seqMain = d.seqMain := Dev.acts_seqMain d _
@[simp] theorem Dev.irqEdge_seqBf (x : Nat) : (d.irqEdge x).seqBf = d.seqBf := Dev.acts_seqBf d _
@[simp] theorem Dev.irqEdge_curves (x : Nat) : (d.irqEdge x).curves = d.curves := Dev.acts_curves d _
@[simp] theorem Dev.irqEdge_cmp (x : Nat) : (d.irqEdge x).cmp = d.cmp := Dev.acts_cmp d _
@[simp] theorem Dev.irqEdge_xch (x : Nat) : (d.irqEdge x).xch = d.xch := Dev.acts_xch d _
@[simp] theorem Dev.irqEdge_red (x : Nat) : (d.irqEdge x).red = d.red := Dev.acts_red d _
@[simp] theorem Dev.irqEdge_hlm (x : Nat) : (d.irqEdge x).hlm = d.hlm := Dev.acts_hlm d _
@[simp] theorem Dev.irqEdge_sxt (x : Nat) : (d.irqEdge x).sxt = d.sxt := Dev.acts_sxt d _
@[simp] theorem Dev.irqEdge_hng (x : Nat) : (d.irqEdge x).hng = d.hng := Dev.acts_hng d _
@[simp] theorem Dev.irqEdge_snd (x : Nat) : (d.irqEdge x).snd = d.snd := Dev.acts_snd d _
@[simp] theorem Dev.irqEdge_ports (x : Nat) : (d.irqEdge x).ports = d.ports := Dev.acts_ports d _
@[simp] theorem Dev.irqEdge_cht (x : Nat) : (d.irqEdge x).cht = d.cht := Dev.acts_cht d _
@[simp] theorem Dev.irqEdge_chk (x : Nat) : (d.irqEdge x).chk = d.chk := Dev.acts_chk d _
@[simp] theorem Dev.irqEdge_arr (x : Nat) : (d.irqEdge x).arr = d.arr := Dev.acts_arr d _
@[simp] theorem Dev.irqEdge_scrubAt (x : Nat) : (d.irqEdge x).scrubAt = d.scrubAt := Dev.acts_scrubAt d _
@[simp] theorem Dev.irqEdge_irq (x : Nat) : (d.irqEdge x).irq = d.irq := Dev.acts_irq d _
@[simp] theorem Dev.irqEdge_boot (x : Nat) : (d.irqEdge x).boot = d.boot := Dev.acts_boot d _
@[simp] theorem Dev.irqEdge_pwr (x : Nat) : (d.irqEdge x).pwr = d.pwr := Dev.acts_pwr d _
@[simp] theorem Dev.irqEdge_mgt (x : Nat) : (d.irqEdge x).mgt = d.mgt := Dev.acts_mgt d _

theorem Dev.acts_reg {d : Dev} (h : Assoc.wf regReset d.regs = true) {a : Nat} (ha : eventReg a = false) (as : List Act) :
    (d.acts as).reg a = d.reg a := (EventsOnly.refl.acts as).reg h a ha

theorem Dev.raise_reg {d : Dev} (h : Assoc.wf regReset d.regs = true) {a : Nat} (ha : eventReg a = false) (p : Page) (b : Nat) :
    (d.raise p b).reg a = d.reg a := Dev.acts_reg h ha _

end Sys2Proof.Machine
end

