-- ==== Sys2Proof/Laws/KeepHinge.lean ====
section
/-! SUPPORT. What the operations of Machine/Hinge.lean keep (`Keeps`). -/
set_option Elab.async false
set_option linter.unusedTactic false
set_option linter.unreachableTactic false
set_option linter.unusedSimpArgs false

namespace Sys2Proof.Machine

variable {level : Bool} {o d : Dev}

theorem Keeps.setHinge (h : Keeps level o d) (i : Nat) (h1 : HngState) : Keeps level o (Dev.setHinge d i h1) := by
  unfold Dev.setHinge
  try dsimp only
  repeat' first
    | with_reducible assumption | with_reducible exact h | with_reducible apply Keeps.ite
    | with_reducible apply Keeps.ite1 | with_reducible apply Keeps.ite2 | with_reducible apply Keeps.foldl
    | with_reducible apply Keeps.foldl_fst | with_reducible apply Keeps.foldl_snd | simp only [Keeps.upd]
    | simp only [Keeps.updMain] | intro _ _ _ | intro _ _ | intro _ | dsimp only | split | rfl

theorem Keeps.showHinge (h : Keeps level o d) (i : Nat) : Keeps level o (Dev.showHinge d i) := by
  unfold Dev.showHinge
  try dsimp only
  repeat' first
    | with_reducible assumption | with_reducible exact h | with_reducible apply Keeps.setFld
    | with_reducible apply Keeps.setFlag | with_reducible apply Keeps.setReg | with_reducible apply Keeps.raiseTo
    | with_reducible apply Keeps.ite | with_reducible apply Keeps.ite1 | with_reducible apply Keeps.ite2
    | with_reducible apply Keeps.foldl | with_reducible apply Keeps.foldl_fst | with_reducible apply Keeps.foldl_snd
    | simp only [Keeps.upd] | simp only [Keeps.updMain] | intro _ _ _ | intro _ _ | intro _ | dsimp only | split | rfl

theorem Keeps.hngFault (h : Keeps level o d) (i : Nat) (reason : Nat) (mb : Nat) : Keeps level o (Dev.hngFault d i reason mb) := by
  unfold Dev.hngFault
  try dsimp only
  repeat' first
    | with_reducible assumption | with_reducible exact h | with_reducible apply Keeps.setReg
    | with_reducible apply Keeps.pageFault | with_reducible apply Keeps.raise | with_reducible apply Keeps.bad
    | with_reducible apply Keeps.record | with_reducible apply Keeps.ite | with_reducible apply Keeps.ite1
    | with_reducible apply Keeps.ite2 | with_reducible apply Keeps.foldl | with_reducible apply Keeps.foldl_fst
    | with_reducible apply Keeps.foldl_snd | simp only [Keeps.upd] | simp only [Keeps.updMain] | intro _ _ _
    | intro _ _ | intro _ | dsimp only | split | rfl

theorem Keeps.hingeLoss (h : Keeps level o d) (a : Nat) : Keeps level o (Dev.hingeLoss d a) := by
  unfold Dev.hingeLoss
  try dsimp only
  repeat' first
    | with_reducible assumption | with_reducible exact h | with_reducible apply Keeps.hngFault
    | with_reducible apply Keeps.setHinge | with_reducible apply Keeps.ite | with_reducible apply Keeps.ite1
    | with_reducible apply Keeps.ite2 | with_reducible apply Keeps.foldl | with_reducible apply Keeps.foldl_fst
    | with_reducible apply Keeps.foldl_snd | simp only [Keeps.upd] | simp only [Keeps.updMain] | intro _ _ _
    | intro _ _ | intro _ | dsimp only | split | rfl

end Sys2Proof.Machine
end

