-- ==== Sys2Proof/Laws/KeepMemory.lean ====
section
/-! SUPPORT. What the operations of Machine/Memory.lean keep (`Keeps`). -/
set_option Elab.async false
set_option linter.unusedTactic false
set_option linter.unreachableTactic false
set_option linter.unusedSimpArgs false

namespace Sys2Proof.Machine

variable {level : Bool} {o d : Dev}

theorem Keeps.setRemap (h : Keeps level o d) (s : Nat) (r : Remap) : Keeps level o (Dev.setRemap d s r) := by
  unfold Dev.setRemap
  try dsimp only
  repeat' first
    | with_reducible assumption | with_reducible exact h | with_reducible apply Keeps.ite
    | with_reducible apply Keeps.ite1 | with_reducible apply Keeps.ite2 | with_reducible apply Keeps.foldl
    | with_reducible apply Keeps.foldl_fst | with_reducible apply Keeps.foldl_snd | simp only [Keeps.upd]
    | simp only [Keeps.updMain] | intro _ _ _ | intro _ _ | intro _ | dsimp only | split | rfl

theorem Keeps.slotLoss (h : Keeps level o d) (state : Nat) : Keeps level o (Dev.slotLoss d state) := by
  have hb := h.badUnfixed
  unfold Dev.slotLoss
  generalize d.badUnfixed = b at hb ⊢
  exact Keeps.ite hb.other (Keeps.ite h hb)

theorem Keeps.jobLoss (h : Keeps level o d) (a : Nat) : Keeps level o (Dev.jobLoss d a) := by
  unfold Dev.jobLoss
  generalize d.ringSlotAt a = q
  cases q with
  | none => exact h.badUnfixed
  | some i => exact h.slotLoss _

theorem Keeps.lossEffect (h : Keeps level o d) (a : Nat) : Keeps level o (Dev.lossEffect d a) := by
  unfold Dev.lossEffect
  generalize regionOf a = g
  split
  · exact (h.pageFault _).packageFault
  · exact Keeps.ite h.badUnfixed h
  · exact h.jobLoss a
  · exact h

theorem Keeps.noteLoss (h : Keeps level o d) (s : Nat) (a : Nat) (met : Met) : Keeps level o (Dev.noteLoss d s a met) := by
  unfold Dev.noteLoss
  try dsimp only
  repeat' first
    | with_reducible assumption | with_reducible exact h | with_reducible apply Keeps.setReg
    | with_reducible apply Keeps.addSat | with_reducible apply Keeps.raise | with_reducible apply Keeps.record
    | with_reducible apply Keeps.ite | with_reducible apply Keeps.ite1 | with_reducible apply Keeps.ite2
    | with_reducible apply Keeps.foldl | with_reducible apply Keeps.foldl_fst | with_reducible apply Keeps.foldl_snd
    | simp only [Keeps.upd] | simp only [Keeps.updMain] | intro _ _ _ | intro _ _ | intro _ | dsimp only | split | rfl

theorem Keeps.spareRow (h : Keeps level o d) (s : Nat) (row : Nat) : Keeps level o (Dev.spareRow d s row) := by
  unfold Dev.spareRow
  try dsimp only
  repeat' first
    | with_reducible assumption | with_reducible exact h | with_reducible apply Keeps.raise
    | with_reducible apply Keeps.setRemap | with_reducible apply Keeps.packageFault
    | with_reducible apply Keeps.pageFault | with_reducible apply Keeps.ite | with_reducible apply Keeps.ite1
    | with_reducible apply Keeps.ite2 | with_reducible apply Keeps.foldl | with_reducible apply Keeps.foldl_fst
    | with_reducible apply Keeps.foldl_snd | simp only [Keeps.upd] | simp only [Keeps.updMain] | intro _ _ _
    | intro _ _ | intro _ | dsimp only | split | rfl

theorem Keeps.loseBlock (h : Keeps level o d) (addr : Nat) (met : Met) : Keeps level o (Dev.loseBlock d addr met) := by
  unfold Dev.loseBlock
  try dsimp only
  repeat' first
    | with_reducible assumption | with_reducible exact h | with_reducible apply Keeps.hingeLoss
    | with_reducible apply Keeps.lossEffect | with_reducible apply Keeps.spareRow
    | with_reducible apply Keeps.noteLoss | with_reducible apply Keeps.writeAt | with_reducible apply Keeps.ite
    | with_reducible apply Keeps.ite1 | with_reducible apply Keeps.ite2 | with_reducible apply Keeps.foldl
    | with_reducible apply Keeps.foldl_fst | with_reducible apply Keeps.foldl_snd | simp only [Keeps.upd]
    | simp only [Keeps.updMain] | intro _ _ _ | intro _ _ | intro _ | dsimp only | split | rfl

theorem Keeps.transientBlock (h : Keeps level o d) (addr : Nat) : Keeps level o (Dev.transientBlock d addr) := by
  unfold Dev.transientBlock
  try dsimp only
  repeat' first
    | with_reducible assumption | with_reducible exact h | with_reducible apply Keeps.raise
    | with_reducible apply Keeps.addSat | with_reducible apply Keeps.ite | with_reducible apply Keeps.ite1
    | with_reducible apply Keeps.ite2 | with_reducible apply Keeps.foldl | with_reducible apply Keeps.foldl_fst
    | with_reducible apply Keeps.foldl_snd | simp only [Keeps.upd] | simp only [Keeps.updMain] | intro _ _ _
    | intro _ _ | intro _ | dsimp only | split | rfl

theorem Keeps.blockFinding (h : Keeps level o d) (met : Met) (f : BlockFinding) : Keeps level o (Dev.blockFinding d met f) := by
  unfold Dev.blockFinding
  try dsimp only
  repeat' first
    | with_reducible assumption | with_reducible exact h | with_reducible apply Keeps.transientBlock
    | with_reducible apply Keeps.loseBlock | with_reducible apply Keeps.ite | with_reducible apply Keeps.ite1
    | with_reducible apply Keeps.ite2 | with_reducible apply Keeps.foldl | with_reducible apply Keeps.foldl_fst
    | with_reducible apply Keeps.foldl_snd | simp only [Keeps.upd] | simp only [Keeps.updMain] | intro _ _ _
    | intro _ _ | intro _ | dsimp only | split | rfl

theorem Keeps.addWrites (h : Keeps level o d) (ws : List AddWrite) : Keeps level o (Dev.addWrites d ws).1 := by
  have hm : ∀ (l : List AddWrite) (b : Mem × List Nat), b.1.wf = true → (l.foldl addOne b).1.wf = true := by
    intro l
    induction l with
    | nil => exact fun _ hb => hb
    | cons w l ih => exact fun b hb => ih _ (Mem.wf_setBytes hb _ _)
  unfold Dev.addWrites
  apply Keeps.foldl
  · apply Keeps.foldl
    · exact h.memory fun x => hm ws (d.mem, []) x
    · exact fun x a hx => hx.addWrap _ _
  · exact fun x a hx => hx.addSat _ _

theorem Keeps.found (h : Keeps level o d) (written : List (Nat × Nat)) (fs : List BlockFinding) : Keeps level o (Dev.found d written fs) := by
  unfold Dev.found
  try dsimp only
  repeat' first
    | with_reducible assumption | with_reducible exact h | with_reducible apply Keeps.blockFinding
    | with_reducible apply Keeps.ite | with_reducible apply Keeps.ite1 | with_reducible apply Keeps.ite2
    | with_reducible apply Keeps.foldl | with_reducible apply Keeps.foldl_fst | with_reducible apply Keeps.foldl_snd
    | simp only [Keeps.upd] | simp only [Keeps.updMain] | intro _ _ _ | intro _ _ | intro _ | dsimp only | split | rfl

end Sys2Proof.Machine
end

