-- ==== Sys2Proof/Laws/KeepFlags.lean ====
section
/-! SUPPORT. What the operations of Machine/Flags.lean keep (`Keeps`). -/
set_option Elab.async false
set_option linter.unusedTactic false
set_option linter.unreachableTactic false
set_option linter.unusedSimpArgs false

namespace Sys2Proof.Machine

variable {level : Bool} {o d : Dev}

theorem Keeps.setLocalNf (h : Keeps level o d)  : Keeps level o (Dev.setLocalNf d) := by
  unfold Dev.setLocalNf
  try dsimp only
  repeat' first
    | with_reducible assumption | with_reducible exact h | with_reducible apply Keeps.raise
    | with_reducible apply Keeps.setReg | with_reducible apply Keeps.ite | with_reducible apply Keeps.ite1
    | with_reducible apply Keeps.ite2 | with_reducible apply Keeps.foldl | with_reducible apply Keeps.foldl_fst
    | with_reducible apply Keeps.foldl_snd | simp only [Keeps.upd] | simp only [Keeps.updMain] | intro _ _ _
    | intro _ _ | intro _ | dsimp only | split | rfl

theorem Keeps.attribute (h : Keeps level o d) (unit : NfUnit) (order : Nat) (layer : Nat) (tensor : Word) (tag : Word) (nf : List Nat) : Keeps level o (Dev.attribute d unit order layer tensor tag nf) := by
  unfold Dev.attribute
  try dsimp only
  repeat' first
    | with_reducible assumption | with_reducible exact h | with_reducible apply Keeps.addSat
    | with_reducible apply Keeps.ite | with_reducible apply Keeps.ite1 | with_reducible apply Keeps.ite2
    | with_reducible apply Keeps.foldl | with_reducible apply Keeps.foldl_fst | with_reducible apply Keeps.foldl_snd
    | simp only [Keeps.upd] | simp only [Keeps.updMain] | intro _ _ _ | intro _ _ | intro _ | dsimp only | split | rfl

theorem Keeps.nonfinite (h : Keeps level o d) (unit : NfUnit) (order : Nat) (layer : Nat) (tensor : Word) (tag : Word) (nf : List Nat) : Keeps level o (Dev.nonfinite d unit order layer tensor tag nf) := by
  unfold Dev.nonfinite
  try dsimp only
  repeat' first
    | with_reducible assumption | with_reducible exact h | with_reducible apply Keeps.attribute
    | with_reducible apply Keeps.setLocalNf | with_reducible apply Keeps.ite | with_reducible apply Keeps.ite1
    | with_reducible apply Keeps.ite2 | with_reducible apply Keeps.foldl | with_reducible apply Keeps.foldl_fst
    | with_reducible apply Keeps.foldl_snd | simp only [Keeps.upd] | simp only [Keeps.updMain] | intro _ _ _
    | intro _ _ | intro _ | dsimp only | split | rfl

theorem Keeps.merge (h : Keeps level o d) (ref : Nat) (amax : Word) (n : Nat) : Keeps level o (Dev.merge d ref amax n) := by
  unfold Dev.merge
  try dsimp only
  repeat' first
    | with_reducible assumption | with_reducible exact h | with_reducible apply Keeps.writeAt
    | with_reducible apply Keeps.ite | with_reducible apply Keeps.ite1 | with_reducible apply Keeps.ite2
    | with_reducible apply Keeps.foldl | with_reducible apply Keeps.foldl_fst | with_reducible apply Keeps.foldl_snd
    | simp only [Keeps.upd] | simp only [Keeps.updMain] | intro _ _ _ | intro _ _ | intro _ | dsimp only | split | rfl

theorem Keeps.output (h : Keeps level o d) (o1 : Origin) (unit : NfUnit) (t : Desc) (out : Out) : Keeps level o (Dev.output d o1 unit t out) := by
  unfold Dev.output
  try dsimp only
  repeat' first
    | with_reducible assumption | with_reducible exact h | with_reducible apply Keeps.write
    | with_reducible apply Keeps.nonfinite | with_reducible apply Keeps.merge | with_reducible apply Keeps.ite
    | with_reducible apply Keeps.ite1 | with_reducible apply Keeps.ite2 | with_reducible apply Keeps.foldl
    | with_reducible apply Keeps.foldl_fst | with_reducible apply Keeps.foldl_snd | simp only [Keeps.upd]
    | simp only [Keeps.updMain] | intro _ _ _ | intro _ _ | intro _ | dsimp only | split | rfl

theorem Keeps.addOutput (h : Keeps level o d) (o1 : Origin) (t : Desc) (ws : List AddWrite) : Keeps level o (Dev.addOutput d o1 t ws).1 := by
  unfold Dev.addOutput
  try dsimp only
  repeat' first
    | with_reducible assumption | with_reducible exact h | with_reducible apply Keeps.addWrites
    | with_reducible apply Keeps.nonfinite | with_reducible apply Keeps.ite | with_reducible apply Keeps.ite1
    | with_reducible apply Keeps.ite2 | with_reducible apply Keeps.foldl | with_reducible apply Keeps.foldl_fst
    | with_reducible apply Keeps.foldl_snd | simp only [Keeps.upd] | simp only [Keeps.updMain] | intro _ _ _
    | intro _ _ | intro _ | dsimp only | split | rfl

end Sys2Proof.Machine
end

