-- ==== Sys2Proof/Laws/KeepCheck.lean ====
section
/-! SUPPORT. What the operations of Machine/Check.lean keep (`Keeps`). -/
set_option Elab.async false
set_option linter.unusedTactic false
set_option linter.unreachableTactic false
set_option linter.unusedSimpArgs false

namespace Sys2Proof.Machine

variable {level : Bool} {o d : Dev}

theorem Keeps.setCore (h : Keeps level o d) (c : Nat) (i : CoreInfo) : Keeps level o (Dev.setCore d c i) := by
  unfold Dev.setCore
  try dsimp only
  repeat' first
    | with_reducible assumption | with_reducible exact h | with_reducible apply Keeps.ite
    | with_reducible apply Keeps.ite1 | with_reducible apply Keeps.ite2 | with_reducible apply Keeps.foldl
    | with_reducible apply Keeps.foldl_fst | with_reducible apply Keeps.foldl_snd | simp only [Keeps.upd]
    | simp only [Keeps.updMain] | intro _ _ _ | intro _ _ | intro _ | dsimp only | split | rfl

theorem Keeps.cluTo (h : Keeps level o d) (x : Nat) (c : Nat) : Keeps level o (Dev.cluTo d x c) := by
  unfold Dev.cluTo
  try dsimp only
  repeat' first
    | with_reducible assumption | with_reducible exact h | with_reducible apply Keeps.moveTo
    | with_reducible apply Keeps.raise | with_reducible apply Keeps.ite | with_reducible apply Keeps.ite1
    | with_reducible apply Keeps.ite2 | with_reducible apply Keeps.foldl | with_reducible apply Keeps.foldl_fst
    | with_reducible apply Keeps.foldl_snd | simp only [Keeps.upd] | simp only [Keeps.updMain] | intro _ _ _
    | intro _ _ | intro _ | dsimp only | split | rfl

theorem Keeps.cluSettle (h : Keeps level o d) (f : Fuse) (x : Nat) : Keeps level o (Dev.cluSettle d f x) := by
  unfold Dev.cluSettle
  try dsimp only
  repeat' first
    | with_reducible assumption | with_reducible exact h | with_reducible apply Keeps.cluTo
    | with_reducible apply Keeps.ite | with_reducible apply Keeps.ite1 | with_reducible apply Keeps.ite2
    | with_reducible apply Keeps.foldl | with_reducible apply Keeps.foldl_fst | with_reducible apply Keeps.foldl_snd
    | simp only [Keeps.upd] | simp only [Keeps.updMain] | intro _ _ _ | intro _ _ | intro _ | dsimp only | split | rfl

theorem Keeps.coreTo (h : Keeps level o d) (f : Fuse) (c : Nat) (st : Nat) (probLeft : Nat) (event : Nat) : Keeps level o (Dev.coreTo d f c st probLeft event) := by
  unfold Dev.coreTo
  try dsimp only
  repeat' first
    | with_reducible assumption | with_reducible exact h | with_reducible apply Keeps.setCore
    | with_reducible apply Keeps.raiseLogged | with_reducible apply Keeps.setFld
    | with_reducible apply Keeps.cluSettle | with_reducible apply Keeps.ite | with_reducible apply Keeps.ite1
    | with_reducible apply Keeps.ite2 | with_reducible apply Keeps.foldl | with_reducible apply Keeps.foldl_fst
    | with_reducible apply Keeps.foldl_snd | simp only [Keeps.upd] | simp only [Keeps.updMain] | intro _ _ _
    | intro _ _ | intro _ | dsimp only | split | rfl

theorem Keeps.showPinned (h : Keeps level o d)  : Keeps level o (Dev.showPinned d) := by
  unfold Dev.showPinned
  try dsimp only
  repeat' first
    | with_reducible assumption | with_reducible exact h | with_reducible apply Keeps.setFlag
    | with_reducible apply Keeps.raiseLogged | with_reducible apply Keeps.ite | with_reducible apply Keeps.ite1
    | with_reducible apply Keeps.ite2 | with_reducible apply Keeps.foldl | with_reducible apply Keeps.foldl_fst
    | with_reducible apply Keeps.foldl_snd | simp only [Keeps.upd] | simp only [Keeps.updMain] | intro _ _ _
    | intro _ _ | intro _ | dsimp only | split | rfl

theorem Keeps.raiseMargin (h : Keeps level o d) (x : Nat) : Keeps level o (Dev.raiseMargin d x) := by
  unfold Dev.raiseMargin
  try dsimp only
  repeat' first
    | with_reducible assumption | with_reducible exact h | with_reducible apply Keeps.showPinned
    | with_reducible apply Keeps.setFld | with_reducible apply Keeps.ite | with_reducible apply Keeps.ite1
    | with_reducible apply Keeps.ite2 | with_reducible apply Keeps.foldl | with_reducible apply Keeps.foldl_fst
    | with_reducible apply Keeps.foldl_snd | simp only [Keeps.upd] | simp only [Keeps.updMain] | intro _ _ _
    | intro _ _ | intro _ | dsimp only | split | rfl

theorem Keeps.probation (h : Keeps level o d) (f : Fuse) (c : Nat) : Keeps level o (Dev.probation d f c) := by
  unfold Dev.probation
  try dsimp only
  repeat' first
    | with_reducible assumption | with_reducible exact h | with_reducible apply Keeps.raiseMargin
    | with_reducible apply Keeps.addSat | with_reducible apply Keeps.coreTo | with_reducible apply Keeps.ite
    | with_reducible apply Keeps.ite1 | with_reducible apply Keeps.ite2 | with_reducible apply Keeps.foldl
    | with_reducible apply Keeps.foldl_fst | with_reducible apply Keeps.foldl_snd | simp only [Keeps.upd]
    | simp only [Keeps.updMain] | intro _ _ _ | intro _ _ | intro _ | dsimp only | split | rfl

theorem Keeps.marginBack (h : Keeps level o d) (f : Fuse) (x : Nat) : Keeps level o (Dev.marginBack d f x) := by
  unfold Dev.marginBack
  try dsimp only
  repeat' first
    | with_reducible assumption | with_reducible exact h | with_reducible apply Keeps.ite
    | with_reducible apply Keeps.ite1 | with_reducible apply Keeps.ite2 | with_reducible apply Keeps.foldl
    | with_reducible apply Keeps.foldl_fst | with_reducible apply Keeps.foldl_snd | simp only [Keeps.upd]
    | simp only [Keeps.updMain] | intro _ _ _ | intro _ _ | intro _ | dsimp only | split | rfl

theorem Keeps.keepTillBoundary (h : Keeps level o d) (c : Nat) : Keeps level o (Dev.keepTillBoundary d c) := by
  unfold Dev.keepTillBoundary
  try dsimp only
  repeat' first
    | with_reducible assumption | with_reducible exact h | with_reducible apply Keeps.ite
    | with_reducible apply Keeps.ite1 | with_reducible apply Keeps.ite2 | with_reducible apply Keeps.foldl
    | with_reducible apply Keeps.foldl_fst | with_reducible apply Keeps.foldl_snd | simp only [Keeps.upd]
    | simp only [Keeps.updMain] | intro _ _ _ | intro _ _ | intro _ | dsimp only | split | rfl

theorem Keeps.fence (h : Keeps level o d) (f : Fuse) (c : Nat) (source : Nat) : Keeps level o (Dev.fence d f c source) := by
  unfold Dev.fence
  try dsimp only
  repeat' first
    | with_reducible assumption | with_reducible exact h | with_reducible apply Keeps.keepTillBoundary
    | with_reducible apply Keeps.raise | with_reducible apply Keeps.addSat | with_reducible apply Keeps.marginBack
    | with_reducible apply Keeps.coreTo | with_reducible apply Keeps.record | with_reducible apply Keeps.ite
    | with_reducible apply Keeps.ite1 | with_reducible apply Keeps.ite2 | with_reducible apply Keeps.foldl
    | with_reducible apply Keeps.foldl_fst | with_reducible apply Keeps.foldl_snd | simp only [Keeps.upd]
    | simp only [Keeps.updMain] | intro _ _ _ | intro _ _ | intro _ | dsimp only | split | rfl

theorem Keeps.release (h : Keeps level o d) (f : Fuse) (c : Nat) : Keeps level o (Dev.release d f c) := by
  unfold Dev.release
  try dsimp only
  repeat' first
    | with_reducible assumption | with_reducible exact h | with_reducible apply Keeps.marginBack
    | with_reducible apply Keeps.coreTo | with_reducible apply Keeps.ite | with_reducible apply Keeps.ite1
    | with_reducible apply Keeps.ite2 | with_reducible apply Keeps.foldl | with_reducible apply Keeps.foldl_fst
    | with_reducible apply Keeps.foldl_snd | simp only [Keeps.upd] | simp only [Keeps.updMain] | intro _ _ _
    | intro _ _ | intro _ | dsimp only | split | rfl

theorem Keeps.lastingCore (h : Keeps level o d) (f : Fuse) (c : Nat) (source : Nat) : Keeps level o (Dev.lastingCore d f c source) := by
  unfold Dev.lastingCore
  try dsimp only
  repeat' first
    | with_reducible assumption | with_reducible exact h | with_reducible apply Keeps.fence
    | with_reducible apply Keeps.probation | with_reducible apply Keeps.ite | with_reducible apply Keeps.ite1
    | with_reducible apply Keeps.ite2 | with_reducible apply Keeps.foldl | with_reducible apply Keeps.foldl_fst
    | with_reducible apply Keeps.foldl_snd | simp only [Keeps.upd] | simp only [Keeps.updMain] | intro _ _ _
    | intro _ _ | intro _ | dsimp only | split | rfl

theorem Keeps.returnMargins (h : Keeps level o d)  : Keeps level o (Dev.returnMargins d) := by
  unfold Dev.returnMargins
  try dsimp only
  repeat' first
    | with_reducible assumption | with_reducible exact h | with_reducible apply Keeps.showPinned
    | with_reducible apply Keeps.setFld | with_reducible apply Keeps.ite | with_reducible apply Keeps.ite1
    | with_reducible apply Keeps.ite2 | with_reducible apply Keeps.foldl | with_reducible apply Keeps.foldl_fst
    | with_reducible apply Keeps.foldl_snd | simp only [Keeps.upd] | simp only [Keeps.updMain] | intro _ _ _
    | intro _ _ | intro _ | dsimp only | split | rfl

theorem Keeps.leaveMaps (h : Keeps level o d) (f : Fuse) : Keeps level o (Dev.leaveMaps d f) := by
  unfold Dev.leaveMaps
  try dsimp only
  repeat' first
    | with_reducible assumption | with_reducible exact h | with_reducible apply Keeps.cluSettle
    | with_reducible apply Keeps.ite | with_reducible apply Keeps.ite1 | with_reducible apply Keeps.ite2
    | with_reducible apply Keeps.foldl | with_reducible apply Keeps.foldl_fst | with_reducible apply Keeps.foldl_snd
    | simp only [Keeps.upd] | simp only [Keeps.updMain] | intro _ _ _ | intro _ _ | intro _ | dsimp only | split | rfl

theorem Keeps.classify (h : Keeps level o d) (c : Nat) (source : Nat) (lasting : Bool) : Keeps level o (Dev.classify d c source lasting) := by
  unfold Dev.classify
  try dsimp only
  repeat' first
    | with_reducible assumption | with_reducible exact h | with_reducible apply Keeps.setReg
    | with_reducible apply Keeps.raise | with_reducible apply Keeps.addSat | with_reducible apply Keeps.ite
    | with_reducible apply Keeps.ite1 | with_reducible apply Keeps.ite2 | with_reducible apply Keeps.foldl
    | with_reducible apply Keeps.foldl_fst | with_reducible apply Keeps.foldl_snd | simp only [Keeps.upd]
    | simp only [Keeps.updMain] | intro _ _ _ | intro _ _ | intro _ | dsimp only | split | rfl

theorem Keeps.coreMismatch (h : Keeps level o d) (f : Fuse) (x : Nat) (core : Nat) (rowMask : Nat) (colMask : Nat) (corner : Bool) (repeated : Bool) (source : Nat) : Keeps level o (Dev.coreMismatch d f x core rowMask colMask corner repeated source) := by
  unfold Dev.coreMismatch
  try dsimp only
  repeat' first
    | with_reducible assumption | with_reducible exact h | with_reducible apply Keeps.setReg
    | with_reducible apply Keeps.addSatFld | with_reducible apply Keeps.raise | with_reducible apply Keeps.classify
    | with_reducible apply Keeps.lastingCore | with_reducible apply Keeps.ite | with_reducible apply Keeps.ite1
    | with_reducible apply Keeps.ite2 | with_reducible apply Keeps.foldl | with_reducible apply Keeps.foldl_fst
    | with_reducible apply Keeps.foldl_snd | simp only [Keeps.upd] | simp only [Keeps.updMain] | intro _ _ _
    | intro _ _ | intro _ | dsimp only | split | rfl

theorem Keeps.lineFinding (h : Keeps level o d) (x : Nat) (line : Nat) (lasting : Bool) : Keeps level o (Dev.lineFinding d x line lasting) := by
  unfold Dev.lineFinding
  try dsimp only
  repeat' first
    | with_reducible assumption | with_reducible exact h | with_reducible apply Keeps.addSat
    | with_reducible apply Keeps.classify | with_reducible apply Keeps.drawBytes | with_reducible apply Keeps.writeAt
    | with_reducible apply Keeps.badUnfixed | with_reducible apply Keeps.cluTo | with_reducible apply Keeps.ite
    | with_reducible apply Keeps.ite1 | with_reducible apply Keeps.ite2 | with_reducible apply Keeps.foldl
    | with_reducible apply Keeps.foldl_fst | with_reducible apply Keeps.foldl_snd | simp only [Keeps.upd]
    | simp only [Keeps.updMain] | intro _ _ _ | intro _ _ | intro _ | dsimp only | split | rfl

theorem Keeps.lineRead (h : Keeps level o d) (s : StoreFinding) : Keeps level o (Dev.lineRead d s) := by
  unfold Dev.lineRead
  try dsimp only
  repeat' first
    | with_reducible assumption | with_reducible exact h | with_reducible apply Keeps.lineFinding
    | with_reducible apply Keeps.ite | with_reducible apply Keeps.ite1 | with_reducible apply Keeps.ite2
    | with_reducible apply Keeps.foldl | with_reducible apply Keeps.foldl_fst | with_reducible apply Keeps.foldl_snd
    | simp only [Keeps.upd] | simp only [Keeps.updMain] | intro _ _ _ | intro _ _ | intro _ | dsimp only | split | rfl

theorem Keeps.coreRead (h : Keeps level o d) (f : Fuse) (s : StoreFinding) : Keeps level o (Dev.coreRead d f s) := by
  unfold Dev.coreRead
  try dsimp only
  repeat' first
    | with_reducible assumption | with_reducible exact h | with_reducible apply Keeps.coreMismatch
    | with_reducible apply Keeps.addSat | with_reducible apply Keeps.ite | with_reducible apply Keeps.ite1
    | with_reducible apply Keeps.ite2 | with_reducible apply Keeps.foldl | with_reducible apply Keeps.foldl_fst
    | with_reducible apply Keeps.foldl_snd | simp only [Keeps.upd] | simp only [Keeps.updMain] | intro _ _ _
    | intro _ _ | intro _ | dsimp only | split | rfl

theorem Keeps.findings (h : Keeps level o d) (written : List (Nat × Nat)) (ev : OpEvents) : Keeps level o (Dev.findings d written ev) := by
  unfold Dev.findings
  try dsimp only
  repeat' first
    | with_reducible assumption | with_reducible exact h | with_reducible apply Keeps.lineRead
    | with_reducible apply Keeps.found | with_reducible apply Keeps.ite | with_reducible apply Keeps.ite1
    | with_reducible apply Keeps.ite2 | with_reducible apply Keeps.foldl | with_reducible apply Keeps.foldl_fst
    | with_reducible apply Keeps.foldl_snd | simp only [Keeps.upd] | simp only [Keeps.updMain] | intro _ _ _
    | intro _ _ | intro _ | dsimp only | split | rfl

theorem Keeps.coreFindings (h : Keeps level o d) (f : Fuse) (ev : OpEvents) : Keeps level o (Dev.coreFindings d f ev) := by
  unfold Dev.coreFindings
  try dsimp only
  repeat' first
    | with_reducible assumption | with_reducible exact h | with_reducible apply Keeps.coreRead
    | with_reducible apply Keeps.ite | with_reducible apply Keeps.ite1 | with_reducible apply Keeps.ite2
    | with_reducible apply Keeps.foldl | with_reducible apply Keeps.foldl_fst | with_reducible apply Keeps.foldl_snd
    | simp only [Keeps.upd] | simp only [Keeps.updMain] | intro _ _ _ | intro _ _ | intro _ | dsimp only | split | rfl

theorem Keeps.noteMoved (h : Keeps level o d) (x : Nat) : Keeps level o (Dev.noteMoved d x) := by
  unfold Dev.noteMoved
  try dsimp only
  repeat' first
    | with_reducible assumption | with_reducible exact h | with_reducible apply Keeps.raise
    | with_reducible apply Keeps.record | with_reducible apply Keeps.ite | with_reducible apply Keeps.ite1
    | with_reducible apply Keeps.ite2 | with_reducible apply Keeps.foldl | with_reducible apply Keeps.foldl_fst
    | with_reducible apply Keeps.foldl_snd | simp only [Keeps.upd] | simp only [Keeps.updMain] | intro _ _ _
    | intro _ _ | intro _ | dsimp only | split | rfl

theorem Keeps.outvoted (h : Keeps level o d) (f : Fuse) (source : Nat) (c : Nat) (faulty : Bool) : Keeps level o (Dev.outvoted d f source c faulty) := by
  unfold Dev.outvoted
  try dsimp only
  repeat' first
    | with_reducible assumption | with_reducible exact h | with_reducible apply Keeps.lastingCore
    | with_reducible apply Keeps.badUnfixed | with_reducible apply Keeps.classify | with_reducible apply Keeps.ite
    | with_reducible apply Keeps.ite1 | with_reducible apply Keeps.ite2 | with_reducible apply Keeps.foldl
    | with_reducible apply Keeps.foldl_fst | with_reducible apply Keeps.foldl_snd | simp only [Keeps.upd]
    | simp only [Keeps.updMain] | intro _ _ _ | intro _ _ | intro _ | dsimp only | split | rfl

theorem Keeps.dupEffect (h : Keeps level o d) (f : Fuse) (source : Nat) (first : Nat) (second : Nat) (v : DupVerdict) : Keeps level o (Dev.dupEffect d f source first second v) := by
  unfold Dev.dupEffect
  try dsimp only
  repeat' first
    | with_reducible assumption | with_reducible exact h | with_reducible apply Keeps.classify
    | with_reducible apply Keeps.outvoted | with_reducible apply Keeps.ite | with_reducible apply Keeps.ite1
    | with_reducible apply Keeps.ite2 | with_reducible apply Keeps.foldl | with_reducible apply Keeps.foldl_fst
    | with_reducible apply Keeps.foldl_snd | simp only [Keeps.upd] | simp only [Keeps.updMain] | intro _ _ _
    | intro _ _ | intro _ | dsimp only | split | rfl

theorem Keeps.dupItem (h : Keeps level o d) (f : Fuse) (start : Dev) (c : Nat) (deals : List ClusterDeal) (m : DupFinding) : Keeps level o (Dev.dupItem d f start c deals m) := by
  unfold Dev.dupItem
  try dsimp only
  repeat' first
    | with_reducible assumption | with_reducible exact h | with_reducible apply Keeps.addWrap
    | with_reducible apply Keeps.dupEffect | with_reducible apply Keeps.ite | with_reducible apply Keeps.ite1
    | with_reducible apply Keeps.ite2 | with_reducible apply Keeps.foldl | with_reducible apply Keeps.foldl_fst
    | with_reducible apply Keeps.foldl_snd | simp only [Keeps.upd] | simp only [Keeps.updMain] | intro _ _ _
    | intro _ _ | intro _ | dsimp only | split | rfl

theorem Keeps.workItems (h : Keeps level o d) (f : Fuse) (c : Nat) (x : ClusterDeal) : Keeps level o (Dev.workItems d f c x) := by
  unfold Dev.workItems
  try dsimp only
  repeat' first
    | with_reducible assumption | with_reducible exact h | with_reducible apply Keeps.addSat
    | with_reducible apply Keeps.addWrap | with_reducible apply Keeps.ite | with_reducible apply Keeps.ite1
    | with_reducible apply Keeps.ite2 | with_reducible apply Keeps.foldl | with_reducible apply Keeps.foldl_fst
    | with_reducible apply Keeps.foldl_snd | simp only [Keeps.upd] | simp only [Keeps.updMain] | intro _ _ _
    | intro _ _ | intro _ | dsimp only | split | rfl

end Sys2Proof.Machine
end

