-- ==== Sys2Proof/Laws/KeepSeqOps.lean ====
section
/-! SUPPORT. What the operations of Machine/SeqOps.lean keep (`Keeps`). -/
set_option Elab.async false
set_option linter.unusedTactic false
set_option linter.unreachableTactic false
set_option linter.unusedSimpArgs false

namespace Sys2Proof.Machine

variable {level : Bool} {o d : Dev}

theorem Keeps.setStreamFree (h : Keeps false o d) (st : Stream) (f : StreamState → StreamState) :
    Keeps false o (Dev.setStream d st f) := by
  cases st <;> exact h.free

theorem Keeps.setStream (h : Keeps level o d) (st : Stream) (f : StreamState → StreamState)
    (hf : ∀ s, (f s).turn = s.turn := by exact fun _ => rfl) : Keeps level o (Dev.setStream d st f) := by
  cases st
  · exact h.other (h3 := hf _)
  · exact h.other (h4 := hf _)

theorem Keeps.suspend (h : Keeps level o d) (bit : Nat) : Keeps level o (Dev.suspend d bit) := by
  unfold Dev.suspend
  try dsimp only
  repeat' first
    | with_reducible assumption | with_reducible exact h | with_reducible apply Keeps.raise
    | with_reducible apply Keeps.setFlag | with_reducible apply Keeps.ite | with_reducible apply Keeps.ite1
    | with_reducible apply Keeps.ite2 | with_reducible apply Keeps.foldl | with_reducible apply Keeps.foldl_fst
    | with_reducible apply Keeps.foldl_snd | simp only [Keeps.upd] | simp only [Keeps.updMain] | intro _ _ _
    | intro _ _ | intro _ | dsimp only | split | rfl

theorem Keeps.setPred (h : Keeps level o d) (st : Stream) (n : Nat) (v : Bool) : Keeps level o (Dev.setPred d st n v) := by
  unfold Dev.setPred
  try dsimp only
  repeat' first
    | with_reducible assumption | with_reducible exact h | with_reducible apply Keeps.setFlag
    | with_reducible apply Keeps.ite | with_reducible apply Keeps.ite1 | with_reducible apply Keeps.ite2
    | with_reducible apply Keeps.foldl | with_reducible apply Keeps.foldl_fst | with_reducible apply Keeps.foldl_snd
    | simp only [Keeps.upd] | simp only [Keeps.updMain] | intro _ _ _ | intro _ _ | intro _ | dsimp only | split | rfl

theorem Keeps.openSource (h : Keeps level o d) (ranges : List (Nat × Nat)) : Keeps level o (Dev.openSource d ranges).2 := by
  unfold Dev.openSource
  try dsimp only
  repeat' first
    | with_reducible assumption | with_reducible exact h | with_reducible apply Keeps.ite
    | with_reducible apply Keeps.ite1 | with_reducible apply Keeps.ite2 | with_reducible apply Keeps.foldl
    | with_reducible apply Keeps.foldl_fst | with_reducible apply Keeps.foldl_snd | simp only [Keeps.upd]
    | simp only [Keeps.updMain] | intro _ _ _ | intro _ _ | intro _ | dsimp only | split | rfl

theorem Keeps.operandSource (h : Keeps level o d) (st : Stream) (c : Decoded) : Keeps level o (Dev.operandSource d st c).2 := by
  unfold Dev.operandSource
  try dsimp only
  repeat' first
    | with_reducible assumption | with_reducible exact h | with_reducible apply Keeps.openSource
    | with_reducible apply Keeps.ite | with_reducible apply Keeps.ite1 | with_reducible apply Keeps.ite2
    | with_reducible apply Keeps.foldl | with_reducible apply Keeps.foldl_fst | with_reducible apply Keeps.foldl_snd
    | simp only [Keeps.upd] | simp only [Keeps.updMain] | intro _ _ _ | intro _ _ | intro _ | dsimp only | split | rfl

theorem Keeps.countOverrun (h : Keeps level o d)  : Keeps level o (Dev.countOverrun d) := by
  unfold Dev.countOverrun
  try dsimp only
  repeat' first
    | with_reducible assumption | with_reducible exact h | with_reducible apply Keeps.raise
    | with_reducible apply Keeps.suspend | with_reducible apply Keeps.addSat | with_reducible apply Keeps.ite
    | with_reducible apply Keeps.ite1 | with_reducible apply Keeps.ite2 | with_reducible apply Keeps.foldl
    | with_reducible apply Keeps.foldl_fst | with_reducible apply Keeps.foldl_snd | simp only [Keeps.upd]
    | simp only [Keeps.updMain] | intro _ _ _ | intro _ _ | intro _ | dsimp only | split | rfl

theorem Keeps.measureBf (h : Keeps level o d) (r : Running) : Keeps level o (Dev.measureBf d r) := by
  unfold Dev.measureBf
  try dsimp only
  repeat' first
    | with_reducible assumption | with_reducible exact h | with_reducible apply Keeps.raiseTo
    | with_reducible apply Keeps.countOverrun | with_reducible apply Keeps.ite | with_reducible apply Keeps.ite1
    | with_reducible apply Keeps.ite2 | with_reducible apply Keeps.foldl | with_reducible apply Keeps.foldl_fst
    | with_reducible apply Keeps.foldl_snd | simp only [Keeps.upd] | simp only [Keeps.updMain] | intro _ _ _
    | intro _ _ | intro _ | dsimp only | split | rfl

theorem Keeps.measureTime (h : Keeps level o d) (st : Stream) : Keeps level o (Dev.measureTime d st) := by
  unfold Dev.measureTime
  try dsimp only
  repeat' first
    | with_reducible assumption | with_reducible exact h | with_reducible apply Keeps.measureBf
    | with_reducible apply Keeps.ite | with_reducible apply Keeps.ite1 | with_reducible apply Keeps.ite2
    | with_reducible apply Keeps.foldl | with_reducible apply Keeps.foldl_fst | with_reducible apply Keeps.foldl_snd
    | simp only [Keeps.upd] | simp only [Keeps.updMain] | intro _ _ _ | intro _ _ | intro _ | dsimp only | split | rfl

theorem Keeps.moveOn (h : Keeps level o d) (st : Stream) (p : Place) : Keeps level o (Dev.moveOn d st p) := by
  unfold Dev.moveOn
  try dsimp only
  repeat' first
    | with_reducible assumption | with_reducible exact h | with_reducible apply Keeps.setStream
    | with_reducible apply Keeps.setFld | with_reducible apply Keeps.raise | with_reducible apply Keeps.ite
    | with_reducible apply Keeps.ite1 | with_reducible apply Keeps.ite2 | with_reducible apply Keeps.foldl
    | with_reducible apply Keeps.foldl_fst | with_reducible apply Keeps.foldl_snd | simp only [Keeps.upd]
    | simp only [Keeps.updMain] | intro _ _ _ | intro _ _ | intro _ | dsimp only | split | rfl

theorem Keeps.completeAt (h : Keeps false o d) (st : Stream) (c : Decoded) (p : Place) : Keeps false o (Dev.completeAt d st c p) := by
  unfold Dev.completeAt
  try dsimp only
  repeat' first
    | with_reducible assumption | with_reducible exact h | with_reducible apply Keeps.setStreamFree
    | with_reducible apply Keeps.measureTime | with_reducible apply Keeps.addWrap | with_reducible apply Keeps.raise
    | with_reducible apply Keeps.moveOn | with_reducible apply Keeps.ite | with_reducible apply Keeps.ite1
    | with_reducible apply Keeps.ite2 | with_reducible apply Keeps.foldl | with_reducible apply Keeps.foldl_fst
    | with_reducible apply Keeps.foldl_snd | simp only [Keeps.upd] | simp only [Keeps.updFree]
    | simp only [Keeps.updMain] | intro _ _ _ | intro _ _ | intro _ | dsimp only | split | rfl

theorem Keeps.complete (h : Keeps false o d) (st : Stream) (c : Decoded) : Keeps false o (Dev.complete d st c) := by
  unfold Dev.complete
  try dsimp only
  repeat' first
    | with_reducible assumption | with_reducible exact h | with_reducible apply Keeps.completeAt
    | with_reducible apply Keeps.ite | with_reducible apply Keeps.ite1 | with_reducible apply Keeps.ite2
    | with_reducible apply Keeps.foldl | with_reducible apply Keeps.foldl_fst | with_reducible apply Keeps.foldl_snd
    | simp only [Keeps.upd] | simp only [Keeps.updFree] | simp only [Keeps.updMain] | intro _ _ _ | intro _ _
    | intro _ | dsimp only | split | rfl

theorem Keeps.skipOne (h : Keeps level o d) (st : Stream) (c : Decoded) (rest : List Ahead) : Keeps level o (Dev.skipOne d st c rest) := by
  unfold Dev.skipOne
  try dsimp only
  repeat' first
    | with_reducible assumption | with_reducible exact h | with_reducible apply Keeps.setStream
    | with_reducible apply Keeps.addSat | with_reducible apply Keeps.moveOn | with_reducible apply Keeps.ite
    | with_reducible apply Keeps.ite1 | with_reducible apply Keeps.ite2 | with_reducible apply Keeps.foldl
    | with_reducible apply Keeps.foldl_fst | with_reducible apply Keeps.foldl_snd | simp only [Keeps.upd]
    | simp only [Keeps.updMain] | intro _ _ _ | intro _ _ | intro _ | dsimp only | split | rfl

theorem Keeps.skipAhead (h : Keeps level o d) (st : Stream) (n : Nat) : Keeps level o (Dev.skipAhead st n d) := by
  induction n generalizing d with
  | zero => exact h
  | succ n ih =>
    unfold Dev.skipAhead
    dsimp only
    split
    · exact Keeps.ite (ih (h.skipOne st _ _)) h
    · exact h

theorem Keeps.settle (h : Keeps level o d) (st : Stream) : Keeps level o (Dev.settle d st) := by
  unfold Dev.settle
  try dsimp only
  repeat' first
    | with_reducible assumption | with_reducible exact h | with_reducible apply Keeps.skipAhead
    | with_reducible apply Keeps.ite | with_reducible apply Keeps.ite1 | with_reducible apply Keeps.ite2
    | with_reducible apply Keeps.foldl | with_reducible apply Keeps.foldl_fst | with_reducible apply Keeps.foldl_snd
    | simp only [Keeps.upd] | simp only [Keeps.updMain] | intro _ _ _ | intro _ _ | intro _ | dsimp only | split | rfl

theorem Keeps.reject (h : Keeps false o d) (st : Stream) (reason : Nat) (addr : Nat) (depth : Nat) (tag : Word) : Keeps false o (Dev.reject d st reason addr depth tag) := by
  unfold Dev.reject
  try dsimp only
  repeat' first
    | with_reducible assumption | with_reducible exact h | with_reducible apply Keeps.setStreamFree
    | with_reducible apply Keeps.setReg | with_reducible apply Keeps.raise | with_reducible apply Keeps.pageFault
    | with_reducible apply Keeps.record | with_reducible apply Keeps.bad | with_reducible apply Keeps.suspend
    | with_reducible apply Keeps.ite | with_reducible apply Keeps.ite1 | with_reducible apply Keeps.ite2
    | with_reducible apply Keeps.foldl | with_reducible apply Keeps.foldl_fst | with_reducible apply Keeps.foldl_snd
    | simp only [Keeps.upd] | simp only [Keeps.updFree] | simp only [Keeps.updMain] | intro _ _ _ | intro _ _
    | intro _ | dsimp only | split | rfl

theorem Keeps.rejectRun (h : Keeps false o d) (st : Stream) (c : Decoded) (reason : Nat) : Keeps false o (Dev.rejectRun d st c reason) := by
  unfold Dev.rejectRun
  try dsimp only
  repeat' first
    | with_reducible assumption | with_reducible exact h | with_reducible apply Keeps.reject
    | with_reducible apply Keeps.ite | with_reducible apply Keeps.ite1 | with_reducible apply Keeps.ite2
    | with_reducible apply Keeps.foldl | with_reducible apply Keeps.foldl_fst | with_reducible apply Keeps.foldl_snd
    | simp only [Keeps.upd] | simp only [Keeps.updFree] | simp only [Keeps.updMain] | intro _ _ _ | intro _ _
    | intro _ | dsimp only | split | rfl

theorem Keeps.resumeTime (h : Keeps level o d) (st : Stream) : Keeps level o (Dev.resumeTime d st) := by
  unfold Dev.resumeTime
  split
  · exact (h.raiseTo _ _).other
  · exact h

theorem Keeps.issue (h : Keeps false o d) (st : Stream) (c : Decoded) (done : Bool) (waiting : Bool) : Keeps false o (Dev.issue d st c done waiting) := by
  unfold Dev.issue
  try dsimp only
  repeat' first
    | with_reducible assumption | with_reducible exact h | with_reducible apply Keeps.resumeTime
    | with_reducible apply Keeps.setStreamFree | with_reducible apply Keeps.ite | with_reducible apply Keeps.ite1
    | with_reducible apply Keeps.ite2 | with_reducible apply Keeps.foldl | with_reducible apply Keeps.foldl_fst
    | with_reducible apply Keeps.foldl_snd | simp only [Keeps.upd] | simp only [Keeps.updFree]
    | simp only [Keeps.updMain] | intro _ _ _ | intro _ _ | intro _ | dsimp only | split | rfl

theorem Keeps.wrote (h : Keeps level o d) (st : Stream) (ranges : List (Nat × Nat)) : Keeps level o (Dev.wrote d st ranges) := by
  unfold Dev.wrote
  try dsimp only
  repeat' first
    | with_reducible assumption | with_reducible exact h | with_reducible apply Keeps.setStream
    | with_reducible apply Keeps.ite | with_reducible apply Keeps.ite1 | with_reducible apply Keeps.ite2
    | with_reducible apply Keeps.foldl | with_reducible apply Keeps.foldl_fst | with_reducible apply Keeps.foldl_snd
    | simp only [Keeps.upd] | simp only [Keeps.updMain] | intro _ _ _ | intro _ _ | intro _ | dsimp only | split | rfl

theorem Keeps.operate (h : Keeps false o d) (f : Fuse) (st : Stream) (c : Decoded) (written : List (Nat × Nat)) (ev : OpEvents)
    (effect : ByteSource → Dev → Dev) (hf : ∀ y x, Keeps false o x → Keeps false o (effect y x)) :
    Keeps false o (Dev.operate d f st c written ev effect) := by
  unfold Dev.operate
  exact ((hf _ _ (((h.findings written ev).operandSource st c).issue st c true false)).wrote st written).coreFindings f ev

end Sys2Proof.Machine
end

