-- ==== Sys2Proof/Laws/KeepDecoder.lean ====
section
/-! SUPPORT. What the operations of Machine/Decoder.lean keep (`Keeps`). -/
set_option Elab.async false
set_option linter.unusedTactic false
set_option linter.unreachableTactic false
set_option linter.unusedSimpArgs false

namespace Sys2Proof.Machine

variable {level : Bool} {o d : Dev}

theorem Keeps.fetch (h : Keeps level o d) (f : Fuse) (st : Stream) : Keeps level o (Dev.fetch d f st) := by
  unfold Dev.fetch
  try dsimp only
  repeat' first
    | with_reducible assumption | with_reducible exact h | with_reducible apply Keeps.openSource
    | with_reducible apply Keeps.settle | with_reducible apply Keeps.setStream | with_reducible apply Keeps.ite
    | with_reducible apply Keeps.ite1 | with_reducible apply Keeps.ite2 | with_reducible apply Keeps.foldl
    | with_reducible apply Keeps.foldl_fst | with_reducible apply Keeps.foldl_snd | simp only [Keeps.upd]
    | simp only [Keeps.updMain] | intro _ _ _ | intro _ _ | intro _ | dsimp only | split | rfl

end Sys2Proof.Machine
end

