-- ==== Sys2Proof/Laws/KeepSequencer.lean ====
section
/-! SUPPORT. What the operations of Machine/Sequencer.lean keep (`Keeps`). -/
set_option Elab.async false
set_option linter.unusedTactic false
set_option linter.unreachableTactic false
set_option linter.unusedSimpArgs false

namespace Sys2Proof.Machine

variable {level : Bool} {o d : Dev}

theorem Keeps.issueIf (h : Keeps level o d) (st : Stream) (f : Decoded → Option Dev)
    (hf : ∀ c, KeepsOpt level o (f c)) : Keeps level o (Dev.issueIf d st f) := by
  unfold Dev.issueIf
  split
  · exact h
  · exact h.getD (hf _)

theorem Keeps.instant (h : Keeps false o d) (st : Stream) (c : Decoded) (f : Dev → Dev) (hf : ∀ x, Keeps false o x → Keeps false o (f x)) : Keeps false o (Dev.instant d st c f) := by
  unfold Dev.instant
  try dsimp only
  repeat' first
    | with_reducible assumption | with_reducible exact h | with_reducible apply Keeps.settle
    | with_reducible apply Keeps.complete | with_reducible apply Keeps.issue | with_reducible apply hf
    | with_reducible apply Keeps.ite | with_reducible apply Keeps.ite1 | with_reducible apply Keeps.ite2
    | with_reducible apply Keeps.foldl | with_reducible apply Keeps.foldl_fst | with_reducible apply Keeps.foldl_snd
    | simp only [Keeps.upd] | simp only [Keeps.updFree] | simp only [Keeps.updMain] | intro _ _ _ | intro _ _
    | intro _ | dsimp only | split | rfl

theorem Keeps.endWait (h : Keeps false o d) (st : Stream) (c : Decoded) : Keeps false o (Dev.endWait d st c) := by
  unfold Dev.endWait
  try dsimp only
  repeat' first
    | with_reducible assumption | with_reducible exact h | with_reducible apply Keeps.settle
    | with_reducible apply Keeps.complete | with_reducible apply Keeps.ite | with_reducible apply Keeps.ite1
    | with_reducible apply Keeps.ite2 | with_reducible apply Keeps.foldl | with_reducible apply Keeps.foldl_fst
    | with_reducible apply Keeps.foldl_snd | simp only [Keeps.upd] | simp only [Keeps.updFree]
    | simp only [Keeps.updMain] | intro _ _ _ | intro _ _ | intro _ | dsimp only | split | rfl

theorem Keeps.whenFinal (h : Keeps false o d) (st : Stream) (c : Decoded) (ready : Bool) (f : Dev → Dev) (hf : ∀ x, Keeps false o x → Keeps false o (f x)) : Keeps false o (Dev.whenFinal d st c ready f) := by
  unfold Dev.whenFinal
  try dsimp only
  repeat' first
    | with_reducible assumption | with_reducible exact h | with_reducible apply Keeps.issue | with_reducible apply hf
    | with_reducible apply Keeps.ite | with_reducible apply Keeps.ite1 | with_reducible apply Keeps.ite2
    | with_reducible apply Keeps.foldl | with_reducible apply Keeps.foldl_fst | with_reducible apply Keeps.foldl_snd
    | simp only [Keeps.upd] | simp only [Keeps.updFree] | simp only [Keeps.updMain] | intro _ _ _ | intro _ _
    | intro _ | dsimp only | split | rfl

theorem Keeps.runSetpred (h : Keeps false o d) (st : Stream) (c : Decoded) (p : SetpredCmd) : Keeps false o (Dev.runSetpred d st c p) := by
  unfold Dev.runSetpred
  try dsimp only
  repeat' first
    | with_reducible assumption | with_reducible exact h | with_reducible apply Keeps.settle
    | with_reducible apply Keeps.complete | with_reducible apply Keeps.setPred | with_reducible apply Keeps.whenFinal
    | with_reducible apply Keeps.operandSource | with_reducible apply Keeps.rejectRun
    | with_reducible apply Keeps.issue | with_reducible apply Keeps.ite | with_reducible apply Keeps.ite1
    | with_reducible apply Keeps.ite2 | with_reducible apply Keeps.foldl | with_reducible apply Keeps.foldl_fst
    | with_reducible apply Keeps.foldl_snd | simp only [Keeps.upd] | simp only [Keeps.updFree]
    | simp only [Keeps.updMain] | intro _ _ _ | intro _ _ | intro _ | dsimp only | split | rfl

theorem Keeps.runStamp (h : Keeps false o d) (st : Stream) (c : Decoded) (p : StampCmd) : Keeps false o (Dev.runStamp d st c p) := by
  unfold Dev.runStamp
  try dsimp only
  repeat' first
    | with_reducible assumption | with_reducible exact h | with_reducible apply Keeps.operandSource
    | with_reducible apply Keeps.whenFinal | with_reducible apply Keeps.settle | with_reducible apply Keeps.complete
    | with_reducible apply Keeps.wrote | with_reducible apply Keeps.writeAt | with_reducible apply Keeps.drawBytes
    | with_reducible apply Keeps.rejectRun | with_reducible apply Keeps.ite | with_reducible apply Keeps.ite1
    | with_reducible apply Keeps.ite2 | with_reducible apply Keeps.foldl | with_reducible apply Keeps.foldl_fst
    | with_reducible apply Keeps.foldl_snd | simp only [Keeps.upd] | simp only [Keeps.updFree]
    | simp only [Keeps.updMain] | intro _ _ _ | intro _ _ | intro _ | dsimp only | split | rfl

theorem Keeps.vtbReject (h : Keeps level o d) (reason : Nat) (sub : Nat) : Keeps level o (Dev.vtbReject d reason sub) := by
  unfold Dev.vtbReject
  try dsimp only
  repeat' first
    | with_reducible assumption | with_reducible exact h | with_reducible apply Keeps.raise
    | with_reducible apply Keeps.addSat | with_reducible apply Keeps.setFld | with_reducible apply Keeps.ite
    | with_reducible apply Keeps.ite1 | with_reducible apply Keeps.ite2 | with_reducible apply Keeps.foldl
    | with_reducible apply Keeps.foldl_fst | with_reducible apply Keeps.foldl_snd | simp only [Keeps.upd]
    | simp only [Keeps.updMain] | intro _ _ _ | intro _ _ | intro _ | dsimp only | split | rfl

end Sys2Proof.Machine
end

