-- ==== Sys2Proof/Laws/KeepArray.lean ====
section
/-! SUPPORT. What the operations of Machine/Array.lean keep (`Keeps`). -/
set_option Elab.async false
set_option linter.unusedTactic false
set_option linter.unreachableTactic false
set_option linter.unusedSimpArgs false

namespace Sys2Proof.Machine

variable {level : Bool} {o d : Dev}

theorem Keeps.cellFinding {seen : Dev × List ClusterDeal} (h : Keeps level o seen.1) (f : Fuse) (st : Stream) (m : MatmulCmd) (src : ByteSource)
    (groups : List PGroup) (c : CellFinding) : Keeps level o (Dev.cellFinding f st m src groups seen c).1 := by
  have hm := fun x a p q r b => h.coreMismatch f x a p q r b 1
  unfold Dev.cellFinding
  split
  · split
    · exact h
    · dsimp only
      split
      · exact h
      · split
        · simp only [Keeps.upd]
          exact Keeps.addWrap (Keeps.upd.mpr (hm _ _ _ _ _ _)) _ _
        · exact Keeps.upd.mpr (hm _ _ _ _ _ _)
  · exact h

theorem Keeps.runItems (h : Keeps level o d) (f : Fuse) (st : Stream) (m : MatmulCmd) (src : ByteSource) (ev : OpEvents) : Keeps level o (Dev.runItems d f st m src ev).1 := by
  unfold Dev.runItems
  try dsimp only
  repeat' first
    | with_reducible assumption | with_reducible exact h | with_reducible apply Keeps.packageFault
    | with_reducible apply Keeps.noteMoved | with_reducible apply Keeps.workItems
    | with_reducible apply Keeps.cellFinding | with_reducible apply Keeps.dupItem | with_reducible apply Keeps.ite
    | with_reducible apply Keeps.ite1 | with_reducible apply Keeps.ite2 | with_reducible apply Keeps.foldl
    | with_reducible apply Keeps.foldl_fst | with_reducible apply Keeps.foldl_snd | simp only [Keeps.upd]
    | simp only [Keeps.updMain] | intro _ _ _ | intro _ _ | intro _ | dsimp only | split | rfl

theorem Keeps.countSpill (h : Keeps level o d) (u : TileUse) : Keeps level o (Dev.countSpill d u) := by
  unfold Dev.countSpill
  try dsimp only
  repeat' first
    | with_reducible assumption | with_reducible exact h | with_reducible apply Keeps.raise
    | with_reducible apply Keeps.addSat | with_reducible apply Keeps.ite | with_reducible apply Keeps.ite1
    | with_reducible apply Keeps.ite2 | with_reducible apply Keeps.foldl | with_reducible apply Keeps.foldl_fst
    | with_reducible apply Keeps.foldl_snd | simp only [Keeps.upd] | simp only [Keeps.updMain] | intro _ _ _
    | intro _ _ | intro _ | dsimp only | split | rfl

theorem Keeps.keepProduct (h : Keeps level o d) (st : Stream) (m : MatmulCmd) (deals : List ClusterDeal) (rows : List (Nat × List Word)) : Keeps level o (Dev.keepProduct d st m deals rows) := by
  unfold Dev.keepProduct
  try dsimp only
  repeat' first
    | with_reducible assumption | with_reducible exact h | with_reducible apply Keeps.drawWord
    | with_reducible apply Keeps.countSpill | with_reducible apply Keeps.setStream | with_reducible apply Keeps.ite
    | with_reducible apply Keeps.ite1 | with_reducible apply Keeps.ite2 | with_reducible apply Keeps.foldl
    | with_reducible apply Keeps.foldl_fst | with_reducible apply Keeps.foldl_snd | simp only [Keeps.upd]
    | simp only [Keeps.updMain] | intro _ _ _ | intro _ _ | intro _ | dsimp only | split | rfl

theorem Keeps.keptFindings (h : Keeps level o d) (o1 : Origin) (l0 : Nat) (rows : List (Nat × List Word)) : Keeps level o (Dev.keptFindings d o1 l0 rows) := by
  unfold Dev.keptFindings
  try dsimp only
  repeat' first
    | with_reducible assumption | with_reducible exact h | with_reducible apply Keeps.nonfinite
    | with_reducible apply Keeps.ite | with_reducible apply Keeps.ite1 | with_reducible apply Keeps.ite2
    | with_reducible apply Keeps.foldl | with_reducible apply Keeps.foldl_fst | with_reducible apply Keeps.foldl_snd
    | simp only [Keeps.upd] | simp only [Keeps.updMain] | intro _ _ _ | intro _ _ | intro _ | dsimp only | split | rfl

theorem Keeps.matmulEffect (h : Keeps level o d) (f : Fuse) (st : Stream) (c : Decoded) (m : MatmulCmd) (src : ByteSource) (ev : OpEvents) : Keeps level o (Dev.matmulEffect d f st c m src ev) := by
  unfold Dev.matmulEffect
  try dsimp only
  repeat' first
    | with_reducible assumption | with_reducible exact h | with_reducible apply Keeps.runItems
    | with_reducible apply Keeps.addOutput | with_reducible apply Keeps.output
    | with_reducible apply Keeps.keptFindings | with_reducible apply Keeps.keepProduct
    | with_reducible apply Keeps.ite | with_reducible apply Keeps.ite1 | with_reducible apply Keeps.ite2
    | with_reducible apply Keeps.foldl | with_reducible apply Keeps.foldl_fst | with_reducible apply Keeps.foldl_snd
    | simp only [Keeps.upd] | simp only [Keeps.updMain] | intro _ _ _ | intro _ _ | intro _ | dsimp only | split | rfl

theorem Keeps.heritageEffect (h : Keeps level o d) (f : Fuse) (st : Stream) (c : Decoded) (m : MatmulCmd) (src : ByteSource) (ev : OpEvents) : Keeps level o (Dev.heritageEffect d f st c m src ev) := by
  unfold Dev.heritageEffect
  try dsimp only
  repeat' first
    | with_reducible assumption | with_reducible exact h | with_reducible apply Keeps.runItems
    | with_reducible apply Keeps.output | with_reducible apply Keeps.keptFindings
    | with_reducible apply Keeps.keepProduct | with_reducible apply Keeps.ite | with_reducible apply Keeps.ite1
    | with_reducible apply Keeps.ite2 | with_reducible apply Keeps.foldl | with_reducible apply Keeps.foldl_fst
    | with_reducible apply Keeps.foldl_snd | simp only [Keeps.upd] | simp only [Keeps.updMain] | intro _ _ _
    | intro _ _ | intro _ | dsimp only | split | rfl

end Sys2Proof.Machine
end

