-- ==== Sys2Proof/Laws/KeepCompass.lean ====
section
/-! SUPPORT. What the operations of Machine/Compass.lean keep (`Keeps`). -/
set_option Elab.async false
set_option linter.unusedTactic false
set_option linter.unreachableTactic false
set_option linter.unusedSimpArgs false

namespace Sys2Proof.Machine

variable {level : Bool} {o d : Dev}

theorem Keeps.putProtocol (h : Keeps level o d) (p : Protocol) : Keeps level o (Dev.putProtocol d p) := by
  unfold Dev.putProtocol
  try dsimp only
  repeat' first
    | with_reducible assumption | with_reducible exact h | with_reducible apply Keeps.ite
    | with_reducible apply Keeps.ite1 | with_reducible apply Keeps.ite2 | with_reducible apply Keeps.foldl
    | with_reducible apply Keeps.foldl_fst | with_reducible apply Keeps.foldl_snd | simp only [Keeps.upd]
    | simp only [Keeps.updMain] | intro _ _ _ | intro _ _ | intro _ | dsimp only | split | rfl

theorem Keeps.endProtocol (h : Keeps level o d) (p : Protocol) : Keeps level o (Dev.endProtocol d p) := by
  unfold Dev.endProtocol
  try dsimp only
  repeat' first
    | with_reducible assumption | with_reducible exact h | with_reducible apply Keeps.ite
    | with_reducible apply Keeps.ite1 | with_reducible apply Keeps.ite2 | with_reducible apply Keeps.foldl
    | with_reducible apply Keeps.foldl_fst | with_reducible apply Keeps.foldl_snd | simp only [Keeps.upd]
    | simp only [Keeps.updMain] | intro _ _ _ | intro _ _ | intro _ | dsimp only | split | rfl

theorem Keeps.sendSet (h : Keeps level o d) (p : Protocol) (x : Sending) : Keeps level o (Dev.sendSet d p x) := by
  unfold Dev.sendSet
  try dsimp only
  repeat' first
    | with_reducible assumption | with_reducible exact h | with_reducible apply Keeps.digestOut
    | with_reducible apply Keeps.putProtocol | with_reducible apply Keeps.sendPacket | with_reducible apply Keeps.ite
    | with_reducible apply Keeps.ite1 | with_reducible apply Keeps.ite2 | with_reducible apply Keeps.foldl
    | with_reducible apply Keeps.foldl_fst | with_reducible apply Keeps.foldl_snd | simp only [Keeps.upd]
    | simp only [Keeps.updMain] | intro _ _ _ | intro _ _ | intro _ | dsimp only | split | rfl

theorem Keeps.abandonRecord (h : Keeps level o d) (p : Protocol) (reason : Nat) (sender : Nat) (timeout : Bool) : Keeps level o (Dev.abandonRecord d p reason sender timeout) := by
  unfold Dev.abandonRecord
  try dsimp only
  repeat' first
    | with_reducible assumption | with_reducible exact h | with_reducible apply Keeps.endProtocol
    | with_reducible apply Keeps.setReg | with_reducible apply Keeps.raise | with_reducible apply Keeps.pageFault
    | with_reducible apply Keeps.bad | with_reducible apply Keeps.record | with_reducible apply Keeps.ite
    | with_reducible apply Keeps.ite1 | with_reducible apply Keeps.ite2 | with_reducible apply Keeps.foldl
    | with_reducible apply Keeps.foldl_fst | with_reducible apply Keeps.foldl_snd | simp only [Keeps.upd]
    | simp only [Keeps.updMain] | intro _ _ _ | intro _ _ | intro _ | dsimp only | split | rfl

theorem Keeps.finishRecord (h : Keeps level o d) (p : Protocol) : Keeps level o (Dev.finishRecord d p) := by
  unfold Dev.finishRecord
  try dsimp only
  repeat' first
    | with_reducible assumption | with_reducible exact h | with_reducible apply Keeps.endProtocol
    | with_reducible apply Keeps.writeAt | with_reducible apply Keeps.setReg | with_reducible apply Keeps.addSat
    | with_reducible apply Keeps.raise | with_reducible apply Keeps.record | with_reducible apply Keeps.ite
    | with_reducible apply Keeps.ite1 | with_reducible apply Keeps.ite2 | with_reducible apply Keeps.foldl
    | with_reducible apply Keeps.foldl_fst | with_reducible apply Keeps.foldl_snd | simp only [Keeps.upd]
    | simp only [Keeps.updMain] | intro _ _ _ | intro _ _ | intro _ | dsimp only | split | rfl

theorem Keeps.runProtocol (h : Keeps level o d) (n a3 a4 : Nat) : Keeps level o (Dev.runProtocol n d a3 a4) := by
  induction n generalizing d with
  | zero => exact h
  | succ n ih =>
    unfold Dev.runProtocol
    repeat' first
      | with_reducible exact h | with_reducible apply ih | with_reducible apply Keeps.abandonRecord
      | with_reducible apply Keeps.finishRecord | with_reducible apply Keeps.foldl | with_reducible apply Keeps.sendSet
      | with_reducible apply Keeps.putProtocol | with_reducible assumption | intro _ _ _ | split

theorem Keeps.advanceRecord (h : Keeps level o d) (layer : Nat) (mb : Nat) : Keeps level o (Dev.advanceRecord d layer mb) := by
  unfold Dev.advanceRecord
  try dsimp only
  repeat' first
    | with_reducible assumption | with_reducible exact h | with_reducible apply Keeps.runProtocol
    | with_reducible apply Keeps.ite | with_reducible apply Keeps.ite1 | with_reducible apply Keeps.ite2
    | with_reducible apply Keeps.foldl | with_reducible apply Keeps.foldl_fst | with_reducible apply Keeps.foldl_snd
    | simp only [Keeps.upd] | simp only [Keeps.updMain] | intro _ _ _ | intro _ _ | intro _ | dsimp only | split | rfl

theorem Keeps.takeCmp (h : Keeps level o d) (p : Protocol) (m : CmpMsg) : Keeps level o (Dev.takeCmp d p m) := by
  unfold Dev.takeCmp
  try dsimp only
  repeat' first
    | with_reducible assumption | with_reducible exact h | with_reducible apply Keeps.addSat
    | with_reducible apply Keeps.abandonRecord | with_reducible apply Keeps.putProtocol
    | with_reducible apply Keeps.advanceRecord | with_reducible apply Keeps.ite | with_reducible apply Keeps.ite1
    | with_reducible apply Keeps.ite2 | with_reducible apply Keeps.foldl | with_reducible apply Keeps.foldl_fst
    | with_reducible apply Keeps.foldl_snd | simp only [Keeps.upd] | simp only [Keeps.updMain] | intro _ _ _
    | intro _ _ | intro _ | dsimp only | split | rfl

theorem Keeps.holdCmp (h : Keeps level o d) (m : CmpMsg) (pk : Packet) : Keeps level o (Dev.holdCmp d m pk) := by
  unfold Dev.holdCmp
  try dsimp only
  repeat' first
    | with_reducible assumption | with_reducible exact h | with_reducible apply Keeps.addSat
    | with_reducible apply Keeps.raise | with_reducible apply Keeps.ite | with_reducible apply Keeps.ite1
    | with_reducible apply Keeps.ite2 | with_reducible apply Keeps.foldl | with_reducible apply Keeps.foldl_fst
    | with_reducible apply Keeps.foldl_snd | simp only [Keeps.upd] | simp only [Keeps.updMain] | intro _ _ _
    | intro _ _ | intro _ | dsimp only | split | rfl

theorem Keeps.receiveCmp (h : Keeps level o d) (pk : Packet) : Keeps level o (Dev.receiveCmp d pk) := by
  unfold Dev.receiveCmp
  try dsimp only
  repeat' first
    | with_reducible assumption | with_reducible exact h | with_reducible apply Keeps.takeCmp
    | with_reducible apply Keeps.takePacket | with_reducible apply Keeps.holdCmp | with_reducible apply Keeps.ite
    | with_reducible apply Keeps.ite1 | with_reducible apply Keeps.ite2 | with_reducible apply Keeps.foldl
    | with_reducible apply Keeps.foldl_fst | with_reducible apply Keeps.foldl_snd | simp only [Keeps.upd]
    | simp only [Keeps.updMain] | intro _ _ _ | intro _ _ | intro _ | dsimp only | split | rfl

theorem Keeps.claimRecord (h : Keeps level o d) (c : RouteCmd) : Keeps level o (Dev.claimRecord d c) := by
  unfold Dev.claimRecord
  try dsimp only
  repeat' first
    | with_reducible assumption | with_reducible exact h | with_reducible apply Keeps.writeAt
    | with_reducible apply Keeps.ite | with_reducible apply Keeps.ite1 | with_reducible apply Keeps.ite2
    | with_reducible apply Keeps.foldl | with_reducible apply Keeps.foldl_fst | with_reducible apply Keeps.foldl_snd
    | simp only [Keeps.upd] | simp only [Keeps.updMain] | intro _ _ _ | intro _ _ | intro _ | dsimp only | split | rfl

theorem Keeps.routeEffect (h : Keeps level o d) (c : Decoded) (r : RouteCmd) (src : ByteSource) : Keeps level o (Dev.routeEffect d c r src) := by
  unfold Dev.routeEffect
  try dsimp only
  repeat' first
    | with_reducible assumption | with_reducible exact h | with_reducible apply Keeps.claimRecord
    | with_reducible apply Keeps.raise | with_reducible apply Keeps.nonfinite | with_reducible apply Keeps.newRun
    | with_reducible apply Keeps.sendSet | with_reducible apply Keeps.takeCmp
    | with_reducible apply Keeps.advanceRecord | with_reducible apply Keeps.ite | with_reducible apply Keeps.ite1
    | with_reducible apply Keeps.ite2 | with_reducible apply Keeps.foldl | with_reducible apply Keeps.foldl_fst
    | with_reducible apply Keeps.foldl_snd | simp only [Keeps.upd] | simp only [Keeps.updMain] | intro _ _ _
    | intro _ _ | intro _ | dsimp only | split | rfl

end Sys2Proof.Machine
end

