-- ==== Sys2Proof/Laws/KeepVector.lean ====
section
/-! SUPPORT. What the operations of Machine/Vector.lean keep (`Keeps`). -/
set_option Elab.async false
set_option linter.unusedTactic false
set_option linter.unreachableTactic false
set_option linter.unusedSimpArgs false

namespace Sys2Proof.Machine

variable {level : Bool} {o d : Dev}

theorem Keeps.vout (h : Keeps level o d) (w : VWrite) (op : Operand) (rows : List (List Word)) : Keeps level o (Dev.vout d w op rows).1 := by
  unfold Dev.vout
  try dsimp only
  repeat' first
    | with_reducible assumption | with_reducible exact h | with_reducible apply Keeps.setStream
    | with_reducible apply Keeps.nonfinite | with_reducible apply Keeps.addOutput | with_reducible apply Keeps.output
    | with_reducible apply Keeps.ite | with_reducible apply Keeps.ite1 | with_reducible apply Keeps.ite2
    | with_reducible apply Keeps.foldl | with_reducible apply Keeps.foldl_fst | with_reducible apply Keeps.foldl_snd
    | simp only [Keeps.upd] | simp only [Keeps.updMain] | intro _ _ _ | intro _ _ | intro _ | dsimp only | split | rfl

theorem Keeps.vtbCount (h : Keeps level o d) (nf : Nat) (masked : Nat) (bad : Nat) : Keeps level o (Dev.vtbCount d nf masked bad) := by
  unfold Dev.vtbCount
  try dsimp only
  repeat' first
    | with_reducible assumption | with_reducible exact h | with_reducible apply Keeps.raise
    | with_reducible apply Keeps.addSat | with_reducible apply Keeps.ite | with_reducible apply Keeps.ite1
    | with_reducible apply Keeps.ite2 | with_reducible apply Keeps.foldl | with_reducible apply Keeps.foldl_fst
    | with_reducible apply Keeps.foldl_snd | simp only [Keeps.upd] | simp only [Keeps.updMain] | intro _ _ _
    | intro _ _ | intro _ | dsimp only | split | rfl

theorem Keeps.dupVector (h : Keeps level o d) (st : Stream) : Keeps level o (Dev.dupVector d st) := by
  unfold Dev.dupVector
  try dsimp only
  repeat' first
    | with_reducible assumption | with_reducible exact h | with_reducible apply Keeps.addSat
    | with_reducible apply Keeps.ite | with_reducible apply Keeps.ite1 | with_reducible apply Keeps.ite2
    | with_reducible apply Keeps.foldl | with_reducible apply Keeps.foldl_fst | with_reducible apply Keeps.foldl_snd
    | simp only [Keeps.upd] | simp only [Keeps.updMain] | intro _ _ _ | intro _ _ | intro _ | dsimp only | split | rfl

theorem Keeps.dupRow (h : Keeps level o d) (f : Fuse) (start : Dev) (first : Nat) (count : Nat) (m : DupFinding) : Keeps level o (Dev.dupRow d f start first count m) := by
  unfold Dev.dupRow
  try dsimp only
  repeat' first
    | with_reducible assumption | with_reducible exact h | with_reducible apply Keeps.dupEffect
    | with_reducible apply Keeps.ite | with_reducible apply Keeps.ite1 | with_reducible apply Keeps.ite2
    | with_reducible apply Keeps.foldl | with_reducible apply Keeps.foldl_fst | with_reducible apply Keeps.foldl_snd
    | simp only [Keeps.upd] | simp only [Keeps.updMain] | intro _ _ _ | intro _ _ | intro _ | dsimp only | split | rfl

theorem Keeps.dupRows (h : Keeps level o d) (f : Fuse) (st : Stream) (start : Dev) (first : Nat) (count : Nat) (ev : OpEvents) : Keeps level o (Dev.dupRows d f st start first count ev) := by
  unfold Dev.dupRows
  try dsimp only
  repeat' first
    | with_reducible assumption | with_reducible exact h | with_reducible apply Keeps.dupRow
    | with_reducible apply Keeps.ite | with_reducible apply Keeps.ite1 | with_reducible apply Keeps.ite2
    | with_reducible apply Keeps.foldl | with_reducible apply Keeps.foldl_fst | with_reducible apply Keeps.foldl_snd
    | simp only [Keeps.upd] | simp only [Keeps.updMain] | intro _ _ _ | intro _ _ | intro _ | dsimp only | split | rfl

theorem Keeps.vprogEffect (h : Keeps level o d) (st : Stream) (c : Decoded) (p : VprogCmd) (k : Option Kept) (src : ByteSource) : Keeps level o (Dev.vprogEffect d st c p k src) := by
  unfold Dev.vprogEffect
  try dsimp only
  repeat' first
    | with_reducible assumption | with_reducible exact h | with_reducible apply Keeps.vout
    | with_reducible apply Keeps.dupVector | with_reducible apply Keeps.vtbCount | with_reducible apply Keeps.ite
    | with_reducible apply Keeps.ite1 | with_reducible apply Keeps.ite2 | with_reducible apply Keeps.foldl
    | with_reducible apply Keeps.foldl_fst | with_reducible apply Keeps.foldl_snd | simp only [Keeps.upd]
    | simp only [Keeps.updMain] | intro _ _ _ | intro _ _ | intro _ | dsimp only | split | rfl

theorem Keeps.kernelOut (h : Keeps level o d) (w : VWrite) (k : KernelCmd) (rows : List RowOut) : Keeps level o (Dev.kernelOut d w k rows) := by
  unfold Dev.kernelOut
  try dsimp only
  repeat' first
    | with_reducible assumption | with_reducible exact h | with_reducible apply Keeps.vout
    | with_reducible apply Keeps.vtbCount | with_reducible apply Keeps.ite | with_reducible apply Keeps.ite1
    | with_reducible apply Keeps.ite2 | with_reducible apply Keeps.foldl | with_reducible apply Keeps.foldl_fst
    | with_reducible apply Keeps.foldl_snd | simp only [Keeps.upd] | simp only [Keeps.updMain] | intro _ _ _
    | intro _ _ | intro _ | dsimp only | split | rfl

theorem Keeps.normEffect (h : Keeps level o d) (st : Stream) (layer : Bool) (c : Decoded) (k : KernelCmd) (kept : Option Kept) (src : ByteSource) : Keeps level o (Dev.normEffect d st layer c k kept src) := by
  unfold Dev.normEffect
  try dsimp only
  repeat' first
    | with_reducible assumption | with_reducible exact h | with_reducible apply Keeps.kernelOut
    | with_reducible apply Keeps.ite | with_reducible apply Keeps.ite1 | with_reducible apply Keeps.ite2
    | with_reducible apply Keeps.foldl | with_reducible apply Keeps.foldl_fst | with_reducible apply Keeps.foldl_snd
    | simp only [Keeps.upd] | simp only [Keeps.updMain] | intro _ _ _ | intro _ _ | intro _ | dsimp only | split | rfl

theorem Keeps.countRows (h : Keeps level o d) (op : Operand) (counts : List (Nat × Nat)) : Keeps level o (Dev.countRows d op counts) := by
  unfold Dev.countRows
  try dsimp only
  repeat' first
    | with_reducible assumption | with_reducible exact h | with_reducible apply Keeps.write
    | with_reducible apply Keeps.ite | with_reducible apply Keeps.ite1 | with_reducible apply Keeps.ite2
    | with_reducible apply Keeps.foldl | with_reducible apply Keeps.foldl_fst | with_reducible apply Keeps.foldl_snd
    | simp only [Keeps.upd] | simp only [Keeps.updMain] | intro _ _ _ | intro _ _ | intro _ | dsimp only | split | rfl

theorem Keeps.attnState (h : Keeps level o d) (st : Stream) (op : Operand) (rows : List (List Word)) : Keeps level o (Dev.attnState d st op rows) := by
  unfold Dev.attnState
  try dsimp only
  repeat' first
    | with_reducible assumption | with_reducible exact h | with_reducible apply Keeps.setStream
    | with_reducible apply Keeps.write | with_reducible apply Keeps.ite | with_reducible apply Keeps.ite1
    | with_reducible apply Keeps.ite2 | with_reducible apply Keeps.foldl | with_reducible apply Keeps.foldl_fst
    | with_reducible apply Keeps.foldl_snd | simp only [Keeps.upd] | simp only [Keeps.updMain] | intro _ _ _
    | intro _ _ | intro _ | dsimp only | split | rfl

theorem Keeps.lossOut (h : Keeps level o d) (w : VWrite) (op : Operand) (sum : Word) (count : Nat) : Keeps level o (Dev.lossOut d w op sum count) := by
  unfold Dev.lossOut
  try dsimp only
  repeat' first
    | with_reducible assumption | with_reducible exact h | with_reducible apply Keeps.write
    | with_reducible apply Keeps.nonfinite | with_reducible apply Keeps.vtbCount | with_reducible apply Keeps.ite
    | with_reducible apply Keeps.ite1 | with_reducible apply Keeps.ite2 | with_reducible apply Keeps.foldl
    | with_reducible apply Keeps.foldl_fst | with_reducible apply Keeps.foldl_snd | simp only [Keeps.upd]
    | simp only [Keeps.updMain] | intro _ _ _ | intro _ _ | intro _ | dsimp only | split | rfl

theorem Keeps.showSlot (h : Keeps level o d) (n : Nat) (owner : Nat) (place : Nat) (c : Curve) : Keeps level o (Dev.showSlot d n owner place c) := by
  unfold Dev.showSlot
  try dsimp only
  repeat' first
    | with_reducible assumption | with_reducible exact h | with_reducible apply Keeps.setReg
    | with_reducible apply Keeps.ite | with_reducible apply Keeps.ite1 | with_reducible apply Keeps.ite2
    | with_reducible apply Keeps.foldl | with_reducible apply Keeps.foldl_fst | with_reducible apply Keeps.foldl_snd
    | simp only [Keeps.upd] | simp only [Keeps.updMain] | intro _ _ _ | intro _ _ | intro _ | dsimp only | split | rfl

theorem Keeps.dropSlots (h : Keeps level o d) (slot : Nat) (owner : Nat) (place : Nat) (length : Nat) : Keeps level o (Dev.dropSlots d slot owner place length) := by
  unfold Dev.dropSlots
  try dsimp only
  repeat' first
    | with_reducible assumption | with_reducible exact h | with_reducible apply Keeps.setFlag
    | with_reducible apply Keeps.ite | with_reducible apply Keeps.ite1 | with_reducible apply Keeps.ite2
    | with_reducible apply Keeps.foldl | with_reducible apply Keeps.foldl_fst | with_reducible apply Keeps.foldl_snd
    | simp only [Keeps.upd] | simp only [Keeps.updMain] | intro _ _ _ | intro _ _ | intro _ | dsimp only | split | rfl

theorem Keeps.loadTable (h : Keeps level o d) (st : Stream) (t : TloadCmd) (image : List Byte) : Keeps level o (Dev.loadTable d st t image) := by
  unfold Dev.loadTable
  try dsimp only
  repeat' first
    | with_reducible assumption | with_reducible exact h | with_reducible apply Keeps.dropSlots
    | with_reducible apply Keeps.showSlot | with_reducible apply Keeps.raise | with_reducible apply Keeps.setFld
    | with_reducible apply Keeps.ite | with_reducible apply Keeps.ite1 | with_reducible apply Keeps.ite2
    | with_reducible apply Keeps.foldl | with_reducible apply Keeps.foldl_fst | with_reducible apply Keeps.foldl_snd
    | simp only [Keeps.upd] | simp only [Keeps.updMain] | intro _ _ _ | intro _ _ | intro _ | dsimp only | split | rfl

theorem Keeps.tloadEffect (h : Keeps level o d) (st : Stream) (t : TloadCmd) (src : ByteSource) : Keeps level o (Dev.tloadEffect d st t src) := by
  unfold Dev.tloadEffect
  try dsimp only
  repeat' first
    | with_reducible assumption | with_reducible exact h | with_reducible apply Keeps.setStream
    | with_reducible apply Keeps.ite | with_reducible apply Keeps.ite1 | with_reducible apply Keeps.ite2
    | with_reducible apply Keeps.foldl | with_reducible apply Keeps.foldl_fst | with_reducible apply Keeps.foldl_snd
    | simp only [Keeps.upd] | simp only [Keeps.updMain] | intro _ _ _ | intro _ _ | intro _ | dsimp only | split | rfl

end Sys2Proof.Machine
end

