-- ==== Sys2Proof/Laws/KeepExchange.lean ====
section
/-! SUPPORT. What the operations of Machine/Exchange.lean keep (`Keeps`). -/
set_option Elab.async false
set_option linter.unusedTactic false
set_option linter.unreachableTactic false
set_option linter.unusedSimpArgs false

namespace Sys2Proof.Machine

variable {level : Bool} {o d : Dev}

theorem Keeps.dropXchg (h : Keeps level o d) (x : XchgRun) : Keeps level o (Dev.dropXchg d x) := by
  unfold Dev.dropXchg
  try dsimp only
  repeat' first
    | with_reducible assumption | with_reducible exact h | with_reducible apply Keeps.ite
    | with_reducible apply Keeps.ite1 | with_reducible apply Keeps.ite2 | with_reducible apply Keeps.foldl
    | with_reducible apply Keeps.foldl_fst | with_reducible apply Keeps.foldl_snd | simp only [Keeps.upd]
    | simp only [Keeps.updMain] | intro _ _ _ | intro _ _ | intro _ | dsimp only | split | rfl

theorem Keeps.putXchg (h : Keeps level o d) (x : XchgRun) : Keeps level o (Dev.putXchg d x) := by
  unfold Dev.putXchg
  try dsimp only
  repeat' first
    | with_reducible assumption | with_reducible exact h | with_reducible apply Keeps.ite
    | with_reducible apply Keeps.ite1 | with_reducible apply Keeps.ite2 | with_reducible apply Keeps.foldl
    | with_reducible apply Keeps.foldl_fst | with_reducible apply Keeps.foldl_snd | simp only [Keeps.upd]
    | simp only [Keeps.updMain] | intro _ _ _ | intro _ _ | intro _ | dsimp only | split | rfl

theorem Keeps.endXchg (h : Keeps level o d) (x : XchgRun) (status : Nat) (peer : Nat) : Keeps level o (Dev.endXchg d x status peer) := by
  unfold Dev.endXchg
  try dsimp only
  repeat' first
    | with_reducible assumption | with_reducible exact h | with_reducible apply Keeps.dropXchg
    | with_reducible apply Keeps.writeAt | with_reducible apply Keeps.notifyCounter | with_reducible apply Keeps.bad
    | with_reducible apply Keeps.record | with_reducible apply Keeps.ite | with_reducible apply Keeps.ite1
    | with_reducible apply Keeps.ite2 | with_reducible apply Keeps.foldl | with_reducible apply Keeps.foldl_fst
    | with_reducible apply Keeps.foldl_snd | simp only [Keeps.upd] | simp only [Keeps.updMain] | intro _ _ _
    | intro _ _ | intro _ | dsimp only | split | rfl

theorem Keeps.releaseRows (h : Keeps level o d) (x : XchgRun) (peers : List Nat) : Keeps level o (Dev.releaseRows d x peers) := by
  unfold Dev.releaseRows
  try dsimp only
  repeat' first
    | with_reducible assumption | with_reducible exact h | with_reducible apply Keeps.sendPacket
    | with_reducible apply Keeps.putXchg | with_reducible apply Keeps.ite | with_reducible apply Keeps.ite1
    | with_reducible apply Keeps.ite2 | with_reducible apply Keeps.foldl | with_reducible apply Keeps.foldl_fst
    | with_reducible apply Keeps.foldl_snd | simp only [Keeps.upd] | simp only [Keeps.updMain] | intro _ _ _
    | intro _ _ | intro _ | dsimp only | split | rfl

theorem Keeps.takeReady (h : Keeps level o d) (x : XchgRun) (m : ReadyMsg) : Keeps level o (Dev.takeReady d x m) := by
  unfold Dev.takeReady
  try dsimp only
  repeat' first
    | with_reducible assumption | with_reducible exact h | with_reducible apply Keeps.putXchg
    | with_reducible apply Keeps.endXchg | with_reducible apply Keeps.releaseRows | with_reducible apply Keeps.ite
    | with_reducible apply Keeps.ite1 | with_reducible apply Keeps.ite2 | with_reducible apply Keeps.foldl
    | with_reducible apply Keeps.foldl_fst | with_reducible apply Keeps.foldl_snd | simp only [Keeps.upd]
    | simp only [Keeps.updMain] | intro _ _ _ | intro _ _ | intro _ | dsimp only | split | rfl

theorem Keeps.wireFigures (h : Keeps level o d) (o1 : Origin) (c : XchgCmd) (rows : List WireRow) : Keeps level o (Dev.wireFigures d o1 c rows) := by
  unfold Dev.wireFigures
  try dsimp only
  repeat' first
    | with_reducible assumption | with_reducible exact h | with_reducible apply Keeps.nonfinite
    | with_reducible apply Keeps.merge | with_reducible apply Keeps.ite | with_reducible apply Keeps.ite1
    | with_reducible apply Keeps.ite2 | with_reducible apply Keeps.foldl | with_reducible apply Keeps.foldl_fst
    | with_reducible apply Keeps.foldl_snd | simp only [Keeps.upd] | simp only [Keeps.updMain] | intro _ _ _
    | intro _ _ | intro _ | dsimp only | split | rfl

theorem Keeps.writeGateGrads (h : Keeps level o d) (o1 : Origin) (x : XCtx) : Keeps level o (Dev.writeGateGrads d o1 x) := by
  unfold Dev.writeGateGrads
  try dsimp only
  repeat' first
    | with_reducible assumption | with_reducible exact h | with_reducible apply Keeps.vtbCount
    | with_reducible apply Keeps.output | with_reducible apply Keeps.ite | with_reducible apply Keeps.ite1
    | with_reducible apply Keeps.ite2 | with_reducible apply Keeps.foldl | with_reducible apply Keeps.foldl_fst
    | with_reducible apply Keeps.foldl_snd | simp only [Keeps.upd] | simp only [Keeps.updMain] | intro _ _ _
    | intro _ _ | intro _ | dsimp only | split | rfl

theorem Keeps.keptReadys (h : Keeps level o d) (x : XchgRun) (ms : List ReadyMsg) : Keeps level o (Dev.keptReadys d x ms) := by
  unfold Dev.keptReadys
  try dsimp only
  repeat' first
    | with_reducible assumption | with_reducible exact h | with_reducible apply Keeps.putXchg
    | with_reducible apply Keeps.endXchg | with_reducible apply Keeps.releaseRows | with_reducible apply Keeps.ite
    | with_reducible apply Keeps.ite1 | with_reducible apply Keeps.ite2 | with_reducible apply Keeps.foldl
    | with_reducible apply Keeps.foldl_fst | with_reducible apply Keeps.foldl_snd | simp only [Keeps.upd]
    | simp only [Keeps.updMain] | intro _ _ _ | intro _ _ | intro _ | dsimp only | split | rfl

theorem Keeps.startXchg (h : Keeps level o d) (c : Decoded) (x : XCtx) (queue : List OwedPacket) (ex : List Expected) (own : Nat) (got : List Nat) : Keeps level o (Dev.startXchg d c x queue ex own got).2 := by
  unfold Dev.startXchg
  try dsimp only
  repeat' first
    | with_reducible assumption | with_reducible exact h | with_reducible apply Keeps.newRun
    | with_reducible apply Keeps.writeAt | with_reducible apply Keeps.ite | with_reducible apply Keeps.ite1
    | with_reducible apply Keeps.ite2 | with_reducible apply Keeps.foldl | with_reducible apply Keeps.foldl_fst
    | with_reducible apply Keeps.foldl_snd | simp only [Keeps.upd] | simp only [Keeps.updMain] | intro _ _ _
    | intro _ _ | intro _ | dsimp only | split | rfl

theorem Keeps.moveEffect (h : Keeps level o d) (c : Decoded) (x : XchgCmd) (lost : Bool) (src : ByteSource) : Keeps level o (Dev.moveEffect d c x lost src) := by
  unfold Dev.moveEffect
  try dsimp only
  repeat' first
    | with_reducible assumption | with_reducible exact h | with_reducible apply Keeps.startXchg
    | with_reducible apply Keeps.endXchg | with_reducible apply Keeps.wireFigures | with_reducible apply Keeps.write
    | with_reducible apply Keeps.writeGateGrads | with_reducible apply Keeps.sendPacket
    | with_reducible apply Keeps.keptReadys | with_reducible apply Keeps.ite | with_reducible apply Keeps.ite1
    | with_reducible apply Keeps.ite2 | with_reducible apply Keeps.foldl | with_reducible apply Keeps.foldl_fst
    | with_reducible apply Keeps.foldl_snd | simp only [Keeps.upd] | simp only [Keeps.updMain] | intro _ _ _
    | intro _ _ | intro _ | dsimp only | split | rfl

theorem Keeps.combineEffect (h : Keeps level o d) (c : Decoded) (x : XchgCmd) (lost : Bool) (src : ByteSource) : Keeps level o (Dev.combineEffect d c x lost src) := by
  unfold Dev.combineEffect
  try dsimp only
  repeat' first
    | with_reducible assumption | with_reducible exact h | with_reducible apply Keeps.startXchg
    | with_reducible apply Keeps.dupVector | with_reducible apply Keeps.endXchg | with_reducible apply Keeps.vtbCount
    | with_reducible apply Keeps.output | with_reducible apply Keeps.ite | with_reducible apply Keeps.ite1
    | with_reducible apply Keeps.ite2 | with_reducible apply Keeps.foldl | with_reducible apply Keeps.foldl_fst
    | with_reducible apply Keeps.foldl_snd | simp only [Keeps.upd] | simp only [Keeps.updMain] | intro _ _ _
    | intro _ _ | intro _ | dsimp only | split | rfl

theorem Keeps.keepReady (h : Keeps level o d) (m : Packet) (r : ReadyMsg) : Keeps level o (Dev.keepReady d m r) := by
  unfold Dev.keepReady
  try dsimp only
  repeat' first
    | with_reducible assumption | with_reducible exact h | with_reducible apply Keeps.takePacket
    | with_reducible apply Keeps.ite | with_reducible apply Keeps.ite1 | with_reducible apply Keeps.ite2
    | with_reducible apply Keeps.foldl | with_reducible apply Keeps.foldl_fst | with_reducible apply Keeps.foldl_snd
    | simp only [Keeps.upd] | simp only [Keeps.updMain] | intro _ _ _ | intro _ _ | intro _ | dsimp only | split | rfl

theorem Keeps.takeData (h : Keeps level o d) (x : XchgRun) (b : List Byte) (lost : Bool) : Keeps level o (Dev.takeData d x b lost) := by
  unfold Dev.takeData
  try dsimp only
  repeat' first
    | with_reducible assumption | with_reducible exact h | with_reducible apply Keeps.putXchg
    | with_reducible apply Keeps.endXchg | with_reducible apply Keeps.write | with_reducible apply Keeps.ite
    | with_reducible apply Keeps.ite1 | with_reducible apply Keeps.ite2 | with_reducible apply Keeps.foldl
    | with_reducible apply Keeps.foldl_fst | with_reducible apply Keeps.foldl_snd | simp only [Keeps.upd]
    | simp only [Keeps.updMain] | intro _ _ _ | intro _ _ | intro _ | dsimp only | split | rfl

theorem Keeps.addTally (h : Keeps level o d) (x : XchgRun) : Keeps level o (Dev.addTally d x) := by
  unfold Dev.addTally
  try dsimp only
  repeat' first
    | with_reducible assumption | with_reducible exact h | with_reducible apply Keeps.writeAt
    | with_reducible apply Keeps.ite | with_reducible apply Keeps.ite1 | with_reducible apply Keeps.ite2
    | with_reducible apply Keeps.foldl | with_reducible apply Keeps.foldl_fst | with_reducible apply Keeps.foldl_snd
    | simp only [Keeps.upd] | simp only [Keeps.updMain] | intro _ _ _ | intro _ _ | intro _ | dsimp only | split | rfl

end Sys2Proof.Machine
end

