-- ==== Sys2Proof/Laws/KeepPipeline.lean ====
section
/-! SUPPORT. What the operations of Machine/Pipeline.lean keep (`Keeps`). -/
set_option Elab.async false
set_option linter.unusedTactic false
set_option linter.unreachableTactic false
set_option linter.unusedSimpArgs false

namespace Sys2Proof.Machine

variable {level : Bool} {o d : Dev}

theorem Keeps.sendPipeline (h : Keeps level o d) (dest : Nat) (owner : Nat) (payloads : List (List Byte)) : Keeps level o (Dev.sendPipeline d dest owner payloads) := by
  unfold Dev.sendPipeline
  try dsimp only
  repeat' first
    | with_reducible assumption | with_reducible exact h | with_reducible apply Keeps.digestOut
    | with_reducible apply Keeps.notAccepted | with_reducible apply Keeps.forward | with_reducible apply Keeps.ite
    | with_reducible apply Keeps.ite1 | with_reducible apply Keeps.ite2 | with_reducible apply Keeps.foldl
    | with_reducible apply Keeps.foldl_fst | with_reducible apply Keeps.foldl_snd | simp only [Keeps.upd]
    | simp only [Keeps.updMain] | intro _ _ _ | intro _ _ | intro _ | dsimp only | split | rfl

theorem Keeps.putSend (h : Keeps level o d) (r : SendRun) : Keeps level o (Dev.putSend d r) := by
  unfold Dev.putSend
  try dsimp only
  repeat' first
    | with_reducible assumption | with_reducible exact h | with_reducible apply Keeps.ite
    | with_reducible apply Keeps.ite1 | with_reducible apply Keeps.ite2 | with_reducible apply Keeps.foldl
    | with_reducible apply Keeps.foldl_fst | with_reducible apply Keeps.foldl_snd | simp only [Keeps.upd]
    | simp only [Keeps.updMain] | intro _ _ _ | intro _ _ | intro _ | dsimp only | split | rfl

theorem Keeps.startSend (h : Keeps level o d) (dest : Nat) (hinge : Nat) : Keeps level o (Dev.startSend d dest hinge) := by
  unfold Dev.startSend
  try dsimp only
  repeat' first
    | with_reducible assumption | with_reducible exact h | with_reducible apply Keeps.sendPipeline
    | with_reducible apply Keeps.putSend | with_reducible apply Keeps.ite | with_reducible apply Keeps.ite1
    | with_reducible apply Keeps.ite2 | with_reducible apply Keeps.foldl | with_reducible apply Keeps.foldl_fst
    | with_reducible apply Keeps.foldl_snd | simp only [Keeps.upd] | simp only [Keeps.updMain] | intro _ _ _
    | intro _ _ | intro _ | dsimp only | split | rfl

theorem Keeps.closeSend (h : Keeps level o d) (r : SendRun) (status : Nat) : Keeps level o (Dev.closeSend d r status) := by
  unfold Dev.closeSend
  try dsimp only
  repeat' first
    | with_reducible assumption | with_reducible exact h | with_reducible apply Keeps.notifyCounter
    | with_reducible apply Keeps.writeAt | with_reducible apply Keeps.bad | with_reducible apply Keeps.record
    | with_reducible apply Keeps.ite | with_reducible apply Keeps.ite1 | with_reducible apply Keeps.ite2
    | with_reducible apply Keeps.foldl | with_reducible apply Keeps.foldl_fst | with_reducible apply Keeps.foldl_snd
    | simp only [Keeps.upd] | simp only [Keeps.updMain] | intro _ _ _ | intro _ _ | intro _ | dsimp only | split | rfl

theorem Keeps.endSend (h : Keeps level o d) (r : SendRun) (status : Nat) : Keeps level o (Dev.endSend d r status) := by
  unfold Dev.endSend
  try dsimp only
  repeat' first
    | with_reducible assumption | with_reducible exact h | with_reducible apply Keeps.startSend
    | with_reducible apply Keeps.closeSend | with_reducible apply Keeps.ite | with_reducible apply Keeps.ite1
    | with_reducible apply Keeps.ite2 | with_reducible apply Keeps.foldl | with_reducible apply Keeps.foldl_fst
    | with_reducible apply Keeps.foldl_snd | simp only [Keeps.upd] | simp only [Keeps.updMain] | intro _ _ _
    | intro _ _ | intro _ | dsimp only | split | rfl

theorem Keeps.sendEffect (h : Keeps level o d) (c : Decoded) (s : SendCmd) (lost : Bool) : Keeps level o (Dev.sendEffect d c s lost) := by
  unfold Dev.sendEffect
  try dsimp only
  repeat' first
    | with_reducible assumption | with_reducible exact h | with_reducible apply Keeps.newRun
    | with_reducible apply Keeps.writeAt | with_reducible apply Keeps.endSend | with_reducible apply Keeps.startSend
    | with_reducible apply Keeps.ite | with_reducible apply Keeps.ite1 | with_reducible apply Keeps.ite2
    | with_reducible apply Keeps.foldl | with_reducible apply Keeps.foldl_fst | with_reducible apply Keeps.foldl_snd
    | simp only [Keeps.upd] | simp only [Keeps.updMain] | intro _ _ _ | intro _ _ | intro _ | dsimp only | split | rfl

theorem Keeps.hngStaleOne (h : Keeps level o d) (i : Nat) : Keeps level o (Dev.hngStaleOne d i) := by
  unfold Dev.hngStaleOne
  try dsimp only
  repeat' first
    | with_reducible assumption | with_reducible exact h | with_reducible apply Keeps.raise
    | with_reducible apply Keeps.addSat | with_reducible apply Keeps.ite | with_reducible apply Keeps.ite1
    | with_reducible apply Keeps.ite2 | with_reducible apply Keeps.foldl | with_reducible apply Keeps.foldl_fst
    | with_reducible apply Keeps.foldl_snd | simp only [Keeps.upd] | simp only [Keeps.updMain] | intro _ _ _
    | intro _ _ | intro _ | dsimp only | split | rfl

theorem Keeps.pauseStream (h : Keeps level o d) (dest : Nat) (hinge : Nat) (seq : Nat) (stop : Bool) : Keeps level o (Dev.pauseStream d dest hinge seq stop) := by
  unfold Dev.pauseStream
  try dsimp only
  repeat' first
    | with_reducible assumption | with_reducible exact h | with_reducible apply Keeps.putSend
    | with_reducible apply Keeps.ite | with_reducible apply Keeps.ite1 | with_reducible apply Keeps.ite2
    | with_reducible apply Keeps.foldl | with_reducible apply Keeps.foldl_fst | with_reducible apply Keeps.foldl_snd
    | simp only [Keeps.upd] | simp only [Keeps.updMain] | intro _ _ _ | intro _ _ | intro _ | dsimp only | split | rfl

theorem Keeps.tellSender (h : Keeps level o d) (i : Nat) (stop : Bool) : Keeps level o (Dev.tellSender d i stop) := by
  unfold Dev.tellSender
  try dsimp only
  repeat' first
    | with_reducible assumption | with_reducible exact h | with_reducible apply Keeps.setHinge
    | with_reducible apply Keeps.raise | with_reducible apply Keeps.addSat | with_reducible apply Keeps.sendControl
    | with_reducible apply Keeps.ite | with_reducible apply Keeps.ite1 | with_reducible apply Keeps.ite2
    | with_reducible apply Keeps.foldl | with_reducible apply Keeps.foldl_fst | with_reducible apply Keeps.foldl_snd
    | simp only [Keeps.upd] | simp only [Keeps.updMain] | intro _ _ _ | intro _ _ | intro _ | dsimp only | split | rfl

theorem Keeps.regulate (h : Keeps level o d) (i : Nat) : Keeps level o (Dev.regulate d i) := by
  unfold Dev.regulate
  try dsimp only
  repeat' first
    | with_reducible assumption | with_reducible exact h | with_reducible apply Keeps.tellSender
    | with_reducible apply Keeps.ite | with_reducible apply Keeps.ite1 | with_reducible apply Keeps.ite2
    | with_reducible apply Keeps.foldl | with_reducible apply Keeps.foldl_fst | with_reducible apply Keeps.foldl_snd
    | simp only [Keeps.upd] | simp only [Keeps.updMain] | intro _ _ _ | intro _ _ | intro _ | dsimp only | split | rfl

theorem Keeps.unregulate (h : Keeps level o d) (i : Nat) : Keeps level o (Dev.unregulate d i) := by
  unfold Dev.unregulate
  try dsimp only
  repeat' first
    | with_reducible assumption | with_reducible exact h | with_reducible apply Keeps.tellSender
    | with_reducible apply Keeps.ite | with_reducible apply Keeps.ite1 | with_reducible apply Keeps.ite2
    | with_reducible apply Keeps.foldl | with_reducible apply Keeps.foldl_fst | with_reducible apply Keeps.foldl_snd
    | simp only [Keeps.upd] | simp only [Keeps.updMain] | intro _ _ _ | intro _ _ | intro _ | dsimp only | split | rfl

theorem Keeps.completePackets (h : Keeps level o d) (a1 : Nat) (a3 : Nat) : Keeps level o (Dev.completePackets a1 d a3) := by
  induction a1 generalizing d with
  | zero => exact h
  | succ n ih =>
    unfold Dev.completePackets
    try dsimp only
    repeat' first
      | with_reducible assumption | with_reducible apply ih | with_reducible exact h
      | with_reducible apply Keeps.setHinge | with_reducible apply Keeps.raise | with_reducible apply Keeps.addWrap
      | with_reducible apply Keeps.ite | with_reducible apply Keeps.ite1 | with_reducible apply Keeps.ite2
      | with_reducible apply Keeps.foldl | with_reducible apply Keeps.foldl_fst | with_reducible apply Keeps.foldl_snd
      | simp only [Keeps.upd] | simp only [Keeps.updMain] | intro _ _ _ | intro _ _ | intro _ | dsimp only | split
      | rfl

theorem Keeps.land (h : Keeps level o d) (i : Nat) (mb : Nat) (offset : Nat) (data : List Byte) : Keeps level o (Dev.land d i mb offset data) := by
  unfold Dev.land
  try dsimp only
  repeat' first
    | with_reducible assumption | with_reducible exact h | with_reducible apply Keeps.writeAt
    | with_reducible apply Keeps.setHinge | with_reducible apply Keeps.showHinge | with_reducible apply Keeps.regulate
    | with_reducible apply Keeps.completePackets | with_reducible apply Keeps.ite | with_reducible apply Keeps.ite1
    | with_reducible apply Keeps.ite2 | with_reducible apply Keeps.foldl | with_reducible apply Keeps.foldl_fst
    | with_reducible apply Keeps.foldl_snd | simp only [Keeps.upd] | simp only [Keeps.updMain] | intro _ _ _
    | intro _ _ | intro _ | dsimp only | split | rfl

theorem Keeps.overrunBlock (h : Keeps level o d) (i : Nat) (mb : Nat) : Keeps level o (Dev.overrunBlock d i mb) := by
  unfold Dev.overrunBlock
  try dsimp only
  repeat' first
    | with_reducible assumption | with_reducible exact h | with_reducible apply Keeps.setHinge
    | with_reducible apply Keeps.hngFault | with_reducible apply Keeps.setFlag | with_reducible apply Keeps.ite
    | with_reducible apply Keeps.ite1 | with_reducible apply Keeps.ite2 | with_reducible apply Keeps.foldl
    | with_reducible apply Keeps.foldl_fst | with_reducible apply Keeps.foldl_snd | simp only [Keeps.upd]
    | simp only [Keeps.updMain] | intro _ _ _ | intro _ _ | intro _ | dsimp only | split | rfl

theorem Keeps.hingeBlock (h : Keeps level o d) (i : Nat) (b : List Byte) : Keeps level o (Dev.hingeBlock d i b) := by
  unfold Dev.hingeBlock
  try dsimp only
  repeat' first
    | with_reducible assumption | with_reducible exact h | with_reducible apply Keeps.hngStaleOne
    | with_reducible apply Keeps.hngFault | with_reducible apply Keeps.overrunBlock | with_reducible apply Keeps.land
    | with_reducible apply Keeps.ite | with_reducible apply Keeps.ite1 | with_reducible apply Keeps.ite2
    | with_reducible apply Keeps.foldl | with_reducible apply Keeps.foldl_fst | with_reducible apply Keeps.foldl_snd
    | simp only [Keeps.upd] | simp only [Keeps.updMain] | intro _ _ _ | intro _ _ | intro _ | dsimp only | split | rfl

theorem Keeps.releaseHead (h : Keeps level o d) (i : Nat) (mb : Nat) : Keeps level o (Dev.releaseHead d i mb) := by
  unfold Dev.releaseHead
  try dsimp only
  repeat' first
    | with_reducible assumption | with_reducible exact h | with_reducible apply Keeps.hngFault
    | with_reducible apply Keeps.setFlag | with_reducible apply Keeps.showHinge
    | with_reducible apply Keeps.unregulate | with_reducible apply Keeps.setHinge | with_reducible apply Keeps.ite
    | with_reducible apply Keeps.ite1 | with_reducible apply Keeps.ite2 | with_reducible apply Keeps.foldl
    | with_reducible apply Keeps.foldl_fst | with_reducible apply Keeps.foldl_snd | simp only [Keeps.upd]
    | simp only [Keeps.updMain] | intro _ _ _ | intro _ _ | intro _ | dsimp only | split | rfl

theorem Keeps.residue (h : Keeps level o d)  : Keeps level o (Dev.residue d) := by
  unfold Dev.residue
  try dsimp only
  repeat' first
    | with_reducible assumption | with_reducible exact h | with_reducible apply Keeps.hngFault
    | with_reducible apply Keeps.ite | with_reducible apply Keeps.ite1 | with_reducible apply Keeps.ite2
    | with_reducible apply Keeps.foldl | with_reducible apply Keeps.foldl_fst | with_reducible apply Keeps.foldl_snd
    | simp only [Keeps.upd] | simp only [Keeps.updMain] | intro _ _ _ | intro _ _ | intro _ | dsimp only | split | rfl

theorem Keeps.hingesBegin (h : Keeps level o d)  : Keeps level o (Dev.hingesBegin d) := by
  unfold Dev.hingesBegin
  try dsimp only
  repeat' first
    | with_reducible assumption | with_reducible exact h | with_reducible apply Keeps.ite
    | with_reducible apply Keeps.ite1 | with_reducible apply Keeps.ite2 | with_reducible apply Keeps.foldl
    | with_reducible apply Keeps.foldl_fst | with_reducible apply Keeps.foldl_snd | simp only [Keeps.upd]
    | simp only [Keeps.updMain] | intro _ _ _ | intro _ _ | intro _ | dsimp only | split | rfl

theorem Keeps.emptyHinge (h : Keeps level o d) (i : Nat) : Keeps level o (Dev.emptyHinge d i) := by
  unfold Dev.emptyHinge
  try dsimp only
  repeat' first
    | with_reducible assumption | with_reducible exact h | with_reducible apply Keeps.setHinge
    | with_reducible apply Keeps.tellSender | with_reducible apply Keeps.showHinge | with_reducible apply Keeps.setFld
    | with_reducible apply Keeps.ite | with_reducible apply Keeps.ite1 | with_reducible apply Keeps.ite2
    | with_reducible apply Keeps.foldl | with_reducible apply Keeps.foldl_fst | with_reducible apply Keeps.foldl_snd
    | simp only [Keeps.upd] | simp only [Keeps.updMain] | intro _ _ _ | intro _ _ | intro _ | dsimp only | split | rfl

theorem Keeps.abandonSends (h : Keeps level o d)  : Keeps level o (Dev.abandonSends d) := by
  unfold Dev.abandonSends
  try dsimp only
  repeat' first
    | with_reducible assumption | with_reducible exact h | with_reducible apply Keeps.closeSend
    | with_reducible apply Keeps.ite | with_reducible apply Keeps.ite1 | with_reducible apply Keeps.ite2
    | with_reducible apply Keeps.foldl | with_reducible apply Keeps.foldl_fst | with_reducible apply Keeps.foldl_snd
    | simp only [Keeps.upd] | simp only [Keeps.updMain] | intro _ _ _ | intro _ _ | intro _ | dsimp only | split | rfl

end Sys2Proof.Machine
end

