-- ==== Sys2Proof/Laws/KeepReduce.lean ====
section
/-! SUPPORT. What the operations of Machine/Reduce.lean keep (`Keeps`). -/
set_option Elab.async false
set_option linter.unusedTactic false
set_option linter.unreachableTactic false
set_option linter.unusedSimpArgs false

namespace Sys2Proof.Machine

variable {level : Bool} {o d : Dev}

theorem Keeps.putRed (h : Keeps level o d) (r : RedRun) : Keeps level o (Dev.putRed d r) := by
  unfold Dev.putRed
  try dsimp only
  repeat' first
    | with_reducible assumption | with_reducible exact h | with_reducible apply Keeps.ite
    | with_reducible apply Keeps.ite1 | with_reducible apply Keeps.ite2 | with_reducible apply Keeps.foldl
    | with_reducible apply Keeps.foldl_fst | with_reducible apply Keeps.foldl_snd | simp only [Keeps.upd]
    | simp only [Keeps.updMain] | intro _ _ _ | intro _ _ | intro _ | dsimp only | split | rfl

theorem Keeps.putWords (h : Keeps level o d) (t : Desc) (vs : List Word) : Keeps level o (Dev.putWords d t vs) := by
  unfold Dev.putWords
  try dsimp only
  repeat' first
    | with_reducible assumption | with_reducible exact h | with_reducible apply Keeps.write
    | with_reducible apply Keeps.ite | with_reducible apply Keeps.ite1 | with_reducible apply Keeps.ite2
    | with_reducible apply Keeps.foldl | with_reducible apply Keeps.foldl_fst | with_reducible apply Keeps.foldl_snd
    | simp only [Keeps.upd] | simp only [Keeps.updMain] | intro _ _ _ | intro _ _ | intro _ | dsimp only | split | rfl

theorem Keeps.spoil (h : Keeps level o d) (t : Option Desc) : Keeps level o (Dev.spoil d t) := by
  unfold Dev.spoil
  try dsimp only
  repeat' first
    | with_reducible assumption | with_reducible exact h | with_reducible apply Keeps.leaveOpen
    | with_reducible apply Keeps.ite | with_reducible apply Keeps.ite1 | with_reducible apply Keeps.ite2
    | with_reducible apply Keeps.foldl | with_reducible apply Keeps.foldl_fst | with_reducible apply Keeps.foldl_snd
    | simp only [Keeps.upd] | simp only [Keeps.updMain] | intro _ _ _ | intro _ _ | intro _ | dsimp only | split | rfl

theorem Keeps.endRed (h : Keeps level o d) (r : RedRun) (status : Nat) (peer : Nat) : Keeps level o (Dev.endRed d r status peer) := by
  unfold Dev.endRed
  try dsimp only
  repeat' first
    | with_reducible assumption | with_reducible exact h | with_reducible apply Keeps.putRed
    | with_reducible apply Keeps.spoil | with_reducible apply Keeps.writeAt | with_reducible apply Keeps.addSat
    | with_reducible apply Keeps.notifyCounter | with_reducible apply Keeps.setReg | with_reducible apply Keeps.raise
    | with_reducible apply Keeps.pageFault | with_reducible apply Keeps.bad | with_reducible apply Keeps.record
    | with_reducible apply Keeps.ite | with_reducible apply Keeps.ite1 | with_reducible apply Keeps.ite2
    | with_reducible apply Keeps.foldl | with_reducible apply Keeps.foldl_fst | with_reducible apply Keeps.foldl_snd
    | simp only [Keeps.upd] | simp only [Keeps.updMain] | intro _ _ _ | intro _ _ | intro _ | dsimp only | split | rfl

theorem Keeps.sendRed (h : Keeps level o d) (r : RedRun) (type : Nat) (origin : Nat) (dests : List Nat) (seen : Bool) (body : List Byte) : Keeps level o (Dev.sendRed d r type origin dests seen body) := by
  unfold Dev.sendRed
  try dsimp only
  repeat' first
    | with_reducible assumption | with_reducible exact h | with_reducible apply Keeps.sendControls
    | with_reducible apply Keeps.sendPacket | with_reducible apply Keeps.ite | with_reducible apply Keeps.ite1
    | with_reducible apply Keeps.ite2 | with_reducible apply Keeps.foldl | with_reducible apply Keeps.foldl_fst
    | with_reducible apply Keeps.foldl_snd | simp only [Keeps.upd] | simp only [Keeps.updMain] | intro _ _ _
    | intro _ _ | intro _ | dsimp only | split | rfl

theorem Keeps.writeRed (h : Keeps level o d) (r : RedRun) (out : RedOut) : Keeps level o (Dev.writeRed d r out) := by
  unfold Dev.writeRed
  try dsimp only
  repeat' first
    | with_reducible assumption | with_reducible exact h | with_reducible apply Keeps.addSat
    | with_reducible apply Keeps.putRed | with_reducible apply Keeps.putWords | with_reducible apply Keeps.setLocalNf
    | with_reducible apply Keeps.raise | with_reducible apply Keeps.writeAt | with_reducible apply Keeps.setReg
    | with_reducible apply Keeps.capture | with_reducible apply Keeps.ite | with_reducible apply Keeps.ite1
    | with_reducible apply Keeps.ite2 | with_reducible apply Keeps.foldl | with_reducible apply Keeps.foldl_fst
    | with_reducible apply Keeps.foldl_snd | simp only [Keeps.upd] | simp only [Keeps.updMain] | intro _ _ _
    | intro _ _ | intro _ | dsimp only | split | rfl

theorem Keeps.putResidual (h : Keeps level o d) (t : Option Desc) (src : List (Option (List Word))) : Keeps level o (Dev.putResidual d t src) := by
  unfold Dev.putResidual
  try dsimp only
  repeat' first
    | with_reducible assumption | with_reducible exact h | with_reducible apply Keeps.write
    | with_reducible apply Keeps.ite | with_reducible apply Keeps.ite1 | with_reducible apply Keeps.ite2
    | with_reducible apply Keeps.foldl | with_reducible apply Keeps.foldl_fst | with_reducible apply Keeps.foldl_snd
    | simp only [Keeps.upd] | simp only [Keeps.updMain] | intro _ _ _ | intro _ _ | intro _ | dsimp only | split | rfl

theorem Keeps.runRed (h : Keeps level o d) (a1 : Nat) (a3 : Nat) : Keeps level o (Dev.runRed a1 d a3) := by
  induction a1 generalizing d with
  | zero => exact h
  | succ n ih =>
    unfold Dev.runRed
    try dsimp only
    repeat' first
      | with_reducible assumption | with_reducible apply ih | with_reducible exact h
      | with_reducible apply Keeps.endRed | with_reducible apply Keeps.sendRed
      | with_reducible apply Keeps.putResidual | with_reducible apply Keeps.putRed
      | with_reducible apply Keeps.writeRed | with_reducible apply Keeps.ite | with_reducible apply Keeps.ite1
      | with_reducible apply Keeps.ite2 | with_reducible apply Keeps.foldl | with_reducible apply Keeps.foldl_fst
      | with_reducible apply Keeps.foldl_snd | simp only [Keeps.upd] | simp only [Keeps.updMain] | intro _ _ _
      | intro _ _ | intro _ | dsimp only | split | rfl

theorem Keeps.advanceRed (h : Keeps level o d) (id : Nat) : Keeps level o (Dev.advanceRed d id) := by
  unfold Dev.advanceRed
  try dsimp only
  repeat' first
    | with_reducible assumption | with_reducible exact h | with_reducible apply Keeps.runRed
    | with_reducible apply Keeps.ite | with_reducible apply Keeps.ite1 | with_reducible apply Keeps.ite2
    | with_reducible apply Keeps.foldl | with_reducible apply Keeps.foldl_fst | with_reducible apply Keeps.foldl_snd
    | simp only [Keeps.upd] | simp only [Keeps.updMain] | intro _ _ _ | intro _ _ | intro _ | dsimp only | split | rfl

theorem Keeps.floodRed (h : Keeps level o d) (r : RedRun) (h1 : RedHdr) (fromPkg : Nat) (b : List Byte) : Keeps level o (Dev.floodRed d r h1 fromPkg b) := by
  unfold Dev.floodRed
  try dsimp only
  repeat' first
    | with_reducible assumption | with_reducible exact h | with_reducible apply Keeps.sendPacket
    | with_reducible apply Keeps.ite | with_reducible apply Keeps.ite1 | with_reducible apply Keeps.ite2
    | with_reducible apply Keeps.foldl | with_reducible apply Keeps.foldl_fst | with_reducible apply Keeps.foldl_snd
    | simp only [Keeps.upd] | simp only [Keeps.updMain] | intro _ _ _ | intro _ _ | intro _ | dsimp only | split | rfl

theorem Keeps.takeRed (h : Keeps level o d) (m : Packet) : Keeps level o (Dev.takeRed d m) := by
  unfold Dev.takeRed
  try dsimp only
  repeat' first
    | with_reducible assumption | with_reducible exact h | with_reducible apply Keeps.putRed
    | with_reducible apply Keeps.endRed | with_reducible apply Keeps.advanceRed | with_reducible apply Keeps.floodRed
    | with_reducible apply Keeps.ite | with_reducible apply Keeps.ite1 | with_reducible apply Keeps.ite2
    | with_reducible apply Keeps.foldl | with_reducible apply Keeps.foldl_fst | with_reducible apply Keeps.foldl_snd
    | simp only [Keeps.upd] | simp only [Keeps.updMain] | intro _ _ _ | intro _ _ | intro _ | dsimp only | split | rfl

theorem Keeps.receiveRed (h : Keeps level o d) (m : Packet) : Keeps level o (Dev.receiveRed d m) := by
  unfold Dev.receiveRed
  try dsimp only
  repeat' first
    | with_reducible assumption | with_reducible exact h | with_reducible apply Keeps.takePacket
    | with_reducible apply Keeps.raise | with_reducible apply Keeps.addSat | with_reducible apply Keeps.putRed
    | with_reducible apply Keeps.setFlag | with_reducible apply Keeps.takeRed | with_reducible apply Keeps.ite
    | with_reducible apply Keeps.ite1 | with_reducible apply Keeps.ite2 | with_reducible apply Keeps.foldl
    | with_reducible apply Keeps.foldl_fst | with_reducible apply Keeps.foldl_snd | simp only [Keeps.upd]
    | simp only [Keeps.updMain] | intro _ _ _ | intro _ _ | intro _ | dsimp only | split | rfl

theorem Keeps.loseRed (h : Keeps level o d) (lost : Bool) (id : Nat) : Keeps level o (Dev.loseRed d lost id) := by
  unfold Dev.loseRed
  try dsimp only
  repeat' first
    | with_reducible assumption | with_reducible exact h | with_reducible apply Keeps.endRed
    | with_reducible apply Keeps.ite | with_reducible apply Keeps.ite1 | with_reducible apply Keeps.ite2
    | with_reducible apply Keeps.foldl | with_reducible apply Keeps.foldl_fst | with_reducible apply Keeps.foldl_snd
    | simp only [Keeps.upd] | simp only [Keeps.updMain] | intro _ _ _ | intro _ _ | intro _ | dsimp only | split | rfl

theorem Keeps.keepTally (h : Keeps level o d) (table : Nat) (tally : List Int) : Keeps level o (Dev.keepTally d table tally) := by
  unfold Dev.keepTally
  try dsimp only
  repeat' first
    | with_reducible assumption | with_reducible exact h | with_reducible apply Keeps.ite
    | with_reducible apply Keeps.ite1 | with_reducible apply Keeps.ite2 | with_reducible apply Keeps.foldl
    | with_reducible apply Keeps.foldl_fst | with_reducible apply Keeps.foldl_snd | simp only [Keeps.upd]
    | simp only [Keeps.updMain] | intro _ _ _ | intro _ _ | intro _ | dsimp only | split | rfl

theorem Keeps.redFinding (h : Keeps level o d) (c : Decoded) (r : ReduceCmd) (agrees : Bool) (vs : List Word) : Keeps level o (Dev.redFinding d c r agrees vs) := by
  unfold Dev.redFinding
  try dsimp only
  repeat' first
    | with_reducible assumption | with_reducible exact h | with_reducible apply Keeps.setLocalNf
    | with_reducible apply Keeps.addSat | with_reducible apply Keeps.setReg | with_reducible apply Keeps.setPair
    | with_reducible apply Keeps.record | with_reducible apply Keeps.ite | with_reducible apply Keeps.ite1
    | with_reducible apply Keeps.ite2 | with_reducible apply Keeps.foldl | with_reducible apply Keeps.foldl_fst
    | with_reducible apply Keeps.foldl_snd | simp only [Keeps.upd] | simp only [Keeps.updMain] | intro _ _ _
    | intro _ _ | intro _ | dsimp only | split | rfl

theorem Keeps.offerHeld (h : Keeps level o d)  : Keeps level o (Dev.offerHeld d) := by
  unfold Dev.offerHeld
  try dsimp only
  repeat' first
    | with_reducible assumption | with_reducible exact h | with_reducible apply Keeps.takeRed
    | with_reducible apply Keeps.ite | with_reducible apply Keeps.ite1 | with_reducible apply Keeps.ite2
    | with_reducible apply Keeps.foldl | with_reducible apply Keeps.foldl_fst | with_reducible apply Keeps.foldl_snd
    | simp only [Keeps.upd] | simp only [Keeps.updMain] | intro _ _ _ | intro _ _ | intro _ | dsimp only | split | rfl

theorem Keeps.reduceEffect (h : Keeps level o d) (c : Decoded) (r : ReduceCmd) (lost : Bool) (src : ByteSource) : Keeps level o (Dev.reduceEffect d c r lost src) := by
  unfold Dev.reduceEffect
  try dsimp only
  repeat' first
    | with_reducible assumption | with_reducible exact h | with_reducible apply Keeps.newRun
    | with_reducible apply Keeps.writeAt | with_reducible apply Keeps.keepTally | with_reducible apply Keeps.endRed
    | with_reducible apply Keeps.addSat | with_reducible apply Keeps.redFinding | with_reducible apply Keeps.writeRed
    | with_reducible apply Keeps.offerHeld | with_reducible apply Keeps.advanceRed | with_reducible apply Keeps.ite
    | with_reducible apply Keeps.ite1 | with_reducible apply Keeps.ite2 | with_reducible apply Keeps.foldl
    | with_reducible apply Keeps.foldl_fst | with_reducible apply Keeps.foldl_snd | simp only [Keeps.upd]
    | simp only [Keeps.updMain] | intro _ _ _ | intro _ _ | intro _ | dsimp only | split | rfl

theorem Keeps.drainRed (h : Keeps level o d)  : Keeps level o (Dev.drainRed d) := by
  unfold Dev.drainRed
  try dsimp only
  repeat' first
    | with_reducible assumption | with_reducible exact h | with_reducible apply Keeps.endRed
    | with_reducible apply Keeps.ite | with_reducible apply Keeps.ite1 | with_reducible apply Keeps.ite2
    | with_reducible apply Keeps.foldl | with_reducible apply Keeps.foldl_fst | with_reducible apply Keeps.foldl_snd
    | simp only [Keeps.upd] | simp only [Keeps.updMain] | intro _ _ _ | intro _ _ | intro _ | dsimp only | split | rfl

end Sys2Proof.Machine
end

