-- ==== Sys2Proof/Laws/KeepHelm.lean ====
section
/-! SUPPORT. What the operations of Machine/Helm.lean keep (`Keeps`). -/
set_option Elab.async false
set_option linter.unusedTactic false
set_option linter.unreachableTactic false
set_option linter.unusedSimpArgs false

namespace Sys2Proof.Machine

variable {level : Bool} {o d : Dev}

theorem Keeps.onLayer (h : Keeps level o d) (layer : Nat) (f : LayerRec → LayerRec) : Keeps level o (Dev.onLayer d layer f) := by
  unfold Dev.onLayer
  try dsimp only
  repeat' first
    | with_reducible assumption | with_reducible exact h | with_reducible apply Keeps.ite
    | with_reducible apply Keeps.ite1 | with_reducible apply Keeps.ite2 | with_reducible apply Keeps.foldl
    | with_reducible apply Keeps.foldl_fst | with_reducible apply Keeps.foldl_snd | simp only [Keeps.upd]
    | simp only [Keeps.updMain] | intro _ _ _ | intro _ _ | intro _ | dsimp only | split | rfl

theorem Keeps.writeDecay (h : Keeps level o d) (n : Nat) (skip : Bool) (t : Nat) : Keeps level o (Dev.writeDecay d n skip t) := by
  unfold Dev.writeDecay
  try dsimp only
  repeat' first
    | with_reducible assumption | with_reducible exact h | with_reducible apply Keeps.writeAt
    | with_reducible apply Keeps.ite | with_reducible apply Keeps.ite1 | with_reducible apply Keeps.ite2
    | with_reducible apply Keeps.foldl | with_reducible apply Keeps.foldl_fst | with_reducible apply Keeps.foldl_snd
    | simp only [Keeps.upd] | simp only [Keeps.updMain] | intro _ _ _ | intro _ _ | intro _ | dsimp only | split | rfl

theorem Keeps.setSlot (h : Keeps level o d) (i : Nat) (st : Nat) : Keeps level o (Dev.setSlot d i st) := by
  unfold Dev.setSlot
  try dsimp only
  repeat' first
    | with_reducible assumption | with_reducible exact h | with_reducible apply Keeps.setFld
    | with_reducible apply Keeps.ite | with_reducible apply Keeps.ite1 | with_reducible apply Keeps.ite2
    | with_reducible apply Keeps.foldl | with_reducible apply Keeps.foldl_fst | with_reducible apply Keeps.foldl_snd
    | simp only [Keeps.upd] | simp only [Keeps.updMain] | intro _ _ _ | intro _ _ | intro _ | dsimp only | split | rfl

theorem Keeps.endUpdateLeg (h : Keeps level o d)  : Keeps level o (Dev.endUpdateLeg d) := by
  unfold Dev.endUpdateLeg
  try dsimp only
  repeat' first
    | with_reducible assumption | with_reducible exact h | with_reducible apply Keeps.record
    | with_reducible apply Keeps.addWrap | with_reducible apply Keeps.setReg | with_reducible apply Keeps.setSlot
    | with_reducible apply Keeps.ite | with_reducible apply Keeps.ite1 | with_reducible apply Keeps.ite2
    | with_reducible apply Keeps.foldl | with_reducible apply Keeps.foldl_fst | with_reducible apply Keeps.foldl_snd
    | simp only [Keeps.upd] | simp only [Keeps.updMain] | intro _ _ _ | intro _ _ | intro _ | dsimp only | split | rfl

theorem Keeps.ringFix (h : Keeps level o d) (step : Nat) : Keeps level o (Dev.ringFix d step) := by
  unfold Dev.ringFix
  try dsimp only
  repeat' first
    | with_reducible assumption | with_reducible exact h | with_reducible apply Keeps.setSlot
    | with_reducible apply Keeps.setFld | with_reducible apply Keeps.ite | with_reducible apply Keeps.ite1
    | with_reducible apply Keeps.ite2 | with_reducible apply Keeps.foldl | with_reducible apply Keeps.foldl_fst
    | with_reducible apply Keeps.foldl_snd | simp only [Keeps.upd] | simp only [Keeps.updMain] | intro _ _ _
    | intro _ _ | intro _ | dsimp only | split | rfl

theorem Keeps.ringPin (h : Keeps level o d)  : Keeps level o (Dev.ringPin d) := by
  unfold Dev.ringPin
  try dsimp only
  repeat' first
    | with_reducible assumption | with_reducible exact h | with_reducible apply Keeps.setFlag
    | with_reducible apply Keeps.raise | with_reducible apply Keeps.setFld | with_reducible apply Keeps.ite
    | with_reducible apply Keeps.ite1 | with_reducible apply Keeps.ite2 | with_reducible apply Keeps.foldl
    | with_reducible apply Keeps.foldl_fst | with_reducible apply Keeps.foldl_snd | simp only [Keeps.upd]
    | simp only [Keeps.updMain] | intro _ _ _ | intro _ _ | intro _ | dsimp only | split | rfl

theorem Keeps.ringUnpin (h : Keeps level o d)  : Keeps level o (Dev.ringUnpin d) := by
  unfold Dev.ringUnpin
  try dsimp only
  repeat' first
    | with_reducible assumption | with_reducible exact h | with_reducible apply Keeps.setSlot
    | with_reducible apply Keeps.setFlag | with_reducible apply Keeps.ite | with_reducible apply Keeps.ite1
    | with_reducible apply Keeps.ite2 | with_reducible apply Keeps.foldl | with_reducible apply Keeps.foldl_fst
    | with_reducible apply Keeps.foldl_snd | simp only [Keeps.upd] | simp only [Keeps.updMain] | intro _ _ _
    | intro _ _ | intro _ | dsimp only | split | rfl

theorem Keeps.ringRollback (h : Keeps level o d)  : Keeps level o (Dev.ringRollback d) := by
  unfold Dev.ringRollback
  try dsimp only
  repeat' first
    | with_reducible assumption | with_reducible exact h | with_reducible apply Keeps.setSlot
    | with_reducible apply Keeps.ite | with_reducible apply Keeps.ite1 | with_reducible apply Keeps.ite2
    | with_reducible apply Keeps.foldl | with_reducible apply Keeps.foldl_fst | with_reducible apply Keeps.foldl_snd
    | simp only [Keeps.upd] | simp only [Keeps.updMain] | intro _ _ _ | intro _ _ | intro _ | dsimp only | split | rfl

theorem Keeps.helmFail (h : Keeps level o d) (c : Decoded) (layer : Nat) (reason : Nat) : Keeps level o (Dev.helmFail d c layer reason) := by
  unfold Dev.helmFail
  try dsimp only
  repeat' first
    | with_reducible assumption | with_reducible exact h | with_reducible apply Keeps.setReg
    | with_reducible apply Keeps.pageFault | with_reducible apply Keeps.raise | with_reducible apply Keeps.bad
    | with_reducible apply Keeps.record | with_reducible apply Keeps.ite | with_reducible apply Keeps.ite1
    | with_reducible apply Keeps.ite2 | with_reducible apply Keeps.foldl | with_reducible apply Keeps.foldl_fst
    | with_reducible apply Keeps.foldl_snd | simp only [Keeps.upd] | simp only [Keeps.updMain] | intro _ _ _
    | intro _ _ | intro _ | dsimp only | split | rfl

theorem Keeps.setStep (h : Keeps level o d) (h1 : HelmSetCmd) : Keeps level o (Dev.setStep d h1) := by
  unfold Dev.setStep
  try dsimp only
  repeat' first
    | with_reducible assumption | with_reducible exact h | with_reducible apply Keeps.setPair
    | with_reducible apply Keeps.setReg | with_reducible apply Keeps.record | with_reducible apply Keeps.ite
    | with_reducible apply Keeps.ite1 | with_reducible apply Keeps.ite2 | with_reducible apply Keeps.foldl
    | with_reducible apply Keeps.foldl_fst | with_reducible apply Keeps.foldl_snd | simp only [Keeps.upd]
    | simp only [Keeps.updMain] | intro _ _ _ | intro _ _ | intro _ | dsimp only | split | rfl

theorem Keeps.helmSetEffect (h : Keeps level o d) (c : Decoded) (h1 : HelmSetCmd) (lost : Bool) (src : ByteSource) : Keeps level o (Dev.helmSetEffect d c h1 lost src) := by
  unfold Dev.helmSetEffect
  try dsimp only
  repeat' first
    | with_reducible assumption | with_reducible exact h | with_reducible apply Keeps.helmFail
    | with_reducible apply Keeps.setStream | with_reducible apply Keeps.onLayer | with_reducible apply Keeps.writeAt
    | with_reducible apply Keeps.setReg | with_reducible apply Keeps.ite | with_reducible apply Keeps.ite1
    | with_reducible apply Keeps.ite2 | with_reducible apply Keeps.foldl | with_reducible apply Keeps.foldl_fst
    | with_reducible apply Keeps.foldl_snd | simp only [Keeps.upd] | simp only [Keeps.updMain] | intro _ _ _
    | intro _ _ | intro _ | dsimp only | split | rfl

theorem Keeps.writeRange (h : Keeps level o d) (layer : Nat) (off : Nat) (bs : List Byte) : Keeps level o (Dev.writeRange d layer off bs) := by
  unfold Dev.writeRange
  try dsimp only
  repeat' first
    | with_reducible assumption | with_reducible exact h | with_reducible apply Keeps.onLayer
    | with_reducible apply Keeps.writeAt | with_reducible apply Keeps.ite | with_reducible apply Keeps.ite1
    | with_reducible apply Keeps.ite2 | with_reducible apply Keeps.foldl | with_reducible apply Keeps.foldl_fst
    | with_reducible apply Keeps.foldl_snd | simp only [Keeps.upd] | simp only [Keeps.updMain] | intro _ _ _
    | intro _ _ | intro _ | dsimp only | split | rfl

theorem Keeps.openStep (h : Keeps level o d)  : Keeps level o (Dev.openStep d).1 := by
  unfold Dev.openStep
  try dsimp only
  repeat' first
    | with_reducible assumption | with_reducible exact h | with_reducible apply Keeps.setFld
    | with_reducible apply Keeps.setSlot | with_reducible apply Keeps.leaveOpen | with_reducible apply Keeps.raise
    | with_reducible apply Keeps.writeDecay | with_reducible apply Keeps.ite | with_reducible apply Keeps.ite1
    | with_reducible apply Keeps.ite2 | with_reducible apply Keeps.foldl | with_reducible apply Keeps.foldl_fst
    | with_reducible apply Keeps.foldl_snd | simp only [Keeps.upd] | simp only [Keeps.updMain] | intro _ _ _
    | intro _ _ | intro _ | dsimp only | split | rfl

theorem Keeps.updateFail (h : Keeps level o d) (c : Decoded) (u : HelmUpdateCmd) (reason : Nat) (inputs : List Nat) : Keeps level o (Dev.updateFail d c u reason inputs) := by
  unfold Dev.updateFail
  try dsimp only
  repeat' first
    | with_reducible assumption | with_reducible exact h | with_reducible apply Keeps.leaveOpen
    | with_reducible apply Keeps.helmFail | with_reducible apply Keeps.attribute | with_reducible apply Keeps.ite
    | with_reducible apply Keeps.ite1 | with_reducible apply Keeps.ite2 | with_reducible apply Keeps.foldl
    | with_reducible apply Keeps.foldl_fst | with_reducible apply Keeps.foldl_snd | simp only [Keeps.upd]
    | simp only [Keeps.updMain] | intro _ _ _ | intro _ _ | intro _ | dsimp only | split | rfl

theorem Keeps.writeCopy (h : Keeps level o d) (o1 : Origin) (u : HelmUpdateCmd) (touched : List Bool) (w : Matrix) : Keeps level o (Dev.writeCopy d o1 u touched w) := by
  unfold Dev.writeCopy
  try dsimp only
  repeat' first
    | with_reducible assumption | with_reducible exact h | with_reducible apply Keeps.output
    | with_reducible apply Keeps.ite | with_reducible apply Keeps.ite1 | with_reducible apply Keeps.ite2
    | with_reducible apply Keeps.foldl | with_reducible apply Keeps.foldl_fst | with_reducible apply Keeps.foldl_snd
    | simp only [Keeps.upd] | simp only [Keeps.updMain] | intro _ _ _ | intro _ _ | intro _ | dsimp only | split | rfl

theorem Keeps.helmUpdateEffect (h : Keeps level o d) (c : Decoded) (u : HelmUpdateCmd) (lost : Bool) (src : ByteSource) : Keeps level o (Dev.helmUpdateEffect d c u lost src) := by
  unfold Dev.helmUpdateEffect
  try dsimp only
  repeat' first
    | with_reducible assumption | with_reducible exact h | with_reducible apply Keeps.openStep
    | with_reducible apply Keeps.updateFail | with_reducible apply Keeps.writeRange
    | with_reducible apply Keeps.onLayer | with_reducible apply Keeps.writeCopy | with_reducible apply Keeps.ite
    | with_reducible apply Keeps.ite1 | with_reducible apply Keeps.ite2 | with_reducible apply Keeps.foldl
    | with_reducible apply Keeps.foldl_fst | with_reducible apply Keeps.foldl_snd | simp only [Keeps.upd]
    | simp only [Keeps.updMain] | intro _ _ _ | intro _ _ | intro _ | dsimp only | split | rfl

end Sys2Proof.Machine
end

