-- ==== Sys2Proof/Laws/KeepLeg.lean ====
section
/-! SUPPORT. What the operations of Machine/Leg.lean keep (`Keeps`). -/
set_option Elab.async false
set_option linter.unusedTactic false
set_option linter.unreachableTactic false
set_option linter.unusedSimpArgs false

namespace Sys2Proof.Machine

variable {level : Bool} {o d : Dev}

theorem Keeps.stall (h : Keeps level o d)  : Keeps level o (Dev.stall d) := by
  unfold Dev.stall
  try dsimp only
  repeat' first
    | with_reducible assumption | with_reducible exact h | with_reducible apply Keeps.raise
    | with_reducible apply Keeps.addSat | with_reducible apply Keeps.setFlag | with_reducible apply Keeps.ite
    | with_reducible apply Keeps.ite1 | with_reducible apply Keeps.ite2 | with_reducible apply Keeps.foldl
    | with_reducible apply Keeps.foldl_fst | with_reducible apply Keeps.foldl_snd | simp only [Keeps.upd]
    | simp only [Keeps.updMain] | intro _ _ _ | intro _ _ | intro _ | dsimp only | split | rfl

theorem Keeps.endStall (h : Keeps level o d)  : Keeps level o (Dev.endStall d) := by
  unfold Dev.endStall
  try dsimp only
  repeat' first
    | with_reducible assumption | with_reducible exact h | with_reducible apply Keeps.raiseTo
    | with_reducible apply Keeps.setFlag | with_reducible apply Keeps.ite | with_reducible apply Keeps.ite1
    | with_reducible apply Keeps.ite2 | with_reducible apply Keeps.foldl | with_reducible apply Keeps.foldl_fst
    | with_reducible apply Keeps.foldl_snd | simp only [Keeps.upd] | simp only [Keeps.updMain] | intro _ _ _
    | intro _ _ | intro _ | dsimp only | split | rfl

theorem Keeps.sealSegment (h : Keeps level o d) (n : Nat) : Keeps level o (Dev.sealSegment d n) := by
  unfold Dev.sealSegment
  try dsimp only
  repeat' first
    | with_reducible assumption | with_reducible exact h | with_reducible apply Keeps.sign
    | with_reducible apply Keeps.record | with_reducible apply Keeps.setReg | with_reducible apply Keeps.raise
    | with_reducible apply Keeps.ite | with_reducible apply Keeps.ite1 | with_reducible apply Keeps.ite2
    | with_reducible apply Keeps.foldl | with_reducible apply Keeps.foldl_fst | with_reducible apply Keeps.foldl_snd
    | simp only [Keeps.upd] | simp only [Keeps.updMain] | intro _ _ _ | intro _ _ | intro _ | dsimp only | split | rfl

theorem Keeps.startJob (h : Keeps level o d) (n : Nat) : Keeps level o (Dev.startJob d n) := by
  unfold Dev.startJob
  try dsimp only
  repeat' first
    | with_reducible assumption | with_reducible exact h | with_reducible apply Keeps.setPair
    | with_reducible apply Keeps.record | with_reducible apply Keeps.ite | with_reducible apply Keeps.ite1
    | with_reducible apply Keeps.ite2 | with_reducible apply Keeps.foldl | with_reducible apply Keeps.foldl_fst
    | with_reducible apply Keeps.foldl_snd | simp only [Keeps.upd] | simp only [Keeps.updMain] | intro _ _ _
    | intro _ _ | intro _ | dsimp only | split | rfl

theorem Keeps.openStepRecords (h : Keeps level o d) (n : Nat) : Keeps level o (Dev.openStepRecords d n) := by
  unfold Dev.openStepRecords
  try dsimp only
  repeat' first
    | with_reducible assumption | with_reducible exact h | with_reducible apply Keeps.ite
    | with_reducible apply Keeps.ite1 | with_reducible apply Keeps.ite2 | with_reducible apply Keeps.foldl
    | with_reducible apply Keeps.foldl_fst | with_reducible apply Keeps.foldl_snd | simp only [Keeps.upd]
    | simp only [Keeps.updMain] | intro _ _ _ | intro _ _ | intro _ | dsimp only | split | rfl

theorem Keeps.freshStep (h : Keeps level o d) (n : Nat) : Keeps level o (Dev.freshStep d n) := by
  unfold Dev.freshStep
  try dsimp only
  repeat' first
    | with_reducible assumption | with_reducible exact h | with_reducible apply Keeps.setFlag
    | with_reducible apply Keeps.hingesBegin | with_reducible apply Keeps.ite | with_reducible apply Keeps.ite1
    | with_reducible apply Keeps.ite2 | with_reducible apply Keeps.foldl | with_reducible apply Keeps.foldl_fst
    | with_reducible apply Keeps.foldl_snd | simp only [Keeps.upd] | simp only [Keeps.updMain] | intro _ _ _
    | intro _ _ | intro _ | dsimp only | split | rfl

theorem Keeps.ingest (h : Keeps level o d) (n : Nat) : Keeps level o (Dev.ingest d n) := by
  unfold Dev.ingest
  try dsimp only
  repeat' first
    | with_reducible assumption | with_reducible exact h | with_reducible apply Keeps.rescaleAll
    | with_reducible apply Keeps.setReg | with_reducible apply Keeps.ite | with_reducible apply Keeps.ite1
    | with_reducible apply Keeps.ite2 | with_reducible apply Keeps.foldl | with_reducible apply Keeps.foldl_fst
    | with_reducible apply Keeps.foldl_snd | simp only [Keeps.upd] | simp only [Keeps.updMain] | intro _ _ _
    | intro _ _ | intro _ | dsimp only | split | rfl

theorem Keeps.endRerun (h : Keeps level o d) (n : Nat) : Keeps level o (Dev.endRerun d n) := by
  unfold Dev.endRerun
  try dsimp only
  repeat' first
    | with_reducible assumption | with_reducible exact h | with_reducible apply Keeps.ite
    | with_reducible apply Keeps.ite1 | with_reducible apply Keeps.ite2 | with_reducible apply Keeps.foldl
    | with_reducible apply Keeps.foldl_fst | with_reducible apply Keeps.foldl_snd | simp only [Keeps.upd]
    | simp only [Keeps.updMain] | intro _ _ _ | intro _ _ | intro _ | dsimp only | split | rfl

theorem Keeps.beginStep (h : Keeps level o d) (n : Nat) (leg : Nat) : Keeps level o (Dev.beginStep d n leg) := by
  unfold Dev.beginStep
  try dsimp only
  repeat' first
    | with_reducible assumption | with_reducible exact h | with_reducible apply Keeps.freshStep
    | with_reducible apply Keeps.openStepRecords | with_reducible apply Keeps.endRerun
    | with_reducible apply Keeps.ingest | with_reducible apply Keeps.record | with_reducible apply Keeps.ite
    | with_reducible apply Keeps.ite1 | with_reducible apply Keeps.ite2 | with_reducible apply Keeps.foldl
    | with_reducible apply Keeps.foldl_fst | with_reducible apply Keeps.foldl_snd | simp only [Keeps.upd]
    | simp only [Keeps.updMain] | intro _ _ _ | intro _ _ | intro _ | dsimp only | split | rfl

theorem Keeps.closeDigests (h : Keeps level o d) (n : Nat) : Keeps level o (Dev.closeDigests d n) := by
  unfold Dev.closeDigests
  try dsimp only
  repeat' first
    | with_reducible assumption | with_reducible exact h | with_reducible apply Keeps.ite
    | with_reducible apply Keeps.ite1 | with_reducible apply Keeps.ite2 | with_reducible apply Keeps.foldl
    | with_reducible apply Keeps.foldl_fst | with_reducible apply Keeps.foldl_snd | simp only [Keeps.upd]
    | simp only [Keeps.updMain] | intro _ _ _ | intro _ _ | intro _ | dsimp only | split | rfl

theorem Keeps.turnLeg (h : Keeps level o d) (r : LegRun) : Keeps level o (Dev.turnLeg d r) := by
  unfold Dev.turnLeg
  try dsimp only
  repeat' first
    | with_reducible assumption | with_reducible exact h | with_reducible apply Keeps.beginStep
    | with_reducible apply Keeps.residue | with_reducible apply Keeps.closeStep
    | with_reducible apply Keeps.endUpdateLeg | with_reducible apply Keeps.ite | with_reducible apply Keeps.ite1
    | with_reducible apply Keeps.ite2 | with_reducible apply Keeps.foldl | with_reducible apply Keeps.foldl_fst
    | with_reducible apply Keeps.foldl_snd | simp only [Keeps.upd] | simp only [Keeps.updMain] | intro _ _ _
    | intro _ _ | intro _ | dsimp only | split | rfl

theorem Keeps.listRecords (h : Keeps false o d) (leg : Nat) : Keeps false o (Dev.listRecords d leg) := by
  unfold Dev.listRecords
  try dsimp only
  repeat' first
    | with_reducible assumption | with_reducible exact h | with_reducible apply Keeps.record
    | with_reducible apply Keeps.setStreamFree | with_reducible apply Keeps.ite | with_reducible apply Keeps.ite1
    | with_reducible apply Keeps.ite2 | with_reducible apply Keeps.foldl | with_reducible apply Keeps.foldl_fst
    | with_reducible apply Keeps.foldl_snd | simp only [Keeps.upd] | simp only [Keeps.updFree]
    | simp only [Keeps.updMain] | intro _ _ _ | intro _ _ | intro _ | dsimp only | split | rfl

theorem Keeps.finishLeg (h : Keeps false o d) (c : Decoded) (r : LegRun) : Keeps false o (Dev.finishLeg d c r) := by
  unfold Dev.finishLeg
  try dsimp only
  repeat' first
    | with_reducible assumption | with_reducible exact h | with_reducible apply Keeps.raise
    | with_reducible apply Keeps.raiseTo | with_reducible apply Keeps.turnLeg | with_reducible apply Keeps.startJob
    | with_reducible apply Keeps.record | with_reducible apply Keeps.listRecords | with_reducible apply Keeps.complete
    | with_reducible apply Keeps.closeDigests | with_reducible apply Keeps.sealSegment
    | with_reducible apply Keeps.runPosts | with_reducible apply Keeps.settle | with_reducible apply Keeps.ite
    | with_reducible apply Keeps.ite1 | with_reducible apply Keeps.ite2 | with_reducible apply Keeps.foldl
    | with_reducible apply Keeps.foldl_fst | with_reducible apply Keeps.foldl_snd | simp only [Keeps.upd]
    | simp only [Keeps.updFree] | simp only [Keeps.updMain] | intro _ _ _ | intro _ _ | intro _ | dsimp only | split
    | rfl

theorem Keeps.legDone (h : Keeps false o d) (c : Decoded) (r : LegRun) : Keeps false o (Dev.legDone d c r) := by
  unfold Dev.legDone
  try dsimp only
  repeat' first
    | with_reducible assumption | with_reducible exact h | with_reducible apply Keeps.rejectRun
    | with_reducible apply Keeps.finishLeg | with_reducible apply Keeps.ite | with_reducible apply Keeps.ite1
    | with_reducible apply Keeps.ite2 | with_reducible apply Keeps.foldl | with_reducible apply Keeps.foldl_fst
    | with_reducible apply Keeps.foldl_snd | simp only [Keeps.upd] | simp only [Keeps.updFree]
    | simp only [Keeps.updMain] | intro _ _ _ | intro _ _ | intro _ | dsimp only | split | rfl

theorem Keeps.legMismatch (h : Keeps false o d) (c : Decoded) (peer : Nat) : Keeps false o (Dev.legMismatch d c peer) := by
  unfold Dev.legMismatch
  try dsimp only
  repeat' first
    | with_reducible assumption | with_reducible exact h | with_reducible apply Keeps.setReg
    | with_reducible apply Keeps.pageFault | with_reducible apply Keeps.raise | with_reducible apply Keeps.rejectRun
    | with_reducible apply Keeps.ite | with_reducible apply Keeps.ite1 | with_reducible apply Keeps.ite2
    | with_reducible apply Keeps.foldl | with_reducible apply Keeps.foldl_fst | with_reducible apply Keeps.foldl_snd
    | simp only [Keeps.upd] | simp only [Keeps.updFree] | simp only [Keeps.updMain] | intro _ _ _ | intro _ _
    | intro _ | dsimp only | split | rfl

theorem Keeps.dropBarriers (h : Keeps level o d)  : Keeps level o (Dev.dropBarriers d) := by
  unfold Dev.dropBarriers
  try dsimp only
  repeat' first
    | with_reducible assumption | with_reducible exact h | with_reducible apply Keeps.stray
    | with_reducible apply Keeps.ite | with_reducible apply Keeps.ite1 | with_reducible apply Keeps.ite2
    | with_reducible apply Keeps.foldl | with_reducible apply Keeps.foldl_fst | with_reducible apply Keeps.foldl_snd
    | simp only [Keeps.upd] | simp only [Keeps.updMain] | intro _ _ _ | intro _ _ | intro _ | dsimp only | split | rfl

theorem Keeps.runBarrier (h : Keeps false o d)  : Keeps false o (Dev.runBarrier d) := by
  unfold Dev.runBarrier
  try dsimp only
  repeat' first
    | with_reducible assumption | with_reducible exact h | with_reducible apply Keeps.legMismatch
    | with_reducible apply Keeps.legDone | with_reducible apply Keeps.sendControls
    | with_reducible apply Keeps.sendControl | with_reducible apply Keeps.ite | with_reducible apply Keeps.ite1
    | with_reducible apply Keeps.ite2 | with_reducible apply Keeps.foldl | with_reducible apply Keeps.foldl_fst
    | with_reducible apply Keeps.foldl_snd | simp only [Keeps.upd] | simp only [Keeps.updFree]
    | simp only [Keeps.updMain] | intro _ _ _ | intro _ _ | intro _ | dsimp only | split | rfl

theorem Keeps.switchCharts (h : Keeps level o d) (l : LegCmd) : Keeps level o (Dev.switchCharts d l) := by
  unfold Dev.switchCharts
  try dsimp only
  repeat' first
    | with_reducible assumption | with_reducible exact h | with_reducible apply Keeps.setReg
    | with_reducible apply Keeps.setPair | with_reducible apply Keeps.ite | with_reducible apply Keeps.ite1
    | with_reducible apply Keeps.ite2 | with_reducible apply Keeps.foldl | with_reducible apply Keeps.foldl_fst
    | with_reducible apply Keeps.foldl_snd | simp only [Keeps.upd] | simp only [Keeps.updMain] | intro _ _ _
    | intro _ _ | intro _ | dsimp only | split | rfl

theorem Keeps.toBarrier (h : Keeps level o d) (r : LegRun) : Keeps level o (Dev.toBarrier d r) := Keeps.upd.mpr h

end Sys2Proof.Machine
end

