-- ==== Sys2Proof/Laws/KeepVotes.lean ====
section
/-! SUPPORT. What the operations of Machine/Votes.lean keep (`Keeps`). -/
set_option Elab.async false
set_option linter.unusedTactic false
set_option linter.unreachableTactic false
set_option linter.unusedSimpArgs false

namespace Sys2Proof.Machine

variable {level : Bool} {o d : Dev}

theorem Keeps.lessProbation (h : Keeps level o d) (f : Fuse) : Keeps level o (Dev.lessProbation d f) := by
  unfold Dev.lessProbation
  try dsimp only
  repeat' first
    | with_reducible assumption | with_reducible exact h | with_reducible apply Keeps.release
    | with_reducible apply Keeps.setCore | with_reducible apply Keeps.ite | with_reducible apply Keeps.ite1
    | with_reducible apply Keeps.ite2 | with_reducible apply Keeps.foldl | with_reducible apply Keeps.foldl_fst
    | with_reducible apply Keeps.foldl_snd | simp only [Keeps.upd] | simp only [Keeps.updMain] | intro _ _ _
    | intro _ _ | intro _ | dsimp only | split | rfl

theorem Keeps.fixStep (h : Keeps level o d) (f : Fuse) (s : Nat) : Keeps level o (Dev.fixStep d f s) := by
  unfold Dev.fixStep
  try dsimp only
  repeat' first
    | with_reducible assumption | with_reducible exact h | with_reducible apply Keeps.raise
    | with_reducible apply Keeps.ringFix | with_reducible apply Keeps.setPair
    | with_reducible apply Keeps.lessProbation | with_reducible apply Keeps.ite | with_reducible apply Keeps.ite1
    | with_reducible apply Keeps.ite2 | with_reducible apply Keeps.foldl | with_reducible apply Keeps.foldl_fst
    | with_reducible apply Keeps.foldl_snd | simp only [Keeps.upd] | simp only [Keeps.updMain] | intro _ _ _
    | intro _ _ | intro _ | dsimp only | split | rfl

theorem Keeps.fixReleased (h : Keeps level o d) (f : Fuse) (a1 : Nat) : Keeps level o (Dev.fixReleased f a1 d) := by
  induction a1 generalizing d with
  | zero => exact h
  | succ n ih =>
    unfold Dev.fixReleased
    try dsimp only
    repeat' first
      | with_reducible assumption | with_reducible apply ih | with_reducible exact h
      | with_reducible apply Keeps.fixStep | with_reducible apply Keeps.ite | with_reducible apply Keeps.ite1
      | with_reducible apply Keeps.ite2 | with_reducible apply Keeps.foldl | with_reducible apply Keeps.foldl_fst
      | with_reducible apply Keeps.foldl_snd | simp only [Keeps.upd] | simp only [Keeps.updMain] | intro _ _ _
      | intro _ _ | intro _ | dsimp only | split | rfl

theorem Keeps.skSend (h : Keeps level o d) (dest : Nat) (type : Nat) (code : Nat) (dir : Nat) (suspect : Nat) (step : Nat) (x : Digests) : Keeps level o (Dev.skSend d dest type code dir suspect step x) := by
  unfold Dev.skSend
  try dsimp only
  repeat' first
    | with_reducible assumption | with_reducible exact h | with_reducible apply Keeps.sendControl
    | with_reducible apply Keeps.ite | with_reducible apply Keeps.ite1 | with_reducible apply Keeps.ite2
    | with_reducible apply Keeps.foldl | with_reducible apply Keeps.foldl_fst | with_reducible apply Keeps.foldl_snd
    | simp only [Keeps.upd] | simp only [Keeps.updMain] | intro _ _ _ | intro _ _ | intro _ | dsimp only | split | rfl

theorem Keeps.putRequest (h : Keeps level o d) (r : SkRequest) : Keeps level o (Dev.putRequest d r) := by
  unfold Dev.putRequest
  try dsimp only
  repeat' first
    | with_reducible assumption | with_reducible exact h | with_reducible apply Keeps.ite
    | with_reducible apply Keeps.ite1 | with_reducible apply Keeps.ite2 | with_reducible apply Keeps.foldl
    | with_reducible apply Keeps.foldl_fst | with_reducible apply Keeps.foldl_snd | simp only [Keeps.upd]
    | simp only [Keeps.updMain] | intro _ _ _ | intro _ _ | intro _ | dsimp only | split | rfl

theorem Keeps.dropRequest (h : Keeps level o d) (step : Nat) : Keeps level o (Dev.dropRequest d step) := by
  unfold Dev.dropRequest
  try dsimp only
  repeat' first
    | with_reducible assumption | with_reducible exact h | with_reducible apply Keeps.ite
    | with_reducible apply Keeps.ite1 | with_reducible apply Keeps.ite2 | with_reducible apply Keeps.foldl
    | with_reducible apply Keeps.foldl_fst | with_reducible apply Keeps.foldl_snd | simp only [Keeps.upd]
    | simp only [Keeps.updMain] | intro _ _ _ | intro _ _ | intro _ | dsimp only | split | rfl

theorem Keeps.sendDecision (h : Keeps level o d) (step : Nat) (code : Nat) : Keeps level o (Dev.sendDecision d step code) := by
  unfold Dev.sendDecision
  try dsimp only
  repeat' first
    | with_reducible assumption | with_reducible exact h | with_reducible apply Keeps.skSend
    | with_reducible apply Keeps.ite | with_reducible apply Keeps.ite1 | with_reducible apply Keeps.ite2
    | with_reducible apply Keeps.foldl | with_reducible apply Keeps.foldl_fst | with_reducible apply Keeps.foldl_snd
    | simp only [Keeps.upd] | simp only [Keeps.updMain] | intro _ _ _ | intro _ _ | intro _ | dsimp only | split | rfl

theorem Keeps.decideFix (h : Keeps level o d) (step : Nat) : Keeps level o (Dev.decideFix d step) := by
  unfold Dev.decideFix
  try dsimp only
  repeat' first
    | with_reducible assumption | with_reducible exact h | with_reducible apply Keeps.dropRequest
    | with_reducible apply Keeps.sendDecision | with_reducible apply Keeps.ite | with_reducible apply Keeps.ite1
    | with_reducible apply Keeps.ite2 | with_reducible apply Keeps.foldl | with_reducible apply Keeps.foldl_fst
    | with_reducible apply Keeps.foldl_snd | simp only [Keeps.upd] | simp only [Keeps.updMain] | intro _ _ _
    | intro _ _ | intro _ | dsimp only | split | rfl

theorem Keeps.decideRollback (h : Keeps level o d) (r : SkRequest) (cause : Nat) : Keeps level o (Dev.decideRollback d r cause) := by
  unfold Dev.decideRollback
  try dsimp only
  repeat' first
    | with_reducible assumption | with_reducible exact h | with_reducible apply Keeps.sendDecision
    | with_reducible apply Keeps.putRequest | with_reducible apply Keeps.ite | with_reducible apply Keeps.ite1
    | with_reducible apply Keeps.ite2 | with_reducible apply Keeps.foldl | with_reducible apply Keeps.foldl_fst
    | with_reducible apply Keeps.foldl_snd | simp only [Keeps.upd] | simp only [Keeps.updMain] | intro _ _ _
    | intro _ _ | intro _ | dsimp only | split | rfl

theorem Keeps.reportFaulty (h : Keeps level o d) (package : Nat) (step : Nat) : Keeps level o (Dev.reportFaulty d package step) := by
  unfold Dev.reportFaulty
  try dsimp only
  repeat' first
    | with_reducible assumption | with_reducible exact h | with_reducible apply Keeps.record
    | with_reducible apply Keeps.ite | with_reducible apply Keeps.ite1 | with_reducible apply Keeps.ite2
    | with_reducible apply Keeps.foldl | with_reducible apply Keeps.foldl_fst | with_reducible apply Keeps.foldl_snd
    | simp only [Keeps.upd] | simp only [Keeps.updMain] | intro _ _ _ | intro _ _ | intro _ | dsimp only | split | rfl

theorem Keeps.requestKey (h : Keeps level o d) (step : Nat) : Keeps level o (Dev.requestKey d step) := by
  unfold Dev.requestKey
  try dsimp only
  repeat' first
    | with_reducible assumption | with_reducible exact h | with_reducible apply Keeps.skSend
    | with_reducible apply Keeps.decideRollback | with_reducible apply Keeps.ite | with_reducible apply Keeps.ite1
    | with_reducible apply Keeps.ite2 | with_reducible apply Keeps.foldl | with_reducible apply Keeps.foldl_fst
    | with_reducible apply Keeps.foldl_snd | simp only [Keeps.upd] | simp only [Keeps.updMain] | intro _ _ _
    | intro _ _ | intro _ | dsimp only | split | rfl

theorem wf_voidRecords {m : Mem} (h : m.wf = true) (first hi n x : Nat) : (voidRecords first hi n m x).wf = true := by
  induction n generalizing m x with
  | zero => exact h
  | succ n ih =>
    unfold voidRecords
    split
    · exact h
    · apply ih
      split
      · exact Mem.wf_setByte h _ _
      · exact h

theorem Keeps.logRollback (h : Keeps level o d) (cause : Nat) : Keeps level o (Dev.logRollback d cause) := by
  unfold Dev.logRollback
  dsimp only
  refine Keeps.ite (Keeps.upd.mpr ?_) (Keeps.raise (Keeps.upd.mpr ?_) _ _) <;>
    exact Keeps.record (h.memory fun x => wf_voidRecords x _ _ _ _) _

theorem Keeps.orderRollback (h : Keeps level o d) (cause : Nat) : Keeps level o (Dev.orderRollback d cause) := by
  unfold Dev.orderRollback
  try dsimp only
  repeat' first
    | with_reducible assumption | with_reducible exact h | with_reducible apply Keeps.logRollback
    | with_reducible apply Keeps.setFlag | with_reducible apply Keeps.raise | with_reducible apply Keeps.addSat
    | with_reducible apply Keeps.skSend | with_reducible apply Keeps.ite | with_reducible apply Keeps.ite1
    | with_reducible apply Keeps.ite2 | with_reducible apply Keeps.foldl | with_reducible apply Keeps.foldl_fst
    | with_reducible apply Keeps.foldl_snd | simp only [Keeps.upd] | simp only [Keeps.updMain] | intro _ _ _
    | intro _ _ | intro _ | dsimp only | split | rfl

theorem Keeps.fixDone (h : Keeps false o d) (c : Decoded) (n : Nat) (vote : Nat) (cause : Nat) : Keeps false o (Dev.fixDone d c n vote cause) := by
  unfold Dev.fixDone
  try dsimp only
  repeat' first
    | with_reducible assumption | with_reducible exact h | with_reducible apply Keeps.record
    | with_reducible apply Keeps.ringPin | with_reducible apply Keeps.settle | with_reducible apply Keeps.complete
    | with_reducible apply Keeps.ite | with_reducible apply Keeps.ite1 | with_reducible apply Keeps.ite2
    | with_reducible apply Keeps.foldl | with_reducible apply Keeps.foldl_fst | with_reducible apply Keeps.foldl_snd
    | simp only [Keeps.upd] | simp only [Keeps.updFree] | simp only [Keeps.updMain] | intro _ _ _ | intro _ _
    | intro _ | dsimp only | split | rfl

theorem Keeps.showVote (h : Keeps level o d) (n : Nat) (v : Vote) : Keeps level o (Dev.showVote d n v) := by
  unfold Dev.showVote
  try dsimp only
  repeat' first
    | with_reducible assumption | with_reducible exact h | with_reducible apply Keeps.addSat
    | with_reducible apply Keeps.setFld | with_reducible apply Keeps.raise | with_reducible apply Keeps.ite
    | with_reducible apply Keeps.ite1 | with_reducible apply Keeps.ite2 | with_reducible apply Keeps.foldl
    | with_reducible apply Keeps.foldl_fst | with_reducible apply Keeps.foldl_snd | simp only [Keeps.upd]
    | simp only [Keeps.updMain] | intro _ _ _ | intro _ _ | intro _ | dsimp only | split | rfl

theorem Keeps.applyVote (h : Keeps false o d) (f : Fuse) (c : Decoded) (n : Nat) (vote : Nat) (v : Vote) : Keeps false o (Dev.applyVote d f c n vote v) := by
  unfold Dev.applyVote
  try dsimp only
  repeat' first
    | with_reducible assumption | with_reducible exact h | with_reducible apply Keeps.showVote
    | with_reducible apply Keeps.fixStep | with_reducible apply Keeps.orderRollback
    | with_reducible apply Keeps.fixDone | with_reducible apply Keeps.requestKey | with_reducible apply Keeps.ite
    | with_reducible apply Keeps.ite1 | with_reducible apply Keeps.ite2 | with_reducible apply Keeps.foldl
    | with_reducible apply Keeps.foldl_fst | with_reducible apply Keeps.foldl_snd | simp only [Keeps.upd]
    | simp only [Keeps.updFree] | simp only [Keeps.updMain] | intro _ _ _ | intro _ _ | intro _ | dsimp only | split
    | rfl

theorem Keeps.fixMismatch (h : Keeps false o d) (c : Decoded) (peer : Nat) : Keeps false o (Dev.fixMismatch d c peer) := by
  unfold Dev.fixMismatch
  try dsimp only
  repeat' first
    | with_reducible assumption | with_reducible exact h | with_reducible apply Keeps.legMismatch
    | with_reducible apply Keeps.ite | with_reducible apply Keeps.ite1 | with_reducible apply Keeps.ite2
    | with_reducible apply Keeps.foldl | with_reducible apply Keeps.foldl_fst | with_reducible apply Keeps.foldl_snd
    | simp only [Keeps.upd] | simp only [Keeps.updFree] | simp only [Keeps.updMain] | intro _ _ _ | intro _ _
    | intro _ | dsimp only | split | rfl

theorem Keeps.runVote (h : Keeps false o d) (f : Fuse) : Keeps false o (Dev.runVote d f) := by
  unfold Dev.runVote
  try dsimp only
  repeat' first
    | with_reducible assumption | with_reducible exact h | with_reducible apply Keeps.fixMismatch
    | with_reducible apply Keeps.applyVote | with_reducible apply Keeps.sendControls
    | with_reducible apply Keeps.sendControl | with_reducible apply Keeps.ite | with_reducible apply Keeps.ite1
    | with_reducible apply Keeps.ite2 | with_reducible apply Keeps.foldl | with_reducible apply Keeps.foldl_fst
    | with_reducible apply Keeps.foldl_snd | simp only [Keeps.upd] | simp only [Keeps.updFree]
    | simp only [Keeps.updMain] | intro _ _ _ | intro _ _ | intro _ | dsimp only | split | rfl

theorem Keeps.replayEnds (h : Keeps level o d) (n : Nat) : Keeps level o (Dev.replayEnds d n) := by
  unfold Dev.replayEnds
  try dsimp only
  repeat' first
    | with_reducible assumption | with_reducible exact h | with_reducible apply Keeps.skSend
    | with_reducible apply Keeps.decideFix | with_reducible apply Keeps.reportFaulty
    | with_reducible apply Keeps.decideRollback | with_reducible apply Keeps.ite | with_reducible apply Keeps.ite1
    | with_reducible apply Keeps.ite2 | with_reducible apply Keeps.foldl | with_reducible apply Keeps.foldl_fst
    | with_reducible apply Keeps.foldl_snd | simp only [Keeps.upd] | simp only [Keeps.updMain] | intro _ _ _
    | intro _ _ | intro _ | dsimp only | split | rfl

theorem Keeps.takeRequest (h : Keeps level o d) (m : SkMsg) : Keeps level o (Dev.takeRequest d m) := by
  unfold Dev.takeRequest
  try dsimp only
  repeat' first
    | with_reducible assumption | with_reducible exact h | with_reducible apply Keeps.raise
    | with_reducible apply Keeps.skSend | with_reducible apply Keeps.ite | with_reducible apply Keeps.ite1
    | with_reducible apply Keeps.ite2 | with_reducible apply Keeps.foldl | with_reducible apply Keeps.foldl_fst
    | with_reducible apply Keeps.foldl_snd | simp only [Keeps.upd] | simp only [Keeps.updMain] | intro _ _ _
    | intro _ _ | intro _ | dsimp only | split | rfl

theorem Keeps.aboutRequest (h : Keeps level o d) (m : SkMsg) (f : SkRequest → Dev) (hf : ∀ y0, Keeps level o (f y0)) : Keeps level o (Dev.aboutRequest d m f) := by
  unfold Dev.aboutRequest
  try dsimp only
  repeat' first
    | with_reducible assumption | with_reducible exact h | with_reducible apply Keeps.stray | with_reducible apply hf
    | with_reducible apply Keeps.ite | with_reducible apply Keeps.ite1 | with_reducible apply Keeps.ite2
    | with_reducible apply Keeps.foldl | with_reducible apply Keeps.foldl_fst | with_reducible apply Keeps.foldl_snd
    | simp only [Keeps.upd] | simp only [Keeps.updMain] | intro _ _ _ | intro _ _ | intro _ | dsimp only | split | rfl

theorem Keeps.decisionCause (h : Keeps level o d) (m : SkMsg) : Keeps level o (Dev.decisionCause d m).2 := by
  unfold Dev.decisionCause
  try dsimp only
  repeat' first
    | with_reducible assumption | with_reducible exact h | with_reducible apply Keeps.drawWord
    | with_reducible apply Keeps.ite | with_reducible apply Keeps.ite1 | with_reducible apply Keeps.ite2
    | with_reducible apply Keeps.foldl | with_reducible apply Keeps.foldl_fst | with_reducible apply Keeps.foldl_snd
    | simp only [Keeps.upd] | simp only [Keeps.updMain] | intro _ _ _ | intro _ _ | intro _ | dsimp only | split | rfl

theorem Keeps.endHold (h : Keeps level o d) (m : SkMsg) : Keeps level o (Dev.endHold d m) := by
  unfold Dev.endHold
  try dsimp only
  repeat' first
    | with_reducible assumption | with_reducible exact h | with_reducible apply Keeps.setFlag
    | with_reducible apply Keeps.ite | with_reducible apply Keeps.ite1 | with_reducible apply Keeps.ite2
    | with_reducible apply Keeps.foldl | with_reducible apply Keeps.foldl_fst | with_reducible apply Keeps.foldl_snd
    | simp only [Keeps.upd] | simp only [Keeps.updMain] | intro _ _ _ | intro _ _ | intro _ | dsimp only | split | rfl

theorem Keeps.awaitLess (h : Keeps level o d) (step : Nat) : Keeps level o (Dev.awaitLess d step) := by
  unfold Dev.awaitLess
  try dsimp only
  repeat' first
    | with_reducible assumption | with_reducible exact h | with_reducible apply Keeps.ite
    | with_reducible apply Keeps.ite1 | with_reducible apply Keeps.ite2 | with_reducible apply Keeps.foldl
    | with_reducible apply Keeps.foldl_fst | with_reducible apply Keeps.foldl_snd | simp only [Keeps.upd]
    | simp only [Keeps.updMain] | intro _ _ _ | intro _ _ | intro _ | dsimp only | split | rfl

theorem Keeps.applyDecision (h : Keeps level o d) (f : Fuse) (m : SkMsg) : Keeps level o (Dev.applyDecision d f m) := by
  unfold Dev.applyDecision
  try dsimp only
  repeat' first
    | with_reducible assumption | with_reducible exact h | with_reducible apply Keeps.raise
    | with_reducible apply Keeps.fixReleased | with_reducible apply Keeps.awaitLess
    | with_reducible apply Keeps.endHold | with_reducible apply Keeps.decisionCause
    | with_reducible apply Keeps.orderRollback | with_reducible apply Keeps.ite | with_reducible apply Keeps.ite1
    | with_reducible apply Keeps.ite2 | with_reducible apply Keeps.foldl | with_reducible apply Keeps.foldl_fst
    | with_reducible apply Keeps.foldl_snd | simp only [Keeps.upd] | simp only [Keeps.updMain] | intro _ _ _
    | intro _ _ | intro _ | dsimp only | split | rfl

theorem Keeps.takeDecision (h : Keeps level o d) (f : Fuse) (m : SkMsg) : Keeps level o (Dev.takeDecision d f m) := by
  unfold Dev.takeDecision
  try dsimp only
  repeat' first
    | with_reducible assumption | with_reducible exact h | with_reducible apply Keeps.stray
    | with_reducible apply Keeps.applyDecision | with_reducible apply Keeps.sendControls
    | with_reducible apply Keeps.ite | with_reducible apply Keeps.ite1 | with_reducible apply Keeps.ite2
    | with_reducible apply Keeps.foldl | with_reducible apply Keeps.foldl_fst | with_reducible apply Keeps.foldl_snd
    | simp only [Keeps.upd] | simp only [Keeps.updMain] | intro _ _ _ | intro _ _ | intro _ | dsimp only | split | rfl

theorem Keeps.discardReceived (h : Keeps level o d)  : Keeps level o (Dev.discardReceived d) := by
  unfold Dev.discardReceived
  try dsimp only
  repeat' first
    | with_reducible assumption | with_reducible exact h | with_reducible apply Keeps.takePacket
    | with_reducible apply Keeps.ite | with_reducible apply Keeps.ite1 | with_reducible apply Keeps.ite2
    | with_reducible apply Keeps.foldl | with_reducible apply Keeps.foldl_fst | with_reducible apply Keeps.foldl_snd
    | simp only [Keeps.upd] | simp only [Keeps.updMain] | intro _ _ _ | intro _ _ | intro _ | dsimp only | split | rfl

theorem Keeps.flushRound (h : Keeps level o d) (x : Nat × Nat) : Keeps level o (Dev.flushRound d x) := by
  unfold Dev.flushRound
  try dsimp only
  repeat' first
    | with_reducible assumption | with_reducible exact h | with_reducible apply Keeps.setFlag
    | with_reducible apply Keeps.runPosts | with_reducible apply Keeps.moveTo | with_reducible apply Keeps.ite
    | with_reducible apply Keeps.ite1 | with_reducible apply Keeps.ite2 | with_reducible apply Keeps.foldl
    | with_reducible apply Keeps.foldl_fst | with_reducible apply Keeps.foldl_snd | simp only [Keeps.upd]
    | simp only [Keeps.updMain] | intro _ _ _ | intro _ _ | intro _ | dsimp only | split | rfl

theorem Keeps.runFlush (h : Keeps level o d) (a1 : Nat) : Keeps level o (Dev.runFlush a1 d) := by
  induction a1 generalizing d with
  | zero => exact h
  | succ n ih =>
    unfold Dev.runFlush
    try dsimp only
    repeat' first
      | with_reducible assumption | with_reducible apply ih | with_reducible exact h
      | with_reducible apply Keeps.flushRound | with_reducible apply Keeps.sendControls
      | with_reducible apply Keeps.sendControl | with_reducible apply Keeps.ite | with_reducible apply Keeps.ite1
      | with_reducible apply Keeps.ite2 | with_reducible apply Keeps.foldl | with_reducible apply Keeps.foldl_fst
      | with_reducible apply Keeps.foldl_snd | simp only [Keeps.upd] | simp only [Keeps.updMain] | intro _ _ _
      | intro _ _ | intro _ | dsimp only | split | rfl

theorem Keeps.startFlush (h : Keeps level o d)  : Keeps level o (Dev.startFlush d) := by
  unfold Dev.startFlush
  try dsimp only
  repeat' first
    | with_reducible assumption | with_reducible exact h | with_reducible apply Keeps.discardReceived
    | with_reducible apply Keeps.setFlag | with_reducible apply Keeps.moveTo | with_reducible apply Keeps.runFlush
    | with_reducible apply Keeps.ite | with_reducible apply Keeps.ite1 | with_reducible apply Keeps.ite2
    | with_reducible apply Keeps.foldl | with_reducible apply Keeps.foldl_fst | with_reducible apply Keeps.foldl_snd
    | simp only [Keeps.upd] | simp only [Keeps.updMain] | intro _ _ _ | intro _ _ | intro _ | dsimp only | split | rfl

end Sys2Proof.Machine
end

