-- ==== Sys2Proof/Laws/KeepDrains.lean ====
section
/-! SUPPORT. What the operations of Machine/Drains.lean keep (`Keeps`). -/
set_option Elab.async false
set_option linter.unusedTactic false
set_option linter.unreachableTactic false
set_option linter.unusedSimpArgs false

namespace Sys2Proof.Machine

variable {level : Bool} {o d : Dev}

theorem Keeps.endWaiting (h : Keeps false o d) (st : Stream) : Keeps false o (Dev.endWaiting d st) := by
  unfold Dev.endWaiting
  try dsimp only
  repeat' first
    | with_reducible assumption | with_reducible exact h | with_reducible apply Keeps.setStreamFree
    | with_reducible apply Keeps.ite | with_reducible apply Keeps.ite1 | with_reducible apply Keeps.ite2
    | with_reducible apply Keeps.foldl | with_reducible apply Keeps.foldl_fst | with_reducible apply Keeps.foldl_snd
    | simp only [Keeps.upd] | simp only [Keeps.updFree] | simp only [Keeps.updMain] | intro _ _ _ | intro _ _
    | intro _ | dsimp only | split | rfl

theorem Keeps.stopStream (h : Keeps false o d) (st : Stream) : Keeps false o (Dev.stopStream d st) := by
  unfold Dev.stopStream
  try dsimp only
  repeat' first
    | with_reducible assumption | with_reducible exact h | with_reducible apply Keeps.setStreamFree
    | with_reducible apply Keeps.endWaiting | with_reducible apply Keeps.setFlag | with_reducible apply Keeps.endStall
    | with_reducible apply Keeps.ite | with_reducible apply Keeps.ite1 | with_reducible apply Keeps.ite2
    | with_reducible apply Keeps.foldl | with_reducible apply Keeps.foldl_fst | with_reducible apply Keeps.foldl_snd
    | simp only [Keeps.upd] | simp only [Keeps.updFree] | simp only [Keeps.updMain] | intro _ _ _ | intro _ _
    | intro _ | dsimp only | split | rfl

theorem Keeps.clearStream (h : Keeps level o d) (st : Stream) : Keeps level o (Dev.clearStream d st) := by
  unfold Dev.clearStream
  try dsimp only
  repeat' first
    | with_reducible assumption | with_reducible exact h | with_reducible apply Keeps.setReg
    | with_reducible apply Keeps.setFld | with_reducible apply Keeps.setStream | with_reducible apply Keeps.ite
    | with_reducible apply Keeps.ite1 | with_reducible apply Keeps.ite2 | with_reducible apply Keeps.foldl
    | with_reducible apply Keeps.foldl_fst | with_reducible apply Keeps.foldl_snd | simp only [Keeps.upd]
    | simp only [Keeps.updMain] | intro _ _ _ | intro _ _ | intro _ | dsimp only | split | rfl

theorem Keeps.clearFinals (h : Keeps level o d) : Keeps level o (Dev.clearFinals d) := by
  have hm : ∀ (l : List Claimed) (m : Mem), m.wf = true → Mem.wf (l.foldl (fun m c => if c.step == d.step % 0x100000000 then
      m.setByte (d.recordAddr c.layerSlot c.microbatch + 8) (m.byte (d.recordAddr c.layerSlot c.microbatch + 8) &&& 0xFE#8)
      else m) m) = true := by
    intro l
    induction l with
    | nil => exact fun _ hb => hb
    | cons c l ih =>
      intro m hb
      apply ih
      dsimp only
      split
      · exact Mem.wf_setByte hb _ _
      · exact hb
  exact h.memory fun x => hm _ _ x

theorem Keeps.drainCmp (h : Keeps level o d)  : Keeps level o (Dev.drainCmp d) := by
  unfold Dev.drainCmp
  try dsimp only
  repeat' first
    | with_reducible assumption | with_reducible exact h | with_reducible apply Keeps.endXchg
    | with_reducible apply Keeps.clearFinals | with_reducible apply Keeps.ite | with_reducible apply Keeps.ite1
    | with_reducible apply Keeps.ite2 | with_reducible apply Keeps.foldl | with_reducible apply Keeps.foldl_fst
    | with_reducible apply Keeps.foldl_snd | simp only [Keeps.upd] | simp only [Keeps.updMain] | intro _ _ _
    | intro _ _ | intro _ | dsimp only | split | rfl

theorem Keeps.drainCht (h : Keeps level o d)  : Keeps level o (Dev.drainCht d) := by
  unfold Dev.drainCht
  try dsimp only
  repeat' first
    | with_reducible assumption | with_reducible exact h | with_reducible apply Keeps.ite
    | with_reducible apply Keeps.ite1 | with_reducible apply Keeps.ite2 | with_reducible apply Keeps.foldl
    | with_reducible apply Keeps.foldl_fst | with_reducible apply Keeps.foldl_snd | simp only [Keeps.upd]
    | simp only [Keeps.updMain] | intro _ _ _ | intro _ _ | intro _ | dsimp only | split | rfl

theorem Keeps.drainEffect (h : Keeps level o d) (p : Page) : Keeps level o (Dev.drainEffect d p) := by
  unfold Dev.drainEffect
  try dsimp only
  repeat' first
    | with_reducible assumption | with_reducible exact h | with_reducible apply Keeps.drainCmp
    | with_reducible apply Keeps.drainRed | with_reducible apply Keeps.ringRollback
    | with_reducible apply Keeps.emptyHinge | with_reducible apply Keeps.drainCht | with_reducible apply Keeps.ite
    | with_reducible apply Keeps.ite1 | with_reducible apply Keeps.ite2 | with_reducible apply Keeps.foldl
    | with_reducible apply Keeps.foldl_fst | with_reducible apply Keeps.foldl_snd | simp only [Keeps.upd]
    | simp only [Keeps.updMain] | intro _ _ _ | intro _ _ | intro _ | dsimp only | split | rfl

theorem Keeps.wakeHelm (h : Keeps level o d)  : Keeps level o (Dev.wakeHelm d) := by
  unfold Dev.wakeHelm
  try dsimp only
  repeat' first
    | with_reducible assumption | with_reducible exact h | with_reducible apply Keeps.setFld
    | with_reducible apply Keeps.setSlot | with_reducible apply Keeps.moveTo | with_reducible apply Keeps.ite
    | with_reducible apply Keeps.ite1 | with_reducible apply Keeps.ite2 | with_reducible apply Keeps.foldl
    | with_reducible apply Keeps.foldl_fst | with_reducible apply Keeps.foldl_snd | simp only [Keeps.upd]
    | simp only [Keeps.updMain] | intro _ _ _ | intro _ _ | intro _ | dsimp only | split | rfl

theorem Keeps.wakeCmp (h : Keeps level o d)  : Keeps level o (Dev.wakeCmp d) := by
  unfold Dev.wakeCmp
  try dsimp only
  repeat' first
    | with_reducible assumption | with_reducible exact h | with_reducible apply Keeps.moveTo
    | with_reducible apply Keeps.ite | with_reducible apply Keeps.ite1 | with_reducible apply Keeps.ite2
    | with_reducible apply Keeps.foldl | with_reducible apply Keeps.foldl_fst | with_reducible apply Keeps.foldl_snd
    | simp only [Keeps.upd] | simp only [Keeps.updMain] | intro _ _ _ | intro _ _ | intro _ | dsimp only | split | rfl

theorem Keeps.enterReady (h : Keeps level o d) (p : Page) : Keeps level o (Dev.enterReady d p) := by
  unfold Dev.enterReady
  try dsimp only
  repeat' first
    | with_reducible assumption | with_reducible exact h | with_reducible apply Keeps.clearStream
    | with_reducible apply Keeps.wakeCmp | with_reducible apply Keeps.wakeHelm
    | with_reducible apply Keeps.chartLoaded | with_reducible apply Keeps.abandonSends
    | with_reducible apply Keeps.hubLeft | with_reducible apply Keeps.ite | with_reducible apply Keeps.ite1
    | with_reducible apply Keeps.ite2 | with_reducible apply Keeps.foldl | with_reducible apply Keeps.foldl_fst
    | with_reducible apply Keeps.foldl_snd | simp only [Keeps.upd] | simp only [Keeps.updMain] | intro _ _ _
    | intro _ _ | intro _ | dsimp only | split | rfl

theorem Keeps.enterDraining (h : Keeps false o d) (p : Page) : Keeps false o (Dev.enterDraining d p) := by
  unfold Dev.enterDraining
  try dsimp only
  repeat' first
    | with_reducible assumption | with_reducible exact h | with_reducible apply Keeps.stopStream
    | with_reducible apply Keeps.ite | with_reducible apply Keeps.ite1 | with_reducible apply Keeps.ite2
    | with_reducible apply Keeps.foldl | with_reducible apply Keeps.foldl_fst | with_reducible apply Keeps.foldl_snd
    | simp only [Keeps.upd] | simp only [Keeps.updFree] | simp only [Keeps.updMain] | intro _ _ _ | intro _ _
    | intro _ | dsimp only | split | rfl

theorem Keeps.enterActive (h : Keeps level o d) (p : Page) : Keeps level o (Dev.enterActive d p) := by
  unfold Dev.enterActive
  try dsimp only
  repeat' first
    | with_reducible assumption | with_reducible exact h | with_reducible apply Keeps.ite
    | with_reducible apply Keeps.ite1 | with_reducible apply Keeps.ite2 | with_reducible apply Keeps.foldl
    | with_reducible apply Keeps.foldl_fst | with_reducible apply Keeps.foldl_snd | simp only [Keeps.upd]
    | simp only [Keeps.updMain] | intro _ _ _ | intro _ _ | intro _ | dsimp only | split | rfl

theorem Keeps.leaveDraining (h : Keeps level o d) (p : Page) : Keeps level o (Dev.leaveDraining d p) := by
  unfold Dev.leaveDraining
  try dsimp only
  repeat' first
    | with_reducible assumption | with_reducible exact h | with_reducible apply Keeps.enterReady
    | with_reducible apply Keeps.accept | with_reducible apply Keeps.ite | with_reducible apply Keeps.ite1
    | with_reducible apply Keeps.ite2 | with_reducible apply Keeps.foldl | with_reducible apply Keeps.foldl_fst
    | with_reducible apply Keeps.foldl_snd | simp only [Keeps.upd] | simp only [Keeps.updMain] | intro _ _ _
    | intro _ _ | intro _ | dsimp only | split | rfl

theorem Keeps.transition (h : Keeps false o d) (p : Page) (c : Nat) : Keeps false o (Dev.transition d p c) := by
  unfold Dev.transition
  try dsimp only
  repeat' first
    | with_reducible assumption | with_reducible exact h | with_reducible apply Keeps.enterActive
    | with_reducible apply Keeps.accept | with_reducible apply Keeps.reqResult
    | with_reducible apply Keeps.enterDraining | with_reducible apply Keeps.leaveDraining
    | with_reducible apply Keeps.setFld | with_reducible apply Keeps.enterReady | with_reducible apply Keeps.hubLeft
    | with_reducible apply Keeps.ite | with_reducible apply Keeps.ite1 | with_reducible apply Keeps.ite2
    | with_reducible apply Keeps.foldl | with_reducible apply Keeps.foldl_fst | with_reducible apply Keeps.foldl_snd
    | simp only [Keeps.upd] | simp only [Keeps.updFree] | simp only [Keeps.updMain] | intro _ _ _ | intro _ _
    | intro _ | dsimp only | split | rfl

theorem Keeps.stateRequest (h : Keeps false o d) (p : Page) (c : Nat) (gen : Nat) : Keeps false o (Dev.stateRequest d p c gen) := by
  unfold Dev.stateRequest
  try dsimp only
  repeat' first
    | with_reducible assumption | with_reducible exact h | with_reducible apply Keeps.reqResult
    | with_reducible apply Keeps.transition | with_reducible apply Keeps.ite | with_reducible apply Keeps.ite1
    | with_reducible apply Keeps.ite2 | with_reducible apply Keeps.foldl | with_reducible apply Keeps.foldl_fst
    | with_reducible apply Keeps.foldl_snd | simp only [Keeps.upd] | simp only [Keeps.updFree]
    | simp only [Keeps.updMain] | intro _ _ _ | intro _ _ | intro _ | dsimp only | split | rfl

theorem Keeps.completeDrain (h : Keeps level o d) (p : Page) : Keeps level o (Dev.completeDrain d p) := by
  unfold Dev.completeDrain
  try dsimp only
  repeat' first
    | with_reducible assumption | with_reducible exact h | with_reducible apply Keeps.drainEffect
    | with_reducible apply Keeps.startFlush | with_reducible apply Keeps.leaveDraining
    | with_reducible apply Keeps.ite | with_reducible apply Keeps.ite1 | with_reducible apply Keeps.ite2
    | with_reducible apply Keeps.foldl | with_reducible apply Keeps.foldl_fst | with_reducible apply Keeps.foldl_snd
    | simp only [Keeps.upd] | simp only [Keeps.updMain] | intro _ _ _ | intro _ _ | intro _ | dsimp only | split | rfl

end Sys2Proof.Machine
end

