-- ==== Sys2Proof/Laws/KeepCarrierOps.lean ====
section
/-! SUPPORT. What the operations of Machine/CarrierOps.lean keep (`Keeps`). -/
set_option Elab.async false
set_option linter.unusedTactic false
set_option linter.unreachableTactic false
set_option linter.unusedSimpArgs false

namespace Sys2Proof.Machine

variable {level : Bool} {o d : Dev}

theorem Keeps.railFault (h : Keeps level o d) (r : Rail) : Keeps level o (Dev.railFault d r) := by
  unfold Dev.railFault
  try dsimp only
  repeat' first
    | with_reducible assumption | with_reducible exact h | with_reducible apply Keeps.pageFault
    | with_reducible apply Keeps.raise | with_reducible apply Keeps.packageFault | with_reducible apply Keeps.ite
    | with_reducible apply Keeps.ite1 | with_reducible apply Keeps.ite2 | with_reducible apply Keeps.foldl
    | with_reducible apply Keeps.foldl_fst | with_reducible apply Keeps.foldl_snd | simp only [Keeps.upd]
    | simp only [Keeps.updMain] | intro _ _ _ | intro _ _ | intro _ | dsimp only | split | rfl

end Sys2Proof.Machine
end

