-- ==== Sys2Proof/Laws/KeepCopying.lean ====
section
/-! SUPPORT. What the operations of Machine/Copying.lean keep (`Keeps`). -/
set_option Elab.async false
set_option linter.unusedTactic false
set_option linter.unreachableTactic false
set_option linter.unusedSimpArgs false

namespace Sys2Proof.Machine

variable {level : Bool} {o d : Dev}

theorem Keeps.copyEffect (h : Keeps level o d) (o1 : Origin) (mode : ConvMode) (c : CopyCmd) (src : ByteSource) : Keeps level o (Dev.copyEffect d o1 mode c src) := by
  unfold Dev.copyEffect
  try dsimp only
  repeat' first
    | with_reducible assumption | with_reducible exact h | with_reducible apply Keeps.write
    | with_reducible apply Keeps.nonfinite | with_reducible apply Keeps.addOutput | with_reducible apply Keeps.output
    | with_reducible apply Keeps.ite | with_reducible apply Keeps.ite1 | with_reducible apply Keeps.ite2
    | with_reducible apply Keeps.foldl | with_reducible apply Keeps.foldl_fst | with_reducible apply Keeps.foldl_snd
    | simp only [Keeps.upd] | simp only [Keeps.updMain] | intro _ _ _ | intro _ _ | intro _ | dsimp only | split | rfl

end Sys2Proof.Machine
end

