-- ==== Sys2Proof/Laws/KeepManagers.lean ====
section
/-! SUPPORT. What the operations of Machine/Managers.lean keep (`Keeps`). -/
set_option Elab.async false
set_option linter.unusedTactic false
set_option linter.unreachableTactic false
set_option linter.unusedSimpArgs false

namespace Sys2Proof.Machine

variable {level : Bool} {o d : Dev}

theorem Keeps.powerPeriod (h : Keeps level o d) (f : Fuse) (watts : Nat) (peak : Nat) : Keeps level o (Dev.powerPeriod d f watts peak) := by
  unfold Dev.powerPeriod
  try dsimp only
  repeat' first
    | with_reducible assumption | with_reducible exact h | with_reducible apply Keeps.setFld
    | with_reducible apply Keeps.showPinned | with_reducible apply Keeps.ite | with_reducible apply Keeps.ite1
    | with_reducible apply Keeps.ite2 | with_reducible apply Keeps.foldl | with_reducible apply Keeps.foldl_fst
    | with_reducible apply Keeps.foldl_snd | simp only [Keeps.upd] | simp only [Keeps.updMain] | intro _ _ _
    | intro _ _ | intro _ | dsimp only | split | rfl

theorem Keeps.thermalDie (h : Keeps level o d) (x : Nat) (was : Int) (sensors : List Int) : Keeps level o (Dev.thermalDie d x was sensors) := by
  unfold Dev.thermalDie
  try dsimp only
  repeat' first
    | with_reducible assumption | with_reducible exact h | with_reducible apply Keeps.setFlag
    | with_reducible apply Keeps.setFld | with_reducible apply Keeps.raise | with_reducible apply Keeps.ite
    | with_reducible apply Keeps.ite1 | with_reducible apply Keeps.ite2 | with_reducible apply Keeps.foldl
    | with_reducible apply Keeps.foldl_fst | with_reducible apply Keeps.foldl_snd | simp only [Keeps.upd]
    | simp only [Keeps.updMain] | intro _ _ _ | intro _ _ | intro _ | dsimp only | split | rfl

theorem Keeps.thermalPeriod (h : Keeps level o d) (ds : List DieSensors) (inlet : Int) (outlet : Int) : Keeps level o (Dev.thermalPeriod d ds inlet outlet) := by
  unfold Dev.thermalPeriod
  try dsimp only
  repeat' first
    | with_reducible assumption | with_reducible exact h | with_reducible apply Keeps.thermalDie
    | with_reducible apply Keeps.setReg | with_reducible apply Keeps.raise | with_reducible apply Keeps.ite
    | with_reducible apply Keeps.ite1 | with_reducible apply Keeps.ite2 | with_reducible apply Keeps.foldl
    | with_reducible apply Keeps.foldl_fst | with_reducible apply Keeps.foldl_snd | simp only [Keeps.upd]
    | simp only [Keeps.updMain] | intro _ _ _ | intro _ _ | intro _ | dsimp only | split | rfl

end Sys2Proof.Machine
end

