-- ==== Sys2Proof/Laws/Leave.lean ====
section
/-! SUPPORT. What an operation on the device leaves alone: the registers that hold configuration alone, and bytes of memory
outside the Logbook's region. -/
set_option Elab.async false
namespace Sys2Proof.Machine

/-- `d` comes from `o` with the configuration registers and the bytes of `B` outside the Logbook's region as they were. -/
structure Leaves (B : Nat → Bool) (o d : Dev) : Prop where
  mem : o.mem.wf = true → d.mem.wf = true
  regs : Assoc.wf regReset o.regs = true → Assoc.wf regReset d.regs = true
  config : Assoc.wf regReset o.regs = true → ∀ a, configReg a = true → d.reg a = o.reg a
  byte : o.mem.wf = true → ∀ a, B a = true → regionOf a ≠ .logbook → d.mem.byte a = o.mem.byte a

/-- No byte. -/
def noBytes : Nat → Bool := fun _ => false

variable {B : Nat → Bool} {o d : Dev}

theorem Leaves.refl : Leaves B o o := ⟨id, id, fun _ _ _ => rfl, fun _ _ _ _ => rfl⟩

theorem Leaves.trans {e : Dev} (h1 : Leaves B o d) (h2 : Leaves B d e) : Leaves B o e :=
  ⟨fun h => h2.mem (h1.mem h), fun h => h2.regs (h1.regs h),
    fun h a ha => (h2.config (h1.regs h) a ha).trans (h1.config h a ha),
    fun h a ha hr => (h2.byte (h1.mem h) a ha hr).trans (h1.byte h a ha hr)⟩

theorem Leaves.weaken (h : Leaves B o d) : Leaves noBytes o d :=
  ⟨h.mem, h.regs, h.config, fun _ _ ha => by cases ha⟩

/-- Other fields may change. -/
theorem Leaves.other {d' : Dev} (h : Leaves B o d) (h1 : d'.mem = d.mem := by rfl) (h2 : d'.regs = d.regs := by rfl) :
    Leaves B o d' :=
  ⟨by rw [h1]; exact h.mem, by rw [h2]; exact h.regs, by unfold Dev.reg; rw [h2]; exact h.config,
    by rw [h1]; exact h.byte⟩

/-- Memory replaced, but for the bytes of `B`. -/
theorem Leaves.memory {d' : Dev} (h : Leaves B o d) (h1 : d.mem.wf = true → d'.mem.wf = true)
    (h2 : d.mem.wf = true → ∀ a, B a = true → regionOf a ≠ .logbook → d'.mem.byte a = d.mem.byte a)
    (h3 : d'.regs = d.regs := by rfl) : Leaves B o d' :=
  h.trans ⟨h1, by rw [h3]; exact id, fun _ a _ => by unfold Dev.reg; rw [h3], h2⟩

theorem Leaves.memoryFree {d' : Dev} (h : Leaves noBytes o d) (h1 : d.mem.wf = true → d'.mem.wf = true)
    (h3 : d'.regs = d.regs := by rfl) : Leaves noBytes o d' := h.memory h1 (fun _ _ ha => by cases ha) h3

theorem Leaves.ite {c : Prop} [Decidable c] {a b : Dev} (ha : Leaves B o a) (hb : Leaves B o b) :
    Leaves B o (if c then a else b) := by
  split
  · exact ha
  · exact hb

theorem Leaves.ite1 {α : Type} {c : Prop} [Decidable c] {a b : Dev × α} (ha : Leaves B o a.1) (hb : Leaves B o b.1) :
    Leaves B o (if c then a else b).1 := by
  split
  · exact ha
  · exact hb

theorem Leaves.ite2 {α : Type} {c : Prop} [Decidable c] {a b : α × Dev} (ha : Leaves B o a.2) (hb : Leaves B o b.2) :
    Leaves B o (if c then a else b).2 := by
  split
  · exact ha
  · exact hb

theorem Leaves.foldl {α : Type} {f : Dev → α → Dev} {l : List α} (h : Leaves B o d)
    (hf : ∀ x a, Leaves B o x → Leaves B o (f x a)) : Leaves B o (l.foldl f d) := by
  induction l generalizing d with
  | nil => exact h
  | cons a l ih => exact ih (hf d a h)

/-- The accumulator of a fold holds the device in its first place. -/
theorem Leaves.foldl_fst {α β : Type} {f : Dev × β → α → Dev × β} {l : List α} {b : Dev × β} (h : Leaves B o b.1)
    (hf : ∀ x a, Leaves B o x.1 → Leaves B o (f x a).1) : Leaves B o (l.foldl f b).1 := by
  induction l generalizing b with
  | nil => exact h
  | cons a l ih => exact ih (hf b a h)

/-- The accumulator of a fold holds the device in its second place. -/
theorem Leaves.foldl_snd {α β : Type} {f : β × Dev → α → β × Dev} {l : List α} {b : β × Dev} (h : Leaves B o b.2)
    (hf : ∀ x a, Leaves B o x.2 → Leaves B o (f x a).2) : Leaves B o (l.foldl f b).2 := by
  induction l generalizing b with
  | nil => exact h
  | cons a l ih => exact ih (hf b a h)

/-- The device, where there is one. -/
structure LeavesOpt (B : Nat → Bool) (o : Dev) (x : Option Dev) : Prop where
  leaves : ∀ y, x = some y → Leaves B o y

theorem LeavesOpt.none : LeavesOpt B o none := ⟨fun _ h => by cases h⟩

theorem LeavesOpt.some (h : Leaves B o d) : LeavesOpt B o (some d) := ⟨fun _ hy => by
  cases hy
  exact h⟩

theorem LeavesOpt.ite {c : Prop} [Decidable c] {a b : Option Dev} (ha : LeavesOpt B o a) (hb : LeavesOpt B o b) :
    LeavesOpt B o (if c then a else b) := by
  split
  · exact ha
  · exact hb

theorem Leaves.getD {x : Option Dev} (h : Leaves B o d) (hx : LeavesOpt B o x) : Leaves B o (x.getD d) := by
  cases x with
  | none => exact h
  | some y => exact hx.leaves y rfl

/-- Any field but registers and memory may change. -/
theorem Leaves.upd {x : Dev} {now' resetAt' freeCtr' nextRun' drained' flash' ext' seqMain' seqBf' curves' cmp' xch' red'
      hlm' sxt' hng' snd' ports' cht' log' sky' chk' arr' scrubAt' irq' boot' pwr' mgt'} :
    Leaves B o (Dev.mk now' resetAt' freeCtr' nextRun' x.regs x.mem drained' flash' ext' seqMain' seqBf' curves'
      cmp' xch' red' hlm' sxt' hng' snd' ports' cht' log' sky' chk' arr' scrubAt' irq' boot' pwr' mgt') ↔ Leaves B o x :=
  ⟨fun h => h.other, fun h => h.other⟩

/-! Registers. -/

theorem Leaves.setReg (h : Leaves B o d) (a : Nat) (w : Word) (ha : configReg a = false := by simp) :
    Leaves B o (d.setReg a w) := by
  refine h.trans ⟨id, fun x => Assoc.wf_set x a w, fun hr b hb => ?_, fun _ _ _ _ => rfl⟩
  have hne : b ≠ a := fun e => by
    rw [e, ha] at hb
    cases hb
  exact (Assoc.get_set hr a b w).trans (if_neg hne)

theorem Leaves.setFld (h : Leaves B o d) (a hi lo v : Nat) (ha : configReg a = false := by simp) :
    Leaves B o (d.setFld a hi lo v) := h.setReg a _ ha

theorem Leaves.setFlag (h : Leaves B o d) (a i : Nat) (b : Bool) (ha : configReg a = false := by simp) :
    Leaves B o (d.setFlag a i b) := h.setReg a _ ha

theorem Leaves.addSatFld (h : Leaves B o d) (a hi lo n : Nat) (ha : configReg a = false := by simp) :
    Leaves B o (d.addSatFld a hi lo n) := h.setReg a _ ha

theorem Leaves.addSat (h : Leaves B o d) (a n : Nat) (ha : configReg a = false := by simp) :
    Leaves B o (d.addSat a n) := h.setReg a _ ha

theorem Leaves.addWrap (h : Leaves B o d) (a n : Nat) (ha : configReg a = false := by simp) :
    Leaves B o (d.addWrap a n) := h.setReg a _ ha

theorem Leaves.raiseTo (h : Leaves B o d) (a n : Nat) (ha : configReg a = false := by simp) :
    Leaves B o (d.raiseTo a n) := h.setReg a _ ha

theorem Leaves.setPair (h : Leaves B o d) (a v : Nat) (ha : configReg a = false := by simp)
    (hb : configReg (a + 4) = false := by simp) : Leaves B o (d.setPair a v) := (h.setReg a _ ha).setReg (a + 4) _ hb

/-! Memory. -/

theorem ringAddr_region (x : Nat) : regionOf (ringAddr x) = .logbook := by
  unfold regionOf ringAddr
  have h1 : x % 0x100000000 / 0x20000000 < 8 := by omega
  have h2 : x % 0x100000000 % 0x20000000 < 0x20000000 := by omega
  have e4 : dramEnd = 24 * 0xC00000000 := rfl
  have e5 : stackSpan = 0xC00000000 := rfl
  rw [e4, e5]
  dsimp only
  rw [if_pos (by omega)]
  generalize x % 0x100000000 / 0x20000000 = q at h1
  generalize x % 0x100000000 % 0x20000000 = r at h2
  have e1 : (0xBE0000000 + 0xC00000000 * (16 + q) + r) / 0xC00000000 = 16 + q := by omega
  have e2 : (0xBE0000000 + 0xC00000000 * (16 + q) + r) % 0xC00000000 = 0xBE0000000 + r := by omega
  rw [e1, e2, if_neg (by omega), if_neg (by omega)]

theorem byte_setByte_ring {m : Mem} (hm : m.wf = true) {a : Nat} (ha : regionOf a ≠ .logbook) (x : Nat) (b : Byte) :
    (m.setByte (ringAddr x) b).byte a = m.byte a := by
  rw [Mem.byte_setByte hm, if_neg]
  intro e
  rw [e, ringAddr_region] at ha
  exact ha rfl

theorem byte_ringWrite {m : Mem} (hm : m.wf = true) {a : Nat} (ha : regionOf a ≠ .logbook) (off : Nat) (bs : List Byte) :
    (ringWrite m off bs).byte a = m.byte a := by
  induction bs generalizing m off with
  | nil => rfl
  | cons b bs ih =>
    simp only [ringWrite]
    rw [ih (Mem.wf_setByte hm _ b), byte_setByte_ring hm ha]

theorem wf_ringWrites {m : Mem} (h : m.wf = true) (off : Nat) (bs : List Byte) : (ringWrite m off bs).wf = true := by
  induction bs generalizing m off with
  | nil => exact h
  | cons b bs ih => exact ih (Mem.wf_setByte h _ b) _

theorem Leaves.ring (h : Leaves B o d) (off : Nat) (bs : List Byte) : Leaves B o { d with mem := ringWrite d.mem off bs } :=
  h.memory (fun x => wf_ringWrites x off bs) fun hm _ _ ha => byte_ringWrite hm ha off bs

end Sys2Proof.Machine
end

