-- ==== Sys2Proof/Laws/LeaveOps.lean ====
section
/-! SUPPORT. What the operations of Machine/Ops.lean leave alone (`Leaves`). -/
set_option Elab.async false
set_option linter.unusedTactic false
set_option linter.unreachableTactic false
set_option linter.unusedSimpArgs false

namespace Sys2Proof.Machine

variable {B : Nat → Bool} {o d : Dev}

theorem Leaves.drawWord (h : Leaves B o d)  : Leaves B o (Dev.drawWord d).2 := by
  unfold Dev.drawWord
  try dsimp only
  repeat' first
    | with_reducible assumption | with_reducible exact h | with_reducible apply Leaves.ite
    | with_reducible apply Leaves.ite1 | with_reducible apply Leaves.ite2 | with_reducible apply Leaves.foldl
    | with_reducible apply Leaves.foldl_fst | with_reducible apply Leaves.foldl_snd | simp only [Leaves.upd] | (show configReg _ = false; simp)
    | intro _ _ _ | intro _ _ | intro _ | dsimp only | split | rfl

theorem Leaves.drawBytes (h : Leaves B o d) (n : Nat) : Leaves B o (Dev.drawBytes d n).2 := by
  unfold Dev.drawBytes
  try dsimp only
  repeat' first
    | with_reducible assumption | with_reducible exact h | with_reducible apply Leaves.ite
    | with_reducible apply Leaves.ite1 | with_reducible apply Leaves.ite2 | with_reducible apply Leaves.foldl
    | with_reducible apply Leaves.foldl_fst | with_reducible apply Leaves.foldl_snd | simp only [Leaves.upd] | (show configReg _ = false; simp)
    | intro _ _ _ | intro _ _ | intro _ | dsimp only | split | rfl

theorem Leaves.sign (h : Leaves B o d) (digest : List Byte) : Leaves B o (Dev.sign d digest).2 := by
  unfold Dev.sign
  try dsimp only
  repeat' first
    | with_reducible assumption | with_reducible exact h | with_reducible apply Leaves.ite
    | with_reducible apply Leaves.ite1 | with_reducible apply Leaves.ite2 | with_reducible apply Leaves.foldl
    | with_reducible apply Leaves.foldl_fst | with_reducible apply Leaves.foldl_snd | simp only [Leaves.upd] | (show configReg _ = false; simp)
    | intro _ _ _ | intro _ _ | intro _ | dsimp only | split | rfl

theorem Leaves.newRun (h : Leaves B o d)  : Leaves B o (Dev.newRun d).2 := by
  unfold Dev.newRun
  try dsimp only
  repeat' first
    | with_reducible assumption | with_reducible exact h | with_reducible apply Leaves.ite
    | with_reducible apply Leaves.ite1 | with_reducible apply Leaves.ite2 | with_reducible apply Leaves.foldl
    | with_reducible apply Leaves.foldl_fst | with_reducible apply Leaves.foldl_snd | simp only [Leaves.upd] | (show configReg _ = false; simp)
    | intro _ _ _ | intro _ _ | intro _ | dsimp only | split | rfl

theorem Leaves.markBad (h : Leaves B o d) (steps : List Nat) : Leaves B o (Dev.markBad d steps) := by
  unfold Dev.markBad
  try dsimp only
  repeat' first
    | with_reducible assumption | with_reducible exact h | with_reducible apply Leaves.ite
    | with_reducible apply Leaves.ite1 | with_reducible apply Leaves.ite2 | with_reducible apply Leaves.foldl
    | with_reducible apply Leaves.foldl_fst | with_reducible apply Leaves.foldl_snd | simp only [Leaves.upd] | (show configReg _ = false; simp)
    | intro _ _ _ | intro _ _ | intro _ | dsimp only | split | rfl

theorem Leaves.bad (h : Leaves B o d)  : Leaves B o (Dev.bad d) := by
  unfold Dev.bad
  try dsimp only
  repeat' first
    | with_reducible assumption | with_reducible exact h | with_reducible apply Leaves.markBad
    | with_reducible apply Leaves.ite | with_reducible apply Leaves.ite1 | with_reducible apply Leaves.ite2
    | with_reducible apply Leaves.foldl | with_reducible apply Leaves.foldl_fst | with_reducible apply Leaves.foldl_snd
    | simp only [Leaves.upd] | (show configReg _ = false; simp) | intro _ _ _ | intro _ _ | intro _ | dsimp only | split | rfl

theorem Leaves.badUnfixed (h : Leaves B o d)  : Leaves B o (Dev.badUnfixed d) := by
  unfold Dev.badUnfixed
  try dsimp only
  repeat' first
    | with_reducible assumption | with_reducible exact h | with_reducible apply Leaves.markBad
    | with_reducible apply Leaves.ite | with_reducible apply Leaves.ite1 | with_reducible apply Leaves.ite2
    | with_reducible apply Leaves.foldl | with_reducible apply Leaves.foldl_fst | with_reducible apply Leaves.foldl_snd
    | simp only [Leaves.upd] | (show configReg _ = false; simp) | intro _ _ _ | intro _ _ | intro _ | dsimp only | split | rfl

theorem Leaves.digestRec (h : Leaves B o d) (r : Rec) (bytes : List Byte) : Leaves B o (Dev.digestRec d r bytes) := by
  unfold Dev.digestRec
  try dsimp only
  repeat' first
    | with_reducible assumption | with_reducible exact h | with_reducible apply Leaves.ite
    | with_reducible apply Leaves.ite1 | with_reducible apply Leaves.ite2 | with_reducible apply Leaves.foldl
    | with_reducible apply Leaves.foldl_fst | with_reducible apply Leaves.foldl_snd | simp only [Leaves.upd] | (show configReg _ = false; simp)
    | intro _ _ _ | intro _ _ | intro _ | dsimp only | split | rfl

theorem Leaves.putRecord (h : Leaves B o d) (bytes : List Byte) : Leaves B o (Dev.putRecord d bytes).1 := by
  unfold Dev.putRecord
  exact Leaves.addWrap (Leaves.setPair (h.memory (fun x => wf_ringWrites x _ _) fun hm _ _ ha =>
    byte_ringWrite hm ha _ _) _ _) _ _

theorem Leaves.loseRecord (h : Leaves B o d) (n : Nat) : Leaves B o (Dev.loseRecord d n) := by
  unfold Dev.loseRecord
  try dsimp only
  repeat' first
    | with_reducible assumption | with_reducible exact h | with_reducible apply Leaves.bad
    | with_reducible apply Leaves.addSat | with_reducible apply Leaves.setFlag | with_reducible apply Leaves.ite
    | with_reducible apply Leaves.ite1 | with_reducible apply Leaves.ite2 | with_reducible apply Leaves.foldl
    | with_reducible apply Leaves.foldl_fst | with_reducible apply Leaves.foldl_snd | simp only [Leaves.upd] | (show configReg _ = false; simp)
    | intro _ _ _ | intro _ _ | intro _ | dsimp only | split | rfl

theorem Leaves.closeLoss (h : Leaves B o d) (loss : List Byte) : Leaves B o (Dev.closeLoss d loss).1 := by
  unfold Dev.closeLoss
  try dsimp only
  repeat' first
    | with_reducible assumption | with_reducible exact h | with_reducible apply Leaves.putRecord
    | with_reducible apply Leaves.ite | with_reducible apply Leaves.ite1 | with_reducible apply Leaves.ite2
    | with_reducible apply Leaves.foldl | with_reducible apply Leaves.foldl_fst | with_reducible apply Leaves.foldl_snd
    | simp only [Leaves.upd] | (show configReg _ = false; simp) | intro _ _ _ | intro _ _ | intro _ | dsimp only | split | rfl

theorem Leaves.keepRecord (h : Leaves B o d) (r : Rec) (loss : List Byte) (bytes : List Byte) : Leaves B o (Dev.keepRecord d r loss bytes).1 := by
  unfold Dev.keepRecord
  try dsimp only
  repeat' first
    | with_reducible assumption | with_reducible exact h | with_reducible apply Leaves.closeLoss
    | with_reducible apply Leaves.putRecord | with_reducible apply Leaves.digestRec | with_reducible apply Leaves.ite
    | with_reducible apply Leaves.ite1 | with_reducible apply Leaves.ite2 | with_reducible apply Leaves.foldl
    | with_reducible apply Leaves.foldl_fst | with_reducible apply Leaves.foldl_snd | simp only [Leaves.upd] | (show configReg _ = false; simp)
    | intro _ _ _ | intro _ _ | intro _ | dsimp only | split | rfl

theorem Leaves.append (h : Leaves B o d) (r : Rec) : Leaves B o (Dev.append d r).1 := by
  unfold Dev.append
  try dsimp only
  repeat' first
    | with_reducible assumption | with_reducible exact h | with_reducible apply Leaves.loseRecord
    | with_reducible apply Leaves.keepRecord | with_reducible apply Leaves.ite | with_reducible apply Leaves.ite1
    | with_reducible apply Leaves.ite2 | with_reducible apply Leaves.foldl | with_reducible apply Leaves.foldl_fst
    | with_reducible apply Leaves.foldl_snd | simp only [Leaves.upd] | (show configReg _ = false; simp) | intro _ _ _ | intro _ _ | intro _ | dsimp only
    | split | rfl

theorem Leaves.edge (h : Leaves B o d) (x : Nat) : Leaves B o (Dev.edge d x).1 := by
  unfold Dev.edge
  try dsimp only
  repeat' first
    | with_reducible assumption | with_reducible exact h | with_reducible apply Leaves.setFld
    | with_reducible apply Leaves.setFlag | with_reducible apply Leaves.ite | with_reducible apply Leaves.ite1
    | with_reducible apply Leaves.ite2 | with_reducible apply Leaves.foldl | with_reducible apply Leaves.foldl_fst
    | with_reducible apply Leaves.foldl_snd | simp only [Leaves.upd] | (show configReg _ = false; simp) | intro _ _ _ | intro _ _ | intro _ | dsimp only
    | split | rfl

theorem Leaves.event (h : Leaves B o d) (p : Page) (b : Nat) (forced : Bool) : Leaves B o (Dev.event d p b forced).1 := by
  unfold Dev.event
  try dsimp only
  repeat' first
    | with_reducible assumption | with_reducible exact h | with_reducible apply Leaves.setFld
    | with_reducible apply Leaves.addSatFld | with_reducible apply Leaves.setFlag | with_reducible apply Leaves.ite
    | with_reducible apply Leaves.ite1 | with_reducible apply Leaves.ite2 | with_reducible apply Leaves.foldl
    | with_reducible apply Leaves.foldl_fst | with_reducible apply Leaves.foldl_snd | simp only [Leaves.upd] | (show configReg _ = false; simp)
    | intro _ _ _ | intro _ _ | intro _ | dsimp only | split | rfl

theorem Leaves.act (h : Leaves B o d) (a1 : Act) : Leaves B o (Dev.act d a1).1 := by
  cases a1 with
  | event p b f => exact h.event p b f
  | record r => exact h.append r
  | edge x => exact h.edge x

theorem Leaves.runActs (h : Leaves B o d) (a1 : Nat) (a3 : List Act) : Leaves B o (Dev.runActs a1 d a3) := by
  induction a1 generalizing d a3 with
  | zero => exact h
  | succ n ih =>
    cases a3 with
    | nil => exact h
    | cons a as => exact ih (h.act a) _

theorem Leaves.acts (h : Leaves B o d) (as : List Act) : Leaves B o (Dev.acts d as) := by
  unfold Dev.acts
  try dsimp only
  repeat' first
    | with_reducible assumption | with_reducible exact h | with_reducible apply Leaves.runActs
    | with_reducible apply Leaves.ite | with_reducible apply Leaves.ite1 | with_reducible apply Leaves.ite2
    | with_reducible apply Leaves.foldl | with_reducible apply Leaves.foldl_fst | with_reducible apply Leaves.foldl_snd
    | simp only [Leaves.upd] | (show configReg _ = false; simp) | intro _ _ _ | intro _ _ | intro _ | dsimp only | split | rfl

theorem Leaves.raise (h : Leaves B o d) (p : Page) (b : Nat) : Leaves B o (Dev.raise d p b) := by
  unfold Dev.raise
  try dsimp only
  repeat' first
    | with_reducible assumption | with_reducible exact h | with_reducible apply Leaves.acts
    | with_reducible apply Leaves.ite | with_reducible apply Leaves.ite1 | with_reducible apply Leaves.ite2
    | with_reducible apply Leaves.foldl | with_reducible apply Leaves.foldl_fst | with_reducible apply Leaves.foldl_snd
    | simp only [Leaves.upd] | (show configReg _ = false; simp) | intro _ _ _ | intro _ _ | intro _ | dsimp only | split | rfl

theorem Leaves.raiseLogged (h : Leaves B o d) (p : Page) (b : Nat) (peer : Nat) (detail : List Byte) : Leaves B o (Dev.raiseLogged d p b peer detail) := by
  unfold Dev.raiseLogged
  try dsimp only
  repeat' first
    | with_reducible assumption | with_reducible exact h | with_reducible apply Leaves.acts
    | with_reducible apply Leaves.ite | with_reducible apply Leaves.ite1 | with_reducible apply Leaves.ite2
    | with_reducible apply Leaves.foldl | with_reducible apply Leaves.foldl_fst | with_reducible apply Leaves.foldl_snd
    | simp only [Leaves.upd] | (show configReg _ = false; simp) | intro _ _ _ | intro _ _ | intro _ | dsimp only | split | rfl

theorem Leaves.record (h : Leaves B o d) (r : Rec) : Leaves B o (Dev.record d r) := by
  unfold Dev.record
  try dsimp only
  repeat' first
    | with_reducible assumption | with_reducible exact h | with_reducible apply Leaves.acts
    | with_reducible apply Leaves.ite | with_reducible apply Leaves.ite1 | with_reducible apply Leaves.ite2
    | with_reducible apply Leaves.foldl | with_reducible apply Leaves.foldl_fst | with_reducible apply Leaves.foldl_snd
    | simp only [Leaves.upd] | (show configReg _ = false; simp) | intro _ _ _ | intro _ _ | intro _ | dsimp only | split | rfl

theorem Leaves.irqEdge (h : Leaves B o d) (x : Nat) : Leaves B o (Dev.irqEdge d x) := by
  unfold Dev.irqEdge
  try dsimp only
  repeat' first
    | with_reducible assumption | with_reducible exact h | with_reducible apply Leaves.acts
    | with_reducible apply Leaves.ite | with_reducible apply Leaves.ite1 | with_reducible apply Leaves.ite2
    | with_reducible apply Leaves.foldl | with_reducible apply Leaves.foldl_fst | with_reducible apply Leaves.foldl_snd
    | simp only [Leaves.upd] | (show configReg _ = false; simp) | intro _ _ _ | intro _ _ | intro _ | dsimp only | split | rfl

theorem Leaves.moveTo (h : Leaves B o d) (p : Page) (c : Nat) : Leaves B o (Dev.moveTo d p c) := by
  unfold Dev.moveTo
  try dsimp only
  repeat' first
    | with_reducible assumption | with_reducible exact h | with_reducible apply Leaves.setReg
    | with_reducible apply Leaves.ite | with_reducible apply Leaves.ite1 | with_reducible apply Leaves.ite2
    | with_reducible apply Leaves.foldl | with_reducible apply Leaves.foldl_fst | with_reducible apply Leaves.foldl_snd
    | simp only [Leaves.upd] | (show configReg _ = false; simp) | intro _ _ _ | intro _ _ | intro _ | dsimp only | split | rfl

theorem Leaves.reqResult (h : Leaves B o d) (p : Page) (r : Nat) : Leaves B o (Dev.reqResult d p r) := by
  unfold Dev.reqResult
  try dsimp only
  repeat' first
    | with_reducible assumption | with_reducible exact h | with_reducible apply Leaves.setFld
    | with_reducible apply Leaves.ite | with_reducible apply Leaves.ite1 | with_reducible apply Leaves.ite2
    | with_reducible apply Leaves.foldl | with_reducible apply Leaves.foldl_fst | with_reducible apply Leaves.foldl_snd
    | simp only [Leaves.upd] | (show configReg _ = false; simp) | intro _ _ _ | intro _ _ | intro _ | dsimp only | split | rfl

theorem Leaves.accept (h : Leaves B o d) (p : Page) (c : Nat) : Leaves B o (Dev.accept d p c) := by
  unfold Dev.accept
  try dsimp only
  repeat' first
    | with_reducible assumption | with_reducible exact h | with_reducible apply Leaves.reqResult
    | with_reducible apply Leaves.moveTo | with_reducible apply Leaves.setFld | with_reducible apply Leaves.ite
    | with_reducible apply Leaves.ite1 | with_reducible apply Leaves.ite2 | with_reducible apply Leaves.foldl
    | with_reducible apply Leaves.foldl_fst | with_reducible apply Leaves.foldl_snd | simp only [Leaves.upd] | (show configReg _ = false; simp)
    | intro _ _ _ | intro _ _ | intro _ | dsimp only | split | rfl

theorem Leaves.pageFault (h : Leaves B o d) (p : Page) : Leaves B o (Dev.pageFault d p) := by
  unfold Dev.pageFault
  try dsimp only
  repeat' first
    | with_reducible assumption | with_reducible exact h | with_reducible apply Leaves.moveTo
    | with_reducible apply Leaves.ite | with_reducible apply Leaves.ite1 | with_reducible apply Leaves.ite2
    | with_reducible apply Leaves.foldl | with_reducible apply Leaves.foldl_fst | with_reducible apply Leaves.foldl_snd
    | simp only [Leaves.upd] | (show configReg _ = false; simp) | intro _ _ _ | intro _ _ | intro _ | dsimp only | split | rfl

theorem Leaves.packageFault (h : Leaves B o d)  : Leaves B o (Dev.packageFault d) := by
  unfold Dev.packageFault
  try dsimp only
  repeat' first
    | with_reducible assumption | with_reducible exact h | with_reducible apply Leaves.moveTo
    | with_reducible apply Leaves.ite | with_reducible apply Leaves.ite1 | with_reducible apply Leaves.ite2
    | with_reducible apply Leaves.foldl | with_reducible apply Leaves.foldl_fst | with_reducible apply Leaves.foldl_snd
    | simp only [Leaves.upd] | (show configReg _ = false; simp) | intro _ _ _ | intro _ _ | intro _ | dsimp only | split | rfl

theorem Leaves.raiseCounter (h : Leaves B o d) (stream : Nat) (n : Nat) (amount : Nat) : Leaves B o (Dev.raiseCounter d stream n amount) := by
  unfold Dev.raiseCounter
  try dsimp only
  repeat' first
    | with_reducible assumption | with_reducible exact h | with_reducible apply Leaves.addSat
    | with_reducible apply Leaves.ite | with_reducible apply Leaves.ite1 | with_reducible apply Leaves.ite2
    | with_reducible apply Leaves.foldl | with_reducible apply Leaves.foldl_fst | with_reducible apply Leaves.foldl_snd
    | simp only [Leaves.upd] | (show configReg _ = false; simp) | intro _ _ _ | intro _ _ | intro _ | dsimp only | split | rfl

theorem Leaves.notifyCounter (h : Leaves B o d) (n : Nat) : Leaves B o (Dev.notifyCounter d n) := by
  unfold Dev.notifyCounter
  try dsimp only
  repeat' first
    | with_reducible assumption | with_reducible exact h | with_reducible apply Leaves.raiseCounter
    | with_reducible apply Leaves.ite | with_reducible apply Leaves.ite1 | with_reducible apply Leaves.ite2
    | with_reducible apply Leaves.foldl | with_reducible apply Leaves.foldl_fst | with_reducible apply Leaves.foldl_snd
    | simp only [Leaves.upd] | (show configReg _ = false; simp) | intro _ _ _ | intro _ _ | intro _ | dsimp only | split | rfl

theorem Leaves.write (h : Leaves noBytes o d) (cs : List Chunk) : Leaves noBytes o (Dev.write d cs) :=
  h.memoryFree fun x => Mem.wf_apply x cs

theorem Leaves.writeAt (h : Leaves noBytes o d) (a : Nat) (bs : List Byte) : Leaves noBytes o (Dev.writeAt d a bs) :=
  h.memoryFree fun x => Mem.wf_setBytes x a bs

theorem Leaves.leaveOpen (h : Leaves noBytes o d) (x : Nat × Nat) : Leaves noBytes o (Dev.leaveOpen d x) := by
  unfold Dev.leaveOpen
  try dsimp only
  repeat' first
    | with_reducible assumption | with_reducible exact h | with_reducible apply Leaves.drawBytes
    | with_reducible apply Leaves.writeAt | with_reducible apply Leaves.ite | with_reducible apply Leaves.ite1
    | with_reducible apply Leaves.ite2 | with_reducible apply Leaves.foldl | with_reducible apply Leaves.foldl_fst
    | with_reducible apply Leaves.foldl_snd | simp only [Leaves.upd] | (show configReg _ = false; simp) | intro _ _ _ | intro _ _ | intro _ | dsimp only
    | split | rfl

end Sys2Proof.Machine
end

