-- ==== Sys2Proof/Laws/LeaveHinge.lean ====
section
/-! SUPPORT. What the operations of Machine/Hinge.lean leave alone (`Leaves`). -/
set_option Elab.async false
set_option linter.unusedTactic false
set_option linter.unreachableTactic false
set_option linter.unusedSimpArgs false

namespace Sys2Proof.Machine

variable {B : Nat → Bool} {o d : Dev}

theorem Leaves.setHinge (h : Leaves B o d) (i : Nat) (h1 : HngState) : Leaves B o (Dev.setHinge d i h1) := by
  unfold Dev.setHinge
  try dsimp only
  repeat' first
    | with_reducible assumption | with_reducible exact h | with_reducible apply Leaves.ite
    | with_reducible apply Leaves.ite1 | with_reducible apply Leaves.ite2 | with_reducible apply Leaves.foldl
    | with_reducible apply Leaves.foldl_fst | with_reducible apply Leaves.foldl_snd | simp only [Leaves.upd] | (show configReg _ = false; simp)
    | intro _ _ _ | intro _ _ | intro _ | dsimp only | split | rfl

theorem Leaves.showHinge (h : Leaves B o d) (i : Nat) : Leaves B o (Dev.showHinge d i) := by
  unfold Dev.showHinge
  try dsimp only
  repeat' first
    | with_reducible assumption | with_reducible exact h | with_reducible apply Leaves.setFld
    | with_reducible apply Leaves.setFlag | with_reducible apply Leaves.setReg | with_reducible apply Leaves.raiseTo
    | with_reducible apply Leaves.ite | with_reducible apply Leaves.ite1 | with_reducible apply Leaves.ite2
    | with_reducible apply Leaves.foldl | with_reducible apply Leaves.foldl_fst | with_reducible apply Leaves.foldl_snd
    | simp only [Leaves.upd] | (show configReg _ = false; simp) | intro _ _ _ | intro _ _ | intro _ | dsimp only | split | rfl

theorem Leaves.hngFault (h : Leaves B o d) (i : Nat) (reason : Nat) (mb : Nat) : Leaves B o (Dev.hngFault d i reason mb) := by
  unfold Dev.hngFault
  try dsimp only
  repeat' first
    | with_reducible assumption | with_reducible exact h | with_reducible apply Leaves.setReg
    | with_reducible apply Leaves.pageFault | with_reducible apply Leaves.raise | with_reducible apply Leaves.bad
    | with_reducible apply Leaves.record | with_reducible apply Leaves.ite | with_reducible apply Leaves.ite1
    | with_reducible apply Leaves.ite2 | with_reducible apply Leaves.foldl | with_reducible apply Leaves.foldl_fst
    | with_reducible apply Leaves.foldl_snd | simp only [Leaves.upd] | (show configReg _ = false; simp) | intro _ _ _ | intro _ _ | intro _ | dsimp only
    | split | rfl

theorem Leaves.hingeLoss (h : Leaves B o d) (a : Nat) : Leaves B o (Dev.hingeLoss d a) := by
  unfold Dev.hingeLoss
  try dsimp only
  repeat' first
    | with_reducible assumption | with_reducible exact h | with_reducible apply Leaves.hngFault
    | with_reducible apply Leaves.setHinge | with_reducible apply Leaves.ite | with_reducible apply Leaves.ite1
    | with_reducible apply Leaves.ite2 | with_reducible apply Leaves.foldl | with_reducible apply Leaves.foldl_fst
    | with_reducible apply Leaves.foldl_snd | simp only [Leaves.upd] | (show configReg _ = false; simp) | intro _ _ _ | intro _ _ | intro _ | dsimp only
    | split | rfl

end Sys2Proof.Machine
end

