-- ==== Sys2Proof/Laws/LeaveMemory.lean ====
section
/-! SUPPORT. What the operations of Machine/Memory.lean leave alone (`Leaves`). -/
set_option Elab.async false
set_option linter.unusedTactic false
set_option linter.unreachableTactic false
set_option linter.unusedSimpArgs false

namespace Sys2Proof.Machine

variable {B : Nat → Bool} {o d : Dev}

theorem Leaves.setRemap (h : Leaves B o d) (s : Nat) (r : Remap) : Leaves B o (Dev.setRemap d s r) := by
  unfold Dev.setRemap
  try dsimp only
  repeat' first
    | with_reducible assumption | with_reducible exact h | with_reducible apply Leaves.ite
    | with_reducible apply Leaves.ite1 | with_reducible apply Leaves.ite2 | with_reducible apply Leaves.foldl
    | with_reducible apply Leaves.foldl_fst | with_reducible apply Leaves.foldl_snd | simp only [Leaves.upd] | (show configReg _ = false; simp)
    | intro _ _ _ | intro _ _ | intro _ | dsimp only | split | rfl

theorem Leaves.slotLoss (h : Leaves B o d) (state : Nat) : Leaves B o (Dev.slotLoss d state) := by
  have hb := h.badUnfixed
  unfold Dev.slotLoss
  generalize d.badUnfixed = b at hb ⊢
  exact Leaves.ite hb.other (Leaves.ite h hb)

theorem Leaves.jobLoss (h : Leaves B o d) (a : Nat) : Leaves B o (Dev.jobLoss d a) := by
  unfold Dev.jobLoss
  generalize d.ringSlotAt a = q
  cases q with
  | none => exact h.badUnfixed
  | some i => exact h.slotLoss _

theorem Leaves.lossEffect (h : Leaves B o d) (a : Nat) : Leaves B o (Dev.lossEffect d a) := by
  unfold Dev.lossEffect
  generalize regionOf a = g
  split
  · exact (h.pageFault _).packageFault
  · exact Leaves.ite h.badUnfixed h
  · exact h.jobLoss a
  · exact h

theorem Leaves.noteLoss (h : Leaves B o d) (s : Nat) (a : Nat) (met : Met) : Leaves B o (Dev.noteLoss d s a met) := by
  unfold Dev.noteLoss
  try dsimp only
  repeat' first
    | with_reducible assumption | with_reducible exact h | with_reducible apply Leaves.setReg
    | with_reducible apply Leaves.addSat | with_reducible apply Leaves.raise | with_reducible apply Leaves.record
    | with_reducible apply Leaves.ite | with_reducible apply Leaves.ite1 | with_reducible apply Leaves.ite2
    | with_reducible apply Leaves.foldl | with_reducible apply Leaves.foldl_fst | with_reducible apply Leaves.foldl_snd
    | simp only [Leaves.upd] | (show configReg _ = false; simp) | intro _ _ _ | intro _ _ | intro _ | dsimp only | split | rfl

theorem Leaves.spareRow (h : Leaves B o d) (s : Nat) (row : Nat) : Leaves B o (Dev.spareRow d s row) := by
  unfold Dev.spareRow
  try dsimp only
  repeat' first
    | with_reducible assumption | with_reducible exact h | with_reducible apply Leaves.raise
    | with_reducible apply Leaves.setRemap | with_reducible apply Leaves.packageFault
    | with_reducible apply Leaves.pageFault | with_reducible apply Leaves.ite | with_reducible apply Leaves.ite1
    | with_reducible apply Leaves.ite2 | with_reducible apply Leaves.foldl | with_reducible apply Leaves.foldl_fst
    | with_reducible apply Leaves.foldl_snd | simp only [Leaves.upd] | (show configReg _ = false; simp) | intro _ _ _ | intro _ _ | intro _ | dsimp only
    | split | rfl

theorem Leaves.loseBlock (h : Leaves noBytes o d) (addr : Nat) (met : Met) : Leaves noBytes o (Dev.loseBlock d addr met) := by
  unfold Dev.loseBlock
  try dsimp only
  repeat' first
    | with_reducible assumption | with_reducible exact h | with_reducible apply Leaves.hingeLoss
    | with_reducible apply Leaves.lossEffect | with_reducible apply Leaves.spareRow
    | with_reducible apply Leaves.noteLoss | with_reducible apply Leaves.writeAt | with_reducible apply Leaves.ite
    | with_reducible apply Leaves.ite1 | with_reducible apply Leaves.ite2 | with_reducible apply Leaves.foldl
    | with_reducible apply Leaves.foldl_fst | with_reducible apply Leaves.foldl_snd | simp only [Leaves.upd] | (show configReg _ = false; simp)
    | intro _ _ _ | intro _ _ | intro _ | dsimp only | split | rfl

theorem Leaves.transientBlock (h : Leaves B o d) (addr : Nat) : Leaves B o (Dev.transientBlock d addr) := by
  unfold Dev.transientBlock
  try dsimp only
  repeat' first
    | with_reducible assumption | with_reducible exact h | with_reducible apply Leaves.raise
    | with_reducible apply Leaves.addSat | with_reducible apply Leaves.ite | with_reducible apply Leaves.ite1
    | with_reducible apply Leaves.ite2 | with_reducible apply Leaves.foldl | with_reducible apply Leaves.foldl_fst
    | with_reducible apply Leaves.foldl_snd | simp only [Leaves.upd] | (show configReg _ = false; simp) | intro _ _ _ | intro _ _ | intro _ | dsimp only
    | split | rfl

theorem Leaves.blockFinding (h : Leaves noBytes o d) (met : Met) (f : BlockFinding) : Leaves noBytes o (Dev.blockFinding d met f) := by
  unfold Dev.blockFinding
  try dsimp only
  repeat' first
    | with_reducible assumption | with_reducible exact h | with_reducible apply Leaves.transientBlock
    | with_reducible apply Leaves.loseBlock | with_reducible apply Leaves.ite | with_reducible apply Leaves.ite1
    | with_reducible apply Leaves.ite2 | with_reducible apply Leaves.foldl | with_reducible apply Leaves.foldl_fst
    | with_reducible apply Leaves.foldl_snd | simp only [Leaves.upd] | (show configReg _ = false; simp) | intro _ _ _ | intro _ _ | intro _ | dsimp only
    | split | rfl

theorem Leaves.addWrites (h : Leaves noBytes o d) (ws : List AddWrite) : Leaves noBytes o (Dev.addWrites d ws).1 := by
  have hm : ∀ (l : List AddWrite) (b : Mem × List Nat), b.1.wf = true → (l.foldl addOne b).1.wf = true := by
    intro l
    induction l with
    | nil => exact fun _ hb => hb
    | cons w l ih => exact fun b hb => ih _ (Mem.wf_setBytes hb _ _)
  unfold Dev.addWrites
  apply Leaves.foldl
  · apply Leaves.foldl
    · exact h.memoryFree fun x => hm ws (d.mem, []) x
    · exact fun x a hx => hx.addWrap _ _
  · exact fun x a hx => hx.addSat _ _

theorem Leaves.found (h : Leaves noBytes o d) (written : List (Nat × Nat)) (fs : List BlockFinding) : Leaves noBytes o (Dev.found d written fs) := by
  unfold Dev.found
  try dsimp only
  repeat' first
    | with_reducible assumption | with_reducible exact h | with_reducible apply Leaves.blockFinding
    | with_reducible apply Leaves.ite | with_reducible apply Leaves.ite1 | with_reducible apply Leaves.ite2
    | with_reducible apply Leaves.foldl | with_reducible apply Leaves.foldl_fst | with_reducible apply Leaves.foldl_snd
    | simp only [Leaves.upd] | (show configReg _ = false; simp) | intro _ _ _ | intro _ _ | intro _ | dsimp only | split | rfl

end Sys2Proof.Machine
end

