-- ==== Sys2Proof/Laws/LeaveFlags.lean ====
section
/-! SUPPORT. What the operations of Machine/Flags.lean leave alone (`Leaves`). -/
set_option Elab.async false
set_option linter.unusedTactic false
set_option linter.unreachableTactic false
set_option linter.unusedSimpArgs false

namespace Sys2Proof.Machine

variable {B : Nat → Bool} {o d : Dev}

theorem Leaves.setLocalNf (h : Leaves B o d)  : Leaves B o (Dev.setLocalNf d) := by
  unfold Dev.setLocalNf
  try dsimp only
  repeat' first
    | with_reducible assumption | with_reducible exact h | with_reducible apply Leaves.raise
    | with_reducible apply Leaves.setReg | with_reducible apply Leaves.ite | with_reducible apply Leaves.ite1
    | with_reducible apply Leaves.ite2 | with_reducible apply Leaves.foldl | with_reducible apply Leaves.foldl_fst
    | with_reducible apply Leaves.foldl_snd | simp only [Leaves.upd] | (show configReg _ = false; simp) | intro _ _ _ | intro _ _ | intro _ | dsimp only
    | split | rfl

theorem Leaves.attribute (h : Leaves B o d) (unit : NfUnit) (order : Nat) (layer : Nat) (tensor : Word) (tag : Word) (nf : List Nat) : Leaves B o (Dev.attribute d unit order layer tensor tag nf) := by
  unfold Dev.attribute
  try dsimp only
  repeat' first
    | with_reducible assumption | with_reducible exact h | with_reducible apply Leaves.addSat
    | with_reducible apply Leaves.ite | with_reducible apply Leaves.ite1 | with_reducible apply Leaves.ite2
    | with_reducible apply Leaves.foldl | with_reducible apply Leaves.foldl_fst | with_reducible apply Leaves.foldl_snd
    | simp only [Leaves.upd] | (show configReg _ = false; simp) | intro _ _ _ | intro _ _ | intro _ | dsimp only | split | rfl

theorem Leaves.nonfinite (h : Leaves B o d) (unit : NfUnit) (order : Nat) (layer : Nat) (tensor : Word) (tag : Word) (nf : List Nat) : Leaves B o (Dev.nonfinite d unit order layer tensor tag nf) := by
  unfold Dev.nonfinite
  try dsimp only
  repeat' first
    | with_reducible assumption | with_reducible exact h | with_reducible apply Leaves.attribute
    | with_reducible apply Leaves.setLocalNf | with_reducible apply Leaves.ite | with_reducible apply Leaves.ite1
    | with_reducible apply Leaves.ite2 | with_reducible apply Leaves.foldl | with_reducible apply Leaves.foldl_fst
    | with_reducible apply Leaves.foldl_snd | simp only [Leaves.upd] | (show configReg _ = false; simp) | intro _ _ _ | intro _ _ | intro _ | dsimp only
    | split | rfl

theorem Leaves.merge (h : Leaves noBytes o d) (ref : Nat) (amax : Word) (n : Nat) : Leaves noBytes o (Dev.merge d ref amax n) := by
  unfold Dev.merge
  try dsimp only
  repeat' first
    | with_reducible assumption | with_reducible exact h | with_reducible apply Leaves.writeAt
    | with_reducible apply Leaves.ite | with_reducible apply Leaves.ite1 | with_reducible apply Leaves.ite2
    | with_reducible apply Leaves.foldl | with_reducible apply Leaves.foldl_fst | with_reducible apply Leaves.foldl_snd
    | simp only [Leaves.upd] | (show configReg _ = false; simp) | intro _ _ _ | intro _ _ | intro _ | dsimp only | split | rfl

theorem Leaves.output (h : Leaves noBytes o d) (o1 : Origin) (unit : NfUnit) (t : Desc) (out : Out) : Leaves noBytes o (Dev.output d o1 unit t out) := by
  unfold Dev.output
  try dsimp only
  repeat' first
    | with_reducible assumption | with_reducible exact h | with_reducible apply Leaves.write
    | with_reducible apply Leaves.nonfinite | with_reducible apply Leaves.merge | with_reducible apply Leaves.ite
    | with_reducible apply Leaves.ite1 | with_reducible apply Leaves.ite2 | with_reducible apply Leaves.foldl
    | with_reducible apply Leaves.foldl_fst | with_reducible apply Leaves.foldl_snd | simp only [Leaves.upd] | (show configReg _ = false; simp)
    | intro _ _ _ | intro _ _ | intro _ | dsimp only | split | rfl

theorem Leaves.addOutput (h : Leaves noBytes o d) (o1 : Origin) (t : Desc) (ws : List AddWrite) : Leaves noBytes o (Dev.addOutput d o1 t ws).1 := by
  unfold Dev.addOutput
  try dsimp only
  repeat' first
    | with_reducible assumption | with_reducible exact h | with_reducible apply Leaves.addWrites
    | with_reducible apply Leaves.nonfinite | with_reducible apply Leaves.ite | with_reducible apply Leaves.ite1
    | with_reducible apply Leaves.ite2 | with_reducible apply Leaves.foldl | with_reducible apply Leaves.foldl_fst
    | with_reducible apply Leaves.foldl_snd | simp only [Leaves.upd] | (show configReg _ = false; simp) | intro _ _ _ | intro _ _ | intro _ | dsimp only
    | split | rfl

end Sys2Proof.Machine
end

