-- ==== Sys2Proof/Laws/LeaveCheck.lean ====
section
/-! SUPPORT. What the operations of Machine/Check.lean leave alone (`Leaves`). -/
set_option Elab.async false
set_option linter.unusedTactic false
set_option linter.unreachableTactic false
set_option linter.unusedSimpArgs false

namespace Sys2Proof.Machine

variable {B : Nat → Bool} {o d : Dev}

theorem Leaves.setCore (h : Leaves B o d) (c : Nat) (i : CoreInfo) : Leaves B o (Dev.setCore d c i) := by
  unfold Dev.setCore
  try dsimp only
  repeat' first
    | with_reducible assumption | with_reducible exact h | with_reducible apply Leaves.ite
    | with_reducible apply Leaves.ite1 | with_reducible apply Leaves.ite2 | with_reducible apply Leaves.foldl
    | with_reducible apply Leaves.foldl_fst | with_reducible apply Leaves.foldl_snd | simp only [Leaves.upd] | (show configReg _ = false; simp)
    | intro _ _ _ | intro _ _ | intro _ | dsimp only | split | rfl

theorem Leaves.cluTo (h : Leaves B o d) (x : Nat) (c : Nat) : Leaves B o (Dev.cluTo d x c) := by
  unfold Dev.cluTo
  try dsimp only
  repeat' first
    | with_reducible assumption | with_reducible exact h | with_reducible apply Leaves.moveTo
    | with_reducible apply Leaves.raise | with_reducible apply Leaves.ite | with_reducible apply Leaves.ite1
    | with_reducible apply Leaves.ite2 | with_reducible apply Leaves.foldl | with_reducible apply Leaves.foldl_fst
    | with_reducible apply Leaves.foldl_snd | simp only [Leaves.upd] | (show configReg _ = false; simp) | intro _ _ _ | intro _ _ | intro _ | dsimp only
    | split | rfl

theorem Leaves.cluSettle (h : Leaves B o d) (f : Fuse) (x : Nat) : Leaves B o (Dev.cluSettle d f x) := by
  unfold Dev.cluSettle
  try dsimp only
  repeat' first
    | with_reducible assumption | with_reducible exact h | with_reducible apply Leaves.cluTo
    | with_reducible apply Leaves.ite | with_reducible apply Leaves.ite1 | with_reducible apply Leaves.ite2
    | with_reducible apply Leaves.foldl | with_reducible apply Leaves.foldl_fst | with_reducible apply Leaves.foldl_snd
    | simp only [Leaves.upd] | (show configReg _ = false; simp) | intro _ _ _ | intro _ _ | intro _ | dsimp only | split | rfl

theorem Leaves.coreTo (h : Leaves B o d) (f : Fuse) (c : Nat) (st : Nat) (probLeft : Nat) (event : Nat) : Leaves B o (Dev.coreTo d f c st probLeft event) := by
  unfold Dev.coreTo
  try dsimp only
  repeat' first
    | with_reducible assumption | with_reducible exact h | with_reducible apply Leaves.setCore
    | with_reducible apply Leaves.raiseLogged | with_reducible apply Leaves.setFld
    | with_reducible apply Leaves.cluSettle | with_reducible apply Leaves.ite | with_reducible apply Leaves.ite1
    | with_reducible apply Leaves.ite2 | with_reducible apply Leaves.foldl | with_reducible apply Leaves.foldl_fst
    | with_reducible apply Leaves.foldl_snd | simp only [Leaves.upd] | (show configReg _ = false; simp) | intro _ _ _ | intro _ _ | intro _ | dsimp only
    | split | rfl

theorem Leaves.showPinned (h : Leaves B o d)  : Leaves B o (Dev.showPinned d) := by
  unfold Dev.showPinned
  try dsimp only
  repeat' first
    | with_reducible assumption | with_reducible exact h | with_reducible apply Leaves.setFlag
    | with_reducible apply Leaves.raiseLogged | with_reducible apply Leaves.ite | with_reducible apply Leaves.ite1
    | with_reducible apply Leaves.ite2 | with_reducible apply Leaves.foldl | with_reducible apply Leaves.foldl_fst
    | with_reducible apply Leaves.foldl_snd | simp only [Leaves.upd] | (show configReg _ = false; simp) | intro _ _ _ | intro _ _ | intro _ | dsimp only
    | split | rfl

theorem Leaves.raiseMargin (h : Leaves B o d) (x : Nat) : Leaves B o (Dev.raiseMargin d x) := by
  unfold Dev.raiseMargin
  try dsimp only
  repeat' first
    | with_reducible assumption | with_reducible exact h | with_reducible apply Leaves.showPinned
    | with_reducible apply Leaves.setFld | with_reducible apply Leaves.ite | with_reducible apply Leaves.ite1
    | with_reducible apply Leaves.ite2 | with_reducible apply Leaves.foldl | with_reducible apply Leaves.foldl_fst
    | with_reducible apply Leaves.foldl_snd | simp only [Leaves.upd] | (show configReg _ = false; simp) | intro _ _ _ | intro _ _ | intro _ | dsimp only
    | split | rfl

theorem Leaves.probation (h : Leaves B o d) (f : Fuse) (c : Nat) : Leaves B o (Dev.probation d f c) := by
  unfold Dev.probation
  try dsimp only
  repeat' first
    | with_reducible assumption | with_reducible exact h | with_reducible apply Leaves.raiseMargin
    | with_reducible apply Leaves.addSat | with_reducible apply Leaves.coreTo | with_reducible apply Leaves.ite
    | with_reducible apply Leaves.ite1 | with_reducible apply Leaves.ite2 | with_reducible apply Leaves.foldl
    | with_reducible apply Leaves.foldl_fst | with_reducible apply Leaves.foldl_snd | simp only [Leaves.upd] | (show configReg _ = false; simp)
    | intro _ _ _ | intro _ _ | intro _ | dsimp only | split | rfl

theorem Leaves.marginBack (h : Leaves B o d) (f : Fuse) (x : Nat) : Leaves B o (Dev.marginBack d f x) := by
  unfold Dev.marginBack
  try dsimp only
  repeat' first
    | with_reducible assumption | with_reducible exact h | with_reducible apply Leaves.ite
    | with_reducible apply Leaves.ite1 | with_reducible apply Leaves.ite2 | with_reducible apply Leaves.foldl
    | with_reducible apply Leaves.foldl_fst | with_reducible apply Leaves.foldl_snd | simp only [Leaves.upd] | (show configReg _ = false; simp)
    | intro _ _ _ | intro _ _ | intro _ | dsimp only | split | rfl

theorem Leaves.keepTillBoundary (h : Leaves B o d) (c : Nat) : Leaves B o (Dev.keepTillBoundary d c) := by
  unfold Dev.keepTillBoundary
  try dsimp only
  repeat' first
    | with_reducible assumption | with_reducible exact h | with_reducible apply Leaves.ite
    | with_reducible apply Leaves.ite1 | with_reducible apply Leaves.ite2 | with_reducible apply Leaves.foldl
    | with_reducible apply Leaves.foldl_fst | with_reducible apply Leaves.foldl_snd | simp only [Leaves.upd] | (show configReg _ = false; simp)
    | intro _ _ _ | intro _ _ | intro _ | dsimp only | split | rfl

theorem Leaves.fence (h : Leaves B o d) (f : Fuse) (c : Nat) (source : Nat) : Leaves B o (Dev.fence d f c source) := by
  unfold Dev.fence
  try dsimp only
  repeat' first
    | with_reducible assumption | with_reducible exact h | with_reducible apply Leaves.keepTillBoundary
    | with_reducible apply Leaves.raise | with_reducible apply Leaves.addSat | with_reducible apply Leaves.marginBack
    | with_reducible apply Leaves.coreTo | with_reducible apply Leaves.record | with_reducible apply Leaves.ite
    | with_reducible apply Leaves.ite1 | with_reducible apply Leaves.ite2 | with_reducible apply Leaves.foldl
    | with_reducible apply Leaves.foldl_fst | with_reducible apply Leaves.foldl_snd | simp only [Leaves.upd] | (show configReg _ = false; simp)
    | intro _ _ _ | intro _ _ | intro _ | dsimp only | split | rfl

theorem Leaves.release (h : Leaves B o d) (f : Fuse) (c : Nat) : Leaves B o (Dev.release d f c) := by
  unfold Dev.release
  try dsimp only
  repeat' first
    | with_reducible assumption | with_reducible exact h | with_reducible apply Leaves.marginBack
    | with_reducible apply Leaves.coreTo | with_reducible apply Leaves.ite | with_reducible apply Leaves.ite1
    | with_reducible apply Leaves.ite2 | with_reducible apply Leaves.foldl | with_reducible apply Leaves.foldl_fst
    | with_reducible apply Leaves.foldl_snd | simp only [Leaves.upd] | (show configReg _ = false; simp) | intro _ _ _ | intro _ _ | intro _ | dsimp only
    | split | rfl

theorem Leaves.lastingCore (h : Leaves B o d) (f : Fuse) (c : Nat) (source : Nat) : Leaves B o (Dev.lastingCore d f c source) := by
  unfold Dev.lastingCore
  try dsimp only
  repeat' first
    | with_reducible assumption | with_reducible exact h | with_reducible apply Leaves.fence
    | with_reducible apply Leaves.probation | with_reducible apply Leaves.ite | with_reducible apply Leaves.ite1
    | with_reducible apply Leaves.ite2 | with_reducible apply Leaves.foldl | with_reducible apply Leaves.foldl_fst
    | with_reducible apply Leaves.foldl_snd | simp only [Leaves.upd] | (show configReg _ = false; simp) | intro _ _ _ | intro _ _ | intro _ | dsimp only
    | split | rfl

theorem Leaves.returnMargins (h : Leaves B o d)  : Leaves B o (Dev.returnMargins d) := by
  unfold Dev.returnMargins
  try dsimp only
  repeat' first
    | with_reducible assumption | with_reducible exact h | with_reducible apply Leaves.showPinned
    | with_reducible apply Leaves.setFld | with_reducible apply Leaves.ite | with_reducible apply Leaves.ite1
    | with_reducible apply Leaves.ite2 | with_reducible apply Leaves.foldl | with_reducible apply Leaves.foldl_fst
    | with_reducible apply Leaves.foldl_snd | simp only [Leaves.upd] | (show configReg _ = false; simp) | intro _ _ _ | intro _ _ | intro _ | dsimp only
    | split | rfl

theorem Leaves.leaveMaps (h : Leaves B o d) (f : Fuse) : Leaves B o (Dev.leaveMaps d f) := by
  unfold Dev.leaveMaps
  try dsimp only
  repeat' first
    | with_reducible assumption | with_reducible exact h | with_reducible apply Leaves.cluSettle
    | with_reducible apply Leaves.ite | with_reducible apply Leaves.ite1 | with_reducible apply Leaves.ite2
    | with_reducible apply Leaves.foldl | with_reducible apply Leaves.foldl_fst | with_reducible apply Leaves.foldl_snd
    | simp only [Leaves.upd] | (show configReg _ = false; simp) | intro _ _ _ | intro _ _ | intro _ | dsimp only | split | rfl

theorem Leaves.classify (h : Leaves B o d) (c : Nat) (source : Nat) (lasting : Bool) : Leaves B o (Dev.classify d c source lasting) := by
  unfold Dev.classify
  try dsimp only
  repeat' first
    | with_reducible assumption | with_reducible exact h | with_reducible apply Leaves.setReg
    | with_reducible apply Leaves.raise | with_reducible apply Leaves.addSat | with_reducible apply Leaves.ite
    | with_reducible apply Leaves.ite1 | with_reducible apply Leaves.ite2 | with_reducible apply Leaves.foldl
    | with_reducible apply Leaves.foldl_fst | with_reducible apply Leaves.foldl_snd | simp only [Leaves.upd] | (show configReg _ = false; simp)
    | intro _ _ _ | intro _ _ | intro _ | dsimp only | split | rfl

theorem Leaves.coreMismatch (h : Leaves B o d) (f : Fuse) (x : Nat) (core : Nat) (rowMask : Nat) (colMask : Nat) (corner : Bool) (repeated : Bool) (source : Nat) : Leaves B o (Dev.coreMismatch d f x core rowMask colMask corner repeated source) := by
  unfold Dev.coreMismatch
  try dsimp only
  repeat' first
    | with_reducible assumption | with_reducible exact h | with_reducible apply Leaves.setReg
    | with_reducible apply Leaves.addSatFld | with_reducible apply Leaves.raise | with_reducible apply Leaves.classify
    | with_reducible apply Leaves.lastingCore | with_reducible apply Leaves.ite | with_reducible apply Leaves.ite1
    | with_reducible apply Leaves.ite2 | with_reducible apply Leaves.foldl | with_reducible apply Leaves.foldl_fst
    | with_reducible apply Leaves.foldl_snd | simp only [Leaves.upd] | (show configReg _ = false; simp) | intro _ _ _ | intro _ _ | intro _ | dsimp only
    | split | rfl

theorem Leaves.lineFinding (h : Leaves noBytes o d) (x : Nat) (line : Nat) (lasting : Bool) : Leaves noBytes o (Dev.lineFinding d x line lasting) := by
  unfold Dev.lineFinding
  try dsimp only
  repeat' first
    | with_reducible assumption | with_reducible exact h | with_reducible apply Leaves.addSat
    | with_reducible apply Leaves.classify | with_reducible apply Leaves.drawBytes | with_reducible apply Leaves.writeAt
    | with_reducible apply Leaves.badUnfixed | with_reducible apply Leaves.cluTo | with_reducible apply Leaves.ite
    | with_reducible apply Leaves.ite1 | with_reducible apply Leaves.ite2 | with_reducible apply Leaves.foldl
    | with_reducible apply Leaves.foldl_fst | with_reducible apply Leaves.foldl_snd | simp only [Leaves.upd] | (show configReg _ = false; simp)
    | intro _ _ _ | intro _ _ | intro _ | dsimp only | split | rfl

theorem Leaves.lineRead (h : Leaves noBytes o d) (s : StoreFinding) : Leaves noBytes o (Dev.lineRead d s) := by
  unfold Dev.lineRead
  try dsimp only
  repeat' first
    | with_reducible assumption | with_reducible exact h | with_reducible apply Leaves.lineFinding
    | with_reducible apply Leaves.ite | with_reducible apply Leaves.ite1 | with_reducible apply Leaves.ite2
    | with_reducible apply Leaves.foldl | with_reducible apply Leaves.foldl_fst | with_reducible apply Leaves.foldl_snd
    | simp only [Leaves.upd] | (show configReg _ = false; simp) | intro _ _ _ | intro _ _ | intro _ | dsimp only | split | rfl

theorem Leaves.coreRead (h : Leaves B o d) (f : Fuse) (s : StoreFinding) : Leaves B o (Dev.coreRead d f s) := by
  unfold Dev.coreRead
  try dsimp only
  repeat' first
    | with_reducible assumption | with_reducible exact h | with_reducible apply Leaves.coreMismatch
    | with_reducible apply Leaves.addSat | with_reducible apply Leaves.ite | with_reducible apply Leaves.ite1
    | with_reducible apply Leaves.ite2 | with_reducible apply Leaves.foldl | with_reducible apply Leaves.foldl_fst
    | with_reducible apply Leaves.foldl_snd | simp only [Leaves.upd] | (show configReg _ = false; simp) | intro _ _ _ | intro _ _ | intro _ | dsimp only
    | split | rfl

theorem Leaves.findings (h : Leaves noBytes o d) (written : List (Nat × Nat)) (ev : OpEvents) : Leaves noBytes o (Dev.findings d written ev) := by
  unfold Dev.findings
  try dsimp only
  repeat' first
    | with_reducible assumption | with_reducible exact h | with_reducible apply Leaves.lineRead
    | with_reducible apply Leaves.found | with_reducible apply Leaves.ite | with_reducible apply Leaves.ite1
    | with_reducible apply Leaves.ite2 | with_reducible apply Leaves.foldl | with_reducible apply Leaves.foldl_fst
    | with_reducible apply Leaves.foldl_snd | simp only [Leaves.upd] | (show configReg _ = false; simp) | intro _ _ _ | intro _ _ | intro _ | dsimp only
    | split | rfl

theorem Leaves.coreFindings (h : Leaves B o d) (f : Fuse) (ev : OpEvents) : Leaves B o (Dev.coreFindings d f ev) := by
  unfold Dev.coreFindings
  try dsimp only
  repeat' first
    | with_reducible assumption | with_reducible exact h | with_reducible apply Leaves.coreRead
    | with_reducible apply Leaves.ite | with_reducible apply Leaves.ite1 | with_reducible apply Leaves.ite2
    | with_reducible apply Leaves.foldl | with_reducible apply Leaves.foldl_fst | with_reducible apply Leaves.foldl_snd
    | simp only [Leaves.upd] | (show configReg _ = false; simp) | intro _ _ _ | intro _ _ | intro _ | dsimp only | split | rfl

theorem Leaves.noteMoved (h : Leaves B o d) (x : Nat) : Leaves B o (Dev.noteMoved d x) := by
  unfold Dev.noteMoved
  try dsimp only
  repeat' first
    | with_reducible assumption | with_reducible exact h | with_reducible apply Leaves.raise
    | with_reducible apply Leaves.record | with_reducible apply Leaves.ite | with_reducible apply Leaves.ite1
    | with_reducible apply Leaves.ite2 | with_reducible apply Leaves.foldl | with_reducible apply Leaves.foldl_fst
    | with_reducible apply Leaves.foldl_snd | simp only [Leaves.upd] | (show configReg _ = false; simp) | intro _ _ _ | intro _ _ | intro _ | dsimp only
    | split | rfl

theorem Leaves.outvoted (h : Leaves B o d) (f : Fuse) (source : Nat) (c : Nat) (faulty : Bool) : Leaves B o (Dev.outvoted d f source c faulty) := by
  unfold Dev.outvoted
  try dsimp only
  repeat' first
    | with_reducible assumption | with_reducible exact h | with_reducible apply Leaves.lastingCore
    | with_reducible apply Leaves.badUnfixed | with_reducible apply Leaves.classify | with_reducible apply Leaves.ite
    | with_reducible apply Leaves.ite1 | with_reducible apply Leaves.ite2 | with_reducible apply Leaves.foldl
    | with_reducible apply Leaves.foldl_fst | with_reducible apply Leaves.foldl_snd | simp only [Leaves.upd] | (show configReg _ = false; simp)
    | intro _ _ _ | intro _ _ | intro _ | dsimp only | split | rfl

theorem Leaves.dupEffect (h : Leaves B o d) (f : Fuse) (source : Nat) (first : Nat) (second : Nat) (v : DupVerdict) : Leaves B o (Dev.dupEffect d f source first second v) := by
  unfold Dev.dupEffect
  try dsimp only
  repeat' first
    | with_reducible assumption | with_reducible exact h | with_reducible apply Leaves.classify
    | with_reducible apply Leaves.outvoted | with_reducible apply Leaves.ite | with_reducible apply Leaves.ite1
    | with_reducible apply Leaves.ite2 | with_reducible apply Leaves.foldl | with_reducible apply Leaves.foldl_fst
    | with_reducible apply Leaves.foldl_snd | simp only [Leaves.upd] | (show configReg _ = false; simp) | intro _ _ _ | intro _ _ | intro _ | dsimp only
    | split | rfl

theorem Leaves.dupItem (h : Leaves B o d) (f : Fuse) (start : Dev) (c : Nat) (deals : List ClusterDeal) (m : DupFinding) : Leaves B o (Dev.dupItem d f start c deals m) := by
  unfold Dev.dupItem
  try dsimp only
  repeat' first
    | with_reducible assumption | with_reducible exact h | with_reducible apply Leaves.addWrap
    | with_reducible apply Leaves.dupEffect | with_reducible apply Leaves.ite | with_reducible apply Leaves.ite1
    | with_reducible apply Leaves.ite2 | with_reducible apply Leaves.foldl | with_reducible apply Leaves.foldl_fst
    | with_reducible apply Leaves.foldl_snd | simp only [Leaves.upd] | (show configReg _ = false; simp) | intro _ _ _ | intro _ _ | intro _ | dsimp only
    | split | rfl

theorem Leaves.workItems (h : Leaves B o d) (f : Fuse) (c : Nat) (x : ClusterDeal) : Leaves B o (Dev.workItems d f c x) := by
  unfold Dev.workItems
  try dsimp only
  repeat' first
    | with_reducible assumption | with_reducible exact h | with_reducible apply Leaves.addSat
    | with_reducible apply Leaves.addWrap | with_reducible apply Leaves.ite | with_reducible apply Leaves.ite1
    | with_reducible apply Leaves.ite2 | with_reducible apply Leaves.foldl | with_reducible apply Leaves.foldl_fst
    | with_reducible apply Leaves.foldl_snd | simp only [Leaves.upd] | (show configReg _ = false; simp) | intro _ _ _ | intro _ _ | intro _ | dsimp only
    | split | rfl

end Sys2Proof.Machine
end

