-- ==== Sys2Proof/Laws/LeaveSeqOps.lean ====
section
/-! SUPPORT. What the operations of Machine/SeqOps.lean leave alone (`Leaves`). -/
set_option Elab.async false
set_option linter.unusedTactic false
set_option linter.unreachableTactic false
set_option linter.unusedSimpArgs false

namespace Sys2Proof.Machine

variable {B : Nat → Bool} {o d : Dev}

theorem Leaves.setStream (h : Leaves B o d) (st : Stream) (f : StreamState → StreamState) :
    Leaves B o (Dev.setStream d st f) := by
  cases st <;> exact h.other

theorem Leaves.suspend (h : Leaves B o d) (bit : Nat) : Leaves B o (Dev.suspend d bit) := by
  unfold Dev.suspend
  try dsimp only
  repeat' first
    | with_reducible assumption | with_reducible exact h | with_reducible apply Leaves.raise
    | with_reducible apply Leaves.setFlag | with_reducible apply Leaves.ite | with_reducible apply Leaves.ite1
    | with_reducible apply Leaves.ite2 | with_reducible apply Leaves.foldl | with_reducible apply Leaves.foldl_fst
    | with_reducible apply Leaves.foldl_snd | simp only [Leaves.upd] | (show configReg _ = false; simp) | intro _ _ _ | intro _ _ | intro _ | dsimp only
    | split | rfl

theorem Leaves.setPred (h : Leaves B o d) (st : Stream) (n : Nat) (v : Bool) : Leaves B o (Dev.setPred d st n v) := by
  unfold Dev.setPred
  try dsimp only
  repeat' first
    | with_reducible assumption | with_reducible exact h | with_reducible apply Leaves.setFlag
    | with_reducible apply Leaves.ite | with_reducible apply Leaves.ite1 | with_reducible apply Leaves.ite2
    | with_reducible apply Leaves.foldl | with_reducible apply Leaves.foldl_fst | with_reducible apply Leaves.foldl_snd
    | simp only [Leaves.upd] | (show configReg _ = false; simp) | intro _ _ _ | intro _ _ | intro _ | dsimp only | split | rfl

theorem Leaves.openSource (h : Leaves B o d) (ranges : List (Nat × Nat)) : Leaves B o (Dev.openSource d ranges).2 := by
  unfold Dev.openSource
  try dsimp only
  repeat' first
    | with_reducible assumption | with_reducible exact h | with_reducible apply Leaves.ite
    | with_reducible apply Leaves.ite1 | with_reducible apply Leaves.ite2 | with_reducible apply Leaves.foldl
    | with_reducible apply Leaves.foldl_fst | with_reducible apply Leaves.foldl_snd | simp only [Leaves.upd] | (show configReg _ = false; simp)
    | intro _ _ _ | intro _ _ | intro _ | dsimp only | split | rfl

theorem Leaves.operandSource (h : Leaves B o d) (st : Stream) (c : Decoded) : Leaves B o (Dev.operandSource d st c).2 := by
  unfold Dev.operandSource
  try dsimp only
  repeat' first
    | with_reducible assumption | with_reducible exact h | with_reducible apply Leaves.openSource
    | with_reducible apply Leaves.ite | with_reducible apply Leaves.ite1 | with_reducible apply Leaves.ite2
    | with_reducible apply Leaves.foldl | with_reducible apply Leaves.foldl_fst | with_reducible apply Leaves.foldl_snd
    | simp only [Leaves.upd] | (show configReg _ = false; simp) | intro _ _ _ | intro _ _ | intro _ | dsimp only | split | rfl

theorem Leaves.countOverrun (h : Leaves B o d)  : Leaves B o (Dev.countOverrun d) := by
  unfold Dev.countOverrun
  try dsimp only
  repeat' first
    | with_reducible assumption | with_reducible exact h | with_reducible apply Leaves.raise
    | with_reducible apply Leaves.suspend | with_reducible apply Leaves.addSat | with_reducible apply Leaves.ite
    | with_reducible apply Leaves.ite1 | with_reducible apply Leaves.ite2 | with_reducible apply Leaves.foldl
    | with_reducible apply Leaves.foldl_fst | with_reducible apply Leaves.foldl_snd | simp only [Leaves.upd] | (show configReg _ = false; simp)
    | intro _ _ _ | intro _ _ | intro _ | dsimp only | split | rfl

theorem Leaves.measureBf (h : Leaves B o d) (r : Running) : Leaves B o (Dev.measureBf d r) := by
  unfold Dev.measureBf
  try dsimp only
  repeat' first
    | with_reducible assumption | with_reducible exact h | with_reducible apply Leaves.raiseTo
    | with_reducible apply Leaves.countOverrun | with_reducible apply Leaves.ite | with_reducible apply Leaves.ite1
    | with_reducible apply Leaves.ite2 | with_reducible apply Leaves.foldl | with_reducible apply Leaves.foldl_fst
    | with_reducible apply Leaves.foldl_snd | simp only [Leaves.upd] | (show configReg _ = false; simp) | intro _ _ _ | intro _ _ | intro _ | dsimp only
    | split | rfl

theorem Leaves.measureTime (h : Leaves B o d) (st : Stream) : Leaves B o (Dev.measureTime d st) := by
  unfold Dev.measureTime
  try dsimp only
  repeat' first
    | with_reducible assumption | with_reducible exact h | with_reducible apply Leaves.measureBf
    | with_reducible apply Leaves.ite | with_reducible apply Leaves.ite1 | with_reducible apply Leaves.ite2
    | with_reducible apply Leaves.foldl | with_reducible apply Leaves.foldl_fst | with_reducible apply Leaves.foldl_snd
    | simp only [Leaves.upd] | (show configReg _ = false; simp) | intro _ _ _ | intro _ _ | intro _ | dsimp only | split | rfl

theorem Leaves.moveOn (h : Leaves B o d) (st : Stream) (p : Place) : Leaves B o (Dev.moveOn d st p) := by
  unfold Dev.moveOn
  try dsimp only
  repeat' first
    | with_reducible assumption | with_reducible exact h | with_reducible apply Leaves.setStream
    | with_reducible apply Leaves.setFld | with_reducible apply Leaves.raise | with_reducible apply Leaves.ite
    | with_reducible apply Leaves.ite1 | with_reducible apply Leaves.ite2 | with_reducible apply Leaves.foldl
    | with_reducible apply Leaves.foldl_fst | with_reducible apply Leaves.foldl_snd | simp only [Leaves.upd] | (show configReg _ = false; simp)
    | intro _ _ _ | intro _ _ | intro _ | dsimp only | split | rfl

theorem Leaves.completeAt (h : Leaves B o d) (st : Stream) (c : Decoded) (p : Place) : Leaves B o (Dev.completeAt d st c p) := by
  unfold Dev.completeAt
  try dsimp only
  repeat' first
    | with_reducible assumption | with_reducible exact h | with_reducible apply Leaves.setStream
    | with_reducible apply Leaves.measureTime | with_reducible apply Leaves.addWrap | with_reducible apply Leaves.raise
    | with_reducible apply Leaves.moveOn | with_reducible apply Leaves.ite | with_reducible apply Leaves.ite1
    | with_reducible apply Leaves.ite2 | with_reducible apply Leaves.foldl | with_reducible apply Leaves.foldl_fst
    | with_reducible apply Leaves.foldl_snd | simp only [Leaves.upd] | (show configReg _ = false; simp) | intro _ _ _ | intro _ _ | intro _ | dsimp only
    | split | rfl

theorem Leaves.complete (h : Leaves B o d) (st : Stream) (c : Decoded) : Leaves B o (Dev.complete d st c) := by
  unfold Dev.complete
  try dsimp only
  repeat' first
    | with_reducible assumption | with_reducible exact h | with_reducible apply Leaves.completeAt
    | with_reducible apply Leaves.ite | with_reducible apply Leaves.ite1 | with_reducible apply Leaves.ite2
    | with_reducible apply Leaves.foldl | with_reducible apply Leaves.foldl_fst | with_reducible apply Leaves.foldl_snd
    | simp only [Leaves.upd] | (show configReg _ = false; simp) | intro _ _ _ | intro _ _ | intro _ | dsimp only | split | rfl

theorem Leaves.skipOne (h : Leaves B o d) (st : Stream) (c : Decoded) (rest : List Ahead) : Leaves B o (Dev.skipOne d st c rest) := by
  unfold Dev.skipOne
  try dsimp only
  repeat' first
    | with_reducible assumption | with_reducible exact h | with_reducible apply Leaves.setStream
    | with_reducible apply Leaves.addSat | with_reducible apply Leaves.moveOn | with_reducible apply Leaves.ite
    | with_reducible apply Leaves.ite1 | with_reducible apply Leaves.ite2 | with_reducible apply Leaves.foldl
    | with_reducible apply Leaves.foldl_fst | with_reducible apply Leaves.foldl_snd | simp only [Leaves.upd] | (show configReg _ = false; simp)
    | intro _ _ _ | intro _ _ | intro _ | dsimp only | split | rfl

theorem Leaves.skipAhead (h : Leaves B o d) (st : Stream) (n : Nat) : Leaves B o (Dev.skipAhead st n d) := by
  induction n generalizing d with
  | zero => exact h
  | succ n ih =>
    unfold Dev.skipAhead
    dsimp only
    split
    · exact Leaves.ite (ih (h.skipOne st _ _)) h
    · exact h

theorem Leaves.settle (h : Leaves B o d) (st : Stream) : Leaves B o (Dev.settle d st) := by
  unfold Dev.settle
  try dsimp only
  repeat' first
    | with_reducible assumption | with_reducible exact h | with_reducible apply Leaves.skipAhead
    | with_reducible apply Leaves.ite | with_reducible apply Leaves.ite1 | with_reducible apply Leaves.ite2
    | with_reducible apply Leaves.foldl | with_reducible apply Leaves.foldl_fst | with_reducible apply Leaves.foldl_snd
    | simp only [Leaves.upd] | (show configReg _ = false; simp) | intro _ _ _ | intro _ _ | intro _ | dsimp only | split | rfl

theorem Leaves.reject (h : Leaves B o d) (st : Stream) (reason : Nat) (addr : Nat) (depth : Nat) (tag : Word) : Leaves B o (Dev.reject d st reason addr depth tag) := by
  unfold Dev.reject
  try dsimp only
  repeat' first
    | with_reducible assumption | with_reducible exact h | with_reducible apply Leaves.setStream
    | with_reducible apply Leaves.setReg | with_reducible apply Leaves.raise | with_reducible apply Leaves.pageFault
    | with_reducible apply Leaves.record | with_reducible apply Leaves.bad | with_reducible apply Leaves.suspend
    | with_reducible apply Leaves.ite | with_reducible apply Leaves.ite1 | with_reducible apply Leaves.ite2
    | with_reducible apply Leaves.foldl | with_reducible apply Leaves.foldl_fst | with_reducible apply Leaves.foldl_snd
    | simp only [Leaves.upd] | (show configReg _ = false; simp) | intro _ _ _ | intro _ _ | intro _ | dsimp only | split | rfl

theorem Leaves.rejectRun (h : Leaves B o d) (st : Stream) (c : Decoded) (reason : Nat) : Leaves B o (Dev.rejectRun d st c reason) := by
  unfold Dev.rejectRun
  try dsimp only
  repeat' first
    | with_reducible assumption | with_reducible exact h | with_reducible apply Leaves.reject
    | with_reducible apply Leaves.ite | with_reducible apply Leaves.ite1 | with_reducible apply Leaves.ite2
    | with_reducible apply Leaves.foldl | with_reducible apply Leaves.foldl_fst | with_reducible apply Leaves.foldl_snd
    | simp only [Leaves.upd] | (show configReg _ = false; simp) | intro _ _ _ | intro _ _ | intro _ | dsimp only | split | rfl

theorem Leaves.resumeTime (h : Leaves B o d) (st : Stream) : Leaves B o (Dev.resumeTime d st) := by
  unfold Dev.resumeTime
  split
  · exact Leaves.other (Leaves.raiseTo h (Reg.seqResumeMaxNs 1) _)
  · exact h

theorem Leaves.issue (h : Leaves B o d) (st : Stream) (c : Decoded) (done : Bool) (waiting : Bool) : Leaves B o (Dev.issue d st c done waiting) := by
  unfold Dev.issue
  try dsimp only
  repeat' first
    | with_reducible assumption | with_reducible exact h | with_reducible apply Leaves.resumeTime
    | with_reducible apply Leaves.setStream | with_reducible apply Leaves.ite | with_reducible apply Leaves.ite1
    | with_reducible apply Leaves.ite2 | with_reducible apply Leaves.foldl | with_reducible apply Leaves.foldl_fst
    | with_reducible apply Leaves.foldl_snd | simp only [Leaves.upd] | (show configReg _ = false; simp) | intro _ _ _ | intro _ _ | intro _ | dsimp only
    | split | rfl

theorem Leaves.wrote (h : Leaves B o d) (st : Stream) (ranges : List (Nat × Nat)) : Leaves B o (Dev.wrote d st ranges) := by
  unfold Dev.wrote
  try dsimp only
  repeat' first
    | with_reducible assumption | with_reducible exact h | with_reducible apply Leaves.setStream
    | with_reducible apply Leaves.ite | with_reducible apply Leaves.ite1 | with_reducible apply Leaves.ite2
    | with_reducible apply Leaves.foldl | with_reducible apply Leaves.foldl_fst | with_reducible apply Leaves.foldl_snd
    | simp only [Leaves.upd] | (show configReg _ = false; simp) | intro _ _ _ | intro _ _ | intro _ | dsimp only | split | rfl

theorem Leaves.operate (h : Leaves noBytes o d) (f : Fuse) (st : Stream) (c : Decoded) (written : List (Nat × Nat)) (ev : OpEvents)
    (effect : ByteSource → Dev → Dev) (hf : ∀ y x, Leaves noBytes o x → Leaves noBytes o (effect y x)) :
    Leaves noBytes o (Dev.operate d f st c written ev effect) := by
  unfold Dev.operate
  exact ((hf _ _ (((h.findings written ev).operandSource st c).issue st c true false)).wrote st written).coreFindings f ev

end Sys2Proof.Machine
end

