-- ==== Sys2Proof/Laws/LeaveDecoder.lean ====
section
/-! SUPPORT. What the operations of Machine/Decoder.lean leave alone (`Leaves`). -/
set_option Elab.async false
set_option linter.unusedTactic false
set_option linter.unreachableTactic false
set_option linter.unusedSimpArgs false

namespace Sys2Proof.Machine

variable {B : Nat → Bool} {o d : Dev}

theorem Leaves.fetch (h : Leaves B o d) (f : Fuse) (st : Stream) : Leaves B o (Dev.fetch d f st) := by
  unfold Dev.fetch
  try dsimp only
  repeat' first
    | with_reducible assumption | with_reducible exact h | with_reducible apply Leaves.openSource
    | with_reducible apply Leaves.settle | with_reducible apply Leaves.setStream | with_reducible apply Leaves.ite
    | with_reducible apply Leaves.ite1 | with_reducible apply Leaves.ite2 | with_reducible apply Leaves.foldl
    | with_reducible apply Leaves.foldl_fst | with_reducible apply Leaves.foldl_snd | simp only [Leaves.upd] | (show configReg _ = false; simp)
    | intro _ _ _ | intro _ _ | intro _ | dsimp only | split | rfl

end Sys2Proof.Machine
end

