-- ==== Sys2Proof/Laws/LeaveSequencer.lean ====
section
/-! SUPPORT. What the operations of Machine/Sequencer.lean leave alone (`Leaves`). -/
set_option Elab.async false
set_option linter.unusedTactic false
set_option linter.unreachableTactic false
set_option linter.unusedSimpArgs false

namespace Sys2Proof.Machine

variable {B : Nat → Bool} {o d : Dev}

theorem Leaves.issueIf (h : Leaves B o d) (st : Stream) (f : Decoded → Option Dev)
    (hf : ∀ c, LeavesOpt B o (f c)) : Leaves B o (Dev.issueIf d st f) := by
  unfold Dev.issueIf
  split
  · exact h
  · exact h.getD (hf _)

theorem Leaves.instant (h : Leaves B o d) (st : Stream) (c : Decoded) (f : Dev → Dev) (hf : ∀ x, Leaves B o x → Leaves B o (f x)) : Leaves B o (Dev.instant d st c f) := by
  unfold Dev.instant
  try dsimp only
  repeat' first
    | with_reducible assumption | with_reducible exact h | with_reducible apply Leaves.settle
    | with_reducible apply Leaves.complete | with_reducible apply Leaves.issue | with_reducible apply hf
    | with_reducible apply Leaves.ite | with_reducible apply Leaves.ite1 | with_reducible apply Leaves.ite2
    | with_reducible apply Leaves.foldl | with_reducible apply Leaves.foldl_fst | with_reducible apply Leaves.foldl_snd
    | simp only [Leaves.upd] | (show configReg _ = false; simp) | intro _ _ _ | intro _ _ | intro _ | dsimp only | split | rfl

theorem Leaves.endWait (h : Leaves B o d) (st : Stream) (c : Decoded) : Leaves B o (Dev.endWait d st c) := by
  unfold Dev.endWait
  try dsimp only
  repeat' first
    | with_reducible assumption | with_reducible exact h | with_reducible apply Leaves.settle
    | with_reducible apply Leaves.complete | with_reducible apply Leaves.ite | with_reducible apply Leaves.ite1
    | with_reducible apply Leaves.ite2 | with_reducible apply Leaves.foldl | with_reducible apply Leaves.foldl_fst
    | with_reducible apply Leaves.foldl_snd | simp only [Leaves.upd] | (show configReg _ = false; simp) | intro _ _ _ | intro _ _ | intro _ | dsimp only
    | split | rfl

theorem Leaves.whenFinal (h : Leaves B o d) (st : Stream) (c : Decoded) (ready : Bool) (f : Dev → Dev) (hf : ∀ x, Leaves B o x → Leaves B o (f x)) : Leaves B o (Dev.whenFinal d st c ready f) := by
  unfold Dev.whenFinal
  try dsimp only
  repeat' first
    | with_reducible assumption | with_reducible exact h | with_reducible apply Leaves.issue | with_reducible apply hf
    | with_reducible apply Leaves.ite | with_reducible apply Leaves.ite1 | with_reducible apply Leaves.ite2
    | with_reducible apply Leaves.foldl | with_reducible apply Leaves.foldl_fst | with_reducible apply Leaves.foldl_snd
    | simp only [Leaves.upd] | (show configReg _ = false; simp) | intro _ _ _ | intro _ _ | intro _ | dsimp only | split | rfl

theorem Leaves.runSetpred (h : Leaves B o d) (st : Stream) (c : Decoded) (p : SetpredCmd) : Leaves B o (Dev.runSetpred d st c p) := by
  unfold Dev.runSetpred
  try dsimp only
  repeat' first
    | with_reducible assumption | with_reducible exact h | with_reducible apply Leaves.settle
    | with_reducible apply Leaves.complete | with_reducible apply Leaves.setPred | with_reducible apply Leaves.whenFinal
    | with_reducible apply Leaves.operandSource | with_reducible apply Leaves.rejectRun
    | with_reducible apply Leaves.issue | with_reducible apply Leaves.ite | with_reducible apply Leaves.ite1
    | with_reducible apply Leaves.ite2 | with_reducible apply Leaves.foldl | with_reducible apply Leaves.foldl_fst
    | with_reducible apply Leaves.foldl_snd | simp only [Leaves.upd] | (show configReg _ = false; simp) | intro _ _ _ | intro _ _ | intro _ | dsimp only
    | split | rfl

theorem Leaves.runStamp (h : Leaves noBytes o d) (st : Stream) (c : Decoded) (p : StampCmd) : Leaves noBytes o (Dev.runStamp d st c p) := by
  unfold Dev.runStamp
  try dsimp only
  repeat' first
    | with_reducible assumption | with_reducible exact h | with_reducible apply Leaves.operandSource
    | with_reducible apply Leaves.whenFinal | with_reducible apply Leaves.settle | with_reducible apply Leaves.complete
    | with_reducible apply Leaves.wrote | with_reducible apply Leaves.writeAt | with_reducible apply Leaves.drawBytes
    | with_reducible apply Leaves.rejectRun | with_reducible apply Leaves.ite | with_reducible apply Leaves.ite1
    | with_reducible apply Leaves.ite2 | with_reducible apply Leaves.foldl | with_reducible apply Leaves.foldl_fst
    | with_reducible apply Leaves.foldl_snd | simp only [Leaves.upd] | (show configReg _ = false; simp) | intro _ _ _ | intro _ _ | intro _ | dsimp only
    | split | rfl

theorem Leaves.vtbReject (h : Leaves B o d) (reason : Nat) (sub : Nat) : Leaves B o (Dev.vtbReject d reason sub) := by
  unfold Dev.vtbReject
  try dsimp only
  repeat' first
    | with_reducible assumption | with_reducible exact h | with_reducible apply Leaves.raise
    | with_reducible apply Leaves.addSat | with_reducible apply Leaves.setFld | with_reducible apply Leaves.ite
    | with_reducible apply Leaves.ite1 | with_reducible apply Leaves.ite2 | with_reducible apply Leaves.foldl
    | with_reducible apply Leaves.foldl_fst | with_reducible apply Leaves.foldl_snd | simp only [Leaves.upd] | (show configReg _ = false; simp)
    | intro _ _ _ | intro _ _ | intro _ | dsimp only | split | rfl

end Sys2Proof.Machine
end

