-- ==== Sys2Proof/Laws/LeaveArray.lean ====
section
/-! SUPPORT. What the operations of Machine/Array.lean leave alone (`Leaves`). -/
set_option Elab.async false
set_option linter.unusedTactic false
set_option linter.unreachableTactic false
set_option linter.unusedSimpArgs false

namespace Sys2Proof.Machine

variable {B : Nat → Bool} {o d : Dev}

theorem Leaves.cellFinding {seen : Dev × List ClusterDeal} (h : Leaves B o seen.1) (f : Fuse) (st : Stream) (m : MatmulCmd) (src : ByteSource)
    (groups : List PGroup) (c : CellFinding) : Leaves B o (Dev.cellFinding f st m src groups seen c).1 := by
  have hm := fun x a p q r b => h.coreMismatch f x a p q r b 1
  unfold Dev.cellFinding
  split
  · split
    · exact h
    · dsimp only
      split
      · exact h
      · split
        · simp only [Leaves.upd]
          exact Leaves.addWrap (Leaves.upd.mpr (hm _ _ _ _ _ _)) _ _
        · exact Leaves.upd.mpr (hm _ _ _ _ _ _)
  · exact h

theorem Leaves.runItems (h : Leaves B o d) (f : Fuse) (st : Stream) (m : MatmulCmd) (src : ByteSource) (ev : OpEvents) : Leaves B o (Dev.runItems d f st m src ev).1 := by
  unfold Dev.runItems
  try dsimp only
  repeat' first
    | with_reducible assumption | with_reducible exact h | with_reducible apply Leaves.packageFault
    | with_reducible apply Leaves.noteMoved | with_reducible apply Leaves.workItems
    | with_reducible apply Leaves.cellFinding | with_reducible apply Leaves.dupItem | with_reducible apply Leaves.ite
    | with_reducible apply Leaves.ite1 | with_reducible apply Leaves.ite2 | with_reducible apply Leaves.foldl
    | with_reducible apply Leaves.foldl_fst | with_reducible apply Leaves.foldl_snd | simp only [Leaves.upd] | (show configReg _ = false; simp)
    | intro _ _ _ | intro _ _ | intro _ | dsimp only | split | rfl

theorem Leaves.countSpill (h : Leaves B o d) (u : TileUse) : Leaves B o (Dev.countSpill d u) := by
  unfold Dev.countSpill
  try dsimp only
  repeat' first
    | with_reducible assumption | with_reducible exact h | with_reducible apply Leaves.raise
    | with_reducible apply Leaves.addSat | with_reducible apply Leaves.ite | with_reducible apply Leaves.ite1
    | with_reducible apply Leaves.ite2 | with_reducible apply Leaves.foldl | with_reducible apply Leaves.foldl_fst
    | with_reducible apply Leaves.foldl_snd | simp only [Leaves.upd] | (show configReg _ = false; simp) | intro _ _ _ | intro _ _ | intro _ | dsimp only
    | split | rfl

theorem Leaves.keepProduct (h : Leaves B o d) (st : Stream) (m : MatmulCmd) (deals : List ClusterDeal) (rows : List (Nat × List Word)) : Leaves B o (Dev.keepProduct d st m deals rows) := by
  unfold Dev.keepProduct
  try dsimp only
  repeat' first
    | with_reducible assumption | with_reducible exact h | with_reducible apply Leaves.drawWord
    | with_reducible apply Leaves.countSpill | with_reducible apply Leaves.setStream | with_reducible apply Leaves.ite
    | with_reducible apply Leaves.ite1 | with_reducible apply Leaves.ite2 | with_reducible apply Leaves.foldl
    | with_reducible apply Leaves.foldl_fst | with_reducible apply Leaves.foldl_snd | simp only [Leaves.upd] | (show configReg _ = false; simp)
    | intro _ _ _ | intro _ _ | intro _ | dsimp only | split | rfl

theorem Leaves.keptFindings (h : Leaves B o d) (o1 : Origin) (l0 : Nat) (rows : List (Nat × List Word)) : Leaves B o (Dev.keptFindings d o1 l0 rows) := by
  unfold Dev.keptFindings
  try dsimp only
  repeat' first
    | with_reducible assumption | with_reducible exact h | with_reducible apply Leaves.nonfinite
    | with_reducible apply Leaves.ite | with_reducible apply Leaves.ite1 | with_reducible apply Leaves.ite2
    | with_reducible apply Leaves.foldl | with_reducible apply Leaves.foldl_fst | with_reducible apply Leaves.foldl_snd
    | simp only [Leaves.upd] | (show configReg _ = false; simp) | intro _ _ _ | intro _ _ | intro _ | dsimp only | split | rfl

theorem Leaves.matmulEffect (h : Leaves noBytes o d) (f : Fuse) (st : Stream) (c : Decoded) (m : MatmulCmd) (src : ByteSource) (ev : OpEvents) : Leaves noBytes o (Dev.matmulEffect d f st c m src ev) := by
  unfold Dev.matmulEffect
  try dsimp only
  repeat' first
    | with_reducible assumption | with_reducible exact h | with_reducible apply Leaves.runItems
    | with_reducible apply Leaves.addOutput | with_reducible apply Leaves.output
    | with_reducible apply Leaves.keptFindings | with_reducible apply Leaves.keepProduct
    | with_reducible apply Leaves.ite | with_reducible apply Leaves.ite1 | with_reducible apply Leaves.ite2
    | with_reducible apply Leaves.foldl | with_reducible apply Leaves.foldl_fst | with_reducible apply Leaves.foldl_snd
    | simp only [Leaves.upd] | (show configReg _ = false; simp) | intro _ _ _ | intro _ _ | intro _ | dsimp only | split | rfl

theorem Leaves.heritageEffect (h : Leaves noBytes o d) (f : Fuse) (st : Stream) (c : Decoded) (m : MatmulCmd) (src : ByteSource) (ev : OpEvents) : Leaves noBytes o (Dev.heritageEffect d f st c m src ev) := by
  unfold Dev.heritageEffect
  try dsimp only
  repeat' first
    | with_reducible assumption | with_reducible exact h | with_reducible apply Leaves.runItems
    | with_reducible apply Leaves.output | with_reducible apply Leaves.keptFindings
    | with_reducible apply Leaves.keepProduct | with_reducible apply Leaves.ite | with_reducible apply Leaves.ite1
    | with_reducible apply Leaves.ite2 | with_reducible apply Leaves.foldl | with_reducible apply Leaves.foldl_fst
    | with_reducible apply Leaves.foldl_snd | simp only [Leaves.upd] | (show configReg _ = false; simp) | intro _ _ _ | intro _ _ | intro _ | dsimp only
    | split | rfl

end Sys2Proof.Machine
end

