-- ==== Sys2Proof/Laws/LeaveCompass.lean ====
section
/-! SUPPORT. What the operations of Machine/Compass.lean leave alone (`Leaves`). -/
set_option Elab.async false
set_option linter.unusedTactic false
set_option linter.unreachableTactic false
set_option linter.unusedSimpArgs false

namespace Sys2Proof.Machine

variable {B : Nat → Bool} {o d : Dev}

theorem Leaves.putProtocol (h : Leaves B o d) (p : Protocol) : Leaves B o (Dev.putProtocol d p) := by
  unfold Dev.putProtocol
  try dsimp only
  repeat' first
    | with_reducible assumption | with_reducible exact h | with_reducible apply Leaves.ite
    | with_reducible apply Leaves.ite1 | with_reducible apply Leaves.ite2 | with_reducible apply Leaves.foldl
    | with_reducible apply Leaves.foldl_fst | with_reducible apply Leaves.foldl_snd | simp only [Leaves.upd] | (show configReg _ = false; simp)
    | intro _ _ _ | intro _ _ | intro _ | dsimp only | split | rfl

theorem Leaves.endProtocol (h : Leaves B o d) (p : Protocol) : Leaves B o (Dev.endProtocol d p) := by
  unfold Dev.endProtocol
  try dsimp only
  repeat' first
    | with_reducible assumption | with_reducible exact h | with_reducible apply Leaves.ite
    | with_reducible apply Leaves.ite1 | with_reducible apply Leaves.ite2 | with_reducible apply Leaves.foldl
    | with_reducible apply Leaves.foldl_fst | with_reducible apply Leaves.foldl_snd | simp only [Leaves.upd] | (show configReg _ = false; simp)
    | intro _ _ _ | intro _ _ | intro _ | dsimp only | split | rfl

theorem Leaves.sendSet (h : Leaves B o d) (p : Protocol) (x : Sending) : Leaves B o (Dev.sendSet d p x) := by
  unfold Dev.sendSet
  try dsimp only
  repeat' first
    | with_reducible assumption | with_reducible exact h | with_reducible apply Leaves.digestOut
    | with_reducible apply Leaves.putProtocol | with_reducible apply Leaves.sendPacket | with_reducible apply Leaves.ite
    | with_reducible apply Leaves.ite1 | with_reducible apply Leaves.ite2 | with_reducible apply Leaves.foldl
    | with_reducible apply Leaves.foldl_fst | with_reducible apply Leaves.foldl_snd | simp only [Leaves.upd] | (show configReg _ = false; simp)
    | intro _ _ _ | intro _ _ | intro _ | dsimp only | split | rfl

theorem Leaves.abandonRecord (h : Leaves B o d) (p : Protocol) (reason : Nat) (sender : Nat) (timeout : Bool) : Leaves B o (Dev.abandonRecord d p reason sender timeout) := by
  unfold Dev.abandonRecord
  try dsimp only
  repeat' first
    | with_reducible assumption | with_reducible exact h | with_reducible apply Leaves.endProtocol
    | with_reducible apply Leaves.setReg | with_reducible apply Leaves.raise | with_reducible apply Leaves.pageFault
    | with_reducible apply Leaves.bad | with_reducible apply Leaves.record | with_reducible apply Leaves.ite
    | with_reducible apply Leaves.ite1 | with_reducible apply Leaves.ite2 | with_reducible apply Leaves.foldl
    | with_reducible apply Leaves.foldl_fst | with_reducible apply Leaves.foldl_snd | simp only [Leaves.upd] | (show configReg _ = false; simp)
    | intro _ _ _ | intro _ _ | intro _ | dsimp only | split | rfl

theorem Leaves.finishRecord (h : Leaves noBytes o d) (p : Protocol) : Leaves noBytes o (Dev.finishRecord d p) := by
  unfold Dev.finishRecord
  try dsimp only
  repeat' first
    | with_reducible assumption | with_reducible exact h | with_reducible apply Leaves.endProtocol
    | with_reducible apply Leaves.writeAt | with_reducible apply Leaves.setReg | with_reducible apply Leaves.addSat
    | with_reducible apply Leaves.raise | with_reducible apply Leaves.record | with_reducible apply Leaves.ite
    | with_reducible apply Leaves.ite1 | with_reducible apply Leaves.ite2 | with_reducible apply Leaves.foldl
    | with_reducible apply Leaves.foldl_fst | with_reducible apply Leaves.foldl_snd | simp only [Leaves.upd] | (show configReg _ = false; simp)
    | intro _ _ _ | intro _ _ | intro _ | dsimp only | split | rfl

theorem Leaves.runProtocol (h : Leaves noBytes o d) (n a3 a4 : Nat) : Leaves noBytes o (Dev.runProtocol n d a3 a4) := by
  induction n generalizing d with
  | zero => exact h
  | succ n ih =>
    unfold Dev.runProtocol
    repeat' first
      | with_reducible exact h | with_reducible apply ih | with_reducible apply Leaves.abandonRecord
      | with_reducible apply Leaves.finishRecord | with_reducible apply Leaves.foldl | with_reducible apply Leaves.sendSet
      | with_reducible apply Leaves.putProtocol | with_reducible assumption | intro _ _ _ | split

theorem Leaves.advanceRecord (h : Leaves noBytes o d) (layer : Nat) (mb : Nat) : Leaves noBytes o (Dev.advanceRecord d layer mb) := by
  unfold Dev.advanceRecord
  try dsimp only
  repeat' first
    | with_reducible assumption | with_reducible exact h | with_reducible apply Leaves.runProtocol
    | with_reducible apply Leaves.ite | with_reducible apply Leaves.ite1 | with_reducible apply Leaves.ite2
    | with_reducible apply Leaves.foldl | with_reducible apply Leaves.foldl_fst | with_reducible apply Leaves.foldl_snd
    | simp only [Leaves.upd] | (show configReg _ = false; simp) | intro _ _ _ | intro _ _ | intro _ | dsimp only | split | rfl

theorem Leaves.takeCmp (h : Leaves noBytes o d) (p : Protocol) (m : CmpMsg) : Leaves noBytes o (Dev.takeCmp d p m) := by
  unfold Dev.takeCmp
  try dsimp only
  repeat' first
    | with_reducible assumption | with_reducible exact h | with_reducible apply Leaves.addSat
    | with_reducible apply Leaves.abandonRecord | with_reducible apply Leaves.putProtocol
    | with_reducible apply Leaves.advanceRecord | with_reducible apply Leaves.ite | with_reducible apply Leaves.ite1
    | with_reducible apply Leaves.ite2 | with_reducible apply Leaves.foldl | with_reducible apply Leaves.foldl_fst
    | with_reducible apply Leaves.foldl_snd | simp only [Leaves.upd] | (show configReg _ = false; simp) | intro _ _ _ | intro _ _ | intro _ | dsimp only
    | split | rfl

theorem Leaves.holdCmp (h : Leaves B o d) (m : CmpMsg) (pk : Packet) : Leaves B o (Dev.holdCmp d m pk) := by
  unfold Dev.holdCmp
  try dsimp only
  repeat' first
    | with_reducible assumption | with_reducible exact h | with_reducible apply Leaves.addSat
    | with_reducible apply Leaves.raise | with_reducible apply Leaves.ite | with_reducible apply Leaves.ite1
    | with_reducible apply Leaves.ite2 | with_reducible apply Leaves.foldl | with_reducible apply Leaves.foldl_fst
    | with_reducible apply Leaves.foldl_snd | simp only [Leaves.upd] | (show configReg _ = false; simp) | intro _ _ _ | intro _ _ | intro _ | dsimp only
    | split | rfl

theorem Leaves.receiveCmp (h : Leaves noBytes o d) (pk : Packet) : Leaves noBytes o (Dev.receiveCmp d pk) := by
  unfold Dev.receiveCmp
  try dsimp only
  repeat' first
    | with_reducible assumption | with_reducible exact h | with_reducible apply Leaves.takeCmp
    | with_reducible apply Leaves.takePacket | with_reducible apply Leaves.holdCmp | with_reducible apply Leaves.ite
    | with_reducible apply Leaves.ite1 | with_reducible apply Leaves.ite2 | with_reducible apply Leaves.foldl
    | with_reducible apply Leaves.foldl_fst | with_reducible apply Leaves.foldl_snd | simp only [Leaves.upd] | (show configReg _ = false; simp)
    | intro _ _ _ | intro _ _ | intro _ | dsimp only | split | rfl

theorem Leaves.claimRecord (h : Leaves noBytes o d) (c : RouteCmd) : Leaves noBytes o (Dev.claimRecord d c) := by
  unfold Dev.claimRecord
  try dsimp only
  repeat' first
    | with_reducible assumption | with_reducible exact h | with_reducible apply Leaves.writeAt
    | with_reducible apply Leaves.ite | with_reducible apply Leaves.ite1 | with_reducible apply Leaves.ite2
    | with_reducible apply Leaves.foldl | with_reducible apply Leaves.foldl_fst | with_reducible apply Leaves.foldl_snd
    | simp only [Leaves.upd] | (show configReg _ = false; simp) | intro _ _ _ | intro _ _ | intro _ | dsimp only | split | rfl

theorem Leaves.routeEffect (h : Leaves noBytes o d) (c : Decoded) (r : RouteCmd) (src : ByteSource) : Leaves noBytes o (Dev.routeEffect d c r src) := by
  unfold Dev.routeEffect
  try dsimp only
  repeat' first
    | with_reducible assumption | with_reducible exact h | with_reducible apply Leaves.claimRecord
    | with_reducible apply Leaves.raise | with_reducible apply Leaves.nonfinite | with_reducible apply Leaves.newRun
    | with_reducible apply Leaves.sendSet | with_reducible apply Leaves.takeCmp
    | with_reducible apply Leaves.advanceRecord | with_reducible apply Leaves.ite | with_reducible apply Leaves.ite1
    | with_reducible apply Leaves.ite2 | with_reducible apply Leaves.foldl | with_reducible apply Leaves.foldl_fst
    | with_reducible apply Leaves.foldl_snd | simp only [Leaves.upd] | (show configReg _ = false; simp) | intro _ _ _ | intro _ _ | intro _ | dsimp only
    | split | rfl

end Sys2Proof.Machine
end

