-- ==== Sys2Proof/Laws/LeaveVector.lean ====
section
/-! SUPPORT. What the operations of Machine/Vector.lean leave alone (`Leaves`). -/
set_option Elab.async false
set_option linter.unusedTactic false
set_option linter.unreachableTactic false
set_option linter.unusedSimpArgs false

namespace Sys2Proof.Machine

variable {B : Nat → Bool} {o d : Dev}

theorem Leaves.vout (h : Leaves noBytes o d) (w : VWrite) (op : Operand) (rows : List (List Word)) : Leaves noBytes o (Dev.vout d w op rows).1 := by
  unfold Dev.vout
  try dsimp only
  repeat' first
    | with_reducible assumption | with_reducible exact h | with_reducible apply Leaves.setStream
    | with_reducible apply Leaves.nonfinite | with_reducible apply Leaves.addOutput | with_reducible apply Leaves.output
    | with_reducible apply Leaves.ite | with_reducible apply Leaves.ite1 | with_reducible apply Leaves.ite2
    | with_reducible apply Leaves.foldl | with_reducible apply Leaves.foldl_fst | with_reducible apply Leaves.foldl_snd
    | simp only [Leaves.upd] | (show configReg _ = false; simp) | intro _ _ _ | intro _ _ | intro _ | dsimp only | split | rfl

theorem Leaves.vtbCount (h : Leaves B o d) (nf : Nat) (masked : Nat) (bad : Nat) : Leaves B o (Dev.vtbCount d nf masked bad) := by
  unfold Dev.vtbCount
  try dsimp only
  repeat' first
    | with_reducible assumption | with_reducible exact h | with_reducible apply Leaves.raise
    | with_reducible apply Leaves.addSat | with_reducible apply Leaves.ite | with_reducible apply Leaves.ite1
    | with_reducible apply Leaves.ite2 | with_reducible apply Leaves.foldl | with_reducible apply Leaves.foldl_fst
    | with_reducible apply Leaves.foldl_snd | simp only [Leaves.upd] | (show configReg _ = false; simp) | intro _ _ _ | intro _ _ | intro _ | dsimp only
    | split | rfl

theorem Leaves.dupVector (h : Leaves B o d) (st : Stream) : Leaves B o (Dev.dupVector d st) := by
  unfold Dev.dupVector
  try dsimp only
  repeat' first
    | with_reducible assumption | with_reducible exact h | with_reducible apply Leaves.addSat
    | with_reducible apply Leaves.ite | with_reducible apply Leaves.ite1 | with_reducible apply Leaves.ite2
    | with_reducible apply Leaves.foldl | with_reducible apply Leaves.foldl_fst | with_reducible apply Leaves.foldl_snd
    | simp only [Leaves.upd] | (show configReg _ = false; simp) | intro _ _ _ | intro _ _ | intro _ | dsimp only | split | rfl

theorem Leaves.dupRow (h : Leaves B o d) (f : Fuse) (start : Dev) (first : Nat) (count : Nat) (m : DupFinding) : Leaves B o (Dev.dupRow d f start first count m) := by
  unfold Dev.dupRow
  try dsimp only
  repeat' first
    | with_reducible assumption | with_reducible exact h | with_reducible apply Leaves.dupEffect
    | with_reducible apply Leaves.ite | with_reducible apply Leaves.ite1 | with_reducible apply Leaves.ite2
    | with_reducible apply Leaves.foldl | with_reducible apply Leaves.foldl_fst | with_reducible apply Leaves.foldl_snd
    | simp only [Leaves.upd] | (show configReg _ = false; simp) | intro _ _ _ | intro _ _ | intro _ | dsimp only | split | rfl

theorem Leaves.dupRows (h : Leaves B o d) (f : Fuse) (st : Stream) (start : Dev) (first : Nat) (count : Nat) (ev : OpEvents) : Leaves B o (Dev.dupRows d f st start first count ev) := by
  unfold Dev.dupRows
  try dsimp only
  repeat' first
    | with_reducible assumption | with_reducible exact h | with_reducible apply Leaves.dupRow
    | with_reducible apply Leaves.ite | with_reducible apply Leaves.ite1 | with_reducible apply Leaves.ite2
    | with_reducible apply Leaves.foldl | with_reducible apply Leaves.foldl_fst | with_reducible apply Leaves.foldl_snd
    | simp only [Leaves.upd] | (show configReg _ = false; simp) | intro _ _ _ | intro _ _ | intro _ | dsimp only | split | rfl

theorem Leaves.vprogEffect (h : Leaves noBytes o d) (st : Stream) (c : Decoded) (p : VprogCmd) (k : Option Kept) (src : ByteSource) : Leaves noBytes o (Dev.vprogEffect d st c p k src) := by
  unfold Dev.vprogEffect
  try dsimp only
  repeat' first
    | with_reducible assumption | with_reducible exact h | with_reducible apply Leaves.vout
    | with_reducible apply Leaves.dupVector | with_reducible apply Leaves.vtbCount | with_reducible apply Leaves.ite
    | with_reducible apply Leaves.ite1 | with_reducible apply Leaves.ite2 | with_reducible apply Leaves.foldl
    | with_reducible apply Leaves.foldl_fst | with_reducible apply Leaves.foldl_snd | simp only [Leaves.upd] | (show configReg _ = false; simp)
    | intro _ _ _ | intro _ _ | intro _ | dsimp only | split | rfl

theorem Leaves.kernelOut (h : Leaves noBytes o d) (w : VWrite) (k : KernelCmd) (rows : List RowOut) : Leaves noBytes o (Dev.kernelOut d w k rows) := by
  unfold Dev.kernelOut
  try dsimp only
  repeat' first
    | with_reducible assumption | with_reducible exact h | with_reducible apply Leaves.vout
    | with_reducible apply Leaves.vtbCount | with_reducible apply Leaves.ite | with_reducible apply Leaves.ite1
    | with_reducible apply Leaves.ite2 | with_reducible apply Leaves.foldl | with_reducible apply Leaves.foldl_fst
    | with_reducible apply Leaves.foldl_snd | simp only [Leaves.upd] | (show configReg _ = false; simp) | intro _ _ _ | intro _ _ | intro _ | dsimp only
    | split | rfl

theorem Leaves.normEffect (h : Leaves noBytes o d) (st : Stream) (layer : Bool) (c : Decoded) (k : KernelCmd) (kept : Option Kept) (src : ByteSource) : Leaves noBytes o (Dev.normEffect d st layer c k kept src) := by
  unfold Dev.normEffect
  try dsimp only
  repeat' first
    | with_reducible assumption | with_reducible exact h | with_reducible apply Leaves.kernelOut
    | with_reducible apply Leaves.ite | with_reducible apply Leaves.ite1 | with_reducible apply Leaves.ite2
    | with_reducible apply Leaves.foldl | with_reducible apply Leaves.foldl_fst | with_reducible apply Leaves.foldl_snd
    | simp only [Leaves.upd] | (show configReg _ = false; simp) | intro _ _ _ | intro _ _ | intro _ | dsimp only | split | rfl

theorem Leaves.countRows (h : Leaves noBytes o d) (op : Operand) (counts : List (Nat × Nat)) : Leaves noBytes o (Dev.countRows d op counts) := by
  unfold Dev.countRows
  try dsimp only
  repeat' first
    | with_reducible assumption | with_reducible exact h | with_reducible apply Leaves.write
    | with_reducible apply Leaves.ite | with_reducible apply Leaves.ite1 | with_reducible apply Leaves.ite2
    | with_reducible apply Leaves.foldl | with_reducible apply Leaves.foldl_fst | with_reducible apply Leaves.foldl_snd
    | simp only [Leaves.upd] | (show configReg _ = false; simp) | intro _ _ _ | intro _ _ | intro _ | dsimp only | split | rfl

theorem Leaves.attnState (h : Leaves noBytes o d) (st : Stream) (op : Operand) (rows : List (List Word)) : Leaves noBytes o (Dev.attnState d st op rows) := by
  unfold Dev.attnState
  try dsimp only
  repeat' first
    | with_reducible assumption | with_reducible exact h | with_reducible apply Leaves.setStream
    | with_reducible apply Leaves.write | with_reducible apply Leaves.ite | with_reducible apply Leaves.ite1
    | with_reducible apply Leaves.ite2 | with_reducible apply Leaves.foldl | with_reducible apply Leaves.foldl_fst
    | with_reducible apply Leaves.foldl_snd | simp only [Leaves.upd] | (show configReg _ = false; simp) | intro _ _ _ | intro _ _ | intro _ | dsimp only
    | split | rfl

theorem Leaves.lossOut (h : Leaves noBytes o d) (w : VWrite) (op : Operand) (sum : Word) (count : Nat) : Leaves noBytes o (Dev.lossOut d w op sum count) := by
  unfold Dev.lossOut
  try dsimp only
  repeat' first
    | with_reducible assumption | with_reducible exact h | with_reducible apply Leaves.write
    | with_reducible apply Leaves.nonfinite | with_reducible apply Leaves.vtbCount | with_reducible apply Leaves.ite
    | with_reducible apply Leaves.ite1 | with_reducible apply Leaves.ite2 | with_reducible apply Leaves.foldl
    | with_reducible apply Leaves.foldl_fst | with_reducible apply Leaves.foldl_snd | simp only [Leaves.upd] | (show configReg _ = false; simp)
    | intro _ _ _ | intro _ _ | intro _ | dsimp only | split | rfl

theorem Leaves.showSlot (h : Leaves B o d) (n : Nat) (owner : Nat) (place : Nat) (c : Curve) : Leaves B o (Dev.showSlot d n owner place c) := by
  unfold Dev.showSlot
  try dsimp only
  repeat' first
    | with_reducible assumption | with_reducible exact h | with_reducible apply Leaves.setReg
    | with_reducible apply Leaves.ite | with_reducible apply Leaves.ite1 | with_reducible apply Leaves.ite2
    | with_reducible apply Leaves.foldl | with_reducible apply Leaves.foldl_fst | with_reducible apply Leaves.foldl_snd
    | simp only [Leaves.upd] | (show configReg _ = false; simp) | intro _ _ _ | intro _ _ | intro _ | dsimp only | split | rfl

theorem Leaves.dropSlots (h : Leaves B o d) (slot : Nat) (owner : Nat) (place : Nat) (length : Nat) : Leaves B o (Dev.dropSlots d slot owner place length) := by
  unfold Dev.dropSlots
  try dsimp only
  repeat' first
    | with_reducible assumption | with_reducible exact h | with_reducible apply Leaves.setFlag
    | with_reducible apply Leaves.ite | with_reducible apply Leaves.ite1 | with_reducible apply Leaves.ite2
    | with_reducible apply Leaves.foldl | with_reducible apply Leaves.foldl_fst | with_reducible apply Leaves.foldl_snd
    | simp only [Leaves.upd] | (show configReg _ = false; simp) | intro _ _ _ | intro _ _ | intro _ | dsimp only | split | rfl

theorem Leaves.loadTable (h : Leaves B o d) (st : Stream) (t : TloadCmd) (image : List Byte) : Leaves B o (Dev.loadTable d st t image) := by
  unfold Dev.loadTable
  try dsimp only
  repeat' first
    | with_reducible assumption | with_reducible exact h | with_reducible apply Leaves.dropSlots
    | with_reducible apply Leaves.showSlot | with_reducible apply Leaves.raise | with_reducible apply Leaves.setFld
    | with_reducible apply Leaves.ite | with_reducible apply Leaves.ite1 | with_reducible apply Leaves.ite2
    | with_reducible apply Leaves.foldl | with_reducible apply Leaves.foldl_fst | with_reducible apply Leaves.foldl_snd
    | simp only [Leaves.upd] | (show configReg _ = false; simp) | intro _ _ _ | intro _ _ | intro _ | dsimp only | split | rfl

theorem Leaves.tloadEffect (h : Leaves B o d) (st : Stream) (t : TloadCmd) (src : ByteSource) : Leaves B o (Dev.tloadEffect d st t src) := by
  unfold Dev.tloadEffect
  try dsimp only
  repeat' first
    | with_reducible assumption | with_reducible exact h | with_reducible apply Leaves.setStream
    | with_reducible apply Leaves.ite | with_reducible apply Leaves.ite1 | with_reducible apply Leaves.ite2
    | with_reducible apply Leaves.foldl | with_reducible apply Leaves.foldl_fst | with_reducible apply Leaves.foldl_snd
    | simp only [Leaves.upd] | (show configReg _ = false; simp) | intro _ _ _ | intro _ _ | intro _ | dsimp only | split | rfl

end Sys2Proof.Machine
end

