-- ==== Sys2Proof/Laws/LeaveExchange.lean ====
section
/-! SUPPORT. What the operations of Machine/Exchange.lean leave alone (`Leaves`). -/
set_option Elab.async false
set_option linter.unusedTactic false
set_option linter.unreachableTactic false
set_option linter.unusedSimpArgs false

namespace Sys2Proof.Machine

variable {B : Nat → Bool} {o d : Dev}

theorem Leaves.dropXchg (h : Leaves B o d) (x : XchgRun) : Leaves B o (Dev.dropXchg d x) := by
  unfold Dev.dropXchg
  try dsimp only
  repeat' first
    | with_reducible assumption | with_reducible exact h | with_reducible apply Leaves.ite
    | with_reducible apply Leaves.ite1 | with_reducible apply Leaves.ite2 | with_reducible apply Leaves.foldl
    | with_reducible apply Leaves.foldl_fst | with_reducible apply Leaves.foldl_snd | simp only [Leaves.upd] | (show configReg _ = false; simp)
    | intro _ _ _ | intro _ _ | intro _ | dsimp only | split | rfl

theorem Leaves.putXchg (h : Leaves B o d) (x : XchgRun) : Leaves B o (Dev.putXchg d x) := by
  unfold Dev.putXchg
  try dsimp only
  repeat' first
    | with_reducible assumption | with_reducible exact h | with_reducible apply Leaves.ite
    | with_reducible apply Leaves.ite1 | with_reducible apply Leaves.ite2 | with_reducible apply Leaves.foldl
    | with_reducible apply Leaves.foldl_fst | with_reducible apply Leaves.foldl_snd | simp only [Leaves.upd] | (show configReg _ = false; simp)
    | intro _ _ _ | intro _ _ | intro _ | dsimp only | split | rfl

theorem Leaves.endXchg (h : Leaves noBytes o d) (x : XchgRun) (status : Nat) (peer : Nat) : Leaves noBytes o (Dev.endXchg d x status peer) := by
  unfold Dev.endXchg
  try dsimp only
  repeat' first
    | with_reducible assumption | with_reducible exact h | with_reducible apply Leaves.dropXchg
    | with_reducible apply Leaves.writeAt | with_reducible apply Leaves.notifyCounter | with_reducible apply Leaves.bad
    | with_reducible apply Leaves.record | with_reducible apply Leaves.ite | with_reducible apply Leaves.ite1
    | with_reducible apply Leaves.ite2 | with_reducible apply Leaves.foldl | with_reducible apply Leaves.foldl_fst
    | with_reducible apply Leaves.foldl_snd | simp only [Leaves.upd] | (show configReg _ = false; simp) | intro _ _ _ | intro _ _ | intro _ | dsimp only
    | split | rfl

theorem Leaves.releaseRows (h : Leaves B o d) (x : XchgRun) (peers : List Nat) : Leaves B o (Dev.releaseRows d x peers) := by
  unfold Dev.releaseRows
  try dsimp only
  repeat' first
    | with_reducible assumption | with_reducible exact h | with_reducible apply Leaves.sendPacket
    | with_reducible apply Leaves.putXchg | with_reducible apply Leaves.ite | with_reducible apply Leaves.ite1
    | with_reducible apply Leaves.ite2 | with_reducible apply Leaves.foldl | with_reducible apply Leaves.foldl_fst
    | with_reducible apply Leaves.foldl_snd | simp only [Leaves.upd] | (show configReg _ = false; simp) | intro _ _ _ | intro _ _ | intro _ | dsimp only
    | split | rfl

theorem Leaves.takeReady (h : Leaves noBytes o d) (x : XchgRun) (m : ReadyMsg) : Leaves noBytes o (Dev.takeReady d x m) := by
  unfold Dev.takeReady
  try dsimp only
  repeat' first
    | with_reducible assumption | with_reducible exact h | with_reducible apply Leaves.putXchg
    | with_reducible apply Leaves.endXchg | with_reducible apply Leaves.releaseRows | with_reducible apply Leaves.ite
    | with_reducible apply Leaves.ite1 | with_reducible apply Leaves.ite2 | with_reducible apply Leaves.foldl
    | with_reducible apply Leaves.foldl_fst | with_reducible apply Leaves.foldl_snd | simp only [Leaves.upd] | (show configReg _ = false; simp)
    | intro _ _ _ | intro _ _ | intro _ | dsimp only | split | rfl

theorem Leaves.wireFigures (h : Leaves noBytes o d) (o1 : Origin) (c : XchgCmd) (rows : List WireRow) : Leaves noBytes o (Dev.wireFigures d o1 c rows) := by
  unfold Dev.wireFigures
  try dsimp only
  repeat' first
    | with_reducible assumption | with_reducible exact h | with_reducible apply Leaves.nonfinite
    | with_reducible apply Leaves.merge | with_reducible apply Leaves.ite | with_reducible apply Leaves.ite1
    | with_reducible apply Leaves.ite2 | with_reducible apply Leaves.foldl | with_reducible apply Leaves.foldl_fst
    | with_reducible apply Leaves.foldl_snd | simp only [Leaves.upd] | (show configReg _ = false; simp) | intro _ _ _ | intro _ _ | intro _ | dsimp only
    | split | rfl

theorem Leaves.writeGateGrads (h : Leaves noBytes o d) (o1 : Origin) (x : XCtx) : Leaves noBytes o (Dev.writeGateGrads d o1 x) := by
  unfold Dev.writeGateGrads
  try dsimp only
  repeat' first
    | with_reducible assumption | with_reducible exact h | with_reducible apply Leaves.vtbCount
    | with_reducible apply Leaves.output | with_reducible apply Leaves.ite | with_reducible apply Leaves.ite1
    | with_reducible apply Leaves.ite2 | with_reducible apply Leaves.foldl | with_reducible apply Leaves.foldl_fst
    | with_reducible apply Leaves.foldl_snd | simp only [Leaves.upd] | (show configReg _ = false; simp) | intro _ _ _ | intro _ _ | intro _ | dsimp only
    | split | rfl

theorem Leaves.keptReadys (h : Leaves noBytes o d) (x : XchgRun) (ms : List ReadyMsg) : Leaves noBytes o (Dev.keptReadys d x ms) := by
  unfold Dev.keptReadys
  try dsimp only
  repeat' first
    | with_reducible assumption | with_reducible exact h | with_reducible apply Leaves.putXchg
    | with_reducible apply Leaves.endXchg | with_reducible apply Leaves.releaseRows | with_reducible apply Leaves.ite
    | with_reducible apply Leaves.ite1 | with_reducible apply Leaves.ite2 | with_reducible apply Leaves.foldl
    | with_reducible apply Leaves.foldl_fst | with_reducible apply Leaves.foldl_snd | simp only [Leaves.upd] | (show configReg _ = false; simp)
    | intro _ _ _ | intro _ _ | intro _ | dsimp only | split | rfl

theorem Leaves.startXchg (h : Leaves noBytes o d) (c : Decoded) (x : XCtx) (queue : List OwedPacket) (ex : List Expected) (own : Nat) (got : List Nat) : Leaves noBytes o (Dev.startXchg d c x queue ex own got).2 := by
  unfold Dev.startXchg
  try dsimp only
  repeat' first
    | with_reducible assumption | with_reducible exact h | with_reducible apply Leaves.newRun
    | with_reducible apply Leaves.writeAt | with_reducible apply Leaves.ite | with_reducible apply Leaves.ite1
    | with_reducible apply Leaves.ite2 | with_reducible apply Leaves.foldl | with_reducible apply Leaves.foldl_fst
    | with_reducible apply Leaves.foldl_snd | simp only [Leaves.upd] | (show configReg _ = false; simp) | intro _ _ _ | intro _ _ | intro _ | dsimp only
    | split | rfl

theorem Leaves.moveEffect (h : Leaves noBytes o d) (c : Decoded) (x : XchgCmd) (lost : Bool) (src : ByteSource) : Leaves noBytes o (Dev.moveEffect d c x lost src) := by
  unfold Dev.moveEffect
  try dsimp only
  repeat' first
    | with_reducible assumption | with_reducible exact h | with_reducible apply Leaves.startXchg
    | with_reducible apply Leaves.endXchg | with_reducible apply Leaves.wireFigures | with_reducible apply Leaves.write
    | with_reducible apply Leaves.writeGateGrads | with_reducible apply Leaves.sendPacket
    | with_reducible apply Leaves.keptReadys | with_reducible apply Leaves.ite | with_reducible apply Leaves.ite1
    | with_reducible apply Leaves.ite2 | with_reducible apply Leaves.foldl | with_reducible apply Leaves.foldl_fst
    | with_reducible apply Leaves.foldl_snd | simp only [Leaves.upd] | (show configReg _ = false; simp) | intro _ _ _ | intro _ _ | intro _ | dsimp only
    | split | rfl

theorem Leaves.combineEffect (h : Leaves noBytes o d) (c : Decoded) (x : XchgCmd) (lost : Bool) (src : ByteSource) : Leaves noBytes o (Dev.combineEffect d c x lost src) := by
  unfold Dev.combineEffect
  try dsimp only
  repeat' first
    | with_reducible assumption | with_reducible exact h | with_reducible apply Leaves.startXchg
    | with_reducible apply Leaves.dupVector | with_reducible apply Leaves.endXchg | with_reducible apply Leaves.vtbCount
    | with_reducible apply Leaves.output | with_reducible apply Leaves.ite | with_reducible apply Leaves.ite1
    | with_reducible apply Leaves.ite2 | with_reducible apply Leaves.foldl | with_reducible apply Leaves.foldl_fst
    | with_reducible apply Leaves.foldl_snd | simp only [Leaves.upd] | (show configReg _ = false; simp) | intro _ _ _ | intro _ _ | intro _ | dsimp only
    | split | rfl

theorem Leaves.keepReady (h : Leaves B o d) (m : Packet) (r : ReadyMsg) : Leaves B o (Dev.keepReady d m r) := by
  unfold Dev.keepReady
  try dsimp only
  repeat' first
    | with_reducible assumption | with_reducible exact h | with_reducible apply Leaves.takePacket
    | with_reducible apply Leaves.ite | with_reducible apply Leaves.ite1 | with_reducible apply Leaves.ite2
    | with_reducible apply Leaves.foldl | with_reducible apply Leaves.foldl_fst | with_reducible apply Leaves.foldl_snd
    | simp only [Leaves.upd] | (show configReg _ = false; simp) | intro _ _ _ | intro _ _ | intro _ | dsimp only | split | rfl

theorem Leaves.takeData (h : Leaves noBytes o d) (x : XchgRun) (b : List Byte) (lost : Bool) : Leaves noBytes o (Dev.takeData d x b lost) := by
  unfold Dev.takeData
  try dsimp only
  repeat' first
    | with_reducible assumption | with_reducible exact h | with_reducible apply Leaves.putXchg
    | with_reducible apply Leaves.endXchg | with_reducible apply Leaves.write | with_reducible apply Leaves.ite
    | with_reducible apply Leaves.ite1 | with_reducible apply Leaves.ite2 | with_reducible apply Leaves.foldl
    | with_reducible apply Leaves.foldl_fst | with_reducible apply Leaves.foldl_snd | simp only [Leaves.upd] | (show configReg _ = false; simp)
    | intro _ _ _ | intro _ _ | intro _ | dsimp only | split | rfl

theorem Leaves.addTally (h : Leaves noBytes o d) (x : XchgRun) : Leaves noBytes o (Dev.addTally d x) := by
  unfold Dev.addTally
  try dsimp only
  repeat' first
    | with_reducible assumption | with_reducible exact h | with_reducible apply Leaves.writeAt
    | with_reducible apply Leaves.ite | with_reducible apply Leaves.ite1 | with_reducible apply Leaves.ite2
    | with_reducible apply Leaves.foldl | with_reducible apply Leaves.foldl_fst | with_reducible apply Leaves.foldl_snd
    | simp only [Leaves.upd] | (show configReg _ = false; simp) | intro _ _ _ | intro _ _ | intro _ | dsimp only | split | rfl

end Sys2Proof.Machine
end

