-- ==== Sys2Proof/Laws/LeavePipeline.lean ====
section
/-! SUPPORT. What the operations of Machine/Pipeline.lean leave alone (`Leaves`). -/
set_option Elab.async false
set_option linter.unusedTactic false
set_option linter.unreachableTactic false
set_option linter.unusedSimpArgs false

namespace Sys2Proof.Machine

variable {B : Nat → Bool} {o d : Dev}

theorem Leaves.sendPipeline (h : Leaves B o d) (dest : Nat) (owner : Nat) (payloads : List (List Byte)) : Leaves B o (Dev.sendPipeline d dest owner payloads) := by
  unfold Dev.sendPipeline
  try dsimp only
  repeat' first
    | with_reducible assumption | with_reducible exact h | with_reducible apply Leaves.digestOut
    | with_reducible apply Leaves.notAccepted | with_reducible apply Leaves.forward | with_reducible apply Leaves.ite
    | with_reducible apply Leaves.ite1 | with_reducible apply Leaves.ite2 | with_reducible apply Leaves.foldl
    | with_reducible apply Leaves.foldl_fst | with_reducible apply Leaves.foldl_snd | simp only [Leaves.upd] | (show configReg _ = false; simp)
    | intro _ _ _ | intro _ _ | intro _ | dsimp only | split | rfl

theorem Leaves.putSend (h : Leaves B o d) (r : SendRun) : Leaves B o (Dev.putSend d r) := by
  unfold Dev.putSend
  try dsimp only
  repeat' first
    | with_reducible assumption | with_reducible exact h | with_reducible apply Leaves.ite
    | with_reducible apply Leaves.ite1 | with_reducible apply Leaves.ite2 | with_reducible apply Leaves.foldl
    | with_reducible apply Leaves.foldl_fst | with_reducible apply Leaves.foldl_snd | simp only [Leaves.upd] | (show configReg _ = false; simp)
    | intro _ _ _ | intro _ _ | intro _ | dsimp only | split | rfl

theorem Leaves.startSend (h : Leaves B o d) (dest : Nat) (hinge : Nat) : Leaves B o (Dev.startSend d dest hinge) := by
  unfold Dev.startSend
  try dsimp only
  repeat' first
    | with_reducible assumption | with_reducible exact h | with_reducible apply Leaves.sendPipeline
    | with_reducible apply Leaves.putSend | with_reducible apply Leaves.ite | with_reducible apply Leaves.ite1
    | with_reducible apply Leaves.ite2 | with_reducible apply Leaves.foldl | with_reducible apply Leaves.foldl_fst
    | with_reducible apply Leaves.foldl_snd | simp only [Leaves.upd] | (show configReg _ = false; simp) | intro _ _ _ | intro _ _ | intro _ | dsimp only
    | split | rfl

theorem Leaves.closeSend (h : Leaves noBytes o d) (r : SendRun) (status : Nat) : Leaves noBytes o (Dev.closeSend d r status) := by
  unfold Dev.closeSend
  try dsimp only
  repeat' first
    | with_reducible assumption | with_reducible exact h | with_reducible apply Leaves.notifyCounter
    | with_reducible apply Leaves.writeAt | with_reducible apply Leaves.bad | with_reducible apply Leaves.record
    | with_reducible apply Leaves.ite | with_reducible apply Leaves.ite1 | with_reducible apply Leaves.ite2
    | with_reducible apply Leaves.foldl | with_reducible apply Leaves.foldl_fst | with_reducible apply Leaves.foldl_snd
    | simp only [Leaves.upd] | (show configReg _ = false; simp) | intro _ _ _ | intro _ _ | intro _ | dsimp only | split | rfl

theorem Leaves.endSend (h : Leaves noBytes o d) (r : SendRun) (status : Nat) : Leaves noBytes o (Dev.endSend d r status) := by
  unfold Dev.endSend
  try dsimp only
  repeat' first
    | with_reducible assumption | with_reducible exact h | with_reducible apply Leaves.startSend
    | with_reducible apply Leaves.closeSend | with_reducible apply Leaves.ite | with_reducible apply Leaves.ite1
    | with_reducible apply Leaves.ite2 | with_reducible apply Leaves.foldl | with_reducible apply Leaves.foldl_fst
    | with_reducible apply Leaves.foldl_snd | simp only [Leaves.upd] | (show configReg _ = false; simp) | intro _ _ _ | intro _ _ | intro _ | dsimp only
    | split | rfl

theorem Leaves.sendEffect (h : Leaves noBytes o d) (c : Decoded) (s : SendCmd) (lost : Bool) : Leaves noBytes o (Dev.sendEffect d c s lost) := by
  unfold Dev.sendEffect
  try dsimp only
  repeat' first
    | with_reducible assumption | with_reducible exact h | with_reducible apply Leaves.newRun
    | with_reducible apply Leaves.writeAt | with_reducible apply Leaves.endSend | with_reducible apply Leaves.startSend
    | with_reducible apply Leaves.ite | with_reducible apply Leaves.ite1 | with_reducible apply Leaves.ite2
    | with_reducible apply Leaves.foldl | with_reducible apply Leaves.foldl_fst | with_reducible apply Leaves.foldl_snd
    | simp only [Leaves.upd] | (show configReg _ = false; simp) | intro _ _ _ | intro _ _ | intro _ | dsimp only | split | rfl

theorem Leaves.hngStaleOne (h : Leaves B o d) (i : Nat) : Leaves B o (Dev.hngStaleOne d i) := by
  unfold Dev.hngStaleOne
  try dsimp only
  repeat' first
    | with_reducible assumption | with_reducible exact h | with_reducible apply Leaves.raise
    | with_reducible apply Leaves.addSat | with_reducible apply Leaves.ite | with_reducible apply Leaves.ite1
    | with_reducible apply Leaves.ite2 | with_reducible apply Leaves.foldl | with_reducible apply Leaves.foldl_fst
    | with_reducible apply Leaves.foldl_snd | simp only [Leaves.upd] | (show configReg _ = false; simp) | intro _ _ _ | intro _ _ | intro _ | dsimp only
    | split | rfl

theorem Leaves.pauseStream (h : Leaves B o d) (dest : Nat) (hinge : Nat) (seq : Nat) (stop : Bool) : Leaves B o (Dev.pauseStream d dest hinge seq stop) := by
  unfold Dev.pauseStream
  try dsimp only
  repeat' first
    | with_reducible assumption | with_reducible exact h | with_reducible apply Leaves.putSend
    | with_reducible apply Leaves.ite | with_reducible apply Leaves.ite1 | with_reducible apply Leaves.ite2
    | with_reducible apply Leaves.foldl | with_reducible apply Leaves.foldl_fst | with_reducible apply Leaves.foldl_snd
    | simp only [Leaves.upd] | (show configReg _ = false; simp) | intro _ _ _ | intro _ _ | intro _ | dsimp only | split | rfl

theorem Leaves.tellSender (h : Leaves B o d) (i : Nat) (stop : Bool) : Leaves B o (Dev.tellSender d i stop) := by
  unfold Dev.tellSender
  try dsimp only
  repeat' first
    | with_reducible assumption | with_reducible exact h | with_reducible apply Leaves.setHinge
    | with_reducible apply Leaves.raise | with_reducible apply Leaves.addSat | with_reducible apply Leaves.sendControl
    | with_reducible apply Leaves.ite | with_reducible apply Leaves.ite1 | with_reducible apply Leaves.ite2
    | with_reducible apply Leaves.foldl | with_reducible apply Leaves.foldl_fst | with_reducible apply Leaves.foldl_snd
    | simp only [Leaves.upd] | (show configReg _ = false; simp) | intro _ _ _ | intro _ _ | intro _ | dsimp only | split | rfl

theorem Leaves.regulate (h : Leaves B o d) (i : Nat) : Leaves B o (Dev.regulate d i) := by
  unfold Dev.regulate
  try dsimp only
  repeat' first
    | with_reducible assumption | with_reducible exact h | with_reducible apply Leaves.tellSender
    | with_reducible apply Leaves.ite | with_reducible apply Leaves.ite1 | with_reducible apply Leaves.ite2
    | with_reducible apply Leaves.foldl | with_reducible apply Leaves.foldl_fst | with_reducible apply Leaves.foldl_snd
    | simp only [Leaves.upd] | (show configReg _ = false; simp) | intro _ _ _ | intro _ _ | intro _ | dsimp only | split | rfl

theorem Leaves.unregulate (h : Leaves B o d) (i : Nat) : Leaves B o (Dev.unregulate d i) := by
  unfold Dev.unregulate
  try dsimp only
  repeat' first
    | with_reducible assumption | with_reducible exact h | with_reducible apply Leaves.tellSender
    | with_reducible apply Leaves.ite | with_reducible apply Leaves.ite1 | with_reducible apply Leaves.ite2
    | with_reducible apply Leaves.foldl | with_reducible apply Leaves.foldl_fst | with_reducible apply Leaves.foldl_snd
    | simp only [Leaves.upd] | (show configReg _ = false; simp) | intro _ _ _ | intro _ _ | intro _ | dsimp only | split | rfl

theorem Leaves.completePackets (h : Leaves B o d) (a1 : Nat) (a3 : Nat) : Leaves B o (Dev.completePackets a1 d a3) := by
  induction a1 generalizing d with
  | zero => exact h
  | succ n ih =>
    unfold Dev.completePackets
    try dsimp only
    repeat' first
      | with_reducible assumption | with_reducible apply ih | with_reducible exact h
      | with_reducible apply Leaves.setHinge | with_reducible apply Leaves.raise | with_reducible apply Leaves.addWrap
      | with_reducible apply Leaves.ite | with_reducible apply Leaves.ite1 | with_reducible apply Leaves.ite2
      | with_reducible apply Leaves.foldl | with_reducible apply Leaves.foldl_fst | with_reducible apply Leaves.foldl_snd
      | simp only [Leaves.upd] | (show configReg _ = false; simp) | intro _ _ _ | intro _ _ | intro _ | dsimp only | split | rfl

theorem Leaves.land (h : Leaves noBytes o d) (i : Nat) (mb : Nat) (offset : Nat) (data : List Byte) : Leaves noBytes o (Dev.land d i mb offset data) := by
  unfold Dev.land
  try dsimp only
  repeat' first
    | with_reducible assumption | with_reducible exact h | with_reducible apply Leaves.writeAt
    | with_reducible apply Leaves.setHinge | with_reducible apply Leaves.showHinge | with_reducible apply Leaves.regulate
    | with_reducible apply Leaves.completePackets | with_reducible apply Leaves.ite | with_reducible apply Leaves.ite1
    | with_reducible apply Leaves.ite2 | with_reducible apply Leaves.foldl | with_reducible apply Leaves.foldl_fst
    | with_reducible apply Leaves.foldl_snd | simp only [Leaves.upd] | (show configReg _ = false; simp) | intro _ _ _ | intro _ _ | intro _ | dsimp only
    | split | rfl

theorem Leaves.overrunBlock (h : Leaves B o d) (i : Nat) (mb : Nat) : Leaves B o (Dev.overrunBlock d i mb) := by
  unfold Dev.overrunBlock
  try dsimp only
  repeat' first
    | with_reducible assumption | with_reducible exact h | with_reducible apply Leaves.setHinge
    | with_reducible apply Leaves.hngFault | with_reducible apply Leaves.setFlag | with_reducible apply Leaves.ite
    | with_reducible apply Leaves.ite1 | with_reducible apply Leaves.ite2 | with_reducible apply Leaves.foldl
    | with_reducible apply Leaves.foldl_fst | with_reducible apply Leaves.foldl_snd | simp only [Leaves.upd] | (show configReg _ = false; simp)
    | intro _ _ _ | intro _ _ | intro _ | dsimp only | split | rfl

theorem Leaves.hingeBlock (h : Leaves noBytes o d) (i : Nat) (b : List Byte) : Leaves noBytes o (Dev.hingeBlock d i b) := by
  unfold Dev.hingeBlock
  try dsimp only
  repeat' first
    | with_reducible assumption | with_reducible exact h | with_reducible apply Leaves.hngStaleOne
    | with_reducible apply Leaves.hngFault | with_reducible apply Leaves.overrunBlock | with_reducible apply Leaves.land
    | with_reducible apply Leaves.ite | with_reducible apply Leaves.ite1 | with_reducible apply Leaves.ite2
    | with_reducible apply Leaves.foldl | with_reducible apply Leaves.foldl_fst | with_reducible apply Leaves.foldl_snd
    | simp only [Leaves.upd] | (show configReg _ = false; simp) | intro _ _ _ | intro _ _ | intro _ | dsimp only | split | rfl

theorem Leaves.releaseHead (h : Leaves B o d) (i : Nat) (mb : Nat) : Leaves B o (Dev.releaseHead d i mb) := by
  unfold Dev.releaseHead
  try dsimp only
  repeat' first
    | with_reducible assumption | with_reducible exact h | with_reducible apply Leaves.hngFault
    | with_reducible apply Leaves.setFlag | with_reducible apply Leaves.showHinge
    | with_reducible apply Leaves.unregulate | with_reducible apply Leaves.setHinge | with_reducible apply Leaves.ite
    | with_reducible apply Leaves.ite1 | with_reducible apply Leaves.ite2 | with_reducible apply Leaves.foldl
    | with_reducible apply Leaves.foldl_fst | with_reducible apply Leaves.foldl_snd | simp only [Leaves.upd] | (show configReg _ = false; simp)
    | intro _ _ _ | intro _ _ | intro _ | dsimp only | split | rfl

theorem Leaves.residue (h : Leaves B o d)  : Leaves B o (Dev.residue d) := by
  unfold Dev.residue
  try dsimp only
  repeat' first
    | with_reducible assumption | with_reducible exact h | with_reducible apply Leaves.hngFault
    | with_reducible apply Leaves.ite | with_reducible apply Leaves.ite1 | with_reducible apply Leaves.ite2
    | with_reducible apply Leaves.foldl | with_reducible apply Leaves.foldl_fst | with_reducible apply Leaves.foldl_snd
    | simp only [Leaves.upd] | (show configReg _ = false; simp) | intro _ _ _ | intro _ _ | intro _ | dsimp only | split | rfl

theorem Leaves.hingesBegin (h : Leaves B o d)  : Leaves B o (Dev.hingesBegin d) := by
  unfold Dev.hingesBegin
  try dsimp only
  repeat' first
    | with_reducible assumption | with_reducible exact h | with_reducible apply Leaves.ite
    | with_reducible apply Leaves.ite1 | with_reducible apply Leaves.ite2 | with_reducible apply Leaves.foldl
    | with_reducible apply Leaves.foldl_fst | with_reducible apply Leaves.foldl_snd | simp only [Leaves.upd] | (show configReg _ = false; simp)
    | intro _ _ _ | intro _ _ | intro _ | dsimp only | split | rfl

theorem Leaves.emptyHinge (h : Leaves B o d) (i : Nat) : Leaves B o (Dev.emptyHinge d i) := by
  unfold Dev.emptyHinge
  try dsimp only
  repeat' first
    | with_reducible assumption | with_reducible exact h | with_reducible apply Leaves.setHinge
    | with_reducible apply Leaves.tellSender | with_reducible apply Leaves.showHinge | with_reducible apply Leaves.setFld
    | with_reducible apply Leaves.ite | with_reducible apply Leaves.ite1 | with_reducible apply Leaves.ite2
    | with_reducible apply Leaves.foldl | with_reducible apply Leaves.foldl_fst | with_reducible apply Leaves.foldl_snd
    | simp only [Leaves.upd] | (show configReg _ = false; simp) | intro _ _ _ | intro _ _ | intro _ | dsimp only | split | rfl

theorem Leaves.abandonSends (h : Leaves noBytes o d)  : Leaves noBytes o (Dev.abandonSends d) := by
  unfold Dev.abandonSends
  try dsimp only
  repeat' first
    | with_reducible assumption | with_reducible exact h | with_reducible apply Leaves.closeSend
    | with_reducible apply Leaves.ite | with_reducible apply Leaves.ite1 | with_reducible apply Leaves.ite2
    | with_reducible apply Leaves.foldl | with_reducible apply Leaves.foldl_fst | with_reducible apply Leaves.foldl_snd
    | simp only [Leaves.upd] | (show configReg _ = false; simp) | intro _ _ _ | intro _ _ | intro _ | dsimp only | split | rfl

end Sys2Proof.Machine
end

