-- ==== Sys2Proof/Laws/LeaveRegs.lean ====
section
/-! SUPPORT. What the operations of Machine/Regs.lean leave alone (`Leaves`). -/
set_option Elab.async false
set_option linter.unusedTactic false
set_option linter.unreachableTactic false
set_option linter.unusedSimpArgs false

namespace Sys2Proof.Machine

variable {B : Nat → Bool} {o d : Dev}

theorem Leaves.store (h : Leaves B o d) (a : Nat) (v : Word) (ha : configReg a = false := by simp) :
    Leaves B o (Dev.store d a v) := h.setReg a _ ha

end Sys2Proof.Machine
end

