-- ==== Sys2Proof/Laws/LeaveReduce.lean ====
section
/-! SUPPORT. What the operations of Machine/Reduce.lean leave alone (`Leaves`). -/
set_option Elab.async false
set_option linter.unusedTactic false
set_option linter.unreachableTactic false
set_option linter.unusedSimpArgs false

namespace Sys2Proof.Machine

variable {B : Nat → Bool} {o d : Dev}

theorem Leaves.putRed (h : Leaves B o d) (r : RedRun) : Leaves B o (Dev.putRed d r) := by
  unfold Dev.putRed
  try dsimp only
  repeat' first
    | with_reducible assumption | with_reducible exact h | with_reducible apply Leaves.ite
    | with_reducible apply Leaves.ite1 | with_reducible apply Leaves.ite2 | with_reducible apply Leaves.foldl
    | with_reducible apply Leaves.foldl_fst | with_reducible apply Leaves.foldl_snd | simp only [Leaves.upd] | (show configReg _ = false; simp)
    | intro _ _ _ | intro _ _ | intro _ | dsimp only | split | rfl

theorem Leaves.putWords (h : Leaves noBytes o d) (t : Desc) (vs : List Word) : Leaves noBytes o (Dev.putWords d t vs) := by
  unfold Dev.putWords
  try dsimp only
  repeat' first
    | with_reducible assumption | with_reducible exact h | with_reducible apply Leaves.write
    | with_reducible apply Leaves.ite | with_reducible apply Leaves.ite1 | with_reducible apply Leaves.ite2
    | with_reducible apply Leaves.foldl | with_reducible apply Leaves.foldl_fst | with_reducible apply Leaves.foldl_snd
    | simp only [Leaves.upd] | (show configReg _ = false; simp) | intro _ _ _ | intro _ _ | intro _ | dsimp only | split | rfl

theorem Leaves.spoil (h : Leaves noBytes o d) (t : Option Desc) : Leaves noBytes o (Dev.spoil d t) := by
  unfold Dev.spoil
  try dsimp only
  repeat' first
    | with_reducible assumption | with_reducible exact h | with_reducible apply Leaves.leaveOpen
    | with_reducible apply Leaves.ite | with_reducible apply Leaves.ite1 | with_reducible apply Leaves.ite2
    | with_reducible apply Leaves.foldl | with_reducible apply Leaves.foldl_fst | with_reducible apply Leaves.foldl_snd
    | simp only [Leaves.upd] | (show configReg _ = false; simp) | intro _ _ _ | intro _ _ | intro _ | dsimp only | split | rfl

theorem Leaves.endRed (h : Leaves noBytes o d) (r : RedRun) (status : Nat) (peer : Nat) : Leaves noBytes o (Dev.endRed d r status peer) := by
  unfold Dev.endRed
  try dsimp only
  repeat' first
    | with_reducible assumption | with_reducible exact h | with_reducible apply Leaves.putRed
    | with_reducible apply Leaves.spoil | with_reducible apply Leaves.writeAt | with_reducible apply Leaves.addSat
    | with_reducible apply Leaves.notifyCounter | with_reducible apply Leaves.setReg | with_reducible apply Leaves.raise
    | with_reducible apply Leaves.pageFault | with_reducible apply Leaves.bad | with_reducible apply Leaves.record
    | with_reducible apply Leaves.ite | with_reducible apply Leaves.ite1 | with_reducible apply Leaves.ite2
    | with_reducible apply Leaves.foldl | with_reducible apply Leaves.foldl_fst | with_reducible apply Leaves.foldl_snd
    | simp only [Leaves.upd] | (show configReg _ = false; simp) | intro _ _ _ | intro _ _ | intro _ | dsimp only | split | rfl

theorem Leaves.sendRed (h : Leaves B o d) (r : RedRun) (type : Nat) (origin : Nat) (dests : List Nat) (seen : Bool) (body : List Byte) : Leaves B o (Dev.sendRed d r type origin dests seen body) := by
  unfold Dev.sendRed
  try dsimp only
  repeat' first
    | with_reducible assumption | with_reducible exact h | with_reducible apply Leaves.sendControls
    | with_reducible apply Leaves.sendPacket | with_reducible apply Leaves.ite | with_reducible apply Leaves.ite1
    | with_reducible apply Leaves.ite2 | with_reducible apply Leaves.foldl | with_reducible apply Leaves.foldl_fst
    | with_reducible apply Leaves.foldl_snd | simp only [Leaves.upd] | (show configReg _ = false; simp) | intro _ _ _ | intro _ _ | intro _ | dsimp only
    | split | rfl

theorem Leaves.writeRed (h : Leaves noBytes o d) (r : RedRun) (out : RedOut) : Leaves noBytes o (Dev.writeRed d r out) := by
  unfold Dev.writeRed
  try dsimp only
  repeat' first
    | with_reducible assumption | with_reducible exact h | with_reducible apply Leaves.addSat
    | with_reducible apply Leaves.putRed | with_reducible apply Leaves.putWords | with_reducible apply Leaves.setLocalNf
    | with_reducible apply Leaves.raise | with_reducible apply Leaves.writeAt | with_reducible apply Leaves.setReg
    | with_reducible apply Leaves.capture | with_reducible apply Leaves.ite | with_reducible apply Leaves.ite1
    | with_reducible apply Leaves.ite2 | with_reducible apply Leaves.foldl | with_reducible apply Leaves.foldl_fst
    | with_reducible apply Leaves.foldl_snd | simp only [Leaves.upd] | (show configReg _ = false; simp) | intro _ _ _ | intro _ _ | intro _ | dsimp only
    | split | rfl

theorem Leaves.putResidual (h : Leaves noBytes o d) (t : Option Desc) (src : List (Option (List Word))) : Leaves noBytes o (Dev.putResidual d t src) := by
  unfold Dev.putResidual
  try dsimp only
  repeat' first
    | with_reducible assumption | with_reducible exact h | with_reducible apply Leaves.write
    | with_reducible apply Leaves.ite | with_reducible apply Leaves.ite1 | with_reducible apply Leaves.ite2
    | with_reducible apply Leaves.foldl | with_reducible apply Leaves.foldl_fst | with_reducible apply Leaves.foldl_snd
    | simp only [Leaves.upd] | (show configReg _ = false; simp) | intro _ _ _ | intro _ _ | intro _ | dsimp only | split | rfl

theorem Leaves.runRed (h : Leaves noBytes o d) (a1 : Nat) (a3 : Nat) : Leaves noBytes o (Dev.runRed a1 d a3) := by
  induction a1 generalizing d with
  | zero => exact h
  | succ n ih =>
    unfold Dev.runRed
    try dsimp only
    repeat' first
      | with_reducible assumption | with_reducible apply ih | with_reducible exact h
      | with_reducible apply Leaves.endRed | with_reducible apply Leaves.sendRed
      | with_reducible apply Leaves.putResidual | with_reducible apply Leaves.putRed
      | with_reducible apply Leaves.writeRed | with_reducible apply Leaves.ite | with_reducible apply Leaves.ite1
      | with_reducible apply Leaves.ite2 | with_reducible apply Leaves.foldl | with_reducible apply Leaves.foldl_fst
      | with_reducible apply Leaves.foldl_snd | simp only [Leaves.upd] | (show configReg _ = false; simp) | intro _ _ _ | intro _ _ | intro _ | dsimp only
      | split | rfl

theorem Leaves.advanceRed (h : Leaves noBytes o d) (id : Nat) : Leaves noBytes o (Dev.advanceRed d id) := by
  unfold Dev.advanceRed
  try dsimp only
  repeat' first
    | with_reducible assumption | with_reducible exact h | with_reducible apply Leaves.runRed
    | with_reducible apply Leaves.ite | with_reducible apply Leaves.ite1 | with_reducible apply Leaves.ite2
    | with_reducible apply Leaves.foldl | with_reducible apply Leaves.foldl_fst | with_reducible apply Leaves.foldl_snd
    | simp only [Leaves.upd] | (show configReg _ = false; simp) | intro _ _ _ | intro _ _ | intro _ | dsimp only | split | rfl

theorem Leaves.floodRed (h : Leaves B o d) (r : RedRun) (h1 : RedHdr) (fromPkg : Nat) (b : List Byte) : Leaves B o (Dev.floodRed d r h1 fromPkg b) := by
  unfold Dev.floodRed
  try dsimp only
  repeat' first
    | with_reducible assumption | with_reducible exact h | with_reducible apply Leaves.sendPacket
    | with_reducible apply Leaves.ite | with_reducible apply Leaves.ite1 | with_reducible apply Leaves.ite2
    | with_reducible apply Leaves.foldl | with_reducible apply Leaves.foldl_fst | with_reducible apply Leaves.foldl_snd
    | simp only [Leaves.upd] | (show configReg _ = false; simp) | intro _ _ _ | intro _ _ | intro _ | dsimp only | split | rfl

theorem Leaves.takeRed (h : Leaves noBytes o d) (m : Packet) : Leaves noBytes o (Dev.takeRed d m) := by
  unfold Dev.takeRed
  try dsimp only
  repeat' first
    | with_reducible assumption | with_reducible exact h | with_reducible apply Leaves.putRed
    | with_reducible apply Leaves.endRed | with_reducible apply Leaves.advanceRed | with_reducible apply Leaves.floodRed
    | with_reducible apply Leaves.ite | with_reducible apply Leaves.ite1 | with_reducible apply Leaves.ite2
    | with_reducible apply Leaves.foldl | with_reducible apply Leaves.foldl_fst | with_reducible apply Leaves.foldl_snd
    | simp only [Leaves.upd] | (show configReg _ = false; simp) | intro _ _ _ | intro _ _ | intro _ | dsimp only | split | rfl

theorem Leaves.receiveRed (h : Leaves noBytes o d) (m : Packet) : Leaves noBytes o (Dev.receiveRed d m) := by
  unfold Dev.receiveRed
  try dsimp only
  repeat' first
    | with_reducible assumption | with_reducible exact h | with_reducible apply Leaves.takePacket
    | with_reducible apply Leaves.raise | with_reducible apply Leaves.addSat | with_reducible apply Leaves.putRed
    | with_reducible apply Leaves.setFlag | with_reducible apply Leaves.takeRed | with_reducible apply Leaves.ite
    | with_reducible apply Leaves.ite1 | with_reducible apply Leaves.ite2 | with_reducible apply Leaves.foldl
    | with_reducible apply Leaves.foldl_fst | with_reducible apply Leaves.foldl_snd | simp only [Leaves.upd] | (show configReg _ = false; simp)
    | intro _ _ _ | intro _ _ | intro _ | dsimp only | split | rfl

theorem Leaves.loseRed (h : Leaves noBytes o d) (lost : Bool) (id : Nat) : Leaves noBytes o (Dev.loseRed d lost id) := by
  unfold Dev.loseRed
  try dsimp only
  repeat' first
    | with_reducible assumption | with_reducible exact h | with_reducible apply Leaves.endRed
    | with_reducible apply Leaves.ite | with_reducible apply Leaves.ite1 | with_reducible apply Leaves.ite2
    | with_reducible apply Leaves.foldl | with_reducible apply Leaves.foldl_fst | with_reducible apply Leaves.foldl_snd
    | simp only [Leaves.upd] | (show configReg _ = false; simp) | intro _ _ _ | intro _ _ | intro _ | dsimp only | split | rfl

theorem Leaves.keepTally (h : Leaves B o d) (table : Nat) (tally : List Int) : Leaves B o (Dev.keepTally d table tally) := by
  unfold Dev.keepTally
  try dsimp only
  repeat' first
    | with_reducible assumption | with_reducible exact h | with_reducible apply Leaves.ite
    | with_reducible apply Leaves.ite1 | with_reducible apply Leaves.ite2 | with_reducible apply Leaves.foldl
    | with_reducible apply Leaves.foldl_fst | with_reducible apply Leaves.foldl_snd | simp only [Leaves.upd] | (show configReg _ = false; simp)
    | intro _ _ _ | intro _ _ | intro _ | dsimp only | split | rfl

theorem Leaves.redFinding (h : Leaves B o d) (c : Decoded) (r : ReduceCmd) (agrees : Bool) (vs : List Word) : Leaves B o (Dev.redFinding d c r agrees vs) := by
  unfold Dev.redFinding
  try dsimp only
  repeat' first
    | with_reducible assumption | with_reducible exact h | with_reducible apply Leaves.setLocalNf
    | with_reducible apply Leaves.addSat | with_reducible apply Leaves.setReg | with_reducible apply Leaves.setPair
    | with_reducible apply Leaves.record | with_reducible apply Leaves.ite | with_reducible apply Leaves.ite1
    | with_reducible apply Leaves.ite2 | with_reducible apply Leaves.foldl | with_reducible apply Leaves.foldl_fst
    | with_reducible apply Leaves.foldl_snd | simp only [Leaves.upd] | (show configReg _ = false; simp) | intro _ _ _ | intro _ _ | intro _ | dsimp only
    | split | rfl

theorem Leaves.offerHeld (h : Leaves noBytes o d)  : Leaves noBytes o (Dev.offerHeld d) := by
  unfold Dev.offerHeld
  try dsimp only
  repeat' first
    | with_reducible assumption | with_reducible exact h | with_reducible apply Leaves.takeRed
    | with_reducible apply Leaves.ite | with_reducible apply Leaves.ite1 | with_reducible apply Leaves.ite2
    | with_reducible apply Leaves.foldl | with_reducible apply Leaves.foldl_fst | with_reducible apply Leaves.foldl_snd
    | simp only [Leaves.upd] | (show configReg _ = false; simp) | intro _ _ _ | intro _ _ | intro _ | dsimp only | split | rfl

theorem Leaves.reduceEffect (h : Leaves noBytes o d) (c : Decoded) (r : ReduceCmd) (lost : Bool) (src : ByteSource) : Leaves noBytes o (Dev.reduceEffect d c r lost src) := by
  unfold Dev.reduceEffect
  try dsimp only
  repeat' first
    | with_reducible assumption | with_reducible exact h | with_reducible apply Leaves.newRun
    | with_reducible apply Leaves.writeAt | with_reducible apply Leaves.keepTally | with_reducible apply Leaves.endRed
    | with_reducible apply Leaves.addSat | with_reducible apply Leaves.redFinding | with_reducible apply Leaves.writeRed
    | with_reducible apply Leaves.offerHeld | with_reducible apply Leaves.advanceRed | with_reducible apply Leaves.ite
    | with_reducible apply Leaves.ite1 | with_reducible apply Leaves.ite2 | with_reducible apply Leaves.foldl
    | with_reducible apply Leaves.foldl_fst | with_reducible apply Leaves.foldl_snd | simp only [Leaves.upd] | (show configReg _ = false; simp)
    | intro _ _ _ | intro _ _ | intro _ | dsimp only | split | rfl

theorem Leaves.drainRed (h : Leaves noBytes o d)  : Leaves noBytes o (Dev.drainRed d) := by
  unfold Dev.drainRed
  try dsimp only
  repeat' first
    | with_reducible assumption | with_reducible exact h | with_reducible apply Leaves.endRed
    | with_reducible apply Leaves.ite | with_reducible apply Leaves.ite1 | with_reducible apply Leaves.ite2
    | with_reducible apply Leaves.foldl | with_reducible apply Leaves.foldl_fst | with_reducible apply Leaves.foldl_snd
    | simp only [Leaves.upd] | (show configReg _ = false; simp) | intro _ _ _ | intro _ _ | intro _ | dsimp only | split | rfl

end Sys2Proof.Machine
end

