-- ==== Sys2Proof/Laws/LeaveHelm.lean ====
section
/-! SUPPORT. What the operations of Machine/Helm.lean leave alone (`Leaves`). -/
set_option Elab.async false
set_option linter.unusedTactic false
set_option linter.unreachableTactic false
set_option linter.unusedSimpArgs false

namespace Sys2Proof.Machine

variable {B : Nat → Bool} {o d : Dev}

theorem Leaves.onLayer (h : Leaves B o d) (layer : Nat) (f : LayerRec → LayerRec) : Leaves B o (Dev.onLayer d layer f) := by
  unfold Dev.onLayer
  try dsimp only
  repeat' first
    | with_reducible assumption | with_reducible exact h | with_reducible apply Leaves.ite
    | with_reducible apply Leaves.ite1 | with_reducible apply Leaves.ite2 | with_reducible apply Leaves.foldl
    | with_reducible apply Leaves.foldl_fst | with_reducible apply Leaves.foldl_snd | simp only [Leaves.upd] | (show configReg _ = false; simp)
    | intro _ _ _ | intro _ _ | intro _ | dsimp only | split | rfl

theorem Leaves.writeDecay (h : Leaves noBytes o d) (n : Nat) (skip : Bool) (t : Nat) : Leaves noBytes o (Dev.writeDecay d n skip t) := by
  unfold Dev.writeDecay
  try dsimp only
  repeat' first
    | with_reducible assumption | with_reducible exact h | with_reducible apply Leaves.writeAt
    | with_reducible apply Leaves.ite | with_reducible apply Leaves.ite1 | with_reducible apply Leaves.ite2
    | with_reducible apply Leaves.foldl | with_reducible apply Leaves.foldl_fst | with_reducible apply Leaves.foldl_snd
    | simp only [Leaves.upd] | (show configReg _ = false; simp) | intro _ _ _ | intro _ _ | intro _ | dsimp only | split | rfl

theorem Leaves.setSlot (h : Leaves B o d) (i : Nat) (st : Nat) : Leaves B o (Dev.setSlot d i st) := by
  unfold Dev.setSlot
  try dsimp only
  repeat' first
    | with_reducible assumption | with_reducible exact h | with_reducible apply Leaves.setFld
    | with_reducible apply Leaves.ite | with_reducible apply Leaves.ite1 | with_reducible apply Leaves.ite2
    | with_reducible apply Leaves.foldl | with_reducible apply Leaves.foldl_fst | with_reducible apply Leaves.foldl_snd
    | simp only [Leaves.upd] | (show configReg _ = false; simp) | intro _ _ _ | intro _ _ | intro _ | dsimp only | split | rfl

theorem Leaves.endUpdateLeg (h : Leaves B o d)  : Leaves B o (Dev.endUpdateLeg d) := by
  unfold Dev.endUpdateLeg
  try dsimp only
  repeat' first
    | with_reducible assumption | with_reducible exact h | with_reducible apply Leaves.record
    | with_reducible apply Leaves.addWrap | with_reducible apply Leaves.setReg | with_reducible apply Leaves.setSlot
    | with_reducible apply Leaves.ite | with_reducible apply Leaves.ite1 | with_reducible apply Leaves.ite2
    | with_reducible apply Leaves.foldl | with_reducible apply Leaves.foldl_fst | with_reducible apply Leaves.foldl_snd
    | simp only [Leaves.upd] | (show configReg _ = false; simp) | intro _ _ _ | intro _ _ | intro _ | dsimp only | split | rfl

theorem Leaves.ringFix (h : Leaves B o d) (step : Nat) : Leaves B o (Dev.ringFix d step) := by
  unfold Dev.ringFix
  try dsimp only
  repeat' first
    | with_reducible assumption | with_reducible exact h | with_reducible apply Leaves.setSlot
    | with_reducible apply Leaves.setFld | with_reducible apply Leaves.ite | with_reducible apply Leaves.ite1
    | with_reducible apply Leaves.ite2 | with_reducible apply Leaves.foldl | with_reducible apply Leaves.foldl_fst
    | with_reducible apply Leaves.foldl_snd | simp only [Leaves.upd] | (show configReg _ = false; simp) | intro _ _ _ | intro _ _ | intro _ | dsimp only
    | split | rfl

theorem Leaves.ringPin (h : Leaves B o d)  : Leaves B o (Dev.ringPin d) := by
  unfold Dev.ringPin
  try dsimp only
  repeat' first
    | with_reducible assumption | with_reducible exact h | with_reducible apply Leaves.setFlag
    | with_reducible apply Leaves.raise | with_reducible apply Leaves.setFld | with_reducible apply Leaves.ite
    | with_reducible apply Leaves.ite1 | with_reducible apply Leaves.ite2 | with_reducible apply Leaves.foldl
    | with_reducible apply Leaves.foldl_fst | with_reducible apply Leaves.foldl_snd | simp only [Leaves.upd] | (show configReg _ = false; simp)
    | intro _ _ _ | intro _ _ | intro _ | dsimp only | split | rfl

theorem Leaves.ringUnpin (h : Leaves B o d)  : Leaves B o (Dev.ringUnpin d) := by
  unfold Dev.ringUnpin
  try dsimp only
  repeat' first
    | with_reducible assumption | with_reducible exact h | with_reducible apply Leaves.setSlot
    | with_reducible apply Leaves.setFlag | with_reducible apply Leaves.ite | with_reducible apply Leaves.ite1
    | with_reducible apply Leaves.ite2 | with_reducible apply Leaves.foldl | with_reducible apply Leaves.foldl_fst
    | with_reducible apply Leaves.foldl_snd | simp only [Leaves.upd] | (show configReg _ = false; simp) | intro _ _ _ | intro _ _ | intro _ | dsimp only
    | split | rfl

theorem Leaves.ringRollback (h : Leaves B o d)  : Leaves B o (Dev.ringRollback d) := by
  unfold Dev.ringRollback
  try dsimp only
  repeat' first
    | with_reducible assumption | with_reducible exact h | with_reducible apply Leaves.setSlot
    | with_reducible apply Leaves.ite | with_reducible apply Leaves.ite1 | with_reducible apply Leaves.ite2
    | with_reducible apply Leaves.foldl | with_reducible apply Leaves.foldl_fst | with_reducible apply Leaves.foldl_snd
    | simp only [Leaves.upd] | (show configReg _ = false; simp) | intro _ _ _ | intro _ _ | intro _ | dsimp only | split | rfl

theorem Leaves.helmFail (h : Leaves B o d) (c : Decoded) (layer : Nat) (reason : Nat) : Leaves B o (Dev.helmFail d c layer reason) := by
  unfold Dev.helmFail
  try dsimp only
  repeat' first
    | with_reducible assumption | with_reducible exact h | with_reducible apply Leaves.setReg
    | with_reducible apply Leaves.pageFault | with_reducible apply Leaves.raise | with_reducible apply Leaves.bad
    | with_reducible apply Leaves.record | with_reducible apply Leaves.ite | with_reducible apply Leaves.ite1
    | with_reducible apply Leaves.ite2 | with_reducible apply Leaves.foldl | with_reducible apply Leaves.foldl_fst
    | with_reducible apply Leaves.foldl_snd | simp only [Leaves.upd] | (show configReg _ = false; simp) | intro _ _ _ | intro _ _ | intro _ | dsimp only
    | split | rfl

theorem Leaves.setStep (h : Leaves B o d) (h1 : HelmSetCmd) : Leaves B o (Dev.setStep d h1) := by
  unfold Dev.setStep
  try dsimp only
  repeat' first
    | with_reducible assumption | with_reducible exact h | with_reducible apply Leaves.setPair
    | with_reducible apply Leaves.setReg | with_reducible apply Leaves.record | with_reducible apply Leaves.ite
    | with_reducible apply Leaves.ite1 | with_reducible apply Leaves.ite2 | with_reducible apply Leaves.foldl
    | with_reducible apply Leaves.foldl_fst | with_reducible apply Leaves.foldl_snd | simp only [Leaves.upd] | (show configReg _ = false; simp)
    | intro _ _ _ | intro _ _ | intro _ | dsimp only | split | rfl

theorem Leaves.helmSetEffect (h : Leaves noBytes o d) (c : Decoded) (h1 : HelmSetCmd) (lost : Bool) (src : ByteSource) : Leaves noBytes o (Dev.helmSetEffect d c h1 lost src) := by
  unfold Dev.helmSetEffect
  try dsimp only
  repeat' first
    | with_reducible assumption | with_reducible exact h | with_reducible apply Leaves.helmFail
    | with_reducible apply Leaves.setStream | with_reducible apply Leaves.onLayer | with_reducible apply Leaves.writeAt
    | with_reducible apply Leaves.setReg | with_reducible apply Leaves.ite | with_reducible apply Leaves.ite1
    | with_reducible apply Leaves.ite2 | with_reducible apply Leaves.foldl | with_reducible apply Leaves.foldl_fst
    | with_reducible apply Leaves.foldl_snd | simp only [Leaves.upd] | (show configReg _ = false; simp) | intro _ _ _ | intro _ _ | intro _ | dsimp only
    | split | rfl

theorem Leaves.writeRange (h : Leaves noBytes o d) (layer : Nat) (off : Nat) (bs : List Byte) : Leaves noBytes o (Dev.writeRange d layer off bs) := by
  unfold Dev.writeRange
  try dsimp only
  repeat' first
    | with_reducible assumption | with_reducible exact h | with_reducible apply Leaves.onLayer
    | with_reducible apply Leaves.writeAt | with_reducible apply Leaves.ite | with_reducible apply Leaves.ite1
    | with_reducible apply Leaves.ite2 | with_reducible apply Leaves.foldl | with_reducible apply Leaves.foldl_fst
    | with_reducible apply Leaves.foldl_snd | simp only [Leaves.upd] | (show configReg _ = false; simp) | intro _ _ _ | intro _ _ | intro _ | dsimp only
    | split | rfl

theorem Leaves.openStep (h : Leaves noBytes o d)  : Leaves noBytes o (Dev.openStep d).1 := by
  unfold Dev.openStep
  try dsimp only
  repeat' first
    | with_reducible assumption | with_reducible exact h | with_reducible apply Leaves.setFld
    | with_reducible apply Leaves.setSlot | with_reducible apply Leaves.leaveOpen | with_reducible apply Leaves.raise
    | with_reducible apply Leaves.writeDecay | with_reducible apply Leaves.ite | with_reducible apply Leaves.ite1
    | with_reducible apply Leaves.ite2 | with_reducible apply Leaves.foldl | with_reducible apply Leaves.foldl_fst
    | with_reducible apply Leaves.foldl_snd | simp only [Leaves.upd] | (show configReg _ = false; simp) | intro _ _ _ | intro _ _ | intro _ | dsimp only
    | split | rfl

theorem Leaves.updateFail (h : Leaves noBytes o d) (c : Decoded) (u : HelmUpdateCmd) (reason : Nat) (inputs : List Nat) : Leaves noBytes o (Dev.updateFail d c u reason inputs) := by
  unfold Dev.updateFail
  try dsimp only
  repeat' first
    | with_reducible assumption | with_reducible exact h | with_reducible apply Leaves.leaveOpen
    | with_reducible apply Leaves.helmFail | with_reducible apply Leaves.attribute | with_reducible apply Leaves.ite
    | with_reducible apply Leaves.ite1 | with_reducible apply Leaves.ite2 | with_reducible apply Leaves.foldl
    | with_reducible apply Leaves.foldl_fst | with_reducible apply Leaves.foldl_snd | simp only [Leaves.upd] | (show configReg _ = false; simp)
    | intro _ _ _ | intro _ _ | intro _ | dsimp only | split | rfl

theorem Leaves.writeCopy (h : Leaves noBytes o d) (o1 : Origin) (u : HelmUpdateCmd) (touched : List Bool) (w : Matrix) : Leaves noBytes o (Dev.writeCopy d o1 u touched w) := by
  unfold Dev.writeCopy
  try dsimp only
  repeat' first
    | with_reducible assumption | with_reducible exact h | with_reducible apply Leaves.output
    | with_reducible apply Leaves.ite | with_reducible apply Leaves.ite1 | with_reducible apply Leaves.ite2
    | with_reducible apply Leaves.foldl | with_reducible apply Leaves.foldl_fst | with_reducible apply Leaves.foldl_snd
    | simp only [Leaves.upd] | (show configReg _ = false; simp) | intro _ _ _ | intro _ _ | intro _ | dsimp only | split | rfl

theorem Leaves.helmUpdateEffect (h : Leaves noBytes o d) (c : Decoded) (u : HelmUpdateCmd) (lost : Bool) (src : ByteSource) : Leaves noBytes o (Dev.helmUpdateEffect d c u lost src) := by
  unfold Dev.helmUpdateEffect
  try dsimp only
  repeat' first
    | with_reducible assumption | with_reducible exact h | with_reducible apply Leaves.openStep
    | with_reducible apply Leaves.updateFail | with_reducible apply Leaves.writeRange
    | with_reducible apply Leaves.onLayer | with_reducible apply Leaves.writeCopy | with_reducible apply Leaves.ite
    | with_reducible apply Leaves.ite1 | with_reducible apply Leaves.ite2 | with_reducible apply Leaves.foldl
    | with_reducible apply Leaves.foldl_fst | with_reducible apply Leaves.foldl_snd | simp only [Leaves.upd] | (show configReg _ = false; simp)
    | intro _ _ _ | intro _ _ | intro _ | dsimp only | split | rfl

end Sys2Proof.Machine
end

