-- ==== Sys2Proof/Laws/LeaveVotes.lean ====
section
/-! SUPPORT. What the operations of Machine/Votes.lean leave alone (`Leaves`). -/
set_option Elab.async false
set_option linter.unusedTactic false
set_option linter.unreachableTactic false
set_option linter.unusedSimpArgs false

namespace Sys2Proof.Machine

variable {B : Nat → Bool} {o d : Dev}

theorem Leaves.lessProbation (h : Leaves B o d) (f : Fuse) : Leaves B o (Dev.lessProbation d f) := by
  unfold Dev.lessProbation
  try dsimp only
  repeat' first
    | with_reducible assumption | with_reducible exact h | with_reducible apply Leaves.release
    | with_reducible apply Leaves.setCore | with_reducible apply Leaves.ite | with_reducible apply Leaves.ite1
    | with_reducible apply Leaves.ite2 | with_reducible apply Leaves.foldl | with_reducible apply Leaves.foldl_fst
    | with_reducible apply Leaves.foldl_snd | simp only [Leaves.upd] | (show configReg _ = false; simp) | intro _ _ _ | intro _ _ | intro _ | dsimp only
    | split | rfl

theorem Leaves.fixStep (h : Leaves B o d) (f : Fuse) (s : Nat) : Leaves B o (Dev.fixStep d f s) := by
  unfold Dev.fixStep
  try dsimp only
  repeat' first
    | with_reducible assumption | with_reducible exact h | with_reducible apply Leaves.raise
    | with_reducible apply Leaves.ringFix | with_reducible apply Leaves.setPair
    | with_reducible apply Leaves.lessProbation | with_reducible apply Leaves.ite | with_reducible apply Leaves.ite1
    | with_reducible apply Leaves.ite2 | with_reducible apply Leaves.foldl | with_reducible apply Leaves.foldl_fst
    | with_reducible apply Leaves.foldl_snd | simp only [Leaves.upd] | (show configReg _ = false; simp) | intro _ _ _ | intro _ _ | intro _ | dsimp only
    | split | rfl

theorem Leaves.fixReleased (h : Leaves B o d) (f : Fuse) (a1 : Nat) : Leaves B o (Dev.fixReleased f a1 d) := by
  induction a1 generalizing d with
  | zero => exact h
  | succ n ih =>
    unfold Dev.fixReleased
    try dsimp only
    repeat' first
      | with_reducible assumption | with_reducible apply ih | with_reducible exact h
      | with_reducible apply Leaves.fixStep | with_reducible apply Leaves.ite | with_reducible apply Leaves.ite1
      | with_reducible apply Leaves.ite2 | with_reducible apply Leaves.foldl | with_reducible apply Leaves.foldl_fst
      | with_reducible apply Leaves.foldl_snd | simp only [Leaves.upd] | (show configReg _ = false; simp) | intro _ _ _ | intro _ _ | intro _ | dsimp only
      | split | rfl

theorem Leaves.skSend (h : Leaves B o d) (dest : Nat) (type : Nat) (code : Nat) (dir : Nat) (suspect : Nat) (step : Nat) (x : Digests) : Leaves B o (Dev.skSend d dest type code dir suspect step x) := by
  unfold Dev.skSend
  try dsimp only
  repeat' first
    | with_reducible assumption | with_reducible exact h | with_reducible apply Leaves.sendControl
    | with_reducible apply Leaves.ite | with_reducible apply Leaves.ite1 | with_reducible apply Leaves.ite2
    | with_reducible apply Leaves.foldl | with_reducible apply Leaves.foldl_fst | with_reducible apply Leaves.foldl_snd
    | simp only [Leaves.upd] | (show configReg _ = false; simp) | intro _ _ _ | intro _ _ | intro _ | dsimp only | split | rfl

theorem Leaves.putRequest (h : Leaves B o d) (r : SkRequest) : Leaves B o (Dev.putRequest d r) := by
  unfold Dev.putRequest
  try dsimp only
  repeat' first
    | with_reducible assumption | with_reducible exact h | with_reducible apply Leaves.ite
    | with_reducible apply Leaves.ite1 | with_reducible apply Leaves.ite2 | with_reducible apply Leaves.foldl
    | with_reducible apply Leaves.foldl_fst | with_reducible apply Leaves.foldl_snd | simp only [Leaves.upd] | (show configReg _ = false; simp)
    | intro _ _ _ | intro _ _ | intro _ | dsimp only | split | rfl

theorem Leaves.dropRequest (h : Leaves B o d) (step : Nat) : Leaves B o (Dev.dropRequest d step) := by
  unfold Dev.dropRequest
  try dsimp only
  repeat' first
    | with_reducible assumption | with_reducible exact h | with_reducible apply Leaves.ite
    | with_reducible apply Leaves.ite1 | with_reducible apply Leaves.ite2 | with_reducible apply Leaves.foldl
    | with_reducible apply Leaves.foldl_fst | with_reducible apply Leaves.foldl_snd | simp only [Leaves.upd] | (show configReg _ = false; simp)
    | intro _ _ _ | intro _ _ | intro _ | dsimp only | split | rfl

theorem Leaves.sendDecision (h : Leaves B o d) (step : Nat) (code : Nat) : Leaves B o (Dev.sendDecision d step code) := by
  unfold Dev.sendDecision
  try dsimp only
  repeat' first
    | with_reducible assumption | with_reducible exact h | with_reducible apply Leaves.skSend
    | with_reducible apply Leaves.ite | with_reducible apply Leaves.ite1 | with_reducible apply Leaves.ite2
    | with_reducible apply Leaves.foldl | with_reducible apply Leaves.foldl_fst | with_reducible apply Leaves.foldl_snd
    | simp only [Leaves.upd] | (show configReg _ = false; simp) | intro _ _ _ | intro _ _ | intro _ | dsimp only | split | rfl

theorem Leaves.decideFix (h : Leaves B o d) (step : Nat) : Leaves B o (Dev.decideFix d step) := by
  unfold Dev.decideFix
  try dsimp only
  repeat' first
    | with_reducible assumption | with_reducible exact h | with_reducible apply Leaves.dropRequest
    | with_reducible apply Leaves.sendDecision | with_reducible apply Leaves.ite | with_reducible apply Leaves.ite1
    | with_reducible apply Leaves.ite2 | with_reducible apply Leaves.foldl | with_reducible apply Leaves.foldl_fst
    | with_reducible apply Leaves.foldl_snd | simp only [Leaves.upd] | (show configReg _ = false; simp) | intro _ _ _ | intro _ _ | intro _ | dsimp only
    | split | rfl

theorem Leaves.decideRollback (h : Leaves B o d) (r : SkRequest) (cause : Nat) : Leaves B o (Dev.decideRollback d r cause) := by
  unfold Dev.decideRollback
  try dsimp only
  repeat' first
    | with_reducible assumption | with_reducible exact h | with_reducible apply Leaves.sendDecision
    | with_reducible apply Leaves.putRequest | with_reducible apply Leaves.ite | with_reducible apply Leaves.ite1
    | with_reducible apply Leaves.ite2 | with_reducible apply Leaves.foldl | with_reducible apply Leaves.foldl_fst
    | with_reducible apply Leaves.foldl_snd | simp only [Leaves.upd] | (show configReg _ = false; simp) | intro _ _ _ | intro _ _ | intro _ | dsimp only
    | split | rfl

theorem Leaves.reportFaulty (h : Leaves B o d) (package : Nat) (step : Nat) : Leaves B o (Dev.reportFaulty d package step) := by
  unfold Dev.reportFaulty
  try dsimp only
  repeat' first
    | with_reducible assumption | with_reducible exact h | with_reducible apply Leaves.record
    | with_reducible apply Leaves.ite | with_reducible apply Leaves.ite1 | with_reducible apply Leaves.ite2
    | with_reducible apply Leaves.foldl | with_reducible apply Leaves.foldl_fst | with_reducible apply Leaves.foldl_snd
    | simp only [Leaves.upd] | (show configReg _ = false; simp) | intro _ _ _ | intro _ _ | intro _ | dsimp only | split | rfl

theorem Leaves.requestKey (h : Leaves B o d) (step : Nat) : Leaves B o (Dev.requestKey d step) := by
  unfold Dev.requestKey
  try dsimp only
  repeat' first
    | with_reducible assumption | with_reducible exact h | with_reducible apply Leaves.skSend
    | with_reducible apply Leaves.decideRollback | with_reducible apply Leaves.ite | with_reducible apply Leaves.ite1
    | with_reducible apply Leaves.ite2 | with_reducible apply Leaves.foldl | with_reducible apply Leaves.foldl_fst
    | with_reducible apply Leaves.foldl_snd | simp only [Leaves.upd] | (show configReg _ = false; simp) | intro _ _ _ | intro _ _ | intro _ | dsimp only
    | split | rfl

theorem ring_voidRecords {m : Mem} (h : m.wf = true) (first hi n x : Nat) : (voidRecords first hi n m x).wf = true ∧
    ∀ a, regionOf a ≠ .logbook → (voidRecords first hi n m x).byte a = m.byte a := by
  induction n generalizing m x with
  | zero => exact ⟨h, fun _ _ => rfl⟩
  | succ n ih =>
    unfold voidRecords
    split
    · exact ⟨h, fun _ _ => rfl⟩
    · dsimp only
      split
      · have hw := Mem.wf_setByte h (ringAddr (x + 6)) (m.byte (ringAddr (x + 6)) ||| 1#8)
        exact ⟨(ih hw _).1, fun a ha => ((ih hw _).2 a ha).trans (byte_setByte_ring h ha _ _)⟩
      · exact ih h _

theorem Leaves.logRollback (h : Leaves B o d) (cause : Nat) : Leaves B o (Dev.logRollback d cause) := by
  unfold Dev.logRollback
  dsimp only
  refine Leaves.ite (Leaves.upd.mpr ?_) (Leaves.raise (Leaves.upd.mpr ?_) _ _) <;>
    exact Leaves.record (h.memory (fun x => (ring_voidRecords x _ _ _ _).1) fun hm a _ ha => (ring_voidRecords hm _ _ _ _).2 a ha) _

theorem Leaves.orderRollback (h : Leaves B o d) (cause : Nat) : Leaves B o (Dev.orderRollback d cause) := by
  unfold Dev.orderRollback
  try dsimp only
  repeat' first
    | with_reducible assumption | with_reducible exact h | with_reducible apply Leaves.logRollback
    | with_reducible apply Leaves.setFlag | with_reducible apply Leaves.raise | with_reducible apply Leaves.addSat
    | with_reducible apply Leaves.skSend | with_reducible apply Leaves.ite | with_reducible apply Leaves.ite1
    | with_reducible apply Leaves.ite2 | with_reducible apply Leaves.foldl | with_reducible apply Leaves.foldl_fst
    | with_reducible apply Leaves.foldl_snd | simp only [Leaves.upd] | (show configReg _ = false; simp) | intro _ _ _ | intro _ _ | intro _ | dsimp only
    | split | rfl

theorem Leaves.fixDone (h : Leaves B o d) (c : Decoded) (n : Nat) (vote : Nat) (cause : Nat) : Leaves B o (Dev.fixDone d c n vote cause) := by
  unfold Dev.fixDone
  try dsimp only
  repeat' first
    | with_reducible assumption | with_reducible exact h | with_reducible apply Leaves.record
    | with_reducible apply Leaves.ringPin | with_reducible apply Leaves.settle | with_reducible apply Leaves.complete
    | with_reducible apply Leaves.ite | with_reducible apply Leaves.ite1 | with_reducible apply Leaves.ite2
    | with_reducible apply Leaves.foldl | with_reducible apply Leaves.foldl_fst | with_reducible apply Leaves.foldl_snd
    | simp only [Leaves.upd] | (show configReg _ = false; simp) | intro _ _ _ | intro _ _ | intro _ | dsimp only | split | rfl

theorem Leaves.showVote (h : Leaves B o d) (n : Nat) (v : Vote) : Leaves B o (Dev.showVote d n v) := by
  unfold Dev.showVote
  try dsimp only
  repeat' first
    | with_reducible assumption | with_reducible exact h | with_reducible apply Leaves.addSat
    | with_reducible apply Leaves.setFld | with_reducible apply Leaves.raise | with_reducible apply Leaves.ite
    | with_reducible apply Leaves.ite1 | with_reducible apply Leaves.ite2 | with_reducible apply Leaves.foldl
    | with_reducible apply Leaves.foldl_fst | with_reducible apply Leaves.foldl_snd | simp only [Leaves.upd] | (show configReg _ = false; simp)
    | intro _ _ _ | intro _ _ | intro _ | dsimp only | split | rfl

theorem Leaves.applyVote (h : Leaves B o d) (f : Fuse) (c : Decoded) (n : Nat) (vote : Nat) (v : Vote) : Leaves B o (Dev.applyVote d f c n vote v) := by
  unfold Dev.applyVote
  try dsimp only
  repeat' first
    | with_reducible assumption | with_reducible exact h | with_reducible apply Leaves.showVote
    | with_reducible apply Leaves.fixStep | with_reducible apply Leaves.orderRollback
    | with_reducible apply Leaves.fixDone | with_reducible apply Leaves.requestKey | with_reducible apply Leaves.ite
    | with_reducible apply Leaves.ite1 | with_reducible apply Leaves.ite2 | with_reducible apply Leaves.foldl
    | with_reducible apply Leaves.foldl_fst | with_reducible apply Leaves.foldl_snd | simp only [Leaves.upd] | (show configReg _ = false; simp)
    | intro _ _ _ | intro _ _ | intro _ | dsimp only | split | rfl

theorem Leaves.fixMismatch (h : Leaves B o d) (c : Decoded) (peer : Nat) : Leaves B o (Dev.fixMismatch d c peer) := by
  unfold Dev.fixMismatch
  try dsimp only
  repeat' first
    | with_reducible assumption | with_reducible exact h | with_reducible apply Leaves.legMismatch
    | with_reducible apply Leaves.ite | with_reducible apply Leaves.ite1 | with_reducible apply Leaves.ite2
    | with_reducible apply Leaves.foldl | with_reducible apply Leaves.foldl_fst | with_reducible apply Leaves.foldl_snd
    | simp only [Leaves.upd] | (show configReg _ = false; simp) | intro _ _ _ | intro _ _ | intro _ | dsimp only | split | rfl

theorem Leaves.runVote (h : Leaves B o d) (f : Fuse) : Leaves B o (Dev.runVote d f) := by
  unfold Dev.runVote
  try dsimp only
  repeat' first
    | with_reducible assumption | with_reducible exact h | with_reducible apply Leaves.fixMismatch
    | with_reducible apply Leaves.applyVote | with_reducible apply Leaves.sendControls
    | with_reducible apply Leaves.sendControl | with_reducible apply Leaves.ite | with_reducible apply Leaves.ite1
    | with_reducible apply Leaves.ite2 | with_reducible apply Leaves.foldl | with_reducible apply Leaves.foldl_fst
    | with_reducible apply Leaves.foldl_snd | simp only [Leaves.upd] | (show configReg _ = false; simp) | intro _ _ _ | intro _ _ | intro _ | dsimp only
    | split | rfl

theorem Leaves.replayEnds (h : Leaves B o d) (n : Nat) : Leaves B o (Dev.replayEnds d n) := by
  unfold Dev.replayEnds
  try dsimp only
  repeat' first
    | with_reducible assumption | with_reducible exact h | with_reducible apply Leaves.skSend
    | with_reducible apply Leaves.decideFix | with_reducible apply Leaves.reportFaulty
    | with_reducible apply Leaves.decideRollback | with_reducible apply Leaves.ite | with_reducible apply Leaves.ite1
    | with_reducible apply Leaves.ite2 | with_reducible apply Leaves.foldl | with_reducible apply Leaves.foldl_fst
    | with_reducible apply Leaves.foldl_snd | simp only [Leaves.upd] | (show configReg _ = false; simp) | intro _ _ _ | intro _ _ | intro _ | dsimp only
    | split | rfl

theorem Leaves.takeRequest (h : Leaves B o d) (m : SkMsg) : Leaves B o (Dev.takeRequest d m) := by
  unfold Dev.takeRequest
  try dsimp only
  repeat' first
    | with_reducible assumption | with_reducible exact h | with_reducible apply Leaves.raise
    | with_reducible apply Leaves.skSend | with_reducible apply Leaves.ite | with_reducible apply Leaves.ite1
    | with_reducible apply Leaves.ite2 | with_reducible apply Leaves.foldl | with_reducible apply Leaves.foldl_fst
    | with_reducible apply Leaves.foldl_snd | simp only [Leaves.upd] | (show configReg _ = false; simp) | intro _ _ _ | intro _ _ | intro _ | dsimp only
    | split | rfl

theorem Leaves.aboutRequest (h : Leaves B o d) (m : SkMsg) (f : SkRequest → Dev) (hf : ∀ y0, Leaves B o (f y0)) : Leaves B o (Dev.aboutRequest d m f) := by
  unfold Dev.aboutRequest
  try dsimp only
  repeat' first
    | with_reducible assumption | with_reducible exact h | with_reducible apply Leaves.stray | with_reducible apply hf
    | with_reducible apply Leaves.ite | with_reducible apply Leaves.ite1 | with_reducible apply Leaves.ite2
    | with_reducible apply Leaves.foldl | with_reducible apply Leaves.foldl_fst | with_reducible apply Leaves.foldl_snd
    | simp only [Leaves.upd] | (show configReg _ = false; simp) | intro _ _ _ | intro _ _ | intro _ | dsimp only | split | rfl

theorem Leaves.decisionCause (h : Leaves B o d) (m : SkMsg) : Leaves B o (Dev.decisionCause d m).2 := by
  unfold Dev.decisionCause
  try dsimp only
  repeat' first
    | with_reducible assumption | with_reducible exact h | with_reducible apply Leaves.drawWord
    | with_reducible apply Leaves.ite | with_reducible apply Leaves.ite1 | with_reducible apply Leaves.ite2
    | with_reducible apply Leaves.foldl | with_reducible apply Leaves.foldl_fst | with_reducible apply Leaves.foldl_snd
    | simp only [Leaves.upd] | (show configReg _ = false; simp) | intro _ _ _ | intro _ _ | intro _ | dsimp only | split | rfl

theorem Leaves.endHold (h : Leaves B o d) (m : SkMsg) : Leaves B o (Dev.endHold d m) := by
  unfold Dev.endHold
  try dsimp only
  repeat' first
    | with_reducible assumption | with_reducible exact h | with_reducible apply Leaves.setFlag
    | with_reducible apply Leaves.ite | with_reducible apply Leaves.ite1 | with_reducible apply Leaves.ite2
    | with_reducible apply Leaves.foldl | with_reducible apply Leaves.foldl_fst | with_reducible apply Leaves.foldl_snd
    | simp only [Leaves.upd] | (show configReg _ = false; simp) | intro _ _ _ | intro _ _ | intro _ | dsimp only | split | rfl

theorem Leaves.awaitLess (h : Leaves B o d) (step : Nat) : Leaves B o (Dev.awaitLess d step) := by
  unfold Dev.awaitLess
  try dsimp only
  repeat' first
    | with_reducible assumption | with_reducible exact h | with_reducible apply Leaves.ite
    | with_reducible apply Leaves.ite1 | with_reducible apply Leaves.ite2 | with_reducible apply Leaves.foldl
    | with_reducible apply Leaves.foldl_fst | with_reducible apply Leaves.foldl_snd | simp only [Leaves.upd] | (show configReg _ = false; simp)
    | intro _ _ _ | intro _ _ | intro _ | dsimp only | split | rfl

theorem Leaves.applyDecision (h : Leaves B o d) (f : Fuse) (m : SkMsg) : Leaves B o (Dev.applyDecision d f m) := by
  unfold Dev.applyDecision
  try dsimp only
  repeat' first
    | with_reducible assumption | with_reducible exact h | with_reducible apply Leaves.raise
    | with_reducible apply Leaves.fixReleased | with_reducible apply Leaves.awaitLess
    | with_reducible apply Leaves.endHold | with_reducible apply Leaves.decisionCause
    | with_reducible apply Leaves.orderRollback | with_reducible apply Leaves.ite | with_reducible apply Leaves.ite1
    | with_reducible apply Leaves.ite2 | with_reducible apply Leaves.foldl | with_reducible apply Leaves.foldl_fst
    | with_reducible apply Leaves.foldl_snd | simp only [Leaves.upd] | (show configReg _ = false; simp) | intro _ _ _ | intro _ _ | intro _ | dsimp only
    | split | rfl

theorem Leaves.takeDecision (h : Leaves B o d) (f : Fuse) (m : SkMsg) : Leaves B o (Dev.takeDecision d f m) := by
  unfold Dev.takeDecision
  try dsimp only
  repeat' first
    | with_reducible assumption | with_reducible exact h | with_reducible apply Leaves.stray
    | with_reducible apply Leaves.applyDecision | with_reducible apply Leaves.sendControls
    | with_reducible apply Leaves.ite | with_reducible apply Leaves.ite1 | with_reducible apply Leaves.ite2
    | with_reducible apply Leaves.foldl | with_reducible apply Leaves.foldl_fst | with_reducible apply Leaves.foldl_snd
    | simp only [Leaves.upd] | (show configReg _ = false; simp) | intro _ _ _ | intro _ _ | intro _ | dsimp only | split | rfl

theorem Leaves.discardReceived (h : Leaves B o d)  : Leaves B o (Dev.discardReceived d) := by
  unfold Dev.discardReceived
  try dsimp only
  repeat' first
    | with_reducible assumption | with_reducible exact h | with_reducible apply Leaves.takePacket
    | with_reducible apply Leaves.ite | with_reducible apply Leaves.ite1 | with_reducible apply Leaves.ite2
    | with_reducible apply Leaves.foldl | with_reducible apply Leaves.foldl_fst | with_reducible apply Leaves.foldl_snd
    | simp only [Leaves.upd] | (show configReg _ = false; simp) | intro _ _ _ | intro _ _ | intro _ | dsimp only | split | rfl

theorem Leaves.flushRound (h : Leaves B o d) (x : Nat × Nat) : Leaves B o (Dev.flushRound d x) := by
  unfold Dev.flushRound
  try dsimp only
  repeat' first
    | with_reducible assumption | with_reducible exact h | with_reducible apply Leaves.setFlag
    | with_reducible apply Leaves.runPosts | with_reducible apply Leaves.moveTo | with_reducible apply Leaves.ite
    | with_reducible apply Leaves.ite1 | with_reducible apply Leaves.ite2 | with_reducible apply Leaves.foldl
    | with_reducible apply Leaves.foldl_fst | with_reducible apply Leaves.foldl_snd | simp only [Leaves.upd] | (show configReg _ = false; simp)
    | intro _ _ _ | intro _ _ | intro _ | dsimp only | split | rfl

theorem Leaves.runFlush (h : Leaves B o d) (a1 : Nat) : Leaves B o (Dev.runFlush a1 d) := by
  induction a1 generalizing d with
  | zero => exact h
  | succ n ih =>
    unfold Dev.runFlush
    try dsimp only
    repeat' first
      | with_reducible assumption | with_reducible apply ih | with_reducible exact h
      | with_reducible apply Leaves.flushRound | with_reducible apply Leaves.sendControls
      | with_reducible apply Leaves.sendControl | with_reducible apply Leaves.ite | with_reducible apply Leaves.ite1
      | with_reducible apply Leaves.ite2 | with_reducible apply Leaves.foldl | with_reducible apply Leaves.foldl_fst
      | with_reducible apply Leaves.foldl_snd | simp only [Leaves.upd] | (show configReg _ = false; simp) | intro _ _ _ | intro _ _ | intro _ | dsimp only
      | split | rfl

theorem Leaves.startFlush (h : Leaves B o d)  : Leaves B o (Dev.startFlush d) := by
  unfold Dev.startFlush
  try dsimp only
  repeat' first
    | with_reducible assumption | with_reducible exact h | with_reducible apply Leaves.discardReceived
    | with_reducible apply Leaves.setFlag | with_reducible apply Leaves.moveTo | with_reducible apply Leaves.runFlush
    | with_reducible apply Leaves.ite | with_reducible apply Leaves.ite1 | with_reducible apply Leaves.ite2
    | with_reducible apply Leaves.foldl | with_reducible apply Leaves.foldl_fst | with_reducible apply Leaves.foldl_snd
    | simp only [Leaves.upd] | (show configReg _ = false; simp) | intro _ _ _ | intro _ _ | intro _ | dsimp only | split | rfl

end Sys2Proof.Machine
end

