-- ==== Sys2Proof/Laws/LeaveDrains.lean ====
section
/-! SUPPORT. What the operations of Machine/Drains.lean leave alone (`Leaves`). -/
set_option Elab.async false
set_option linter.unusedTactic false
set_option linter.unreachableTactic false
set_option linter.unusedSimpArgs false

namespace Sys2Proof.Machine

variable {B : Nat → Bool} {o d : Dev}

theorem Leaves.endWaiting (h : Leaves B o d) (st : Stream) : Leaves B o (Dev.endWaiting d st) := by
  unfold Dev.endWaiting
  try dsimp only
  repeat' first
    | with_reducible assumption | with_reducible exact h | with_reducible apply Leaves.setStream
    | with_reducible apply Leaves.ite | with_reducible apply Leaves.ite1 | with_reducible apply Leaves.ite2
    | with_reducible apply Leaves.foldl | with_reducible apply Leaves.foldl_fst | with_reducible apply Leaves.foldl_snd
    | simp only [Leaves.upd] | (show configReg _ = false; simp) | intro _ _ _ | intro _ _ | intro _ | dsimp only | split | rfl

theorem Leaves.stopStream (h : Leaves B o d) (st : Stream) : Leaves B o (Dev.stopStream d st) := by
  unfold Dev.stopStream
  try dsimp only
  repeat' first
    | with_reducible assumption | with_reducible exact h | with_reducible apply Leaves.setStream
    | with_reducible apply Leaves.endWaiting | with_reducible apply Leaves.setFlag | with_reducible apply Leaves.endStall
    | with_reducible apply Leaves.ite | with_reducible apply Leaves.ite1 | with_reducible apply Leaves.ite2
    | with_reducible apply Leaves.foldl | with_reducible apply Leaves.foldl_fst | with_reducible apply Leaves.foldl_snd
    | simp only [Leaves.upd] | (show configReg _ = false; simp) | intro _ _ _ | intro _ _ | intro _ | dsimp only | split | rfl

theorem Leaves.clearStream (h : Leaves B o d) (st : Stream) : Leaves B o (Dev.clearStream d st) := by
  unfold Dev.clearStream
  try dsimp only
  repeat' first
    | with_reducible assumption | with_reducible exact h | with_reducible apply Leaves.setReg
    | with_reducible apply Leaves.setFld | with_reducible apply Leaves.setStream | with_reducible apply Leaves.ite
    | with_reducible apply Leaves.ite1 | with_reducible apply Leaves.ite2 | with_reducible apply Leaves.foldl
    | with_reducible apply Leaves.foldl_fst | with_reducible apply Leaves.foldl_snd | simp only [Leaves.upd] | (show configReg _ = false; simp)
    | intro _ _ _ | intro _ _ | intro _ | dsimp only | split | rfl

theorem Leaves.clearFinals (h : Leaves noBytes o d) : Leaves noBytes o (Dev.clearFinals d) := by
  have hm : ∀ (l : List Claimed) (m : Mem), m.wf = true → Mem.wf (l.foldl (fun m c => if c.step == d.step % 0x100000000 then
      m.setByte (d.recordAddr c.layerSlot c.microbatch + 8) (m.byte (d.recordAddr c.layerSlot c.microbatch + 8) &&& 0xFE#8)
      else m) m) = true := by
    intro l
    induction l with
    | nil => exact fun _ hb => hb
    | cons c l ih =>
      intro m hb
      apply ih
      dsimp only
      split
      · exact Mem.wf_setByte hb _ _
      · exact hb
  exact h.memoryFree fun x => hm _ _ x

theorem Leaves.drainCmp (h : Leaves noBytes o d)  : Leaves noBytes o (Dev.drainCmp d) := by
  unfold Dev.drainCmp
  try dsimp only
  repeat' first
    | with_reducible assumption | with_reducible exact h | with_reducible apply Leaves.endXchg
    | with_reducible apply Leaves.clearFinals | with_reducible apply Leaves.ite | with_reducible apply Leaves.ite1
    | with_reducible apply Leaves.ite2 | with_reducible apply Leaves.foldl | with_reducible apply Leaves.foldl_fst
    | with_reducible apply Leaves.foldl_snd | simp only [Leaves.upd] | (show configReg _ = false; simp) | intro _ _ _ | intro _ _ | intro _ | dsimp only
    | split | rfl

theorem Leaves.drainCht (h : Leaves B o d)  : Leaves B o (Dev.drainCht d) := by
  unfold Dev.drainCht
  try dsimp only
  repeat' first
    | with_reducible assumption | with_reducible exact h | with_reducible apply Leaves.ite
    | with_reducible apply Leaves.ite1 | with_reducible apply Leaves.ite2 | with_reducible apply Leaves.foldl
    | with_reducible apply Leaves.foldl_fst | with_reducible apply Leaves.foldl_snd | simp only [Leaves.upd] | (show configReg _ = false; simp)
    | intro _ _ _ | intro _ _ | intro _ | dsimp only | split | rfl

theorem Leaves.drainEffect (h : Leaves noBytes o d) (p : Page) : Leaves noBytes o (Dev.drainEffect d p) := by
  unfold Dev.drainEffect
  try dsimp only
  repeat' first
    | with_reducible assumption | with_reducible exact h | with_reducible apply Leaves.drainCmp
    | with_reducible apply Leaves.drainRed | with_reducible apply Leaves.ringRollback
    | with_reducible apply Leaves.emptyHinge | with_reducible apply Leaves.drainCht | with_reducible apply Leaves.ite
    | with_reducible apply Leaves.ite1 | with_reducible apply Leaves.ite2 | with_reducible apply Leaves.foldl
    | with_reducible apply Leaves.foldl_fst | with_reducible apply Leaves.foldl_snd | simp only [Leaves.upd] | (show configReg _ = false; simp)
    | intro _ _ _ | intro _ _ | intro _ | dsimp only | split | rfl

theorem Leaves.wakeHelm (h : Leaves B o d)  : Leaves B o (Dev.wakeHelm d) := by
  unfold Dev.wakeHelm
  try dsimp only
  repeat' first
    | with_reducible assumption | with_reducible exact h | with_reducible apply Leaves.setFld
    | with_reducible apply Leaves.setSlot | with_reducible apply Leaves.moveTo | with_reducible apply Leaves.ite
    | with_reducible apply Leaves.ite1 | with_reducible apply Leaves.ite2 | with_reducible apply Leaves.foldl
    | with_reducible apply Leaves.foldl_fst | with_reducible apply Leaves.foldl_snd | simp only [Leaves.upd] | (show configReg _ = false; simp)
    | intro _ _ _ | intro _ _ | intro _ | dsimp only | split | rfl

theorem Leaves.wakeCmp (h : Leaves B o d)  : Leaves B o (Dev.wakeCmp d) := by
  unfold Dev.wakeCmp
  try dsimp only
  repeat' first
    | with_reducible assumption | with_reducible exact h | with_reducible apply Leaves.moveTo
    | with_reducible apply Leaves.ite | with_reducible apply Leaves.ite1 | with_reducible apply Leaves.ite2
    | with_reducible apply Leaves.foldl | with_reducible apply Leaves.foldl_fst | with_reducible apply Leaves.foldl_snd
    | simp only [Leaves.upd] | (show configReg _ = false; simp) | intro _ _ _ | intro _ _ | intro _ | dsimp only | split | rfl

theorem Leaves.enterReady (h : Leaves noBytes o d) (p : Page) : Leaves noBytes o (Dev.enterReady d p) := by
  unfold Dev.enterReady
  try dsimp only
  repeat' first
    | with_reducible assumption | with_reducible exact h | with_reducible apply Leaves.clearStream
    | with_reducible apply Leaves.wakeCmp | with_reducible apply Leaves.wakeHelm
    | with_reducible apply Leaves.chartLoaded | with_reducible apply Leaves.abandonSends
    | with_reducible apply Leaves.hubLeft | with_reducible apply Leaves.ite | with_reducible apply Leaves.ite1
    | with_reducible apply Leaves.ite2 | with_reducible apply Leaves.foldl | with_reducible apply Leaves.foldl_fst
    | with_reducible apply Leaves.foldl_snd | simp only [Leaves.upd] | (show configReg _ = false; simp) | intro _ _ _ | intro _ _ | intro _ | dsimp only
    | split | rfl

theorem Leaves.enterDraining (h : Leaves B o d) (p : Page) : Leaves B o (Dev.enterDraining d p) := by
  unfold Dev.enterDraining
  try dsimp only
  repeat' first
    | with_reducible assumption | with_reducible exact h | with_reducible apply Leaves.stopStream
    | with_reducible apply Leaves.ite | with_reducible apply Leaves.ite1 | with_reducible apply Leaves.ite2
    | with_reducible apply Leaves.foldl | with_reducible apply Leaves.foldl_fst | with_reducible apply Leaves.foldl_snd
    | simp only [Leaves.upd] | (show configReg _ = false; simp) | intro _ _ _ | intro _ _ | intro _ | dsimp only | split | rfl

theorem Leaves.enterActive (h : Leaves B o d) (p : Page) : Leaves B o (Dev.enterActive d p) := by
  unfold Dev.enterActive
  try dsimp only
  repeat' first
    | with_reducible assumption | with_reducible exact h | with_reducible apply Leaves.ite
    | with_reducible apply Leaves.ite1 | with_reducible apply Leaves.ite2 | with_reducible apply Leaves.foldl
    | with_reducible apply Leaves.foldl_fst | with_reducible apply Leaves.foldl_snd | simp only [Leaves.upd] | (show configReg _ = false; simp)
    | intro _ _ _ | intro _ _ | intro _ | dsimp only | split | rfl

theorem Leaves.leaveDraining (h : Leaves noBytes o d) (p : Page) : Leaves noBytes o (Dev.leaveDraining d p) := by
  unfold Dev.leaveDraining
  try dsimp only
  repeat' first
    | with_reducible assumption | with_reducible exact h | with_reducible apply Leaves.enterReady
    | with_reducible apply Leaves.accept | with_reducible apply Leaves.ite | with_reducible apply Leaves.ite1
    | with_reducible apply Leaves.ite2 | with_reducible apply Leaves.foldl | with_reducible apply Leaves.foldl_fst
    | with_reducible apply Leaves.foldl_snd | simp only [Leaves.upd] | (show configReg _ = false; simp) | intro _ _ _ | intro _ _ | intro _ | dsimp only
    | split | rfl

theorem Leaves.transition (h : Leaves noBytes o d) (p : Page) (c : Nat) : Leaves noBytes o (Dev.transition d p c) := by
  unfold Dev.transition
  try dsimp only
  repeat' first
    | with_reducible assumption | with_reducible exact h | with_reducible apply Leaves.enterActive
    | with_reducible apply Leaves.accept | with_reducible apply Leaves.reqResult
    | with_reducible apply Leaves.enterDraining | with_reducible apply Leaves.leaveDraining
    | with_reducible apply Leaves.setFld | with_reducible apply Leaves.enterReady | with_reducible apply Leaves.hubLeft
    | with_reducible apply Leaves.ite | with_reducible apply Leaves.ite1 | with_reducible apply Leaves.ite2
    | with_reducible apply Leaves.foldl | with_reducible apply Leaves.foldl_fst | with_reducible apply Leaves.foldl_snd
    | simp only [Leaves.upd] | (show configReg _ = false; simp) | intro _ _ _ | intro _ _ | intro _ | dsimp only | split | rfl

theorem Leaves.stateRequest (h : Leaves noBytes o d) (p : Page) (c : Nat) (gen : Nat) : Leaves noBytes o (Dev.stateRequest d p c gen) := by
  unfold Dev.stateRequest
  try dsimp only
  repeat' first
    | with_reducible assumption | with_reducible exact h | with_reducible apply Leaves.reqResult
    | with_reducible apply Leaves.transition | with_reducible apply Leaves.ite | with_reducible apply Leaves.ite1
    | with_reducible apply Leaves.ite2 | with_reducible apply Leaves.foldl | with_reducible apply Leaves.foldl_fst
    | with_reducible apply Leaves.foldl_snd | simp only [Leaves.upd] | (show configReg _ = false; simp) | intro _ _ _ | intro _ _ | intro _ | dsimp only
    | split | rfl

theorem Leaves.completeDrain (h : Leaves noBytes o d) (p : Page) : Leaves noBytes o (Dev.completeDrain d p) := by
  unfold Dev.completeDrain
  try dsimp only
  repeat' first
    | with_reducible assumption | with_reducible exact h | with_reducible apply Leaves.drainEffect
    | with_reducible apply Leaves.startFlush | with_reducible apply Leaves.leaveDraining
    | with_reducible apply Leaves.ite | with_reducible apply Leaves.ite1 | with_reducible apply Leaves.ite2
    | with_reducible apply Leaves.foldl | with_reducible apply Leaves.foldl_fst | with_reducible apply Leaves.foldl_snd
    | simp only [Leaves.upd] | (show configReg _ = false; simp) | intro _ _ _ | intro _ _ | intro _ | dsimp only | split | rfl

end Sys2Proof.Machine
end

