-- ==== Sys2Proof/Laws/LeaveCopying.lean ====
section
/-! SUPPORT. What the operations of Machine/Copying.lean leave alone (`Leaves`). -/
set_option Elab.async false
set_option linter.unusedTactic false
set_option linter.unreachableTactic false
set_option linter.unusedSimpArgs false

namespace Sys2Proof.Machine

variable {B : Nat → Bool} {o d : Dev}

theorem Leaves.copyEffect (h : Leaves noBytes o d) (o1 : Origin) (mode : ConvMode) (c : CopyCmd) (src : ByteSource) : Leaves noBytes o (Dev.copyEffect d o1 mode c src) := by
  unfold Dev.copyEffect
  try dsimp only
  repeat' first
    | with_reducible assumption | with_reducible exact h | with_reducible apply Leaves.write
    | with_reducible apply Leaves.nonfinite | with_reducible apply Leaves.addOutput | with_reducible apply Leaves.output
    | with_reducible apply Leaves.ite | with_reducible apply Leaves.ite1 | with_reducible apply Leaves.ite2
    | with_reducible apply Leaves.foldl | with_reducible apply Leaves.foldl_fst | with_reducible apply Leaves.foldl_snd
    | simp only [Leaves.upd] | (show configReg _ = false; simp) | intro _ _ _ | intro _ _ | intro _ | dsimp only | split | rfl

end Sys2Proof.Machine
end

