-- ==== Sys2Proof/Laws/LeaveManagers.lean ====
section
/-! SUPPORT. What the operations of Machine/Managers.lean leave alone (`Leaves`). -/
set_option Elab.async false
set_option linter.unusedTactic false
set_option linter.unreachableTactic false
set_option linter.unusedSimpArgs false

namespace Sys2Proof.Machine

variable {B : Nat → Bool} {o d : Dev}

theorem Leaves.powerPeriod (h : Leaves B o d) (f : Fuse) (watts : Nat) (peak : Nat) : Leaves B o (Dev.powerPeriod d f watts peak) := by
  unfold Dev.powerPeriod
  try dsimp only
  repeat' first
    | with_reducible assumption | with_reducible exact h | with_reducible apply Leaves.setFld
    | with_reducible apply Leaves.showPinned | with_reducible apply Leaves.ite | with_reducible apply Leaves.ite1
    | with_reducible apply Leaves.ite2 | with_reducible apply Leaves.foldl | with_reducible apply Leaves.foldl_fst
    | with_reducible apply Leaves.foldl_snd | simp only [Leaves.upd] | (show configReg _ = false; simp) | intro _ _ _ | intro _ _ | intro _ | dsimp only
    | split | rfl

theorem Leaves.thermalDie (h : Leaves B o d) (x : Nat) (was : Int) (sensors : List Int) : Leaves B o (Dev.thermalDie d x was sensors) := by
  unfold Dev.thermalDie
  try dsimp only
  repeat' first
    | with_reducible assumption | with_reducible exact h | with_reducible apply Leaves.setFlag
    | with_reducible apply Leaves.setFld | with_reducible apply Leaves.raise | with_reducible apply Leaves.ite
    | with_reducible apply Leaves.ite1 | with_reducible apply Leaves.ite2 | with_reducible apply Leaves.foldl
    | with_reducible apply Leaves.foldl_fst | with_reducible apply Leaves.foldl_snd | simp only [Leaves.upd] | (show configReg _ = false; simp)
    | intro _ _ _ | intro _ _ | intro _ | dsimp only | split | rfl

theorem Leaves.thermalPeriod (h : Leaves B o d) (ds : List DieSensors) (inlet : Int) (outlet : Int) : Leaves B o (Dev.thermalPeriod d ds inlet outlet) := by
  unfold Dev.thermalPeriod
  try dsimp only
  repeat' first
    | with_reducible assumption | with_reducible exact h | with_reducible apply Leaves.thermalDie
    | with_reducible apply Leaves.setReg | with_reducible apply Leaves.raise | with_reducible apply Leaves.ite
    | with_reducible apply Leaves.ite1 | with_reducible apply Leaves.ite2 | with_reducible apply Leaves.foldl
    | with_reducible apply Leaves.foldl_fst | with_reducible apply Leaves.foldl_snd | simp only [Leaves.upd] | (show configReg _ = false; simp)
    | intro _ _ _ | intro _ _ | intro _ | dsimp only | split | rfl

end Sys2Proof.Machine
end

