-- ==== Sys2Proof/Laws/LeaveReads.lean ====
section
/-! SUPPORT. Reads and their checks: a read without error passes; the checks of a command's reads change no byte but those
of the blocks and lines that they lose. -/
set_option Elab.async false
namespace Sys2Proof.Machine

variable {B : Nat → Bool} {o d : Dev}

/-! Reads without error. -/

theorem flipBits_nil (bs : List Byte) : flipBits bs [] = bs := by
  simp [flipBits]

theorem readBytes_length (src : ByteSource) (a n : Nat) : (readBytes src a n).length = n := by
  simp [readBytes]

/-- A read of the block itself with no bit flipped passes its check (R116). -/
theorem readPasses_clean {r : BlockRead} {a : Nat} (h : readClean r a = true) (m : Mem) : readPasses r m a = true := by
  simp only [readClean, Bool.and_eq_true, List.isEmpty_iff, beq_iff_eq] at h
  have ha : a - a % 256 = r.source - r.source % 256 := by omega
  have hl := readBytes_length m.byte (r.source - r.source % 256) 256
  simp only [readPasses, h.1, flipBits_nil, ha, List.take_left' hl, List.drop_left' hl, leNat_natBytes, beq_iff_eq]
  exact (Nat.mod_eq_of_lt (BitVec.isLt _)).symm

/-- A block with a read or a re-read without error is not lost (R117). -/
theorem blockVerdict_kept {f : BlockFinding} (h : mayLose f = false) (m : Mem) : blockVerdict f m ≠ .lasting := by
  unfold blockVerdict
  split
  · simp
  · split
    · simp
    · rename_i h1
      simp only [mayLose, Bool.and_eq_false_iff, Bool.not_eq_false'] at h
      rcases h with h | h
      · exact absurd (readPasses_clean h m) h1
      · rw [if_pos (readPasses_clean h m)]
        simp

/-- A read without error finds nothing (R116). -/
theorem Dev.blockFinding_clean {f : BlockFinding} (h : readClean f.first f.addr = true) (d : Dev) (met : Met) :
    d.blockFinding met f = d := by
  unfold Dev.blockFinding
  have hv : blockVerdict f d.mem = .clean := by
    unfold blockVerdict
    rw [if_pos (readPasses_clean h d.mem)]
    split <;> rfl
  rw [hv]

/-- Reads without error find nothing. -/
theorem Dev.found_clean {fs : List BlockFinding} (h : ∀ f ∈ fs, readClean f.first f.addr = true) (d : Dev)
    (written : List (Nat × Nat)) : d.found written fs = d := by
  unfold Dev.found
  induction fs generalizing d with
  | nil => rfl
  | cons f fs ih =>
    rw [List.foldl_cons, Dev.blockFinding_clean (h f List.mem_cons_self)]
    exact ih (fun x hx => h x (List.mem_cons_of_mem _ hx)) d

@[simp] theorem Dev.found_nil (d : Dev) (written : List (Nat × Nat)) : d.found written [] = d := rfl

/-! Bytes that the checks leave alone. -/

/-- No byte of a run is one of `B`. -/
def Avoids (B : Nat → Bool) (a n : Nat) : Prop := ∀ x, B x = true → x < a ∨ a + n ≤ x

theorem Leaves.writesAt (h : Leaves B o d) {a : Nat} {bs : List Byte} (hc : Avoids B a bs.length) :
    Leaves B o (d.writeAt a bs) :=
  h.memory (fun x => Mem.wf_setBytes x a bs) fun hm x hx _ => Mem.byte_setBytes_outside hm (hc x hx)

theorem Leaves.foldlMem {α : Type} {f : Dev → α → Dev} {l : List α} (h : Leaves B o d)
    (hf : ∀ x, ∀ a ∈ l, Leaves B o x → Leaves B o (f x a)) : Leaves B o (l.foldl f d) := by
  induction l generalizing d with
  | nil => exact h
  | cons a l ih => exact ih (hf d a List.mem_cons_self h) fun x b hb => hf x b (List.mem_cons_of_mem _ hb)

theorem Leaves.lostBlock (h : Leaves B o d) {addr : Nat} (met : Met) (hb : Avoids B (addr - addr % 256) 256) :
    Leaves B o (d.loseBlock addr met) := by
  unfold Dev.loseBlock
  refine Leaves.hingeLoss (Leaves.lossEffect (Leaves.spareRow (Leaves.noteLoss (h.writesAt ?_) _ _ _) _ _) _) _
  rw [List.length_replicate]
  exact hb

theorem Leaves.foundBlock (h : Leaves B o d) (met : Met) (f : BlockFinding)
    (hb : mayLose f = true → Avoids B (f.addr - f.addr % 256) 256) : Leaves B o (d.blockFinding met f) := by
  unfold Dev.blockFinding
  split
  · exact h
  · exact h.transientBlock _
  · rename_i hv
    refine h.lostBlock met (hb ?_)
    cases hm : mayLose f with
    | true => rfl
    | false => exact absurd hv (blockVerdict_kept hm d.mem)

/-- The reads of a command leave every byte alone but those of the blocks they may lose. -/
theorem Leaves.foundBut (h : Leaves B o d) (written : List (Nat × Nat)) {fs : List BlockFinding}
    (hb : ∀ a, B a = true → lostBy fs a = false) : Leaves B o (d.found written fs) := by
  unfold Dev.found
  refine h.foldlMem fun x f hm hx => hx.foundBlock _ _ fun hl a ha => ?_
  have h1 := hb a ha
  simp only [lostBy, List.any_eq_false] at h1
  have h2 := h1 f hm
  rw [hl] at h2
  simp only [Bool.true_and, decide_eq_true_eq] at h2
  omega

theorem drawBytes_length (d : Dev) (n : Nat) : (d.drawBytes n).1.length = n := by
  unfold Dev.drawBytes
  rw [List.length_map, List.length_range]

theorem lineFails_clean (d : Dev) (x line : Nat) : d.lineFails x line [] = false := by
  have hl := readBytes_length d.src (storeBase + storeSpan * x + line % 0x10000 * 64) 64
  simp only [Dev.lineFails, flipBits_nil, List.take_left' hl, List.drop_left' hl, leNat_natBytes, bne_eq_false_iff_eq]
  exact (Nat.mod_eq_of_lt (BitVec.isLt _)).symm

theorem Leaves.foundLine (h : Leaves B o d) (x line : Nat) (lasting : Bool)
    (hb : lasting = true → Avoids B (storeBase + storeSpan * x + line % 0x10000 * 64) 64) :
    Leaves B o (d.lineFinding x line lasting) := by
  have h1 := (h.addSat Reg.chkStoreEvents 1).classify (128 * x) 5 lasting
  have h2 : lasting = true → Leaves B o ((((d.addSat Reg.chkStoreEvents 1).classify (128 * x) 5 lasting).drawBytes 64).2.writeAt
      (storeBase + storeSpan * x + line % 0x10000 * 64)
      (((d.addSat Reg.chkStoreEvents 1).classify (128 * x) 5 lasting).drawBytes 64).1) := fun hl =>
    (h1.drawBytes 64).writesAt (by rw [drawBytes_length]; exact hb hl)
  unfold Dev.lineFinding
  dsimp only at h2 ⊢
  split
  · exact h1
  · rename_i hl
    have h3 := (h2 (by simpa using hl)).badUnfixed
    split
    · exact Leaves.upd.mpr h3
    · exact h3.cluTo _ _

theorem Leaves.lineReadBut (h : Leaves B o d) (s : StoreFinding) (hb : ∀ a, B a = true → lineLost s a = false) :
    Leaves B o (d.lineRead s) := by
  unfold Dev.lineRead
  cases hs : s.site with
  | core _ => exact h
  | line n =>
    dsimp only
    split
    · exact h
    · rename_i hc
      refine h.foundLine _ _ _ fun hl a ha => ?_
      have h1 := hb a ha
      have hf : s.first ≠ [] := fun e => hc (Or.inr (by rw [e, lineFails_clean]; rfl))
      have hg : s.second ≠ [] := fun e => by rw [e, lineFails_clean] at hl; cases hl
      simp only [lineLost, hs, Bool.and_eq_false_iff, Bool.not_eq_false', List.isEmpty_iff, hf, hg, false_or,
        decide_eq_false_iff_not] at h1
      omega

/-- The checks of an operation's reads leave every byte alone but those they replace. -/
theorem Leaves.findingsBut (h : Leaves B o d) (written : List (Nat × Nat)) {ev : OpEvents}
    (hb : ∀ a, B a = true → replacedBy ev a = false) : Leaves B o (d.findings written ev) := by
  unfold Dev.findings
  refine Leaves.foldlMem (h.foundBut written fun a ha => ?_) fun x s hm hx => hx.lineReadBut s fun a ha => ?_
  · have h1 := hb a ha
    simp only [replacedBy, Bool.or_eq_false_iff] at h1
    exact h1.1
  · have h1 := hb a ha
    simp only [replacedBy, Bool.or_eq_false_iff, List.any_eq_false] at h1
    simpa using h1.2 s hm

end Sys2Proof.Machine
end

