-- ==== Sys2Proof/Laws/LeaveState.lean ====
section
/-! SUPPORT. What one command leaves alone: lemmas for the shapes of row (`act`, `byHart` and their like). -/
set_option Elab.async false
namespace Sys2Proof.Machine

/-- Whatever next state the outcome holds has the configuration registers and the bytes of `B` as `s` has them. -/
def Leaving (B : Nat → Bool) (s : State) (x : Host.Outcome State Fault Refusal) : Prop :=
  ∀ t, x = .next t → Leaves B s.dev t.dev

variable {B : Nat → Bool} {s t : State}

theorem Leaving.next (h : Leaves B s.dev t.dev) : Leaving B s (.next t) := fun x hx => by
  cases hx
  exact h

theorem Leaving.ite {c : Prop} [Decidable c] {t u : State} (ht : Leaving B s (.next t)) (hu : Leaving B s (.next u)) :
    Leaving B s (.next (if c then t else u)) := by
  split
  · exact ht
  · exact hu

theorem Leaving.same (h : t.dev = s.dev := by rfl) : Leaving B s (.next t) := Leaving.next (by
  rw [h]
  exact Leaves.refl)

/-- What is left alone from a state with the same device is left alone from `s`. -/
theorem Leaving.after {x : Host.Outcome State Fault Refusal} (h : t.dev = s.dev) (hx : Leaving B t x) : Leaving B s x := by
  intro u hu
  rw [← h]
  exact hx u hu

theorem Leaving.act {f : Dev → Dev} (hf : ∀ d, Leaves B s.dev d → Leaves B s.dev (f d)) : Leaving B s (s.act f) := by
  unfold State.act
  exact Leaving.ite (Leaving.next (hf _ Leaves.refl)) Leaving.same

theorem Leaving.byHart {f : Dev → Dev} {hart : Nat} (hf : ∀ d, Leaves B s.dev d → Leaves B s.dev (f d)) :
    Leaving B s (.next (s.byHart hart f)) := by
  unfold State.byHart
  split
  · exact Leaving.next (hf _ Leaves.refl)
  · exact Leaving.same

theorem Leaving.access {f : Dev → Dev} {hart : Nat} {p : Page} {w : Bool}
    (hf : ∀ d, Leaves B s.dev d → Leaves B s.dev (f d)) : Leaving B s (s.access hart p w f) := by
  unfold State.access
  exact Leaving.byHart fun d h => Leaves.ite (hf d h) h

theorem Leaving.hartReads {f : Dev → Word × Dev} {hart : Nat} (hf : ∀ d, Leaves B s.dev d → Leaves B s.dev (f d).2) :
    Leaving B s (.next (s.hartReads hart f)) := by
  unfold State.hartReads
  split
  · exact Leaving.next (hf _ Leaves.refl)
  · exact Leaving.same

theorem Leaving.atMailbox {f : Hart → State} {hart : Nat} (hf : ∀ h, Leaving B s (.next (f h))) :
    Leaving B s (.next (s.atMailbox hart f)) := by
  unfold State.atMailbox
  split
  · exact hf _
  · exact Leaving.same

theorem Leaving.readMailbox {hart mailbox : Nat} {f : Mailbox → Word × Mailbox} :
    Leaving B s (.next (s.readMailbox hart mailbox f)) := by
  unfold State.readMailbox
  refine Leaving.atMailbox fun h => Leaving.ite (Leaving.next ?_) Leaving.same
  exact Leaves.ite (Leaves.refl.raise _ _) Leaves.refl

theorem Leaving.request {hart : Nat} {p : Page} {c : Nat} {gen : BitVec 8} :
    Leaving noBytes s (s.request hart p c gen) := by
  unfold State.request
  exact Leaving.byHart fun d h => Leaves.ite (h.stateRequest p c gen.toNat) h

theorem Leaving.cmpMessage {pk : Packet} {fs : List BlockFinding} {ok : Nat → Bool} : Leaving noBytes s (s.cmpMessage pk fs ok) := by
  unfold State.cmpMessage
  exact Leaving.act fun d h => Leaves.ite ((h.found [] fs).receiveCmp pk) h

theorem Leaving.redMessage {m : Packet} {fs : List BlockFinding} {cls : Nat} {ok : Nat → Bool} :
    Leaving noBytes s (s.redMessage m fs cls ok) := by
  unfold State.redMessage
  refine Leaving.act fun d h => Leaves.ite ?_ h
  dsimp only
  split
  · exact ((h.found _ fs).receiveRed m).loseRed _ _
  · exact h.receiveRed m

theorem Leaving.skMessage {m : Packet} {type : Nat} {f : SkMsg → Dev → Dev}
    (hf : ∀ x d, Leaves B s.dev d → Leaves B s.dev (f x d)) : Leaving B s (s.skMessage m type f) := by
  unfold State.skMessage
  exact Leaving.act fun d h => Leaves.ite (Leaves.ite (hf _ _ (h.takePacket m)) ((h.takePacket m).pageFault _)) h

theorem Leaving.pause {m : Packet} {type : Nat} : Leaving B s (s.pause m type) := by
  unfold State.pause
  exact Leaving.act fun d h =>
    Leaves.ite (Leaves.ite ((h.takePacket m).hngStaleOne _) ((h.takePacket m).pauseStream _ _ _ _)) h

theorem Leaving.kernel {st : Stream} {ev : OpEvents} {kind : Nat} {effect : Decoded → KernelCmd → Option Kept → ByteSource → Dev → Dev}
    (hf : ∀ c k q y d, Leaves noBytes s.dev d → Leaves noBytes s.dev (effect c k q y d)) :
    Leaving noBytes s (s.kernel st ev kind effect) := by
  unfold State.kernel
  refine Leaving.act fun d h => h.issueIf st _ fun c => ?_
  split
  · exact LeavesOpt.ite (LeavesOpt.some (h.operate _ _ _ _ _ _ fun y x hx => (hf _ _ _ _ _ (hx.dupVector st)).dupRows _ _ _ _ _ _)) LeavesOpt.none
  · exact LeavesOpt.none

theorem Leaving.copy {st : Stream} {ev : OpEvents} {tr : Bool} : Leaving noBytes s (s.copy st ev tr) := by
  unfold State.copy
  refine Leaving.act fun d h => h.issueIf st _ fun c => ?_
  split
  · exact LeavesOpt.ite (LeavesOpt.some (h.operate _ _ _ _ _ _ fun y x hx => hx.copyEffect _ _ _ _)) LeavesOpt.none
  · exact LeavesOpt.none

theorem Leaving.xchg {ev : OpEvents} {kind : Nat} {effect : Decoded → XchgCmd → Bool → ByteSource → Dev → Dev}
    (hf : ∀ c k b y d, Leaves noBytes s.dev d → Leaves noBytes s.dev (effect c k b y d)) :
    Leaving noBytes s (s.xchg ev kind effect) := by
  unfold State.xchg
  refine Leaving.act fun d h => h.issueIf .main _ fun c => ?_
  split
  · exact LeavesOpt.ite (LeavesOpt.some (h.operate _ _ _ _ _ _ fun y x hx => hf _ _ _ _ _ hx)) LeavesOpt.none
  · exact LeavesOpt.none

theorem Leaving.reduce {ev : OpEvents} {kind : Nat} : Leaving noBytes s (s.reduce ev kind) := by
  unfold State.reduce
  refine Leaving.act fun d h => h.issueIf .main _ fun c => ?_
  split
  · exact LeavesOpt.ite LeavesOpt.none (LeavesOpt.ite (LeavesOpt.some ((h.issue _ _ _ _).rejectRun _ _ _))
      (LeavesOpt.ite LeavesOpt.none (LeavesOpt.some (h.operate _ _ _ _ _ _ fun y x hx => hx.reduceEffect _ _ _ _))))
  · exact LeavesOpt.none

theorem Leaving.helmSet {ev : OpEvents} {kind : Nat} : Leaving noBytes s (s.helmSet ev kind) := by
  unfold State.helmSet
  refine Leaving.act fun d h => h.issueIf .main _ fun c => ?_
  split
  · exact LeavesOpt.ite (LeavesOpt.some (h.operate _ _ _ _ _ _ fun y x hx => hx.helmSetEffect _ _ _ _)) LeavesOpt.none
  · exact LeavesOpt.none

theorem Leaving.logmark {ev : OpEvents} {kind : Nat} : Leaving noBytes s (s.logmark ev kind) := by
  unfold State.logmark
  refine Leaving.act fun d h => h.issueIf .main _ fun c => ?_
  split
  · exact LeavesOpt.ite LeavesOpt.none (LeavesOpt.some (h.operate _ _ _ _ _ _ fun y x hx => hx.record _))
  · exact LeavesOpt.none

end Sys2Proof.Machine
end

