-- ==== Sys2Proof/Laws/LeaveRows.lean ====
section
/-! SUPPORT. What each command leaves alone: one lemma for each row of the table that writes no configuration register and
resets nothing. -/
set_option linter.unusedTactic false
set_option linter.unreachableTactic false
set_option Elab.async false
set_option linter.unusedSimpArgs false

namespace Sys2Proof.Machine

variable {B : Nat → Bool} {s : State}

theorem leaving_execNop (st : Stream) : Leaving B s (execNop st s) := by
  unfold execNop
  refine Leaving.act fun d h => ?_
  try dsimp only
  repeat' first
    | with_reducible assumption | with_reducible exact h | with_reducible exact LeavesOpt.none
    | with_reducible apply Leaves.issueIf | with_reducible apply Leaves.instant | with_reducible apply LeavesOpt.some
    | with_reducible apply LeavesOpt.ite | with_reducible apply Leaves.ite | with_reducible apply Leaves.ite1
    | with_reducible apply Leaves.ite2 | with_reducible apply Leaves.foldl | with_reducible apply Leaves.foldl_fst
    | with_reducible apply Leaves.foldl_snd | simp only [Leaves.upd] | (show configReg _ = false; simp) | intro _ _ _
    | intro _ _ | intro _ | dsimp only | split | rfl | assumption

theorem leaving_execFence (st : Stream) : Leaving B s (execFence st s) := by
  unfold execFence
  refine Leaving.act fun d h => ?_
  try dsimp only
  repeat' first
    | with_reducible assumption | with_reducible exact h | with_reducible exact LeavesOpt.none
    | with_reducible apply Leaves.issueIf | with_reducible apply Leaves.issue | with_reducible apply LeavesOpt.some
    | with_reducible apply LeavesOpt.ite | with_reducible apply Leaves.ite | with_reducible apply Leaves.ite1
    | with_reducible apply Leaves.ite2 | with_reducible apply Leaves.foldl | with_reducible apply Leaves.foldl_fst
    | with_reducible apply Leaves.foldl_snd | simp only [Leaves.upd] | (show configReg _ = false; simp) | intro _ _ _
    | intro _ _ | intro _ | dsimp only | split | rfl | assumption

theorem leaving_execFenceComplete (st : Stream) : Leaving B s (execFenceComplete st s) := by
  unfold execFenceComplete
  refine Leaving.act fun d h => ?_
  try dsimp only
  repeat' first
    | with_reducible assumption | with_reducible exact h | with_reducible exact LeavesOpt.none
    | with_reducible apply Leaves.settle | with_reducible apply Leaves.complete | with_reducible apply Leaves.raise
    | with_reducible apply Leaves.setReg | with_reducible apply LeavesOpt.some | with_reducible apply LeavesOpt.ite
    | with_reducible apply Leaves.ite | with_reducible apply Leaves.ite1 | with_reducible apply Leaves.ite2
    | with_reducible apply Leaves.foldl | with_reducible apply Leaves.foldl_fst
    | with_reducible apply Leaves.foldl_snd | simp only [Leaves.upd] | (show configReg _ = false; simp) | intro _ _ _
    | intro _ _ | intro _ | dsimp only | split | rfl | assumption

theorem leaving_execFlush (st : Stream) : Leaving B s (execFlush st s) := by
  unfold execFlush
  refine Leaving.act fun d h => ?_
  try dsimp only
  repeat' first
    | with_reducible assumption | with_reducible exact h | with_reducible exact LeavesOpt.none
    | with_reducible apply Leaves.issueIf | with_reducible apply Leaves.issue | with_reducible apply LeavesOpt.some
    | with_reducible apply LeavesOpt.ite | with_reducible apply Leaves.ite | with_reducible apply Leaves.ite1
    | with_reducible apply Leaves.ite2 | with_reducible apply Leaves.foldl | with_reducible apply Leaves.foldl_fst
    | with_reducible apply Leaves.foldl_snd | simp only [Leaves.upd] | (show configReg _ = false; simp) | intro _ _ _
    | intro _ _ | intro _ | dsimp only | split | rfl | assumption

theorem leaving_execFlushComplete (st : Stream) : Leaving B s (execFlushComplete st s) := by
  unfold execFlushComplete
  refine Leaving.act fun d h => ?_
  try dsimp only
  repeat' first
    | with_reducible assumption | with_reducible exact h | with_reducible exact LeavesOpt.none
    | with_reducible apply Leaves.setStream | with_reducible apply Leaves.complete
    | with_reducible apply LeavesOpt.some | with_reducible apply LeavesOpt.ite | with_reducible apply Leaves.ite
    | with_reducible apply Leaves.ite1 | with_reducible apply Leaves.ite2 | with_reducible apply Leaves.foldl
    | with_reducible apply Leaves.foldl_fst | with_reducible apply Leaves.foldl_snd | simp only [Leaves.upd]
    | (show configReg _ = false; simp) | intro _ _ _ | intro _ _ | intro _ | dsimp only | split | rfl | assumption

theorem leaving_execWait (st : Stream) : Leaving B s (execWait st s) := by
  unfold execWait
  refine Leaving.act fun d h => ?_
  try dsimp only
  repeat' first
    | with_reducible assumption | with_reducible exact h | with_reducible exact LeavesOpt.none
    | with_reducible apply Leaves.issueIf | with_reducible apply Leaves.issue | with_reducible apply Leaves.endWait
    | with_reducible apply LeavesOpt.some | with_reducible apply LeavesOpt.ite | with_reducible apply Leaves.ite
    | with_reducible apply Leaves.ite1 | with_reducible apply Leaves.ite2 | with_reducible apply Leaves.foldl
    | with_reducible apply Leaves.foldl_fst | with_reducible apply Leaves.foldl_snd | simp only [Leaves.upd]
    | (show configReg _ = false; simp) | intro _ _ _ | intro _ _ | intro _ | dsimp only | split | rfl | assumption

theorem leaving_execWaitComplete (st : Stream) : Leaving B s (execWaitComplete st s) := by
  unfold execWaitComplete
  refine Leaving.act fun d h => ?_
  try dsimp only
  repeat' first
    | with_reducible assumption | with_reducible exact h | with_reducible exact LeavesOpt.none
    | with_reducible apply Leaves.endWait | with_reducible apply LeavesOpt.some | with_reducible apply LeavesOpt.ite
    | with_reducible apply Leaves.ite | with_reducible apply Leaves.ite1 | with_reducible apply Leaves.ite2
    | with_reducible apply Leaves.foldl | with_reducible apply Leaves.foldl_fst
    | with_reducible apply Leaves.foldl_snd | simp only [Leaves.upd] | (show configReg _ = false; simp) | intro _ _ _
    | intro _ _ | intro _ | dsimp only | split | rfl | assumption

theorem leaving_execWaitTimeout (st : Stream) : Leaving B s (execWaitTimeout st s) := by
  unfold execWaitTimeout
  refine Leaving.act fun d h => ?_
  try dsimp only
  repeat' first
    | with_reducible assumption | with_reducible exact h | with_reducible exact LeavesOpt.none
    | with_reducible apply Leaves.rejectRun | with_reducible apply LeavesOpt.some | with_reducible apply LeavesOpt.ite
    | with_reducible apply Leaves.ite | with_reducible apply Leaves.ite1 | with_reducible apply Leaves.ite2
    | with_reducible apply Leaves.foldl | with_reducible apply Leaves.foldl_fst
    | with_reducible apply Leaves.foldl_snd | simp only [Leaves.upd] | (show configReg _ = false; simp) | intro _ _ _
    | intro _ _ | intro _ | dsimp only | split | rfl | assumption

theorem leaving_execSetpred (st : Stream) (blocks : List BlockFinding) (hb : ∀ a, B a = true → lostBy blocks a = false) : Leaving B s (execSetpred st s blocks) := by
  unfold execSetpred
  refine Leaving.act fun d h => ?_
  try dsimp only
  repeat' first
    | with_reducible assumption | with_reducible exact h | with_reducible exact LeavesOpt.none
    | (with_reducible refine Leaves.foundBut ?_ _ hb) | with_reducible apply Leaves.runSetpred
    | with_reducible apply LeavesOpt.some | with_reducible apply LeavesOpt.ite | with_reducible apply Leaves.ite
    | with_reducible apply Leaves.ite1 | with_reducible apply Leaves.ite2 | with_reducible apply Leaves.foldl
    | with_reducible apply Leaves.foldl_fst | with_reducible apply Leaves.foldl_snd | simp only [Leaves.upd]
    | (show configReg _ = false; simp) | intro _ _ _ | intro _ _ | intro _ | dsimp only | split | rfl | assumption

theorem leaving_execStamp (st : Stream) (blocks : List BlockFinding) : Leaving noBytes s (execStamp st s blocks) := by
  unfold execStamp
  refine Leaving.act fun d h => ?_
  try dsimp only
  repeat' first
    | with_reducible assumption | with_reducible exact h | with_reducible exact LeavesOpt.none
    | with_reducible apply Leaves.runStamp | with_reducible apply Leaves.found | with_reducible apply LeavesOpt.some
    | with_reducible apply LeavesOpt.ite | with_reducible apply Leaves.ite | with_reducible apply Leaves.ite1
    | with_reducible apply Leaves.ite2 | with_reducible apply Leaves.foldl | with_reducible apply Leaves.foldl_fst
    | with_reducible apply Leaves.foldl_snd | simp only [Leaves.upd] | (show configReg _ = false; simp) | intro _ _ _
    | intro _ _ | intro _ | dsimp only | split | rfl | assumption

theorem leaving_execCall (st : Stream) : Leaving B s (execCall st s) := by
  unfold execCall
  refine Leaving.act fun d h => ?_
  try dsimp only
  repeat' first
    | with_reducible assumption | with_reducible exact h | with_reducible exact LeavesOpt.none
    | with_reducible apply Leaves.issueIf | with_reducible apply Leaves.issue | with_reducible apply Leaves.completeAt
    | with_reducible apply LeavesOpt.some | with_reducible apply LeavesOpt.ite | with_reducible apply Leaves.ite
    | with_reducible apply Leaves.ite1 | with_reducible apply Leaves.ite2 | with_reducible apply Leaves.foldl
    | with_reducible apply Leaves.foldl_fst | with_reducible apply Leaves.foldl_snd | simp only [Leaves.upd]
    | (show configReg _ = false; simp) | intro _ _ _ | intro _ _ | intro _ | dsimp only | split | rfl | assumption

theorem leaving_execRet (st : Stream) : Leaving B s (execRet st s) := by
  unfold execRet
  refine Leaving.act fun d h => ?_
  try dsimp only
  repeat' first
    | with_reducible assumption | with_reducible exact h | with_reducible exact LeavesOpt.none
    | with_reducible apply Leaves.issueIf | with_reducible apply Leaves.issue | with_reducible apply Leaves.completeAt
    | with_reducible apply LeavesOpt.some | with_reducible apply LeavesOpt.ite | with_reducible apply Leaves.ite
    | with_reducible apply Leaves.ite1 | with_reducible apply Leaves.ite2 | with_reducible apply Leaves.foldl
    | with_reducible apply Leaves.foldl_fst | with_reducible apply Leaves.foldl_snd | simp only [Leaves.upd]
    | (show configReg _ = false; simp) | intro _ _ _ | intro _ _ | intro _ | dsimp only | split | rfl | assumption

theorem leaving_execCommandDecode (st : Stream) (blocks : List BlockFinding) (hb : ∀ a, B a = true → lostBy blocks a = false) : Leaving B s (execCommandDecode st s blocks) := by
  unfold execCommandDecode
  refine Leaving.act fun d h => ?_
  try dsimp only
  repeat' first
    | with_reducible assumption | with_reducible exact h | with_reducible exact LeavesOpt.none
    | (with_reducible refine Leaves.foundBut ?_ _ hb) | with_reducible apply Leaves.fetch
    | with_reducible apply LeavesOpt.some | with_reducible apply LeavesOpt.ite | with_reducible apply Leaves.ite
    | with_reducible apply Leaves.ite1 | with_reducible apply Leaves.ite2 | with_reducible apply Leaves.foldl
    | with_reducible apply Leaves.foldl_fst | with_reducible apply Leaves.foldl_snd | simp only [Leaves.upd]
    | (show configReg _ = false; simp) | intro _ _ _ | intro _ _ | intro _ | dsimp only | split | rfl | assumption

theorem leaving_execCommandReject (st : Stream) : Leaving B s (execCommandReject st s) := by
  unfold execCommandReject
  refine Leaving.act fun d h => ?_
  try dsimp only
  repeat' first
    | with_reducible assumption | with_reducible exact h | with_reducible exact LeavesOpt.none
    | with_reducible apply Leaves.reject | with_reducible apply Leaves.vtbReject | with_reducible apply LeavesOpt.some
    | with_reducible apply LeavesOpt.ite | with_reducible apply Leaves.ite | with_reducible apply Leaves.ite1
    | with_reducible apply Leaves.ite2 | with_reducible apply Leaves.foldl | with_reducible apply Leaves.foldl_fst
    | with_reducible apply Leaves.foldl_snd | simp only [Leaves.upd] | (show configReg _ = false; simp) | intro _ _ _
    | intro _ _ | intro _ | dsimp only | split | rfl | assumption

theorem leaving_execBfOverrun  : Leaving B s (execBfOverrun s) := by
  unfold execBfOverrun
  refine Leaving.act fun d h => ?_
  try dsimp only
  repeat' first
    | with_reducible assumption | with_reducible exact h | with_reducible exact LeavesOpt.none
    | with_reducible apply Leaves.countOverrun | with_reducible apply LeavesOpt.some
    | with_reducible apply LeavesOpt.ite | with_reducible apply Leaves.ite | with_reducible apply Leaves.ite1
    | with_reducible apply Leaves.ite2 | with_reducible apply Leaves.foldl | with_reducible apply Leaves.foldl_fst
    | with_reducible apply Leaves.foldl_snd | simp only [Leaves.upd] | (show configReg _ = false; simp) | intro _ _ _
    | intro _ _ | intro _ | dsimp only | split | rfl | assumption

theorem leaving_execBfEnableEffect  : Leaving B s (execBfEnableEffect s) := by
  unfold execBfEnableEffect
  refine Leaving.act fun d h => ?_
  try dsimp only
  repeat' first
    | with_reducible assumption | with_reducible exact h | with_reducible exact LeavesOpt.none
    | with_reducible apply Leaves.setFlag | with_reducible apply LeavesOpt.some | with_reducible apply LeavesOpt.ite
    | with_reducible apply Leaves.ite | with_reducible apply Leaves.ite1 | with_reducible apply Leaves.ite2
    | with_reducible apply Leaves.foldl | with_reducible apply Leaves.foldl_fst
    | with_reducible apply Leaves.foldl_snd | simp only [Leaves.upd] | (show configReg _ = false; simp) | intro _ _ _
    | intro _ _ | intro _ | dsimp only | split | rfl | assumption

theorem leaving_execMatmul (st : Stream) (ev : OpEvents) : Leaving noBytes s (execMatmul st ev s) := by
  unfold execMatmul
  refine Leaving.act fun d h => ?_
  try dsimp only
  repeat' first
    | with_reducible assumption | with_reducible exact h | with_reducible exact LeavesOpt.none
    | with_reducible apply Leaves.issueIf | with_reducible apply Leaves.operate
    | with_reducible apply Leaves.matmulEffect | with_reducible apply LeavesOpt.some
    | with_reducible apply LeavesOpt.ite | with_reducible apply Leaves.ite | with_reducible apply Leaves.ite1
    | with_reducible apply Leaves.ite2 | with_reducible apply Leaves.foldl | with_reducible apply Leaves.foldl_fst
    | with_reducible apply Leaves.foldl_snd | simp only [Leaves.upd] | (show configReg _ = false; simp) | intro _ _ _
    | intro _ _ | intro _ | dsimp only | split | rfl | assumption

theorem leaving_execMatmulH (st : Stream) (ev : OpEvents) : Leaving noBytes s (execMatmulH st ev s) := by
  unfold execMatmulH
  refine Leaving.act fun d h => ?_
  try dsimp only
  repeat' first
    | with_reducible assumption | with_reducible exact h | with_reducible exact LeavesOpt.none
    | with_reducible apply Leaves.issueIf | with_reducible apply Leaves.operate
    | with_reducible apply Leaves.heritageEffect | with_reducible apply LeavesOpt.some
    | with_reducible apply LeavesOpt.ite | with_reducible apply Leaves.ite | with_reducible apply Leaves.ite1
    | with_reducible apply Leaves.ite2 | with_reducible apply Leaves.foldl | with_reducible apply Leaves.foldl_fst
    | with_reducible apply Leaves.foldl_snd | simp only [Leaves.upd] | (show configReg _ = false; simp) | intro _ _ _
    | intro _ _ | intro _ | dsimp only | split | rfl | assumption

theorem leaving_execCount (m : Packet) (blocks : List BlockFinding) : Leaving noBytes s (execCount m s blocks) := by
  unfold execCount
  exact Leaving.cmpMessage

theorem leaving_execGrant (m : Packet) (blocks : List BlockFinding) : Leaving noBytes s (execGrant m s blocks) := by
  unfold execGrant
  exact Leaving.cmpMessage

theorem leaving_execPlace (m : Packet) (blocks : List BlockFinding) : Leaving noBytes s (execPlace m s blocks) := by
  unfold execPlace
  exact Leaving.cmpMessage

theorem leaving_execRoute (ev : OpEvents) : Leaving noBytes s (execRoute ev s) := by
  unfold execRoute
  refine Leaving.act fun d h => ?_
  try dsimp only
  repeat' first
    | with_reducible assumption | with_reducible exact h | with_reducible exact LeavesOpt.none
    | with_reducible apply Leaves.issueIf | with_reducible apply Leaves.rejectRun | with_reducible apply Leaves.issue
    | with_reducible apply Leaves.operate | with_reducible apply Leaves.routeEffect
    | with_reducible apply LeavesOpt.some | with_reducible apply LeavesOpt.ite | with_reducible apply Leaves.ite
    | with_reducible apply Leaves.ite1 | with_reducible apply Leaves.ite2 | with_reducible apply Leaves.foldl
    | with_reducible apply Leaves.foldl_fst | with_reducible apply Leaves.foldl_snd | simp only [Leaves.upd]
    | (show configReg _ = false; simp) | intro _ _ _ | intro _ _ | intro _ | dsimp only | split | rfl | assumption

theorem leaving_execCompassTimeout (layerSlot : Nat) (microbatch : Nat) : Leaving B s (execCompassTimeout layerSlot microbatch s) := by
  unfold execCompassTimeout
  refine Leaving.act fun d h => ?_
  try dsimp only
  repeat' first
    | with_reducible assumption | with_reducible exact h | with_reducible exact LeavesOpt.none
    | with_reducible apply Leaves.abandonRecord | with_reducible apply LeavesOpt.some
    | with_reducible apply LeavesOpt.ite | with_reducible apply Leaves.ite | with_reducible apply Leaves.ite1
    | with_reducible apply Leaves.ite2 | with_reducible apply Leaves.foldl | with_reducible apply Leaves.foldl_fst
    | with_reducible apply Leaves.foldl_snd | simp only [Leaves.upd] | (show configReg _ = false; simp) | intro _ _ _
    | intro _ _ | intro _ | dsimp only | split | rfl | assumption

theorem leaving_execVprog (st : Stream) (ev : OpEvents) : Leaving noBytes s (execVprog st ev s) := by
  unfold execVprog
  refine Leaving.act fun d h => ?_
  try dsimp only
  repeat' first
    | with_reducible assumption | with_reducible exact h | with_reducible exact LeavesOpt.none
    | with_reducible apply Leaves.issueIf | with_reducible apply Leaves.operate | with_reducible apply Leaves.dupRows
    | with_reducible apply Leaves.vprogEffect | with_reducible apply LeavesOpt.some
    | with_reducible apply LeavesOpt.ite | with_reducible apply Leaves.ite | with_reducible apply Leaves.ite1
    | with_reducible apply Leaves.ite2 | with_reducible apply Leaves.foldl | with_reducible apply Leaves.foldl_fst
    | with_reducible apply Leaves.foldl_snd | simp only [Leaves.upd] | (show configReg _ = false; simp) | intro _ _ _
    | intro _ _ | intro _ | dsimp only | split | rfl | assumption

theorem leaving_execSoftmax (st : Stream) (ev : OpEvents) : Leaving noBytes s (execSoftmax st ev s) := by
  unfold execSoftmax
  refine Leaving.kernel fun c k src d h => ?_
  try dsimp only
  repeat' first
    | with_reducible assumption | with_reducible exact h | with_reducible exact LeavesOpt.none
    | with_reducible apply Leaves.kernelOut | with_reducible apply LeavesOpt.some | with_reducible apply LeavesOpt.ite
    | with_reducible apply Leaves.ite | with_reducible apply Leaves.ite1 | with_reducible apply Leaves.ite2
    | with_reducible apply Leaves.foldl | with_reducible apply Leaves.foldl_fst
    | with_reducible apply Leaves.foldl_snd | simp only [Leaves.upd] | (show configReg _ = false; simp) | intro _ _ _
    | intro _ _ | intro _ | dsimp only | split | rfl | assumption

theorem leaving_execNormRms (st : Stream) (ev : OpEvents) : Leaving noBytes s (execNormRms st ev s) := by
  unfold execNormRms
  refine Leaving.kernel fun c k src d h => ?_
  try dsimp only
  repeat' first
    | with_reducible assumption | with_reducible exact h | with_reducible exact LeavesOpt.none
    | with_reducible apply Leaves.normEffect | with_reducible apply LeavesOpt.some
    | with_reducible apply LeavesOpt.ite | with_reducible apply Leaves.ite | with_reducible apply Leaves.ite1
    | with_reducible apply Leaves.ite2 | with_reducible apply Leaves.foldl | with_reducible apply Leaves.foldl_fst
    | with_reducible apply Leaves.foldl_snd | simp only [Leaves.upd] | (show configReg _ = false; simp) | intro _ _ _
    | intro _ _ | intro _ | dsimp only | split | rfl | assumption

theorem leaving_execNormLayer (st : Stream) (ev : OpEvents) : Leaving noBytes s (execNormLayer st ev s) := by
  unfold execNormLayer
  refine Leaving.kernel fun c k src d h => ?_
  try dsimp only
  repeat' first
    | with_reducible assumption | with_reducible exact h | with_reducible exact LeavesOpt.none
    | with_reducible apply Leaves.normEffect | with_reducible apply LeavesOpt.some
    | with_reducible apply LeavesOpt.ite | with_reducible apply Leaves.ite | with_reducible apply Leaves.ite1
    | with_reducible apply Leaves.ite2 | with_reducible apply Leaves.foldl | with_reducible apply Leaves.foldl_fst
    | with_reducible apply Leaves.foldl_snd | simp only [Leaves.upd] | (show configReg _ = false; simp) | intro _ _ _
    | intro _ _ | intro _ | dsimp only | split | rfl | assumption

theorem leaving_execVkernelReduce (st : Stream) (ev : OpEvents) : Leaving noBytes s (execVkernelReduce st ev s) := by
  unfold execVkernelReduce
  refine Leaving.kernel fun c k src d h => ?_
  try dsimp only
  repeat' first
    | with_reducible assumption | with_reducible exact h | with_reducible exact LeavesOpt.none
    | with_reducible apply Leaves.countRows | with_reducible apply Leaves.kernelOut
    | with_reducible apply LeavesOpt.some | with_reducible apply LeavesOpt.ite | with_reducible apply Leaves.ite
    | with_reducible apply Leaves.ite1 | with_reducible apply Leaves.ite2 | with_reducible apply Leaves.foldl
    | with_reducible apply Leaves.foldl_fst | with_reducible apply Leaves.foldl_snd | simp only [Leaves.upd]
    | (show configReg _ = false; simp) | intro _ _ _ | intro _ _ | intro _ | dsimp only | split | rfl | assumption

theorem leaving_execAttnStat (st : Stream) (ev : OpEvents) : Leaving noBytes s (execAttnStat st ev s) := by
  unfold execAttnStat
  refine Leaving.kernel fun c k src d h => ?_
  try dsimp only
  repeat' first
    | with_reducible assumption | with_reducible exact h | with_reducible exact LeavesOpt.none
    | with_reducible apply Leaves.kernelOut | with_reducible apply Leaves.attnState
    | with_reducible apply LeavesOpt.some | with_reducible apply LeavesOpt.ite | with_reducible apply Leaves.ite
    | with_reducible apply Leaves.ite1 | with_reducible apply Leaves.ite2 | with_reducible apply Leaves.foldl
    | with_reducible apply Leaves.foldl_fst | with_reducible apply Leaves.foldl_snd | simp only [Leaves.upd]
    | (show configReg _ = false; simp) | intro _ _ _ | intro _ _ | intro _ | dsimp only | split | rfl | assumption

theorem leaving_execLoss (st : Stream) (ev : OpEvents) : Leaving noBytes s (execLoss st ev s) := by
  unfold execLoss
  refine Leaving.kernel fun c k src d h => ?_
  try dsimp only
  repeat' first
    | with_reducible assumption | with_reducible exact h | with_reducible exact LeavesOpt.none
    | with_reducible apply Leaves.vout | with_reducible apply Leaves.vtbCount | with_reducible apply Leaves.lossOut
    | with_reducible apply LeavesOpt.some | with_reducible apply LeavesOpt.ite | with_reducible apply Leaves.ite
    | with_reducible apply Leaves.ite1 | with_reducible apply Leaves.ite2 | with_reducible apply Leaves.foldl
    | with_reducible apply Leaves.foldl_fst | with_reducible apply Leaves.foldl_snd | simp only [Leaves.upd]
    | (show configReg _ = false; simp) | intro _ _ _ | intro _ _ | intro _ | dsimp only | split | rfl | assumption

theorem leaving_execTload (st : Stream) (ev : OpEvents) : Leaving noBytes s (execTload st ev s) := by
  unfold execTload
  refine Leaving.act fun d h => ?_
  try dsimp only
  repeat' first
    | with_reducible assumption | with_reducible exact h | with_reducible exact LeavesOpt.none
    | with_reducible apply Leaves.issueIf | with_reducible apply Leaves.operate
    | with_reducible apply Leaves.tloadEffect | with_reducible apply LeavesOpt.some
    | with_reducible apply LeavesOpt.ite | with_reducible apply Leaves.ite | with_reducible apply Leaves.ite1
    | with_reducible apply Leaves.ite2 | with_reducible apply Leaves.foldl | with_reducible apply Leaves.foldl_fst
    | with_reducible apply Leaves.foldl_snd | simp only [Leaves.upd] | (show configReg _ = false; simp) | intro _ _ _
    | intro _ _ | intro _ | dsimp only | split | rfl | assumption

theorem leaving_execDispatch (ev : OpEvents) : Leaving noBytes s (execDispatch ev s) := by
  unfold execDispatch
  refine Leaving.xchg fun c k src d h => ?_
  try dsimp only
  repeat' first
    | with_reducible assumption | with_reducible exact h | with_reducible exact LeavesOpt.none
    | with_reducible apply Leaves.moveEffect | with_reducible apply LeavesOpt.some
    | with_reducible apply LeavesOpt.ite | with_reducible apply Leaves.ite | with_reducible apply Leaves.ite1
    | with_reducible apply Leaves.ite2 | with_reducible apply Leaves.foldl | with_reducible apply Leaves.foldl_fst
    | with_reducible apply Leaves.foldl_snd | simp only [Leaves.upd] | (show configReg _ = false; simp) | intro _ _ _
    | intro _ _ | intro _ | dsimp only | split | rfl | assumption

theorem leaving_execXchgReturn (ev : OpEvents) : Leaving noBytes s (execXchgReturn ev s) := by
  unfold execXchgReturn
  refine Leaving.xchg fun c k src d h => ?_
  try dsimp only
  repeat' first
    | with_reducible assumption | with_reducible exact h | with_reducible exact LeavesOpt.none
    | with_reducible apply Leaves.moveEffect | with_reducible apply LeavesOpt.some
    | with_reducible apply LeavesOpt.ite | with_reducible apply Leaves.ite | with_reducible apply Leaves.ite1
    | with_reducible apply Leaves.ite2 | with_reducible apply Leaves.foldl | with_reducible apply Leaves.foldl_fst
    | with_reducible apply Leaves.foldl_snd | simp only [Leaves.upd] | (show configReg _ = false; simp) | intro _ _ _
    | intro _ _ | intro _ | dsimp only | split | rfl | assumption

theorem leaving_execCombine (ev : OpEvents) : Leaving noBytes s (execCombine ev s) := by
  unfold execCombine
  refine Leaving.xchg fun c k src d h => ?_
  try dsimp only
  repeat' first
    | with_reducible assumption | with_reducible exact h | with_reducible exact LeavesOpt.none
    | with_reducible apply Leaves.combineEffect | with_reducible apply LeavesOpt.some
    | with_reducible apply LeavesOpt.ite | with_reducible apply Leaves.ite | with_reducible apply Leaves.ite1
    | with_reducible apply Leaves.ite2 | with_reducible apply Leaves.foldl | with_reducible apply Leaves.foldl_fst
    | with_reducible apply Leaves.foldl_snd | simp only [Leaves.upd] | (show configReg _ = false; simp) | intro _ _ _
    | intro _ _ | intro _ | dsimp only | split | rfl | assumption

theorem leaving_execGradDispatch (ev : OpEvents) : Leaving noBytes s (execGradDispatch ev s) := by
  unfold execGradDispatch
  refine Leaving.xchg fun c k src d h => ?_
  try dsimp only
  repeat' first
    | with_reducible assumption | with_reducible exact h | with_reducible exact LeavesOpt.none
    | with_reducible apply Leaves.moveEffect | with_reducible apply LeavesOpt.some
    | with_reducible apply LeavesOpt.ite | with_reducible apply Leaves.ite | with_reducible apply Leaves.ite1
    | with_reducible apply Leaves.ite2 | with_reducible apply Leaves.foldl | with_reducible apply Leaves.foldl_fst
    | with_reducible apply Leaves.foldl_snd | simp only [Leaves.upd] | (show configReg _ = false; simp) | intro _ _ _
    | intro _ _ | intro _ | dsimp only | split | rfl | assumption

theorem leaving_execGradReturn (ev : OpEvents) : Leaving noBytes s (execGradReturn ev s) := by
  unfold execGradReturn
  refine Leaving.xchg fun c k src d h => ?_
  try dsimp only
  repeat' first
    | with_reducible assumption | with_reducible exact h | with_reducible exact LeavesOpt.none
    | with_reducible apply Leaves.moveEffect | with_reducible apply LeavesOpt.some
    | with_reducible apply LeavesOpt.ite | with_reducible apply Leaves.ite | with_reducible apply Leaves.ite1
    | with_reducible apply Leaves.ite2 | with_reducible apply Leaves.foldl | with_reducible apply Leaves.foldl_fst
    | with_reducible apply Leaves.foldl_snd | simp only [Leaves.upd] | (show configReg _ = false; simp) | intro _ _ _
    | intro _ _ | intro _ | dsimp only | split | rfl | assumption

theorem leaving_execReady (m : Packet) (blocks : List BlockFinding) : Leaving noBytes s (execReady m s blocks) := by
  unfold execReady
  refine Leaving.act fun d h => ?_
  try dsimp only
  repeat' first
    | with_reducible assumption | with_reducible exact h | with_reducible exact LeavesOpt.none
    | with_reducible apply Leaves.takePacket | with_reducible apply Leaves.found | with_reducible apply Leaves.endXchg
    | with_reducible apply Leaves.takeReady | with_reducible apply Leaves.keepReady
    | with_reducible apply LeavesOpt.some | with_reducible apply LeavesOpt.ite | with_reducible apply Leaves.ite
    | with_reducible apply Leaves.ite1 | with_reducible apply Leaves.ite2 | with_reducible apply Leaves.foldl
    | with_reducible apply Leaves.foldl_fst | with_reducible apply Leaves.foldl_snd | simp only [Leaves.upd]
    | (show configReg _ = false; simp) | intro _ _ _ | intro _ _ | intro _ | dsimp only | split | rfl | assumption

theorem leaving_execData (m : Packet) (blocks : List BlockFinding) : Leaving noBytes s (execData m s blocks) := by
  unfold execData
  refine Leaving.act fun d h => ?_
  try dsimp only
  repeat' first
    | with_reducible assumption | with_reducible exact h | with_reducible exact LeavesOpt.none
    | with_reducible apply Leaves.takeData | with_reducible apply Leaves.takePacket
    | with_reducible apply Leaves.found | with_reducible apply LeavesOpt.some | with_reducible apply LeavesOpt.ite
    | with_reducible apply Leaves.ite | with_reducible apply Leaves.ite1 | with_reducible apply Leaves.ite2
    | with_reducible apply Leaves.foldl | with_reducible apply Leaves.foldl_fst
    | with_reducible apply Leaves.foldl_snd | simp only [Leaves.upd] | (show configReg _ = false; simp) | intro _ _ _
    | intro _ _ | intro _ | dsimp only | split | rfl | assumption

theorem leaving_execXchgComplete (kind : Nat) (layerSlot : Nat) (microbatch : Nat) (blocks : List BlockFinding) : Leaving noBytes s (execXchgComplete kind layerSlot microbatch s blocks) := by
  unfold execXchgComplete
  refine Leaving.act fun d h => ?_
  try dsimp only
  repeat' first
    | with_reducible assumption | with_reducible exact h | with_reducible exact LeavesOpt.none
    | with_reducible apply Leaves.endXchg | with_reducible apply Leaves.addTally | with_reducible apply Leaves.found
    | with_reducible apply LeavesOpt.some | with_reducible apply LeavesOpt.ite | with_reducible apply Leaves.ite
    | with_reducible apply Leaves.ite1 | with_reducible apply Leaves.ite2 | with_reducible apply Leaves.foldl
    | with_reducible apply Leaves.foldl_fst | with_reducible apply Leaves.foldl_snd | simp only [Leaves.upd]
    | (show configReg _ = false; simp) | intro _ _ _ | intro _ _ | intro _ | dsimp only | split | rfl | assumption

theorem leaving_execXchgTimeout (kind : Nat) (layerSlot : Nat) (microbatch : Nat) : Leaving noBytes s (execXchgTimeout kind layerSlot microbatch s) := by
  unfold execXchgTimeout
  refine Leaving.act fun d h => ?_
  try dsimp only
  repeat' first
    | with_reducible assumption | with_reducible exact h | with_reducible exact LeavesOpt.none
    | with_reducible apply Leaves.endXchg | with_reducible apply LeavesOpt.some | with_reducible apply LeavesOpt.ite
    | with_reducible apply Leaves.ite | with_reducible apply Leaves.ite1 | with_reducible apply Leaves.ite2
    | with_reducible apply Leaves.foldl | with_reducible apply Leaves.foldl_fst
    | with_reducible apply Leaves.foldl_snd | simp only [Leaves.upd] | (show configReg _ = false; simp) | intro _ _ _
    | intro _ _ | intro _ | dsimp only | split | rfl | assumption

theorem leaving_execSend (ev : OpEvents) : Leaving noBytes s (execSend ev s) := by
  unfold execSend
  refine Leaving.act fun d h => ?_
  try dsimp only
  repeat' first
    | with_reducible assumption | with_reducible exact h | with_reducible exact LeavesOpt.none
    | with_reducible apply Leaves.issueIf | with_reducible apply Leaves.operate
    | with_reducible apply Leaves.sendEffect | with_reducible apply LeavesOpt.some
    | with_reducible apply LeavesOpt.ite | with_reducible apply Leaves.ite | with_reducible apply Leaves.ite1
    | with_reducible apply Leaves.ite2 | with_reducible apply Leaves.foldl | with_reducible apply Leaves.foldl_fst
    | with_reducible apply Leaves.foldl_snd | simp only [Leaves.upd] | (show configReg _ = false; simp) | intro _ _ _
    | intro _ _ | intro _ | dsimp only | split | rfl | assumption

theorem leaving_execSendComplete (id : Nat) (blocks : List BlockFinding) : Leaving noBytes s (execSendComplete id s blocks) := by
  unfold execSendComplete
  refine Leaving.act fun d h => ?_
  try dsimp only
  repeat' first
    | with_reducible assumption | with_reducible exact h | with_reducible exact LeavesOpt.none
    | with_reducible apply Leaves.endSend | with_reducible apply Leaves.found | with_reducible apply LeavesOpt.some
    | with_reducible apply LeavesOpt.ite | with_reducible apply Leaves.ite | with_reducible apply Leaves.ite1
    | with_reducible apply Leaves.ite2 | with_reducible apply Leaves.foldl | with_reducible apply Leaves.foldl_fst
    | with_reducible apply Leaves.foldl_snd | simp only [Leaves.upd] | (show configReg _ = false; simp) | intro _ _ _
    | intro _ _ | intro _ | dsimp only | split | rfl | assumption

theorem leaving_execSendTimeout (id : Nat) : Leaving noBytes s (execSendTimeout id s) := by
  unfold execSendTimeout
  refine Leaving.act fun d h => ?_
  try dsimp only
  repeat' first
    | with_reducible assumption | with_reducible exact h | with_reducible exact LeavesOpt.none
    | with_reducible apply Leaves.endSend | with_reducible apply LeavesOpt.some | with_reducible apply LeavesOpt.ite
    | with_reducible apply Leaves.ite | with_reducible apply Leaves.ite1 | with_reducible apply Leaves.ite2
    | with_reducible apply Leaves.foldl | with_reducible apply Leaves.foldl_fst
    | with_reducible apply Leaves.foldl_snd | simp only [Leaves.upd] | (show configReg _ = false; simp) | intro _ _ _
    | intro _ _ | intro _ | dsimp only | split | rfl | assumption

theorem leaving_execStop (m : Packet) : Leaving B s (execStop m s) := by
  unfold execStop
  exact Leaving.pause

theorem leaving_execGo (m : Packet) : Leaving B s (execGo m s) := by
  unfold execGo
  exact Leaving.pause

theorem leaving_execPipelineBlock (m : Packet) (blocks : List BlockFinding) : Leaving noBytes s (execPipelineBlock m s blocks) := by
  unfold execPipelineBlock
  refine Leaving.act fun d h => ?_
  try dsimp only
  repeat' first
    | with_reducible assumption | with_reducible exact h | with_reducible exact LeavesOpt.none
    | with_reducible apply Leaves.hingeBlock | with_reducible apply Leaves.takePacket
    | with_reducible apply Leaves.found | with_reducible apply Leaves.stray | with_reducible apply LeavesOpt.some
    | with_reducible apply LeavesOpt.ite | with_reducible apply Leaves.ite | with_reducible apply Leaves.ite1
    | with_reducible apply Leaves.ite2 | with_reducible apply Leaves.foldl | with_reducible apply Leaves.foldl_fst
    | with_reducible apply Leaves.foldl_snd | simp only [Leaves.upd] | (show configReg _ = false; simp) | intro _ _ _
    | intro _ _ | intro _ | dsimp only | split | rfl | assumption

theorem leaving_execRelease  : Leaving B s (execRelease s) := by
  unfold execRelease
  refine Leaving.act fun d h => ?_
  try dsimp only
  repeat' first
    | with_reducible assumption | with_reducible exact h | with_reducible exact LeavesOpt.none
    | with_reducible apply Leaves.issueIf | with_reducible apply Leaves.instant
    | with_reducible apply Leaves.releaseHead | with_reducible apply LeavesOpt.some
    | with_reducible apply LeavesOpt.ite | with_reducible apply Leaves.ite | with_reducible apply Leaves.ite1
    | with_reducible apply Leaves.ite2 | with_reducible apply Leaves.foldl | with_reducible apply Leaves.foldl_fst
    | with_reducible apply Leaves.foldl_snd | simp only [Leaves.upd] | (show configReg _ = false; simp) | intro _ _ _
    | intro _ _ | intro _ | dsimp only | split | rfl | assumption

theorem leaving_execFabEnableWrite (hart : Fin 28) (port : Fin 36) (value : Word) : Leaving B s (execFabEnableWrite hart port value s) := by
  unfold execFabEnableWrite
  refine Leaving.byHart fun d h => ?_
  try dsimp only
  repeat' first
    | with_reducible assumption | with_reducible exact h | with_reducible exact LeavesOpt.none
    | with_reducible apply Leaves.store | with_reducible apply Leaves.trainPort | with_reducible apply Leaves.portOff
    | with_reducible apply LeavesOpt.some | with_reducible apply LeavesOpt.ite | with_reducible apply Leaves.ite
    | with_reducible apply Leaves.ite1 | with_reducible apply Leaves.ite2 | with_reducible apply Leaves.foldl
    | with_reducible apply Leaves.foldl_fst | with_reducible apply Leaves.foldl_snd | simp only [Leaves.upd]
    | (show configReg _ = false; simp) | intro _ _ _ | intro _ _ | intro _ | dsimp only | split | rfl | assumption

theorem leaving_execTrainingAttemptEnd (port : Fin 36) (result : Training) : Leaving B s (execTrainingAttemptEnd port result s) := by
  unfold execTrainingAttemptEnd
  refine Leaving.act fun d h => ?_
  try dsimp only
  repeat' first
    | with_reducible assumption | with_reducible exact h | with_reducible exact LeavesOpt.none
    | with_reducible apply Leaves.trained | with_reducible apply Leaves.trainFailed
    | with_reducible apply LeavesOpt.some | with_reducible apply LeavesOpt.ite | with_reducible apply Leaves.ite
    | with_reducible apply Leaves.ite1 | with_reducible apply Leaves.ite2 | with_reducible apply Leaves.foldl
    | with_reducible apply Leaves.foldl_fst | with_reducible apply Leaves.foldl_snd | simp only [Leaves.upd]
    | (show configReg _ = false; simp) | intro _ _ _ | intro _ _ | intro _ | dsimp only | split | rfl | assumption

theorem leaving_execLaneLockLoss (port : Fin 36) (lanes : BitVec 8) : Leaving B s (execLaneLockLoss port lanes s) := by
  unfold execLaneLockLoss
  refine Leaving.act fun d h => ?_
  try dsimp only
  repeat' first
    | with_reducible assumption | with_reducible exact h | with_reducible exact LeavesOpt.none
    | with_reducible apply Leaves.setFld | with_reducible apply Leaves.retrain | with_reducible apply LeavesOpt.some
    | with_reducible apply LeavesOpt.ite | with_reducible apply Leaves.ite | with_reducible apply Leaves.ite1
    | with_reducible apply Leaves.ite2 | with_reducible apply Leaves.foldl | with_reducible apply Leaves.foldl_fst
    | with_reducible apply Leaves.foldl_snd | simp only [Leaves.upd] | (show configReg _ = false; simp) | intro _ _ _
    | intro _ _ | intro _ | dsimp only | split | rfl | assumption

theorem leaving_execParkWord (port : Fin 36) : Leaving B s (execParkWord port s) := by
  unfold execParkWord
  refine Leaving.act fun d h => ?_
  try dsimp only
  repeat' first
    | with_reducible assumption | with_reducible exact h | with_reducible exact LeavesOpt.none
    | with_reducible apply Leaves.portFault | with_reducible apply LeavesOpt.some | with_reducible apply LeavesOpt.ite
    | with_reducible apply Leaves.ite | with_reducible apply Leaves.ite1 | with_reducible apply Leaves.ite2
    | with_reducible apply Leaves.foldl | with_reducible apply Leaves.foldl_fst
    | with_reducible apply Leaves.foldl_snd | simp only [Leaves.upd] | (show configReg _ = false; simp) | intro _ _ _
    | intro _ _ | intro _ | dsimp only | split | rfl | assumption

theorem leaving_execLinkBlockReceive (port : Fin 36) (block : Block) (words : List (List Byte)) : Leaving noBytes s (execLinkBlockReceive port block s words) := by
  unfold execLinkBlockReceive
  refine Leaving.act fun d h => ?_
  try dsimp only
  repeat' first
    | with_reducible assumption | with_reducible exact h | with_reducible exact LeavesOpt.none
    | with_reducible apply Leaves.addSat | with_reducible apply Leaves.refuseBlock
    | with_reducible apply Leaves.addWrap | with_reducible apply Leaves.setPort
    | with_reducible apply Leaves.acceptBlock | with_reducible apply LeavesOpt.some
    | with_reducible apply LeavesOpt.ite | with_reducible apply Leaves.ite | with_reducible apply Leaves.ite1
    | with_reducible apply Leaves.ite2 | with_reducible apply Leaves.foldl | with_reducible apply Leaves.foldl_fst
    | with_reducible apply Leaves.foldl_snd | simp only [Leaves.upd] | (show configReg _ = false; simp) | intro _ _ _
    | intro _ _ | intro _ | dsimp only | split | rfl | assumption

theorem leaving_execLinkControlWord (port : Fin 36) (w : ControlWord) : Leaving B s (execLinkControlWord port w s) := by
  unfold execLinkControlWord
  refine Leaving.act fun d h => ?_
  try dsimp only
  repeat' first
    | with_reducible assumption | with_reducible exact h | with_reducible exact LeavesOpt.none
    | with_reducible apply Leaves.setPort | with_reducible apply Leaves.raise | with_reducible apply LeavesOpt.some
    | with_reducible apply LeavesOpt.ite | with_reducible apply Leaves.ite | with_reducible apply Leaves.ite1
    | with_reducible apply Leaves.ite2 | with_reducible apply Leaves.foldl | with_reducible apply Leaves.foldl_fst
    | with_reducible apply Leaves.foldl_snd | simp only [Leaves.upd] | (show configReg _ = false; simp) | intro _ _ _
    | intro _ _ | intro _ | dsimp only | split | rfl | assumption

theorem leaving_execTransmitSlot (port : Fin 36) : Leaving B s (execTransmitSlot port s) := by
  unfold execTransmitSlot
  refine Leaving.act fun d h => ?_
  try dsimp only
  repeat' first
    | with_reducible assumption | with_reducible exact h | with_reducible exact LeavesOpt.none
    | with_reducible apply Leaves.setPort | with_reducible apply Leaves.slotBlock
    | with_reducible apply LeavesOpt.some | with_reducible apply LeavesOpt.ite | with_reducible apply Leaves.ite
    | with_reducible apply Leaves.ite1 | with_reducible apply Leaves.ite2 | with_reducible apply Leaves.foldl
    | with_reducible apply Leaves.foldl_fst | with_reducible apply Leaves.foldl_snd | simp only [Leaves.upd]
    | (show configReg _ = false; simp) | intro _ _ _ | intro _ _ | intro _ | dsimp only | split | rfl | assumption

theorem leaving_execCaptureReplayBlock  : Leaving B s (execCaptureReplayBlock s) := by
  unfold execCaptureReplayBlock
  refine Leaving.act fun d h => ?_
  try dsimp only
  repeat' first
    | with_reducible assumption | with_reducible exact h | with_reducible exact LeavesOpt.none
    | with_reducible apply Leaves.arrive | with_reducible apply LeavesOpt.some | with_reducible apply LeavesOpt.ite
    | with_reducible apply Leaves.ite | with_reducible apply Leaves.ite1 | with_reducible apply Leaves.ite2
    | with_reducible apply Leaves.foldl | with_reducible apply Leaves.foldl_fst
    | with_reducible apply Leaves.foldl_snd | simp only [Leaves.upd] | (show configReg _ = false; simp) | intro _ _ _
    | intro _ _ | intro _ | dsimp only | split | rfl | assumption

theorem leaving_execPostWriteAcked (blocks : List BlockFinding) (hb : ∀ a, B a = true → lostBy blocks a = false) : Leaving B s (execPostWriteAcked s blocks) := by
  unfold execPostWriteAcked
  refine Leaving.act fun d h => ?_
  try dsimp only
  repeat' first
    | with_reducible assumption | with_reducible exact h | with_reducible exact LeavesOpt.none
    | (with_reducible refine Leaves.foundBut ?_ _ hb) | with_reducible apply Leaves.runPosts
    | with_reducible apply Leaves.nextPost | with_reducible apply LeavesOpt.some | with_reducible apply LeavesOpt.ite
    | with_reducible apply Leaves.ite | with_reducible apply Leaves.ite1 | with_reducible apply Leaves.ite2
    | with_reducible apply Leaves.foldl | with_reducible apply Leaves.foldl_fst
    | with_reducible apply Leaves.foldl_snd | simp only [Leaves.upd] | (show configReg _ = false; simp) | intro _ _ _
    | intro _ _ | intro _ | dsimp only | split | rfl | assumption

theorem leaving_execRemoteWriteBlock (m : Packet) (blocks : List BlockFinding) : Leaving noBytes s (execRemoteWriteBlock m s blocks) := by
  unfold execRemoteWriteBlock
  refine Leaving.act fun d h => ?_
  try dsimp only
  repeat' first
    | with_reducible assumption | with_reducible exact h | with_reducible exact LeavesOpt.none
    | with_reducible apply Leaves.postData | with_reducible apply Leaves.takePacket
    | with_reducible apply Leaves.found | with_reducible apply Leaves.writeAt
    | with_reducible apply Leaves.raiseCounter | with_reducible apply Leaves.raise
    | with_reducible apply Leaves.addSat | with_reducible apply LeavesOpt.some | with_reducible apply LeavesOpt.ite
    | with_reducible apply Leaves.ite | with_reducible apply Leaves.ite1 | with_reducible apply Leaves.ite2
    | with_reducible apply Leaves.foldl | with_reducible apply Leaves.foldl_fst
    | with_reducible apply Leaves.foldl_snd | simp only [Leaves.upd] | (show configReg _ = false; simp) | intro _ _ _
    | intro _ _ | intro _ | dsimp only | split | rfl | assumption

theorem leaving_execAgree (m : Packet) (blocks : List BlockFinding) : Leaving noBytes s (execAgree m s blocks) := by
  unfold execAgree
  exact Leaving.redMessage

theorem leaving_execEc48 (m : Packet) (blocks : List BlockFinding) : Leaving noBytes s (execEc48 m s blocks) := by
  unfold execEc48
  exact Leaving.redMessage

theorem leaving_execTopk (m : Packet) (blocks : List BlockFinding) : Leaving noBytes s (execTopk m s blocks) := by
  unfold execTopk
  exact Leaving.redMessage

theorem leaving_execSign (m : Packet) (blocks : List BlockFinding) : Leaving noBytes s (execSign m s blocks) := by
  unfold execSign
  exact Leaving.redMessage

theorem leaving_execFast (m : Packet) (blocks : List BlockFinding) : Leaving noBytes s (execFast m s blocks) := by
  unfold execFast
  exact Leaving.redMessage

theorem leaving_execTally (m : Packet) (blocks : List BlockFinding) : Leaving noBytes s (execTally m s blocks) := by
  unfold execTally
  exact Leaving.redMessage

theorem leaving_execConsensus (m : Packet) (blocks : List BlockFinding) : Leaving noBytes s (execConsensus m s blocks) := by
  unfold execConsensus
  exact Leaving.redMessage

theorem leaving_execReduceSum (ev : OpEvents) : Leaving noBytes s (execReduceSum ev s) := by
  unfold execReduceSum
  exact Leaving.reduce

theorem leaving_execReduceTally (ev : OpEvents) : Leaving noBytes s (execReduceTally ev s) := by
  unfold execReduceTally
  exact Leaving.reduce

theorem leaving_execReduceMax (ev : OpEvents) : Leaving noBytes s (execReduceMax ev s) := by
  unfold execReduceMax
  exact Leaving.reduce

theorem leaving_execReduceConsensus (blocks : List BlockFinding) : Leaving noBytes s (execReduceConsensus s blocks) := by
  unfold execReduceConsensus
  exact Leaving.reduce

theorem leaving_execReduceComplete (slot : Nat) (blocks : List BlockFinding) : Leaving noBytes s (execReduceComplete slot s blocks) := by
  unfold execReduceComplete
  refine Leaving.act fun d h => ?_
  try dsimp only
  repeat' first
    | with_reducible assumption | with_reducible exact h | with_reducible exact LeavesOpt.none
    | with_reducible apply Leaves.endRed | with_reducible apply Leaves.found | with_reducible apply LeavesOpt.some
    | with_reducible apply LeavesOpt.ite | with_reducible apply Leaves.ite | with_reducible apply Leaves.ite1
    | with_reducible apply Leaves.ite2 | with_reducible apply Leaves.foldl | with_reducible apply Leaves.foldl_fst
    | with_reducible apply Leaves.foldl_snd | simp only [Leaves.upd] | (show configReg _ = false; simp) | intro _ _ _
    | intro _ _ | intro _ | dsimp only | split | rfl | assumption

theorem leaving_execReduceTimeout (slot : Nat) : Leaving noBytes s (execReduceTimeout slot s) := by
  unfold execReduceTimeout
  refine Leaving.act fun d h => ?_
  try dsimp only
  repeat' first
    | with_reducible assumption | with_reducible exact h | with_reducible exact LeavesOpt.none
    | with_reducible apply Leaves.endRed | with_reducible apply LeavesOpt.some | with_reducible apply LeavesOpt.ite
    | with_reducible apply Leaves.ite | with_reducible apply Leaves.ite1 | with_reducible apply Leaves.ite2
    | with_reducible apply Leaves.foldl | with_reducible apply Leaves.foldl_fst
    | with_reducible apply Leaves.foldl_snd | simp only [Leaves.upd] | (show configReg _ = false; simp) | intro _ _ _
    | intro _ _ | intro _ | dsimp only | split | rfl | assumption

theorem leaving_execChartLoad (hart : Fin 28) (value : Word) (blocks : List BlockFinding) (hb : ∀ a, B a = true → lostBy blocks a = false) : Leaving B s (execChartLoad hart value s blocks) := by
  unfold execChartLoad
  refine Leaving.byHart fun d h => ?_
  try dsimp only
  repeat' first
    | with_reducible assumption | with_reducible exact h | with_reducible exact LeavesOpt.none
    | (with_reducible refine Leaves.foundBut ?_ _ hb) | with_reducible apply Leaves.writeLoad
    | with_reducible apply LeavesOpt.some | with_reducible apply LeavesOpt.ite | with_reducible apply Leaves.ite
    | with_reducible apply Leaves.ite1 | with_reducible apply Leaves.ite2 | with_reducible apply Leaves.foldl
    | with_reducible apply Leaves.foldl_fst | with_reducible apply Leaves.foldl_snd | simp only [Leaves.upd]
    | (show configReg _ = false; simp) | intro _ _ _ | intro _ _ | intro _ | dsimp only | split | rfl | assumption

theorem leaving_execChartLoadReplay (hart : Fin 28) (value : Word) (blocks : List BlockFinding) (hb : ∀ a, B a = true → lostBy blocks a = false) : Leaving B s (execChartLoadReplay hart value s blocks) := by
  unfold execChartLoadReplay
  refine Leaving.byHart fun d h => ?_
  try dsimp only
  repeat' first
    | with_reducible assumption | with_reducible exact h | with_reducible exact LeavesOpt.none
    | (with_reducible refine Leaves.foundBut ?_ _ hb) | with_reducible apply Leaves.writeLoad
    | with_reducible apply LeavesOpt.some | with_reducible apply LeavesOpt.ite | with_reducible apply Leaves.ite
    | with_reducible apply Leaves.ite1 | with_reducible apply Leaves.ite2 | with_reducible apply Leaves.foldl
    | with_reducible apply Leaves.foldl_fst | with_reducible apply Leaves.foldl_snd | simp only [Leaves.upd]
    | (show configReg _ = false; simp) | intro _ _ _ | intro _ _ | intro _ | dsimp only | split | rfl | assumption

theorem leaving_execChtPackageWrite (hart : Fin 28) (value : Word) : Leaving B s (execChtPackageWrite hart value s) := by
  unfold execChtPackageWrite
  refine Leaving.byHart fun d h => ?_
  try dsimp only
  repeat' first
    | with_reducible assumption | with_reducible exact h | with_reducible exact LeavesOpt.none
    | with_reducible apply Leaves.setFld | with_reducible apply LeavesOpt.some | with_reducible apply LeavesOpt.ite
    | with_reducible apply Leaves.ite | with_reducible apply Leaves.ite1 | with_reducible apply Leaves.ite2
    | with_reducible apply Leaves.foldl | with_reducible apply Leaves.foldl_fst
    | with_reducible apply Leaves.foldl_snd | simp only [Leaves.upd] | (show configReg _ = false; simp) | intro _ _ _
    | intro _ _ | intro _ | dsimp only | split | rfl | assumption

theorem leaving_execHelmSetStep (ev : OpEvents) : Leaving noBytes s (execHelmSetStep ev s) := by
  unfold execHelmSetStep
  exact Leaving.helmSet

theorem leaving_execHelmSetNorm (ev : OpEvents) : Leaving noBytes s (execHelmSetNorm ev s) := by
  unfold execHelmSetNorm
  exact Leaving.helmSet

theorem leaving_execHelmSetCoef (ev : OpEvents) : Leaving noBytes s (execHelmSetCoef ev s) := by
  unfold execHelmSetCoef
  exact Leaving.helmSet

theorem leaving_execHelmSetDecay (ev : OpEvents) : Leaving noBytes s (execHelmSetDecay ev s) := by
  unfold execHelmSetDecay
  exact Leaving.helmSet

theorem leaving_execHelmUpdate (ev : OpEvents) : Leaving noBytes s (execHelmUpdate ev s) := by
  unfold execHelmUpdate
  refine Leaving.act fun d h => ?_
  try dsimp only
  repeat' first
    | with_reducible assumption | with_reducible exact h | with_reducible exact LeavesOpt.none
    | with_reducible apply Leaves.issueIf | with_reducible apply Leaves.rejectRun | with_reducible apply Leaves.issue
    | with_reducible apply Leaves.raise | with_reducible apply Leaves.operate
    | with_reducible apply Leaves.helmUpdateEffect | with_reducible apply LeavesOpt.some
    | with_reducible apply LeavesOpt.ite | with_reducible apply Leaves.ite | with_reducible apply Leaves.ite1
    | with_reducible apply Leaves.ite2 | with_reducible apply Leaves.foldl | with_reducible apply Leaves.foldl_fst
    | with_reducible apply Leaves.foldl_snd | simp only [Leaves.upd] | (show configReg _ = false; simp) | intro _ _ _
    | intro _ _ | intro _ | dsimp only | split | rfl | assumption

theorem leaving_execLeg  : Leaving B s (execLeg s) := by
  unfold execLeg
  refine Leaving.act fun d h => ?_
  try dsimp only
  repeat' first
    | with_reducible assumption | with_reducible exact h | with_reducible exact LeavesOpt.none
    | with_reducible apply Leaves.issueIf | with_reducible apply Leaves.stall | with_reducible apply Leaves.setFlag
    | with_reducible apply Leaves.endStall | with_reducible apply Leaves.issue | with_reducible apply Leaves.rejectRun
    | with_reducible apply LeavesOpt.some | with_reducible apply LeavesOpt.ite | with_reducible apply Leaves.ite
    | with_reducible apply Leaves.ite1 | with_reducible apply Leaves.ite2 | with_reducible apply Leaves.foldl
    | with_reducible apply Leaves.foldl_fst | with_reducible apply Leaves.foldl_snd | simp only [Leaves.upd]
    | (show configReg _ = false; simp) | intro _ _ _ | intro _ _ | intro _ | dsimp only | split | rfl | assumption

theorem leaving_execBarrier (m : Packet) (blocks : List BlockFinding) : Leaving noBytes s (execBarrier m s blocks) := by
  unfold execBarrier
  refine Leaving.act fun d h => ?_
  try dsimp only
  repeat' first
    | with_reducible assumption | with_reducible exact h | with_reducible exact LeavesOpt.none
    | with_reducible apply Leaves.takePacket | with_reducible apply Leaves.found | with_reducible apply Leaves.stray
    | with_reducible apply Leaves.runBarrier | with_reducible apply LeavesOpt.some
    | with_reducible apply LeavesOpt.ite | with_reducible apply Leaves.ite | with_reducible apply Leaves.ite1
    | with_reducible apply Leaves.ite2 | with_reducible apply Leaves.foldl | with_reducible apply Leaves.foldl_fst
    | with_reducible apply Leaves.foldl_snd | simp only [Leaves.upd] | (show configReg _ = false; simp) | intro _ _ _
    | intro _ _ | intro _ | dsimp only | split | rfl | assumption

theorem leaving_execLegSwitch (blocks : List BlockFinding) : Leaving noBytes s (execLegSwitch s blocks) := by
  unfold execLegSwitch
  refine Leaving.act fun d h => ?_
  try dsimp only
  repeat' first
    | with_reducible assumption | with_reducible exact h | with_reducible exact LeavesOpt.none
    | with_reducible apply Leaves.switchCharts | with_reducible apply Leaves.found
    | with_reducible apply Leaves.toBarrier | with_reducible apply Leaves.legDone
    | with_reducible apply Leaves.runBarrier | with_reducible apply Leaves.dropBarriers
    | with_reducible apply LeavesOpt.some | with_reducible apply LeavesOpt.ite | with_reducible apply Leaves.ite
    | with_reducible apply Leaves.ite1 | with_reducible apply Leaves.ite2 | with_reducible apply Leaves.foldl
    | with_reducible apply Leaves.foldl_fst | with_reducible apply Leaves.foldl_snd | simp only [Leaves.upd]
    | (show configReg _ = false; simp) | intro _ _ _ | intro _ _ | intro _ | dsimp only | split | rfl | assumption

theorem leaving_execLegTimeout  : Leaving B s (execLegTimeout s) := by
  unfold execLegTimeout
  refine Leaving.act fun d h => ?_
  try dsimp only
  repeat' first
    | with_reducible assumption | with_reducible exact h | with_reducible exact LeavesOpt.none
    | with_reducible apply Leaves.setReg | with_reducible apply Leaves.rejectRun | with_reducible apply LeavesOpt.some
    | with_reducible apply LeavesOpt.ite | with_reducible apply Leaves.ite | with_reducible apply Leaves.ite1
    | with_reducible apply Leaves.ite2 | with_reducible apply Leaves.foldl | with_reducible apply Leaves.foldl_fst
    | with_reducible apply Leaves.foldl_snd | simp only [Leaves.upd] | (show configReg _ = false; simp) | intro _ _ _
    | intro _ _ | intro _ | dsimp only | split | rfl | assumption

theorem leaving_execFix  : Leaving B s (execFix s) := by
  unfold execFix
  refine Leaving.act fun d h => ?_
  try dsimp only
  repeat' first
    | with_reducible assumption | with_reducible exact h | with_reducible exact LeavesOpt.none
    | with_reducible apply Leaves.issueIf | with_reducible apply Leaves.issue | with_reducible apply Leaves.rejectRun
    | with_reducible apply Leaves.replayEnds | with_reducible apply Leaves.fixDone
    | with_reducible apply Leaves.runVote | with_reducible apply LeavesOpt.some | with_reducible apply LeavesOpt.ite
    | with_reducible apply Leaves.ite | with_reducible apply Leaves.ite1 | with_reducible apply Leaves.ite2
    | with_reducible apply Leaves.foldl | with_reducible apply Leaves.foldl_fst
    | with_reducible apply Leaves.foldl_snd | simp only [Leaves.upd] | (show configReg _ = false; simp) | intro _ _ _
    | intro _ _ | intro _ | dsimp only | split | rfl | assumption

theorem leaving_execFixVote (m : Packet) : Leaving B s (execFixVote m s) := by
  unfold execFixVote
  refine Leaving.act fun d h => ?_
  try dsimp only
  repeat' first
    | with_reducible assumption | with_reducible exact h | with_reducible exact LeavesOpt.none
    | with_reducible apply Leaves.takePacket | with_reducible apply Leaves.stray | with_reducible apply Leaves.runVote
    | with_reducible apply LeavesOpt.some | with_reducible apply LeavesOpt.ite | with_reducible apply Leaves.ite
    | with_reducible apply Leaves.ite1 | with_reducible apply Leaves.ite2 | with_reducible apply Leaves.foldl
    | with_reducible apply Leaves.foldl_fst | with_reducible apply Leaves.foldl_snd | simp only [Leaves.upd]
    | (show configReg _ = false; simp) | intro _ _ _ | intro _ _ | intro _ | dsimp only | split | rfl | assumption

theorem leaving_execFixTimeout  : Leaving B s (execFixTimeout s) := by
  unfold execFixTimeout
  refine Leaving.act fun d h => ?_
  try dsimp only
  repeat' first
    | with_reducible assumption | with_reducible exact h | with_reducible exact LeavesOpt.none
    | with_reducible apply Leaves.rejectRun | with_reducible apply LeavesOpt.some | with_reducible apply LeavesOpt.ite
    | with_reducible apply Leaves.ite | with_reducible apply Leaves.ite1 | with_reducible apply Leaves.ite2
    | with_reducible apply Leaves.foldl | with_reducible apply Leaves.foldl_fst
    | with_reducible apply Leaves.foldl_snd | simp only [Leaves.upd] | (show configReg _ = false; simp) | intro _ _ _
    | intro _ _ | intro _ | dsimp only | split | rfl | assumption

theorem leaving_execSkRequest (m : Packet) : Leaving B s (execSkRequest m s) := by
  unfold execSkRequest
  refine Leaving.skMessage fun x d h => ?_
  try dsimp only
  repeat' first
    | with_reducible assumption | with_reducible exact h | with_reducible exact LeavesOpt.none
    | with_reducible apply Leaves.takeRequest | with_reducible apply LeavesOpt.some
    | with_reducible apply LeavesOpt.ite | with_reducible apply Leaves.ite | with_reducible apply Leaves.ite1
    | with_reducible apply Leaves.ite2 | with_reducible apply Leaves.foldl | with_reducible apply Leaves.foldl_fst
    | with_reducible apply Leaves.foldl_snd | simp only [Leaves.upd] | (show configReg _ = false; simp) | intro _ _ _
    | intro _ _ | intro _ | dsimp only | split | rfl | assumption

theorem leaving_execSkAccept (m : Packet) : Leaving B s (execSkAccept m s) := by
  unfold execSkAccept
  refine Leaving.skMessage fun x d h => ?_
  try dsimp only
  repeat' first
    | with_reducible assumption | with_reducible exact h | with_reducible exact LeavesOpt.none
    | with_reducible apply Leaves.aboutRequest | with_reducible apply Leaves.decideRollback
    | with_reducible apply LeavesOpt.some | with_reducible apply LeavesOpt.ite | with_reducible apply Leaves.ite
    | with_reducible apply Leaves.ite1 | with_reducible apply Leaves.ite2 | with_reducible apply Leaves.foldl
    | with_reducible apply Leaves.foldl_fst | with_reducible apply Leaves.foldl_snd | simp only [Leaves.upd]
    | (show configReg _ = false; simp) | intro _ _ _ | intro _ _ | intro _ | dsimp only | split | rfl | assumption

theorem leaving_execSkVerdict (m : Packet) : Leaving B s (execSkVerdict m s) := by
  unfold execSkVerdict
  refine Leaving.skMessage fun x d h => ?_
  try dsimp only
  repeat' first
    | with_reducible assumption | with_reducible exact h | with_reducible exact LeavesOpt.none
    | with_reducible apply Leaves.aboutRequest | with_reducible apply Leaves.decideFix
    | with_reducible apply Leaves.addSat | with_reducible apply Leaves.sendDecision
    | with_reducible apply Leaves.putRequest | with_reducible apply LeavesOpt.some
    | with_reducible apply LeavesOpt.ite | with_reducible apply Leaves.ite | with_reducible apply Leaves.ite1
    | with_reducible apply Leaves.ite2 | with_reducible apply Leaves.foldl | with_reducible apply Leaves.foldl_fst
    | with_reducible apply Leaves.foldl_snd | simp only [Leaves.upd] | (show configReg _ = false; simp) | intro _ _ _
    | intro _ _ | intro _ | dsimp only | split | rfl | assumption

theorem leaving_execSkDecision (m : Packet) : Leaving B s (execSkDecision m s) := by
  unfold execSkDecision
  refine Leaving.skMessage fun x d h => ?_
  try dsimp only
  repeat' first
    | with_reducible assumption | with_reducible exact h | with_reducible exact LeavesOpt.none
    | with_reducible apply Leaves.takeDecision | with_reducible apply LeavesOpt.some
    | with_reducible apply LeavesOpt.ite | with_reducible apply Leaves.ite | with_reducible apply Leaves.ite1
    | with_reducible apply Leaves.ite2 | with_reducible apply Leaves.foldl | with_reducible apply Leaves.foldl_fst
    | with_reducible apply Leaves.foldl_snd | simp only [Leaves.upd] | (show configReg _ = false; simp) | intro _ _ _
    | intro _ _ | intro _ | dsimp only | split | rfl | assumption

theorem leaving_execSkCancel (m : Packet) : Leaving B s (execSkCancel m s) := by
  unfold execSkCancel
  refine Leaving.skMessage fun x d h => ?_
  try dsimp only
  repeat' first
    | with_reducible assumption | with_reducible exact h | with_reducible exact LeavesOpt.none
    | with_reducible apply LeavesOpt.some | with_reducible apply LeavesOpt.ite | with_reducible apply Leaves.ite
    | with_reducible apply Leaves.ite1 | with_reducible apply Leaves.ite2 | with_reducible apply Leaves.foldl
    | with_reducible apply Leaves.foldl_fst | with_reducible apply Leaves.foldl_snd | simp only [Leaves.upd]
    | (show configReg _ = false; simp) | intro _ _ _ | intro _ _ | intro _ | dsimp only | split | rfl | assumption

theorem leaving_execSkTimeout  : Leaving B s (execSkTimeout s) := by
  unfold execSkTimeout
  refine Leaving.act fun d h => ?_
  try dsimp only
  repeat' first
    | with_reducible assumption | with_reducible exact h | with_reducible exact LeavesOpt.none
    | with_reducible apply Leaves.decideRollback | with_reducible apply LeavesOpt.some
    | with_reducible apply LeavesOpt.ite | with_reducible apply Leaves.ite | with_reducible apply Leaves.ite1
    | with_reducible apply Leaves.ite2 | with_reducible apply Leaves.foldl | with_reducible apply Leaves.foldl_fst
    | with_reducible apply Leaves.foldl_snd | simp only [Leaves.upd] | (show configReg _ = false; simp) | intro _ _ _
    | intro _ _ | intro _ | dsimp only | split | rfl | assumption

theorem leaving_execFlushCount (m : Packet) : Leaving B s (execFlushCount m s) := by
  unfold execFlushCount
  refine Leaving.act fun d h => ?_
  try dsimp only
  repeat' first
    | with_reducible assumption | with_reducible exact h | with_reducible exact LeavesOpt.none
    | with_reducible apply Leaves.takePacket | with_reducible apply Leaves.runFlush
    | with_reducible apply LeavesOpt.some | with_reducible apply LeavesOpt.ite | with_reducible apply Leaves.ite
    | with_reducible apply Leaves.ite1 | with_reducible apply Leaves.ite2 | with_reducible apply Leaves.foldl
    | with_reducible apply Leaves.foldl_fst | with_reducible apply Leaves.foldl_snd | simp only [Leaves.upd]
    | (show configReg _ = false; simp) | intro _ _ _ | intro _ _ | intro _ | dsimp only | split | rfl | assumption

theorem leaving_execLogmarkNote  : Leaving noBytes s (execLogmarkNote s) := by
  unfold execLogmarkNote
  exact Leaving.logmark

theorem leaving_execLogmarkTensor (ev : OpEvents) : Leaving noBytes s (execLogmarkTensor ev s) := by
  unfold execLogmarkTensor
  exact Leaving.logmark

theorem leaving_execLogmarkRange (ev : OpEvents) : Leaving noBytes s (execLogmarkRange ev s) := by
  unfold execLogmarkRange
  exact Leaving.logmark

theorem leaving_execLogNextRead (hart : Fin 28) : Leaving B s (execLogNextRead hart s) :=
  Leaving.hartReads fun _ h => h.readLogNext

theorem leaving_execLogSpill  : Leaving B s (execLogSpill s) := by
  unfold execLogSpill
  refine Leaving.act fun d h => ?_
  try dsimp only
  repeat' first
    | with_reducible assumption | with_reducible exact h | with_reducible exact LeavesOpt.none
    | with_reducible apply Leaves.startSpill | with_reducible apply LeavesOpt.some
    | with_reducible apply LeavesOpt.ite | with_reducible apply Leaves.ite | with_reducible apply Leaves.ite1
    | with_reducible apply Leaves.ite2 | with_reducible apply Leaves.foldl | with_reducible apply Leaves.foldl_fst
    | with_reducible apply Leaves.foldl_snd | simp only [Leaves.upd] | (show configReg _ = false; simp) | intro _ _ _
    | intro _ _ | intro _ | dsimp only | split | rfl | assumption

theorem leaving_execSpillComplete (ok : Bool) : Leaving B s (execSpillComplete ok s) := by
  unfold execSpillComplete
  refine Leaving.act fun d h => ?_
  try dsimp only
  repeat' first
    | with_reducible assumption | with_reducible exact h | with_reducible exact LeavesOpt.none
    | with_reducible apply Leaves.releaseHeld | with_reducible apply Leaves.spill
    | with_reducible apply Leaves.pageFault | with_reducible apply LeavesOpt.some | with_reducible apply LeavesOpt.ite
    | with_reducible apply Leaves.ite | with_reducible apply Leaves.ite1 | with_reducible apply Leaves.ite2
    | with_reducible apply Leaves.foldl | with_reducible apply Leaves.foldl_fst
    | with_reducible apply Leaves.foldl_snd | simp only [Leaves.upd] | (show configReg _ = false; simp) | intro _ _ _
    | intro _ _ | intro _ | dsimp only | split | rfl | assumption

theorem leaving_execPtpMessage (m : PtpMessage) : Leaving B s (execPtpMessage m s) := by
  unfold execPtpMessage
  refine Leaving.act fun d h => ?_
  try dsimp only
  repeat' first
    | with_reducible assumption | with_reducible exact h | with_reducible exact LeavesOpt.none
    | with_reducible apply Leaves.servo | with_reducible apply LeavesOpt.some | with_reducible apply LeavesOpt.ite
    | with_reducible apply Leaves.ite | with_reducible apply Leaves.ite1 | with_reducible apply Leaves.ite2
    | with_reducible apply Leaves.foldl | with_reducible apply Leaves.foldl_fst
    | with_reducible apply Leaves.foldl_snd | simp only [Leaves.upd] | (show configReg _ = false; simp) | intro _ _ _
    | intro _ _ | intro _ | dsimp only | split | rfl | assumption

theorem leaving_execOperationBoundary (st : Stream) : Leaving B s (execOperationBoundary st s) := by
  unfold execOperationBoundary
  refine Leaving.act fun d h => ?_
  try dsimp only
  repeat' first
    | with_reducible assumption | with_reducible exact h | with_reducible exact LeavesOpt.none
    | with_reducible apply Leaves.complete | with_reducible apply Leaves.applyLate | with_reducible apply Leaves.park
    | with_reducible apply Leaves.leaveMaps | with_reducible apply Leaves.settle
    | with_reducible apply Leaves.returnMargins | with_reducible apply LeavesOpt.some
    | with_reducible apply LeavesOpt.ite | with_reducible apply Leaves.ite | with_reducible apply Leaves.ite1
    | with_reducible apply Leaves.ite2 | with_reducible apply Leaves.foldl | with_reducible apply Leaves.foldl_fst
    | with_reducible apply Leaves.foldl_snd | simp only [Leaves.upd] | (show configReg _ = false; simp) | intro _ _ _
    | intro _ _ | intro _ | dsimp only | split | rfl | assumption

theorem leaving_execGraceExpiry  : Leaving B s (execGraceExpiry s) := by
  unfold execGraceExpiry
  refine Leaving.act fun d h => ?_
  try dsimp only
  repeat' first
    | with_reducible assumption | with_reducible exact h | with_reducible exact LeavesOpt.none
    | with_reducible apply Leaves.startQuiesce | with_reducible apply LeavesOpt.some
    | with_reducible apply LeavesOpt.ite | with_reducible apply Leaves.ite | with_reducible apply Leaves.ite1
    | with_reducible apply Leaves.ite2 | with_reducible apply Leaves.foldl | with_reducible apply Leaves.foldl_fst
    | with_reducible apply Leaves.foldl_snd | simp only [Leaves.upd] | (show configReg _ = false; simp) | intro _ _ _
    | intro _ _ | intro _ | dsimp only | split | rfl | assumption

theorem leaving_execHotQuiesceWrite (hart : Fin 28) (value : Word) : Leaving B s (execHotQuiesceWrite hart value s) := by
  unfold execHotQuiesceWrite
  refine Leaving.byHart fun d h => ?_
  try dsimp only
  repeat' first
    | with_reducible assumption | with_reducible exact h | with_reducible exact LeavesOpt.none
    | with_reducible apply Leaves.setFlag | with_reducible apply Leaves.store
    | with_reducible apply Leaves.startQuiesce | with_reducible apply LeavesOpt.some
    | with_reducible apply LeavesOpt.ite | with_reducible apply Leaves.ite | with_reducible apply Leaves.ite1
    | with_reducible apply Leaves.ite2 | with_reducible apply Leaves.foldl | with_reducible apply Leaves.foldl_fst
    | with_reducible apply Leaves.foldl_snd | simp only [Leaves.upd] | (show configReg _ = false; simp) | intro _ _ _
    | intro _ _ | intro _ | dsimp only | split | rfl | assumption

theorem leaving_execShedLevelEnter (level : Fin 6) (input : List InputRun) : Leaving B s (execShedLevelEnter level s input) :=
  Leaving.after (State.sample_dev s input) (Leaving.act fun _ h => Leaves.ite (h.enterLevel _ _) h)

theorem leaving_execShedLevelLeave (input : List InputRun) : Leaving B s (execShedLevelLeave s input) :=
  Leaving.after (State.sample_dev s input) (Leaving.act fun _ h => h.leaveLevel _)

theorem leaving_execStateRequestActive (hart : Fin 28) (page : Page) (gen : BitVec 8) : Leaving noBytes s (execStateRequestActive hart page gen s) := by
  unfold execStateRequestActive
  exact Leaving.request

theorem leaving_execStateRequestDraining (hart : Fin 28) (page : Page) (gen : BitVec 8) : Leaving noBytes s (execStateRequestDraining hart page gen s) := by
  unfold execStateRequestDraining
  exact Leaving.request

theorem leaving_execStateRequestReady (hart : Fin 28) (page : Page) (gen : BitVec 8) : Leaving noBytes s (execStateRequestReady hart page gen s) := by
  unfold execStateRequestReady
  exact Leaving.request

theorem leaving_execStateRequestQuarantine (hart : Fin 28) (page : Page) (gen : BitVec 8) : Leaving noBytes s (execStateRequestQuarantine hart page gen s) := by
  unfold execStateRequestQuarantine
  exact Leaving.request

theorem leaving_execDrainComplete (page : Page) : Leaving noBytes s (execDrainComplete page s) := by
  unfold execDrainComplete
  refine Leaving.act fun d h => ?_
  try dsimp only
  repeat' first
    | with_reducible assumption | with_reducible exact h | with_reducible exact LeavesOpt.none
    | with_reducible apply Leaves.completeDrain | with_reducible apply LeavesOpt.some
    | with_reducible apply LeavesOpt.ite | with_reducible apply Leaves.ite | with_reducible apply Leaves.ite1
    | with_reducible apply Leaves.ite2 | with_reducible apply Leaves.foldl | with_reducible apply Leaves.foldl_fst
    | with_reducible apply Leaves.foldl_snd | simp only [Leaves.upd] | (show configReg _ = false; simp) | intro _ _ _
    | intro _ _ | intro _ | dsimp only | split | rfl | assumption

theorem leaving_execSeqCounterAdd (hart : Fin 28) (st : Stream) (value : Word) : Leaving B s (execSeqCounterAdd hart st value s) := by
  unfold execSeqCounterAdd
  refine Leaving.byHart fun d h => ?_
  try dsimp only
  repeat' first
    | with_reducible assumption | with_reducible exact h | with_reducible exact LeavesOpt.none
    | with_reducible apply Leaves.raiseCounter | with_reducible apply LeavesOpt.some
    | with_reducible apply LeavesOpt.ite | with_reducible apply Leaves.ite | with_reducible apply Leaves.ite1
    | with_reducible apply Leaves.ite2 | with_reducible apply Leaves.foldl | with_reducible apply Leaves.foldl_fst
    | with_reducible apply Leaves.foldl_snd | simp only [Leaves.upd] | (show configReg _ = false; simp) | intro _ _ _
    | intro _ _ | intro _ | dsimp only | split | rfl | assumption

theorem leaving_execBfEnableWrite (hart : Fin 28) (value : Word) : Leaving B s (execBfEnableWrite hart value s) := by
  unfold execBfEnableWrite
  refine Leaving.byHart fun d h => ?_
  try dsimp only
  repeat' first
    | with_reducible assumption | with_reducible exact h | with_reducible exact LeavesOpt.none
    | with_reducible apply Leaves.writeBfCtrl | with_reducible apply LeavesOpt.some
    | with_reducible apply LeavesOpt.ite | with_reducible apply Leaves.ite | with_reducible apply Leaves.ite1
    | with_reducible apply Leaves.ite2 | with_reducible apply Leaves.foldl | with_reducible apply Leaves.foldl_fst
    | with_reducible apply Leaves.foldl_snd | simp only [Leaves.upd] | (show configReg _ = false; simp) | intro _ _ _
    | intro _ _ | intro _ | dsimp only | split | rfl | assumption

theorem leaving_execBfResume (hart : Fin 28) (value : Word) : Leaving B s (execBfResume hart value s) := by
  unfold execBfResume
  refine Leaving.byHart fun d h => ?_
  try dsimp only
  repeat' first
    | with_reducible assumption | with_reducible exact h | with_reducible exact LeavesOpt.none
    | with_reducible apply Leaves.writeBfCtrl | with_reducible apply LeavesOpt.some
    | with_reducible apply LeavesOpt.ite | with_reducible apply Leaves.ite | with_reducible apply Leaves.ite1
    | with_reducible apply Leaves.ite2 | with_reducible apply Leaves.foldl | with_reducible apply Leaves.foldl_fst
    | with_reducible apply Leaves.foldl_snd | simp only [Leaves.upd] | (show configReg _ = false; simp) | intro _ _ _
    | intro _ _ | intro _ | dsimp only | split | rfl | assumption

theorem leaving_execChkCoreReq (hart : Fin 28) (value : Word) : Leaving B s (execChkCoreReq hart value s) := by
  unfold execChkCoreReq
  refine Leaving.byHart fun d h => ?_
  try dsimp only
  repeat' first
    | with_reducible assumption | with_reducible exact h | with_reducible exact LeavesOpt.none
    | with_reducible apply Leaves.coreRequest | with_reducible apply LeavesOpt.some
    | with_reducible apply LeavesOpt.ite | with_reducible apply Leaves.ite | with_reducible apply Leaves.ite1
    | with_reducible apply Leaves.ite2 | with_reducible apply Leaves.foldl | with_reducible apply Leaves.foldl_fst
    | with_reducible apply Leaves.foldl_snd | simp only [Leaves.upd] | (show configReg _ = false; simp) | intro _ _ _
    | intro _ _ | intro _ | dsimp only | split | rfl | assumption

theorem leaving_execPin (hart : Fin 28) (value : Word) : Leaving B s (execPin hart value s) := by
  unfold execPin
  refine Leaving.byHart fun d h => ?_
  try dsimp only
  repeat' first
    | with_reducible assumption | with_reducible exact h | with_reducible exact LeavesOpt.none
    | with_reducible apply Leaves.writeRingCtrl | with_reducible apply LeavesOpt.some
    | with_reducible apply LeavesOpt.ite | with_reducible apply Leaves.ite | with_reducible apply Leaves.ite1
    | with_reducible apply Leaves.ite2 | with_reducible apply Leaves.foldl | with_reducible apply Leaves.foldl_fst
    | with_reducible apply Leaves.foldl_snd | simp only [Leaves.upd] | (show configReg _ = false; simp) | intro _ _ _
    | intro _ _ | intro _ | dsimp only | split | rfl | assumption

theorem leaving_execUnpin (hart : Fin 28) (value : Word) : Leaving B s (execUnpin hart value s) := by
  unfold execUnpin
  refine Leaving.byHart fun d h => ?_
  try dsimp only
  repeat' first
    | with_reducible assumption | with_reducible exact h | with_reducible exact LeavesOpt.none
    | with_reducible apply Leaves.writeRingCtrl | with_reducible apply LeavesOpt.some
    | with_reducible apply LeavesOpt.ite | with_reducible apply Leaves.ite | with_reducible apply Leaves.ite1
    | with_reducible apply Leaves.ite2 | with_reducible apply Leaves.foldl | with_reducible apply Leaves.foldl_fst
    | with_reducible apply Leaves.foldl_snd | simp only [Leaves.upd] | (show configReg _ = false; simp) | intro _ _ _
    | intro _ _ | intro _ | dsimp only | split | rfl | assumption

theorem leaving_execRedStepNfForce (hart : Fin 28) (value : Word) : Leaving B s (execRedStepNfForce hart value s) := by
  unfold execRedStepNfForce
  refine Leaving.byHart fun d h => ?_
  try dsimp only
  repeat' first
    | with_reducible assumption | with_reducible exact h | with_reducible exact LeavesOpt.none
    | with_reducible apply Leaves.setLocalNf | with_reducible apply LeavesOpt.some
    | with_reducible apply LeavesOpt.ite | with_reducible apply Leaves.ite | with_reducible apply Leaves.ite1
    | with_reducible apply Leaves.ite2 | with_reducible apply Leaves.foldl | with_reducible apply Leaves.foldl_fst
    | with_reducible apply Leaves.foldl_snd | simp only [Leaves.upd] | (show configReg _ = false; simp) | intro _ _ _
    | intro _ _ | intro _ | dsimp only | split | rfl | assumption

theorem leaving_execHubIfaceOffer (hart : Fin 28) (value : Word) : Leaving B s (execHubIfaceOffer hart value s) := by
  unfold execHubIfaceOffer
  refine Leaving.byHart fun d h => ?_
  try dsimp only
  repeat' first
    | with_reducible assumption | with_reducible exact h | with_reducible exact LeavesOpt.none
    | with_reducible apply Leaves.setFld | with_reducible apply Leaves.setFlag | with_reducible apply LeavesOpt.some
    | with_reducible apply LeavesOpt.ite | with_reducible apply Leaves.ite | with_reducible apply Leaves.ite1
    | with_reducible apply Leaves.ite2 | with_reducible apply Leaves.foldl | with_reducible apply Leaves.foldl_fst
    | with_reducible apply Leaves.foldl_snd | simp only [Leaves.upd] | (show configReg _ = false; simp) | intro _ _ _
    | intro _ _ | intro _ | dsimp only | split | rfl | assumption

theorem leaving_execEvForceWrite (hart : Fin 28) (page : Page) (value : Word) : Leaving B s (execEvForceWrite hart page value s) := by
  unfold execEvForceWrite
  refine Leaving.access fun d h => ?_
  try dsimp only
  repeat' first
    | with_reducible assumption | with_reducible exact h | with_reducible exact LeavesOpt.none
    | with_reducible apply Leaves.acts | with_reducible apply LeavesOpt.some | with_reducible apply LeavesOpt.ite
    | with_reducible apply Leaves.ite | with_reducible apply Leaves.ite1 | with_reducible apply Leaves.ite2
    | with_reducible apply Leaves.foldl | with_reducible apply Leaves.foldl_fst
    | with_reducible apply Leaves.foldl_snd | simp only [Leaves.upd] | (show configReg _ = false; simp) | intro _ _ _
    | intro _ _ | intro _ | dsimp only | split | rfl | assumption

theorem leaving_execAbsentPageAccess (hart : Fin 28) (addr : Nat) (write : Bool) :
    Leaving B s (execAbsentPageAccess hart addr write s) := by
  unfold execAbsentPageAccess
  split
  · rename_i a _
    refine Leaving.ite ?_ Leaving.same
    have h : Leaves B s.dev (s.byHart hart fun d => d.badAccess hart a write).dev := by
      unfold State.byHart
      split
      · exact Leaves.refl.badAccess _ _ _
      · exact Leaves.refl
    dsimp only
    generalize s.byHart hart (fun d => d.badAccess hart a write) = u at h
    split
    · exact Leaving.next h
    · unfold State.onHart
      split
      · exact Leaving.next h
      · exact Leaving.next h
  · exact Leaving.same

theorem leaving_execAccessFault (hart : Fin 28) (addr width : Nat) (write : Bool) :
    Leaving B s (execAccessFault hart addr width write s) := by
  refine Leaving.ite (Leaving.same ?_) Leaving.same
  unfold State.onHart
  split <;> rfl

theorem leaving_execMbxPutLo (hart : Fin 28) (mailbox : Fin 32) (value : Word) :
    Leaving B s (execMbxPutLo hart mailbox value s) := Leaving.atMailbox fun _ => Leaving.same

theorem leaving_execMbxPutHi (hart : Fin 28) (mailbox : Fin 32) (value : Word) :
    Leaving B s (execMbxPutHi hart mailbox value s) :=
  Leaving.atMailbox fun _ => Leaving.next (Leaves.ite (Leaves.refl.raise _ _) (Leaves.refl.irqEdge _))

theorem leaving_execMbxGetLo (hart : Fin 28) (mailbox : Fin 32) : Leaving B s (execMbxGetLo hart mailbox s) :=
  Leaving.readMailbox

theorem leaving_execMbxGetHi (hart : Fin 28) (mailbox : Fin 32) : Leaving B s (execMbxGetHi hart mailbox s) :=
  Leaving.readMailbox

theorem leaving_execMbxOwnerWrite (hart : Fin 28) (mailbox : Fin 32) (value : Word) :
    Leaving B s (execMbxOwnerWrite hart mailbox value s) := Leaving.atMailbox fun _ => Leaving.same

theorem leaving_execIrqClaim (hart reader : Fin 28) : Leaving B s (execIrqClaim hart reader s) := by
  unfold execIrqClaim
  refine Leaving.atMailbox fun r => ?_
  dsimp only
  split
  · exact Leaving.same
  · exact Leaving.next (Leaves.refl.claimed _ _)

theorem leaving_execIrqComplete (hart writer : Fin 28) (value : Word) : Leaving B s (execIrqComplete hart writer value s) := by
  unfold execIrqComplete
  refine Leaving.atMailbox fun r => Leaving.ite Leaving.same ?_
  split
  · exact Leaving.ite Leaving.same (Leaving.next (Leaves.refl.raise _ _))
  · exact Leaving.next (Leaves.refl.raise _ _)

theorem leaving_execIrqSwTrigger (hart : Fin 28) (value : Word) : Leaving B s (execIrqSwTrigger hart value s) := by
  unfold execIrqSwTrigger
  refine Leaving.byHart fun d h => ?_
  try dsimp only
  repeat' first
    | with_reducible assumption | with_reducible exact h | with_reducible exact LeavesOpt.none
    | with_reducible apply Leaves.irqEdge | with_reducible apply LeavesOpt.some | with_reducible apply LeavesOpt.ite
    | with_reducible apply Leaves.ite | with_reducible apply Leaves.ite1 | with_reducible apply Leaves.ite2
    | with_reducible apply Leaves.foldl | with_reducible apply Leaves.foldl_fst
    | with_reducible apply Leaves.foldl_snd | simp only [Leaves.upd] | (show configReg _ = false; simp) | intro _ _ _
    | intro _ _ | intro _ | dsimp only | split | rfl | assumption

theorem leaving_execIrqMissedClear (hart : Fin 28) (value : Word) : Leaving B s (execIrqMissedClear hart value s) := by
  unfold execIrqMissedClear
  refine Leaving.byHart fun d h => ?_
  try dsimp only
  repeat' first
    | with_reducible assumption | with_reducible exact h | with_reducible exact LeavesOpt.none
    | with_reducible apply Leaves.setFld | with_reducible apply LeavesOpt.some | with_reducible apply LeavesOpt.ite
    | with_reducible apply Leaves.ite | with_reducible apply Leaves.ite1 | with_reducible apply Leaves.ite2
    | with_reducible apply Leaves.foldl | with_reducible apply Leaves.foldl_fst
    | with_reducible apply Leaves.foldl_snd | simp only [Leaves.upd] | (show configReg _ = false; simp) | intro _ _ _
    | intro _ _ | intro _ | dsimp only | split | rfl | assumption

theorem leaving_execHoldoffExpiry (group : Fin 32) : Leaving B s (execHoldoffExpiry group s) := by
  unfold execHoldoffExpiry
  refine Leaving.act fun d h => ?_
  try dsimp only
  repeat' first
    | with_reducible assumption | with_reducible exact h | with_reducible exact LeavesOpt.none
    | with_reducible apply LeavesOpt.some | with_reducible apply LeavesOpt.ite | with_reducible apply Leaves.ite
    | with_reducible apply Leaves.ite1 | with_reducible apply Leaves.ite2 | with_reducible apply Leaves.foldl
    | with_reducible apply Leaves.foldl_fst | with_reducible apply Leaves.foldl_snd | simp only [Leaves.upd]
    | (show configReg _ = false; simp) | intro _ _ _ | intro _ _ | intro _ | dsimp only | split | rfl | assumption

theorem leaving_execExtInputRawChange (input : Fin 5) (level : Bool) : Leaving B s (execExtInputRawChange input level s) :=
  Leaving.ite Leaving.same (Leaving.ite Leaving.same (Leaving.next (Leaves.refl.setInput _ _)))

theorem leaving_execExtInputFiltered (input : Fin 5) : Leaving B s (execExtInputFiltered input s) := by
  unfold execExtInputFiltered
  refine Leaving.act fun d h => ?_
  try dsimp only
  repeat' first
    | with_reducible assumption | with_reducible exact h | with_reducible exact LeavesOpt.none
    | with_reducible apply Leaves.filterInput | with_reducible apply LeavesOpt.some
    | with_reducible apply LeavesOpt.ite | with_reducible apply Leaves.ite | with_reducible apply Leaves.ite1
    | with_reducible apply Leaves.ite2 | with_reducible apply Leaves.foldl | with_reducible apply Leaves.foldl_fst
    | with_reducible apply Leaves.foldl_snd | simp only [Leaves.upd] | (show configReg _ = false; simp) | intro _ _ _
    | intro _ _ | intro _ | dsimp only | split | rfl | assumption

theorem leaving_execInputStuck (input : Fin 5) : Leaving B s (execInputStuck input s) := by
  unfold execInputStuck
  refine Leaving.act fun d h => ?_
  try dsimp only
  repeat' first
    | with_reducible assumption | with_reducible exact h | with_reducible exact LeavesOpt.none
    | with_reducible apply Leaves.raiseLogged | with_reducible apply Leaves.irqEdge
    | with_reducible apply Leaves.setInput | with_reducible apply LeavesOpt.some | with_reducible apply LeavesOpt.ite
    | with_reducible apply Leaves.ite | with_reducible apply Leaves.ite1 | with_reducible apply Leaves.ite2
    | with_reducible apply Leaves.foldl | with_reducible apply Leaves.foldl_fst
    | with_reducible apply Leaves.foldl_snd | simp only [Leaves.upd] | (show configReg _ = false; simp) | intro _ _ _
    | intro _ _ | intro _ | dsimp only | split | rfl | assumption

theorem leaving_execPpsEdge  : Leaving B s (execPpsEdge s) := by
  unfold execPpsEdge
  exact Leaving.act fun d h => h.ppsEdge

theorem leaving_execRefclkPresent : Leaving B s (execRefclkPresent s) := Leaving.ite Leaving.same Leaving.same

theorem leaving_execRefclkLoss : Leaving B s (execRefclkLoss s) :=
  Leaving.ite Leaving.same (Leaving.next (Leaves.ite Leaves.refl.packageFault Leaves.refl))

theorem leaving_execDramFillComplete (stack : Fin 24) : Leaving B s (execDramFillComplete stack s) := by
  unfold execDramFillComplete
  refine Leaving.act fun d h => ?_
  try dsimp only
  repeat' first
    | with_reducible assumption | with_reducible exact h | with_reducible exact LeavesOpt.none
    | with_reducible apply Leaves.raise | with_reducible apply Leaves.moveTo | with_reducible apply LeavesOpt.some
    | with_reducible apply LeavesOpt.ite | with_reducible apply Leaves.ite | with_reducible apply Leaves.ite1
    | with_reducible apply Leaves.ite2 | with_reducible apply Leaves.foldl | with_reducible apply Leaves.foldl_fst
    | with_reducible apply Leaves.foldl_snd | simp only [Leaves.upd] | (show configReg _ = false; simp) | intro _ _ _
    | intro _ _ | intro _ | dsimp only | split | rfl | assumption

theorem leaving_execSramParityError (addr : Nat) : Leaving B s (execSramParityError addr s) := by
  unfold execSramParityError
  refine Leaving.act fun d h => ?_
  try dsimp only
  repeat' first
    | with_reducible assumption | with_reducible exact h | with_reducible exact LeavesOpt.none
    | with_reducible apply Leaves.crash | with_reducible apply Leaves.packageFault | with_reducible apply Leaves.raise
    | with_reducible apply LeavesOpt.some | with_reducible apply LeavesOpt.ite | with_reducible apply Leaves.ite
    | with_reducible apply Leaves.ite1 | with_reducible apply Leaves.ite2 | with_reducible apply Leaves.foldl
    | with_reducible apply Leaves.foldl_fst | with_reducible apply Leaves.foldl_snd | simp only [Leaves.upd]
    | (show configReg _ = false; simp) | intro _ _ _ | intro _ _ | intro _ | dsimp only | split | rfl | assumption

theorem leaving_execSupplyApplied : Leaving B s (execSupplyApplied s) := Leaving.ite Leaving.same Leaving.same

theorem leaving_execPrsntMate : Leaving B s (execPrsntMate s) := Leaving.ite Leaving.same Leaving.same

theorem leaving_execInsertionDebounceEnd (input : List InputRun) : Leaving B s (execInsertionDebounceEnd s input) :=
  Leaving.after (State.sample_dev s input) (Leaving.ite Leaving.same Leaving.same)

theorem leaving_execRampComplete : Leaving B s (execRampComplete s) :=
  Leaving.ite (Leaving.next Leaves.refl.drawWord) Leaving.same

theorem leaving_execRampFault : Leaving B s (execRampFault s) := Leaving.ite Leaving.same Leaving.same

theorem leaving_execRampRetry : Leaving B s (execRampRetry s) := Leaving.ite Leaving.same Leaving.same

theorem leaving_execPrsntBreak : Leaving B s (execPrsntBreak s) := by
  unfold execPrsntBreak
  split
  · exact Leaving.same
  · exact Leaving.same
  · exact Leaving.ite Leaving.same Leaving.same

theorem leaving_execControlledPowerOff : Leaving B s (execControlledPowerOff s) :=
  Leaving.ite (Leaving.ite (Leaving.next Leaves.refl.cutSpill) (Leaving.ite (Leaving.next Leaves.refl.cutSpill) Leaving.same))
    Leaving.same

theorem leaving_execSagRestart (input : List InputRun) : Leaving B s (execSagRestart s input) :=
  Leaving.after (State.sample_dev s input) (Leaving.ite Leaving.same Leaving.same)

theorem leaving_execThermalTrip (cause : TripCause) : Leaving B s (execThermalTrip cause s) :=
  Leaving.ite (Leaving.next Leaves.refl.cutSpill) Leaving.same

theorem leaving_execTripRestart : Leaving B s (execTripRestart s) := Leaving.ite Leaving.same Leaving.same

theorem leaving_execRailFault (rail : Rail) (microvolts : Nat) : Leaving B s (execRailFault rail s microvolts) := by
  unfold execRailFault
  refine Leaving.ite ?_ Leaving.same
  split
  · exact Leaving.ite (Leaving.next ((Leaves.refl.raise _ _).cluTo _ _)) Leaving.same
  · exact Leaving.next (Leaves.refl.railFault _).cutSpill

theorem leaving_execCopy (st : Stream) (ev : OpEvents) : Leaving noBytes s (execCopy st ev s) := by
  unfold execCopy
  exact Leaving.copy

theorem leaving_execTranspose (st : Stream) (ev : OpEvents) : Leaving noBytes s (execTranspose st ev s) := by
  unfold execTranspose
  exact Leaving.copy

theorem leaving_execPowerManagerPeriod (input : List InputRun) (watts peakWatts : Nat) :
    Leaving B s (execPowerManagerPeriod input watts peakWatts s) :=
  Leaving.after (State.sample_dev s input) (Leaving.act fun _ h => Leaves.ite (h.powerPeriod _ _ _) h)

theorem leaving_execThermalPeriod (sensors : List DieSensors) (inletC : Int) (outletC : Int) : Leaving B s (execThermalPeriod sensors inletC outletC s) := by
  unfold execThermalPeriod
  refine Leaving.act fun d h => ?_
  try dsimp only
  repeat' first
    | with_reducible assumption | with_reducible exact h | with_reducible exact LeavesOpt.none
    | with_reducible apply Leaves.thermalPeriod | with_reducible apply LeavesOpt.some
    | with_reducible apply LeavesOpt.ite | with_reducible apply Leaves.ite | with_reducible apply Leaves.ite1
    | with_reducible apply Leaves.ite2 | with_reducible apply Leaves.foldl | with_reducible apply Leaves.foldl_fst
    | with_reducible apply Leaves.foldl_snd | simp only [Leaves.upd] | (show configReg _ = false; simp) | intro _ _ _
    | intro _ _ | intro _ | dsimp only | split | rfl | assumption

theorem leaving_execCycleStretch (cluster : Fin 2400) : Leaving B s (execCycleStretch cluster s) := by
  unfold execCycleStretch
  refine Leaving.act fun d h => ?_
  try dsimp only
  repeat' first
    | with_reducible assumption | with_reducible exact h | with_reducible exact LeavesOpt.none
    | with_reducible apply Leaves.raise | with_reducible apply Leaves.addSatFld | with_reducible apply LeavesOpt.some
    | with_reducible apply LeavesOpt.ite | with_reducible apply Leaves.ite | with_reducible apply Leaves.ite1
    | with_reducible apply Leaves.ite2 | with_reducible apply Leaves.foldl | with_reducible apply Leaves.foldl_fst
    | with_reducible apply Leaves.foldl_snd | simp only [Leaves.upd] | (show configReg _ = false; simp) | intro _ _ _
    | intro _ _ | intro _ | dsimp only | split | rfl | assumption

theorem leaving_execRegisterLoRead (hart : Fin 28) (addr : Nat) : Leaving B s (execRegisterLoRead hart addr s) := by
  unfold execRegisterLoRead
  split
  · split
    · refine Leaving.ite (Leaving.same ?_) Leaving.same
      unfold State.onHart
      split <;> rfl
    · exact Leaving.same
  · exact Leaving.same

theorem leaving_execScrubRead (stack : Fin 24) (first : List Nat) (second : List Nat) : Leaving noBytes s (execScrubRead stack first second s) := by
  unfold execScrubRead
  refine Leaving.act fun d h => ?_
  try dsimp only
  repeat' first
    | with_reducible assumption | with_reducible exact h | with_reducible exact LeavesOpt.none
    | with_reducible apply Leaves.scrubbed | with_reducible apply Leaves.blockFinding
    | with_reducible apply LeavesOpt.some | with_reducible apply LeavesOpt.ite | with_reducible apply Leaves.ite
    | with_reducible apply Leaves.ite1 | with_reducible apply Leaves.ite2 | with_reducible apply Leaves.foldl
    | with_reducible apply Leaves.foldl_fst | with_reducible apply Leaves.foldl_snd | simp only [Leaves.upd]
    | (show configReg _ = false; simp) | intro _ _ _ | intro _ _ | intro _ | dsimp only | split | rfl | assumption

theorem leaving_execRollCall  : Leaving B s (execRollCall s) := by
  unfold execRollCall
  refine Leaving.act fun d h => ?_
  try dsimp only
  repeat' first
    | with_reducible assumption | with_reducible exact h | with_reducible exact LeavesOpt.none
    | with_reducible apply LeavesOpt.some | with_reducible apply LeavesOpt.ite | with_reducible apply Leaves.ite
    | with_reducible apply Leaves.ite1 | with_reducible apply Leaves.ite2 | with_reducible apply Leaves.foldl
    | with_reducible apply Leaves.foldl_fst | with_reducible apply Leaves.foldl_snd | simp only [Leaves.upd]
    | (show configReg _ = false; simp) | intro _ _ _ | intro _ _ | intro _ | dsimp only | split | rfl | assumption

theorem leaving_execMgtLinkChange (port : Fin 2) (up : Bool) : Leaving B s (execMgtLinkChange port up s) := by
  unfold execMgtLinkChange
  refine Leaving.act fun d h => ?_
  try dsimp only
  repeat' first
    | with_reducible assumption | with_reducible exact h | with_reducible exact LeavesOpt.none
    | with_reducible apply Leaves.raise | with_reducible apply LeavesOpt.some | with_reducible apply LeavesOpt.ite
    | with_reducible apply Leaves.ite | with_reducible apply Leaves.ite1 | with_reducible apply Leaves.ite2
    | with_reducible apply Leaves.foldl | with_reducible apply Leaves.foldl_fst
    | with_reducible apply Leaves.foldl_snd | simp only [Leaves.upd] | (show configReg _ = false; simp) | intro _ _ _
    | intro _ _ | intro _ | dsimp only | split | rfl | assumption

theorem leaving_execTlsHandshake (hello : TlsHello) : Leaving B s (execTlsHandshake hello s) := by
  unfold execTlsHandshake
  refine Leaving.act fun d h => ?_
  try dsimp only
  repeat' first
    | with_reducible assumption | with_reducible exact h | with_reducible exact LeavesOpt.none
    | with_reducible apply Leaves.present | with_reducible apply Leaves.raise | with_reducible apply LeavesOpt.some
    | with_reducible apply LeavesOpt.ite | with_reducible apply Leaves.ite | with_reducible apply Leaves.ite1
    | with_reducible apply Leaves.ite2 | with_reducible apply Leaves.foldl | with_reducible apply Leaves.foldl_fst
    | with_reducible apply Leaves.foldl_snd | simp only [Leaves.upd] | (show configReg _ = false; simp) | intro _ _ _
    | intro _ _ | intro _ | dsimp only | split | rfl | assumption

theorem leaving_execAttestationRequest (nonce : List Byte) : Leaving B s (execAttestationRequest nonce s) := by
  unfold execAttestationRequest
  refine Leaving.ite (Leaving.next ?_) Leaving.same
  dsimp only
  simp only [Leaves.upd]
  exact Leaves.refl.sign _

theorem leaving_execDebugUnlockToken (token : List Byte) : Leaving B s (execDebugUnlockToken token s) := by
  unfold execDebugUnlockToken
  refine Leaving.act fun d h => ?_
  try dsimp only
  repeat' first
    | with_reducible assumption | with_reducible exact h | with_reducible exact LeavesOpt.none
    | with_reducible apply Leaves.raise | with_reducible apply Leaves.setFld | with_reducible apply Leaves.refuseToken
    | with_reducible apply Leaves.newNonce | with_reducible apply LeavesOpt.some | with_reducible apply LeavesOpt.ite
    | with_reducible apply Leaves.ite | with_reducible apply Leaves.ite1 | with_reducible apply Leaves.ite2
    | with_reducible apply Leaves.foldl | with_reducible apply Leaves.foldl_fst
    | with_reducible apply Leaves.foldl_snd | simp only [Leaves.upd] | (show configReg _ = false; simp) | intro _ _ _
    | intro _ _ | intro _ | dsimp only | split | rfl | assumption

end Sys2Proof.Machine
end

