-- ==== Sys2Proof/Laws/LeaveStores.lean ====
section
/-! SUPPORT. Where the array, the vector engines and copies store: every byte they write lies in a row of an output, in an
entry of the outer-scale table, or in a block or line that a check of theirs replaced. -/
set_option linter.unusedTactic false
set_option linter.unreachableTactic false
set_option Elab.async false
namespace Sys2Proof.Machine

variable {B : Nat → Bool} {o d : Dev}

/-- No byte of a chunk is one of `B`. -/
def Chunk.avoids (B : Nat → Bool) (c : Chunk) : Prop := Avoids B c.addr c.bytes.length

theorem Mem.byte_apply {m : Mem} (h : m.wf = true) {cs : List Chunk} {a : Nat}
    (ha : ∀ c ∈ cs, a < c.addr ∨ c.addr + c.bytes.length ≤ a) : (m.apply cs).byte a = m.byte a := by
  induction cs generalizing m with
  | nil => rfl
  | cons c cs ih =>
    have h1 := ih (m := m.setBytes c.addr c.bytes) (Mem.wf_setBytes h _ _) (fun x hx => ha x (List.mem_cons_of_mem _ hx))
    exact h1.trans (Mem.byte_setBytes_outside h (ha c List.mem_cons_self))

theorem Leaves.writes (h : Leaves B o d) {cs : List Chunk} (hc : ∀ c ∈ cs, c.avoids B) : Leaves B o (d.write cs) :=
  h.memory (fun x => Mem.wf_apply x cs) fun hm a ha _ => Mem.byte_apply hm fun c hx => hc c hx a ha

/-- An operation whose effect stores outside `B`. -/
theorem Leaves.operated (h : Leaves B o d) (f : Fuse) (st : Stream) (c : Decoded) (written : List (Nat × Nat)) {ev : OpEvents}
    {effect : ByteSource → Dev → Dev} (hb : ∀ a, B a = true → replacedBy ev a = false)
    (he : ∀ src x, Leaves B o x → Leaves B o (effect src x)) : Leaves B o (d.operate f st c written ev effect) := by
  unfold Dev.operate
  exact ((he _ _ (((h.findingsBut written hb).operandSource st c).issue st c true false)).wrote st written).coreFindings f ev

/-! Outputs. -/

theorem Leaves.scaleEntry_eq (h : Leaves B o d) (hw : Assoc.wf regReset o.regs = true) (ref : Nat) :
    d.scaleEntry ref = o.scaleEntry ref ∧ d.reg Reg.sxtScaleCount = o.reg Reg.sxtScaleCount := by
  refine ⟨?_, h.config hw Reg.sxtScaleCount (by decide)⟩
  unfold Dev.scaleEntry Dev.pair
  rw [h.config hw Reg.sxtScaleBaseLo (by decide), h.config hw (Reg.sxtScaleBaseLo + 4) (by decide)]

theorem Leaves.merges (h : Leaves B o d) (hw : Assoc.wf regReset o.regs = true) (ref : Nat) (amax : Word) (n : Nat)
    (hb : ∀ a, B a = true → o.mergeHas ref a = false) : Leaves B o (d.merge ref amax n) := by
  unfold Dev.merge
  split
  case isFalse => exact h
  case isTrue hc =>
    have he := h.scaleEntry_eq hw ref
    have hr : ref < (o.reg Reg.sxtScaleCount).toNat := by
      simp only [Bool.and_eq_true, Dev.autoEntry, decide_eq_true_eq] at hc
      rw [← he.2]
      exact hc.1.1
    have key : ∀ a, B a = true → a < d.scaleEntry ref + 0x10 ∨ d.scaleEntry ref + 0x18 ≤ a := fun a ha => by
      have h1 := hb a ha
      rw [Dev.mergeHas, decide_eq_false_iff_not, ← he.1] at h1
      omega
    dsimp only
    refine Leaves.writesAt (h.writesAt ?_) ?_
    · intro a ha
      rw [natBytes_length]
      have := key a ha
      omega
    · intro a ha
      rw [natBytes_length]
      have := key a ha
      omega

theorem Leaves.outputs (h : Leaves B o d) (hw : Assoc.wf regReset o.regs = true) (p : Origin) (unit : NfUnit) (t : Desc)
    {out : Out} (hc : ∀ c ∈ out.chunks, c.avoids B) (hb : ∀ a, B a = true → o.mergeHas t.scaleRef a = false) :
    Leaves B o (d.output p unit t out) := by
  unfold Dev.output
  have h1 := h.writes hc
  exact Leaves.ite ((h1.merges hw _ _ _ hb).nonfinite _ _ _ _ _ _) h1

theorem addOne_avoids {ws : List AddWrite} {acc : Mem × List Nat} (h : acc.1.wf = true) {x : Nat}
    (hx : ∀ w ∈ ws, x < w.addr ∨ w.addr + 4 ≤ x) :
    (ws.foldl addOne acc).1.wf = true ∧ (ws.foldl addOne acc).1.byte x = acc.1.byte x := by
  induction ws generalizing acc with
  | nil => exact ⟨h, rfl⟩
  | cons w ws ih =>
    have h1 : (addOne acc w).1.wf = true := Mem.wf_setBytes h _ _
    have h2 := ih h1 fun v hv => hx v (List.mem_cons_of_mem _ hv)
    refine ⟨h2.1, h2.2.trans ?_⟩
    refine Mem.byte_setBytes_outside h ?_
    rw [natBytes_length]
    exact hx w List.mem_cons_self

theorem addOne_wf {ws : List AddWrite} {acc : Mem × List Nat} (h : acc.1.wf = true) : (ws.foldl addOne acc).1.wf = true := by
  induction ws generalizing acc with
  | nil => exact h
  | cons w ws ih => exact ih (Mem.wf_setBytes h _ _)

theorem Leaves.addsAt (h : Leaves B o d) {ws : List AddWrite} (hc : ∀ w ∈ ws, Avoids B w.addr 4) :
    Leaves B o (d.addWrites ws).1 := by
  unfold Dev.addWrites
  dsimp only
  refine Leaves.foldl (Leaves.foldl (h.memory ?_ ?_) ?_) ?_
  · intro hm
    exact addOne_wf (acc := (d.mem, [])) hm
  · intro hm a ha _
    exact (addOne_avoids (acc := (d.mem, [])) hm fun w hw => hc w hw a ha).2
  · intro x b hx
    exact hx.addWrap _ _
  · intro x b hx
    exact hx.addSat _ _

theorem Leaves.adds (h : Leaves B o d) (p : Origin) (t : Desc) {ws : List AddWrite} (hc : ∀ w ∈ ws, Avoids B w.addr 4) :
    Leaves B o (d.addOutput p t ws).1 := by
  unfold Dev.addOutput
  exact Leaves.ite ((h.addsAt hc).nonfinite _ _ _ _ _ _) (h.addsAt hc)

/-! Rows. -/

theorem codes_length {α : Type} (z : Nat) (f : α → Nat) (cs : List α) :
    ((cs.map fun c => natBytes z (f c)).flatten).length = z * cs.length := by
  induction cs with
  | nil => simp
  | cons c cs ih =>
    rw [List.map_cons, List.flatten_cons, List.length_append, natBytes_length, ih, List.length_cons, Nat.mul_add]
    omega

theorem putCodes_avoids {t : Desc} {row n : Nat} {codes : List Nat} (hn : codes.length ≤ n)
    (hb : ∀ a, B a = true → t.codesHave row n a = false) : (t.putCodes row codes).avoids B := by
  intro a ha
  have h1 := hb a ha
  rw [Desc.codesHave, decide_eq_false_iff_not] at h1
  show a < t.rowAddr row ∨ t.rowAddr row + ((codes.map fun c => natBytes (elemSize t.fmt) c).flatten).length ≤ a
  have h2 : ((codes.map fun c => natBytes (elemSize t.fmt) c).flatten).length = elemSize t.fmt * codes.length :=
    codes_length (elemSize t.fmt) id codes
  rw [h2]
  have := Nat.mul_le_mul_left (elemSize t.fmt) hn
  omega

theorem putBlock_avoids {t : Desc} {k : MxKind} {base j : Nat} (x : MxBlock)
    (hb : ∀ a, B a = true → t.planeHas k base j a = false) : ∀ c ∈ putBlock k base t.scalePlane j x, c.avoids B := by
  intro c hc a ha
  have h1 := hb a ha
  simp only [Desc.planeHas, Bool.or_eq_false_iff, decide_eq_false_iff_not, beq_eq_false_iff_ne] at h1
  simp only [putBlock, List.mem_cons, List.not_mem_nil, or_false] at hc
  rcases hc with rfl | rfl
  · show _ ∨ _ + (packBlock k x.codes).length ≤ a
    rw [packBlock, natBytes_length]
    dsimp only
    omega
  · dsimp only [List.length_cons, List.length_nil]
    omega

theorem rowHas_block {t : Desc} {k : MxKind} {row n b a : Nat} (hk : mxKind t.fmt = some k) (hb : b < t.rowBlocks)
    (h : t.rowHas row n a = false) : t.planeHas k t.addr (row * t.rowBlocks + b) a = false ∧
      (isPair t.fmt = true → t.planeHas k (t.addr + t.loPlane) (row * t.rowBlocks + b) a = false) := by
  simp only [Desc.rowHas, hk, List.any_eq_false, List.mem_range, Bool.or_eq_true, Bool.and_eq_true, not_or, not_and,
    Bool.not_eq_true] at h
  exact h b hb

theorem rowHas_codes {t : Desc} {row n a : Nat} (hk : mxKind t.fmt = none) (h : t.rowHas row n a = false) :
    t.codesHave row n a = false := by
  simpa only [Desc.rowHas, hk] using h

theorem concat_chunks {os : List Out} (h : ∀ x ∈ os, ∀ c ∈ x.chunks, c.avoids B) : ∀ c ∈ (Out.concat os).chunks, c.avoids B := by
  intro c hc
  simp only [Out.concat, List.mem_flatten, List.mem_map] at hc
  obtain ⟨_, ⟨x, hx, rfl⟩, hc⟩ := hc
  exact h x hx c hc

theorem putBlockValues_avoids {t : Desc} {k : MxKind} {mode : ConvMode} {index row b : Nat} {vs : List Word} {n : Nat}
    (hk : mxKind t.fmt = some k) (hr : b < t.rowBlocks) (hb : ∀ a, B a = true → t.rowHas row n a = false) :
    ∀ c ∈ (t.putBlockValues k mode index row b vs).chunks, c.avoids B := by
  unfold Desc.putBlockValues
  dsimp only
  split
  · rename_i hp
    dsimp only
    intro c hc
    rcases List.mem_append.mp hc with hc | hc
    · exact putBlock_avoids _ (fun a ha => (rowHas_block hk hr (hb a ha)).1) c hc
    · exact putBlock_avoids _ (fun a ha => (rowHas_block hk hr (hb a ha)).2 hp) c hc
  · exact putBlock_avoids _ (fun a ha => (rowHas_block hk hr (hb a ha)).1)

/-- A row converted into a tensor's format stays within the row. -/
theorem putRowAt_avoids {t : Desc} {mode : ConvMode} {index row n : Nat} {vs : List Word} (hn : vs.length ≤ n)
    (hb : ∀ a, B a = true → t.rowHas row n a = false) : ∀ c ∈ (t.putRowAt mode index row vs).chunks, c.avoids B := by
  unfold Desc.putRowAt
  cases hk : mxKind t.fmt with
  | some k =>
    refine concat_chunks fun x hx => ?_
    obtain ⟨p, hp, rfl⟩ := List.mem_map.mp hx
    refine putBlockValues_avoids hk ?_ hb
    have h1 := List.snd_lt_of_mem_zipIdx hp
    simpa [cutBlocks] using h1
  | none =>
    dsimp only
    intro c hc a ha
    rw [List.mem_singleton] at hc
    subst hc
    have h1 := rowHas_codes hk (hb a ha)
    rw [Desc.codesHave, decide_eq_false_iff_not] at h1
    dsimp only
    rw [codes_length (elemSize t.fmt) (fun c : Nat × Bool => c.1), List.length_map, List.length_zipIdx]
    have := Nat.mul_le_mul_left (elemSize t.fmt) hn
    omega

theorem addRow_avoids {t : Desc} {row n : Nat} {vs : List Word} (hn : vs.length ≤ n)
    (hb : ∀ a, B a = true → t.addsHave row n a = false) : ∀ w ∈ t.addRow row vs, Avoids B w.addr 4 := by
  intro w hw a ha
  obtain ⟨p, hp, rfl⟩ := List.mem_map.mp hw
  have h1 := List.snd_lt_of_mem_zipIdx hp
  have h2 := hb a ha
  rw [Desc.addsHave, decide_eq_false_iff_not] at h2
  dsimp only
  omega

/-! Outputs of operations. -/

/-- Every row of a list given with its number, converted. -/
theorem putRowsOf_avoids {t : Desc} {mode : ConvMode} {n : Nat} {rows : List (Nat × List Word)}
    (hn : ∀ r ∈ rows, r.2.length ≤ n ∧ ∀ a, B a = true → t.rowHas r.1 n a = false) :
    ∀ c ∈ (Out.concat (rows.map fun r => t.putRow mode r.1 r.2)).chunks, c.avoids B := by
  refine concat_chunks fun x hx => ?_
  obtain ⟨r, hr, rfl⟩ := List.mem_map.mp hx
  exact putRowAt_avoids (hn r hr).1 (hn r hr).2

theorem addRowsOf_avoids {t : Desc} {n : Nat} {rows : List (Nat × List Word)}
    (hn : ∀ r ∈ rows, r.2.length ≤ n ∧ ∀ a, B a = true → t.addsHave r.1 n a = false) :
    ∀ w ∈ (rows.map fun r => t.addRow r.1 r.2).flatten, Avoids B w.addr 4 := by
  intro w hw
  obtain ⟨_, hl, hw⟩ := List.mem_flatten.mp hw
  obtain ⟨r, hr, rfl⟩ := List.mem_map.mp hl
  exact addRow_avoids (hn r hr).1 (hn r hr).2 w hw

/-- The rows of a list counted from 0 as rows with their numbers. -/
theorem zipIdx_rows {rows : List (List Word)} {n : Nat} {P : Nat → Prop} (hn : ∀ r ∈ rows, r.length ≤ n)
    (hp : ∀ i, i < rows.length → P i) : ∀ r ∈ rows.zipIdx, r.1.length ≤ n ∧ P r.2 := by
  intro r hr
  exact ⟨hn r.1 (List.fst_mem_of_mem_zipIdx hr), hp r.2 (by simpa using List.snd_lt_of_mem_zipIdx hr)⟩

theorem putRows_avoids {t : Desc} {mode : ConvMode} {n : Nat} {rows : List (List Word)} (hn : ∀ r ∈ rows, r.length ≤ n)
    (hb : ∀ i, i < rows.length → ∀ a, B a = true → t.rowHas i n a = false) :
    ∀ c ∈ (t.putRows mode rows).chunks, c.avoids B := by
  unfold Desc.putRows
  refine concat_chunks fun x hx => ?_
  obtain ⟨r, hr, rfl⟩ := List.mem_map.mp hx
  have h1 := zipIdx_rows hn hb r hr
  exact putRowAt_avoids h1.1 h1.2

theorem addRows_avoids {t : Desc} {n : Nat} {rows : List (List Word)} (hn : ∀ r ∈ rows, r.length ≤ n)
    (hb : ∀ i, i < rows.length → ∀ a, B a = true → t.addsHave i n a = false) :
    ∀ w ∈ t.addRows rows, Avoids B w.addr 4 := by
  intro w hw
  obtain ⟨_, hl, hw⟩ := List.mem_flatten.mp hw
  obtain ⟨r, hr, rfl⟩ := List.mem_map.mp hl
  have h1 := zipIdx_rows hn hb r hr
  exact addRow_avoids h1.1 h1.2 w hw

theorem stores_adds {t : Desc} {rows : List Nat} {n a : Nat} (h : t.stores o true rows n a = false) :
    ∀ r ∈ rows, t.addsHave r n a = false := by
  simpa [Desc.stores, List.any_eq_false] using h

theorem stores_rows {t : Desc} {rows : List Nat} {n a : Nat} (h : t.stores o false rows n a = false) :
    (∀ r ∈ rows, t.rowHas r n a = false) ∧ o.mergeHas t.scaleRef a = false := by
  simpa [Desc.stores, List.any_eq_false] using h

theorem Leaves.vouts (h : Leaves B o d) (hw : Assoc.wf regReset o.regs = true) (w : VWrite) (op : Operand) {n k : Nat}
    {rows : List (List Word)} (hn : ∀ r ∈ rows, r.length ≤ n) (hk : rows.length ≤ k)
    (hb : ∀ a, B a = true → op.stores o w.add k n a = false) : Leaves B o (d.vout w op rows).1 := by
  unfold Dev.vout
  cases op with
  | absent => exact h
  | kept => exact Leaves.ite ((h.setStream _ _).nonfinite _ _ _ _ _ _) (h.setStream _ _)
  | tensor t =>
    dsimp only [Operand.stores] at hb ⊢
    have hi : ∀ i, i < rows.length → i ∈ List.range k := fun i hi => List.mem_range.mpr (by omega)
    split
    · rename_i ha
      rw [ha] at hb
      exact h.adds _ _ (addRows_avoids hn fun i hl a hx => stores_adds (hb a hx) i (hi i hl))
    · rename_i ha
      rw [Bool.not_eq_true] at ha
      rw [ha] at hb
      exact h.outputs hw _ _ _ (putRows_avoids hn fun i hl a hx => (stores_rows (hb a hx)).1 i (hi i hl))
        fun a hx => (stores_rows (hb a hx)).2

/-! Products. -/

theorem overGroups_rows {α : Type} {m : MatmulCmd} {f : PGroup → Nat → Nat × List α} (hf : ∀ g r, (f g r).1 = g.cRow + r) :
    ∀ x ∈ overGroups m f, x.1 ∈ m.cRows := by
  intro x hx
  simp only [overGroups, List.mem_flatten, List.mem_map] at hx
  obtain ⟨_, ⟨g, hg, rfl⟩, hx⟩ := hx
  obtain ⟨r, hr, rfl⟩ := List.mem_map.mp hx
  simp only [MatmulCmd.cRows, List.mem_flatten, List.mem_map]
  exact ⟨_, ⟨g, hg, rfl⟩, List.mem_map.mpr ⟨r, hr, (hf g r).symm⟩⟩

theorem overGroups_length {α : Type} {m : MatmulCmd} {f : PGroup → Nat → Nat × List α} {n : Nat}
    (hf : ∀ g r, (f g r).2.length = n) : ∀ x ∈ overGroups m f, x.2.length = n := by
  intro x hx
  simp only [overGroups, List.mem_flatten, List.mem_map] at hx
  obtain ⟨_, ⟨g, hg, rfl⟩, hx⟩ := hx
  obtain ⟨r, hr, rfl⟩ := List.mem_map.mp hx
  exact hf g r

theorem Leaves.product (h : Leaves B o d) (hw : Assoc.wf regReset o.regs = true) (f : Fuse) (st : Stream) (c : Decoded)
    {m : MatmulCmd} (hm : m.heritage = false) (src : ByteSource) (ev : OpEvents) (hb : ∀ a, B a = true → m.stores o a = false) :
    Leaves B o (d.matmulEffect f st c m src ev) := by
  unfold Dev.matmulEffect
  have h1 := h.runItems f st m src ev
  generalize d.runItems f st m src ev = ran at h1 ⊢
  dsimp only
  split
  · exact h1
  refine Leaves.keepProduct ?_ _ _ _ _
  split
  · rename_i t hs hc
    have hb2 : ∀ a, B a = true → t.stores o m.addWrite m.cRows m.b.len1 a = false := fun a ha => by
      have := hb a ha
      simpa [MatmulCmd.stores, hs, hc, hm] using this
    have hr : ∀ x ∈ overGroups m (fun g r => m.row src g r), x.1 ∈ m.cRows := overGroups_rows fun _ _ => rfl
    have hl : ∀ x ∈ overGroups m (fun g r => m.row src g r), x.2.length = m.b.len1 :=
      overGroups_length fun g r => by simp [MatmulCmd.row]
    split
    · rename_i ha
      rw [ha] at hb2
      exact h1.adds _ _ (addRowsOf_avoids fun r hx => ⟨Nat.le_of_eq (hl r hx), fun a hy => stores_adds (hb2 a hy) _ (hr r hx)⟩)
    · rename_i ha
      rw [Bool.not_eq_true] at ha
      rw [ha] at hb2
      exact h1.outputs hw _ _ _
        (putRowsOf_avoids fun r hx => ⟨Nat.le_of_eq (hl r hx), fun a hy => (stores_rows (hb2 a hy)).1 _ (hr r hx)⟩)
        fun a hy => (stores_rows (hb2 a hy)).2
  · exact h1.keptFindings _ _ _

theorem Leaves.heritage (h : Leaves B o d) (hw : Assoc.wf regReset o.regs = true) (f : Fuse) (st : Stream) (c : Decoded)
    {m : MatmulCmd} (hm : m.heritage = true) (src : ByteSource) (ev : OpEvents) (hb : ∀ a, B a = true → m.stores o a = false) :
    Leaves B o (d.heritageEffect f st c m src ev) := by
  unfold Dev.heritageEffect
  have h1 := h.runItems f st m src ev
  generalize d.runItems f st m src ev = ran at h1 ⊢
  dsimp only
  split
  · exact h1
  refine Leaves.keepProduct ?_ _ _ _ _
  split
  · rename_i t hs hc
    have hb2 : ∀ a, B a = true → (∀ r ∈ m.cRows, t.codesHave r m.b.len1 a = false) ∧ o.mergeHas t.scaleRef a = false :=
      fun a ha => by
        have := hb a ha
        simpa [MatmulCmd.stores, hs, hc, hm, List.any_eq_false] using this
    have hr : ∀ x ∈ overGroups m (fun g r => m.heritageRow src g r), x.1 ∈ m.cRows := overGroups_rows fun _ _ => rfl
    have hl : ∀ x ∈ overGroups m (fun g r => m.heritageRow src g r), x.2.length = m.b.len1 :=
      overGroups_length fun g r => by simp [MatmulCmd.heritageRow]
    refine h1.outputs hw _ _ _ (concat_chunks fun x hx => ?_) fun a hy => (hb2 a hy).2
    obtain ⟨r, hx2, rfl⟩ := List.mem_map.mp hx
    intro ch hch
    dsimp only [heritagePut] at hch
    rw [List.mem_singleton] at hch
    subst hch
    exact putCodes_avoids (n := m.b.len1) (Nat.le_of_eq (by rw [List.length_map, hl r hx2]))
      fun a hy => (hb2 a hy).1 _ (hr r hx2)
  · exact h1.keptFindings _ _ _

/-! Element programs. -/

theorem Leaves.program (h : Leaves B o d) (hw : Assoc.wf regReset o.regs = true) (st : Stream) (c : Decoded) (p : VprogCmd)
    (kept : Option Kept) (src : ByteSource) (hb : ∀ a, B a = true → p.stores o kept a = false) :
    Leaves B o (d.vprogEffect st c p kept src) := by
  unfold Dev.vprogEffect
  dsimp only
  have hb2 : ∀ a, B a = true →
      (p.outs.getD 0 .absent).stores o p.addWrite ((p.outs.getD 0 .absent).shapeOf kept).rows
        ((p.outs.getD 0 .absent).shapeOf kept).l0 a = false ∧
      (p.outs.getD 1 .absent).stores o p.addWrite ((p.outs.getD 0 .absent).shapeOf kept).rows
        ((p.outs.getD 0 .absent).shapeOf kept).l0 a = false := fun a ha => by
    have := hb a ha
    simpa only [VprogCmd.stores, Bool.or_eq_false_iff] using this
  refine Leaves.vtbCount (Leaves.vouts (Leaves.vouts (h.dupVector st) hw _ _ ?_ ?_ fun a ha => (hb2 a ha).1) hw _ _ ?_ ?_
    fun a ha => (hb2 a ha).2) _ _ _
  all_goals first
    | exact Nat.le_of_eq (by rw [List.length_map, List.length_map, List.length_range])
    | (intro r hr
       simp only [List.mem_map, List.mem_range] at hr
       obtain ⟨_, ⟨i, hi, rfl⟩, rfl⟩ := hr
       simp [VprogCmd.row])

/-! Rows read. -/

theorem ceilDiv_mul (n k : Nat) (hk : 0 < k) : n ≤ ceilDiv n k * k := by
  unfold ceilDiv
  have h1 := Nat.div_add_mod (n + k - 1) k
  have h2 := Nat.mod_lt (n + k - 1) hk
  rw [Nat.mul_comm k] at h1
  omega

theorem pieces_length {α : Type} (f : Nat → List α) (k l : Nat) (hf : ∀ b, (f b).length = min k (l - k * b)) (m : Nat) :
    (((List.range m).map f).flatten).length = min (k * m) l := by
  induction m with
  | zero => simp
  | succ m ih =>
    rw [List.range_succ, List.map_append, List.flatten_append, List.length_append, ih, List.map_singleton,
      List.flatten_singleton, hf, Nat.mul_succ]
    omega

theorem blockValues_length (t : Desc) (k : MxKind) (src : ByteSource) (row b : Nat) :
    (t.blockValues k src row b).length = min 32 (t.len0 - 32 * b) := by
  unfold Desc.blockValues Desc.block Desc.blockLo
  dsimp only
  split <;> simp [MxBlock.within, readBlock] <;> omega

theorem Desc.row_length (t : Desc) (src : ByteSource) (row : Nat) : (t.row src row).length = t.len0 := by
  unfold Desc.row
  split
  · rename_i k _
    rw [pieces_length _ 32 t.len0 fun b => blockValues_length t k src row b]
    have h1 := ceilDiv_mul t.len0 32 (by decide)
    have h2 : t.rowBlocks = ceilDiv t.len0 32 := rfl
    omega
  · rw [List.length_map, List.length_range]

theorem Operand.row_length (op : Operand) (kept : Option Kept) (src : ByteSource) (r : Nat) :
    (op.row kept src r).length ≤ (op.shapeOf kept).l0 := by
  cases op with
  | absent => exact Nat.le_refl 0
  | kept =>
    cases kept with
    | none => exact Nat.le_refl 0
    | some k =>
      show ((k.values.drop (r * k.shape.l0)).take k.shape.l0).length ≤ k.shape.l0
      rw [List.length_take]
      exact Nat.min_le_left _ _
  | tensor t => exact Nat.le_of_eq (t.row_length src r)

theorem inRows_rows {k : KernelCmd} {kept : Option Kept} {src : ByteSource} :
    (∀ r ∈ k.inRows kept src, r.2.length ≤ (k.in0.shapeOf kept).l0 ∧ r.1 < (k.in0.shapeOf kept).rows) ∧
      (k.inRows kept src).length = (k.in0.shapeOf kept).rows := by
  unfold KernelCmd.inRows
  refine ⟨fun r hr => ?_, by rw [List.length_map, List.length_range]⟩
  obtain ⟨i, hi, rfl⟩ := List.mem_map.mp hr
  exact ⟨k.in0.row_length kept src i, List.mem_range.mp hi⟩

/-! Statistics kernels. -/

theorem Leaves.kernelOuts (h : Leaves B o d) (hw : Assoc.wf regReset o.regs = true) (w : VWrite) (k : KernelCmd) {n p q : Nat}
    {rows : List RowOut} (hr : ∀ r ∈ rows, r.out0.length ≤ p ∧ r.out1.length ≤ q) (hn : rows.length ≤ n)
    (hb : ∀ a, B a = true → k.out0.stores o w.add n p a = false ∧ k.out1.stores o w.add n q a = false) :
    Leaves B o (d.kernelOut w k rows) := by
  unfold Dev.kernelOut
  dsimp only
  refine Leaves.vtbCount (Leaves.vouts (Leaves.vouts h hw _ _ ?_ ?_ fun a ha => (hb a ha).1) hw _ _ ?_ ?_
    fun a ha => (hb a ha).2) _ _ _
  · intro r hm
    obtain ⟨x, hx, rfl⟩ := List.mem_map.mp hm
    exact (hr x hx).1
  · rw [List.length_map]
    exact hn
  · intro r hm
    obtain ⟨x, hx, rfl⟩ := List.mem_map.mp hm
    exact (hr x hx).2
  · rw [List.length_map]
    exact hn

theorem softSteps_length {k : Curves4} {xs e : List Word} {m s : Word} (h : softSteps k xs = .ok m e s) :
    e.length = xs.length := by
  unfold softSteps at h
  dsimp only at h
  generalize (fIsNan (rowMax xs) || rowMax xs == posInf) = b1 at h
  generalize (rowMax xs == negInf) = b2 at h
  cases b1 <;> cases b2 <;> simp at h
  rw [← h.2.1, List.length_map]

theorem softmaxRow_length (k : Curves4) (alpha : Word) (xs : List Word) :
    (softmaxRow k alpha xs).out0.length ≤ xs.length ∧ (softmaxRow k alpha xs).out1.length ≤ 0 := by
  unfold softmaxRow
  dsimp only
  split
  · simp [RowOut.plain, nanRow]
  · simp
  · rename_i e s hs
    have := softSteps_length hs
    rw [List.length_map] at this
    simp [RowOut.plain, this]

theorem normRow_length (k : Curves4) (layer : Bool) (eps : Word) (gain : List Word) (bias : Option (List Word))
    (xs : List Word) : (normRow k layer eps gain bias xs).out0.length ≤ xs.length ∧
      (normRow k layer eps gain bias xs).out1.length ≤ 2 := by
  unfold normRow
  dsimp only
  split
  · simp [RowOut.plain, nanRow]
  · split
    · cases bias <;> simp [RowOut.plain] <;> omega
    · simp [RowOut.plain] <;> omega

theorem keyBlocks_length (kb fuel : Nat) (xs : List Word) :
    (keyBlocks kb fuel xs).length ≤ ceilDiv xs.length (max 1 kb) := by
  induction fuel generalizing xs with
  | zero => exact Nat.zero_le _
  | succ fuel ih =>
    cases xs with
    | nil => exact Nat.zero_le _
    | cons x xs =>
      have h1 := ih ((x :: xs).drop (max 1 kb))
      rw [List.length_drop] at h1
      show ((x :: xs).take (max 1 kb) :: keyBlocks kb fuel ((x :: xs).drop (max 1 kb))).length ≤ _
      rw [List.length_cons]
      have hk : 0 < max 1 kb := by omega
      generalize max 1 kb = k at h1 hk ⊢
      generalize hn : (x :: xs).length = n at h1 ⊢
      have hp : 0 < n := by
        rw [← hn]
        exact Nat.succ_pos _
      unfold ceilDiv at h1 ⊢
      by_cases hlt : n ≤ k
      · have h2 : (n - k + k - 1) / k = 0 := Nat.div_eq_of_lt (by omega)
        have h3 : 1 ≤ (n + k - 1) / k := (Nat.le_div_iff_mul_le hk).mpr (by omega)
        omega
      · have h2 : n + k - 1 = (n - k + k - 1) + k := by omega
        rw [h2, Nat.add_div_right _ hk]
        omega

theorem keyBlocks_total (kb fuel : Nat) (xs : List Word) :
    ((keyBlocks kb fuel xs).map List.length).sum ≤ xs.length := by
  induction fuel generalizing xs with
  | zero => exact Nat.zero_le _
  | succ fuel ih =>
    cases xs with
    | nil => exact Nat.zero_le _
    | cons x xs =>
      have h1 := ih ((x :: xs).drop (max 1 kb))
      rw [List.length_drop] at h1
      show (((x :: xs).take (max 1 kb) :: keyBlocks kb fuel ((x :: xs).drop (max 1 kb))).map List.length).sum ≤ _
      rw [List.map_cons, List.sum_cons, List.length_take]
      omega

theorem attnBlocks_length (k : Curves4) (bs : List (List Word)) (a : Attn) :
    (bs.foldl (Attn.block k) a).p.length = a.p.length + (bs.map List.length).sum ∧
      (bs.foldl (Attn.block k) a).alphas.length = a.alphas.length + bs.length := by
  induction bs generalizing a with
  | nil => simp
  | cons b bs ih =>
    have h1 := ih (Attn.block k a b)
    have h2 : (Attn.block k a b).p.length = a.p.length + b.length ∧
        (Attn.block k a b).alphas.length = a.alphas.length + 1 := by
      unfold Attn.block
      dsimp only
      split <;> simp
    rw [h2.1, h2.2] at h1
    rw [List.foldl_cons, List.map_cons, List.sum_cons, List.length_cons]
    omega

theorem attnRow_length (k : Curves4) (kb : Nat) (state xs : List Word) :
    (attnRow k kb state xs).out0.length ≤ xs.length ∧
      (attnRow k kb state xs).out1.length ≤ ceilDiv xs.length (max 1 kb) ∧ (attnRow k kb state xs).state.length = 2 := by
  have h1 := attnBlocks_length k (keyBlocks kb xs.length xs) ⟨state.getD 0 negInf, state.getD 1 0#32, [], []⟩
  have h2 := keyBlocks_total kb xs.length xs
  have h3 := keyBlocks_length kb xs.length xs
  refine ⟨?_, ?_, rfl⟩
  · refine Nat.le_trans (Nat.le_of_eq h1.1) ?_
    simpa using h2
  · refine Nat.le_trans (Nat.le_of_eq h1.2) ?_
    simpa using h3

theorem attnFinalRow_length (k : Curves4) (state os : List Word) :
    (attnFinalRow k state os).out0.length ≤ os.length ∧ (attnFinalRow k state os).out1.length ≤ 0 := by
  unfold attnFinalRow
  dsimp only
  split
  · simp
  · split <;> simp [nanRow]

theorem lossRow_length (k : Curves4) (g : Word) (target : Nat) (zs : List Word) :
    (lossRow k g target zs).1.out0.length ≤ zs.length := by
  unfold lossRow
  dsimp only
  split
  · simp [RowOut.plain]
  · split
    · simp [nanRow]
    · split
      · simp [RowOut.plain, nanRow]
      · simp
      · rename_i m e s hs
        have := softSteps_length hs
        rw [List.length_map] at this
        simp [RowOut.plain, this]

/-- The outputs of a kernel whose rows come each from one row of IN0. -/
theorem Leaves.kernelRows (h : Leaves B o d) (hw : Assoc.wf regReset o.regs = true) (st : Stream) (c : Decoded) (k : KernelCmd)
    (kept : Option Kept) (src : ByteSource) (e : Dev) {f : Nat × List Word → RowOut}
    (hf : ∀ r, r.2.length ≤ (k.in0.shapeOf kept).l0 → (f r).out0.length ≤ (k.widths (k.in0.shapeOf kept).l0).1 ∧
      (f r).out1.length ≤ (k.widths (k.in0.shapeOf kept).l0).2)
    (hb : ∀ a, B a = true → k.stores o kept a = false) :
    Leaves B o (d.kernelOut (e.kernelWrite st c k) k ((k.inRows kept src).map f)) := by
  have hi := inRows_rows (k := k) (kept := kept) (src := src)
  refine h.kernelOuts hw _ k (n := (k.in0.shapeOf kept).rows) (p := (k.widths (k.in0.shapeOf kept).l0).1)
    (q := (k.widths (k.in0.shapeOf kept).l0).2) ?_ ?_ ?_
  · intro r hr
    obtain ⟨x, hx, rfl⟩ := List.mem_map.mp hr
    exact hf x (hi.1 x hx).1
  · exact Nat.le_of_eq (by rw [List.length_map, hi.2])
  · intro a ha
    have h1 := hb a ha
    simp only [KernelCmd.stores, Bool.or_eq_false_iff] at h1
    exact ⟨h1.1.1, h1.1.2⟩

/-- The bytes a kernel stores beside its outputs 0 and 1. -/
theorem kernel_rest {k : KernelCmd} {kept : Option Kept} {a : Nat} (h : k.stores o kept a = false) :
    (match k.kernel, k.in1, k.out0, k.out1 with
      | 3, _, .tensor t, _ => k.subop == 4 && (List.range (k.in0.shapeOf kept).rows).any fun r => t.codesHave r 1 a
      | 4, .tensor t, _, _ => k.subop != 1 && (List.range (k.in0.shapeOf kept).rows).any fun r => t.rowHas r 2 a
      | 5, _, _, .tensor t => t.codesHave 0 2 a
      | _, _, _, _ => false) = false := by
  simp only [KernelCmd.stores, Bool.or_eq_false_iff] at h
  exact h.2

theorem Leaves.norm (h : Leaves B o d) (hw : Assoc.wf regReset o.regs = true) (st : Stream) (layer : Bool) (c : Decoded)
    {k : KernelCmd} (hk : k.kernel = 1 ∨ k.kernel = 2) (kept : Option Kept) (src : ByteSource)
    (hb : ∀ a, B a = true → k.stores o kept a = false) : Leaves B o (d.normEffect st layer c k kept src) := by
  unfold Dev.normEffect
  refine h.kernelRows hw st c k kept src d (fun r hr => ?_) hb
  have h1 := normRow_length (d.curves4 k) layer k.scalar (k.in1.row kept src 0)
    (match k.in2 with
      | .absent => none
      | o => some (o.row kept src 0)) r.2
  have h2 : k.widths (k.in0.shapeOf kept).l0 = ((k.in0.shapeOf kept).l0, 2) := by
    rcases hk with hk | hk <;> simp [KernelCmd.widths, hk]
  rw [h2]
  exact ⟨Nat.le_trans h1.1 hr, h1.2⟩

theorem Leaves.counts (h : Leaves B o d) {k : KernelCmd} (hk : k.kernel = 3) (hs : k.subop = 4) (kept : Option Kept)
    (src : ByteSource) (f : List Word → Nat) (hb : ∀ a, B a = true → k.stores o kept a = false) :
    Leaves B o (d.countRows k.out0 ((k.inRows kept src).map fun r => (r.1, f r.2))) := by
  unfold Dev.countRows
  split
  · rename_i t ht
    refine h.writes fun c hc => ?_
    obtain ⟨x, hx, rfl⟩ := List.mem_map.mp hc
    obtain ⟨r, hr, rfl⟩ := List.mem_map.mp hx
    refine putCodes_avoids (n := 1) (Nat.le_refl 1) fun a ha => ?_
    have h1 := kernel_rest (hb a ha)
    have h2 := (inRows_rows.1 r hr).2
    simp only [hk, ht, hs, beq_self_eq_true, Bool.true_and, List.any_eq_false, List.mem_range, Bool.not_eq_true] at h1
    exact h1 _ h2
  · exact h

theorem Leaves.statistics (h : Leaves B o d) {k : KernelCmd} (hk : k.kernel = 4) (hs : k.subop ≠ 1) (st : Stream)
    (kept : Option Kept) {rows : List (List Word)} (hr : ∀ r ∈ rows, r.length ≤ 2)
    (hn : rows.length = (k.in0.shapeOf kept).rows) (hb : ∀ a, B a = true → k.stores o kept a = false) :
    Leaves B o (d.attnState st k.in1 rows) := by
  unfold Dev.attnState
  split
  · exact h
  · exact h.setStream _ _
  · rename_i t ht
    refine h.writes (putRows_avoids hr fun i hi a ha => ?_)
    have h1 := kernel_rest (hb a ha)
    simp only [hk, ht, bne_iff_ne, ne_eq, hs, not_false_eq_true, Bool.and_eq_false_imp, List.any_eq_false, List.mem_range,
      Bool.not_eq_true] at h1
    exact h1 trivial i (by omega)

theorem Leaves.losses (h : Leaves B o d) {k : KernelCmd} (hk : k.kernel = 5) (w : VWrite) (kept : Option Kept) (sum : Word)
    (count : Nat) (hb : ∀ a, B a = true → k.stores o kept a = false) : Leaves B o (d.lossOut w k.out1 sum count) := by
  unfold Dev.lossOut
  split
  · rename_i t ht
    have h1 : Leaves B o (d.write [t.putCodes 0 [sum.toNat, count]]) := by
      refine h.writes fun c hc => ?_
      rw [List.mem_singleton] at hc
      subst hc
      refine putCodes_avoids (n := 2) (Nat.le_refl 2) fun a ha => ?_
      have h1 := kernel_rest (hb a ha)
      simpa only [hk, ht] using h1
    dsimp only
    exact Leaves.ite h1 (Leaves.vtbCount (Leaves.ite (h1.nonfinite _ _ _ _ _ _) h1) _ _ _)
  · exact h

/-! Copies. -/

theorem transposeRows_length {α : Type} (x : α) (t : Desc) (n : Nat) (rows : List (List α)) :
    (transposeRows x t n rows).length = t.rows ∧ ∀ r ∈ transposeRows x t n rows, r.length = t.len0 := by
  unfold transposeRows
  refine ⟨by rw [List.length_map, List.length_range], fun r hr => ?_⟩
  obtain ⟨i, _, rfl⟩ := List.mem_map.mp hr
  rw [List.length_map, List.length_range]

/-- The shape of a copy that the decoder accepts (R143): SRC and DST alike, but in a TRANSPOSE. -/
theorem shape_eq {p : CopyCmd} (hs : p.transpose = false → p.src.shape = p.dst.shape) (ht : p.transpose = false) :
    p.src.len0 = p.dst.len0 ∧ p.src.rows = p.dst.rows ∧ p.src.rowBlocks = p.dst.rowBlocks := by
  have h1 := hs ht
  simp only [Desc.shape, Shape.mk.injEq] at h1
  refine ⟨h1.1, ?_, ?_⟩
  · rw [Desc.rows, Desc.rows, h1.2.1, h1.2.2.1, h1.2.2.2]
  · rw [Desc.rowBlocks, Desc.rowBlocks, h1.1]

theorem allRows_length (t : Desc) (src : ByteSource) : (t.allRows src).length = t.rows ∧ ∀ r ∈ t.allRows src, r.length = t.len0 := by
  unfold Desc.allRows
  refine ⟨by rw [List.length_map, List.length_range], fun r hr => ?_⟩
  obtain ⟨i, _, rfl⟩ := List.mem_map.mp hr
  exact t.row_length src i

theorem allCodes_length (t : Desc) (src : ByteSource) :
    (t.allCodes src).length = t.rows ∧ ∀ r ∈ t.allCodes src, r.length = t.len0 := by
  unfold Desc.allCodes
  refine ⟨by rw [List.length_map, List.length_range], fun r hr => ?_⟩
  obtain ⟨i, _, rfl⟩ := List.mem_map.mp hr
  rw [List.length_map, List.length_range]

theorem bits_avoids {p : CopyCmd} (hw : p.bitwise = true) (hs : p.transpose = false → p.src.shape = p.dst.shape)
    (src : ByteSource) (hb : ∀ a, B a = true → p.stores o a = false) : ∀ c ∈ (p.bits src).chunks, c.avoids B := by
  have hb2 : ∀ a, B a = true → ∀ r, r < p.dst.rows → p.dst.rowHas r p.dst.len0 a = false := fun a ha r hr => by
    have h1 := hb a ha
    simp only [CopyCmd.stores, hw, if_true, List.any_eq_false, List.mem_range, Bool.not_eq_true] at h1
    exact h1 r hr
  simp only [CopyCmd.bitwise, Bool.and_eq_true, Bool.not_eq_true', beq_iff_eq, Bool.and_eq_false_imp] at hw
  obtain ⟨⟨⟨_, hf⟩, _⟩, htb⟩ := hw
  unfold CopyCmd.bits
  split
  · rename_i k hk
    have ht : p.transpose = false := by
      cases h : p.transpose with
      | false => rfl
      | true =>
        have h1 := htb h
        rw [isBlock, hk] at h1
        cases h1
    have he := shape_eq hs ht
    intro c hc
    dsimp only [CopyCmd.blockChunks] at hc
    obtain ⟨_, h1, hc⟩ := List.mem_flatten.mp hc
    obtain ⟨r, hr, rfl⟩ := List.mem_map.mp h1
    obtain ⟨_, h1, hc⟩ := List.mem_flatten.mp hc
    obtain ⟨b, hbb, rfl⟩ := List.mem_map.mp h1
    rw [List.mem_range, he.2.1] at hr
    rw [List.mem_range, he.2.2] at hbb
    rw [hf] at hk
    split at hc
    · rename_i hp
      rw [hf] at hp
      rcases List.mem_append.mp hc with hc | hc
      · exact putBlock_avoids _ (fun a ha => (rowHas_block hk hbb (hb2 a ha r hr)).1) c hc
      · exact putBlock_avoids _ (fun a ha => (rowHas_block hk hbb (hb2 a ha r hr)).2 hp) c hc
    · exact putBlock_avoids _ (fun a ha => (rowHas_block hk hbb (hb2 a ha r hr)).1) c hc
  · rename_i hk
    rw [hf] at hk
    dsimp only
    intro c hc
    obtain ⟨r, hr, rfl⟩ := List.mem_map.mp hc
    have hl : r.1.length ≤ p.dst.len0 ∧ r.2 < p.dst.rows := by
      have h1 := List.fst_mem_of_mem_zipIdx hr
      have h2 := List.snd_lt_of_mem_zipIdx hr
      split at h1
      · rename_i ht
        rw [if_pos ht] at h2
        have h3 := transposeRows_length 0 p.dst p.src.len1 (p.src.allCodes src)
        rw [h3.1] at h2
        exact ⟨Nat.le_of_eq (h3.2 _ h1), by omega⟩
      · rename_i ht
        rw [if_neg ht] at h2
        have h3 := allCodes_length p.src src
        have he := shape_eq hs (by simpa using ht)
        rw [h3.1, he.2.1] at h2
        exact ⟨Nat.le_of_eq ((h3.2 _ h1).trans he.1), by omega⟩
    exact putCodes_avoids hl.1 fun a ha => rowHas_codes hk (hb2 a ha _ hl.2)

theorem Leaves.copied (h : Leaves B o d) (hw : Assoc.wf regReset o.regs = true) (g : Origin) (mode : ConvMode) {p : CopyCmd}
    (hs : p.transpose = false → p.src.shape = p.dst.shape) (src : ByteSource)
    (hb : ∀ a, B a = true → p.stores o a = false) : Leaves B o (d.copyEffect g mode p src) := by
  unfold Dev.copyEffect
  split
  · rename_i hbit
    have h1 := h.writes (bits_avoids hbit hs src hb)
    dsimp only
    exact Leaves.ite (h1.nonfinite _ _ _ _ _ _) h1
  · rename_i hbit
    dsimp only
    have hrows : ∀ rows : List (List Word),
        rows = (if p.transpose = true then transposeRows 0#32 p.dst p.src.len1 (p.src.allRows src) else p.src.allRows src) →
        rows.length = p.dst.rows ∧ ∀ r ∈ rows, r.length ≤ p.dst.len0 := by
      intro rows e
      subst e
      split
      · have h3 := transposeRows_length 0#32 p.dst p.src.len1 (p.src.allRows src)
        exact ⟨h3.1, fun r hr => Nat.le_of_eq (h3.2 r hr)⟩
      · rename_i ht
        have h3 := allRows_length p.src src
        have he := shape_eq hs (by simpa using ht)
        exact ⟨h3.1.trans he.2.1, fun r hr => Nat.le_of_eq ((h3.2 r hr).trans he.1)⟩
    generalize hg : (if p.transpose = true then transposeRows 0#32 p.dst p.src.len1 (p.src.allRows src)
      else p.src.allRows src) = rows
    have hr := hrows rows hg.symm
    have hb2 : ∀ a, B a = true → p.dst.stores o p.addWrite (List.range p.dst.rows) p.dst.len0 a = false := fun a ha => by
      have h1 := hb a ha
      rwa [CopyCmd.stores, if_neg hbit] at h1
    have hi : ∀ i, i < rows.length → i ∈ List.range p.dst.rows := fun i hi => List.mem_range.mpr (by omega)
    split
    · rename_i ha
      rw [ha] at hb2
      exact h.adds _ _ (addRows_avoids hr.2 fun i hl a hx => stores_adds (hb2 a hx) i (hi i hl))
    · rename_i ha
      rw [Bool.not_eq_true] at ha
      rw [ha] at hb2
      exact h.outputs hw _ _ _ (putRows_avoids hr.2 fun i hl a hx => (stores_rows (hb2 a hx)).1 i (hi i hl))
        fun a hx => (stores_rows (hb2 a hx)).2

end Sys2Proof.Machine
end

