-- ==== Sys2Proof/Laws/Preserve.lean ====
section
/-! SUPPORT. What one command keeps of a sound state: lemmas for the shapes of row (`act`, `byHart` and their like). -/
set_option Elab.async false
namespace Sys2Proof.Machine

/-- `t` comes from `s` with everything kept that makes a state sound. -/
structure StateKept (s t : State) : Prop where
  dev : Keeps false s.dev t.dev
  harts : s.harts.length = 28 → t.harts.length = 28
  mailboxes : mailboxesSound s.mbx → mailboxesSound t.mbx
  claims : claimsSound s.claims → claimsSound t.claims

/-- Whatever next state the outcome holds keeps what makes a state sound. -/
def Preserves (s : State) (x : Host.Outcome State Fault Refusal) : Prop := ∀ t, x = .next t → StateKept s t

variable {s t u : State}

theorem StateKept.sound (h : StateKept s t) (hs : s.Sound) : t.Sound :=
  ⟨h.dev.tidy hs.tidy, h.harts hs.harts, h.mailboxes hs.mailboxes, h.claims hs.claims⟩

theorem StateKept.refl : StateKept s s := ⟨Keeps.refl, id, id, id⟩

theorem Keeps.trans {a b c : Dev} (h1 : Keeps false a b) (h2 : Keeps false b c) : Keeps false a c :=
  ⟨fun x => h2.mem (h1.mem x), fun x => h2.regs (h1.regs x), (fun x => by cases x), (fun x => by cases x), (fun x => by cases x)⟩

theorem StateKept.trans (h1 : StateKept s t) (h2 : StateKept t u) : StateKept s u :=
  ⟨h1.dev.trans h2.dev, fun x => h2.harts (h1.harts x), fun x => h2.mailboxes (h1.mailboxes x),
    fun x => h2.claims (h1.claims x)⟩

theorem StateKept.onDev {d : Dev} (h : Keeps false s.dev d) : StateKept s { s with dev := d } := ⟨h, id, id, id⟩

theorem StateKept.ite {c : Prop} [Decidable c] (ht : StateKept s t) (hu : StateKept s u) :
    StateKept s (if c then t else u) := by
  split
  · exact ht
  · exact hu

theorem Preserves.next (h : StateKept s t) : Preserves s (.next t) := fun x hx => by
  cases hx
  exact h

theorem Preserves.act {f : Dev → Dev} (hf : ∀ d, Keeps false s.dev d → Keeps false s.dev (f d)) : Preserves s (s.act f) := by
  unfold State.act
  exact Preserves.next (StateKept.ite (StateKept.onDev (hf _ Keeps.refl)) StateKept.refl)

theorem StateKept.byHart {f : Dev → Dev} {hart : Nat} (hf : ∀ d, Keeps false s.dev d → Keeps false s.dev (f d)) :
    StateKept s (s.byHart hart f) := by
  unfold State.byHart
  split
  · exact StateKept.onDev (hf _ Keeps.refl)
  · exact StateKept.refl

theorem StateKept.onHart {f : Hart → Hart} {hart : Nat} : StateKept s (s.onHart hart f) := by
  unfold State.onHart
  split
  · exact ⟨Keeps.refl, fun x => by simpa using x, id, id⟩
  · exact StateKept.refl

theorem StateKept.hartReads {f : Dev → Word × Dev} {hart : Nat} (hf : ∀ d, Keeps false s.dev d → Keeps false s.dev (f d).2) :
    StateKept s (s.hartReads hart f) := by
  unfold State.hartReads
  split
  · exact ⟨hf _ Keeps.refl, fun x => by simpa using x, id, id⟩
  · exact StateKept.refl

theorem StateKept.atMailbox {f : Hart → State} {hart : Nat} (hf : ∀ h, StateKept s (f h)) : StateKept s (s.atMailbox hart f) := by
  unfold State.atMailbox
  split
  · exact hf _
  · exact StateKept.refl

theorem Preserves.access {f : Dev → Dev} {hart : Nat} {p : Page} {w : Bool}
    (hf : ∀ d, Keeps false s.dev d → Keeps false s.dev (f d)) : Preserves s (s.access hart p w f) := by
  unfold State.access
  exact Preserves.next (StateKept.byHart fun d h => Keeps.ite (hf d h) h)

theorem Preserves.request {hart : Nat} {p : Page} {c : Nat} {gen : BitVec 8} : Preserves s (s.request hart p c gen) := by
  unfold State.request
  exact Preserves.next (StateKept.byHart fun d h => Keeps.ite (h.stateRequest p c gen.toNat) h)

theorem Preserves.cmpMessage {pk : Packet} {fs : List BlockFinding} {ok : Nat → Bool} : Preserves s (s.cmpMessage pk fs ok) := by
  unfold State.cmpMessage
  exact Preserves.act fun d h => Keeps.ite ((h.found [] fs).receiveCmp pk) h

theorem Preserves.redMessage {m : Packet} {fs : List BlockFinding} {cls : Nat} {ok : Nat → Bool} :
    Preserves s (s.redMessage m fs cls ok) := by
  unfold State.redMessage
  refine Preserves.act fun d h => Keeps.ite ?_ h
  dsimp only
  split
  · exact ((h.found _ fs).receiveRed m).loseRed _ _
  · exact h.receiveRed m

theorem Preserves.skMessage {m : Packet} {type : Nat} {f : SkMsg → Dev → Dev}
    (hf : ∀ x d, Keeps false s.dev d → Keeps false s.dev (f x d)) : Preserves s (s.skMessage m type f) := by
  unfold State.skMessage
  exact Preserves.act fun d h => Keeps.ite (Keeps.ite (hf _ _ (h.takePacket m)) ((h.takePacket m).pageFault _)) h

theorem Preserves.pause {m : Packet} {type : Nat} : Preserves s (s.pause m type) := by
  unfold State.pause
  exact Preserves.act fun d h =>
    Keeps.ite (Keeps.ite ((h.takePacket m).hngStaleOne _) ((h.takePacket m).pauseStream _ _ _ _)) h

theorem Preserves.kernel {st : Stream} {ev : OpEvents} {kind : Nat} {effect : Decoded → KernelCmd → Option Kept → ByteSource → Dev → Dev}
    (hf : ∀ c k q y d, Keeps false s.dev d → Keeps false s.dev (effect c k q y d)) : Preserves s (s.kernel st ev kind effect) := by
  unfold State.kernel
  refine Preserves.act fun d h => h.issueIf st _ fun c => ?_
  split
  · exact KeepsOpt.ite (KeepsOpt.some (h.operate _ _ _ _ _ _ fun y x hx => (hf _ _ _ _ _ (hx.dupVector st)).dupRows _ _ _ _ _ _)) KeepsOpt.none
  · exact KeepsOpt.none

theorem Preserves.copy {st : Stream} {ev : OpEvents} {tr : Bool} : Preserves s (s.copy st ev tr) := by
  unfold State.copy
  refine Preserves.act fun d h => h.issueIf st _ fun c => ?_
  split
  · exact KeepsOpt.ite (KeepsOpt.some (h.operate _ _ _ _ _ _ fun y x hx => hx.copyEffect _ _ _ _)) KeepsOpt.none
  · exact KeepsOpt.none

theorem Preserves.xchg {ev : OpEvents} {kind : Nat} {effect : Decoded → XchgCmd → Bool → ByteSource → Dev → Dev}
    (hf : ∀ c k b y d, Keeps false s.dev d → Keeps false s.dev (effect c k b y d)) : Preserves s (s.xchg ev kind effect) := by
  unfold State.xchg
  refine Preserves.act fun d h => h.issueIf .main _ fun c => ?_
  split
  · exact KeepsOpt.ite (KeepsOpt.some (h.operate _ _ _ _ _ _ fun y x hx => hf _ _ _ _ _ hx)) KeepsOpt.none
  · exact KeepsOpt.none

theorem Preserves.reduce {ev : OpEvents} {kind : Nat} : Preserves s (s.reduce ev kind) := by
  unfold State.reduce
  refine Preserves.act fun d h => h.issueIf .main _ fun c => ?_
  split
  · exact KeepsOpt.ite KeepsOpt.none (KeepsOpt.ite (KeepsOpt.some ((h.issue _ _ _ _).rejectRun _ _ _))
      (KeepsOpt.ite KeepsOpt.none (KeepsOpt.some (h.operate _ _ _ _ _ _ fun y x hx => hx.reduceEffect _ _ _ _))))
  · exact KeepsOpt.none

theorem Preserves.helmSet {ev : OpEvents} {kind : Nat} : Preserves s (s.helmSet ev kind) := by
  unfold State.helmSet
  refine Preserves.act fun d h => h.issueIf .main _ fun c => ?_
  split
  · exact KeepsOpt.ite (KeepsOpt.some (h.operate _ _ _ _ _ _ fun y x hx => hx.helmSetEffect _ _ _ _)) KeepsOpt.none
  · exact KeepsOpt.none

theorem Preserves.logmark {ev : OpEvents} {kind : Nat} : Preserves s (s.logmark ev kind) := by
  unfold State.logmark
  refine Preserves.act fun d h => h.issueIf .main _ fun c => ?_
  split
  · exact KeepsOpt.ite KeepsOpt.none (KeepsOpt.some (h.operate _ _ _ _ _ _ fun y x hx => hx.record _))
  · exact KeepsOpt.none

end Sys2Proof.Machine
end

