-- ==== Sys2Proof/Laws/PreserveState.lean ====
section
/-! SUPPORT. What the operations on the whole machine keep: resets, the carrier controller, the mailboxes, the claims. -/
set_option Elab.async false
namespace Sys2Proof.Machine

variable {s t : State}

/-! Mailboxes (R415). -/

theorem mailboxesSound_reset : mailboxesSound mailboxesReset := by
  refine ⟨by decide, ?_⟩
  decide

theorem Mailbox.sound_iff {b : Mailbox} : b.sound = true ↔ b.packets.length ≤ 64 ∧ b.owner < 28 := decide_eq_true_iff

theorem Mailbox.put_sound {b : Mailbox} (h : b.sound = true) (p : MbxPacket) : (b.put p).sound = true := by
  rw [Mailbox.sound_iff] at h ⊢
  unfold Mailbox.put mailboxSize
  split
  · exact ⟨by simp; omega, h.2⟩
  · exact h

theorem Mailbox.getLo_sound {b : Mailbox} (h : b.sound = true) : b.getLo.2.sound = true := by
  unfold Mailbox.getLo
  split <;> exact h

theorem Mailbox.getHi_sound {b : Mailbox} (h : b.sound = true) : b.getHi.2.sound = true := by
  rw [Mailbox.sound_iff] at h ⊢
  unfold Mailbox.getHi
  split
  · rename_i hp
    rw [hp] at h
    simp only [List.length_cons] at h
    exact ⟨by dsimp only; omega, h.2⟩
  · exact h

theorem Mailbox.control_sound {b : Mailbox} (h : b.sound = true) (v : Word) : (b.control v).sound = true := by
  rw [Mailbox.sound_iff] at h ⊢
  refine ⟨h.1, ?_⟩
  show (if b.packets.isEmpty then min 27 (bits v 4 0) else b.owner) < 28
  split
  · omega
  · exact h.2

theorem State.mailbox_sound (h : mailboxesSound s.mbx) (m : Nat) : (s.mailbox m).sound = true := by
  unfold State.mailbox
  rw [List.getD_eq_getElem?_getD]
  cases hm : s.mbx[m]? with
  | none =>
    rw [Mailbox.sound_iff]
    exact ⟨Nat.zero_le _, Nat.mod_lt _ (by decide)⟩
  | some b => exact h.2 b (List.mem_of_getElem? hm)

theorem mailboxesSound_set {bs : List Mailbox} (h : mailboxesSound bs) {b : Mailbox} (hb : b.sound = true) (m : Nat) :
    mailboxesSound (bs.set m b) := by
  refine ⟨by simpa using h.1, fun x hx => ?_⟩
  rcases List.mem_or_eq_of_mem_set hx with hx | rfl
  · exact h.2 x hx
  · exact hb

/-! Claims (R420, R421). -/

theorem claimsSound_reset : claimsSound (List.replicate 28 []) :=
  ⟨by simp, fun c hc => by rw [List.eq_of_mem_replicate hc]; rfl⟩

theorem claimsSound_getD {cs : List (List Claim)} (h : claimsSound cs) (i : Nat) : nested (cs.getD i []) = true := by
  rw [List.getD_eq_getElem?_getD]
  cases hc : cs[i]? with
  | none => rfl
  | some c => exact h.2 c (List.mem_of_getElem? hc)

theorem claimsSound_set {cs : List (List Claim)} (h : claimsSound cs) {c : List Claim} (hc : nested c = true) (i : Nat) :
    claimsSound (cs.set i c) := by
  refine ⟨by simpa using h.1, fun x hx => ?_⟩
  rcases List.mem_or_eq_of_mem_set hx with hx | rfl
  · exact h.2 x hx
  · exact hc

theorem nested_tail {c : Claim} {cs : List Claim} (h : nested (c :: cs) = true) : nested cs = true := by
  cases cs with
  | nil => rfl
  | cons d cs =>
    simp only [nested, Bool.and_eq_true] at h
    exact h.2

theorem bits_lt (w : Word) (hi lo : Nat) : bits w hi lo < 2 ^ (hi + 1 - lo) := Nat.mod_lt _ (Nat.two_pow_pos _)

theorem Dev.prioOf_lt (d : Dev) (x : Nat) : d.prioOf x < 16 := by
  have := bits_lt (d.reg (Reg.irqPrio (x / 8))) (4 * (x % 8) + 3) (4 * (x % 8))
  have e : 4 * (x % 8) + 3 + 1 - 4 * (x % 8) = 4 := by omega
  rw [e] at this
  exact this

/-- The hart picked for a source runs below the source's priority (R420). -/
theorem Dev.pick_lt {d : Dev} {eff : List Nat} {x h : Nat} (hp : d.pick eff x = some h) : eff.getD h 0 < d.prioOf x := by
  have := List.find?_some hp
  simp only [Bool.and_eq_true, decide_eq_true_eq] at this
  exact this.1.2

/-- A source offered to a hart has a priority above the one the hart runs at (R420). -/
theorem Dev.offersFrom_lt {d : Dev} {eff : List Nat} {xs : List Nat} {x h : Nat} (ho : (x, h) ∈ d.offersFrom eff xs) :
    eff.getD h 0 < d.prioOf x := by
  induction xs generalizing eff with
  | nil => simp [Dev.offersFrom] at ho
  | cons y ys ih =>
    unfold Dev.offersFrom at ho
    split at ho
    · rename_i k hk
      rcases List.mem_cons.mp ho with he | ho
      · cases he
        exact Dev.pick_lt hk
      · have hl := ih ho
        by_cases hkh : k = h
        · subst hkh
          by_cases hlen : k < eff.length
          · simp only [List.getD_eq_getElem?_getD, List.getElem?_set_self hlen, Option.getD_some] at hl
            exact Nat.lt_trans (Dev.pick_lt hk) hl
          · rw [List.set_eq_of_length_le (by omega)] at hl
            exact hl
        · simpa [List.getD_eq_getElem?_getD, List.getElem?_set_ne hkh] using hl
    · exact ih ho

theorem State.offered_lt {h x : Nat} (hh : h < 28) (ho : s.offered h = some x) : running s.claims h < s.dev.prioOf x := by
  unfold State.offered at ho
  rw [Option.map_eq_some_iff] at ho
  obtain ⟨⟨y, k⟩, hf, hy⟩ := ho
  have hk : k = h := by simpa using List.find?_some hf
  subst hk
  have hm := List.mem_of_find?_eq_some hf
  have := Dev.offersFrom_lt hm
  have hy : y = x := hy
  subst hy
  simpa [List.getD_eq_getElem?_getD, hh] using this

/-- A claim keeps the claims of its hart nested (R421). -/
theorem nested_push {cs : List (List Claim)} {i p x : Nat} (h : nested (cs.getD i []) = true) (h1 : running cs i < p)
    (h2 : p < 16) : nested (⟨x, p⟩ :: cs.getD i []) = true := by
  unfold running at h1
  cases hc : cs.getD i [] with
  | nil =>
    simp only [nested, decide_eq_true_eq]
    omega
  | cons c rest =>
    rw [hc] at h h1
    simp only [nested, Bool.and_eq_true, decide_eq_true_eq]
    exact ⟨⟨h1, by omega⟩, h⟩

/-! The whole machine. -/

theorem Keeps.resetWith (flash : Flash) (ext : List ExtInput) (now ctr : Nat) (o : Dev) :
    Keeps false o (Dev.resetWith flash ext now ctr) :=
  ⟨fun _ => rfl, fun _ => rfl, (fun x => by cases x), (fun x => by cases x), (fun x => by cases x)⟩

theorem hartsReset_length : hartsReset.length = 28 := by decide

theorem StateKept.release (cause : Nat) : StateKept s (s.release cause) := by
  unfold State.release
  refine ⟨?_, fun _ => hartsReset_length, fun _ => mailboxesSound_reset, fun _ => claimsSound_reset⟩
  exact Keeps.ite (((Keeps.resetWith _ _ _ _ _).newNonce).raise _ _) ((Keeps.resetWith _ _ _ _ _).newNonce)

theorem StateKept.toPhase (p : CarrierPhase) : StateKept s (s.toPhase p) := ⟨Keeps.refl, id, id, id⟩

theorem StateKept.resetPackage (cause : Nat) : StateKept s (s.resetPackage cause) := by
  unfold State.resetPackage
  exact StateKept.ite (StateKept.release cause) ⟨Keeps.refl, id, id, id⟩

theorem StateKept.unpowered : StateKept s s.unpowered :=
  ⟨Keeps.resetWith _ _ _ _ _, fun _ => by simp [State.unpowered], fun _ => mailboxesSound_reset, fun _ => claimsSound_reset⟩

theorem StateKept.cutPower (p : CarrierPhase) : StateKept s (s.cutPower p) :=
  ((StateKept.onDev (Keeps.refl.cutSpill)).trans StateKept.unpowered).trans (StateKept.toPhase _)

theorem StateKept.powerOff (p : CarrierPhase) : StateKept s (s.powerOff p) := by
  unfold State.powerOff
  refine StateKept.trans ?_ (StateKept.toPhase _)
  exact ⟨Keeps.refl.cutSpill, id, id, id⟩

theorem StateKept.carrier (c : Carrier) : StateKept s { s with carrier := c } := ⟨Keeps.refl, id, id, id⟩

theorem StateKept.restart (cause : Nat) : StateKept s (s.restart cause) :=
  (StateKept.carrier _).trans (StateKept.toPhase _)

theorem StateKept.sample (input : List InputRun) : StateKept s (s.sample input) := by
  unfold State.sample
  exact StateKept.ite StateKept.refl (StateKept.carrier _)

/-- What is kept up to a state is kept before it. -/
theorem Preserves.after {x : Host.Outcome State Fault Refusal} (h : StateKept s t) (hx : Preserves t x) : Preserves s x :=
  fun u hu => h.trans (hx u hu)

theorem StateKept.stage2 : StateKept s s.stage2 := by
  unfold State.stage2
  dsimp only
  split
  · exact ⟨Keeps.nextStage (Keeps.loadComponents (Keeps.refl.other) _), id, id, id⟩
  · exact ⟨Keeps.refl.recover _ _ _, id, id, id⟩

theorem StateKept.stage6Fails (code : Nat) : StateKept s (s.stage6Fails code) := by
  unfold State.stage6Fails
  exact (StateKept.carrier _).trans (StateKept.resetPackage _)

theorem StateKept.stage6 : StateKept s s.stage6 := by
  unfold State.stage6
  dsimp only
  refine StateKept.ite (StateKept.stage6Fails _) (StateKept.ite (StateKept.stage6Fails _) ⟨?_, id, id, id⟩)
  exact (((Keeps.ite Keeps.refl (Keeps.refl.raise _ _)).moveTo _ _).loadComponents _).nextStage

theorem StateKept.stageDone : StateKept s s.stageDone := by
  unfold State.stageDone
  dsimp only
  split
  · exact StateKept.ite (StateKept.onDev Keeps.refl.nextStage) (StateKept.onDev (Keeps.refl.bootFail _ _))
  · exact StateKept.stage2
  · exact StateKept.onDev (Keeps.refl.wake _).nextStage
  · exact StateKept.ite (StateKept.onDev Keeps.refl.nextStage) StateKept.refl
  · exact StateKept.onDev (Keeps.refl.applyMaps _).nextStage
  · exact StateKept.stage6
  · exact ⟨(Keeps.refl.loadComponents _).loadDefaults.loadCoefs.nextStage, fun x => by simpa using x, id, id⟩
  · exact StateKept.onDev (Keeps.refl.moveTo _ _).drainSpill.nextStage
  · exact StateKept.onDev ((Keeps.refl.moveTo _ _).raise _ _).other
  · exact StateKept.refl

theorem StateKept.readMailbox {hart m : Nat} {f : Mailbox → Word × Mailbox}
    (hf : ∀ b, b.sound = true → (f b).2.sound = true) : StateKept s (s.readMailbox hart m f) := by
  unfold State.readMailbox
  refine StateKept.atMailbox fun h => ?_
  refine StateKept.ite ?_ ⟨Keeps.refl, fun x => by simpa using x, id, id⟩
  exact ⟨Keeps.ite (Keeps.refl.raise _ _) Keeps.refl, fun x => by simpa using x,
    fun x => mailboxesSound_set x (hf _ (State.mailbox_sound x m)) m, id⟩

end Sys2Proof.Machine
end

