-- ==== Sys2Proof/Laws/PreserveRows.lean ====
section
/-! SUPPORT. Every command keeps what makes a state sound: one lemma for each row of the table. -/
set_option linter.unusedTactic false
set_option linter.unreachableTactic false
set_option Elab.async false
set_option linter.unusedSimpArgs false

namespace Sys2Proof.Machine

variable {s : State}

theorem preserves_execNop (st : Stream) : Preserves s (execNop st s) := by
  unfold execNop
  refine Preserves.act fun d h => ?_
  try dsimp only
  repeat' first
    | with_reducible assumption | with_reducible exact h | with_reducible exact KeepsOpt.none
    | with_reducible apply Keeps.issueIf | with_reducible apply Keeps.instant | with_reducible apply KeepsOpt.some
    | with_reducible apply KeepsOpt.ite | with_reducible apply Keeps.ite | with_reducible apply Keeps.ite1
    | with_reducible apply Keeps.ite2 | with_reducible apply Keeps.foldl | with_reducible apply Keeps.foldl_fst
    | with_reducible apply Keeps.foldl_snd | simp only [Keeps.upd] | simp only [Keeps.updFree] | intro _ _ _
    | intro _ _ | intro _ | dsimp only | split | rfl | assumption

theorem preserves_execFence (st : Stream) : Preserves s (execFence st s) := by
  unfold execFence
  refine Preserves.act fun d h => ?_
  try dsimp only
  repeat' first
    | with_reducible assumption | with_reducible exact h | with_reducible exact KeepsOpt.none
    | with_reducible apply Keeps.issueIf | with_reducible apply Keeps.issue | with_reducible apply KeepsOpt.some
    | with_reducible apply KeepsOpt.ite | with_reducible apply Keeps.ite | with_reducible apply Keeps.ite1
    | with_reducible apply Keeps.ite2 | with_reducible apply Keeps.foldl | with_reducible apply Keeps.foldl_fst
    | with_reducible apply Keeps.foldl_snd | simp only [Keeps.upd] | simp only [Keeps.updFree] | intro _ _ _
    | intro _ _ | intro _ | dsimp only | split | rfl | assumption

theorem preserves_execFenceComplete (st : Stream) : Preserves s (execFenceComplete st s) := by
  unfold execFenceComplete
  refine Preserves.act fun d h => ?_
  try dsimp only
  repeat' first
    | with_reducible assumption | with_reducible exact h | with_reducible exact KeepsOpt.none
    | with_reducible apply Keeps.settle | with_reducible apply Keeps.complete | with_reducible apply Keeps.raise
    | with_reducible apply Keeps.setReg | with_reducible apply KeepsOpt.some | with_reducible apply KeepsOpt.ite
    | with_reducible apply Keeps.ite | with_reducible apply Keeps.ite1 | with_reducible apply Keeps.ite2
    | with_reducible apply Keeps.foldl | with_reducible apply Keeps.foldl_fst | with_reducible apply Keeps.foldl_snd
    | simp only [Keeps.upd] | simp only [Keeps.updFree] | intro _ _ _ | intro _ _ | intro _ | dsimp only | split | rfl
    | assumption

theorem preserves_execFlush (st : Stream) : Preserves s (execFlush st s) := by
  unfold execFlush
  refine Preserves.act fun d h => ?_
  try dsimp only
  repeat' first
    | with_reducible assumption | with_reducible exact h | with_reducible exact KeepsOpt.none
    | with_reducible apply Keeps.issueIf | with_reducible apply Keeps.issue | with_reducible apply KeepsOpt.some
    | with_reducible apply KeepsOpt.ite | with_reducible apply Keeps.ite | with_reducible apply Keeps.ite1
    | with_reducible apply Keeps.ite2 | with_reducible apply Keeps.foldl | with_reducible apply Keeps.foldl_fst
    | with_reducible apply Keeps.foldl_snd | simp only [Keeps.upd] | simp only [Keeps.updFree] | intro _ _ _
    | intro _ _ | intro _ | dsimp only | split | rfl | assumption

theorem preserves_execFlushComplete (st : Stream) : Preserves s (execFlushComplete st s) := by
  unfold execFlushComplete
  refine Preserves.act fun d h => ?_
  try dsimp only
  repeat' first
    | with_reducible assumption | with_reducible exact h | with_reducible exact KeepsOpt.none
    | with_reducible apply Keeps.setStreamFree | with_reducible apply Keeps.complete
    | with_reducible apply KeepsOpt.some | with_reducible apply KeepsOpt.ite | with_reducible apply Keeps.ite
    | with_reducible apply Keeps.ite1 | with_reducible apply Keeps.ite2 | with_reducible apply Keeps.foldl
    | with_reducible apply Keeps.foldl_fst | with_reducible apply Keeps.foldl_snd | simp only [Keeps.upd]
    | simp only [Keeps.updFree] | intro _ _ _ | intro _ _ | intro _ | dsimp only | split | rfl | assumption

theorem preserves_execWait (st : Stream) : Preserves s (execWait st s) := by
  unfold execWait
  refine Preserves.act fun d h => ?_
  try dsimp only
  repeat' first
    | with_reducible assumption | with_reducible exact h | with_reducible exact KeepsOpt.none
    | with_reducible apply Keeps.issueIf | with_reducible apply Keeps.issue | with_reducible apply Keeps.endWait
    | with_reducible apply KeepsOpt.some | with_reducible apply KeepsOpt.ite | with_reducible apply Keeps.ite
    | with_reducible apply Keeps.ite1 | with_reducible apply Keeps.ite2 | with_reducible apply Keeps.foldl
    | with_reducible apply Keeps.foldl_fst | with_reducible apply Keeps.foldl_snd | simp only [Keeps.upd]
    | simp only [Keeps.updFree] | intro _ _ _ | intro _ _ | intro _ | dsimp only | split | rfl | assumption

theorem preserves_execWaitComplete (st : Stream) : Preserves s (execWaitComplete st s) := by
  unfold execWaitComplete
  refine Preserves.act fun d h => ?_
  try dsimp only
  repeat' first
    | with_reducible assumption | with_reducible exact h | with_reducible exact KeepsOpt.none
    | with_reducible apply Keeps.endWait | with_reducible apply KeepsOpt.some | with_reducible apply KeepsOpt.ite
    | with_reducible apply Keeps.ite | with_reducible apply Keeps.ite1 | with_reducible apply Keeps.ite2
    | with_reducible apply Keeps.foldl | with_reducible apply Keeps.foldl_fst | with_reducible apply Keeps.foldl_snd
    | simp only [Keeps.upd] | simp only [Keeps.updFree] | intro _ _ _ | intro _ _ | intro _ | dsimp only | split | rfl
    | assumption

theorem preserves_execWaitTimeout (st : Stream) : Preserves s (execWaitTimeout st s) := by
  unfold execWaitTimeout
  refine Preserves.act fun d h => ?_
  try dsimp only
  repeat' first
    | with_reducible assumption | with_reducible exact h | with_reducible exact KeepsOpt.none
    | with_reducible apply Keeps.rejectRun | with_reducible apply KeepsOpt.some | with_reducible apply KeepsOpt.ite
    | with_reducible apply Keeps.ite | with_reducible apply Keeps.ite1 | with_reducible apply Keeps.ite2
    | with_reducible apply Keeps.foldl | with_reducible apply Keeps.foldl_fst | with_reducible apply Keeps.foldl_snd
    | simp only [Keeps.upd] | simp only [Keeps.updFree] | intro _ _ _ | intro _ _ | intro _ | dsimp only | split | rfl
    | assumption

theorem preserves_execSetpred (st : Stream) (blocks : List BlockFinding) : Preserves s (execSetpred st s blocks) := by
  unfold execSetpred
  refine Preserves.act fun d h => ?_
  try dsimp only
  repeat' first
    | with_reducible assumption | with_reducible exact h | with_reducible exact KeepsOpt.none
    | with_reducible apply Keeps.runSetpred | with_reducible apply Keeps.found | with_reducible apply KeepsOpt.some
    | with_reducible apply KeepsOpt.ite | with_reducible apply Keeps.ite | with_reducible apply Keeps.ite1
    | with_reducible apply Keeps.ite2 | with_reducible apply Keeps.foldl | with_reducible apply Keeps.foldl_fst
    | with_reducible apply Keeps.foldl_snd | simp only [Keeps.upd] | simp only [Keeps.updFree] | intro _ _ _
    | intro _ _ | intro _ | dsimp only | split | rfl | assumption

theorem preserves_execStamp (st : Stream) (blocks : List BlockFinding) : Preserves s (execStamp st s blocks) := by
  unfold execStamp
  refine Preserves.act fun d h => ?_
  try dsimp only
  repeat' first
    | with_reducible assumption | with_reducible exact h | with_reducible exact KeepsOpt.none
    | with_reducible apply Keeps.runStamp | with_reducible apply Keeps.found | with_reducible apply KeepsOpt.some
    | with_reducible apply KeepsOpt.ite | with_reducible apply Keeps.ite | with_reducible apply Keeps.ite1
    | with_reducible apply Keeps.ite2 | with_reducible apply Keeps.foldl | with_reducible apply Keeps.foldl_fst
    | with_reducible apply Keeps.foldl_snd | simp only [Keeps.upd] | simp only [Keeps.updFree] | intro _ _ _
    | intro _ _ | intro _ | dsimp only | split | rfl | assumption

theorem preserves_execCall (st : Stream) : Preserves s (execCall st s) := by
  unfold execCall
  refine Preserves.act fun d h => ?_
  try dsimp only
  repeat' first
    | with_reducible assumption | with_reducible exact h | with_reducible exact KeepsOpt.none
    | with_reducible apply Keeps.issueIf | with_reducible apply Keeps.issue | with_reducible apply Keeps.completeAt
    | with_reducible apply KeepsOpt.some | with_reducible apply KeepsOpt.ite | with_reducible apply Keeps.ite
    | with_reducible apply Keeps.ite1 | with_reducible apply Keeps.ite2 | with_reducible apply Keeps.foldl
    | with_reducible apply Keeps.foldl_fst | with_reducible apply Keeps.foldl_snd | simp only [Keeps.upd]
    | simp only [Keeps.updFree] | intro _ _ _ | intro _ _ | intro _ | dsimp only | split | rfl | assumption

theorem preserves_execRet (st : Stream) : Preserves s (execRet st s) := by
  unfold execRet
  refine Preserves.act fun d h => ?_
  try dsimp only
  repeat' first
    | with_reducible assumption | with_reducible exact h | with_reducible exact KeepsOpt.none
    | with_reducible apply Keeps.issueIf | with_reducible apply Keeps.issue | with_reducible apply Keeps.completeAt
    | with_reducible apply KeepsOpt.some | with_reducible apply KeepsOpt.ite | with_reducible apply Keeps.ite
    | with_reducible apply Keeps.ite1 | with_reducible apply Keeps.ite2 | with_reducible apply Keeps.foldl
    | with_reducible apply Keeps.foldl_fst | with_reducible apply Keeps.foldl_snd | simp only [Keeps.upd]
    | simp only [Keeps.updFree] | intro _ _ _ | intro _ _ | intro _ | dsimp only | split | rfl | assumption

theorem preserves_execCommandDecode (st : Stream) (blocks : List BlockFinding) : Preserves s (execCommandDecode st s blocks) := by
  unfold execCommandDecode
  refine Preserves.act fun d h => ?_
  try dsimp only
  repeat' first
    | with_reducible assumption | with_reducible exact h | with_reducible exact KeepsOpt.none
    | with_reducible apply Keeps.fetch | with_reducible apply Keeps.found | with_reducible apply KeepsOpt.some
    | with_reducible apply KeepsOpt.ite | with_reducible apply Keeps.ite | with_reducible apply Keeps.ite1
    | with_reducible apply Keeps.ite2 | with_reducible apply Keeps.foldl | with_reducible apply Keeps.foldl_fst
    | with_reducible apply Keeps.foldl_snd | simp only [Keeps.upd] | simp only [Keeps.updFree] | intro _ _ _
    | intro _ _ | intro _ | dsimp only | split | rfl | assumption

theorem preserves_execCommandReject (st : Stream) : Preserves s (execCommandReject st s) := by
  unfold execCommandReject
  refine Preserves.act fun d h => ?_
  try dsimp only
  repeat' first
    | with_reducible assumption | with_reducible exact h | with_reducible exact KeepsOpt.none
    | with_reducible apply Keeps.reject | with_reducible apply Keeps.vtbReject | with_reducible apply KeepsOpt.some
    | with_reducible apply KeepsOpt.ite | with_reducible apply Keeps.ite | with_reducible apply Keeps.ite1
    | with_reducible apply Keeps.ite2 | with_reducible apply Keeps.foldl | with_reducible apply Keeps.foldl_fst
    | with_reducible apply Keeps.foldl_snd | simp only [Keeps.upd] | simp only [Keeps.updFree] | intro _ _ _
    | intro _ _ | intro _ | dsimp only | split | rfl | assumption

theorem preserves_execBfOverrun  : Preserves s (execBfOverrun s) := by
  unfold execBfOverrun
  refine Preserves.act fun d h => ?_
  try dsimp only
  repeat' first
    | with_reducible assumption | with_reducible exact h | with_reducible exact KeepsOpt.none
    | with_reducible apply Keeps.countOverrun | with_reducible apply KeepsOpt.some | with_reducible apply KeepsOpt.ite
    | with_reducible apply Keeps.ite | with_reducible apply Keeps.ite1 | with_reducible apply Keeps.ite2
    | with_reducible apply Keeps.foldl | with_reducible apply Keeps.foldl_fst | with_reducible apply Keeps.foldl_snd
    | simp only [Keeps.upd] | simp only [Keeps.updFree] | intro _ _ _ | intro _ _ | intro _ | dsimp only | split | rfl
    | assumption

theorem preserves_execBfEnableEffect  : Preserves s (execBfEnableEffect s) := by
  unfold execBfEnableEffect
  refine Preserves.act fun d h => ?_
  try dsimp only
  repeat' first
    | with_reducible assumption | with_reducible exact h | with_reducible exact KeepsOpt.none
    | with_reducible apply Keeps.setFlag | with_reducible apply KeepsOpt.some | with_reducible apply KeepsOpt.ite
    | with_reducible apply Keeps.ite | with_reducible apply Keeps.ite1 | with_reducible apply Keeps.ite2
    | with_reducible apply Keeps.foldl | with_reducible apply Keeps.foldl_fst | with_reducible apply Keeps.foldl_snd
    | simp only [Keeps.upd] | simp only [Keeps.updFree] | intro _ _ _ | intro _ _ | intro _ | dsimp only | split | rfl
    | assumption

theorem preserves_execMatmul (st : Stream) (ev : OpEvents) : Preserves s (execMatmul st ev s) := by
  unfold execMatmul
  refine Preserves.act fun d h => ?_
  try dsimp only
  repeat' first
    | with_reducible assumption | with_reducible exact h | with_reducible exact KeepsOpt.none
    | with_reducible apply Keeps.issueIf | with_reducible apply Keeps.operate
    | with_reducible apply Keeps.matmulEffect | with_reducible apply KeepsOpt.some | with_reducible apply KeepsOpt.ite
    | with_reducible apply Keeps.ite | with_reducible apply Keeps.ite1 | with_reducible apply Keeps.ite2
    | with_reducible apply Keeps.foldl | with_reducible apply Keeps.foldl_fst | with_reducible apply Keeps.foldl_snd
    | simp only [Keeps.upd] | simp only [Keeps.updFree] | intro _ _ _ | intro _ _ | intro _ | dsimp only | split | rfl
    | assumption

theorem preserves_execMatmulH (st : Stream) (ev : OpEvents) : Preserves s (execMatmulH st ev s) := by
  unfold execMatmulH
  refine Preserves.act fun d h => ?_
  try dsimp only
  repeat' first
    | with_reducible assumption | with_reducible exact h | with_reducible exact KeepsOpt.none
    | with_reducible apply Keeps.issueIf | with_reducible apply Keeps.operate
    | with_reducible apply Keeps.heritageEffect | with_reducible apply KeepsOpt.some
    | with_reducible apply KeepsOpt.ite | with_reducible apply Keeps.ite | with_reducible apply Keeps.ite1
    | with_reducible apply Keeps.ite2 | with_reducible apply Keeps.foldl | with_reducible apply Keeps.foldl_fst
    | with_reducible apply Keeps.foldl_snd | simp only [Keeps.upd] | simp only [Keeps.updFree] | intro _ _ _
    | intro _ _ | intro _ | dsimp only | split | rfl | assumption

theorem preserves_execCount (m : Packet) (blocks : List BlockFinding) : Preserves s (execCount m s blocks) := by
  unfold execCount
  exact Preserves.cmpMessage

theorem preserves_execGrant (m : Packet) (blocks : List BlockFinding) : Preserves s (execGrant m s blocks) := by
  unfold execGrant
  exact Preserves.cmpMessage

theorem preserves_execPlace (m : Packet) (blocks : List BlockFinding) : Preserves s (execPlace m s blocks) := by
  unfold execPlace
  exact Preserves.cmpMessage

theorem preserves_execRoute (ev : OpEvents) : Preserves s (execRoute ev s) := by
  unfold execRoute
  refine Preserves.act fun d h => ?_
  try dsimp only
  repeat' first
    | with_reducible assumption | with_reducible exact h | with_reducible exact KeepsOpt.none
    | with_reducible apply Keeps.issueIf | with_reducible apply Keeps.rejectRun | with_reducible apply Keeps.issue
    | with_reducible apply Keeps.operate | with_reducible apply Keeps.routeEffect | with_reducible apply KeepsOpt.some
    | with_reducible apply KeepsOpt.ite | with_reducible apply Keeps.ite | with_reducible apply Keeps.ite1
    | with_reducible apply Keeps.ite2 | with_reducible apply Keeps.foldl | with_reducible apply Keeps.foldl_fst
    | with_reducible apply Keeps.foldl_snd | simp only [Keeps.upd] | simp only [Keeps.updFree] | intro _ _ _
    | intro _ _ | intro _ | dsimp only | split | rfl | assumption

theorem preserves_execCompassTimeout (layerSlot : Nat) (microbatch : Nat) : Preserves s (execCompassTimeout layerSlot microbatch s) := by
  unfold execCompassTimeout
  refine Preserves.act fun d h => ?_
  try dsimp only
  repeat' first
    | with_reducible assumption | with_reducible exact h | with_reducible exact KeepsOpt.none
    | with_reducible apply Keeps.abandonRecord | with_reducible apply KeepsOpt.some
    | with_reducible apply KeepsOpt.ite | with_reducible apply Keeps.ite | with_reducible apply Keeps.ite1
    | with_reducible apply Keeps.ite2 | with_reducible apply Keeps.foldl | with_reducible apply Keeps.foldl_fst
    | with_reducible apply Keeps.foldl_snd | simp only [Keeps.upd] | simp only [Keeps.updFree] | intro _ _ _
    | intro _ _ | intro _ | dsimp only | split | rfl | assumption

theorem preserves_execVprog (st : Stream) (ev : OpEvents) : Preserves s (execVprog st ev s) := by
  unfold execVprog
  refine Preserves.act fun d h => ?_
  try dsimp only
  repeat' first
    | with_reducible assumption | with_reducible exact h | with_reducible exact KeepsOpt.none
    | with_reducible apply Keeps.issueIf | with_reducible apply Keeps.operate | with_reducible apply Keeps.dupRows
    | with_reducible apply Keeps.vprogEffect | with_reducible apply KeepsOpt.some | with_reducible apply KeepsOpt.ite
    | with_reducible apply Keeps.ite | with_reducible apply Keeps.ite1 | with_reducible apply Keeps.ite2
    | with_reducible apply Keeps.foldl | with_reducible apply Keeps.foldl_fst | with_reducible apply Keeps.foldl_snd
    | simp only [Keeps.upd] | simp only [Keeps.updFree] | intro _ _ _ | intro _ _ | intro _ | dsimp only | split | rfl
    | assumption

theorem preserves_execSoftmax (st : Stream) (ev : OpEvents) : Preserves s (execSoftmax st ev s) := by
  unfold execSoftmax
  refine Preserves.kernel fun c k src d h => ?_
  try dsimp only
  repeat' first
    | with_reducible assumption | with_reducible exact h | with_reducible exact KeepsOpt.none
    | with_reducible apply Keeps.kernelOut | with_reducible apply KeepsOpt.some | with_reducible apply KeepsOpt.ite
    | with_reducible apply Keeps.ite | with_reducible apply Keeps.ite1 | with_reducible apply Keeps.ite2
    | with_reducible apply Keeps.foldl | with_reducible apply Keeps.foldl_fst | with_reducible apply Keeps.foldl_snd
    | simp only [Keeps.upd] | simp only [Keeps.updFree] | intro _ _ _ | intro _ _ | intro _ | dsimp only | split | rfl
    | assumption

theorem preserves_execNormRms (st : Stream) (ev : OpEvents) : Preserves s (execNormRms st ev s) := by
  unfold execNormRms
  refine Preserves.kernel fun c k src d h => ?_
  try dsimp only
  repeat' first
    | with_reducible assumption | with_reducible exact h | with_reducible exact KeepsOpt.none
    | with_reducible apply Keeps.normEffect | with_reducible apply KeepsOpt.some | with_reducible apply KeepsOpt.ite
    | with_reducible apply Keeps.ite | with_reducible apply Keeps.ite1 | with_reducible apply Keeps.ite2
    | with_reducible apply Keeps.foldl | with_reducible apply Keeps.foldl_fst | with_reducible apply Keeps.foldl_snd
    | simp only [Keeps.upd] | simp only [Keeps.updFree] | intro _ _ _ | intro _ _ | intro _ | dsimp only | split | rfl
    | assumption

theorem preserves_execNormLayer (st : Stream) (ev : OpEvents) : Preserves s (execNormLayer st ev s) := by
  unfold execNormLayer
  refine Preserves.kernel fun c k src d h => ?_
  try dsimp only
  repeat' first
    | with_reducible assumption | with_reducible exact h | with_reducible exact KeepsOpt.none
    | with_reducible apply Keeps.normEffect | with_reducible apply KeepsOpt.some | with_reducible apply KeepsOpt.ite
    | with_reducible apply Keeps.ite | with_reducible apply Keeps.ite1 | with_reducible apply Keeps.ite2
    | with_reducible apply Keeps.foldl | with_reducible apply Keeps.foldl_fst | with_reducible apply Keeps.foldl_snd
    | simp only [Keeps.upd] | simp only [Keeps.updFree] | intro _ _ _ | intro _ _ | intro _ | dsimp only | split | rfl
    | assumption

theorem preserves_execVkernelReduce (st : Stream) (ev : OpEvents) : Preserves s (execVkernelReduce st ev s) := by
  unfold execVkernelReduce
  refine Preserves.kernel fun c k src d h => ?_
  try dsimp only
  repeat' first
    | with_reducible assumption | with_reducible exact h | with_reducible exact KeepsOpt.none
    | with_reducible apply Keeps.countRows | with_reducible apply Keeps.kernelOut | with_reducible apply KeepsOpt.some
    | with_reducible apply KeepsOpt.ite | with_reducible apply Keeps.ite | with_reducible apply Keeps.ite1
    | with_reducible apply Keeps.ite2 | with_reducible apply Keeps.foldl | with_reducible apply Keeps.foldl_fst
    | with_reducible apply Keeps.foldl_snd | simp only [Keeps.upd] | simp only [Keeps.updFree] | intro _ _ _
    | intro _ _ | intro _ | dsimp only | split | rfl | assumption

theorem preserves_execAttnStat (st : Stream) (ev : OpEvents) : Preserves s (execAttnStat st ev s) := by
  unfold execAttnStat
  refine Preserves.kernel fun c k src d h => ?_
  try dsimp only
  repeat' first
    | with_reducible assumption | with_reducible exact h | with_reducible exact KeepsOpt.none
    | with_reducible apply Keeps.kernelOut | with_reducible apply Keeps.attnState | with_reducible apply KeepsOpt.some
    | with_reducible apply KeepsOpt.ite | with_reducible apply Keeps.ite | with_reducible apply Keeps.ite1
    | with_reducible apply Keeps.ite2 | with_reducible apply Keeps.foldl | with_reducible apply Keeps.foldl_fst
    | with_reducible apply Keeps.foldl_snd | simp only [Keeps.upd] | simp only [Keeps.updFree] | intro _ _ _
    | intro _ _ | intro _ | dsimp only | split | rfl | assumption

theorem preserves_execLoss (st : Stream) (ev : OpEvents) : Preserves s (execLoss st ev s) := by
  unfold execLoss
  refine Preserves.kernel fun c k src d h => ?_
  try dsimp only
  repeat' first
    | with_reducible assumption | with_reducible exact h | with_reducible exact KeepsOpt.none
    | with_reducible apply Keeps.vout | with_reducible apply Keeps.vtbCount | with_reducible apply Keeps.lossOut
    | with_reducible apply KeepsOpt.some | with_reducible apply KeepsOpt.ite | with_reducible apply Keeps.ite
    | with_reducible apply Keeps.ite1 | with_reducible apply Keeps.ite2 | with_reducible apply Keeps.foldl
    | with_reducible apply Keeps.foldl_fst | with_reducible apply Keeps.foldl_snd | simp only [Keeps.upd]
    | simp only [Keeps.updFree] | intro _ _ _ | intro _ _ | intro _ | dsimp only | split | rfl | assumption

theorem preserves_execTload (st : Stream) (ev : OpEvents) : Preserves s (execTload st ev s) := by
  unfold execTload
  refine Preserves.act fun d h => ?_
  try dsimp only
  repeat' first
    | with_reducible assumption | with_reducible exact h | with_reducible exact KeepsOpt.none
    | with_reducible apply Keeps.issueIf | with_reducible apply Keeps.operate | with_reducible apply Keeps.tloadEffect
    | with_reducible apply KeepsOpt.some | with_reducible apply KeepsOpt.ite | with_reducible apply Keeps.ite
    | with_reducible apply Keeps.ite1 | with_reducible apply Keeps.ite2 | with_reducible apply Keeps.foldl
    | with_reducible apply Keeps.foldl_fst | with_reducible apply Keeps.foldl_snd | simp only [Keeps.upd]
    | simp only [Keeps.updFree] | intro _ _ _ | intro _ _ | intro _ | dsimp only | split | rfl | assumption

theorem preserves_execDispatch (ev : OpEvents) : Preserves s (execDispatch ev s) := by
  unfold execDispatch
  refine Preserves.xchg fun c k src d h => ?_
  try dsimp only
  repeat' first
    | with_reducible assumption | with_reducible exact h | with_reducible exact KeepsOpt.none
    | with_reducible apply Keeps.moveEffect | with_reducible apply KeepsOpt.some | with_reducible apply KeepsOpt.ite
    | with_reducible apply Keeps.ite | with_reducible apply Keeps.ite1 | with_reducible apply Keeps.ite2
    | with_reducible apply Keeps.foldl | with_reducible apply Keeps.foldl_fst | with_reducible apply Keeps.foldl_snd
    | simp only [Keeps.upd] | simp only [Keeps.updFree] | intro _ _ _ | intro _ _ | intro _ | dsimp only | split | rfl
    | assumption

theorem preserves_execXchgReturn (ev : OpEvents) : Preserves s (execXchgReturn ev s) := by
  unfold execXchgReturn
  refine Preserves.xchg fun c k src d h => ?_
  try dsimp only
  repeat' first
    | with_reducible assumption | with_reducible exact h | with_reducible exact KeepsOpt.none
    | with_reducible apply Keeps.moveEffect | with_reducible apply KeepsOpt.some | with_reducible apply KeepsOpt.ite
    | with_reducible apply Keeps.ite | with_reducible apply Keeps.ite1 | with_reducible apply Keeps.ite2
    | with_reducible apply Keeps.foldl | with_reducible apply Keeps.foldl_fst | with_reducible apply Keeps.foldl_snd
    | simp only [Keeps.upd] | simp only [Keeps.updFree] | intro _ _ _ | intro _ _ | intro _ | dsimp only | split | rfl
    | assumption

theorem preserves_execCombine (ev : OpEvents) : Preserves s (execCombine ev s) := by
  unfold execCombine
  refine Preserves.xchg fun c k src d h => ?_
  try dsimp only
  repeat' first
    | with_reducible assumption | with_reducible exact h | with_reducible exact KeepsOpt.none
    | with_reducible apply Keeps.combineEffect | with_reducible apply KeepsOpt.some
    | with_reducible apply KeepsOpt.ite | with_reducible apply Keeps.ite | with_reducible apply Keeps.ite1
    | with_reducible apply Keeps.ite2 | with_reducible apply Keeps.foldl | with_reducible apply Keeps.foldl_fst
    | with_reducible apply Keeps.foldl_snd | simp only [Keeps.upd] | simp only [Keeps.updFree] | intro _ _ _
    | intro _ _ | intro _ | dsimp only | split | rfl | assumption

theorem preserves_execGradDispatch (ev : OpEvents) : Preserves s (execGradDispatch ev s) := by
  unfold execGradDispatch
  refine Preserves.xchg fun c k src d h => ?_
  try dsimp only
  repeat' first
    | with_reducible assumption | with_reducible exact h | with_reducible exact KeepsOpt.none
    | with_reducible apply Keeps.moveEffect | with_reducible apply KeepsOpt.some | with_reducible apply KeepsOpt.ite
    | with_reducible apply Keeps.ite | with_reducible apply Keeps.ite1 | with_reducible apply Keeps.ite2
    | with_reducible apply Keeps.foldl | with_reducible apply Keeps.foldl_fst | with_reducible apply Keeps.foldl_snd
    | simp only [Keeps.upd] | simp only [Keeps.updFree] | intro _ _ _ | intro _ _ | intro _ | dsimp only | split | rfl
    | assumption

theorem preserves_execGradReturn (ev : OpEvents) : Preserves s (execGradReturn ev s) := by
  unfold execGradReturn
  refine Preserves.xchg fun c k src d h => ?_
  try dsimp only
  repeat' first
    | with_reducible assumption | with_reducible exact h | with_reducible exact KeepsOpt.none
    | with_reducible apply Keeps.moveEffect | with_reducible apply KeepsOpt.some | with_reducible apply KeepsOpt.ite
    | with_reducible apply Keeps.ite | with_reducible apply Keeps.ite1 | with_reducible apply Keeps.ite2
    | with_reducible apply Keeps.foldl | with_reducible apply Keeps.foldl_fst | with_reducible apply Keeps.foldl_snd
    | simp only [Keeps.upd] | simp only [Keeps.updFree] | intro _ _ _ | intro _ _ | intro _ | dsimp only | split | rfl
    | assumption

theorem preserves_execReady (m : Packet) (blocks : List BlockFinding) : Preserves s (execReady m s blocks) := by
  unfold execReady
  refine Preserves.act fun d h => ?_
  try dsimp only
  repeat' first
    | with_reducible assumption | with_reducible exact h | with_reducible exact KeepsOpt.none
    | with_reducible apply Keeps.takePacket | with_reducible apply Keeps.found | with_reducible apply Keeps.endXchg
    | with_reducible apply Keeps.takeReady | with_reducible apply Keeps.keepReady | with_reducible apply KeepsOpt.some
    | with_reducible apply KeepsOpt.ite | with_reducible apply Keeps.ite | with_reducible apply Keeps.ite1
    | with_reducible apply Keeps.ite2 | with_reducible apply Keeps.foldl | with_reducible apply Keeps.foldl_fst
    | with_reducible apply Keeps.foldl_snd | simp only [Keeps.upd] | simp only [Keeps.updFree] | intro _ _ _
    | intro _ _ | intro _ | dsimp only | split | rfl | assumption

theorem preserves_execData (m : Packet) (blocks : List BlockFinding) : Preserves s (execData m s blocks) := by
  unfold execData
  refine Preserves.act fun d h => ?_
  try dsimp only
  repeat' first
    | with_reducible assumption | with_reducible exact h | with_reducible exact KeepsOpt.none
    | with_reducible apply Keeps.takeData | with_reducible apply Keeps.takePacket | with_reducible apply Keeps.found
    | with_reducible apply KeepsOpt.some | with_reducible apply KeepsOpt.ite | with_reducible apply Keeps.ite
    | with_reducible apply Keeps.ite1 | with_reducible apply Keeps.ite2 | with_reducible apply Keeps.foldl
    | with_reducible apply Keeps.foldl_fst | with_reducible apply Keeps.foldl_snd | simp only [Keeps.upd]
    | simp only [Keeps.updFree] | intro _ _ _ | intro _ _ | intro _ | dsimp only | split | rfl | assumption

theorem preserves_execXchgComplete (kind : Nat) (layerSlot : Nat) (microbatch : Nat) (blocks : List BlockFinding) : Preserves s (execXchgComplete kind layerSlot microbatch s blocks) := by
  unfold execXchgComplete
  refine Preserves.act fun d h => ?_
  try dsimp only
  repeat' first
    | with_reducible assumption | with_reducible exact h | with_reducible exact KeepsOpt.none
    | with_reducible apply Keeps.endXchg | with_reducible apply Keeps.addTally | with_reducible apply Keeps.found
    | with_reducible apply KeepsOpt.some | with_reducible apply KeepsOpt.ite | with_reducible apply Keeps.ite
    | with_reducible apply Keeps.ite1 | with_reducible apply Keeps.ite2 | with_reducible apply Keeps.foldl
    | with_reducible apply Keeps.foldl_fst | with_reducible apply Keeps.foldl_snd | simp only [Keeps.upd]
    | simp only [Keeps.updFree] | intro _ _ _ | intro _ _ | intro _ | dsimp only | split | rfl | assumption

theorem preserves_execXchgTimeout (kind : Nat) (layerSlot : Nat) (microbatch : Nat) : Preserves s (execXchgTimeout kind layerSlot microbatch s) := by
  unfold execXchgTimeout
  refine Preserves.act fun d h => ?_
  try dsimp only
  repeat' first
    | with_reducible assumption | with_reducible exact h | with_reducible exact KeepsOpt.none
    | with_reducible apply Keeps.endXchg | with_reducible apply KeepsOpt.some | with_reducible apply KeepsOpt.ite
    | with_reducible apply Keeps.ite | with_reducible apply Keeps.ite1 | with_reducible apply Keeps.ite2
    | with_reducible apply Keeps.foldl | with_reducible apply Keeps.foldl_fst | with_reducible apply Keeps.foldl_snd
    | simp only [Keeps.upd] | simp only [Keeps.updFree] | intro _ _ _ | intro _ _ | intro _ | dsimp only | split | rfl
    | assumption

theorem preserves_execSend (ev : OpEvents) : Preserves s (execSend ev s) := by
  unfold execSend
  refine Preserves.act fun d h => ?_
  try dsimp only
  repeat' first
    | with_reducible assumption | with_reducible exact h | with_reducible exact KeepsOpt.none
    | with_reducible apply Keeps.issueIf | with_reducible apply Keeps.operate | with_reducible apply Keeps.sendEffect
    | with_reducible apply KeepsOpt.some | with_reducible apply KeepsOpt.ite | with_reducible apply Keeps.ite
    | with_reducible apply Keeps.ite1 | with_reducible apply Keeps.ite2 | with_reducible apply Keeps.foldl
    | with_reducible apply Keeps.foldl_fst | with_reducible apply Keeps.foldl_snd | simp only [Keeps.upd]
    | simp only [Keeps.updFree] | intro _ _ _ | intro _ _ | intro _ | dsimp only | split | rfl | assumption

theorem preserves_execSendComplete (id : Nat) (blocks : List BlockFinding) : Preserves s (execSendComplete id s blocks) := by
  unfold execSendComplete
  refine Preserves.act fun d h => ?_
  try dsimp only
  repeat' first
    | with_reducible assumption | with_reducible exact h | with_reducible exact KeepsOpt.none
    | with_reducible apply Keeps.endSend | with_reducible apply Keeps.found | with_reducible apply KeepsOpt.some
    | with_reducible apply KeepsOpt.ite | with_reducible apply Keeps.ite | with_reducible apply Keeps.ite1
    | with_reducible apply Keeps.ite2 | with_reducible apply Keeps.foldl | with_reducible apply Keeps.foldl_fst
    | with_reducible apply Keeps.foldl_snd | simp only [Keeps.upd] | simp only [Keeps.updFree] | intro _ _ _
    | intro _ _ | intro _ | dsimp only | split | rfl | assumption

theorem preserves_execSendTimeout (id : Nat) : Preserves s (execSendTimeout id s) := by
  unfold execSendTimeout
  refine Preserves.act fun d h => ?_
  try dsimp only
  repeat' first
    | with_reducible assumption | with_reducible exact h | with_reducible exact KeepsOpt.none
    | with_reducible apply Keeps.endSend | with_reducible apply KeepsOpt.some | with_reducible apply KeepsOpt.ite
    | with_reducible apply Keeps.ite | with_reducible apply Keeps.ite1 | with_reducible apply Keeps.ite2
    | with_reducible apply Keeps.foldl | with_reducible apply Keeps.foldl_fst | with_reducible apply Keeps.foldl_snd
    | simp only [Keeps.upd] | simp only [Keeps.updFree] | intro _ _ _ | intro _ _ | intro _ | dsimp only | split | rfl
    | assumption

theorem preserves_execStop (m : Packet) : Preserves s (execStop m s) := by
  unfold execStop
  exact Preserves.pause

theorem preserves_execGo (m : Packet) : Preserves s (execGo m s) := by
  unfold execGo
  exact Preserves.pause

theorem preserves_execPipelineBlock (m : Packet) (blocks : List BlockFinding) : Preserves s (execPipelineBlock m s blocks) := by
  unfold execPipelineBlock
  refine Preserves.act fun d h => ?_
  try dsimp only
  repeat' first
    | with_reducible assumption | with_reducible exact h | with_reducible exact KeepsOpt.none
    | with_reducible apply Keeps.hingeBlock | with_reducible apply Keeps.takePacket | with_reducible apply Keeps.found
    | with_reducible apply Keeps.stray | with_reducible apply KeepsOpt.some | with_reducible apply KeepsOpt.ite
    | with_reducible apply Keeps.ite | with_reducible apply Keeps.ite1 | with_reducible apply Keeps.ite2
    | with_reducible apply Keeps.foldl | with_reducible apply Keeps.foldl_fst | with_reducible apply Keeps.foldl_snd
    | simp only [Keeps.upd] | simp only [Keeps.updFree] | intro _ _ _ | intro _ _ | intro _ | dsimp only | split | rfl
    | assumption

theorem preserves_execRelease  : Preserves s (execRelease s) := by
  unfold execRelease
  refine Preserves.act fun d h => ?_
  try dsimp only
  repeat' first
    | with_reducible assumption | with_reducible exact h | with_reducible exact KeepsOpt.none
    | with_reducible apply Keeps.issueIf | with_reducible apply Keeps.instant | with_reducible apply Keeps.releaseHead
    | with_reducible apply KeepsOpt.some | with_reducible apply KeepsOpt.ite | with_reducible apply Keeps.ite
    | with_reducible apply Keeps.ite1 | with_reducible apply Keeps.ite2 | with_reducible apply Keeps.foldl
    | with_reducible apply Keeps.foldl_fst | with_reducible apply Keeps.foldl_snd | simp only [Keeps.upd]
    | simp only [Keeps.updFree] | intro _ _ _ | intro _ _ | intro _ | dsimp only | split | rfl | assumption

theorem preserves_execFabEnableWrite (hart : Fin 28) (port : Fin 36) (value : Word) : Preserves s (execFabEnableWrite hart port value s) := by
  unfold execFabEnableWrite
  refine Preserves.next (StateKept.byHart fun d h => ?_)
  try dsimp only
  repeat' first
    | with_reducible assumption | with_reducible exact h | with_reducible exact KeepsOpt.none
    | with_reducible apply Keeps.store | with_reducible apply Keeps.trainPort | with_reducible apply Keeps.portOff
    | with_reducible apply KeepsOpt.some | with_reducible apply KeepsOpt.ite | with_reducible apply Keeps.ite
    | with_reducible apply Keeps.ite1 | with_reducible apply Keeps.ite2 | with_reducible apply Keeps.foldl
    | with_reducible apply Keeps.foldl_fst | with_reducible apply Keeps.foldl_snd | simp only [Keeps.upd]
    | simp only [Keeps.updFree] | intro _ _ _ | intro _ _ | intro _ | dsimp only | split | rfl | assumption

theorem preserves_execTrainingAttemptEnd (port : Fin 36) (result : Training) : Preserves s (execTrainingAttemptEnd port result s) := by
  unfold execTrainingAttemptEnd
  refine Preserves.act fun d h => ?_
  try dsimp only
  repeat' first
    | with_reducible assumption | with_reducible exact h | with_reducible exact KeepsOpt.none
    | with_reducible apply Keeps.trained | with_reducible apply Keeps.trainFailed | with_reducible apply KeepsOpt.some
    | with_reducible apply KeepsOpt.ite | with_reducible apply Keeps.ite | with_reducible apply Keeps.ite1
    | with_reducible apply Keeps.ite2 | with_reducible apply Keeps.foldl | with_reducible apply Keeps.foldl_fst
    | with_reducible apply Keeps.foldl_snd | simp only [Keeps.upd] | simp only [Keeps.updFree] | intro _ _ _
    | intro _ _ | intro _ | dsimp only | split | rfl | assumption

theorem preserves_execLaneLockLoss (port : Fin 36) (lanes : BitVec 8) : Preserves s (execLaneLockLoss port lanes s) := by
  unfold execLaneLockLoss
  refine Preserves.act fun d h => ?_
  try dsimp only
  repeat' first
    | with_reducible assumption | with_reducible exact h | with_reducible exact KeepsOpt.none
    | with_reducible apply Keeps.setFld | with_reducible apply Keeps.retrain | with_reducible apply KeepsOpt.some
    | with_reducible apply KeepsOpt.ite | with_reducible apply Keeps.ite | with_reducible apply Keeps.ite1
    | with_reducible apply Keeps.ite2 | with_reducible apply Keeps.foldl | with_reducible apply Keeps.foldl_fst
    | with_reducible apply Keeps.foldl_snd | simp only [Keeps.upd] | simp only [Keeps.updFree] | intro _ _ _
    | intro _ _ | intro _ | dsimp only | split | rfl | assumption

theorem preserves_execParkWord (port : Fin 36) : Preserves s (execParkWord port s) := by
  unfold execParkWord
  refine Preserves.act fun d h => ?_
  try dsimp only
  repeat' first
    | with_reducible assumption | with_reducible exact h | with_reducible exact KeepsOpt.none
    | with_reducible apply Keeps.portFault | with_reducible apply KeepsOpt.some | with_reducible apply KeepsOpt.ite
    | with_reducible apply Keeps.ite | with_reducible apply Keeps.ite1 | with_reducible apply Keeps.ite2
    | with_reducible apply Keeps.foldl | with_reducible apply Keeps.foldl_fst | with_reducible apply Keeps.foldl_snd
    | simp only [Keeps.upd] | simp only [Keeps.updFree] | intro _ _ _ | intro _ _ | intro _ | dsimp only | split | rfl
    | assumption

theorem preserves_execLinkBlockReceive (port : Fin 36) (block : Block) (words : List (List Byte)) : Preserves s (execLinkBlockReceive port block s words) := by
  unfold execLinkBlockReceive
  refine Preserves.act fun d h => ?_
  try dsimp only
  repeat' first
    | with_reducible assumption | with_reducible exact h | with_reducible exact KeepsOpt.none
    | with_reducible apply Keeps.addSat | with_reducible apply Keeps.refuseBlock | with_reducible apply Keeps.addWrap
    | with_reducible apply Keeps.setPort | with_reducible apply Keeps.acceptBlock | with_reducible apply KeepsOpt.some
    | with_reducible apply KeepsOpt.ite | with_reducible apply Keeps.ite | with_reducible apply Keeps.ite1
    | with_reducible apply Keeps.ite2 | with_reducible apply Keeps.foldl | with_reducible apply Keeps.foldl_fst
    | with_reducible apply Keeps.foldl_snd | simp only [Keeps.upd] | simp only [Keeps.updFree] | intro _ _ _
    | intro _ _ | intro _ | dsimp only | split | rfl | assumption

theorem preserves_execLinkControlWord (port : Fin 36) (w : ControlWord) : Preserves s (execLinkControlWord port w s) := by
  unfold execLinkControlWord
  refine Preserves.act fun d h => ?_
  try dsimp only
  repeat' first
    | with_reducible assumption | with_reducible exact h | with_reducible exact KeepsOpt.none
    | with_reducible apply Keeps.setPort | with_reducible apply Keeps.raise | with_reducible apply KeepsOpt.some
    | with_reducible apply KeepsOpt.ite | with_reducible apply Keeps.ite | with_reducible apply Keeps.ite1
    | with_reducible apply Keeps.ite2 | with_reducible apply Keeps.foldl | with_reducible apply Keeps.foldl_fst
    | with_reducible apply Keeps.foldl_snd | simp only [Keeps.upd] | simp only [Keeps.updFree] | intro _ _ _
    | intro _ _ | intro _ | dsimp only | split | rfl | assumption

theorem preserves_execTransmitSlot (port : Fin 36) : Preserves s (execTransmitSlot port s) := by
  unfold execTransmitSlot
  refine Preserves.act fun d h => ?_
  try dsimp only
  repeat' first
    | with_reducible assumption | with_reducible exact h | with_reducible exact KeepsOpt.none
    | with_reducible apply Keeps.setPort | with_reducible apply Keeps.slotBlock | with_reducible apply KeepsOpt.some
    | with_reducible apply KeepsOpt.ite | with_reducible apply Keeps.ite | with_reducible apply Keeps.ite1
    | with_reducible apply Keeps.ite2 | with_reducible apply Keeps.foldl | with_reducible apply Keeps.foldl_fst
    | with_reducible apply Keeps.foldl_snd | simp only [Keeps.upd] | simp only [Keeps.updFree] | intro _ _ _
    | intro _ _ | intro _ | dsimp only | split | rfl | assumption

theorem preserves_execCaptureReplayBlock  : Preserves s (execCaptureReplayBlock s) := by
  unfold execCaptureReplayBlock
  refine Preserves.act fun d h => ?_
  try dsimp only
  repeat' first
    | with_reducible assumption | with_reducible exact h | with_reducible exact KeepsOpt.none
    | with_reducible apply Keeps.arrive | with_reducible apply KeepsOpt.some | with_reducible apply KeepsOpt.ite
    | with_reducible apply Keeps.ite | with_reducible apply Keeps.ite1 | with_reducible apply Keeps.ite2
    | with_reducible apply Keeps.foldl | with_reducible apply Keeps.foldl_fst | with_reducible apply Keeps.foldl_snd
    | simp only [Keeps.upd] | simp only [Keeps.updFree] | intro _ _ _ | intro _ _ | intro _ | dsimp only | split | rfl
    | assumption

theorem preserves_execPostTailWrite (hart : Fin 28) (value : Word) (blocks : List BlockFinding) : Preserves s (execPostTailWrite hart value s blocks) := by
  unfold execPostTailWrite
  refine Preserves.next (StateKept.byHart fun d h => ?_)
  try dsimp only
  repeat' first
    | with_reducible assumption | with_reducible exact h | with_reducible exact KeepsOpt.none
    | with_reducible apply Keeps.runPosts | with_reducible apply Keeps.store | with_reducible apply Keeps.found
    | with_reducible apply KeepsOpt.some | with_reducible apply KeepsOpt.ite | with_reducible apply Keeps.ite
    | with_reducible apply Keeps.ite1 | with_reducible apply Keeps.ite2 | with_reducible apply Keeps.foldl
    | with_reducible apply Keeps.foldl_fst | with_reducible apply Keeps.foldl_snd | simp only [Keeps.upd]
    | simp only [Keeps.updFree] | intro _ _ _ | intro _ _ | intro _ | dsimp only | split | rfl | assumption

theorem preserves_execPostWriteAcked (blocks : List BlockFinding) : Preserves s (execPostWriteAcked s blocks) := by
  unfold execPostWriteAcked
  refine Preserves.act fun d h => ?_
  try dsimp only
  repeat' first
    | with_reducible assumption | with_reducible exact h | with_reducible exact KeepsOpt.none
    | with_reducible apply Keeps.found | with_reducible apply Keeps.runPosts | with_reducible apply Keeps.nextPost
    | with_reducible apply KeepsOpt.some | with_reducible apply KeepsOpt.ite | with_reducible apply Keeps.ite
    | with_reducible apply Keeps.ite1 | with_reducible apply Keeps.ite2 | with_reducible apply Keeps.foldl
    | with_reducible apply Keeps.foldl_fst | with_reducible apply Keeps.foldl_snd | simp only [Keeps.upd]
    | simp only [Keeps.updFree] | intro _ _ _ | intro _ _ | intro _ | dsimp only | split | rfl | assumption

theorem preserves_execRemoteWriteBlock (m : Packet) (blocks : List BlockFinding) : Preserves s (execRemoteWriteBlock m s blocks) := by
  unfold execRemoteWriteBlock
  refine Preserves.act fun d h => ?_
  try dsimp only
  repeat' first
    | with_reducible assumption | with_reducible exact h | with_reducible exact KeepsOpt.none
    | with_reducible apply Keeps.postData | with_reducible apply Keeps.takePacket | with_reducible apply Keeps.found
    | with_reducible apply Keeps.writeAt | with_reducible apply Keeps.raiseCounter | with_reducible apply Keeps.raise
    | with_reducible apply Keeps.addSat | with_reducible apply KeepsOpt.some | with_reducible apply KeepsOpt.ite
    | with_reducible apply Keeps.ite | with_reducible apply Keeps.ite1 | with_reducible apply Keeps.ite2
    | with_reducible apply Keeps.foldl | with_reducible apply Keeps.foldl_fst | with_reducible apply Keeps.foldl_snd
    | simp only [Keeps.upd] | simp only [Keeps.updFree] | intro _ _ _ | intro _ _ | intro _ | dsimp only | split | rfl
    | assumption

theorem preserves_execAgree (m : Packet) (blocks : List BlockFinding) : Preserves s (execAgree m s blocks) := by
  unfold execAgree
  exact Preserves.redMessage

theorem preserves_execEc48 (m : Packet) (blocks : List BlockFinding) : Preserves s (execEc48 m s blocks) := by
  unfold execEc48
  exact Preserves.redMessage

theorem preserves_execTopk (m : Packet) (blocks : List BlockFinding) : Preserves s (execTopk m s blocks) := by
  unfold execTopk
  exact Preserves.redMessage

theorem preserves_execSign (m : Packet) (blocks : List BlockFinding) : Preserves s (execSign m s blocks) := by
  unfold execSign
  exact Preserves.redMessage

theorem preserves_execFast (m : Packet) (blocks : List BlockFinding) : Preserves s (execFast m s blocks) := by
  unfold execFast
  exact Preserves.redMessage

theorem preserves_execTally (m : Packet) (blocks : List BlockFinding) : Preserves s (execTally m s blocks) := by
  unfold execTally
  exact Preserves.redMessage

theorem preserves_execConsensus (m : Packet) (blocks : List BlockFinding) : Preserves s (execConsensus m s blocks) := by
  unfold execConsensus
  exact Preserves.redMessage

theorem preserves_execReduceSum (ev : OpEvents) : Preserves s (execReduceSum ev s) := by
  unfold execReduceSum
  exact Preserves.reduce

theorem preserves_execReduceTally (ev : OpEvents) : Preserves s (execReduceTally ev s) := by
  unfold execReduceTally
  exact Preserves.reduce

theorem preserves_execReduceMax (ev : OpEvents) : Preserves s (execReduceMax ev s) := by
  unfold execReduceMax
  exact Preserves.reduce

theorem preserves_execReduceConsensus (blocks : List BlockFinding) : Preserves s (execReduceConsensus s blocks) := by
  unfold execReduceConsensus
  exact Preserves.reduce

theorem preserves_execReduceComplete (slot : Nat) (blocks : List BlockFinding) : Preserves s (execReduceComplete slot s blocks) := by
  unfold execReduceComplete
  refine Preserves.act fun d h => ?_
  try dsimp only
  repeat' first
    | with_reducible assumption | with_reducible exact h | with_reducible exact KeepsOpt.none
    | with_reducible apply Keeps.endRed | with_reducible apply Keeps.found | with_reducible apply KeepsOpt.some
    | with_reducible apply KeepsOpt.ite | with_reducible apply Keeps.ite | with_reducible apply Keeps.ite1
    | with_reducible apply Keeps.ite2 | with_reducible apply Keeps.foldl | with_reducible apply Keeps.foldl_fst
    | with_reducible apply Keeps.foldl_snd | simp only [Keeps.upd] | simp only [Keeps.updFree] | intro _ _ _
    | intro _ _ | intro _ | dsimp only | split | rfl | assumption

theorem preserves_execReduceTimeout (slot : Nat) : Preserves s (execReduceTimeout slot s) := by
  unfold execReduceTimeout
  refine Preserves.act fun d h => ?_
  try dsimp only
  repeat' first
    | with_reducible assumption | with_reducible exact h | with_reducible exact KeepsOpt.none
    | with_reducible apply Keeps.endRed | with_reducible apply KeepsOpt.some | with_reducible apply KeepsOpt.ite
    | with_reducible apply Keeps.ite | with_reducible apply Keeps.ite1 | with_reducible apply Keeps.ite2
    | with_reducible apply Keeps.foldl | with_reducible apply Keeps.foldl_fst | with_reducible apply Keeps.foldl_snd
    | simp only [Keeps.upd] | simp only [Keeps.updFree] | intro _ _ _ | intro _ _ | intro _ | dsimp only | split | rfl
    | assumption

theorem preserves_execChartLoad (hart : Fin 28) (value : Word) (blocks : List BlockFinding) : Preserves s (execChartLoad hart value s blocks) := by
  unfold execChartLoad
  refine Preserves.next (StateKept.byHart fun d h => ?_)
  try dsimp only
  repeat' first
    | with_reducible assumption | with_reducible exact h | with_reducible exact KeepsOpt.none
    | with_reducible apply Keeps.writeLoad | with_reducible apply Keeps.found | with_reducible apply KeepsOpt.some
    | with_reducible apply KeepsOpt.ite | with_reducible apply Keeps.ite | with_reducible apply Keeps.ite1
    | with_reducible apply Keeps.ite2 | with_reducible apply Keeps.foldl | with_reducible apply Keeps.foldl_fst
    | with_reducible apply Keeps.foldl_snd | simp only [Keeps.upd] | simp only [Keeps.updFree] | intro _ _ _
    | intro _ _ | intro _ | dsimp only | split | rfl | assumption

theorem preserves_execChartLoadReplay (hart : Fin 28) (value : Word) (blocks : List BlockFinding) : Preserves s (execChartLoadReplay hart value s blocks) := by
  unfold execChartLoadReplay
  refine Preserves.next (StateKept.byHart fun d h => ?_)
  try dsimp only
  repeat' first
    | with_reducible assumption | with_reducible exact h | with_reducible exact KeepsOpt.none
    | with_reducible apply Keeps.writeLoad | with_reducible apply Keeps.found | with_reducible apply KeepsOpt.some
    | with_reducible apply KeepsOpt.ite | with_reducible apply Keeps.ite | with_reducible apply Keeps.ite1
    | with_reducible apply Keeps.ite2 | with_reducible apply Keeps.foldl | with_reducible apply Keeps.foldl_fst
    | with_reducible apply Keeps.foldl_snd | simp only [Keeps.upd] | simp only [Keeps.updFree] | intro _ _ _
    | intro _ _ | intro _ | dsimp only | split | rfl | assumption

theorem preserves_execChtPackageWrite (hart : Fin 28) (value : Word) : Preserves s (execChtPackageWrite hart value s) := by
  unfold execChtPackageWrite
  refine Preserves.next (StateKept.byHart fun d h => ?_)
  try dsimp only
  repeat' first
    | with_reducible assumption | with_reducible exact h | with_reducible exact KeepsOpt.none
    | with_reducible apply Keeps.setFld | with_reducible apply KeepsOpt.some | with_reducible apply KeepsOpt.ite
    | with_reducible apply Keeps.ite | with_reducible apply Keeps.ite1 | with_reducible apply Keeps.ite2
    | with_reducible apply Keeps.foldl | with_reducible apply Keeps.foldl_fst | with_reducible apply Keeps.foldl_snd
    | simp only [Keeps.upd] | simp only [Keeps.updFree] | intro _ _ _ | intro _ _ | intro _ | dsimp only | split | rfl
    | assumption

theorem preserves_execHelmSetStep (ev : OpEvents) : Preserves s (execHelmSetStep ev s) := by
  unfold execHelmSetStep
  exact Preserves.helmSet

theorem preserves_execHelmSetNorm (ev : OpEvents) : Preserves s (execHelmSetNorm ev s) := by
  unfold execHelmSetNorm
  exact Preserves.helmSet

theorem preserves_execHelmSetCoef (ev : OpEvents) : Preserves s (execHelmSetCoef ev s) := by
  unfold execHelmSetCoef
  exact Preserves.helmSet

theorem preserves_execHelmSetDecay (ev : OpEvents) : Preserves s (execHelmSetDecay ev s) := by
  unfold execHelmSetDecay
  exact Preserves.helmSet

theorem preserves_execHelmUpdate (ev : OpEvents) : Preserves s (execHelmUpdate ev s) := by
  unfold execHelmUpdate
  refine Preserves.act fun d h => ?_
  try dsimp only
  repeat' first
    | with_reducible assumption | with_reducible exact h | with_reducible exact KeepsOpt.none
    | with_reducible apply Keeps.issueIf | with_reducible apply Keeps.rejectRun | with_reducible apply Keeps.issue
    | with_reducible apply Keeps.raise | with_reducible apply Keeps.operate
    | with_reducible apply Keeps.helmUpdateEffect | with_reducible apply KeepsOpt.some
    | with_reducible apply KeepsOpt.ite | with_reducible apply Keeps.ite | with_reducible apply Keeps.ite1
    | with_reducible apply Keeps.ite2 | with_reducible apply Keeps.foldl | with_reducible apply Keeps.foldl_fst
    | with_reducible apply Keeps.foldl_snd | simp only [Keeps.upd] | simp only [Keeps.updFree] | intro _ _ _
    | intro _ _ | intro _ | dsimp only | split | rfl | assumption

theorem preserves_execLeg  : Preserves s (execLeg s) := by
  unfold execLeg
  refine Preserves.act fun d h => ?_
  try dsimp only
  repeat' first
    | with_reducible assumption | with_reducible exact h | with_reducible exact KeepsOpt.none
    | with_reducible apply Keeps.issueIf | with_reducible apply Keeps.stall | with_reducible apply Keeps.setFlag
    | with_reducible apply Keeps.endStall | with_reducible apply Keeps.issue | with_reducible apply Keeps.rejectRun
    | with_reducible apply KeepsOpt.some | with_reducible apply KeepsOpt.ite | with_reducible apply Keeps.ite
    | with_reducible apply Keeps.ite1 | with_reducible apply Keeps.ite2 | with_reducible apply Keeps.foldl
    | with_reducible apply Keeps.foldl_fst | with_reducible apply Keeps.foldl_snd | simp only [Keeps.upd]
    | simp only [Keeps.updFree] | intro _ _ _ | intro _ _ | intro _ | dsimp only | split | rfl | assumption

theorem preserves_execBarrier (m : Packet) (blocks : List BlockFinding) : Preserves s (execBarrier m s blocks) := by
  unfold execBarrier
  refine Preserves.act fun d h => ?_
  try dsimp only
  repeat' first
    | with_reducible assumption | with_reducible exact h | with_reducible exact KeepsOpt.none
    | with_reducible apply Keeps.takePacket | with_reducible apply Keeps.found | with_reducible apply Keeps.stray
    | with_reducible apply Keeps.runBarrier | with_reducible apply KeepsOpt.some | with_reducible apply KeepsOpt.ite
    | with_reducible apply Keeps.ite | with_reducible apply Keeps.ite1 | with_reducible apply Keeps.ite2
    | with_reducible apply Keeps.foldl | with_reducible apply Keeps.foldl_fst | with_reducible apply Keeps.foldl_snd
    | simp only [Keeps.upd] | simp only [Keeps.updFree] | intro _ _ _ | intro _ _ | intro _ | dsimp only | split | rfl
    | assumption

theorem preserves_execLegSwitch (blocks : List BlockFinding) : Preserves s (execLegSwitch s blocks) := by
  unfold execLegSwitch
  refine Preserves.act fun d h => ?_
  try dsimp only
  repeat' first
    | with_reducible assumption | with_reducible exact h | with_reducible exact KeepsOpt.none
    | with_reducible apply Keeps.switchCharts | with_reducible apply Keeps.found
    | with_reducible apply Keeps.toBarrier | with_reducible apply Keeps.legDone
    | with_reducible apply Keeps.runBarrier | with_reducible apply Keeps.dropBarriers
    | with_reducible apply KeepsOpt.some | with_reducible apply KeepsOpt.ite | with_reducible apply Keeps.ite
    | with_reducible apply Keeps.ite1 | with_reducible apply Keeps.ite2 | with_reducible apply Keeps.foldl
    | with_reducible apply Keeps.foldl_fst | with_reducible apply Keeps.foldl_snd | simp only [Keeps.upd]
    | simp only [Keeps.updFree] | intro _ _ _ | intro _ _ | intro _ | dsimp only | split | rfl | assumption

theorem preserves_execLegTimeout  : Preserves s (execLegTimeout s) := by
  unfold execLegTimeout
  refine Preserves.act fun d h => ?_
  try dsimp only
  repeat' first
    | with_reducible assumption | with_reducible exact h | with_reducible exact KeepsOpt.none
    | with_reducible apply Keeps.setReg | with_reducible apply Keeps.rejectRun | with_reducible apply KeepsOpt.some
    | with_reducible apply KeepsOpt.ite | with_reducible apply Keeps.ite | with_reducible apply Keeps.ite1
    | with_reducible apply Keeps.ite2 | with_reducible apply Keeps.foldl | with_reducible apply Keeps.foldl_fst
    | with_reducible apply Keeps.foldl_snd | simp only [Keeps.upd] | simp only [Keeps.updFree] | intro _ _ _
    | intro _ _ | intro _ | dsimp only | split | rfl | assumption

theorem preserves_execFix  : Preserves s (execFix s) := by
  unfold execFix
  refine Preserves.act fun d h => ?_
  try dsimp only
  repeat' first
    | with_reducible assumption | with_reducible exact h | with_reducible exact KeepsOpt.none
    | with_reducible apply Keeps.issueIf | with_reducible apply Keeps.issue | with_reducible apply Keeps.rejectRun
    | with_reducible apply Keeps.replayEnds | with_reducible apply Keeps.fixDone | with_reducible apply Keeps.runVote
    | with_reducible apply KeepsOpt.some | with_reducible apply KeepsOpt.ite | with_reducible apply Keeps.ite
    | with_reducible apply Keeps.ite1 | with_reducible apply Keeps.ite2 | with_reducible apply Keeps.foldl
    | with_reducible apply Keeps.foldl_fst | with_reducible apply Keeps.foldl_snd | simp only [Keeps.upd]
    | simp only [Keeps.updFree] | intro _ _ _ | intro _ _ | intro _ | dsimp only | split | rfl | assumption

theorem preserves_execFixVote (m : Packet) : Preserves s (execFixVote m s) := by
  unfold execFixVote
  refine Preserves.act fun d h => ?_
  try dsimp only
  repeat' first
    | with_reducible assumption | with_reducible exact h | with_reducible exact KeepsOpt.none
    | with_reducible apply Keeps.takePacket | with_reducible apply Keeps.stray | with_reducible apply Keeps.runVote
    | with_reducible apply KeepsOpt.some | with_reducible apply KeepsOpt.ite | with_reducible apply Keeps.ite
    | with_reducible apply Keeps.ite1 | with_reducible apply Keeps.ite2 | with_reducible apply Keeps.foldl
    | with_reducible apply Keeps.foldl_fst | with_reducible apply Keeps.foldl_snd | simp only [Keeps.upd]
    | simp only [Keeps.updFree] | intro _ _ _ | intro _ _ | intro _ | dsimp only | split | rfl | assumption

theorem preserves_execFixTimeout  : Preserves s (execFixTimeout s) := by
  unfold execFixTimeout
  refine Preserves.act fun d h => ?_
  try dsimp only
  repeat' first
    | with_reducible assumption | with_reducible exact h | with_reducible exact KeepsOpt.none
    | with_reducible apply Keeps.rejectRun | with_reducible apply KeepsOpt.some | with_reducible apply KeepsOpt.ite
    | with_reducible apply Keeps.ite | with_reducible apply Keeps.ite1 | with_reducible apply Keeps.ite2
    | with_reducible apply Keeps.foldl | with_reducible apply Keeps.foldl_fst | with_reducible apply Keeps.foldl_snd
    | simp only [Keeps.upd] | simp only [Keeps.updFree] | intro _ _ _ | intro _ _ | intro _ | dsimp only | split | rfl
    | assumption

theorem preserves_execSkRequest (m : Packet) : Preserves s (execSkRequest m s) := by
  unfold execSkRequest
  refine Preserves.skMessage fun x d h => ?_
  try dsimp only
  repeat' first
    | with_reducible assumption | with_reducible exact h | with_reducible exact KeepsOpt.none
    | with_reducible apply Keeps.takeRequest | with_reducible apply KeepsOpt.some | with_reducible apply KeepsOpt.ite
    | with_reducible apply Keeps.ite | with_reducible apply Keeps.ite1 | with_reducible apply Keeps.ite2
    | with_reducible apply Keeps.foldl | with_reducible apply Keeps.foldl_fst | with_reducible apply Keeps.foldl_snd
    | simp only [Keeps.upd] | simp only [Keeps.updFree] | intro _ _ _ | intro _ _ | intro _ | dsimp only | split | rfl
    | assumption

theorem preserves_execSkAccept (m : Packet) : Preserves s (execSkAccept m s) := by
  unfold execSkAccept
  refine Preserves.skMessage fun x d h => ?_
  try dsimp only
  repeat' first
    | with_reducible assumption | with_reducible exact h | with_reducible exact KeepsOpt.none
    | with_reducible apply Keeps.aboutRequest | with_reducible apply Keeps.decideRollback
    | with_reducible apply KeepsOpt.some | with_reducible apply KeepsOpt.ite | with_reducible apply Keeps.ite
    | with_reducible apply Keeps.ite1 | with_reducible apply Keeps.ite2 | with_reducible apply Keeps.foldl
    | with_reducible apply Keeps.foldl_fst | with_reducible apply Keeps.foldl_snd | simp only [Keeps.upd]
    | simp only [Keeps.updFree] | intro _ _ _ | intro _ _ | intro _ | dsimp only | split | rfl | assumption

theorem preserves_execSkVerdict (m : Packet) : Preserves s (execSkVerdict m s) := by
  unfold execSkVerdict
  refine Preserves.skMessage fun x d h => ?_
  try dsimp only
  repeat' first
    | with_reducible assumption | with_reducible exact h | with_reducible exact KeepsOpt.none
    | with_reducible apply Keeps.aboutRequest | with_reducible apply Keeps.decideFix
    | with_reducible apply Keeps.addSat | with_reducible apply Keeps.sendDecision
    | with_reducible apply Keeps.putRequest | with_reducible apply KeepsOpt.some | with_reducible apply KeepsOpt.ite
    | with_reducible apply Keeps.ite | with_reducible apply Keeps.ite1 | with_reducible apply Keeps.ite2
    | with_reducible apply Keeps.foldl | with_reducible apply Keeps.foldl_fst | with_reducible apply Keeps.foldl_snd
    | simp only [Keeps.upd] | simp only [Keeps.updFree] | intro _ _ _ | intro _ _ | intro _ | dsimp only | split | rfl
    | assumption

theorem preserves_execSkDecision (m : Packet) : Preserves s (execSkDecision m s) := by
  unfold execSkDecision
  refine Preserves.skMessage fun x d h => ?_
  try dsimp only
  repeat' first
    | with_reducible assumption | with_reducible exact h | with_reducible exact KeepsOpt.none
    | with_reducible apply Keeps.takeDecision | with_reducible apply KeepsOpt.some | with_reducible apply KeepsOpt.ite
    | with_reducible apply Keeps.ite | with_reducible apply Keeps.ite1 | with_reducible apply Keeps.ite2
    | with_reducible apply Keeps.foldl | with_reducible apply Keeps.foldl_fst | with_reducible apply Keeps.foldl_snd
    | simp only [Keeps.upd] | simp only [Keeps.updFree] | intro _ _ _ | intro _ _ | intro _ | dsimp only | split | rfl
    | assumption

theorem preserves_execSkCancel (m : Packet) : Preserves s (execSkCancel m s) := by
  unfold execSkCancel
  refine Preserves.skMessage fun x d h => ?_
  try dsimp only
  repeat' first
    | with_reducible assumption | with_reducible exact h | with_reducible exact KeepsOpt.none
    | with_reducible apply KeepsOpt.some | with_reducible apply KeepsOpt.ite | with_reducible apply Keeps.ite
    | with_reducible apply Keeps.ite1 | with_reducible apply Keeps.ite2 | with_reducible apply Keeps.foldl
    | with_reducible apply Keeps.foldl_fst | with_reducible apply Keeps.foldl_snd | simp only [Keeps.upd]
    | simp only [Keeps.updFree] | intro _ _ _ | intro _ _ | intro _ | dsimp only | split | rfl | assumption

theorem preserves_execSkTimeout  : Preserves s (execSkTimeout s) := by
  unfold execSkTimeout
  refine Preserves.act fun d h => ?_
  try dsimp only
  repeat' first
    | with_reducible assumption | with_reducible exact h | with_reducible exact KeepsOpt.none
    | with_reducible apply Keeps.decideRollback | with_reducible apply KeepsOpt.some
    | with_reducible apply KeepsOpt.ite | with_reducible apply Keeps.ite | with_reducible apply Keeps.ite1
    | with_reducible apply Keeps.ite2 | with_reducible apply Keeps.foldl | with_reducible apply Keeps.foldl_fst
    | with_reducible apply Keeps.foldl_snd | simp only [Keeps.upd] | simp only [Keeps.updFree] | intro _ _ _
    | intro _ _ | intro _ | dsimp only | split | rfl | assumption

theorem preserves_execFlushCount (m : Packet) : Preserves s (execFlushCount m s) := by
  unfold execFlushCount
  refine Preserves.act fun d h => ?_
  try dsimp only
  repeat' first
    | with_reducible assumption | with_reducible exact h | with_reducible exact KeepsOpt.none
    | with_reducible apply Keeps.takePacket | with_reducible apply Keeps.runFlush | with_reducible apply KeepsOpt.some
    | with_reducible apply KeepsOpt.ite | with_reducible apply Keeps.ite | with_reducible apply Keeps.ite1
    | with_reducible apply Keeps.ite2 | with_reducible apply Keeps.foldl | with_reducible apply Keeps.foldl_fst
    | with_reducible apply Keeps.foldl_snd | simp only [Keeps.upd] | simp only [Keeps.updFree] | intro _ _ _
    | intro _ _ | intro _ | dsimp only | split | rfl | assumption

theorem preserves_execLogmarkNote  : Preserves s (execLogmarkNote s) := by
  unfold execLogmarkNote
  exact Preserves.logmark

theorem preserves_execLogmarkTensor (ev : OpEvents) : Preserves s (execLogmarkTensor ev s) := by
  unfold execLogmarkTensor
  exact Preserves.logmark

theorem preserves_execLogmarkRange (ev : OpEvents) : Preserves s (execLogmarkRange ev s) := by
  unfold execLogmarkRange
  exact Preserves.logmark

theorem preserves_execLogNextRead (hart : Fin 28) : Preserves s (execLogNextRead hart s) :=
  Preserves.next (StateKept.hartReads fun _ h => h.readLogNext)

theorem preserves_execLogDrainedWrite (hart : Fin 28) (value : Word) : Preserves s (execLogDrainedWrite hart value s) := by
  unfold execLogDrainedWrite
  refine Preserves.next (StateKept.byHart fun d h => ?_)
  try dsimp only
  repeat' first
    | with_reducible assumption | with_reducible exact h | with_reducible exact KeepsOpt.none
    | with_reducible apply Keeps.setPair | with_reducible apply Keeps.raise | with_reducible apply KeepsOpt.some
    | with_reducible apply KeepsOpt.ite | with_reducible apply Keeps.ite | with_reducible apply Keeps.ite1
    | with_reducible apply Keeps.ite2 | with_reducible apply Keeps.foldl | with_reducible apply Keeps.foldl_fst
    | with_reducible apply Keeps.foldl_snd | simp only [Keeps.upd] | simp only [Keeps.updFree] | intro _ _ _
    | intro _ _ | intro _ | dsimp only | split | rfl | assumption

theorem preserves_execLogSpill  : Preserves s (execLogSpill s) := by
  unfold execLogSpill
  refine Preserves.act fun d h => ?_
  try dsimp only
  repeat' first
    | with_reducible assumption | with_reducible exact h | with_reducible exact KeepsOpt.none
    | with_reducible apply Keeps.startSpill | with_reducible apply KeepsOpt.some | with_reducible apply KeepsOpt.ite
    | with_reducible apply Keeps.ite | with_reducible apply Keeps.ite1 | with_reducible apply Keeps.ite2
    | with_reducible apply Keeps.foldl | with_reducible apply Keeps.foldl_fst | with_reducible apply Keeps.foldl_snd
    | simp only [Keeps.upd] | simp only [Keeps.updFree] | intro _ _ _ | intro _ _ | intro _ | dsimp only | split | rfl
    | assumption

theorem preserves_execSpillComplete (ok : Bool) : Preserves s (execSpillComplete ok s) := by
  unfold execSpillComplete
  refine Preserves.act fun d h => ?_
  try dsimp only
  repeat' first
    | with_reducible assumption | with_reducible exact h | with_reducible exact KeepsOpt.none
    | with_reducible apply Keeps.releaseHeld | with_reducible apply Keeps.spill | with_reducible apply Keeps.pageFault
    | with_reducible apply KeepsOpt.some | with_reducible apply KeepsOpt.ite | with_reducible apply Keeps.ite
    | with_reducible apply Keeps.ite1 | with_reducible apply Keeps.ite2 | with_reducible apply Keeps.foldl
    | with_reducible apply Keeps.foldl_fst | with_reducible apply Keeps.foldl_snd | simp only [Keeps.upd]
    | simp only [Keeps.updFree] | intro _ _ _ | intro _ _ | intro _ | dsimp only | split | rfl | assumption

theorem preserves_execPtpMessage (m : PtpMessage) : Preserves s (execPtpMessage m s) := by
  unfold execPtpMessage
  refine Preserves.act fun d h => ?_
  try dsimp only
  repeat' first
    | with_reducible assumption | with_reducible exact h | with_reducible exact KeepsOpt.none
    | with_reducible apply Keeps.servo | with_reducible apply KeepsOpt.some | with_reducible apply KeepsOpt.ite
    | with_reducible apply Keeps.ite | with_reducible apply Keeps.ite1 | with_reducible apply Keeps.ite2
    | with_reducible apply Keeps.foldl | with_reducible apply Keeps.foldl_fst | with_reducible apply Keeps.foldl_snd
    | simp only [Keeps.upd] | simp only [Keeps.updFree] | intro _ _ _ | intro _ _ | intro _ | dsimp only | split | rfl
    | assumption

theorem preserves_execMgtPtpPortWrite (hart : Fin 28) (value : Word) : Preserves s (execMgtPtpPortWrite hart value s) := by
  unfold execMgtPtpPortWrite
  refine Preserves.next (StateKept.byHart fun d h => ?_)
  try dsimp only
  repeat' first
    | with_reducible assumption | with_reducible exact h | with_reducible exact KeepsOpt.none
    | with_reducible apply Keeps.store | with_reducible apply Keeps.setFlag | with_reducible apply Keeps.ptpLock
    | with_reducible apply KeepsOpt.some | with_reducible apply KeepsOpt.ite | with_reducible apply Keeps.ite
    | with_reducible apply Keeps.ite1 | with_reducible apply Keeps.ite2 | with_reducible apply Keeps.foldl
    | with_reducible apply Keeps.foldl_fst | with_reducible apply Keeps.foldl_snd | simp only [Keeps.upd]
    | simp only [Keeps.updFree] | intro _ _ _ | intro _ _ | intro _ | dsimp only | split | rfl | assumption

theorem preserves_execOperationBoundary (st : Stream) : Preserves s (execOperationBoundary st s) := by
  unfold execOperationBoundary
  refine Preserves.act fun d h => ?_
  try dsimp only
  repeat' first
    | with_reducible assumption | with_reducible exact h | with_reducible exact KeepsOpt.none
    | with_reducible apply Keeps.complete | with_reducible apply Keeps.applyLate | with_reducible apply Keeps.park
    | with_reducible apply Keeps.leaveMaps | with_reducible apply Keeps.settle
    | with_reducible apply Keeps.returnMargins | with_reducible apply KeepsOpt.some
    | with_reducible apply KeepsOpt.ite | with_reducible apply Keeps.ite | with_reducible apply Keeps.ite1
    | with_reducible apply Keeps.ite2 | with_reducible apply Keeps.foldl | with_reducible apply Keeps.foldl_fst
    | with_reducible apply Keeps.foldl_snd | simp only [Keeps.upd] | simp only [Keeps.updFree] | intro _ _ _
    | intro _ _ | intro _ | dsimp only | split | rfl | assumption

theorem preserves_execGraceExpiry  : Preserves s (execGraceExpiry s) := by
  unfold execGraceExpiry
  refine Preserves.act fun d h => ?_
  try dsimp only
  repeat' first
    | with_reducible assumption | with_reducible exact h | with_reducible exact KeepsOpt.none
    | with_reducible apply Keeps.startQuiesce | with_reducible apply KeepsOpt.some | with_reducible apply KeepsOpt.ite
    | with_reducible apply Keeps.ite | with_reducible apply Keeps.ite1 | with_reducible apply Keeps.ite2
    | with_reducible apply Keeps.foldl | with_reducible apply Keeps.foldl_fst | with_reducible apply Keeps.foldl_snd
    | simp only [Keeps.upd] | simp only [Keeps.updFree] | intro _ _ _ | intro _ _ | intro _ | dsimp only | split | rfl
    | assumption

theorem preserves_execHotQuiesceWrite (hart : Fin 28) (value : Word) : Preserves s (execHotQuiesceWrite hart value s) := by
  unfold execHotQuiesceWrite
  refine Preserves.next (StateKept.byHart fun d h => ?_)
  try dsimp only
  repeat' first
    | with_reducible assumption | with_reducible exact h | with_reducible exact KeepsOpt.none
    | with_reducible apply Keeps.setFlag | with_reducible apply Keeps.store | with_reducible apply Keeps.startQuiesce
    | with_reducible apply KeepsOpt.some | with_reducible apply KeepsOpt.ite | with_reducible apply Keeps.ite
    | with_reducible apply Keeps.ite1 | with_reducible apply Keeps.ite2 | with_reducible apply Keeps.foldl
    | with_reducible apply Keeps.foldl_fst | with_reducible apply Keeps.foldl_snd | simp only [Keeps.upd]
    | simp only [Keeps.updFree] | intro _ _ _ | intro _ _ | intro _ | dsimp only | split | rfl | assumption

theorem preserves_execShedLevelEnter (level : Fin 6) (input : List InputRun) : Preserves s (execShedLevelEnter level s input) :=
  Preserves.after (StateKept.sample input) (Preserves.act fun _ h => Keeps.ite (h.enterLevel _ _) h)

theorem preserves_execShedLevelLeave (input : List InputRun) : Preserves s (execShedLevelLeave s input) :=
  Preserves.after (StateKept.sample input) (Preserves.act fun _ h => h.leaveLevel _)

theorem preserves_execPwrSagCfgWrite (hart : Fin 28) (level : Fin 5) (value : Word) : Preserves s (execPwrSagCfgWrite hart level value s) := by
  unfold execPwrSagCfgWrite
  refine Preserves.next (StateKept.byHart fun d h => ?_)
  try dsimp only
  repeat' first
    | with_reducible assumption | with_reducible exact h | with_reducible exact KeepsOpt.none
    | with_reducible apply Keeps.store | with_reducible apply Keeps.raise | with_reducible apply KeepsOpt.some
    | with_reducible apply KeepsOpt.ite | with_reducible apply Keeps.ite | with_reducible apply Keeps.ite1
    | with_reducible apply Keeps.ite2 | with_reducible apply Keeps.foldl | with_reducible apply Keeps.foldl_fst
    | with_reducible apply Keeps.foldl_snd | simp only [Keeps.upd] | simp only [Keeps.updFree] | intro _ _ _
    | intro _ _ | intro _ | dsimp only | split | rfl | assumption

theorem preserves_execStateRequestActive (hart : Fin 28) (page : Page) (gen : BitVec 8) : Preserves s (execStateRequestActive hart page gen s) := by
  unfold execStateRequestActive
  exact Preserves.request

theorem preserves_execStateRequestDraining (hart : Fin 28) (page : Page) (gen : BitVec 8) : Preserves s (execStateRequestDraining hart page gen s) := by
  unfold execStateRequestDraining
  exact Preserves.request

theorem preserves_execStateRequestReady (hart : Fin 28) (page : Page) (gen : BitVec 8) : Preserves s (execStateRequestReady hart page gen s) := by
  unfold execStateRequestReady
  exact Preserves.request

theorem preserves_execStateRequestQuarantine (hart : Fin 28) (page : Page) (gen : BitVec 8) : Preserves s (execStateRequestQuarantine hart page gen s) := by
  unfold execStateRequestQuarantine
  exact Preserves.request

theorem preserves_execDrainComplete (page : Page) : Preserves s (execDrainComplete page s) := by
  unfold execDrainComplete
  refine Preserves.act fun d h => ?_
  try dsimp only
  repeat' first
    | with_reducible assumption | with_reducible exact h | with_reducible exact KeepsOpt.none
    | with_reducible apply Keeps.completeDrain | with_reducible apply KeepsOpt.some
    | with_reducible apply KeepsOpt.ite | with_reducible apply Keeps.ite | with_reducible apply Keeps.ite1
    | with_reducible apply Keeps.ite2 | with_reducible apply Keeps.foldl | with_reducible apply Keeps.foldl_fst
    | with_reducible apply Keeps.foldl_snd | simp only [Keeps.upd] | simp only [Keeps.updFree] | intro _ _ _
    | intro _ _ | intro _ | dsimp only | split | rfl | assumption

theorem preserves_execSeqTailWrite (hart : Fin 28) (st : Stream) (value : Word) : Preserves s (execSeqTailWrite hart st value s) := by
  unfold execSeqTailWrite
  refine Preserves.next (StateKept.byHart fun d h => ?_)
  try dsimp only
  repeat' first
    | with_reducible assumption | with_reducible exact h | with_reducible exact KeepsOpt.none
    | with_reducible apply Keeps.setFld | with_reducible apply Keeps.raise | with_reducible apply KeepsOpt.some
    | with_reducible apply KeepsOpt.ite | with_reducible apply Keeps.ite | with_reducible apply Keeps.ite1
    | with_reducible apply Keeps.ite2 | with_reducible apply Keeps.foldl | with_reducible apply Keeps.foldl_fst
    | with_reducible apply Keeps.foldl_snd | simp only [Keeps.upd] | simp only [Keeps.updFree] | intro _ _ _
    | intro _ _ | intro _ | dsimp only | split | rfl | assumption

theorem preserves_execSeqCounterAdd (hart : Fin 28) (st : Stream) (value : Word) : Preserves s (execSeqCounterAdd hart st value s) := by
  unfold execSeqCounterAdd
  refine Preserves.next (StateKept.byHart fun d h => ?_)
  try dsimp only
  repeat' first
    | with_reducible assumption | with_reducible exact h | with_reducible exact KeepsOpt.none
    | with_reducible apply Keeps.raiseCounter | with_reducible apply KeepsOpt.some | with_reducible apply KeepsOpt.ite
    | with_reducible apply Keeps.ite | with_reducible apply Keeps.ite1 | with_reducible apply Keeps.ite2
    | with_reducible apply Keeps.foldl | with_reducible apply Keeps.foldl_fst | with_reducible apply Keeps.foldl_snd
    | simp only [Keeps.upd] | simp only [Keeps.updFree] | intro _ _ _ | intro _ _ | intro _ | dsimp only | split | rfl
    | assumption

theorem preserves_execBfEnableWrite (hart : Fin 28) (value : Word) : Preserves s (execBfEnableWrite hart value s) := by
  unfold execBfEnableWrite
  refine Preserves.next (StateKept.byHart fun d h => ?_)
  try dsimp only
  repeat' first
    | with_reducible assumption | with_reducible exact h | with_reducible exact KeepsOpt.none
    | with_reducible apply Keeps.writeBfCtrl | with_reducible apply KeepsOpt.some | with_reducible apply KeepsOpt.ite
    | with_reducible apply Keeps.ite | with_reducible apply Keeps.ite1 | with_reducible apply Keeps.ite2
    | with_reducible apply Keeps.foldl | with_reducible apply Keeps.foldl_fst | with_reducible apply Keeps.foldl_snd
    | simp only [Keeps.upd] | simp only [Keeps.updFree] | intro _ _ _ | intro _ _ | intro _ | dsimp only | split | rfl
    | assumption

theorem preserves_execBfResume (hart : Fin 28) (value : Word) : Preserves s (execBfResume hart value s) := by
  unfold execBfResume
  refine Preserves.next (StateKept.byHart fun d h => ?_)
  try dsimp only
  repeat' first
    | with_reducible assumption | with_reducible exact h | with_reducible exact KeepsOpt.none
    | with_reducible apply Keeps.writeBfCtrl | with_reducible apply KeepsOpt.some | with_reducible apply KeepsOpt.ite
    | with_reducible apply Keeps.ite | with_reducible apply Keeps.ite1 | with_reducible apply Keeps.ite2
    | with_reducible apply Keeps.foldl | with_reducible apply Keeps.foldl_fst | with_reducible apply Keeps.foldl_snd
    | simp only [Keeps.upd] | simp only [Keeps.updFree] | intro _ _ _ | intro _ _ | intro _ | dsimp only | split | rfl
    | assumption

theorem preserves_execChkCoreReq (hart : Fin 28) (value : Word) : Preserves s (execChkCoreReq hart value s) := by
  unfold execChkCoreReq
  refine Preserves.next (StateKept.byHart fun d h => ?_)
  try dsimp only
  repeat' first
    | with_reducible assumption | with_reducible exact h | with_reducible exact KeepsOpt.none
    | with_reducible apply Keeps.coreRequest | with_reducible apply KeepsOpt.some | with_reducible apply KeepsOpt.ite
    | with_reducible apply Keeps.ite | with_reducible apply Keeps.ite1 | with_reducible apply Keeps.ite2
    | with_reducible apply Keeps.foldl | with_reducible apply Keeps.foldl_fst | with_reducible apply Keeps.foldl_snd
    | simp only [Keeps.upd] | simp only [Keeps.updFree] | intro _ _ _ | intro _ _ | intro _ | dsimp only | split | rfl
    | assumption

theorem preserves_execPin (hart : Fin 28) (value : Word) : Preserves s (execPin hart value s) := by
  unfold execPin
  refine Preserves.next (StateKept.byHart fun d h => ?_)
  try dsimp only
  repeat' first
    | with_reducible assumption | with_reducible exact h | with_reducible exact KeepsOpt.none
    | with_reducible apply Keeps.writeRingCtrl | with_reducible apply KeepsOpt.some
    | with_reducible apply KeepsOpt.ite | with_reducible apply Keeps.ite | with_reducible apply Keeps.ite1
    | with_reducible apply Keeps.ite2 | with_reducible apply Keeps.foldl | with_reducible apply Keeps.foldl_fst
    | with_reducible apply Keeps.foldl_snd | simp only [Keeps.upd] | simp only [Keeps.updFree] | intro _ _ _
    | intro _ _ | intro _ | dsimp only | split | rfl | assumption

theorem preserves_execUnpin (hart : Fin 28) (value : Word) : Preserves s (execUnpin hart value s) := by
  unfold execUnpin
  refine Preserves.next (StateKept.byHart fun d h => ?_)
  try dsimp only
  repeat' first
    | with_reducible assumption | with_reducible exact h | with_reducible exact KeepsOpt.none
    | with_reducible apply Keeps.writeRingCtrl | with_reducible apply KeepsOpt.some
    | with_reducible apply KeepsOpt.ite | with_reducible apply Keeps.ite | with_reducible apply Keeps.ite1
    | with_reducible apply Keeps.ite2 | with_reducible apply Keeps.foldl | with_reducible apply Keeps.foldl_fst
    | with_reducible apply Keeps.foldl_snd | simp only [Keeps.upd] | simp only [Keeps.updFree] | intro _ _ _
    | intro _ _ | intro _ | dsimp only | split | rfl | assumption

theorem preserves_execCmpTrackRecordWrite (hart : Fin 28) (value : Word) : Preserves s (execCmpTrackRecordWrite hart value s) := by
  unfold execCmpTrackRecordWrite
  refine Preserves.next (StateKept.byHart fun d h => ?_)
  try dsimp only
  repeat' first
    | with_reducible assumption | with_reducible exact h | with_reducible exact KeepsOpt.none
    | with_reducible apply Keeps.wakeCmp | with_reducible apply Keeps.store | with_reducible apply KeepsOpt.some
    | with_reducible apply KeepsOpt.ite | with_reducible apply Keeps.ite | with_reducible apply Keeps.ite1
    | with_reducible apply Keeps.ite2 | with_reducible apply Keeps.foldl | with_reducible apply Keeps.foldl_fst
    | with_reducible apply Keeps.foldl_snd | simp only [Keeps.upd] | simp only [Keeps.updFree] | intro _ _ _
    | intro _ _ | intro _ | dsimp only | split | rfl | assumption

theorem preserves_execHlmRingSlotWrite (hart : Fin 28) (value : Word) : Preserves s (execHlmRingSlotWrite hart value s) := by
  unfold execHlmRingSlotWrite
  refine Preserves.next (StateKept.byHart fun d h => ?_)
  try dsimp only
  repeat' first
    | with_reducible assumption | with_reducible exact h | with_reducible exact KeepsOpt.none
    | with_reducible apply Keeps.wakeHelm | with_reducible apply Keeps.store | with_reducible apply KeepsOpt.some
    | with_reducible apply KeepsOpt.ite | with_reducible apply Keeps.ite | with_reducible apply Keeps.ite1
    | with_reducible apply Keeps.ite2 | with_reducible apply Keeps.foldl | with_reducible apply Keeps.foldl_fst
    | with_reducible apply Keeps.foldl_snd | simp only [Keeps.upd] | simp only [Keeps.updFree] | intro _ _ _
    | intro _ _ | intro _ | dsimp only | split | rfl | assumption

theorem preserves_execRedStepNfForce (hart : Fin 28) (value : Word) : Preserves s (execRedStepNfForce hart value s) := by
  unfold execRedStepNfForce
  refine Preserves.next (StateKept.byHart fun d h => ?_)
  try dsimp only
  repeat' first
    | with_reducible assumption | with_reducible exact h | with_reducible exact KeepsOpt.none
    | with_reducible apply Keeps.setLocalNf | with_reducible apply KeepsOpt.some | with_reducible apply KeepsOpt.ite
    | with_reducible apply Keeps.ite | with_reducible apply Keeps.ite1 | with_reducible apply Keeps.ite2
    | with_reducible apply Keeps.foldl | with_reducible apply Keeps.foldl_fst | with_reducible apply Keeps.foldl_snd
    | simp only [Keeps.upd] | simp only [Keeps.updFree] | intro _ _ _ | intro _ _ | intro _ | dsimp only | split | rfl
    | assumption

theorem preserves_execHubIfaceOffer (hart : Fin 28) (value : Word) : Preserves s (execHubIfaceOffer hart value s) := by
  unfold execHubIfaceOffer
  refine Preserves.next (StateKept.byHart fun d h => ?_)
  try dsimp only
  repeat' first
    | with_reducible assumption | with_reducible exact h | with_reducible exact KeepsOpt.none
    | with_reducible apply Keeps.setFld | with_reducible apply Keeps.setFlag | with_reducible apply KeepsOpt.some
    | with_reducible apply KeepsOpt.ite | with_reducible apply Keeps.ite | with_reducible apply Keeps.ite1
    | with_reducible apply Keeps.ite2 | with_reducible apply Keeps.foldl | with_reducible apply Keeps.foldl_fst
    | with_reducible apply Keeps.foldl_snd | simp only [Keeps.upd] | simp only [Keeps.updFree] | intro _ _ _
    | intro _ _ | intro _ | dsimp only | split | rfl | assumption

theorem preserves_execEvEnWrite (hart : Fin 28) (page : Page) (value : Word) : Preserves s (execEvEnWrite hart page value s) := by
  unfold execEvEnWrite
  refine Preserves.access fun d h => ?_
  try dsimp only
  repeat' first
    | with_reducible assumption | with_reducible exact h | with_reducible exact KeepsOpt.none
    | with_reducible apply Keeps.writeEnables | with_reducible apply KeepsOpt.some | with_reducible apply KeepsOpt.ite
    | with_reducible apply Keeps.ite | with_reducible apply Keeps.ite1 | with_reducible apply Keeps.ite2
    | with_reducible apply Keeps.foldl | with_reducible apply Keeps.foldl_fst | with_reducible apply Keeps.foldl_snd
    | simp only [Keeps.upd] | simp only [Keeps.updFree] | intro _ _ _ | intro _ _ | intro _ | dsimp only | split | rfl
    | assumption

theorem preserves_execEvForceWrite (hart : Fin 28) (page : Page) (value : Word) : Preserves s (execEvForceWrite hart page value s) := by
  unfold execEvForceWrite
  refine Preserves.access fun d h => ?_
  try dsimp only
  repeat' first
    | with_reducible assumption | with_reducible exact h | with_reducible exact KeepsOpt.none
    | with_reducible apply Keeps.acts | with_reducible apply KeepsOpt.some | with_reducible apply KeepsOpt.ite
    | with_reducible apply Keeps.ite | with_reducible apply Keeps.ite1 | with_reducible apply Keeps.ite2
    | with_reducible apply Keeps.foldl | with_reducible apply Keeps.foldl_fst | with_reducible apply Keeps.foldl_snd
    | simp only [Keeps.upd] | simp only [Keeps.updFree] | intro _ _ _ | intro _ _ | intro _ | dsimp only | split | rfl
    | assumption

theorem preserves_execAbsentPageAccess (hart : Fin 28) (addr : Nat) (write : Bool) :
    Preserves s (execAbsentPageAccess hart addr write s) := by
  unfold execAbsentPageAccess
  refine Preserves.next ?_
  split
  · rename_i a _
    have h : StateKept s (s.byHart hart fun d => d.badAccess hart a write) := StateKept.byHart fun d h => h.badAccess _ _ _
    exact StateKept.ite (StateKept.ite h (h.trans StateKept.onHart)) StateKept.refl
  · exact StateKept.refl

theorem preserves_execAccessFault (hart : Fin 28) (addr width : Nat) (write : Bool) :
    Preserves s (execAccessFault hart addr width write s) :=
  Preserves.next (StateKept.ite StateKept.onHart StateKept.refl)

theorem preserves_execRegisterWrite (hart : Fin 28) (addr : Nat) (value : Word) :
    Preserves s (execRegisterWrite hart addr value s) := by
  unfold execRegisterWrite
  split
  · split
    · split
      · exact Preserves.next StateKept.refl
      · exact Preserves.access fun d h => h.plainWrite _ _ _ _
    · exact Preserves.next StateKept.refl
  · exact Preserves.next StateKept.refl

theorem preserves_execMbxPutLo (hart : Fin 28) (mailbox : Fin 32) (value : Word) :
    Preserves s (execMbxPutLo hart mailbox value s) :=
  Preserves.next (StateKept.atMailbox fun _ => ⟨Keeps.refl, fun x => by simpa using x, id, id⟩)

theorem preserves_execMbxPutHi (hart : Fin 28) (mailbox : Fin 32) (value : Word) :
    Preserves s (execMbxPutHi hart mailbox value s) :=
  Preserves.next (StateKept.atMailbox fun _ =>
    ⟨Keeps.ite (Keeps.refl.raise _ _) (Keeps.refl.irqEdge _), fun x => by simpa using x,
      fun x => mailboxesSound_set x (Mailbox.put_sound (State.mailbox_sound x _) _) _, id⟩)

theorem preserves_execMbxGetLo (hart : Fin 28) (mailbox : Fin 32) : Preserves s (execMbxGetLo hart mailbox s) :=
  Preserves.next (StateKept.readMailbox fun _ h => Mailbox.getLo_sound h)

theorem preserves_execMbxGetHi (hart : Fin 28) (mailbox : Fin 32) : Preserves s (execMbxGetHi hart mailbox s) :=
  Preserves.next (StateKept.readMailbox fun _ h => Mailbox.getHi_sound h)

theorem preserves_execMbxOwnerWrite (hart : Fin 28) (mailbox : Fin 32) (value : Word) :
    Preserves s (execMbxOwnerWrite hart mailbox value s) :=
  Preserves.next (StateKept.atMailbox fun _ =>
    ⟨Keeps.refl, id, fun x => mailboxesSound_set x (Mailbox.control_sound (State.mailbox_sound x _) _) _, id⟩)

theorem preserves_execIrqClaim (hart reader : Fin 28) : Preserves s (execIrqClaim hart reader s) := by
  unfold execIrqClaim
  refine Preserves.next (StateKept.atMailbox fun r => ?_)
  dsimp only
  split
  · exact ⟨Keeps.refl, fun x => by simpa using x, id, id⟩
  · rename_i x hx
    refine ⟨Keeps.refl.claimed _ _, fun x => by simpa using x, id, fun h => claimsSound_set h ?_ _⟩
    split at hx
    · exact nested_push (claimsSound_getD h _) (State.offered_lt hart.isLt hx) (Dev.prioOf_lt _ _)
    · cases hx

theorem preserves_execIrqComplete (hart writer : Fin 28) (value : Word) : Preserves s (execIrqComplete hart writer value s) := by
  unfold execIrqComplete
  refine Preserves.next (StateKept.atMailbox fun r => StateKept.ite StateKept.refl ?_)
  split
  · rename_i c rest hc
    refine StateKept.ite ⟨Keeps.refl, id, id, fun h => claimsSound_set h ?_ _⟩ (StateKept.onDev (Keeps.refl.raise _ _))
    have := claimsSound_getD h hart
    rw [hc] at this
    exact nested_tail this
  · exact StateKept.onDev (Keeps.refl.raise _ _)

theorem preserves_execIrqSwTrigger (hart : Fin 28) (value : Word) : Preserves s (execIrqSwTrigger hart value s) := by
  unfold execIrqSwTrigger
  refine Preserves.next (StateKept.byHart fun d h => ?_)
  try dsimp only
  repeat' first
    | with_reducible assumption | with_reducible exact h | with_reducible exact KeepsOpt.none
    | with_reducible apply Keeps.irqEdge | with_reducible apply KeepsOpt.some | with_reducible apply KeepsOpt.ite
    | with_reducible apply Keeps.ite | with_reducible apply Keeps.ite1 | with_reducible apply Keeps.ite2
    | with_reducible apply Keeps.foldl | with_reducible apply Keeps.foldl_fst | with_reducible apply Keeps.foldl_snd
    | simp only [Keeps.upd] | simp only [Keeps.updFree] | intro _ _ _ | intro _ _ | intro _ | dsimp only | split | rfl
    | assumption

theorem preserves_execIrqMissedClear (hart : Fin 28) (value : Word) : Preserves s (execIrqMissedClear hart value s) := by
  unfold execIrqMissedClear
  refine Preserves.next (StateKept.byHart fun d h => ?_)
  try dsimp only
  repeat' first
    | with_reducible assumption | with_reducible exact h | with_reducible exact KeepsOpt.none
    | with_reducible apply Keeps.setFld | with_reducible apply KeepsOpt.some | with_reducible apply KeepsOpt.ite
    | with_reducible apply Keeps.ite | with_reducible apply Keeps.ite1 | with_reducible apply Keeps.ite2
    | with_reducible apply Keeps.foldl | with_reducible apply Keeps.foldl_fst | with_reducible apply Keeps.foldl_snd
    | simp only [Keeps.upd] | simp only [Keeps.updFree] | intro _ _ _ | intro _ _ | intro _ | dsimp only | split | rfl
    | assumption

theorem preserves_execHoldoffExpiry (group : Fin 32) : Preserves s (execHoldoffExpiry group s) := by
  unfold execHoldoffExpiry
  refine Preserves.act fun d h => ?_
  try dsimp only
  repeat' first
    | with_reducible assumption | with_reducible exact h | with_reducible exact KeepsOpt.none
    | with_reducible apply KeepsOpt.some | with_reducible apply KeepsOpt.ite | with_reducible apply Keeps.ite
    | with_reducible apply Keeps.ite1 | with_reducible apply Keeps.ite2 | with_reducible apply Keeps.foldl
    | with_reducible apply Keeps.foldl_fst | with_reducible apply Keeps.foldl_snd | simp only [Keeps.upd]
    | simp only [Keeps.updFree] | intro _ _ _ | intro _ _ | intro _ | dsimp only | split | rfl | assumption

theorem preserves_execExtInputRawChange (input : Fin 5) (level : Bool) : Preserves s (execExtInputRawChange input level s) :=
  Preserves.next (StateKept.ite StateKept.refl (StateKept.ite StateKept.refl (StateKept.onDev (Keeps.refl.setInput _ _))))

theorem preserves_execExtInputFiltered (input : Fin 5) : Preserves s (execExtInputFiltered input s) := by
  unfold execExtInputFiltered
  refine Preserves.act fun d h => ?_
  try dsimp only
  repeat' first
    | with_reducible assumption | with_reducible exact h | with_reducible exact KeepsOpt.none
    | with_reducible apply Keeps.filterInput | with_reducible apply KeepsOpt.some | with_reducible apply KeepsOpt.ite
    | with_reducible apply Keeps.ite | with_reducible apply Keeps.ite1 | with_reducible apply Keeps.ite2
    | with_reducible apply Keeps.foldl | with_reducible apply Keeps.foldl_fst | with_reducible apply Keeps.foldl_snd
    | simp only [Keeps.upd] | simp only [Keeps.updFree] | intro _ _ _ | intro _ _ | intro _ | dsimp only | split | rfl
    | assumption

theorem preserves_execInputStuck (input : Fin 5) : Preserves s (execInputStuck input s) := by
  unfold execInputStuck
  refine Preserves.act fun d h => ?_
  try dsimp only
  repeat' first
    | with_reducible assumption | with_reducible exact h | with_reducible exact KeepsOpt.none
    | with_reducible apply Keeps.raiseLogged | with_reducible apply Keeps.irqEdge
    | with_reducible apply Keeps.setInput | with_reducible apply KeepsOpt.some | with_reducible apply KeepsOpt.ite
    | with_reducible apply Keeps.ite | with_reducible apply Keeps.ite1 | with_reducible apply Keeps.ite2
    | with_reducible apply Keeps.foldl | with_reducible apply Keeps.foldl_fst | with_reducible apply Keeps.foldl_snd
    | simp only [Keeps.upd] | simp only [Keeps.updFree] | intro _ _ _ | intro _ _ | intro _ | dsimp only | split | rfl
    | assumption

theorem preserves_execPpsEdge  : Preserves s (execPpsEdge s) := by
  unfold execPpsEdge
  exact Preserves.act fun d h => h.ppsEdge

theorem preserves_execResetRelease (input rail : List InputRun) : Preserves s (execResetRelease s input rail) :=
  Preserves.after (StateKept.sample input) (Preserves.next (StateKept.ite (StateKept.release _) StateKept.refl))

theorem preserves_execSoftwareReset : Preserves s (execSoftwareReset s) :=
  Preserves.next (StateKept.ite (StateKept.resetPackage _) StateKept.refl)

theorem preserves_execRefclkPresent : Preserves s (execRefclkPresent s) :=
  Preserves.next (StateKept.ite StateKept.refl (StateKept.carrier _))

theorem preserves_execRefclkLoss : Preserves s (execRefclkLoss s) :=
  Preserves.next (StateKept.ite StateKept.refl ⟨Keeps.ite Keeps.refl.packageFault Keeps.refl, id, id, id⟩)

theorem preserves_execBootStageComplete (result : StageResult) : Preserves s (execBootStageComplete result s) := by
  unfold execBootStageComplete
  refine Preserves.next (StateKept.ite ?_ StateKept.refl)
  cases result with
  | done => exact StateKept.stageDone
  | failed code => exact StateKept.ite (StateKept.stage6Fails _) (StateKept.onDev (Keeps.refl.bootFail _ _))

theorem preserves_execDramFillComplete (stack : Fin 24) : Preserves s (execDramFillComplete stack s) := by
  unfold execDramFillComplete
  refine Preserves.act fun d h => ?_
  try dsimp only
  repeat' first
    | with_reducible assumption | with_reducible exact h | with_reducible exact KeepsOpt.none
    | with_reducible apply Keeps.raise | with_reducible apply Keeps.moveTo | with_reducible apply KeepsOpt.some
    | with_reducible apply KeepsOpt.ite | with_reducible apply Keeps.ite | with_reducible apply Keeps.ite1
    | with_reducible apply Keeps.ite2 | with_reducible apply Keeps.foldl | with_reducible apply Keeps.foldl_fst
    | with_reducible apply Keeps.foldl_snd | simp only [Keeps.upd] | simp only [Keeps.updFree] | intro _ _ _
    | intro _ _ | intro _ | dsimp only | split | rfl | assumption

theorem preserves_execSramParityError (addr : Nat) : Preserves s (execSramParityError addr s) := by
  unfold execSramParityError
  refine Preserves.act fun d h => ?_
  try dsimp only
  repeat' first
    | with_reducible assumption | with_reducible exact h | with_reducible exact KeepsOpt.none
    | with_reducible apply Keeps.crash | with_reducible apply Keeps.packageFault | with_reducible apply Keeps.raise
    | with_reducible apply KeepsOpt.some | with_reducible apply KeepsOpt.ite | with_reducible apply Keeps.ite
    | with_reducible apply Keeps.ite1 | with_reducible apply Keeps.ite2 | with_reducible apply Keeps.foldl
    | with_reducible apply Keeps.foldl_fst | with_reducible apply Keeps.foldl_snd | simp only [Keeps.upd]
    | simp only [Keeps.updFree] | intro _ _ _ | intro _ _ | intro _ | dsimp only | split | rfl | assumption

theorem preserves_execSupplyApplied : Preserves s (execSupplyApplied s) :=
  Preserves.next (StateKept.ite ((StateKept.carrier _).trans (StateKept.toPhase _)) StateKept.refl)

theorem preserves_execPrsntMate : Preserves s (execPrsntMate s) :=
  Preserves.after (StateKept.carrier _)
    (Preserves.next (StateKept.ite ((StateKept.carrier _).trans (StateKept.toPhase _)) StateKept.refl))

theorem preserves_execInsertionDebounceEnd (input : List InputRun) : Preserves s (execInsertionDebounceEnd s input) :=
  Preserves.after (StateKept.sample input)
    (Preserves.next (StateKept.ite ((StateKept.carrier _).trans (StateKept.toPhase _)) StateKept.refl))

theorem preserves_execRampComplete : Preserves s (execRampComplete s) :=
  Preserves.next (StateKept.ite
    (StateKept.trans (t := { s with
      dev := s.dev.drawWord.2, carrier := { s.carrier with peakDa := s.dev.drawWord.1.toNat % 1201 } })
      ⟨Keeps.refl.drawWord, id, id, id⟩ (StateKept.toPhase _)) StateKept.refl)

theorem preserves_execRampFault : Preserves s (execRampFault s) :=
  Preserves.next (StateKept.ite (StateKept.toPhase _) StateKept.refl)

theorem preserves_execRampRetry : Preserves s (execRampRetry s) :=
  Preserves.next (StateKept.ite ((StateKept.carrier _).trans (StateKept.toPhase _)) StateKept.refl)

theorem preserves_execPrsntBreak : Preserves s (execPrsntBreak s) := by
  unfold execPrsntBreak
  refine Preserves.next ?_
  dsimp only
  split
  · exact StateKept.carrier _
  · exact StateKept.carrier _
  · exact StateKept.ite StateKept.refl ((StateKept.carrier _).trans (StateKept.toPhase _))

theorem preserves_execSurpriseRemoval : Preserves s (execSurpriseRemoval s) :=
  Preserves.next (StateKept.ite ((StateKept.carrier _).trans (StateKept.cutPower _)) StateKept.refl)

theorem preserves_execOvercurrentTrip : Preserves s (execOvercurrentTrip s) :=
  Preserves.next (StateKept.ite (StateKept.cutPower _) StateKept.refl)

theorem preserves_execSupplyRemoved : Preserves s (execSupplyRemoved s) := by
  unfold execSupplyRemoved
  refine Preserves.next (StateKept.ite StateKept.refl ?_)
  exact StateKept.trans (StateKept.cutPower .dark) ⟨Keeps.refl.other, id, id, id⟩

theorem preserves_execControlledPowerOff : Preserves s (execControlledPowerOff s) :=
  Preserves.next (StateKept.ite (StateKept.ite (StateKept.powerOff _) (StateKept.ite (StateKept.powerOff _) StateKept.refl))
    StateKept.refl)

theorem preserves_execPowerOffRailStep : Preserves s (execPowerOffRailStep s) := by
  unfold execPowerOffRailStep
  refine Preserves.next ?_
  split
  · refine StateKept.ite StateKept.refl ?_
    split
    · exact StateKept.trans (t := { s with dev := { s.dev with mem := [] } })
        (StateKept.onDev (Keeps.refl.memory fun _ => rfl)) (StateKept.toPhase _)
    · exact StateKept.unpowered.trans (StateKept.toPhase _)
    · exact StateKept.toPhase _
    · exact StateKept.toPhase _
  · exact StateKept.refl

theorem preserves_execSagRestart (input : List InputRun) : Preserves s (execSagRestart s input) :=
  Preserves.after (StateKept.sample input) (Preserves.next (StateKept.ite (StateKept.restart _) StateKept.refl))

theorem preserves_execThermalTrip (cause : TripCause) : Preserves s (execThermalTrip cause s) :=
  Preserves.next (StateKept.ite ((StateKept.carrier _).trans (StateKept.powerOff _)) StateKept.refl)

theorem preserves_execTripRestart : Preserves s (execTripRestart s) :=
  Preserves.next (StateKept.ite (StateKept.restart _) StateKept.refl)

theorem preserves_execRailFault (rail : Rail) (microvolts : Nat) : Preserves s (execRailFault rail s microvolts) := by
  unfold execRailFault
  refine Preserves.next (StateKept.ite ?_ StateKept.refl)
  split
  · exact StateKept.ite (StateKept.onDev ((Keeps.refl.raise _ _).cluTo _ _)) StateKept.refl
  · exact StateKept.trans (StateKept.onDev (Keeps.refl.railFault _)) (StateKept.powerOff _)

theorem preserves_execCopy (st : Stream) (ev : OpEvents) : Preserves s (execCopy st ev s) := by
  unfold execCopy
  exact Preserves.copy

theorem preserves_execTranspose (st : Stream) (ev : OpEvents) : Preserves s (execTranspose st ev s) := by
  unfold execTranspose
  exact Preserves.copy

theorem preserves_execPowerManagerPeriod (input : List InputRun) (watts peakWatts : Nat) :
    Preserves s (execPowerManagerPeriod input watts peakWatts s) :=
  Preserves.after (StateKept.sample input) (Preserves.act fun _ h => Keeps.ite (h.powerPeriod _ _ _) h)

theorem preserves_execThermalPeriod (sensors : List DieSensors) (inletC : Int) (outletC : Int) : Preserves s (execThermalPeriod sensors inletC outletC s) := by
  unfold execThermalPeriod
  refine Preserves.act fun d h => ?_
  try dsimp only
  repeat' first
    | with_reducible assumption | with_reducible exact h | with_reducible exact KeepsOpt.none
    | with_reducible apply Keeps.thermalPeriod | with_reducible apply KeepsOpt.some
    | with_reducible apply KeepsOpt.ite | with_reducible apply Keeps.ite | with_reducible apply Keeps.ite1
    | with_reducible apply Keeps.ite2 | with_reducible apply Keeps.foldl | with_reducible apply Keeps.foldl_fst
    | with_reducible apply Keeps.foldl_snd | simp only [Keeps.upd] | simp only [Keeps.updFree] | intro _ _ _
    | intro _ _ | intro _ | dsimp only | split | rfl | assumption

theorem preserves_execCycleStretch (cluster : Fin 2400) : Preserves s (execCycleStretch cluster s) := by
  unfold execCycleStretch
  refine Preserves.act fun d h => ?_
  try dsimp only
  repeat' first
    | with_reducible assumption | with_reducible exact h | with_reducible exact KeepsOpt.none
    | with_reducible apply Keeps.raise | with_reducible apply Keeps.addSatFld | with_reducible apply KeepsOpt.some
    | with_reducible apply KeepsOpt.ite | with_reducible apply Keeps.ite | with_reducible apply Keeps.ite1
    | with_reducible apply Keeps.ite2 | with_reducible apply Keeps.foldl | with_reducible apply Keeps.foldl_fst
    | with_reducible apply Keeps.foldl_snd | simp only [Keeps.upd] | simp only [Keeps.updFree] | intro _ _ _
    | intro _ _ | intro _ | dsimp only | split | rfl | assumption

theorem preserves_execRegisterLoRead (hart : Fin 28) (addr : Nat) : Preserves s (execRegisterLoRead hart addr s) := by
  unfold execRegisterLoRead
  split
  · refine Preserves.next ?_
    split
    · exact StateKept.ite StateKept.onHart StateKept.refl
    · exact StateKept.refl
  · exact Preserves.next StateKept.refl

theorem preserves_execScrubRead (stack : Fin 24) (first : List Nat) (second : List Nat) : Preserves s (execScrubRead stack first second s) := by
  unfold execScrubRead
  refine Preserves.act fun d h => ?_
  try dsimp only
  repeat' first
    | with_reducible assumption | with_reducible exact h | with_reducible exact KeepsOpt.none
    | with_reducible apply Keeps.scrubbed | with_reducible apply Keeps.blockFinding
    | with_reducible apply KeepsOpt.some | with_reducible apply KeepsOpt.ite | with_reducible apply Keeps.ite
    | with_reducible apply Keeps.ite1 | with_reducible apply Keeps.ite2 | with_reducible apply Keeps.foldl
    | with_reducible apply Keeps.foldl_fst | with_reducible apply Keeps.foldl_snd | simp only [Keeps.upd]
    | simp only [Keeps.updFree] | intro _ _ _ | intro _ _ | intro _ | dsimp only | split | rfl | assumption

theorem preserves_execRollCall  : Preserves s (execRollCall s) := by
  unfold execRollCall
  refine Preserves.act fun d h => ?_
  try dsimp only
  repeat' first
    | with_reducible assumption | with_reducible exact h | with_reducible exact KeepsOpt.none
    | with_reducible apply KeepsOpt.some | with_reducible apply KeepsOpt.ite | with_reducible apply Keeps.ite
    | with_reducible apply Keeps.ite1 | with_reducible apply Keeps.ite2 | with_reducible apply Keeps.foldl
    | with_reducible apply Keeps.foldl_fst | with_reducible apply Keeps.foldl_snd | simp only [Keeps.upd]
    | simp only [Keeps.updFree] | intro _ _ _ | intro _ _ | intro _ | dsimp only | split | rfl | assumption

theorem preserves_execMgtLinkChange (port : Fin 2) (up : Bool) : Preserves s (execMgtLinkChange port up s) := by
  unfold execMgtLinkChange
  refine Preserves.act fun d h => ?_
  try dsimp only
  repeat' first
    | with_reducible assumption | with_reducible exact h | with_reducible exact KeepsOpt.none
    | with_reducible apply Keeps.raise | with_reducible apply KeepsOpt.some | with_reducible apply KeepsOpt.ite
    | with_reducible apply Keeps.ite | with_reducible apply Keeps.ite1 | with_reducible apply Keeps.ite2
    | with_reducible apply Keeps.foldl | with_reducible apply Keeps.foldl_fst | with_reducible apply Keeps.foldl_snd
    | simp only [Keeps.upd] | simp only [Keeps.updFree] | intro _ _ _ | intro _ _ | intro _ | dsimp only | split | rfl
    | assumption

theorem preserves_execTlsHandshake (hello : TlsHello) : Preserves s (execTlsHandshake hello s) := by
  unfold execTlsHandshake
  refine Preserves.act fun d h => ?_
  try dsimp only
  repeat' first
    | with_reducible assumption | with_reducible exact h | with_reducible exact KeepsOpt.none
    | with_reducible apply Keeps.present | with_reducible apply Keeps.raise | with_reducible apply KeepsOpt.some
    | with_reducible apply KeepsOpt.ite | with_reducible apply Keeps.ite | with_reducible apply Keeps.ite1
    | with_reducible apply Keeps.ite2 | with_reducible apply Keeps.foldl | with_reducible apply Keeps.foldl_fst
    | with_reducible apply Keeps.foldl_snd | simp only [Keeps.upd] | simp only [Keeps.updFree] | intro _ _ _
    | intro _ _ | intro _ | dsimp only | split | rfl | assumption

theorem preserves_execAttestationRequest (nonce : List Byte) : Preserves s (execAttestationRequest nonce s) := by
  unfold execAttestationRequest
  refine Preserves.next (StateKept.ite (StateKept.onDev ?_) StateKept.refl)
  dsimp only
  simp only [Keeps.upd]
  exact Keeps.refl.sign _

theorem preserves_execDebugUnlockToken (token : List Byte) : Preserves s (execDebugUnlockToken token s) := by
  unfold execDebugUnlockToken
  refine Preserves.act fun d h => ?_
  try dsimp only
  repeat' first
    | with_reducible assumption | with_reducible exact h | with_reducible exact KeepsOpt.none
    | with_reducible apply Keeps.raise | with_reducible apply Keeps.setFld | with_reducible apply Keeps.refuseToken
    | with_reducible apply Keeps.newNonce | with_reducible apply KeepsOpt.some | with_reducible apply KeepsOpt.ite
    | with_reducible apply Keeps.ite | with_reducible apply Keeps.ite1 | with_reducible apply Keeps.ite2
    | with_reducible apply Keeps.foldl | with_reducible apply Keeps.foldl_fst | with_reducible apply Keeps.foldl_snd
    | simp only [Keeps.upd] | simp only [Keeps.updFree] | intro _ _ _ | intro _ _ | intro _ | dsimp only | split | rfl
    | assumption

theorem preserves_execRecoveryBundle (bundle : List Byte) : Preserves s (execRecoveryBundle bundle s) := by
  unfold execRecoveryBundle
  refine Preserves.next (StateKept.ite (StateKept.ite ?_ (StateKept.onDev Keeps.refl.other)) StateKept.refl)
  refine StateKept.trans (t := { s with
    dev := { s.dev with flash := s.dev.flash.writeCopy (s.dev.boot.firstFailed.getD false) (bundleOf bundle) }
    carrier := s.carrier.rewritten (s.dev.boot.firstFailed.getD false) }) ?_ (StateKept.resetPackage _)
  exact ⟨Keeps.refl.other, id, id, id⟩

end Sys2Proof.Machine
end

