-- ==== Sys2Proof/Laws/Turns.lean ====
section
/-! SUPPORT. Where the streams stand after a command issues or completes. -/
set_option Elab.async false
namespace Sys2Proof.Machine

variable {o d : Dev}

theorem stream_setStream (d : Dev) (st : Stream) (f : StreamState → StreamState) :
    (d.setStream st f).stream st = f (d.stream st) ∧
      (d.setStream st f).stream (otherStream st) = d.stream (otherStream st) := by
  cases st <;> exact ⟨rfl, rfl⟩

theorem Keeps.turn (h : Keeps true o d) (st : Stream) : (d.stream st).turn = (o.stream st).turn := by
  cases st
  · exact h.main rfl
  · exact h.backfill rfl

theorem Keeps.steady (h : Keeps true o d) : o.Steady d := ⟨h.main rfl, h.backfill rfl, h.now rfl⟩

/-- The streams after an issue. -/
theorem issue_turn (d : Dev) (st : Stream) (c : Decoded) (done waiting : Bool) :
    ((d.issue st c done waiting).stream st).turn = (some ⟨c, d.now, done, waiting, false⟩, (d.stream st).completed) ∧
      ((d.issue st c done waiting).stream (otherStream st)).turn = (d.stream (otherStream st)).turn ∧
      (d.issue st c done waiting).now = d.now := by
  have h : Keeps true d (d.resumeTime st) := by
    unfold Dev.resumeTime
    split
    · exact Keeps.updMain.mpr (Keeps.refl.raiseTo _ _)
    · exact Keeps.refl
  have hn : (d.resumeTime st).now = d.now := h.now rfl
  have h1 : ((d.resumeTime st).stream st).completed = (d.stream st).completed :=
    congrArg Prod.snd (h.turn st)
  have h2 := h.turn (otherStream st)
  have h3 := stream_setStream (d.resumeTime st) st fun s => { s with
    ahead := s.ahead.tail, running := some ⟨c, (d.resumeTime st).now, done, waiting, false⟩, hazard := [] }
  unfold Dev.issue
  cases st <;> exact ⟨by rw [← h1, ← hn]; rfl, h2, hn⟩

theorem Issued.keeps {e : Dev} {st : Stream} {c : Decoded} (h : o.Issued d st c) (hk : Keeps true d e) : o.Issued e st c :=
  ⟨(hk.turn st).trans h.1, (hk.turn _).trans h.2.1, (hk.now rfl).trans h.2.2⟩

theorem Awaits.keeps {e : Dev} {st : Stream} {c : Decoded} (h : o.Awaits d st c) (hk : Keeps true d e) : o.Awaits e st c :=
  ⟨(hk.turn st).trans h.1, (hk.turn _).trans h.2.1, (hk.now rfl).trans h.2.2⟩

theorem Completed.keeps {e : Dev} {st : Stream} (h : o.Completed d st) (hk : Keeps true d e) : o.Completed e st :=
  ⟨(hk.turn st).trans h.1, (hk.turn _).trans h.2.1, (hk.now rfl).trans h.2.2⟩

theorem Issued.of_issue (h : Keeps true o d) (st : Stream) (c : Decoded) : o.Issued (d.issue st c true false) st c := by
  have h1 := issue_turn d st c true false
  refine ⟨?_, h1.2.1.trans (h.turn _), h1.2.2.trans (h.now rfl)⟩
  rw [h1.1, h.now rfl, show (d.stream st).completed = (o.stream st).completed from congrArg Prod.snd (h.turn st)]

theorem Awaits.of_issue (h : Keeps true o d) (st : Stream) (c : Decoded) : o.Awaits (d.issue st c false true) st c := by
  have h1 := issue_turn d st c false true
  refine ⟨?_, h1.2.1.trans (h.turn _), h1.2.2.trans (h.now rfl)⟩
  rw [h1.1, h.now rfl, show (d.stream st).completed = (o.stream st).completed from congrArg Prod.snd (h.turn st)]

/-- An operation whose effect moves no stream on stands issued. -/
theorem Issued.operate (f : Fuse) (st : Stream) (c : Decoded) (written : List (Nat × Nat)) (ev : OpEvents)
    {effect : ByteSource → Dev → Dev} (he : ∀ src x y, Keeps true x y → Keeps true x (effect src y)) :
    o.Issued (o.operate f st c written ev effect) st c := by
  unfold Dev.operate
  have h1 : Keeps true o (o.findings written ev) := Keeps.refl.findings written ev
  have h2 := Issued.of_issue (h1.operandSource st c) st c
  refine Issued.keeps h2 ?_
  exact Keeps.coreFindings (Keeps.setStream (he _ _ _ Keeps.refl) st _) f ev

/-- A completion: the stream's command is over, and nothing else of the streams' turns changes. -/
theorem completeAt_turn (d : Dev) (st : Stream) (c : Decoded) (p : Place) :
    ((d.completeAt st c p).stream st).turn = (none, (d.stream st).completed + 1) ∧
      ((d.completeAt st c p).stream (otherStream st)).turn = (d.stream (otherStream st)).turn ∧
      (d.completeAt st c p).now = d.now := by
  have h1 : Keeps true d (d.measureTime st) := Keeps.refl.measureTime st
  have h2 : ((d.measureTime st).stream st).completed = (d.stream st).completed := congrArg Prod.snd (h1.turn st)
  have h3 := h1.turn (otherStream st)
  have h4 := h1.now rfl
  unfold Dev.completeAt
  generalize d.measureTime st = e at h2 h3 h4 ⊢
  generalize hg : (e.setStream st fun s => { s.feedIn c with running := none, completed := s.completed + 1 }) = g
  have h5 : (g.stream st).turn = (none, (d.stream st).completed + 1) := by
    rw [← hg, ← h2]
    cases st <;> rfl
  have h6 : (g.stream (otherStream st)).turn = (d.stream (otherStream st)).turn := by
    rw [← hg, ← h3]
    cases st <;> rfl
  have h7 : g.now = d.now := by
    rw [← hg, ← h4]
    cases st <;> rfl
  dsimp only
  have hk := Keeps.moveOn (Keeps.ite (c := c.notify = true) (((Keeps.refl (level := true) (o := g)).addWrap
    (Reg.seqCmdCount (sidx st)) 1).raise (seqPage st) 2) (Keeps.refl.addWrap (Reg.seqCmdCount (sidx st)) 1)) st p
  exact ⟨(hk.turn st).trans h5, (hk.turn _).trans h6, (hk.now rfl).trans h7⟩

theorem Completed.completeAt (h : (d.stream st).completed = (o.stream st).completed)
    (h2 : (d.stream (otherStream st)).turn = (o.stream (otherStream st)).turn) (h3 : d.now = o.now) (c : Decoded) (p : Place) :
    o.Completed (d.completeAt st c p) st := by
  have h1 := completeAt_turn d st c p
  exact ⟨by rw [h1.1, h], h1.2.1.trans h2, h1.2.2.trans h3⟩

theorem Completed.complete (h : Keeps true o d) (st : Stream) (c : Decoded) : o.Completed (d.complete st c) st :=
  Completed.completeAt (congrArg Prod.snd (h.turn st)) (h.turn _) (h.now rfl) c _

theorem Completed.of_issued {st : Stream} {c : Decoded} (h : o.Issued d st c) (p : Place) : o.Completed (d.completeAt st c p) st :=
  Completed.completeAt (congrArg Prod.snd h.1) h.2.1 h.2.2 c p

theorem Completed.of_awaits {st : Stream} {c : Decoded} (h : o.Awaits d st c) (p : Place) : o.Completed (d.completeAt st c p) st :=
  Completed.completeAt (congrArg Prod.snd h.1) h.2.1 h.2.2 c p

/-- A command that completes in its issue step, whose effect moves no stream on. -/
theorem Completed.instant (st : Stream) (c : Decoded) {f : Dev → Dev} (hf : ∀ x y, Keeps true x y → Keeps true x (f y)) :
    o.Completed (o.instant st c f) st := by
  unfold Dev.instant
  have h1 := Issued.keeps (Issued.of_issue (Keeps.refl (o := o)) st c) (hf _ _ Keeps.refl)
  exact Completed.keeps (Completed.of_issued h1 _) (Keeps.refl.settle st)

/-! Rows in the forms that the statements use. -/

variable {s : State}

theorem act_running (h : s.carrier.phase = .running) (f : Dev → Dev) : s.act f = .next { s with dev := f s.dev } := by
  unfold State.act
  rw [if_pos h]

theorem issueIf_some {st : Stream} {c : Decoded} {f : Decoded → Option Dev} {e : Dev} (h : d.next? st = some c) (hf : f c = some e) :
    d.issueIf st f = e := by
  unfold Dev.issueIf
  rw [h]
  dsimp only
  rw [hf]
  rfl

/-- A row that acts on the device, in a package that runs. -/
theorem act_next (h : s.carrier.phase = .running) {f : Dev → Dev} {e : Dev} (he : f s.dev = e) :
    s.act f = .next { s with dev := e } := by
  rw [act_running h, he]

/-- A row that issues a stream's next command. -/
theorem act_issue (h : s.carrier.phase = .running) {st : Stream} {c : Decoded} (hn : s.dev.next? st = some c)
    {f : Dev → Decoded → Option Dev} {e : Dev} (hf : f s.dev c = some e) :
    (s.act fun d => d.issueIf st (f d)) = .next { s with dev := e } := act_next h (issueIf_some hn hf)

/-- What a stream's next command is, and that nothing of the stream runs. -/
theorem next?_idle {st : Stream} {c : Decoded} (h : d.next? st = some c) :
    (d.stream st).running = none ∧ d.active (seqPage st) = true ∧ d.arrayFree = true ∧ d.quiet (otherStream st) = true := by
  have key : ∀ b : Bool, (if (d.active (seqPage st) && d.arrayFree && b && d.quiet (otherStream st)) = true then
      match (d.stream st).running, (d.stream st).ahead with
      | none, .ok c :: _ => if (d.runs st c && !d.shedHolds c.cmd) = true then some c else none
      | _, _ => none
      else none) = some c → (d.stream st).running = none ∧ d.active (seqPage st) = true ∧ d.arrayFree = true ∧
        d.quiet (otherStream st) = true := by
    intro b h
    split at h
    · rename_i hc
      simp only [Bool.and_eq_true] at hc
      split at h
      · rename_i hr _
        exact ⟨hr, hc.1.1.1, hc.1.1.2, hc.2⟩
      · cases h
    · cases h
  exact key _ h

theorem next?_waits {st : Stream} {c : Decoded} (h : d.next? st = some c) : d.waits st = none := by
  unfold Dev.waits
  rw [(next?_idle h).1]

/-! Registers that moving on does not touch. -/

/-- Not a register that a stream's moving on writes: its head, its counts, and what measures the backfill stream. -/
def Unmoved (st : Stream) (a : Nat) : Prop :=
  eventReg a = false ∧ a ≠ Reg.seqHead (sidx st) ∧ a ≠ Reg.seqSkipped (sidx st) ∧ a ≠ Reg.seqCmdCount (sidx st) ∧
    a ≠ Reg.seqBfLongestNs 1 ∧ a ≠ Reg.seqBfOverruns 1 ∧ a ≠ Reg.seqBfStatus 1

/-- A register reads as before, and the registers stay in canonical form. -/
def Reads (o d : Dev) (a : Nat) : Prop := Assoc.wf regReset d.regs = true ∧ d.reg a = o.reg a

theorem Reads.refl (h : Assoc.wf regReset o.regs = true) (a : Nat) : Reads o o a := ⟨h, rfl⟩

theorem Reads.setReg {a b : Nat} (h : Reads o d a) (w : Word) (hb : a ≠ b) : Reads o (d.setReg b w) a :=
  ⟨Assoc.wf_set h.1 b w, by rw [Dev.reg_setReg h.1, if_neg hb, h.2]⟩

theorem Reads.acts {a : Nat} (h : Reads o d a) (ha : eventReg a = false) (as : List Act) : Reads o (d.acts as) a :=
  ⟨(Keeps.refl (level := true)).acts as |>.regs h.1, (Dev.acts_reg h.1 ha as).trans h.2⟩

theorem Reads.addSat {a b : Nat} (h : Reads o d a) (hb : a ≠ b) (n : Nat) : Reads o (d.addSat b n) a := h.setReg _ hb

theorem Reads.addWrap {a b : Nat} (h : Reads o d a) (hb : a ≠ b) (n : Nat) : Reads o (d.addWrap b n) a := h.setReg _ hb

theorem Reads.raiseTo {a b : Nat} (h : Reads o d a) (hb : a ≠ b) (n : Nat) : Reads o (d.raiseTo b n) a := h.setReg _ hb

theorem Reads.setFlag {a b : Nat} (h : Reads o d a) (hb : a ≠ b) (i : Nat) (v : Bool) : Reads o (d.setFlag b i v) a :=
  h.setReg _ hb

theorem Reads.raise {a : Nat} (h : Reads o d a) (ha : eventReg a = false) (p : Page) (b : Nat) : Reads o (d.raise p b) a :=
  h.acts ha _

theorem Reads.other {e : Dev} {a : Nat} (h : Reads o d a) (he : e.regs = d.regs := by rfl) : Reads o e a :=
  ⟨by rw [he]; exact h.1, by rw [← h.2]; unfold Dev.reg; rw [he]⟩

theorem Reads.stream {a : Nat} (h : Reads o d a) (st : Stream) (f : StreamState → StreamState) :
    Reads o (d.setStream st f) a := by
  cases st <;> exact h.other

theorem Reads.ite {a : Nat} {c : Prop} [Decidable c] {x y : Dev} (hx : Reads o x a) (hy : Reads o y a) :
    Reads o (if c then x else y) a := by
  split
  · exact hx
  · exact hy

theorem Reads.moveOn {a : Nat} (h : Reads o d a) {st : Stream} (ha : Unmoved st a) (p : Place) : Reads o (d.moveOn st p) a := by
  unfold Dev.moveOn
  dsimp only
  have h1 := h.stream st fun s => { s with frames := p.frames }
  exact Reads.ite h1 (Reads.ite ((h1.setReg _ ha.2.1).acts ha.1 _) (h1.setReg _ ha.2.1))

theorem Reads.suspend {a : Nat} (h : Reads o d a) (he : eventReg a = false) (ha : a ≠ Reg.seqBfStatus 1) (bit : Nat) :
    Reads o (d.suspend bit) a := by
  unfold Dev.suspend
  exact Reads.ite h ((h.setFlag ha _ _).raise he _ _)

theorem Reads.measureTime {a : Nat} (h : Reads o d a) (st : Stream) (he : eventReg a = false)
    (ha : a ≠ Reg.seqBfLongestNs 1 ∧ a ≠ Reg.seqBfOverruns 1 ∧ a ≠ Reg.seqBfStatus 1) : Reads o (d.measureTime st) a := by
  unfold Dev.measureTime
  split
  · unfold Dev.measureBf Dev.countOverrun
    dsimp only
    exact Reads.ite (Reads.raise (Reads.suspend (Reads.addSat (h.raiseTo ha.1 _) ha.2.1 _) he ha.2.2 1) he _ _)
      (h.raiseTo ha.1 _)
  · exact h

theorem Reads.completeAt {a : Nat} (h : Reads o d a) {st : Stream} (ha : Unmoved st a) (c : Decoded) (p : Place) :
    Reads o (d.completeAt st c p) a := by
  unfold Dev.completeAt
  dsimp only
  have h0 := h.measureTime st ha.1 ha.2.2.2.2
  generalize d.measureTime st = e at h0 ⊢
  have h1 := (h0.stream st fun s => { s.feedIn c with running := none, completed := s.completed + 1 }).addWrap ha.2.2.2.1 1
  exact (Reads.ite (h1.raise ha.1 _ _) h1).moveOn ha p

theorem Reads.complete {a : Nat} (h : Reads o d a) {st : Stream} (ha : Unmoved st a) (c : Decoded) :
    Reads o (d.complete st c) a := h.completeAt ha c _

theorem Reads.skipOne {a : Nat} (h : Reads o d a) {st : Stream} (ha : Unmoved st a) (c : Decoded) (rest : List Ahead) :
    Reads o (d.skipOne st c rest) a := by
  unfold Dev.skipOne
  dsimp only
  exact ((h.stream st _).setReg _ ha.2.2.1).moveOn ha _

theorem Reads.skipAhead {a : Nat} {st : Stream} (ha : Unmoved st a) (n : Nat) {d : Dev} (h : Reads o d a) :
    Reads o (Dev.skipAhead st n d) a := by
  induction n generalizing d with
  | zero => exact h
  | succ n ih =>
    unfold Dev.skipAhead
    dsimp only
    split
    · exact Reads.ite (ih (h.skipOne ha _ _)) h
    · exact h

theorem Reads.settle {a : Nat} (h : Reads o d a) {st : Stream} (ha : Unmoved st a) : Reads o (d.settle st) a :=
  Reads.skipAhead ha 9 h

/-- An issue moves only SEQ_RESUME_MAX_NS. -/
theorem Reads.issue {a : Nat} (h : Reads o d a) (st : Stream) (c : Decoded) (done waiting : Bool)
    (ha : a ≠ Reg.seqResumeMaxNs 1) : Reads o (d.issue st c done waiting) a := by
  have h1 : Reads o (d.resumeTime st) a := by
    unfold Dev.resumeTime
    split
    · exact (h.setReg _ ha).other
    · exact h
  unfold Dev.issue
  cases st
  · exact h1.other
  · exact h1.stream .backfill _

end Sys2Proof.Machine
end

