-- ==== Sys2Proof/Laws/Pend.lean ====
section
/-! SUPPORT. Event bits: raising one sets it, and nothing but software clears it. -/
set_option Elab.async false
namespace Sys2Proof.Machine

variable {d : Dev} {p : Page} {b : Nat}

/-- An event bit stands, and the registers are in canonical form. -/
structure Pends (d : Dev) (p : Page) (b : Nat) : Prop where
  wf : Assoc.wf regReset d.regs = true
  pend : d.pend p b = true

theorem Pends.setReg (h : Pends d p b) {a : Nat} (ha : evPendReg p ≠ a) (w : Word) : Pends (d.setReg a w) p b := by
  refine ⟨Assoc.wf_set h.wf a w, ?_⟩
  show bit ((d.setReg a w).reg (evPendReg p)) b = true
  rw [Dev.reg_setReg h.wf, if_neg ha]
  exact h.pend

theorem Pends.other {e : Dev} (h : Pends d p b) (he : e.regs = d.regs := by rfl) : Pends e p b :=
  ⟨by rw [he]; exact h.wf, by
    show bit (Assoc.get regReset e.regs (evPendReg p)) b = true
    rw [he]
    exact h.pend⟩

theorem Pends.ite {c : Prop} [Decidable c] {x y : Dev} (hx : Pends x p b) (hy : Pends y p b) : Pends (if c then x else y) p b := by
  split
  · exact hx
  · exact hy

theorem Pends.ite1 {α : Type} {c : Prop} [Decidable c] {x y : Dev × α} (hx : Pends x.1 p b) (hy : Pends y.1 p b) :
    Pends (if c then x else y).1 p b := by
  split
  · exact hx
  · exact hy

/-- The last three digits of the address of an EV_PEND register. -/
theorem evPendReg_low (p : Page) : evPendReg p % 0x1000 = 0x020 := by
  unfold evPendReg pageAddr
  omega

theorem Pends.setLow (h : Pends d p b) {a : Nat} (ha : a % 0x1000 ≠ 0x020) (w : Word) : Pends (d.setReg a w) p b :=
  h.setReg (fun e => ha (by rw [← e]; exact evPendReg_low p)) w

theorem Pends.put (h : Pends d p b) (bytes : List Byte) : Pends (d.putRecord bytes).1 p b := by
  unfold Dev.putRecord
  dsimp only
  exact ((((h.other (e := { d with mem := _, log := _ })).setLow (a := Reg.logWriteLo) (by decide) _).setLow
    (a := Reg.logWriteLo + 4) (by decide) _).setLow (a := Reg.logRecords) (by decide) _)

theorem Pends.append (h : Pends d p b) (r : Rec) : Pends (d.append r).1 p b := by
  unfold Dev.append
  dsimp only
  refine Pends.ite1 h (Pends.ite1 ?_ ?_)
  · unfold Dev.loseRecord Dev.bad Dev.markBad
    dsimp only
    exact (((h.other (e := { d with log := _ })).setLow (a := Reg.logStatus) (by decide) _).setLow (a := Reg.logLost)
      (by decide) _).other
  · unfold Dev.keepRecord
    dsimp only
    refine Pends.put ?_ _
    unfold Dev.digestRec
    dsimp only
    have h1 : Pends (d.closeLoss (if d.log.lost = 0 then [] else d.recBytes d.lossRec)).1 p b := by
      unfold Dev.closeLoss
      exact Pends.ite1 h (h.put _)
    exact Pends.ite h1.other h1.other

theorem Pends.edge (h : Pends d p b) (x : Nat) : Pends (d.edge x).1 p b := by
  unfold Dev.edge
  refine Pends.ite1 h ?_
  have h1 : (Reg.irqPending (x / 32)) % 0x1000 ≠ 0x020 := by
    unfold Reg.irqPending
    omega
  have h2 : (Reg.irqMissed (x / 4)) % 0x1000 ≠ 0x020 := by
    unfold Reg.irqMissed
    omega
  exact Pends.ite1 (h.setLow h2 _) (h.setLow h1 _)

theorem evMissedReg_low (p : Page) : evMissedReg p % 0x1000 = 0x02C := by
  unfold evMissedReg pageAddr
  omega

theorem Pends.setPend (h : Pends d p b) (q : Page) (c : Nat) : Pends (d.setFlag (evPendReg q) c true) p b := by
  by_cases he : evPendReg p = evPendReg q
  · refine ⟨Assoc.wf_set h.wf _ _, ?_⟩
    show bit ((d.setReg (evPendReg q) (setBit (d.reg (evPendReg q)) c true)).reg (evPendReg p)) b = true
    rw [Dev.reg_setReg h.wf, if_pos he, ← he]
    have hb : bit (d.reg (evPendReg p)) b = true := h.pend
    unfold bit at hb ⊢
    unfold setBit
    rw [getLsbD_setBits]
    split
    · have : b - c = 0 := by omega
      rw [this]
      rfl
    · exact hb
  · exact h.setReg he _

theorem Pends.event (h : Pends d p b) (q : Page) (c : Nat) (f : Bool) : Pends (d.event q c f).1 p b := by
  unfold Dev.event
  dsimp only
  refine Pends.ite1 ?_ (h.setPend q c)
  have h1 : evMissedReg q % 0x1000 ≠ 0x020 := by
    rw [evMissedReg_low]
    decide
  exact (h.setLow h1 _).setLow h1 _

theorem Pends.act (h : Pends d p b) (a : Act) : Pends (d.act a).1 p b := by
  cases a with
  | event q c f => exact h.event q c f
  | record r => exact h.append r
  | edge x => exact h.edge x

theorem Pends.runActs (n : Nat) (as : List Act) {d : Dev} (h : Pends d p b) : Pends (Dev.runActs n d as) p b := by
  induction n generalizing d as with
  | zero => exact h
  | succ n ih =>
    cases as with
    | nil => exact h
    | cons a as => exact ih _ (h.act a)

theorem Pends.acts (h : Pends d p b) (as : List Act) : Pends (d.acts as) p b := h.runActs _ as

theorem Pends.raise (h : Pends d p b) (q : Page) (c : Nat) : Pends (d.raise q c) p b := h.acts _

/-- Raising an event sets its bit. -/
theorem Pends.raised (h : Assoc.wf regReset d.regs = true) (p : Page) {b : Nat} (hb : b < 32) : Pends (d.raise p b) p b := by
  refine Pends.runActs 63 _ ?_
  show Pends (d.event p b false).1 p b
  unfold Dev.event
  dsimp only
  split
  · rename_i hp
    have h0 : Pends d p b := ⟨h, hp⟩
    have h1 : evMissedReg p % 0x1000 ≠ 0x020 := by
      rw [evMissedReg_low]
      decide
    exact (h0.setLow h1 _).setLow h1 _
  · refine ⟨Assoc.wf_set h _ _, ?_⟩
    show bit ((d.setReg (evPendReg p) (setBit (d.reg (evPendReg p)) b true)).reg (evPendReg p)) b = true
    rw [Dev.reg_setReg_same h]
    exact bit_setBit _ hb true

theorem Pends.stream (h : Pends d p b) (st : Stream) (f : StreamState → StreamState) : Pends (d.setStream st f) p b := by
  cases st <;> exact h.other

theorem Pends.moveOn (h : Pends d p b) (st : Stream) (q : Place) : Pends (d.moveOn st q) p b := by
  unfold Dev.moveOn
  dsimp only
  have h0 : Reg.seqHead (sidx st) % 0x1000 ≠ 0x020 := by
    unfold Reg.seqHead
    omega
  have h1 := h.stream st fun s => { s with frames := q.frames }
  exact Pends.ite h1 (Pends.ite ((h1.setLow h0 _).raise _ _) (h1.setLow h0 _))

theorem Pends.measureTime (h : Pends d p b) (st : Stream) : Pends (d.measureTime st) p b := by
  unfold Dev.measureTime
  split
  · unfold Dev.measureBf Dev.countOverrun Dev.suspend
    dsimp only
    have h1 := h.setLow (a := Reg.seqBfLongestNs 1) (by decide)
    refine Pends.ite (Pends.raise (Pends.ite ?_ (Pends.raise ?_ _ _)) _ _) (h1 _)
    · exact (h1 _).setLow (a := Reg.seqBfOverruns 1) (by decide) _
    · exact ((h1 _).setLow (a := Reg.seqBfOverruns 1) (by decide) _).setLow (a := Reg.seqBfStatus 1) (by decide) _
  · exact h

theorem Pends.completeAt (h : Pends d p b) (st : Stream) (c : Decoded) (q : Place) : Pends (d.completeAt st c q) p b := by
  unfold Dev.completeAt
  dsimp only
  have h0 : Reg.seqCmdCount (sidx st) % 0x1000 ≠ 0x020 := by
    unfold Reg.seqCmdCount
    omega
  have h2 := h.measureTime st
  generalize d.measureTime st = e at h2 ⊢
  have h1 := (h2.stream st fun s => { s.feedIn c with running := none, completed := s.completed + 1 }).setLow h0
    (BitVec.ofNat 32 (((e.setStream st fun s => { s.feedIn c with running := none, completed := s.completed + 1 }).reg
      (Reg.seqCmdCount (sidx st))).toNat + 1))
  exact (Pends.ite (h1.raise _ _) h1).moveOn st q

theorem Pends.skipOne (h : Pends d p b) (st : Stream) (c : Decoded) (rest : List Ahead) : Pends (d.skipOne st c rest) p b := by
  unfold Dev.skipOne
  dsimp only
  have h0 : Reg.seqSkipped (sidx st) % 0x1000 ≠ 0x020 := by
    unfold Reg.seqSkipped
    omega
  exact ((h.stream st _).setLow h0 _).moveOn st _

theorem Pends.skipAhead (st : Stream) (n : Nat) {d : Dev} (h : Pends d p b) : Pends (Dev.skipAhead st n d) p b := by
  induction n generalizing d with
  | zero => exact h
  | succ n ih =>
    unfold Dev.skipAhead
    dsimp only
    split
    · exact Pends.ite (ih (h.skipOne st _ _)) h
    · exact h

theorem Pends.settle (h : Pends d p b) (st : Stream) : Pends (d.settle st) p b := Pends.skipAhead st 9 h

end Sys2Proof.Machine
end

