-- ==== Sys2Proof/Laws/Pages.lean ====
section
/-! SUPPORT. Page states: what a transition writes, and what leaves a page in its state. -/
set_option Elab.async false
namespace Sys2Proof.Machine

variable {o d : Dev} {p : Page} {c : Nat}

theorem stateReg_low (p : Page) : stateReg p % 0x1000 = 0x014 := by
  unfold stateReg pageAddr
  omega

theorem eventReg_state (p : Page) : eventReg (stateReg p) = false := by
  have h := stateReg_low p
  have h1 : ∀ x ∈ [Reg.logWriteLo, Reg.logWriteLo + 4, Reg.logRecords, Reg.logStatus, Reg.logLost], x % 0x1000 ≠ 0x014 := by
    decide
  unfold eventReg
  simp only [Bool.or_eq_false_iff, beq_eq_false_iff_ne, decide_eq_false_iff_not]
  refine ⟨⟨⟨⟨by omega, by omega⟩, by omega⟩, by omega⟩, ?_⟩
  simp only [List.contains_eq_mem, decide_eq_false_iff_not]
  exact fun hm => h1 _ hm h

/-- A page is in a state, and the registers are in canonical form. -/
structure InState (d : Dev) (p : Page) (c : Nat) : Prop where
  wf : Assoc.wf regReset d.regs = true
  code : d.code p = c

theorem InState.of_reads (h : InState o p c) (hr : Reads o d (stateReg p)) : InState d p c :=
  ⟨hr.1, by rw [← h.code]; unfold Dev.code Dev.fld; rw [hr.2]⟩

theorem InState.setLow (h : InState d p c) {a : Nat} (ha : a % 0x1000 ≠ 0x014) (w : Word) : InState (d.setReg a w) p c :=
  h.of_reads ((Reads.refl h.wf _).setReg w (fun he => ha (he ▸ stateReg_low p)))

theorem InState.acts (h : InState d p c) (as : List Act) : InState (d.acts as) p c :=
  h.of_reads ((Reads.refl h.wf _).acts (eventReg_state p) as)

theorem InState.raise (h : InState d p c) (q : Page) (b : Nat) : InState (d.raise q b) p c := h.acts _

theorem InState.record (h : InState d p c) (r : Rec) : InState (d.record r) p c := h.acts _

theorem InState.other {e : Dev} (h : InState d p c) (he : e.regs = d.regs := by rfl) : InState e p c :=
  h.of_reads ((Reads.refl h.wf _).other he)

theorem Reads.moveTo {a : Nat} (h : Reads o d a) (p : Page) (c : Nat) (ha : a ≠ stateReg p) : Reads o (d.moveTo p c) a := by
  unfold Dev.moveTo
  exact Reads.ite h (Reads.other (h.setReg _ ha))

/-- A transition leaves the page in the state it goes to. -/
theorem InState.moved (h : Assoc.wf regReset d.regs = true) (p : Page) {c : Nat} (hc : c < 16) : InState (d.moveTo p c) p c := by
  unfold Dev.moveTo
  split
  · exact ⟨h, ‹_›⟩
  · refine ⟨Assoc.wf_set h _ _, ?_⟩
    show bits ((Dev.setReg d (stateReg p) _).reg (stateReg p)) 3 0 = c
    rw [Dev.reg_setReg h, if_pos rfl, bits_setBits_other _ (by decide), bits_setBits _ (by decide) (by decide)]
    exact Nat.mod_eq_of_lt hc

/-! A transition touches the state register and the roll call's count alone. -/

@[simp] theorem Dev.moveTo_now (p : Page) (c : Nat) : (d.moveTo p c).now = d.now := by unfold Dev.moveTo; split <;> rfl
@[simp] theorem Dev.moveTo_resetAt (p : Page) (c : Nat) : (d.moveTo p c).resetAt = d.resetAt := by unfold Dev.moveTo; split <;> rfl
@[simp] theorem Dev.moveTo_freeCtr (p : Page) (c : Nat) : (d.moveTo p c).freeCtr = d.freeCtr := by unfold Dev.moveTo; split <;> rfl
@[simp] theorem Dev.moveTo_nextRun (p : Page) (c : Nat) : (d.moveTo p c).nextRun = d.nextRun := by unfold Dev.moveTo; split <;> rfl
@[simp] theorem Dev.moveTo_mem (p : Page) (c : Nat) : (d.moveTo p c).mem = d.mem := by unfold Dev.moveTo; split <;> rfl
@[simp] theorem Dev.moveTo_drained (p : Page) (c : Nat) : (d.moveTo p c).drained = d.drained := by unfold Dev.moveTo; split <;> rfl
@[simp] theorem Dev.moveTo_flash (p : Page) (c : Nat) : (d.moveTo p c).flash = d.flash := by unfold Dev.moveTo; split <;> rfl
@[simp] theorem Dev.moveTo_ext (p : Page) (c : Nat) : (d.moveTo p c).ext = d.ext := by unfold Dev.moveTo; split <;> rfl
@[simp] theorem Dev.moveTo_seqMain (p : Page) (c : Nat) : (d.moveTo p c).seqMain = d.seqMain := by unfold Dev.moveTo; split <;> rfl
@[simp] theorem Dev.moveTo_seqBf (p : Page) (c : Nat) : (d.moveTo p c).seqBf = d.seqBf := by unfold Dev.moveTo; split <;> rfl
@[simp] theorem Dev.moveTo_curves (p : Page) (c : Nat) : (d.moveTo p c).curves = d.curves := by unfold Dev.moveTo; split <;> rfl
@[simp] theorem Dev.moveTo_cmp (p : Page) (c : Nat) : (d.moveTo p c).cmp = d.cmp := by unfold Dev.moveTo; split <;> rfl
@[simp] theorem Dev.moveTo_xch (p : Page) (c : Nat) : (d.moveTo p c).xch = d.xch := by unfold Dev.moveTo; split <;> rfl
@[simp] theorem Dev.moveTo_red (p : Page) (c : Nat) : (d.moveTo p c).red = d.red := by unfold Dev.moveTo; split <;> rfl
@[simp] theorem Dev.moveTo_hlm (p : Page) (c : Nat) : (d.moveTo p c).hlm = d.hlm := by unfold Dev.moveTo; split <;> rfl
@[simp] theorem Dev.moveTo_sxt (p : Page) (c : Nat) : (d.moveTo p c).sxt = d.sxt := by unfold Dev.moveTo; split <;> rfl
@[simp] theorem Dev.moveTo_hng (p : Page) (c : Nat) : (d.moveTo p c).hng = d.hng := by unfold Dev.moveTo; split <;> rfl
@[simp] theorem Dev.moveTo_snd (p : Page) (c : Nat) : (d.moveTo p c).snd = d.snd := by unfold Dev.moveTo; split <;> rfl
@[simp] theorem Dev.moveTo_ports (p : Page) (c : Nat) : (d.moveTo p c).ports = d.ports := by unfold Dev.moveTo; split <;> rfl
@[simp] theorem Dev.moveTo_cht (p : Page) (c : Nat) : (d.moveTo p c).cht = d.cht := by unfold Dev.moveTo; split <;> rfl
@[simp] theorem Dev.moveTo_log (p : Page) (c : Nat) : (d.moveTo p c).log = d.log := by unfold Dev.moveTo; split <;> rfl
@[simp] theorem Dev.moveTo_sky (p : Page) (c : Nat) : (d.moveTo p c).sky = d.sky := by unfold Dev.moveTo; split <;> rfl
@[simp] theorem Dev.moveTo_chk (p : Page) (c : Nat) : (d.moveTo p c).chk = d.chk := by unfold Dev.moveTo; split <;> rfl
@[simp] theorem Dev.moveTo_irq (p : Page) (c : Nat) : (d.moveTo p c).irq = d.irq := by unfold Dev.moveTo; split <;> rfl
@[simp] theorem Dev.moveTo_boot (p : Page) (c : Nat) : (d.moveTo p c).boot = d.boot := by unfold Dev.moveTo; split <;> rfl
@[simp] theorem Dev.moveTo_pwr (p : Page) (c : Nat) : (d.moveTo p c).pwr = d.pwr := by unfold Dev.moveTo; split <;> rfl

end Sys2Proof.Machine
end

