-- ==== Sys2Proof/Laws/Only.lean ====
section
/-! SUPPORT. What changes no register but those listed: the accessors of registers, and transitions. -/
set_option Elab.async false
namespace Sys2Proof.Machine

variable {o d : Dev} {as : List Nat}

/-- The registers are in canonical form, and of memory, the streams' turns, the time and the registers only those listed
have changed. -/
structure Touches (o d : Dev) (as : List Nat) : Prop where
  wf : Assoc.wf regReset d.regs = true
  only : o.Only d as

theorem Touches.refl (h : Assoc.wf regReset o.regs = true) : Touches o o as :=
  ⟨h, rfl, ⟨rfl, rfl, rfl⟩, fun _ _ => rfl⟩

theorem Touches.setReg (h : Touches o d as) {a : Nat} (ha : a ∈ as) (w : Word) : Touches o (d.setReg a w) as := by
  refine ⟨Assoc.wf_set h.wf _ _, h.only.1, h.only.2.1, fun b hb => ?_⟩
  have hne : b ≠ a := fun he => hb (he ▸ ha)
  rw [Dev.reg_setReg h.wf, if_neg hne]
  exact h.only.2.2 b hb

theorem Touches.setFld (h : Touches o d as) {a : Nat} (ha : a ∈ as) (hi lo v : Nat) : Touches o (d.setFld a hi lo v) as :=
  h.setReg ha _

theorem Touches.setFlag (h : Touches o d as) {a : Nat} (ha : a ∈ as) (i : Nat) (b : Bool) : Touches o (d.setFlag a i b) as :=
  h.setReg ha _

theorem Touches.addSat (h : Touches o d as) {a : Nat} (ha : a ∈ as) (n : Nat) : Touches o (d.addSat a n) as := h.setReg ha _

theorem Touches.store (h : Touches o d as) {a : Nat} (ha : a ∈ as) (w : Word) : Touches o (d.store a w) as := h.setReg ha _

/-- A change that leaves memory, registers, turns and time as they were. -/
theorem Touches.other {e : Dev} (h : Touches o d as) (hm : e.mem = d.mem := by rfl) (hr : e.regs = d.regs := by rfl)
    (h1 : e.seqMain.turn = d.seqMain.turn := by rfl) (h2 : e.seqBf.turn = d.seqBf.turn := by rfl)
    (hn : e.now = d.now := by rfl) : Touches o e as := by
  refine ⟨hr ▸ h.wf, hm.trans h.only.1, ⟨h1.trans h.only.2.1.1, h2.trans h.only.2.1.2.1, hn.trans h.only.2.1.2.2⟩, fun b hb => ?_⟩
  rw [← h.only.2.2 b hb]
  unfold Dev.reg
  rw [hr]

theorem Touches.ite {c : Prop} [Decidable c] {x y : Dev} (hx : Touches o x as) (hy : Touches o y as) :
    Touches o (if c then x else y) as := by
  split
  · exact hx
  · exact hy

theorem Touches.foldl {α : Type} {f : Dev → α → Dev} (hf : ∀ x a, Touches o x as → Touches o (f x a) as) (l : List α)
    (h : Touches o d as) : Touches o (l.foldl f d) as := by
  induction l generalizing d with
  | nil => exact h
  | cons a l ih => exact ih (hf _ a h)

theorem Touches.moveTo (h : Touches o d as) (p : Page) (hp : stateReg p ∈ as) (c : Nat) : Touches o (d.moveTo p c) as := by
  unfold Dev.moveTo
  exact (h.ite (h.setReg hp _).other)

theorem Touches.reqResult (h : Touches o d as) (p : Page) (hp : stateReg p ∈ as) (r : Nat) : Touches o (d.reqResult p r) as :=
  h.setFld hp _ _ _

theorem Touches.accept (h : Touches o d as) (p : Page) (hp : stateReg p ∈ as) (c : Nat) : Touches o (d.accept p c) as :=
  ((h.setFld hp _ _ _).moveTo p hp c).reqResult p hp _

/-! The state register after a request (R484). -/

theorem Dev.fld_setFld (h : Assoc.wf regReset d.regs = true) (a : Nat) {hi lo : Nat} (hh : hi < 32) (hl : lo ≤ hi) (v : Nat) :
    (d.setFld a hi lo v).fld a hi lo = v % 2 ^ (hi + 1 - lo) := by
  unfold Dev.fld Dev.setFld
  rw [Dev.reg_setReg_same h]
  exact bits_setBits _ hh hl _

theorem Dev.fld_setFld_other (h : Assoc.wf regReset d.regs = true) (a : Nat) {h1 l1 h2 l2 : Nat} (hd : h1 < l2 ∨ h2 < l1) (v : Nat) :
    (d.setFld a h2 l2 v).fld a h1 l1 = d.fld a h1 l1 := by
  unfold Dev.fld Dev.setFld
  rw [Dev.reg_setReg_same h]
  exact bits_setBits_other _ hd _

theorem Dev.fld_setFld_away (h : Assoc.wf regReset d.regs = true) {a b : Nat} (hab : b ≠ a) (h1 l1 h2 l2 v : Nat) :
    (d.setFld a h2 l2 v).fld b h1 l1 = d.fld b h1 l1 := by
  unfold Dev.fld Dev.setFld
  rw [Dev.reg_setReg h, if_neg hab]

/-- A page that a transition moves out of another state: its code, and GEN one higher. -/
theorem Dev.moveTo_state (h : Assoc.wf regReset d.regs = true) (p : Page) {c : Nat} (hc : c < 16) (hne : d.code p ≠ c) :
    (d.moveTo p c).code p = c ∧ (d.moveTo p c).fld (stateReg p) 15 8 = (d.fld (stateReg p) 15 8 + 1) % 256 := by
  refine ⟨(InState.moved h p hc).code, ?_⟩
  unfold Dev.moveTo
  rw [if_neg hne]
  show bits ((Dev.setReg d (stateReg p) _).reg (stateReg p)) 15 8 = _
  rw [Dev.reg_setReg_same h, bits_setBits _ (by decide) (by decide)]
  unfold Dev.fld
  split
  · rw [bits_setBits_other _ (by decide), bits_setBits_other _ (by decide)]
    rfl
  · rfl

/-- A request accepted: code, RESULT, GEN. -/
theorem Dev.accept_state (h : Assoc.wf regReset d.regs = true) (p : Page) {c : Nat} (hc : c < 16) (hne : d.code p ≠ c) :
    (d.accept p c).code p = c ∧ (d.accept p c).fld (stateReg p) 19 16 = 1 ∧
      (d.accept p c).fld (stateReg p) 15 8 = (d.fld (stateReg p) 15 8 + 1) % 256 := by
  have hw : Assoc.wf regReset (d.setFld (stateReg p) 23 20 0).regs = true := Assoc.wf_set h _ _
  have hk : (d.setFld (stateReg p) 23 20 0).code p ≠ c := by
    unfold Dev.code; rw [Dev.fld_setFld_other h _ (by decide)]; exact hne
  have hm := Dev.moveTo_state hw p hc hk
  have hw2 : Assoc.wf regReset ((d.setFld (stateReg p) 23 20 0).moveTo p c).regs = true := (InState.moved hw p hc).wf
  unfold Dev.accept Dev.reqResult
  refine ⟨?_, ?_, ?_⟩
  · unfold Dev.code; rw [Dev.fld_setFld_other hw2 _ (by decide)]; exact hm.1
  · rw [Dev.fld_setFld hw2 _ (by decide) (by decide)]
    rfl
  · rw [Dev.fld_setFld_other hw2 _ (by decide), hm.2, Dev.fld_setFld_other h _ (by decide)]

end Sys2Proof.Machine
end

