-- ==== Sys2Proof/WellFormed.lean ====
section
/-! DEFINITION. The checks of a command's operands: what the table's rows let stand in them. A command that fails them is no
command of the interface; the machine itself is total and does not ask. -/
namespace Sys2Proof
open Sys2Proof.Machine

/-- A message: one of the 36 ports or the package itself, and header fields within their widths (R314). -/
def Packet.wf (m : Packet) : Bool :=
  decide (m.port ≤ 36 ∧ m.src < 65536 ∧ m.cls < 5 ∧ m.stripe < 8 ∧ m.chart < 8)

/-- A page of the directory (R476, R480). -/
def Page.wf (p : Page) : Bool := decide (p.inst < pageInstances p.type)

/-- A link control word: a credit return for each class, sequence numbers of 12 bits (R316). -/
def ControlWord.wf (w : ControlWord) : Bool := decide (w.ack < 4096 ∧ w.expected < 4096 ∧ w.credits.length = 5)

/-- A peer's identity: package and port numbers (R313). -/
def Training.wf : Training → Bool
  | .trained package port => decide (package < 65536 ∧ port < 36)
  | .failed => true

/-- A read of a DRAM block: an address of the DRAM, bits of the 256 data bytes and the four check bytes (R116). -/
def BlockRead.wf (r : BlockRead) : Bool := decide (r.source < 24 * stackSpan) && r.flips.all fun i => decide (i < 2080)

/-- What the check of a block finds, in the DRAM. -/
def BlockFinding.wf (f : BlockFinding) : Bool := decide (f.addr < 24 * stackSpan) && f.first.wf && f.second.wf

/-- Where a fault strikes in an engine: a position of a block of 32 (R80). -/
def CellSite.wf : CellSite → Bool
  | .rowAdder k | .colAdder k => decide (k < 32)
  | .multiply _ _ | .rowCheck _ | .colCheck _ | .corner => true

/-- A fault in an engine: one that changes a result, in a group that a table can have (R61, R80). -/
def CellFinding.wf (f : CellFinding) : Bool := f.site.wf && decide (f.group < 256 ∧ f.first ≠ 0)

/-- What was duplicated: two different cores for a row (R363). -/
def DupFinding.wf (f : DupFinding) : Bool :=
  match f.site with
  | .item group _ => decide (group < 256)
  | .row _ core partner => core != partner

/-- A read of a store: a cluster, a line of its store or a core of it, bits of the word or line (R123). -/
def StoreFinding.wf (f : StoreFinding) : Bool :=
  match f.site with
  | .core _ => decide (f.cluster < 2400) && (f.first ++ f.second).all fun i => decide (i < 33)
  | .line n => decide (f.cluster < 2400 ∧ n < 65536) && (f.first ++ f.second).all fun i => decide (i < 528)

/-- What happens under an operation lies in the package. -/
def OpEvents.wf (ev : OpEvents) : Bool :=
  ev.blocks.all BlockFinding.wf && ev.cells.all CellFinding.wf && ev.dups.all DupFinding.wf && ev.stores.all StoreFinding.wf

/-- A rail of R432. -/
def Rail.wf : Rail → Bool
  | .carrier | .hub => true
  | .core x => decide (x < 2400)
  | .base x | .serdes x => decide (x < 12)
  | .dram x => decide (x < 24)

/-- A cause of a trip (R447). -/
def TripCause.wf : TripCause → Bool
  | .die x => decide (x < 12)
  | .therm => true

/-- The message a command carries. -/
def Instr.packet : Instr → Option Packet
  | .count m _ | .grant m _ | .place m _ | .ready m _ | .data m _ | .agree m _ | .ec48 m _ | .topk m _ | .sign m _ |
    .fast m _ | .tally m _ | .consensus m _ | .pipelineBlock m _ | .stop m | .go m | .barrier m _ | .fixVote m |
    .flushCount m | .skRequest m | .skAccept m | .skVerdict m | .skDecision m | .skCancel m | .remoteWriteBlock m _ => some m
  | .nop _ | .fence _ | .fenceComplete _ | .flush _ | .flushComplete _ | .wait _ | .waitComplete _ |
    .waitTimeout _ | .setpred .. | .stamp .. | .call _ | .ret _ | .matmul .. | .matmulH .. | .vprog .. |
    .softmax .. | .normRms .. | .normLayer .. | .vkernelReduce .. | .attnStat .. | .loss .. | .tload .. | .copy .. |
    .transpose .. | .route _ | .compassTimeout .. | .dispatch _ | .xchgReturn _ | .combine _ | .gradDispatch _ |
    .gradReturn _ | .xchgComplete .. | .xchgTimeout .. | .reduceSum _ | .reduceTally _ | .reduceMax _ |
    .reduceConsensus _ | .reduceComplete .. | .reduceTimeout _ | .helmSetStep _ | .helmSetNorm _ | .helmSetCoef _ |
    .helmSetDecay _ | .helmUpdate _ | .send _ | .sendComplete .. | .sendTimeout _ | .release | .leg | .legSwitch _ |
    .legTimeout | .fix | .fixTimeout | .skTimeout | .logmarkNote | .logmarkTensor _ | .logmarkRange _ |
    .commandDecode .. | .commandReject _ | .operationBoundary _ | .bfOverrun | .seqTailWrite .. |
    .seqCounterAdd .. | .bfEnableWrite .. | .bfEnableEffect | .bfResume .. | .linkBlockReceive .. |
    .linkControlWord .. | .parkWord _ | .fabEnableWrite .. | .trainingAttemptEnd .. | .laneLockLoss .. |
    .chtPackageWrite .. | .chartLoad .. | .chartLoadReplay .. | .postTailWrite .. | .postWriteAcked _ |
    .stateRequestActive .. | .stateRequestDraining .. | .stateRequestReady .. | .stateRequestQuarantine .. |
    .drainComplete _ | .chkCoreReq .. | .pin .. | .unpin .. | .cmpTrackRecordWrite .. | .hlmRingSlotWrite .. |
    .redStepNfForce .. | .logNextRead _ | .logDrainedWrite .. | .logSpill | .spillComplete _ | .hubIfaceOffer .. |
    .mbxPutLo .. | .mbxPutHi .. | .mbxGetLo .. | .mbxGetHi .. | .mbxOwnerWrite .. | .irqClaim .. | .irqComplete .. |
    .irqSwTrigger .. | .irqMissedClear .. | .holdoffExpiry _ | .evEnWrite .. | .evForceWrite .. |
    .registerLoRead .. | .absentPageAccess .. | .accessFault .. | .registerWrite .. | .extInputRawChange .. |
    .extInputFiltered _ | .inputStuck _ | .ppsEdge | .ptpMessage _ | .mgtLinkChange .. | .mgtPtpPortWrite .. |
    .rollCall | .attestationRequest _ | .debugUnlockToken _ | .tlsHandshake _ | .recoveryBundle _ | .scrubRead .. |
    .refclkPresent | .refclkLoss | .prsntMate | .insertionDebounceEnd _ | .rampComplete | .rampFault | .rampRetry |
    .resetRelease .. | .bootStageComplete _ | .dramFillComplete _ | .graceExpiry | .hotQuiesceWrite .. |
    .surpriseRemoval | .overcurrentTrip | .shedLevelEnter .. | .shedLevelLeave _ | .sagRestart _ |
    .pwrSagCfgWrite .. | .controlledPowerOff | .powerOffRailStep | .railFault .. | .powerManagerPeriod .. |
    .thermalPeriod .. | .thermalTrip _ | .tripRestart | .transmitSlot _ | .cycleStretch _ | .sramParityError _ |
    .softwareReset | .supplyApplied | .supplyRemoved | .prsntBreak | .captureReplayBlock => none

/-- What happens under the operation that a command issues. -/
def Instr.events : Instr → Option OpEvents
  | .matmul _ ev | .matmulH _ ev | .vprog _ ev | .softmax _ ev | .normRms _ ev | .normLayer _ ev |
    .vkernelReduce _ ev | .attnStat _ ev | .loss _ ev | .tload _ ev | .copy _ ev | .transpose _ ev | .route ev |
    .dispatch ev | .xchgReturn ev | .combine ev | .gradDispatch ev | .gradReturn ev | .reduceSum ev |
    .reduceTally ev | .reduceMax ev | .helmSetStep ev | .helmSetNorm ev | .helmSetCoef ev | .helmSetDecay ev |
    .helmUpdate ev | .send ev | .logmarkTensor ev | .logmarkRange ev => some ev
  | .nop _ | .fence _ | .fenceComplete _ | .flush _ | .flushComplete _ | .wait _ | .waitComplete _ |
    .waitTimeout _ | .setpred .. | .stamp .. | .call _ | .ret _ | .count .. | .grant .. | .place .. |
    .compassTimeout .. | .ready .. | .data .. | .xchgComplete .. | .xchgTimeout .. | .reduceConsensus _ |
    .agree .. | .ec48 .. | .topk .. | .sign .. | .fast .. | .tally .. | .consensus .. | .reduceComplete .. |
    .reduceTimeout _ | .sendComplete .. | .sendTimeout _ | .release | .pipelineBlock .. | .stop _ | .go _ | .leg |
    .legSwitch _ | .barrier .. | .legTimeout | .fix | .fixVote _ | .fixTimeout | .flushCount _ | .skRequest _ |
    .skAccept _ | .skVerdict _ | .skDecision _ | .skCancel _ | .skTimeout | .logmarkNote | .commandDecode .. |
    .commandReject _ | .operationBoundary _ | .bfOverrun | .seqTailWrite .. | .seqCounterAdd .. |
    .bfEnableWrite .. | .bfEnableEffect | .bfResume .. | .linkBlockReceive .. | .linkControlWord .. |
    .remoteWriteBlock .. | .parkWord _ | .fabEnableWrite .. | .trainingAttemptEnd .. | .laneLockLoss .. |
    .chtPackageWrite .. | .chartLoad .. | .chartLoadReplay .. | .postTailWrite .. | .postWriteAcked _ |
    .stateRequestActive .. | .stateRequestDraining .. | .stateRequestReady .. | .stateRequestQuarantine .. |
    .drainComplete _ | .chkCoreReq .. | .pin .. | .unpin .. | .cmpTrackRecordWrite .. | .hlmRingSlotWrite .. |
    .redStepNfForce .. | .logNextRead _ | .logDrainedWrite .. | .logSpill | .spillComplete _ | .hubIfaceOffer .. |
    .mbxPutLo .. | .mbxPutHi .. | .mbxGetLo .. | .mbxGetHi .. | .mbxOwnerWrite .. | .irqClaim .. | .irqComplete .. |
    .irqSwTrigger .. | .irqMissedClear .. | .holdoffExpiry _ | .evEnWrite .. | .evForceWrite .. |
    .registerLoRead .. | .absentPageAccess .. | .accessFault .. | .registerWrite .. | .extInputRawChange .. |
    .extInputFiltered _ | .inputStuck _ | .ppsEdge | .ptpMessage _ | .mgtLinkChange .. | .mgtPtpPortWrite .. |
    .rollCall | .attestationRequest _ | .debugUnlockToken _ | .tlsHandshake _ | .recoveryBundle _ | .scrubRead .. |
    .refclkPresent | .refclkLoss | .prsntMate | .insertionDebounceEnd _ | .rampComplete | .rampFault | .rampRetry |
    .resetRelease .. | .bootStageComplete _ | .dramFillComplete _ | .graceExpiry | .hotQuiesceWrite .. |
    .surpriseRemoval | .overcurrentTrip | .shedLevelEnter .. | .shedLevelLeave _ | .sagRestart _ |
    .pwrSagCfgWrite .. | .controlledPowerOff | .powerOffRailStep | .railFault .. | .powerManagerPeriod .. |
    .thermalPeriod .. | .thermalTrip _ | .tripRestart | .transmitSlot _ | .cycleStretch _ | .sramParityError _ |
    .softwareReset | .supplyApplied | .supplyRemoved | .prsntBreak | .captureReplayBlock => none

/-- The reads of blocks that a command other than an operation brings (R117). -/
def Instr.blocks : Instr → List BlockFinding
  | .setpred _ blocks | .stamp _ blocks | .count _ blocks | .grant _ blocks | .place _ blocks | .ready _ blocks |
    .data _ blocks | .xchgComplete _ _ _ blocks | .reduceConsensus blocks | .agree _ blocks | .ec48 _ blocks |
    .topk _ blocks | .sign _ blocks | .fast _ blocks | .tally _ blocks | .consensus _ blocks |
    .reduceComplete _ blocks | .sendComplete _ blocks | .pipelineBlock _ blocks | .legSwitch blocks |
    .barrier _ blocks | .commandDecode _ blocks | .remoteWriteBlock _ blocks | .chartLoad _ _ blocks |
    .chartLoadReplay _ _ blocks | .postTailWrite _ _ blocks | .postWriteAcked blocks => blocks
  | .nop _ | .fence _ | .fenceComplete _ | .flush _ | .flushComplete _ | .wait _ | .waitComplete _ |
    .waitTimeout _ | .call _ | .ret _ | .matmul .. | .matmulH .. | .vprog .. | .softmax .. | .normRms .. |
    .normLayer .. | .vkernelReduce .. | .attnStat .. | .loss .. | .tload .. | .copy .. | .transpose .. | .route _ |
    .compassTimeout .. | .dispatch _ | .xchgReturn _ | .combine _ | .gradDispatch _ | .gradReturn _ |
    .xchgTimeout .. | .reduceSum _ | .reduceTally _ | .reduceMax _ | .reduceTimeout _ | .helmSetStep _ |
    .helmSetNorm _ | .helmSetCoef _ | .helmSetDecay _ | .helmUpdate _ | .send _ | .sendTimeout _ | .release |
    .stop _ | .go _ | .leg | .legTimeout | .fix | .fixVote _ | .fixTimeout | .flushCount _ | .skRequest _ |
    .skAccept _ | .skVerdict _ | .skDecision _ | .skCancel _ | .skTimeout | .logmarkNote | .logmarkTensor _ |
    .logmarkRange _ | .commandReject _ | .operationBoundary _ | .bfOverrun | .seqTailWrite .. | .seqCounterAdd .. |
    .bfEnableWrite .. | .bfEnableEffect | .bfResume .. | .linkBlockReceive .. | .linkControlWord .. | .parkWord _ |
    .fabEnableWrite .. | .trainingAttemptEnd .. | .laneLockLoss .. | .chtPackageWrite .. | .stateRequestActive .. |
    .stateRequestDraining .. | .stateRequestReady .. | .stateRequestQuarantine .. | .drainComplete _ |
    .chkCoreReq .. | .pin .. | .unpin .. | .cmpTrackRecordWrite .. | .hlmRingSlotWrite .. | .redStepNfForce .. |
    .logNextRead _ | .logDrainedWrite .. | .logSpill | .spillComplete _ | .hubIfaceOffer .. | .mbxPutLo .. |
    .mbxPutHi .. | .mbxGetLo .. | .mbxGetHi .. | .mbxOwnerWrite .. | .irqClaim .. | .irqComplete .. |
    .irqSwTrigger .. | .irqMissedClear .. | .holdoffExpiry _ | .evEnWrite .. | .evForceWrite .. |
    .registerLoRead .. | .absentPageAccess .. | .accessFault .. | .registerWrite .. | .extInputRawChange .. |
    .extInputFiltered _ | .inputStuck _ | .ppsEdge | .ptpMessage _ | .mgtLinkChange .. | .mgtPtpPortWrite .. |
    .rollCall | .attestationRequest _ | .debugUnlockToken _ | .tlsHandshake _ | .recoveryBundle _ | .scrubRead .. |
    .refclkPresent | .refclkLoss | .prsntMate | .insertionDebounceEnd _ | .rampComplete | .rampFault | .rampRetry |
    .resetRelease .. | .bootStageComplete _ | .dramFillComplete _ | .graceExpiry | .hotQuiesceWrite .. |
    .surpriseRemoval | .overcurrentTrip | .shedLevelEnter .. | .shedLevelLeave _ | .sagRestart _ |
    .pwrSagCfgWrite .. | .controlledPowerOff | .powerOffRailStep | .railFault .. | .powerManagerPeriod .. |
    .thermalPeriod .. | .thermalTrip _ | .tripRestart | .transmitSlot _ | .cycleStretch _ | .sramParityError _ |
    .softwareReset | .supplyApplied | .supplyRemoved | .prsntBreak | .captureReplayBlock => []

/-- The checks of the operands of a command beside its message, its events and its reads of blocks. -/
def Instr.operandsOk : Instr → Bool
  | .stateRequestActive _ p _ | .stateRequestDraining _ p _ | .stateRequestReady _ p _ |
    .stateRequestQuarantine _ p _ | .drainComplete p | .evEnWrite _ p _ | .evForceWrite _ p _ => p.wf
  | .compassTimeout l m => decide (l < 256 ∧ m < 65536)
  | .xchgComplete k l m _ => decide (k < 5 ∧ l < 256 ∧ m < 65536)
  | .xchgTimeout k l m => decide (k < 5 ∧ l < 256 ∧ m < 65536)
  | .linkBlockReceive _ _ words => words.all fun w => decide (w.length = 136)
  | .linkControlWord _ w => w.wf
  | .trainingAttemptEnd _ r => r.wf
  | .registerLoRead _ a => decide (a < 2 ^ 64)
  | .absentPageAccess _ a _ => decide (a < 2 ^ 64)
  | .accessFault _ a w _ => decide (a < 2 ^ 64 ∧ 1 ≤ w ∧ w ≤ 8)
  | .registerWrite _ a _ => decide (a < 2 ^ 64)
  | .ptpMessage m => decide (m.port < 2)
  | .tlsHandshake hello => decide (hello.port < 2)
  | .scrubRead _ first second => (first ++ second).all fun i => decide (i < 2080)
  | .railFault rail _ => rail.wf
  | .thermalPeriod sensors _ _ => decide (sensors.length = 12) && sensors.all fun l => decide (l.length = 16)
  | .thermalTrip cause => cause.wf
  | .sramParityError a => decide (a < 0x4000000)
  | .nop _ | .fence _ | .fenceComplete _ | .flush _ | .flushComplete _ | .wait _ | .waitComplete _ |
    .waitTimeout _ | .setpred .. | .stamp .. | .call _ | .ret _ | .matmul .. | .matmulH .. | .vprog .. |
    .softmax .. | .normRms .. | .normLayer .. | .vkernelReduce .. | .attnStat .. | .loss .. | .tload .. | .copy .. |
    .transpose .. | .route _ | .count .. | .grant .. | .place .. | .dispatch _ | .xchgReturn _ | .combine _ |
    .gradDispatch _ | .gradReturn _ | .ready .. | .data .. | .reduceSum _ | .reduceTally _ | .reduceMax _ |
    .reduceConsensus _ | .agree .. | .ec48 .. | .topk .. | .sign .. | .fast .. | .tally .. | .consensus .. |
    .reduceComplete .. | .reduceTimeout _ | .helmSetStep _ | .helmSetNorm _ | .helmSetCoef _ | .helmSetDecay _ |
    .helmUpdate _ | .send _ | .sendComplete .. | .sendTimeout _ | .release | .pipelineBlock .. | .stop _ | .go _ |
    .leg | .legSwitch _ | .barrier .. | .legTimeout | .fix | .fixVote _ | .fixTimeout | .flushCount _ |
    .skRequest _ | .skAccept _ | .skVerdict _ | .skDecision _ | .skCancel _ | .skTimeout | .logmarkNote |
    .logmarkTensor _ | .logmarkRange _ | .commandDecode .. | .commandReject _ | .operationBoundary _ | .bfOverrun |
    .seqTailWrite .. | .seqCounterAdd .. | .bfEnableWrite .. | .bfEnableEffect | .bfResume .. |
    .remoteWriteBlock .. | .parkWord _ | .fabEnableWrite .. | .laneLockLoss .. | .chtPackageWrite .. |
    .chartLoad .. | .chartLoadReplay .. | .postTailWrite .. | .postWriteAcked _ | .chkCoreReq .. | .pin .. |
    .unpin .. | .cmpTrackRecordWrite .. | .hlmRingSlotWrite .. | .redStepNfForce .. | .logNextRead _ |
    .logDrainedWrite .. | .logSpill | .spillComplete _ | .hubIfaceOffer .. | .mbxPutLo .. | .mbxPutHi .. |
    .mbxGetLo .. | .mbxGetHi .. | .mbxOwnerWrite .. | .irqClaim .. | .irqComplete .. | .irqSwTrigger .. |
    .irqMissedClear .. | .holdoffExpiry _ | .extInputRawChange .. | .extInputFiltered _ | .inputStuck _ | .ppsEdge |
    .mgtLinkChange .. | .mgtPtpPortWrite .. | .rollCall | .attestationRequest _ | .debugUnlockToken _ |
    .recoveryBundle _ | .refclkPresent | .refclkLoss | .prsntMate | .insertionDebounceEnd _ | .rampComplete |
    .rampFault | .rampRetry | .resetRelease .. | .bootStageComplete _ | .dramFillComplete _ | .graceExpiry |
    .hotQuiesceWrite .. | .surpriseRemoval | .overcurrentTrip | .shedLevelEnter .. | .shedLevelLeave _ |
    .sagRestart _ | .pwrSagCfgWrite .. | .controlledPowerOff | .powerOffRailStep | .powerManagerPeriod .. |
    .tripRestart | .transmitSlot _ | .cycleStretch _ | .softwareReset | .supplyApplied | .supplyRemoved |
    .prsntBreak | .captureReplayBlock => true

/-- The checks of every command's operands. -/
def Instr.wf (i : Instr) : Bool :=
  i.packet.all Packet.wf && i.events.all OpEvents.wf && i.blocks.all BlockFinding.wf && i.operandsOk

end Sys2Proof
end

