-- ==== Sys2Proof/Laws/PerInstr.lean ====
section
/-! SUPPORT. One lemma per command: a well-formed command carries a message within its header's widths and reads of blocks that
lie in the DRAM. -/
set_option Elab.async false
namespace Sys2Proof.Laws.Operands
open Sys2Proof Sys2Proof.Machine

/-- What well-formedness says of the message and the findings a command carries. -/
def Statement (i : Instr) : Prop :=
  i.wf = true →
    (∀ m, i.packet = some m → m.port ≤ 36 ∧ m.cls < 5 ∧ m.chart < 8) ∧
    (∀ ev f, i.events = some ev → f ∈ ev.blocks → f.addr < dramEnd) ∧ ∀ f ∈ i.blocks, f.addr < dramEnd

/-- A read of a block that is well formed lies in the DRAM. -/
theorem block_lt {f : BlockFinding} (h : f.wf = true) : f.addr < dramEnd := by
  simp only [BlockFinding.wf, Bool.and_eq_true, decide_eq_true_eq] at h
  exact h.1.1

/-- What holds of every command. -/
theorem holds (i : Instr) : Statement i := by
  intro h
  simp only [Instr.wf, Bool.and_eq_true, Option.all_eq_true_iff_get, List.all_eq_true] at h
  obtain ⟨⟨⟨hm, he⟩, hb⟩, -⟩ := h
  refine ⟨fun m hm' => ?_, fun ev f he' hf => ?_, fun f hf => block_lt (hb f hf)⟩
  · have := of_decide_eq_true (by simpa [hm', Packet.wf] using hm)
    exact ⟨this.1, this.2.2.1, this.2.2.2.2⟩
  · have h' : ev.wf = true := by simpa [he'] using he
    simp only [OpEvents.wf, Bool.and_eq_true, List.all_eq_true] at h'
    exact block_lt (h'.1.1.1 f hf)

theorem nop (st : Stream) : Statement (.nop st) := holds _
theorem fence (st : Stream) : Statement (.fence st) := holds _
theorem fenceComplete (st : Stream) : Statement (.fenceComplete st) := holds _
theorem flush (st : Stream) : Statement (.flush st) := holds _
theorem flushComplete (st : Stream) : Statement (.flushComplete st) := holds _
theorem wait (st : Stream) : Statement (.wait st) := holds _
theorem waitComplete (st : Stream) : Statement (.waitComplete st) := holds _
theorem waitTimeout (st : Stream) : Statement (.waitTimeout st) := holds _
theorem setpred (st : Stream) (blocks : List BlockFinding) : Statement (.setpred st blocks) := holds _
theorem stamp (st : Stream) (blocks : List BlockFinding) : Statement (.stamp st blocks) := holds _
theorem call (st : Stream) : Statement (.call st) := holds _
theorem ret (st : Stream) : Statement (.ret st) := holds _
theorem matmul (st : Stream) (ev : OpEvents) : Statement (.matmul st ev) := holds _
theorem matmulH (st : Stream) (ev : OpEvents) : Statement (.matmulH st ev) := holds _
theorem vprog (st : Stream) (ev : OpEvents) : Statement (.vprog st ev) := holds _
theorem softmax (st : Stream) (ev : OpEvents) : Statement (.softmax st ev) := holds _
theorem normRms (st : Stream) (ev : OpEvents) : Statement (.normRms st ev) := holds _
theorem normLayer (st : Stream) (ev : OpEvents) : Statement (.normLayer st ev) := holds _
theorem vkernelReduce (st : Stream) (ev : OpEvents) : Statement (.vkernelReduce st ev) := holds _
theorem attnStat (st : Stream) (ev : OpEvents) : Statement (.attnStat st ev) := holds _
theorem loss (st : Stream) (ev : OpEvents) : Statement (.loss st ev) := holds _
theorem tload (st : Stream) (ev : OpEvents) : Statement (.tload st ev) := holds _
theorem copy (st : Stream) (ev : OpEvents) : Statement (.copy st ev) := holds _
theorem transpose (st : Stream) (ev : OpEvents) : Statement (.transpose st ev) := holds _
theorem route (ev : OpEvents) : Statement (.route ev) := holds _
theorem count (m : Packet) (blocks : List BlockFinding) : Statement (.count m blocks) := holds _
theorem grant (m : Packet) (blocks : List BlockFinding) : Statement (.grant m blocks) := holds _
theorem place (m : Packet) (blocks : List BlockFinding) : Statement (.place m blocks) := holds _
theorem compassTimeout (layerSlot : Nat) (microbatch : Nat) : Statement (.compassTimeout layerSlot microbatch) := holds _
theorem dispatch (ev : OpEvents) : Statement (.dispatch ev) := holds _
theorem xchgReturn (ev : OpEvents) : Statement (.xchgReturn ev) := holds _
theorem combine (ev : OpEvents) : Statement (.combine ev) := holds _
theorem gradDispatch (ev : OpEvents) : Statement (.gradDispatch ev) := holds _
theorem gradReturn (ev : OpEvents) : Statement (.gradReturn ev) := holds _
theorem ready (m : Packet) (blocks : List BlockFinding) : Statement (.ready m blocks) := holds _
theorem data (m : Packet) (blocks : List BlockFinding) : Statement (.data m blocks) := holds _
theorem xchgComplete (kind : Nat) (layerSlot : Nat) (microbatch : Nat) (blocks : List BlockFinding) : Statement (.xchgComplete kind layerSlot microbatch blocks) := holds _
theorem xchgTimeout (kind : Nat) (layerSlot : Nat) (microbatch : Nat) : Statement (.xchgTimeout kind layerSlot microbatch) := holds _
theorem reduceSum (ev : OpEvents) : Statement (.reduceSum ev) := holds _
theorem reduceTally (ev : OpEvents) : Statement (.reduceTally ev) := holds _
theorem reduceMax (ev : OpEvents) : Statement (.reduceMax ev) := holds _
theorem reduceConsensus (blocks : List BlockFinding) : Statement (.reduceConsensus blocks) := holds _
theorem agree (m : Packet) (blocks : List BlockFinding) : Statement (.agree m blocks) := holds _
theorem ec48 (m : Packet) (blocks : List BlockFinding) : Statement (.ec48 m blocks) := holds _
theorem topk (m : Packet) (blocks : List BlockFinding) : Statement (.topk m blocks) := holds _
theorem sign (m : Packet) (blocks : List BlockFinding) : Statement (.sign m blocks) := holds _
theorem fast (m : Packet) (blocks : List BlockFinding) : Statement (.fast m blocks) := holds _
theorem tally (m : Packet) (blocks : List BlockFinding) : Statement (.tally m blocks) := holds _
theorem consensus (m : Packet) (blocks : List BlockFinding) : Statement (.consensus m blocks) := holds _
theorem reduceComplete (slot : Nat) (blocks : List BlockFinding) : Statement (.reduceComplete slot blocks) := holds _
theorem reduceTimeout (slot : Nat) : Statement (.reduceTimeout slot) := holds _
theorem helmSetStep (ev : OpEvents) : Statement (.helmSetStep ev) := holds _
theorem helmSetNorm (ev : OpEvents) : Statement (.helmSetNorm ev) := holds _
theorem helmSetCoef (ev : OpEvents) : Statement (.helmSetCoef ev) := holds _
theorem helmSetDecay (ev : OpEvents) : Statement (.helmSetDecay ev) := holds _
theorem helmUpdate (ev : OpEvents) : Statement (.helmUpdate ev) := holds _
theorem send (ev : OpEvents) : Statement (.send ev) := holds _
theorem sendComplete (id : Nat) (blocks : List BlockFinding) : Statement (.sendComplete id blocks) := holds _
theorem sendTimeout (id : Nat) : Statement (.sendTimeout id) := holds _
theorem release : Statement (.release) := holds _
theorem pipelineBlock (m : Packet) (blocks : List BlockFinding) : Statement (.pipelineBlock m blocks) := holds _
theorem stop (m : Packet) : Statement (.stop m) := holds _
theorem go (m : Packet) : Statement (.go m) := holds _
theorem leg : Statement (.leg) := holds _
theorem legSwitch (blocks : List BlockFinding) : Statement (.legSwitch blocks) := holds _
theorem barrier (m : Packet) (blocks : List BlockFinding) : Statement (.barrier m blocks) := holds _
theorem legTimeout : Statement (.legTimeout) := holds _
theorem fix : Statement (.fix) := holds _
theorem fixVote (m : Packet) : Statement (.fixVote m) := holds _
theorem fixTimeout : Statement (.fixTimeout) := holds _
theorem flushCount (m : Packet) : Statement (.flushCount m) := holds _
theorem skRequest (m : Packet) : Statement (.skRequest m) := holds _
theorem skAccept (m : Packet) : Statement (.skAccept m) := holds _
theorem skVerdict (m : Packet) : Statement (.skVerdict m) := holds _
theorem skDecision (m : Packet) : Statement (.skDecision m) := holds _
theorem skCancel (m : Packet) : Statement (.skCancel m) := holds _
theorem skTimeout : Statement (.skTimeout) := holds _
theorem logmarkNote : Statement (.logmarkNote) := holds _
theorem logmarkTensor (ev : OpEvents) : Statement (.logmarkTensor ev) := holds _
theorem logmarkRange (ev : OpEvents) : Statement (.logmarkRange ev) := holds _
theorem commandDecode (st : Stream) (blocks : List BlockFinding) : Statement (.commandDecode st blocks) := holds _
theorem commandReject (st : Stream) : Statement (.commandReject st) := holds _
theorem operationBoundary (st : Stream) : Statement (.operationBoundary st) := holds _
theorem bfOverrun : Statement (.bfOverrun) := holds _
theorem seqTailWrite (hart : Fin 28) (st : Stream) (value : Word) : Statement (.seqTailWrite hart st value) := holds _
theorem seqCounterAdd (hart : Fin 28) (st : Stream) (value : Word) : Statement (.seqCounterAdd hart st value) := holds _
theorem bfEnableWrite (hart : Fin 28) (value : Word) : Statement (.bfEnableWrite hart value) := holds _
theorem bfEnableEffect : Statement (.bfEnableEffect) := holds _
theorem bfResume (hart : Fin 28) (value : Word) : Statement (.bfResume hart value) := holds _
theorem linkBlockReceive (port : Fin 36) (block : Block) (words : List (List Byte)) : Statement (.linkBlockReceive port block words) := holds _
theorem linkControlWord (port : Fin 36) (w : ControlWord) : Statement (.linkControlWord port w) := holds _
theorem remoteWriteBlock (m : Packet) (blocks : List BlockFinding) : Statement (.remoteWriteBlock m blocks) := holds _
theorem parkWord (port : Fin 36) : Statement (.parkWord port) := holds _
theorem fabEnableWrite (hart : Fin 28) (port : Fin 36) (value : Word) : Statement (.fabEnableWrite hart port value) := holds _
theorem trainingAttemptEnd (port : Fin 36) (result : Training) : Statement (.trainingAttemptEnd port result) := holds _
theorem laneLockLoss (port : Fin 36) (lanes : BitVec 8) : Statement (.laneLockLoss port lanes) := holds _
theorem chtPackageWrite (hart : Fin 28) (value : Word) : Statement (.chtPackageWrite hart value) := holds _
theorem chartLoad (hart : Fin 28) (value : Word) (blocks : List BlockFinding) : Statement (.chartLoad hart value blocks) := holds _
theorem chartLoadReplay (hart : Fin 28) (value : Word) (blocks : List BlockFinding) : Statement (.chartLoadReplay hart value blocks) := holds _
theorem postTailWrite (hart : Fin 28) (value : Word) (blocks : List BlockFinding) : Statement (.postTailWrite hart value blocks) := holds _
theorem postWriteAcked (blocks : List BlockFinding) : Statement (.postWriteAcked blocks) := holds _
theorem stateRequestActive (hart : Fin 28) (page : Page) (gen : BitVec 8) : Statement (.stateRequestActive hart page gen) := holds _
theorem stateRequestDraining (hart : Fin 28) (page : Page) (gen : BitVec 8) : Statement (.stateRequestDraining hart page gen) := holds _
theorem stateRequestReady (hart : Fin 28) (page : Page) (gen : BitVec 8) : Statement (.stateRequestReady hart page gen) := holds _
theorem stateRequestQuarantine (hart : Fin 28) (page : Page) (gen : BitVec 8) : Statement (.stateRequestQuarantine hart page gen) := holds _
theorem drainComplete (page : Page) : Statement (.drainComplete page) := holds _
theorem chkCoreReq (hart : Fin 28) (value : Word) : Statement (.chkCoreReq hart value) := holds _
theorem pin (hart : Fin 28) (value : Word) : Statement (.pin hart value) := holds _
theorem unpin (hart : Fin 28) (value : Word) : Statement (.unpin hart value) := holds _
theorem cmpTrackRecordWrite (hart : Fin 28) (value : Word) : Statement (.cmpTrackRecordWrite hart value) := holds _
theorem hlmRingSlotWrite (hart : Fin 28) (value : Word) : Statement (.hlmRingSlotWrite hart value) := holds _
theorem redStepNfForce (hart : Fin 28) (value : Word) : Statement (.redStepNfForce hart value) := holds _
theorem logNextRead (hart : Fin 28) : Statement (.logNextRead hart) := holds _
theorem logDrainedWrite (hart : Fin 28) (value : Word) : Statement (.logDrainedWrite hart value) := holds _
theorem logSpill : Statement (.logSpill) := holds _
theorem spillComplete (ok : Bool) : Statement (.spillComplete ok) := holds _
theorem hubIfaceOffer (hart : Fin 28) (value : Word) : Statement (.hubIfaceOffer hart value) := holds _
theorem mbxPutLo (hart : Fin 28) (mailbox : Fin 32) (value : Word) : Statement (.mbxPutLo hart mailbox value) := holds _
theorem mbxPutHi (hart : Fin 28) (mailbox : Fin 32) (value : Word) : Statement (.mbxPutHi hart mailbox value) := holds _
theorem mbxGetLo (hart : Fin 28) (mailbox : Fin 32) : Statement (.mbxGetLo hart mailbox) := holds _
theorem mbxGetHi (hart : Fin 28) (mailbox : Fin 32) : Statement (.mbxGetHi hart mailbox) := holds _
theorem mbxOwnerWrite (hart : Fin 28) (mailbox : Fin 32) (value : Word) : Statement (.mbxOwnerWrite hart mailbox value) := holds _
theorem irqClaim (hart : Fin 28) (reader : Fin 28) : Statement (.irqClaim hart reader) := holds _
theorem irqComplete (hart : Fin 28) (writer : Fin 28) (value : Word) : Statement (.irqComplete hart writer value) := holds _
theorem irqSwTrigger (hart : Fin 28) (value : Word) : Statement (.irqSwTrigger hart value) := holds _
theorem irqMissedClear (hart : Fin 28) (value : Word) : Statement (.irqMissedClear hart value) := holds _
theorem holdoffExpiry (group : Fin 32) : Statement (.holdoffExpiry group) := holds _
theorem evEnWrite (hart : Fin 28) (page : Page) (value : Word) : Statement (.evEnWrite hart page value) := holds _
theorem evForceWrite (hart : Fin 28) (page : Page) (value : Word) : Statement (.evForceWrite hart page value) := holds _
theorem registerLoRead (hart : Fin 28) (addr : Nat) : Statement (.registerLoRead hart addr) := holds _
theorem absentPageAccess (hart : Fin 28) (addr : Nat) (write : Bool) : Statement (.absentPageAccess hart addr write) := holds _
theorem accessFault (hart : Fin 28) (addr : Nat) (width : Nat) (write : Bool) : Statement (.accessFault hart addr width write) := holds _
theorem registerWrite (hart : Fin 28) (addr : Nat) (value : Word) : Statement (.registerWrite hart addr value) := holds _
theorem extInputRawChange (input : Fin 5) (level : Bool) : Statement (.extInputRawChange input level) := holds _
theorem extInputFiltered (input : Fin 5) : Statement (.extInputFiltered input) := holds _
theorem inputStuck (input : Fin 5) : Statement (.inputStuck input) := holds _
theorem ppsEdge : Statement (.ppsEdge) := holds _
theorem ptpMessage (m : PtpMessage) : Statement (.ptpMessage m) := holds _
theorem mgtLinkChange (port : Fin 2) (up : Bool) : Statement (.mgtLinkChange port up) := holds _
theorem mgtPtpPortWrite (hart : Fin 28) (value : Word) : Statement (.mgtPtpPortWrite hart value) := holds _
theorem rollCall : Statement (.rollCall) := holds _
theorem attestationRequest (nonce : List Byte) : Statement (.attestationRequest nonce) := holds _
theorem debugUnlockToken (token : List Byte) : Statement (.debugUnlockToken token) := holds _
theorem tlsHandshake (hello : TlsHello) : Statement (.tlsHandshake hello) := holds _
theorem recoveryBundle (bundle : List Byte) : Statement (.recoveryBundle bundle) := holds _
theorem scrubRead (stack : Fin 24) (first : List Nat) (second : List Nat) : Statement (.scrubRead stack first second) := holds _
theorem refclkPresent : Statement (.refclkPresent) := holds _
theorem refclkLoss : Statement (.refclkLoss) := holds _
theorem prsntMate : Statement (.prsntMate) := holds _
theorem insertionDebounceEnd (input : List InputRun) : Statement (.insertionDebounceEnd input) := holds _
theorem rampComplete : Statement (.rampComplete) := holds _
theorem rampFault : Statement (.rampFault) := holds _
theorem rampRetry : Statement (.rampRetry) := holds _
theorem resetRelease (input : List InputRun) (rail : List InputRun) : Statement (.resetRelease input rail) := holds _
theorem bootStageComplete (result : StageResult) : Statement (.bootStageComplete result) := holds _
theorem dramFillComplete (stack : Fin 24) : Statement (.dramFillComplete stack) := holds _
theorem graceExpiry : Statement (.graceExpiry) := holds _
theorem hotQuiesceWrite (hart : Fin 28) (value : Word) : Statement (.hotQuiesceWrite hart value) := holds _
theorem surpriseRemoval : Statement (.surpriseRemoval) := holds _
theorem overcurrentTrip : Statement (.overcurrentTrip) := holds _
theorem shedLevelEnter (level : Fin 6) (input : List InputRun) : Statement (.shedLevelEnter level input) := holds _
theorem shedLevelLeave (input : List InputRun) : Statement (.shedLevelLeave input) := holds _
theorem sagRestart (input : List InputRun) : Statement (.sagRestart input) := holds _
theorem pwrSagCfgWrite (hart : Fin 28) (level : Fin 5) (value : Word) : Statement (.pwrSagCfgWrite hart level value) := holds _
theorem controlledPowerOff : Statement (.controlledPowerOff) := holds _
theorem powerOffRailStep : Statement (.powerOffRailStep) := holds _
theorem railFault (rail : Rail) (microvolts : Nat) : Statement (.railFault rail microvolts) := holds _
theorem powerManagerPeriod (input : List InputRun) (watts : Nat) (peakWatts : Nat) : Statement (.powerManagerPeriod input watts peakWatts) := holds _
theorem thermalPeriod (sensors : List DieSensors) (inletC : Int) (outletC : Int) : Statement (.thermalPeriod sensors inletC outletC) := holds _
theorem thermalTrip (cause : TripCause) : Statement (.thermalTrip cause) := holds _
theorem tripRestart : Statement (.tripRestart) := holds _
theorem transmitSlot (port : Fin 36) : Statement (.transmitSlot port) := holds _
theorem cycleStretch (cluster : Fin 2400) : Statement (.cycleStretch cluster) := holds _
theorem sramParityError (addr : Nat) : Statement (.sramParityError addr) := holds _
theorem softwareReset : Statement (.softwareReset) := holds _
theorem supplyApplied : Statement (.supplyApplied) := holds _
theorem supplyRemoved : Statement (.supplyRemoved) := holds _
theorem prsntBreak : Statement (.prsntBreak) := holds _
theorem captureReplayBlock : Statement (.captureReplayBlock) := holds _

end Sys2Proof.Laws.Operands
end

