-- ==== Sys2Proof/Laws/Streams.lean ====
section
/-! SUPPORT. The sequencer's shared operations: issue, completion, rejection, predicates, and the issue of an operation. -/
set_option Elab.async false
namespace Sys2Proof.Machine

/-- A completed command leaves the frames of the place the stream goes to. -/
theorem completeAt_frames (d : Dev) (st : Stream) (c : Decoded) (p : Place) : ((d.completeAt st c p).stream st).frames = p.frames := by
  unfold Dev.completeAt Dev.moveOn
  cases st <;> (dsimp only; repeat' split) <;> simp [Dev.stream, Dev.setStream, Dev.addWrap, Dev.setFld]

theorem unmoved_of (st : Stream) (a : Nat) (h : eventReg a = false := by decide)
    (h2 : ∀ i, i < 2 → a ≠ Reg.seqHead i ∧ a ≠ Reg.seqSkipped i ∧ a ≠ Reg.seqCmdCount i ∧ a ≠ Reg.seqBfLongestNs 1 ∧
      a ≠ Reg.seqBfOverruns 1 ∧ a ≠ Reg.seqBfStatus 1 := by decide) : Unmoved st a := by
  cases st
  · exact ⟨h, h2 0 (by decide)⟩
  · exact ⟨h, h2 1 (by decide)⟩

theorem seqHead_noEvent (st : Stream) : eventReg (Reg.seqHead (sidx st)) = false := by cases st <;> decide

theorem seqHead_ne_count (st : Stream) : Reg.seqHead (sidx st) ≠ Reg.seqCmdCount (sidx st) := by cases st <;> decide

/-- A completed command leaves SEQ_HEAD at the head of the place the stream goes to. -/
theorem completeAt_head {d : Dev} (ht : Assoc.wf regReset d.regs = true) (st : Stream) (c : Decoded) (p : Place) (hp : p.head < 2^20) :
   (d.completeAt st c p).fld (Reg.seqHead (sidx st)) 19 0 = p.head ∧
   (p.head = d.fld (Reg.seqHead (sidx st)) 19 0 → (d.completeAt st c p).reg (Reg.seqHead (sidx st)) = d.reg (Reg.seqHead (sidx st))) := by
  have hm : Reads d (d.measureTime st) (Reg.seqHead (sidx st)) :=
    (Reads.refl ht _).measureTime st (seqHead_noEvent st) (by cases st <;> decide)
  unfold Dev.completeAt Dev.moveOn
  generalize d.measureTime st = m at hm ⊢
  dsimp only
  have h1 : Reads d (if c.notify = true then ((m.setStream st fun s => { s.feedIn c with running := none, completed := s.completed + 1 }).addWrap (Reg.seqCmdCount (sidx st)) 1).raise (seqPage st) 2 else (m.setStream st fun s => { s.feedIn c with running := none, completed := s.completed + 1 }).addWrap (Reg.seqCmdCount (sidx st)) 1) (Reg.seqHead (sidx st)) := by
    have h0 : Reads d ((m.setStream st fun s => { s.feedIn c with running := none, completed := s.completed + 1 }).addWrap (Reg.seqCmdCount (sidx st)) 1) (Reg.seqHead (sidx st)) :=
      ((hm.stream st _).setReg _ (seqHead_ne_count st))
    exact Reads.ite (h0.acts (seqHead_noEvent st) _) h0
  generalize (if c.notify = true then ((m.setStream st fun s => { s.feedIn c with running := none, completed := s.completed + 1 }).addWrap (Reg.seqCmdCount (sidx st)) 1).raise (seqPage st) 2 else (m.setStream st fun s => { s.feedIn c with running := none, completed := s.completed + 1 }).addWrap (Reg.seqCmdCount (sidx st)) 1) = e at h1 ⊢
  have h2 := h1.stream st fun s => { s with frames := p.frames }
  generalize (e.setStream st fun s => { s with frames := p.frames }) = g at h2 ⊢
  have hf : e.fld (Reg.seqHead (sidx st)) 19 0 = d.fld (Reg.seqHead (sidx st)) 19 0 := by unfold Dev.fld; rw [h1.2]
  have hg : g.fld (Reg.seqHead (sidx st)) 19 0 = d.fld (Reg.seqHead (sidx st)) 19 0 := by unfold Dev.fld; rw [h2.2]
  rw [hf]
  by_cases hq : p.head = d.fld (Reg.seqHead (sidx st)) 19 0
  · rw [if_pos hq]
    exact ⟨hg.trans hq.symm, fun _ => h2.2⟩
  · rw [if_neg hq]
    refine ⟨?_, fun h => absurd h hq⟩
    have h3 : Reads (g.setFld (Reg.seqHead (sidx st)) 19 0 p.head) (if p.head = (g.setFld (Reg.seqHead (sidx st)) 19 0 p.head).fld (Reg.seqTail (sidx st)) 19 0 then (g.setFld (Reg.seqHead (sidx st)) 19 0 p.head).raise (seqPage st) 3 else g.setFld (Reg.seqHead (sidx st)) 19 0 p.head) (Reg.seqHead (sidx st)) := by
      have h0 := Reads.refl (o := g.setFld (Reg.seqHead (sidx st)) 19 0 p.head) (Assoc.wf_set h2.1 _ _) (Reg.seqHead (sidx st))
      exact Reads.ite (h0.acts (seqHead_noEvent st) _) h0
    unfold Dev.fld at *
    rw [h3.2]
    unfold Dev.setFld
    rw [Dev.reg_setReg h2.1, if_pos rfl, bits_setBits _ (by decide) (by decide)]
    exact Nat.mod_eq_of_lt hp

theorem nextIn_lt {n h : Nat} (hn : 0 < n ∧ n ≤ 2^20) (hh : h < 2^20) (fs) : (nextIn n h fs).head < 2^20 := by
  induction fs with
  | nil => unfold nextIn; exact Nat.lt_of_lt_of_le (Nat.mod_lt _ hn.1) hn.2
  | cons f fs ih => unfold nextIn; split; exact hh; exact ih

theorem ringSize_le (d : Dev) (st) : 0 < d.ringSize st ∧ d.ringSize st ≤ 2^20 := by
  unfold Dev.ringSize
  exact ⟨Nat.pow_pos (by decide), Nat.pow_le_pow_right (by decide) (by omega)⟩

theorem ringField_lt (d : Dev) (a : Nat) : d.fld a 19 0 < 2^20 := by
  unfold Dev.fld bits; simp; omega

theorem issue_frames (d : Dev) (st c a b) : ((d.issue st c a b).stream st).frames = (d.stream st).frames := by
  unfold Dev.issue Dev.resumeTime
  cases st
  · dsimp only; split <;> rfl
  · rfl

theorem issue_wf {d : Dev} (h : Assoc.wf regReset d.regs = true) (st c a b) : Assoc.wf regReset (d.issue st c a b).regs = true :=
  ((Reads.refl h 0).issue st c a b (by decide)).1

/-- The issue of a command writes no register but the longest resume time. -/
theorem issue_reg {d : Dev} (h : Assoc.wf regReset d.regs = true) (st c a b) {x : Nat} (hx : x ≠ Reg.seqResumeMaxNs 1) : (d.issue st c a b).reg x = d.reg x :=
  ((Reads.refl h x).issue st c a b hx).2

theorem place_issue {d : Dev} (h : Assoc.wf regReset d.regs = true) (st c a b) : (d.issue st c a b).place st = d.place st := by
  unfold Dev.place Dev.fld
  rw [issue_frames, issue_reg h]
  cases st <;> decide

theorem ringSize_issue {d : Dev} (h : Assoc.wf regReset d.regs = true) (st c a b) : (d.issue st c a b).ringSize st = d.ringSize st := by
  unfold Dev.ringSize Dev.fld
  rw [issue_reg h]
  cases st <;> decide

theorem settle_keeps {d : Dev} {st : Stream} : Keeps true d (d.settle st) := Keeps.refl.settle st

theorem endWait_keeps (d : Dev) (st c) : Keeps true (d.complete st c) (d.endWait st c) := by
  unfold Dev.endWait
  cases st
  · exact Keeps.updMain.mpr settle_keeps
  · exact settle_keeps

theorem issue_units (d : Dev) (st c a b) : (d.issue st c a b).cmp = d.cmp ∧ (d.issue st c a b).hng = d.hng := by
  unfold Dev.issue Dev.resumeTime
  cases st
  · dsimp only; split <;> exact ⟨rfl, rfl⟩
  · exact ⟨rfl, rfl⟩

theorem issue_mem (d : Dev) (st c a b) : (d.issue st c a b).mem = d.mem := by
  unfold Dev.issue Dev.resumeTime
  cases st
  · dsimp only; split <;> rfl
  · rfl

theorem recordFinal_issue {d : Dev} (h : Assoc.wf regReset d.regs = true) (st c a b ls mb) :
    (d.issue st c a b).recordFinal ls mb = d.recordFinal ls mb := by
  have e : (d.issue st c a b).recordAddr ls mb = d.recordAddr ls mb := by
    unfold Dev.recordAddr Dev.pair Dev.microbatches Dev.recordSize Dev.fld
    rw [issue_reg h _ _ _ _ (by decide), issue_reg h _ _ _ _ (by decide), issue_reg h _ _ _ _ (by decide),
      issue_reg h _ _ _ _ (by decide)]
  unfold Dev.recordFinal
  rw [issue_mem, e]

theorem waitHolds_issue {d : Dev} (h : Assoc.wf regReset d.regs = true) (st c a b w) : (d.issue st c a b).waitHolds st w = d.waitHolds st w := by
  have e1 : ∀ i, Reg.seqCounter (sidx st) i ≠ Reg.seqResumeMaxNs 1 := by
    intro i; cases st <;> unfold Reg.seqCounter Reg.seqResumeMaxNs <;> simp only [sidx] <;> omega
  have e2 : ∀ i, Reg.seqFenceValue i ≠ Reg.seqResumeMaxNs 1 := by
    intro i; unfold Reg.seqFenceValue Reg.seqResumeMaxNs; omega
  have e3 : ((d.issue st c a b).stream st).routes = (d.stream st).routes := by
    unfold Dev.issue Dev.resumeTime
    cases st
    · dsimp only; split <;> rfl
    · rfl
  unfold Dev.waitHolds Dev.grantsFinal
  simp only [recordFinal_issue h]
  rw [e3, (issue_units d st c a b).2, issue_reg h _ _ _ _ (e1 _), issue_reg h _ _ _ _ (e2 _)]

/-- The last effect of a rejection, by stream. -/
def rejectEnd (st : Stream) (y : Dev) : Dev := match st with
      | .main => y.bad
      | .backfill => y.suspend 3

/-- What the rejection of a command leaves (R145): the stream stopped before it, SEQ_REJECT and SEQ_REJECT_TAG, its page in FAULT. -/
theorem reject_leaves {d : Dev} (h : Assoc.wf regReset d.regs = true) (st reason addr depth tag) :
    let e := d.reject st reason addr depth tag
    (e.stream st).running = none ∧ (e.stream st).ahead = [] ∧ (e.stream st).completed = (d.stream st).completed ∧
    (e.stream (otherStream st)).turn = (d.stream (otherStream st)).turn ∧
      bits (e.reg (Reg.seqReject (sidx st))) 3 0 = reason % 16 ∧ e.reg (Reg.seqRejectTag (sidx st)) = tag ∧
      e.code (seqPage st) = 7 := by
  intro e
  have hk : ∀ x y : Dev, Keeps true x y → Keeps true x (rejectEnd st y) := by
    intro x y hx
    cases st
    · exact hx.bad
    · exact Keeps.ite hx ((hx.setFlag _ _ _).raise _ _)
  let d0 := d.setStream st fun s => { s with running := none, late := none, ahead := [] }
  have k0 : Keeps true d0 e := by
    refine hk _ _ ?_
    exact ((((((Keeps.refl.setReg _ _).setReg _ _).setReg _ _).setReg _ _).raise _ _).moveTo _ _).record _
  have hs0 := stream_setStream d st fun s => { s with running := none, late := none, ahead := [] }
  have ht1 : (e.stream st).turn = (none, (d.stream st).completed) := by
    rw [k0.turn st, hs0.1]; rfl
  have ha : (e.stream st).ahead = [] := by
    show (Dev.stream (Dev.reject d st reason addr depth tag) st).ahead = []
    unfold Dev.reject Dev.pageFault
    cases st <;> dsimp only
    · simp [Dev.bad, Dev.markBad, Dev.stream, Dev.setStream]
    · simp only [Dev.suspend]; split <;> simp [Dev.stream, Dev.setStream]
  refine ⟨congrArg Prod.fst ht1, ha, congrArg Prod.snd ht1, (k0.turn _).trans (by rw [hs0.2]), ?_⟩
  have w0 : Assoc.wf regReset d0.regs = true := by cases st <;> exact h
  have last : ∀ (x y : Dev) (a : Nat), a ≠ Reg.seqBfStatus 1 → eventReg a = false → Reads x y a → Reads x (rejectEnd st y) a := by
    intro x y a h1 h2 hr
    cases st
    · exact hr.other
    · exact Reads.ite hr ((hr.setReg _ h1).acts h2 _)
  have hsr : ∀ a, a ≠ Reg.seqBfStatus 1 → eventReg a = false → a ≠ stateReg (seqPage st) → ∀ x y, Reads x y a →
     Reads x (rejectEnd st (((y.raise (seqPage st) 0).pageFault (seqPage st)).record (((y.raise (seqPage st) 0).pageFault (seqPage st)).faultRec (seqPage st) 0xFFFF reason tag addr [] (st == .backfill)))) a := by
    intro a h1 h2 h3 x y hr
    exact last _ _ _ h1 h2 (((hr.acts h2 _).moveTo _ _ h3).acts h2 _)
  refine ⟨?_, ?_, ?_⟩
  · let d1 := d0.setReg (Reg.seqReject (sidx st)) (BitVec.ofNat 32 (reason % 16 + depth % 8 * 16))
    have w1 : Assoc.wf regReset d1.regs = true := Assoc.wf_set w0 _ _
    have r1 := (((Reads.refl w1 (Reg.seqReject (sidx st))).setReg (b := Reg.seqRejectAddrLo (sidx st)) (BitVec.ofNat 32 (addr - addr % 64)) (by cases st <;> decide)).setReg (b := Reg.seqRejectAddrHi (sidx st)) (BitVec.ofNat 32 (addr / 0x100000000 % 0x200)) (by cases st <;> decide)).setReg (b := Reg.seqRejectTag (sidx st)) tag (by cases st <;> decide)
    have r2 := hsr _ (by cases st <;> decide) (by cases st <;> decide) (by cases st <;> decide) _ _ r1
    have : e.reg (Reg.seqReject (sidx st)) = d1.reg (Reg.seqReject (sidx st)) := r2.2
    rw [this, Dev.reg_setReg w0, if_pos rfl]
    unfold bits
    simp
  · let d1 := d0.setReg (Reg.seqReject (sidx st)) (BitVec.ofNat 32 (reason % 16 + depth % 8 * 16))
    have w1 : Assoc.wf regReset d1.regs = true := Assoc.wf_set w0 _ _
    have w4 : Assoc.wf regReset ((d1.setReg (Reg.seqRejectAddrLo (sidx st)) (BitVec.ofNat 32 (addr - addr % 64))).setReg (Reg.seqRejectAddrHi (sidx st)) (BitVec.ofNat 32 (addr / 0x100000000 % 0x200))).regs = true := Assoc.wf_set (Assoc.wf_set w1 _ _) _ _
    have r2 := hsr (Reg.seqRejectTag (sidx st)) (by cases st <;> decide) (by cases st <;> decide) (by cases st <;> decide) _ _ (Reads.refl (o := Dev.setReg _ (Reg.seqRejectTag (sidx st)) tag) (Assoc.wf_set w4 _ _) _)
    exact r2.2.trans (by rw [Dev.reg_setReg w4, if_pos rfl])
  · let d1 := d0.setReg (Reg.seqReject (sidx st)) (BitVec.ofNat 32 (reason % 16 + depth % 8 * 16))
    have w4 : Assoc.wf regReset (((d1.setReg (Reg.seqRejectAddrLo (sidx st)) (BitVec.ofNat 32 (addr - addr % 64))).setReg (Reg.seqRejectAddrHi (sidx st)) (BitVec.ofNat 32 (addr / 0x100000000 % 0x200))).setReg (Reg.seqRejectTag (sidx st)) tag).regs = true := Assoc.wf_set (Assoc.wf_set (Assoc.wf_set (Assoc.wf_set w0 _ _) _ _) _ _) _ _
    have w5 := ((Reads.refl w4 0).acts (by decide) [.event (seqPage st) 0 false]).1
    have i1 := (InState.moved w5 (seqPage st) (c := 7) (by decide)).record ((((((d1.setReg (Reg.seqRejectAddrLo (sidx st)) (BitVec.ofNat 32 (addr - addr % 64))).setReg (Reg.seqRejectAddrHi (sidx st)) (BitVec.ofNat 32 (addr / 0x100000000 % 0x200))).setReg (Reg.seqRejectTag (sidx st)) tag).raise (seqPage st) 0).pageFault (seqPage st)).faultRec (seqPage st) 0xFFFF reason tag addr [] (st == .backfill))
    have : InState e (seqPage st) 7 := by
      cases st
      · exact i1.other
      · refine InState.of_reads i1 (Reads.ite (Reads.refl i1.wf _) (((Reads.refl i1.wf _).setReg _ (by decide)).acts (by decide) _))
    exact this.code

theorem current_next {d : Dev} {st : Stream} {c : Decoded} (h : d.next? st = some c) : d.current st = some c := by
  unfold Dev.current; rw [next?_waits h]; exact h

theorem whenFinal_ready {d : Dev} {st : Stream} {c : Decoded} (h : d.waits st = none) (f) : d.whenFinal st c true f = f (d.issue st c true false) := by
  unfold Dev.whenFinal; rw [h]; rfl

theorem whenFinal_wait {d : Dev} {st : Stream} {c : Decoded} (h : d.waits st = none) (f) : d.whenFinal st c false f = d.issue st c false true := by
  unfold Dev.whenFinal; rw [h]; rfl

theorem operandSource_now {d : Dev} {st : Stream} {c : Decoded} (h : (c.early && !c.waitWrites) = false) : d.operandSource st c = (d.src, d) := by
  unfold Dev.operandSource Dev.openSource; rw [h]; rfl

theorem pred_reads {o d : Dev} {st : Stream} (h1 : d.reg (Reg.seqPredLo (sidx st)) = o.reg (Reg.seqPredLo (sidx st))) (h2 : d.reg (Reg.seqPredHi (sidx st)) = o.reg (Reg.seqPredHi (sidx st))) (n) : d.pred st n = o.pred st n := by
  unfold Dev.pred Dev.flag; rw [h1, h2]

theorem setPred_wf {d : Dev} (h : Assoc.wf regReset d.regs = true) (st n v) : Assoc.wf regReset (d.setPred st n v).regs = true := by
  unfold Dev.setPred; split <;> exact Assoc.wf_set h _ _

/-- A flag after a flag of a register is written. -/
theorem flag_setFlag {d : Dev} (h : Assoc.wf regReset d.regs = true) (a b i j : Nat) (hi : i < 32) (v) : (d.setFlag a i v).flag b j = if b = a ∧ j = i then v else d.flag b j := by
  unfold Dev.flag Dev.setFlag
  rw [Dev.reg_setReg h]
  by_cases hb : b = a
  · subst hb
    rw [if_pos rfl]
    by_cases hj : j = i
    · subst hj; rw [bit_setBit _ hi]; simp
    · rw [bit_setBit_other _ hj]; simp [hj]
  · rw [if_neg hb]; simp [hb]

/-- A predicate after another or itself is written. -/
theorem pred_setPred {d : Dev} (h : Assoc.wf regReset d.regs = true) (st) (t n : Nat) (ht : 0 < t) (ht2 : t < 64) (hn : n < 64) (v) :
   (d.setPred st t v).pred st n = if n = t then v else d.pred st n := by
  have hd : Reg.seqPredLo (sidx st) ≠ Reg.seqPredHi (sidx st) := by cases st <;> decide
  by_cases h0 : n = 0
  · subst h0; rw [if_neg (by omega)]; rfl
  · unfold Dev.setPred Dev.pred
    have hb : (n == 0) = false := by simp [h0]
    rw [hb, Bool.false_or, Bool.false_or]
    by_cases a1 : n < 32 <;> by_cases a2 : t < 32 <;> simp only [a1, a2, if_true, if_false]
    · rw [flag_setFlag h _ _ _ _ a2]; simp
    · rw [flag_setFlag h _ _ _ _ (by omega)]; rw [if_neg (by intro hh; exact hd hh.1), if_neg (by omega)]
    · rw [flag_setFlag h _ _ _ _ a2]; rw [if_neg (by intro hh; exact hd hh.1.symm), if_neg (by omega)]
    · rw [flag_setFlag h _ _ _ _ (by omega)]
      by_cases hh : n = t
      · simp [hh]
      · rw [if_neg (by omega), if_neg hh]

theorem predLo_unmoved (st) : Unmoved st (Reg.seqPredLo (sidx st)) := unmoved_of st _ (by cases st <;> decide) (by cases st <;> decide)

theorem predHi_unmoved (st) : Unmoved st (Reg.seqPredHi (sidx st)) := unmoved_of st _ (by cases st <;> decide) (by cases st <;> decide)

/-- A SETPRED that completes: its predicate written, and no other (R152). -/
theorem setpred_completes {d : Dev} (h : Assoc.wf regReset d.regs = true) (st c) (t : Nat) (v) (ht : 0 < t) (ht2 : t < 64) :
    let e := (((d.issue st c true false).setPred st t v).complete st c).settle st
    d.Completed e st ∧ e.pred st t = v ∧ ∀ n, n < 64 → n ≠ t → e.pred st n = d.pred st n := by
  intro e
  have w1 := issue_wf h st c true false
  have w2 := setPred_wf w1 st t v
  have hc : d.Completed e st := by
    refine Completed.keeps (Completed.of_issued ?_ _) settle_keeps
    refine Issued.keeps (Issued.of_issue Keeps.refl st c) ?_
    unfold Dev.setPred; exact Keeps.ite (Keeps.refl.setFlag _ _ _) (Keeps.refl.setFlag _ _ _)
  have hp : ∀ n, e.pred st n = ((d.issue st c true false).setPred st t v).pred st n := fun n =>
    pred_reads (((Reads.refl w2 _).complete (predLo_unmoved st) c).settle (predLo_unmoved st)).2 (((Reads.refl w2 _).complete (predHi_unmoved st) c).settle (predHi_unmoved st)).2 n
  have hq : ∀ n, (d.issue st c true false).pred st n = d.pred st n := fun n =>
    pred_reads (issue_reg h _ _ _ _ (by cases st <;> decide)) (issue_reg h _ _ _ _ (by cases st <;> decide)) n
  refine ⟨hc, ?_, fun n hn hne => ?_⟩
  · rw [hp, pred_setPred w1 st t t ht ht2 ht2, if_pos rfl]
  · rw [hp, pred_setPred w1 st t n ht ht2 hn, if_neg hne, hq]

theorem stampSource_issue {d : Dev} (h : Assoc.wf regReset d.regs = true) (st c a b rec e) : (d.issue st c a b).stampSource st rec e = d.stampSource st rec e := by
  have e1 : ∀ i, Reg.seqCounter (sidx st) i ≠ Reg.seqResumeMaxNs 1 := by
    intro i; cases st <;> unfold Reg.seqCounter Reg.seqResumeMaxNs <;> simp only [sidx] <;> omega
  have e2 : ∀ i, Reg.seqStampVar (sidx st) i ≠ Reg.seqResumeMaxNs 1 := by
    intro i; cases st <;> unfold Reg.seqStampVar Reg.seqResumeMaxNs <;> simp only [sidx] <;> omega
  have e3 : (d.issue st c a b).src = d.src := by unfold Dev.src; rw [show (d.issue st c a b).mem = d.mem from by unfold Dev.issue Dev.resumeTime; cases st; (dsimp only; split <;> rfl); rfl]
  unfold Dev.stampSource
  rw [e3, issue_reg h _ _ _ _ (e1 _), issue_reg h _ _ _ _ (e2 _)]

theorem stampEntries_issue {d : Dev} (h : Assoc.wf regReset d.regs = true) (st c a b rec) (es) : ∀ bs, (d.issue st c a b).stampEntries st rec es bs = d.stampEntries st rec es bs := by
  induction es with
  | nil => intro bs; rfl
  | cons e es ih => intro bs; unfold Dev.stampEntries; rw [stampSource_issue h]; simp only [ih]

theorem leaves_byte {o d : Dev} (h : Leaves (fun _ => true) o d) (hm : o.mem.wf = true) {a} (ha : regionOf a ≠ .logbook) : d.mem.byte a = o.mem.byte a := h.byte hm a rfl ha

/-- What the issue of an operation does whose effect stores only where `S` says: the turns, configuration, memory. -/
theorem operation_frame {s : State} {st : Stream} {c : Decoded} {w} {ev : OpEvents} {eff : ByteSource → Dev → Dev} {S : Nat → Bool} {i : Instr}
   (ht : s.dev.Tidy) (_ : exec i s = .next { s with dev := s.dev.operate s.fuse st c w ev eff })
   (hk : ∀ src x y, Keeps true x y → Keeps true x (eff src y))
   (hl : ∀ src x, Leaves (fun a => !(S a || replacedBy ev a)) s.dev x → Leaves (fun a => !(S a || replacedBy ev a)) s.dev (eff src x)) :
   s.dev.Issued (s.dev.operate s.fuse st c w ev eff) st c ∧ s.dev.SameConfig (s.dev.operate s.fuse st c w ev eff) ∧
   ∀ a, regionOf a ≠ .logbook → S a = false → replacedBy ev a = false → (s.dev.operate s.fuse st c w ev eff).mem.byte a = s.dev.mem.byte a := by
  have hL : Leaves (fun a => !(S a || replacedBy ev a)) s.dev (s.dev.operate s.fuse st c w ev eff) :=
    Leaves.refl.operated _ _ _ _ (fun a h => by simp at h; exact h.2) hl
  exact ⟨Issued.operate _ _ _ _ _ hk, fun a ha => hL.config ht.2 a ha, fun a h1 h2 h3 => hL.byte ht.1 a (by simp [h2, h3]) h1⟩

end Sys2Proof.Machine
end

