-- ==== Sys2Proof/Tests/Slice0.lean ====
section
/-! SUPPORT. Tests: ill-formed commands refused, the spec's worked values, and for each statement a state and operands that meet
its hypotheses. -/
set_option Elab.async false
namespace Sys2Proof.Tests
open Sys2Proof Sys2Proof.Machine

/-! Ill-formed commands, one for each check of WellFormed. -/

def someMessage : Packet := ⟨0, 5, 0, 0, 0, []⟩
/-- A read of the block at 0x1000 that came out right, and an operation under which a block is read. -/
def cleanRead : BlockRead := ⟨0x1000, []⟩
def reading (a : Nat) (r : BlockRead) : OpEvents := ⟨[⟨a, r, cleanRead, false⟩], [], [], []⟩
def lostBlock : BlockFinding := ⟨0x100000, ⟨0x100000, [0]⟩, ⟨0x100000, [2079]⟩, false⟩

theorem test_wf_message : (Instr.barrier someMessage [lostBlock]).wf = true := by decide
theorem test_wf_message_port : (Instr.barrier { someMessage with port := 37 } []).wf = false := by decide
theorem test_wf_message_source : (Instr.count { someMessage with src := 65536 } []).wf = false := by decide
theorem test_wf_message_class : (Instr.stop { someMessage with cls := 5 }).wf = false := by decide
theorem test_wf_message_stripe : (Instr.data { someMessage with stripe := 8 } []).wf = false := by decide
theorem test_wf_message_chart : (Instr.ec48 { someMessage with chart := 8 } []).wf = false := by decide
theorem test_wf_page : (Instr.drainComplete ⟨.fab, 36⟩).wf = false := by decide
theorem test_wf_page_request : (Instr.stateRequestActive 24 ⟨.hub, 1⟩ 0#8).wf = false := by decide
theorem test_wf_control_word : (Instr.linkControlWord 0 ⟨0, false, 0, [1, 1]⟩).wf = false := by decide
theorem test_wf_control_ack : (Instr.linkControlWord 0 ⟨4096, false, 0, [0, 0, 0, 0, 0]⟩).wf = false := by decide
theorem test_wf_control_expected : (Instr.linkControlWord 0 ⟨0, true, 4096, [0, 0, 0, 0, 0]⟩).wf = false := by decide
theorem test_wf_words : (Instr.linkBlockReceive 0 0#2048 [[0#8]]).wf = false := by decide
theorem test_wf_training : (Instr.trainingAttemptEnd 0 (.trained 1 36)).wf = false := by decide
theorem test_wf_training_package : (Instr.trainingAttemptEnd 0 (.trained 65536 0)).wf = false := by decide
theorem test_wf_cell : (Instr.matmul .main ⟨[], [⟨0, 0, 0, 0, 0, .rowAdder 32, 1, 0⟩], [], []⟩).wf = false := by decide
theorem test_wf_cell_group : (Instr.matmul .main ⟨[], [⟨256, 0, 0, 0, 0, .corner, 1, 0⟩], [], []⟩).wf = false := by decide
theorem test_wf_cell_none : (Instr.matmul .main ⟨[], [⟨0, 0, 0, 0, 0, .corner, 0, 0⟩], [], []⟩).wf = false := by decide
theorem test_wf_dup : (Instr.softmax .main ⟨[], [], [⟨.row 0 3 3, 0, 0, 0, 0, 0, []⟩], []⟩).wf = false := by decide
theorem test_wf_dup_group : (Instr.matmul .main ⟨[], [], [⟨.item 256 0, 0, 0, 0, 0, 0, []⟩], []⟩).wf = false := by decide
theorem test_wf_store : (Instr.matmul .main ⟨[], [], [], [⟨0, .core 127, [33], []⟩]⟩).wf = false := by decide
theorem test_wf_store_line : (Instr.matmulH .main ⟨[], [], [], [⟨0, .line 65536, [], []⟩]⟩).wf = false := by decide
theorem test_wf_store_cluster : (Instr.matmulH .main ⟨[], [], [], [⟨2400, .line 0, [], []⟩]⟩).wf = false := by decide
theorem test_wf_block : (Instr.copy .main (reading 0x12000000000 cleanRead)).wf = false := by decide
theorem test_wf_block_source : (Instr.setpred .main [⟨0, ⟨0x12000000000, []⟩, cleanRead, false⟩]).wf = false := by decide
theorem test_wf_block_bit : (Instr.chartLoad 24 0#32 [⟨0, cleanRead, ⟨0, [2080]⟩, false⟩]).wf = false := by decide
theorem test_wf_timeout : (Instr.compassTimeout 256 0).wf = false := by decide
theorem test_wf_exchange : (Instr.xchgComplete 5 0 0 []).wf = false := by decide
theorem test_wf_exchange_timeout : (Instr.xchgTimeout 0 256 0).wf = false := by decide
theorem test_wf_address : (Instr.registerWrite 24 (2 ^ 64) 0#32).wf = false := by decide
theorem test_wf_read : (Instr.registerLoRead 24 (2 ^ 64)).wf = false := by decide
theorem test_wf_absent : (Instr.absentPageAccess 24 (2 ^ 64) true).wf = false := by decide
theorem test_wf_width : (Instr.accessFault 24 0x1000000 16 true).wf = false := by decide
theorem test_wf_ptp : (Instr.ptpMessage ⟨2, 0⟩).wf = false := by decide
theorem test_wf_tls : (Instr.tlsHandshake ⟨2, [], [], [], false, false, false, []⟩).wf = false := by decide
theorem test_wf_scrub : (Instr.scrubRead 0 [] [2080]).wf = false := by decide
theorem test_wf_rail : (Instr.railFault (.core 2400) 0).wf = false := by decide
theorem test_wf_rail_base : (Instr.railFault (.base 12) 0).wf = false := by decide
theorem test_wf_rail_dram : (Instr.railFault (.dram 24) 0).wf = false := by decide
theorem test_wf_trip : (Instr.thermalTrip (.die 12)).wf = false := by decide
theorem test_wf_sensors : (Instr.thermalPeriod [] 20 30).wf = false := by decide
theorem test_wf_sensors_die : (Instr.thermalPeriod (List.replicate 12 []) 20 30).wf = false := by decide
theorem test_wf_parity : (Instr.sramParityError 0x4000000).wf = false := by decide

/-- Both reads of that block of zeros fail its check. -/
def emptyVerdict : BlockCheck := blockVerdict lostBlock []
set_option maxRecDepth 20000 in
theorem test_block_lost : emptyVerdict = .lasting := by decide +kernel
theorem lost_block {d : Dev} (h : d.mem = []) : d.loses [lostBlock] = true := by
  have h' : blockVerdict lostBlock [] = .lasting := test_block_lost
  unfold Dev.loses
  rw [h, List.any_cons, h']
  rfl

/-! States for the witnesses. -/

/-- The package after reset with its device changed. -/
def machine (f : Dev → Dev) : State := { State.reset with dev := f State.reset.dev }

/-- A page put in a state. -/
def put (d : Dev) (p : Page) (c : Nat) : Dev := d.setFld (stateReg p) 3 0 c

/-- The reset released, and memory and registers in canonical form, as almost every statement asks. -/
abbrev Good (s : State) : Prop := s.carrier.phase = .running ∧ s.dev.mem.wf = true ∧ Assoc.wf regReset s.dev.regs = true

theorem good_tidy {s : State} (h : Good s) : s.carrier.phase = .running ∧ s.dev.Tidy := ⟨h.1, h.2.1, h.2.2⟩

/-- A decoded command. -/
def dec (c : Cmd) : Decoded := ⟨0x1000, 0, 7#32, 0#32, 0, false, false, false, c, [], false⟩

/-- The main stream ACTIVE with a command next. -/
def next (c : Cmd) (f : Dev → Dev := id) : State :=
  machine fun d => f { put d (seqPage .main) 2 with seqMain := { d.seqMain with ahead := [.ok (dec c)] } }

/-- The main stream ACTIVE with a command that waits, issued at once. -/
def waiting (c : Cmd) (f : Dev → Dev := id) : State :=
  machine fun d => f { put d (seqPage .main) 2 with seqMain := { d.seqMain with running := some ⟨dec c, 0, false, true, false⟩ } }

/-- The time moved on. -/
def later (t : Nat) (d : Dev) : Dev := { d with now := d.now + t }

def someTensor : Desc := ⟨0x100000, 0, 0, 16, 1, 1, 1, 64, 64, 64, 0xFFFF, 0x3F800000#32⟩

/-! The machine. -/

theorem witness_EmptyQueueTicks : State.reset.pending = [] ∧ Good State.reset := by decide +kernel
theorem witness_EveryStepKeepsSound : (machine (later 5)).Sound ∧ ∃ t, step (machine (later 5)) = .next t :=
  ⟨⟨⟨by decide +kernel, by decide +kernel⟩, by decide +kernel, by unfold mailboxesSound; decide +kernel,
    by unfold claimsSound; decide +kernel⟩, _, rfl⟩
theorem witness_ConfigurationIsSoftwares : Good State.reset ∧ configures .rollCall = false ∧ resets .rollCall = false ∧
    ∃ t, exec .rollCall State.reset = .next t := ⟨by decide +kernel, rfl, rfl, _, rfl⟩
theorem witness_CommandsThatStoreNothing : Good State.reset ∧ storesNothing .ppsEdge = true ∧
    ∃ t, exec .ppsEdge State.reset = .next t := ⟨by decide +kernel, rfl, _, rfl⟩
theorem witness_CommandsThatStoreNothing_block : storesNothing (.chartLoad 24 0#32 [lostBlock]) = true ∧
    lostBy (blocksRead (.chartLoad 24 0#32 [lostBlock])) 0x1000FF = true ∧
    lostBy (blocksRead (.chartLoad 24 0#32 [lostBlock])) 0x100100 = false ∧ regionOf 0x100100 ≠ .logbook := by decide +kernel

/-- The package without 54 V. -/
def dark : State := { State.reset with carrier := { State.reset.carrier with phase := .dark } }

theorem witness_DarkPackage : dark.carrier.phase = .dark ∧ Instr.rollCall ≠ .supplyApplied ∧ Instr.rollCall ≠ .prsntMate ∧
    Instr.rollCall ≠ .prsntBreak ∧ State.reset.carrier.phase ≠ .dark := by decide +kernel

/-! The sequencer. -/

def someWait : WaitCmd := ⟨0, 15, 1, 4000⟩
def someCall : CallCmd := ⟨0x2000, 3, 0x3000, 1⟩

theorem witness_ControlCommandsComplete_nop : Good (next .nop) ∧ (next .nop).dev.next? .main = some (dec .nop) := by decide +kernel
theorem witness_ControlCommandsComplete_call :
    Good (next (.call someCall)) ∧ (next (.call someCall)).dev.next? .main = some (dec (.call someCall)) := by decide +kernel
theorem witness_ControlCommandsComplete_ret : Good (next .ret) ∧ (next .ret).dev.next? .main = some (dec .ret) := by decide +kernel
theorem witness_WaitingCommandsIssue_fence :
    Good (next (.fence 9#32)) ∧ (next (.fence 9#32)).dev.next? .main = some (dec (.fence 9#32)) := by decide +kernel
theorem witness_WaitingCommandsIssue_flush : Good (next .flush) ∧ (next .flush).dev.next? .main = some (dec .flush) := by
  decide +kernel
theorem witness_WaitingCommandsIssue_wait : Good (next (.wait someWait)) ∧
    (next (.wait someWait)).dev.next? .main = some (dec (.wait someWait)) ∧
    (next (.wait someWait)).dev.waitHolds .main someWait = false := by decide +kernel
theorem witness_WaitingCommandsIssue_held : Good (next (.wait ⟨0, 15, 0, 0⟩)) ∧
    (next (.wait ⟨0, 15, 0, 0⟩)).dev.next? .main = some (dec (.wait ⟨0, 15, 0, 0⟩)) ∧
    (next (.wait ⟨0, 15, 0, 0⟩)).dev.waitHolds .main ⟨0, 15, 0, 0⟩ = true := by decide +kernel
theorem witness_WaitsEnd_fence : Good (waiting (.fence 9#32)) ∧
    (waiting (.fence 9#32)).dev.waits .main = some ⟨dec (.fence 9#32), 0, false, true, false⟩ := by decide +kernel
theorem witness_WaitsEnd_flush : Good (waiting .flush) ∧
    (waiting .flush).dev.waits .main = some ⟨dec .flush, 0, false, true, false⟩ := by decide +kernel
theorem witness_WaitsEnd_wait : Good (waiting (.wait ⟨0, 0, 0, 0⟩)) ∧
    (waiting (.wait ⟨0, 0, 0, 0⟩)).dev.waits .main = some ⟨dec (.wait ⟨0, 0, 0, 0⟩), 0, false, true, false⟩ ∧
    (waiting (.wait ⟨0, 0, 0, 0⟩)).dev.waitHolds .main ⟨0, 0, 0, 0⟩ = true := by decide +kernel
theorem witness_WaitsEnd_timeout : Good (waiting (.wait someWait) (later 4000000)) ∧
    (waiting (.wait someWait) (later 4000000)).dev.waits .main = some ⟨dec (.wait someWait), 0, false, true, false⟩ ∧
    someWait.timeoutUs ≠ 0 ∧ 0 + us someWait.timeoutUs ≤ (waiting (.wait someWait) (later 4000000)).dev.now ∧
    (waiting (.wait someWait) (later 4000000)).dev.waitHolds .main someWait = false := by decide +kernel

/-- A command refused with reason FIELD next. -/
def refused : State :=
  machine fun d => { put d (seqPage .main) 2 with seqMain := { d.seqMain with ahead := [.bad rField 0 0x1000 0 7#32] } }

theorem witness_RefusedCommandRejected : Good refused ∧ (refused.dev.stream .main).running = none ∧
    (refused.dev.stream .main).ahead = [.bad rField 0 0x1000 0 7#32] ∧ refused.dev.active (seqPage .main) = true := by
  decide +kernel

theorem witness_SetpredWritesItsPredicate_value : Good (next (.setpred ⟨63, 0, 0, 1, 0⟩)) ∧
    (next (.setpred ⟨63, 0, 0, 1, 0⟩)).dev.current .main = some (dec (.setpred ⟨63, 0, 0, 1, 0⟩)) := by decide +kernel
theorem witness_SetpredWritesItsPredicate_memory : Good (next (.setpred ⟨1, 1, 0, 0, 0x100000⟩)) ∧
    (next (.setpred ⟨1, 1, 0, 0, 0x100000⟩)).dev.current .main = some (dec (.setpred ⟨1, 1, 0, 0, 0x100000⟩)) ∧
    (next (.setpred ⟨1, 1, 0, 0, 0x100000⟩)).dev.loses [lostBlock] = true :=
  ⟨by decide +kernel, by decide +kernel, lost_block rfl⟩

/-- A SETPRED from a grant record of a ROUTE, where the record is FINAL or not. -/
def routed (final : Bool) : State := next (.setpred ⟨2, 2, 0, 0, 0⟩) fun d =>
  { d with
    seqMain := { d.seqMain with lastRoute := some (0, 0) }
    mem := if final then d.mem.setByte (d.recordAddr 0 0 + 8) 1#8 else d.mem }

theorem witness_SetpredWritesItsPredicate_record : Good (routed true) ∧
    (routed true).dev.current .main = some (dec (.setpred ⟨2, 2, 0, 0, 0⟩)) ∧
    (((routed true).dev.found [] []).stream .main).lastRoute = some (0, 0) ∧
    ((routed true).dev.found [] []).recordFinal 0 0 = true := by decide +kernel
theorem witness_SetpredWritesItsPredicate_counter : Good (next (.setpred ⟨32, 3, 15, 0, 0⟩)) ∧
    (next (.setpred ⟨32, 3, 15, 0, 0⟩)).dev.current .main = some (dec (.setpred ⟨32, 3, 15, 0, 0⟩)) := by decide +kernel
theorem witness_SetpredWritesItsPredicate_waits : Good (routed false) ∧
    (routed false).dev.next? .main = some (dec (.setpred ⟨2, 2, 0, 0, 0⟩)) ∧
    (((routed false).dev.found [] []).stream .main).lastRoute = some (0, 0) ∧
    ((routed false).dev.found [] []).recordFinal 0 0 = false := by decide +kernel
theorem witness_SetpredWritesItsPredicate_none : Good (next (.setpred ⟨2, 2, 0, 0, 0⟩)) ∧
    (next (.setpred ⟨2, 2, 0, 0, 0⟩)).dev.next? .main = some (dec (.setpred ⟨2, 2, 0, 0, 0⟩)) ∧
    (((next (.setpred ⟨2, 2, 0, 0, 0⟩)).dev.found [] []).stream .main).lastRoute = none := by decide +kernel

/-- A STAMP of one entry: the counter at a place, in `width` bytes, plus `add`. -/
def someStamp (source : Nat) (add : Int) : StampCmd := ⟨0x4000, 0x8000, 64, [⟨8, 4, source, 0, 1, add⟩], 0, 0⟩
def stamping (source : Nat) (add : Int) : State := next (.stamp (someStamp source add))

/-- What a STAMP's entries make of its template. -/
def stamped (s : State) (p : StampCmd) : Option (List Byte) :=
  (s.dev.found [(p.dest, p.length)] []).stampEntries .main ((s.dev.found [(p.dest, p.length)] []).recordAddr 0 0) p.entries
    (readBytes ((s.dev.found [(p.dest, p.length)] []).operandSource .main (dec (.stamp p))).1 p.template p.length)

theorem witness_StampWritesItsCopy : Good (stamping 0 5) ∧ (stamping 0 5).dev.current .main = some (dec (.stamp (someStamp 0 5))) ∧
    (someStamp 0 5).entries.any StampEntry.grant = false ∧ ((stamped (stamping 0 5) (someStamp 0 5)).map List.length) = some 64 ∧
    offLogbook 0x8000 64 := by
  have h : ∀ i ∈ List.range 64, regionOf (0x8000 + i) ≠ .logbook := by decide +kernel
  exact ⟨by decide +kernel, by decide +kernel, by decide +kernel, by decide +kernel, fun i hi => h i (List.mem_range.mpr hi)⟩
theorem witness_StampWritesItsCopy_rejected : Good (stamping 0 (-5)) ∧
    (stamping 0 (-5)).dev.current .main = some (dec (.stamp (someStamp 0 (-5)))) ∧ stamped (stamping 0 (-5)) (someStamp 0 (-5)) = none := by
  decide +kernel
theorem witness_StampWritesItsCopy_waits : (stamping 2 0).dev.next? .main = some (dec (.stamp (someStamp 2 0))) ∧
    (stamping 2 0).dev.current .main = some (dec (.stamp (someStamp 2 0))) ∧
    (someStamp 2 0).entries.any StampEntry.grant = true ∧
    ((stamping 2 0).dev.found [(0x8000, 64)] []).recordFinal 0 0 = false := by decide +kernel

/-- A ring of zeros, of which one command lies before TAIL. -/
def fetching : State := machine fun d => (put d (seqPage .main) 2).setFld (Reg.seqTail 0) 19 0 1

/-- What a stream's decoder makes of the command at its head. -/
def fetched (s : State) : Ahead :=
  decodeCommand ((s.dev.found [] []).decodeCtx s.fuse .main (s.dev.found [] []).src ((s.dev.found [] []).place .main))
    ((s.dev.found [] []).placeAddr .main ((s.dev.found [] []).place .main)) false
    (readBytes (s.dev.found [] []).src ((s.dev.found [] []).placeAddr .main ((s.dev.found [] []).place .main)) 64)

theorem witness_HeadCommandDecoded : Good fetching ∧ (fetching.dev.found [] []).active (seqPage .main) = true ∧
    (fetching.dev.found [] []).halted = false ∧ ((fetching.dev.found [] []).stream .main).running = none ∧
    ((fetching.dev.found [] []).stream .main).ahead = [] ∧
    (fetching.dev.found [] []).covered .main ((fetching.dev.found [] []).place .main) = true ∧
    (fetching.dev.found [] []).recordPending (fetched fetching) = false := by decide +kernel

/-- An operation whose work is done. -/
def doneRun : Running := ⟨{ dec .nop with notify := true }, 0, true, false, false⟩
def atBoundary : State := machine fun d => { put d (seqPage .main) 2 with seqMain := { d.seqMain with running := some doneRun } }

theorem witness_OperationReachesItsBoundary : Good atBoundary ∧ (atBoundary.dev.stream .main).running = some doneRun ∧
    doneRun.done = true ∧ atBoundary.dev.boundaryHeld doneRun.dec.cmd = false := by decide +kernel
/-- A ROUTE whose COUNT sets still wait in a port's queue. -/
def heldRoute : RouteCmd := ⟨someTensor, none, 3, 7, 1, 1, false, false, 0, 0, [], [], [], [], 1, 0⟩
def heldRun : Running := ⟨dec (.route heldRoute), 0, true, false, false⟩
def heldBoundary : State := machine fun d =>
  { d.setPort 35 (fun p => { p with queues := [[], [⟨0#2048, 1, 0, none, 0⟩], [], [], []] }) with
    seqMain := { d.seqMain with running := some heldRun }
    cmp := { d.cmp with protocols := [⟨1, heldRoute, 7#32, 0, 0, [], [], [], 0, none, 0, [], [], []⟩] } }

theorem witness_OperationReachesItsBoundary_held : Good heldBoundary ∧ (heldBoundary.dev.stream .main).running = some heldRun ∧
    heldRun.done = true ∧ heldBoundary.dev.boundaryHeld heldRun.dec.cmd = true := by decide +kernel

/-- The backfill stream with a command that has run for `t` ns. -/
def backfilling (t : Nat) : State :=
  machine fun d => later t { put d (seqPage .backfill) 2 with seqBf := { d.seqBf with running := some ⟨dec .nop, 0, false, false, false⟩ } }

theorem witness_BackfillLimits_overrun : Good (backfilling 1000000000) ∧
    (backfilling 1000000000).dev.seqBf.running = some ⟨dec .nop, 0, false, false, false⟩ ∧
    (backfilling 1000000000).dev.bfLimit < (backfilling 1000000000).dev.now - 0 := by decide +kernel

def enabling : State := machine fun d => d.setFlag (Reg.seqBfCtrl 1) 0 true

theorem witness_BackfillLimits_enable : Good enabling ∧ enabling.dev.flag (Reg.seqBfCtrl 1) 0 ≠ enabling.dev.bfEffective ∧
    enabling.dev.seqBf.running = none ∧ enabling.dev.quiet .main = true := by decide +kernel
theorem witness_HartsCommandTheStreams : Good State.reset ∧ (State.reset.liveHart 24).isSome = true ∧
    bits 63#32 19 0 < State.reset.dev.ringSize .main ∧ State.reset.dev.ringSize .main ≤ bits 0xFFFFF#32 19 0 ∧
    bit 0x10001#32 16 = true := by decide +kernel

/-! Legs and fixes. -/

def someLeg (leg : Nat) : LegCmd := ⟨leg, 0xFF, 0xFF, 0, 3#64⟩

/-- The Chart, Logbook and Sextant pages ACTIVE. -/
def open3 (d : Dev) : Dev := put (put (put d chtPage 2) logPage 2) sxtPage 2

def legNext (f : Dev → Dev := id) : State := next (.leg (someLeg 0)) (f ∘ open3)

theorem witness_LegIssues : Good legNext ∧ legNext.dev.next? .main = some (dec (.leg (someLeg 0))) ∧ legNext.dev.logShort = false ∧
    legNext.dev.legBegins 0 = true ∧ legNext.dev.skyMode = 0 ∧ legNext.dev.sky.holds = [] ∧ legNext.dev.active chtPage = true ∧
    legNext.dev.ready logPage = false ∧ legNext.dev.active sxtPage = true := by decide +kernel
theorem witness_LegIssues_rejected : Good (next (.leg (someLeg 1))) ∧
    (next (.leg (someLeg 1))).dev.next? .main = some (dec (.leg (someLeg 1))) ∧ (next (.leg (someLeg 1))).dev.logShort = false ∧
    (next (.leg (someLeg 1))).dev.legBegins 1 = false ∧ (next (.leg (someLeg 1))).dev.active chtPage = false := by decide +kernel

/-- The Logbook's ring holds undrained records and STALL is asked for. -/
def full (d : Dev) : Dev := (d.setFlag Reg.logCtrl 1 true).setPair Reg.logWriteLo 0xFFFFFFF8

theorem witness_LegIssues_held : Good (legNext full) ∧ (legNext full).dev.next? .main = some (dec (.leg (someLeg 0))) ∧
    (legNext full).dev.logShort = true ∧ (legNext full).dev.log.stallSince = none ∧
    (legNext fun d => full { d with log := { d.log with stallSince := some 0 } }).dev.log.stallSince ≠ none := by decide +kernel
theorem witness_LegIssues_rollback : Good (legNext fun d => { d with sky := { d.sky with holds := [(1, 2)] } }) ∧
    (legNext fun d => { d with sky := { d.sky with holds := [(1, 2)] } }).dev.next? .main = some (dec (.leg (someLeg 0))) ∧
    (legNext fun d => { d with sky := { d.sky with holds := [(1, 2)] } }).dev.logShort = false ∧
    (legNext fun d => { d with sky := { d.sky with holds := [(1, 2)] } }).dev.legBegins 0 = true ∧
    (legNext fun d => { d with sky := { d.sky with holds := [(1, 2)] } }).dev.skyMode = 0 ∧
    (legNext fun d => { d with sky := { d.sky with holds := [(1, 2)] } }).dev.sky.holds ≠ [] := by decide +kernel

def legRun (p : LegPhase) : LegRun := ⟨someLeg 0, true, p, 0#64, false, 0, 0#32, 0#32, false⟩

/-- A LEG issued, in one of its phases. -/
def inLeg (p : LegPhase) (t : Nat) : State :=
  waiting (.leg (someLeg 0)) fun d => later t { open3 d with cht := { d.cht with leg := some (legRun p) } }

theorem witness_LegSwitches : Good (inLeg .waiting 0) ∧
    (inLeg .waiting 0).dev.runningLeg = some (dec (.leg (someLeg 0)), legRun .waiting) ∧ (legRun .waiting).phase = .waiting ∧
    ∀ k ∈ (inLeg .waiting 0).dev.incoming (legRun .waiting).cmd, (inLeg .waiting 0).dev.classDrained k = true := by decide +kernel

/-- A LEG whose second Chart governs class 1, of which a block still waits at port 35. -/
def undrainedRun : LegRun := { legRun .waiting with cmd := ⟨1, 0xFF, 7, 0, 3#64⟩ }
def undrained : State := waiting (.leg undrainedRun.cmd) fun d =>
  { (put d (fabPage 35) 2).setPort 35 (fun p => { p with queues := [[], [⟨0#2048, 1, 0, none, 0⟩], [], [], []] }) with
    cht := { d.cht with leg := some undrainedRun } }

theorem witness_LegSwitches_undrained : Good undrained ∧ undrained.dev.runningLeg = some (dec (.leg undrainedRun.cmd), undrainedRun) ∧
    1 ∈ undrained.dev.incoming undrainedRun.cmd ∧ undrained.dev.classDrained 1 = false := by decide +kernel

def fixNext (step : Dword) (f : Dev → Dev := id) : State := next (.fix ⟨step, 0⟩) f

theorem witness_FixIssues_early : Good (fixNext 0#64 fun d => put d skyPage 2) ∧
    (fixNext 0#64 fun d => put d skyPage 2).dev.next? .main = some (dec (.fix ⟨0#64, 0⟩)) ∧
    (fixNext 0#64 fun d => put d skyPage 2).dev.active skyPage = true ∧ (fixNext 0#64 fun d => put d skyPage 2).dev.skyMode = 0 ∧
    0 < (fixNext 0#64 fun d => put d skyPage 2).dev.sky.firstStep + (fixNext 0#64 fun d => put d skyPage 2).dev.lag := by
  decide +kernel
theorem witness_FixIssues_vote : Good (fixNext 9#64 fun d => put d skyPage 2) ∧
    (fixNext 9#64 fun d => put d skyPage 2).dev.next? .main = some (dec (.fix ⟨9#64, 0⟩)) ∧
    (fixNext 9#64 fun d => put d skyPage 2).dev.active skyPage = true ∧
    (fixNext 9#64 fun d => put d skyPage 2).dev.sky.firstStep + (fixNext 9#64 fun d => put d skyPage 2).dev.lag ≤ 9 := by
  decide +kernel
theorem witness_FixIssues_replay : Good (fixNext 9#64 fun d => (put d skyPage 2).setFld Reg.skyCtrl 5 4 1) ∧
    (fixNext 9#64 fun d => (put d skyPage 2).setFld Reg.skyCtrl 5 4 1).dev.next? .main = some (dec (.fix ⟨9#64, 0⟩)) ∧
    (fixNext 9#64 fun d => (put d skyPage 2).setFld Reg.skyCtrl 5 4 1).dev.active skyPage = true ∧
    (fixNext 9#64 fun d => (put d skyPage 2).setFld Reg.skyCtrl 5 4 1).dev.skyMode ≠ 0 := by decide +kernel
theorem witness_FixIssues_rejected : Good (fixNext 9#64) ∧ (fixNext 9#64).dev.next? .main = some (dec (.fix ⟨9#64, 0⟩)) ∧
    (fixNext 9#64).dev.active skyPage = false := by decide +kernel

theorem witness_LegAndFixTimeOut_leg : Good (inLeg .barrier 2000000000) ∧
    (inLeg .barrier 2000000000).dev.runningLeg = some (dec (.leg (someLeg 0)), legRun .barrier) ∧ (legRun .barrier).phase = .barrier ∧
    0 + us (max 1 ((inLeg .barrier 2000000000).dev.fld Reg.chtTimeout 19 0)) ≤ (inLeg .barrier 2000000000).dev.now := by decide +kernel

/-- A FIX in its vote. -/
def inFix (f : Dev → Dev) : State :=
  waiting (.fix ⟨9#64, 4000⟩) fun d => f { d with sky := { d.sky with fix := some ⟨⟨9#64, 4000⟩, 0, false, 0⟩ } }

theorem witness_LegAndFixTimeOut_fix : Good (inFix (later 4000000)) ∧
    (inFix (later 4000000)).dev.runningFix = some (dec (.fix ⟨9#64, 4000⟩), ⟨⟨9#64, 4000⟩, 0, false, 0⟩) ∧
    0 + us 4000 ≤ (inFix (later 4000000)).dev.now := by decide +kernel

/-- A message from package 2 in the loop of this package's own messages. -/
def message (cls : Nat) (body : List Nat) : Packet := ⟨36, 2, cls, 0, 0, body.map (BitVec.ofNat 8)⟩
def holding (m : Packet) (f : Dev → Dev := id) : State := machine fun d => { f d with cht := { (f d).cht with loop := [m] } }

def collective (type step : Nat) : Packet := message 0 [type, 0, 0, 0, 2, 0, step % 256, step / 256]

theorem witness_CollectiveMessages_barrier : Good (holding (collective 30 0)) ∧ (holding (collective 30 0)).dev.has (collective 30 0) = true ∧
    (collective 30 0).cls = 0 ∧ u8 (collective 30 0).body 0 = 30 ∧
    (((holding (collective 30 0)).dev.found [] []).takePacket (collective 30 0)).barrierOlder (collective 30 0).body = false := by
  decide +kernel
/-- A state in which a barrier of the step before is older. -/
def afterLegs : State := holding (collective 30 65535) fun d => { d with cht := { d.cht with firstLeg := false } }
theorem witness_CollectiveMessages_older : afterLegs.dev.has (collective 30 65535) = true ∧
    ((afterLegs.dev.found [] []).takePacket (collective 30 65535)).barrierOlder (collective 30 65535).body = true := by decide +kernel
theorem witness_CollectiveMessages_vote : (holding (collective 32 0)).dev.has (collective 32 0) = true ∧
    u8 (collective 32 0).body 0 = 32 ∧
    olderStep ((holding (collective 32 0)).dev.takePacket (collective 32 0)).step (u16 (collective 32 0).body 6) = false ∧
    olderStep ((holding (collective 32 65535)).dev.takePacket (collective 32 65535)).step (u16 (collective 32 65535).body 6) = true := by
  decide +kernel
theorem witness_CollectiveMessages_flush : (holding (collective 33 0)).dev.has (collective 33 0) = true ∧
    u8 (collective 33 0).body 0 = 33 := by decide +kernel

/-- A second-key message about step 9 of package 2. -/
def secondKey (type code : Nat) : Packet := message 0 ([type, code, 0, 0, 2, 0, 2, 0, 9, 0, 0, 0, 0, 0, 0, 0] ++ List.replicate 32 0)

def noDigests : Digests := ⟨0#64, 0#64, 0#64, 0#64⟩
def someRequest : SkRequest := ⟨9, 0, noDigests, none, false, 0⟩

/-- Package 2 with a request of its own for step 9. -/
def suspected (d : Dev) : Dev :=
  { d.setFld Reg.chtPackage 15 0 2 with sky := { d.sky with requests := [someRequest], awaiting := [(9, 2)], suspect := [9] } }

theorem witness_SecondKeyMessages_request : Good (holding (secondKey 34 0)) ∧
    (holding (secondKey 34 0)).dev.has (secondKey 34 0) = true ∧ skFieldsOk (secondKey 34 0).body = true ∧
    u8 (secondKey 34 0).body 0 = 34 := by decide +kernel
theorem witness_SecondKeyMessages_accept : Good (holding (secondKey 35 1) suspected) ∧
    (holding (secondKey 35 1) suspected).dev.has (secondKey 35 1) = true ∧ skFieldsOk (secondKey 35 1).body = true ∧
    u8 (secondKey 35 1).body 0 = 35 ∧ (skOf (secondKey 35 1).body).code = 1 ∧ (skOf (secondKey 35 0).body).code = 0 ∧
    ((holding (secondKey 35 1) suspected).dev.takePacket (secondKey 35 1)).request (skOf (secondKey 35 1).body).step =
      some someRequest ∧ (skOf (secondKey 35 1).body).suspect =
      ((holding (secondKey 35 1) suspected).dev.takePacket (secondKey 35 1)).number := by decide +kernel
theorem witness_SecondKeyMessages_verdict : (holding (secondKey 36 0) suspected).dev.has (secondKey 36 0) = true ∧
    skFieldsOk (secondKey 36 0).body = true ∧ skFieldsOk (secondKey 36 1).body = true ∧ u8 (secondKey 36 0).body 0 = 36 ∧
    ((holding (secondKey 36 0) suspected).dev.takePacket (secondKey 36 0)).request (skOf (secondKey 36 0).body).step =
      some someRequest := by decide +kernel
theorem witness_SecondKeyMessages_decision : (holding (secondKey 37 1) suspected).dev.has (secondKey 37 1) = true ∧
    skFieldsOk (secondKey 37 1).body = true ∧ (skOf (secondKey 37 1).body).code = 1 ∧
    (((holding (secondKey 37 1) suspected).dev.takePacket (secondKey 37 1)).sky.awaiting.any fun y =>
      y.1 == (skOf (secondKey 37 1).body).step) = true := by decide +kernel
theorem witness_SecondKeyMessages_stray : (holding (secondKey 37 1)).dev.has (secondKey 37 1) = true ∧
    u8 (secondKey 37 1).body 0 = 37 ∧ (((holding (secondKey 37 1)).dev.takePacket (secondKey 37 1)).sky.awaiting.any fun y =>
      y.1 == (skOf (secondKey 37 1).body).step) = false := by decide +kernel
/-- A message with a reserved byte set. -/
def badKey (type : Nat) : Packet := message 0 ([type, 0, 0, 1, 2, 0, 2, 0, 9, 0, 0, 0, 0, 0, 0, 0] ++ List.replicate 32 0)
theorem witness_SecondKeyMessages_fields : ∀ t ∈ [34, 35, 36, 37, 38], (holding (badKey t)).dev.has (badKey t) = true ∧
    (badKey t).cls = 0 ∧ u8 (badKey t).body 0 = t ∧ skFieldsOk (badKey t).body = false := by decide +kernel
theorem witness_SecondKeyMessages_cancel : (holding (secondKey 38 0)).dev.has (secondKey 38 0) = true ∧
    skFieldsOk (secondKey 38 0).body = true ∧ u8 (secondKey 38 0).body 0 = 38 := by decide +kernel
/-- The request of `suspected`, long ago. -/
def overdue : State := holding (secondKey 38 0) (later (2 ^ 50) ∘ suspected)
theorem witness_SecondKeyMessages_timeout : Good overdue ∧ overdue.dev.has (secondKey 38 0) = true ∧
    overdue.dev.sky.requests.find? (fun r => !r.third ∧ r.cause = 0 ∧
      r.since + ms (max 1 (overdue.dev.fld Reg.skyTimeout 19 0)) ≤ overdue.dev.now) = some someRequest := by decide +kernel

/-! Operations. -/

def someProduct (heritage : Bool) : MatmulCmd :=
  ⟨heritage, someTensor, someTensor, none, none, none, 0, 1, none, false, false, false, false, 0, 0, 0⟩
def someProgram : VprogCmd := ⟨[.tensor someTensor], [.tensor someTensor], [], [], 0, 1, 0, 1, false, 0⟩
def someKernel (k : Nat) : KernelCmd :=
  ⟨k, 0, .tensor someTensor, .absent, .absent, .tensor someTensor, .absent, 0#32, 0, [], 0, 1, 0, 1, false, 0⟩
def someCopy (transpose : Bool) : CopyCmd := ⟨transpose, someTensor, someTensor, false, 0⟩
def someLoad : TloadCmd := ⟨31, 0, 0x100000, 0, 64⟩

theorem witness_ProductsIssue : Good (next (.matmul (someProduct false))) ∧
    (next (.matmul (someProduct false))).dev.next? .main = some (dec (.matmul (someProduct false))) := by decide +kernel
theorem witness_ProductsIssue_heritage : Good (next (.matmul (someProduct true))) ∧
    (next (.matmul (someProduct true))).dev.next? .main = some (dec (.matmul (someProduct true))) := by decide +kernel
theorem witness_VectorCommandsIssue_program : Good (next (.vprog someProgram)) ∧
    (next (.vprog someProgram)).dev.next? .main = some (dec (.vprog someProgram)) := by decide +kernel
theorem witness_VectorCommandsIssue_kernels : ∀ k, k < 6 → Good (next (.kernel (someKernel k))) ∧
    (next (.kernel (someKernel k))).dev.next? .main = some (dec (.kernel (someKernel k))) := by decide +kernel
theorem witness_CopiesIssue : ∀ t, Good (next (.copy (someCopy t))) ∧
    (next (.copy (someCopy t))).dev.next? .main = some (dec (.copy (someCopy t))) ∧
    ((someCopy t).transpose = false → (someCopy t).src.shape = (someCopy t).dst.shape) := by decide +kernel
theorem witness_TableLoads : Good (next (.tload someLoad)) ∧
    (next (.tload someLoad)).dev.next? .main = some (dec (.tload someLoad)) := by decide +kernel
/-- The table load of an operation whose work is done. -/
def loadRun : Running := ⟨dec (.tload someLoad), 0, true, false, false⟩
def loading : State := machine fun d =>
  { put d (seqPage .main) 2 with seqMain := { d.seqMain with running := some loadRun, late := some (.tload someLoad [1#8]) } }

theorem witness_TableLoads_boundary : Good loading ∧ (loading.dev.stream .main).running = some loadRun ∧ loadRun.done = true ∧
    loadRun.dec.cmd = .tload someLoad ∧ (loading.dev.stream .main).late = some (.tload someLoad [1#8]) ∧
    someLoad.slot < loading.dev.curves.length := by decide +kernel

def someXchg (kind : Nat) : XchgCmd := ⟨kind, 0, 0, 0, 0, none, none, none, none, none, 0, 0x9000, 4000, false, 0⟩
def someSend : SendCmd := ⟨0, 1, 7, 0, 0x100000, 512, 4000, 0x9000⟩
def someRoute : RouteCmd := ⟨someTensor, none, 3, 7, 1, 1, false, false, 0, 0, [], [], [], [], 1, 0⟩
def someReduce (kind : Nat) : ReduceCmd := ⟨kind, 0, 0, 0, none, none, none, 0, 0, 3, 0, 0, 0, 0x9000, 4000, 0⟩

/-- The record of an XCHG is FINAL. -/
def final (d : Dev) : Dev := { d with mem := d.mem.setByte (d.recordAddr 0 0 + 8) 1#8 }

theorem witness_FabricOperationsIssue_xchg : ∀ k, k < 5 → Good (next (.xchg (someXchg k)) final) ∧
    (next (.xchg (someXchg k)) final).dev.next? .main = some (dec (.xchg (someXchg k))) ∧
    (next (.xchg (someXchg k)) final).dev.xchgWaits (someXchg k) = false := by decide +kernel
theorem witness_FabricOperationsIssue_send : Good (next (.send someSend)) ∧
    (next (.send someSend)).dev.next? .main = some (dec (.send someSend)) ∧
    (next (.send someSend)).dev.sendWaits someSend = false := by decide +kernel
theorem witness_FabricOperationsIssue_route : Good (next (.route someRoute) fun d => put d cmpPage 2) ∧
    (next (.route someRoute) fun d => put d cmpPage 2).dev.next? .main = some (dec (.route someRoute)) ∧
    (next (.route someRoute) fun d => put d cmpPage 2).dev.active cmpPage = true ∧
    (next (.route someRoute) fun d => put d cmpPage 2).dev.routeWaits someRoute = false := by decide +kernel
theorem witness_FabricOperationsIssue_reduce : ∀ k, k < 4 → Good (next (.reduce (someReduce k)) fun d => put d redPage 2) ∧
    (next (.reduce (someReduce k)) fun d => put d redPage 2).dev.next? .main = some (dec (.reduce (someReduce k))) ∧
    (next (.reduce (someReduce k)) fun d => put d redPage 2).dev.active redPage = true ∧
    (next (.reduce (someReduce k)) fun d => put d redPage 2).dev.reduceWaits (someReduce k) = false := by decide +kernel
/-- Operations of the same record, run, stream and kind, already under way. -/
def crowded (d : Dev) : Dev :=
  { put (put d cmpPage 2) redPage 2 with
    cmp := { d.cmp with protocols := [⟨1, someRoute, 7#32, 0, 0, [], [], [], 0, none, 0, [], [], []⟩] }
    red := { d.red with runs := [⟨1, someReduce 3, 0#32, 7#32, 0, 0, 0, 0#64, .consensus, .live, 0, 0, 0, true, [], [], [], none, [], [],
      none, [], false⟩] }
    snd := { d.snd with runs := List.replicate 8 ⟨1, true, someSend, 7#32, 0, 0#64, 3, 0, false⟩ } }

theorem witness_FabricOperationsIssue_waits : (next (.xchg (someXchg 0))).dev.xchgWaits (someXchg 0) = true ∧
    (next (.send someSend) crowded).dev.next? .main = some (dec (.send someSend)) ∧
    (next (.send someSend) crowded).dev.sendWaits someSend = true ∧ (next (.route someRoute) crowded).dev.active cmpPage = true ∧
    (next (.route someRoute) crowded).dev.routeWaits someRoute = true ∧
    (next (.reduce (someReduce 3)) crowded).dev.active redPage = true ∧
    (next (.reduce (someReduce 3)) crowded).dev.reduceWaits (someReduce 3) = true := by decide +kernel
theorem witness_InactivePagesReject : Good (next (.route someRoute)) ∧ (next (.route someRoute)).dev.active cmpPage = false ∧
    (next (.route someRoute)).dev.next? .main = some (dec (.route someRoute)) ∧ Good (next (.reduce (someReduce 3))) ∧
    (next (.reduce (someReduce 3))).dev.next? .main = some (dec (.reduce (someReduce 3))) ∧
    (next (.reduce (someReduce 3))).dev.active redPage = false := by decide +kernel

def someSet (kind : Nat) : HelmSetCmd := ⟨kind, 3, 5, some someTensor, 0, 0x3F800000#32, 0#32, 4#64, 0x9000⟩

theorem witness_HelmSets : ∀ k, k < 4 → Good (next (.helmSet (someSet k))) ∧
    (next (.helmSet (someSet k))).dev.next? .main = some (dec (.helmSet (someSet k))) ∧
    (next (.helmSet (someSet k))).dev.loses [] = false ∧ (someSet 1).src = some someTensor := by decide +kernel
theorem witness_HelmSets_lost : (next (.helmSet (someSet 0))).dev.loses (⟨[lostBlock], [], [], []⟩ : OpEvents).blocks = true :=
  lost_block rfl
/-- The boundary of a HELM_SET STEP. -/
def settingRun : Running := ⟨dec (.helmSet (someSet 0)), 0, true, false, false⟩
def setting : State := machine fun d =>
  { put d (seqPage .main) 2 with seqMain := { d.seqMain with running := some settingRun, late := some (.helmStep (someSet 0)) } }

theorem witness_HelmSets_boundary : Good setting ∧ setting.dev.seqMain.running = some settingRun ∧ settingRun.done = true ∧
    settingRun.dec.cmd = .helmSet (someSet 0) ∧ setting.dev.seqMain.late = some (.helmStep (someSet 0)) := by decide +kernel

def someMark (kind : Nat) : LogmarkCmd := ⟨kind, 3, 0#64, some someTensor, []⟩

theorem witness_Logmarks : ∀ k, k < 3 → Good (next (.logmark (someMark k))) ∧
    (next (.logmark (someMark k))).dev.next? .main = some (dec (.logmark (someMark k))) := by decide +kernel

def someUpdate : HelmUpdateCmd :=
  ⟨3, 0, 1, someTensor, none, none, 0, 0xFF, 0#32, 0#32, 0#32, 0#32, 0, 0x1000, 0x2000, 0, 0⟩

/-- The Helm ACTIVE with the consensus of its step, and the ring in a state. -/
def helmOpen (w : Nat) (d : Dev) : Dev := ((put d hlmPage 2).setFlag Reg.redConsensus 0 true).setFld Reg.hlmRingState 31 0 w

/-- Every slot of the ring FIXED. -/
def ringFull : Nat := 0x33333333

theorem witness_HelmUpdateIssues : Good (next (.helmUpdate someUpdate) (helmOpen 0)) ∧
    (next (.helmUpdate someUpdate) (helmOpen 0)).dev.next? .main = some (dec (.helmUpdate someUpdate)) ∧
    (next (.helmUpdate someUpdate) (helmOpen 0)).dev.active hlmPage = true ∧
    (next (.helmUpdate someUpdate) (helmOpen 0)).dev.hlm.opened = none ∧
    (next (.helmUpdate someUpdate) (helmOpen 0)).dev.consensusValid = true ∧
    ((next (.helmUpdate someUpdate) (helmOpen 0)).dev.slotIn 0).isSome = true := by decide +kernel
theorem witness_HelmUpdateIssues_waits : Good (next (.helmUpdate someUpdate) (helmOpen ringFull)) ∧
    (next (.helmUpdate someUpdate) (helmOpen ringFull)).dev.next? .main = some (dec (.helmUpdate someUpdate)) ∧
    (next (.helmUpdate someUpdate) (helmOpen ringFull)).dev.active hlmPage = true ∧
    (next (.helmUpdate someUpdate) (helmOpen ringFull)).dev.consensusValid = true ∧
    (next (.helmUpdate someUpdate) (helmOpen ringFull)).dev.skyMode = 0 ∧
    (next (.helmUpdate someUpdate) (helmOpen ringFull)).dev.slotIn 0 = none := by decide +kernel
theorem witness_HelmUpdateIssues_rejected : Good (next (.helmUpdate someUpdate)) ∧
    (next (.helmUpdate someUpdate)).dev.next? .main = some (dec (.helmUpdate someUpdate)) ∧
    (next (.helmUpdate someUpdate)).dev.active hlmPage = false ∧ (next (.helmUpdate someUpdate)).dev.consensusValid = false := by
  decide +kernel

/-! Messages of the units. -/

/-- A Compass message of layer 3 and micro-batch 7, of step `step`, from package 2. -/
def compass (type step : Nat) : Packet := message 1 [type, 0, 1, 0, 3, 0, 7, 0, 2, 0, step, 0, 0, 0, 0, 0]

def someProtocol : Protocol := ⟨1, someRoute, 7#32, 0, 0, [], [], [], 0, none, 0, [], [], []⟩
def inRoute (d : Dev) : Dev := { d with cmp := { d.cmp with protocols := [someProtocol] } }

theorem witness_CompassMessages_held : ∀ t, t < 4 → Good (holding (compass t 0)) ∧ (holding (compass t 0)).dev.has (compass t 0) = true ∧
    (compass t 0).cls = 1 ∧ u8 (compass t 0).body 0 = t ∧ (holding (compass t 0)).dev.protocol 3 7 = none ∧
    (holding (compass t 0)).dev.cmp.held.length < 8 := by decide +kernel
/-- Eight other records hold messages. -/
def crammed : State := holding (compass 1 0) fun d =>
  { d with cmp := { d.cmp with held := (List.range 8).map fun i => ⟨100 + i, 0, []⟩ } }
theorem witness_CompassMessages_full : Good crammed ∧ crammed.dev.has (compass 1 0) = true ∧ crammed.dev.protocol 3 7 = none ∧
    8 ≤ crammed.dev.cmp.held.length ∧ (crammed.dev.cmp.held.any fun h => h.layer = 3 ∧ h.microbatch = 7) = false := by decide +kernel
theorem witness_CompassMessages_stale : Good (holding (compass 1 5) inRoute) ∧
    (holding (compass 1 5) inRoute).dev.has (compass 1 5) = true ∧
    (holding (compass 1 5) inRoute).dev.protocol (cmpMsgOf (compass 1 5).body).layer (cmpMsgOf (compass 1 5).body).microbatch =
      some someProtocol ∧ (cmpMsgOf (compass 1 5).body).step ≠ someProtocol.cmd.step % 65536 := by decide +kernel
theorem witness_CompassMessages_broken : (cmpMsgOf (compass 1 0).body).step = someProtocol.cmd.step % 65536 ∧
    (lowest (someProtocol.check (holding (compass 1 0) inRoute).dev.self (cmpMsgOf (compass 1 0).body))).isSome = true := by decide +kernel

/-- A message that the ROUTE under way, of packages 2 and 5, finds no fault with: it carries no entry. -/
def fittingRoute : RouteCmd := { someRoute with group := [2, 5] }
def inFitting (d : Dev) : Dev := { d with cmp := { d.cmp with protocols := [{ someProtocol with cmd := fittingRoute }] } }
def fitting (type : Nat) : Packet :=
  message 1 [type, 0, 0, 0, 3, 0, 7, 0, 2, 0, 0, 0, 1, 1, fittingRoute.mapTag % 256, fittingRoute.mapTag / 256]

theorem witness_CompassMessages_taken : ∀ t, 1 ≤ t → t < 4 → Good (holding (fitting t) inFitting) ∧
    (holding (fitting t) inFitting).dev.has (fitting t) = true ∧
    (holding (fitting t) inFitting).dev.protocol (cmpMsgOf (fitting t).body).layer (cmpMsgOf (fitting t).body).microbatch =
      some { someProtocol with cmd := fittingRoute } ∧
    (cmpMsgOf (fitting t).body).step = someProtocol.cmd.step % 65536 ∧
    lowest (({ someProtocol with cmd := fittingRoute } : Protocol).check (holding (fitting t) inFitting).dev.self
      (cmpMsgOf (fitting t).body)) = none := by
  have h : ∀ t ∈ [1, 2, 3], Good (holding (fitting t) inFitting) ∧
      (holding (fitting t) inFitting).dev.has (fitting t) = true ∧
      (holding (fitting t) inFitting).dev.protocol (cmpMsgOf (fitting t).body).layer (cmpMsgOf (fitting t).body).microbatch =
        some { someProtocol with cmd := fittingRoute } ∧
      (cmpMsgOf (fitting t).body).step = someProtocol.cmd.step % 65536 ∧
      lowest (({ someProtocol with cmd := fittingRoute } : Protocol).check (holding (fitting t) inFitting).dev.self
        (cmpMsgOf (fitting t).body)) = none := by decide +kernel
  intro t h1 h2
  exact h t (by simp; omega)

/-! Exchange. -/

/-- A READY of package 2 for kind 0, layer 3, micro-batch 7 with `rows` rows, and a DATA packet of one FP32 element. -/
def someReady (rows : Nat) : Packet := message 1 [9, 0, 0, 0, 3, 0, 7, 0, 2, 0, 0, 0, rows, 0, 0, 0]
def someData : Packet :=
  message 1 ([8, 0, 0, 0, 3, 0, 7, 0, 2, 0, 0, 0, 0, 0, 0, 0, 0, 0, 0, 0, 1, 0, 0, 0, 16, 0, 0, 0, 0, 0, 0, 0] ++ List.replicate 64 1)

def moving : XchgCmd := { someXchg 0 with microbatch := 7, dst := some someTensor }
def someXchgRun : XchgRun := ⟨1, moving, 7#32, 3, 0, 16, 0, 0#64, 0, 0, 0, [⟨2, 4⟩], [⟨2, 4, []⟩], [⟨2, 0, 0, 0⟩], []⟩
def inXchg (d : Dev) : Dev := { d with xch := { d.xch with runs := [someXchgRun] } }

theorem witness_ExchangeMessages_kept : Good (holding (someReady 4)) ∧ (holding (someReady 4)).dev.has (someReady 4) = true ∧
    (someReady 4).cls = 1 ∧ u8 (someReady 4).body 0 = 9 ∧ readyOf (someReady 4).body = ⟨0, 3, 7, 2, 0, 4, true⟩ ∧
    (holding (someReady 4)).dev.xchgRun 0 3 7 = none ∧ (holding (someReady 4)).dev.lateReady ⟨0, 3, 7, 2, 0, 4, true⟩ = false ∧
    (holding (someReady 4)).dev.xch.readys.length < 64 := by decide +kernel
theorem witness_ExchangeMessages_full :
    64 ≤ (holding (someReady 4) fun d => { d with xch := { d.xch with readys := List.replicate 64 ⟨0, 4, 7, 2, 0, 4, true⟩ } }).dev.xch.readys.length ∧
    (holding (someReady 4) fun d => { d with xch := { d.xch with ended := [⟨0, 3, 7, 0⟩] } }).dev.lateReady ⟨0, 3, 7, 2, 0, 4, true⟩ = true := by
  decide +kernel
theorem witness_ExchangeMessages_ready : Good (holding (someReady 4) inXchg) ∧ (holding (someReady 4) inXchg).dev.has (someReady 4) = true ∧
    (holding (someReady 4) inXchg).dev.xchgRun 0 3 7 = some someXchgRun ∧
    (holding (someReady 4) inXchg).dev.loses [] = false ∧ (readyOf (someReady 4).body).step = someXchgRun.step % 65536 ∧
    (someXchgRun.owed.find? fun o => o.peer = (readyOf (someReady 4).body).sender) = some ⟨2, 4⟩ ∧
    (readyOf (someReady 5).body).rows ≠ 4 ∧ (readyOf ((someReady 4).body.set 2 1#8)).zeros = false ∧
    (readyOf ((someReady 4).body.set 10 1#8)).step ≠ someXchgRun.step % 65536 := by decide +kernel
theorem witness_ExchangeMessages_ready_lost : (holding (someReady 4) inXchg).dev.loses [lostBlock] = true := lost_block rfl
theorem witness_ExchangeMessages_discarded : (holding someData).dev.has someData = true ∧ u8 someData.body 0 = 8 ∧
    (holding someData).dev.xchgRun (u8 someData.body 1) (u16 someData.body 4) (u16 someData.body 6) = none := by decide +kernel
theorem witness_ExchangeMessages_data : (holding someData inXchg).dev.has someData = true ∧
    (holding someData inXchg).dev.xchgRun (u8 someData.body 1) (u16 someData.body 4) (u16 someData.body 6) = some someXchgRun ∧
    u16 someData.body 0xA = someXchgRun.step % 65536 ∧ someXchgRun.fieldsOk someData.body = true ∧
    (someXchgRun.expected.any fun y => y.peer = u16 someData.body 8) = true ∧
    someXchgRun.places (u16 someData.body 8) (u16 someData.body 0xC) (u32 someData.body 0x10) (u32 someData.body 0x14) = some [0] ∧
    someXchgRun.cmd.dst = some someTensor ∧ ([0].any fun p => someXchgRun.got.contains p) = false ∧
    (holding someData inXchg).dev.loses [] = false := by decide +kernel
theorem witness_ExchangeMessages_data_lost : (holding someData inXchg).dev.loses [lostBlock] = true := lost_block rfl

/-! Reductions and what ends. -/

def redMessage (cls type step : Nat) : Packet := message cls [type, 0, 3, 0, 2, 0, step, 0, 0, 0, 0, 0, 0, 0, 0, 0]

theorem witness_ReductionMessages : ∀ t ∈ [16, 17, 18, 19, 20, 21], Good (holding (redMessage 3 t 0)) ∧
    (holding (redMessage 3 t 0)).dev.has (redMessage 3 t 0) = true ∧ (redMessage 3 t 0).cls = 3 ∧
    u8 (redMessage 3 t 0).body 0 = t ∧
    ((holding (redMessage 3 t 0)).dev.redCands (redHdrOf (redMessage 3 t 0).body)).find?
      (fun r => !r.endedBy (redHdrOf (redMessage 3 t 0).body)) = none ∧
    (redHdrOf (redMessage 3 t 0).body).step = (holding (redMessage 3 t 0)).dev.step % 65536 ∧
    (redHdrOf (redMessage 3 t 9).body).step ≠ (holding (redMessage 3 t 9)).dev.step % 65536 := by decide +kernel
theorem witness_ReductionMessages_consensus : (holding (redMessage 0 22 0)).dev.has (redMessage 0 22 0) = true ∧
    (redMessage 0 22 0).cls = 0 ∧ u8 (redMessage 0 22 0).body 0 = 22 := by decide +kernel

/-- The run of an exchange with nothing owed, and one that still expects a row. -/
def overRun : XchgRun := { someXchgRun with owed := [], queue := [], expected := [] }
def exchanging (x : XchgRun) (t : Nat) : State := machine fun d => later t { d with xch := { d.xch with runs := [x] } }

theorem witness_RunsEnd_xchg : Good (exchanging overRun 0) ∧ (exchanging overRun 0).dev.xchgOf 0 0 7 = some overRun ∧
    overRun.cmd.counter < 16 ∧ (exchanging overRun 0).dev.xchgOver overRun = true ∧
    Good (exchanging someXchgRun 4000000) ∧ (exchanging someXchgRun 4000000).dev.xchgOf 0 0 7 = some someXchgRun ∧
    (exchanging someXchgRun 4000000).dev.xchgOver someXchgRun = false ∧
    0 + us 4000 ≤ (exchanging someXchgRun 4000000).dev.now := by decide +kernel
theorem witness_RunsEnd_status : offLogbook overRun.cmd.status 64 := by
  have h : ∀ i ∈ List.range 64, regionOf (overRun.cmd.status + i) ≠ .logbook := by decide +kernel
  exact fun i hi => h i (List.mem_range.mpr hi)

def redRun (p : RedPhase) : RedRun :=
  ⟨1, someReduce 0, 0#32, 7#32, 0, 0, 0, 0#64, .exact, p, 0, 0, 0, true, [], [], [], none, [], [], none, [],
    false⟩
def reducing (p : RedPhase) (t : Nat) (m : Packet := redMessage 3 17 0) : State :=
  holding m fun d => later t { d with red := { d.red with runs := [redRun p] } }

theorem witness_ReductionMessages_run : ∀ step ∈ [0, 9], Good (reducing .live 0 (redMessage 3 17 step)) ∧
    (reducing .live 0 (redMessage 3 17 step)).dev.has (redMessage 3 17 step) = true ∧
    ((reducing .live 0 (redMessage 3 17 step)).dev.redCands (redHdrOf (redMessage 3 17 step).body)).find?
      (fun r => !r.endedBy (redHdrOf (redMessage 3 17 step).body)) = some (redRun .live) ∧
    (reducing .live 0 (redMessage 3 17 step)).dev.loses [] = false := by decide +kernel
theorem witness_RunsEnd_reduce : Good (reducing .written 0) ∧ (reducing .written 0).dev.redLive[0]? = some (redRun .written) ∧
    (redRun .written).phase = .written ∧ (redRun .written).cmd.counter < 16 ∧ (reducing .written 0).dev.loses [] = false ∧
    (reducing .live 4000000).dev.redLive[0]? = some (redRun .live) ∧ (redRun .live).phase = .live ∧
    0 + us 4000 ≤ (reducing .live 4000000).dev.now := by decide +kernel
theorem witness_RunsEnd_lost : (reducing .written 0).dev.loses [lostBlock] = true := lost_block rfl

def sendRun (going : Bool) : SendRun := ⟨1, going, someSend, 7#32, 0, 0#64, 3, 0, false⟩
def sending (going : Bool) (t : Nat) : State := machine fun d => later t { d with snd := { d.snd with runs := [sendRun going] } }

theorem witness_RunsEnd_send : Good (sending true 0) ∧ (sending true 0).dev.sendRun 1 = some (sendRun true) ∧
    (sending true 0).dev.sendOver (sendRun true) = true ∧ (sending false 4000000).dev.sendRun 1 = some (sendRun false) ∧
    (sending false 4000000).dev.sendOver (sendRun false) = false ∧ 0 + us 4000 ≤ (sending false 4000000).dev.now := by
  decide +kernel
theorem witness_RouteTimesOut : Good (machine fun d => later 1000000000000 (inRoute d)) ∧
    ((machine fun d => later 1000000000000 (inRoute d)).dev.cmp.protocols.find? fun p =>
      p.cmd.layerSlot = 0 ∧ p.cmd.microbatch = 7) = some someProtocol ∧
    0 + us (max 1 ((machine fun d => later 1000000000000 (inRoute d)).dev.fld Reg.cmpTimeout 19 0)) ≤
      (machine fun d => later 1000000000000 (inRoute d)).dev.now := by decide +kernel

/-! The pipeline. -/

def pause (type seq step : Nat) : Packet := message 0 [type, 4, seq, 0, 2, 0, step, 0]

theorem witness_PipelineControl : ∀ t ∈ [26, 27], Good (holding (pause t 1 0)) ∧
    (holding (pause t 1 0)).dev.has (pause t 1 0) = true ∧ (pause t 1 0).cls = 0 ∧ u8 (pause t 1 0).body 0 = t ∧
    u16 (pause t 1 0).body 6 = (holding (pause t 1 0)).dev.step % 65536 ∧
    newerSeq ((((holding (pause t 1 0)).dev.takePacket (pause t 1 0)).snd.streams.find? fun x =>
      x.dest = 2 ∧ x.hinge = 4).bind (·.lastSeq)) 1 = true ∧
    u16 (pause t 1 9).body 6 ≠ (holding (pause t 1 9)).dev.step % 65536 := by decide +kernel

def releasing : State := next (.release 0 7) fun d => d.setHinge 0 { d.hinge 0 with held := [7, 8] }

theorem witness_PipelineControl_release : Good releasing ∧ releasing.dev.next? .main = some (dec (.release 0 7)) ∧
    (releasing.dev.hinge 0).held = [7, 8] ∧ 0 < releasing.dev.hng.length := by decide +kernel

/-- A pipeline block for a Hinge: micro-batch, step, source and offset. -/
def pipe (hinge last mb step src off : Nat) : Packet :=
  message 2 ([hinge, last, mb, 0, step, 0, src, 0, off % 256, off / 256, 0, 0] ++ List.replicate 232 1)

/-- Hinge 15 ACTIVE, its packets of 256 bytes from package 2, micro-batch 5 next. -/
def hinged (d : Dev) : Dev :=
  (((put d (hngPage 15) 2).setFld (Reg.hngSource 15) 15 0 2).setFld (Reg.hngSlotBytes 15) 23 0 1).setHinge 15
    { d.hinge 15 with next := 5 }

/-- The hypotheses that a block of a Hinge of this step shares. -/
def atHinge (m : Packet) : Bool :=
  (holding m hinged).dev.has m && m.cls == 2 && u8 m.body 0 == 15 && ((holding m hinged).dev.takePacket m).active (hngPage 15) &&
    u16 m.body 4 == ((holding m hinged).dev.takePacket m).step % 65536

theorem witness_PipelineBlocks_stray : Good (holding (pipe 16 0 5 0 2 0)) ∧ (holding (pipe 16 0 5 0 2 0)).dev.has (pipe 16 0 5 0 2 0) = true ∧
    16 ≤ u8 (pipe 16 0 5 0 2 0).body 0 := by decide +kernel
theorem witness_PipelineBlocks_stale : (holding (pipe 15 0 5 0 2 0)).dev.has (pipe 15 0 5 0 2 0) = true ∧
    ((holding (pipe 15 0 5 0 2 0)).dev.takePacket (pipe 15 0 5 0 2 0)).active (hngPage 15) = false := by decide +kernel
theorem witness_PipelineBlocks_source : atHinge (pipe 15 0 5 0 3 0) = true ∧ u16 (pipe 15 0 5 0 3 0).body 6 ≠
    ((holding (pipe 15 0 5 0 3 0) hinged).dev.takePacket (pipe 15 0 5 0 3 0)).fld (Reg.hngSource 15) 15 0 := by decide +kernel
theorem witness_PipelineBlocks_order : atHinge (pipe 15 0 4 0 2 0) = true ∧ u16 (pipe 15 0 4 0 2 0).body 6 =
    ((holding (pipe 15 0 4 0 2 0) hinged).dev.takePacket (pipe 15 0 4 0 2 0)).fld (Reg.hngSource 15) 15 0 ∧
    4 < (((holding (pipe 15 0 4 0 2 0) hinged).dev.takePacket (pipe 15 0 4 0 2 0)).hinge 15).next := by decide +kernel
theorem witness_PipelineBlocks_good : atHinge (pipe 15 1 5 0 2 232) = true ∧
    (((holding (pipe 15 1 5 0 2 232) hinged).dev.takePacket (pipe 15 1 5 0 2 232)).hinge 15).next ≤ 5 ∧
    (((holding (pipe 15 1 5 0 2 232) hinged).dev.takePacket (pipe 15 1 5 0 2 232)).hinge 15).held = [] ∧
    (((holding (pipe 15 1 5 0 2 232) hinged).dev.takePacket (pipe 15 1 5 0 2 232)).hinge 15).landings = [] ∧
    decide (232 % 232 = 0 ∧ 232 < (holding (pipe 15 1 5 0 2 232) hinged).dev.hngBytes 15 ∧
      (u8 (pipe 15 1 5 0 2 232).body 1).testBit 0 =
        decide ((holding (pipe 15 1 5 0 2 232) hinged).dev.hngBytes 15 ≤ 232 + 232)) = true ∧
    u32 (pipe 15 0 5 0 2 1).body 8 % 232 ≠ 0 := by decide +kernel

/-- The slot of micro-batch 5 holds micro-batch 7, in a ring of two. -/
def occupied (d : Dev) : Dev := (hinged d).setHinge 15 { (hinged d).hinge 15 with held := [7] }
theorem witness_PipelineBlocks_taken : (holding (pipe 15 1 5 0 2 232) occupied).dev.has (pipe 15 1 5 0 2 232) = true ∧
    (holding (pipe 15 1 5 0 2 232) occupied).dev.active (hngPage 15) = true ∧
    ((((holding (pipe 15 1 5 0 2 232) occupied).dev.hinge 15).held).any fun x => x != 5 &&
      x % max 1 ((holding (pipe 15 1 5 0 2 232) occupied).dev.hngSlotCount 15) ==
        5 % max 1 ((holding (pipe 15 1 5 0 2 232) occupied).dev.hngSlotCount 15)) = true := by decide +kernel
theorem witness_PipelineBlocks_range : ∀ i, i < 256 → offLogbook (0x100000 + i) 1 := by
  have h : ∀ i ∈ List.range 256, regionOf (0x100000 + i) ≠ .logbook := by decide +kernel
  intro i hi j hj
  rw [show j = 0 by omega]
  exact h i (List.mem_range.mpr hi)

/-! The fabric. -/

/-- Hart `h` makes accesses. -/
abbrev Live (s : State) (h : Nat) : Prop := (s.liveHart h).isSome = true

/-- The package has number 5. -/
def numbered (f : Dev → Dev := id) : State := machine fun d => f (d.setFld Reg.chtPackage 15 0 5)

theorem witness_FabricPorts_enable : Good (numbered) ∧ Live numbered 24 ∧ numbered.dev.number ≠ 0xFFFF ∧
    numbered.dev.halted = false ∧ numbered.dev.flag (Reg.fabCtrl 35) 0 = false ∧ bit 1#32 0 = true := by decide +kernel

/-- Port 35 trains. -/
def training (n : Nat) : State := numbered fun d => (put d (fabPage 35) 1).setPort 35 fun p => { p with attempts := n }

theorem witness_FabricPorts_trained : Good (training 0) ∧ (training 0).dev.ready (fabPage 35) = true ∧
    ((training 0).dev.port 35).retraining = false ∧ 65534 ≠ (training 0).dev.number ∧ (training 0).dev.number = 5 := by decide +kernel
theorem witness_FabricPorts_failed : Good (training 2) ∧ (training 2).dev.ready (fabPage 35) = true ∧
    (training 2).dev.halted = false ∧ 2 ≤ ((training 2).dev.port 35).attempts ∧ ((training 1).dev.port 35).attempts < 2 ∧
    ((training 2).dev.port 35).retraining = false ∧ 35 < (training 2).dev.ports.length := by decide +kernel

/-- Port 35 ACTIVE with what it holds. -/
def linked (f : Port → Port := id) (g : Dev → Dev := id) : State := numbered fun d => g ((put d (fabPage 35) 2).setPort 35 f)

theorem witness_FabricPorts_active : Good linked ∧ linked.dev.active (fabPage 35) = true ∧ 0x80#8 ≠ 0#8 := by decide +kernel

/-- A block of class 4 with its SEQ and destination. -/
def someBlock (seq dest : Nat) : Block := mkBlock ⟨4, true, false, 0, 0, seq, 2, dest, 0, 0⟩ (List.replicate 244 3#8)

theorem witness_LinkProtocol_bad : Good linked ∧ linked.dev.linked 35 = true ∧ blockGood 0#2048 = false ∧
    35 < linked.dev.ports.length ∧ ([[0#8]].map fecCorrected).length = 1 := by decide +kernel
theorem witness_LinkProtocol_seq : blockGood (someBlock 4095 5) = true ∧ (hdrOf (someBlock 4095 5)).seq ≠ (linked.dev.port 35).rxSeq ∧
    (linked.dev.port 35).nak = false ∧ ((linked fun p => { p with nak := true }).dev.port 35).nak = true ∧
    (linked fun p => { p with nak := true }).dev.linked 35 = true := by decide +kernel
theorem witness_LinkProtocol_mine : Good (linked fun p => { p with rxSeq := 4095 }) ∧
    (linked fun p => { p with rxSeq := 4095 }).dev.linked 35 = true ∧ (hdrOf (someBlock 4095 5)).seq =
      ((linked fun p => { p with rxSeq := 4095 }).dev.port 35).rxSeq ∧
    (hdrOf (someBlock 4095 5)).dest = (linked fun p => { p with rxSeq := 4095 }).dev.number := by decide +kernel
theorem witness_LinkProtocol_other : blockGood (someBlock 0 6) = true ∧ (hdrOf (someBlock 0 6)).seq = (linked.dev.port 35).rxSeq ∧
    (hdrOf (someBlock 0 6)).dest ≠ linked.dev.number := by decide +kernel

/-! Remote writes. -/

/-- A posting ring of 16 places whose head and tail stand there. -/
def posting (head tail : Nat) (r : Option PostRun) : State := machine fun d =>
  { ((d.setFld Reg.chtPostSize 15 0 4).setFld Reg.chtPostHead 15 0 head).setFld Reg.chtPostTail 15 0 tail with
    cht := { d.cht with post := r } }

theorem witness_RemoteWrites_tail : Good (posting 15 15 none) ∧ Live (posting 15 15 none) 24 ∧
    (posting 15 15 none).dev.postSize ≤ bits 16#32 15 0 ∧ bits 15#32 15 0 < (posting 15 15 none).dev.postSize := by decide +kernel
theorem witness_RemoteWrites_waits : Live (posting 0 1 (some ⟨3, false⟩)) 24 ∧
    bits 15#32 15 0 < (posting 0 1 (some ⟨3, false⟩)).dev.postSize ∧ (posting 0 1 (some ⟨3, false⟩)).dev.cht.post.isSome = true := by
  decide +kernel
theorem witness_RemoteWrites_acked : Good (posting 15 0 (some ⟨3, false⟩)) ∧ (posting 15 0 (some ⟨3, false⟩)).dev.unacked 3 = false ∧
    ((posting 15 0 (some ⟨3, false⟩)).dev.postHead + 1) % (posting 15 0 (some ⟨3, false⟩)).dev.postSize =
      (posting 15 0 (some ⟨3, false⟩)).dev.postTail := by decide +kernel

/-- The engine idle with a descriptor to post, class 4 governed, and whether the descriptor is good. -/
def ready4 (good : Bool) : State := machine fun d =>
  ((((d.setFld Reg.chtPostSize 15 0 4).setFld Reg.chtGovern 19 16 8).setPair Reg.chtPostBaseLo 0x100000).writeAt 0x100004
    (natBytes 4 (if good then 4 else 5) ++ natBytes 8 0x200000 ++ natBytes 8 0x300000))

theorem witness_RemoteWrites_posts : ∀ good, Good (ready4 good) ∧ Live (ready4 good) 24 ∧
    bits 1#32 15 0 < (ready4 good).dev.postSize ∧
    (((ready4 good).dev.found [] []).store Reg.chtPostTail 1#32).cht.post = none ∧
    (((ready4 good).dev.found [] []).store Reg.chtPostTail 1#32).postHead ≠
      (((ready4 good).dev.found [] []).store Reg.chtPostTail 1#32).postTail ∧
    ((((ready4 good).dev.found [] []).store Reg.chtPostTail 1#32).governLive 4).isSome = true ∧
    (((ready4 good).dev.found [] []).store Reg.chtPostTail 1#32).postsHeld = false ∧
    postBad (readBytes (ready4 good).dev.src (((ready4 good).dev.pair Reg.chtPostBaseLo)) 32) = !good := by decide +kernel

/-- A block of a remote write: 228 bytes to an address, not the last. -/
def someWrite (a : Nat) : Packet := ⟨36, 2, 4, 0, 0, natBytes 8 a ++ List.replicate 8 0#8 ++ List.replicate 228 7#8 ++ [0#8]⟩

/-- A window of one mebibyte at 1 MiB. -/
def windowed (a : Nat) : State :=
  holding (someWrite a) fun d => (d.setPair Reg.chtRwBaseLo 0x100000).setFld Reg.chtRwSize 19 0 1

theorem witness_RemoteWrites_window : Good (windowed 0x1FFF1C) ∧ (windowed 0x1FFF1C).dev.has (someWrite 0x1FFF1C) = true ∧
    u8 (someWrite 0x1FFF1C).body 244 ≠ 1 ∧ mapped 0x1FFF1C 228 = true ∧ u64 (someWrite 0x1FFF1C).body 0 = 0x1FFF1C ∧
    (windowed 0x1FFF1C).dev.pair Reg.chtRwBaseLo ≤ 0x1FFF1C ∧
    0x1FFF1C + 228 ≤ (windowed 0x1FFF1C).dev.pair Reg.chtRwBaseLo + 0x100000 * (windowed 0x1FFF1C).dev.fld Reg.chtRwSize 19 0 := by
  decide +kernel
theorem witness_RemoteWrites_outside : Good (windowed 0xFFFFF) ∧ (windowed 0xFFFFF).dev.has (someWrite 0xFFFFF) = true ∧
    u64 (someWrite 0xFFFFF).body 0 < (windowed 0xFFFFF).dev.pair Reg.chtRwBaseLo := by decide +kernel

/-- The last block of a remote write, to its window's start: with its LENGTH, and without one. -/
def lastWrite (n : List Byte) : Packet :=
  ⟨36, 2, 4, 0, 0, natBytes 8 0x100000 ++ [1#8, 15#8] ++ List.replicate 6 0#8 ++ List.replicate 228 7#8 ++ [1#8] ++ n⟩
def lastWindow (n : List Byte) : State :=
  holding (lastWrite n) fun d => (d.setPair Reg.chtRwBaseLo 0x100000).setFld Reg.chtRwSize 19 0 1

theorem witness_RemoteWrites_last : Good (lastWindow [4#8]) ∧ (lastWindow [4#8]).dev.has (lastWrite [4#8]) = true ∧
    u8 (lastWrite [4#8]).body 244 = 1 ∧ ((lastWrite [4#8]).body[245]?).map BitVec.toNat = some 4 ∧ mapped 0x100000 4 = true ∧
    u64 (lastWrite [4#8]).body 0 = 0x100000 ∧ (lastWindow [4#8]).dev.pair Reg.chtRwBaseLo ≤ 0x100000 ∧
    (lastWindow [4#8]).dev.cht.discardedWrites.contains (2, 0) = false ∧ u8 (lastWrite [4#8]).body 9 < 16 ∧
    u8 (lastWrite [4#8]).body 8 < 2 := by decide +kernel
theorem witness_RemoteWrites_open : Good (lastWindow []) ∧ (lastWindow []).dev.has (lastWrite []) = true ∧
    (lastWrite []).body[245]? = none ∧ u8 (lastWrite []).body 244 = 1 ∧ mapped 0x100000 228 = true ∧
    0x100000 + 228 ≤ (lastWindow []).dev.pair Reg.chtRwBaseLo + 0x100000 * (lastWindow []).dev.fld Reg.chtRwSize 19 0 := by
  decide +kernel

/-- A captured block of no data from package 2, in mode WITNESS: its class and its CRC. -/
def replaying (cls crc : Nat) : State := machine fun d =>
  (((((d.setFld Reg.skyCtrl 5 4 1).setFld Reg.skyAssume 15 0 5).setPair Reg.skyCaptureBaseLo 0x100000).setFld Reg.skyCaptureSlot 23 0 1).writeAt
    0x100000 (hdrBytes ⟨cls, true, false, 0, 0, 0, 2, 5, 0, 0⟩)).writeAt 0x1000FC (natBytes 4 crc)

theorem witness_RemoteWrites_replay_control : Good (replaying 0 0xFEF2AD5E) ∧ (replaying 0 0xFEF2AD5E).dev.skyMode ≠ 0 ∧
    ((replaying 0 0xFEF2AD5E).dev.capturedBlock.map fun b => (hdrOf b).cls) = some 0 := by decide +kernel
theorem witness_RemoteWrites_replay : Good (replaying 2 0xF9015D98) ∧ ((replaying 2 0xF9015D98).dev.capturedBlock.map fun b => (hdrOf b).cls) = some 2 ∧
    (replaying 2 0xF9015D98).dev.skyMode ≠ 0 ∧
    ((replaying 2 0xF9015D98).dev.cht.loop.filter fun m => m.cls = 2).length < 512 := by decide +kernel

/-! Charts. -/

/-- A Chart of package 5 alone, at 1 MiB; its version. -/
def chartImage (version : Nat) : List Byte :=
  natBytes 2 version ++ natBytes 1 1 ++ List.replicate 5 0#8 ++ natBytes 4 1 ++ List.replicate 12 0#8 ++ natBytes 4 128 ++
    List.replicate 36 0#8 ++ natBytes 4 0xFFFF0005 ++ List.replicate 60 0#8
def charted (version : Nat) : State := numbered fun d =>
  (((d.setPair Reg.chtLoadLo 0x100000).setFld Reg.skyAssume 15 0 5).writeAt 0x100000 (chartImage version))

theorem witness_ChartsLoad_number : Good State.reset ∧ Live State.reset 24 ∧ State.reset.dev.cht.numbered = false ∧
    (machine fun d => { d with cht := { d.cht with numbered := true } }).dev.cht.numbered = true := by decide +kernel
theorem witness_ChartsLoad_live : Good (charted 1) ∧ Live (charted 1) 24 ∧ bits 0x107#32 2 0 = 7 ∧ bit 0x107#32 9 = false ∧
    bit 0x107#32 8 = true ∧ (((charted 1).dev.found [] []).readChart (((charted 1).dev.found [] []).pair Reg.chtLoadLo)
      (some (charted 1).dev.number) (governs ((charted 1).dev.reg Reg.chtGovern) 7)).1 = 0 := by decide +kernel
theorem witness_ChartsLoad_rejected : Good (charted 2) ∧
    (((charted 2).dev.found [] []).readChart (((charted 2).dev.found [] []).pair Reg.chtLoadLo) (some (charted 2).dev.number)
      (governs ((charted 2).dev.reg Reg.chtGovern) 7)).1 = 1 := by decide +kernel
theorem witness_ChartsLoad_replay : bit 0x307#32 9 = true ∧ bit 0x307#32 8 = true ∧ (charted 1).dev.fld Reg.skyAssume 15 0 ≠ 0xFFFF ∧
    (((charted 1).dev.found [] []).readChart (((charted 1).dev.found [] []).pair Reg.chtLoadLo)
      (some ((charted 1).dev.fld Reg.skyAssume 15 0)) ((charted 1).dev.skyMode == 1 && governs (charted 1).dev.cht.govReplay 7)).1 = 0 ∧
    (((charted 2).dev.found [] []).readChart (((charted 2).dev.found [] []).pair Reg.chtLoadLo)
      (some ((charted 2).dev.fld Reg.skyAssume 15 0)) ((charted 2).dev.skyMode == 1 && governs (charted 2).dev.cht.govReplay 7)).1 = 1 := by
  decide +kernel
theorem witness_ChartsLoad_rest : bit 0x007#32 8 = false ∧ bit 0x007#32 9 = false ∧ bit 0x207#32 8 = false ∧ bit 0x207#32 9 = true := by
  decide

/-! State requests. -/

/-- A page in a state, GEN at its largest, with the state it is held for. -/
def paged (p : Page) (c pending : Nat) : State :=
  machine fun d => ((put d p c).setFld (stateReg p) 15 8 255).setFld (stateReg p) 23 20 pending

theorem witness_StateRequests_stale : Good (paged hubPage 1 0) ∧ Live (paged hubPage 1 0) 24 ∧
    (paged hubPage 1 0).reaches 24 hubPage true = true ∧ (254#8).toNat ≠ (paged hubPage 1 0).dev.fld (stateReg hubPage) 15 8 := by
  decide +kernel
theorem witness_StateRequests_refused : (255#8).toNat = (paged hubPage 3 1).dev.fld (stateReg hubPage) 15 8 ∧
    (paged hubPage 3 1).dev.fld (stateReg hubPage) 23 20 ≠ 0 ∧ (pageRequestable PageType.die).contains 2 = false := by decide +kernel
theorem witness_StateRequests_active : Good (paged hubPage 1 0) ∧ (255#8).toNat = (paged hubPage 1 0).dev.fld (stateReg hubPage) 15 8 ∧
    (paged hubPage 1 0).dev.fld (stateReg hubPage) 23 20 = 0 ∧ (pageRequestable hubPage.type).contains 2 = true ∧
    (paged hubPage 1 0).dev.code hubPage = 1 ∧ (paged hubPage 1 0).dev.activeOk hubPage = true := by decide +kernel
theorem witness_StateRequests_quarantine : (pageRequestable PageType.hub).contains 6 = true ∧
    (paged hubPage 1 0).dev.code hubPage = 1 ∧ (paged hubPage 1 0).dev.fld (stateReg hubPage) 23 20 = 0 := by
  decide +kernel
theorem witness_StateRequests_ready : (pageRequestable PageType.sky).contains 1 = true ∧ (paged skyPage 2 0).dev.code skyPage = 2 ∧
    (paged skyPage 2 0).dev.fld (stateReg skyPage) 23 20 = 0 := by decide +kernel
theorem witness_StateRequests_draining : (pageRequestable PageType.hng).contains 3 = true ∧
    (paged (hngPage 15) 2 0).dev.code (hngPage 15) = 2 ∧ (paged (hngPage 15) 7 0).dev.code (hngPage 15) = 7 := by decide +kernel
theorem witness_StateRequests_held : (pageRequestable PageType.hng).contains 1 = true ∧ (paged (hngPage 15) 3 0).dev.code (hngPage 15) = 3 ∧
    (paged (hngPage 15) 3 0).dev.readyOk (hngPage 15) = false := by decide +kernel
theorem witness_StateRequests_drained : Good (paged (hngPage 15) 3 0) ∧ Good (paged (hngPage 15) 3 1) ∧
    (paged (hngPage 15) 3 1).dev.drained.contains (pageKey (hngPage 15)) = false ∧
    (paged (hngPage 15) 3 1).dev.drainOver (hngPage 15) = true ∧ (paged (hngPage 15) 3 1).dev.sky.rollback = false ∧
    15 < pageInstances (hngPage 15).type ∧ (paged (hngPage 15) 3 1).dev.fld (stateReg (hngPage 15)) 23 20 = 1 ∧
    (paged (hngPage 15) 3 0).dev.fld (stateReg (hngPage 15)) 23 20 = 0 := by decide +kernel

/-! Registers. -/

/-- A request for core 307,199, whose generation is 255. -/
def coreNext (c : Nat) : State := machine fun d =>
  (d.setFld Reg.chkCoreSel 18 0 307199).setCore 307199 ⟨c, 255, 0, false⟩

theorem witness_WritesWithEffects_core : Good (coreNext 4) ∧ Live (coreNext 4) 24 ∧ (coreNext 4).dev.fld Reg.chkCoreSel 18 0 = 307199 ∧
    bits 0xFE05#32 15 8 ≠ ((coreNext 4).dev.core 307199).gen ∧ bits 0xFF05#32 15 8 = ((coreNext 4).dev.core 307199).gen ∧
    bits 0xFF05#32 3 0 = 5 ∧ (coreNext 4).dev.coreState (coreNext 4).fuse 307199 = 4 := by decide +kernel

/-- Slot 1 of the ring pinned. -/
def pinnedRing : State := machine fun d => (d.setFld Reg.hlmRingState 7 4 4).setFld Reg.hlmRingCur 11 8 9

theorem witness_WritesWithEffects_pin : Good State.reset ∧ bit 0x100#32 8 = true ∧ bit 0x100#32 9 = false ∧ State.reset.dev.pinned = none := by
  decide +kernel
theorem witness_WritesWithEffects_unpin : Good pinnedRing ∧ Live pinnedRing 24 ∧ bit 0x200#32 9 = true ∧ pinnedRing.dev.pinned = some 1 ∧
    pinnedRing.dev.slotState 1 = 4 := by decide +kernel
theorem witness_WritesWithEffects_sizes : State.reset.dev.ready cmpPage = true ∧
    (State.reset.dev.store Reg.cmpTrackRecord 1#32).reg Reg.cmpTrackRecord ≠ 0#32 ∧ State.reset.dev.ready hlmPage = true ∧
    bits 1#32 23 0 ≠ 0 := by decide +kernel

/-- The interface versions 2 to 3 are on offer. -/
def versions : State := machine fun d => (d.setFld Reg.hubIfaceAgree 11 8 2).setFld Reg.hubIfaceAgree 15 12 3

theorem witness_WritesWithEffects_offer : Good versions ∧ versions.dev.fld Reg.hubIfaceAgree 17 16 = 0 ∧ bits 2#32 3 0 ≠ 0 ∧
    versions.dev.fld Reg.hubIfaceAgree 11 8 ≤ bits 2#32 3 0 ∧ bits 1#32 3 0 < max 1 (versions.dev.fld Reg.hubIfaceAgree 11 8) ∧
    (machine fun d => d.setFld Reg.hubIfaceAgree 17 16 1).dev.fld Reg.hubIfaceAgree 17 16 ≠ 0 := by decide +kernel

/-- The register of a page at an offset. -/
def at' (p : Page) (off : Nat) : Nat := pageAddr p.type p.inst + off

theorem witness_RegisterAccesses_write : Good State.reset ∧ Live State.reset 24 ∧ pageOf Reg.chtLoadLo = some (chtPage, 0x044) ∧
    Reg.chtLoadLo % 4 = 0 ∧ Reg.chtLoadLo < pageWindow ∧ State.reset.reaches 24 chtPage true = true ∧
    ownRow chtPage 0x044 0#32 = false ∧ Reg.chtLoadLo ≠ Reg.logDrainedLo ∧ Reg.chtLoadLo ≠ Reg.thmCfg ∧
    Reg.chtLoadLo ≠ Reg.chtPostHead ∧ [Reg.pwrCap, Reg.pwrClkLimits, Reg.thmAlertCap].contains Reg.chtLoadLo = false ∧
    ownRead chtPage 0x044 = false ∧ State.reset.reaches 24 chtPage false = true ∧
    ((fieldsAt Reg.chtLoadLo).any fun f => f.acc == .rw && State.reset.dev.takesWrite Reg.chtLoadLo f.lo) = true := by
  decide +kernel
theorem witness_RegisterAccesses_flag : ((fieldsAt Reg.logStatus).any fun f => f.acc == .w1c && State.reset.dev.takesWrite Reg.logStatus f.lo) = true ∧
    pageOf Reg.logStatus = some (logPage, 0x058) ∧ ownRow logPage 0x058 0xFF#32 = false := by decide +kernel
theorem witness_RegisterAccesses_more : pageOf Reg.logDrainedLo = some (logPage, Reg.logDrainedLo - pageAddr .log 0) ∧
    pageOf Reg.thmCfg = some (page1 .thm, Reg.thmCfg - pageAddr .thm 0) ∧ pageOf Reg.pwrCap = some (pwrPage, Reg.pwrCap - pageAddr .pwr 0) ∧
    pageOf Reg.chtPostHead = some (chtPage, Reg.chtPostHead - pageAddr .cht 0) ∧
    pageOf (stateReg chtPage + 4) = some (chtPage, 0x018) ∧ ownRow chtPage 0x018 0x0004#32 = false := by decide +kernel
/-- Hart 0 released behind its protection. -/
def protectedHart : State := { machine (put · hubPage 1) with harts := State.reset.harts.set 0 { Hart.reset true with pmp := [serviceRegion, secWindow] } }
theorem witness_RegisterAccesses_closed : Good protectedHart ∧ Live protectedHart 0 ∧
    protectedHart.reaches 0 secPage true = false ∧ protectedHart.reaches 0 chtPage true = true ∧
    serviceRegion ≠ secWindow ∧ serviceRegion.lo ≤ 0x500037FFFFF ∧ 0x500037FFFFF < serviceRegion.hi := by decide +kernel
theorem witness_RegisterAccesses_event : eventBits ⟨.seq, 1⟩ 0x10#32 = [4] := by decide +kernel
theorem witness_RegisterAccesses_absent : pageOf 0xFFFFFFFFC = none ∧ 0xFFFFFFFFC % 4 = 0 ∧ 0xFFFFFFFFC < pageWindow := by decide +kernel
theorem witness_RegisterAccesses_fault : hartRange 0x12000000000 = none ∧ hartRange 0x11FFFFFFFFF = some .dram ∧
    hartRange 0x50010000000 = some .bootRom ∧ hartRange (windowBase + 0x1000002) = some .pages ∧
    (windowBase + 0x1000002) % 4 ≠ 0 ∧ State.reset.accessFaults 24 (windowBase + 0x1000002) 4 false = true ∧
    State.reset.accessFaults 24 (windowBase + 0x1000000) 4 false = false := by decide +kernel

/-! The Logbook and the time base. -/

/-- Records written to offset 64 of which 32 bytes are drained and the reader stands at an offset. -/
def logged (out : Nat) (f : Dev → Dev := id) : State := machine fun d =>
  f { (put d logPage 2).setPair Reg.logWriteLo 64 |>.setPair Reg.logDrainedLo 32 with
    log := { d.log with nextOut := out, drainedLo := 64#32 } }

theorem witness_LogbookReading_next : Good (logged 56) ∧ Live (logged 56) 24 ∧ (logged 56).dev.log.nextOut < (logged 56).dev.pair Reg.logWriteLo ∧
    (logged 64).dev.pair Reg.logWriteLo ≤ (logged 64).dev.log.nextOut := by decide +kernel
theorem witness_LogbookReading_drained : Good (logged 64) ∧
    (logged 64).dev.pair Reg.logDrainedLo ≤ 0x100000000 * (0#32).toNat + (logged 64).dev.log.drainedLo.toNat ∧
    0x100000000 * (0#32).toNat + (logged 64).dev.log.drainedLo.toNat ≤ (logged 64).dev.pair Reg.logWriteLo ∧
    (0x100000000 * (0#32).toNat + (logged 64).dev.log.drainedLo.toNat) % 8 = 0 ∧
    (logged 64).dev.pair Reg.logWriteLo < 0x100000000 * (1#32).toNat + (logged 64).dev.log.drainedLo.toNat := by decide +kernel

/-- The package at shed level 3 and idle. -/
def parked (f : Dev → Dev := id) : State := logged 64 fun d => f { d with pwr := { d.pwr with level := 3 } }

theorem witness_LogbookReading_spill : Good parked ∧ parked.dev.parked = true ∧ parked.dev.active logPage = true ∧
    (logged 64).dev.parked = false := by decide +kernel
theorem witness_LogbookReading_spilling : Good (parked fun d => { d with log := { d.log with spilling := true } }) ∧
    (parked fun d => { d with log := { d.log with spilling := true } }).dev.log.spilling = true ∧
    (parked fun d => { d with log := { d.log with spilling := true } }).dev.fld (stateReg logPage) 23 20 ≠ 1 := by decide +kernel

/-- Both links of the management up. -/
def managed (f : Dev → Dev := id) : State := machine fun d => f { d with mgt := { d.mgt with up := [true, true] } }

theorem witness_TimeBase_message : Good (managed (put · mgtPage 2)) ∧ (managed (put · mgtPage 2)).dev.active mgtPage = true ∧
    (managed (put · mgtPage 2)).dev.fld Reg.mgtPtpCtrl 0 0 = 0 ∧ (managed (put · mgtPage 2)).dev.mgt.up.getD 0 false = true ∧
    (1 : Nat) ≠ (managed (put · mgtPage 2)).dev.fld Reg.mgtPtpCtrl 0 0 ∧ managed.dev.active mgtPage = false ∧ bit 1#32 1 = false ∧
    managed.dev.fld Reg.mgtPtpCtrl 0 0 ≠ bits 1#32 0 0 ∧ managed.dev.fld Reg.mgtPtpCtrl 0 0 = bits 2#32 0 0 := by decide +kernel
theorem witness_TimeBase_edge : Good (machine fun d => d.setFlag Reg.mgtPtpCtrl 1 true) ∧
    (machine fun d => d.setFlag Reg.mgtPtpCtrl 1 true).dev.flag Reg.mgtPtpCtrl 1 = true ∧
    State.reset.dev.flag Reg.mgtPtpCtrl 1 = false := by decide +kernel

/-! Mailboxes, interrupts and inputs. -/

/-- Mailbox 31, hart 24's, with packets in it. -/
def mailed (owner n : Nat) : State :=
  { State.reset with mbx := State.reset.mbx.set 31 ⟨owner, List.replicate n ⟨1#32, 2#32, 3⟩, 0#32, 0#32, false, false⟩ }

theorem witness_Mailboxes : Good (mailed 24 63) ∧ Live (mailed 24 63) 24 ∧
    ((mailed 24 63).mbx[31]?.map fun b => (b.packets.length, b.owner)) = some (63, 24) ∧
    ((mailed 24 63).harts[24]?.map fun h => Assoc.wf stagedWord h.staged) = some true := by decide +kernel
theorem witness_Mailboxes_full : ((mailed 24 64).mbx[31]?.map fun b => b.packets.length) = some 64 := by decide +kernel
theorem witness_Mailboxes_empty : ((mailed 24 0).mbx[31]?.map fun b => (b.packets, b.owner)) = some ([], 24) ∧
    ((mailed 3 1).mbx[31]?.map fun b => b.owner) ≠ some 24 ∧ bits 27#32 4 0 < 28 := by decide +kernel

/-- Source 255 pending at priority 15 for hart 24, which has claimed others. -/
def interrupted (claims : List Claim) : State :=
  { machine fun d => ((d.setFlag (Reg.irqPending 7) 31 true).setFld (Reg.irqPrio 31) 31 28 15).setFlag (Reg.irqGroupTarget 7) 24 true with
    claims := State.reset.claims.set 24 claims }

theorem witness_InterruptControl_claim : (interrupted [⟨7, 14⟩]).Sound ∧ Live (interrupted [⟨7, 14⟩]) 24 ∧
    (interrupted [⟨7, 14⟩]).offered 24 = some 255 :=
  ⟨⟨⟨by decide +kernel, by decide +kernel⟩, by decide +kernel, by unfold mailboxesSound; decide +kernel,
    by unfold claimsSound; decide +kernel⟩, by decide +kernel, by decide +kernel⟩
/-- Its group's hold-off set and not running. -/
theorem witness_InterruptControl_begin :
    ((interrupted []).dev.setFld (Reg.irqHoldoff 7) 15 0 5).fld (Reg.irqHoldoff 7) 15 0 ≠ 0 ∧
    (interrupted []).dev.irq.holdUntil[7]? = some 0 := by decide +kernel
theorem witness_InterruptControl_none : State.reset.offered 24 = none := by decide +kernel
theorem witness_InterruptControl_complete : (interrupted [⟨7, 14⟩]).claims[24]? = some [⟨7, 14⟩] ∧ bits 7#32 9 0 = 7 ∧
    bits 8#32 9 0 ≠ 7 := by decide +kernel
theorem witness_InterruptControl_trigger : 224 ≤ bits 255#32 9 0 ∧ bits 255#32 9 0 ≤ 255 ∧ bits 223#32 9 0 < 224 := by decide +kernel

/-- Group 31 in hold-off. -/
def holdingOff (t : Nat) : State := machine fun d => later t { d with irq := { d.irq with holdUntil := d.irq.holdUntil.set 31 1000 } }

theorem witness_InterruptControl_holdoff : (holdingOff 1000).Sound ∧ Live (holdingOff 1000) 24 ∧
    (holdingOff 1000).dev.irq.holdUntil[31]? = some 1000 ∧ 1000 ≤ (holdingOff 1000).dev.now ∧ (holdingOff 999).dev.now < 1000 :=
  ⟨⟨⟨by decide +kernel, by decide +kernel⟩, by decide +kernel, by unfold mailboxesSound; decide +kernel,
    by unfold claimsSound; decide +kernel⟩, by decide +kernel, by decide +kernel, by decide +kernel, by decide +kernel⟩

/-- Input 4 as it stands, at a time. -/
def input (x : ExtInput) (t : Nat) : State := machine fun d => later t (d.setInput 4 x)

theorem witness_ExternalInputs_raw : Good (input ⟨false, 0, false, 0, false⟩ 5) ∧
    (input ⟨false, 0, false, 0, false⟩ 5).dev.ext[4]? = some ⟨false, 0, false, 0, false⟩ ∧ false ≠ true := by decide +kernel
theorem witness_ExternalInputs_filtered : Good (input ⟨true, 0, false, 0, false⟩ 16000) ∧ true ≠ false ∧
    0 + us 16 ≤ (input ⟨true, 0, false, 0, false⟩ 16000).dev.now ∧ (input ⟨true, 0, false, 0, false⟩ 15999).dev.now < 0 + us 16 := by
  decide +kernel
theorem witness_ExternalInputs_stuck : 0 + ms (max 1 ((input ⟨true, 0, true, 0, false⟩ 1000000000).dev.fld (Reg.irqExtCfg 4) 15 0)) ≤
    (input ⟨true, 0, true, 0, false⟩ 1000000000).dev.now := by decide +kernel

/-! Management, reset and boot. -/

/-- A management session is open, in a state of the HUB page. -/
def session (n hub : Nat) : State := managed fun d => { put (put d mgtPage 2) hubPage hub with mgt := { d.mgt with up := [true, true], sessions := n } }

/-- A handshake that is admitted, with the resumption it may not ask for or without. -/
def hello (resumption : Bool) : TlsHello := ⟨1, [0x1302], [0x0018], [0x0804], resumption, true, true, [1#8]⟩

theorem witness_ManagementChannel_link : Good (session 7 1) ∧ (session 7 1).dev.mgt.up[1]? = some (!false) ∧
    (session 7 1).dev.mgtPortOn 1 = true ∧ (session 7 1).dev.channel = true ∧ (List.replicate 32 1#8).length = 32 := by decide +kernel
theorem witness_ManagementChannel_session : (session 7 1).dev.mgtPortOn (hello false).port = true ∧
    (session 7 1).dev.mgt.up.getD (hello false).port false = true ∧
    TlsHello.admitted (hello false) = true ∧ (session 7 1).dev.mgt.sessions < 8 ∧ TlsHello.admitted (hello true) = false ∧
    8 ≤ (session 8 1).dev.mgt.sessions := by decide +kernel

/-- The modulus of a key whose private half these tests know. -/
def someModulus : List Byte := [
  0xd15a965a0ca057a0d5c8188b84899a1c1d6db793b7df67637a6179355a8034af2cfd695d475dcaa8cda0f4460b6ed56e,
  0x069b8dd81e235a536c0a59a94b70233ef5fa43d0444f035f5507eed47160450f50f2ec4611cdc54b5294f5445a6489b8,
  0x82ad8f57839fe7535b883010816095903f963ebd3ef9ed496b6db5d2d715c32dbdca6b90ad1a55e06cd16384de96ca42,
  0x36289169ca26718c47bfb927edb43b44dcea61ca4e92e4c30fd2b4ed5b4a2389a79b4402036c74d326ebc5c5af137439,
  0x480581ab268159524f10af27a3593d1bdb9e1556a3ee09d18c4de65b5a6e1cf0b3eb38e17d9841cb0da4b9f8a0a0a07a,
  0x1d4cc856cadcc74c78eedd0f4a8beaf8552ed2ca2beb0b95c7fddd7b4cacfcfe4e1d0d4fa3c831528d6789440ad3163e,
  0x4b862db6ddd9de94fee64ad67570618f71232aee4f6e5be20b52ea6cfd3a4b39c5981d99d01655aba27ca812b88da98e,
  0x49fce00ec0ef0c691de8756743acada3aacc944cad0ec30669cb6bb9eb0dd9a98c93442a21a1cfa38e34b692adc7adcf].flatMap (beBytes 48)
def someKey : List Byte := someModulus ++ beBytes 4 65537
/-- Its signature of the token of `someToken`. -/
def tokenSignature : List Byte := [
  0x2574dee63cf65dd89247ca872920288aab6225d91804cb63d16b31ddea14870efde762dbb1b62d2266bb9385bd836b9b,
  0xd08031b04be8e77121b08e8065f7d36a1dd75ff25abb4a7e703e6e47b37386050771b8b801ec542866b09a371040481e,
  0x604390434a4afed01508b0e7ff6496262945ae7d8089032f8e1a1c67f597aede07c052986b1f39c9d744d072d37d2e66,
  0x59ccb0c95562bbf72af3a27cf94692693506ff851ea2f8827de3dba5f65eff000b584e8100f47ef71b2875024193254c,
  0xd2de37cf4ab971f69a5520af6a89004686769f80c66a31478448723e45bca175356a71b9b80216598041335f5a289781,
  0xc12395b595e71e7864b470d2640a1422e340a97cabfe4f0eaf44436545628b55e2971778cf8a93aa81a556cdbb9923ce,
  0xea51336b377f0246aab3e6ce49dccecfbe9944a713742403febb3f2237e19e232ae9fb74439314cdf774b377cf32372f,
  0x83b5e930f0f519b2a3bb9fcee40b83795b84b923cefd0c80c59a2d713ade402e9b9e9b413f0a676b98c3ac43b2305e2b].flatMap (beBytes 48)
/-- Its signature of the bundle of `someBundle`. -/
def bundleSignature : List Byte := [
  0x3877ce08bc5d9d3a8ff72025197241131ffbe04395310ca7708ab945846317082c514024bfecbdc2110223793b6b9f5c,
  0xa15f8166f8968ca23afbbe6d165d6fd1e7e9047516a2d63ff46fbbe98e3f2d03245e6fefcbdd8bfd1cd19af0d83f092e,
  0xb368776c1b53e272e18c5343e472f4135a86e9ba2b32ac2b6bfa02e917d3333a4947a63cf28de3d4cdc204ff33f1d197,
  0x176a296a1d912fb21d6e4cd170dbc610a2ea98b539ba0d57fbd7164c900b48d823e25b32a3bbbd64d63cd0bee6484abf,
  0x5d1437d709865699afbfc7e2b6e45236b9255f711ee8da7d38523cde493cc3e36777033c589263b02707b0811f1e0274,
  0x499a64abb2eed3c2d8e508a4d75fcb9d222640522359781cacac355d5ca25de3d64bf9ee2d3a3154cdc609c6441812dc,
  0x0382f61a6fb8766538e31322e48defdfd95b505ee848d022dc97fb4f3ab58664b5cf081eab1404018afdfd051d58866e,
  0x90f4087d4161272f8bec5df3f8be9c89cfd4bce022b9445e61ac70458198795d9da50c735edcad338eb7a816cf71da93].flatMap (beBytes 48)
/-- The package whose slot 0 trusts that key. -/
def trusting (s : State) : State := { s with fuse := { s.fuse with keyHash := [0xda8db891845aff20efa8f60dbb27e95002fe2ad06c4c7dd91dfe80f8ccbd1f6f#256, 0#256, 0#256] } }

/-- A token of that key: version 1, slot 0, the given scope, for the package of serial number 0 and its first nonce. -/
def someToken (scope : Nat) : List Byte :=
  [1#8, 0#8, 0#8, BitVec.ofNat 8 scope] ++ List.replicate 28 0#8 ++ someKey ++ tokenSignature

theorem test_token : (trusting (session 1 1)).tokenReason (someToken 3) = 0 := by decide +kernel
theorem witness_ManagementChannel_token : Good (trusting (session 1 1)) ∧ (trusting (session 1 1)).dev.channel = true ∧
    (trusting (session 1 1)).dev.flag Reg.secDebug 12 = false ∧ (trusting (session 1 2)).tokenReason [] ≠ 0 := by decide +kernel
theorem witness_ManagementChannel_locked : Good (machine fun d => (session 1 1).dev.setFlag Reg.secDebug 12 (d.now == 0)) ∧
    (machine fun d => (session 1 1).dev.setFlag Reg.secDebug 12 (d.now == 0)).dev.flag Reg.secDebug 12 = true := by decide +kernel

/-- A bundle of that key with one component, empty. -/
def someBundle : List Byte :=
  [1#8, 0#8, 0#8, 0#8, 0#8, 1#8, 0xA1#8, 0#8] ++ someKey ++ List.replicate 20 0#8 ++
    beBytes 32 0xe3b0c44298fc1c149afbf4c8996fb92427ae41e4649b934ca495991b7852b855 ++ bundleSignature

/-- Recovery mode. -/
def recovering : State := trusting (managed fun d =>
  { d with boot := { d.boot with recovery := true }, mgt := { d.mgt with up := [true, false], sessions := 1 } })

theorem test_bundle : (bundleOf someBundle).checkAll recovering.fuse = 0 := by decide +kernel
theorem witness_ResetsStartAfresh_bundle : recovering.carrier.refclk = true ∧ recovering.carrier.phase = .running ∧
    recovering.dev.boot.recovery = true ∧ recovering.dev.mgt.up.getD 0 false = true ∧ 0 < recovering.dev.mgt.sessions ∧
    (bundleOf []).checkAll recovering.fuse ≠ 0 := by
  decide +kernel

/-- The carrier in a phase since the time 0, at a time. -/
def carried (p : CarrierPhase) (t : Nat) : State :=
  { machine (later t) with carrier := { State.reset.carrier with phase := p, since := 0 } }

/-- So many microseconds of an input, and of the 1.8 V rail, in their ranges. -/
def steady (mv t : Nat) : List InputRun := [⟨mv, t⟩]
theorem witness_ResetsStartAfresh_release : (carried .softStart 4000000).carrier.phase = .softStart ∧
    0 + ms 4 ≤ (carried .softStart 4000000).dev.now ∧ (carried .held 2000000).carrier.phase = .held ∧
    0 + ms 2 ≤ (carried .held 2000000).dev.now ∧ (carried .softStart 4000000).carrier.refclk = true ∧
    AvgRun.holds inputInRange 2000 ((carried .softStart 4000000).sample (steady 46000 2003)).carrier.avg = true ∧
    railGood (steady 1746 2000) = true := by decide +kernel
theorem witness_ResetsStartAfresh_held : (carried .softStart 3999999).dev.now < 0 + ms 4 ∧ (carried .held 1999999).dev.now < 0 + ms 2 ∧
    AvgRun.holds inputInRange 2000 ((carried .held 2000000).sample (steady 45999 2003)).carrier.avg = false ∧
    railGood (steady 1745 2000) = false ∧ railGood (steady 1854 1999) = false := by decide +kernel
theorem witness_ResetsStartAfresh_request : (session 1 1).carrier.phase = .running ∧ (session 1 1).carrier.refclk = true ∧
    (session 1 1).dev.channel = true := by decide +kernel

/-- The boot in a stage. -/
def booting (n : Nat) (f : Dev → Dev := id) : State := machine fun d => f { d with boot := { d.boot with stage := n } }

theorem witness_BootStages_first : Good (booting 1) ∧ (booting 1).dev.code hubPage = 0 ∧ (booting 1).dev.boot.stage = 1 ∧
    (booting 1).fuse.parityGood = true ∧ ({ booting 1 with fuse := { Fuse.initial with parityGood := false } } : State).fuse.parityGood = false := by
  decide +kernel
theorem witness_BootStages_copy : Good (booting 2) ∧ (booting 2).dev.code hubPage = 0 ∧ (booting 2).chooseCopy = some false ∧
    ({ booting 2 with fuse := { Fuse.initial with revoked := 1#3 } } : State).chooseCopy = none := by decide +kernel
theorem witness_BootStages_stages : ∀ n ∈ [3, 5, 7, 8, 9], Good (booting n) ∧ (booting n).dev.code hubPage = 0 ∧
    (booting n).dev.boot.stage = n ∧ n ≤ 9 ∧ n ≠ 6 := by decide +kernel

/-- Every stack ACTIVE at stage 4. -/
def awake : State := booting 4 fun d => (List.range 24).foldl (fun d x => put d (memPage x) 2) d
theorem witness_BootStages_stacks : Good awake ∧ (∀ x, x < 24 → awake.dev.active (memPage x) = true) ∧
    (booting 4).dev.active (memPage 23) = false := by decide +kernel
theorem witness_BootStages_seal : Good (booting 6) ∧ ((booting 6).dev.flash.copy false).restGood = true ∧
    ((booting 6).dev.flash.copy false).readable = true ∧ (booting 6).dev.boot.copy.getD false = false ∧
    (({ (booting 6).dev.flash with copyA := { (booting 6).dev.flash.copyA with readable := false } } : Flash).copy false).readable = false ∧
    (booting 6).carrier.refclk = true ∧ (255 : Nat) < 256 := by decide +kernel
theorem witness_BootStages_stack : Good (booting 4) ∧ (booting 4).dev.boot.stage = 4 ∧ (booting 4).dev.ready (memPage 23) = true ∧
    0x3FFFFFF < 0x4000000 := by decide +kernel

/-! The carrier. -/

theorem witness_InsertionAndRemoval_debounce : (carried .debounce 10000000).latchOpen = false ∧
    (carried .debounce 10000000).carrier.phase = .debounce ∧ 0 + ms 10 ≤ (carried .debounce 10000000).dev.now ∧
    (carried .offRemoved 0).carrier.phase = .offRemoved ∧
    inputInRange ((carried .debounce 10000000).sample (steady 58000 4)).carrier.newestAvg = true ∧
    (carried .debounce 9999999).dev.now < 0 + ms 10 ∧
    inputInRange ((carried .debounce 10000000).sample (steady 58001 4)).carrier.newestAvg = false ∧
    ({ carried .debounce 0 with dev := (carried .debounce 0).dev.setInput 0 ⟨true, 0, true, 0, false⟩ } : State).latchOpen = true := by
  decide +kernel
theorem witness_InsertionAndRemoval_phases : (carried .unmated 0).carrier.phase = .unmated ∧ (carried .ramp 0).carrier.phase = .ramp ∧
    (carried .retryWait 1000000000).carrier.phase = .retryWait ∧ 0 + ms 1000 ≤ (carried .retryWait 1000000000).dev.now ∧
    (carried .retryWait 999999999).dev.now < 0 + ms 1000 ∧ (carried (.locked false) 0).carrier.phase = .locked false ∧
    CarrierPhase.debounce ≠ .dark ∧ CarrierPhase.debounce ≠ .locked false ∧ CarrierPhase.debounce.closed = false ∧
    CarrierPhase.softStart.closed = true ∧ (CarrierPhase.poweringOff 3).closed = true := by decide +kernel

/-- A quiesce that is over, the Logbook spilled; and a die as hot as its trip. -/
def quiesced : State := machine fun d => { d with pwr := { d.pwr with quiesced := true } }
def shed (n : Nat) (f : Dev → Dev := id) : State := machine fun d => f { d with pwr := { d.pwr with level := n } }
def tripping (c : TripCause) : State := machine fun d => match c with
  | .die _ => { d with pwr := { d.pwr with temps := d.pwr.temps.set 11 (d.fld Reg.thmCfg 15 8 : Nat) } }
  | .therm => d.setInput 3 ⟨true, 0, true, 0, false⟩

theorem witness_PowerOff_quiesce : quiesced.dev.quiesceOver = true ∧ quiesced.carrier.phase = .running ∧
    (shed 5).dev.pwr.quiesced = false ∧ (shed 5).dev.pwr.level = 5 ∧ (shed 4).dev.pwr.level = 4 ∧
    4 * (shed 4).dev.sagThreshold 4 ≤ (shed 4).carrier.newestAvg ∧ (shed 3).dev.quiesceOver = false ∧ (shed 3).sagOver = false := by
  decide +kernel
theorem witness_PowerOff_trip : (tripping (.die 11)).dev.trips (.die 11) = true ∧ (tripping .therm).dev.trips .therm = true := by
  decide +kernel
theorem witness_PowerOff_steps : (carried (.poweringOff 5) 1000000).carrier.phase = .poweringOff 5 ∧
    0 + ms 1 ≤ (carried (.poweringOff 5) 1000000).dev.now ∧ (carried (.poweringOff 5) 999999).dev.now < 0 + ms 1 ∧
    (carried .offTrip 10000000000).carrier.phase = .offTrip ∧ 0 + ms 10000 ≤ (carried .offTrip 10000000000).dev.now := by decide +kernel
theorem witness_PowerOff_sag : (carried .offSag 100000000).carrier.phase = .offSag ∧ 0 + ms 100 ≤ (carried .offSag 100000000).dev.now ∧
    (carried .offSag 100000000).dev.recovered ((carried .offSag 100000000).sample (steady 54000 100000)).carrier.avg 1 100000 = true ∧
    (carried .offSag 99999999).dev.now < 0 + ms 100 ∧
    (carried .offSag 100000000).dev.recovered ((carried .offSag 100000000).sample (steady 40000 4)).carrier.avg 1 100000 = false := by
  decide +kernel
theorem witness_PowerOff_rails : State.reset.railOff .hub 0 = true ∧ State.reset.railOff .hub (State.reset.railUv .hub) = false ∧
    Rail.base 0 ≠ .core 0 := by decide +kernel
theorem witness_PowerOff_core : (booting 4).carrier.phase = .running ∧ (booting 4).railOff (.core 2399) 0 = true := by
  have h : (booting 4).railUv (.core 2399) = (booting 4).dev.coreRailUv 2399 := rfl
  have h' : 550000 ≤ (booting 4).dev.coreRailUv 2399 := Nat.le_max_left ..
  refine ⟨rfl, ?_⟩
  unfold State.railOff
  simp [h]
  omega

theorem witness_SheddingAndQuiesce_level : Good (shed 4) ∧ (5 : Fin 6).val = (shed 4).dev.pwr.level + 1 ∧ (4 : Fin 6).val ≠ (shed 4).dev.pwr.level + 1 ∧
    AvgRun.holds (fun a => decide (a < 4 * (shed 4).dev.sagThreshold 5)) ((shed 4).dev.persistUs 5)
      ((shed 4).sample (steady 30000 1000)).carrier.avg = true ∧
    AvgRun.holds (fun a => decide (a < 4 * (shed 4).dev.sagThreshold 5)) ((shed 4).dev.persistUs 5)
      ((shed 4).sample (steady 54000 1000)).carrier.avg = false ∧
    3 < (shed 4).dev.pwr.level := by decide +kernel
theorem witness_SheddingAndQuiesce_leave : Good (shed 3) ∧ (shed 3).dev.pwr.level = 2 + 1 ∧
    ((shed 3).dev.input 1).level = false ∧
    (shed 3).dev.recovered ((shed 3).sample []).carrier.avg 1 (shed 3).dev.recoverUs = true ∧
    (shed 3).dev.recovered ((shed 3).sample (steady 40000 4)).carrier.avg 1 (shed 3).dev.recoverUs = false ∧
    (shed 1).dev.recovered ((shed 1).sample []).carrier.avg 1 (shed 1).dev.recoverUs = true := by decide +kernel
theorem witness_SheddingAndQuiesce_threshold : (shed 3).liveHart 24 ≠ none ∧ (sagRange 4).1 ≤ bits 38000#32 15 0 ∧ bits 38000#32 15 0 ≤ (sagRange 4).2 ∧
    (∀ n, n < 4 → (shed 3).dev.sagMv 4 38000#32 (n + 1) + 1000 ≤ (shed 3).dev.sagMv 4 38000#32 n) ∧
    bits 37999#32 15 0 < (sagRange 4).1 ∧ (sagRange 4).2 < bits 40001#32 15 0 := by decide +kernel
theorem witness_SheddingAndQuiesce_grace : Good (shed 0 fun d => { put d hubPage 1 with pwr := { d.pwr with graceFrom := some 0 } }) ∧
    (shed 0 fun d => { put d hubPage 1 with pwr := { d.pwr with graceFrom := some 0 } }).dev.pwr.graceFrom = some 0 ∧
    (shed 0 fun d => { put d hubPage 1 with pwr := { d.pwr with graceFrom := some 0 } }).dev.active hubPage = false := by decide +kernel

/-- The managers' pages ACTIVE, stack 23 scrubbed. -/
def managing (cap : Nat) : State := machine fun d =>
  (((put (put (put d pwrPage 2) thmPage 2) (memPage 23) 2).setFlag (Reg.memScrubCtrl 23) 0 true).setFld Reg.pwrCap 15 0 cap)

theorem witness_Managers : Good (managing 0) ∧ (managing 0).dev.active pwrPage = true ∧ (managing 0).dev.active thmPage = true ∧
    (managing 0).dev.effectiveCap < 65535 ∧ (managing 0).dev.active (memPage 23) = true ∧
    (managing 0).dev.flag (Reg.memScrubCtrl 23) 0 = true ∧ Assoc.wf scrubDefault (managing 0).dev.scrubAt = true ∧
    (managing 0).dev.scrubNext 23 = 0 ∧ 0 + 1 < scrubBlocks 23 ∧
    (machine fun d => { d with scrubAt := [(23, scrubBlocks 23 - 1)] }).dev.scrubNext 23 + 1 = scrubBlocks 23 ∧
    Assoc.wf scrubDefault (machine fun d => { d with scrubAt := [(23, scrubBlocks 23 - 1)] }).dev.scrubAt = true := by
  decide +kernel
theorem witness_Managers_sensors : (([[25, 95, -10]] : List (List Int)).getD 0 []).take 16 = [25, 95, -10] ∧
    ([25, 95, -10] : List Int).filter validTemp = [25, 95, -10] ∧ (∀ u, u ∈ ([25, 95, -10] : List Int) → u ≤ 95) ∧ (95 : Int) < 128 ∧
    (([] : List (List Int)).getD 11 []).filter validTemp = [] := by decide +kernel
theorem witness_Managers_throttle : State.reset.dev.throttleC ≤ 127 := by decide +kernel

/-! Rounding. -/

theorem witness_TumblerVector : ∃ t : Nat → Tumble, t 0 = ⟨0#32, 0#32, 0#32, 0#32⟩ ∧
    ∀ r, r < 4 → t (r + 1) = tumblerRound 0#32 (tumblerP.getD r 0) (tumblerQ.getD r 0) (tumblerC.getD r 0#32) (t r) :=
  ⟨fun n => Nat.rec ⟨0#32, 0#32, 0#32, 0#32⟩
    (fun r => tumblerRound 0#32 (tumblerP.getD r 0) (tumblerQ.getD r 0) (tumblerC.getD r 0#32)) n, rfl, fun _ _ => rfl⟩

/-! Worked values of the spec. -/

-- The E2M3 block of 02_number_formats.md: S = 3,361 and the block result 105.03125.
theorem test_block_result : mxBlockResult .e2m3 (MxKind.e2m3.dot [0x1F, 0x01, 0x34] [0x1F, 0x01, 0x0A]) 0x7F 0x80 0 0 = 0x42D21000#32 := by
  decide
-- Stochastic conversion to E2M3: scale byte 0x7E, 1.1796875 rounds up to 0x12 (0x11 under RNE), 3.0 becomes 0x1C.
def converted (m : ConvMode) : MxBlock := mxConvertBlock .e2m3 m 0 0 (f32 0x3F970000#32 :: f32 0x40400000#32 :: List.replicate 30 (f32 0#32))
theorem test_stochastic : ((converted (.stoch 0#64 0#32 0#32)).scale, (converted (.stoch 0#64 0#32 0#32)).codes.take 2) = (0x7E, [0x12, 0x1C]) := by
  decide +kernel
theorem test_nearest : ((converted .rne).scale, (converted .rne).codes.take 2) = (0x7E, [0x11, 0x1C]) := by decide +kernel
-- The tie of heritage rounding: 1 + 2^-8 to BF16.
theorem test_heritage_tie : fmtBF16.roundKw (f32 0x3F808000#32) = 0x3F81 ∧ f32ToBF16 0x3F808000#32 = 0x3F80#16 := by decide +kernel
-- The exact and the fast sum of 09_reductions.md.
theorem test_exact_sum : toF32 (.fin false 1073742000 (-6)) = 0x4B800001#32 := by decide +kernel
theorem test_fast_sum : fAdd (fAdd 0x4B800000#32 0x3F800000#32) (fAdd 0x3F800000#32 0x3F400000#32) = 0x4B800001#32 ∧
    fAdd (fAdd 0x4B800000#32 0x3F800000#32) 0x3F400000#32 = 0x4B800000#32 := by decide +kernel
-- Three empty blocks (14_logbook_and_replay.md), and a fourth.
theorem crc_zeros (n : Nat) : crcMsb 64 0x42F0E1EBA9EA3693 0 (List.replicate n 0#8) = 0 := by
  induction n with
  | zero => rfl
  | succ n ih =>
    have h : crcMsbByte 64 0x42F0E1EBA9EA3693 0 0#8 = 0 := by decide
    unfold crcMsb at ih ⊢
    rw [List.replicate_succ, List.foldl_cons, h, ih]
theorem test_digest : (List.range 3).foldl (fun l i => addBlock l i (List.replicate 256 0#8)) (0#64, 0#64) =
    (0xDAA66D2C7DDF743F#64, 0x14#64) := by
  have h : crc64 (List.replicate 256 0#8) = 0#64 := by
    unfold crc64 crc64From
    rw [show (0#64).toNat = 0 from rfl, crc_zeros]
  unfold addBlock
  rw [h]
  decide +kernel

end Sys2Proof.Tests
end

/-! The tumbler generator (R44 to R46): the draw read from any run of its four rounds, and the worked vector. -/
namespace Sys2Proof.Proofs
open Sys2Proof Sys2Proof.Machine

/-- Folding a step over the first `n` rounds ends where a run that follows the step stands after `n` rounds. -/
theorem foldl_range_eq_run {σ : Type} (f : σ → Nat → σ) (t : Nat → σ) (n : Nat) (hrun : ∀ r, r < n → t (r + 1) = f (t r) r) :
    (List.range n).foldl f (t 0) = t n := by
  induction n with
  | zero => rfl
  | succ n ih =>
    have hprefix : (List.range n).foldl f (t 0) = t n := ih fun r hr => hrun r (Nat.lt_succ_of_lt hr)
    rw [List.range_succ, List.foldl_concat, hprefix, hrun n n.lt_succ_self]

/-- The draw is x1 xor x3 after four rounds, for every run from the state R45 begins with. -/
theorem tumbler_eq_of_rounds (seed : Dword) (step tensorId : Word) (index : Nat) (t : Nat → Tumble)
    (hstart : t 0 = ⟨(BitVec.ofNat 64 index).truncate 32 ^^^ seed.truncate 32,
      (BitVec.ofNat 64 index >>> 32).truncate 32 ^^^ (seed >>> 32).truncate 32, step, tensorId⟩)
    (hrun : ∀ r, r < 4 → t (r + 1) = tumblerRound (if r % 2 = 0 then seed.truncate 32 else (seed >>> 32).truncate 32)
      (tumblerP.getD r 0) (tumblerQ.getD r 0) (tumblerC.getD r 0#32) (t r)) :
    tumbler seed step tensorId index = (t 4).x1 ^^^ (t 4).x3 := by
  dsimp only [tumbler]
  rw [← hstart, foldl_range_eq_run _ t 4 hrun]

/-- Both halves of seed 0 are 0, so every round of R46's run adds the key 0. -/
theorem tumblerKey_zero_seed (r : Nat) :
    (if r % 2 = 0 then (0#64).truncate 32 else (0#64 >>> 32).truncate 32) = 0#32 := by
  split <;> rfl

/-- Settles O60: round by round from the zero state, and the draw read from the state after the last round. -/
theorem tumblerVector : Obligations.TumblerVector := by
  unfold Obligations.TumblerVector
  intro t hstart hrun
  have hround1 : t 1 = ⟨0x9E3779B9#32, 0#32, 0#32, 0#32⟩ := by
    rw [hrun 0 (by decide), hstart]
    decide
  have hround2 : t 2 = ⟨0xDAA66D2B#32, 0x79B99E37#32, 0xBBCDCCF1#32, 0xBBCDCCF1#32⟩ := by
    rw [hrun 1 (by decide), hround1]
    decide
  have hround3 : t 3 = ⟨0x2F06788D#32, 0xA8D103A9#32, 0xF86D4A5F#32, 0x3C9F7D6E#32⟩ := by
    rw [hrun 2 (by decide), hround2]
    decide
  have hround4 : t 4 = ⟨0x50B5631A#32, 0xC1867DBE#32, 0xA4E2EE5F#32, 0xAC75A400#32⟩ := by
    rw [hrun 3 (by decide), hround3]
    decide
  have hdraw : tumbler 0#64 0#32 0#32 0 = (t 4).x1 ^^^ (t 4).x3 :=
    tumbler_eq_of_rounds 0#64 0#32 0#32 0 t hstart fun r hr => by rw [tumblerKey_zero_seed, hrun r hr]
  refine ⟨hround1, hround2, hround3, hround4, ?_⟩
  rw [hdraw, hround4]
  decide

end Sys2Proof.Proofs

/-! The mailboxes (R415, R430): a pending interrupt source stays pending, events leave the device calm and steady, and each access
of a hart to a mailbox has one outcome in each case of the mailbox's state. -/
namespace Sys2Proof.Machine

variable {o d : Dev} {a x : Nat}

/-! What an append to the Logbook leaves as it was. -/

/-- The registers that an append to the Logbook writes (R340, R352). -/
def appendRegs : List Nat := [Reg.logWriteLo, Reg.logWriteLo + 4, Reg.logRecords, Reg.logStatus, Reg.logLost]

theorem Reads.ite1 {α : Type} {c : Prop} [Decidable c] {y z : Dev × α} (hy : Reads o y.1 a) (hz : Reads o z.1 a) :
    Reads o (if c then y else z).1 a := by
  split
  · exact hy
  · exact hz

theorem Reads.putRecord (h : Reads o d a) (ha : ∀ b ∈ appendRegs, a ≠ b) (bytes : List Byte) :
    Reads o (d.putRecord bytes).1 a := by
  unfold Dev.putRecord
  have hring : Reads o { d with mem := _, log := _ } a := h.other
  exact ((hring.setReg _ (ha Reg.logWriteLo (by decide))).setReg _ (ha (Reg.logWriteLo + 4) (by decide))).addWrap
    (ha Reg.logRecords (by decide)) _

theorem Reads.loseRecord (h : Reads o d a) (ha : ∀ b ∈ appendRegs, a ≠ b) (n : Nat) : Reads o (d.loseRecord n) a := by
  unfold Dev.loseRecord
  have hcount : Reads o { d with log := _ } a := h.other
  exact ((hcount.setFlag (ha Reg.logStatus (by decide)) 3 true).addSat (ha Reg.logLost (by decide)) 1).other

theorem Reads.digestRec (h : Reads o d a) (r : Rec) (bytes : List Byte) : Reads o (d.digestRec r bytes) a := by
  unfold Dev.digestRec
  exact Reads.ite h h.other

theorem Reads.closeLoss (h : Reads o d a) (ha : ∀ b ∈ appendRegs, a ≠ b) (loss : List Byte) :
    Reads o (d.closeLoss loss).1 a := by
  unfold Dev.closeLoss
  exact Reads.ite1 h (h.putRecord ha loss)

theorem Reads.keepRecord (h : Reads o d a) (ha : ∀ b ∈ appendRegs, a ≠ b) (r : Rec) (loss bytes : List Byte) :
    Reads o (d.keepRecord r loss bytes).1 a := by
  unfold Dev.keepRecord
  have hcounted : Reads o { (d.closeLoss loss).1 with log := { (d.closeLoss loss).1.log with lost := 0 } } a :=
    (h.closeLoss ha loss).other
  exact (hcounted.digestRec r bytes).putRecord ha bytes

theorem Reads.append (h : Reads o d a) (ha : ∀ b ∈ appendRegs, a ≠ b) (r : Rec) : Reads o (d.append r).1 a := by
  unfold Dev.append
  exact Reads.ite1 h (Reads.ite1 (h.loseRecord ha _) (h.keepRecord ha r _ _))

/-! The registers of pending sources lie apart from those that events and records write. -/

theorem irqPending_ne_appendRegs (n : Nat) : ∀ b ∈ appendRegs, Reg.irqPending n ≠ b := by
  have hlog : ∀ b ∈ appendRegs, 0x07000000 ≤ b := by decide
  intro b hb
  have := hlog b hb
  unfold Reg.irqPending
  omega

theorem irqPending_ne_evPendReg (n : Nat) (p : Page) : Reg.irqPending n ≠ evPendReg p := by
  have := evPendReg_low p
  unfold Reg.irqPending
  omega

theorem irqPending_ne_evMissedReg (n : Nat) (p : Page) : Reg.irqPending n ≠ evMissedReg p := by
  have := evMissedReg_low p
  unfold Reg.irqPending
  omega

theorem irqPending_ne_irqMissed (n k : Nat) : Reg.irqPending n ≠ Reg.irqMissed k := by
  unfold Reg.irqPending Reg.irqMissed
  omega

/-! A pending source stays pending: only a claim clears it (R421). -/

/-- An interrupt source is pending, and the registers are in canonical form. -/
structure SourcePends (d : Dev) (x : Nat) : Prop where
  wf : Assoc.wf regReset d.regs = true
  pending : d.pendingSource x = true

theorem SourcePends.of_reads (h : SourcePends o x) (hr : Reads o d (Reg.irqPending (x / 32))) : SourcePends d x :=
  ⟨hr.1, by
    unfold Dev.pendingSource Dev.flag
    rw [hr.2]
    exact h.pending⟩

theorem SourcePends.reads (h : SourcePends d x) : Reads d d (Reg.irqPending (x / 32)) := Reads.refl h.wf _

theorem SourcePends.append (h : SourcePends d x) (r : Rec) : SourcePends (d.append r).1 x :=
  h.of_reads (h.reads.append (irqPending_ne_appendRegs _) r)

theorem SourcePends.event (h : SourcePends d x) (p : Page) (b : Nat) (f : Bool) : SourcePends (d.event p b f).1 x := by
  have hmissed := irqPending_ne_evMissedReg (x / 32) p
  have hpend := irqPending_ne_evPendReg (x / 32) p
  unfold Dev.event
  exact h.of_reads (Reads.ite1 ((h.reads.setReg _ hmissed).setReg _ hmissed) (h.reads.setFlag hpend b true))

/-- An edge leaves every pending source pending, and makes its own pending (R419). -/
theorem SourcePends.of_edge (hwf : Assoc.wf regReset d.regs = true) {y : Nat} (hy : sourceExists y = true)
    (h : d.pendingSource x = true ∨ x = y) : SourcePends (d.edge y).1 x := by
  have hkept (hx : d.pendingSource x = true) (hi lo v : Nat) : SourcePends (d.setFld (Reg.irqMissed (y / 4)) hi lo v) x :=
    SourcePends.of_reads ⟨hwf, hx⟩ ((Reads.refl hwf _).setReg _ (irqPending_ne_irqMissed _ _))
  unfold Dev.edge
  rw [if_neg (by simp [hy])]
  split
  · next hset =>
    rcases h with hx | rfl
    · exact hkept hx _ _ _
    · exact hkept hset _ _ _
  · refine ⟨Assoc.wf_set hwf _ _, ?_⟩
    unfold Dev.pendingSource
    rw [flag_setFlag hwf _ _ _ _ (Nat.mod_lt y (by decide))]
    split
    · rfl
    · next hother =>
      rcases h with hx | rfl
      · exact hx
      · exact absurd ⟨rfl, rfl⟩ hother

theorem SourcePends.edge (h : SourcePends d x) (y : Nat) : SourcePends (d.edge y).1 x := by
  by_cases hy : sourceExists y = true
  · exact SourcePends.of_edge h.wf hy (.inl h.pending)
  · unfold Dev.edge
    rw [if_pos (by simp [hy])]
    exact h

theorem SourcePends.act (h : SourcePends d x) : (c : Act) → SourcePends (d.act c).1 x
  | .event p b f => h.event p b f
  | .record r => h.append r
  | .edge y => h.edge y

theorem SourcePends.runActs (n : Nat) (as : List Act) {d : Dev} (h : SourcePends d x) : SourcePends (Dev.runActs n d as) x := by
  induction n generalizing d as with
  | zero => exact h
  | succ n ih =>
    cases as with
    | nil => exact h
    | cons c as => exact ih _ (h.act c)

/-- An edge on a source makes it pending, whatever it sets off besides. -/
theorem SourcePends.irqEdge (hwf : Assoc.wf regReset d.regs = true) (hx : sourceExists x = true) :
    SourcePends (d.irqEdge x) x := SourcePends.runActs 63 _ (SourcePends.of_edge hwf hx (.inr rfl))

/-! Events and edges leave the device calm and steady. -/

theorem Leaves.calm (h : Leaves (fun _ => true) o d) (ho : o.Tidy) : o.Calm d :=
  ⟨h.config ho.2, fun b hb => h.byte ho.1 b rfl hb⟩

theorem Dev.raise_calm (hd : d.Tidy) (p : Page) (b : Nat) : d.Calm (d.raise p b) := (Leaves.refl.raise p b).calm hd

theorem Dev.raise_steady (d : Dev) (p : Page) (b : Nat) : d.Steady (d.raise p b) := (Keeps.refl.raise p b).steady

theorem Dev.irqEdge_calm (hd : d.Tidy) (y : Nat) : d.Calm (d.irqEdge y) := (Leaves.refl.irqEdge y).calm hd

theorem Dev.irqEdge_steady (d : Dev) (y : Nat) : d.Steady (d.irqEdge y) := (Keeps.refl.irqEdge y).steady

/-- The notice of mailbox `m` is source 192 + m (R417), bit m of the word of sources 192 to 223. -/
theorem flag_irqEdge_notice (hd : d.Tidy) (m : Fin 32) : (d.irqEdge (192 + m)).flag (Reg.irqPending 6) m = true := by
  have hexists : sourceExists (192 + m) = true := by
    have := m.isLt
    simp only [sourceExists, decide_eq_true_eq]
    omega
  have hword : (192 + m.val) / 32 = 6 := by omega
  have hbit : (192 + m.val) % 32 = m := by omega
  have h := (SourcePends.irqEdge hd.2 hexists).pending
  unfold Dev.pendingSource at h
  rwa [hword, hbit] at h

/-! One mailbox. -/

variable {b : Mailbox}

theorem Mailbox.put_of_lt (h : b.packets.length < mailboxSize) (p : MbxPacket) :
    b.put p = { b with packets := b.packets ++ [p] } := if_pos h

theorem Mailbox.put_of_full (h : mailboxSize ≤ b.packets.length) (p : MbxPacket) : b.put p = { b with overrun := true } :=
  if_neg (Nat.not_lt.mpr h)

theorem Mailbox.getLo_cons {p : MbxPacket} {rest : List MbxPacket} (h : b.packets = p :: rest) :
    b.getLo = (p.lo, { b with lastLo := p.lo }) := by
  unfold Mailbox.getLo
  rw [h]

theorem Mailbox.getLo_nil (h : b.packets = []) : b.getLo = (b.lastLo, { b with underrun := true }) := by
  unfold Mailbox.getLo
  rw [h]

theorem Mailbox.getHi_cons {p : MbxPacket} {rest : List MbxPacket} (h : b.packets = p :: rest) :
    b.getHi = (p.hi, { b with packets := rest, lastHi := p.hi }) := by
  unfold Mailbox.getHi
  rw [h]

theorem Mailbox.getHi_nil (h : b.packets = []) : b.getHi = (b.lastHi, { b with underrun := true }) := by
  unfold Mailbox.getHi
  rw [h]

theorem Mailbox.control_owner_held (h : b.packets ≠ []) (v : Word) : (b.control v).owner = b.owner := by
  simp [Mailbox.control, h]

theorem Mailbox.control_owner_empty (h : b.packets = []) {v : Word} (hv : bits v 4 0 < 28) :
    (b.control v).owner = bits v 4 0 := by
  have : min 27 (bits v 4 0) = bits v 4 0 := by omega
  simp [Mailbox.control, h, this]

/-! The accesses of a live hart. -/

section
variable {s : State} {hart : Fin 28} {m : Fin 32} {h : Hart}

theorem State.mailbox_eq {k : Nat} (hb : s.mbx[k]? = some b) : s.mailbox k = b := by
  simp [State.mailbox, hb]

theorem State.atMailbox_live {k : Nat} (hl : s.liveHart k = some h) (f : Hart → State) : s.atMailbox k f = f h := by
  unfold State.atMailbox
  rw [hl]

/-- A live hart is a hart of the package. -/
theorem State.liveHart_lt {k : Nat} (hl : s.liveHart k = some h) : k < s.harts.length := by
  by_contra hk
  rw [State.liveHart, List.getElem?_eq_none (Nat.not_lt.mp hk)] at hl
  cases hl

theorem exec_mbxPutLo_live (hl : s.liveHart hart = some h) (v : Word) :
    exec (.mbxPutLo hart m v) s =
      .next { s with harts := s.harts.set hart { h with staged := Assoc.set stagedWord h.staged m v } } :=
  congrArg Host.Outcome.next (State.atMailbox_live hl _)

theorem exec_mbxPutHi_live (hl : s.liveHart hart = some h) (hb : s.mbx[m.val]? = some b) (v : Word) :
    exec (.mbxPutHi hart m v) s = .next { s with
      harts := s.harts.set hart { h with staged := Assoc.set stagedWord h.staged m 0#32 }
      mbx := s.mbx.set m (b.put ⟨Assoc.get stagedWord h.staged m, v, hart⟩)
      dev := if mailboxSize ≤ b.packets.length then s.dev.raise hubPage 1 else s.dev.irqEdge (192 + m) } := by
  refine congrArg Host.Outcome.next ((State.atMailbox_live hl _).trans ?_)
  simp only [State.mailbox_eq hb, decide_eq_true_eq]

/-- The packet goes in last, and its notice is an edge on the mailbox's source. -/
theorem exec_mbxPutHi_room (hl : s.liveHart hart = some h) (hb : s.mbx[m.val]? = some b)
    (hroom : b.packets.length < mailboxSize) (v : Word) :
    exec (.mbxPutHi hart m v) s = .next { s with
      harts := s.harts.set hart { h with staged := Assoc.set stagedWord h.staged m 0#32 }
      mbx := s.mbx.set m { b with packets := b.packets ++ [⟨Assoc.get stagedWord h.staged m, v, hart⟩] }
      dev := s.dev.irqEdge (192 + m) } := by
  rw [exec_mbxPutHi_live hl hb, Mailbox.put_of_lt hroom, if_neg (Nat.not_le.mpr hroom)]

/-- The packet is ignored with MBX_OVERRUN. -/
theorem exec_mbxPutHi_full (hl : s.liveHart hart = some h) (hb : s.mbx[m.val]? = some b)
    (hfull : mailboxSize ≤ b.packets.length) (v : Word) :
    exec (.mbxPutHi hart m v) s = .next { s with
      harts := s.harts.set hart { h with staged := Assoc.set stagedWord h.staged m 0#32 }
      mbx := s.mbx.set m { b with overrun := true }
      dev := s.dev.raise hubPage 1 } := by
  rw [exec_mbxPutHi_live hl hb, Mailbox.put_of_full hfull, if_pos hfull]

theorem exec_mbxOwnerWrite_live (hl : s.liveHart hart = some h) (hb : s.mbx[m.val]? = some b) (v : Word) :
    exec (.mbxOwnerWrite hart m v) s = .next { s with mbx := s.mbx.set m (b.control v) } := by
  refine congrArg Host.Outcome.next ((State.atMailbox_live hl _).trans ?_)
  rw [State.mailbox_eq hb]

theorem exec_mbxGetLo : exec (.mbxGetLo hart m) s = .next (s.readMailbox hart m Mailbox.getLo) := rfl

theorem exec_mbxGetHi : exec (.mbxGetHi hart m) s = .next (s.readMailbox hart m Mailbox.getHi) := rfl

variable {f : Mailbox → Word × Mailbox} {w : Word} {b' : Mailbox}

/-- The owner reads the value its read gives, and the mailbox is the one the read leaves; an empty mailbox raises
MBX_UNDERRUN. -/
theorem State.readMailbox_owner (hl : s.liveHart hart = some h) (hb : s.mbx[m.val]? = some b) (ho : b.owner = hart.val)
    (hf : f b = (w, b')) : s.readMailbox hart m f = { s with
      harts := s.harts.set hart { h with lastRead := w }
      mbx := s.mbx.set m b'
      dev := if b.packets.isEmpty then s.dev.raise hubPage 2 else s.dev } := by
  unfold State.readMailbox
  rw [State.atMailbox_live hl]
  dsimp only
  rw [State.mailbox_eq hb, if_pos ho, hf]

theorem State.readMailbox_held (hl : s.liveHart hart = some h) (hb : s.mbx[m.val]? = some b) (ho : b.owner = hart.val)
    {p : MbxPacket} {rest : List MbxPacket} (hp : b.packets = p :: rest) (hf : f b = (w, b')) :
    s.readMailbox hart m f =
      { s with harts := s.harts.set hart { h with lastRead := w }, mbx := s.mbx.set m b' } := by
  rw [State.readMailbox_owner hl hb ho hf, hp]
  rfl

/-- The owner's read of an empty mailbox: the word it repeats, with MBX_UNDERRUN in the mailbox and raised. -/
theorem State.readMailbox_empty (hd : s.dev.Tidy) (hl : s.liveHart hart = some h) (hb : s.mbx[m.val]? = some b)
    (ho : b.owner = hart.val) (hp : b.packets = []) (hf : f b = (w, b')) :
    s.dev.Calm (s.readMailbox hart m f).dev ∧ (s.readMailbox hart m f).dev.pend hubPage 2 = true ∧
      (s.readMailbox hart m f).mbx = s.mbx.set m b' ∧
      (s.readMailbox hart m f).harts[hart.val]? = some { h with lastRead := w } := by
  rw [State.readMailbox_owner hl hb ho hf, hp]
  exact ⟨Dev.raise_calm hd hubPage 2, (Pends.raised hd.2 hubPage (by decide)).pend, rfl,
    List.getElem?_set_self (State.liveHart_lt hl)⟩

theorem State.readMailbox_other (hl : s.liveHart hart = some h) (hb : s.mbx[m.val]? = some b) (ho : b.owner ≠ hart.val) :
    s.readMailbox hart m f = { s with harts := s.harts.set hart { h with lastRead := 0#32 } } := by
  unfold State.readMailbox
  rw [State.atMailbox_live hl]
  dsimp only
  rw [State.mailbox_eq hb, if_neg ho]

end

end Sys2Proof.Machine

namespace Sys2Proof.Proofs
open Sys2Proof Sys2Proof.Machine

/-- Settles O50: the outcome of each access of a live hart, in each case of the mailbox's packets and owner. -/
theorem mailboxes : Obligations.Mailboxes := by
  unfold Obligations.Mailboxes
  intro s hart m h b v lo hl hd hb hstaged hlo
  subst hlo
  refine ⟨?putLo, ?putHi, ?putHiFull, ?owner, ?other, ?control⟩
  case putLo =>
    exact ⟨_, exec_mbxPutLo_live hl v, Assoc.get_set_same hstaged m v, fun _ hn => Assoc.get_set_other hstaged hn v⟩
  case putHi =>
    intro hroom
    exact ⟨_, exec_mbxPutHi_room hl hb hroom v, Dev.irqEdge_calm hd _, Dev.irqEdge_steady _ _, rfl,
      flag_irqEdge_notice hd m, _, rfl, Assoc.get_set_same hstaged m 0#32⟩
  case putHiFull =>
    intro hfull
    exact ⟨_, exec_mbxPutHi_full hl hb hfull v, Dev.raise_calm hd _ _, Dev.raise_steady _ _ _, rfl,
      (Pends.raised hd.2 hubPage (by decide)).pend, _, rfl, Assoc.get_set_same hstaged m 0#32⟩
  case owner =>
    intro ho
    refine ⟨fun p rest hp => ⟨?_, ?_⟩, fun hp => ⟨?_, ?_⟩⟩
    · rw [exec_mbxGetLo, State.readMailbox_held hl hb ho hp (Mailbox.getLo_cons hp)]
    · rw [exec_mbxGetHi, State.readMailbox_held hl hb ho hp (Mailbox.getHi_cons hp)]
    · exact ⟨_, exec_mbxGetLo, State.readMailbox_empty hd hl hb ho hp (Mailbox.getLo_nil hp)⟩
    · exact ⟨_, exec_mbxGetHi, State.readMailbox_empty hd hl hb ho hp (Mailbox.getHi_nil hp)⟩
  case other =>
    intro ho
    rw [exec_mbxGetLo, exec_mbxGetHi, State.readMailbox_other hl hb ho, State.readMailbox_other hl hb ho]
    exact ⟨rfl, rfl⟩
  case control =>
    exact ⟨_, exec_mbxOwnerWrite_live hl hb v, rfl, fun hp => Mailbox.control_owner_held hp v,
      fun hp hv => Mailbox.control_owner_empty hp hv, rfl, rfl⟩

end Sys2Proof.Proofs

/-! The package without 54 V (R431): while reset is not released no unit and no hart acts, the carrier controller's own commands
wait for a phase that 54 V brings, and the loss of the supply leaves what module flash holds. -/
namespace Sys2Proof.Machine

section
variable {s : State}

/-! While reset is not released (R433) nothing acts on the device proper and no hart makes an access. -/

theorem State.act_not_running (h : s.carrier.phase ≠ .running) (f : Dev → Dev) : s.act f = .next s :=
  congrArg Host.Outcome.next (if_neg h)

/-! The shapes that several commands of the streams share. -/

theorem State.kernel_not_running (h : s.carrier.phase ≠ .running) (st : Stream) (ev : OpEvents) (kind : Nat)
    (effect : Decoded → KernelCmd → Option Kept → ByteSource → Dev → Dev) : s.kernel st ev kind effect = .next s :=
  State.act_not_running h _

theorem State.copy_not_running (h : s.carrier.phase ≠ .running) (st : Stream) (ev : OpEvents) (transpose : Bool) :
    s.copy st ev transpose = .next s := State.act_not_running h _

theorem State.xchg_not_running (h : s.carrier.phase ≠ .running) (ev : OpEvents) (kind : Nat)
    (effect : Decoded → XchgCmd → Bool → ByteSource → Dev → Dev) : s.xchg ev kind effect = .next s :=
  State.act_not_running h _

theorem State.reduce_not_running (h : s.carrier.phase ≠ .running) (ev : OpEvents) (kind : Nat) :
    s.reduce ev kind = .next s := State.act_not_running h _

theorem State.helmSet_not_running (h : s.carrier.phase ≠ .running) (ev : OpEvents) (kind : Nat) :
    s.helmSet ev kind = .next s := State.act_not_running h _

theorem State.logmark_not_running (h : s.carrier.phase ≠ .running) (ev : OpEvents) (kind : Nat) :
    s.logmark ev kind = .next s := State.act_not_running h _

/-! The accesses of the harts. -/

theorem State.liveHart_not_running (h : s.carrier.phase ≠ .running) (hart : Nat) : s.liveHart hart = none := by
  unfold State.liveHart
  split
  · exact if_neg fun hlive => h hlive.1
  · rfl

theorem State.byHart_not_running (h : s.carrier.phase ≠ .running) (hart : Nat) (f : Dev → Dev) : s.byHart hart f = s := by
  unfold State.byHart
  rw [State.liveHart_not_running h]

theorem State.onHart_not_running (h : s.carrier.phase ≠ .running) (hart : Nat) (f : Hart → Hart) : s.onHart hart f = s := by
  unfold State.onHart
  rw [State.liveHart_not_running h]

theorem State.hartReads_not_running (h : s.carrier.phase ≠ .running) (hart : Nat) (f : Dev → Word × Dev) :
    s.hartReads hart f = s := by
  unfold State.hartReads
  rw [State.liveHart_not_running h]

theorem State.atMailbox_not_running (h : s.carrier.phase ≠ .running) (hart : Nat) (f : Hart → State) :
    s.atMailbox hart f = s := by
  unfold State.atMailbox
  rw [State.liveHart_not_running h]

theorem State.access_not_running (h : s.carrier.phase ≠ .running) (hart : Nat) (p : Page) (write : Bool) (f : Dev → Dev) :
    s.access hart p write f = .next s :=
  congrArg Host.Outcome.next (State.byHart_not_running h hart _)

theorem execRegisterWrite_not_running (h : s.carrier.phase ≠ .running) (hart : Fin 28) (addr : Nat) (v : Word) :
    execRegisterWrite hart addr v s = .next s := by
  unfold execRegisterWrite
  simp only [State.access_not_running h, ite_self]
  split
  · split <;> rfl
  · rfl

theorem execRegisterLoRead_not_running (h : s.carrier.phase ≠ .running) (hart : Fin 28) (addr : Nat) :
    execRegisterLoRead hart addr s = .next s := by
  unfold execRegisterLoRead
  simp only [State.onHart_not_running h, ite_self]
  split
  · split <;> rfl
  · rfl

theorem execAbsentPageAccess_not_running (h : s.carrier.phase ≠ .running) (hart : Fin 28) (addr : Nat) (write : Bool) :
    execAbsentPageAccess hart addr write s = .next s := by
  unfold execAbsentPageAccess
  simp only [State.byHart_not_running h, State.onHart_not_running h, ite_self]
  split <;> rfl

theorem execAccessFault_not_running (h : s.carrier.phase ≠ .running) (hart : Fin 28) (addr width : Nat) (write : Bool) :
    execAccessFault hart addr width write s = .next s := by
  unfold execAccessFault
  rw [State.onHart_not_running h, ite_self]

/-! The carrier controller without 54 V. -/

theorem State.sample_dark (hdark : s.carrier.phase = .dark) (input : List InputRun) : s.sample input = s := if_pos hdark

theorem execPowerManagerPeriod_dark (hdark : s.carrier.phase = .dark) (input : List InputRun) (watts peakWatts : Nat) :
    execPowerManagerPeriod input watts peakWatts s = .next s := by
  unfold execPowerManagerPeriod
  rw [State.sample_dark hdark]
  exact State.act_not_running (by simp [hdark]) _

theorem execShedLevelEnter_dark (hdark : s.carrier.phase = .dark) (level : Fin 6) (input : List InputRun) :
    execShedLevelEnter level s input = .next s := by
  unfold execShedLevelEnter
  rw [State.sample_dark hdark]
  exact State.act_not_running (by simp [hdark]) _

theorem execShedLevelLeave_dark (hdark : s.carrier.phase = .dark) (input : List InputRun) :
    execShedLevelLeave s input = .next s := by
  unfold execShedLevelLeave
  rw [State.sample_dark hdark]
  exact State.act_not_running (by simp [hdark]) _

theorem execInsertionDebounceEnd_dark (hdark : s.carrier.phase = .dark) (input : List InputRun) :
    execInsertionDebounceEnd s input = .next s := by
  unfold execInsertionDebounceEnd
  rw [State.sample_dark hdark]
  simp [hdark]

theorem execResetRelease_dark (hdark : s.carrier.phase = .dark) (input rail : List InputRun) :
    execResetRelease s input rail = .next s := by
  unfold execResetRelease
  rw [State.sample_dark hdark]
  simp [Carrier.settled, hdark]

theorem execSagRestart_dark (hdark : s.carrier.phase = .dark) (input : List InputRun) : execSagRestart s input = .next s := by
  unfold execSagRestart
  rw [State.sample_dark hdark]
  simp [hdark]

theorem execPowerOffRailStep_dark (hdark : s.carrier.phase = .dark) : execPowerOffRailStep s = .next s := by
  unfold execPowerOffRailStep
  rw [hdark]

/-- Without 54 V every command but the coming of the supply and the seating of the package leaves the state as it is: the units'
and the harts' commands for want of a released reset, the carrier controller's for want of their phase. -/
theorem exec_dark (hdark : s.carrier.phase = .dark) (c : Instr) (hsupply : c ≠ .supplyApplied) (hmate : c ≠ .prsntMate)
    (hbreak : c ≠ .prsntBreak) : exec c s = .next s := by
  have h : s.carrier.phase ≠ .running := by simp [hdark]
  unfold exec
  cases c with
  | supplyApplied => exact absurd rfl hsupply
  | prsntMate => exact absurd rfl hmate
  | prsntBreak => exact absurd rfl hbreak
  | nop | fence | fenceComplete | flush | flushComplete | wait | waitComplete | waitTimeout | setpred | stamp | call | ret |
    matmul | matmulH | vprog | tload | route | count | grant | place | compassTimeout | ready | data | xchgComplete |
    xchgTimeout | agree | ec48 | topk | sign | fast | tally | consensus | reduceComplete | reduceTimeout | helmUpdate | send |
    sendComplete | sendTimeout | release | pipelineBlock | stop | go | leg | legSwitch | barrier | legTimeout | fix | fixVote |
    fixTimeout | flushCount | skRequest | skAccept | skVerdict | skDecision | skCancel | skTimeout | commandDecode |
    commandReject | operationBoundary | bfOverrun | bfEnableEffect | linkBlockReceive | linkControlWord | remoteWriteBlock |
    parkWord | trainingAttemptEnd | laneLockLoss | postWriteAcked | drainComplete | logSpill | spillComplete | holdoffExpiry |
    extInputFiltered | inputStuck | ppsEdge | ptpMessage | mgtLinkChange | rollCall | debugUnlockToken | tlsHandshake |
    scrubRead | dramFillComplete | graceExpiry | thermalPeriod | transmitSlot | cycleStretch | sramParityError |
    captureReplayBlock =>
    exact State.act_not_running h _
  | softmax | normRms | normLayer | vkernelReduce | attnStat | loss => exact State.kernel_not_running h _ _ _ _
  | copy | transpose => exact State.copy_not_running h _ _ _
  | dispatch | xchgReturn | combine | gradDispatch | gradReturn => exact State.xchg_not_running h _ _ _
  | reduceSum | reduceTally | reduceMax | reduceConsensus => exact State.reduce_not_running h _ _
  | helmSetStep | helmSetNorm | helmSetCoef | helmSetDecay => exact State.helmSet_not_running h _ _
  | logmarkNote | logmarkTensor | logmarkRange => exact State.logmark_not_running h _ _
  | seqTailWrite | seqCounterAdd | bfEnableWrite | bfResume | fabEnableWrite | chtPackageWrite | chartLoad | chartLoadReplay |
    postTailWrite | chkCoreReq | pin | unpin | cmpTrackRecordWrite | hlmRingSlotWrite | redStepNfForce | logDrainedWrite |
    hubIfaceOffer | irqSwTrigger | irqMissedClear | mgtPtpPortWrite | hotQuiesceWrite | pwrSagCfgWrite =>
    exact congrArg Host.Outcome.next (State.byHart_not_running h _ _)
  | stateRequestActive | stateRequestDraining | stateRequestReady | stateRequestQuarantine | evEnWrite | evForceWrite =>
    exact State.access_not_running h _ _ _ _
  | logNextRead => exact congrArg Host.Outcome.next (State.hartReads_not_running h _ _)
  | mbxPutLo | mbxPutHi | mbxGetLo | mbxGetHi | mbxOwnerWrite | irqClaim | irqComplete =>
    exact congrArg Host.Outcome.next (State.atMailbox_not_running h _ _)
  | registerWrite => exact execRegisterWrite_not_running h _ _ _
  | registerLoRead => exact execRegisterLoRead_not_running h _ _
  | absentPageAccess => exact execAbsentPageAccess_not_running h _ _ _
  | accessFault => exact execAccessFault_not_running h _ _ _ _
  | attestationRequest | recoveryBundle | bootStageComplete | railFault | thermalTrip | softwareReset =>
    exact congrArg Host.Outcome.next (if_neg fun hcond => h hcond.1)
  | controlledPowerOff => exact congrArg Host.Outcome.next (if_neg h)
  | extInputRawChange | refclkPresent | refclkLoss | supplyRemoved => exact congrArg Host.Outcome.next (if_pos hdark)
  | rampComplete | rampFault | rampRetry | tripRestart => exact congrArg Host.Outcome.next (if_neg (by simp [hdark]))
  | surpriseRemoval | overcurrentTrip => exact congrArg Host.Outcome.next (if_neg (by simp [hdark, CarrierPhase.closed]))
  | powerManagerPeriod => exact execPowerManagerPeriod_dark hdark _ _ _
  | shedLevelEnter => exact execShedLevelEnter_dark hdark _ _
  | shedLevelLeave => exact execShedLevelLeave_dark hdark _
  | insertionDebounceEnd => exact execInsertionDebounceEnd_dark hdark _
  | resetRelease => exact execResetRelease_dark hdark _ _
  | sagRestart => exact execSagRestart_dark hdark _
  | powerOffRailStep => exact execPowerOffRailStep_dark hdark

/-! PRSNT_N and the coming of the supply. -/

theorem exec_prsntMate_dark (hdark : s.carrier.phase = .dark) :
    exec .prsntMate s = .next { s with carrier := { s.carrier with mated := true } } :=
  congrArg Host.Outcome.next (if_neg (by simp [hdark]))

theorem exec_prsntBreak_dark (hdark : s.carrier.phase = .dark) :
    exec .prsntBreak s = .next { s with carrier := { s.carrier with mated := false } } := by
  show execPrsntBreak s = _
  unfold execPrsntBreak
  simp only [hdark]

theorem exec_supplyApplied_dark (hdark : s.carrier.phase = .dark) :
    exec .supplyApplied s = .next (s.toPhase (if s.carrier.mated then .debounce else .unmated)) :=
  congrArg Host.Outcome.next (if_pos hdark)

/-! The loss of the supply. -/

theorem Dev.cutSpill_now (d : Dev) : d.cutSpill.now = d.now := (Keeps.refl (level := true)).cutSpill.now rfl

theorem State.cutPower_dev (p : CarrierPhase) : (s.cutPower p).dev =
    Dev.resetWith s.dev.cutSpill.flash s.dev.cutSpill.ext s.dev.now s.dev.cutSpill.freeCtr := by
  show Dev.resetWith _ _ s.dev.cutSpill.now _ = _
  rw [Dev.cutSpill_now]

/-- Nothing of the controller stands but PRSNT_N, and nothing of the package but its flash. -/
theorem exec_supplyRemoved_powered (hpower : s.carrier.phase ≠ .dark) :
    exec .supplyRemoved s = .next { s with
      carrier := { s.carrier.unpowered with since := s.dev.now }
      harts := (List.range 28).map fun _ => Hart.reset false
      mbx := mailboxesReset
      claims := List.replicate 28 []
      dev := { Dev.resetWith s.dev.cutSpill.flash [] s.dev.now s.dev.cutSpill.freeCtr with
        ext := List.replicate 5 ExtInput.reset } } := by
  have hcut : exec .supplyRemoved s = .next { s.cutPower .dark with
      carrier := { (s.cutPower .dark).carrier.unpowered with since := (s.cutPower .dark).dev.now }
      dev := { (s.cutPower .dark).dev with ext := List.replicate 5 ExtInput.reset } } :=
    congrArg Host.Outcome.next (if_neg hpower)
  rw [hcut, State.cutPower_dev]
  rfl

end

end Sys2Proof.Machine

namespace Sys2Proof.Proofs
open Sys2Proof Sys2Proof.Machine

/-- Settles O8: without 54 V no unit, no hart and no phase of the carrier controller acts; the loss of the supply keeps the flash
as the cut spill leaves it. -/
theorem darkPackage : Obligations.DarkPackage := by
  unfold Obligations.DarkPackage
  refine ⟨fun c s hdark => exec_dark hdark c, fun s hdark => ?_, fun s hpower => ?_⟩
  · exact ⟨exec_prsntMate_dark hdark, exec_prsntBreak_dark hdark, exec_supplyApplied_dark hdark⟩
  · exact ⟨_, exec_supplyRemoved_powered hpower, rfl, rfl, rfl, rfl, rfl, rfl, rfl, rfl⟩

end Sys2Proof.Proofs

/-! The whole machine: what every command keeps, what it leaves alone and that it answers, assembled from the lemmas of its rows. -/
namespace Sys2Proof.Machine
set_option Elab.async false

section
variable {B : Nat → Bool} {s : State}

/-- Every command keeps what makes a state sound. -/
theorem exec_preserves : (c : Instr) → Preserves s (exec c s)
  | .nop .. => preserves_execNop _
  | .fence .. => preserves_execFence _
  | .fenceComplete .. => preserves_execFenceComplete _
  | .flush .. => preserves_execFlush _
  | .flushComplete .. => preserves_execFlushComplete _
  | .wait .. => preserves_execWait _
  | .waitComplete .. => preserves_execWaitComplete _
  | .waitTimeout .. => preserves_execWaitTimeout _
  | .setpred .. => preserves_execSetpred _ _
  | .stamp .. => preserves_execStamp _ _
  | .call .. => preserves_execCall _
  | .ret .. => preserves_execRet _
  | .matmul .. => preserves_execMatmul _ _
  | .matmulH .. => preserves_execMatmulH _ _
  | .vprog .. => preserves_execVprog _ _
  | .softmax .. => preserves_execSoftmax _ _
  | .normRms .. => preserves_execNormRms _ _
  | .normLayer .. => preserves_execNormLayer _ _
  | .vkernelReduce .. => preserves_execVkernelReduce _ _
  | .attnStat .. => preserves_execAttnStat _ _
  | .loss .. => preserves_execLoss _ _
  | .tload .. => preserves_execTload _ _
  | .copy .. => preserves_execCopy _ _
  | .transpose .. => preserves_execTranspose _ _
  | .route .. => preserves_execRoute _
  | .count .. => preserves_execCount _ _
  | .grant .. => preserves_execGrant _ _
  | .place .. => preserves_execPlace _ _
  | .compassTimeout .. => preserves_execCompassTimeout _ _
  | .dispatch .. => preserves_execDispatch _
  | .xchgReturn .. => preserves_execXchgReturn _
  | .combine .. => preserves_execCombine _
  | .gradDispatch .. => preserves_execGradDispatch _
  | .gradReturn .. => preserves_execGradReturn _
  | .ready .. => preserves_execReady _ _
  | .data .. => preserves_execData _ _
  | .xchgComplete .. => preserves_execXchgComplete _ _ _ _
  | .xchgTimeout .. => preserves_execXchgTimeout _ _ _
  | .reduceSum .. => preserves_execReduceSum _
  | .reduceTally .. => preserves_execReduceTally _
  | .reduceMax .. => preserves_execReduceMax _
  | .reduceConsensus .. => preserves_execReduceConsensus _
  | .agree .. => preserves_execAgree _ _
  | .ec48 .. => preserves_execEc48 _ _
  | .topk .. => preserves_execTopk _ _
  | .sign .. => preserves_execSign _ _
  | .fast .. => preserves_execFast _ _
  | .tally .. => preserves_execTally _ _
  | .consensus .. => preserves_execConsensus _ _
  | .reduceComplete .. => preserves_execReduceComplete _ _
  | .reduceTimeout .. => preserves_execReduceTimeout _
  | .helmSetStep .. => preserves_execHelmSetStep _
  | .helmSetNorm .. => preserves_execHelmSetNorm _
  | .helmSetCoef .. => preserves_execHelmSetCoef _
  | .helmSetDecay .. => preserves_execHelmSetDecay _
  | .helmUpdate .. => preserves_execHelmUpdate _
  | .send .. => preserves_execSend _
  | .sendComplete .. => preserves_execSendComplete _ _
  | .sendTimeout .. => preserves_execSendTimeout _
  | .release => preserves_execRelease
  | .pipelineBlock .. => preserves_execPipelineBlock _ _
  | .stop .. => preserves_execStop _
  | .go .. => preserves_execGo _
  | .leg => preserves_execLeg
  | .legSwitch .. => preserves_execLegSwitch _
  | .barrier .. => preserves_execBarrier _ _
  | .legTimeout => preserves_execLegTimeout
  | .fix => preserves_execFix
  | .fixVote .. => preserves_execFixVote _
  | .fixTimeout => preserves_execFixTimeout
  | .flushCount .. => preserves_execFlushCount _
  | .skRequest .. => preserves_execSkRequest _
  | .skAccept .. => preserves_execSkAccept _
  | .skVerdict .. => preserves_execSkVerdict _
  | .skDecision .. => preserves_execSkDecision _
  | .skCancel .. => preserves_execSkCancel _
  | .skTimeout => preserves_execSkTimeout
  | .logmarkNote => preserves_execLogmarkNote
  | .logmarkTensor .. => preserves_execLogmarkTensor _
  | .logmarkRange .. => preserves_execLogmarkRange _
  | .commandDecode .. => preserves_execCommandDecode _ _
  | .commandReject .. => preserves_execCommandReject _
  | .operationBoundary .. => preserves_execOperationBoundary _
  | .bfOverrun => preserves_execBfOverrun
  | .seqTailWrite .. => preserves_execSeqTailWrite _ _ _
  | .seqCounterAdd .. => preserves_execSeqCounterAdd _ _ _
  | .bfEnableWrite .. => preserves_execBfEnableWrite _ _
  | .bfEnableEffect => preserves_execBfEnableEffect
  | .bfResume .. => preserves_execBfResume _ _
  | .linkBlockReceive .. => preserves_execLinkBlockReceive _ _ _
  | .linkControlWord .. => preserves_execLinkControlWord _ _
  | .remoteWriteBlock .. => preserves_execRemoteWriteBlock _ _
  | .parkWord .. => preserves_execParkWord _
  | .fabEnableWrite .. => preserves_execFabEnableWrite _ _ _
  | .trainingAttemptEnd .. => preserves_execTrainingAttemptEnd _ _
  | .laneLockLoss .. => preserves_execLaneLockLoss _ _
  | .chtPackageWrite .. => preserves_execChtPackageWrite _ _
  | .chartLoad .. => preserves_execChartLoad _ _ _
  | .chartLoadReplay .. => preserves_execChartLoadReplay _ _ _
  | .postTailWrite .. => preserves_execPostTailWrite _ _ _
  | .postWriteAcked .. => preserves_execPostWriteAcked _
  | .stateRequestActive .. => preserves_execStateRequestActive _ _ _
  | .stateRequestDraining .. => preserves_execStateRequestDraining _ _ _
  | .stateRequestReady .. => preserves_execStateRequestReady _ _ _
  | .stateRequestQuarantine .. => preserves_execStateRequestQuarantine _ _ _
  | .drainComplete .. => preserves_execDrainComplete _
  | .chkCoreReq .. => preserves_execChkCoreReq _ _
  | .pin .. => preserves_execPin _ _
  | .unpin .. => preserves_execUnpin _ _
  | .cmpTrackRecordWrite .. => preserves_execCmpTrackRecordWrite _ _
  | .hlmRingSlotWrite .. => preserves_execHlmRingSlotWrite _ _
  | .redStepNfForce .. => preserves_execRedStepNfForce _ _
  | .logNextRead .. => preserves_execLogNextRead _
  | .logDrainedWrite .. => preserves_execLogDrainedWrite _ _
  | .logSpill => preserves_execLogSpill
  | .spillComplete .. => preserves_execSpillComplete _
  | .hubIfaceOffer .. => preserves_execHubIfaceOffer _ _
  | .mbxPutLo .. => preserves_execMbxPutLo _ _ _
  | .mbxPutHi .. => preserves_execMbxPutHi _ _ _
  | .mbxGetLo .. => preserves_execMbxGetLo _ _
  | .mbxGetHi .. => preserves_execMbxGetHi _ _
  | .mbxOwnerWrite .. => preserves_execMbxOwnerWrite _ _ _
  | .irqClaim .. => preserves_execIrqClaim _ _
  | .irqComplete .. => preserves_execIrqComplete _ _ _
  | .irqSwTrigger .. => preserves_execIrqSwTrigger _ _
  | .irqMissedClear .. => preserves_execIrqMissedClear _ _
  | .holdoffExpiry .. => preserves_execHoldoffExpiry _
  | .evEnWrite .. => preserves_execEvEnWrite _ _ _
  | .evForceWrite .. => preserves_execEvForceWrite _ _ _
  | .registerLoRead .. => preserves_execRegisterLoRead _ _
  | .absentPageAccess .. => preserves_execAbsentPageAccess _ _ _
  | .accessFault .. => preserves_execAccessFault _ _ _ _
  | .registerWrite .. => preserves_execRegisterWrite _ _ _
  | .extInputRawChange .. => preserves_execExtInputRawChange _ _
  | .extInputFiltered .. => preserves_execExtInputFiltered _
  | .inputStuck .. => preserves_execInputStuck _
  | .ppsEdge => preserves_execPpsEdge
  | .ptpMessage .. => preserves_execPtpMessage _
  | .mgtLinkChange .. => preserves_execMgtLinkChange _ _
  | .mgtPtpPortWrite .. => preserves_execMgtPtpPortWrite _ _
  | .rollCall => preserves_execRollCall
  | .attestationRequest .. => preserves_execAttestationRequest _
  | .debugUnlockToken .. => preserves_execDebugUnlockToken _
  | .tlsHandshake .. => preserves_execTlsHandshake _
  | .recoveryBundle .. => preserves_execRecoveryBundle _
  | .scrubRead .. => preserves_execScrubRead _ _ _
  | .refclkPresent => preserves_execRefclkPresent
  | .refclkLoss => preserves_execRefclkLoss
  | .prsntMate => preserves_execPrsntMate
  | .insertionDebounceEnd .. => preserves_execInsertionDebounceEnd _
  | .rampComplete => preserves_execRampComplete
  | .rampFault => preserves_execRampFault
  | .rampRetry => preserves_execRampRetry
  | .resetRelease .. => preserves_execResetRelease _ _
  | .bootStageComplete .. => preserves_execBootStageComplete _
  | .dramFillComplete .. => preserves_execDramFillComplete _
  | .graceExpiry => preserves_execGraceExpiry
  | .hotQuiesceWrite .. => preserves_execHotQuiesceWrite _ _
  | .surpriseRemoval => preserves_execSurpriseRemoval
  | .overcurrentTrip => preserves_execOvercurrentTrip
  | .shedLevelEnter .. => preserves_execShedLevelEnter _ _
  | .shedLevelLeave .. => preserves_execShedLevelLeave _
  | .sagRestart .. => preserves_execSagRestart _
  | .pwrSagCfgWrite .. => preserves_execPwrSagCfgWrite _ _ _
  | .controlledPowerOff => preserves_execControlledPowerOff
  | .powerOffRailStep => preserves_execPowerOffRailStep
  | .railFault .. => preserves_execRailFault _ _
  | .powerManagerPeriod .. => preserves_execPowerManagerPeriod _ _ _
  | .thermalPeriod .. => preserves_execThermalPeriod _ _ _
  | .thermalTrip .. => preserves_execThermalTrip _
  | .tripRestart => preserves_execTripRestart
  | .transmitSlot .. => preserves_execTransmitSlot _
  | .cycleStretch .. => preserves_execCycleStretch _
  | .sramParityError .. => preserves_execSramParityError _
  | .softwareReset => preserves_execSoftwareReset
  | .supplyApplied => preserves_execSupplyApplied
  | .supplyRemoved => preserves_execSupplyRemoved
  | .prsntBreak => preserves_execPrsntBreak
  | .captureReplayBlock => preserves_execCaptureReplayBlock

/-- A command that stores nothing leaves every byte alone but those of the blocks that its own reads lose. -/
theorem exec_leaving_of_storesNothing {c : Instr} (hc : storesNothing c = true)
    (hb : ∀ a, B a = true → lostBy (blocksRead c) a = false) : Leaving B s (exec c s) := by
  cases c with
  | nop => exact leaving_execNop _
  | fence => exact leaving_execFence _
  | fenceComplete => exact leaving_execFenceComplete _
  | flush => exact leaving_execFlush _
  | flushComplete => exact leaving_execFlushComplete _
  | wait => exact leaving_execWait _
  | waitComplete => exact leaving_execWaitComplete _
  | waitTimeout => exact leaving_execWaitTimeout _
  | setpred => exact leaving_execSetpred _ _ hb
  | call => exact leaving_execCall _
  | ret => exact leaving_execRet _
  | compassTimeout => exact leaving_execCompassTimeout _ _
  | release => exact leaving_execRelease
  | stop => exact leaving_execStop _
  | go => exact leaving_execGo _
  | leg => exact leaving_execLeg
  | legTimeout => exact leaving_execLegTimeout
  | fix => exact leaving_execFix
  | fixVote => exact leaving_execFixVote _
  | fixTimeout => exact leaving_execFixTimeout
  | flushCount => exact leaving_execFlushCount _
  | skRequest => exact leaving_execSkRequest _
  | skAccept => exact leaving_execSkAccept _
  | skVerdict => exact leaving_execSkVerdict _
  | skDecision => exact leaving_execSkDecision _
  | skCancel => exact leaving_execSkCancel _
  | skTimeout => exact leaving_execSkTimeout
  | commandDecode => exact leaving_execCommandDecode _ _ hb
  | commandReject => exact leaving_execCommandReject _
  | operationBoundary => exact leaving_execOperationBoundary _
  | bfOverrun => exact leaving_execBfOverrun
  | seqCounterAdd => exact leaving_execSeqCounterAdd _ _ _
  | bfEnableWrite => exact leaving_execBfEnableWrite _ _
  | bfEnableEffect => exact leaving_execBfEnableEffect
  | bfResume => exact leaving_execBfResume _ _
  | linkControlWord => exact leaving_execLinkControlWord _ _
  | parkWord => exact leaving_execParkWord _
  | fabEnableWrite => exact leaving_execFabEnableWrite _ _ _
  | trainingAttemptEnd => exact leaving_execTrainingAttemptEnd _ _
  | laneLockLoss => exact leaving_execLaneLockLoss _ _
  | chtPackageWrite => exact leaving_execChtPackageWrite _ _
  | chartLoad => exact leaving_execChartLoad _ _ _ hb
  | chartLoadReplay => exact leaving_execChartLoadReplay _ _ _ hb
  | postWriteAcked => exact leaving_execPostWriteAcked _ hb
  | chkCoreReq => exact leaving_execChkCoreReq _ _
  | pin => exact leaving_execPin _ _
  | unpin => exact leaving_execUnpin _ _
  | redStepNfForce => exact leaving_execRedStepNfForce _ _
  | logNextRead => exact leaving_execLogNextRead _
  | logSpill => exact leaving_execLogSpill
  | spillComplete => exact leaving_execSpillComplete _
  | hubIfaceOffer => exact leaving_execHubIfaceOffer _ _
  | mbxPutLo => exact leaving_execMbxPutLo _ _ _
  | mbxPutHi => exact leaving_execMbxPutHi _ _ _
  | mbxGetLo => exact leaving_execMbxGetLo _ _
  | mbxGetHi => exact leaving_execMbxGetHi _ _
  | mbxOwnerWrite => exact leaving_execMbxOwnerWrite _ _ _
  | irqClaim => exact leaving_execIrqClaim _ _
  | irqComplete => exact leaving_execIrqComplete _ _ _
  | irqSwTrigger => exact leaving_execIrqSwTrigger _ _
  | irqMissedClear => exact leaving_execIrqMissedClear _ _
  | holdoffExpiry => exact leaving_execHoldoffExpiry _
  | evForceWrite => exact leaving_execEvForceWrite _ _ _
  | registerLoRead => exact leaving_execRegisterLoRead _ _
  | absentPageAccess => exact leaving_execAbsentPageAccess _ _ _
  | accessFault => exact leaving_execAccessFault _ _ _ _
  | extInputRawChange => exact leaving_execExtInputRawChange _ _
  | extInputFiltered => exact leaving_execExtInputFiltered _
  | inputStuck => exact leaving_execInputStuck _
  | ppsEdge => exact leaving_execPpsEdge
  | ptpMessage => exact leaving_execPtpMessage _
  | mgtLinkChange => exact leaving_execMgtLinkChange _ _
  | rollCall => exact leaving_execRollCall
  | attestationRequest => exact leaving_execAttestationRequest _
  | debugUnlockToken => exact leaving_execDebugUnlockToken _
  | tlsHandshake => exact leaving_execTlsHandshake _
  | refclkPresent => exact leaving_execRefclkPresent
  | refclkLoss => exact leaving_execRefclkLoss
  | prsntMate => exact leaving_execPrsntMate
  | insertionDebounceEnd => exact leaving_execInsertionDebounceEnd _
  | rampComplete => exact leaving_execRampComplete
  | rampFault => exact leaving_execRampFault
  | rampRetry => exact leaving_execRampRetry
  | dramFillComplete => exact leaving_execDramFillComplete _
  | graceExpiry => exact leaving_execGraceExpiry
  | hotQuiesceWrite => exact leaving_execHotQuiesceWrite _ _
  | shedLevelEnter => exact leaving_execShedLevelEnter _ _
  | shedLevelLeave => exact leaving_execShedLevelLeave _
  | sagRestart => exact leaving_execSagRestart _
  | controlledPowerOff => exact leaving_execControlledPowerOff
  | railFault => exact leaving_execRailFault _ _
  | powerManagerPeriod => exact leaving_execPowerManagerPeriod _ _ _
  | thermalPeriod => exact leaving_execThermalPeriod _ _ _
  | thermalTrip => exact leaving_execThermalTrip _
  | tripRestart => exact leaving_execTripRestart
  | transmitSlot => exact leaving_execTransmitSlot _
  | cycleStretch => exact leaving_execCycleStretch _
  | sramParityError => exact leaving_execSramParityError _
  | supplyApplied => exact leaving_execSupplyApplied
  | prsntBreak => exact leaving_execPrsntBreak
  | captureReplayBlock => exact leaving_execCaptureReplayBlock
  | _ => exact absurd hc Bool.false_ne_true

/-- A command that is no write to configuration and no reset leaves the configuration alone. -/
theorem exec_leaving {c : Instr} (hconf : configures c = false) (hreset : resets c = false) :
    Leaving noBytes s (exec c s) := by
  cases hc : storesNothing c with
  | true => exact exec_leaving_of_storesNothing hc fun _ h => absurd h Bool.false_ne_true
  | false =>
    cases c with
    | stamp => exact leaving_execStamp _ _
    | matmul => exact leaving_execMatmul _ _
    | matmulH => exact leaving_execMatmulH _ _
    | vprog => exact leaving_execVprog _ _
    | softmax => exact leaving_execSoftmax _ _
    | normRms => exact leaving_execNormRms _ _
    | normLayer => exact leaving_execNormLayer _ _
    | vkernelReduce => exact leaving_execVkernelReduce _ _
    | attnStat => exact leaving_execAttnStat _ _
    | loss => exact leaving_execLoss _ _
    | tload => exact leaving_execTload _ _
    | copy => exact leaving_execCopy _ _
    | transpose => exact leaving_execTranspose _ _
    | route => exact leaving_execRoute _
    | count => exact leaving_execCount _ _
    | grant => exact leaving_execGrant _ _
    | place => exact leaving_execPlace _ _
    | dispatch => exact leaving_execDispatch _
    | xchgReturn => exact leaving_execXchgReturn _
    | combine => exact leaving_execCombine _
    | gradDispatch => exact leaving_execGradDispatch _
    | gradReturn => exact leaving_execGradReturn _
    | ready => exact leaving_execReady _ _
    | data => exact leaving_execData _ _
    | xchgComplete => exact leaving_execXchgComplete _ _ _ _
    | xchgTimeout => exact leaving_execXchgTimeout _ _ _
    | reduceSum => exact leaving_execReduceSum _
    | reduceTally => exact leaving_execReduceTally _
    | reduceMax => exact leaving_execReduceMax _
    | reduceConsensus => exact leaving_execReduceConsensus _
    | agree => exact leaving_execAgree _ _
    | ec48 => exact leaving_execEc48 _ _
    | topk => exact leaving_execTopk _ _
    | sign => exact leaving_execSign _ _
    | fast => exact leaving_execFast _ _
    | tally => exact leaving_execTally _ _
    | consensus => exact leaving_execConsensus _ _
    | reduceComplete => exact leaving_execReduceComplete _ _
    | reduceTimeout => exact leaving_execReduceTimeout _
    | helmSetStep => exact leaving_execHelmSetStep _
    | helmSetNorm => exact leaving_execHelmSetNorm _
    | helmSetCoef => exact leaving_execHelmSetCoef _
    | helmSetDecay => exact leaving_execHelmSetDecay _
    | helmUpdate => exact leaving_execHelmUpdate _
    | send => exact leaving_execSend _
    | sendComplete => exact leaving_execSendComplete _ _
    | sendTimeout => exact leaving_execSendTimeout _
    | pipelineBlock => exact leaving_execPipelineBlock _ _
    | legSwitch => exact leaving_execLegSwitch _
    | barrier => exact leaving_execBarrier _ _
    | logmarkNote => exact leaving_execLogmarkNote
    | logmarkTensor => exact leaving_execLogmarkTensor _
    | logmarkRange => exact leaving_execLogmarkRange _
    | linkBlockReceive => exact leaving_execLinkBlockReceive _ _ _
    | remoteWriteBlock => exact leaving_execRemoteWriteBlock _ _
    | stateRequestActive => exact leaving_execStateRequestActive _ _ _
    | stateRequestDraining => exact leaving_execStateRequestDraining _ _ _
    | stateRequestReady => exact leaving_execStateRequestReady _ _ _
    | stateRequestQuarantine => exact leaving_execStateRequestQuarantine _ _ _
    | drainComplete => exact leaving_execDrainComplete _
    | scrubRead => exact leaving_execScrubRead _ _ _
    | seqTailWrite | postTailWrite | cmpTrackRecordWrite | hlmRingSlotWrite | logDrainedWrite | evEnWrite | registerWrite |
      mgtPtpPortWrite | pwrSagCfgWrite =>
      exact absurd hconf.symm Bool.false_ne_true
    | recoveryBundle | resetRelease | bootStageComplete | surpriseRemoval | overcurrentTrip | powerOffRailStep |
      softwareReset | supplyRemoved =>
      exact absurd hreset.symm Bool.false_ne_true
    | _ => exact absurd hc.symm Bool.false_ne_true
/-- On an empty queue the clock ticks. -/
theorem step_nil (h : s.pending = []) : step s = .next s.tick := by
  unfold step
  rw [h]

theorem step_cons {c : Instr} {rest : List Instr} (h : s.pending = c :: rest) :
    step s = exec c { s with pending := rest } := by
  unfold step
  rw [h]

theorem StateKept.tick : StateKept s s.tick := StateKept.onDev (Keeps.refl.tick _)

/-- A step keeps what makes a state sound: a tick, or the front command's effect, which does not see the queue. -/
theorem step_preserves : Preserves s (step s) := by
  cases hq : s.pending with
  | nil =>
    rw [step_nil hq]
    exact Preserves.next StateKept.tick
  | cons c rest =>
    rw [step_cons hq]
    exact Preserves.after (t := { s with pending := rest }) ⟨Keeps.refl, id, id, id⟩ (exec_preserves c)

theorem Dev.tick_running (d : Dev) : d.tick true = Dev.runFlush 2 { d with now := d.now + 1 } := rfl

/-- A tick raises the time by 1 ns: the flush that goes on does not move it. -/
theorem Dev.tick_now (d : Dev) (running : Bool) : (d.tick running).now = d.now + 1 := by
  cases running with
  | false => rfl
  | true =>
    rw [Dev.tick_running]
    exact ((Keeps.refl (level := true)).runFlush 2).now rfl

end

/-! Every command answers. -/

/-- The outcome is a next state with the same commands waiting. -/
def Answers (s : State) (x : Host.Outcome State Fault Refusal) : Prop := ∃ t, x = .next t ∧ t.pending = s.pending

section
variable {s t u : State}

theorem Answers.next (h : t.pending = s.pending) : Answers s (.next t) := ⟨t, rfl, h⟩

theorem Answers.ite {c : Prop} [Decidable c] (ht : t.pending = s.pending) (hu : u.pending = s.pending) :
    Answers s (.next (if c then t else u)) := by
  split
  · exact .next ht
  · exact .next hu

theorem Answers.act {f : Dev → Dev} : Answers s (s.act f) := .ite rfl rfl

theorem Answers.kernel {st : Stream} {ev : OpEvents} {kind : Nat}
    {effect : Decoded → KernelCmd → Option Kept → ByteSource → Dev → Dev} : Answers s (s.kernel st ev kind effect) := .act

theorem Answers.copy {st : Stream} {ev : OpEvents} {transpose : Bool} : Answers s (s.copy st ev transpose) := .act

theorem Answers.xchg {ev : OpEvents} {kind : Nat} {effect : Decoded → XchgCmd → Bool → ByteSource → Dev → Dev} :
    Answers s (s.xchg ev kind effect) := .act

theorem Answers.reduce {ev : OpEvents} {kind : Nat} : Answers s (s.reduce ev kind) := .act

theorem Answers.helmSet {ev : OpEvents} {kind : Nat} : Answers s (s.helmSet ev kind) := .act

theorem Answers.logmark {ev : OpEvents} {kind : Nat} : Answers s (s.logmark ev kind) := .act

/-! The accesses of the harts. -/

theorem State.atMailbox_pending {hart : Nat} {f : Hart → State} (hf : ∀ h, (f h).pending = s.pending) :
    (s.atMailbox hart f).pending = s.pending := by
  unfold State.atMailbox
  split
  · exact hf _
  · rfl

@[simp] theorem State.byHart_pending (hart : Nat) (f : Dev → Dev) : (s.byHart hart f).pending = s.pending := by
  unfold State.byHart
  split <;> rfl

@[simp] theorem State.onHart_pending (hart : Nat) (f : Hart → Hart) : (s.onHart hart f).pending = s.pending := by
  unfold State.onHart
  split <;> rfl

@[simp] theorem State.hartReads_pending (hart : Nat) (f : Dev → Word × Dev) : (s.hartReads hart f).pending = s.pending := by
  unfold State.hartReads
  split <;> rfl

@[simp] theorem State.readMailbox_pending (hart m : Nat) (f : Mailbox → Word × Mailbox) :
    (s.readMailbox hart m f).pending = s.pending := by
  unfold State.readMailbox
  refine State.atMailbox_pending fun h => ?_
  dsimp only
  split <;> rfl

theorem Answers.byHart {hart : Nat} {f : Dev → Dev} : Answers s (.next (s.byHart hart f)) := .next (State.byHart_pending hart f)

theorem Answers.access {hart : Nat} {p : Page} {w : Bool} {f : Dev → Dev} : Answers s (s.access hart p w f) := .byHart

theorem answers_irqClaim (hart reader : Fin 28) : Answers s (execIrqClaim hart reader s) := by
  unfold execIrqClaim
  refine .next (State.atMailbox_pending fun h => ?_)
  dsimp only
  split <;> rfl

theorem answers_irqComplete (hart writer : Fin 28) (v : Word) : Answers s (execIrqComplete hart writer v s) := by
  unfold execIrqComplete
  refine .next (State.atMailbox_pending fun h => ?_)
  split
  · rfl
  · split
    · split <;> rfl
    · rfl

theorem answers_registerWrite (hart : Fin 28) (addr : Nat) (v : Word) : Answers s (execRegisterWrite hart addr v s) := by
  unfold execRegisterWrite
  split
  · split
    · split
      · exact .next rfl
      · exact .access
    · exact .next rfl
  · exact .next rfl

theorem answers_registerLoRead (hart : Fin 28) (addr : Nat) : Answers s (execRegisterLoRead hart addr s) := by
  unfold execRegisterLoRead
  split
  · refine .next ?_
    split
    · split
      · exact State.onHart_pending ..
      · rfl
    · rfl
  · exact .next rfl

theorem answers_absentPageAccess (hart : Fin 28) (addr : Nat) (write : Bool) :
    Answers s (execAbsentPageAccess hart addr write s) := by
  unfold execAbsentPageAccess
  refine .next ?_
  split
  · split
    · dsimp only
      split
      · exact State.byHart_pending ..
      · rw [State.onHart_pending, State.byHart_pending]
    · rfl
  · rfl

/-! Resets, boot and the carrier controller. -/

@[simp] theorem State.release_pending (cause : Nat) : (s.release cause).pending = s.pending := rfl

@[simp] theorem State.cutPower_pending (p : CarrierPhase) : (s.cutPower p).pending = s.pending := rfl

@[simp] theorem State.powerOff_pending (p : CarrierPhase) : (s.powerOff p).pending = s.pending := rfl

@[simp] theorem State.restart_pending (cause : Nat) : (s.restart cause).pending = s.pending := rfl

@[simp] theorem State.resetPackage_pending (cause : Nat) : (s.resetPackage cause).pending = s.pending := by
  unfold State.resetPackage
  split <;> rfl

@[simp] theorem State.stage6Fails_pending (code : Nat) : (s.stage6Fails code).pending = s.pending :=
  State.resetPackage_pending _

@[simp] theorem State.stage2_pending : s.stage2.pending = s.pending := by
  unfold State.stage2
  dsimp only
  split <;> rfl

@[simp] theorem State.stage6_pending : s.stage6.pending = s.pending := by
  unfold State.stage6
  dsimp only
  split
  · exact State.stage6Fails_pending _
  · split
    · exact State.stage6Fails_pending _
    · rfl

@[simp] theorem State.stageDone_pending : s.stageDone.pending = s.pending := by
  unfold State.stageDone
  dsimp only
  split
  case h_1 => split <;> rfl
  case h_2 => exact State.stage2_pending
  case h_4 => split <;> rfl
  case h_6 => exact State.stage6_pending
  all_goals rfl

theorem answers_bootStageComplete (result : StageResult) : Answers s (execBootStageComplete result s) := by
  refine .ite ?_ rfl
  cases result with
  | done => exact State.stageDone_pending
  | failed code =>
    dsimp only
    split
    · exact State.stage6Fails_pending _
    · rfl

theorem answers_recoveryBundle (bundle : List Byte) : Answers s (execRecoveryBundle bundle s) := by
  refine .ite ?_ rfl
  dsimp only
  split
  · exact State.resetPackage_pending _
  · rfl

theorem answers_railFault (rail : Rail) (microvolts : Nat) : Answers s (execRailFault rail s microvolts) := by
  refine .ite ?_ rfl
  cases rail with
  | core x =>
    dsimp only
    split <;> rfl
  | carrier | hub | base | dram | serdes => rfl

theorem answers_powerOffRailStep : Answers s (execPowerOffRailStep s) := by
  refine .next ?_
  split
  · split
    · rfl
    · split <;> rfl
  · rfl

theorem answers_prsntBreak : Answers s (execPrsntBreak s) := by
  refine .next ?_
  dsimp only
  split
  · rfl
  · rfl
  · split <;> rfl

theorem answers_controlledPowerOff : Answers s (execControlledPowerOff s) := by
  refine .ite ?_ rfl
  split
  · rfl
  · split <;> rfl

theorem answers_extInputRawChange (input : Fin 5) (level : Bool) : Answers s (execExtInputRawChange input level s) := by
  refine .ite rfl ?_
  dsimp only
  split <;> rfl

/-- An outcome for the state with the input's samples is one for the state. -/
theorem Answers.sampled {input : List InputRun} {x : Host.Outcome State Fault Refusal} (h : Answers (s.sample input) x) :
    Answers s x := by
  obtain ⟨t, hx, ht⟩ := h
  exact ⟨t, hx, ht.trans (State.sample_pending s input)⟩

theorem answers_powerManagerPeriod (input : List InputRun) (watts peakWatts : Nat) :
    Answers s (execPowerManagerPeriod input watts peakWatts s) := by
  unfold execPowerManagerPeriod
  exact .sampled .act

theorem answers_shedLevelEnter (level : Fin 6) (input : List InputRun) : Answers s (execShedLevelEnter level s input) := by
  unfold execShedLevelEnter
  exact .sampled .act

theorem answers_shedLevelLeave (input : List InputRun) : Answers s (execShedLevelLeave s input) := by
  unfold execShedLevelLeave
  exact .sampled .act

/-- Every command answers a next state with the same commands waiting. -/
theorem exec_answers (c : Instr) : Answers s (exec c s) := by
  unfold exec
  cases c with
  | nop | fence | fenceComplete | flush | flushComplete | wait | waitComplete | waitTimeout | setpred | stamp | call | ret |
    matmul | matmulH | vprog | tload | route | count | grant | place | compassTimeout | ready | data | xchgComplete |
    xchgTimeout | agree | ec48 | topk | sign | fast | tally | consensus | reduceComplete | reduceTimeout | helmUpdate | send |
    sendComplete | sendTimeout | release | pipelineBlock | stop | go | leg | legSwitch | barrier | legTimeout | fix | fixVote |
    fixTimeout | flushCount | skRequest | skAccept | skVerdict | skDecision | skCancel | skTimeout | commandDecode |
    commandReject | operationBoundary | bfOverrun | bfEnableEffect | linkBlockReceive | linkControlWord | remoteWriteBlock |
    parkWord | trainingAttemptEnd | laneLockLoss | postWriteAcked | drainComplete | logSpill | spillComplete | holdoffExpiry |
    extInputFiltered | inputStuck | ppsEdge | ptpMessage | mgtLinkChange | rollCall | debugUnlockToken | tlsHandshake |
    scrubRead | dramFillComplete | graceExpiry | thermalPeriod | transmitSlot | cycleStretch | sramParityError |
    captureReplayBlock => exact .act
  | softmax | normRms | normLayer | vkernelReduce | attnStat | loss => exact .kernel
  | copy | transpose => exact .copy
  | dispatch | xchgReturn | combine | gradDispatch | gradReturn => exact .xchg
  | reduceSum | reduceTally | reduceMax | reduceConsensus => exact .reduce
  | helmSetStep | helmSetNorm | helmSetCoef | helmSetDecay => exact .helmSet
  | logmarkNote | logmarkTensor | logmarkRange => exact .logmark
  | seqTailWrite | seqCounterAdd | bfEnableWrite | bfResume | fabEnableWrite | chtPackageWrite | chartLoad | chartLoadReplay |
    postTailWrite | chkCoreReq | pin | unpin | cmpTrackRecordWrite | hlmRingSlotWrite | redStepNfForce | logDrainedWrite |
    hubIfaceOffer | irqSwTrigger | irqMissedClear | mgtPtpPortWrite | hotQuiesceWrite | pwrSagCfgWrite => exact .byHart
  | stateRequestActive | stateRequestDraining | stateRequestReady | stateRequestQuarantine | evEnWrite | evForceWrite =>
    exact .access
  | logNextRead => exact .next (State.hartReads_pending ..)
  | mbxPutLo | mbxPutHi | mbxOwnerWrite => exact .next (State.atMailbox_pending fun _ => rfl)
  | mbxGetLo | mbxGetHi => exact .next (State.readMailbox_pending ..)
  | irqClaim => exact answers_irqClaim _ _
  | irqComplete => exact answers_irqComplete _ _ _
  | registerWrite => exact answers_registerWrite _ _ _
  | registerLoRead => exact answers_registerLoRead _ _
  | absentPageAccess => exact answers_absentPageAccess _ _ _
  | accessFault => exact .ite (State.onHart_pending ..) rfl
  | attestationRequest | thermalTrip | refclkPresent | refclkLoss | supplyApplied | supplyRemoved | prsntMate | rampComplete |
    rampFault | rampRetry | tripRestart | surpriseRemoval | overcurrentTrip => exact .ite rfl rfl
  | softwareReset => exact .ite (State.resetPackage_pending _) rfl
  | recoveryBundle => exact answers_recoveryBundle _
  | bootStageComplete => exact answers_bootStageComplete _
  | railFault => exact answers_railFault _ _
  | controlledPowerOff => exact answers_controlledPowerOff
  | prsntBreak => exact answers_prsntBreak
  | extInputRawChange => exact answers_extInputRawChange _ _
  | powerOffRailStep => exact answers_powerOffRailStep
  | insertionDebounceEnd | resetRelease | sagRestart => exact .sampled (.ite rfl rfl)
  | powerManagerPeriod => exact answers_powerManagerPeriod _ _ _
  | shedLevelEnter => exact answers_shedLevelEnter _ _
  | shedLevelLeave => exact answers_shedLevelLeave _

end

end Sys2Proof.Machine

namespace Sys2Proof.Proofs
set_option Elab.async false
open Sys2Proof Sys2Proof.Machine

/-- Settles O1: the definition of a step, at a queue with a front. -/
theorem stepRunsFrontCommand : Obligations.StepRunsFrontCommand := by
  unfold Obligations.StepRunsFrontCommand
  exact fun _ _ _ h => step_cons h

/-- Settles O2: the tick moves the time; the flush that goes on stores in the Logbook's region alone. -/
theorem emptyQueueTicks : Obligations.EmptyQueueTicks := by
  unfold Obligations.EmptyQueueTicks
  intro s hq hd
  obtain ⟨hconfig, hmemory⟩ : s.dev.Calm _ := (Leaves.refl.tick (s.carrier.phase == .running)).calm hd
  refine ⟨_, step_nil hq, Dev.tick_now _ _, hconfig, hmemory, fun hphase => ?_⟩
  rw [beq_eq_false_iff_ne.mpr hphase]
  rfl

/-- Settles O3: nothing is listed in memory or among the registers, and nothing is claimed or waits in a mailbox. -/
theorem resetIsSound : Obligations.ResetIsSound := by
  unfold Obligations.ResetIsSound
  exact ⟨⟨rfl, rfl⟩, hartsReset_length, mailboxesSound_reset, claimsSound_reset⟩

/-- Settles O4: what a step keeps makes the next state sound. -/
theorem everyStepKeepsSound : Obligations.EveryStepKeepsSound := by
  unfold Obligations.EveryStepKeepsSound
  intro s t hs ht
  exact (step_preserves t ht).sound hs

/-- Settles O5: each shape of row answers with the state's own queue. -/
theorem commandsComplete : Obligations.CommandsComplete := by
  unfold Obligations.CommandsComplete
  exact fun c _ => exec_answers c

/-- Settles O6: no row but the harts' writes and the resets moves configuration. -/
theorem configurationIsSoftwares : Obligations.ConfigurationIsSoftwares := by
  unfold Obligations.ConfigurationIsSoftwares
  intro c s t hd hconf hreset ht
  exact (exec_leaving hconf hreset t ht).config hd.2

/-- Settles O7: the rows that store nothing leave every byte but those of the blocks their reads lose. -/
theorem commandsThatStoreNothing : Obligations.CommandsThatStoreNothing := by
  unfold Obligations.CommandsThatStoreNothing
  intro c s t hd hc ht a ha hlost
  have h : Leaving (fun a => !lostBy (blocksRead c) a) s (exec c s) :=
    exec_leaving_of_storesNothing hc fun a h => by simpa using h
  exact (h t ht).byte hd.1 a (by simp [hlost]) ha

end Sys2Proof.Proofs

/-! The sequencer's own commands: what each row does once its guard holds, over the shared operations' lemmas. -/
namespace Sys2Proof.Machine
set_option Elab.async false

section
variable {s : State} {st : Stream} {c : Decoded} {d : Dev}

/-- What a row leaves alone it leaves calm. -/
theorem Leaving.calm {x : Host.Outcome State Fault Refusal} (h : Leaving (fun _ => true) s x)
    (hx : x = .next { s with dev := d }) (hd : s.dev.Tidy) : s.dev.Calm d :=
  (h _ hx).calm hd

/-- What a row leaves alone but for the blocks that its reads lose. -/
theorem Leaving.calmBut {blocks : List BlockFinding} {x : Host.Outcome State Fault Refusal}
    (h : Leaving (fun a => !lostBy blocks a) s x) (hx : x = .next { s with dev := d }) (hd : s.dev.Tidy) :
    s.dev.CalmBut d blocks :=
  ⟨(h _ hx).config hd.2, fun a ha hl => (h _ hx).byte hd.1 a (by simp [hl]) ha⟩

theorem Leaving.sameConfig {B : Nat → Bool} {x : Host.Outcome State Fault Refusal} (h : Leaving B s x)
    (hx : x = .next { s with dev := d }) (hd : s.dev.Tidy) : s.dev.SameConfig d := (h _ hx).config hd.2

/-! Where CALL and RETURN leave the stream (R135). -/

/-- A command that completes as it issues at a place within the ring leaves the stream at that place. -/
theorem place_completeAt_issue (hd : Assoc.wf regReset d.regs = true) {p : Place} (hp : p.head < 2 ^ 20) :
    ((d.issue st c true false).completeAt st c p).place st = p := by
  have hhead := (completeAt_head (issue_wf hd st c true false) st c p hp).1
  have hframes := completeAt_frames (d.issue st c true false) st c p
  unfold Dev.place
  rw [hhead, hframes]

/-- A command that completes as it issues and stays at the stream's head leaves SEQ_HEAD as it was. -/
theorem seqHead_completeAt_issue (hd : Assoc.wf regReset d.regs = true) (frames : List Frame) :
    ((d.issue st c true false).completeAt st c ⟨frames, (d.place st).head⟩).reg (Reg.seqHead (sidx st)) =
      d.reg (Reg.seqHead (sidx st)) := by
  have hreg : (d.issue st c true false).reg (Reg.seqHead (sidx st)) = d.reg (Reg.seqHead (sidx st)) :=
    issue_reg hd st c _ _ (by cases st <;> decide)
  refine ((completeAt_head (issue_wf hd st c true false) st c _ (ringField_lt d _)).2 ?_).trans hreg
  show d.fld _ 19 0 = Dev.fld _ _ 19 0
  unfold Dev.fld
  rw [hreg]

theorem Completed.completeAt_issue (p : Place) : d.Completed ((d.issue st c true false).completeAt st c p) st :=
  Completed.of_issued (Issued.of_issue Keeps.refl st c) p

theorem exec_nop (hr : s.carrier.phase = .running) (hn : s.dev.next? st = some c) (hc : c.cmd = .nop) :
    exec (.nop st) s = .next { s with dev := s.dev.instant st c id } := by
  show execNop st s = _
  exact act_issue hr hn (by simp only [hc])

theorem exec_call (hr : s.carrier.phase = .running) (hd : s.dev.Tidy) (hn : s.dev.next? st = some c) {k : CallCmd}
    (hc : c.cmd = .call k) : exec (.call st) s = .next { s with dev := ((s.dev.issue st c true false).completeAt st c
        ⟨⟨k.list, 0, k.count, k.dtable, k.dcount⟩ :: (s.dev.stream st).frames, (s.dev.place st).head⟩) } := by
  show execCall st s = _
  refine act_issue hr hn ?_
  simp only [hc, place_issue hd.2]
  rfl

theorem exec_ret (hr : s.carrier.phase = .running) (hd : s.dev.Tidy) (hn : s.dev.next? st = some c) (hc : c.cmd = .ret) :
    exec (.ret st) s = .next { s with dev := ((s.dev.issue st c true false).completeAt st c
        (nextIn (s.dev.ringSize st) (s.dev.place st).head (s.dev.place st).frames.tail)) } := by
  show execRet st s = _
  refine act_issue hr hn ?_
  simp only [hc, place_issue hd.2, ringSize_issue hd.2]

/-! FENCE, FLUSH and WAIT (R149 to R151). -/

theorem exec_fence (hr : s.carrier.phase = .running) (hn : s.dev.next? st = some c) {v : Word} (hc : c.cmd = .fence v) :
    exec (.fence st) s = .next { s with dev := s.dev.issue st c false true } := by
  show execFence st s = _
  exact act_issue hr hn (by simp only [hc])

theorem exec_flush (hr : s.carrier.phase = .running) (hn : s.dev.next? st = some c) (hc : c.cmd = .flush) :
    exec (.flush st) s = .next { s with dev := s.dev.issue st c false true } := by
  show execFlush st s = _
  exact act_issue hr hn (by simp only [hc])

theorem exec_wait (hr : s.carrier.phase = .running) (hd : s.dev.Tidy) (hn : s.dev.next? st = some c) {w : WaitCmd}
    (hc : c.cmd = .wait w) : exec (.wait st) s = .next { s with dev :=
      (if s.dev.waitHolds st w then (s.dev.issue st c false true).endWait st c else s.dev.issue st c false true) } := by
  show execWait st s = _
  refine act_issue hr hn ?_
  simp only [hc, waitHolds_issue hd.2]

theorem Completed.endWait {o : Dev} (h : o.Completed (d.complete st c) st) : o.Completed (d.endWait st c) st :=
  Completed.keeps h (endWait_keeps d st c)

/-! A stream's waiting command ends. -/

variable {r : Running}

theorem waits_running (h : d.waits st = some r) : (d.stream st).running = some r := by
  unfold Dev.waits at h
  split at h
  · rename_i q hq
    split at h
    · rw [hq, h]
    · cases h
  · cases h

theorem exec_fenceComplete (hr : s.carrier.phase = .running) (hw : s.dev.waits st = some r) {v : Word}
    (hc : r.dec.cmd = .fence v) : exec (.fenceComplete st) s = .next { s with dev :=
      (((s.dev.setReg (Reg.seqFenceValue (sidx st)) v).raise (seqPage st) 1).complete st r.dec).settle st } := by
  show execFenceComplete st s = _
  exact act_next hr (by simp only [hw, hc])

theorem exec_flushComplete (hr : s.carrier.phase = .running) (hw : s.dev.waits st = some r) (hc : r.dec.cmd = .flush) :
    exec (.flushComplete st) s = .next { s with dev :=
      ((s.dev.complete st r.dec).setStream st fun x => { x with ahead := [], hazard := [] }) } := by
  show execFlushComplete st s = _
  exact act_next hr (by simp only [hw, hc])

theorem exec_waitComplete (hr : s.carrier.phase = .running) (hw : s.dev.waits st = some r) {w : WaitCmd}
    (hc : r.dec.cmd = .wait w) (hh : s.dev.waitHolds st w = true) :
    exec (.waitComplete st) s = .next { s with dev := s.dev.endWait st r.dec } := by
  show execWaitComplete st s = _
  exact act_next hr (by simp only [hw, hc, hh, if_true])

theorem exec_waitTimeout (hr : s.carrier.phase = .running) (hw : s.dev.waits st = some r) {w : WaitCmd}
    (hc : r.dec.cmd = .wait w) (ht : w.timeoutUs ≠ 0) (hover : r.issued + us w.timeoutUs ≤ s.dev.now)
    (hh : s.dev.waitHolds st w = false) :
    exec (.waitTimeout st) s = .next { s with dev := s.dev.rejectRun st r.dec rTimeout } := by
  show execWaitTimeout st s = _
  exact act_next hr (by simp [hw, hc, hh, ht, Dev.overdue, hover])

theorem Pends.complete {p : Page} {b : Nat} (h : Pends d p b) (st : Stream) (c : Decoded) : Pends (d.complete st c) p b :=
  h.completeAt st c _

theorem fenceValue_unmoved (st : Stream) : Unmoved st (Reg.seqFenceValue (sidx st)) :=
  unmoved_of st _ (by cases st <;> decide) (by cases st <;> decide)

/-- The look-ahead discarded after a completion moves no stream on. -/
theorem Keeps.clearAhead (d : Dev) (st : Stream) :
    Keeps true d (d.setStream st fun x => { x with ahead := [], hazard := [] }) := Keeps.refl.setStream st _

theorem rejected_of_reject {o d : Dev} (hd : Assoc.wf regReset d.regs = true) (hk : Keeps true o d) (reason addr depth : Nat) (tag : Word) :
    o.Rejected (d.reject st reason addr depth tag) st reason tag := by
  obtain ⟨hrun, hahead, hcompleted, hother, hreason, htag, hcode⟩ := reject_leaves hd st reason addr depth tag
  exact ⟨hrun, hahead, hcompleted.trans (congrArg Prod.snd (hk.turn st)), hother.trans (hk.turn _), hreason, htag, hcode⟩

/-- A rejection of a stream's command stops the stream before it (R145). -/
theorem Rejected.rejectRun {o d : Dev} (hd : Assoc.wf regReset d.regs = true) (hk : Keeps true o d) (reason : Nat) :
    o.Rejected (d.rejectRun st c reason) st reason c.tag := rejected_of_reject hd hk reason _ _ _

/-- A command rejected as it issues: its issue moved nothing but its own stream, which stops. -/
theorem Rejected.rejectRun_issue {o d : Dev} (hd : Assoc.wf regReset d.regs = true) (hk : Keeps true o d) (done waiting : Bool)
    (reason : Nat) : o.Rejected ((d.issue st c done waiting).rejectRun st c reason) st reason c.tag := by
  obtain ⟨hrun, hahead, hcompleted, hother, hreason, htag, hcode⟩ :=
    reject_leaves (issue_wf hd st c done waiting) st reason c.addr c.depth c.tag
  obtain ⟨hst, hot, -⟩ := issue_turn d st c done waiting
  refine ⟨hrun, hahead, hcompleted.trans ?_, (hother.trans hot).trans (hk.turn _), hreason, htag, hcode⟩
  exact (congrArg Prod.snd hst).trans (congrArg Prod.snd (hk.turn st))

theorem exec_commandReject (hr : s.carrier.phase = .running) (hrun : (s.dev.stream st).running = none)
    {reason sub addr depth : Nat} {tag : Word} {rest : List Ahead}
    (hahead : (s.dev.stream st).ahead = .bad reason sub addr depth tag :: rest) (hact : s.dev.active (seqPage st) = true) :
    exec (.commandReject st) s = .next { s with dev := (s.dev.vtbReject reason sub).reject st reason addr depth tag } := by
  show execCommandReject st s = _
  exact act_next hr (by simp only [hrun, hahead, hact, if_true])

end

end Sys2Proof.Machine

namespace Sys2Proof.Proofs
set_option Elab.async false
open Sys2Proof Sys2Proof.Machine

/-- Settles O9: each completes in its issue step; CALL and RETURN differ in the place they go to. -/
theorem controlCommandsComplete : Obligations.ControlCommandsComplete := by
  unfold Obligations.ControlCommandsComplete
  intro s st c hr hd hn
  refine ⟨fun hc => ?nop, fun k hc => ?call, fun hc => ?ret⟩
  case nop =>
    have hx := exec_nop hr hn hc
    exact ⟨_, hx, Completed.instant st c fun _ _ h => h, (leaving_execNop st).calm hx hd⟩
  case call =>
    have hx := exec_call hr hd hn hc
    exact ⟨_, hx, Completed.completeAt_issue _, (leaving_execCall st).calm hx hd, completeAt_frames _ _ _ _,
      seqHead_completeAt_issue hd.2 _⟩
  case ret =>
    have hx := exec_ret hr hd hn hc
    exact ⟨_, hx, Completed.completeAt_issue _, (leaving_execRet st).calm hx hd,
      place_completeAt_issue hd.2 (nextIn_lt (ringSize_le s.dev st) (ringField_lt s.dev _) _)⟩

/-- Settles O10: the issue of a waiting command, and the end of a WAIT whose condition holds as it issues. -/
theorem waitingCommandsIssue : Obligations.WaitingCommandsIssue := by
  unfold Obligations.WaitingCommandsIssue
  intro s st c hr hd hn
  have hwaits : s.dev.Awaits (s.dev.issue st c false true) st c := Awaits.of_issue Keeps.refl st c
  refine ⟨fun v hc => ?fence, fun hc => ?flush, fun w hc hh => ?waits, fun w hc hh => ?holds⟩
  case fence =>
    have hx := exec_fence hr hn hc
    exact ⟨_, hx, hwaits, (leaving_execFence st).calm hx hd⟩
  case flush =>
    have hx := exec_flush hr hn hc
    exact ⟨_, hx, hwaits, (leaving_execFlush st).calm hx hd⟩
  case waits =>
    have hx := exec_wait hr hd hn hc
    simp only [hh, Bool.false_eq_true, if_false] at hx
    exact ⟨_, hx, hwaits, (leaving_execWait st).calm hx hd⟩
  case holds =>
    have hx := exec_wait hr hd hn hc
    simp only [hh, if_true] at hx
    exact ⟨_, hx, Completed.endWait (Completed.of_awaits hwaits _), (leaving_execWait st).calm hx hd⟩

/-- Settles O11: the three completions move the stream on, and a WAIT past its time is rejected. -/
theorem waitsEnd : Obligations.WaitsEnd := by
  unfold Obligations.WaitsEnd
  refine ⟨fun s st r hr hd hw => ⟨fun v hc => ?fence, fun hc => ?flush, fun w hc hh => ?wait⟩,
    fun s st r w hr hd hw hc ht hover hh => ?timeout⟩
  case fence =>
    have hx := exec_fenceComplete hr hw hc
    have hwf : Assoc.wf regReset (s.dev.setReg (Reg.seqFenceValue (sidx st)) v).regs = true := Assoc.wf_set hd.2 _ _
    have hun := fenceValue_unmoved st
    have hvalue := (((Reads.refl hwf _).raise hun.1 (seqPage st) 1).complete hun r.dec).settle hun
    have hpend := ((Pends.raised hwf (seqPage st) (b := 1) (by decide)).complete st r.dec).settle st
    refine ⟨_, hx, Completed.keeps (Completed.complete ?_ st r.dec) settle_keeps, (leaving_execFenceComplete st).calm hx hd,
      hvalue.2.trans (Dev.reg_setReg_same hd.2 _ _), hpend.pend⟩
    exact (Keeps.refl.setReg _ _).raise _ _
  case flush =>
    have hx := exec_flushComplete hr hw hc
    have hvalue := ((Reads.refl hd.2 _).complete (fenceValue_unmoved st) r.dec).stream st
      fun x => { x with ahead := [], hazard := [] }
    refine ⟨_, hx, Completed.keeps (Completed.complete Keeps.refl st r.dec) (Keeps.clearAhead _ st),
      (leaving_execFlushComplete st).calm hx hd, ?_, hvalue.2⟩
    rw [(stream_setStream _ st _).1]
  case wait =>
    have hx := exec_waitComplete hr hw hc hh
    exact ⟨_, hx, Completed.endWait (Completed.complete Keeps.refl st r.dec), (leaving_execWaitComplete st).calm hx hd⟩
  case timeout =>
    have hx := exec_waitTimeout hr hw hc ht hover hh
    exact ⟨_, hx, (leaving_execWaitTimeout st).calm hx hd, Rejected.rejectRun hd.2 Keeps.refl rTimeout⟩

/-- Settles O12: what the VTB page shows of the rejection moves no stream on. -/
theorem refusedCommandRejected : Obligations.RefusedCommandRejected := by
  unfold Obligations.RefusedCommandRejected
  intro s st reason sub addr depth tag rest hr hd hrun hahead hact
  have hx := exec_commandReject hr hrun hahead hact
  have hk : Keeps true s.dev (s.dev.vtbReject reason sub) := Keeps.refl.vtbReject reason sub
  exact ⟨_, hx, (leaving_execCommandReject st).calm hx hd, rejected_of_reject (hk.regs hd.2) hk reason addr depth tag⟩

end Sys2Proof.Proofs

/-! What the checks of the blocks that a command reads (R117, R119) write: the registers of the MEM and HNG pages, the package's
state and what events write; of the units they reach only the Hinges and the key that a step is bad. -/
namespace Sys2Proof.Machine
set_option Elab.async false

/-- A register that the check of a block may write. -/
def checkReg (a : Nat) : Bool :=
  eventReg a || a == stateReg (page1 .hub) || a / 0x1000000 == 0x00D || a / 0x1000000 == 0x010

/-- `d` comes from `o` by checks of blocks. -/
structure Checked (o d : Dev) : Prop where
  rest : ∃ r m l b s x f h g, d = { o with
    regs := r, mem := m, log := l, sky := { o.sky with bad := b, digests := s, fixedLost := x }, flash := f, hng := h, mgt := g }
  wf : Assoc.wf regReset o.regs = true → Assoc.wf regReset d.regs = true
  reg : Assoc.wf regReset o.regs = true → ∀ a, checkReg a = false → d.reg a = o.reg a

section
variable {o d e : Dev}

theorem Checked.refl : Checked o o := ⟨⟨_, _, _, _, _, _, _, _, _, rfl⟩, id, fun _ _ _ => rfl⟩

theorem Checked.trans (h1 : Checked o d) (h2 : Checked d e) : Checked o e := by
  refine ⟨?_, fun h => h2.wf (h1.wf h), fun h a ha => by rw [h2.reg (h1.wf h) a ha, h1.reg h a ha]⟩
  obtain ⟨r, m, l, b, s, x, f, h, g, rfl⟩ := h1.rest
  obtain ⟨r', m', l', b', s', x', f', h', g', rfl⟩ := h2.rest
  exact ⟨_, _, _, _, _, _, _, _, _, rfl⟩

theorem Checked.ite {c : Prop} [Decidable c] {x y : Dev} (hx : Checked o x) (hy : Checked o y) : Checked o (if c then x else y) := by
  split
  · exact hx
  · exact hy

theorem Checked.foldl {α : Type} {f : Dev → α → Dev} {l : List α} (h : Checked o d) (hf : ∀ x a, Checked x (f x a)) :
    Checked o (l.foldl f d) := by
  induction l generalizing d with
  | nil => exact h
  | cons a l ih => exact ih (h.trans (hf d a))

/-- A change of what the checks reach beside registers. -/
theorem Checked.units (h : Checked o d) (m : Mem) (k : List Nat) (x : Bool) (f : Flash) (g : List HngState) :
    Checked o { d with mem := m, sky := { d.sky with bad := k, fixedLost := x }, flash := f, hng := g } :=
  h.trans ⟨⟨_, _, _, _, _, _, _, _, _, rfl⟩, id, fun _ _ _ => rfl⟩

theorem Checked.setReg (h : Checked o d) {a : Nat} (ha : checkReg a = true) (w : Word) : Checked o (d.setReg a w) := by
  refine h.trans ⟨⟨_, _, _, _, _, _, _, _, _, rfl⟩, fun hr => Assoc.wf_set hr a w, fun hr b hb => ?_⟩
  rw [Dev.reg_setReg hr, if_neg]
  intro he
  rw [he, ha] at hb
  cases hb

theorem Checked.events (h : Checked o d) (he : EventsOnly d e) : Checked o e := by
  obtain ⟨r, m, l, b, s, hrest⟩ := he.rest
  refine h.trans ⟨⟨r, m, l, b, s, _, _, _, _, hrest⟩, he.keeps.regs, fun hr a ha => he.reg hr a ?_⟩
  unfold checkReg at ha
  simp only [Bool.or_eq_false_iff] at ha
  exact ha.1.1.1

theorem Checked.raise (h : Checked o d) (p : Page) (b : Nat) : Checked o (d.raise p b) := h.events (EventsOnly.refl.acts _)

theorem Checked.record (h : Checked o d) (r : Rec) : Checked o (d.record r) := h.events (EventsOnly.refl.acts _)

theorem Checked.bad (h : Checked o d) : Checked o d.bad := h.units _ _ _ _ _

theorem Checked.badUnfixed (h : Checked o d) : Checked o d.badUnfixed := h.units _ _ _ _ _

theorem Checked.moveTo (h : Checked o d) {p : Page} (hp : checkReg (stateReg p) = true) (c : Nat) : Checked o (d.moveTo p c) := by
  unfold Dev.moveTo
  refine Checked.ite h ((h.setReg hp _).trans ⟨⟨_, _, _, _, _, _, _, _, _, rfl⟩, id, fun _ _ _ => rfl⟩)

theorem checkReg_memPage {a : Nat} (ha : a / 0x1000000 = 0x010) : checkReg a = true := by
  unfold checkReg
  simp [ha]

theorem checkReg_hngPage {a : Nat} (ha : a / 0x1000000 = 0x00D) : checkReg a = true := by
  unfold checkReg
  simp [ha]

theorem checkReg_memState (s : Nat) : checkReg (stateReg (memPage s)) = true := by
  refine checkReg_memPage ?_
  show (0x1000000 * 0x010 + 0x1000 * (s % 4096) + 0x014) / 0x1000000 = _
  omega

theorem checkReg_hngState (i : Nat) : checkReg (stateReg (hngPage i)) = true := by
  refine checkReg_hngPage ?_
  show (0x1000000 * 0x00D + 0x1000 * (i % 4096) + 0x014) / 0x1000000 = _
  omega

theorem checkReg_hubState : checkReg (stateReg (page1 .hub)) = true := by decide

theorem Checked.packageFault (h : Checked o d) : Checked o d.packageFault := h.moveTo checkReg_hubState 7

theorem Checked.memFault (h : Checked o d) (s : Nat) : Checked o (d.pageFault (memPage s)) := h.moveTo (checkReg_memState s) 7

theorem Checked.noteLoss (h : Checked o d) (s a : Nat) (met : Met) : Checked o (d.noteLoss s a met) := by
  have hlost : checkReg (Reg.memLost s) = true := checkReg_memPage (by unfold Reg.memLost; omega)
  have hlo : checkReg (Reg.memLostAddrLo s) = true := checkReg_memPage (by unfold Reg.memLostAddrLo; omega)
  have hhi : checkReg (Reg.memLostAddrHi s) = true := checkReg_memPage (by unfold Reg.memLostAddrHi; omega)
  exact ((((h.setReg hlost _).setReg hlo _).setReg hhi _).raise _ _).record _

theorem Checked.spareRow (h : Checked o d) (s row : Nat) : Checked o (d.spareRow s row) := by
  unfold Dev.spareRow
  dsimp only
  have hspared := Checked.raise (h.units d.mem d.sky.bad d.sky.fixedLost
    (d.setRemap s ⟨row :: (d.remap s).rows, (d.remap s).used + 1⟩).flash d.hng) (memPage s) 2
  exact Checked.ite (Checked.ite (hspared.raise _ _) hspared) ((h.raise _ _).memFault s).packageFault

theorem Checked.slotLoss (h : Checked o d) (state : Nat) : Checked o (d.slotLoss state) := by
  unfold Dev.slotLoss
  dsimp only
  exact Checked.ite (h.units _ _ _ _ _) (Checked.ite h h.badUnfixed)

theorem Checked.lossEffect (h : Checked o d) (a : Nat) : Checked o (d.lossEffect a) := by
  unfold Dev.lossEffect
  split
  · exact (h.memFault _).packageFault
  · exact Checked.ite h.badUnfixed h
  · unfold Dev.jobLoss
    split
    · exact h.slotLoss _
    · exact h.badUnfixed
  · exact h

theorem Checked.hngFault (h : Checked o d) (i reason mb : Nat) : Checked o (d.hngFault i reason mb) := by
  have hlast : checkReg (Reg.hngFaultLast i) = true := checkReg_hngPage (by unfold Reg.hngFaultLast; omega)
  exact ((((h.setReg hlast _).raise _ _).moveTo (checkReg_hngState i) 7).record _).bad

theorem Checked.hingeLoss (h : Checked o d) (a : Nat) : Checked o (d.hingeLoss a) := by
  unfold Dev.hingeLoss
  refine h.foldl fun x i => ?_
  split
  · exact .refl
  · exact Checked.hngFault (Checked.refl.units x.mem x.sky.bad x.sky.fixedLost x.flash _) _ _ _

theorem Checked.blockFinding (h : Checked o d) (met : Met) (f : BlockFinding) : Checked o (d.blockFinding met f) := by
  unfold Dev.blockFinding
  split
  · exact h
  · have htransient : checkReg (Reg.memCrcTransient (f.addr / stackSpan)) = true :=
      checkReg_memPage (by unfold Reg.memCrcTransient; omega)
    exact (h.setReg htransient _).raise _ _
  · exact ((((h.units _ d.sky.bad d.sky.fixedLost d.flash d.hng).noteLoss _ _ _).spareRow _ _).lossEffect _).hingeLoss _

theorem Checked.found (h : Checked o d) (written : List (Nat × Nat)) (fs : List BlockFinding) : Checked o (d.found written fs) :=
  h.foldl fun _ f => Checked.refl.blockFinding _ f

end

section
variable (d : Dev) (written : List (Nat × Nat)) (fs : List BlockFinding)

theorem found_checked : Checked d (d.found written fs) := Checked.refl.found written fs

theorem Dev.found_wf (h : Assoc.wf regReset d.regs = true) : Assoc.wf regReset (d.found written fs).regs = true :=
  (found_checked d written fs).wf h

/-- The checks of blocks leave every register but those that they may write. -/
theorem Reads.found {o d : Dev} {a : Nat} (h : Reads o d a) (ha : checkReg a = false) (written : List (Nat × Nat))
    (fs : List BlockFinding) : Reads o (d.found written fs) a :=
  ⟨(found_checked d written fs).wf h.1, ((found_checked d written fs).reg h.1 a ha).trans h.2⟩

@[simp] theorem Dev.found_now : (d.found written fs).now = d.now := by
  obtain ⟨_, _, _, _, _, _, _, _, _, h⟩ := (found_checked d written fs).rest
  rw [h]

@[simp] theorem Dev.found_seqMain : (d.found written fs).seqMain = d.seqMain := by
  obtain ⟨_, _, _, _, _, _, _, _, _, h⟩ := (found_checked d written fs).rest
  rw [h]

@[simp] theorem Dev.found_seqBf : (d.found written fs).seqBf = d.seqBf := by
  obtain ⟨_, _, _, _, _, _, _, _, _, h⟩ := (found_checked d written fs).rest
  rw [h]

@[simp] theorem Dev.found_stream (st : Stream) : (d.found written fs).stream st = d.stream st := by
  cases st
  · exact d.found_seqMain written fs
  · exact d.found_seqBf written fs

@[simp] theorem Dev.found_curves : (d.found written fs).curves = d.curves := by
  obtain ⟨_, _, _, _, _, _, _, _, _, h⟩ := (found_checked d written fs).rest
  rw [h]

@[simp] theorem Dev.found_cmp : (d.found written fs).cmp = d.cmp := by
  obtain ⟨_, _, _, _, _, _, _, _, _, h⟩ := (found_checked d written fs).rest
  rw [h]

@[simp] theorem Dev.found_xch : (d.found written fs).xch = d.xch := by
  obtain ⟨_, _, _, _, _, _, _, _, _, h⟩ := (found_checked d written fs).rest
  rw [h]

@[simp] theorem Dev.found_red : (d.found written fs).red = d.red := by
  obtain ⟨_, _, _, _, _, _, _, _, _, h⟩ := (found_checked d written fs).rest
  rw [h]

@[simp] theorem Dev.found_snd : (d.found written fs).snd = d.snd := by
  obtain ⟨_, _, _, _, _, _, _, _, _, h⟩ := (found_checked d written fs).rest
  rw [h]

@[simp] theorem Dev.found_ports : (d.found written fs).ports = d.ports := by
  obtain ⟨_, _, _, _, _, _, _, _, _, h⟩ := (found_checked d written fs).rest
  rw [h]

@[simp] theorem Dev.found_cht : (d.found written fs).cht = d.cht := by
  obtain ⟨_, _, _, _, _, _, _, _, _, h⟩ := (found_checked d written fs).rest
  rw [h]

@[simp] theorem Dev.found_chk : (d.found written fs).chk = d.chk := by
  obtain ⟨_, _, _, _, _, _, _, _, _, h⟩ := (found_checked d written fs).rest
  rw [h]

@[simp] theorem Dev.found_waits (st : Stream) : (d.found written fs).waits st = d.waits st := by
  unfold Dev.waits
  rw [Dev.found_stream]

end

end Sys2Proof.Machine

/-! What an operation confined to some pages' registers leaves of the others: the registers of other pages, and the event bits that
stood, whatever events it raises. -/
namespace Sys2Proof.Machine
set_option Elab.async false

/-- The page code of a register's address (R476). -/
def regPage (a : Nat) : Nat := a / 0x1000000

/-- Of the registers that no event writes `d` differs from `o` only in those of the pages with these codes, and no event bit of `o` is
cleared. -/
structure Confined (ps : List Nat) (o d : Dev) : Prop where
  wf : Assoc.wf regReset o.regs = true → Assoc.wf regReset d.regs = true
  reg : Assoc.wf regReset o.regs = true → ∀ a, eventReg a = false → regPage a ∉ ps → d.reg a = o.reg a
  pend : ∀ p b, Pends o p b → Pends d p b

section
variable {ps : List Nat} {o d e : Dev}

theorem Confined.refl : Confined ps o o := ⟨id, fun _ _ _ _ => rfl, fun _ _ => id⟩

theorem Confined.trans (h1 : Confined ps o d) (h2 : Confined ps d e) : Confined ps o e :=
  ⟨fun h => h2.wf (h1.wf h), fun h a ha hp => by rw [h2.reg (h1.wf h) a ha hp, h1.reg h a ha hp], fun p b h => h2.pend p b (h1.pend p b h)⟩

theorem Confined.other {f : Dev} (h : Confined ps o d) (he : f.regs = d.regs := by rfl) : Confined ps o f :=
  h.trans ⟨fun hr => by rw [he]; exact hr, fun _ a _ _ => by unfold Dev.reg; rw [he], fun _ _ hp => hp.other he⟩

theorem Confined.ite {c : Prop} [Decidable c] {x y : Dev} (hx : Confined ps o x) (hy : Confined ps o y) :
    Confined ps o (if c then x else y) := by
  split
  · exact hx
  · exact hy

theorem Confined.foldl {α : Type} {f : Dev → α → Dev} {l : List α} (h : Confined ps o d) (hf : ∀ x a, Confined ps x (f x a)) :
    Confined ps o (l.foldl f d) := by
  induction l generalizing d with
  | nil => exact h
  | cons a l ih => exact ih (h.trans (hf d a))

theorem Confined.setReg (h : Confined ps o d) {a : Nat} (w : Word) (ha : regPage a ∈ ps) (hl : a % 0x1000 ≠ 0x020) :
    Confined ps o (d.setReg a w) := by
  refine h.trans ⟨fun hr => Assoc.wf_set hr a w, fun hr b _ hb => ?_, fun p b hp => hp.setLow hl w⟩
  rw [Dev.reg_setReg hr, if_neg]
  intro he
  exact hb (he ▸ ha)

theorem Confined.acts (h : Confined ps o d) (as : List Act) : Confined ps o (d.acts as) :=
  h.trans ⟨(Keeps.refl (level := true)).acts as |>.regs, fun hr _ ha _ => Dev.acts_reg hr ha as, fun _ _ hp => hp.acts as⟩

theorem Confined.raise (h : Confined ps o d) (p : Page) (b : Nat) : Confined ps o (d.raise p b) := h.acts _

theorem Confined.raiseLogged (h : Confined ps o d) (p : Page) (b peer : Nat) (detail : List Byte) :
    Confined ps o (d.raiseLogged p b peer detail) := h.acts _

theorem Confined.record (h : Confined ps o d) (r : Rec) : Confined ps o (d.record r) := h.acts _

theorem regPage_stateReg (p : Page) : regPage (stateReg p) = pageCode p.type := by
  unfold regPage stateReg pageAddr
  omega

theorem Confined.moveTo (h : Confined ps o d) (p : Page) (c : Nat) (hp : pageCode p.type ∈ ps) : Confined ps o (d.moveTo p c) := by
  have hlow : stateReg p % 0x1000 ≠ 0x020 := by rw [stateReg_low]; decide
  unfold Dev.moveTo
  exact Confined.ite h (Confined.other (h.setReg _ ((regPage_stateReg p).symm ▸ hp) hlow))

theorem Confined.setStream (h : Confined ps o d) (st : Stream) (f : StreamState → StreamState) : Confined ps o (d.setStream st f) := by
  cases st <;> exact h.other

/-- A register of a page that an operation does not touch reads as before. -/
theorem Reads.confined {a : Nat} (h : Reads o d a) (hd : Confined ps d e) (ha : eventReg a = false) (hp : regPage a ∉ ps) :
    Reads o e a := ⟨hd.wf h.1, (hd.reg h.1 a ha hp).trans h.2⟩

/-- A page that an operation does not touch keeps its state. -/
theorem InState.confined {p : Page} {c : Nat} (h : InState d p c) (hd : Confined ps d e) (hp : pageCode p.type ∉ ps) : InState e p c :=
  h.of_reads ((Reads.refl h.wf _).confined hd (eventReg_state p) ((regPage_stateReg p).symm ▸ hp))

/-! The operations at the boundary between operations. -/

theorem Confined.moveOn (h : Confined ps o d) (st : Stream) (p : Place) (hp : 0x008 ∈ ps) : Confined ps o (d.moveOn st p) := by
  have hreg : regPage (Reg.seqHead (sidx st)) = 0x008 := by cases st <;> decide
  have hlow : Reg.seqHead (sidx st) % 0x1000 ≠ 0x020 := by cases st <;> decide
  unfold Dev.moveOn
  dsimp only
  have hs := h.setStream st fun s => { s with frames := p.frames }
  have hw := fun w => hs.setReg w (hreg ▸ hp) hlow
  exact Confined.ite hs (Confined.ite ((hw _).raise _ _) (hw _))

theorem Confined.skipAhead (st : Stream) (n : Nat) (h : Confined ps o d) (hp : 0x008 ∈ ps) : Confined ps o (Dev.skipAhead st n d) := by
  have hreg : regPage (Reg.seqSkipped (sidx st)) = 0x008 := by cases st <;> decide
  have hlow : Reg.seqSkipped (sidx st) % 0x1000 ≠ 0x020 := by cases st <;> decide
  induction n generalizing d with
  | zero => exact h
  | succ n ih =>
    unfold Dev.skipAhead
    dsimp only
    split
    · exact Confined.ite (ih (((h.setStream st _).setReg _ (hreg ▸ hp) hlow).moveOn st _ hp)) h
    · exact h

theorem Confined.settle (h : Confined ps o d) (st : Stream) (hp : 0x008 ∈ ps) : Confined ps o (d.settle st) :=
  Confined.skipAhead st 9 h hp

theorem regPage_vtbSlotStatus (n : Nat) : regPage (Reg.vtbSlotStatus n) = 0x016 ∧ Reg.vtbSlotStatus n % 0x1000 ≠ 0x020 := by
  unfold Reg.vtbSlotStatus regPage
  omega

theorem Confined.showSlot (h : Confined ps o d) (n owner place : Nat) (c : Curve) (hp : 0x016 ∈ ps) :
    Confined ps o (d.showSlot n owner place c) := by
  have hcrc : regPage (Reg.vtbSlotCrc n) = 0x016 ∧ Reg.vtbSlotCrc n % 0x1000 ≠ 0x020 := by
    unfold Reg.vtbSlotCrc regPage
    omega
  have hplace : regPage (Reg.vtbSlotPlace n) = 0x016 ∧ Reg.vtbSlotPlace n % 0x1000 ≠ 0x020 := by
    unfold Reg.vtbSlotPlace regPage
    omega
  unfold Dev.showSlot
  refine Confined.other (Confined.setReg (Confined.setReg (h.setReg _ ?_ (regPage_vtbSlotStatus n).2) _ ?_ hcrc.2) _ ?_ hplace.2)
  · exact (regPage_vtbSlotStatus n).1 ▸ hp
  · exact hcrc.1 ▸ hp
  · exact hplace.1 ▸ hp

theorem Confined.loadTable (h : Confined ps o d) (st : Stream) (t : TloadCmd) (image : List Byte) (hp : 0x016 ∈ ps) :
    Confined ps o (d.loadTable st t image) := by
  have hdrop : Confined ps o (d.dropSlots t.slot (sidx st) t.place64 (t.length / 64)) := by
    unfold Dev.dropSlots
    refine h.foldl fun x a => ?_
    split
    · refine Confined.ite (Confined.other (Confined.refl.setReg _ ?_ (regPage_vtbSlotStatus _).2)) .refl
      exact (regPage_vtbSlotStatus _).1 ▸ hp
    · exact .refl
  unfold Dev.loadTable
  exact Confined.raise (Confined.setReg (a := Reg.vtbLoadStatus) (hdrop.showSlot _ _ _ _ hp) _ hp (by decide)) _ _

theorem Confined.setStep (h : Confined ps o d) (x : HelmSetCmd) (hp : 0x00A ∈ ps) : Confined ps o (d.setStep x) := by
  have hset := (((h.setReg (a := Reg.hlmLr) x.value0 hp (by decide)).setReg (a := Reg.hlmClip) x.value1 hp (by decide)).setReg
    (a := Reg.hlmStepLo) (BitVec.ofNat 32 x.step.toNat) hp (by decide)).setReg (a := Reg.hlmStepLo + 4)
    (BitVec.ofNat 32 (x.step.toNat / 0x100000000)) hp (by decide)
  exact Confined.record (Confined.ite (Confined.other (hset.setReg (a := Reg.hlmRingStep 0) _ hp (by decide))) hset) _

theorem Confined.applyLate (h : Confined ps o d) (st : Stream) (hv : 0x016 ∈ ps) (hh : 0x00A ∈ ps) : Confined ps o (d.applyLate st) := by
  unfold Dev.applyLate
  dsimp only
  have hs := h.setStream st fun s => { s with late := none }
  split
  · exact hs.loadTable st _ _ hv
  · exact hs.setStep _ hh
  · exact hs

theorem Confined.showPinned (h : Confined ps o d) (hp : 0x002 ∈ ps) : Confined ps o d.showPinned := by
  unfold Dev.showPinned
  refine h.foldl fun x b => ?_
  have hw := Confined.refl.setReg (ps := ps) (o := x) (a := Reg.pwrPinned) (setBit (x.reg Reg.pwrPinned) b.2 b.1) hp (by decide)
  exact Confined.ite (hw.raiseLogged _ _ _ _) hw

theorem regPage_cluProbation (x : Nat) : regPage (Reg.cluProbation x) = 0x012 ∧ Reg.cluProbation x % 0x1000 ≠ 0x020 := by
  unfold Reg.cluProbation regPage
  omega

theorem Confined.returnMargins (h : Confined ps o d) (hc : 0x012 ∈ ps) (hp : 0x002 ∈ ps) : Confined ps o d.returnMargins := by
  unfold Dev.returnMargins
  refine Confined.other (h.foldl fun x i => ?_)
  exact Confined.ite ((Confined.refl.setReg _ ((regPage_cluProbation _).1 ▸ hc) (regPage_cluProbation _).2).showPinned hp) .refl

theorem Confined.cluTo (h : Confined ps o d) (x c : Nat) (hc : 0x012 ∈ ps) : Confined ps o (d.cluTo x c) := by
  have hm := h.moveTo (cluPage x) c hc
  unfold Dev.cluTo
  refine Confined.ite h ?_
  split
  · exact hm.raise _ _
  · exact hm.raise _ _
  · exact hm

theorem Confined.cluSettle (h : Confined ps o d) (f : Fuse) (x : Nat) (hc : 0x012 ∈ ps) : Confined ps o (d.cluSettle f x) := by
  unfold Dev.cluSettle
  exact Confined.ite h (Confined.ite (h.cluTo _ _ hc) (Confined.ite (h.cluTo _ _ hc) (h.cluTo _ _ hc)))

theorem Confined.leaveMaps (h : Confined ps o d) (f : Fuse) (hc : 0x012 ∈ ps) : Confined ps o (d.leaveMaps f) := by
  unfold Dev.leaveMaps
  exact Confined.ite h (Confined.foldl (Confined.other h) fun _ x => Confined.refl.cluSettle f x hc)

theorem Confined.dropQueues (h : Confined ps o d) (q : Nat) : Confined ps o (d.dropQueues q) := by
  unfold Dev.dropQueues
  refine h.foldl fun x a => ?_
  have hv : Confined ps x (x.freeVia a) := by
    unfold Dev.freeVia Dev.leaveBuffer
    split
    · exact Confined.refl.other
    · exact .refl
  exact Confined.ite hv hv.other

theorem Confined.loseLink (h : Confined ps o d) (q : Nat) : Confined ps o (d.loseLink q) := h.other

theorem Confined.setPort (h : Confined ps o d) (q : Nat) (f : Port → Port) : Confined ps o (d.setPort q f) := h.other

theorem Confined.portOff (h : Confined ps o d) (q : Nat) (hp : 0x00E ∈ ps) : Confined ps o (d.portOff q) := by
  have hpeer : regPage (Reg.fabPeer q) = 0x00E ∧ Reg.fabPeer q % 0x1000 ≠ 0x020 := by
    unfold Reg.fabPeer regPage
    omega
  have hlanes : regPage (Reg.fabLanes q) = 0x00E ∧ Reg.fabLanes q % 0x1000 ≠ 0x020 := by
    unfold Reg.fabLanes regPage
    omega
  have hdown : Confined ps o (if d.active (fabPage q) then d.raise (fabPage q) 1 else d) := Confined.ite (h.raise _ _) h
  have hreset := ((hdown.dropQueues q).loseLink q).setPort q fun _ => Port.reset
  unfold Dev.portOff
  exact Confined.moveTo (Confined.setReg (hreset.setReg _ (hpeer.1 ▸ hp) hpeer.2) _ (hlanes.1 ▸ hp) hlanes.2) _ _ hp

theorem Confined.park (h : Confined ps o d) (hf : 0x00E ∈ ps) (hh : 0x001 ∈ ps) : Confined ps o d.park := by
  have hctrl : ∀ q, regPage (Reg.fabCtrl q) = 0x00E ∧ Reg.fabCtrl q % 0x1000 ≠ 0x020 := by
    intro q
    unfold Reg.fabCtrl regPage
    omega
  have hports : Confined ps o ((List.range 36).foldl Dev.parkPort
      { d with pwr := { d.pwr with selfRefresh := d.pwr.selfRefresh || decide (3 ≤ d.pwr.level) } }) := by
    refine Confined.foldl (Confined.other h) fun x q => ?_
    exact Confined.ite (Confined.setReg (Confined.other (Confined.refl.portOff q hf)) _ ((hctrl q).1 ▸ hf) (hctrl q).2) .refl
  unfold Dev.park
  exact Confined.ite (Confined.ite (hports.moveTo _ _ hh) hports) h

end

end Sys2Proof.Machine

/-! Ranges of memory that an operation stores to. -/
namespace Sys2Proof.Machine
set_option Elab.async false

section
variable {B : Nat → Bool} {o d e : Dev}

/-- Not a byte of a block that these reads may lose, nor of these ranges. -/
def apart (fs : List BlockFinding) (ranges : List (Nat × Nat)) (a : Nat) : Bool :=
  !lostBy fs a && ranges.all fun r => decide (a < r.1 ∨ r.1 + r.2 ≤ a)

theorem apart_lost {fs : List BlockFinding} {ranges : List (Nat × Nat)} {a : Nat} (h : apart fs ranges a = true) :
    lostBy fs a = false := by
  unfold apart at h
  simp only [Bool.and_eq_true, Bool.not_eq_true'] at h
  exact h.1

theorem apart_range {fs : List BlockFinding} {ranges : List (Nat × Nat)} {a : Nat} (h : apart fs ranges a = true)
    {r : Nat × Nat} (hr : r ∈ ranges) : a < r.1 ∨ r.1 + r.2 ≤ a := by
  unfold apart at h
  simp only [Bool.and_eq_true, List.all_eq_true, decide_eq_true_eq] at h
  exact h.2 r hr

theorem Leaves.sameBut {fs : List BlockFinding} {ranges : List (Nat × Nat)} (h : Leaves (apart fs ranges) o d) (ho : o.Tidy) :
    o.SameBut d fs ranges := by
  intro a ha hl hr
  refine h.byte ho.1 a ?_ ha
  unfold apart
  simp only [hl, Bool.not_false, Bool.true_and, List.all_eq_true, decide_eq_true_eq]
  exact hr

theorem Leaves.sameConfig (h : Leaves B o d) (ho : o.Tidy) : o.SameConfig d := h.config ho.2

/-- A write apart from the bytes that are to be left alone. -/
theorem Leaves.writeAtApart (h : Leaves B o d) {x : Nat} {bs : List Byte} (hb : ∀ a, B a = true → a < x ∨ x + bs.length ≤ a) :
    Leaves B o (d.writeAt x bs) :=
  h.memory (fun hm => Mem.wf_setBytes hm x bs) fun hm a ha _ => Mem.byte_setBytes_outside hm (hb a ha)

theorem Leaves.foundApart {fs : List BlockFinding} {ranges : List (Nat × Nat)} (h : Leaves (apart fs ranges) o d)
    (written : List (Nat × Nat)) : Leaves (apart fs ranges) o (d.found written fs) :=
  h.foundBut written fun _ ha => apart_lost ha

theorem Holds.writeAt (h : d.mem.wf = true) (a : Nat) (bs : List Byte) : (d.writeAt a bs).Holds a bs := by
  intro i b hb
  obtain ⟨hi, rfl⟩ := List.getElem?_eq_some_iff.mp hb
  exact Mem.byte_setBytes_inside h hi

/-- Bytes outside the Logbook's region stand while only the Logbook stores. -/
theorem Holds.leaves {a : Nat} {bs : List Byte} (h : d.Holds a bs) (hoff : offLogbook a bs.length)
    (hl : Leaves (fun _ => true) d e) (hm : d.mem.wf = true) : e.Holds a bs := by
  intro i b hb
  have hi : i < bs.length := (List.getElem?_eq_some_iff.mp hb).1
  rw [hl.byte hm (a + i) rfl (hoff i hi)]
  exact h i b hb

end

end Sys2Proof.Machine

/-! SETPRED and STAMP (R152 to R156, R181): commands that may wait for a record before they do their work. -/
namespace Sys2Proof.Machine
set_option Elab.async false

section
variable {s : State} {o d : Dev} {st : Stream} {c : Decoded}

/-- The device in which a command that may have waited does its work: as it issues, or as it stands where it waited. -/
def Dev.begun (d : Dev) (st : Stream) (c : Decoded) : Dev := if (d.waits st).isSome then d else d.issue st c true false

theorem whenFinal_begun (hc : ∀ r, d.waits st = some r → r.dec = c) (f : Dev → Dev) :
    d.whenFinal st c true f = f (d.begun st c) := by
  unfold Dev.whenFinal Dev.begun
  cases hw : d.waits st with
  | none => rfl
  | some r => simp [hc r hw]

theorem Dev.begun_cases (d : Dev) (st : Stream) (c : Decoded) : d.begun st c = d ∨ d.begun st c = d.issue st c true false := by
  unfold Dev.begun
  split
  · exact .inl rfl
  · exact .inr rfl

theorem Reads.begun {a : Nat} (h : Reads o d a) (ha : a ≠ Reg.seqResumeMaxNs 1) : Reads o (d.begun st c) a := by
  rcases d.begun_cases st c with he | he <;> rw [he]
  · exact h
  · exact h.issue st c _ _ ha

theorem Leaves.begun {B : Nat → Bool} (h : Leaves B o d) : Leaves B o (d.begun st c) := by
  rcases d.begun_cases st c with he | he <;> rw [he]
  · exact h
  · exact h.issue st c _ _

/-- The streams as a command that has begun leaves them, its own stream's running command aside. -/
theorem begun_frame (h : Keeps true o d) (st : Stream) (c : Decoded) :
    ((d.begun st c).stream st).completed = (o.stream st).completed ∧
      ((d.begun st c).stream (otherStream st)).turn = (o.stream (otherStream st)).turn ∧ (d.begun st c).now = o.now := by
  rcases d.begun_cases st c with he | he <;> rw [he]
  · exact ⟨congrArg Prod.snd (h.turn st), h.turn _, h.now rfl⟩
  · obtain ⟨hst, hot, hnow⟩ := issue_turn d st c true false
    exact ⟨(congrArg Prod.snd hst).trans (congrArg Prod.snd (h.turn st)), hot.trans (h.turn _), hnow.trans (h.now rfl)⟩

/-- A command that has begun, whose work moves no stream on, completes. -/
theorem Completed.begun {e : Dev} (h : Keeps true o d) (hk : Keeps true (d.begun st c) e) : o.Completed (e.complete st c) st := by
  obtain ⟨hdone, hother, hnow⟩ := begun_frame h st c
  exact Completed.completeAt ((congrArg Prod.snd (hk.turn st)).trans hdone) ((hk.turn _).trans hother) ((hk.now rfl).trans hnow) c _

/-- A command that has begun is rejected. -/
theorem Rejected.begun {e : Dev} (h : Keeps true o d) (hk : Keeps true (d.begun st c) e) (he : Assoc.wf regReset e.regs = true)
    (reason : Nat) : o.Rejected (e.rejectRun st c reason) st reason c.tag := by
  obtain ⟨hrun, hahead, hcompleted, hother, hreason, htag, hcode⟩ := reject_leaves he st reason c.addr c.depth c.tag
  obtain ⟨hdone, hturn, -⟩ := begun_frame h st c
  exact ⟨hrun, hahead, (hcompleted.trans (congrArg Prod.snd (hk.turn st))).trans hdone, (hother.trans (hk.turn _)).trans hturn,
    hreason, htag, hcode⟩

theorem current_waits (h : d.current st = some c) {r : Running} (hr : d.waits st = some r) : r.dec = c := by
  unfold Dev.current at h
  rw [hr] at h
  exact Option.some.inj h

theorem operandSource_regs (d : Dev) (st : Stream) (c : Decoded) : (d.operandSource st c).2.regs = d.regs := by
  unfold Dev.operandSource Dev.openSource
  split <;> rfl

theorem operandSource_mem (d : Dev) (st : Stream) (c : Decoded) : (d.operandSource st c).2.mem = d.mem := by
  unfold Dev.operandSource Dev.openSource
  split <;> rfl

theorem operandSource_waits (d : Dev) (st : Stream) (c : Decoded) : (d.operandSource st c).2.waits st = d.waits st := by
  unfold Dev.operandSource Dev.openSource
  split <;> rfl

theorem exec_setpred (hr : s.carrier.phase = .running) (hn : s.dev.current st = some c) {p : SetpredCmd} (hc : c.cmd = .setpred p)
    (blocks : List BlockFinding) :
    exec (.setpred st blocks) s = .next { s with dev := (s.dev.found [] blocks).runSetpred st c p } := by
  show execSetpred st s blocks = _
  exact act_next hr (by simp only [hn, hc])

/-- A SETPRED's work: its predicate written in the device in which it has begun. -/
def Dev.putPred (d : Dev) (st : Stream) (c : Decoded) (n : Nat) (v : Bool) : Dev :=
  (((d.begun st c).setPred st n v).complete st c).settle st

theorem putPred_completed (h : Keeps true o d) (n : Nat) (v : Bool) : o.Completed (d.putPred st c n v) st :=
  Completed.keeps (Completed.begun h (Keeps.refl.setPred st n v)) settle_keeps

/-- The predicates after one is written: it has its value, and the others stand. -/
theorem pred_putPred (hd : Assoc.wf regReset d.regs = true) {t n : Nat} (ht : 0 < t) (ht' : t < 64) (hn : n < 64) (v : Bool) :
    (d.putPred st c t v).pred st n = if n = t then v else d.pred st n := by
  have hlo : Reads d (d.begun st c) (Reg.seqPredLo (sidx st)) := (Reads.refl hd _).begun (by cases st <;> decide)
  have hhi : Reads d (d.begun st c) (Reg.seqPredHi (sidx st)) := (Reads.refl hd _).begun (by cases st <;> decide)
  have hwf := setPred_wf hlo.1 st t v
  have hstay : (d.putPred st c t v).pred st n = ((d.begun st c).setPred st t v).pred st n :=
    pred_reads (((Reads.refl hwf _).complete (predLo_unmoved st) c).settle (predLo_unmoved st)).2
      (((Reads.refl hwf _).complete (predHi_unmoved st) c).settle (predHi_unmoved st)).2 n
  rw [hstay, pred_setPred hlo.1 st t n ht ht' hn, pred_reads hlo.2 hhi.2]

/-- The device after the checks of a SETPRED's reads, and, where it reads memory, after the draw of what its operands show. -/
def Dev.predSource (d : Dev) (st : Stream) (c : Decoded) (source : Nat) : Dev :=
  if source = 1 then (d.operandSource st c).2 else d

theorem predSource_regs (d : Dev) (st : Stream) (c : Decoded) (n : Nat) : (d.predSource st c n).regs = d.regs := by
  unfold Dev.predSource
  split
  · exact operandSource_regs d st c
  · rfl

theorem Keeps.predSource (h : Keeps true o d) (n : Nat) : Keeps true o (d.predSource st c n) := by
  unfold Dev.predSource
  exact Keeps.ite (h.operandSource st c) h

/-- The value that a SETPRED writes, from each of its sources (R153). -/
theorem runSetpred_value (hw : ∀ r, d.waits st = some r → r.dec = c) {p : SetpredCmd} {v : Bool}
    (hv : p.source = 0 ∧ v = (p.value % 2 == 1) ∨
      p.source = 1 ∧ v = (readNat (d.operandSource st c).1 p.addr 4 != 0) ∨
      (p.source = 2 ∧ ∃ ls mb, (d.stream st).lastRoute = some (ls, mb) ∧ d.recordFinal ls mb = true ∧
        v = (slotRows d.src (d.recordAddr ls mb) p.index == 0)) ∨
      p.source = 3 ∧ v = decide (p.value ≤ (d.reg (Reg.seqCounter (sidx st) p.index)).toNat)) :
    d.runSetpred st c p = (d.predSource st c p.source).putPred st c p.target v := by
  rcases hv with ⟨hs, rfl⟩ | ⟨hs, rfl⟩ | ⟨hs, ls, mb, hroute, hfinal, rfl⟩ | ⟨hs, rfl⟩
  · simp only [Dev.runSetpred, hs]
    exact whenFinal_begun hw _
  · simp only [Dev.runSetpred, hs]
    refine whenFinal_begun (fun r hr => hw r ?_) _
    rw [← operandSource_waits d st c]
    exact hr
  · simp only [Dev.runSetpred, hs, hroute, hfinal]
    exact whenFinal_begun hw _
  · simp only [Dev.runSetpred, hs]
    exact whenFinal_begun hw _

theorem predLo_unchecked (st : Stream) : checkReg (Reg.seqPredLo (sidx st)) = false := by cases st <;> decide

theorem predHi_unchecked (st : Stream) : checkReg (Reg.seqPredHi (sidx st)) = false := by cases st <;> decide

/-- The checks of a SETPRED's reads write no predicate. -/
theorem pred_predSource_found (hd : Assoc.wf regReset d.regs = true) (blocks : List BlockFinding) (k n : Nat) :
    ((d.found [] blocks).predSource st c k).pred st n = d.pred st n := by
  have hregs := predSource_regs (d.found [] blocks) st c k
  exact pred_reads (((Reads.refl hd _).found (predLo_unchecked st) [] blocks).other hregs).2
    (((Reads.refl hd _).found (predHi_unchecked st) [] blocks).other hregs).2 n

/-- A SETPRED on a grant record waits until the record is FINAL. -/
theorem runSetpred_waits (hw : d.waits st = none) {p : SetpredCmd} (hs : p.source = 2) {ls mb : Nat}
    (hroute : (d.stream st).lastRoute = some (ls, mb)) (hfinal : d.recordFinal ls mb = false) :
    d.runSetpred st c p = d.issue st c false true := by
  simp only [Dev.runSetpred, hs, hroute, hfinal]
  exact whenFinal_wait hw _

theorem runSetpred_noRoute {p : SetpredCmd} (hs : p.source = 2) (hroute : (d.stream st).lastRoute = none) :
    d.runSetpred st c p = (d.issue st c true false).rejectRun st c rField := by
  simp only [Dev.runSetpred, hs, hroute]

/-! STAMP. -/

theorem exec_stamp (hr : s.carrier.phase = .running) (hn : s.dev.current st = some c) {p : StampCmd} (hc : c.cmd = .stamp p)
    (blocks : List BlockFinding) :
    exec (.stamp st blocks) s = .next { s with dev := (s.dev.found [(p.dest, p.length)] blocks).runStamp st c p } := by
  show execStamp st s blocks = _
  exact act_next hr (by simp only [hn, hc])

/-- What a stamp's entries take depends on memory and registers alone. -/
theorem stampEntries_congr {e : Dev} (hregs : e.regs = d.regs) (hmem : e.mem = d.mem) (record : Nat) (es : List StampEntry)
    (bs : List Byte) : e.stampEntries st record es bs = d.stampEntries st record es bs := by
  have hsource : ∀ x, e.stampSource st record x = d.stampSource st record x := by
    intro x
    unfold Dev.stampSource Dev.src Dev.reg
    rw [hregs, hmem]
  induction es generalizing bs with
  | nil => rfl
  | cons x es ih =>
    unfold Dev.stampEntries
    rw [hsource]
    simp only [ih]

theorem stampEntries_begun (hd : Assoc.wf regReset d.regs = true) (record : Nat) (es : List StampEntry) (bs : List Byte) :
    ((d.operandSource st c).2.begun st c).stampEntries st record es bs = d.stampEntries st record es bs := by
  have hsource := stampEntries_congr (st := st) (operandSource_regs d st c) (operandSource_mem d st c) record es bs
  rcases (d.operandSource st c).2.begun_cases st c with he | he <;> rw [he]
  · exact hsource
  · exact (stampEntries_issue ((operandSource_regs d st c).symm ▸ hd) st c _ _ record es bs).trans hsource

/-- A STAMP's work: its copy written in the device in which it has begun. -/
def Dev.putCopy (d : Dev) (st : Stream) (c : Decoded) (p : StampCmd) (bs : List Byte) : Dev :=
  ((((d.begun st c).writeAt p.dest bs).wrote st [(p.dest, p.length)]).complete st c).settle st

/-- A STAMP whose values do not fit: free bytes at its destination, and the rejection. -/
def Dev.badCopy (d : Dev) (st : Stream) (c : Decoded) (p : StampCmd) : Dev :=
  (((d.begun st c).drawBytes p.length).2.writeAt p.dest ((d.begun st c).drawBytes p.length).1).rejectRun st c rStamp

/-- A STAMP that need not wait. -/
theorem runStamp_ready (hd : Assoc.wf regReset d.regs = true) (hw : ∀ r, d.waits st = some r → r.dec = c) {p : StampCmd}
    (hready : p.entries.any StampEntry.grant = true → d.recordFinal p.layerSlot p.microbatch = true) :
    d.runStamp st c p = match d.stampEntries st (d.recordAddr p.layerSlot p.microbatch) p.entries
        (readBytes (d.operandSource st c).1 p.template p.length) with
      | some bs => (d.operandSource st c).2.putCopy st c p bs
      | none => (d.operandSource st c).2.badCopy st c p := by
  have hr : (!(p.entries.any StampEntry.grant) || d.recordFinal p.layerSlot p.microbatch) = true := by
    cases hg : p.entries.any StampEntry.grant with
    | false => rfl
    | true => rw [hready hg]; rfl
  have hw' : ∀ r, (d.operandSource st c).2.waits st = some r → r.dec = c := by
    intro r h
    rw [operandSource_waits] at h
    exact hw r h
  unfold Dev.runStamp
  dsimp only
  rw [hr, whenFinal_begun hw', stampEntries_begun hd]
  rfl

theorem runStamp_waits (hw : d.waits st = none) {p : StampCmd} (hgrant : p.entries.any StampEntry.grant = true)
    (hfinal : d.recordFinal p.layerSlot p.microbatch = false) :
    d.runStamp st c p = (d.operandSource st c).2.issue st c false true := by
  unfold Dev.runStamp
  dsimp only
  rw [hgrant, hfinal]
  exact whenFinal_wait ((operandSource_waits d st c).trans hw) _

theorem putCopy_completed (h : Keeps true o d) (p : StampCmd) (bs : List Byte) : o.Completed (d.putCopy st c p bs) st :=
  Completed.keeps (Completed.begun h ((Keeps.writeAt Keeps.refl _ _).setStream st _)) settle_keeps

theorem badCopy_rejected (ho : Assoc.wf regReset o.regs = true) (h : Keeps true o d) (p : StampCmd) :
    o.Rejected (d.badCopy st c p) st rStamp c.tag := by
  have hk : Keeps true (d.begun st c)
      (((d.begun st c).drawBytes p.length).2.writeAt p.dest ((d.begun st c).drawBytes p.length).1) :=
    Keeps.writeAt (Keeps.refl.drawBytes _) _ _
  refine Rejected.begun h hk (hk.regs ?_) rStamp
  exact ((Reads.refl (h.regs ho) 0).begun (by decide)).1

/-- The copy stands at its destination. -/
theorem putCopy_holds (hm : (d.begun st c).mem.wf = true) (p : StampCmd) (bs : List Byte) (hoff : offLogbook p.dest bs.length) :
    (d.putCopy st c p bs).Holds p.dest bs := by
  refine Holds.leaves (Holds.writeAt hm p.dest bs) hoff ?_ (Mem.wf_setBytes hm _ _)
  exact ((Leaves.refl.wrote st _).complete st c).settle st

theorem Leaves.putCopy {fs : List BlockFinding} {p : StampCmd} {bs : List Byte} (h : Leaves (apart fs [(p.dest, bs.length)]) o d) :
    Leaves (apart fs [(p.dest, bs.length)]) o (d.putCopy st c p bs) := by
  have hw := Leaves.writeAtApart (h.begun (st := st) (c := c)) (bs := bs) (x := p.dest) fun a ha => apart_range ha (.head _)
  exact ((hw.wrote st _).complete st c).settle st

theorem Leaves.badCopy {fs : List BlockFinding} {p : StampCmd} (h : Leaves (apart fs [(p.dest, p.length)]) o d) :
    Leaves (apart fs [(p.dest, p.length)]) o (d.badCopy st c p) := by
  refine Leaves.rejectRun (Leaves.writeAtApart (h.begun.drawBytes _) fun a ha => ?_) st c rStamp
  rw [drawBytes_length]
  exact apart_range ha (.head _)

end

end Sys2Proof.Machine

namespace Sys2Proof.Proofs
set_option Elab.async false
open Sys2Proof Sys2Proof.Machine

/-- Settles O13: whatever its source, a SETPRED that need not wait is its predicate written after the checks of its reads. -/
theorem setpredWritesItsPredicate : Obligations.SetpredWritesItsPredicate := by
  unfold Obligations.SetpredWritesItsPredicate
  refine ⟨fun s st c p blocks e v hr hd hcur hc ht ht' he hv => ?write, fun s st c p blocks e hr hd hn hc hs he => ⟨?wait, ?noRoute⟩⟩
  case write =>
    subst he
    have hx := exec_setpred hr hcur hc blocks
    have hw : ∀ r, (s.dev.found [] blocks).waits st = some r → r.dec = c := by
      intro r h
      rw [Dev.found_waits] at h
      exact current_waits hcur h
    rw [runSetpred_value hw hv] at hx
    have hk : Keeps true s.dev ((s.dev.found [] blocks).predSource st c p.source) := (Keeps.refl.found [] blocks).predSource _
    refine ⟨_, hx, putPred_completed hk _ _, (leaving_execSetpred st blocks fun a h => by simpa using h).calmBut hx hd, ?_,
      fun n hn hne => ?_⟩
    · rw [pred_putPred (hk.regs hd.2) ht ht' ht', if_pos rfl]
    · rw [pred_putPred (hk.regs hd.2) ht ht' hn, if_neg hne, pred_predSource_found hd.2]
  case wait =>
    subst he
    intro ls mb hroute hfinal
    have hx := exec_setpred hr (current_next hn) hc blocks
    rw [runSetpred_waits ((Dev.found_waits _ _ _ st).trans (next?_waits hn)) hs hroute hfinal] at hx
    exact ⟨_, hx, Awaits.of_issue (Keeps.refl.found [] blocks) st c,
      (leaving_execSetpred st blocks fun a h => by simpa using h).calmBut hx hd⟩
  case noRoute =>
    subst he
    intro hroute
    have hx := exec_setpred hr (current_next hn) hc blocks
    rw [runSetpred_noRoute hs hroute] at hx
    exact ⟨_, hx, (leaving_execSetpred st blocks fun a h => by simpa using h).calmBut hx hd,
      Rejected.rejectRun_issue (Dev.found_wf _ _ _ hd.2) (Keeps.refl.found [] blocks) true false rField⟩

/-- Settles O14: a STAMP that need not wait writes its copy or is rejected, by what its entries give. -/
theorem stampWritesItsCopy : Obligations.StampWritesItsCopy := by
  unfold Obligations.StampWritesItsCopy
  intro s st c p blocks e hr hd hcur hc he
  have hx := exec_stamp hr hcur hc blocks
  rw [← he] at hx
  have hk : Keeps true s.dev e := he ▸ Keeps.refl.found _ blocks
  have hw : ∀ r, e.waits st = some r → r.dec = c := by
    intro r h
    rw [he, Dev.found_waits] at h
    exact current_waits hcur h
  refine ⟨fun hready => ?_, fun hn hgrant hfinal => ?wait⟩
  case wait =>
    have hidle : e.waits st = none := by rw [he, Dev.found_waits, next?_waits hn]
    rw [runStamp_waits hidle hgrant hfinal] at hx
    refine ⟨_, hx, Awaits.of_issue (hk.operandSource st c) st c, ?_, ?_⟩
    · exact (leaving_execStamp st blocks).sameConfig hx hd
    · intro a ha hl
      have hl' : Leaves (fun a => !lostBy blocks a) s.dev ((e.operandSource st c).2.issue st c false true) := by
        rw [he]
        exact ((Leaves.refl.foundBut _ fun a h => by simpa using h).operandSource st c).issue st c _ _
      exact hl'.byte hd.1 a (by simp [hl]) ha
  · rw [runStamp_ready (hk.regs hd.2) hw hready] at hx
    refine ⟨fun bs hbs => ?copy, fun hbad => ?bad⟩
    case copy =>
      rw [hbs] at hx
      refine ⟨_, hx, putCopy_completed (hk.operandSource st c) p bs, (leaving_execStamp st blocks).sameConfig hx hd,
        putCopy_holds ?_ p bs, Leaves.sameBut (Leaves.putCopy (Leaves.operandSource ?_ st c)) hd⟩
      · exact (Leaves.begun (B := noBytes) ((he ▸ Leaves.refl.found _ blocks : Leaves noBytes s.dev e).operandSource st c)).mem hd.1
      · rw [he]
        exact Leaves.refl.foundApart _
    case bad =>
      rw [hbad] at hx
      refine ⟨_, hx, (leaving_execStamp st blocks).sameConfig hx hd, badCopy_rejected hd.2 (hk.operandSource st c) p,
        Leaves.sameBut (Leaves.badCopy (Leaves.operandSource ?_ st c)) hd⟩
      rw [he]
      exact Leaves.refl.foundApart _

end Sys2Proof.Proofs

/-! The boundary between operations and the fetch of the command at the head (R134, R137, R144, R152, R182). -/
namespace Sys2Proof.Machine
set_option Elab.async false

section
variable {s : State} {o d : Dev} {st : Stream} {c : Decoded}

/-! The streams where a stream moves on. -/

theorem stream_acts (d : Dev) (as : List Act) (st : Stream) : (d.acts as).stream st = d.stream st := by
  obtain ⟨_, _, _, _, _, h⟩ := (EventsOnly.refl.acts as : EventsOnly d (d.acts as)).rest
  rw [h]
  cases st <;> rfl

theorem stream_setReg (d : Dev) (a : Nat) (w : Word) (st : Stream) : (d.setReg a w).stream st = d.stream st := by
  cases st <;> rfl

/-- A stream that moves on to a place takes its frames. -/
theorem moveOn_stream (d : Dev) (st : Stream) (p : Place) :
    (d.moveOn st p).stream st = { d.stream st with frames := p.frames } := by
  have hframes := (stream_setStream d st fun x => { x with frames := p.frames }).1
  unfold Dev.moveOn
  dsimp only
  split
  · exact hframes
  · split
    · exact ((stream_acts _ _ st).trans (stream_setReg _ _ _ st)).trans hframes
    · exact (stream_setReg _ _ _ st).trans hframes

/-- A command that is skipped leaves the look-ahead and is counted (R152). -/
theorem skipOne_stream (d : Dev) (st : Stream) (c : Decoded) (rest : List Ahead) :
    ((d.skipOne st c rest).stream st).ahead = rest ∧
      ((d.skipOne st c rest).stream st).skipped = (d.stream st).skipped + 1 := by
  have hfed := (stream_setStream d st fun x => { x.feedIn c with ahead := rest, skipped := x.skipped + 1 }).1
  unfold Dev.skipOne
  dsimp only
  rw [moveOn_stream]
  unfold Dev.addSat
  rw [stream_setReg, hfed]
  exact ⟨rfl, rfl⟩

theorem skipAhead_empty (n : Nat) (h : (d.stream st).ahead = []) : Dev.skipAhead st n d = d := by
  cases n with
  | zero => rfl
  | succ n =>
    unfold Dev.skipAhead
    dsimp only
    rw [h]
    split
    · rename_i heq
      cases heq
    · rfl

/-- A stream at the boundary whose next command runs has nothing to skip. -/
theorem settle_kept {a : Ahead} (ha : (d.stream st).ahead = [a]) (hruns : ∀ c, a = .ok c → d.runs st c = true) : d.settle st = d := by
  unfold Dev.settle Dev.skipAhead
  dsimp only
  rw [ha]
  cases a with
  | ok c => cases (d.stream st).running <;> simp [hruns c rfl]
  | bad => cases (d.stream st).running <;> rfl

/-- A stream at the boundary skips its only command where the predicate says no. -/
theorem settle_skips (hrun : (d.stream st).running = none) (ha : (d.stream st).ahead = [.ok c])
    (hact : d.active (seqPage st) = true) (hno : d.runs st c = false) : d.settle st = d.skipOne st c [] := by
  have hone : Dev.skipAhead st 9 d = Dev.skipAhead st 8 (d.skipOne st c []) := by
    rw [Dev.skipAhead, ha, hrun]
    simp [hact, hno]
  exact hone.trans (skipAhead_empty 8 (skipOne_stream d st c []).1)

/-! The fetch at a boundary with nothing looked ahead. -/

/-- The device after a command is looked ahead. -/
def Dev.lookAhead (d : Dev) (st : Stream) (a : Ahead) : Dev := d.setStream st fun s => { s with ahead := s.ahead ++ [a] }

/-- A stream with nothing running and nothing looked ahead fetches at its head. -/
theorem fetchPlace_idle (hrun : (d.stream st).running = none) (ha : (d.stream st).ahead = []) : d.fetchPlace st = d.place st := by
  unfold Dev.fetchPlace
  simp only [hrun, ha]
  rfl

/-- What a stream with nothing running and nothing looked ahead fetches: the command at its head, unless it waits for its record. -/
theorem fetch_idle {f : Fuse} {a : Ahead} (hact : d.active (seqPage st) = true) (hh : d.halted = false)
    (hrun : (d.stream st).running = none) (ha : (d.stream st).ahead = []) (hcov : d.covered st (d.place st) = true)
    (hdec : a = decodeCommand (d.decodeCtx f st d.src (d.place st)) (d.placeAddr st (d.place st)) false
      (readBytes d.src (d.placeAddr st (d.place st)) 64)) :
    d.fetch f st = if d.recordPending a then d else (d.lookAhead st a).settle st := by
  subst hdec
  unfold Dev.fetch
  simp only [fetchPlace_idle hrun ha, hrun, ha, hact, hh, hcov, StreamState.closed, Dev.openSource]
  simp
  rfl

theorem lookAhead_stream (ha : (d.stream st).ahead = []) (a : Ahead) :
    ((d.lookAhead st a).stream st) = { d.stream st with ahead := [a] } := by
  unfold Dev.lookAhead
  rw [(stream_setStream d st _).1, ha]
  rfl

theorem lookAhead_active (d : Dev) (st : Stream) (a : Ahead) (p : Page) : (d.lookAhead st a).active p = d.active p := by
  cases st <;> rfl

theorem lookAhead_runs (d : Dev) (st : Stream) (a : Ahead) (c : Decoded) : (d.lookAhead st a).runs st c = d.runs st c := by
  cases st <;> rfl

/-! The boundary between operations. -/

theorem exec_operationBoundary {r : Running} (hr : s.carrier.phase = .running) (hrun : (s.dev.stream st).running = some r)
    (hdone : r.done = true) : exec (.operationBoundary st) s = .next { s with dev :=
      (if s.dev.boundaryHeld r.dec.cmd then s.dev
        else ((((((s.dev.applyLate st).complete st r.dec).returnMargins).settle st).settle (otherStream st)).leaveMaps s.fuse).park) } := by
  show execOperationBoundary st s = _
  refine act_next hr ?_
  simp only [hrun, hdone, Bool.true_and]
  cases s.dev.boundaryHeld r.dec.cmd <;> rfl

theorem seqCmdCount_quiet (st : Stream) : eventReg (Reg.seqCmdCount (sidx st)) = false := by cases st <;> decide

/-- A stream's moving on leaves the counts of completed commands alone. -/
theorem Reads.moveOn_cmdCount {st' : Stream} (h : Reads o d (Reg.seqCmdCount (sidx st))) (p : Place) :
    Reads o (d.moveOn st' p) (Reg.seqCmdCount (sidx st)) := by
  have hne : Reg.seqCmdCount (sidx st) ≠ Reg.seqHead (sidx st') := by cases st <;> cases st' <;> decide
  have hs := h.stream st' fun x => { x with frames := p.frames }
  unfold Dev.moveOn
  dsimp only
  exact Reads.ite hs (Reads.ite ((hs.setReg _ hne).raise (seqCmdCount_quiet st) _ _) (hs.setReg _ hne))

theorem Reads.skipAhead_cmdCount {st' : Stream} (n : Nat) {d : Dev} (h : Reads o d (Reg.seqCmdCount (sidx st))) :
    Reads o (Dev.skipAhead st' n d) (Reg.seqCmdCount (sidx st)) := by
  have hne : Reg.seqCmdCount (sidx st) ≠ Reg.seqSkipped (sidx st') := by cases st <;> cases st' <;> decide
  induction n generalizing d with
  | zero => exact h
  | succ n ih =>
    unfold Dev.skipAhead
    dsimp only
    split
    · exact Reads.ite (ih (((h.stream st' _).setReg _ hne).moveOn_cmdCount _)) h
    · exact h

theorem Reads.settle_cmdCount {st' : Stream} (h : Reads o d (Reg.seqCmdCount (sidx st))) :
    Reads o (d.settle st') (Reg.seqCmdCount (sidx st)) := h.skipAhead_cmdCount 9

/-- A completed command is counted (R137). -/
theorem cmdCount_completeAt (hd : Assoc.wf regReset d.regs = true) (p : Place) :
    Assoc.wf regReset (d.completeAt st c p).regs = true ∧ ((d.completeAt st c p).reg (Reg.seqCmdCount (sidx st))).toNat =
      ((d.reg (Reg.seqCmdCount (sidx st))).toNat + 1) % 2 ^ 32 := by
  have hm : Reads d (d.measureTime st) (Reg.seqCmdCount (sidx st)) :=
    (Reads.refl hd _).measureTime st (seqCmdCount_quiet st) (by cases st <;> decide)
  have hover := hm.stream st fun x => { x.feedIn c with running := none, completed := x.completed + 1 }
  unfold Dev.completeAt
  dsimp only
  generalize (d.measureTime st).setStream st _ = e at hover ⊢
  have hcount : Reads (e.addWrap (Reg.seqCmdCount (sidx st)) 1) (e.addWrap (Reg.seqCmdCount (sidx st)) 1) (Reg.seqCmdCount (sidx st)) :=
    Reads.refl (Assoc.wf_set hover.1 _ _) _
  have hend := (Reads.ite (c := c.notify = true) (hcount.raise (seqCmdCount_quiet st) (seqPage st) 2) hcount).moveOn_cmdCount (st' := st) p
  refine ⟨hend.1, ?_⟩
  rw [hend.2]
  unfold Dev.addWrap
  rw [Dev.reg_setReg_same hover.1, hover.2]
  exact BitVec.toNat_ofNat _ _

/-- A completed command that asks for it notifies (R137). -/
theorem Pends.notified (hd : Assoc.wf regReset d.regs = true) (hn : c.notify = true) (p : Place) :
    Pends (d.completeAt st c p) (seqPage st) 2 := by
  have hm : Reads d (d.measureTime st) (Reg.seqCmdCount (sidx st)) :=
    (Reads.refl hd _).measureTime st (seqCmdCount_quiet st) (by cases st <;> decide)
  have hover := hm.stream st fun x => { x.feedIn c with running := none, completed := x.completed + 1 }
  unfold Dev.completeAt
  dsimp only
  rw [if_pos hn]
  exact (Pends.raised (Assoc.wf_set hover.1 _ _) (seqPage st) (by decide)).moveOn st p

/-- What follows a completion at a boundary: the margins, the look-ahead of both streams, the maps and the parking. -/
def Dev.afterBoundary (d : Dev) (f : Fuse) (st : Stream) : Dev :=
  (((d.returnMargins.settle st).settle (otherStream st)).leaveMaps f).park

theorem Keeps.afterBoundary (h : Keeps true o d) (f : Fuse) (st : Stream) : Keeps true o (d.afterBoundary f st) :=
  (((h.returnMargins.settle st).settle (otherStream st)).leaveMaps f).park

theorem Confined.afterBoundary (h : Confined [0x008, 0x012, 0x002, 0x00E, 0x001] o d) (f : Fuse) (st : Stream) :
    Confined [0x008, 0x012, 0x002, 0x00E, 0x001] o (d.afterBoundary f st) := by
  have hmargins := h.returnMargins (by decide) (by decide)
  have hsettled := (hmargins.settle st (by decide)).settle (otherStream st) (by decide)
  exact (hsettled.leaveMaps f (by decide)).park (by decide) (by decide)

theorem Reads.afterBoundary_cmdCount (h : Reads o d (Reg.seqCmdCount (sidx st))) (f : Fuse) :
    Reads o (d.afterBoundary f st) (Reg.seqCmdCount (sidx st)) := by
  have hpage : ∀ ps : List Nat, 0x008 ∉ ps → regPage (Reg.seqCmdCount (sidx st)) ∉ ps := by
    intro ps hps
    have hreg : regPage (Reg.seqCmdCount (sidx st)) = 0x008 := by cases st <;> decide
    exact hreg ▸ hps
  have hq := seqCmdCount_quiet st
  have hmargins := h.confined (Confined.refl.returnMargins (ps := [0x012, 0x002]) (by decide) (by decide)) hq (hpage _ (by decide))
  have hsettled := (hmargins.settle_cmdCount (st' := st)).settle_cmdCount (st' := otherStream st)
  have hmaps := hsettled.confined (Confined.refl.leaveMaps (ps := [0x012]) f (by decide)) hq (hpage _ (by decide))
  exact hmaps.confined (Confined.refl.park (ps := [0x00E, 0x001]) (by decide) (by decide)) hq (hpage _ (by decide))

theorem Reads.applyLate_cmdCount (h : Reads o d (Reg.seqCmdCount (sidx st))) :
    Reads o (d.applyLate st) (Reg.seqCmdCount (sidx st)) := by
  refine h.confined (Confined.refl.applyLate (ps := [0x016, 0x00A]) st (by decide) (by decide)) (seqCmdCount_quiet st) ?_
  cases st <;> decide

/-! The backfill stream's limits (R160, R162). -/

theorem exec_bfOverrun {r : Running} (hr : s.carrier.phase = .running) (hrun : s.dev.seqBf.running = some r)
    (ho : r.overran = false) (ht : s.dev.bfLimit < s.dev.now - r.issued) :
    exec .bfOverrun s = .next { s with dev :=
      { s.dev.countOverrun with seqBf := { s.dev.countOverrun.seqBf with running := some { r with overran := true } } } } := by
  show execBfOverrun s = _
  refine act_next hr ?_
  have hnot : ¬ (r.overran = true ∨ s.dev.now - r.issued ≤ s.dev.bfLimit) := by
    rw [ho]
    exact fun h => h.elim Bool.false_ne_true (Nat.not_le.mpr ht)
  simp only [hrun, if_neg hnot]

theorem Dev.countOverrun_count (hd : Assoc.wf regReset d.regs = true) :
    d.countOverrun.reg (Reg.seqBfOverruns 1) = BitVec.ofNat 32 (min ((d.reg (Reg.seqBfOverruns 1)).toNat + 1) 0xFFFFFFFF) := by
  have hcount : Reads (d.addSat (Reg.seqBfOverruns 1) 1) (d.addSat (Reg.seqBfOverruns 1) 1) (Reg.seqBfOverruns 1) :=
    Reads.refl (Assoc.wf_set hd _ _) _
  have hend := (hcount.suspend (by decide) (by decide) 1).raise (by decide) (seqPage .backfill) 5
  exact hend.2.trans (Dev.reg_setReg_same hd _ _)

/-- A suspension sets its bit of BF_STATUS. -/
theorem Dev.suspend_flag (hd : Assoc.wf regReset d.regs = true) {b : Nat} (hb : b < 32) :
    Assoc.wf regReset (d.suspend b).regs = true ∧ (d.suspend b).flag (Reg.seqBfStatus 1) b = true := by
  unfold Dev.suspend
  split
  · rename_i hflag
    exact ⟨hd, hflag⟩
  · have hset : Reads (d.setFlag (Reg.seqBfStatus 1) b true) ((d.setFlag (Reg.seqBfStatus 1) b true).raise (seqPage .backfill) 6)
        (Reg.seqBfStatus 1) := (Reads.refl (Assoc.wf_set hd _ _) _).raise (by decide) _ _
    refine ⟨hset.1, ?_⟩
    unfold Dev.flag
    rw [hset.2]
    refine (flag_setFlag hd _ _ _ _ hb true).trans ?_
    simp

theorem Dev.countOverrun_suspends (hd : Assoc.wf regReset d.regs = true) :
    d.countOverrun.flag (Reg.seqBfStatus 1) 1 = true ∧ d.countOverrun.pend (seqPage .backfill) 5 = true := by
  obtain ⟨hwf, hflag⟩ := Dev.suspend_flag (d := d.addSat (Reg.seqBfOverruns 1) 1) (Assoc.wf_set hd _ _) (b := 1) (by decide)
  refine ⟨?_, (Pends.raised hwf (seqPage .backfill) (by decide)).pend⟩
  have hraise := (Reads.refl hwf (Reg.seqBfStatus 1)).raise (by decide) (seqPage .backfill) 5
  unfold Dev.flag at hflag ⊢
  exact (congrArg (bit · 1) hraise.2).trans hflag

theorem exec_bfEnableEffect (hr : s.carrier.phase = .running) (hne : s.dev.flag (Reg.seqBfCtrl 1) 0 ≠ s.dev.bfEffective)
    (hrun : s.dev.seqBf.running = none) (hq : s.dev.quiet .main = true) :
    exec .bfEnableEffect s = .next { s with dev :=
      { s.dev.setFlag (Reg.seqBfStatus 1) 0 (s.dev.flag (Reg.seqBfCtrl 1) 0) with
        seqMain := { s.dev.seqMain with ahead := [] }, seqBf := { s.dev.seqBf with ahead := [] } } } := by
  show execBfEnableEffect s = _
  refine act_next hr ?_
  dsimp only
  rw [if_pos ⟨hne, by rw [hrun]; rfl, hq⟩]
  rfl

/-! Harts' writes to the sequencer (R133, R138, R160, R162, R163). -/

/-- A live hart's access has its effect. -/
theorem byHart_live {hart : Nat} (h : (s.liveHart hart).isSome = true) (f : Dev → Dev) :
    s.byHart hart f = { s with dev := f s.dev } := by
  obtain ⟨x, hx⟩ := Option.isSome_iff_exists.mp h
  unfold State.byHart
  rw [hx]

/-- A write to one field of a register leaves the bits outside it. -/
theorem bits_writeField_other (w v : Word) (f : RegField) {hi lo : Nat} (h : hi < f.lo ∨ f.hi < lo) :
    bits (writeField w v f) hi lo = bits w hi lo := by
  unfold writeField
  dsimp only
  split
  · split
    · exact bits_setBits_other _ h _
    · split
      · exact bits_setBits_other _ h _
      · rfl
  · exact bits_setBits_other _ h _
  · exact bits_setBits_other _ h _
  · rfl
  · rfl
  · rfl

/-- A field of access code RW takes an encoding that it admits. -/
theorem bits_writeField_rw (w v : Word) {f : RegField} (ha : f.acc = .rw) (hh : f.hi < 32) (hl : f.lo ≤ f.hi)
    (h1 : f.least ≤ bits v f.hi f.lo) (h2 : bits v f.hi f.lo ≤ f.most) (h3 : f.floor ≤ bits v f.hi f.lo) :
    bits (writeField w v f) f.hi f.lo = bits v f.hi f.lo := by
  unfold writeField
  rw [ha]
  dsimp only
  rw [if_pos ⟨h1, h2⟩, Nat.max_eq_right h3, bits_setBits _ hh hl]
  exact Nat.mod_eq_of_lt (bits_lt v f.hi f.lo)

theorem bit_eq_bits (w : Word) (i : Nat) : bit w i = (bits w i i == 1) := by
  have hbits : bits w i i = (w.toNat >>> i) % 2 := by
    unfold bits
    rw [show i + 1 - i = 1 by omega, Nat.shiftRight_eq_div_pow, pow_one]
  rw [hbits]
  unfold bit
  rw [BitVec.getLsbD, Nat.testBit, Nat.and_comm, Nat.and_one_is_mod]
  rcases Nat.mod_two_eq_zero_or_one (w.toNat >>> i) with h | h <;> simp [h]

/-- The word of BF_CTRL after a write: ENABLE as written. -/
theorem store_bfCtrl (hd : Assoc.wf regReset d.regs = true) (v : Word) :
    Assoc.wf regReset (d.store (Reg.seqBfCtrl 1) v).regs = true ∧ (d.store (Reg.seqBfCtrl 1) v).flag (Reg.seqBfCtrl 1) 0 = bit v 0 := by
  have hfields : fieldsAt (Reg.seqBfCtrl 1) = [.rw 0 0 0, .rw 15 8 50, .w1s 16 16 0] := by decide
  have htakes : ∀ lo, d.takesWrite (Reg.seqBfCtrl 1) lo = true := fun _ => rfl
  refine ⟨Assoc.wf_set hd _ _, ?_⟩
  unfold Dev.store Dev.flag
  rw [Dev.reg_setReg_same hd, hfields]
  simp only [htakes, if_true, List.foldl]
  have hwritten : bits (writeField (d.reg (Reg.seqBfCtrl 1)) v (.rw 0 0 0)) 0 0 = bits v 0 0 :=
    bits_writeField_rw _ _ (f := .rw 0 0 0) rfl (by decide) (by decide) (Nat.zero_le _)
      (Nat.le_trans (Nat.le_of_lt (bits_lt v 0 0)) (by decide)) (Nat.zero_le _)
  rw [bit_eq_bits, bits_writeField_other _ _ _ (by decide), bits_writeField_other _ _ _ (by decide), hwritten, ← bit_eq_bits]

/-- A write of BF_CTRL takes ENABLE; RESUME reads 0 again and clears SUSP_OVERRUN (R160, R162). -/
theorem writeBfCtrl_flags (hd : Assoc.wf regReset d.regs = true) (v : Word) :
    (d.writeBfCtrl v).flag (Reg.seqBfCtrl 1) 0 = bit v 0 ∧ (d.writeBfCtrl v).flag (Reg.seqBfCtrl 1) 16 = false ∧
      (d.writeBfCtrl v).flag (Reg.seqBfStatus 1) 1 = (d.flag (Reg.seqBfStatus 1) 1 && !bit v 16) := by
  obtain ⟨hwf, henable⟩ := store_bfCtrl hd v
  have hne : Reg.seqBfStatus 1 ≠ Reg.seqBfCtrl 1 := by decide
  have hstatus : (d.store (Reg.seqBfCtrl 1) v).flag (Reg.seqBfStatus 1) 1 = d.flag (Reg.seqBfStatus 1) 1 := by
    unfold Dev.store Dev.flag
    rw [Dev.reg_setReg hd, if_neg hne]
  have hresume : Assoc.wf regReset ((d.store (Reg.seqBfCtrl 1) v).setFlag (Reg.seqBfCtrl 1) 16 false).regs = true :=
    Assoc.wf_set hwf _ _
  unfold Dev.writeBfCtrl
  dsimp only
  cases hb : bit v 16 with
  | true => simp [flag_setFlag hresume, flag_setFlag hwf, henable, hne.symm]
  | false => simp [flag_setFlag hwf, henable, hstatus, hne]

theorem Touches.writeBfCtrl (h : Assoc.wf regReset d.regs = true) (v : Word) :
    Touches d (d.writeBfCtrl v) [Reg.seqBfCtrl 1, Reg.seqBfStatus 1] := by
  have hctrl : Reg.seqBfCtrl 1 ∈ [Reg.seqBfCtrl 1, Reg.seqBfStatus 1] := .head _
  have hset := ((Touches.refl h).store hctrl v).setFlag hctrl 16 false
  exact (hset.setFlag (.tail _ (.head _)) 1 false).ite hset

theorem exec_bfCtrl {hart : Fin 28} (h : (s.liveHart hart).isSome = true) {v : Word} {i : Instr}
    (hi : i = .bfEnableWrite hart v ∨ i = .bfResume hart v ∧ bit v 16 = true) :
    exec i s = .next { s with dev := s.dev.writeBfCtrl v } := by
  rcases hi with rfl | ⟨rfl, hb⟩
  · exact congrArg Host.Outcome.next (byHart_live h _)
  · refine congrArg Host.Outcome.next ((byHart_live h _).trans ?_)
    rw [if_pos hb]

end

end Sys2Proof.Machine

namespace Sys2Proof.Proofs
set_option Elab.async false
open Sys2Proof Sys2Proof.Machine

/-- Settles O15: the fetch after its checks, and what is looked ahead at once skipped where its predicate says no. -/
theorem headCommandDecoded : Obligations.HeadCommandDecoded := by
  unfold Obligations.HeadCommandDecoded
  intro s st a blocks e hr hd he hact hh hrun ha hcov hdec
  have hx : exec (.commandDecode st blocks) s = .next { s with dev :=
      (if e.recordPending a then e else (e.lookAhead st a).settle st) } := by
    rw [← fetch_idle hact hh hrun ha hcov hdec, he]
    show execCommandDecode st s blocks = _
    exact act_next hr rfl
  have hlooked := lookAhead_stream ha a
  refine ⟨fun hp => ?_, fun hp => by rw [hx, if_pos hp]⟩
  rw [hp, if_neg Bool.false_ne_true] at hx
  have hk : Keeps true s.dev ((e.lookAhead st a).settle st) :=
    ((he ▸ Keeps.refl.found _ blocks : Keeps true s.dev e).setStream st _).settle st
  refine ⟨_, hx, hk.steady, (leaving_execCommandDecode st blocks fun a h => by simpa using h).calmBut hx hd,
    fun hruns => ?runs, fun c hc hno => ?skipped⟩
  case runs =>
    rw [settle_kept (a := a) (by rw [hlooked]) fun c hc => (lookAhead_runs e st a c).trans (hruns c hc), hlooked]
  case skipped =>
    subst hc
    rw [settle_skips (c := c) (by rw [hlooked, hrun]) (by rw [hlooked]) ((lookAhead_active ..).trans hact)
      ((lookAhead_runs ..).trans hno)]
    obtain ⟨hahead, hskipped⟩ := skipOne_stream (e.lookAhead st (.ok c)) st c []
    refine ⟨hahead, hskipped.trans ?_⟩
    rw [hlooked, he, Dev.found_stream]

/-- Settles O16: the completion at the boundary; what follows it moves no stream on and clears no event. -/
theorem operationReachesItsBoundary : Obligations.OperationReachesItsBoundary := by
  unfold Obligations.OperationReachesItsBoundary
  intro s st r hr hd hrun hdone
  have hx := exec_operationBoundary hr hrun hdone
  refine ⟨fun hheld => ?_, fun hheld => by rw [hx, if_pos hheld]⟩
  rw [hheld, if_neg Bool.false_ne_true] at hx
  have hlate : Keeps true s.dev (s.dev.applyLate st) := Keeps.refl.applyLate st
  have hwf := hlate.regs hd.2
  obtain ⟨hcwf, hcount⟩ := cmdCount_completeAt (st := st) (c := r.dec) hwf
    (((s.dev.applyLate st).place st).next ((s.dev.applyLate st).ringSize st))
  refine ⟨_, hx, Completed.keeps (Completed.complete hlate st r.dec) (Keeps.refl.afterBoundary s.fuse st),
    (leaving_execOperationBoundary st).calm hx hd, ?_, fun hn => ?_⟩
  · have hafter := (((Reads.refl hcwf _).afterBoundary_cmdCount (st := st) s.fuse).2)
    exact (congrArg BitVec.toNat hafter).trans (hcount.trans (by rw [((Reads.refl hd.2 _).applyLate_cmdCount).2]))
  · exact ((Confined.refl.afterBoundary s.fuse st).pend _ _ (Pends.notified hwf hn _)).pend

/-- Settles O17: the overrun counted once, and EFFECTIVE between two commands. -/
theorem backfillLimits : Obligations.BackfillLimits := by
  unfold Obligations.BackfillLimits
  intro s hr hd
  refine ⟨fun r hrun ho ht => ?overrun, fun hne hrun hq => ?enable⟩
  case overrun =>
    have hx := exec_bfOverrun hr hrun ho ht
    have hk : Keeps true s.dev s.dev.countOverrun := ((Keeps.refl.addSat _ _).suspend _).raise _ _
    obtain ⟨hflag, hpend⟩ := Dev.countOverrun_suspends hd.2
    exact ⟨_, hx, leaving_execBfOverrun.calm hx hd, hk.main rfl, congrArg (Prod.mk _) (congrArg Prod.snd (hk.backfill rfl)),
      Dev.countOverrun_count hd.2, hflag, hpend⟩
  case enable =>
    have hx := exec_bfEnableEffect hr hne hrun hq
    refine ⟨_, hx, (((Touches.refl hd.2).setFlag (.head _) 0 _).other).only, ?_, rfl, rfl⟩
    exact (flag_setFlag hd.2 (Reg.seqBfStatus 1) (Reg.seqBfStatus 1) 0 0 (by decide) _).trans (if_pos ⟨rfl, rfl⟩)

/-- Settles O18: each write's effect on the registers that it names. -/
theorem hartsCommandTheStreams : Obligations.HartsCommandTheStreams := by
  unfold Obligations.HartsCommandTheStreams
  intro s hart st v hl hd
  refine ⟨fun hin => ?tail, fun hout => ?badTail, ?counter, fun i hi => ?bfCtrl⟩
  case tail =>
    refine ⟨_, congrArg Host.Outcome.next ((byHart_live hl _).trans (by rw [if_pos hin])),
      ((Touches.refl hd.2).setFld (.head _) 19 0 _).only, ?_⟩
    rw [Dev.fld_setFld hd.2 _ (by decide) (by decide)]
    exact Nat.mod_eq_of_lt (bits_lt v 19 0)
  case badTail =>
    have hquiet : eventReg (Reg.seqTail (sidx st)) = false := by cases st <;> decide
    refine ⟨_, congrArg Host.Outcome.next ((byHart_live hl _).trans (by rw [if_neg (Nat.not_lt.mpr hout)])),
      (Keeps.refl.raise _ _).steady, ((Leaves.refl.raise _ _).calm hd).2, ?_, (Pends.raised hd.2 _ (by decide)).pend⟩
    exact ((Reads.refl hd.2 _).raise hquiet _ _).2
  case counter =>
    refine ⟨_, congrArg Host.Outcome.next (byHart_live hl _), ((Touches.refl hd.2).addSat (.head _) _).only, ?_⟩
    unfold Dev.raiseCounter Dev.addSat
    rw [Dev.reg_setReg_same hd.2, BitVec.toNat_ofNat]
    omega
  case bfCtrl =>
    obtain ⟨henable, hresume, hstatus⟩ := writeBfCtrl_flags hd.2 v
    exact ⟨_, exec_bfCtrl hl hi, (Touches.writeBfCtrl hd.2 v).only, henable, hresume, hstatus⟩

end Sys2Proof.Proofs

/-! What the sequencer's shared operations, events and messages leave of the units: they write registers, memory and the record of events,
move the streams, and queue blocks; nothing else of a unit changes. -/
namespace Sys2Proof.Machine
set_option Elab.async false

/-- `o` with what the shared operations may change as `d` has it. -/
def Dev.carry (o d : Dev) : Dev :=
  { o with
    regs := d.regs, mem := d.mem, log := d.log, seqMain := d.seqMain, seqBf := d.seqBf, mgt := d.mgt, freeCtr := d.freeCtr
    sxt := d.sxt, ports := d.ports, sky := { o.sky with bad := d.sky.bad, digests := d.sky.digests, takenBlocks := d.sky.takenBlocks }
    cht := { o.cht with loop := d.cht.loop, stuck := d.cht.stuck } }

/-- `d` comes from `o` by shared operations alone. -/
def Carried (o d : Dev) : Prop := d = o.carry d

section
variable {o d e : Dev}

theorem Carried.refl : Carried o o := rfl

theorem Carried.trans (h1 : Carried o d) (h2 : Carried d e) : Carried o e :=
  calc e = d.carry e := h2
    _ = (o.carry d).carry e := congrArg (·.carry e) h1
    _ = o.carry e := rfl

theorem Carried.ite {c : Prop} [Decidable c] {x y : Dev} (hx : Carried o x) (hy : Carried o y) : Carried o (if c then x else y) := by
  split
  · exact hx
  · exact hy

theorem Carried.foldl {α : Type} {f : Dev → α → Dev} {l : List α} (h : Carried o d) (hf : ∀ x a, Carried x (f x a)) :
    Carried o (l.foldl f d) := by
  induction l generalizing d with
  | nil => exact h
  | cons a l ih => exact ih (h.trans (hf d a))

theorem Carried.setReg (h : Carried o d) (a : Nat) (w : Word) : Carried o (d.setReg a w) := h.trans rfl

theorem Carried.setStream (h : Carried o d) (st : Stream) (f : StreamState → StreamState) : Carried o (d.setStream st f) := by
  cases st <;> exact h.trans rfl

theorem Carried.acts (h : Carried o d) (as : List Act) : Carried o (d.acts as) := by
  refine h.trans ?_
  obtain ⟨_, _, _, _, _, he⟩ := (EventsOnly.refl.acts as : EventsOnly d (d.acts as)).rest
  rw [he]
  rfl

theorem Carried.raise (h : Carried o d) (p : Page) (b : Nat) : Carried o (d.raise p b) := h.acts _

theorem Carried.record (h : Carried o d) (r : Rec) : Carried o (d.record r) := h.acts _

theorem Carried.bad (h : Carried o d) : Carried o d.bad := h.trans rfl

theorem Carried.moveTo (h : Carried o d) (p : Page) (c : Nat) : Carried o (d.moveTo p c) := by
  unfold Dev.moveTo
  exact Carried.ite h (h.trans rfl)

theorem Carried.stray (h : Carried o d) : Carried o d.stray := (h.setReg _ _).raise _ _

theorem Carried.moveOn (h : Carried o d) (st : Stream) (p : Place) : Carried o (d.moveOn st p) := by
  unfold Dev.moveOn
  dsimp only
  have hs := h.setStream st fun x => { x with frames := p.frames }
  exact Carried.ite hs (Carried.ite ((hs.setReg _ _).raise _ _) (hs.setReg _ _))

theorem Carried.suspend (h : Carried o d) (b : Nat) : Carried o (d.suspend b) := by
  unfold Dev.suspend
  exact Carried.ite h ((h.setReg _ _).raise _ _)

theorem Carried.measureTime (h : Carried o d) (st : Stream) : Carried o (d.measureTime st) := by
  unfold Dev.measureTime
  split
  · unfold Dev.measureBf Dev.countOverrun
    dsimp only
    exact Carried.ite ((((h.setReg _ _).setReg _ _).suspend _).raise _ _) (h.setReg _ _)
  · exact h

theorem Carried.completeAt (h : Carried o d) (st : Stream) (c : Decoded) (p : Place) : Carried o (d.completeAt st c p) := by
  unfold Dev.completeAt
  dsimp only
  have hcount := ((h.measureTime st).setStream st fun x =>
    { x.feedIn c with running := none, completed := x.completed + 1 }).setReg (Reg.seqCmdCount (sidx st))
  exact Carried.moveOn (Carried.ite ((hcount _).raise _ _) (hcount _)) st p

theorem Carried.complete (h : Carried o d) (st : Stream) (c : Decoded) : Carried o (d.complete st c) := h.completeAt st c _

theorem Carried.skipAhead (st : Stream) (n : Nat) (h : Carried o d) : Carried o (Dev.skipAhead st n d) := by
  induction n generalizing d with
  | zero => exact h
  | succ n ih =>
    unfold Dev.skipAhead
    dsimp only
    split
    · exact Carried.ite (ih (((h.setStream st _).setReg _ _).moveOn st _)) h
    · exact h

theorem Carried.settle (h : Carried o d) (st : Stream) : Carried o (d.settle st) := h.skipAhead st 9

theorem Carried.issue (h : Carried o d) (st : Stream) (c : Decoded) (done waiting : Bool) : Carried o (d.issue st c done waiting) := by
  have hr : Carried o (d.resumeTime st) := by
    unfold Dev.resumeTime
    split
    · exact (h.setReg _ _).trans rfl
    · exact h
  unfold Dev.issue
  cases st
  · exact (hr.setStream .main _).trans rfl
  · exact hr.setStream .backfill _

theorem Carried.reject (h : Carried o d) (st : Stream) (reason addr depth : Nat) (tag : Word) :
    Carried o (d.reject st reason addr depth tag) := by
  have hset := ((((h.setStream st fun s => { s with running := none, late := none, ahead := [] }).setReg (Reg.seqReject (sidx st))
    (BitVec.ofNat 32 (reason % 16 + depth % 8 * 16))).setReg (Reg.seqRejectAddrLo (sidx st)) (BitVec.ofNat 32 (addr - addr % 64))).setReg
    (Reg.seqRejectAddrHi (sidx st)) (BitVec.ofNat 32 (addr / 0x100000000 % 0x200))).setReg (Reg.seqRejectTag (sidx st)) tag
  have hfault := ((hset.raise (seqPage st) 0).moveTo (seqPage st) 7).record
  unfold Dev.reject
  cases st
  · exact (hfault _).bad
  · exact (hfault _).suspend 3

theorem Carried.rejectRun (h : Carried o d) (st : Stream) (c : Decoded) (reason : Nat) : Carried o (d.rejectRun st c reason) :=
  h.reject st reason _ _ _

/-! Messages sent. -/

theorem foldl_snd_induct {α β : Type} {P : Dev → Prop} {f : β × Dev → α → β × Dev} (hf : ∀ x a, P x.2 → P (f x a).2) (l : List α)
    (x : β × Dev) (h : P x.2) : P (l.foldl f x).2 := by
  induction l generalizing x with
  | nil => exact h
  | cons a l ih => exact ih _ (hf _ _ h)

/-- What holds of a device and of what each block sent leaves holds of what a packet's blocks leave. -/
theorem sendBlocks_induct {P : Dev → Prop} {cls slot dest stripe owner : Nat} (hf : ∀ x b, P x → P (x.forward b owner))
    (payloads : List (List Byte)) (h : P d) : P (d.sendBlocks cls slot dest stripe owner payloads) := by
  unfold Dev.sendBlocks
  exact foldl_snd_induct (fun _ _ hx => hf _ _ hx) payloads (0, d) h

theorem Carried.forward (h : Carried o d) (b : Block) (owner : Nat) : Carried o (d.forward b owner) := by
  unfold Dev.forward
  split
  · exact h.trans rfl
  · have hstray : Carried o (d.strayBlock b) := (h.setReg _ _).acts _
    unfold Dev.notAccepted
    exact Carried.ite hstray (hstray.trans rfl)

theorem Carried.sendControl (h : Carried o d) (dest : Nat) (bs : List Byte) : Carried o (d.sendControl dest bs) := by
  unfold Dev.sendControl
  split
  · exact h
  · exact Carried.ite (h.trans rfl) (sendBlocks_induct (fun _ b hx => hx.forward b _) _ h)

theorem Carried.sendControls (h : Carried o d) (dests : List Nat) (bs : List Byte) : Carried o (d.sendControls dests bs) :=
  h.foldl fun _ _ => Carried.refl.sendControl _ _

theorem Carried.takePacket (h : Carried o d) (m : Packet) : Carried o (d.takePacket m) := by
  unfold Dev.takePacket
  exact Carried.ite (h.trans rfl) (Carried.ite (h.trans rfl) h)

end

/-! Registers of the pages that the shared operations write. -/

section
variable {ps : List Nat} {o d : Dev}

theorem Confined.setPair (h : Confined ps o d) {lo : Nat} (v : Nat) (h1 : regPage lo ∈ ps) (h2 : regPage (lo + 4) ∈ ps)
    (h3 : lo % 0x1000 ≠ 0x020) (h4 : (lo + 4) % 0x1000 ≠ 0x020) : Confined ps o (d.setPair lo v) :=
  (h.setReg _ h1 h3).setReg _ h2 h4

theorem Confined.issue (h : Confined ps o d) (st : Stream) (c : Decoded) (done waiting : Bool) (hp : 0x008 ∈ ps) :
    Confined ps o (d.issue st c done waiting) := by
  have hr : Confined ps o (d.resumeTime st) := by
    unfold Dev.resumeTime
    split
    · exact Confined.other (h.setReg (a := Reg.seqResumeMaxNs 1) _ hp (by decide))
    · exact h
  unfold Dev.issue
  cases st
  · exact hr.other
  · exact hr.setStream .backfill _

theorem Confined.suspend (h : Confined ps o d) (b : Nat) (hp : 0x008 ∈ ps) : Confined ps o (d.suspend b) := by
  unfold Dev.suspend
  exact Confined.ite h ((h.setReg (a := Reg.seqBfStatus 1) _ hp (by decide)).raise _ _)

theorem Confined.measureTime (h : Confined ps o d) (st : Stream) (hp : 0x008 ∈ ps) : Confined ps o (d.measureTime st) := by
  unfold Dev.measureTime
  split
  · unfold Dev.measureBf Dev.countOverrun
    dsimp only
    have hlong := fun w => h.setReg (a := Reg.seqBfLongestNs 1) w hp (by decide)
    exact Confined.ite ((((hlong _).setReg (a := Reg.seqBfOverruns 1) _ hp (by decide)).suspend _ hp).raise _ _) (hlong _)
  · exact h

theorem Confined.completeAt (h : Confined ps o d) (st : Stream) (c : Decoded) (p : Place) (hp : 0x008 ∈ ps) :
    Confined ps o (d.completeAt st c p) := by
  have hreg : regPage (Reg.seqCmdCount (sidx st)) = 0x008 := by cases st <;> decide
  have hlow : Reg.seqCmdCount (sidx st) % 0x1000 ≠ 0x020 := by cases st <;> decide
  unfold Dev.completeAt
  dsimp only
  have hcount := fun w => ((h.measureTime st hp).setStream st fun x =>
    { x.feedIn c with running := none, completed := x.completed + 1 }).setReg w (hreg ▸ hp) hlow
  exact Confined.moveOn (Confined.ite ((hcount _).raise _ _) (hcount _)) st p hp

theorem Confined.complete (h : Confined ps o d) (st : Stream) (c : Decoded) (hp : 0x008 ∈ ps) : Confined ps o (d.complete st c) :=
  h.completeAt st c _ hp

theorem Confined.stray (h : Confined ps o d) (hp : 0x00F ∈ ps) : Confined ps o d.stray :=
  (h.setReg (a := Reg.chtStray) _ hp (by decide)).raise _ _

theorem Confined.forward (h : Confined ps o d) (b : Block) (owner : Nat) (hp : 0x00F ∈ ps) : Confined ps o (d.forward b owner) := by
  unfold Dev.forward
  split
  · exact h.other
  · have hstray : Confined ps o (d.strayBlock b) := (h.setReg (a := Reg.chtStray) _ hp (by decide)).raiseLogged _ _ _ _
    unfold Dev.notAccepted
    exact Confined.ite hstray hstray.other

theorem Confined.sendControl (h : Confined ps o d) (dest : Nat) (bs : List Byte) (hp : 0x00F ∈ ps) :
    Confined ps o (d.sendControl dest bs) := by
  unfold Dev.sendControl
  split
  · exact h
  · exact Confined.ite h.other (sendBlocks_induct (fun _ b hx => hx.forward b _ hp) _ h)

theorem Confined.sendControls (h : Confined ps o d) (dests : List Nat) (bs : List Byte) (hp : 0x00F ∈ ps) :
    Confined ps o (d.sendControls dests bs) := h.foldl fun _ _ => Confined.refl.sendControl _ _ hp

theorem Confined.setSlot (h : Confined ps o d) (i st : Nat) (hp : 0x00A ∈ ps) : Confined ps o (d.setSlot i st) :=
  h.setReg (a := Reg.hlmRingState) _ hp (by decide)

theorem Confined.ringPin (h : Confined ps o d) (hp : 0x00A ∈ ps) : Confined ps o d.ringPin := by
  unfold Dev.ringPin
  split
  · have hctrl := (h.setReg (a := Reg.hlmRingCtrl) (setBit (d.reg Reg.hlmRingCtrl) 8 false) hp (by decide)).other
      (f := { d.setFlag Reg.hlmRingCtrl 8 false with hlm := { d.hlm with pinAsked := false } })
    exact ((hctrl.setReg (a := Reg.hlmRingCur) _ hp (by decide)).setReg (a := Reg.hlmRingCur) _ hp (by decide)).raise _ _
  · exact h

theorem Confined.ringFix (h : Confined ps o d) (n : Nat) (hp : 0x00A ∈ ps) : Confined ps o (d.ringFix n) := by
  unfold Dev.ringFix
  split
  · exact h
  · dsimp only
    refine Confined.ite h (Confined.setReg (a := Reg.hlmRingCur) (Confined.setSlot ?_ _ _ hp) _ hp (by decide))
    split
    · exact h.setSlot _ _ hp
    · exact h

theorem Confined.coreTo (h : Confined ps o d) (f : Fuse) (c st probLeft event : Nat) (hp : 0x012 ∈ ps) :
    Confined ps o (d.coreTo f c st probLeft event) := by
  have hset : Confined ps o (d.setCore c ⟨st, ((d.core c).gen + 1) % 256, probLeft, (d.core c).rejected⟩) := h.other
  have hraised := hset.raiseLogged (page1 .chk) event 0xFFFF (natBytes 4 c)
  unfold Dev.coreTo
  exact Confined.cluSettle (Confined.setReg hraised _ ((regPage_cluProbation _).1 ▸ hp) (regPage_cluProbation _).2) f _ hp

theorem Confined.release (h : Confined ps o d) (f : Fuse) (c : Nat) (hp : 0x012 ∈ ps) : Confined ps o (d.release f c) := by
  have hcore := h.coreTo f c 2 0 4 hp
  unfold Dev.release Dev.marginBack
  exact Confined.ite hcore.other hcore

theorem Confined.lessProbation (h : Confined ps o d) (f : Fuse) (hp : 0x012 ∈ ps) : Confined ps o (d.lessProbation f) :=
  h.foldl fun _ _ => Confined.ite .refl (Confined.ite (Confined.refl.release f _ hp) Confined.refl.other)

theorem Confined.fixStep (h : Confined ps o d) (f : Fuse) (n : Nat) (hs : 0x014 ∈ ps) (hh : 0x00A ∈ ps) (hc : 0x012 ∈ ps) :
    Confined ps o (d.fixStep f n) := by
  have hfixed := (((h.setPair (lo := Reg.skyFixedLo) n hs hs (by decide) (by decide)).ringFix n hh).raise skyPage 0)
  exact Confined.lessProbation hfixed.other f hc

theorem Confined.fixReleased (f : Fuse) (n : Nat) (h : Confined ps o d) (hs : 0x014 ∈ ps) (hh : 0x00A ∈ ps) (hc : 0x012 ∈ ps) :
    Confined ps o (Dev.fixReleased f n d) := by
  induction n generalizing d with
  | zero => exact h
  | succ n ih =>
    unfold Dev.fixReleased
    exact Confined.ite (ih (h.fixStep f _ hs hh hc)) h

/-! The second key's own operations. -/

theorem Confined.skSend (h : Confined ps o d) (dest type code dir suspect step : Nat) (x : Digests) (hp : 0x00F ∈ ps) :
    Confined ps o (d.skSend dest type code dir suspect step x) := h.sendControl _ _ hp

theorem Confined.sendDecision (h : Confined ps o d) (step code : Nat) (hp : 0x00F ∈ ps) : Confined ps o (d.sendDecision step code) := by
  unfold Dev.sendDecision
  split
  · exact h.skSend _ _ _ _ _ _ _ hp
  · exact h

theorem Confined.decideFix (h : Confined ps o d) (step : Nat) (hp : 0x00F ∈ ps) : Confined ps o (d.decideFix step) :=
  Confined.sendDecision h.other _ _ hp

theorem Confined.decideRollback (h : Confined ps o d) (r : SkRequest) (cause : Nat) (hp : 0x00F ∈ ps) :
    Confined ps o (d.decideRollback r cause) := Confined.sendDecision h.other _ _ hp

theorem Confined.replayEnds (h : Confined ps o d) (n : Nat) (hp : 0x00F ∈ ps) : Confined ps o (d.replayEnds n) := by
  unfold Dev.replayEnds
  dsimp only
  split
  · split
    · exact Confined.skSend h.other _ _ _ _ _ _ _ hp
    · exact h
  · split
    · refine Confined.ite h (Confined.ite ((h.record _).decideFix n hp) (Confined.ite (h.decideRollback _ _ hp) ?_))
      exact ((h.record _).record _).decideRollback _ _ hp
    · exact h

theorem Confined.fixDone (h : Confined ps o d) (c : Decoded) (n vote cause : Nat) (hs : 0x008 ∈ ps) (hh : 0x00A ∈ ps) :
    Confined ps o (d.fixDone c n vote cause) := by
  have hrec := Confined.record (h.other (f := { d with sky := { d.sky with fix := none, votes := [] } }))
  unfold Dev.fixDone
  exact ((Confined.ite ((hrec _).ringPin hh) (hrec _)).complete .main c hs).settle .main hs

theorem Confined.endHold (h : Confined ps o d) (m : SkMsg) (hp : 0x014 ∈ ps) : Confined ps o (d.endHold m) := by
  have hold := h.other (f := { d with sky := { d.sky with holds := d.sky.holds.filter fun x => x ≠ (m.suspect, m.step) } })
  unfold Dev.endHold
  exact Confined.ite (hold.setReg (a := Reg.skyStatus) _ hp (by decide)) hold

theorem Confined.logRollback (h : Confined ps o d) (cause : Nat) : Confined ps o (d.logRollback cause) := by
  have hrecorded : ∀ m r x, Confined ps o { ({ d with mem := m } : Dev).record r with
      log := { (({ d with mem := m } : Dev).record r).log with rerunTo := x } } := fun m r x =>
    Confined.other ((h.other (f := { d with mem := m })).record r)
  exact Confined.ite (hrecorded _ _ _) ((hrecorded _ _ _).raise _ _)

theorem Confined.orderRollback (h : Confined ps o d) (cause : Nat) (hs : 0x014 ∈ ps) (hc : 0x00F ∈ ps) :
    Confined ps o (d.orderRollback cause) := by
  have hlog := h.logRollback cause
  have hcount := (hlog.setReg (a := Reg.skyRollbacks) (BitVec.ofNat 32 (min (((d.logRollback cause).reg Reg.skyRollbacks).toNat + 1)
    0xFFFFFFFF)) hs (by decide)).raise skyPage 2
  have hflag := fun w => hcount.setReg (a := Reg.skyStatus) w hs (by decide)
  have hsent : ∀ w (l : List SkRequest), Confined ps o (l.foldl (fun d r => d.skSend d.witness 38 0 0 d.number r.step Digests.none)
      (Dev.setReg _ Reg.skyStatus w)) := fun w l => (hflag w).foldl fun x r => Confined.refl.skSend _ _ _ _ _ _ _ hc
  unfold Dev.orderRollback
  dsimp only
  exact Confined.other (Confined.ite ((hsent _ _).raise _ _) (hsent _ _))

/-- What a decision does after its event (R376, R381, R383). -/
def Dev.decided (d : Dev) (f : Fuse) (m : SkMsg) : Dev :=
  match m.code with
  | 0 => Dev.fixReleased f 64 ((d.endHold m).awaitLess m.step)
  | 1 => { d with sky := { d.sky with holds := (m.suspect, m.step) :: d.sky.holds } }
  | _ => ((d.decisionCause m).2.endHold m).orderRollback (d.decisionCause m).1

theorem applyDecision_decided (d : Dev) (f : Fuse) (m : SkMsg) : d.applyDecision f m = (d.raise skyPage 4).decided f m := rfl

theorem Confined.decided (h : Confined ps o d) (f : Fuse) (m : SkMsg) (hs : 0x014 ∈ ps) (hh : 0x00A ∈ ps) (hc : 0x012 ∈ ps)
    (hf : 0x00F ∈ ps) : Confined ps o (d.decided f m) := by
  have hcause : Confined ps o (d.decisionCause m).2 := by
    unfold Dev.decisionCause
    split
    · split
      · exact h
      · exact h.other
    · exact h.other
  unfold Dev.decided
  split
  · exact Confined.fixReleased f 64 (Confined.other (h.endHold m hs)) hs hh hc
  · exact h.other
  · exact (hcause.endHold m hs).orderRollback _ hs hf

end

end Sys2Proof.Machine

/-! LEG and FIX (R18, R330 to R333, R351, R372, R373, R381, R383): issue, switch and timeout. -/
namespace Sys2Proof.Machine
set_option Elab.async false

section
variable {s : State} {o d e : Dev} {c : Decoded}

/-- The state of a page is what its STATE register shows. -/
theorem code_reads {p : Page} (h : Reads o d (stateReg p)) : d.code p = o.code p := by
  unfold Dev.code Dev.fld
  rw [h.2]

theorem active_reads {p : Page} (h : Reads o d (stateReg p)) : d.active p = o.active p := by
  unfold Dev.active
  rw [code_reads h]

theorem ready_reads {p : Page} (h : Reads o d (stateReg p)) : d.ready p = o.ready p := by
  unfold Dev.ready
  rw [code_reads h]

theorem stateReg_ne {p : Page} {a : Nat} (ha : a % 0x1000 ≠ 0x014) : stateReg p ≠ a := fun h => ha (h ▸ stateReg_low p)

theorem stateReg_ne_resume (p : Page) : stateReg p ≠ Reg.seqResumeMaxNs 1 := stateReg_ne (by decide)

/-! A LEG's issue. -/

theorem Reads.endStall {a : Nat} (h : Reads o d a) (h1 : a ≠ Reg.logStatus) (h2 : a ≠ Reg.logStallMaxUs) : Reads o d.endStall a := by
  unfold Dev.endStall
  split
  · exact h
  · exact ((h.setFlag h1 2 false).raiseTo h2 _).other

/-- The device in which a LEG has issued: the hold for ring space is over. -/
def Dev.legBegun (d : Dev) (c : Decoded) : Dev := d.endStall.issue .main c false true

theorem Reads.legBegun_state (hd : Assoc.wf regReset d.regs = true) (p : Page) : Reads d (d.legBegun c) (stateReg p) :=
  ((Reads.refl hd _).endStall (stateReg_ne (by decide)) (stateReg_ne (by decide))).issue .main c false true (stateReg_ne_resume p)

theorem legRejected_begun (hd : Assoc.wf regReset d.regs = true) (l : LegCmd) : (d.legBegun c).legRejected l = d.legRejected l := by
  have hread : ∀ p, Reads d (d.legBegun c) (stateReg p) := Reads.legBegun_state hd
  unfold Dev.legRejected
  rw [active_reads (hread chtPage), active_reads (hread sxtPage), ready_reads (hread logPage)]

/-- The run of a LEG as it issues. -/
def Dev.legRun (d : Dev) (l : LegCmd) (begins : Bool) : LegRun :=
  ⟨l, begins, .waiting, d.stamp, !d.flag Reg.logStatus 6, 0, 0#32, 0#32, false⟩

theorem exec_leg (hr : s.carrier.phase = .running) (hn : s.dev.next? .main = some c) {l : LegCmd} (hc : c.cmd = .leg l) :
    exec .leg s = .next { s with dev :=
      (if s.dev.logShort then s.dev.stall
      else if s.dev.legBegins l.leg ∧ !s.dev.sky.holds.isEmpty ∧ s.dev.skyMode = 0 then s.dev.endStall.setFlag Reg.skyStatus 13 true
      else if (s.dev.legBegun c).legRejected l then (s.dev.legBegun c).rejectRun .main c rField
      else { s.dev.legBegun c with cht :=
        { (s.dev.legBegun c).cht with leg := some ((s.dev.legBegun c).legRun l (s.dev.legBegins l.leg)) } }) } := by
  show execLeg s = _
  refine act_issue hr hn ?_
  simp only [hc]
  split
  · rfl
  · split
    · rfl
    · exact (apply_ite some _ _ _).symm

/-- A LEG that neither ring space nor a hold of the second key holds up. -/
theorem exec_leg_issued (hr : s.carrier.phase = .running) (hd : s.dev.Tidy) (hn : s.dev.next? .main = some c) {l : LegCmd}
    (hc : c.cmd = .leg l) (hshort : s.dev.logShort = false)
    (hhold : s.dev.legBegins l.leg = true → s.dev.skyMode = 0 → s.dev.sky.holds = []) :
    exec .leg s = .next { s with dev :=
      (if s.dev.legRejected l then (s.dev.legBegun c).rejectRun .main c rField
      else { s.dev.legBegun c with cht :=
        { (s.dev.legBegun c).cht with leg := some ((s.dev.legBegun c).legRun l (s.dev.legBegins l.leg)) } }) } := by
  have hfree : ¬ (s.dev.legBegins l.leg = true ∧ (!s.dev.sky.holds.isEmpty) = true ∧ s.dev.skyMode = 0) := by
    rintro ⟨hbegins, hholds, hmode⟩
    rw [hhold hbegins hmode] at hholds
    cases hholds
  rw [exec_leg hr hn hc, hshort, if_neg Bool.false_ne_true, if_neg hfree, legRejected_begun hd.2]

theorem legRejected_iff (d : Dev) (l : LegCmd) : d.legRejected l = true ↔
    d.active chtPage = false ∨ d.ready logPage = true ∨ l.leg = 0 ∧ d.active sxtPage = false := by
  unfold Dev.legRejected
  simp [Bool.or_eq_true, or_assoc]

/-- A LEG held for ring space is counted once, as the hold begins (R351). -/
theorem stall_begins (hd : Assoc.wf regReset d.regs = true) (h : d.log.stallSince = none) :
    d.stall.log.stallSince = some d.now ∧
      d.stall.reg Reg.logStalls = BitVec.ofNat 32 (min ((d.reg Reg.logStalls).toNat + 1) 0xFFFFFFFF) := by
  have hflag : Reads d (d.setFlag Reg.logStatus 2 true) Reg.logStalls := (Reads.refl hd _).setFlag (by decide) 2 true
  have hcount : Assoc.wf regReset ((d.setFlag Reg.logStatus 2 true).addSat Reg.logStalls 1).regs = true := Assoc.wf_set hflag.1 _ _
  have hraise := (Reads.refl hcount Reg.logStalls).raise (by decide) logPage 2
  have hnow : (((d.setFlag Reg.logStatus 2 true).addSat Reg.logStalls 1).raise logPage 2).now = d.now :=
    (((Keeps.refl (level := true)).setFlag Reg.logStatus 2 true).addSat Reg.logStalls 1 |>.raise logPage 2).now rfl
  unfold Dev.stall
  rw [h]
  refine ⟨congrArg some hnow, hraise.2.trans ?_⟩
  unfold Dev.addSat
  rw [Dev.reg_setReg_same hflag.1, hflag.2]

theorem stall_goes_on (h : d.log.stallSince ≠ none) : d.stall = d := by
  unfold Dev.stall
  rw [if_pos (Option.isSome_iff_ne_none.mpr h)]

/-! The switch. -/

/-- The run of a LEG at its barrier after the switch. -/
def Dev.switchRun (e : Dev) (r : LegRun) : LegRun := (e.switchCharts r.cmd).switchedRun r

/-- The device with a LEG at its barrier after the switch. -/
def Dev.atBarrier (e : Dev) (r : LegRun) : Dev := (e.switchCharts r.cmd).toBarrier (e.switchRun r)

/-- A LEG's switch once the classes that its Charts govern have drained. -/
def Dev.legSwitched (e : Dev) (c : Decoded) (r : LegRun) : Dev :=
  if (e.atBarrier r).skyMode ≠ 0 then (e.atBarrier r).legDone c (e.switchRun r) else (e.atBarrier r).dropBarriers.runBarrier

theorem exec_legSwitch (hr : s.carrier.phase = .running) {r : LegRun} (hl : s.dev.runningLeg = some (c, r)) (hp : r.phase = .waiting)
    (blocks : List BlockFinding) :
    exec (.legSwitch blocks) s = .next { s with dev :=
      (if (s.dev.incoming r.cmd).all s.dev.classDrained then (s.dev.found [] blocks).legSwitched c r else s.dev) } := by
  show execLegSwitch s blocks = _
  refine act_next hr ?_
  simp only [hl, hp, ne_eq, not_true_eq_false, false_or]
  cases (s.dev.incoming r.cmd).all s.dev.classDrained <;> rfl

/-- The registers that a switch writes. -/
theorem Touches.switchCharts (hd : Assoc.wf regReset d.regs = true) (l : LegCmd) :
    Touches d (d.switchCharts l) [Reg.chtGovern, Reg.chtLeg, Reg.chtStepLo, Reg.chtStepLo + 4] := by
  have hgovern := Touches.ite (c := d.skyMode = 1)
    ((Touches.refl (as := [Reg.chtGovern, Reg.chtLeg, Reg.chtStepLo, Reg.chtStepLo + 4]) hd).other
      (e := { d with cht := { d.cht with govReplay := d.newGovern l } }))
    ((Touches.refl hd).setReg (a := Reg.chtGovern) (by decide) (d.newGovern l))
  have hleg := hgovern.setReg (a := Reg.chtLeg) (by decide) (BitVec.ofNat 32 l.leg)
  exact (hleg.setReg (a := Reg.chtStepLo) (by decide) _).setReg (a := Reg.chtStepLo + 4) (by decide) _

theorem Reads.setPair {a lo : Nat} (h : Reads o d a) (h1 : a ≠ lo) (h2 : a ≠ lo + 4) (v : Nat) : Reads o (d.setPair lo v) a :=
  (h.setReg _ h1).setReg _ h2

/-- A pair of registers as written. -/
theorem pair_setPair (hd : Assoc.wf regReset d.regs = true) (lo : Nat) {v : Nat} (hv : v < 2 ^ 64) : (d.setPair lo v).pair lo = v := by
  have hlo : Assoc.wf regReset (d.setReg lo (BitVec.ofNat 32 v)).regs = true := Assoc.wf_set hd _ _
  unfold Dev.setPair Dev.pair
  rw [Dev.reg_setReg_same hlo, Dev.reg_setReg hlo, if_neg (by omega), Dev.reg_setReg_same hd, BitVec.toNat_ofNat, BitVec.toNat_ofNat]
  omega

/-- CHT_GOVERN as a switch writes it, where it does (R330, R381). -/
theorem switchCharts_govern (hd : Assoc.wf regReset d.regs = true) (l : LegCmd) :
    (d.skyMode ≠ 1 → (d.switchCharts l).reg Reg.chtGovern = d.newGovern l) ∧
      (d.skyMode = 1 → (d.switchCharts l).reg Reg.chtGovern = d.reg Reg.chtGovern) := by
  unfold Dev.switchCharts
  refine ⟨fun hm => ?_, fun hm => ?_⟩
  · have hw : Assoc.wf regReset (d.setReg Reg.chtGovern (d.newGovern l)).regs = true := Assoc.wf_set hd _ _
    simp only [if_neg hm]
    rw [(((Reads.refl hw Reg.chtGovern).setReg _ (by decide)).setPair (by decide) (by decide) _).2, Dev.reg_setReg_same hd]
  · simp only [if_pos hm]
    exact (((Reads.refl hd _).other.setReg _ (by decide)).setPair (by decide) (by decide) _).2

/-- CHT_LEG and CHT_STEP as a switch writes them. -/
theorem switchCharts_shows (hd : Assoc.wf regReset d.regs = true) (l : LegCmd) :
    (d.switchCharts l).reg Reg.chtLeg = BitVec.ofNat 32 l.leg ∧ (d.switchCharts l).pair Reg.chtStepLo = l.step.toNat := by
  have hgovern : Assoc.wf regReset (if d.skyMode = 1 then { d with cht := { d.cht with govReplay := d.newGovern l } }
      else d.setReg Reg.chtGovern (d.newGovern l)).regs = true := by
    split
    · exact hd
    · exact Assoc.wf_set hd _ _
  unfold Dev.switchCharts
  dsimp only
  generalize (if d.skyMode = 1 then _ else _ : Dev) = e at hgovern ⊢
  have hleg : Assoc.wf regReset (e.setReg Reg.chtLeg (BitVec.ofNat 32 l.leg)).regs = true := Assoc.wf_set hgovern _ _
  refine ⟨?_, pair_setPair hleg _ l.step.isLt⟩
  rw [((Reads.refl hleg Reg.chtLeg).setPair (by decide) (by decide) _).2, Dev.reg_setReg_same hgovern]

theorem skyMode_only {as : List Nat} (h : o.Only d as) (ha : Reg.skyCtrl ∉ as) : d.skyMode = o.skyMode := by
  unfold Dev.skyMode Dev.fld
  rw [h.2.2 _ ha]

theorem legSwitched_of_mode (hd : Assoc.wf regReset e.regs = true) (r : LegRun) : e.legSwitched c r =
    if e.skyMode = 0 then (e.atBarrier r).dropBarriers.runBarrier else (e.atBarrier r).legDone c (e.switchRun r) := by
  have hmode : (e.atBarrier r).skyMode = e.skyMode := skyMode_only (Touches.switchCharts hd r.cmd).only (by decide)
  unfold Dev.legSwitched
  rw [hmode, ite_not]

/-! FIX. -/

/-- The vote of a FIX as it starts. -/
def Dev.startVote (d : Dev) (x : FixCmd) : Dev := { d with sky := { d.sky with fix := some ⟨x, d.now, false, 0⟩ } }

/-- A FIX as it issues (R372, R373, R381). -/
def Dev.fixBegun (d : Dev) (f : Fuse) (c : Decoded) (x : FixCmd) : Dev :=
  if !d.active skyPage then d.rejectRun .main c rField
  else if d.skyMode ≠ 0 then (d.fixDone c x.step.toNat 3 3).replayEnds x.step.toNat
  else if x.step.toNat < d.sky.firstStep + d.lag then d.fixDone c x.step.toNat 3 3
  else (d.startVote x).runVote f

theorem exec_fix (hr : s.carrier.phase = .running) (hn : s.dev.next? .main = some c) {x : FixCmd} (hc : c.cmd = .fix x) :
    exec .fix s = .next { s with dev := (s.dev.issue .main c false true).fixBegun s.fuse c x } := by
  show execFix s = _
  exact act_issue hr hn (by simp only [hc]; rfl)

theorem Carried.firstStep (h : Carried o d) : d.sky.firstStep = o.sky.firstStep := congrArg (·.sky.firstStep) h

theorem skyMode_reads (h : Reads o d Reg.skyCtrl) : d.skyMode = o.skyMode := by
  unfold Dev.skyMode Dev.fld
  rw [h.2]

theorem lag_reads (h : Reads o d Reg.skyCtrl) : d.lag = o.lag := by
  unfold Dev.lag Dev.fld
  rw [h.2]

theorem Keeps.fixRecorded (h : Keeps true o d) (n vote cause : Nat) :
    Keeps true o (Dev.record { d with sky := { d.sky with fix := none, votes := [] } } (d.fixRec n vote cause)) :=
  (h.other (d' := { d with sky := { d.sky with fix := none, votes := [] } })).record _

/-- A FIX that is over completes its command (R375). -/
theorem Completed.fixDone (h : o.Awaits d .main c) (n vote cause : Nat) : o.Completed (d.fixDone c n vote cause) .main := by
  have hrec := Keeps.fixRecorded (Keeps.refl (o := d)) n vote cause
  unfold Dev.fixDone
  exact Completed.keeps (Completed.of_awaits (Awaits.keeps h (Keeps.ite hrec.ringPin hrec)) _) settle_keeps

theorem ringPin_fix (d : Dev) : d.ringPin.sky.fix = d.sky.fix := by
  unfold Dev.ringPin
  split
  · exact congrArg (·.sky.fix) ((Carried.refl (o := { d.setFlag Reg.hlmRingCtrl 8 false with hlm :=
      { d.hlm with pinAsked := false } })).setReg Reg.hlmRingCur _ |>.setReg Reg.hlmRingCur _ |>.raise hlmPage 3)
  · rfl

/-- A FIX that is over leaves no vote. -/
theorem fixDone_fix (d : Dev) (c : Decoded) (n vote cause : Nat) : (d.fixDone c n vote cause).sky.fix = none := by
  have hrec : (Dev.record { d with sky := { d.sky with fix := none, votes := [] } } (d.fixRec n vote cause)).sky.fix = none :=
    congrArg (·.sky.fix) (Carried.refl.record (o := { d with sky := { d.sky with fix := none, votes := [] } }) _)
  unfold Dev.fixDone
  refine (congrArg (·.sky.fix) ((Carried.refl.complete .main c).settle .main)).trans ?_
  dsimp only
  split
  · exact (ringPin_fix _).trans hrec
  · exact hrec

/-- The last fixed step stands while only other pages' registers change. -/
theorem lastFixed_confined {ps : List Nat} (hd : Assoc.wf regReset o.regs = true) (h : Confined ps o d) (hp : 0x014 ∉ ps) :
    d.lastFixed = o.lastFixed := by
  have hpage : regPage (Reg.skyFixedLo + 4) = 0x014 := by decide
  have hlo := h.reg hd Reg.skyFixedLo (by decide) hp
  have hhi := h.reg hd (Reg.skyFixedLo + 4) (by decide) (hpage ▸ hp)
  unfold Dev.lastFixed Dev.pair
  rw [hlo, hhi]

/-- The pages whose registers a FIX that is over at once writes. -/
def fixPages : List Nat := [0x008, 0x00A, 0x00F]

theorem Confined.fixOver (d : Dev) (c : Decoded) (n vote cause : Nat) :
    Confined fixPages d ((d.issue .main c false true).fixDone c n vote cause) :=
  (Confined.refl.issue .main c false true (by decide)).fixDone c n vote cause (by decide) (by decide)

/-! Timeouts. -/

theorem exec_legTimeout (hr : s.carrier.phase = .running) {r : LegRun} (hl : s.dev.runningLeg = some (c, r)) (hp : r.phase = .barrier)
    (ht : s.dev.overdue r.switched (s.dev.chtTimeoutUs r.cmd.timeoutUs) = true) :
    exec .legTimeout s = .next { s with dev := (Dev.rejectRun
      { s.dev.setReg Reg.chtFaultLast 0x20000#32 with cht := { s.dev.cht with leg := none, barriers := [] } } .main c rTimeout) } := by
  show execLegTimeout s = _
  refine act_next hr ?_
  simp only [hl]
  exact if_pos ⟨hp, ht⟩

theorem exec_fixTimeout (hr : s.carrier.phase = .running) {r : FixRun} (hl : s.dev.runningFix = some (c, r))
    (ht : s.dev.overdue r.issued (s.dev.chtTimeoutUs r.cmd.timeoutUs) = true) :
    exec .fixTimeout s = .next { s with dev := (Dev.rejectRun
      { s.dev with sky := { s.dev.sky with fix := none, votes := [] } } .main c rTimeout) } := by
  show execFixTimeout s = _
  refine act_next hr ?_
  simp only [hl]
  exact if_pos ht

theorem overdue_chtTimeout {issued n : Nat}
    (h : issued + us (if n = 0 then max 1 (d.fld Reg.chtTimeout 19 0) else n) ≤ d.now) : d.overdue issued (d.chtTimeoutUs n) = true :=
  decide_eq_true h

end

end Sys2Proof.Machine

namespace Sys2Proof.Proofs
set_option Elab.async false
open Sys2Proof Sys2Proof.Machine

/-- Settles O19: the branches of a LEG's issue. -/
theorem legIssues : Obligations.LegIssues := by
  unfold Obligations.LegIssues
  intro s c l hr hd hn hc
  have hk : Keeps true s.dev s.dev.endStall := Keeps.refl.endStall
  refine ⟨fun hshort hhold hcht hlog hsxt => ?issues, fun hshort hhold hbad => ?rejected, fun hshort hstall => ?stalls,
    fun hshort hstall => ?stalled, fun hshort hbegins hmode hholds => ?held⟩
  case issues =>
    have hgood : s.dev.legRejected l = false := by
      rw [Bool.eq_false_iff, Ne, legRejected_iff]
      rintro (h | h | ⟨hleg, h⟩)
      · exact Bool.false_ne_true (h ▸ hcht)
      · exact Bool.false_ne_true (hlog ▸ h)
      · exact Bool.false_ne_true (h ▸ hsxt hleg)
    have hx := exec_leg_issued hr hd hn hc hshort hhold
    rw [hgood, if_neg Bool.false_ne_true] at hx
    exact ⟨_, hx, Awaits.keeps (Awaits.of_issue hk .main c) Keeps.refl.other, leaving_execLeg.calm hx hd, _, rfl, rfl, rfl, rfl⟩
  case rejected =>
    have hx := exec_leg_issued hr hd hn hc hshort hhold
    rw [if_pos ((legRejected_iff _ _).mpr hbad)] at hx
    exact ⟨_, hx, leaving_execLeg.calm hx hd, Rejected.rejectRun_issue (hk.regs hd.2) hk false true rField⟩
  case stalls =>
    have hx := exec_leg hr hn hc
    rw [if_pos hshort] at hx
    obtain ⟨hsince, hcount⟩ := stall_begins hd.2 hstall
    exact ⟨_, hx, Keeps.refl.stall.steady, leaving_execLeg.calm hx hd, hsince, hcount⟩
  case stalled =>
    rw [exec_leg hr hn hc, if_pos hshort, stall_goes_on hstall]
  case held =>
    have hholds' : (!s.dev.sky.holds.isEmpty) = true := by simpa using hholds
    have hx := exec_leg hr hn hc
    rw [if_neg (by rw [hshort]; exact Bool.false_ne_true), if_pos ⟨hbegins, hholds', hmode⟩] at hx
    refine ⟨_, hx, (hk.setFlag _ _ _).steady, leaving_execLeg.calm hx hd, ?_⟩
    exact (flag_setFlag (hk.regs hd.2) _ _ _ _ (by decide) _).trans (if_pos ⟨rfl, rfl⟩)

/-- Settles O20: the registers of the switch, and the LEG at its barrier. -/
theorem legSwitches : Obligations.LegSwitches := by
  unfold Obligations.LegSwitches
  intro s c r blocks hr hd hl hp
  have hx := exec_legSwitch hr hl hp blocks
  refine ⟨fun hdrained => ?switches, fun hwait => ?waits⟩
  case switches =>
    have hwf := Dev.found_wf s.dev [] blocks hd.2
    rw [if_pos (List.all_eq_true.mpr hdrained), legSwitched_of_mode hwf] at hx
    have honly := (Touches.switchCharts hwf r.cmd).only
    obtain ⟨hnew, hold⟩ := switchCharts_govern hwf r.cmd
    obtain ⟨hleg, hstep⟩ := switchCharts_shows hwf r.cmd
    have hnow : ((s.dev.found [] blocks).switchCharts r.cmd).now = s.dev.now := honly.2.1.2.2.trans (Dev.found_now _ _ _)
    refine ⟨_, _, _, _, rfl, rfl, rfl, rfl, hx, ?_, ?_, honly, hnew, hold, hleg, hstep, rfl, rfl, hnow, rfl, fun h4 => ?_⟩
    · exact ((Keeps.refl.found [] blocks).switchCharts r.cmd).toBarrier _ |>.steady
    · have hleaves : Leaves (fun a => !lostBy blocks a) s.dev ((s.dev.found [] blocks).atBarrier r) :=
        ((Leaves.refl.foundBut [] fun a h => by simpa using h).switchCharts r.cmd).toBarrier _
      exact ⟨hleaves.config hd.2, fun a ha hlost => hleaves.byte hd.1 a (by simp [hlost]) ha⟩
    · exact Bool.or_eq_true_iff.mpr (.inr (List.contains_iff_mem.mpr h4))
  case waits =>
    obtain ⟨k, hk, hnot⟩ := hwait
    have hall : (s.dev.incoming r.cmd).all s.dev.classDrained = false := List.all_eq_false.mpr ⟨k, hk, by simp [hnot]⟩
    rw [hx, hall, if_neg Bool.false_ne_true]

/-- Settles O21: the branches of a FIX's issue; what it is over with leaves the last fixed step. -/
theorem fixIssues : Obligations.FixIssues := by
  unfold Obligations.FixIssues
  intro s c x hr hd hn hc
  have hx := exec_fix hr hn hc
  have hread : ∀ a, a ≠ Reg.seqResumeMaxNs 1 → Reads s.dev (s.dev.issue .main c false true) a :=
    fun a ha => (Reads.refl hd.2 a).issue .main c false true ha
  have hactive := active_reads (hread (stateReg skyPage) (stateReg_ne_resume skyPage))
  have hmode := skyMode_reads (hread Reg.skyCtrl (by decide))
  have hlag := lag_reads (hread Reg.skyCtrl (by decide))
  have hfirst := (Carried.refl.issue .main c false true (o := s.dev)).firstStep
  have hawaits : s.dev.Awaits (s.dev.issue .main c false true) .main c := Awaits.of_issue Keeps.refl .main c
  unfold Dev.fixBegun at hx
  rw [hactive, hmode, hlag, hfirst] at hx
  refine ⟨fun ha hm hlt => ?first, fun ha hm => ?replay, fun ha hm hge => ?votes, fun ha => ?rejected⟩
  case first =>
    rw [ha, hm, if_neg (by decide), if_neg (by decide), if_pos hlt] at hx
    exact ⟨_, hx, Completed.fixDone hawaits _ _ _, leaving_execFix.calm hx hd,
      lastFixed_confined hd.2 (Confined.fixOver _ _ _ _ _) (by decide), fixDone_fix _ _ _ _ _⟩
  case replay =>
    rw [ha, if_neg (by decide), if_pos hm] at hx
    exact ⟨_, hx, Completed.keeps (Completed.fixDone hawaits _ _ _) (Keeps.refl.replayEnds _), leaving_execFix.calm hx hd,
      lastFixed_confined hd.2 ((Confined.fixOver _ _ _ _ _).replayEnds _ (by decide)) (by decide)⟩
  case votes =>
    rw [ha, hm, if_neg (by decide), if_neg (by decide), if_neg (Nat.not_lt.mpr hge)] at hx
    have hissue : s.dev.Calm (s.dev.issue .main c false true) := (Leaves.refl.issue .main c false true).calm hd
    refine ⟨(s.dev.issue .main c false true).startVote x, Awaits.keeps hawaits Keeps.refl.other, hissue, ?_, hx⟩
    exact congrArg (fun n => some (FixRun.mk x n false 0)) hawaits.2.2
  case rejected =>
    rw [ha, if_pos (by decide)] at hx
    exact ⟨_, hx, leaving_execFix.calm hx hd, Rejected.rejectRun_issue hd.2 Keeps.refl false true rField⟩

/-- Settles O22: both are rejected, with their barrier and their vote gone. -/
theorem legAndFixTimeOut : Obligations.LegAndFixTimeOut := by
  unfold Obligations.LegAndFixTimeOut
  intro s c hr hd
  refine ⟨fun r hl hp ht => ?leg, fun r hl ht => ?fix⟩
  case leg =>
    have hx := exec_legTimeout hr hl hp (overdue_chtTimeout ht)
    have hk : Keeps true s.dev { s.dev.setReg Reg.chtFaultLast 0x20000#32 with cht :=
        { s.dev.cht with leg := none, barriers := [] } } := (Keeps.refl.setReg _ _).other
    have hcarried := Carried.refl.rejectRun .main c rTimeout
      (o := { s.dev.setReg Reg.chtFaultLast 0x20000#32 with cht := { s.dev.cht with leg := none, barriers := [] } })
    exact ⟨_, hx, leaving_execLegTimeout.calm hx hd, Rejected.rejectRun (hk.regs hd.2) hk rTimeout,
      congrArg (·.cht.leg) hcarried, congrArg (·.cht.barriers) hcarried⟩
  case fix =>
    have hx := exec_fixTimeout hr hl (overdue_chtTimeout ht)
    have hk : Keeps true s.dev { s.dev with sky := { s.dev.sky with fix := none, votes := [] } } := Keeps.refl.other
    have hcarried := Carried.refl.rejectRun .main c rTimeout (o := { s.dev with sky := { s.dev.sky with fix := none, votes := [] } })
    exact ⟨_, hx, leaving_execFixTimeout.calm hx hd, Rejected.rejectRun (hk.regs hd.2) hk rTimeout,
      congrArg (·.sky.fix) hcarried, congrArg (·.sky.votes) hcarried⟩

end Sys2Proof.Proofs

/-! Messages of the collectives and of the second key (R333, R373, R380 to R385). -/
namespace Sys2Proof.Machine
set_option Elab.async false

section
variable {s : State} {o d : Dev} {m : Packet}

/-! A tree's messages. -/

/-- A tree's messages with one put in the place of what its sender sent before in its direction. -/
def putMsg (ms : List TreeMsg) (b : List Byte) : List TreeMsg :=
  (ms.filter fun x => !(x.sender == u16 b 4 && u8 x.body 1 == u8 b 1)) ++ [⟨u16 b 4, b⟩]

theorem treeMsg_putMsg (ms : List TreeMsg) (b : List Byte) : treeMsg (putMsg ms b) (u16 b 4) (u8 b 1) = some ⟨u16 b 4, b⟩ := by
  have hnone : (ms.filter fun x => !(x.sender == u16 b 4 && u8 x.body 1 == u8 b 1)).find?
      (fun x => x.sender == u16 b 4 && u8 x.body 1 == u8 b 1) = none := by
    rw [List.find?_eq_none]
    intro x hx
    simpa [not_and_or, imp_iff_not_or] using (List.mem_filter.mp hx).2
  unfold treeMsg putMsg
  rw [List.find?_append, hnone]
  simp

theorem treeMsg_putMsg_other (ms : List TreeMsg) (b : List Byte) {p dir : Nat} (h : p ≠ u16 b 4 ∨ dir ≠ u8 b 1) :
    treeMsg (putMsg ms b) p dir = treeMsg ms p dir := by
  have hnot : ∀ x : TreeMsg, (x.sender == p && u8 x.body 1 == dir) = true → (!(x.sender == u16 b 4 && u8 x.body 1 == u8 b 1)) = true := by
    intro x hx
    simp only [Bool.and_eq_true, beq_iff_eq] at hx
    obtain ⟨rfl, rfl⟩ := hx
    simpa [not_and_or] using h
  have hkept : (ms.filter fun x => !(x.sender == u16 b 4 && u8 x.body 1 == u8 b 1)).find?
      (fun x => x.sender == p && u8 x.body 1 == dir) = ms.find? fun x => x.sender == p && u8 x.body 1 == dir := by
    rw [List.find?_filter]
    congr 1
    funext x
    cases hx : (x.sender == p && u8 x.body 1 == dir) with
    | false => simp
    | true => simp [hnot x hx]
  have hnew : ((⟨u16 b 4, b⟩ : TreeMsg).sender == p && u8 (⟨u16 b 4, b⟩ : TreeMsg).body 1 == dir) = false := by
    rw [Bool.and_eq_false_iff, beq_eq_false_iff_ne, beq_eq_false_iff_ne]
    exact h.imp Ne.symm Ne.symm
  unfold treeMsg putMsg
  rw [List.find?_append, hkept, List.find?_singleton, hnew]
  simp

/-- The device with a barrier's message put in. -/
def Dev.putBarrier (d : Dev) (b : List Byte) : Dev := { d with cht := { d.cht with barriers := putMsg d.cht.barriers b } }

def Dev.putVote (d : Dev) (b : List Byte) : Dev := { d with sky := { d.sky with votes := putMsg d.sky.votes b } }

def Dev.putFlush (d : Dev) (b : List Byte) : Dev := { d with sky := { d.sky with flushMsgs := putMsg d.sky.flushMsgs b } }

theorem exec_barrier (hr : s.carrier.phase = .running) (hm : s.dev.has m = true) (hcls : m.cls = 0) (ht : u8 m.body 0 = 30)
    (blocks : List BlockFinding) : exec (.barrier m blocks) s = .next { s with dev :=
      (if ((s.dev.found [] blocks).takePacket m).barrierOlder m.body then ((s.dev.found [] blocks).takePacket m).stray
      else (((s.dev.found [] blocks).takePacket m).putBarrier m.body).runBarrier) } := by
  show execBarrier m s blocks = _
  exact act_next hr (if_pos (by simp [hm, hcls, ht]))

theorem exec_fixVote (hr : s.carrier.phase = .running) (hm : s.dev.has m = true) (hcls : m.cls = 0) (ht : u8 m.body 0 = 32) :
    exec (.fixVote m) s = .next { s with dev :=
      (if olderStep (s.dev.takePacket m).step (u16 m.body 6) then (s.dev.takePacket m).stray
      else ((s.dev.takePacket m).putVote m.body).runVote s.fuse) } := by
  show execFixVote m s = _
  exact act_next hr (if_pos (by simp [hm, hcls, ht]))

theorem exec_flushCount (hr : s.carrier.phase = .running) (hm : s.dev.has m = true) (hcls : m.cls = 0) (ht : u8 m.body 0 = 33) :
    exec (.flushCount m) s = .next { s with dev := Dev.runFlush 2 ((s.dev.takePacket m).putFlush m.body) } := by
  show execFlushCount m s = _
  exact act_next hr (if_pos (by simp [hm, hcls, ht]))

/-! The second key. -/

/-- A second-key message of its type (R382). -/
theorem skMessage_taken (hr : s.carrier.phase = .running) (hm : s.dev.has m = true) (hcls : m.cls = 0) {type : Nat}
    (ht : u8 m.body 0 = type) (f : SkMsg → Dev → Dev) : s.skMessage m type f = .next { s with dev :=
      (if skFieldsOk m.body then f (skOf m.body) (s.dev.takePacket m) else (s.dev.takePacket m).pageFault skyPage) } := by
  unfold State.skMessage
  exact act_next hr (if_pos (by simp [hm, hcls, ht]))

theorem exec_skRequest (s : State) (m : Packet) : exec (.skRequest m) s = s.skMessage m 34 fun x d => d.takeRequest x := rfl

theorem exec_skAccept (s : State) (m : Packet) : exec (.skAccept m) s =
    s.skMessage m 35 fun x d => d.aboutRequest x fun r => if x.code = 1 then d.decideRollback r 3 else d := rfl

theorem exec_skVerdict (s : State) (m : Packet) : exec (.skVerdict m) s = s.skMessage m 36 fun x d => d.aboutRequest x fun r =>
    if x.code = 0 then (d.addSat Reg.skySkEqual 1).decideFix x.step
    else ((d.addSat Reg.skySkThird 1).putRequest { r with witness := some x.digests, third := true }).sendDecision x.step 1 := rfl

theorem exec_skDecision (s : State) (m : Packet) : exec (.skDecision m) s = s.skMessage m 37 fun x d => d.takeDecision s.fuse x := rfl

theorem exec_skCancel (s : State) (m : Packet) : exec (.skCancel m) s = s.skMessage m 38 fun x d =>
    { d with sky := { d.sky with jobs := d.sky.jobs.filter fun j => !(j.suspect == x.suspect && j.step == x.step) } } := rfl

theorem exec_skTimeout (hr : s.carrier.phase = .running) {r : SkRequest}
    (h : s.dev.sky.requests.find? (fun r => !r.third ∧ r.cause = 0 ∧
        r.since + ms (max 1 (s.dev.fld Reg.skyTimeout 19 0)) ≤ s.dev.now) = some r) :
    exec .skTimeout s = .next { s with dev := s.dev.decideRollback r 3 } := by
  show execSkTimeout s = _
  refine act_next hr ?_
  dsimp only
  rw [h]

theorem aboutRequest_held {x : SkMsg} {r : SkRequest} (h : d.request x.step = some r) (hs : x.suspect = d.number) (hc : r.cause = 0)
    (f : SkRequest → Dev) : d.aboutRequest x f = f r := by
  unfold Dev.aboutRequest
  rw [h]
  exact if_pos ⟨hs, hc⟩

theorem Carried.requests (h : Carried o d) : d.sky.requests = o.sky.requests := congrArg (·.sky.requests) h

theorem Carried.request (h : Carried o d) (n : Nat) : d.request n = o.request n := by
  unfold Dev.request
  rw [h.requests]

theorem Carried.jobs (h : Carried o d) : d.sky.jobs = o.sky.jobs := congrArg (·.sky.jobs) h

theorem Carried.holds (h : Carried o d) : d.sky.holds = o.sky.holds := congrArg (·.sky.holds) h

theorem Carried.suspect (h : Carried o d) : d.sky.suspect = o.sky.suspect := congrArg (·.sky.suspect) h

theorem Carried.sendDecision (h : Carried o d) (step code : Nat) : Carried o (d.sendDecision step code) := by
  unfold Dev.sendDecision
  split
  · exact h.sendControl _ _
  · exact h

/-- A request put in the place of the one of its step. -/
theorem request_putRequest {r q : SkRequest} (h : d.request r.step = some q) : (d.putRequest r).request r.step = some r := by
  unfold Dev.request at h ⊢
  unfold Dev.putRequest
  rw [List.find?_map]
  have hsame : (((fun x : SkRequest => decide (x.step = r.step)) ∘ fun x : SkRequest => if x.step = r.step then r else x)) =
      fun x => decide (x.step = r.step) := by
    funext x
    by_cases hx : x.step = r.step <;> simp [hx]
  rw [hsame, h]
  have hq : q.step = r.step := by simpa using List.find?_some h
  simp [hq]

theorem request_step {n : Nat} {r : SkRequest} (h : d.request n = some r) : r.step = n := by
  simpa using List.find?_some h

theorem request_of_mem {r : SkRequest} (h : r ∈ d.sky.requests) : ∃ q, d.request r.step = some q := by
  refine Option.isSome_iff_exists.mp ?_
  unfold Dev.request
  rw [List.find?_isSome]
  exact ⟨r, h, by simp⟩

/-- A decision of ROLLBACK keeps the request with its cause (R383). -/
theorem request_decideRollback {r q : SkRequest} (cause : Nat) (h : d.request r.step = some q) :
    (d.decideRollback r cause).request r.step = some { r with cause := cause } :=
  ((Carried.refl.sendDecision _ _).request _).trans (request_putRequest (r := { r with cause := cause }) h)

/-- A decision of FIX drops the request and withdraws the suspicion (R381). -/
theorem decideFix_drops (d : Dev) (n : Nat) : (d.decideFix n).request n = none ∧ n ∉ (d.decideFix n).sky.suspect := by
  refine ⟨((Carried.refl.sendDecision _ _).request n).trans ?_, ?_⟩
  · unfold Dev.request Dev.dropRequest
    rw [List.find?_eq_none]
    intro x hx
    simpa using (List.mem_filter.mp hx).2
  · unfold Dev.decideFix
    dsimp only
    rw [(Carried.refl.sendDecision n 0).suspect]
    simp

/-- A witness takes a request while it holds fewer than four (R380). -/
theorem takeRequest_jobs (d : Dev) (x : SkMsg) : (d.takeRequest x).sky.jobs =
    if 4 ≤ d.sky.jobs.length then d.sky.jobs else d.sky.jobs ++ [⟨x.suspect, x.step, x.digests⟩] := by
  have hraise : (d.raise skyPage 6).sky.jobs = d.sky.jobs := (Carried.refl.raise skyPage 6).jobs
  unfold Dev.takeRequest Dev.skSend
  dsimp only
  rw [hraise]
  split
  · exact ((Carried.refl.sendControl _ _).jobs).trans hraise
  · exact (Carried.refl.sendControl _ _).jobs

theorem takeRequest_pends (hd : Assoc.wf regReset d.regs = true) (x : SkMsg) : (d.takeRequest x).pend skyPage 6 = true := by
  have hp : Pends (d.raise skyPage 6) skyPage 6 := Pends.raised hd skyPage (by decide)
  have hsend : ∀ {y : Dev} {dest n k : Nat} {z : SkMsg}, Pends y skyPage 6 →
      Pends (y.skSend dest n k 0 z.suspect z.step Digests.none) skyPage 6 := fun h =>
    (Confined.refl.skSend (ps := [0x00F]) _ _ _ _ _ _ _ (by decide)).pend _ _ h
  unfold Dev.takeRequest
  dsimp only
  split
  · exact (hsend hp).pend
  · exact (hsend hp.other).pend

/-- A decision that is awaited, passed down the tree (R383). -/
def Dev.passDecision (d : Dev) (x : SkMsg) : Dev :=
  d.sendControls (match (d.governLive 0).bind fun i => d.cht.live.getD i none with
    | some c => c.childrenOf d.number
    | none => []) (SkMsg.bytes { x with dir := 1, sender := d.number })

theorem takeDecision_awaited (f : Fuse) {x : SkMsg} (h : (d.sky.awaiting.any fun y => y.1 == x.step) = true) :
    d.takeDecision f x = (d.passDecision x).applyDecision f x := by
  unfold Dev.takeDecision
  rw [h]
  rfl

theorem takeDecision_stray (f : Fuse) {x : SkMsg} (h : (d.sky.awaiting.any fun y => y.1 == x.step) = false) :
    d.takeDecision f x = d.stray := by
  unfold Dev.takeDecision
  rw [h]
  rfl

theorem Carried.passDecision (h : Carried o d) (x : SkMsg) : Carried o (d.passDecision x) := h.sendControls _ _

theorem applyDecision_pends (hd : Assoc.wf regReset d.regs = true) (f : Fuse) (x : SkMsg) :
    ((d.passDecision x).applyDecision f x).pend skyPage 4 = true := by
  have hwf : Assoc.wf regReset (d.passDecision x).regs = true := (Confined.refl.sendControls (ps := [0x00F]) _ _ (by decide)).wf hd
  have hp : Pends ((d.passDecision x).raise skyPage 4) skyPage 4 := Pends.raised hwf skyPage (by decide)
  rw [applyDecision_decided]
  exact ((Confined.refl (ps := [0x014, 0x00A, 0x012, 0x00F])).decided f x (by decide) (by decide) (by decide) (by decide) |>.pend _ _ hp).pend

theorem applyDecision_third (f : Fuse) {x : SkMsg} (h : x.code = 1) :
    (d.applyDecision f x).sky.holds = (x.suspect, x.step) :: d.sky.holds := by
  unfold Dev.applyDecision
  rw [h]
  exact congrArg (List.cons (x.suspect, x.step)) (Carried.refl.raise skyPage 4).holds

theorem applyDecision_rollback (f : Fuse) {x : SkMsg} (h : x.code = 2) : (d.applyDecision f x).sky.rollback = true ∧
    (d.applyDecision f x).sky.requests = [] ∧ (d.applyDecision f x).sky.holds = [] := by
  unfold Dev.applyDecision
  rw [h]
  exact ⟨rfl, rfl, rfl⟩

end

end Sys2Proof.Machine

namespace Sys2Proof.Proofs
set_option Elab.async false
open Sys2Proof Sys2Proof.Machine

/-- Settles O23: each message is taken, and stray or put in the place of what its sender sent before. -/
theorem collectiveMessages : Obligations.CollectiveMessages := by
  unfold Obligations.CollectiveMessages
  intro s m hr hd hm hcls
  refine ⟨fun blocks d ht hdef => ?barrier, fun d hdef => ⟨fun ht hold => ?strayVote, fun ht hold => ?vote, fun ht => ?flush⟩⟩
  case barrier =>
    have hx := exec_barrier hr hm hcls ht blocks
    rw [← hdef] at hx
    refine ⟨fun hold => by rw [hx, if_pos hold], fun hold => ?_⟩
    rw [hold, if_neg Bool.false_ne_true] at hx
    have hk : Keeps true s.dev (d.putBarrier m.body) :=
      ((hdef ▸ (Keeps.refl.found [] blocks).takePacket m : Keeps true s.dev d)).other
    have hleaves : Leaves (fun a => !lostBy blocks a) s.dev (d.putBarrier m.body) := by
      rw [hdef]
      exact (((Leaves.refl.foundBut [] fun a h => by simpa using h).takePacket m)).other
    exact ⟨_, hx, hk.steady, ⟨hleaves.config hd.2, fun a ha hlost => hleaves.byte hd.1 a (by simp [hlost]) ha⟩, rfl,
      treeMsg_putMsg _ _, fun p dir h => treeMsg_putMsg_other _ _ h⟩
  case strayVote =>
    rw [exec_fixVote hr hm hcls ht, ← hdef, if_pos hold]
  case vote =>
    have hx := exec_fixVote hr hm hcls ht
    rw [← hdef, hold, if_neg Bool.false_ne_true] at hx
    exact ⟨_, hx, rfl, treeMsg_putMsg _ _, fun p dir h => treeMsg_putMsg_other _ _ h⟩
  case flush =>
    have hx := exec_flushCount hr hm hcls ht
    rw [← hdef] at hx
    exact ⟨_, hx, rfl, treeMsg_putMsg _ _, fun p dir h => treeMsg_putMsg_other _ _ h⟩

/-- Settles O24: each message's effect on what it is about; a message whose reserved fields are set faults the page. -/
theorem secondKeyMessages : Obligations.SecondKeyMessages := by
  unfold Obligations.SecondKeyMessages
  intro s m d x hr hd hm hcls hdef hxdef
  have hwf : Assoc.wf regReset d.regs = true := hdef ▸ (Keeps.refl (level := true)).takePacket m |>.regs hd.2
  have hmsg : ∀ (type : Nat) (f : SkMsg → Dev → Dev), u8 m.body 0 = type → s.skMessage m type f =
      .next { s with dev := (if skFieldsOk m.body then f x d else d.pageFault skyPage) } := by
    intro type f ht
    rw [skMessage_taken hr hm hcls ht, hdef, hxdef]
  refine ⟨fun hok => ?fieldsOk, fun hbad i hi => ?fieldsBad, fun r hfind => ?timeout⟩
  case fieldsOk =>
    have hgood : ∀ (type : Nat) (f : SkMsg → Dev → Dev), u8 m.body 0 = type → s.skMessage m type f = .next { s with dev := f x d } := by
      intro type f ht
      rw [hmsg type f ht, if_pos hok]
    refine ⟨fun ht => ?request, fun ht r hreq hs hc => ?accept, fun ht r hreq hs hc => ?verdict, fun ht haw => ?decision,
      fun ht haw => ?strayDecision, fun ht => (exec_skCancel s m).trans (hgood 38 _ ht)⟩
    case request =>
      have hx := (exec_skRequest s m).trans (hgood 34 _ ht)
      exact ⟨_, hx, (leaving_execSkRequest m).calm hx hd, takeRequest_pends hwf x, takeRequest_jobs d x⟩
    case accept =>
      have hx := (exec_skAccept s m).trans (hgood 35 _ ht)
      rw [aboutRequest_held hreq hs hc] at hx
      refine ⟨_, hx, (leaving_execSkAccept m).calm hx hd, fun h1 => ?_, fun h0 => by rw [if_neg (by rw [h0]; decide)]⟩
      have hstep := request_step hreq
      rw [← hstep] at hreq ⊢
      rw [if_pos h1]
      exact request_decideRollback 3 hreq
    case verdict =>
      have hx := (exec_skVerdict s m).trans (hgood 36 _ ht)
      rw [aboutRequest_held hreq hs hc] at hx
      refine ⟨_, hx, (leaving_execSkVerdict m).calm hx hd, fun h0 => ?_, fun h1 => ?_⟩
      · rw [if_pos h0]
        exact decideFix_drops _ _
      · have hstep := request_step hreq
        rw [← hstep] at hreq ⊢
        rw [if_neg (by rw [h1]; decide)]
        refine ((Carried.refl.sendDecision _ _).request _).trans
          (request_putRequest (r := { r with witness := some x.digests, third := true }) (q := r) ?_)
        exact ((Carried.refl.setReg Reg.skySkThird _).request _).trans hreq
    case decision =>
      have hx := (exec_skDecision s m).trans (hgood 37 _ ht)
      rw [takeDecision_awaited _ haw] at hx
      refine ⟨_, hx, (leaving_execSkDecision m).calm hx hd, applyDecision_pends hwf _ _, fun h1 => ?_,
        applyDecision_rollback s.fuse⟩
      rw [applyDecision_third _ h1, (Carried.refl.passDecision x).holds]
    case strayDecision =>
      exact ((exec_skDecision s m).trans (hgood 37 _ ht)).trans (by rw [takeDecision_stray _ haw])
  case fieldsBad =>
    have hfault : ∃ type f, exec i s = s.skMessage m type f ∧ u8 m.body 0 = type ∧ Leaving (fun _ => true) s (exec i s) := by
      simp only [List.mem_cons, Prod.mk.injEq, List.not_mem_nil, or_false] at hi
      rcases hi with ⟨ht, rfl⟩ | ⟨ht, rfl⟩ | ⟨ht, rfl⟩ | ⟨ht, rfl⟩ | ⟨ht, rfl⟩
      · exact ⟨_, _, exec_skRequest s m, ht, leaving_execSkRequest m⟩
      · exact ⟨_, _, exec_skAccept s m, ht, leaving_execSkAccept m⟩
      · exact ⟨_, _, exec_skVerdict s m, ht, leaving_execSkVerdict m⟩
      · exact ⟨_, _, exec_skDecision s m, ht, leaving_execSkDecision m⟩
      · exact ⟨_, _, exec_skCancel s m, ht, leaving_execSkCancel m⟩
    obtain ⟨type, f, hexec, ht, hleaving⟩ := hfault
    have hx := hexec.trans (hmsg type f ht)
    rw [hbad, if_neg Bool.false_ne_true] at hx
    exact ⟨_, hx, hleaving.calm hx hd, (InState.moved hwf skyPage (by decide)).code⟩
  case timeout =>
    have hx := exec_skTimeout hr hfind
    exact ⟨_, hx, leaving_execSkTimeout.calm hx hd, (request_of_mem (List.mem_of_find?_eq_some hfind)).elim fun _ => request_decideRollback 3⟩

end Sys2Proof.Proofs

/-! Products, vector commands, copies and table loads (R56, R89, R98, R102 to R106, R143): each issues, and its work is its effect on the
device in which it has issued. -/
namespace Sys2Proof.Machine
set_option Elab.async false

section
variable {s : State} {o d e : Dev} {st : Stream} {c : Decoded} {ev : OpEvents}

/-- Neither a byte that an operation stores nor one that its own checks replace. -/
def spared (stores : Nat → Bool) (ev : OpEvents) (a : Nat) : Bool := !(stores a || replacedBy ev a)

theorem spared_stores {S : Nat → Bool} {a : Nat} (h : spared S ev a = true) : S a = false := by
  unfold spared at h
  simp only [Bool.not_eq_true', Bool.or_eq_false_iff] at h
  exact h.1

theorem exec_product (hr : s.carrier.phase = .running) (hn : s.dev.next? st = some c) {m : MatmulCmd} (hc : c.cmd = .matmul m) :
    exec (if m.heritage then .matmulH st ev else .matmul st ev) s = .next { s with dev :=
      (s.dev.operate s.fuse st c m.written ev fun src e =>
        if m.heritage then e.heritageEffect s.fuse st c m src ev else e.matmulEffect s.fuse st c m src ev) } := by
  cases hm : m.heritage with
  | false =>
    show execMatmul st ev s = _
    exact act_issue hr hn (by simp [hc, hm])
  | true =>
    show execMatmulH st ev s = _
    exact act_issue hr hn (by simp [hc, hm])

theorem exec_vprog (hr : s.carrier.phase = .running) (hn : s.dev.next? st = some c) {p : VprogCmd} (hc : c.cmd = .vprog p) :
    exec (.vprog st ev) s = .next { s with dev := s.dev.operate s.fuse st c p.written ev (fun src d =>
      (d.vprogEffect st c p (s.dev.stream st).kept src).dupRows s.fuse st d p.firstCluster p.clusterCount ev) } := by
  show execVprog st ev s = _
  exact act_issue hr hn (by simp only [hc])

theorem exec_copied (hr : s.carrier.phase = .running) (hn : s.dev.next? st = some c) {p : CopyCmd} (hc : c.cmd = .copy p) :
    exec (if p.transpose then .transpose st ev else .copy st ev) s = .next { s with dev :=
      (s.dev.operate s.fuse st c p.dst.runs ev fun src d =>
        d.copyEffect (d.origin st c 0xFFFF) (d.mode p.round c.tensorId) p src) } := by
  cases hp : p.transpose with
  | false =>
    show s.copy st ev false = _
    exact act_issue hr hn (by simp [hc, hp])
  | true =>
    show s.copy st ev true = _
    exact act_issue hr hn (by simp [hc, hp])

theorem exec_tload (hr : s.carrier.phase = .running) (hn : s.dev.next? st = some c) {t : TloadCmd} (hc : c.cmd = .tload t) :
    exec (.tload st ev) s = .next { s with dev := s.dev.operate s.fuse st c [] ev (fun src d => d.tloadEffect st t src) } := by
  show execTload st ev s = _
  exact act_issue hr hn (by simp only [hc])

/-! The statistics kernels. -/

/-- A kernel command that issues, from what its effect keeps and where it stores. -/
theorem kernel_issues {i : Instr} {effect : Decoded → KernelCmd → Option Kept → ByteSource → Dev → Dev} {k : KernelCmd}
    (hr : s.carrier.phase = .running) (hd : s.dev.Tidy) (hn : s.dev.next? st = some c) (hc : c.cmd = .kernel k)
    (hi : exec i s = s.kernel st ev k.kernel effect)
    (hk : ∀ kept src x y, Keeps true x y → Keeps true x (effect c k kept src y))
    (hl : ∀ {B : Nat → Bool} src x, (∀ a, B a = true → k.stores s.dev (s.dev.stream st).kept a = false) → Leaves B s.dev x →
      Leaves B s.dev (effect c k (s.dev.stream st).kept src x)) :
    ∃ d, exec i s = .next { s with dev := d } ∧ s.dev.Issued d st c ∧ s.dev.SameConfig d ∧
      ∀ a, regionOf a ≠ .logbook → k.stores s.dev (s.dev.stream st).kept a = false → replacedBy ev a = false →
        d.mem.byte a = s.dev.mem.byte a := by
  have hx : exec i s = .next { s with dev := s.dev.operate s.fuse st c k.written ev (fun src d =>
      (effect c k (s.dev.stream st).kept src (d.dupVector st)).dupRows s.fuse st d k.firstCluster k.clusterCount ev) } := by
    rw [hi]
    exact act_issue hr hn (by simp only [hc, if_true])
  refine ⟨_, hx, operation_frame (S := k.stores s.dev (s.dev.stream st).kept) hd hx (fun src x y h => ?_) fun src x h => ?_⟩
  · exact (hk _ _ _ _ (h.dupVector st)).dupRows _ _ _ _ _ _
  · exact (hl src _ (fun a => spared_stores) (h.dupVector st)).dupRows _ _ _ _ _ _

/-! What each of the statistics kernels does (R102 to R106). -/

def softmaxEffect (st : Stream) (c : Decoded) (k : KernelCmd) (kept : Option Kept) (src : ByteSource) (d : Dev) : Dev :=
  d.kernelOut (d.kernelWrite st c k) k ((k.inRows kept src).map fun r => softmaxRow (d.curves4 k) k.scalar r.2)

def reductionEffect (st : Stream) (c : Decoded) (k : KernelCmd) (kept : Option Kept) (src : ByteSource) (d : Dev) : Dev :=
  if k.subop = 4 then d.countRows k.out0 ((k.inRows kept src).map fun r => (r.1, (badPositions r.2).length))
  else d.kernelOut (d.kernelWrite st c k) k ((k.inRows kept src).map fun r => .plain [reduceRow k.subop r.2] [])

/-- The rows of an attention statistic before its last pass. -/
def KernelCmd.attnRows (k : KernelCmd) (d : Dev) (kept : Option Kept) (src : ByteSource) : List RowOut :=
  (k.inRows kept src).map fun r => attnRow (d.curves4 k) k.kb (k.in1.row kept src r.1) r.2

def attentionEffect (st : Stream) (c : Decoded) (k : KernelCmd) (kept : Option Kept) (src : ByteSource) (d : Dev) : Dev :=
  if k.subop = 1 then d.kernelOut (d.kernelWrite st c k) k
    ((k.inRows kept src).map fun r => attnFinalRow (d.curves4 k) (k.in1.row kept src r.1) r.2)
  else (d.kernelOut (d.kernelWrite st c k) k (k.attnRows d kept src)).attnState st k.in1 ((k.attnRows d kept src).map (·.state))

/-- The rows of a loss. -/
def KernelCmd.lossRows (k : KernelCmd) (d : Dev) (kept : Option Kept) (src : ByteSource) : List (RowOut × Bool) :=
  (k.inRows kept src).map fun r => lossRow (d.curves4 k) k.scalar (match k.in1 with
    | .tensor t => t.code src 0 r.1
    | _ => 0) r.2

def lossKernelEffect (st : Stream) (c : Decoded) (k : KernelCmd) (kept : Option Kept) (src : ByteSource) (d : Dev) : Dev :=
  let outs := (k.lossRows d kept src).map (·.1)
  let r0 := d.vout (d.kernelWrite st c k) k.out0 (outs.map (·.out0))
  (r0.1.vtbCount r0.2 (outs.filter (·.masked)).length (outs.filter (·.bad)).length).lossOut (d.kernelWrite st c k) k.out1
    (rowSum ((outs.map (·.out1)).flatten)) ((k.lossRows d kept src).filter (·.2)).length

theorem exec_softmax (s : State) : exec (.softmax st ev) s = s.kernel st ev 0 (softmaxEffect st) := rfl

theorem exec_normRms (s : State) : exec (.normRms st ev) s =
    s.kernel st ev 1 fun c k kept src d => d.normEffect st false c k kept src := rfl

theorem exec_normLayer (s : State) : exec (.normLayer st ev) s =
    s.kernel st ev 2 fun c k kept src d => d.normEffect st true c k kept src := rfl

theorem exec_vkernelReduce (s : State) : exec (.vkernelReduce st ev) s = s.kernel st ev 3 (reductionEffect st) := rfl

theorem exec_attnStat (s : State) : exec (.attnStat st ev) s = s.kernel st ev 4 (attentionEffect st) := rfl

theorem exec_loss (s : State) : exec (.loss st ev) s = s.kernel st ev 5 (lossKernelEffect st) := rfl

section
variable {k : KernelCmd} {kept : Option Kept} {src : ByteSource}

theorem Keeps.softmax (h : Keeps true o d) : Keeps true o (softmaxEffect st c k kept src d) := h.kernelOut _ _ _

theorem Keeps.reduction (h : Keeps true o d) : Keeps true o (reductionEffect st c k kept src d) :=
  Keeps.ite (h.countRows _ _) (h.kernelOut _ _ _)

theorem Keeps.attention (h : Keeps true o d) : Keeps true o (attentionEffect st c k kept src d) :=
  Keeps.ite (h.kernelOut _ _ _) ((h.kernelOut _ _ _).attnState _ _ _)

theorem Keeps.lossKernel (h : Keeps true o d) : Keeps true o (lossKernelEffect st c k kept src d) :=
  ((h.vout _ _ _).vtbCount _ _ _).lossOut _ _ _ _

variable {B : Nat → Bool} (h : Leaves B o d) (hw : Assoc.wf regReset o.regs = true)
  (hb : ∀ a, B a = true → k.stores o kept a = false)
include h hw hb

theorem Leaves.softmax (hk : k.kernel = 0) : Leaves B o (softmaxEffect st c k kept src d) := by
  refine h.kernelRows hw st c k kept src d (fun r hr => ?_) hb
  obtain ⟨h0, h1⟩ := softmaxRow_length (d.curves4 k) k.scalar r.2
  simp only [KernelCmd.widths, hk]
  exact ⟨Nat.le_trans h0 hr, h1⟩

theorem Leaves.reduction (hk : k.kernel = 3) : Leaves B o (reductionEffect st c k kept src d) := by
  unfold reductionEffect
  split
  · rename_i hs
    exact h.counts hk hs kept src (fun xs => (badPositions xs).length) hb
  · refine h.kernelRows hw st c k kept src d (fun r _ => ?_) hb
    simp only [KernelCmd.widths, hk]
    exact ⟨Nat.le_refl 1, Nat.le_refl 0⟩

theorem Leaves.attention (hk : k.kernel = 4) : Leaves B o (attentionEffect st c k kept src d) := by
  unfold attentionEffect
  split
  · rename_i hs
    refine h.kernelRows hw st c k kept src d (fun r hr => ?_) hb
    obtain ⟨h0, h1⟩ := attnFinalRow_length (d.curves4 k) (k.in1.row kept src r.1) r.2
    simp only [KernelCmd.widths, hk, hs, if_true]
    exact ⟨Nat.le_trans h0 hr, h1⟩
  · rename_i hs
    refine Leaves.statistics (h.kernelRows hw st c k kept src d (fun r hr => ?_) hb) hk hs st kept (fun r hr => ?_) ?_ hb
    · obtain ⟨h0, h1, -⟩ := attnRow_length (d.curves4 k) k.kb (k.in1.row kept src r.1) r.2
      simp only [KernelCmd.widths, hk, hs, if_false]
      refine ⟨Nat.le_trans h0 hr, Nat.le_trans h1 ?_⟩
      unfold ceilDiv
      exact Nat.div_le_div_right (by omega)
    · unfold KernelCmd.attnRows at hr
      simp only [List.map_map, List.mem_map, Function.comp] at hr
      obtain ⟨x, -, rfl⟩ := hr
      exact Nat.le_of_eq (attnRow_length _ _ _ _).2.2
    · unfold KernelCmd.attnRows
      rw [List.length_map, List.length_map]
      exact inRows_rows.2

theorem Leaves.lossKernel (hk : k.kernel = 5) : Leaves B o (lossKernelEffect st c k kept src d) := by
  have hrows : ∀ r ∈ ((k.lossRows d kept src).map (·.1)).map (·.out0), r.length ≤ (k.in0.shapeOf kept).l0 := by
    intro r hr
    unfold KernelCmd.lossRows at hr
    simp only [List.map_map, List.mem_map, Function.comp] at hr
    obtain ⟨x, hx, rfl⟩ := hr
    exact Nat.le_trans (lossRow_length _ _ _ _) (inRows_rows.1 x hx).1
  have hcount : (((k.lossRows d kept src).map (·.1)).map (·.out0)).length ≤ (k.in0.shapeOf kept).rows := by
    unfold KernelCmd.lossRows
    rw [List.length_map, List.length_map, List.length_map]
    exact Nat.le_of_eq inRows_rows.2
  refine Leaves.losses ((h.vouts hw _ _ hrows hcount fun a ha => ?_).vtbCount _ _ _) hk _ kept _ _ hb
  have hstores := hb a ha
  simp only [KernelCmd.stores, KernelCmd.widths, hk, Bool.or_eq_false_iff] at hstores
  exact hstores.1.1

end

end

end Sys2Proof.Machine

namespace Sys2Proof.Proofs
set_option Elab.async false
open Sys2Proof Sys2Proof.Machine

/-- Settles O25: a product's effect is that of its kind, and stores only where the product does. -/
theorem productsIssue : Obligations.ProductsIssue := by
  unfold Obligations.ProductsIssue
  intro s st c m ev hr hd hn hc
  have hx := exec_product (st := st) (ev := ev) hr hn hc
  refine ⟨_, hx, rfl, operation_frame (S := m.stores s.dev) hd hx (fun src x y h => ?_) fun src x h => ?_⟩
  · exact Keeps.ite (h.heritageEffect _ _ _ _ _ _) (h.matmulEffect _ _ _ _ _ _)
  · split
    · rename_i hm
      exact h.heritage hd.2 _ _ _ hm _ _ fun a => spared_stores
    · rename_i hm
      exact h.product hd.2 _ _ _ (Bool.not_eq_true _ ▸ hm) _ _ fun a => spared_stores

/-- Settles O26: an element program by its own effect, and each statistics kernel by its. -/
theorem vectorCommandsIssue : Obligations.VectorCommandsIssue := by
  unfold Obligations.VectorCommandsIssue
  intro s st c ev hr hd hn
  refine ⟨fun p hc => ?program, fun k i hc hi => ?kernel⟩
  case program =>
    have hx := exec_vprog (st := st) (ev := ev) hr hn hc
    refine ⟨_, hx, operation_frame (S := p.stores s.dev (s.dev.stream st).kept) hd hx (fun src x y h => ?_) fun src x h => ?_⟩
    · exact Keeps.dupRows (h.vprogEffect st c p _ src) _ _ _ _ _ _
    · exact Leaves.dupRows (h.program hd.2 st c p _ src fun a => spared_stores) _ _ _ _ _ _
  case kernel =>
    have hissues := fun effect => kernel_issues (i := i) (st := st) (ev := ev) (effect := effect) hr hd hn hc
    match hk : k.kernel with
    | 0 =>
      rw [hk] at hi hissues
      cases hi
      exact hissues _ (exec_softmax s) (fun _ _ _ _ h => h.softmax) fun _ _ hb h => h.softmax hd.2 hb hk
    | 1 =>
      rw [hk] at hi hissues
      cases hi
      exact hissues _ (exec_normRms s) (fun _ _ _ _ h => h.normEffect _ _ _ _ _ _) fun _ _ hb h =>
        h.norm hd.2 _ _ _ (.inl hk) _ _ hb
    | 2 =>
      rw [hk] at hi hissues
      cases hi
      exact hissues _ (exec_normLayer s) (fun _ _ _ _ h => h.normEffect _ _ _ _ _ _) fun _ _ hb h =>
        h.norm hd.2 _ _ _ (.inr hk) _ _ hb
    | 3 =>
      rw [hk] at hi hissues
      cases hi
      exact hissues _ (exec_vkernelReduce s) (fun _ _ _ _ h => h.reduction) fun _ _ hb h => h.reduction hd.2 hb hk
    | 4 =>
      rw [hk] at hi hissues
      cases hi
      exact hissues _ (exec_attnStat s) (fun _ _ _ _ h => h.attention) fun _ _ hb h => h.attention hd.2 hb hk
    | 5 =>
      rw [hk] at hi hissues
      cases hi
      exact hissues _ (exec_loss s) (fun _ _ _ _ h => h.lossKernel) fun _ _ hb h => h.lossKernel hd.2 hb hk
    | n + 6 =>
      rw [hk] at hi
      cases hi

/-- Settles O27: a copy's effect stores only where the copy does. -/
theorem copiesIssue : Obligations.CopiesIssue := by
  unfold Obligations.CopiesIssue
  intro s st c p ev hr hd hn hc hshape
  have hx := exec_copied (st := st) (ev := ev) hr hn hc
  exact ⟨_, hx, operation_frame (S := p.stores s.dev) hd hx (fun src x y h => h.copyEffect _ _ _ _) fun src x h =>
    h.copied hd.2 _ _ hshape _ fun a => spared_stores⟩

end Sys2Proof.Proofs

/-! What the checks under an operation reach (R117, R123, R366 to R369): registers of the pages that they report on, the cores' states, the
power manager's view of them; neither a stream nor a unit's work. -/
namespace Sys2Proof.Machine
set_option Elab.async false

/-- `d` with the streams, the time and the units' work as `o` has them. -/
def Dev.inspect (o d : Dev) : Dev :=
  { d with
    now := o.now, nextRun := o.nextRun, seqMain := o.seqMain, seqBf := o.seqBf, curves := o.curves, cmp := o.cmp, xch := o.xch
    red := o.red, hlm := o.hlm, sxt := o.sxt, snd := o.snd, ports := o.ports, cht := o.cht }

/-- The pages whose registers the checks under an operation write: HUB, PWR, HNG, MEM, CLU, CHK. -/
def inspectPages : List Nat := [0x001, 0x002, 0x00D, 0x010, 0x012, 0x013]

/-- `d` comes from `o` by checks. -/
structure Inspected (o d : Dev) : Prop where
  same : d = o.inspect d
  wf : Assoc.wf regReset o.regs = true → Assoc.wf regReset d.regs = true
  reg : Assoc.wf regReset o.regs = true → ∀ a, eventReg a = false → regPage a ∉ inspectPages → d.reg a = o.reg a

section
variable {o d e : Dev}

theorem Inspected.refl : Inspected o o := ⟨rfl, id, fun _ _ _ _ => rfl⟩

theorem Inspected.trans (h1 : Inspected o d) (h2 : Inspected d e) : Inspected o e := by
  refine ⟨?_, fun h => h2.wf (h1.wf h), fun h a ha hp => by rw [h2.reg (h1.wf h) a ha hp, h1.reg h a ha hp]⟩
  calc e = d.inspect e := h2.same
    _ = (o.inspect d).inspect e := congrArg (·.inspect e) h1.same
    _ = o.inspect e := rfl

theorem Inspected.ite {c : Prop} [Decidable c] {x y : Dev} (hx : Inspected o x) (hy : Inspected o y) :
    Inspected o (if c then x else y) := by
  split
  · exact hx
  · exact hy

theorem Inspected.foldl {α : Type} {f : Dev → α → Dev} {l : List α} (h : Inspected o d) (hf : ∀ x a, Inspected x (f x a)) :
    Inspected o (l.foldl f d) := by
  induction l generalizing d with
  | nil => exact h
  | cons a l ih => exact ih (h.trans (hf d a))

/-- A change that leaves the registers. -/
theorem Inspected.other {f : Dev} (h : Inspected o d) (hs : f = d.inspect f := by rfl) (hr : f.regs = d.regs := by rfl) :
    Inspected o f :=
  h.trans ⟨hs, fun hd => by rw [hr]; exact hd, fun _ a _ _ => by unfold Dev.reg; rw [hr]⟩

/-- A change whose registers are confined to the pages of the checks. -/
theorem Inspected.confined {f : Dev} (h : Inspected o d) (hc : Confined inspectPages d f) (hs : f = d.inspect f) : Inspected o f :=
  h.trans ⟨hs, hc.wf, hc.reg⟩

theorem Inspected.setReg (h : Inspected o d) {a : Nat} (w : Word) (ha : regPage a ∈ inspectPages) (hl : a % 0x1000 ≠ 0x020) :
    Inspected o (d.setReg a w) := h.confined (Confined.refl.setReg w ha hl) rfl

theorem inspect_acts (d : Dev) (as : List Act) : d.acts as = d.inspect (d.acts as) := by
  obtain ⟨_, _, _, _, _, h⟩ := (EventsOnly.refl.acts as : EventsOnly d (d.acts as)).rest
  rw [h]
  rfl

theorem Inspected.acts (h : Inspected o d) (as : List Act) : Inspected o (d.acts as) :=
  h.confined (Confined.refl.acts as) (inspect_acts d as)

theorem Inspected.raise (h : Inspected o d) (p : Page) (b : Nat) : Inspected o (d.raise p b) := h.acts _

theorem Inspected.raiseLogged (h : Inspected o d) (p : Page) (b peer : Nat) (detail : List Byte) :
    Inspected o (d.raiseLogged p b peer detail) := h.acts _

theorem Inspected.record (h : Inspected o d) (r : Rec) : Inspected o (d.record r) := h.acts _

theorem Inspected.moveTo (h : Inspected o d) (p : Page) (c : Nat) (hp : pageCode p.type ∈ inspectPages) : Inspected o (d.moveTo p c) := by
  refine h.confined (Confined.refl.moveTo p c hp) ?_
  unfold Dev.moveTo
  split <;> rfl

theorem Inspected.found (h : Inspected o d) (written : List (Nat × Nat)) (fs : List BlockFinding) : Inspected o (d.found written fs) := by
  have hc := found_checked d written fs
  refine h.trans ⟨?_, hc.wf, fun hd a ha hp => hc.reg hd a ?_⟩
  · obtain ⟨_, _, _, _, _, _, _, _, _, hrest⟩ := hc.rest
    rw [hrest]
    rfl
  · unfold inspectPages regPage at hp
    simp only [List.mem_cons, List.not_mem_nil, or_false, not_or] at hp
    obtain ⟨hhub, -, hhng, hmem, -, -⟩ := hp
    have hstate : a ≠ stateReg (page1 .hub) := by
      rintro rfl
      exact hhub rfl
    unfold checkReg
    simp [ha, hhng, hmem, hstate]

/-! Cores and clusters. -/

theorem Inspected.cluTo (h : Inspected o d) (x c : Nat) : Inspected o (d.cluTo x c) := by
  have hm := h.moveTo (cluPage x) c (show 0x012 ∈ inspectPages by decide)
  unfold Dev.cluTo
  refine Inspected.ite h ?_
  split
  · exact hm.raise _ _
  · exact hm.raise _ _
  · exact hm

theorem Inspected.cluSettle (h : Inspected o d) (f : Fuse) (x : Nat) : Inspected o (d.cluSettle f x) := by
  unfold Dev.cluSettle
  exact Inspected.ite h (Inspected.ite (h.cluTo _ _) (Inspected.ite (h.cluTo _ _) (h.cluTo _ _)))

theorem Inspected.setProbation (h : Inspected o d) (x : Nat) (w : Word) : Inspected o (d.setReg (Reg.cluProbation x) w) :=
  h.setReg w ((regPage_cluProbation x).1 ▸ by decide) (regPage_cluProbation x).2

theorem Inspected.coreTo (h : Inspected o d) (f : Fuse) (c st probLeft event : Nat) : Inspected o (d.coreTo f c st probLeft event) := by
  have hset : Inspected o (d.setCore c ⟨st, ((d.core c).gen + 1) % 256, probLeft, (d.core c).rejected⟩) := h.other
  unfold Dev.coreTo
  exact Inspected.cluSettle (Inspected.setProbation (hset.raiseLogged _ _ _ _) _ _) _ _

theorem Inspected.marginBack (h : Inspected o d) (f : Fuse) (x : Nat) : Inspected o (d.marginBack f x) := by
  unfold Dev.marginBack
  exact Inspected.ite h.other h

theorem Inspected.showPinned (h : Inspected o d) : Inspected o d.showPinned := by
  unfold Dev.showPinned
  refine h.foldl fun x b => ?_
  have hw := Inspected.refl.setReg (o := x) (a := Reg.pwrPinned) (setBit (x.reg Reg.pwrPinned) b.2 b.1) (by decide) (by decide)
  exact Inspected.ite (hw.raiseLogged _ _ _ _) hw

theorem Inspected.raiseMargin (h : Inspected o d) (x : Nat) : Inspected o (d.raiseMargin x) := by
  have hrefused : Inspected o (Dev.showPinned { d with pwr := { d.pwr with probVRefused := true } }) := Inspected.showPinned h.other
  unfold Dev.raiseMargin
  exact Inspected.ite (h.setProbation _ _).showPinned
    (Inspected.ite (Inspected.setProbation (Inspected.ite hrefused h) _ _) (Inspected.ite hrefused h))

theorem Inspected.chkCount (h : Inspected o d) {a : Nat} (w : Word) (ha : regPage a = 0x013 := by decide)
    (hl : a % 0x1000 ≠ 0x020 := by decide) : Inspected o (d.setReg a w) := h.setReg w (ha ▸ by decide) hl

theorem Inspected.probation (h : Inspected o d) (f : Fuse) (c : Nat) : Inspected o (d.probation f c) := by
  unfold Dev.probation
  exact ((h.raiseMargin _).chkCount (a := Reg.chkProbations) _).coreTo _ _ _ _ _

theorem Inspected.fence (h : Inspected o d) (f : Fuse) (c source : Nat) : Inspected o (d.fence f c source) := by
  have hkept : Inspected o ((d.raise (cluPage (c / 128)) 1).keepTillBoundary c) := by
    unfold Dev.keepTillBoundary
    exact Inspected.ite (h.raise _ _).other (h.raise _ _)
  have hfenced : ∀ fl, Inspected o { (d.raise (cluPage (c / 128)) 1).keepTillBoundary c with flash := fl } := fun _ => hkept.other
  unfold Dev.fence
  exact Inspected.record (((Inspected.chkCount (a := Reg.chkFences) (hfenced _) _).coreTo _ _ _ _ _).marginBack _ _) _

theorem Inspected.lastingCore (h : Inspected o d) (f : Fuse) (c source : Nat) : Inspected o (d.lastingCore f c source) := by
  unfold Dev.lastingCore
  split
  · exact Inspected.ite (h.fence _ _ _) (h.probation _ _)
  · exact h.fence _ _ _
  · exact h

theorem Inspected.classify (h : Inspected o d) (c source : Nat) (lasting : Bool) : Inspected o (d.classify c source lasting) := by
  have hlast := fun w => h.chkCount (a := Reg.chkLast) w
  unfold Dev.classify
  exact Inspected.ite (((hlast _).chkCount (a := Reg.chkLasting) _).raise _ _)
    (((hlast _).chkCount (a := Reg.chkTransients) _).raise _ _)

theorem regPage_cluChk (x : Nat) : (regPage (Reg.cluChkLast x) = 0x012 ∧ Reg.cluChkLast x % 0x1000 ≠ 0x020) ∧
    regPage (Reg.cluChkCount x) = 0x012 ∧ Reg.cluChkCount x % 0x1000 ≠ 0x020 := by
  unfold Reg.cluChkLast Reg.cluChkCount regPage
  omega

theorem Inspected.coreMismatch (h : Inspected o d) (f : Fuse) (x core rowMask colMask : Nat) (corner repeated : Bool) (source : Nat) :
    Inspected o (d.coreMismatch f x core rowMask colMask corner repeated source) := by
  obtain ⟨⟨hlp, hll⟩, hcp, hcl⟩ := regPage_cluChk x
  have hclu : 0x012 ∈ inspectPages := by decide
  have hlast := fun w => h.setReg (a := Reg.cluChkLast x) w (hlp ▸ hclu) hll
  have hcount := fun w v => (hlast w).setReg (a := Reg.cluChkCount x) v (hcp ▸ hclu) hcl
  have htwice := fun w v u => (hcount w v).setReg (a := Reg.cluChkCount x) u (hcp ▸ hclu) hcl
  have hnoted : ∀ y, Inspected o y → Inspected o (if repeated
      then ((y.raise (cluPage x) 0).classify (128 * x + core) source repeated).lastingCore f (128 * x + core) source
      else (y.raise (cluPage x) 0).classify (128 * x + core) source repeated) := fun y hy =>
    Inspected.ite (((hy.raise _ _).classify _ _ _).lastingCore _ _ _) ((hy.raise _ _).classify _ _ _)
  exact hnoted _ (Inspected.ite (htwice _ _ _) (hcount _ _))

theorem Inspected.coreRead (h : Inspected o d) (f : Fuse) (r : StoreFinding) : Inspected o (d.coreRead f r) := by
  unfold Dev.coreRead
  split
  · exact h
  · exact Inspected.ite h ((h.chkCount (a := Reg.chkStoreEvents) _).coreMismatch _ _ _ _ _ _ _ _)

theorem Inspected.drawBytes (h : Inspected o d) (n : Nat) : Inspected o (d.drawBytes n).2 := h.other

theorem Inspected.writeAt (h : Inspected o d) (a : Nat) (bs : List Byte) : Inspected o (d.writeAt a bs) := h.other

theorem Inspected.badUnfixed (h : Inspected o d) : Inspected o d.badUnfixed := h.other

/-- A line lost: free bytes in its place, and the step bad (R123). -/
def Dev.lineLost (d : Dev) (a : Nat) : Dev := ((d.drawBytes 64).2.writeAt a (d.drawBytes 64).1).badUnfixed

/-- A lost line's spare taken, or its cluster stopped where none is left (R123). -/
def Dev.spareLine (d : Dev) (x : Nat) : Dev :=
  if Assoc.get (fun _ => 0) d.chk.lines x < 32
  then { d with chk := { d.chk with lines := Assoc.set (fun _ => 0) d.chk.lines x (Assoc.get (fun _ => 0) d.chk.lines x + 1) } }
  else d.cluTo x 7

theorem lineFinding_lost (d : Dev) (x line : Nat) (lasting : Bool) : d.lineFinding x line lasting =
    if !lasting then (d.addSat Reg.chkStoreEvents 1).classify (128 * x) 5 lasting
    else (((d.addSat Reg.chkStoreEvents 1).classify (128 * x) 5 lasting).lineLost
      (storeBase + storeSpan * x + line % 0x10000 * 64)).spareLine x := rfl

theorem Inspected.lineFinding (h : Inspected o d) (x line : Nat) (lasting : Bool) : Inspected o (d.lineFinding x line lasting) := by
  have hnoted := (h.chkCount (a := Reg.chkStoreEvents)
    (BitVec.ofNat 32 (min ((d.reg Reg.chkStoreEvents).toNat + 1) 0xFFFFFFFF))).classify (128 * x) 5 lasting
  have hlost : ∀ y a, Inspected o y → Inspected o (y.lineLost a) := fun y a hy => ((hy.drawBytes 64).writeAt a _).badUnfixed
  have hspared : ∀ y, Inspected o y → Inspected o (y.spareLine x) := fun y hy => Inspected.ite hy.other (hy.cluTo _ _)
  rw [lineFinding_lost]
  exact Inspected.ite hnoted (hspared _ (hlost _ _ hnoted))

theorem Inspected.lineRead (h : Inspected o d) (r : StoreFinding) : Inspected o (d.lineRead r) := by
  unfold Dev.lineRead
  split
  · exact h
  · exact Inspected.ite h (h.lineFinding _ _ _)

theorem Inspected.findings (h : Inspected o d) (written : List (Nat × Nat)) (ev : OpEvents) : Inspected o (d.findings written ev) :=
  (h.found written ev.blocks).foldl fun _ r => Inspected.refl.lineRead r

theorem Inspected.coreFindings (h : Inspected o d) (f : Fuse) (ev : OpEvents) : Inspected o (d.coreFindings f ev) :=
  h.foldl fun _ r => Inspected.refl.coreRead f r

theorem Inspected.returnMargins (h : Inspected o d) : Inspected o d.returnMargins := by
  unfold Dev.returnMargins
  refine Inspected.other (h.foldl fun x i => ?_)
  exact Inspected.ite (Inspected.refl.setProbation _ _).showPinned .refl

theorem Inspected.leaveMaps (h : Inspected o d) (f : Fuse) : Inspected o (d.leaveMaps f) := by
  unfold Dev.leaveMaps
  exact Inspected.ite h (Inspected.foldl (Inspected.other h) fun _ x => Inspected.refl.cluSettle f x)

theorem Inspected.stream (h : Inspected o d) (st : Stream) : d.stream st = o.stream st := by
  rw [h.same]
  cases st <;> rfl

theorem Inspected.curves (h : Inspected o d) : d.curves = o.curves := by
  rw [h.same]
  rfl

theorem Inspected.hlm (h : Inspected o d) : d.hlm = o.hlm := by
  rw [h.same]
  rfl

theorem Reads.inspected {a : Nat} (h : Reads o d a) (hi : Inspected d e) (ha : eventReg a = false) (hp : regPage a ∉ inspectPages) :
    Reads o e a := ⟨hi.wf h.1, (hi.reg h.1 a ha hp).trans h.2⟩

end

end Sys2Proof.Machine

/-! Table loads, the Helm's set commands and updates, LOGMARKs and the operations between packages, as they issue (R98, R166, R189, R194,
R211, R239, R248 to R264, R296, R347). -/
namespace Sys2Proof.Machine
set_option Elab.async false

section
variable {s : State} {o d e : Dev} {st : Stream} {c : Decoded} {ev : OpEvents}

/-! An operation taken apart: what its checks and its issue leave, its effect, and what follows it. -/

/-- The memory that an operation's effect reads. -/
def Dev.opSource (d : Dev) (st : Stream) (c : Decoded) (w : List (Nat × Nat)) (ev : OpEvents) : ByteSource :=
  ((d.findings w ev).operandSource st c).1

/-- The device in which an operation's effect takes place. -/
def Dev.opIssued (d : Dev) (st : Stream) (c : Decoded) (w : List (Nat × Nat)) (ev : OpEvents) : Dev :=
  ((d.findings w ev).operandSource st c).2.issue st c true false

theorem operate_effect (d : Dev) (f : Fuse) (st : Stream) (c : Decoded) (w : List (Nat × Nat)) (ev : OpEvents)
    (eff : ByteSource → Dev → Dev) : d.operate f st c w ev eff =
      ((eff (d.opSource st c w ev) (d.opIssued st c w ev)).wrote st w).coreFindings f ev := rfl

theorem Inspected.operandSource (h : Inspected o d) (st : Stream) (c : Decoded) : Inspected o (d.operandSource st c).2 := by
  unfold Dev.operandSource Dev.openSource
  split
  · exact h
  · exact h.other

theorem Carried.curves (h : Carried o d) : d.curves = o.curves := congrArg (·.curves) h

theorem opIssued_wf (hd : Assoc.wf regReset d.regs = true) (w : List (Nat × Nat)) (ev : OpEvents) :
    Assoc.wf regReset (d.opIssued st c w ev).regs = true :=
  issue_wf (((Inspected.refl.findings w ev).operandSource st c).wf hd) st c true false

theorem opIssued_curves (d : Dev) (w : List (Nat × Nat)) (ev : OpEvents) : (d.opIssued st c w ev).curves = d.curves :=
  (Carried.refl.issue st c true false).curves.trans ((Inspected.refl.findings w ev).operandSource st c).curves

/-- What follows an operation's effect leaves its stream's late effect and the curves. -/
theorem afterEffect_late (d : Dev) (f : Fuse) (w : List (Nat × Nat)) (ev : OpEvents) :
    (((d.wrote st w).coreFindings f ev).stream st).late = (d.stream st).late ∧
      ((d.wrote st w).coreFindings f ev).curves = d.curves := by
  have hi : Inspected (d.wrote st w) ((d.wrote st w).coreFindings f ev) := Inspected.refl.coreFindings f ev
  refine ⟨?_, hi.curves.trans (by cases st <;> rfl)⟩
  rw [hi.stream st]
  cases st <;> rfl

/-- What follows an operation's effect leaves a register of a page that the checks do not write. -/
theorem Reads.afterEffect {a : Nat} (h : Reads o d a) (f : Fuse) (w : List (Nat × Nat)) (ev : OpEvents) (ha : eventReg a = false)
    (hp : regPage a ∉ inspectPages) : Reads o ((d.wrote st w).coreFindings f ev) a :=
  (h.stream st _).inspected (Inspected.refl.coreFindings f ev) ha hp

/-- What follows an operation's effect leaves the bytes outside the Logbook's region. -/
theorem Holds.afterEffect {a : Nat} {bs : List Byte} (h : d.Holds a bs) (hm : d.mem.wf = true) (hoff : offLogbook a bs.length)
    (f : Fuse) (w : List (Nat × Nat)) (ev : OpEvents) : ((d.wrote st w).coreFindings f ev).Holds a bs :=
  Holds.leaves h hoff ((Leaves.refl.wrote st w).coreFindings f ev) hm

/-! TLOAD (R98). -/

theorem Carried.dropQueues (h : Carried o d) (q : Nat) : Carried o (d.dropQueues q) := by
  unfold Dev.dropQueues
  refine h.foldl fun x a => ?_
  have hvia : Carried x (x.freeVia a) := by
    unfold Dev.freeVia
    split
    · exact Carried.refl.trans rfl
    · exact .refl
  unfold Dev.notAccepted
  exact Carried.ite hvia (hvia.trans rfl)

/-- A port whose queues are gone, its link lost and its registers cleared. -/
def Dev.clearPort (d : Dev) (q : Nat) : Dev :=
  ((((d.loseLink q).setPort q fun _ => Port.reset).setFlag (Reg.fabPeer q) 31 false).setFld (Reg.fabLanes q) 7 0 0)

theorem portOff_clears (d : Dev) (q : Nat) : d.portOff q =
    (((if d.active (fabPage q) then d.raise (fabPage q) 1 else d).dropQueues q).clearPort q).moveTo (fabPage q) 0 := rfl

theorem loseLink_curves (d : Dev) (q : Nat) : (d.loseLink q).curves = d.curves := rfl

theorem setPort_curves (d : Dev) (q : Nat) (f : Port → Port) : (d.setPort q f).curves = d.curves := rfl

theorem clearPort_curves (d : Dev) (q : Nat) : (d.clearPort q).curves = d.curves := by
  have hset := ((Carried.refl (o := (d.loseLink q).setPort q fun _ => Port.reset)).setReg (Reg.fabPeer q) (setBit
    (((d.loseLink q).setPort q fun _ => Port.reset).reg (Reg.fabPeer q)) 31 false)).curves
  unfold Dev.clearPort Dev.setFld
  rw [(Carried.refl.setReg _ _).curves]
  exact hset.trans ((setPort_curves _ _ _).trans (loseLink_curves d q))

theorem portOff_curves (d : Dev) (q : Nat) : (d.portOff q).curves = d.curves := by
  have hdown : Carried d (if d.active (fabPage q) then d.raise (fabPage q) 1 else d) := Carried.ite (Carried.refl.raise _ _) .refl
  rw [portOff_clears, (Carried.refl.moveTo (fabPage q) 0).curves, clearPort_curves, (hdown.dropQueues q).curves]

theorem park_curves (d : Dev) : d.park.curves = d.curves := by
  have hports : ∀ (l : List Nat) (x : Dev), (l.foldl Dev.parkPort x).curves = x.curves := by
    intro l x
    induction l generalizing x with
    | nil => rfl
    | cons q l ih =>
      rw [List.foldl_cons, ih]
      unfold Dev.parkPort
      split
      · exact portOff_curves x q
      · rfl
  unfold Dev.park
  dsimp only
  split
  · split
    · exact (Carried.refl.moveTo hubPage 3).curves.trans (hports _ _)
    · exact hports _ _
  · rfl

theorem afterBoundary_curves (d : Dev) (f : Fuse) (st : Stream) : (d.afterBoundary f st).curves = d.curves := by
  have hmargins : d.returnMargins.curves = d.curves := Inspected.refl.returnMargins.curves
  have hsettled := ((Carried.refl (o := d.returnMargins)).settle st |>.settle (otherStream st)).curves
  exact (park_curves _).trans ((Inspected.refl.leaveMaps f).curves.trans (hsettled.trans hmargins))

theorem dropSlots_length (d : Dev) (slot owner place length : Nat) :
    (d.dropSlots slot owner place length).curves.length = d.curves.length := by
  unfold Dev.dropSlots
  generalize d.slotInfos.zipIdx = l
  induction l generalizing d with
  | nil => rfl
  | cons x l ih =>
    rw [List.foldl_cons, ih]
    split
    · split
      · exact List.length_set
      · rfl
    · rfl

theorem showSlot_curves {slot : Nat} (h : slot < d.curves.length) (owner place : Nat) (x : Curve) :
    (d.showSlot slot owner place x).curves[slot]? = some (some x) := List.getElem?_set_self h

/-- The image in its slot, the slots that it displaces gone. -/
def Dev.imageShown (d : Dev) (st : Stream) (t : TloadCmd) (image : List Byte) : Dev :=
  (d.dropSlots t.slot (sidx st) t.place64 (t.length / 64)).showSlot t.slot (sidx st) t.place64 ⟨none, image⟩

theorem loadTable_shows (d : Dev) (st : Stream) (t : TloadCmd) (image : List Byte) :
    d.loadTable st t image = ((d.imageShown st t image).setFld Reg.vtbLoadStatus 4 0 t.slot).raise (page1 .vtb) 0 := rfl

theorem imageShown_wf (hd : Assoc.wf regReset d.regs = true) (st : Stream) (t : TloadCmd) (image : List Byte) :
    Assoc.wf regReset (d.imageShown st t image).regs = true := by
  have hdrop : Confined [0x016] d (d.dropSlots t.slot (sidx st) t.place64 (t.length / 64)) := by
    unfold Dev.dropSlots
    refine Confined.refl.foldl fun x a => ?_
    split
    · refine Confined.ite (Confined.other (Confined.refl.setReg _ ?_ (regPage_vtbSlotStatus _).2)) .refl
      exact (regPage_vtbSlotStatus _).1 ▸ .head _
    · exact .refl
  exact (hdrop.showSlot t.slot (sidx st) t.place64 ⟨none, image⟩ (.head _)).wf hd

/-- The boundary's load: the image in its slot, and the slot shown. -/
theorem loadTable_loads (hd : Assoc.wf regReset d.regs = true) (st : Stream) {t : TloadCmd} (image : List Byte)
    (ht : t.slot < d.curves.length) : (d.loadTable st t image).curves[t.slot]? = some (some ⟨none, image⟩) ∧
      Pends (d.loadTable st t image) (page1 .vtb) 0 ∧ (d.loadTable st t image).fld Reg.vtbLoadStatus 4 0 = t.slot % 32 := by
  have hshown := imageShown_wf hd st t image
  have hcurves : (d.imageShown st t image).curves[t.slot]? = some (some ⟨none, image⟩) :=
    showSlot_curves (lt_of_lt_of_eq ht (dropSlots_length d _ _ _ _).symm) _ _ _
  rw [loadTable_shows]
  generalize d.imageShown st t image = x at hshown hcurves ⊢
  have hstatus : Assoc.wf regReset (x.setFld Reg.vtbLoadStatus 4 0 t.slot).regs = true := Assoc.wf_set hshown _ _
  have hfld := ((Reads.refl hstatus Reg.vtbLoadStatus).raise (by decide) (page1 .vtb) 0).2
  refine ⟨?_, Pends.raised hstatus (page1 .vtb) (by decide), ?_⟩
  · rw [(Carried.refl.raise (page1 .vtb) 0).curves]
    exact hcurves
  · unfold Dev.fld
    rw [hfld]
    exact Dev.fld_setFld hshown _ (by decide) (by decide) _

end

end Sys2Proof.Machine

/-! The Helm's set commands, LOGMARKs, updates and the operations between packages. -/
namespace Sys2Proof.Machine
set_option Elab.async false

section
variable {s : State} {o d e : Dev} {st : Stream} {c : Decoded} {ev : OpEvents}

/-! The Helm's set commands (R248 to R251, R264). -/

/-- The rows of the Helm's set commands. -/
theorem exec_helmSet (hr : s.carrier.phase = .running) (hn : s.dev.next? .main = some c) {h : HelmSetCmd} (hc : c.cmd = .helmSet h)
    {i : Instr} (hi : [Instr.helmSetStep ev, .helmSetNorm ev, .helmSetCoef ev, .helmSetDecay ev][h.kind]? = some i) :
    exec i s = .next { s with dev :=
      (s.dev.operate s.fuse .main c h.written ev fun src e => e.helmSetEffect c h (s.dev.loses ev.blocks) src) } ∧
    Leaving noBytes s (exec i s) := by
  have hrow : ∀ {n : Nat}, h.kind = n → s.helmSet ev n = .next { s with dev :=
      (s.dev.operate s.fuse .main c h.written ev fun src e => e.helmSetEffect c h (s.dev.loses ev.blocks) src) } :=
    fun hk => act_issue hr hn (by simp only [hc, hk, if_true])
  match hk : h.kind with
  | 0 => rw [hk] at hi; cases hi; exact ⟨hrow hk, leaving_execHelmSetStep ev⟩
  | 1 => rw [hk] at hi; cases hi; exact ⟨hrow hk, leaving_execHelmSetNorm ev⟩
  | 2 => rw [hk] at hi; cases hi; exact ⟨hrow hk, leaving_execHelmSetCoef ev⟩
  | 3 => rw [hk] at hi; cases hi; exact ⟨hrow hk, leaving_execHelmSetDecay ev⟩
  | n + 4 => rw [hk] at hi; cases hi

theorem Issued.helmSet (f : Fuse) (h : HelmSetCmd) (lost : Bool) (w : List (Nat × Nat)) :
    d.Issued (d.operate f .main c w ev fun src e => e.helmSetEffect c h lost src) .main c :=
  Issued.operate f .main c w ev fun _ _ _ hk => hk.helmSetEffect c h lost _

/-- The Helm's table registers differ. -/
theorem hlmDecay_apart (n : Nat) : Reg.hlmDecayCfg n ≠ Reg.hlmDecayBase n ∧ Reg.hlmDecayCfg n ≠ Reg.hlmDecayBeta1 n ∧
    Reg.hlmDecayCfg n ≠ Reg.hlmDecayWd n ∧ Reg.hlmDecayBase n ≠ Reg.hlmDecayBeta1 n ∧ Reg.hlmDecayBase n ≠ Reg.hlmDecayWd n ∧
    Reg.hlmDecayBeta1 n ≠ Reg.hlmDecayWd n := by
  unfold Reg.hlmDecayCfg Reg.hlmDecayBase Reg.hlmDecayBeta1 Reg.hlmDecayWd
  omega

/-- The Helm's registers: no event writes them, nor do the checks. -/
theorem hlmReg_kept {a : Nat} (h : 0x0A000040 ≤ a ∧ a < 0x0A000400) : eventReg a = false ∧ regPage a ∉ inspectPages := by
  have hlog : ∀ x ∈ [Reg.logWriteLo, Reg.logWriteLo + 4, Reg.logRecords, Reg.logStatus, Reg.logLost], a ≠ x := by
    intro x hx
    have : x < 0x0A000040 := by revert x; decide
    omega
  refine ⟨?_, ?_⟩
  · unfold eventReg
    simp only [Bool.or_eq_false_iff, beq_eq_false_iff_ne, decide_eq_false_iff_not, List.contains_eq_mem]
    exact ⟨⟨⟨⟨by omega, by omega⟩, by omega⟩, by omega⟩, fun hm => hlog a hm rfl⟩
  · unfold regPage inspectPages
    rw [show a / 0x1000000 = 0x0A by omega]
    decide

/-- The coefficients after COEF: each as the command's source has it. -/
theorem setCoefs_reg (hd : Assoc.wf regReset d.regs = true) (f : Nat → Word) (n : Nat) (hn : n ≤ 15) :
    Assoc.wf regReset ((List.range n).foldl (fun d i => d.setReg (Reg.hlmNsCoef i) (f i)) d).regs = true ∧
      ∀ i, i < n → ((List.range n).foldl (fun d i => d.setReg (Reg.hlmNsCoef i) (f i)) d).reg (Reg.hlmNsCoef i) = f i := by
  induction n with
  | zero => exact ⟨hd, fun _ h => absurd h (Nat.not_lt_zero _)⟩
  | succ n ih =>
    obtain ⟨hwf, hreg⟩ := ih (Nat.le_of_succ_le hn)
    rw [List.range_succ, List.foldl_append]
    refine ⟨Assoc.wf_set hwf _ _, fun i hi => ?_⟩
    show Dev.reg (Dev.setReg _ (Reg.hlmNsCoef n) (f n)) _ = _
    rw [Dev.reg_setReg hwf]
    split
    · rename_i he
      unfold Reg.hlmNsCoef at he
      rw [show i = n by omega]
    · rename_i hne
      exact hreg i (Nat.lt_of_le_of_ne (Nat.le_of_lt_succ hi) fun he => hne (he ▸ rfl))

/-- The decay table's registers as DECAY writes them (R251). -/
def Dev.setDecay (d : Dev) (h : HelmSetCmd) : Dev :=
  (((d.setReg (Reg.hlmDecayCfg h.table) (BitVec.ofNat 32 (1 + 2 * h.depth + 0x10000 * (h.address / 0x100000000 % 512)))).setReg
    (Reg.hlmDecayBase h.table) (BitVec.ofNat 32 h.address)).setReg (Reg.hlmDecayBeta1 h.table) h.value0).setReg
    (Reg.hlmDecayWd h.table) h.value1

theorem setDecay_regs (hd : Assoc.wf regReset d.regs = true) (h : HelmSetCmd) : Assoc.wf regReset (d.setDecay h).regs = true ∧
    (d.setDecay h).reg (Reg.hlmDecayBase h.table) = BitVec.ofNat 32 h.address ∧
    (d.setDecay h).reg (Reg.hlmDecayBeta1 h.table) = h.value0 ∧ (d.setDecay h).reg (Reg.hlmDecayWd h.table) = h.value1 ∧
    bit ((d.setDecay h).reg (Reg.hlmDecayCfg h.table)) 0 = true := by
  obtain ⟨hcb, hc1, hcw, hb1, hbw, h1w⟩ := hlmDecay_apart h.table
  have hwf1 := Assoc.wf_set hd (Reg.hlmDecayCfg h.table) (BitVec.ofNat 32 (1 + 2 * h.depth + 0x10000 * (h.address / 0x100000000 % 512)))
  have hwf2 := Assoc.wf_set hwf1 (Reg.hlmDecayBase h.table) (BitVec.ofNat 32 h.address)
  have hwf3 := Assoc.wf_set hwf2 (Reg.hlmDecayBeta1 h.table) h.value0
  refine ⟨Assoc.wf_set hwf3 _ _, ?_, ?_, Dev.reg_setReg_same hwf3 _ _, ?_⟩
  · exact ((Dev.reg_setReg hwf3 _ _ _).trans (if_neg hbw)).trans (((Dev.reg_setReg hwf2 _ _ _).trans (if_neg hb1)).trans
      (Dev.reg_setReg_same hwf1 _ _))
  · exact ((Dev.reg_setReg hwf3 _ _ _).trans (if_neg h1w)).trans (Dev.reg_setReg_same hwf2 _ _)
  · have hcfg : (d.setDecay h).reg (Reg.hlmDecayCfg h.table) =
        BitVec.ofNat 32 (1 + 2 * h.depth + 0x10000 * (h.address / 0x100000000 % 512)) :=
      ((Dev.reg_setReg hwf3 _ _ _).trans (if_neg hcw)).trans (((Dev.reg_setReg hwf2 _ _ _).trans (if_neg hc1)).trans
        (((Dev.reg_setReg hwf1 _ _ _).trans (if_neg hcb)).trans (Dev.reg_setReg_same hd _ _)))
    rw [hcfg]
    unfold bit
    rw [BitVec.getLsbD_ofNat, Nat.testBit_zero]
    simp
    omega

/-- A Helm's set command that loses a block leaves its page in FAULT (R261). -/
theorem helmFail_faults (hd : Assoc.wf regReset d.regs = true) (layer reason : Nat) :
    Assoc.wf regReset (d.helmFail c layer reason).regs = true ∧ (d.helmFail c layer reason).code hlmPage = 7 := by
  have hset : Assoc.wf regReset (d.setReg Reg.hlmFaultLast (BitVec.ofNat 32 (layer % 65536 + 0x10000 * reason))).regs = true :=
    Assoc.wf_set hd _ _
  have hraise := ((Reads.refl hset 0).raise (by decide) hlmPage 2).1
  have hstate : InState (d.helmFail c layer reason) hlmPage 7 := ((InState.moved hraise hlmPage (by decide)).record _).other
  exact ⟨hstate.wf, hstate.code⟩

/-- STEP's values at its boundary (R249). -/
theorem setStep_regs (hd : Assoc.wf regReset d.regs = true) (h : HelmSetCmd) : Assoc.wf regReset (d.setStep h).regs = true ∧
    (d.setStep h).reg Reg.hlmLr = h.value0 ∧ (d.setStep h).reg Reg.hlmClip = h.value1 ∧ (d.setStep h).pair Reg.hlmStepLo = h.step.toNat := by
  have hlr : Assoc.wf regReset (d.setReg Reg.hlmLr h.value0).regs = true := Assoc.wf_set hd _ _
  have hclip : Assoc.wf regReset ((d.setReg Reg.hlmLr h.value0).setReg Reg.hlmClip h.value1).regs = true := Assoc.wf_set hlr _ _
  have hstep : Assoc.wf regReset (((d.setReg Reg.hlmLr h.value0).setReg Reg.hlmClip h.value1).setPair Reg.hlmStepLo h.step.toNat).regs =
    true := Assoc.wf_set (Assoc.wf_set hclip _ _) _ _
  have hend : ∀ a, 0x0A000040 ≤ a ∧ a < 0x0A000060 → a ≠ Reg.hlmRingStep 0 → Reads
      (((d.setReg Reg.hlmLr h.value0).setReg Reg.hlmClip h.value1).setPair Reg.hlmStepLo h.step.toNat) (d.setStep h) a := by
    intro a ha hne
    have hseed := Reads.setReg (Reads.refl hstep a) (BitVec.ofNat 32 (0x100000000 + h.step.toNat - 1)) hne
    exact (Reads.ite hseed.other (Reads.refl hstep a)).acts (hlmReg_kept (by omega)).1 _
  have hl := hend Reg.hlmLr (by decide) (by decide)
  have hc := hend Reg.hlmClip (by decide) (by decide)
  have hs := hend Reg.hlmStepLo (by decide) (by decide)
  have hs4 := hend (Reg.hlmStepLo + 4) (by decide) (by decide)
  refine ⟨hl.1, ?_, ?_, ?_⟩
  · rw [hl.2, (((Reads.refl hlr Reg.hlmLr).setReg _ (by decide)).setPair (by decide) (by decide) _).2, Dev.reg_setReg_same hd]
  · rw [hc.2, ((Reads.refl hclip Reg.hlmClip).setPair (by decide) (by decide) _).2, Dev.reg_setReg_same hlr]
  · have hpair := pair_setPair hclip Reg.hlmStepLo h.step.isLt
    unfold Dev.pair at hpair ⊢
    rw [hs.2, hs4.2, hpair]

/-! The operations between packages and the updates. -/

/-- The exchanges' effect (R194 to R199). -/
def xchgEffect (c : Decoded) (x : XchgCmd) (lost : Bool) (src : ByteSource) (d : Dev) : Dev :=
  if x.kind = 2 then d.combineEffect c x lost src else d.moveEffect c x lost src

theorem exec_dispatch (s : State) : exec (.dispatch ev) s = s.xchg ev 0 fun c x lost src d => d.moveEffect c x lost src := rfl

theorem exec_xchgReturn (s : State) : exec (.xchgReturn ev) s = s.xchg ev 1 fun c x lost src d => d.moveEffect c x lost src := rfl

theorem exec_combine (s : State) : exec (.combine ev) s = s.xchg ev 2 fun c x lost src d => d.combineEffect c x lost src := rfl

theorem exec_gradDispatch (s : State) : exec (.gradDispatch ev) s =
    s.xchg ev 3 fun c x lost src d => d.moveEffect c x lost src := rfl

theorem exec_gradReturn (s : State) : exec (.gradReturn ev) s = s.xchg ev 4 fun c x lost src d => d.moveEffect c x lost src := rfl

theorem exec_xchg (hr : s.carrier.phase = .running) (hn : s.dev.next? .main = some c) {x : XchgCmd} (hc : c.cmd = .xchg x) {i : Instr}
    (hi : [Instr.dispatch ev, .xchgReturn ev, .combine ev, .gradDispatch ev, .gradReturn ev][x.kind]? = some i) :
    exec i s = .next { s with dev := (if s.dev.xchgWaits x then s.dev
      else s.dev.operate s.fuse .main c x.written ev fun src e => xchgEffect c x (s.dev.loses ev.blocks) src e) } ∧
    Leaving noBytes s (exec i s) := by
  have hrow : ∀ {n : Nat} {f : Decoded → XchgCmd → Bool → ByteSource → Dev → Dev}, x.kind = n →
      (∀ lost src e, f c x lost src e = xchgEffect c x lost src e) → s.xchg ev n f = .next { s with dev :=
        (if s.dev.xchgWaits x then s.dev
          else s.dev.operate s.fuse .main c x.written ev fun src e => xchgEffect c x (s.dev.loses ev.blocks) src e) } := by
    intro n f hk hf
    refine act_next hr ?_
    unfold Dev.issueIf
    rw [hn]
    cases hw : s.dev.xchgWaits x <;> simp [hc, hk, hw, hf]
  have hmove : x.kind ≠ 2 → ∀ lost src e, Dev.moveEffect e c x lost src = xchgEffect c x lost src e := fun h _ _ _ => by
    rw [xchgEffect, if_neg h]
  match hk : x.kind with
  | 0 =>
    rw [hk] at hi
    cases hi
    exact ⟨(exec_dispatch s).trans (hrow hk (hmove (by omega))), leaving_execDispatch ev⟩
  | 1 =>
    rw [hk] at hi
    cases hi
    exact ⟨(exec_xchgReturn s).trans (hrow hk (hmove (by omega))), leaving_execXchgReturn ev⟩
  | 2 =>
    rw [hk] at hi
    cases hi
    exact ⟨(exec_combine s).trans (hrow hk fun _ _ _ => by rw [xchgEffect, if_pos hk]), leaving_execCombine ev⟩
  | 3 =>
    rw [hk] at hi
    cases hi
    exact ⟨(exec_gradDispatch s).trans (hrow hk (hmove (by omega))), leaving_execGradDispatch ev⟩
  | 4 =>
    rw [hk] at hi
    cases hi
    exact ⟨(exec_gradReturn s).trans (hrow hk (hmove (by omega))), leaving_execGradReturn ev⟩
  | n + 5 =>
    rw [hk] at hi
    cases hi

theorem exec_send (hr : s.carrier.phase = .running) (hn : s.dev.next? .main = some c) {x : SendCmd} (hc : c.cmd = .send x) :
    exec (.send ev) s = .next { s with dev := (if s.dev.sendWaits x then s.dev
      else s.dev.operate s.fuse .main c [(x.status, 32)] ev fun _ e => e.sendEffect c x (s.dev.loses ev.blocks)) } := by
  show execSend ev s = _
  refine act_next hr ?_
  unfold Dev.issueIf
  rw [hn]
  cases hw : s.dev.sendWaits x <;> simp [hc, hw]

/-- The boundary of an operation that nothing holds (R13). -/
theorem exec_boundary_reached {r : Running} (hr : s.carrier.phase = .running) (hrun : (s.dev.stream st).running = some r)
    (hdone : r.done = true) (hheld : s.dev.boundaryHeld r.dec.cmd = false) : exec (.operationBoundary st) s = .next { s with dev :=
      (((s.dev.applyLate st).complete st r.dec).afterBoundary s.fuse st) } := by
  have hx := exec_operationBoundary hr hrun hdone
  rw [hheld, if_neg Bool.false_ne_true] at hx
  exact hx

/-- The registers that a stream's boundary leaves as the late effect has them. -/
theorem Reads.boundary {a : Nat} (h : Reads o d a) (hun : Unmoved st a) (hp : regPage a ∉ [0x008, 0x012, 0x002, 0x00E, 0x001])
    (ha : eventReg a = false) (f : Fuse) (c : Decoded) : Reads o ((d.complete st c).afterBoundary f st) a :=
  (h.complete hun c).confined (Confined.refl.afterBoundary f st) ha hp

/-- A ROUTE as it issues. -/
def Dev.routeIssued (d : Dev) (f : Fuse) (c : Decoded) (r : RouteCmd) (ev : OpEvents) : Dev :=
  if !d.active cmpPage then (d.issue .main c true false).rejectRun .main c rField
  else if d.routeWaits r then d
  else d.operate f .main c [] ev fun src e => e.routeEffect c r src

theorem exec_route (hr : s.carrier.phase = .running) (hn : s.dev.next? .main = some c) {r : RouteCmd} (hc : c.cmd = .route r) :
    exec (.route ev) s = .next { s with dev := s.dev.routeIssued s.fuse c r ev } := by
  show execRoute ev s = _
  refine act_next hr ?_
  unfold Dev.issueIf Dev.routeIssued
  rw [hn]
  cases ha : s.dev.active cmpPage <;> cases hw : s.dev.routeWaits r <;> simp [hc, hw]

/-- A reduction as it issues. -/
def Dev.reduceIssued (d : Dev) (f : Fuse) (c : Decoded) (r : ReduceCmd) (ev : OpEvents) : Dev :=
  if !d.active redPage then (d.issue .main c true false).rejectRun .main c rField
  else if d.reduceWaits r then d
  else d.operate f .main c r.written ev fun src e => e.reduceEffect c r (d.loses ev.blocks) src

theorem exec_reduce (hr : s.carrier.phase = .running) (hn : s.dev.next? .main = some c) {r : ReduceCmd} (hc : c.cmd = .reduce r)
    {i : Instr} (hi : [Instr.reduceSum ev, .reduceTally ev, .reduceMax ev, .reduceConsensus ev.blocks][r.kind]? = some i) :
    exec i s = .next { s with dev := s.dev.reduceIssued s.fuse c r (if r.kind = 3 then ⟨ev.blocks, [], [], []⟩ else ev) } ∧
      Leaving noBytes s (exec i s) := by
  have hrow : ∀ e, s.reduce e r.kind = .next { s with dev := s.dev.reduceIssued s.fuse c r e } := by
    intro e
    refine act_next hr ?_
    unfold Dev.issueIf Dev.reduceIssued
    rw [hn]
    cases ha : s.dev.active redPage <;> cases hw : s.dev.reduceWaits r <;> simp [hc, hw]
  match hk : r.kind with
  | 0 => rw [hk] at hi hrow; cases hi; exact ⟨hrow ev, leaving_execReduceSum ev⟩
  | 1 => rw [hk] at hi hrow; cases hi; exact ⟨hrow ev, leaving_execReduceTally ev⟩
  | 2 => rw [hk] at hi hrow; cases hi; exact ⟨hrow ev, leaving_execReduceMax ev⟩
  | 3 => rw [hk] at hi hrow; cases hi; exact ⟨hrow ⟨ev.blocks, [], [], []⟩, leaving_execReduceConsensus ev.blocks⟩
  | n + 4 => rw [hk] at hi; cases hi

theorem exec_logmark (hr : s.carrier.phase = .running) (hn : s.dev.next? .main = some c) {x : LogmarkCmd} (hc : c.cmd = .logmark x)
    {i : Instr} (hi : [Instr.logmarkNote, .logmarkTensor ev, .logmarkRange ev][x.kind]? = some i) :
    exec i s = .next { s with dev := (s.dev.operate s.fuse .main c [] (if x.kind = 0 then OpEvents.none else ev) fun src y =>
      y.record (logmarkRec c x src)) } := by
  have hrow : ∀ e, s.logmark e x.kind = .next { s with dev :=
      (s.dev.operate s.fuse .main c [] e fun src y => y.record (logmarkRec c x src)) } := fun e =>
    act_issue hr hn (by simp only [hc, ne_eq, not_true_eq_false, if_false])
  match hk : x.kind with
  | 0 => rw [hk] at hi hrow; cases hi; exact hrow OpEvents.none
  | 1 => rw [hk] at hi hrow; cases hi; exact hrow ev
  | 2 => rw [hk] at hi hrow; cases hi; exact hrow ev
  | n + 3 => rw [hk] at hi; cases hi

/-- An update waits for a slot (R130, R258). -/
def Dev.ringWaits (d : Dev) : Dev := { d with hlm := { d.hlm with ringWait := true } }

theorem Keeps.ringWaits (h : Keeps true o d) : Keeps true o d.ringWaits := h.other

theorem ringWaits_waits (hd : Assoc.wf regReset d.regs = true) : (d.ringWaits.raise hlmPage 1).hlm.ringWait = true ∧
    (d.ringWaits.raise hlmPage 1).pend hlmPage 1 = true := by
  have hraised : Carried d.ringWaits (d.ringWaits.raise hlmPage 1) := Carried.refl.raise hlmPage 1
  exact ⟨congrArg (·.hlm.ringWait) hraised, (Pends.raised (d := d.ringWaits) hd hlmPage (by decide)).pend⟩

/-- HELM_UPDATE as it issues (R252, R258, R261). -/
def Dev.updateIssued (d : Dev) (f : Fuse) (c : Decoded) (u : HelmUpdateCmd) (ev : OpEvents) : Dev :=
  if !d.active hlmPage || (d.hlm.opened.isNone && !d.consensusValid) then (d.issue .main c true false).rejectRun .main c rField
  else if d.hlm.opened.isNone && d.skyMode == 0 && (d.slotIn 0).isNone then
    if d.hlm.ringWait then d else d.ringWaits.raise hlmPage 1
  else d.operate f .main c (d.updateWritten u) ev fun src e => e.helmUpdateEffect c u (d.loses ev.blocks) src

theorem exec_helmUpdate (hr : s.carrier.phase = .running) (hn : s.dev.next? .main = some c) {u : HelmUpdateCmd}
    (hc : c.cmd = .helmUpdate u) : exec (.helmUpdate ev) s = .next { s with dev := s.dev.updateIssued s.fuse c u ev } := by
  show execHelmUpdate ev s = _
  refine act_issue hr hn ?_
  simp only [hc]
  exact ((apply_ite some _ _ _).trans (if_congr Iff.rfl rfl (apply_ite some _ _ _))).symm

end

end Sys2Proof.Machine

namespace Sys2Proof.Proofs
set_option Elab.async false
open Sys2Proof Sys2Proof.Machine

/-- Settles O28: the image is late until the boundary, which loads it. -/
theorem tableLoads : Obligations.TableLoads := by
  unfold Obligations.TableLoads
  refine ⟨fun s st c t ev hr hd hn hc => ?issue, fun s st r t image hr hd hrun hdone hc hlate hslot => ?boundary⟩
  case issue =>
    have hx := exec_tload (st := st) (ev := ev) hr hn hc
    obtain ⟨hissued, hconfig, hbytes⟩ := operation_frame (S := fun _ => false) hd hx (fun src x y h => h.tloadEffect _ _ _)
      fun src x h => h.tloadEffect _ _ _
    obtain ⟨hl, hcurves⟩ := afterEffect_late (st := st) ((s.dev.opIssued st c [] ev).tloadEffect st t (s.dev.opSource st c [] ev))
      s.fuse [] ev
    refine ⟨_, hx, hissued, hconfig, fun a ha hrep => hbytes a ha rfl hrep, hcurves.trans ?_, hl.trans ?_⟩
    · rw [← opIssued_curves (st := st) (c := c) s.dev [] ev]
      cases st <;> rfl
    · cases st <;> rfl
  case boundary =>
    have hx := exec_boundary_reached hr hrun hdone (by rw [hc]; rfl)
    have hset : Keeps true s.dev (s.dev.setStream st fun x => { x with late := none }) := Keeps.refl.setStream st _
    have happly : s.dev.applyLate st = (s.dev.setStream st fun x => { x with late := none }).loadTable st t image := by
      unfold Dev.applyLate
      rw [hlate]
    have hk : Keeps true s.dev (s.dev.applyLate st) := Keeps.refl.applyLate st
    have hlen : (s.dev.setStream st fun x => { x with late := none }).curves = s.dev.curves := by cases st <;> rfl
    obtain ⟨hcurve, hpend, hshown⟩ := loadTable_loads (hset.regs hd.2) st (t := t) image (lt_of_lt_of_eq hslot (congrArg _ hlen.symm))
    rw [← happly] at hcurve hpend hshown
    have hun : Unmoved st Reg.vtbLoadStatus := unmoved_of st _ (by decide) (by decide)
    have hend := (Reads.refl (hk.regs hd.2) Reg.vtbLoadStatus).boundary hun (by decide) (by decide) s.fuse r.dec
    have hcurves := (afterBoundary_curves ((s.dev.applyLate st).complete st r.dec) s.fuse st).trans
      (Carried.refl.complete st r.dec).curves
    refine ⟨_, hx, Completed.keeps (Completed.complete hk st r.dec) (Keeps.refl.afterBoundary s.fuse st),
      (leaving_execOperationBoundary st).calm hx hd, ?_, ?_, ?_⟩
    · rw [hcurves]
      exact hcurve
    · exact ((Confined.refl.afterBoundary s.fuse st).pend _ _ (hpend.complete st r.dec)).pend
    · unfold Dev.fld at hshown ⊢
      rw [hend.2]
      exact hshown

/-- Settles O29: each operation's effect where it need not wait, and nothing where it must. -/
theorem fabricOperationsIssue : Obligations.FabricOperationsIssue := by
  unfold Obligations.FabricOperationsIssue
  intro s c ev hr hd hn
  refine ⟨fun x i hc hi => ?xchg, fun x hc => ?send, fun r hc ha => ?route, fun r i e hc ha he hi => ?reduce⟩
  case xchg =>
    obtain ⟨hx, hl⟩ := exec_xchg hr hn hc hi
    refine ⟨fun hw => ?_, fun hw => by rw [hx, if_pos hw]⟩
    rw [hw, if_neg Bool.false_ne_true] at hx
    refine ⟨_, hx, Issued.operate _ _ _ _ _ fun src y z h => ?_, hl.sameConfig hx hd, rfl⟩
    exact Keeps.ite (h.combineEffect _ _ _ _) (h.moveEffect _ _ _ _)
  case send =>
    have hx := exec_send (ev := ev) hr hn hc
    refine ⟨fun hw => ?_, fun hw => by rw [hx, if_pos hw]⟩
    rw [hw, if_neg Bool.false_ne_true] at hx
    exact ⟨_, hx, Issued.operate _ _ _ _ _ fun src y z h => h.sendEffect _ _ _, (leaving_execSend ev).sameConfig hx hd, rfl⟩
  case route =>
    have hx := exec_route (ev := ev) hr hn hc
    unfold Dev.routeIssued at hx
    rw [ha, if_neg (by decide)] at hx
    refine ⟨fun hw => ?_, fun hw => by rw [hx, if_pos hw]⟩
    rw [hw, if_neg Bool.false_ne_true] at hx
    exact ⟨_, hx, Issued.operate _ _ _ _ _ fun src y z h => h.routeEffect _ _ _, (leaving_execRoute ev).sameConfig hx hd, rfl⟩
  case reduce =>
    obtain ⟨hx, hl⟩ := exec_reduce hr hn hc hi
    rw [← he] at hx
    have hblocks : e.blocks = ev.blocks := by
      rw [he]
      split <;> rfl
    unfold Dev.reduceIssued at hx
    rw [ha, if_neg (by decide), hblocks] at hx
    refine ⟨fun hw => ?_, fun hw => by rw [hx, if_pos hw]⟩
    rw [hw, if_neg Bool.false_ne_true] at hx
    exact ⟨_, hx, Issued.operate _ _ _ _ _ fun src y z h => h.reduceEffect _ _ _ _, hl.sameConfig hx hd, rfl⟩

/-- Settles O30: both are rejected as they issue. -/
theorem inactivePagesReject : Obligations.InactivePagesReject := by
  unfold Obligations.InactivePagesReject
  intro s c ev hr hd hn i hcase
  have hcalm : s.dev.Calm ((s.dev.issue .main c true false).rejectRun .main c rField) :=
    ((Leaves.refl.issue .main c true false).rejectRun .main c rField).calm hd
  have hx : exec i s = .next { s with dev := (s.dev.issue .main c true false).rejectRun .main c rField } := by
    rcases hcase with ⟨r, hc, ha, rfl⟩ | ⟨r, hc, ha, hi⟩
    · rw [exec_route hr hn hc, Dev.routeIssued, ha, if_pos (by decide)]
    · rw [(exec_reduce hr hn hc hi).1, Dev.reduceIssued, ha, if_pos (by decide)]
  exact ⟨_, hx, hcalm, Rejected.rejectRun_issue hd.2 Keeps.refl true false rField⟩

/-- Settles O32: the record appended is all that a LOGMARK's effect is. -/
theorem logmarks : Obligations.Logmarks := by
  unfold Obligations.Logmarks
  intro s c x ev hr hd hn hc i e hi he
  have hx := exec_logmark hr hn hc hi
  rw [← he] at hx
  obtain ⟨hissued, hconfig, hbytes⟩ := operation_frame (S := fun _ => false) hd hx (fun src y z h => h.record _) fun src y h => h.record _
  exact ⟨_, hx, hissued, hconfig, rfl, fun a ha hrep => hbytes a ha rfl hrep⟩

/-- Settles O33: the branches of HELM_UPDATE's issue. -/
theorem helmUpdateIssues : Obligations.HelmUpdateIssues := by
  unfold Obligations.HelmUpdateIssues
  intro s c u ev hr hd hn hc
  have hx := exec_helmUpdate (ev := ev) hr hn hc
  have hl : Leaving noBytes s (exec (.helmUpdate ev) s) := leaving_execHelmUpdate ev
  unfold Dev.updateIssued at hx
  refine ⟨fun ha hcons hslot => ?issues, fun ha hopen hcons hmode hslot => ?waits, fun hbad => ?rejected⟩
  case issues =>
    have h1 : (!s.dev.active hlmPage || (s.dev.hlm.opened.isNone && !s.dev.consensusValid)) = false := by
      rw [ha]
      cases hopen : s.dev.hlm.opened with
      | none => simp [hcons hopen]
      | some _ => rfl
    have h2 : (s.dev.hlm.opened.isNone && s.dev.skyMode == 0 && (s.dev.slotIn 0).isNone) = false := by
      cases hopen : s.dev.hlm.opened with
      | none =>
        by_cases hm : s.dev.skyMode = 0
        · obtain ⟨n, hn⟩ := Option.isSome_iff_exists.mp (hslot hopen hm)
          simp [hn]
        · simp [hm]
      | some _ => rfl
    rw [h1, h2, if_neg Bool.false_ne_true, if_neg Bool.false_ne_true] at hx
    exact ⟨_, hx, Issued.operate _ _ _ _ _ fun src y z h => h.helmUpdateEffect _ _ _ _, hl.sameConfig hx hd, rfl⟩
  case waits =>
    rw [ha, hopen, hcons, hmode, hslot, if_neg (by decide), if_pos (by decide)] at hx
    cases hwait : s.dev.hlm.ringWait with
    | true =>
      rw [hwait, if_pos rfl] at hx
      exact ⟨_, hx, Keeps.refl.steady, hl.sameConfig hx hd, hwait, fun h => absurd h (by decide)⟩
    | false =>
      rw [hwait, if_neg Bool.false_ne_true] at hx
      obtain ⟨hset, hpend⟩ := ringWaits_waits hd.2
      exact ⟨_, hx, (Keeps.refl.ringWaits.raise hlmPage 1).steady, hl.sameConfig hx hd, hset, fun _ => hpend⟩
  case rejected =>
    have h1 : (!s.dev.active hlmPage || (s.dev.hlm.opened.isNone && !s.dev.consensusValid)) = true := by
      rcases hbad with h | ⟨h, h'⟩
      · simp [h]
      · simp [h, h']
    rw [if_pos h1] at hx
    exact ⟨_, hx, hl.sameConfig hx hd, Rejected.rejectRun_issue hd.2 Keeps.refl true false rField⟩

end Sys2Proof.Proofs

/-! The Helm's set commands settled (R248 to R251, R264). -/
namespace Sys2Proof.Machine
set_option Elab.async false

section
variable {s : State} {o d e : Dev} {st : Stream} {c : Decoded} {ev : OpEvents}

theorem helmSetEffect_step {h : HelmSetCmd} (hk : h.kind = 0) (src : ByteSource) :
    d.helmSetEffect c h false src = d.setStream .main fun s => { s with late := some (.helmStep h) } := by
  unfold Dev.helmSetEffect
  rw [if_neg Bool.false_ne_true, hk]
  rfl

theorem helmSetEffect_norm {h : HelmSetCmd} (hk : h.kind = 1) {t : Desc} (ht : h.src = some t) (src : ByteSource) :
    d.helmSetEffect c h false src = (d.writeAt h.address ((normOf (t.allRows src).flatten).record h.layer t.elems)).onLayer h.layer
      fun l => { l with gnorm := fAdd l.gnorm (normOf (t.allRows src).flatten).value } := by
  unfold Dev.helmSetEffect
  rw [if_neg Bool.false_ne_true, hk, ht]
  rfl

theorem helmSetEffect_coef {h : HelmSetCmd} (hk : h.kind = 2) (src : ByteSource) : d.helmSetEffect c h false src =
    (List.range 15).foldl (fun d i => d.setReg (Reg.hlmNsCoef i) (readWord src (h.address + 4 * i))) d := by
  unfold Dev.helmSetEffect
  rw [if_neg Bool.false_ne_true, hk]
  rfl

theorem helmSetEffect_decay {h : HelmSetCmd} (hk : h.kind = 3) (src : ByteSource) :
    d.helmSetEffect c h false src = d.setDecay h := by
  unfold Dev.helmSetEffect
  rw [if_neg Bool.false_ne_true, hk]
  rfl

theorem helmSetEffect_lost (h : HelmSetCmd) (src : ByteSource) : d.helmSetEffect c h true src = d.helmFail c h.layer 4 := by
  unfold Dev.helmSetEffect
  rw [if_pos rfl]

/-- The decay table's registers lie among the Helm's. -/
theorem hlmDecay_inPage (n : Nat) : (0x0A000040 ≤ Reg.hlmDecayCfg n ∧ Reg.hlmDecayCfg n < 0x0A000400) ∧
    (0x0A000040 ≤ Reg.hlmDecayBase n ∧ Reg.hlmDecayBase n < 0x0A000400) ∧
    (0x0A000040 ≤ Reg.hlmDecayBeta1 n ∧ Reg.hlmDecayBeta1 n < 0x0A000400) ∧
    0x0A000040 ≤ Reg.hlmDecayWd n ∧ Reg.hlmDecayWd n < 0x0A000400 := by
  unfold Reg.hlmDecayCfg Reg.hlmDecayBase Reg.hlmDecayBeta1 Reg.hlmDecayWd
  omega

/-- A set command other than NORM stores nothing. -/
theorem Leaves.helmSetRegs {B : Nat → Bool} (h : Leaves B o d) (x : HelmSetCmd) {lost : Bool} (hk : lost = true ∨ x.kind = 0 ∨ 2 ≤ x.kind)
    (src : ByteSource) : Leaves B o (d.helmSetEffect c x lost src) := by
  rcases hk with rfl | hk
  · rw [helmSetEffect_lost]
    exact h.helmFail _ _ _
  · unfold Dev.helmSetEffect
    refine Leaves.ite (h.helmFail _ _ _) ?_
    split
    · exact h.setStream _ _
    · rename_i h1
      omega
    · exact h.foldl fun y i hy => hy.setReg _ _
    · exact (((h.setReg _ _).setReg _ _).setReg _ _).setReg _ _

theorem normRecord_length (x : NormSum) (layer elems : Nat) : (x.record layer elems).length = 32 := by
  unfold NormSum.record
  simp

/-- The bytes of a range. -/
def inRange (x n a : Nat) : Bool := decide (x ≤ a) && decide (a < x + n)

theorem inRange_away {a x n : Nat} : inRange x n a = false ↔ a < x ∨ x + n ≤ a := by
  unfold inRange
  rw [Bool.and_eq_false_iff, decide_eq_false_iff_not, decide_eq_false_iff_not]
  omega

end

section
variable {s : State} {c : Decoded} {h : HelmSetCmd} {ev : OpEvents} {i : Instr}
variable (hr : s.carrier.phase = .running) (hd : s.dev.Tidy) (hn : s.dev.next? .main = some c) (hc : c.cmd = .helmSet h)
variable (hi : [Instr.helmSetStep ev, Instr.helmSetNorm ev, Instr.helmSetCoef ev, Instr.helmSetDecay ev][h.kind]? = some i)
include hr hd hn hc hi

/-- A set command that stores nothing: how it issues, what it leaves, and what remains to be said of its values. -/
theorem helmSet_issues {lost : Bool} (hlost : s.dev.loses ev.blocks = lost) (hk : lost = true ∨ h.kind = 0 ∨ 2 ≤ h.kind) {P : Dev → Prop}
    (hp : P (((Dev.helmSetEffect (s.dev.opIssued .main c h.written ev) c h lost (s.dev.opSource .main c h.written ev)).wrote .main
      h.written).coreFindings s.fuse ev)) :
    ∃ d, exec i s = .next { s with dev := d } ∧ s.dev.Issued d .main c ∧ s.dev.SameConfig d ∧ P d ∧
      ∀ a, regionOf a ≠ .logbook → replacedBy ev a = false → d.mem.byte a = s.dev.mem.byte a := by
  obtain ⟨hx, -⟩ := exec_helmSet hr hn hc hi
  rw [hlost] at hx
  obtain ⟨hissued, hconfig, hbytes⟩ := operation_frame (S := fun _ => false) hd hx (fun src x y hy => hy.helmSetEffect c h lost src)
    fun src x hl => hl.helmSetRegs h hk src
  exact ⟨_, hx, hissued, hconfig, hp, fun a ha hrep => hbytes a ha rfl hrep⟩

/-- NORM stores its record and nothing else (R250, R264). -/
theorem helmSetNorm_issues (hlost : s.dev.loses ev.blocks = false) (hk : h.kind = 1) {t : Desc} (ht : h.src = some t) {x : List Byte}
    (hx : x = (normOf (t.allRows (s.dev.opSource .main c h.written ev)).flatten).record h.layer t.elems) :
    ∃ d, exec i s = .next { s with dev := d } ∧ s.dev.Issued d .main c ∧ s.dev.SameConfig d ∧
      (offLogbook h.address x.length → d.Holds h.address x) ∧
      ∀ a, regionOf a ≠ .logbook → replacedBy ev a = false → (a < h.address ∨ h.address + x.length ≤ a) →
        d.mem.byte a = s.dev.mem.byte a := by
  obtain ⟨hexec, hleaving⟩ := exec_helmSet hr hn hc hi
  rw [hlost] at hexec
  have hissued : Leaves noBytes s.dev (s.dev.opIssued .main c h.written ev) :=
    ((Leaves.refl.findings _ _).operandSource _ _).issue _ _ _ _
  refine ⟨_, hexec, Issued.helmSet _ _ _ _, hleaving.sameConfig hexec hd, fun hoff => ?_, fun a ha hrep haway => ?_⟩
  · rw [operate_effect, helmSetEffect_norm hk ht, ← hx]
    have hwritten := Holds.writeAt (hissued.mem hd.1) h.address x
    have hmem : ((s.dev.opIssued .main c h.written ev).writeAt h.address x).mem.wf = true := (hissued.writeAt _ _).mem hd.1
    have hlayer := Holds.leaves hwritten hoff (Leaves.refl.onLayer h.layer
      fun l => { l with gnorm := fAdd l.gnorm (normOf (t.allRows (s.dev.opSource .main c h.written ev)).flatten).value }) hmem
    exact Holds.afterEffect hlayer (((hissued.writeAt _ _).onLayer _ _).mem hd.1) hoff _ _ _
  · have hlen : x.length = 32 := by rw [hx, normRecord_length]
    have hstores : ∀ src y, Leaves (spared (inRange h.address 32) ev) s.dev y →
        Leaves (spared (inRange h.address 32) ev) s.dev (y.helmSetEffect c h false src) := by
      intro src y hl
      rw [helmSetEffect_norm hk ht]
      refine (hl.writeAtApart fun b hb => ?_).onLayer _ _
      rw [normRecord_length]
      exact inRange_away.mp (spared_stores hb)
    obtain ⟨-, -, hbytes⟩ := operation_frame (S := inRange h.address 32) hd hexec
      (fun src x y hy => hy.helmSetEffect c h false src) hstores
    exact hbytes a ha (inRange_away.mpr (hlen ▸ haway)) hrep

end

end Sys2Proof.Machine

namespace Sys2Proof.Proofs
set_option Elab.async false
open Sys2Proof Sys2Proof.Machine

/-- Settles O31: each set command's values where its reads lose no block. -/
theorem helmSets : Obligations.HelmSets := by
  unfold Obligations.HelmSets
  refine ⟨fun s c h ev src hr hd hn hc hsrc => ⟨fun hlost i hi => ?lost, fun hkept => ⟨fun hk => ?step, fun t hk ht => ?norm,
    fun hk => ?coef, fun hk => ?decay⟩⟩, fun s r h hr hd hrun hdone hc hlate => ?boundary⟩
  case lost =>
    refine helmSet_issues hr hd hn hc hi hlost (.inl rfl) ?_
    rw [helmSetEffect_lost]
    have hissued := opIssued_wf (st := .main) (c := c) hd.2 h.written ev
    obtain ⟨hwf, hcode⟩ := helmFail_faults (c := c) hissued h.layer 4
    have hkeep := (Reads.refl hwf (stateReg hlmPage)).afterEffect (st := .main) s.fuse h.written ev (by decide) (by decide)
    unfold Dev.code Dev.fld at hcode ⊢
    rw [hkeep.2]
    exact hcode
  case step =>
    refine helmSet_issues hr hd hn hc (by rw [hk]; rfl) hkept (.inr (.inl hk)) ?_
    rw [helmSetEffect_step hk]
    exact (afterEffect_late (st := .main) _ s.fuse h.written ev).1
  case norm =>
    obtain ⟨d, hx, hissued, hconfig, hholds, hbytes⟩ :=
      helmSetNorm_issues hr hd hn hc (i := .helmSetNorm ev) (by rw [hk]; rfl) hkept hk ht rfl
    rw [hsrc]
    exact ⟨d, _, hx, hissued, hconfig, rfl, hholds, hbytes⟩
  case coef =>
    refine helmSet_issues hr hd hn hc (by rw [hk]; rfl) hkept (.inr (.inr (by omega))) fun i hi => ?_
    rw [helmSetEffect_coef hk, hsrc]
    have hissued := opIssued_wf (st := .main) (c := c) hd.2 h.written ev
    obtain ⟨hwf, hreg⟩ := setCoefs_reg hissued (fun i => readWord (s.dev.opSource .main c h.written ev) (h.address + 4 * i)) 15 (by decide)
    obtain ⟨hev, hpage⟩ := hlmReg_kept (a := Reg.hlmNsCoef i) (by unfold Reg.hlmNsCoef; omega)
    exact ((Reads.refl hwf _).afterEffect (st := .main) s.fuse h.written ev hev hpage).2.trans (hreg i hi)
  case decay =>
    have hissued := opIssued_wf (st := .main) (c := c) hd.2 h.written ev
    obtain ⟨hwf, hbase, hbeta, hwd, hcfg⟩ := setDecay_regs hissued h
    have hkeep : ∀ a, 0x0A000040 ≤ a ∧ a < 0x0A000400 → ((((s.dev.opIssued .main c h.written ev).setDecay h).wrote .main
        h.written).coreFindings s.fuse ev).reg a = ((s.dev.opIssued .main c h.written ev).setDecay h).reg a := fun a ha =>
      ((Reads.refl hwf a).afterEffect (st := .main) s.fuse h.written ev (hlmReg_kept ha).1 (hlmReg_kept ha).2).2
    obtain ⟨d, hx, hissues, hconfig, hvals, hbytes⟩ := helmSet_issues hr hd hn hc (i := .helmSetDecay ev) (by rw [hk]; rfl) hkept
      (.inr (.inr (by omega))) (P := fun d => d.reg (Reg.hlmDecayBase h.table) = BitVec.ofNat 32 h.address ∧
        d.reg (Reg.hlmDecayBeta1 h.table) = h.value0 ∧ d.reg (Reg.hlmDecayWd h.table) = h.value1 ∧
        d.flag (Reg.hlmDecayCfg h.table) 0 = true) (by
        rw [helmSetEffect_decay hk]
        obtain ⟨hcfgIn, hbaseIn, hbetaIn, hwdIn⟩ := hlmDecay_inPage h.table
        exact ⟨(hkeep _ hbaseIn).trans hbase, (hkeep _ hbetaIn).trans hbeta, (hkeep _ hwdIn).trans hwd,
          (congrArg (bit · 0) (hkeep _ hcfgIn)).trans hcfg⟩)
    exact ⟨d, hx, hissues, hconfig, hvals.1, hvals.2.1, hvals.2.2.1, hvals.2.2.2, hbytes⟩
  case boundary =>
    have hx := exec_boundary_reached (st := .main) hr hrun hdone (by rw [hc]; rfl)
    have hset : Keeps true s.dev (s.dev.setStream .main fun x => { x with late := none }) := Keeps.refl.setStream .main _
    have happly : s.dev.applyLate .main = (s.dev.setStream .main fun x => { x with late := none }).setStep h := by
      unfold Dev.applyLate
      rw [show (s.dev.stream .main).late = _ from hlate]
    obtain ⟨hwf, hlr, hclip, hstep⟩ := setStep_regs (hset.regs hd.2) h
    rw [← happly] at hwf hlr hclip hstep
    have hkept : ∀ a, a ∈ [Reg.hlmLr, Reg.hlmClip, Reg.hlmStepLo, Reg.hlmStepLo + 4] → Reads (s.dev.applyLate .main)
        (((s.dev.applyLate .main).complete .main r.dec).afterBoundary s.fuse .main) a := by
      intro a ha
      have hout : Unmoved .main a ∧ regPage a ∉ [0x008, 0x012, 0x002, 0x00E, 0x001] ∧ eventReg a = false := by
        simp only [List.mem_cons, List.not_mem_nil, or_false] at ha
        rcases ha with rfl | rfl | rfl | rfl <;> exact ⟨unmoved_of .main _ (by decide) (by decide), by decide, by decide⟩
      exact (Reads.refl hwf a).boundary hout.1 hout.2.1 hout.2.2 s.fuse r.dec
    refine ⟨_, hx, Completed.keeps (Completed.complete (Keeps.refl.applyLate .main) .main r.dec) (Keeps.refl.afterBoundary s.fuse .main),
      (leaving_execOperationBoundary .main).calm hx hd, (hkept _ (.head _)).2.trans hlr,
      (hkept _ (.tail _ (.head _))).2.trans hclip, ?_⟩
    unfold Dev.pair at hstep ⊢
    rw [(hkept Reg.hlmStepLo (.tail _ (.tail _ (.head _)))).2, (hkept (Reg.hlmStepLo + 4) (.tail _ (.tail _ (.tail _ (.head _))))).2]
    exact hstep

end Sys2Proof.Proofs

/-! Messages of the Compass, and the ROUTE that waits too long (R184, R186, R187). -/
namespace Sys2Proof.Machine
set_option Elab.async false

section
variable {s : State} {o d e : Dev} {m : Packet} {blocks : List BlockFinding} {a : Nat}

/-! The package's own number where reads are checked and packets taken. -/

theorem self_reads (h : ∀ a ∈ [Reg.chtPackage, Reg.skyAssume, Reg.skyCtrl], d.reg a = o.reg a) : d.self = o.self := by
  unfold Dev.self Dev.skyMode Dev.fld
  rw [h _ (.head _), h _ (.tail _ (.head _)), h _ (.tail _ (.tail _ (.head _)))]

theorem found_self (hd : Assoc.wf regReset d.regs = true) (written : List (Nat × Nat)) (fs : List BlockFinding) :
    (d.found written fs).self = d.self := by
  refine self_reads fun a ha => ((Reads.refl hd a).found ?_ written fs).2
  revert a
  decide

theorem takePacket_regs (d : Dev) (m : Packet) : (d.takePacket m).regs = d.regs := by
  unfold Dev.takePacket
  split
  · rfl
  · split <;> rfl

theorem takePacket_reg (d : Dev) (m : Packet) (a : Nat) : (d.takePacket m).reg a = d.reg a := by
  unfold Dev.reg
  rw [takePacket_regs]

theorem takePacket_self (d : Dev) (m : Packet) : (d.takePacket m).self = d.self :=
  self_reads fun a _ => takePacket_reg d m a

theorem Reads.takePacket {a : Nat} (h : Reads o d a) (m : Packet) : Reads o (d.takePacket m) a := h.other (takePacket_regs d m)

theorem Carried.cmp (h : Carried o d) : d.cmp = o.cmp := congrArg (·.cmp) h

/-- A counter raised by one. -/
theorem addSat_reg (h : Reads o d a) (n : Nat) : (d.addSat a n).reg a = BitVec.ofNat 32 (min ((o.reg a).toNat + n) 0xFFFFFFFF) := by
  unfold Dev.addSat
  rw [Dev.reg_setReg_same h.1, h.2]

/-! The Compass's messages. -/

theorem exec_cmpMessage (hr : s.carrier.phase = .running) (hm : s.dev.has m = true) (hcls : m.cls = 1) {i : Instr}
    (hi : u8 m.body 0 = 1 ∧ i = .count m blocks ∨ u8 m.body 0 = 2 ∧ i = .grant m blocks ∨ u8 m.body 0 = 3 ∧ i = .place m blocks) :
    exec i s = .next { s with dev := (s.dev.found [] blocks).receiveCmp m } := by
  have htaken : ∀ ok : Nat → Bool, ok (u8 m.body 0) = true → s.cmpMessage m blocks ok =
      .next { s with dev := (s.dev.found [] blocks).receiveCmp m } := by
    intro ok hok
    refine act_next hr ?_
    rw [hm, hcls, hok]
    rfl
  rcases hi with ⟨ht, rfl⟩ | ⟨ht, rfl⟩ | ⟨ht, rfl⟩
  · exact htaken (fun t => t == 1 || !([2, 3, 8, 9].contains t)) (by rw [ht]; rfl)
  · exact htaken (fun t => t == 2) (by rw [ht]; rfl)
  · exact htaken (fun t => t == 3) (by rw [ht]; rfl)

theorem receiveCmp_running {p : Protocol} (hp : d.protocol (cmpMsgOf m.body).layer (cmpMsgOf m.body).microbatch = some p) :
    d.receiveCmp m = (d.takePacket m).takeCmp p (cmpMsgOf m.body) := by
  unfold Dev.receiveCmp
  simp only [hp]

theorem receiveCmp_none (hp : d.protocol (cmpMsgOf m.body).layer (cmpMsgOf m.body).microbatch = none) :
    d.receiveCmp m = if d.cmp.held.length < 8 ∨ (d.cmp.held.any fun h => h.layer = (cmpMsgOf m.body).layer ∧
      h.microbatch = (cmpMsgOf m.body).microbatch) = true then (d.takePacket m).holdCmp (cmpMsgOf m.body) m else d := by
  unfold Dev.receiveCmp
  simp only [hp]

/-- A held message is counted and stands with the messages of its record (R184). -/
theorem holdCmp_holds (hd : Reads o d Reg.cmpHeld) (k : CmpMsg) (m : Packet) :
    (d.holdCmp k m).reg Reg.cmpHeld = BitVec.ofNat 32 (min ((o.reg Reg.cmpHeld).toNat + 1) 0xFFFFFFFF) ∧
      ∃ h ∈ (d.holdCmp k m).cmp.held, h.layer = k.layer ∧ h.microbatch = k.microbatch ∧ m ∈ h.msgs := by
  have hcount := addSat_reg hd 1
  have hwf : Assoc.wf regReset (d.addSat Reg.cmpHeld 1).regs = true := Assoc.wf_set hd.1 _ _
  unfold Dev.holdCmp
  dsimp only
  split
  · rename_i hany
    obtain ⟨h, hmem, hkey⟩ := List.any_eq_true.mp hany
    have hkey' := of_decide_eq_true hkey
    refine ⟨hcount, _, List.mem_map_of_mem hmem, ?_⟩
    rw [if_pos hkey']
    exact ⟨hkey'.1, hkey'.2, List.mem_append_right _ (.head _)⟩
  · have hnew : ∀ l : List HeldMsgs, ∃ h ∈ l ++ [⟨k.layer, k.microbatch, [m]⟩], h.layer = k.layer ∧ h.microbatch = k.microbatch ∧
        m ∈ h.msgs := fun l => ⟨_, List.mem_append_right _ (List.mem_singleton_self _), rfl, rfl, List.mem_singleton_self m⟩
    split
    · refine ⟨((Reads.refl hwf Reg.cmpHeld).other.raise (by decide) cmpPage 5).2.trans hcount, ?_⟩
      rw [(Carried.refl.raise cmpPage 5).cmp]
      exact hnew _
    · exact ⟨hcount, hnew _⟩

/-! A unit's fault: its event, its page in FAULT, its record, and the step bad. -/

/-- A page's fault. -/
def Dev.faulted (d : Dev) (p : Page) (b : Nat) (r : Rec) : Dev := (((d.raise p b).pageFault p).record r).bad

theorem Confined.faulted {ps : List Nat} (h : Confined ps o d) (p : Page) (b : Nat) (r : Rec) (hp : pageCode p.type ∈ ps) :
    Confined ps o (d.faulted p b r) := (((h.raise p b).moveTo p 7 hp).record r).other

theorem Carried.faulted (h : Carried o d) (p : Page) (b : Nat) (r : Rec) : Carried o (d.faulted p b r) :=
  (((h.raise p b).moveTo p 7).record r).bad

/-- A fault leaves its page in FAULT with its event pending. -/
theorem faulted_state (hd : Assoc.wf regReset d.regs = true) (p : Page) {b : Nat} (hb : b < 32) (r : Rec) :
    (d.faulted p b r).code p = 7 ∧ (d.faulted p b r).pend p b = true := by
  have hraise := Pends.raised hd p hb
  have hmoved : Confined [pageCode p.type] (d.raise p b) ((d.raise p b).moveTo p 7) := Confined.refl.moveTo p 7 (.head _)
  exact ⟨(((InState.moved hraise.wf p (by decide)).record r).other).code, (((hmoved.pend _ _ hraise).acts [.record r]).other).pend⟩

theorem Reads.faulted (h : Reads o d a) (p : Page) (b : Nat) (r : Rec) (ha : eventReg a = false) (hs : a ≠ stateReg p) :
    Reads o (d.faulted p b r) a := (((h.raise ha p b).moveTo p 7 hs).acts ha [.record r]).other

theorem abandonRecord_faults (d : Dev) (p : Protocol) (reason sender : Nat) (timeout : Bool) : ∃ r,
    d.abandonRecord p reason sender timeout = ((d.endProtocol p).setReg Reg.cmpProtoLast
      (BitVec.ofNat 32 (sender % 65536 + 0x10000 * reason))).faulted cmpPage (if timeout then 4 else 3) r := ⟨_, rfl⟩

/-- An abandoned record: its protocol gone, who and why shown, the page in FAULT with its event (R186, R187). -/
theorem abandonRecord_shows (hd : Assoc.wf regReset d.regs = true) (p : Protocol) (reason sender : Nat) (timeout : Bool) :
    (∀ q ∈ (d.abandonRecord p reason sender timeout).cmp.protocols, q.id ≠ p.id) ∧
      (d.abandonRecord p reason sender timeout).code cmpPage = 7 ∧
      (d.abandonRecord p reason sender timeout).pend cmpPage (if timeout then 4 else 3) = true ∧
      (d.abandonRecord p reason sender timeout).reg Reg.cmpProtoLast = BitVec.ofNat 32 (sender % 65536 + 0x10000 * reason) := by
  obtain ⟨r, hr⟩ := abandonRecord_faults d p reason sender timeout
  have hend : Assoc.wf regReset (d.endProtocol p).regs = true := hd
  have hset : Assoc.wf regReset ((d.endProtocol p).setReg Reg.cmpProtoLast (BitVec.ofNat 32 (sender % 65536 + 0x10000 * reason))).regs =
      true := Assoc.wf_set hend _ _
  obtain ⟨hcode, hpend⟩ := faulted_state hset cmpPage (b := if timeout then 4 else 3) (by cases timeout <;> decide) r
  have hlast := (Reads.refl hset Reg.cmpProtoLast).faulted cmpPage (if timeout then 4 else 3) r (by decide) (by decide)
  rw [hr]
  refine ⟨fun q hq => ?_, hcode, hpend, hlast.2.trans (Dev.reg_setReg_same hend _ _)⟩
  rw [((Carried.refl.setReg Reg.cmpProtoLast _).faulted cmpPage _ r).cmp] at hq
  exact of_decide_eq_true (List.mem_filter.mp hq).2

/-- A message of another step is stale (R186). -/
theorem takeCmp_stale {p : Protocol} {k : CmpMsg} (hk : k.step ≠ p.cmd.step % 65536) : d.takeCmp p k = d.addSat Reg.cmpStale 1 := by
  unfold Dev.takeCmp
  rw [if_pos hk]

/-- A message that breaks the protocol abandons its record (R186). -/
theorem takeCmp_broken {p : Protocol} {k : CmpMsg} {reason : Nat} (hk : k.step = p.cmd.step % 65536)
    (hb : lowest (p.check d.self k) = some reason) : d.takeCmp p k = d.abandonRecord p reason k.sender false := by
  unfold Dev.takeCmp
  rw [if_neg (not_not_intro hk), hb]

/-- Any other joins the messages of its ROUTE (R184). -/
theorem takeCmp_joins {p : Protocol} {k : CmpMsg} (hk : k.step = p.cmd.step % 65536) (hb : lowest (p.check d.self k) = none) :
    d.takeCmp p k = (d.putProtocol { p with sets := addSet p.sets k.type k.round k.sender k.entries k.last k.rejected }).advanceRecord
      p.cmd.layer p.cmd.microbatch := by
  unfold Dev.takeCmp
  rw [if_neg (not_not_intro hk), hb]

theorem exec_compassTimeout (hr : s.carrier.phase = .running) {slot mb : Nat} {p : Protocol}
    (hp : (s.dev.cmp.protocols.find? fun p => p.cmd.layerSlot = slot ∧ p.cmd.microbatch = mb) = some p)
    (ht : p.issued + us (max 1 (s.dev.fld Reg.cmpTimeout 19 0)) ≤ s.dev.now) :
    exec (.compassTimeout slot mb) s = .next { s with dev := s.dev.abandonRecord p 0 s.dev.self true } := by
  show execCompassTimeout slot mb s = _
  refine act_next hr ?_
  simp only [hp]
  exact if_pos (decide_eq_true ht)

end

end Sys2Proof.Machine

namespace Sys2Proof.Proofs
set_option Elab.async false
open Sys2Proof Sys2Proof.Machine

/-- Settles O34: the message held, stale, breaking its protocol or joining it, after the checks of its record. -/
theorem compassMessages : Obligations.CompassMessages := by
  unfold Obligations.CompassMessages
  intro s m blocks i e k hr hd hm hcls hi he hk
  subst hk
  have hx := exec_cmpMessage hr hm hcls hi
  have hcmp : (s.dev.found [] blocks).cmp = s.dev.cmp := Dev.found_cmp s.dev [] blocks
  have hprot : ∀ layer mb, (s.dev.found [] blocks).protocol layer mb = s.dev.protocol layer mb := fun layer mb => by
    unfold Dev.protocol
    rw [hcmp]
  have hwf : Assoc.wf regReset ((s.dev.found [] blocks).takePacket m).regs = true := by
    rw [takePacket_regs]
    exact Dev.found_wf s.dev [] blocks hd.2
  have hself : ((s.dev.found [] blocks).takePacket m).self = s.dev.self := (takePacket_self _ _).trans (found_self hd.2 [] blocks)
  have hkeeps : Keeps true s.dev (s.dev.found [] blocks) := Keeps.refl.found [] blocks
  have hleaves : Leaves (fun a => !lostBy blocks a) s.dev (s.dev.found [] blocks) := Leaves.refl.foundBut [] fun a h => by simpa using h
  have hbut : ∀ {x : Dev}, Leaves (fun a => !lostBy blocks a) s.dev x → s.dev.CalmBut x blocks := fun h =>
    ⟨h.config hd.2, fun a ha hlost => h.byte hd.1 a (by simp [hlost]) ha⟩
  have hreads : ∀ a, checkReg a = false → Reads s.dev ((s.dev.found [] blocks).takePacket m) a := fun a ha =>
    ((Reads.refl hd.2 a).found ha [] blocks).takePacket m
  refine ⟨fun hnone => ?none, fun p hp => ?running⟩
  case none =>
    rw [receiveCmp_none ((hprot _ _).trans hnone), hcmp] at hx
    refine ⟨fun hroom => ?_, fun hfull hnew => ?_⟩
    · rw [if_pos hroom] at hx
      obtain ⟨hcount, hheld⟩ := holdCmp_holds (hreads Reg.cmpHeld (by decide)) (cmpMsgOf m.body) m
      exact ⟨_, hx, ((hkeeps.takePacket m).holdCmp _ _).steady, hbut ((hleaves.takePacket m).holdCmp _ _), hcount, hheld⟩
    · rw [if_neg (by rw [hnew]; simpa using hfull)] at hx
      exact ⟨he ▸ hx, he ▸ hbut hleaves⟩
  case running =>
    rw [receiveCmp_running ((hprot _ _).trans hp)] at hx
    refine ⟨fun hs => ?stale, fun hs => ⟨fun reason hb => ?broken, fun hb => ?joins⟩⟩
    case stale =>
      rw [takeCmp_stale hs] at hx
      exact ⟨_, hx, ((hkeeps.takePacket m).addSat _ _).steady, hbut ((hleaves.takePacket m).addSat _ _),
        (Carried.refl.takePacket m).cmp.trans hcmp, addSat_reg (hreads Reg.cmpStale (by decide)) 1⟩
    case broken =>
      rw [takeCmp_broken hs (hself.symm ▸ hb)] at hx
      obtain ⟨hgone, hcode, hpend, hlast⟩ := abandonRecord_shows hwf p reason (cmpMsgOf m.body).sender false
      exact ⟨_, hx, ((hkeeps.takePacket m).abandonRecord _ _ _ _).steady, hbut ((hleaves.takePacket m).abandonRecord _ _ _ _),
        hgone, hcode, hpend, hlast⟩
    case joins =>
      rw [takeCmp_joins hs (hself.symm ▸ hb)] at hx
      have hl : Leaves noBytes s.dev (((s.dev.found [] blocks).takePacket m).takeCmp p (cmpMsgOf m.body)) :=
        ((Leaves.refl.found [] blocks).takePacket m).takeCmp p _
      rw [takeCmp_joins hs (hself.symm ▸ hb)] at hl
      exact ⟨_, hx, hl.config hd.2, he ▸ rfl⟩

/-- Settles O38: the abandonment that the timeout brings. -/
theorem routeTimesOut : Obligations.RouteTimesOut := by
  unfold Obligations.RouteTimesOut
  intro s slot mb p hr hd hp ht
  have hx := exec_compassTimeout hr hp ht
  obtain ⟨hgone, hcode, hpend, hlast⟩ := abandonRecord_shows hd.2 p 0 s.dev.self true
  exact ⟨_, hx, (Keeps.refl.abandonRecord _ _ _ _).steady, (Leaves.refl.abandonRecord _ _ _ _).calm hd, hgone, hlast, hcode, hpend⟩

end Sys2Proof.Proofs

/-! Messages of the token exchange (R197, R199, R202, R208 to R210), and how a run's end is told (R201, R209). -/
namespace Sys2Proof.Machine
set_option Elab.async false

section
variable {s : State} {o d e : Dev} {m : Packet} {blocks : List BlockFinding} {a : Nat}

/-! READY and DATA. -/

theorem act_message (hr : s.carrier.phase = .running) (hm : s.dev.has m = true) {cls type : Nat} (hcls : m.cls = cls)
    (ht : u8 m.body 0 = type) (f : Dev → Dev) :
    (s.act fun d => if d.has m && m.cls == cls && u8 m.body 0 == type then f d else d) = .next { s with dev := f s.dev } := by
  refine act_next hr ?_
  rw [hm, hcls, ht, BEq.rfl, BEq.rfl]
  rfl

/-- What a READY does (R197, R199). -/
def Dev.gotReady (d : Dev) (m : Packet) (blocks : List BlockFinding) : Dev :=
  match d.xchgRun (readyOf m.body).kind (readyOf m.body).layer (readyOf m.body).microbatch with
  | some x =>
    if d.loses blocks then ((d.found [] blocks).takePacket m).endXchg x 8 0xFFFF
    else ((d.found [] blocks).takePacket m).takeReady x (readyOf m.body)
  | none => d.keepReady m (readyOf m.body)

theorem exec_ready (s : State) (m : Packet) (blocks : List BlockFinding) : exec (.ready m blocks) s =
    s.act fun d => if d.has m && m.cls == 1 && u8 m.body 0 == 9 then d.gotReady m blocks else d := rfl

/-- What a DATA does (R202). -/
def Dev.gotData (d : Dev) (m : Packet) (blocks : List BlockFinding) : Dev :=
  match d.xchgRun (u8 m.body 1) (u16 m.body 4) (u16 m.body 6) with
  | some x => ((d.found x.buffer blocks).takePacket m).takeData x m.body (d.loses blocks)
  | none => d.takePacket m

theorem exec_data_message (s : State) (m : Packet) (blocks : List BlockFinding) : exec (.data m blocks) s =
    s.act fun d => if d.has m && m.cls == 1 && u8 m.body 0 == 8 then d.gotData m blocks else d := rfl

/-- A READY with no run of its kind. -/
theorem exec_ready_none (hr : s.carrier.phase = .running) (hm : s.dev.has m = true) (hcls : m.cls = 1) (ht : u8 m.body 0 = 9)
    (hx : s.dev.xchgRun (readyOf m.body).kind (readyOf m.body).layer (readyOf m.body).microbatch = none) :
    exec (.ready m blocks) s = .next { s with dev := s.dev.keepReady m (readyOf m.body) } := by
  refine (exec_ready s m blocks).trans ((act_message hr hm hcls ht fun d => d.gotReady m blocks).trans ?_)
  unfold Dev.gotReady
  rw [hx]

/-- A READY of a running exchange. -/
theorem exec_ready_run (hr : s.carrier.phase = .running) (hm : s.dev.has m = true) (hcls : m.cls = 1) (ht : u8 m.body 0 = 9)
    {x : XchgRun} (hx : s.dev.xchgRun (readyOf m.body).kind (readyOf m.body).layer (readyOf m.body).microbatch = some x) :
    exec (.ready m blocks) s = .next { s with dev :=
      (if s.dev.loses blocks then ((s.dev.found [] blocks).takePacket m).endXchg x 8 0xFFFF
        else ((s.dev.found [] blocks).takePacket m).takeReady x (readyOf m.body)) } := by
  refine (exec_ready s m blocks).trans ((act_message hr hm hcls ht fun d => d.gotReady m blocks).trans ?_)
  unfold Dev.gotReady
  rw [hx]

theorem takeReady_stale {x : XchgRun} {r : ReadyMsg} (hs : r.step ≠ x.step % 65536) :
    d.takeReady x r = d.putXchg { x with stale := x.stale + 1 } := by
  unfold Dev.takeReady XchgRun.judge
  rw [if_pos hs]

theorem takeReady_current {x : XchgRun} {r : ReadyMsg} (hs : r.step = x.step % 65536) : d.takeReady x r =
    if r.zeros = false then d.endXchg x 2 r.sender
    else if r.rows = ((x.owed.find? fun o => o.peer = r.sender).map (·.rows)).getD 0 then d.releaseRows x [r.sender]
    else d.endXchg x 6 r.sender := by
  unfold Dev.takeReady XchgRun.judge
  rw [if_neg (not_not_intro hs)]
  cases r.zeros with
  | false => rfl
  | true =>
    simp only [Bool.not_true, Bool.false_eq_true, if_false, Bool.true_eq_false]
    split
    · rename_i heq
      split at heq <;> cases heq
    · rename_i heq
      split at heq
      · cases heq
      · cases heq
        rename_i hrows
        rw [if_neg hrows]
    · rename_i heq
      split at heq
      · rename_i hrows
        rw [if_pos hrows]
      · cases heq

theorem exec_data (hr : s.carrier.phase = .running) (hm : s.dev.has m = true) (hcls : m.cls = 1) (ht : u8 m.body 0 = 8) :
    exec (.data m blocks) s = .next { s with dev := s.dev.gotData m blocks } :=
  (exec_data_message s m blocks).trans (act_message hr hm hcls ht fun d => d.gotData m blocks)

/-- Rows that the run expects are stored, each where the record places it, and counted (R202). -/
theorem takeData_stores {x : XchgRun} {b : List Byte} {t : Desc} {ps : List Nat} (lost : Bool) (hs : u16 b 0xA = x.step % 65536)
    (hf : x.fieldsOk b = true) (hp : (x.expected.any fun y => y.peer = u16 b 8) = true)
    (hps : x.places (u16 b 8) (u16 b 0xC) (u32 b 0x10) (u32 b 0x14) = some ps) (hdst : x.cmd.dst = some t)
    (hnew : (ps.any fun p => x.got.contains p) = false) : d.takeData x b lost =
      if lost then (d.write ((ps.zipIdx.map fun p => t.placeRow p.1
        ((b.drop (32 + wireBytes x.cmd.format x.width * p.2)).take (wireBytes x.cmd.format x.width))).flatten)).endXchg
          { x with received := x.received + ps.length, got := ps ++ x.got } 8 0xFFFF
      else (d.write ((ps.zipIdx.map fun p => t.placeRow p.1
        ((b.drop (32 + wireBytes x.cmd.format x.width * p.2)).take (wireBytes x.cmd.format x.width))).flatten)).putXchg
          { x with received := x.received + ps.length, got := ps ++ x.got } := by
  unfold Dev.takeData
  dsimp only
  rw [if_neg (not_not_intro hs), hf, hp, hps, hdst]
  simp only [hnew]
  rfl

/-! A run's end told: its status record, its counter. -/

/-- A status record written and its counter raised. -/
def Dev.told (d : Dev) (a : Nat) (bs : List Byte) (n : Nat) : Dev := (d.writeAt a bs).notifyCounter n

theorem seqCounter_kept {n : Nat} (hn : n < 16) : eventReg (Reg.seqCounter 0 n) = false ∧ checkReg (Reg.seqCounter 0 n) = false ∧
    regPage (Reg.seqCounter 0 n) = 0x008 := by
  revert n
  decide

theorem Carried.writeAt (h : Carried o d) (a : Nat) (bs : List Byte) : Carried o (d.writeAt a bs) := h.trans rfl

theorem Carried.told (h : Carried o d) (a : Nat) (bs : List Byte) (n : Nat) : Carried o (d.told a bs n) := by
  unfold Dev.told Dev.notifyCounter
  exact Carried.ite ((h.writeAt a bs).setReg _ _) (h.writeAt a bs)

theorem Leaves.told {B : Nat → Bool} (h : Leaves B o d) {x : Nat} {bs : List Byte} (hb : ∀ a, B a = true → a < x ∨ x + bs.length ≤ a)
    (n : Nat) : Leaves B o (d.told x bs n) := (h.writeAtApart hb).notifyCounter n

/-- What a run's end tells. -/
theorem told_tells {n : Nat} {bs : List Byte} (hm : d.mem.wf = true) (hc : n < 16 → Reads o d (Reg.seqCounter 0 n))
    (hl : Leaves (fun _ => true) (d.told a bs n) e) (hr : n < 16 → Reads (d.told a bs n) (d.told a bs n) (Reg.seqCounter 0 n) →
      Reads (d.told a bs n) e (Reg.seqCounter 0 n)) :
    (offLogbook a bs.length → e.Holds a bs) ∧
      (n < 16 → e.reg (Reg.seqCounter 0 n) = BitVec.ofNat 32 (min ((o.reg (Reg.seqCounter 0 n)).toNat + 1) 0xFFFFFFFF)) := by
  have hwritten := Holds.writeAt hm a bs
  have hwm : (d.writeAt a bs).mem.wf = true := ((Leaves.refl (B := noBytes)).writeAt a bs).mem hm
  refine ⟨fun hoff => ?_, fun hn => ?_⟩
  · have htold : (d.told a bs n).Holds a bs := Holds.leaves hwritten hoff (Leaves.refl.notifyCounter n) hwm
    exact Holds.leaves htold hoff hl (((Leaves.refl (B := noBytes)).notifyCounter n).mem hwm)
  · have hcount : d.told a bs n = (d.writeAt a bs).addSat (Reg.seqCounter 0 n) 1 := if_pos hn
    have hwf : Assoc.wf regReset (d.told a bs n).regs = true := by
      rw [hcount]
      exact Assoc.wf_set (hc hn).1 _ _
    have hsum := addSat_reg (d := d.writeAt a bs) (hc hn).other 1
    exact (hr hn (Reads.refl hwf _)).2.trans (hcount ▸ hsum)

/-! The end of an exchange. -/

/-- The record of an exchange that failed, and its step bad. -/
def Dev.xchgFailed (d : Dev) (x : XchgRun) (r : Rec) : Dev :=
  (Dev.record { d with xch := { d.xch with ended := ⟨x.cmd.kind, x.layer, x.cmd.microbatch, x.step % 65536⟩ :: d.xch.ended } } r).bad

theorem endXchg_tells (d : Dev) (x : XchgRun) (status peer : Nat) : ∃ r, d.endXchg x status peer =
    if status = 1 then (d.dropXchg x).told x.cmd.status (x.status status peer d.stamp) x.cmd.counter
    else ((d.dropXchg x).told x.cmd.status (x.status status peer d.stamp) x.cmd.counter).xchgFailed x r := ⟨_, rfl⟩

theorem Leaves.xchgFailed {B : Nat → Bool} (h : Leaves B o d) (x : XchgRun) (r : Rec) : Leaves B o (d.xchgFailed x r) :=
  (Leaves.record h.other r).bad

theorem Reads.xchgFailed (h : Reads o d a) (x : XchgRun) (r : Rec) (ha : eventReg a = false) : Reads o (d.xchgFailed x r) a := by
  unfold Dev.xchgFailed
  generalize (⟨x.cmd.kind, x.layer, x.cmd.microbatch, x.step % 65536⟩ :: d.xch.ended) = l
  have hended : Reads o { d with xch := { d.xch with ended := l } } a := h.other
  exact (hended.acts ha [.record r]).other

theorem xchgFailed_runs (d : Dev) (x : XchgRun) (r : Rec) : (d.xchgFailed x r).xch.runs = d.xch.runs :=
  congrArg (·.xch.runs) ((Carried.refl.record r).bad)

theorem xchgStatus_length (x : XchgRun) (status peer : Nat) (done : Dword) : (x.status status peer done).length = 64 := by
  unfold XchgRun.status
  simp

/-- An exchange that has ended is gone. -/
theorem endXchg_gone (d : Dev) (x : XchgRun) (status peer : Nat) : ∀ y ∈ (d.endXchg x status peer).xch.runs, y.id ≠ x.id := by
  intro y hy
  obtain ⟨r, hr⟩ := endXchg_tells d x status peer
  have hruns : (d.endXchg x status peer).xch.runs = (d.dropXchg x).xch.runs := by
    have htold := congrArg (·.xch.runs)
      ((Carried.refl (o := d.dropXchg x)).told x.cmd.status (x.status status peer d.stamp) x.cmd.counter)
    rw [hr]
    split
    · exact htold
    · exact (xchgFailed_runs _ x r).trans htold
  rw [hruns] at hy
  exact of_decide_eq_true (List.mem_filter.mp hy).2

theorem Leaves.endedXchg {B : Nat → Bool} (h : Leaves B o d) (x : XchgRun) (status peer : Nat)
    (hb : ∀ a, B a = true → a < x.cmd.status ∨ x.cmd.status + 64 ≤ a) : Leaves B o (d.endXchg x status peer) := by
  obtain ⟨r, hr⟩ := endXchg_tells d x status peer
  have htold := (h.dropXchg x).told (bs := x.status status peer d.stamp) (by rwa [xchgStatus_length]) x.cmd.counter
  rw [hr]
  exact Leaves.ite htold (htold.xchgFailed x r)

/-- What the end of an exchange tells (R201, R209). -/
theorem endXchg_told (hm : d.mem.wf = true) {x : XchgRun} (hc : x.cmd.counter < 16 → Reads o d (Reg.seqCounter 0 x.cmd.counter))
    (status peer : Nat) : (offLogbook x.cmd.status 64 → (d.endXchg x status peer).Holds x.cmd.status (x.status status peer d.stamp)) ∧
      (x.cmd.counter < 16 → (d.endXchg x status peer).reg (Reg.seqCounter 0 x.cmd.counter) =
        BitVec.ofNat 32 (min ((o.reg (Reg.seqCounter 0 x.cmd.counter)).toNat + 1) 0xFFFFFFFF)) := by
  obtain ⟨r, hr⟩ := endXchg_tells d x status peer
  have hdrop : (d.dropXchg x).mem.wf = true := hm
  have htell := told_tells (a := x.cmd.status) (bs := x.status status peer d.stamp) (e := d.endXchg x status peer) hdrop
    (fun hn => (hc hn).other) (by
      rw [hr]
      exact Leaves.ite .refl (Leaves.refl.xchgFailed x r)) (by
      intro hn hread
      rw [hr]
      exact Reads.ite hread (hread.xchgFailed x r (seqCounter_kept hn).1))
  rwa [xchgStatus_length] at htell

end

end Sys2Proof.Machine

namespace Sys2Proof.Proofs
set_option Elab.async false
open Sys2Proof Sys2Proof.Machine

/-- Settles O35: READY and DATA as their run, or the lack of one, judges them. -/
theorem exchangeMessages : Obligations.ExchangeMessages := by
  unfold Obligations.ExchangeMessages
  intro s m blocks hr hd hm hcls
  refine ⟨fun ht r e hrd he hnone => ?readyNone, fun ht r e x hrd he hrun => ?ready, fun ht hnone => ?dataNone,
    fun ht e x t ps ws hrun he hs hf hp hps hdst hnew hws => ?data⟩
  case readyNone =>
    subst hrd he
    have hx := exec_ready_none (blocks := blocks) hr hm hcls ht hnone
    unfold Dev.keepReady at hx
    refine ⟨fun hlate => by rw [hx, if_pos hlate], fun hlate hroom => ?_, fun hlate hfull => ?_⟩
    · rw [hx, hlate, if_neg Bool.false_ne_true, if_pos hroom]
    · rw [hx, hlate, if_neg Bool.false_ne_true, if_neg (Nat.not_lt.mpr hfull)]
  case ready =>
    subst hrd he
    have hx := exec_ready_run (blocks := blocks) hr hm hcls ht hrun
    refine ⟨fun hlost => by rw [hx, if_pos hlost], fun hkept => ?_⟩
    rw [hkept, if_neg Bool.false_ne_true] at hx
    refine ⟨fun hs => by rw [hx, takeReady_stale hs], fun hs hz => by rw [hx, takeReady_current hs, if_pos hz],
      fun o hs hz ho => ?_⟩
    rw [takeReady_current hs, hz, if_neg (by decide), ho] at hx
    exact ⟨fun hrows => by rw [hx, if_pos (by exact hrows)], fun hrows => by rw [hx, if_neg (by exact hrows)]⟩
  case dataNone =>
    rw [exec_data hr hm hcls ht, Dev.gotData, hnone]
  case data =>
    have hx := exec_data (blocks := blocks) hr hm hcls ht
    rw [Dev.gotData, hrun] at hx
    dsimp only at hx
    rw [takeData_stores _ hs hf hp hps hdst hnew, ← he, ← hws] at hx
    have hk : Keeps true s.dev (e.write ws) := by
      rw [he]
      exact ((Keeps.refl.found _ _).takePacket m).write ws
    have hl : Leaving noBytes s (exec (.data m blocks) s) := leaving_execData m blocks
    refine ⟨fun hkept => ?_, fun hlost => ?_⟩
    · rw [hkept, if_neg Bool.false_ne_true] at hx
      exact ⟨_, hx, hl.sameConfig hx hd, (hk.putXchg _).steady, rfl, rfl⟩
    · rw [hlost, if_pos rfl] at hx
      exact ⟨_, hx, hl.sameConfig hx hd, (hk.endXchg _ _ _).steady, endXchg_gone _ _ _ _, rfl⟩

end Sys2Proof.Proofs

/-! The end of exchanges, reductions and sends (R201, R209, R234, R237, R296, R308). -/
namespace Sys2Proof.Machine
set_option Elab.async false

section
variable {s : State} {o d e : Dev} {m : Packet} {blocks : List BlockFinding} {a : Nat} {B : Nat → Bool}

/-! The time that records show, where reads are checked and bytes stored. -/

/-- `d` shows the time that `o` shows. -/
structure Timed (o d : Dev) : Prop where
  now : d.now = o.now
  shift : d.log.ptpShift = o.log.ptpShift

theorem Timed.refl : Timed o o := ⟨rfl, rfl⟩

theorem Timed.trans (h1 : Timed o d) (h2 : Timed d e) : Timed o e := ⟨h2.now.trans h1.now, h2.shift.trans h1.shift⟩

theorem Timed.stamp (h : Timed o d) : d.stamp = o.stamp := by
  unfold Dev.stamp
  rw [h.now, h.shift]

theorem Timed.ite {c : Prop} [Decidable c] {x y : Dev} (hx : Timed o x) (hy : Timed o y) : Timed o (if c then x else y) := by
  split
  · exact hx
  · exact hy

theorem Timed.foldl {α : Type} {f : Dev → α → Dev} {l : List α} (h : Timed o d) (hf : ∀ x a, Timed x (f x a)) :
    Timed o (l.foldl f d) := by
  induction l generalizing d with
  | nil => exact h
  | cons a l ih => exact ih (h.trans (hf d a))

/-- A change of neither the clock nor the Logbook. -/
theorem Timed.other (h : Timed o d) (hn : e.now = d.now := by rfl) (hl : e.log.ptpShift = d.log.ptpShift := by rfl) : Timed o e :=
  h.trans ⟨hn, hl⟩

theorem Timed.closeLoss (h : Timed o d) (loss : List Byte) : Timed o (d.closeLoss loss).1 := by
  unfold Dev.closeLoss
  split <;> exact h.other

theorem Timed.ite1 {α : Type} {c : Prop} [Decidable c] {x y : Dev × α} (hx : Timed o x.1) (hy : Timed o y.1) :
    Timed o (if c then x else y).1 := by
  split
  · exact hx
  · exact hy

theorem Timed.writeAt (h : Timed o d) (x : Nat) (bs : List Byte) : Timed o (d.writeAt x bs) := h.other

theorem Timed.digestRec (h : Timed o d) (r : Rec) (bytes : List Byte) : Timed o (d.digestRec r bytes) := by
  unfold Dev.digestRec
  exact Timed.ite h h.other

theorem Timed.keepRecord (h : Timed o d) (r : Rec) (loss bytes : List Byte) : Timed o (d.keepRecord r loss bytes).1 := by
  have hput : ∀ x : Dev, Timed x (x.putRecord bytes).1 := fun _ => Timed.other .refl
  exact (Timed.digestRec (h.closeLoss loss).other r bytes).trans (hput _)

theorem Timed.append (h : Timed o d) (r : Rec) : Timed o (d.append r).1 := by
  unfold Dev.append
  have hlost : Timed o (d.loseRecord (d.recBytes r).length) := h.other
  exact Timed.ite1 h (Timed.ite1 hlost (h.keepRecord _ _ _))

theorem Timed.act (h : Timed o d) (x : Act) : Timed o (d.act x).1 := by
  cases x with
  | event p b f =>
    show Timed o (d.event p b f).1
    unfold Dev.event
    split <;> exact h.other
  | record r => exact h.append r
  | edge x =>
    show Timed o (d.edge x).1
    unfold Dev.edge
    split
    · exact h
    · split <;> exact h.other

theorem Timed.runActs (n : Nat) (as : List Act) (h : Timed o d) : Timed o (Dev.runActs n d as) := by
  induction n generalizing d as with
  | zero => exact h
  | succ n ih =>
    cases as with
    | nil => exact h
    | cons x as => exact ih _ (h.act x)

theorem Timed.acts (h : Timed o d) (as : List Act) : Timed o (d.acts as) := h.runActs _ as

theorem Timed.moveTo (h : Timed o d) (p : Page) (c : Nat) : Timed o (d.moveTo p c) := by
  unfold Dev.moveTo
  exact Timed.ite h h.other

theorem Timed.noteLoss (h : Timed o d) (x y : Nat) (met : Met) : Timed o (d.noteLoss x y met) := (Timed.acts h.other _).acts _

theorem Timed.spareRow (h : Timed o d) (x row : Nat) : Timed o (d.spareRow x row) := by
  unfold Dev.spareRow
  dsimp only
  have hspared : ∀ w, Timed o (d.setRemap x w) := fun _ => h.other
  exact Timed.ite (Timed.ite (((hspared _).acts _).acts _) ((hspared _).acts _)) (((h.acts _).moveTo _ _).moveTo _ _)

theorem Timed.slotLoss (h : Timed o d) (state : Nat) : Timed o (d.slotLoss state) := by
  unfold Dev.slotLoss
  dsimp only
  exact Timed.ite h.other (Timed.ite h h.other)

theorem Timed.lossEffect (h : Timed o d) (x : Nat) : Timed o (d.lossEffect x) := by
  unfold Dev.lossEffect
  split
  · exact (h.moveTo _ _).moveTo _ _
  · exact Timed.ite h.other h
  · unfold Dev.jobLoss
    split
    · exact h.slotLoss _
    · exact h.other
  · exact h

theorem Timed.hngFault (h : Timed o d) (i reason mb : Nat) : Timed o (d.hngFault i reason mb) := by
  have hset : ∀ w, Timed o (d.setReg (Reg.hngFaultLast i) w) := fun _ => h.other
  exact Timed.other ((((hset _).acts _).moveTo _ _).acts _)

theorem Timed.hingeLoss (h : Timed o d) (x : Nat) : Timed o (d.hingeLoss x) := by
  unfold Dev.hingeLoss
  refine h.foldl fun y i => ?_
  split
  · exact .refl
  · exact Timed.hngFault (Timed.other (d := y) .refl) _ _ _

theorem Timed.blockFinding (h : Timed o d) (met : Met) (f : BlockFinding) : Timed o (d.blockFinding met f) := by
  unfold Dev.blockFinding
  split
  · exact h
  · have hcount : ∀ w, Timed o (d.setReg (Reg.memCrcTransient (f.addr / stackSpan)) w) := fun _ => h.other
    exact (hcount _).acts _
  · have hwritten : ∀ x bs, Timed o (d.writeAt x bs) := fun _ _ => h.other
    exact ((((hwritten _ _).noteLoss _ _ _).spareRow _ _).lossEffect _).hingeLoss _

theorem Timed.found (h : Timed o d) (written : List (Nat × Nat)) (fs : List BlockFinding) : Timed o (d.found written fs) :=
  h.foldl fun _ f => Timed.refl.blockFinding _ f

theorem Timed.spoil (h : Timed o d) (t : Option Desc) : Timed o (d.spoil t) := by
  unfold Dev.spoil
  split
  · exact h
  · exact h.foldl fun _ _ => Timed.other .refl

/-! What the runs' ends leave in memory. -/

theorem Leaves.leaveOpens (l : List (Nat × Nat)) (h : Leaves B o d) (hb : ∀ r ∈ l, ∀ a, B a = true → a < r.1 ∨ r.1 + r.2 ≤ a) :
    Leaves B o (l.foldl Dev.leaveOpen d) := by
  induction l generalizing d with
  | nil => exact h
  | cons r l ih =>
    refine ih ((h.drawBytes r.2).writeAtApart ?_) fun x hx => hb x (.tail _ hx)
    rw [drawBytes_length]
    exact hb r (.head _)

theorem Leaves.spoils (h : Leaves B o d) (t : Option Desc)
    (hb : ∀ r ∈ (t.map Desc.runs).getD [], ∀ a, B a = true → a < r.1 ∨ r.1 + r.2 ≤ a) : Leaves B o (d.spoil t) := by
  cases t with
  | none => exact h
  | some t => exact Leaves.leaveOpens t.runs h hb

theorem spoil_regs (d : Dev) (t : Option Desc) : (d.spoil t).regs = d.regs := by
  unfold Dev.spoil
  split
  · rfl
  · rename_i t
    generalize t.runs = l
    induction l generalizing d with
    | nil => rfl
    | cons r l ih => exact ih _

theorem Carried.spoil (h : Carried o d) (t : Option Desc) : Carried o (d.spoil t) := by
  unfold Dev.spoil
  split
  · exact h
  · exact h.foldl fun _ _ => Carried.refl.trans rfl

/-- The tally of an exchange is one word for each of 128 experts. -/
theorem Leaves.tallied (h : Leaves B o d) (x : XchgRun)
    (hb : x.cmd.kind = 0 → x.cmd.tally ≠ 0 → ∀ a, B a = true → a < x.cmd.tally ∨ x.cmd.tally + 512 ≤ a) : Leaves B o (d.addTally x) := by
  unfold Dev.addTally
  split
  · rename_i hk
    dsimp only
    refine h.writeAtApart ?_
    have hlen : ∀ l : List (Nat × Nat), ((l.map fun r => natBytes 4 (readNat d.src (x.cmd.tally + 4 * r.2) 4 + r.1)).flatten).length =
        4 * l.length := by
      intro l
      induction l with
      | nil => rfl
      | cons r l ih =>
        rw [List.map_cons, List.flatten_cons, List.length_append, ih, natBytes_length, List.length_cons]
        omega
    rw [hlen, List.length_zipIdx]
    unfold recordAt
    rw [List.length_map, List.length_range, show 4 * 128 = 512 from rfl]
    exact hb hk.1 hk.2
  · exact h

theorem writeAt_regs (d : Dev) (x : Nat) (bs : List Byte) : (d.writeAt x bs).regs = d.regs := rfl

theorem addTally_kept (d : Dev) (x : XchgRun) : (d.addTally x).regs = d.regs ∧ Timed d (d.addTally x) := by
  unfold Dev.addTally
  split
  · exact ⟨writeAt_regs _ _ _, Timed.refl.writeAt _ _⟩
  · exact ⟨rfl, .refl⟩

/-! The end of a reduction. -/

theorem redStatus_length (r : RedRun) (status peer : Nat) (done : Dword) : (r.status status peer done).length = 64 := by
  unfold RedRun.status
  simp

/-- A reduction's run gone. -/
def Dev.dropRed (d : Dev) (r : RedRun) : Dev := { d with red := { d.red with runs := d.red.runs.filter fun x => x.id ≠ r.id } }

/-- A reduction that ends in time. -/
theorem endRed_done (d : Dev) (r : RedRun) (peer : Nat) : d.endRed r 1 peer =
    ((d.dropRed r).told r.cmd.status (r.status 1 peer d.stamp) r.cmd.counter).addSat Reg.redCommands 1 := rfl

/-- A reduction that has failed, its destination left open. -/
def Dev.failRed (d : Dev) (r : RedRun) : Dev := (d.putRed { r with phase := .failed }).spoil r.cmd.dst

/-- A reduction that fails. -/
theorem endRed_failed (d : Dev) (r : RedRun) {status : Nat} (hs : status = 8 ∨ status = 9) (peer : Nat) : ∃ x w, d.endRed r status peer =
    ((((d.failRed r).told r.cmd.status (r.status status peer (d.failRed r).stamp) r.cmd.counter).addSat Reg.redCommands 1).setReg
      Reg.redFaultLast w).faulted redPage (if status = 8 then 4 else 3) x := by
  rcases hs with rfl | rfl <;> exact ⟨_, _, rfl⟩

theorem dropRed_gone (d : Dev) (r : RedRun) : ∀ y ∈ (d.dropRed r).redLive, y.id ≠ r.id := by
  intro y hy
  exact of_decide_eq_true (List.mem_filter.mp (List.mem_filter.mp hy).1).2

theorem putRed_failed (d : Dev) (r : RedRun) : ∀ y ∈ (d.putRed { r with phase := .failed }).redLive, y.id ≠ r.id := by
  intro y hy hid
  obtain ⟨hmem, hphase⟩ := List.mem_filter.mp hy
  obtain ⟨z, -, hz⟩ := List.mem_map.mp hmem
  by_cases hzid : z.id = r.id
  · rw [if_pos hzid] at hz
    rw [← hz] at hphase
    exact absurd rfl (of_decide_eq_true hphase)
  · rw [if_neg hzid] at hz
    exact hzid (hz ▸ hid)

theorem Carried.redLive (h : Carried o d) : d.redLive = o.redLive := 
  (congrArg Dev.redLive h).trans rfl

end

end Sys2Proof.Machine

/-! What the end of exchanges, reductions and sends tells (R201, R209, R234, R237, R308). -/
namespace Sys2Proof.Machine
set_option Elab.async false

section
variable {s : State} {o d e : Dev} {blocks : List BlockFinding} {a : Nat} {B : Nat → Bool}

theorem Carried.addSat (h : Carried o d) (a n : Nat) : Carried o (d.addSat a n) := h.setReg _ _

/-! The end of a reduction. -/

theorem redReg_kept {n : Nat} (hn : n < 16) : Reg.seqCounter 0 n ≠ Reg.redCommands ∧ Reg.seqCounter 0 n ≠ Reg.redFaultLast ∧
    Reg.seqCounter 0 n ≠ stateReg redPage := by
  revert n
  decide

theorem Leaves.endedRed (h : Leaves B o d) (r : RedRun) (peer : Nat)
    (hb : ∀ a, B a = true → a < r.cmd.status ∨ r.cmd.status + 64 ≤ a) : Leaves B o (d.endRed r 1 peer) := by
  have hdrop : Leaves B o (d.dropRed r) := h.other
  rw [endRed_done]
  exact (hdrop.told (by rwa [redStatus_length]) _).addSat _ _

theorem Leaves.failedRed (h : Leaves B o d) (r : RedRun) {status : Nat} (hs : status = 8 ∨ status = 9) (peer : Nat)
    (hb : ∀ a, B a = true → a < r.cmd.status ∨ r.cmd.status + 64 ≤ a)
    (hdst : ∀ x ∈ (r.cmd.dst.map Desc.runs).getD [], ∀ a, B a = true → a < x.1 ∨ x.1 + x.2 ≤ a) :
    Leaves B o (d.endRed r status peer) := by
  obtain ⟨x, w, hx⟩ := endRed_failed d r hs peer
  have hfail : Leaves B o (d.failRed r) := (h.putRed _).spoils _ hdst
  rw [hx]
  exact (((((hfail.told (by rwa [redStatus_length]) _).addSat _ _).setReg _ _).raise _ _).pageFault _ |>.record _).bad

/-- A reduction that ended in time: gone, and what its end tells (R234). -/
theorem endRed_told (hm : d.mem.wf = true) {r : RedRun} (hc : r.cmd.counter < 16 → Reads o d (Reg.seqCounter 0 r.cmd.counter))
    (peer : Nat) : (∀ y ∈ (d.endRed r 1 peer).redLive, y.id ≠ r.id) ∧
      (offLogbook r.cmd.status 64 → (d.endRed r 1 peer).Holds r.cmd.status (r.status 1 peer d.stamp)) ∧
      (r.cmd.counter < 16 → (d.endRed r 1 peer).reg (Reg.seqCounter 0 r.cmd.counter) =
        BitVec.ofNat 32 (min ((o.reg (Reg.seqCounter 0 r.cmd.counter)).toNat + 1) 0xFFFFFFFF)) := by
  rw [endRed_done]
  have hdrop : (d.dropRed r).mem.wf = true := hm
  have htell := told_tells (a := r.cmd.status) (bs := r.status 1 peer d.stamp) hdrop (fun hn => (hc hn).other)
    (Leaves.refl.addSat Reg.redCommands 1) fun hn hread => hread.addSat (redReg_kept hn).1 1
  rw [redStatus_length] at htell
  refine ⟨fun y hy => ?_, htell⟩
  rw [((Carried.refl.told r.cmd.status (r.status 1 peer d.stamp) r.cmd.counter).addSat Reg.redCommands 1).redLive] at hy
  exact dropRed_gone d r y hy

theorem failRed_kept (d : Dev) (r : RedRun) : (d.failRed r).regs = d.regs ∧ (d.failRed r).stamp = d.stamp ∧
    ∀ y ∈ (d.failRed r).redLive, y.id ≠ r.id := by
  refine ⟨spoil_regs _ _, (Timed.spoil (Timed.other (d := d) .refl) _).stamp, fun y hy => ?_⟩
  rw [show (d.failRed r).redLive = _ from (Carried.refl.spoil r.cmd.dst).redLive] at hy
  exact putRed_failed d r y hy

/-- A reduction that fails: out of the way, what its end tells, its page in FAULT (R237). -/
theorem endRed_fails (hm : d.mem.wf = true) (hd : Assoc.wf regReset d.regs = true) {r : RedRun}
    (hc : r.cmd.counter < 16 → Reads o d (Reg.seqCounter 0 r.cmd.counter)) {status : Nat} (hs : status = 8 ∨ status = 9) (peer : Nat) :
    (∀ y ∈ (d.endRed r status peer).redLive, y.id ≠ r.id) ∧
      ((offLogbook r.cmd.status 64 → (d.endRed r status peer).Holds r.cmd.status (r.status status peer d.stamp)) ∧
        (r.cmd.counter < 16 → (d.endRed r status peer).reg (Reg.seqCounter 0 r.cmd.counter) =
          BitVec.ofNat 32 (min ((o.reg (Reg.seqCounter 0 r.cmd.counter)).toNat + 1) 0xFFFFFFFF))) ∧
      (d.endRed r status peer).code redPage = 7 ∧ (d.endRed r status peer).pend redPage (if status = 8 then 4 else 3) = true := by
  obtain ⟨x, w, hx⟩ := endRed_failed d r hs peer
  obtain ⟨hregs, hstamp, hgone⟩ := failRed_kept d r
  have hfm : (d.failRed r).mem.wf = true := (((Leaves.refl (B := noBytes)).putRed _).spoil r.cmd.dst).mem hm
  have hfd : Assoc.wf regReset (d.failRed r).regs = true := by rwa [hregs]
  rw [hx, hstamp]
  have hevent : (if status = 8 then 4 else 3) < 32 := by split <;> decide
  have htwf : Assoc.wf regReset ((d.failRed r).told r.cmd.status (r.status status peer d.stamp) r.cmd.counter).regs = true :=
    (((Leaves.refl (B := noBytes)).writeAt r.cmd.status (r.status status peer d.stamp)).notifyCounter r.cmd.counter).regs hfd
  have htell := fun e => told_tells (o := o) (e := e) (a := r.cmd.status) (bs := r.status status peer d.stamp) (n := r.cmd.counter) hfm
    (fun hn => (hc hn).other hregs)
  rw [redStatus_length] at htell
  have hlive := (Carried.refl.told r.cmd.status (r.status status peer d.stamp) r.cmd.counter : Carried (d.failRed r) _).redLive
  generalize (d.failRed r).told r.cmd.status (r.status status peer d.stamp) r.cmd.counter = y at htwf htell hlive
  have hset : Assoc.wf regReset ((y.addSat Reg.redCommands 1).setReg Reg.redFaultLast w).regs = true :=
    Assoc.wf_set (Assoc.wf_set htwf _ _) _ _
  obtain ⟨hcode, hpend⟩ := faulted_state hset redPage hevent x
  refine ⟨fun z hz => ?_, htell _ ?_ fun hn hread => ?_, hcode, hpend⟩
  · rw [(((Carried.refl.addSat Reg.redCommands 1).setReg Reg.redFaultLast w).faulted redPage _ x).redLive, hlive] at hz
    exact hgone z hz
  · exact (((((Leaves.refl.addSat Reg.redCommands 1).setReg Reg.redFaultLast w).raise redPage _).pageFault redPage).record x).bad
  · obtain ⟨hcom, hlast, hstate⟩ := redReg_kept hn
    exact ((hread.addSat hcom 1).setReg w hlast).faulted redPage _ x (seqCounter_kept hn).1 hstate

/-! The end of a send. -/

theorem sendStatus_length (r : SendRun) (status sent : Nat) (done : Dword) : (r.status status sent done).length = 32 := by
  unfold SendRun.status
  simp

/-- A send's run gone, its blocks dropped. -/
def Dev.dropSend (d : Dev) (r : SendRun) : Dev :=
  { d with
    snd := { d.snd with runs := d.snd.runs.filter fun x => x.id ≠ r.id }
    ports := d.ports.map fun p => { p with queues := p.queues.map fun q => q.filter fun x => x.owner ≠ r.id }
    cht := { d.cht with stuck := d.cht.stuck.filter (· ≠ r.id) } }

/-- The blocks of a send that its ports have accepted. -/
def Dev.accepted (d : Dev) (r : SendRun) : Nat := if r.going then r.blocks - d.unsent r.id else 0

theorem closeSend_tells (d : Dev) (r : SendRun) (status : Nat) : ∃ x, d.closeSend r status =
    if status = 2 ∨ status = 3
    then (((d.dropSend r).told r.cmd.status (r.status status (d.accepted r) d.stamp) r.cmd.counter).record x).bad
    else (d.dropSend r).told r.cmd.status (r.status status (d.accepted r) d.stamp) r.cmd.counter := ⟨_, rfl⟩

theorem Carried.sends (h : Carried o d) : d.snd.runs = o.snd.runs := congrArg (·.snd.runs) h

theorem Leaves.closedSend (h : Leaves B o d) (r : SendRun) (status : Nat)
    (hb : ∀ a, B a = true → a < r.cmd.status ∨ r.cmd.status + 32 ≤ a) : Leaves B o (d.closeSend r status) := by
  obtain ⟨x, hx⟩ := closeSend_tells d r status
  have hdrop : Leaves B o (d.dropSend r) := h.other
  have htold := hdrop.told (bs := r.status status (d.accepted r) d.stamp) (by rwa [sendStatus_length]) r.cmd.counter
  rw [hx]
  exact Leaves.ite (htold.record x).bad htold

theorem closeSend_gone (d : Dev) (r : SendRun) (status : Nat) : ∀ y ∈ (d.closeSend r status).snd.runs, y.id ≠ r.id := by
  intro y hy
  obtain ⟨x, hx⟩ := closeSend_tells d r status
  have htold := Carried.refl.told (o := d.dropSend r) r.cmd.status (r.status status (d.accepted r) d.stamp) r.cmd.counter
  rw [hx, (Carried.ite (htold.record x).bad htold).sends] at hy
  exact of_decide_eq_true (List.mem_filter.mp hy).2

theorem Carried.notAccepted (h : Carried o d) (owner n : Nat) : Carried o (d.notAccepted owner n) := by
  unfold Dev.notAccepted
  exact Carried.ite h (h.trans rfl)

theorem Carried.digestOut (h : Carried o d) (i : Nat) (ps : List (List Byte)) : Carried o (d.digestOut i ps) := h.trans rfl

/-- A packet put on the pipeline stands in the queues alone. -/
theorem Carried.sendPipeline (h : Carried o d) (dest owner : Nat) (ps : List (List Byte)) :
    Carried o (d.sendPipeline dest owner ps) ∧ Confined [0x00F] d (d.sendPipeline dest owner ps) := by
  unfold Dev.sendPipeline
  dsimp only
  generalize (0 : Nat) = n
  have hstep : ∀ (l : List (List Byte)) (k : Nat) (x : Dev), Carried o x → Confined [0x00F] d x → ∀ f : Nat × Dev → List Byte → Nat × Dev,
      (∀ y p, Carried y.2 (f y p).2 ∧ Confined [0x00F] y.2 (f y p).2) →
      Carried o (l.foldl f (k, x)).2 ∧ Confined [0x00F] d (l.foldl f (k, x)).2 := by
    intro l
    induction l with
    | nil => exact fun k x hc hd f hf => ⟨hc, hd⟩
    | cons p l ih => exact fun k x hc hd f hf => ih _ _ (hc.trans (hf (k, x) p).1) (hd.trans (hf (k, x) p).2) f hf
  refine hstep ps n d h .refl _ fun y p => ?_
  dsimp only
  have hout : Carried y.2 (y.2.digestOut y.1 [p]) := Carried.refl.digestOut _ _
  have hconf : Confined [0x00F] y.2 (y.2.digestOut y.1 [p]) := Confined.refl.other
  split
  · refine ⟨hout.notAccepted _ _, ?_⟩
    unfold Dev.notAccepted
    exact Confined.ite hconf hconf.other
  · have hloop : ∀ q : List Packet, Carried y.2 { y.2.digestOut y.1 [p] with cht := { (y.2.digestOut y.1 [p]).cht with loop := q } } :=
      fun _ => hout.trans rfl
    exact ⟨Carried.ite (hloop _) (Carried.ite hout (hout.forward _ _)),
      Confined.ite hconf.other (Confined.ite hconf (hconf.forward _ _ (.head _)))⟩

/-- The next send of a stream keeps its number. -/
theorem startSend_ids (d : Dev) (dest hinge n : Nat) (h : ∀ y ∈ d.snd.runs, y.id ≠ n) :
    ∀ y ∈ (d.startSend dest hinge).snd.runs, y.id ≠ n := by
  unfold Dev.startSend
  split
  · rename_i r hfind
    have hr : r.id ≠ n := h r (List.mem_of_find?_eq_some hfind)
    split
    · exact h
    · intro y hy
      dsimp only at hy
      rw [(Carried.sendPipeline .refl _ _ _).1.sends] at hy
      obtain ⟨z, hz, rfl⟩ := List.mem_map.mp hy
      split
      · exact hr
      · exact h z hz
  · exact h

theorem startSend_confined (d : Dev) (dest hinge : Nat) : Confined [0x00F] d (d.startSend dest hinge) := by
  unfold Dev.startSend
  split
  · refine Confined.ite .refl ?_
    have hput : ∀ r, Confined [0x00F] d (d.putSend r) := fun _ => Confined.refl.other
    exact (hput _).trans (Carried.sendPipeline .refl _ _ _).2
  · exact .refl

/-- What the end of a send tells (R296, R308). -/
theorem endSend_told (hm : d.mem.wf = true) {r : SendRun} (hc : r.cmd.counter < 16 → Reads o d (Reg.seqCounter 0 r.cmd.counter))
    (status : Nat) : (∀ y ∈ (d.endSend r status).snd.runs, y.id ≠ r.id) ∧
      (offLogbook r.cmd.status 32 → (d.endSend r status).Holds r.cmd.status (r.status status (d.accepted r) d.stamp)) ∧
      (r.cmd.counter < 16 → (d.endSend r status).reg (Reg.seqCounter 0 r.cmd.counter) =
        BitVec.ofNat 32 (min ((o.reg (Reg.seqCounter 0 r.cmd.counter)).toNat + 1) 0xFFFFFFFF)) := by
  obtain ⟨x, hx⟩ := closeSend_tells d r status
  have hdrop : (d.dropSend r).mem.wf = true := hm
  refine ⟨startSend_ids _ _ _ _ (closeSend_gone d r status), ?_⟩
  have htell := told_tells (a := r.cmd.status) (bs := r.status status (d.accepted r) d.stamp) (n := r.cmd.counter)
    (e := d.endSend r status) hdrop (fun hn => (hc hn).other) ?_ fun hn hread => ?_
  · rwa [sendStatus_length] at htell
  · unfold Dev.endSend
    rw [hx]
    exact (Leaves.ite (Leaves.refl.record x).bad .refl).startSend _ _
  · have hclosed : Reads ((d.dropSend r).told r.cmd.status (r.status status (d.accepted r) d.stamp) r.cmd.counter)
        (d.closeSend r status) (Reg.seqCounter 0 r.cmd.counter) := by
      rw [hx]
      have hrec := hread.acts (seqCounter_kept hn).1 [.record x]
      exact Reads.ite (Reads.other hrec) hread
    exact hclosed.confined (startSend_confined _ _ _) (seqCounter_kept hn).1 (by rw [(seqCounter_kept hn).2.2]; decide)

/-! The steps. -/

theorem exec_xchgComplete (hr : s.carrier.phase = .running) {kind slot mb : Nat} {x : XchgRun} (hx : s.dev.xchgOf kind slot mb = some x)
    (ho : s.dev.xchgOver x = true) : exec (.xchgComplete kind slot mb blocks) s = .next { s with dev :=
      (((s.dev.found [(x.cmd.status, 64), (x.cmd.tally, 512)] blocks).addTally x).endXchg x (if s.dev.loses blocks then 8 else 1) 0xFFFF) } := by
  show execXchgComplete kind slot mb s blocks = _
  refine act_next hr ?_
  simp only [hx, ho, if_true]

theorem exec_xchgTimeout (hr : s.carrier.phase = .running) {kind slot mb : Nat} {x : XchgRun} (hx : s.dev.xchgOf kind slot mb = some x)
    (ho : s.dev.xchgOver x = false) (ht : x.issued + us (if x.cmd.timeoutUs = 0 then max 1 (s.dev.fld Reg.cmpTimeout 19 0)
      else x.cmd.timeoutUs) ≤ s.dev.now) :
    exec (.xchgTimeout kind slot mb) s = .next { s with dev := s.dev.endXchg x 7 x.silent } := by
  show execXchgTimeout kind slot mb s = _
  refine act_next hr ?_
  simp only [hx]
  exact if_pos ⟨decide_eq_true ht, by rw [ho]; rfl⟩

theorem exec_reduceComplete (hr : s.carrier.phase = .running) {slot : Nat} {r : RedRun} (hx : s.dev.redLive[slot]? = some r)
    (hp : r.phase = .written) : exec (.reduceComplete slot blocks) s = .next { s with dev :=
      ((s.dev.found r.written blocks).endRed r (if s.dev.loses blocks then 9 else 1) 0xFFFF) } := by
  show execReduceComplete slot s blocks = _
  refine act_next hr ?_
  simp only [hx, hp, if_true]

theorem exec_reduceTimeout (hr : s.carrier.phase = .running) {slot : Nat} {r : RedRun} (hx : s.dev.redLive[slot]? = some r)
    (hp : r.phase = .live) (ht : r.issued + us (if r.cmd.timeoutUs = 0 then max 1 (s.dev.fld Reg.redTimeout 19 0)
      else r.cmd.timeoutUs) ≤ s.dev.now) :
    exec (.reduceTimeout slot) s = .next { s with dev := s.dev.endRed r 8 (r.silent s.dev.self) } := by
  show execReduceTimeout slot s = _
  refine act_next hr ?_
  simp only [hx]
  exact if_pos ⟨hp, decide_eq_true ht⟩

theorem exec_sendComplete (hr : s.carrier.phase = .running) {id : Nat} {r : SendRun} (hx : s.dev.sendRun id = some r)
    (ho : s.dev.sendOver r = true) : exec (.sendComplete id blocks) s = .next { s with dev :=
      ((s.dev.found [(r.cmd.status, 32)] blocks).endSend r (if s.dev.loses blocks then 3 else 1)) } := by
  show execSendComplete id s blocks = _
  refine act_next hr ?_
  simp only [hx, ho, if_true]

theorem exec_sendTimeout (hr : s.carrier.phase = .running) {id : Nat} {r : SendRun} (hx : s.dev.sendRun id = some r)
    (ho : s.dev.sendOver r = false) (ht : r.issued + us (if r.cmd.timeoutUs = 0 then 100000 else r.cmd.timeoutUs) ≤ s.dev.now) :
    exec (.sendTimeout id) s = .next { s with dev := s.dev.endSend r 2 } := by
  show execSendTimeout id s = _
  refine act_next hr ?_
  simp only [hx]
  exact if_pos ⟨decide_eq_true ht, by rw [ho]; rfl⟩

end

end Sys2Proof.Machine

namespace Sys2Proof.Proofs
set_option Elab.async false
open Sys2Proof Sys2Proof.Machine

/-- Settles O37: each run's end, in time and by its timeout. -/
theorem runsEnd : Obligations.RunsEnd := by
  unfold Obligations.RunsEnd
  intro s blocks hr hd
  have hfound : ∀ w, Timed s.dev (s.dev.found w blocks) := fun w => Timed.refl.found w blocks
  have hmem : ∀ w, (s.dev.found w blocks).mem.wf = true := fun w => ((Leaves.refl (B := noBytes)).found w blocks).mem hd.1
  have hread : ∀ w n, n < 16 → Reads s.dev (s.dev.found w blocks) (Reg.seqCounter 0 n) := fun w n hn =>
    (Reads.refl hd.2 _).found (seqCounter_kept hn).2.1 w blocks
  have hown : ∀ n, n < 16 → Reads s.dev s.dev (Reg.seqCounter 0 n) := fun n _ => Reads.refl hd.2 _
  refine ⟨fun kind slot mb x hx => ⟨fun ho => ?xchgOver, fun ho ht => ?xchgLate⟩,
    fun slot r hx => ⟨fun hp => ?redOver, fun hp ht => ?redLate⟩, fun id r hx => ⟨fun ho => ?sendOver, fun ho ht => ?sendLate⟩⟩
  case xchgOver =>
    have hexec := exec_xchgComplete (blocks := blocks) hr hx ho
    have hleaves : Leaves (apart blocks [(x.cmd.status, 64), (x.cmd.tally, if x.cmd.kind = 0 ∧ x.cmd.tally ≠ 0 then 512 else 0)]) s.dev
        ((s.dev.found [(x.cmd.status, 64), (x.cmd.tally, 512)] blocks).addTally x) := by
      refine (Leaves.refl.foundApart _).tallied x fun hk ht a ha => ?_
      have haway := apart_range ha (.tail _ (.head _))
      rwa [if_pos ⟨hk, ht⟩] at haway
    obtain ⟨hregs, htimed⟩ := addTally_kept (s.dev.found [(x.cmd.status, 64), (x.cmd.tally, 512)] blocks) x
    have htold := endXchg_told (o := s.dev) (x := x) (hleaves.mem hd.1) (fun hn => (hread _ _ hn).other hregs)
      (if s.dev.loses blocks then 8 else 1) 0xFFFF
    rw [((hfound _).trans htimed).stamp] at htold
    have hend := hleaves.endedXchg x (if s.dev.loses blocks then 8 else 1) 0xFFFF fun a ha => apart_range ha (.head _)
    exact ⟨_, hexec, (((Keeps.refl.found _ _).addTally x).endXchg _ _ _).steady, hend.sameConfig hd, endXchg_gone _ _ _ _,
      htold.1, htold.2, hend.sameBut hd⟩
  case xchgLate =>
    have hexec := exec_xchgTimeout hr hx ho ht
    have htold := endXchg_told (o := s.dev) (x := x) hd.1 (hown _) 7 x.silent
    have hend : Leaves (apart [] [(x.cmd.status, 64)]) s.dev (s.dev.endXchg x 7 x.silent) :=
      Leaves.refl.endedXchg x 7 x.silent fun a ha => apart_range ha (.head _)
    exact ⟨_, hexec, (Keeps.refl.endXchg _ _ _).steady, hend.sameConfig hd, endXchg_gone _ _ _ _, htold.1, htold.2, hend.sameBut hd⟩
  case redOver =>
    have hexec := exec_reduceComplete (blocks := blocks) hr hx hp
    have hk : Keeps true s.dev ((s.dev.found r.written blocks).endRed r (if s.dev.loses blocks then 9 else 1) 0xFFFF) :=
      (Keeps.refl.found _ _).endRed _ _ _
    have hconfig : s.dev.SameConfig ((s.dev.found r.written blocks).endRed r (if s.dev.loses blocks then 9 else 1) 0xFFFF) :=
      ((Leaves.refl (B := noBytes)).found _ _ |>.endRed _ _ _).sameConfig hd
    cases hlost : s.dev.loses blocks with
    | false =>
      rw [hlost] at hexec hk hconfig
      obtain ⟨hgone, htold⟩ := endRed_told (r := r) (hmem r.written) (hread _ _) 0xFFFF
      rw [(hfound _).stamp] at htold
      have hend : Leaves (apart blocks [(r.cmd.status, 64)]) s.dev ((s.dev.found r.written blocks).endRed r 1 0xFFFF) :=
        (Leaves.refl.foundApart _).endedRed r _ fun a ha => apart_range ha (.head _)
      exact ⟨_, hexec, hk.steady, hconfig, hgone, htold.1, htold.2, fun _ => hend.sameBut hd, fun h => absurd h Bool.false_ne_true⟩
    | true =>
      rw [hlost] at hexec hk hconfig
      obtain ⟨hgone, htold, hcode, hpend⟩ := endRed_fails (r := r) (hmem r.written) (Dev.found_wf s.dev _ _ hd.2) (hread _ _) (.inr rfl) 0xFFFF
      rw [(hfound _).stamp] at htold
      have hend : Leaves (apart blocks ((r.cmd.status, 64) :: (r.cmd.dst.map Desc.runs).getD [])) s.dev
          ((s.dev.found r.written blocks).endRed r 9 0xFFFF) :=
        (Leaves.refl.foundApart _).failedRed r (.inr rfl) _ (fun a ha => apart_range ha (.head _))
          fun y hy a ha => apart_range ha (.tail _ hy)
      exact ⟨_, hexec, hk.steady, hconfig, hgone, htold.1, htold.2, fun h => absurd h.symm Bool.false_ne_true,
        fun _ => ⟨hcode, hpend, hend.sameBut hd⟩⟩
  case redLate =>
    have hexec := exec_reduceTimeout hr hx hp ht
    obtain ⟨hgone, htold, hcode, hpend⟩ := endRed_fails (r := r) hd.1 hd.2 (hown _) (.inl rfl) (r.silent s.dev.self)
    have hend : Leaves (apart [] ((r.cmd.status, 64) :: (r.cmd.dst.map Desc.runs).getD [])) s.dev
        (s.dev.endRed r 8 (r.silent s.dev.self)) :=
      Leaves.refl.failedRed r (.inl rfl) _ (fun a ha => apart_range ha (.head _)) fun y hy a ha => apart_range ha (.tail _ hy)
    exact ⟨_, hexec, (Keeps.refl.endRed _ _ _).steady, hend.sameConfig hd, hgone, htold.1, htold.2, hcode, hpend, hend.sameBut hd⟩
  case sendOver =>
    have hexec := exec_sendComplete (blocks := blocks) hr hx ho
    have hgoing : r.going = true := by
      unfold Dev.sendOver at ho
      exact (Bool.and_eq_true _ _ ▸ ho).1
    obtain ⟨hgone, htold⟩ := endSend_told (r := r) (hmem [(r.cmd.status, 32)]) (hread _ _) (if s.dev.loses blocks then 3 else 1)
    have haccepted : (s.dev.found [(r.cmd.status, 32)] blocks).accepted r = r.blocks - s.dev.unsent r.id := by
      unfold Dev.accepted Dev.unsent
      rw [if_pos hgoing, Dev.found_cht, Dev.found_ports]
    rw [(hfound _).stamp, haccepted] at htold
    have hend : Leaves (apart blocks [(r.cmd.status, 32)]) s.dev
        ((s.dev.found [(r.cmd.status, 32)] blocks).endSend r (if s.dev.loses blocks then 3 else 1)) :=
      ((Leaves.refl.foundApart _).closedSend r _ fun a ha => apart_range ha (.head _)).startSend _ _
    exact ⟨_, hexec, ((Keeps.refl.found _ _).endSend _ _).steady, hend.sameConfig hd, hgone, htold.1, htold.2, hend.sameBut hd⟩
  case sendLate =>
    have hexec := exec_sendTimeout hr hx ho ht
    obtain ⟨hgone, htold⟩ := endSend_told (r := r) hd.1 (hown _) 2
    have hend : Leaves (apart [] [(r.cmd.status, 32)]) s.dev (s.dev.endSend r 2) :=
      (Leaves.refl.closedSend r 2 fun a ha => apart_range ha (.head _)).startSend _ _
    exact ⟨_, hexec, (Keeps.refl.endSend _ _).steady, hend.sameConfig hd, hgone, htold.1, htold.2, hend.sameBut hd⟩

end Sys2Proof.Proofs

/-! Messages of reductions (R230, R233, R236). -/
namespace Sys2Proof.Machine
set_option Elab.async false

section
variable {s : State} {o d e : Dev} {m : Packet} {blocks : List BlockFinding} {a : Nat} {B : Nat → Bool}

theorem step_reads (h : ∀ a ∈ [Reg.chtStepLo, Reg.chtStepLo + 4], d.reg a = o.reg a) : d.step = o.step := by
  unfold Dev.step Dev.pair
  rw [h _ (.head _), h _ (.tail _ (.head _))]

theorem found_step (hd : Assoc.wf regReset d.regs = true) (written : List (Nat × Nat)) (fs : List BlockFinding) :
    (d.found written fs).step = d.step := by
  refine step_reads fun a ha => ((Reads.refl hd a).found ?_ written fs).2
  revert a
  decide

theorem takePacket_step (d : Dev) (m : Packet) : (d.takePacket m).step = d.step := step_reads fun a _ => takePacket_reg d m a

/-- What a message of a reduction does. -/
def Dev.gotRed (d : Dev) (m : Packet) (blocks : List BlockFinding) : Dev :=
  match (d.redCands (redHdrOf m.body)).find? fun r => !r.endedBy (redHdrOf m.body) with
  | some r => ((d.found r.written blocks).receiveRed m).loseRed (d.loses blocks) r.id
  | none => d.receiveRed m

theorem redMessage_got (hr : s.carrier.phase = .running) (hm : s.dev.has m = true) {cls : Nat} (hcls : m.cls = cls) {ok : Nat → Bool}
    (hok : ok (u8 m.body 0) = true) : s.redMessage m blocks cls ok = .next { s with dev := s.dev.gotRed m blocks } := by
  refine act_next hr ?_
  rw [hm, hcls, hok, BEq.rfl]
  rfl

/-- The rows of the messages of reductions. -/
theorem exec_redMessage (hr : s.carrier.phase = .running) (hm : s.dev.has m = true) {i : Instr}
    (hi : m.cls = 3 ∧ (u8 m.body 0 = 16 ∧ i = .agree m blocks ∨ u8 m.body 0 = 17 ∧ i = .ec48 m blocks ∨
      u8 m.body 0 = 18 ∧ i = .topk m blocks ∨ u8 m.body 0 = 19 ∧ i = .sign m blocks ∨ u8 m.body 0 = 20 ∧ i = .fast m blocks ∨
      u8 m.body 0 = 21 ∧ i = .tally m blocks) ∨ m.cls = 0 ∧ u8 m.body 0 = 22 ∧ i = .consensus m blocks) :
    exec i s = .next { s with dev := s.dev.gotRed m blocks } ∧ Leaving noBytes s (exec i s) := by
  have hrow : ∀ cls ok, m.cls = cls → ok (u8 m.body 0) = true → s.redMessage m blocks cls ok =
      .next { s with dev := s.dev.gotRed m blocks } ∧ Leaving noBytes s (s.redMessage m blocks cls ok) :=
    fun cls ok hcls hok => ⟨redMessage_got hr hm hcls hok, Leaving.redMessage⟩
  rcases hi with ⟨hcls, ht⟩ | ⟨hcls, ht, rfl⟩
  · rcases ht with ⟨ht, rfl⟩ | ⟨ht, rfl⟩ | ⟨ht, rfl⟩ | ⟨ht, rfl⟩ | ⟨ht, rfl⟩ | ⟨ht, rfl⟩
    · exact hrow 3 (fun t => t == 16 || decide (t < 16 ∨ 21 < t)) hcls (by rw [ht]; rfl)
    · exact hrow 3 (fun t => t == 17) hcls (by rw [ht]; rfl)
    · exact hrow 3 (fun t => t == 18) hcls (by rw [ht]; rfl)
    · exact hrow 3 (fun t => t == 19) hcls (by rw [ht]; rfl)
    · exact hrow 3 (fun t => t == 20) hcls (by rw [ht]; rfl)
    · exact hrow 3 (fun t => t == 21) hcls (by rw [ht]; rfl)
  · exact hrow 0 (fun t => t == 22) hcls (by rw [ht]; rfl)

/-- A stale message signalled and counted. -/
def Dev.countStale (d : Dev) : Dev := (d.addSat Reg.redStale 1).raise redPage 5

/-- A stale message counted in the run that it is about, where one runs. -/
def Dev.staleRun (d : Dev) (h : RedHdr) : Dev :=
  match d.red.runs.find? fun r => r.phase = .live ∧ r.cmd.group = h.group ∧ r.cmd.layer = h.layer with
  | some r => d.putRed { r with stale := r.stale + 1 }
  | none => d

theorem receiveRed_stale (hs : (redHdrOf m.body).step ≠ d.step % 65536) :
    d.receiveRed m = ((d.takePacket m).countStale).staleRun (redHdrOf m.body) := by
  unfold Dev.receiveRed
  dsimp only
  rw [takePacket_step, if_pos hs]
  rfl

theorem receiveRed_current (hs : (redHdrOf m.body).step = d.step % 65536) : d.receiveRed m =
    (if (redHdrOf m.body).flags.testBit 1 then (d.takePacket m).setFlag Reg.redStepNf 1 true else d.takePacket m).takeRed m := by
  unfold Dev.receiveRed
  dsimp only
  rw [takePacket_step, if_neg (not_not_intro hs)]

theorem Keeps.staleRun (h : Keeps true o d) (x : RedHdr) : Keeps true o (d.staleRun x) := by
  unfold Dev.staleRun
  split
  · exact h.putRed _
  · exact h

theorem Leaves.staleRun (h : Leaves B o d) (x : RedHdr) : Leaves B o (d.staleRun x) := by
  unfold Dev.staleRun
  split
  · exact h.putRed _
  · exact h

theorem staleRun_regs (d : Dev) (x : RedHdr) : (d.staleRun x).regs = d.regs := by
  unfold Dev.staleRun
  split <;> rfl

/-- What a stale message shows (R230). -/
theorem countStale_shows (hs : Reads o d Reg.redStale) (x : RedHdr) : ((d.countStale).staleRun x).pend redPage 5 = true ∧
    ((d.countStale).staleRun x).reg Reg.redStale = BitVec.ofNat 32 (min ((o.reg Reg.redStale).toNat + 1) 0xFFFFFFFF) := by
  have hwf : Assoc.wf regReset (d.addSat Reg.redStale 1).regs = true := Assoc.wf_set hs.1 _ _
  have hraise := (Reads.refl hwf Reg.redStale).raise (by decide) redPage 5
  exact ⟨((Pends.raised hwf redPage (by decide)).other (staleRun_regs _ x)).pend,
    (Reads.other hraise (staleRun_regs _ x)).2.trans (addSat_reg hs 1)⟩

theorem loseRed_kept (d : Dev) (id : Nat) : d.loseRed false id = d := by
  unfold Dev.loseRed
  split <;> rfl

end

end Sys2Proof.Machine

namespace Sys2Proof.Proofs
set_option Elab.async false
open Sys2Proof Sys2Proof.Machine

/-- Settles O36: the message stale, or taken by the first candidate that lacks its END. -/
theorem reductionMessages : Obligations.ReductionMessages := by
  unfold Obligations.ReductionMessages
  intro s m blocks i h hr hd hm hh hi
  subst hh
  obtain ⟨hx, hl⟩ := exec_redMessage hr hm hi
  refine ⟨fun hnone => ?none, fun r e hfind he => ?found⟩
  case none =>
    have hgot : s.dev.gotRed m blocks = s.dev.receiveRed m := by
      unfold Dev.gotRed
      rw [hnone]
    rw [hgot] at hx
    refine ⟨fun hs => ?_, fun hs => ?_⟩
    · rw [receiveRed_stale hs] at hx
      obtain ⟨hpend, hcount⟩ := countStale_shows ((Reads.refl hd.2 _).takePacket m) (redHdrOf m.body)
      exact ⟨_, hx, ((((Keeps.refl.takePacket m).addSat _ _).raise _ _).staleRun _).steady,
        ((((Leaves.refl.takePacket m).addSat _ _).raise _ _).staleRun _).calm hd, hpend, hcount⟩
    · rw [receiveRed_current hs] at hx
      exact ⟨_, _, hx, hl.sameConfig hx hd, rfl, rfl⟩
  case found =>
    have hstep : e.step = s.dev.step := he ▸ found_step hd.2 _ _
    have hgot : s.dev.gotRed m blocks = (e.receiveRed m).loseRed (s.dev.loses blocks) r.id := by
      unfold Dev.gotRed
      rw [hfind, he]
    rw [hgot] at hx
    refine ⟨fun hs hkept => ?_, fun hs => ?_⟩
    · rw [hkept, loseRed_kept, receiveRed_stale (hstep.symm ▸ hs)] at hx
      have hread : Reads s.dev e Reg.redStale := he ▸ (Reads.refl hd.2 _).found (by decide) _ _
      have hk : Keeps true s.dev e := he ▸ Keeps.refl.found _ _
      have hleaves : Leaves (fun a => !lostBy blocks a) s.dev e := he ▸ Leaves.refl.foundBut _ fun a h => by simpa using h
      obtain ⟨hpend, hcount⟩ := countStale_shows (hread.takePacket m) (redHdrOf m.body)
      have hend := (((hleaves.takePacket m).addSat Reg.redStale 1).raise redPage 5).staleRun (redHdrOf m.body)
      exact ⟨_, hx, ((((hk.takePacket m).addSat _ _).raise _ _).staleRun _).steady,
        ⟨hend.config hd.2, fun a ha hlost => hend.byte hd.1 a (by simp [hlost]) ha⟩, hpend, hcount⟩
    · rw [receiveRed_current (hstep.symm ▸ hs)] at hx
      exact ⟨_, _, hx, hl.sameConfig hx hd, rfl, rfl⟩

end Sys2Proof.Proofs

/-! The pipeline: STOP, GO, RELEASE and the blocks that land (R298 to R305). -/
namespace Sys2Proof.Machine
set_option Elab.async false

section
variable {s : State} {o d e : Dev} {m : Packet} {blocks : List BlockFinding} {a i mb offset : Nat} {B : Nat → Bool} {c : Decoded}

/-! STOP and GO (R300). -/

/-- The last SEQ that a stream has applied. -/
def Dev.lastSeq (d : Dev) (dest hinge : Nat) : Option Nat :=
  (d.snd.streams.find? fun x => x.dest = dest ∧ x.hinge = hinge).bind (·.lastSeq)

/-- What a STOP or a GO does. -/
def Dev.gotPause (d : Dev) (m : Packet) (type : Nat) : Dev :=
  if u16 m.body 6 ≠ (d.takePacket m).step % 65536 then (d.takePacket m).hngStaleOne (u8 m.body 1)
  else (d.takePacket m).pauseStream (u16 m.body 4) (u8 m.body 1) (u16 m.body 2) (type == 26)

theorem exec_pause (hr : s.carrier.phase = .running) (hm : s.dev.has m = true) (hcls : m.cls = 0) {x : Instr}
    (hx : u8 m.body 0 = 26 ∧ x = .stop m ∨ u8 m.body 0 = 27 ∧ x = .go m) :
    exec x s = .next { s with dev := s.dev.gotPause m (u8 m.body 0) } ∧ Leaving (fun _ => true) s (exec x s) := by
  rcases hx with ⟨ht, rfl⟩ | ⟨ht, rfl⟩
  · exact ⟨ht ▸ act_message hr hm hcls ht fun d => d.gotPause m 26, leaving_execStop m⟩
  · exact ⟨ht ▸ act_message hr hm hcls ht fun d => d.gotPause m 27, leaving_execGo m⟩

theorem pauseStream_old {dest hinge seq : Nat} (h : newerSeq (d.lastSeq dest hinge) seq = false) (stop : Bool) :
    d.pauseStream dest hinge seq stop = d := by
  unfold Dev.lastSeq at h
  unfold Dev.pauseStream
  dsimp only
  rw [if_pos]
  cases hf : d.snd.streams.find? fun x => x.dest = dest ∧ x.hinge = hinge with
  | none =>
    rw [hf] at h
    cases h
  | some x =>
    rw [hf] at h
    rw [Option.getD_some, show newerSeq x.lastSeq seq = false from h]
    rfl

/-- A STOP or GO that is newer than the last of its stream applies to it alone. -/
theorem pauseStream_new {dest hinge seq : Nat} (h : newerSeq (d.lastSeq dest hinge) seq = true) (stop : Bool) :
    (d.pauseStream dest hinge seq stop).mem = d.mem ∧ (d.pauseStream dest hinge seq stop).regs = d.regs ∧
      ((d.pauseStream dest hinge seq stop).snd.streams.find? fun x => x.dest = dest ∧ x.hinge = hinge) =
        some ⟨dest, hinge, some seq, stop⟩ := by
  unfold Dev.lastSeq at h
  unfold Dev.pauseStream
  dsimp only
  rw [if_neg]
  · have hhead : ∀ l : List SendStream, ((⟨dest, hinge, some seq, stop⟩ :: l).find? fun x => x.dest = dest ∧ x.hinge = hinge) =
        some ⟨dest, hinge, some seq, stop⟩ := fun l => List.find?_cons_of_pos (by simp)
    split <;> exact ⟨rfl, rfl, hhead _⟩
  · cases hf : d.snd.streams.find? fun x => x.dest = dest ∧ x.hinge = hinge with
    | none => simp [newerSeq]
    | some x =>
      rw [hf] at h
      rw [Option.getD_some, show newerSeq x.lastSeq seq = true from h]
      decide

theorem takePacket_mem (d : Dev) (m : Packet) : (d.takePacket m).mem = d.mem := by
  unfold Dev.takePacket
  split
  · rfl
  · split <;> rfl

theorem hngStaleOne_pends (hd : Assoc.wf regReset d.regs = true) (hi : i < 16) : (d.hngStaleOne i).pend (hngPage i) 4 = true := by
  unfold Dev.hngStaleOne
  rw [if_pos hi]
  exact (Pends.raised (Assoc.wf_set hd _ _) _ (by decide)).pend

/-! RELEASE (R303). -/

theorem exec_release (hr : s.carrier.phase = .running) (hn : s.dev.next? .main = some c) (hc : c.cmd = .release i mb) :
    exec .release s = .next { s with dev := s.dev.instant .main c fun d => d.releaseHead i mb } := by
  show execRelease s = _
  exact act_issue hr hn (by simp only [hc])

theorem Carried.hng (h : Carried o d) : d.hng = o.hng := congrArg (·.hng) h

theorem Carried.hinge (h : Carried o d) (i : Nat) : d.hinge i = o.hinge i := by
  unfold Dev.hinge
  rw [h.hng]

theorem Carried.setFlag (h : Carried o d) (a i : Nat) (b : Bool) : Carried o (d.setFlag a i b) := h.setReg _ _

theorem Carried.setFld (h : Carried o d) (a hi lo v : Nat) : Carried o (d.setFld a hi lo v) := h.setReg _ _

theorem Carried.raiseTo (h : Carried o d) (a n : Nat) : Carried o (d.raiseTo a n) := by
  unfold Dev.raiseTo
  exact h.setReg _ _

theorem Carried.showHinge (h : Carried o d) (i : Nat) : Carried o (d.showHinge i) :=
  ((((((((h.setFld _ _ _ _).setFld _ _ _ _).setFlag _ _ _).setFlag _ _ _).setFlag _ _ _).setReg _ _).raiseTo _ _).setReg _ _)

theorem hinge_setHinge (h : i < d.hng.length) (x : HngState) : (d.setHinge i x).hinge i = x := by
  unfold Dev.hinge Dev.setHinge
  exact (List.getD_eq_getElem?_getD).trans (by rw [List.getElem?_set_self h]; rfl)

/-- What a message to a Hinge's sender leaves of what the Hinge holds. -/
theorem tellSender_holds (h : i < d.hng.length) (stop : Bool) : ((d.tellSender i stop).hinge i).held = (d.hinge i).held ∧
    ((d.tellSender i stop).hinge i).occ = (d.hinge i).occ := by
  unfold Dev.tellSender
  dsimp only
  generalize hx : d.setHinge i { d.hinge i with seq := ((d.hinge i).seq + 1) % 65536, stopped := stop } = x
  have hin : x.hinge i = { d.hinge i with seq := ((d.hinge i).seq + 1) % 65536, stopped := stop } := hx ▸ hinge_setHinge h _
  have htold : Carried x (if stop then (x.addSat (Reg.hngStops i) 1).raise (hngPage i) 1 else x.raise (hngPage i) 2) :=
    Carried.ite ((Carried.refl.addSat _ _).raise _ _) (Carried.refl.raise _ _)
  rw [(htold.sendControl _ _).hinge, hin]
  exact ⟨rfl, rfl⟩

theorem unregulate_holds (h : i < d.hng.length) : ((d.unregulate i).hinge i).held = (d.hinge i).held ∧
    ((d.unregulate i).hinge i).occ = (d.hinge i).occ := by
  unfold Dev.unregulate
  dsimp only
  split
  · exact tellSender_holds h false
  · exact ⟨rfl, rfl⟩

/-- The head of a Hinge released: its bytes free (R303). -/
theorem releaseHead_frees {rest : List Nat} (hh : (d.hinge i).held = mb :: rest) (h : i < d.hng.length) :
    ((d.releaseHead i mb).hinge i).held = rest ∧ ((d.releaseHead i mb).hinge i).occ = (d.hinge i).occ - d.hngBytes i := by
  have hlen : ∀ x, i < (d.setHinge i x).hng.length := fun x => by
    unfold Dev.setHinge
    rwa [List.length_set]
  unfold Dev.releaseHead
  dsimp only
  rw [hh]
  dsimp only
  rw [if_neg (not_not_intro rfl), ((Carried.refl).showHinge i).hinge, (unregulate_holds (hlen _)).1, (unregulate_holds (hlen _)).2,
    hinge_setHinge h]
  exact ⟨rfl, rfl⟩

/-! The blocks offered to a Hinge. -/

theorem exec_pipelineBlock (hr : s.carrier.phase = .running) (hm : s.dev.has m = true) (hcls : m.cls = 2) :
    exec (.pipelineBlock m blocks) s = .next { s with dev := (if u8 m.body 0 < 16
      then ((s.dev.found (s.dev.hngRing (u8 m.body 0)) blocks).takePacket m).hingeBlock (u8 m.body 0) m.body
      else (s.dev.takePacket m).stray) } := by
  show execPipelineBlock m s blocks = _
  refine act_next hr ?_
  rw [hm, hcls]
  rfl

end

end Sys2Proof.Machine

/-! The blocks offered to a Hinge, each with the first of its faults (R298 to R305). -/
namespace Sys2Proof.Machine
set_option Elab.async false

section
variable {s : State} {o d e : Dev} {m : Packet} {blocks : List BlockFinding} {a i : Nat} {B : Nat → Bool} {c : Decoded} {b : List Byte}

/-- No event writes a register beyond the event registers of its page, but for those of the interrupt controller and the Logbook. -/
theorem eventReg_quiet (h1 : a % 0x1000 ≠ 0x020) (h2 : a % 0x1000 ≠ 0x02C) (hp : regPage a ∉ [0x004, 0x007]) : eventReg a = false := by
  unfold regPage at hp
  simp only [List.mem_cons, List.not_mem_nil, or_false, not_or] at hp
  have hlog : ∀ x ∈ [Reg.logWriteLo, Reg.logWriteLo + 4, Reg.logRecords, Reg.logStatus, Reg.logLost], a ≠ x := by
    intro x hx hax
    have hlogPage : x / 0x1000000 = 0x007 := by
      clear hax
      revert x
      decide
    exact hp.2 (hax ▸ hlogPage)
  unfold eventReg
  simp only [Bool.or_eq_false_iff, beq_eq_false_iff_ne, decide_eq_false_iff_not, List.contains_eq_mem]
  exact ⟨⟨⟨⟨h1, h2⟩, by omega⟩, by omega⟩, fun hm => hlog a hm rfl⟩

/-- The registers of the Hinges' pages that no event writes. -/
theorem hngReg_quiet {off : Nat} (h : 0x40 ≤ off ∧ off < 0x1000) : eventReg (0x0D000000 + off + 0x1000 * (i % 4096)) = false ∧
    regPage (0x0D000000 + off + 0x1000 * (i % 4096)) = 0x00D := by
  have hpage : regPage (0x0D000000 + off + 0x1000 * (i % 4096)) = 0x00D := by
    unfold regPage
    omega
  exact ⟨eventReg_quiet (by omega) (by omega) (hpage ▸ by decide), hpage⟩

theorem hingeBlock_stale (h : d.active (hngPage i) = false ∨ u16 b 4 ≠ d.step % 65536) : d.hingeBlock i b = d.hngStaleOne i := by
  unfold Dev.hingeBlock
  dsimp only
  rw [if_pos]
  rcases h with h | h
  · exact .inl (by rw [h]; rfl)
  · exact .inr h

/-- The block of a micro-batch has landed already. -/
def Dev.landedAgain (d : Dev) (i mb offset : Nat) : Bool :=
  ((d.hinge i).landings.find? fun x => x.microbatch = mb).any fun x => x.blocks.contains (offset / 232)

/-- The slot of a micro-batch is another's. -/
def Dev.slotTaken (d : Dev) (i mb : Nat) : Bool :=
  ((d.hinge i).held ++ ((d.hinge i).landings.filter fun x => !x.blocks.isEmpty).map (·.microbatch)).any fun x =>
    x != mb && x % max 1 (d.hngSlotCount i) == mb % max 1 (d.hngSlotCount i)

/-- What a Hinge does with a block of the current step (R298 to R305). -/
theorem hingeBlock_current (ha : d.active (hngPage i) = true) (hs : u16 b 4 = d.step % 65536) : d.hingeBlock i b =
    if u16 b 6 ≠ d.fld (Reg.hngSource i) 15 0 then d.hngFault i 5 (u16 b 2)
    else if u16 b 2 < (d.hinge i).next ∨ d.landedAgain i (u16 b 2) (u32 b 8) = true then d.hngFault i 4 (u16 b 2)
    else if u32 b 8 % 232 ≠ 0 ∨ d.hngBytes i ≤ u32 b 8 ∨ (u8 b 1).testBit 0 ≠ decide (d.hngBytes i ≤ u32 b 8 + 232) then
      d.hngFault i 3 (u16 b 2)
    else if d.slotTaken i (u16 b 2) then d.overrunBlock i (u16 b 2)
    else d.land i (u16 b 2) (u32 b 8) (b.drop 12) := by
  unfold Dev.hingeBlock
  dsimp only
  rw [if_neg (by rw [ha, hs]; simp)]
  refine if_congr Iff.rfl rfl (if_congr ?_ rfl rfl)
  unfold Dev.landedAgain
  cases (d.hinge i).landings.find? fun x => x.microbatch = u16 b 2 <;> simp

/-- A Hinge's fault is shown. -/
theorem hngFault_shows (hd : Assoc.wf regReset d.regs = true) (i : Nat) {reason : Nat} (mb : Nat) (hr : reason < 16) :
    (d.hngFault i reason mb).code (hngPage i) = 7 ∧ (d.hngFault i reason mb).pend (hngPage i) 3 = true ∧
      (d.hngFault i reason mb).fld (Reg.hngFaultLast i) 3 0 = reason := by
  have hfaults : ∃ r, d.hngFault i reason mb =
      (d.setReg (Reg.hngFaultLast i) (BitVec.ofNat 32 (reason + 0x10000 * (mb % 65536)))).faulted (hngPage i) 3 r := ⟨_, rfl⟩
  obtain ⟨r, hfault⟩ := hfaults
  have hset : Assoc.wf regReset (d.setReg (Reg.hngFaultLast i) (BitVec.ofNat 32 (reason + 0x10000 * (mb % 65536)))).regs = true :=
    Assoc.wf_set hd _ _
  have hquiet : eventReg (Reg.hngFaultLast i) = false := (hngReg_quiet (off := 0x74) (by decide)).1
  have hstate : Reg.hngFaultLast i ≠ stateReg (hngPage i) := by
    unfold Reg.hngFaultLast stateReg pageAddr hngPage pageCode
    omega
  have hlast := (Reads.refl hset (Reg.hngFaultLast i)).faulted (hngPage i) 3 r hquiet hstate
  obtain ⟨hcode, hpend⟩ := faulted_state hset (hngPage i) (b := 3) (by decide) r
  rw [hfault]
  refine ⟨hcode, hpend, ?_⟩
  unfold Dev.fld
  rw [hlast.2, Dev.reg_setReg_same hd]
  unfold bits
  rw [BitVec.toNat_ofNat]
  omega

theorem overrunBlock_shows (hd : Assoc.wf regReset d.regs = true) (i mb : Nat) : (d.overrunBlock i mb).code (hngPage i) = 7 ∧
    (d.overrunBlock i mb).pend (hngPage i) 3 = true ∧ (d.overrunBlock i mb).fld (Reg.hngFaultLast i) 3 0 = 1 := by
  have hset : ∀ x, Assoc.wf regReset ((d.setHinge i x).setFlag (Reg.hngStatus i) 19 true).regs = true := fun _ => Assoc.wf_set hd _ _
  exact hngFault_shows (hset _) i mb (by decide)

/-- Where a block lands (R298). -/
def Dev.landAddr (d : Dev) (i mb offset : Nat) : Nat := d.hngBase i + mb % max 1 (d.hngSlotCount i) * d.hngBytes i + offset

theorem land_lands (d : Dev) (i mb offset : Nat) (data : List Byte) : ∃ x, d.land i mb offset data =
    ((((d.writeAt (d.landAddr i mb offset) (data.take (blockData (d.hngBytes i) offset))).setHinge i x).completePackets 256
      i).regulate i).showHinge i := ⟨_, rfl⟩

theorem Leaves.landed (h : Leaves B o d) {i mb offset : Nat} {data x : List Byte} (hx : x = data.take (blockData (d.hngBytes i) offset))
    (hb : ∀ a, B a = true → a < d.landAddr i mb offset ∨ d.landAddr i mb offset + x.length ≤ a) :
    Leaves B o (d.land i mb offset data) := by
  obtain ⟨y, hy⟩ := land_lands d i mb offset data
  rw [hy, ← hx]
  have hset : Leaves B o ((d.writeAt (d.landAddr i mb offset) x).setHinge i y) := (h.writeAtApart hb).other
  exact ((hset.completePackets _ _).regulate _).showHinge _

theorem land_holds (hm : d.mem.wf = true) {i mb offset : Nat} {data x : List Byte} (hx : x = data.take (blockData (d.hngBytes i) offset))
    (hoff : offLogbook (d.landAddr i mb offset) x.length) : (d.land i mb offset data).Holds (d.landAddr i mb offset) x := by
  obtain ⟨y, hy⟩ := land_lands d i mb offset data
  rw [hy, ← hx]
  have hset : Leaves (fun _ => true) (d.writeAt (d.landAddr i mb offset) x)
      ((d.writeAt (d.landAddr i mb offset) x).setHinge i y) := Leaves.refl.other
  exact Holds.leaves (Holds.writeAt hm _ _) hoff (((hset.completePackets _ _).regulate _).showHinge _)
    (((Leaves.refl (B := noBytes)).writeAt _ _).mem hm)

end

end Sys2Proof.Machine

namespace Sys2Proof.Proofs
set_option Elab.async false
open Sys2Proof Sys2Proof.Machine

/-- Settles O39: STOP and GO by their SEQ and their step, and the head's release. -/
theorem pipelineControl : Obligations.PipelineControl := by
  unfold Obligations.PipelineControl
  intro s hr hd
  refine ⟨fun m i hm hcls hi hs last hlast => ?current, fun m i hm hcls hi hs => ?stale, fun c i mb rest hn hc hh => ?release⟩
  case current =>
    obtain ⟨hx, -⟩ := exec_pause hr hm hcls hi
    have hgot : s.dev.gotPause m (u8 m.body 0) = (s.dev.takePacket m).pauseStream (u16 m.body 4) (u8 m.body 1) (u16 m.body 2)
        (u8 m.body 0 == 26) := by
      unfold Dev.gotPause
      rw [takePacket_step, if_neg (not_not_intro hs)]
    rw [hgot] at hx
    refine ⟨fun hnew => ?_, fun hold => ?_⟩
    · obtain ⟨hmem, hregs, hstream⟩ := pauseStream_new (d := s.dev.takePacket m) (seq := u16 m.body 2) (hlast ▸ hnew) (u8 m.body 0 == 26)
      refine ⟨_, hx, ⟨hmem.trans (takePacket_mem _ _), ((Keeps.refl.takePacket m).pauseStream _ _ _ _).steady, fun a _ => ?_⟩, hstream⟩
      unfold Dev.reg
      rw [hregs, takePacket_regs]
    · have hsame : newerSeq ((s.dev.takePacket m).lastSeq (u16 m.body 4) (u8 m.body 1)) (u16 m.body 2) = false := by
        unfold Dev.lastSeq
        rw [← hlast]
        exact hold
      rw [hx, pauseStream_old hsame]
  case stale =>
    obtain ⟨hx, hl⟩ := exec_pause hr hm hcls hi
    have hgot : s.dev.gotPause m (u8 m.body 0) = (s.dev.takePacket m).hngStaleOne (u8 m.body 1) := by
      unfold Dev.gotPause
      rw [takePacket_step, if_pos hs]
    rw [hgot] at hx
    have hwf : Assoc.wf regReset (s.dev.takePacket m).regs = true := by
      rw [takePacket_regs]
      exact hd.2
    exact ⟨_, hx, rfl, ((Keeps.refl.takePacket m).hngStaleOne _).steady, hl.calm hx hd, hngStaleOne_pends hwf⟩
  case release =>
    have hx := exec_release hr hn hc
    refine ⟨_, hx, Completed.instant .main c fun x y h => h.releaseHead i mb, (show Leaving _ s (exec .release s) from
      leaving_execRelease).calm hx hd, fun hi => ?_⟩
    have hissue : Carried s.dev (s.dev.issue .main c true false) := Carried.refl.issue .main c true false
    have hbytes : (s.dev.issue .main c true false).hngBytes i = s.dev.hngBytes i := by
      have hquiet : eventReg (Reg.hngSlotBytes i) = false ∧ regPage (Reg.hngSlotBytes i) = 0x00D := hngReg_quiet (off := 0x48) (by decide)
      have hconf : Confined [0x008] s.dev (s.dev.issue .main c true false) := Confined.refl.issue .main c true false (.head _)
      unfold Dev.hngBytes Dev.fld
      rw [hconf.reg hd.2 _ hquiet.1 (by rw [hquiet.2]; decide)]
    obtain ⟨hheld, hocc⟩ := releaseHead_frees (d := s.dev.issue .main c true false) (i := i) (mb := mb) (rest := rest)
      (by rw [hissue.hinge]; exact hh) (by rw [hissue.hng]; exact hi)
    have hend : ∀ x : Dev, ((x.complete .main c).settle .main).hinge i = x.hinge i := fun x =>
      ((Carried.refl.complete .main c).settle .main).hinge i
    unfold Dev.instant
    rw [hend, hheld, hocc, hissue.hinge, hbytes]
    exact ⟨rfl, rfl⟩

/-- Settles O40: a block stray, stale, faulty or landed. -/
theorem pipelineBlocks : Obligations.PipelineBlocks := by
  unfold Obligations.PipelineBlocks
  intro s m blocks i mb offset e hr hd hm hcls hi hmb hoff he
  have hx := exec_pipelineBlock (blocks := blocks) hr hm hcls
  rw [← hi, ← he] at hx
  refine ⟨fun hout => by rw [hx, if_neg (Nat.not_lt.mpr hout)], fun hin hstale => ?_, fun hin hact hs => ?_⟩
  · rw [hx, if_pos hin, hingeBlock_stale hstale]
  rw [if_pos hin, hingeBlock_current hact hs, ← hmb, ← hoff] at hx
  refine ⟨fun hsrc => by rw [hx, if_pos hsrc], fun hsrc again good taken hagain hgood htaken => ?_⟩
  rw [if_neg (not_not_intro hsrc), show e.landedAgain i mb offset = again from hagain.symm,
    show e.slotTaken i mb = taken from htaken.symm] at hx
  refine ⟨fun hold => by rw [hx, if_pos hold], fun hnew hfirst => ?_⟩
  rw [if_neg fun h => h.elim (Nat.not_lt.mpr hnew) (by rw [hfirst]; decide)] at hx
  have hbad : good = false ↔ (offset % 232 ≠ 0 ∨ e.hngBytes i ≤ offset ∨
      (u8 m.body 1).testBit 0 ≠ decide (e.hngBytes i ≤ offset + 232)) := by
    rw [hgood, decide_eq_false_iff_not]
    constructor
    · intro h
      by_contra hc
      push Not at hc
      exact h ⟨hc.1, hc.2.1, hc.2.2⟩
    · rintro (h | h | h) ⟨h1, h2, h3⟩
      · exact h h1
      · omega
      · exact h h3
  have hok : good = true → ¬(offset % 232 ≠ 0 ∨ e.hngBytes i ≤ offset ∨
      (u8 m.body 1).testBit 0 ≠ decide (e.hngBytes i ≤ offset + 232)) := fun hg h =>
    Bool.false_ne_true ((hbad.mpr h).symm.trans hg)
  have hleaves : Leaves (fun a => !lostBy blocks a) s.dev e := he ▸ (Leaves.refl.foundBut _ fun a h => by simpa using h).takePacket m
  have hwf : Assoc.wf regReset e.regs = true := hleaves.regs hd.2
  refine ⟨fun hg => by rw [hx, if_pos (hbad.mp hg)], fun hg ht => ?overrun, fun hg ht a x ha hxd => ?land⟩
  case overrun =>
    rw [if_neg (hok hg), if_pos ht] at hx
    have hend := hleaves.overrunBlock i mb
    obtain ⟨hcode, hpend, hlast⟩ := overrunBlock_shows hwf i mb
    exact ⟨_, hx, ⟨hend.config hd.2, fun a ha hlost => hend.byte hd.1 a (by simp [hlost]) ha⟩, hcode, hpend, hlast⟩
  case land =>
    rw [if_neg (hok hg), if_neg (ht ▸ Bool.false_ne_true)] at hx
    rw [show a = e.landAddr i mb offset from ha]
    have hapart : Leaves (apart blocks [(e.landAddr i mb offset, x.length)]) s.dev e :=
      he ▸ (Leaves.refl.foundApart _).takePacket m
    have hend := hapart.landed hxd (mb := mb) fun a ha => apart_range ha (.head _)
    exact ⟨_, hx, rfl, hend.sameConfig hd, land_holds (hleaves.mem hd.1) hxd, hend.sameBut hd⟩

end Sys2Proof.Proofs

/-! The package's number and the loads of Charts (R5, R323, R328, R329, R338). -/
namespace Sys2Proof.Machine
set_option Elab.async false

section
variable {s : State} {o d e : Dev} {a slot : Nat} {hart : Fin 28} {v : Word} {blocks : List BlockFinding}

theorem exec_chtPackageWrite (h : (s.liveHart hart).isSome = true) : exec (.chtPackageWrite hart v) s = .next { s with dev :=
    (if s.dev.cht.numbered then s.dev
      else ({ s.dev with cht := { s.dev.cht with numbered := true } } : Dev).setFld Reg.chtPackage 15 0 (bits v 15 0)) } :=
  congrArg Host.Outcome.next (byHart_live h _)

theorem exec_chartLoad (h : (s.liveHart hart).isSome = true) :
    exec (.chartLoad hart v blocks) s = .next { s with dev := (s.dev.found [] blocks).writeLoad v false } :=
  congrArg Host.Outcome.next (byHart_live h _)

theorem exec_chartLoadReplay (h : (s.liveHart hart).isSome = true) :
    exec (.chartLoadReplay hart v blocks) s = .next { s with dev := (s.dev.found [] blocks).writeLoad v true } :=
  congrArg Host.Outcome.next (byHart_live h _)

/-- CHT_LOAD_CTRL as written, GO reading 0 again. -/
def Dev.loadWritten (d : Dev) (v : Word) : Dev := (d.store Reg.chtLoadCtrl v).setFlag Reg.chtLoadCtrl 8 false

theorem Carried.store (h : Carried o d) (a : Nat) (v : Word) : Carried o (d.store a v) := h.setReg _ _

theorem loadWritten_carried (d : Dev) (v : Word) : Carried d (d.loadWritten v) := (Carried.refl.store _ v).setFlag _ 8 false

theorem loadWritten_mem (d : Dev) (v : Word) : (d.loadWritten v).mem = d.mem := rfl

theorem loadWritten_reads (hd : Assoc.wf regReset d.regs = true) (v : Word) (ha : a ≠ Reg.chtLoadCtrl) : Reads d (d.loadWritten v) a :=
  Reads.setReg (Reads.setReg (Reads.refl hd a) _ ha) _ ha

/-- The image at CHT_LOAD judged for a slot of one bank (R328, R329). -/
def Dev.judgeChart (d : Dev) (slot : Nat) (replay : Bool) : Nat × Chart :=
  d.readChart (d.pair Reg.chtLoadLo)
    (if replay then (if d.fld Reg.skyAssume 15 0 = 0xFFFF then none else some (d.fld Reg.skyAssume 15 0)) else some d.number)
    (if replay then d.skyMode == 1 && governs d.cht.govReplay slot else governs (d.reg Reg.chtGovern) slot)

/-- A slot of the live bank takes a Chart. -/
def Dev.slotLive (d : Dev) (slot : Nat) (c : Chart) : Dev :=
  Dev.setReg { d with cht := { d.cht with live := d.cht.live.set slot (some c) } } (Reg.chtSlotId slot) c.id

/-- A slot of the replay bank takes a Chart. -/
def Dev.slotReplay (d : Dev) (slot : Nat) (c : Chart) : Dev := { d with cht := { d.cht with replay := d.cht.replay.set slot (some c) } }

theorem loadChart_judged (d : Dev) (slot : Nat) (replay : Bool) : d.loadChart slot replay =
    if (d.judgeChart slot replay).1 ≠ 0 then
      ((d.setFld Reg.chtLoadStatus 6 4 slot).setFld Reg.chtLoadStatus 3 0 (d.judgeChart slot replay).1).raise chtPage 1
    else if replay then ((d.setFld Reg.chtLoadStatus 6 4 slot).slotReplay slot (d.judgeChart slot replay).2).raise chtPage 0
    else (((d.setFld Reg.chtLoadStatus 6 4 slot).slotLive slot (d.judgeChart slot replay).2).chartLoaded).raise chtPage 0 := rfl

theorem readChart_src (h : d.mem = o.mem) (a : Nat) (self : Option Nat) (busy : Bool) : d.readChart a self busy = o.readChart a self busy := by
  unfold Dev.readChart Dev.src
  rw [h]

/-- What is judged depends on memory and these registers. -/
theorem judgeChart_reads (h : d.mem = o.mem) (hc : d.cht = o.cht) (hr : ∀ a ∈ [Reg.chtLoadLo, Reg.chtLoadLo + 4, Reg.skyAssume, Reg.skyCtrl,
    Reg.chtPackage, Reg.chtGovern], d.reg a = o.reg a) (slot : Nat) (replay : Bool) : d.judgeChart slot replay = o.judgeChart slot replay := by
  simp only [List.mem_cons, List.not_mem_nil, or_false, forall_eq_or_imp, forall_eq] at hr
  obtain ⟨h1, h2, h3, h4, h5, h6⟩ := hr
  unfold Dev.judgeChart Dev.pair Dev.number Dev.skyMode Dev.fld
  rw [h1, h2, h3, h4, h5, h6, hc, readChart_src h]

/-- A load that is rejected shows its reason. -/
theorem loadChart_rejected (hd : Assoc.wf regReset d.regs = true) {replay : Bool} (hr : (d.judgeChart slot replay).1 ≠ 0) :
    (d.loadChart slot replay).fld Reg.chtLoadStatus 3 0 = (d.judgeChart slot replay).1 % 16 ∧
      (d.loadChart slot replay).pend chtPage 1 = true ∧ (d.loadChart slot replay).cht.live = d.cht.live ∧
      (d.loadChart slot replay).cht.replay = d.cht.replay := by
  rw [loadChart_judged, if_pos hr]
  generalize (d.judgeChart slot replay).1 = r
  have hslot : Assoc.wf regReset (d.setFld Reg.chtLoadStatus 6 4 slot).regs = true := Assoc.wf_set hd _ _
  have hwf : Assoc.wf regReset ((d.setFld Reg.chtLoadStatus 6 4 slot).setFld Reg.chtLoadStatus 3 0 r).regs = true := Assoc.wf_set hslot _ _
  have hread := (Reads.refl hwf Reg.chtLoadStatus).raise (by decide) chtPage 1
  have hcarried := ((Carried.refl (o := d)).setFld Reg.chtLoadStatus 6 4 slot |>.setFld Reg.chtLoadStatus 3 0 r).raise chtPage 1
  refine ⟨?_, (Pends.raised hwf chtPage (by decide)).pend, congrArg (·.cht.live) hcarried, congrArg (·.cht.replay) hcarried⟩
  unfold Dev.fld
  rw [hread.2]
  exact Dev.fld_setFld hslot _ (by decide) (by decide) _

theorem Carried.chartLoaded (h : Carried o d) : Carried o d.chartLoaded := by
  unfold Dev.chartLoaded
  exact Carried.ite h (Carried.ite ((Carried.ite (h.moveTo _ _) h).moveTo _ _) (Carried.ite (h.moveTo _ _) h))

theorem Reads.chartLoaded (h : Reads o d a) (hc : a ≠ stateReg chtPage) (hr : a ≠ stateReg redPage) : Reads o d.chartLoaded a := by
  unfold Dev.chartLoaded
  have hcht := Reads.ite (c := d.ready chtPage = true) (h.moveTo chtPage 2 hc) h
  exact Reads.ite h (Reads.ite (hcht.moveTo redPage 2 hr) hcht)

theorem slotId_kept (hs : slot < 8) : Reg.chtSlotId slot ≠ stateReg chtPage ∧ Reg.chtSlotId slot ≠ stateReg redPage ∧
    eventReg (Reg.chtSlotId slot) = false := by
  revert slot
  decide

/-- A Chart loaded into the live bank. -/
theorem loadChart_live (hd : Assoc.wf regReset d.regs = true) (hs : slot < 8) (hr : (d.judgeChart slot false).1 = 0) :
    (d.loadChart slot false).cht.live = d.cht.live.set slot (some (d.judgeChart slot false).2) ∧
      (d.loadChart slot false).reg (Reg.chtSlotId slot) = (d.judgeChart slot false).2.id ∧
      (d.loadChart slot false).pend chtPage 0 = true := by
  rw [loadChart_judged, if_neg (not_not_intro hr), if_neg Bool.false_ne_true]
  generalize (d.judgeChart slot false).2 = c
  have hkept := slotId_kept hs
  have hslot : Assoc.wf regReset (d.setFld Reg.chtLoadStatus 6 4 slot).regs = true := Assoc.wf_set hd _ _
  have hlive : (d.setFld Reg.chtLoadStatus 6 4 slot).cht.live = d.cht.live := congrArg (·.cht.live) (Carried.refl.setFld _ 6 4 slot)
  generalize d.setFld Reg.chtLoadStatus 6 4 slot = x at hslot hlive
  have hset : Assoc.wf regReset (x.slotLive slot c).regs = true := Assoc.wf_set hslot _ _
  have hshown : (x.slotLive slot c).reg (Reg.chtSlotId slot) = c.id := Dev.reg_setReg_same hslot _ _
  have hloaded := (Reads.refl hset (Reg.chtSlotId slot)).chartLoaded hkept.1 hkept.2.1
  refine ⟨?_, ((hloaded.raise hkept.2.2 chtPage 0).2).trans hshown, (Pends.raised hloaded.1 chtPage (by decide)).pend⟩
  have hcarried := (Carried.refl (o := x.slotLive slot c)).chartLoaded.raise chtPage 0
  exact (congrArg (·.cht.live) hcarried).trans (congrArg (·.set slot (some c)) hlive)

/-- A Chart loaded into the replay bank. -/
theorem loadChart_replay (hd : Assoc.wf regReset d.regs = true) (hr : (d.judgeChart slot true).1 = 0) :
    (d.loadChart slot true).cht.replay = d.cht.replay.set slot (some (d.judgeChart slot true).2) ∧
      (d.loadChart slot true).pend chtPage 0 = true ∧ (d.loadChart slot true).cht.live = d.cht.live := by
  rw [loadChart_judged, if_neg (not_not_intro hr), if_pos rfl]
  generalize (d.judgeChart slot true).2 = c
  have hslot : Assoc.wf regReset (d.setFld Reg.chtLoadStatus 6 4 slot).regs = true := Assoc.wf_set hd _ _
  have hcht : (d.setFld Reg.chtLoadStatus 6 4 slot).cht.live = d.cht.live ∧ (d.setFld Reg.chtLoadStatus 6 4 slot).cht.replay = d.cht.replay :=
    ⟨congrArg (·.cht.live) (Carried.refl.setFld _ 6 4 slot), congrArg (·.cht.replay) (Carried.refl.setFld _ 6 4 slot)⟩
  generalize d.setFld Reg.chtLoadStatus 6 4 slot = x at hslot hcht
  have hset : Assoc.wf regReset (x.slotReplay slot c).regs = true := hslot
  have hcarried := (Carried.refl (o := x.slotReplay slot c)).raise chtPage 0
  exact ⟨(congrArg (·.cht.replay) hcarried).trans (congrArg (·.set slot (some c)) hcht.2), (Pends.raised hset chtPage (by decide)).pend,
    (congrArg (·.cht.live) hcarried).trans hcht.1⟩

theorem writeLoad_goes {replay : Bool} (h9 : bit v 9 = replay) (h8 : bit v 8 = true) :
    d.writeLoad v replay = (d.loadWritten v).loadChart (bits v 2 0) replay := by
  unfold Dev.writeLoad Dev.loadWritten
  rw [if_neg (not_not_intro h9), if_pos h8]

theorem writeLoad_waits {replay : Bool} (h9 : bit v 9 = replay) (h8 : bit v 8 = false) : d.writeLoad v replay = d.loadWritten v := by
  unfold Dev.writeLoad Dev.loadWritten
  rw [if_neg (not_not_intro h9), h8, if_neg Bool.false_ne_true]

/-- What a load judges is the image as memory stands after the checks, with the package's own registers. -/
theorem loadWritten_judge (hd : Assoc.wf regReset d.regs = true) (v : Word) (slot : Nat) (replay : Bool) :
    (d.loadWritten v).judgeChart slot replay = d.judgeChart slot replay :=
  judgeChart_reads (loadWritten_mem d v) (congrArg (·.cht) (loadWritten_carried d v)) (fun a ha => (loadWritten_reads hd v (by
    revert a
    decide)).2) slot replay

end

end Sys2Proof.Machine

namespace Sys2Proof.Proofs
set_option Elab.async false
open Sys2Proof Sys2Proof.Machine

/-- Settles O44: the number taken once, and a load as its image is judged. -/
theorem chartsLoad : Obligations.ChartsLoad := by
  unfold Obligations.ChartsLoad
  intro s hart v slot blocks e hl hd hslot he
  have hwf : Assoc.wf regReset e.regs = true := he ▸ Dev.found_wf s.dev [] blocks hd.2
  have hcht : e.cht = s.dev.cht := he ▸ Dev.found_cht s.dev [] blocks
  have hread : ∀ a, checkReg a = false → e.reg a = s.dev.reg a := fun a ha => he ▸ ((Reads.refl hd.2 a).found ha [] blocks).2
  have hwritten : Assoc.wf regReset (e.loadWritten v).regs = true := (loadWritten_reads (a := 0) hwf v (by decide)).1
  have hwrittenCht : (e.loadWritten v).cht = s.dev.cht := (congrArg (·.cht) (loadWritten_carried e v)).trans hcht
  have hk : ∀ replay, Keeps true s.dev (e.writeLoad v replay) := fun replay => (he ▸ Keeps.refl.found _ _ : Keeps true s.dev e).writeLoad v replay
  have hlive := exec_chartLoad (v := v) (blocks := blocks) hl
  have hreplay := exec_chartLoadReplay (v := v) (blocks := blocks) hl
  rw [← he] at hlive hreplay
  have hliveBut : s.dev.CalmBut (e.writeLoad v false) blocks := Leaving.calmBut (x := exec (.chartLoad hart v blocks) s)
    (leaving_execChartLoad hart v blocks fun a h => by simpa using h) hlive hd
  have hreplayBut : s.dev.CalmBut (e.writeLoad v true) blocks := Leaving.calmBut (x := exec (.chartLoadReplay hart v blocks) s)
    (leaving_execChartLoadReplay hart v blocks fun a h => by simpa using h) hreplay hd
  refine ⟨fun hn => ?number, fun hn => ?numbered, fun h9 h8 r hr => ?live, fun h9 h8 r hr => ?replay, fun h8 => ⟨fun h9 => ?noLive,
    fun h9 => ?noReplay⟩⟩
  case number =>
    refine ⟨_, (exec_chtPackageWrite hl).trans (by rw [hn, if_neg Bool.false_ne_true]),
      ((Touches.other (Touches.refl hd.2)).setFld (.head _) 15 0 _).only, ?_, rfl⟩
    have hset : Assoc.wf regReset ({ s.dev with cht := { s.dev.cht with numbered := true } } : Dev).regs = true := hd.2
    exact (Dev.fld_setFld hset Reg.chtPackage (by decide) (by decide) _).trans (Nat.mod_eq_of_lt (bits_lt v 15 0))
  case numbered =>
    rw [exec_chtPackageWrite hl, if_pos hn]
  case live =>
    have hjudge : (e.loadWritten v).judgeChart slot false = r := by
      rw [loadWritten_judge hwf, hr]
      unfold Dev.judgeChart Dev.number Dev.fld
      rw [if_neg Bool.false_ne_true, if_neg Bool.false_ne_true, hread Reg.chtPackage (by decide), hread Reg.chtGovern (by decide)]
    rw [writeLoad_goes h9 h8, ← hslot] at hlive hliveBut
    refine ⟨_, hlive, by rw [hslot, ← writeLoad_goes h9 h8]; exact (hk false).steady, hliveBut, fun hbad => ?_, fun hgood => ?_⟩
    · obtain ⟨hshown, hpend, hbank, -⟩ := loadChart_rejected hwritten (slot := slot) (replay := false) (by rwa [hjudge])
      exact ⟨by rw [hshown, hjudge], hpend, by rw [hbank, hwrittenCht]⟩
    · obtain ⟨hbank, hid, hpend⟩ := loadChart_live hwritten (slot := slot) (hslot ▸ bits_lt v 2 0) (by rwa [hjudge])
      exact ⟨by rw [hbank, hwrittenCht, hjudge], by rw [hid, hjudge], hpend⟩
  case replay =>
    have hjudge : (e.loadWritten v).judgeChart slot true = r := by
      rw [loadWritten_judge hwf, hr, ← hcht]
      unfold Dev.judgeChart Dev.skyMode Dev.fld
      rw [if_pos rfl, if_pos rfl, hread Reg.skyAssume (by decide), hread Reg.skyCtrl (by decide)]
    rw [writeLoad_goes h9 h8, ← hslot] at hreplay hreplayBut
    refine ⟨_, hreplay, by rw [hslot, ← writeLoad_goes h9 h8]; exact (hk true).steady, hreplayBut, ?_⟩
    by_cases hgood : r.1 = 0
    · obtain ⟨hbank, hpend, hsame⟩ := loadChart_replay hwritten (slot := slot) (by rwa [hjudge])
      exact ⟨by rw [hsame, hwrittenCht], fun hbad => absurd hgood hbad, fun _ => ⟨by rw [hbank, hwrittenCht, hjudge], hpend⟩⟩
    · obtain ⟨hshown, hpend, hsame, hbank⟩ := loadChart_rejected hwritten (slot := slot) (replay := true) (by rwa [hjudge])
      exact ⟨by rw [hsame, hwrittenCht], fun _ => ⟨by rw [hshown, hjudge], hpend, by rw [hbank, hwrittenCht]⟩, fun h => absurd h hgood⟩
  case noLive =>
    rw [writeLoad_waits h9 h8] at hlive hliveBut
    exact ⟨_, hlive, by rw [← writeLoad_waits h9 h8]; exact (hk false).steady, hliveBut, hwrittenCht⟩
  case noReplay =>
    rw [writeLoad_waits h9 h8] at hreplay hreplayBut
    exact ⟨_, hreplay, by rw [← writeLoad_waits h9 h8]; exact (hk true).steady, hreplayBut, hwrittenCht⟩

end Sys2Proof.Proofs

/-! Ports: training, retraining, faults (R310 to R314, R453). -/
namespace Sys2Proof.Machine
set_option Elab.async false

section
variable {s : State} {o d e : Dev} {a q : Nat} {hart : Fin 28} {v : Word} {B : Nat → Bool}

/-- The registers of the ports' pages that no event writes; none of them is a page's state. -/
theorem fabReg_quiet {off : Nat} (h : 0x40 ≤ off ∧ off < 0x1000) (p : Page) : eventReg (0x0E000000 + off + 0x1000 * (q % 4096)) = false ∧
    regPage (0x0E000000 + off + 0x1000 * (q % 4096)) = 0x00E ∧ 0x0E000000 + off + 0x1000 * (q % 4096) ≠ stateReg p := by
  have hpage : regPage (0x0E000000 + off + 0x1000 * (q % 4096)) = 0x00E := by
    unfold regPage
    omega
  refine ⟨eventReg_quiet (by omega) (by omega) (hpage ▸ by decide), hpage, fun he => ?_⟩
  have hlow := stateReg_low p
  omega

theorem fabPeer_quiet (p : Page) : eventReg (Reg.fabPeer q) = false ∧ regPage (Reg.fabPeer q) = 0x00E ∧ Reg.fabPeer q ≠ stateReg p :=
  fabReg_quiet (off := 0x48) (by decide) p

theorem fabLanes_quiet (p : Page) : eventReg (Reg.fabLanes q) = false ∧ regPage (Reg.fabLanes q) = 0x00E ∧ Reg.fabLanes q ≠ stateReg p :=
  fabReg_quiet (off := 0x4C) (by decide) p

theorem fabReg_apart : Reg.fabPeer q ≠ Reg.fabLanes q ∧ Reg.fabCtrl q ≠ Reg.fabPeer q ∧ ∀ p, Reg.fabCtrl q ≠ stateReg p := by
  refine ⟨?_, ?_, fun p => (fabReg_quiet (q := q) (off := 0x44) (by decide) p).2.2⟩ <;> unfold Reg.fabPeer
  · unfold Reg.fabLanes
    omega
  · unfold Reg.fabCtrl
    omega

theorem port_setPort (h : q < d.ports.length) (f : Port → Port) : (d.setPort q f).port q = f (d.port q) := by
  unfold Dev.setPort Dev.port
  rw [List.getD_eq_getElem?_getD, List.getD_eq_getElem?_getD, List.getElem?_modify, List.getElem?_eq_getElem h]
  simp

/-! ENABLE (R310). -/

theorem fabCtrl_field : ∀ q : Fin 36, fieldsAt (Reg.fabCtrl q) = [.rw 0 0 0] ∧ pageOf (Reg.fabCtrl q) = some (fabPage q, 0x044) := by
  decide

/-- A write of FAB_CTRL sets ENABLE as written. -/
theorem store_fabCtrl (hd : Assoc.wf regReset d.regs = true) (q : Fin 36) (v : Word) :
    (d.store (Reg.fabCtrl q) v).flag (Reg.fabCtrl q) 0 = bit v 0 := by
  obtain ⟨hfields, hpage⟩ := fabCtrl_field q
  have htakes : ∀ lo, d.takesWrite (Reg.fabCtrl q) lo = true := fun lo => by
    unfold Dev.takesWrite
    rw [hpage]
    rfl
  unfold Dev.store Dev.flag
  rw [Dev.reg_setReg_same hd, hfields]
  simp only [htakes, if_true, List.foldl]
  have hwritten : bits (writeField (d.reg (Reg.fabCtrl q)) v (.rw 0 0 0)) 0 0 = bits v 0 0 :=
    bits_writeField_rw _ _ (f := .rw 0 0 0) rfl (by decide) (by decide) (Nat.zero_le _)
      (Nat.le_trans (Nat.le_of_lt (bits_lt v 0 0)) (by decide)) (Nat.zero_le _)
  rw [bit_eq_bits, hwritten, ← bit_eq_bits]

theorem halted_reads (h : d.reg (stateReg (page1 .hub)) = o.reg (stateReg (page1 .hub))) : d.halted = o.halted := by
  unfold Dev.halted Dev.code Dev.fld
  rw [h]

/-- A port enabled trains from the beginning. -/
theorem exec_fabEnable (hl : (s.liveHart hart).isSome = true) (hd : s.dev.Tidy) (q : Fin 36) (hn : s.dev.number ≠ 0xFFFF)
    (hh : s.dev.halted = false) (hoff : s.dev.flag (Reg.fabCtrl q) 0 = false) (hv : bit v 0 = true) :
    exec (.fabEnableWrite hart q v) s = .next { s with dev := (s.dev.store (Reg.fabCtrl q) v).trainPort q } := by
  refine congrArg Host.Outcome.next ((byHart_live hl _).trans ?_)
  have hhub : Reg.fabCtrl q ≠ stateReg (page1 .hub) := fabReg_apart.2.2 _
  have hhalted : (s.dev.store (Reg.fabCtrl q) v).halted = false :=
    (halted_reads ((Reads.refl hd.2 _).setReg _ hhub.symm).2).trans hh
  rw [if_neg hn, hoff]
  dsimp only
  rw [store_fabCtrl hd.2 q v, hv, hhalted]
  rfl

theorem trainPort_shows (hd : Assoc.wf regReset d.regs = true) (q : Nat) : (d.trainPort q).code (fabPage q) = 1 ∧
    (d.trainPort q).reg (Reg.fabPeer q) = 0#32 ∧ (d.trainPort q).mem = d.mem ∧
    Reads d (d.trainPort q) (Reg.fabCtrl q) := by
  have hpeer : Assoc.wf regReset ((d.setReg (Reg.fabPeer q) 0#32).setPort q fun _ => Port.reset).regs = true := Assoc.wf_set hd _ _
  obtain ⟨-, hne, hstate⟩ := fabReg_apart (q := q)
  have hread := ((Reads.refl hd (Reg.fabCtrl q)).setReg 0#32 hne).other (e := (d.setReg (Reg.fabPeer q) 0#32).setPort q fun _ => Port.reset)
  refine ⟨(InState.moved hpeer (fabPage q) (by decide)).code, ?_, ?_, hread.moveTo (fabPage q) 1 (hstate _)⟩
  · exact ((Reads.refl hpeer _).moveTo (fabPage q) 1 (fabPeer_quiet _).2.2).2.trans (Dev.reg_setReg_same hd _ _)
  · exact ((Touches.refl (as := [stateReg (fabPage q)]) hpeer).moveTo (fabPage q) (.head _) 1).only.1

/-! Training attempts (R313). -/

/-- A training attempt ends. -/
def Dev.attemptEnds (d : Dev) (q : Nat) (result : Training) : Dev :=
  match result with
  | .trained package peer => d.trained q package peer
  | .failed => d.trainFailed q

theorem exec_trainingAttemptEnd (hr : s.carrier.phase = .running) (hh : s.dev.halted = false) {q : Fin 36}
    (hready : s.dev.ready (fabPage q) = true) (result : Training) :
    exec (.trainingAttemptEnd q result) s = .next { s with dev := s.dev.attemptEnds q result } := by
  show execTrainingAttemptEnd q result s = _
  refine act_next hr ?_
  rw [hh, hready]
  rfl

/-- A port in FAULT shows its reason. -/
theorem portFault_shows (hd : Assoc.wf regReset d.regs = true) (q reason : Nat) : (d.portFault q reason).code (fabPage q) = 7 ∧
    (d.portFault q reason).fld (Reg.fabPeer q) 30 28 = reason % 8 ∧
    (d.active (fabPage q) = true → (d.portFault q reason).pend (fabPage q) 1 = true) := by
  have hset : Assoc.wf regReset (d.setFld (Reg.fabPeer q) 30 28 reason).regs = true := Assoc.wf_set hd _ _
  have hreason : (d.setFld (Reg.fabPeer q) 30 28 reason).fld (Reg.fabPeer q) 30 28 = reason % 8 :=
    Dev.fld_setFld hd _ (by decide) (by decide) _
  have hactive : (d.setFld (Reg.fabPeer q) 30 28 reason).active (fabPage q) = d.active (fabPage q) := by
    have hread := (Reads.refl hd (stateReg (fabPage q))).setReg (setBits (d.reg (Reg.fabPeer q)) 30 28 reason)
      (fabPeer_quiet (q := q) (fabPage q)).2.2.symm
    unfold Dev.active Dev.code Dev.fld Dev.setFld
    rw [hread.2]
  unfold Dev.portFault
  dsimp only
  rw [hactive]
  generalize d.setFld (Reg.fabPeer q) 30 28 reason = x at hset hreason
  obtain ⟨hquiet, -, hstate⟩ := fabPeer_quiet (q := q) (fabPage q)
  have hsignal := Reads.ite (c := d.active (fabPage q) = true) ((Reads.refl hset (Reg.fabPeer q)).raise hquiet (fabPage q) 1)
    (Reads.refl hset (Reg.fabPeer q))
  refine ⟨(InState.moved (d := (if d.active (fabPage q) then x.raise (fabPage q) 1 else x).loseLink q) hsignal.1 (fabPage q) (by decide)).code,
    ?_, fun ha => ?_⟩
  · have hlost := (Reads.other (e := (if d.active (fabPage q) then x.raise (fabPage q) 1 else x).loseLink q) hsignal).moveTo (fabPage q) 7 hstate
    rw [← hreason]
    unfold Dev.fld
    exact congrArg (bits · 30 28) hlost.2
  · rw [if_pos ha]
    have hpend := Pends.raised hset (fabPage q) (b := 1) (by decide)
    have hmoved : Confined [0x00E] (x.raise (fabPage q) 1) (((x.raise (fabPage q) 1).loseLink q).moveTo (fabPage q) 7) :=
      Confined.moveTo Confined.refl.other (fabPage q) 7 (.head _)
    exact (hmoved.pend _ _ hpend).pend

/-- A port as an attempt that finds its peer leaves it. -/
def Dev.peerShown (d : Dev) (q : Nat) (w : Word) : Dev :=
  ((d.setReg (Reg.fabPeer q) w).setFld (Reg.fabLanes q) 7 0 0xFF).setPort q fun p => { p with
      attempts := 0, retraining := false, slot := 0
      run := if p.retry.isEmpty then p.run else p.run + 1
      resendFrom := if p.retry.isEmpty then none else some 0 }

theorem trained_peer (hp : (d.port q).retraining = false) {package : Nat} (hn : package ≠ d.number) (peer : Nat) :
    d.trained q package peer = ((d.peerShown q (BitVec.ofNat 32 (package % 65536 + 0x10000 * (peer % 64) + 0x80000000))).moveTo
      (fabPage q) 2).raise (fabPage q) 0 := by
  unfold Dev.trained
  dsimp only
  rw [if_neg hn, hp, if_neg Bool.false_ne_true]
  rfl

theorem trained_self (peer : Nat) : d.trained q d.number peer = d.portFault q 3 := by
  unfold Dev.trained
  exact if_pos rfl

/-- A port that has found its peer is ACTIVE, with its peer and its lanes shown (R313). -/
theorem trained_shows (hd : Assoc.wf regReset d.regs = true) (q : Nat) (w : Word) :
    (((d.peerShown q w).moveTo (fabPage q) 2).raise (fabPage q) 0).code (fabPage q) = 2 ∧
      (((d.peerShown q w).moveTo (fabPage q) 2).raise (fabPage q) 0).pend (fabPage q) 0 = true ∧
      (((d.peerShown q w).moveTo (fabPage q) 2).raise (fabPage q) 0).fld (Reg.fabLanes q) 7 0 = 0xFF ∧
      (((d.peerShown q w).moveTo (fabPage q) 2).raise (fabPage q) 0).reg (Reg.fabPeer q) = w := by
  have hpeer : Assoc.wf regReset (d.setReg (Reg.fabPeer q) w).regs = true := Assoc.wf_set hd _ _
  have hset : Assoc.wf regReset (d.peerShown q w).regs = true := Assoc.wf_set hpeer _ _
  have hlanes : (d.peerShown q w).fld (Reg.fabLanes q) 7 0 = 0xFF := Dev.fld_setFld hpeer _ (by decide) (by decide) 0xFF
  have hshown : (d.peerShown q w).reg (Reg.fabPeer q) = w :=
    ((Reads.refl hpeer (Reg.fabPeer q)).setReg _ fabReg_apart.1).2.trans (Dev.reg_setReg_same hd _ _)
  generalize d.peerShown q w = x at hset hlanes hshown
  have hread : ∀ a, eventReg a = false → a ≠ stateReg (fabPage q) → ((x.moveTo (fabPage q) 2).raise (fabPage q) 0).reg a = x.reg a :=
    fun a ha hs => (((Reads.refl hset a).moveTo (fabPage q) 2 hs).raise ha (fabPage q) 0).2
  have hmoved := InState.moved hset (fabPage q) (c := 2) (by decide)
  refine ⟨(hmoved.raise _ _).code, (Pends.raised hmoved.wf (fabPage q) (by decide)).pend, ?_, ?_⟩
  · obtain ⟨hq, -, hs⟩ := fabLanes_quiet (q := q) (fabPage q)
    rw [← hlanes]
    unfold Dev.fld
    rw [hread _ hq hs]
  · obtain ⟨hq, -, hs⟩ := fabPeer_quiet (q := q) (fabPage q)
    rw [hread _ hq hs, hshown]

theorem trainFailed_last (ha : 2 ≤ (d.port q).attempts) (hp : (d.port q).retraining = false) : d.trainFailed q = d.portFault q 1 := by
  unfold Dev.trainFailed
  dsimp only
  rw [if_neg (Nat.not_lt.mpr ha), hp, if_neg Bool.false_ne_true]

theorem trainFailed_early (ha : (d.port q).attempts < 2) : d.trainFailed q = d.setPort q fun p => { p with attempts := p.attempts + 1 } := by
  unfold Dev.trainFailed
  exact if_pos ha

theorem code_of_ready {p : Page} (h : d.ready p = true) : d.code p = 1 := by
  unfold Dev.ready at h
  exact eq_of_beq h

/-! Lost lanes and park words (R314). -/

/-- The lanes that hold their lock after a loss. -/
def Dev.lanesLost (d : Dev) (q : Nat) (lanes : BitVec 8) : Dev :=
  d.setFld (Reg.fabLanes q) 7 0 (BitVec.ofNat 8 (d.fld (Reg.fabLanes q) 7 0) &&& ~~~lanes).toNat

theorem exec_laneLockLoss (hr : s.carrier.phase = .running) {q : Fin 36} (ha : s.dev.active (fabPage q) = true) {lanes : BitVec 8}
    (hl : lanes ≠ 0#8) : exec (.laneLockLoss q lanes) s = .next { s with dev :=
      (if ((s.dev.lanesLost q lanes).port q).retraining then s.dev.lanesLost q lanes else (s.dev.lanesLost q lanes).retrain q) } := by
  show execLaneLockLoss q lanes s = _
  refine act_next hr ?_
  have hne : (lanes != 0#8) = true := bne_iff_ne.mpr hl
  rw [ha, hne]
  rfl

theorem exec_parkWord (hr : s.carrier.phase = .running) {q : Fin 36} (ha : s.dev.active (fabPage q) = true) :
    exec (.parkWord q) s = .next { s with dev := s.dev.portFault q 0 } := by
  show execParkWord q s = _
  exact act_next hr (if_pos ha)

end

end Sys2Proof.Machine

namespace Sys2Proof.Proofs
set_option Elab.async false
open Sys2Proof Sys2Proof.Machine

/-- Settles O41: ENABLE, the ends of training attempts, lost lanes and park words. -/
theorem fabricPorts : Obligations.FabricPorts := by
  unfold Obligations.FabricPorts
  intro s q hr hd
  refine ⟨fun hart v hl hn hh hoff hv => ?enable, fun hh => ⟨fun package peer hready hp hn => ?trained, fun peer hready => ?self,
    fun hready hlast hp => ?failed, fun hready hearly hp => ?again⟩, fun lanes ha hl => ?lanes, fun ha => ?park⟩
  case enable =>
    have hx := exec_fabEnable hl hd q hn hh hoff hv
    have hstored : Assoc.wf regReset (s.dev.store (Reg.fabCtrl q) v).regs = true := Assoc.wf_set hd.2 _ _
    obtain ⟨hcode, hpeer, hmem, hctrl⟩ := trainPort_shows hstored q.val
    refine ⟨_, hx, ((Keeps.refl.store _ _).trainPort _).steady, fun a _ => by rw [hmem]; rfl, ?_, hcode, hpeer⟩
    rw [← hv, ← store_fabCtrl hd.2 q v]
    unfold Dev.flag
    rw [hctrl.2]
  case trained =>
    have hx := (exec_trainingAttemptEnd hr hh hready (.trained package peer)).trans
      (congrArg (fun y => Host.Outcome.next { s with dev := y }) (trained_peer hp hn peer))
    obtain ⟨hcode, hpend, hlanes, hpeer⟩ := trained_shows hd.2 q (BitVec.ofNat 32 (package % 65536 + 0x10000 * (peer % 64) + 0x80000000))
    refine ⟨_, hx, ?_, ?_, hcode, hpend, hlanes, hpeer⟩
    · rw [← trained_peer hp hn peer]
      exact (Keeps.refl.trained _ _ _).steady
    · rw [← trained_peer hp hn peer]
      exact (Leaves.refl.trained _ _ _).calm hd
  case self =>
    have hx := (exec_trainingAttemptEnd hr hh hready (.trained s.dev.number peer)).trans
      (congrArg (fun y => Host.Outcome.next { s with dev := y }) (trained_self peer))
    obtain ⟨hcode, hreason, -⟩ := portFault_shows hd.2 q 3
    exact ⟨_, hx, (Keeps.refl.portFault _ _).steady, (Leaves.refl.portFault _ _).calm hd, hcode, hreason⟩
  case failed =>
    have hx := (exec_trainingAttemptEnd hr hh hready .failed).trans
      (congrArg (fun y => Host.Outcome.next { s with dev := y }) (trainFailed_last hlast hp))
    obtain ⟨hcode, hreason, -⟩ := portFault_shows hd.2 q 1
    exact ⟨_, hx, (Keeps.refl.portFault _ _).steady, (Leaves.refl.portFault _ _).calm hd, hcode, hreason⟩
  case again =>
    have hx := (exec_trainingAttemptEnd hr hh hready .failed).trans
      (congrArg (fun y => Host.Outcome.next { s with dev := y }) (trainFailed_early hearly))
    exact ⟨_, hx, (Keeps.refl.setPort _ _).steady, (Leaves.refl.setPort _ _).calm hd, code_of_ready hready, fun hq =>
      congrArg Port.attempts (port_setPort hq _)⟩
  case lanes =>
    have hx := exec_laneLockLoss hr ha hl
    have htouch : Touches s.dev (s.dev.lanesLost q lanes) [Reg.fabLanes q] := (Touches.refl hd.2).setFld (.head _) 7 0 _
    have hfld : (s.dev.lanesLost q lanes).fld (Reg.fabLanes q) 7 0 =
        (BitVec.ofNat 8 (s.dev.fld (Reg.fabLanes q) 7 0) &&& ~~~lanes).toNat :=
      (Dev.fld_setFld hd.2 _ (by decide) (by decide) _).trans (Nat.mod_eq_of_lt (BitVec.isLt _))
    refine ⟨_, hx, (htouch.ite htouch.other).only, ?_, fun hq => ?_⟩
    · split
      · exact hfld
      · exact hfld
    · split
      · rename_i h
        exact h
      · exact congrArg Port.retraining (port_setPort (d := s.dev.lanesLost q lanes) hq _)
  case park =>
    have hx := exec_parkWord hr ha
    obtain ⟨hcode, hreason, hpend⟩ := portFault_shows hd.2 q 0
    exact ⟨_, hx, (Keeps.refl.portFault _ _).steady, (Leaves.refl.portFault _ _).calm hd, hcode, hreason, hpend ha⟩

end Sys2Proof.Proofs

/-! The link: blocks received, control words, transmit slots (R312, R315 to R319). -/
namespace Sys2Proof.Machine
set_option Elab.async false

section
variable {s : State} {o d e : Dev} {a q v : Nat} {b : Block} {words : List (List Byte)}

/-! Ports where one of them changes. -/

theorem port_setPort_cases (d : Dev) (q v : Nat) (f : Port → Port) :
    (d.setPort v f).port q = d.port q ∨ v = q ∧ (d.setPort v f).port q = f (d.port q) := by
  unfold Dev.setPort Dev.port
  rw [List.getD_eq_getElem?_getD, List.getD_eq_getElem?_getD, List.getElem?_modify]
  by_cases hv : v = q
  · cases h : d.ports[q]? with
    | none => exact .inl (by simp)
    | some p => exact .inr ⟨hv, by simp [hv]⟩
  · exact .inl (by simp [hv])

theorem EventsOnly.ports (h : EventsOnly o d) : d.ports = o.ports := by
  obtain ⟨_, _, _, _, _, h⟩ := h.rest
  rw [h]

theorem raise_ports (d : Dev) (p : Page) (b : Nat) : (d.raise p b).ports = d.ports := (EventsOnly.refl.acts _).ports

theorem port_of_ports (h : d.ports = o.ports) (q : Nat) : d.port q = o.port q := by
  unfold Dev.port
  rw [h]

theorem Reads.setPort (h : Reads o d a) (v : Nat) (f : Port → Port) : Reads o (d.setPort v f) a := h.other

/-! Blocks received (R312, R315, R316). -/

/-- The symbols corrected in the codewords that end with a block, counted. -/
def Dev.fecCounted (d : Dev) (q : Nat) (words : List (List Byte)) : Dev :=
  d.addSat (Reg.fabFecCorrected q) (listSum (words.map fecCorrected))

/-- A good block in sequence: counted, and the next expected. -/
def Dev.inSequence (d : Dev) (q : Nat) (b : Block) : Dev :=
  (d.addWrap (Reg.fabBlocksRx q) 1).setPort q fun p =>
    { p with rxSeq := ((hdrOf b).seq + 1) % 4096, accepted := (hdrOf b).seq, nak := false, nakDue := false }

/-- What a block received does. -/
def Dev.blockReceived (d : Dev) (q : Nat) (b : Block) (words : List (List Byte)) : Dev :=
  if !blockGood b then (d.fecCounted q words).refuseBlock q true
  else if (hdrOf b).seq ≠ (d.port q).rxSeq then (d.fecCounted q words).refuseBlock q false
  else ((d.fecCounted q words).inSequence q b).acceptBlock q b

theorem exec_linkBlockReceive (hr : s.carrier.phase = .running) {q : Fin 36} (hl : s.dev.linked q = true) :
    exec (.linkBlockReceive q b words) s = .next { s with dev := s.dev.blockReceived q b words } := by
  show execLinkBlockReceive q b s words = _
  refine act_next hr ?_
  dsimp only
  rw [hl]
  rfl

theorem fabFec_quiet (p : Page) : eventReg (Reg.fabFecCorrected q) = false ∧ regPage (Reg.fabFecCorrected q) = 0x00E ∧
    Reg.fabFecCorrected q ≠ stateReg p := fabReg_quiet (off := 0x60) (by decide) p

theorem fabCrc_quiet (p : Page) : eventReg (Reg.fabCrcErrors q) = false ∧ regPage (Reg.fabCrcErrors q) = 0x00E ∧
    Reg.fabCrcErrors q ≠ stateReg p := fabReg_quiet (off := 0x58) (by decide) p

theorem fabCounts_apart : Reg.fabFecCorrected q ≠ Reg.fabCrcErrors q ∧ Reg.fabFecCorrected q ≠ Reg.fabBlocksRx q := by
  unfold Reg.fabFecCorrected Reg.fabCrcErrors Reg.fabBlocksRx
  omega

/-- A block refused asks for a NAK (R315, R316). -/
def Dev.nakAsked (d : Dev) (q : Nat) : Dev := (d.setPort q fun p => { p with nak := true, nakDue := true }).raise (fabPage q) 2

theorem refuseBlock_bad (d : Dev) (q : Nat) : d.refuseBlock q true = (d.addSat (Reg.fabCrcErrors q) 1).nakAsked q := by
  unfold Dev.refuseBlock
  dsimp only
  rw [if_pos rfl, Bool.not_true, Bool.and_false, if_neg Bool.false_ne_true]
  rfl

theorem refuseBlock_first (h : (d.port q).nak = false) : d.refuseBlock q false = d.nakAsked q := by
  unfold Dev.refuseBlock
  dsimp only
  rw [if_neg Bool.false_ne_true, h, Bool.false_and, if_neg Bool.false_ne_true]
  rfl

theorem refuseBlock_again (h : (d.port q).nak = true) : d.refuseBlock q false = d := by
  unfold Dev.refuseBlock
  dsimp only
  rw [if_neg Bool.false_ne_true, h]
  rfl

theorem nakAsked_asks (hd : Assoc.wf regReset d.regs = true) (q : Nat) : (d.nakAsked q).pend (fabPage q) 2 = true ∧
    (q < d.ports.length → ((d.nakAsked q).port q).nak = true ∧ ((d.nakAsked q).port q).nakDue = true) := by
  refine ⟨(Pends.raised (d := d.setPort q _) hd (fabPage q) (by decide)).pend, fun hq => ?_⟩
  have hport : (d.nakAsked q).port q = (d.setPort q fun p => { p with nak := true, nakDue := true }).port q :=
    port_of_ports (raise_ports _ _ _) q
  rw [hport, port_setPort hq]
  exact ⟨rfl, rfl⟩

theorem Reads.nakAsked (h : Reads o d a) (ha : eventReg a = false) (q : Nat) : Reads o (d.nakAsked q) a := (h.setPort q _).raise ha _ _

theorem Keeps.nakAsked (h : Keeps true o d) (q : Nat) : Keeps true o (d.nakAsked q) := (h.setPort q _).raise _ _

theorem Leaves.nakAsked {B : Nat → Bool} (h : Leaves B o d) (q : Nat) : Leaves B o (d.nakAsked q) := (h.setPort q _).raise _ _

theorem Touches.addWrap {as : List Nat} (h : Touches o d as) (ha : a ∈ as) (n : Nat) : Touches o (d.addWrap a n) as := h.setReg ha _

theorem Touches.setPort {as : List Nat} (h : Touches o d as) (v : Nat) (f : Port → Port) : Touches o (d.setPort v f) as := h.other

/-- What a good block in sequence shows. -/
theorem inSequence_shows (hd : Reads o d (Reg.fabBlocksRx q)) (b : Block) :
    ((d.inSequence q b).reg (Reg.fabBlocksRx q)).toNat = ((o.reg (Reg.fabBlocksRx q)).toNat + 1) % 2 ^ 32 ∧
      (q < d.ports.length → ((d.inSequence q b).port q).rxSeq = ((hdrOf b).seq + 1) % 4096 ∧ ((d.inSequence q b).port q).nak = false) := by
  refine ⟨?_, fun hq => ?_⟩
  · have hcount : (d.inSequence q b).reg (Reg.fabBlocksRx q) = BitVec.ofNat 32 ((d.reg (Reg.fabBlocksRx q)).toNat + 1) :=
      Dev.reg_setReg_same hd.1 _ _
    rw [hcount, hd.2, BitVec.toNat_ofNat]
  · have hport : (d.inSequence q b).port q = _ := port_setPort (d := d.addWrap (Reg.fabBlocksRx q) 1) hq _
    rw [hport]
    exact ⟨rfl, rfl⟩

/-! Control words (R316, R319). -/

/-- What a control word does. -/
def Dev.wordReceived (d : Dev) (q : Nat) (w : ControlWord) : Dev :=
  if w.nak then ((d.setPort q fun p => (p.acked w.ack).credited w.credits).setPort q fun p => p.nakked w.expected).raise (fabPage q) 2
  else d.setPort q fun p => (p.acked w.ack).credited w.credits

theorem exec_linkControlWord (hr : s.carrier.phase = .running) {q : Fin 36} (hl : s.dev.linked q = true) (w : ControlWord) :
    exec (.linkControlWord q w) s = .next { s with dev := s.dev.wordReceived q w } := by
  show execLinkControlWord q w s = _
  refine act_next hr ?_
  dsimp only
  rw [hl]
  rfl

theorem setPort_setPort (d : Dev) (q : Nat) (f g : Port → Port) : ((d.setPort q f).setPort q g).ports = (d.setPort q fun p => g (f p)).ports :=
  List.modify_modify_eq f g q d.ports

/-! Transmit slots (R318). -/

/-- Port `q` carries at most one block, in the slot that it had. -/
structure OneBlock (o d : Dev) (q : Nat) : Prop where
  length : d.ports.length = o.ports.length
  slot : (d.port q).slot = (o.port q).slot
  wire : (d.port q).wire.length ≤ 1

theorem OneBlock.setPort (h : OneBlock o d q) (v : Nat) {f : Port → Port} (hf : ∀ p : Port, p.wire.length ≤ 1 →
    (f p).slot = p.slot ∧ (f p).wire.length ≤ 1) : OneBlock o (d.setPort v f) q := by
  have hlen : (d.setPort v f).ports.length = o.ports.length := (List.length_modify f d.ports v).trans h.length
  rcases port_setPort_cases d q v f with hp | ⟨-, hp⟩
  · exact ⟨hlen, hp ▸ h.slot, hp ▸ h.wire⟩
  · obtain ⟨hslot, hwire⟩ := hf _ h.wire
    exact ⟨hlen, by rw [hp, hslot, h.slot], hp ▸ hwire⟩

theorem OneBlock.other (h : OneBlock o d q) (he : e.ports = d.ports := by rfl) : OneBlock o e q :=
  ⟨he ▸ h.length, port_of_ports he q ▸ h.slot, port_of_ports he q ▸ h.wire⟩

theorem OneBlock.ite {c : Prop} [Decidable c] {x y : Dev} (hx : OneBlock o x q) (hy : OneBlock o y q) :
    OneBlock o (if c then x else y) q := by
  split
  · exact hx
  · exact hy

theorem OneBlock.leaveBuffer (h : OneBlock o d q) (v cls n : Nat) : OneBlock o (d.leaveBuffer v cls n) q :=
  (h.setPort v (f := fun p => { p with returns := p.returns.set cls (p.returns.getD cls 0 + n) }) fun _ hp => ⟨rfl, hp⟩).other

theorem OneBlock.freeVia (h : OneBlock o d q) (x : Queued) : OneBlock o (d.freeVia x) q := by
  unfold Dev.freeVia
  split
  · exact h.leaveBuffer _ _ _
  · exact h

/-- A port that sends a queued block. -/
def Port.launched (p : Port) (cls i : Nat) (x : Queued) (b : Block) : Port :=
  { p with
    txSeq := (p.txSeq + 1) % 4096
    retry := p.retry ++ [{ x with block := b, via := none }]
    queues := p.queues.set cls ((p.queues.getD cls []).eraseIdx i)
    credits := p.credits.set cls (p.credits.getD cls 0 - 1)
    wire := [b] }

theorem OneBlock.launch (h : OneBlock o d q) (v cls i : Nat) : OneBlock o (d.launch v cls i) q := by
  unfold Dev.launch
  split
  · exact h
  · rename_i x _
    exact OneBlock.other (OneBlock.freeVia (h.setPort v (f := fun p => p.launched cls i x _) fun _ _ => ⟨rfl, Nat.le_refl 1⟩) x)

/-- A port that sends a block of its retry buffer again. -/
def Port.resent (p : Port) (i : Nat) (x : Queued) : Port :=
  { p with
    wire := [x.block]
    retry := p.retry.set i { x with again := x.again + 1 }
    resendFrom := if i + 1 < p.retry.length then some (i + 1) else none }

theorem OneBlock.retrain (h : OneBlock o d q) (v : Nat) : OneBlock o (d.retrain v) q := by
  unfold Dev.retrain
  exact h.setPort v fun _ hp => ⟨rfl, hp⟩

theorem OneBlock.resend (h : OneBlock o d q) (v i : Nat) : OneBlock o (d.resend v i) q := by
  unfold Dev.resend
  split
  · exact h.setPort v (f := fun p => { p with resendFrom := none }) fun _ hp => ⟨rfl, hp⟩
  · rename_i x _
    have hset : OneBlock o (d.setPort v fun p => p.resent i x) q := h.setPort v fun _ _ => ⟨rfl, Nat.le_refl 1⟩
    have hsent : OneBlock o ((d.setPort v fun p => p.resent i x).addSat (Reg.fabResends v) 1) q := hset.other
    exact OneBlock.ite (hsent.retrain v) hsent

theorem OneBlock.slotBlock (h : OneBlock o d q) (v : Nat) : OneBlock o (d.slotBlock v) q := by
  unfold Dev.slotBlock
  dsimp only
  split
  · exact h.resend v _
  · refine OneBlock.ite h (OneBlock.ite (OneBlock.ite (h.launch v 0 0) h) ?_)
    split
    · rename_i c turn ds _
      exact (h.setPort v (f := fun p => { p with turn := turn, deficits := ds }) fun _ hp => ⟨rfl, hp⟩).launch v _ _
    · exact h

/-- What a transmit slot does. -/
def Dev.slotSent (d : Dev) (q : Nat) : Dev :=
  ((d.setPort q fun p => { p with wire := [], control := [] }).slotBlock q).setPort q fun p => { p.controlWord with slot := p.slot + 1 }

theorem exec_transmitSlot (hr : s.carrier.phase = .running) {q : Fin 36} (hl : s.dev.linked q = true) :
    exec (.transmitSlot q) s = .next { s with dev := s.dev.slotSent q } := by
  show execTransmitSlot q s = _
  refine act_next hr ?_
  dsimp only
  rw [hl]
  rfl

theorem controlWord_wire (p : Port) : p.controlWord.wire = p.wire := by
  unfold Port.controlWord
  split <;> rfl

/-- A slot is counted and carries at most one block. -/
theorem slotSent_sends (hq : q < d.ports.length) : ((d.slotSent q).port q).slot = (d.port q).slot + 1 ∧
    ((d.slotSent q).port q).wire.length ≤ 1 := by
  have hempty := port_setPort hq fun p => { p with wire := [], control := [] }
  have hstart : OneBlock (d.setPort q fun p => { p with wire := [], control := [] }) (d.setPort q fun p => { p with wire := [], control := [] }) q :=
    ⟨rfl, rfl, by rw [hempty]; exact Nat.zero_le 1⟩
  have hlen : (d.setPort q fun p => { p with wire := [], control := [] }).ports.length = d.ports.length := List.length_modify _ _ _
  obtain ⟨hl, hslot, hwire⟩ := hstart.slotBlock q
  have hport : (d.slotSent q).port q = _ := port_setPort (by rw [hl, hlen]; exact hq) _
  rw [hport]
  dsimp only
  refine ⟨by rw [hslot, hempty], ?_⟩
  rw [controlWord_wire]
  exact hwire

end

end Sys2Proof.Machine

namespace Sys2Proof.Proofs
set_option Elab.async false
open Sys2Proof Sys2Proof.Machine

/-- Settles O42: a block by its check and its SEQ, control words, and transmit slots. -/
theorem linkProtocol : Obligations.LinkProtocol := by
  unfold Obligations.LinkProtocol
  intro s q words fec hr hd hl hfec
  have hx := fun b => exec_linkBlockReceive (b := b) (words := words) hr hl
  have hcounted : Assoc.wf regReset (s.dev.fecCounted q words).regs = true := Assoc.wf_set hd.2 _ _
  have hsum : (s.dev.fecCounted q words).reg (Reg.fabFecCorrected q) = fec := hfec ▸ addSat_reg (Reads.refl hd.2 _) _
  have hcrc : Reads s.dev (s.dev.fecCounted q words) (Reg.fabCrcErrors q) := (Reads.refl hd.2 _).addSat fabCounts_apart.1.symm _
  have hk : Keeps true s.dev (s.dev.fecCounted q words) := Keeps.refl.addSat _ _
  have hleaves : Leaves (fun _ => true) s.dev (s.dev.fecCounted q words) := Leaves.refl.addSat _ _
  obtain ⟨hfecQuiet, -, -⟩ := fabFec_quiet (q := q) hubPage
  obtain ⟨hcrcQuiet, -, -⟩ := fabCrc_quiet (q := q) hubPage
  refine ⟨fun b hbad => ?bad, fun b hgood hs => ⟨fun hn => ?first, fun hn => ?again⟩, fun b hgood hs => ?good, fun w hn => ?ack,
    fun w hn => ?nak, ?slot⟩
  case bad =>
    have hgot : s.dev.blockReceived q b words = ((s.dev.fecCounted q words).addSat (Reg.fabCrcErrors q) 1).nakAsked q := by
      unfold Dev.blockReceived
      rw [hbad, Bool.not_false, if_pos rfl, refuseBlock_bad]
    have hxb := hx b
    rw [hgot] at hxb
    have herr : Assoc.wf regReset ((s.dev.fecCounted q words).addSat (Reg.fabCrcErrors q) 1).regs = true := Assoc.wf_set hcounted _ _
    obtain ⟨hpend, hnak⟩ := nakAsked_asks herr q.val
    refine ⟨_, hxb, ((hk.addSat _ _).nakAsked _).steady, ((hleaves.addSat _ _).nakAsked _).calm hd, ?_, ?_, hpend, hnak⟩
    · exact ((Reads.refl herr _).nakAsked hcrcQuiet _).2.trans (addSat_reg hcrc 1)
    · exact ((((Reads.refl hcounted _).addSat fabCounts_apart.1 1).nakAsked hfecQuiet _).2).trans hsum
  case first =>
    have hgot : s.dev.blockReceived q b words = (s.dev.fecCounted q words).nakAsked q := by
      unfold Dev.blockReceived
      rw [hgood, Bool.not_true, if_neg Bool.false_ne_true, if_pos hs]
      exact refuseBlock_first hn
    have hxb := hx b
    rw [hgot] at hxb
    obtain ⟨hpend, hnak⟩ := nakAsked_asks hcounted q.val
    exact ⟨_, hxb, (hk.nakAsked _).steady, (hleaves.nakAsked _).calm hd, (hcrc.nakAsked hcrcQuiet _).2,
      ((Reads.refl hcounted _).nakAsked hfecQuiet _).2.trans hsum, hpend, hnak⟩
  case again =>
    have hgot : s.dev.blockReceived q b words = s.dev.fecCounted q words := by
      unfold Dev.blockReceived
      rw [hgood, Bool.not_true, if_neg Bool.false_ne_true, if_pos hs]
      exact refuseBlock_again hn
    have hxb := hx b
    rw [hgot] at hxb
    exact ⟨_, hxb, ((Touches.refl hd.2).addSat (.head _) _).only, hsum, rfl⟩
  case good =>
    have hgot : s.dev.blockReceived q b words = ((s.dev.fecCounted q words).inSequence q b).acceptBlock q b := by
      unfold Dev.blockReceived
      rw [hgood, Bool.not_true, if_neg Bool.false_ne_true, if_neg (not_not_intro hs)]
    have hxb := hx b
    rw [hgot] at hxb
    have hrx : Reads s.dev (s.dev.fecCounted q words) (Reg.fabBlocksRx q) := (Reads.refl hd.2 _).addSat fabCounts_apart.2.symm _
    obtain ⟨hcount, hport⟩ := inSequence_shows hrx b
    refine ⟨_, ((((Touches.refl hd.2).addSat (.head _) _).addWrap (.tail _ (.head _)) 1).setPort q _).only, hcount, ?_, hport, hxb⟩
    exact (Reads.setPort ((Reads.refl hcounted _).addWrap fabCounts_apart.2 1) q _).2.trans hsum
  case ack =>
    have hxw := exec_linkControlWord hr hl w
    rwa [Dev.wordReceived, hn, if_neg Bool.false_ne_true] at hxw
  case nak =>
    have hxw := exec_linkControlWord hr hl w
    rw [Dev.wordReceived, hn, if_pos rfl] at hxw
    refine ⟨_, hxw, (((Keeps.refl.setPort _ _).setPort _ _).raise _ _).steady, (((Leaves.refl.setPort _ _).setPort _ _).raise _ _).calm hd,
      (Pends.raised (d := (s.dev.setPort q _).setPort q _) hd.2 (fabPage q) (by decide)).pend, ?_⟩
    exact (raise_ports _ _ _).trans (setPort_setPort _ _ _ _)
  case slot =>
    have hk : Keeps true s.dev (s.dev.slotSent q) := ((Keeps.refl.setPort _ _).slotBlock _).setPort _ _
    have hleaves : Leaves (fun _ => true) s.dev (s.dev.slotSent q) := ((Leaves.refl.setPort _ _).slotBlock _).setPort _ _
    exact ⟨_, exec_transmitSlot hr hl, hk.steady, hleaves.calm hd, slotSent_sends⟩

end Sys2Proof.Proofs

/-! Registers as harts write them: the fields of a register lie apart, and each takes its part of the word (R5, R488). -/
namespace Sys2Proof.Machine
set_option Elab.async false

/-- The fields of a register lie in its word and apart. -/
def fieldsApart (l : List RegField) : Bool :=
  l.all (fun f => decide (f.lo ≤ f.hi ∧ f.hi < 32)) && decide (l.Pairwise fun f g => f.hi < g.lo ∨ g.hi < f.lo)

/-- Every register of some rows has its fields apart. -/
def rowsApart (rows : List RegRow) : Bool := rows.all fun r => fieldsApart r.fields

section
variable {d : Dev} {a : Nat} {v w : Word} {f g : RegField} {l : List RegField}

theorem headerRows_apart : rowsApart headerRows = true := by decide

theorem pageRows_apart (t : PageType) : rowsApart (pageRows t) = true := by cases t <;> decide

theorem blockRows_apart (t : PageType) (i : Nat) : rowsApart (blockRows t i) = true := by
  unfold blockRows
  split
  · decide
  · exact pageRows_apart t

theorem rowAt_apart {rows : List RegRow} (h : rowsApart rows = true) {off : Nat} {r : RegRow} (hr : rowAt rows off = some r) :
    fieldsApart r.fields = true := List.all_eq_true.mp h r (List.mem_of_find?_eq_some hr)

theorem fieldsAt_apart (a : Nat) : fieldsApart (fieldsAt a) = true := by
  unfold fieldsAt
  split
  · rfl
  · split
    · rename_i hr
      refine rowAt_apart ?_ hr
      split
      · exact headerRows_apart
      · exact blockRows_apart _ _
    · rfl

theorem fieldsApart_mem (h : fieldsApart l = true) (hf : f ∈ l) : f.lo ≤ f.hi ∧ f.hi < 32 := by
  unfold fieldsApart at h
  rw [Bool.and_eq_true] at h
  simpa using List.all_eq_true.mp h.1 f hf

theorem bits_and (v w : Word) (hi lo : Nat) : bits (v &&& w) hi lo = bits v hi lo &&& bits w hi lo := by
  unfold bits
  rw [BitVec.toNat_and, ← Nat.shiftRight_eq_div_pow, ← Nat.shiftRight_eq_div_pow, ← Nat.shiftRight_eq_div_pow, Nat.shiftRight_and_distrib,
    Nat.and_mod_two_pow]

/-- A register's word with the fields of a list written as far as `takes` says. -/
def writeFields (takes : Nat → Bool) (l : List RegField) (v w : Word) : Word :=
  l.foldl (fun w f => if takes f.lo then writeField w v f else w) w

theorem store_writes (d : Dev) (a : Nat) (v : Word) :
    d.store a v = d.setReg a (writeFields (d.takesWrite a) (fieldsAt a) v (d.reg a)) := rfl

theorem writeFields_away (takes : Nat → Bool) (h : ∀ g ∈ l, f.hi < g.lo ∨ g.hi < f.lo) (w : Word) :
    bits (writeFields takes l v w) f.hi f.lo = bits w f.hi f.lo := by
  unfold writeFields
  induction l generalizing w with
  | nil => rfl
  | cons g l ih =>
    rw [List.foldl_cons, ih fun x hx => h x (.tail _ hx)]
    split
    · exact bits_writeField_other _ _ _ (h g (.head _))
    · rfl

/-- Each field of a register takes its own part of the word written. -/
theorem writeFields_field (takes : Nat → Bool) (h : fieldsApart l = true) (hf : f ∈ l) (w : Word) :
    ∃ x : Word, bits x f.hi f.lo = bits w f.hi f.lo ∧
      bits (writeFields takes l v w) f.hi f.lo = bits (if takes f.lo then writeField x v f else x) f.hi f.lo := by
  obtain ⟨before, after, rfl⟩ := List.append_of_mem hf
  unfold fieldsApart at h
  rw [Bool.and_eq_true, decide_eq_true_iff, List.pairwise_append, List.pairwise_cons] at h
  obtain ⟨-, -, ⟨hafter, -⟩, hbefore⟩ := h
  refine ⟨writeFields takes before v w, writeFields_away takes (fun g hg => (hbefore g hg f (.head _)).symm) w, ?_⟩
  have hsplit : writeFields takes (before ++ f :: after) v w = writeFields takes after v
      (if takes f.lo then writeField (writeFields takes before v w) v f else writeFields takes before v w) := by
    unfold writeFields
    rw [List.foldl_append, List.foldl_cons]
  rw [hsplit, writeFields_away takes hafter]

theorem store_fld (hd : Assoc.wf regReset d.regs = true) (hi lo : Nat) :
    (d.store a v).fld a hi lo = bits (writeFields (d.takesWrite a) (fieldsAt a) v (d.reg a)) hi lo := by
  unfold Dev.fld
  rw [store_writes, Dev.reg_setReg_same hd]

/-- A field of access code RW that takes the write shows the value written, where it admits it. -/
theorem store_rw (hd : Assoc.wf regReset d.regs = true) (hf : f ∈ fieldsAt a) (ht : d.takesWrite a f.lo = true) (ha : f.acc = .rw)
    (h1 : f.least ≤ bits v f.hi f.lo) (h2 : bits v f.hi f.lo ≤ f.most) (h3 : f.floor ≤ bits v f.hi f.lo) :
    (d.store a v).fld a f.hi f.lo = bits v f.hi f.lo := by
  obtain ⟨x, -, hx⟩ := writeFields_field (v := v) (d.takesWrite a) (fieldsAt_apart a) hf (d.reg a)
  obtain ⟨hl, hh⟩ := fieldsApart_mem (fieldsAt_apart a) hf
  rw [store_fld hd, hx, if_pos ht, bits_writeField_rw _ _ ha hh hl h1 h2 h3]

/-- A field that admits every value shows what is written. -/
theorem store_plain (hd : Assoc.wf regReset d.regs = true) {hi lo reset : Nat} (hf : RegField.rw hi lo reset ∈ fieldsAt a)
    (ht : d.takesWrite a lo = true) : (d.store a v).fld a hi lo = bits v hi lo := by
  have hh : hi < 32 := (fieldsApart_mem (fieldsAt_apart a) hf).2
  have hmost : 2 ^ (hi + 1 - lo) ≤ 2 ^ 32 := Nat.pow_le_pow_right (by decide) (by omega)
  have hword : bits v hi lo ≤ 0xFFFFFFFF := by
    have hlt := Nat.lt_of_lt_of_le (bits_lt v hi lo) hmost
    omega
  exact store_rw (f := .rw hi lo reset) hd hf ht rfl (Nat.zero_le _) hword (Nat.zero_le _)

/-- A field of access code W1C loses the bits written as 1. -/
theorem store_w1c (hd : Assoc.wf regReset d.regs = true) (hf : f ∈ fieldsAt a) (ht : d.takesWrite a f.lo = true) (ha : f.acc = .w1c) :
    (d.store a v).fld a f.hi f.lo = bits (d.reg a &&& ~~~v) f.hi f.lo := by
  obtain ⟨x, hsame, hx⟩ := writeFields_field (v := v) (d.takesWrite a) (fieldsAt_apart a) hf (d.reg a)
  obtain ⟨hl, hh⟩ := fieldsApart_mem (fieldsAt_apart a) hf
  rw [store_fld hd, hx, if_pos ht]
  unfold writeField
  rw [ha]
  dsimp only
  rw [bits_setBits _ hh hl, bits_and, bits_and, hsame, ← bits_and]
  exact Nat.mod_eq_of_lt (bits_lt _ _ _)

/-- A read-only field stays as it is. -/
theorem store_ro (hd : Assoc.wf regReset d.regs = true) (hf : f ∈ fieldsAt a) (ha : f.acc = .ro) :
    (d.store a v).fld a f.hi f.lo = d.fld a f.hi f.lo := by
  obtain ⟨x, hsame, hx⟩ := writeFields_field (v := v) (d.takesWrite a) (fieldsAt_apart a) hf (d.reg a)
  have hstays : (if d.takesWrite a f.lo then writeField x v f else x) = x := by
    unfold writeField
    rw [ha]
    exact ite_self _
  rw [store_fld hd, hx, hstays]
  exact hsame

/-- Bits outside the fields of a register stay as they are. -/
theorem store_away (hd : Assoc.wf regReset d.regs = true) {hi lo : Nat} (h : ∀ g ∈ fieldsAt a, hi < g.lo ∨ g.hi < lo) :
    (d.store a v).fld a hi lo = d.fld a hi lo := by
  rw [store_fld hd]
  exact writeFields_away (f := .rw hi lo 0) (d.takesWrite a) h (d.reg a)

end

end Sys2Proof.Machine

/-! Posts, remote writes and the replay of captures (R334, R335, R379). -/
namespace Sys2Proof.Machine
set_option Elab.async false

section
variable {a b c n k : Nat}

/-! Parts of a mapped run (R113). -/

theorem storeRegion_between (hab : storeRegion a = storeRegion b) (hac : a ≤ c) (hcb : c ≤ b) : storeRegion c = storeRegion a := by
  unfold storeRegion at *
  grind

/-- What lies at an offset of a stack (R110). -/
def dramRegion (s off : Nat) : Region :=
  if s < 16 then (if off < 0xB80000000 then .job else .cehan) else if off < 0xBE0000000 then .job else .logbook

theorem dramRegion_between {s : Nat} (hab : dramRegion s a = dramRegion s b) (hac : a ≤ c) (hcb : c ≤ b) :
    dramRegion s c = dramRegion s a := by
  unfold dramRegion at *
  generalize 0xB80000000 = x at *
  generalize 0xBE0000000 = y at *
  grind

theorem dramRegion_ne_store (s : Nat) (x y : Nat) : dramRegion s x ≠ storeRegion y := by
  unfold dramRegion storeRegion
  split <;> split <;> (repeat' split) <;> decide

/-- Numbers between two of one quotient have it too, and their remainders lie between. -/
theorem div_between (m : Nat) (h : a / m = b / m) (hac : a ≤ c) (hcb : c ≤ b) : c / m = a / m ∧ a % m ≤ c % m ∧ c % m ≤ b % m := by
  have hc : c / m = a / m := Nat.le_antisymm (h ▸ Nat.div_le_div_right hcb) (Nat.div_le_div_right hac)
  have ha := Nat.div_add_mod a m
  have hb := Nat.div_add_mod b m
  have hd := Nat.div_add_mod c m
  rw [← h] at hb
  rw [hc] at hd
  omega

theorem regionOf_dram (h : a < dramEnd) : regionOf a = dramRegion (a / stackSpan) (a % stackSpan) := by
  unfold regionOf
  exact if_pos h

theorem regionOf_store (h : dramEnd ≤ a) (hu : regionOf a ≠ .unmapped) : (storeBase ≤ a ∧ a < storeEnd) ∧
    regionOf a = storeRegion ((a - storeBase) % storeSpan) := by
  unfold regionOf at *
  rw [if_neg (Nat.not_lt.mpr h)] at *
  split at hu
  · rename_i hin
    exact ⟨hin, if_pos hin⟩
  · exact absurd rfl hu

theorem regionId_between (hid : regionId a = regionId b) (hu : regionOf a ≠ .unmapped) (hac : a ≤ c) (hcb : c ≤ b) :
    regionId c = regionId a := by
  obtain ⟨hregion, hplace⟩ := Prod.mk.inj hid
  by_cases ha : a < dramEnd
  · have hb : b < dramEnd := by
      by_contra hb
      obtain ⟨-, hstore⟩ := regionOf_store (Nat.le_of_not_lt hb) (hregion ▸ hu)
      rw [regionOf_dram ha, hstore] at hregion
      exact dramRegion_ne_store _ _ _ hregion
    have hc : c < dramEnd := by omega
    rw [if_pos ha, if_pos hb] at hplace
    obtain ⟨hstack, hlow, hhigh⟩ := div_between stackSpan hplace hac hcb
    rw [regionOf_dram ha, regionOf_dram hb, ← hplace] at hregion
    unfold regionId
    rw [if_pos hc, if_pos ha, hstack, regionOf_dram hc, regionOf_dram ha, hstack, dramRegion_between hregion hlow hhigh]
  · have hb : ¬ b < dramEnd := by omega
    have hc : ¬ c < dramEnd := by omega
    rw [if_neg ha, if_neg hb] at hplace
    obtain ⟨hina, hra⟩ := regionOf_store (Nat.le_of_not_lt ha) hu
    obtain ⟨hinb, hrb⟩ := regionOf_store (Nat.le_of_not_lt hb) (hregion ▸ hu)
    obtain ⟨hcluster, hlow, hhigh⟩ := div_between storeSpan hplace (Nat.sub_le_sub_right hac _) (Nat.sub_le_sub_right hcb _)
    have hrc : regionOf c = storeRegion ((c - storeBase) % storeSpan) := by
      unfold regionOf
      rw [if_neg hc, if_pos ⟨by omega, by omega⟩]
    rw [hra, hrb] at hregion
    unfold regionId
    rw [if_neg hc, if_neg ha, hcluster, hrc, hra, storeRegion_between hregion hlow hhigh]

/-- A part of a mapped run, from its beginning. -/
theorem mapped_shorter (h : mapped a n = true) (hle : k ≤ n) : mapped a k = true := by
  unfold mapped at *
  rcases Nat.eq_zero_or_pos k with hk | hk
  · rw [hk]
    rfl
  · rw [beq_eq_false_iff_ne.mpr (by omega), Bool.false_or, Bool.and_eq_true, bne_iff_ne, beq_iff_eq] at h ⊢
    obtain ⟨hu, hid⟩ := h
    exact ⟨hu, (regionId_between hid hu (by omega) (by omega)).symm⟩

end

section
variable {s : State} {o d e : Dev} {m : Packet} {blocks : List BlockFinding} {hart : Fin 28} {v : Word} {a n : Nat} {b : List Byte}
  {B : Nat → Bool}

/-! The posting ring. -/

theorem exec_postTail_out (hl : (s.liveHart hart).isSome = true) (h : s.dev.postSize ≤ bits v 15 0) :
    exec (.postTailWrite hart v blocks) s = .next s := by
  refine congrArg Host.Outcome.next ((byHart_live hl _).trans ?_)
  rw [if_pos h]

theorem exec_postTail (hl : (s.liveHart hart).isSome = true) (h : bits v 15 0 < s.dev.postSize) :
    exec (.postTailWrite hart v blocks) s =
      .next { s with dev := Dev.runPosts postFuel ((s.dev.found [] blocks).store Reg.chtPostTail v) } := by
  refine congrArg Host.Outcome.next ((byHart_live hl _).trans ?_)
  rw [if_neg (Nat.not_le.mpr h)]

/-- The engine with no write on its way. -/
def Dev.postAcked (d : Dev) : Dev := { d with cht := { d.cht with post := none } }

theorem exec_postWriteAcked (hr : s.carrier.phase = .running) {r : PostRun} (hp : s.dev.cht.post = some r) (hlost : r.lost = false)
    (hack : s.dev.unacked r.id = false) : exec (.postWriteAcked blocks) s = .next { s with dev :=
      (Dev.runPosts postFuel (s.dev.found [] blocks).postAcked.nextPost) } := by
  show execPostWriteAcked s blocks = _
  refine act_next hr ?_
  rw [hp]
  dsimp only
  rw [hlost, hack]
  rfl

theorem chtPostTail_takes (lo : Nat) : d.takesWrite Reg.chtPostTail lo = true := rfl

theorem store_postTail (hd : Assoc.wf regReset d.regs = true) (v : Word) : (d.store Reg.chtPostTail v).postTail = bits v 15 0 :=
  store_plain hd (reset := 0) (by decide) (chtPostTail_takes _)

/-- What stops the posting engine. -/
def Dev.postsStop (d : Dev) : Prop :=
  d.cht.post.isSome = true ∨ d.postHead = d.postTail ∨ (d.governLive 4).isNone = true ∨ d.postsHeld = true

/-- The descriptor at the head of the ring. -/
def Dev.descriptor (d : Dev) : List Byte := readBytes d.src (d.pair Reg.chtPostBaseLo + 32 * d.postHead) 32

/-- A descriptor skipped. -/
def Dev.skipPost (d : Dev) : Dev := (d.addSat Reg.chtPostRejects 1).nextPost

theorem runPosts_stops (n : Nat) (h : d.postsStop) : Dev.runPosts n d = d := by
  cases n with
  | zero => rfl
  | succ n =>
    rw [Dev.runPosts]
    exact if_pos h

theorem runPosts_goes (n : Nat) (h : ¬ d.postsStop) :
    Dev.runPosts (n + 1) d = if postBad d.descriptor then Dev.runPosts n d.skipPost else d.sendPost d.descriptor := by
  rw [Dev.runPosts]
  exact if_neg h

theorem postFuel_succ : postFuel = 65535 + 1 := rfl

theorem nextPost_last (h : (d.postHead + 1) % d.postSize = d.postTail) (hd : Assoc.wf regReset d.regs = true) :
    d.nextPost = (d.setFld Reg.chtPostHead 15 0 d.postTail).raise chtPage 6 := by
  have hlt : d.postTail < 2 ^ 16 := bits_lt _ 15 0
  have hhead : (d.setFld Reg.chtPostHead 15 0 d.postTail).postHead = d.postTail :=
    (Dev.fld_setFld hd _ (by decide) (by decide) _).trans (Nat.mod_eq_of_lt hlt)
  have htail : (d.setFld Reg.chtPostHead 15 0 d.postTail).postTail = d.postTail :=
    congrArg (bits · 15 0) ((Reads.refl hd Reg.chtPostTail).setReg _ (by decide)).2
  unfold Dev.nextPost
  rw [h]
  exact if_pos (hhead.trans htail.symm)

/-- The engine past its last descriptor is idle (R334). -/
theorem nextPost_idles (h : (d.postHead + 1) % d.postSize = d.postTail) (hd : Assoc.wf regReset d.regs = true) :
    d.nextPost.postHead = d.postTail ∧ d.nextPost.postTail = d.postTail ∧ d.nextPost.pend chtPage 6 = true := by
  have hlt : d.postTail < 2 ^ 16 := bits_lt _ 15 0
  have hset : Assoc.wf regReset (d.setFld Reg.chtPostHead 15 0 d.postTail).regs = true := Assoc.wf_set hd _ _
  have hhead : (d.setFld Reg.chtPostHead 15 0 d.postTail).postHead = d.postTail :=
    (Dev.fld_setFld hd _ (by decide) (by decide) _).trans (Nat.mod_eq_of_lt hlt)
  have htail := ((Reads.refl hd Reg.chtPostTail).setReg (setBits (d.reg Reg.chtPostHead) 15 0 d.postTail)
    (by decide : Reg.chtPostTail ≠ Reg.chtPostHead)).raise (by decide) chtPage 6
  have hraise := (Reads.refl hset Reg.chtPostHead).raise (by decide) chtPage 6
  rw [nextPost_last h hd]
  refine ⟨Eq.trans ?_ hhead, congrArg (bits · 15 0) htail.2, (Pends.raised hset chtPage (by decide)).pend⟩
  exact congrArg (bits · 15 0) hraise.2

theorem posting_reads {x : Dev} (hreg : ∀ a ∈ [Reg.chtPostHead, Reg.chtPostTail, Reg.chtPostSize], x.reg a = d.reg a) :
    x.postHead = d.postHead ∧ x.postTail = d.postTail ∧ x.postSize = d.postSize := by
  unfold Dev.postHead Dev.postTail Dev.postSize Dev.fld
  rw [hreg _ (.head _), hreg _ (.tail _ (.head _)), hreg _ (.tail _ (.tail _ (.head _)))]
  exact ⟨rfl, rfl, rfl⟩

theorem posting_quiet : ∀ a ∈ [Reg.chtPostHead, Reg.chtPostTail, Reg.chtPostSize], a ≠ Reg.chtPostRejects ∧ checkReg a = false := by
  decide

/-- The last descriptor, skipped. -/
theorem skipPost_idles (h : (d.postHead + 1) % d.postSize = d.postTail) (hd : Assoc.wf regReset d.regs = true) :
    d.skipPost.postHead = d.postTail ∧ d.skipPost.postTail = d.postTail ∧ d.skipPost.pend chtPage 6 = true ∧
      d.skipPost.reg Reg.chtPostRejects = BitVec.ofNat 32 (min ((d.reg Reg.chtPostRejects).toNat + 1) 0xFFFFFFFF) := by
  have hwf : Assoc.wf regReset (d.addSat Reg.chtPostRejects 1).regs = true := Assoc.wf_set hd _ _
  obtain ⟨hhead, htail, hsize⟩ := posting_reads (d := d) (x := d.addSat Reg.chtPostRejects 1) fun a ha =>
    ((Reads.refl hd a).addSat (posting_quiet a ha).1 1).2
  have hlast : ((d.addSat Reg.chtPostRejects 1).postHead + 1) % (d.addSat Reg.chtPostRejects 1).postSize =
      (d.addSat Reg.chtPostRejects 1).postTail := by rw [hhead, htail, hsize, h]
  obtain ⟨h1, h2, h3⟩ := nextPost_idles hlast hwf
  refine ⟨h1.trans htail, h2.trans htail, h3, ?_⟩
  have hrejects := ((Reads.refl hwf Reg.chtPostRejects).setReg (setBits ((d.addSat Reg.chtPostRejects 1).reg Reg.chtPostHead) 15 0
    (d.addSat Reg.chtPostRejects 1).postTail) (by decide : Reg.chtPostRejects ≠ Reg.chtPostHead)).raise (by decide) chtPage 6
  unfold Dev.skipPost
  rw [nextPost_last hlast hwf]
  exact hrejects.2.trans (addSat_reg (Reads.refl hd _) 1)

theorem idle_stops (h : d.postHead = d.postTail) : d.postsStop := .inr (.inl h)

/-! Blocks of remote writes. -/

/-- The data of a remote-write block stored; the last block raises its counter. -/
def Dev.rwStored (d : Dev) (m : Packet) (n : Nat) : Dev :=
  let d := d.writeAt (u64 m.body 0) ((m.body.drop 16).take n)
  if !(u8 m.body 244 == 1) then d
  else if d.cht.discardedWrites.contains (m.src, m.stripe) then
    { d with cht := { d.cht with discardedWrites := d.cht.discardedWrites.filter fun f => f ≠ (m.src, m.stripe) } }
  else if u8 m.body 9 < 16 ∧ u8 m.body 8 < 2 then d.raiseCounter (u8 m.body 8) (u8 m.body 9) 1
  else d

/-- A remote-write block discarded and counted. -/
def Dev.rwDiscarded (d : Dev) (m : Packet) : Dev :=
  let e := (d.addSat Reg.chtRwDiscards 1).raise chtPage 5
  let flow := (m.src, m.stripe)
  let others := d.cht.discardedWrites.filter fun f => f ≠ flow
  { e with cht := { e.cht with discardedWrites := (if u8 m.body 244 == 1 then others else flow :: others) } }

/-- The extent lies in the window. -/
def Dev.inWindow (d : Dev) (a n : Nat) : Bool :=
  decide (d.pair Reg.chtRwBaseLo ≤ a ∧ a + n ≤ d.pair Reg.chtRwBaseLo + 0x100000 * d.fld Reg.chtRwSize 19 0) && mapped a n

/-- A remote-write block taken from its port, the blocks that it reads read first. -/
def Dev.rwTaken (d : Dev) (m : Packet) (blocks : List BlockFinding) : Nat × Dev :=
  ((d.found d.rwWindow blocks).takePacket m).postData m.body

theorem exec_remoteWriteBlock (hr : s.carrier.phase = .running) (hm : s.dev.has m = true) (hcls : m.cls = 4) :
    exec (.remoteWriteBlock m blocks) s = .next { s with dev :=
      (if (s.dev.rwTaken m blocks).2.inWindow (u64 m.body 0) (s.dev.rwTaken m blocks).1
      then (s.dev.rwTaken m blocks).2.rwStored m (s.dev.rwTaken m blocks).1 else (s.dev.rwTaken m blocks).2.rwDiscarded m) } := by
  show execRemoteWriteBlock m s blocks = _
  refine act_next hr ?_
  rw [hm, hcls]
  rw [if_pos (by decide)]
  unfold Dev.rwTaken
  generalize ((s.dev.found s.dev.rwWindow blocks).takePacket m).postData m.body = r
  rfl

theorem postData_regs (d : Dev) (body : List Byte) : (d.postData body).2.regs = d.regs ∧ (d.postData body).2.mem = d.mem ∧
    (d.postData body).2.cht = d.cht := by
  unfold Dev.postData
  split
  · split <;> exact ⟨rfl, rfl, rfl⟩
  · exact ⟨rfl, rfl, rfl⟩

theorem postData_known {body : List Byte}
    (h : u8 body 244 ≠ 1 ∧ n = 228 ∨ u8 body 244 = 1 ∧ (body[245]?).map BitVec.toNat = some n) : (d.postData body).1 = n := by
  unfold Dev.postData
  rcases h with ⟨h1, rfl⟩ | ⟨h1, h2⟩
  · rw [if_neg h1]
  · rw [if_pos h1]
    cases hb : body[245]? with
    | none => rw [hb] at h2; cases h2
    | some x =>
      rw [hb] at h2
      exact Option.some.inj h2

/-- A length that nothing gives is a whole number of words, up to 57 of them. -/
theorem postData_open {body : List Byte} (h1 : u8 body 244 = 1) (h2 : body[245]? = none) :
    (d.postData body).1 % 4 = 0 ∧ 4 ≤ (d.postData body).1 ∧ (d.postData body).1 ≤ 228 := by
  unfold Dev.postData
  rw [if_pos h1, h2]
  dsimp only
  omega

theorem Reads.rwTaken (h : Reads o d a) (ha : checkReg a = false) (m : Packet) (blocks : List BlockFinding) :
    Reads o (d.rwTaken m blocks).2 a :=
  ((h.found ha _ blocks).takePacket m).other (postData_regs _ _).1

theorem Leaves.rwTaken {fs : List (Nat × Nat)} (h : Leaves (apart blocks fs) o d) (m : Packet) :
    Leaves (apart blocks fs) o (d.rwTaken m blocks).2 :=
  ((h.foundApart _).takePacket m).postData _

theorem Keeps.rwTaken {level : Bool} (h : Keeps level o d) (m : Packet) (blocks : List BlockFinding) :
    Keeps level o (d.rwTaken m blocks).2 := ((h.found _ _).takePacket m).postData _

theorem window_quiet : ∀ a ∈ [Reg.chtRwBaseLo, Reg.chtRwBaseLo + 4, Reg.chtRwSize], checkReg a = false := by decide

/-- The window of a block is the one that stood before it. -/
theorem rwTaken_window (hd : Assoc.wf regReset d.regs = true) (m : Packet) (blocks : List BlockFinding) (a n : Nat) :
    (d.rwTaken m blocks).2.inWindow a n = d.inWindow a n := by
  have hreg : ∀ x ∈ [Reg.chtRwBaseLo, Reg.chtRwBaseLo + 4, Reg.chtRwSize], (d.rwTaken m blocks).2.reg x = d.reg x := fun x hx =>
    ((Reads.refl hd x).rwTaken (window_quiet x hx) m blocks).2
  unfold Dev.inWindow Dev.pair Dev.fld
  rw [hreg _ (.head _), hreg _ (.tail _ (.head _)), hreg _ (.tail _ (.tail _ (.head _)))]

theorem rwTaken_cht (d : Dev) (m : Packet) (blocks : List BlockFinding) :
    (d.rwTaken m blocks).2.cht.discardedWrites = d.cht.discardedWrites := by
  have hfound : (d.found d.rwWindow blocks).cht.discardedWrites = d.cht.discardedWrites :=
    congrArg (·.cht.discardedWrites) (Inspected.refl.found d.rwWindow blocks).same
  unfold Dev.rwTaken
  rw [(postData_regs _ _).2.2, ← hfound]
  unfold Dev.takePacket
  split
  · rfl
  · split <;> rfl

theorem rwStored_holds (hm : d.mem.wf = true) (m : Packet) (n : Nat) :
    (d.rwStored m n).Holds (u64 m.body 0) ((m.body.drop 16).take n) := by
  have hmem : (d.rwStored m n).mem = (d.writeAt (u64 m.body 0) ((m.body.drop 16).take n)).mem := by
    unfold Dev.rwStored
    dsimp only
    split
    · rfl
    · split
      · rfl
      · split <;> rfl
  unfold Dev.Holds
  rw [hmem]
  exact Holds.writeAt hm _ _

theorem Leaves.rwStored (h : Leaves B o d) {m : Packet} {n : Nat}
    (hb : ∀ a, B a = true → a < u64 m.body 0 ∨ u64 m.body 0 + ((m.body.drop 16).take n).length ≤ a) : Leaves B o (d.rwStored m n) := by
  have hw := h.writeAtApart hb
  exact hw.ite (hw.other.ite ((hw.raiseCounter _ _ _).ite hw))

theorem Keeps.rwStored {level : Bool} (h : Keeps level o d) (m : Packet) (n : Nat) : Keeps level o (d.rwStored m n) := by
  have hw := h.writeAt (u64 m.body 0) ((m.body.drop 16).take n)
  exact hw.ite (hw.other.ite ((hw.raiseCounter _ _ _).ite hw))

theorem rwStored_counts {m : Packet} {n : Nat} (h1 : u8 m.body 244 = 1) (h2 : d.cht.discardedWrites.contains (m.src, m.stripe) = false)
    (h3 : u8 m.body 9 < 16) (h4 : u8 m.body 8 < 2) (hr : Reads o d (Reg.seqCounter (u8 m.body 8) (u8 m.body 9))) :
    (d.rwStored m n).reg (Reg.seqCounter (u8 m.body 8) (u8 m.body 9)) =
      BitVec.ofNat 32 (min ((o.reg (Reg.seqCounter (u8 m.body 8) (u8 m.body 9))).toNat + 1) 0xFFFFFFFF) := by
  have hcounts : d.rwStored m n = (d.writeAt (u64 m.body 0) ((m.body.drop 16).take n)).raiseCounter (u8 m.body 8) (u8 m.body 9) 1 := by
    unfold Dev.rwStored
    dsimp only
    rw [if_neg (by simp [h1]), if_neg (by exact h2 ▸ Bool.false_ne_true), if_pos ⟨h3, h4⟩]
  rw [hcounts]
  exact addSat_reg (hr.other (e := d.writeAt (u64 m.body 0) ((m.body.drop 16).take n))) 1

theorem seqCounter_checks {st n : Nat} (hs : st < 2) (hn : n < 16) : checkReg (Reg.seqCounter st n) = false := by
  have hall : ∀ st : Fin 2, ∀ n : Fin 16, checkReg (Reg.seqCounter st n) = false := by decide
  exact hall ⟨st, hs⟩ ⟨n, hn⟩

theorem rwDiscarded_shows (hr : Reads o d Reg.chtRwDiscards) (m : Packet) :
    (d.rwDiscarded m).reg Reg.chtRwDiscards = BitVec.ofNat 32 (min ((o.reg Reg.chtRwDiscards).toNat + 1) 0xFFFFFFFF) ∧
      (d.rwDiscarded m).pend chtPage 5 = true := by
  have hset : Assoc.wf regReset (d.addSat Reg.chtRwDiscards 1).regs = true := Assoc.wf_set hr.1 _ _
  refine ⟨((Reads.refl hset _).raise (by decide) chtPage 5).2.trans (addSat_reg hr 1), (Pends.raised hset chtPage (by decide)).pend⟩

/-! The replay of a capture (R379). -/

/-- What a captured block offered does. -/
def Dev.offered (d : Dev) (b : Block) : Dev :=
  let h := hdrOf b
  let next : Dev := { d with sky := { d.sky with replayPos := d.sky.replayPos + 1 } }
  let r := joinFlow d.cht.replayFlows h (payloadOf b)
  if h.cls = 0 then next
  else if 512 ≤ (d.cht.loop.filter fun m => m.cls = h.cls).length then d
  else if h.cls = 2 ∨ h.cls = 4 then next.arrive ⟨36, h.src, h.cls, h.stripe, h.chart, singleBody h (payloadOf b)⟩
  else
    (r.2.map fun x => (⟨36, h.src, h.cls, h.stripe, x.1, x.2⟩ : Packet)).toList.foldl Dev.arrive
      { next with cht := { next.cht with replayFlows := r.1 } }

theorem exec_captureReplayBlock (hr : s.carrier.phase = .running) {b : Block} (hm : s.dev.skyMode ≠ 0)
    (hb : s.dev.capturedBlock = some b) : exec .captureReplayBlock s = .next { s with dev := s.dev.offered b } := by
  show execCaptureReplayBlock s = _
  refine act_next hr ?_
  rw [if_neg hm, hb]
  dsimp only
  unfold Dev.offered
  refine if_congr Iff.rfl rfl (if_congr Iff.rfl rfl (if_congr Iff.rfl rfl ?_))
  dsimp only
  cases (joinFlow s.dev.cht.replayFlows (hdrOf b) (payloadOf b)).2 <;> rfl

end

end Sys2Proof.Machine

namespace Sys2Proof.Proofs
set_option Elab.async false
open Sys2Proof Sys2Proof.Machine

/-- Settles O43: the posting engine at a write of its tail and at an acknowledgement, a remote write's blocks, a capture's replay. -/
theorem remoteWrites : Obligations.RemoteWrites := by
  unfold Obligations.RemoteWrites
  intro s blocks hr hd
  refine ⟨fun hart v hl => ⟨exec_postTail_out hl, fun hin e he => ?tail⟩, fun r hp hlost hack hlast => ?acked,
    fun m a n hm hcls ha hn hmapped hlow hhigh => ?inside, fun m a hm hcls ha hend hopen hmapped hlow hhigh => ?openLength,
    fun m hm hcls hlow => ?outside, fun b hmode hb => ?replay⟩
  case tail =>
    have hx := exec_postTail (blocks := blocks) hl hin
    rw [← he] at hx
    have hfound : Assoc.wf regReset (s.dev.found [] blocks).regs = true := Dev.found_wf s.dev [] blocks hd.2
    have hwf : Assoc.wf regReset e.regs = true := he ▸ Assoc.wf_set hfound _ _
    refine ⟨fun hstop => ?_, fun h1 h2 h3 h4 b hb => ?_⟩
    · rw [runPosts_stops _ hstop] at hx
      exact ⟨hx, he ▸ ((Touches.refl hfound).store (.head _) v).only, he ▸ store_postTail hfound v⟩
    · have hgo : ¬ e.postsStop := by
        rintro (h | h | h | h)
        · rw [h1] at h
          cases h
        · exact h2 h
        · rw [Option.isNone_iff_eq_none] at h
          rw [h] at h3
          cases h3
        · exact Bool.false_ne_true (h4.symm.trans h)
      rw [postFuel_succ, runPosts_goes _ hgo, show e.descriptor = b from hb.symm] at hx
      refine ⟨fun hgood => by rw [hx, hgood]; rfl, fun hbad hlast => ?_⟩
      obtain ⟨hhead, htail, hpend, hcount⟩ := skipPost_idles hlast hwf
      rw [if_pos hbad, runPosts_stops _ (idle_stops (hhead.trans htail.symm))] at hx
      have hreject : Reads s.dev e Reg.chtPostRejects := he ▸ ((Reads.refl hd.2 _).found (by decide) [] blocks).setReg _ (by decide)
      have hconfig : s.dev.SameConfig (s.dev.found [] blocks) := (Leaves.refl.found [] blocks).sameConfig hd
      have hskip : Leaves (fun _ => true) e e.skipPost := (Leaves.refl.addSat _ _).nextPost
      have hkeeps : Keeps true s.dev e.skipPost := he ▸ (((Keeps.refl.found [] blocks).store _ v).addSat _ _).nextPost
      refine ⟨_, hx, hkeeps.steady, fun a ha hne => ?_, hhead, hpend, by rw [hcount, hreject.2]⟩
      rw [hskip.config hwf a ha, ← hconfig a ha, he]
      exact ((Reads.refl hfound a).setReg _ hne).2
  case acked =>
    have hx := exec_postWriteAcked (blocks := blocks) hr hp hlost hack
    have hreg : ∀ a ∈ [Reg.chtPostHead, Reg.chtPostTail, Reg.chtPostSize],
        (s.dev.found [] blocks).postAcked.reg a = s.dev.reg a := fun a ha =>
      ((Reads.refl hd.2 a).found (posting_quiet a ha).2 [] blocks).2
    obtain ⟨hhead, htail, hsize⟩ := posting_reads hreg
    have hwf : Assoc.wf regReset (s.dev.found [] blocks).postAcked.regs = true := Dev.found_wf s.dev [] blocks hd.2
    obtain ⟨h1, h2, h3⟩ := nextPost_idles (d := (s.dev.found [] blocks).postAcked) (by rw [hhead, htail, hsize, hlast]) hwf
    rw [runPosts_stops _ (idle_stops (h1.trans h2.symm))] at hx
    have hleaves : Leaves (fun a => !lostBy blocks a) s.dev (s.dev.found [] blocks).postAcked.nextPost :=
      (Leaves.other (d' := (s.dev.found [] blocks).postAcked) (Leaves.refl.foundBut [] fun a h => by simpa using h)).nextPost
    have hkeeps : Keeps true s.dev (s.dev.found [] blocks).postAcked.nextPost :=
      (Keeps.other (d' := (s.dev.found [] blocks).postAcked) (Keeps.refl.found [] blocks)).nextPost
    have hcarried : Carried (s.dev.found [] blocks).postAcked (s.dev.found [] blocks).postAcked.nextPost :=
      Carried.ite ((Carried.refl.setFld _ _ _ _).raise _ _) (Carried.refl.setFld _ _ _ _)
    exact ⟨_, hx, hkeeps.steady, ⟨hleaves.config hd.2, fun a ha hlost => hleaves.byte hd.1 a (by simp [hlost]) ha⟩,
      (congrArg (·.cht.post) hcarried).trans rfl, h1.trans htail, h3⟩
  case inside =>
    have hx := exec_remoteWriteBlock (blocks := blocks) hr hm hcls
    have hlen : (s.dev.rwTaken m blocks).1 = n := postData_known hn
    have hwin : s.dev.inWindow a n = true := by
      unfold Dev.inWindow
      rw [hmapped, decide_eq_true ⟨hlow, hhigh⟩]
      rfl
    rw [hlen, rwTaken_window hd.2, ← ha, if_pos hwin] at hx
    have hleaves : Leaves (apart blocks [(a, ((m.body.drop 16).take n).length)]) s.dev (s.dev.rwTaken m blocks).2 := Leaves.refl.rwTaken m
    have hend := hleaves.rwStored (m := m) (n := n) fun x hx => ha ▸ apart_range hx (.head _)
    refine ⟨_, _, hx, ((Keeps.refl.rwTaken m blocks).rwStored m n).steady, hend.sameConfig hd, rfl,
      ha ▸ rwStored_holds (hleaves.mem hd.1) m n, hend.sameBut hd, fun hl hopen h9 h8 => ?_⟩
    exact rwStored_counts hl (by rw [rwTaken_cht]; exact hopen) h9 h8 ((Reads.refl hd.2 _).rwTaken (seqCounter_checks h8 h9) m blocks)
  case openLength =>
    have hx := exec_remoteWriteBlock (blocks := blocks) hr hm hcls
    obtain ⟨hmod, hleast, hmost⟩ : (s.dev.rwTaken m blocks).1 % 4 = 0 ∧ 4 ≤ (s.dev.rwTaken m blocks).1 ∧ (s.dev.rwTaken m blocks).1 ≤ 228 :=
      postData_open hend hopen
    generalize hlen : (s.dev.rwTaken m blocks).1 = n at hx hmod hleast hmost
    have hwin : s.dev.inWindow a n = true := by
      unfold Dev.inWindow
      rw [mapped_shorter hmapped hmost, decide_eq_true ⟨hlow, by omega⟩]
      rfl
    rw [rwTaken_window hd.2, ← ha, if_pos hwin] at hx
    have hleaves : Leaves (apart blocks [(a, ((m.body.drop 16).take n).length)]) s.dev (s.dev.rwTaken m blocks).2 := Leaves.refl.rwTaken m
    have hdone := hleaves.rwStored (m := m) (n := n) fun x hx => ha ▸ apart_range hx (.head _)
    exact ⟨_, _, n, hx, ((Keeps.refl.rwTaken m blocks).rwStored m n).steady, hdone.sameConfig hd, hmod, hleast, hmost, rfl,
      ha ▸ rwStored_holds (hleaves.mem hd.1) m n, hdone.sameBut hd⟩
  case outside =>
    have hx := exec_remoteWriteBlock (blocks := blocks) hr hm hcls
    have hwin : s.dev.inWindow (u64 m.body 0) (s.dev.rwTaken m blocks).1 = false := by
      unfold Dev.inWindow
      rw [decide_eq_false fun h => Nat.not_le.mpr hlow h.1]
      rfl
    rw [rwTaken_window hd.2, hwin] at hx
    have hleaves : Leaves (fun a => !lostBy blocks a) s.dev ((s.dev.rwTaken m blocks).2.rwDiscarded m) := by
      have htaken : Leaves (fun a => !lostBy blocks a) s.dev (s.dev.rwTaken m blocks).2 :=
        ((Leaves.refl.foundBut _ fun a h => by simpa using h).takePacket m).postData _
      have hcounted := htaken.addSat Reg.chtRwDiscards 1
      exact (hcounted.raise chtPage 5).other
    have hkeeps : Keeps true s.dev ((s.dev.rwTaken m blocks).2.rwDiscarded m) :=
      (((Keeps.refl.rwTaken m blocks).addSat _ _).raise _ _).other
    obtain ⟨hcount, hpend⟩ := rwDiscarded_shows ((Reads.refl hd.2 Reg.chtRwDiscards).rwTaken (by decide) m blocks) m
    exact ⟨_, hx, hkeeps.steady, ⟨hleaves.config hd.2, fun a ha hlost => hleaves.byte hd.1 a (by simp [hlost]) ha⟩, hcount, hpend⟩
  case replay =>
    have hx := exec_captureReplayBlock hr hmode hb
    unfold Dev.offered at hx
    dsimp only at hx
    have honly : ∀ {e : Dev}, e.mem = s.dev.mem → e.regs = s.dev.regs → e.seqMain = s.dev.seqMain → e.seqBf = s.dev.seqBf →
        e.now = s.dev.now → s.dev.Only e [] := fun h1 h2 h3 h4 h5 => ⟨h1, ⟨by rw [h3], by rw [h4], h5⟩, fun a _ => by
      unfold Dev.reg
      rw [h2]⟩
    refine ⟨fun h0 => by rw [hx, if_pos h0], fun h0 hfull => by rw [hx, if_neg h0, if_pos hfull], fun h hroom => ?_,
      fun h hroom r hrun => ?_⟩
    · have h0 : (hdrOf b).cls ≠ 0 := by omega
      rw [if_neg h0, if_neg (Nat.not_le.mpr hroom), if_pos h] at hx
      exact ⟨_, hx, honly rfl rfl rfl rfl rfl, rfl, rfl⟩
    · have h0 : (hdrOf b).cls ≠ 0 := by omega
      rw [if_neg h0, if_neg (Nat.not_le.mpr hroom), if_neg (by omega), ← hrun] at hx
      refine ⟨_, hx, ?_⟩
      cases r.2 with
      | none => exact ⟨honly rfl rfl rfl rfl rfl, rfl, rfl, (List.append_nil _).symm⟩
      | some x => exact ⟨honly rfl rfl rfl rfl rfl, rfl, rfl, rfl⟩

end Sys2Proof.Proofs

/-! Requests for page states, and drains that end (R484, R485). -/
namespace Sys2Proof.Machine
set_option Elab.async false

/-- `d` comes from `o` by work that leaves a page's state, the drains that are over and the rollback. -/
structure Drains (p : Page) (o d : Dev) : Prop where
  reads : Reads o d (stateReg p)
  drained : d.drained = o.drained
  rollback : d.sky.rollback = o.sky.rollback

section
variable {s : State} {o d e : Dev} {p : Page} {c i : Nat} {hart : Fin 28} {gen : BitVec 8} {st : Stream}

theorem Drains.refl (h : Assoc.wf regReset o.regs = true) : Drains p o o := ⟨Reads.refl h _, rfl, rfl⟩

theorem Drains.other (h : Drains p o d) (hr : e.regs = d.regs := by rfl) (hd : e.drained = d.drained := by rfl)
    (hs : e.sky.rollback = d.sky.rollback := by rfl) : Drains p o e :=
  ⟨h.reads.other hr, hd.trans h.drained, hs.trans h.rollback⟩

theorem Drains.setReg (h : Drains p o d) {a : Nat} (w : Word) (ha : a % 0x1000 ≠ 0x014) : Drains p o (d.setReg a w) :=
  ⟨h.reads.setReg w (stateReg_ne ha), h.drained, h.rollback⟩

theorem Drains.setFld (h : Drains p o d) {a : Nat} (ha : a % 0x1000 ≠ 0x014) (hi lo v : Nat) : Drains p o (d.setFld a hi lo v) :=
  h.setReg _ ha

theorem Drains.setFlag (h : Drains p o d) {a : Nat} (ha : a % 0x1000 ≠ 0x014) (i : Nat) (b : Bool) : Drains p o (d.setFlag a i b) :=
  h.setReg _ ha

/-- Work of units and streams that writes no register of the page. -/
theorem Drains.carried (h : Drains p o d) (hc : Carried d e) {ps : List Nat} (hd : Confined ps d e) (hp : pageCode p.type ∉ ps) :
    Drains p o e :=
  ⟨h.reads.confined hd (eventReg_state p) ((regPage_stateReg p).symm ▸ hp), (congrArg (·.drained) hc).trans h.drained,
    (congrArg (·.sky.rollback) hc).trans h.rollback⟩

theorem Drains.raise (h : Drains p o d) (q : Page) (b : Nat) : Drains p o (d.raise q b) :=
  h.carried (Carried.refl.raise q b) (Confined.refl.raise (ps := []) q b) List.not_mem_nil

theorem Drains.record (h : Drains p o d) (r : Rec) : Drains p o (d.record r) :=
  h.carried (Carried.refl.record r) (Confined.refl.record (ps := []) r) List.not_mem_nil

theorem Drains.ite {c : Prop} [Decidable c] {x y : Dev} (hx : Drains p o x) (hy : Drains p o y) : Drains p o (if c then x else y) := by
  split
  · exact hx
  · exact hy

theorem Drains.foldl {α : Type} {f : Dev → α → Dev} {l : List α} (h : Drains p o d) (hf : ∀ x a, Drains p o x → Drains p o (f x a)) :
    Drains p o (l.foldl f d) := by
  induction l generalizing d with
  | nil => exact h
  | cons a l ih => exact ih (hf d a h)

theorem Drains.notifyCounter (h : Drains p o d) (n : Nat) : Drains p o (d.notifyCounter n) := by
  have hlow : Reg.seqCounter 0 n % 0x1000 ≠ 0x014 := by
    unfold Reg.seqCounter
    omega
  exact (h.setReg _ hlow).ite h

theorem Drains.told (h : Drains p o d) (a : Nat) (bs : List Byte) (n : Nat) : Drains p o (d.told a bs n) :=
  (Drains.other (e := d.writeAt a bs) h).notifyCounter n

theorem Drains.setStream (h : Drains p o d) (st : Stream) (f : StreamState → StreamState) : Drains p o (d.setStream st f) :=
  h.carried (ps := []) (Carried.refl.setStream st f) (Confined.refl.setStream st f) List.not_mem_nil

/-! What drains and entries into READY do. -/

/-- The runs that ended with a fault. -/
def Dev.xchgEnded (d : Dev) (l : List EndedXchg) : Dev := { d with xch := { d.xch with ended := l } }

theorem Drains.endXchg (h : Drains p o d) (x : XchgRun) (status peer : Nat) : Drains p o (d.endXchg x status peer) := by
  have htold : ∀ bs, Drains p o ((d.dropXchg x).told x.cmd.status bs x.cmd.counter) := fun bs =>
    (Drains.other (e := d.dropXchg x) h).told _ _ _
  have hended : ∀ bs l, Drains p o (((d.dropXchg x).told x.cmd.status bs x.cmd.counter).xchgEnded l) := fun bs l => (htold bs).other
  exact (htold _).ite ((hended _ _).record _).other

theorem Drains.drainCmp (h : Drains p o d) : Drains p o d.drainCmp := by
  have hclear : Drains p o d.clearFinals := h.other
  have hruns : ∀ l : List XchgRun, Drains p o (l.foldl (fun d x => d.endXchg x 9 0xFFFF) d.clearFinals) := fun _ =>
    hclear.foldl fun _ _ hx => hx.endXchg _ _ _
  exact (hruns d.xch.runs).other

theorem Drains.spoil (h : Drains p o d) (t : Option Desc) : Drains p o (d.spoil t) := by
  cases t with
  | none => exact h
  | some t => exact h.foldl fun _ _ hx => hx.other

/-- A reduction that a drain ends. -/
theorem Drains.endRed_drained (h : Drains p o d) (r : RedRun) : Drains p o (d.endRed r 10 0xFFFF) := by
  have htold : ∀ bs, Drains p o ((((d.dropRed r).spoil r.cmd.dst).told r.cmd.status bs r.cmd.counter).addSat Reg.redCommands 1) :=
    fun bs => ((Drains.spoil (Drains.other (e := d.dropRed r) h) _).told _ _ _).setReg _ (by decide)
  have hlow : Reg.redFaultLast % 0x1000 ≠ 0x014 := by decide
  exact (((((htold _).setReg _ hlow).raise _ _).record _)).other

theorem Drains.drainRed (h : Drains p o d) : Drains p o d.drainRed := by
  have hruns : ∀ l : List RedRun, Drains p o (l.foldl (fun d r => d.endRed r 10 0xFFFF) d) := fun _ =>
    h.foldl fun _ _ hx => hx.endRed_drained _
  exact (hruns d.redLive).other

theorem Drains.ringRollback (h : Drains p o d) : Drains p o d.ringRollback := by
  have hlow : Reg.hlmRingState % 0x1000 ≠ 0x014 := by decide
  have hslots : Drains p o ((List.range 8).foldl (fun d i => if d.slotState i = 1 ∨ d.slotState i = 2 then d.setSlot i 0 else d) d) :=
    h.foldl fun _ _ hx => (hx.setFld hlow _ _ _).ite hx
  exact hslots.other

theorem Drains.showHinge (h : Drains p o d) (i : Nat) : Drains p o (d.showHinge i) := by
  have hlow : ∀ off, 0x40 ≤ off → off < 0x1000 → (0x0D000000 + off + 0x1000 * (i % 4096)) % 0x1000 ≠ 0x014 := fun off _ _ => by omega
  have hstatus : Reg.hngStatus i % 0x1000 ≠ 0x014 := hlow 0x058 (by decide) (by decide)
  have hheld : Drains p o (d.setFld (Reg.hngStatus i) 7 0 (d.hinge i).held.length) := h.setFld hstatus _ _ _
  have hslot : ∀ n, Drains p o ((d.setFld (Reg.hngStatus i) 7 0 (d.hinge i).held.length).setFld (Reg.hngStatus i) 15 8 n) := fun n =>
    hheld.setFld hstatus _ _ _
  exact ((((((hslot _).setFlag hstatus _ _).setFlag hstatus _ _).setFlag hstatus _ _).setReg _ (hlow 0x05C (by decide) (by decide))).setReg
    _ (hlow 0x060 (by decide) (by decide))).setReg _ (hlow 0x064 (by decide) (by decide))

theorem Drains.tellSender_go (h : Drains p o d) (hp : pageCode p.type ∉ [0x00F]) (i : Nat) : Drains p o (d.tellSender i false) := by
  have hset : ∀ x, Drains p o (d.setHinge i x) := fun _ => h.other
  exact ((hset _).raise _ _).carried (Carried.refl.sendControl _ _) (Confined.refl.sendControl _ _ (.head _)) hp

theorem Drains.emptyHinge (h : Drains p o d) (hp : pageCode p.type ∉ [0x00F]) (i : Nat) : Drains p o (d.emptyHinge i) := by
  have hlow : Reg.hngStatus i % 0x1000 ≠ 0x014 := by
    unfold Reg.hngStatus
    omega
  have hset : ∀ x, Drains p o (d.setHinge i x) := fun _ => h.other
  exact ((((hset _).tellSender_go hp i).ite (hset _)).setReg _ hlow).showHinge i

theorem Drains.drainEffect (h : Drains p o d) : Drains p o (d.drainEffect p) := by
  unfold Dev.drainEffect
  split
  · exact h.drainCmp
  · exact h.drainRed
  · exact h.ringRollback
  · rename_i ht
    exact h.emptyHinge (by rw [ht]; decide) _
  · exact h.other
  · exact h

theorem Drains.clearStream (h : Drains p o d) (st : Stream) : Drains p o (d.clearStream st) := by
  have hlow : ∀ off, 0x40 ≤ off → off < 0x1000 → (0x08000000 + off + 0x1000 * (sidx st % 4096)) % 0x1000 ≠ 0x014 := fun off _ _ => by
    omega
  have hcounter : ∀ n, Reg.seqCounter (sidx st) n % 0x1000 ≠ 0x014 := fun n => by
    unfold Reg.seqCounter
    omega
  have hpreds := (h.setReg 1#32 (hlow 0x068 (by decide) (by decide))).setReg 0#32 (hlow 0x06C (by decide) (by decide))
  have hcounters := hpreds.foldl (f := fun d n => d.setReg (Reg.seqCounter (sidx st) n) 0#32) (l := List.range 16) fun _ n hx =>
    hx.setReg 0#32 (hcounter n)
  have hreject := hcounters.setFld (hlow 0x070 (by decide) (by decide)) 3 0 0
  exact hreject.setStream st _

theorem Drains.closeSend_abandoned (h : Drains p o d) (r : SendRun) : Drains p o (d.closeSend r 4) := by
  have htold : ∀ bs, Drains p o ((d.dropSend r).told r.cmd.status bs r.cmd.counter) := fun bs =>
    (Drains.other (e := d.dropSend r) h).told _ _ _
  exact htold _

theorem Drains.abandonSends (h : Drains p o d) : Drains p o d.abandonSends :=
  (h.foldl fun _ _ hx => hx.closeSend_abandoned _).ite h

/-- What a stream's page or a Hinge's does as it enters READY. -/
theorem Drains.enterReady (h : Drains p o d) (ht : p.type = .hng ∨ p.type = .seq) : Drains p o (d.enterReady p) := by
  unfold Dev.enterReady
  rcases ht with ht | ht <;> rw [ht]
  · exact h.abandonSends
  · exact h.clearStream _

theorem Drains.endWaiting (h : Drains p o d) (st : Stream) : Drains p o (d.endWaiting st) := by
  have hset : ∀ f, Drains p o (d.setStream st f) := fun f => h.setStream st f
  unfold Dev.endWaiting
  split
  · split
    · dsimp only
      split
      · exact (hset _).other
      · exact (hset _).other
      · exact hset _
    · exact h
  · exact h

theorem Drains.endStall (h : Drains p o d) : Drains p o d.endStall := by
  have hstatus : Reg.logStatus % 0x1000 ≠ 0x014 := by decide
  have hmax : Reg.logStallMaxUs % 0x1000 ≠ 0x014 := by decide
  unfold Dev.endStall
  split
  · exact h
  · have hflag := h.setFlag hstatus 2 false
    exact (hflag.setReg _ hmax).other

theorem Drains.stopStream (h : Drains p o d) (st : Stream) : Drains p o (d.stopStream st) := by
  have hahead := (h.endWaiting st).setStream st fun s => { s with ahead := [] }
  unfold Dev.stopStream
  cases st with
  | main =>
    have hlow : Reg.skyStatus % 0x1000 ≠ 0x014 := by decide
    exact (hahead.endStall.setFlag hlow 13 false).other
  | backfill =>
    have hlow : Reg.seqBfStatus 1 % 0x1000 ≠ 0x014 := by decide
    exact hahead.setFlag hlow 3 false

theorem Drains.enterDraining (h : Assoc.wf regReset o.regs = true) : Reads o (o.enterDraining p) (stateReg p) := by
  have hfilter : Drains p ({ o with drained := o.drained.filter fun k => k != pageKey p } : Dev)
      { o with drained := o.drained.filter fun k => k != pageKey p } := Drains.refl h
  unfold Dev.enterDraining
  split
  · exact (hfilter.stopStream _).reads
  · exact hfilter.reads

/-! Requests. -/

theorem access_reaches {q : Nat} {write : Bool} (hl : (s.liveHart q).isSome = true) (h : s.reaches q p write = true) (f : Dev → Dev) :
    s.access q p write f = .next { s with dev := f s.dev } := by
  refine congrArg Host.Outcome.next ((byHart_live hl _).trans ?_)
  rw [h]
  rfl

theorem exec_stateRequest (hl : (s.liveHart hart).isSome = true) (h : s.reaches hart p true = true) {req : Instr}
    (hreq : (c, req) ∈ [(1, Instr.stateRequestReady hart p gen), (2, Instr.stateRequestActive hart p gen),
      (3, Instr.stateRequestDraining hart p gen), (6, Instr.stateRequestQuarantine hart p gen)]) :
    exec req s = .next { s with dev := s.dev.stateRequest p c gen.toNat } := by
  have hall : ∀ c, s.request hart p c gen = .next { s with dev := s.dev.stateRequest p c gen.toNat } := fun c => access_reaches hl h _
  simp only [List.mem_cons, Prod.mk.injEq, List.not_mem_nil, or_false] at hreq
  rcases hreq with ⟨rfl, rfl⟩ | ⟨rfl, rfl⟩ | ⟨rfl, rfl⟩ | ⟨rfl, rfl⟩ <;> exact hall _

theorem exec_drainComplete (hr : s.carrier.phase = .running) (hin : p.inst < pageInstances p.type) (hcode : s.dev.code p = 3)
    (hnot : s.dev.drained.contains (pageKey p) = false) (hover : s.dev.drainOver p = true) :
    exec (.drainComplete p) s = .next { s with dev := s.dev.completeDrain p } := by
  show execDrainComplete p s = _
  refine act_next hr ?_
  rw [hcode, hnot, hover, decide_eq_true hin]
  rfl

theorem stateRequest_stale {g : Nat} (h : g ≠ d.fld (stateReg p) 15 8) : d.stateRequest p c g = d.reqResult p 2 := if_pos h

theorem stateRequest_refused {g : Nat} (h : g = d.fld (stateReg p) 15 8)
    (hno : d.fld (stateReg p) 23 20 ≠ 0 ∨ (pageRequestable p.type).contains c = false) : d.stateRequest p c g = d.reqResult p 3 := by
  refine (if_neg (not_not_intro h)).trans (if_pos ?_)
  rcases hno with h | h
  · rw [show decide (bits (d.reg (stateReg p)) 23 20 ≠ 0) = true from decide_eq_true h]
    rfl
  · rw [h]
    simp

theorem stateRequest_taken {g : Nat} (h : g = d.fld (stateReg p) 15 8) (hnone : d.fld (stateReg p) 23 20 = 0)
    (hyes : (pageRequestable p.type).contains c = true) : d.stateRequest p c g = d.transition p c := by
  refine (if_neg (not_not_intro h)).trans (if_neg ?_)
  rw [show decide (bits (d.reg (stateReg p)) 23 20 ≠ 0) = false from decide_eq_false (not_not_intro hnone), hyes]
  decide

/-! Transitions on request. -/

theorem enterActive_regs (d : Dev) (p : Page) : (d.enterActive p).regs = d.regs := by
  unfold Dev.enterActive
  split <;> rfl

theorem Touches.enterActive {as : List Nat} (h : Touches o d as) (p : Page) : Touches o (d.enterActive p) as := by
  unfold Dev.enterActive
  split
  · exact h.other
  · exact h

theorem fld_of_regs (h : e.regs = d.regs) {a hi lo : Nat} : e.fld a hi lo = d.fld a hi lo := by
  unfold Dev.fld Dev.reg
  rw [h]

theorem code_of_regs (h : e.regs = d.regs) : e.code p = d.code p := fld_of_regs h

/-- A request taken at once moves the page and changes no other register. -/
theorem transition_taken (hd : Assoc.wf regReset d.regs = true) (h : c = 2 ∧ d.code p = 1 ∧ d.activeOk p = true ∨ c = 6 ∧ d.code p = 1 ∨
    c = 1 ∧ d.code p = 2 ∧ [PageType.log, .sxt, .sky].contains p.type = true) :
    ∃ e, d.transition p c = e ∧ Touches d e [stateReg p] ∧ e.regs = (d.accept p c).regs ∧ c < 16 ∧ d.code p ≠ c := by
  have htouch : ∀ c, Touches d (d.accept p c) [stateReg p] := fun c => (Touches.refl hd).accept p (.head _) c
  unfold Dev.transition
  rcases h with ⟨rfl, hcode, hok⟩ | ⟨rfl, hcode⟩ | ⟨rfl, hcode, ht⟩
  · rw [hcode]
    exact ⟨_, if_pos hok, (htouch 2).enterActive p, enterActive_regs _ p, by decide, by decide⟩
  · rw [hcode]
    exact ⟨_, rfl, htouch 6, rfl, by decide, by decide⟩
  · rw [hcode]
    have hready : (d.accept p 1).enterReady p = d.accept p 1 ∧ [PageType.hub, .log, .sxt, .sky].contains p.type = true := by
      unfold Dev.enterReady
      generalize p.type = t at ht
      cases t <;> revert ht <;> simp
    exact ⟨_, if_pos hready.2, (show Touches d _ [stateReg p] from hready.1.symm ▸ htouch 1), by rw [hready.1], by decide, by decide⟩

theorem transition_draining (h : d.code p = 2 ∨ d.code p = 7) : d.transition p 3 = (d.accept p 3).enterDraining p := by
  unfold Dev.transition
  rcases h with h | h <;> rw [h] <;> rfl

theorem transition_held (h : d.code p = 3) (hwait : d.readyOk p = false) :
    d.transition p 1 = (d.setFld (stateReg p) 23 20 1).reqResult p 4 := by
  unfold Dev.transition
  rw [h]
  exact if_neg (by rw [hwait]; decide)

/-! A drain that is over. -/

/-- The device once a page's drain is over, whose work in flight is discarded. -/
def Dev.drainOut (d : Dev) (p : Page) : Dev :=
  { d.drainEffect p with drained := pageKey p :: (d.drainEffect p).drained }

theorem drainOut_reads (hd : Assoc.wf regReset d.regs = true) (p : Page) :
    Reads d (d.drainOut p) (stateReg p) ∧ (d.drainOut p).sky.rollback = d.sky.rollback :=
  have h : Drains p d (d.drainEffect p) := (Drains.refl hd).drainEffect
  ⟨h.reads.other, h.rollback⟩

theorem startFlush_none (h : d.sky.rollback = false) : d.startFlush = d := by
  unfold Dev.startFlush
  dsimp only
  rw [h]
  rfl

/-- Outside a rollback a drain that is over brings nothing more than the request that is held. -/
theorem completeDrain_over (hd : Assoc.wf regReset d.regs = true) (h : d.sky.rollback = false) : d.completeDrain p =
    (if d.fld (stateReg p) 23 20 = 1 then (d.drainOut p).leaveDraining p else d.drainOut p).startFlush := by
  obtain ⟨hreads, hroll⟩ := drainOut_reads hd p
  have hfld : (d.drainOut p).fld (stateReg p) 23 20 = d.fld (stateReg p) 23 20 := congrArg (bits · 23 20) hreads.2
  have hout : ∀ sky, (if (d.drainEffect p).sky.rollback then sky else (d.drainEffect p).sky) = (d.drainEffect p).sky := fun sky => by
    rw [show (d.drainEffect p).sky.rollback = false from hroll.trans h]
    rfl
  rw [← hfld]
  unfold Dev.completeDrain
  dsimp only
  rw [hout]
  rfl

/-- The device with other drains that are over. -/
def Dev.drainsOver (d : Dev) (l : List (Nat × Nat)) : Dev := { d with drained := l }

theorem accept_wf (hd : Assoc.wf regReset d.regs = true) (p : Page) (c : Nat) : Assoc.wf regReset (d.accept p c).regs = true :=
  ((Touches.refl hd).accept (as := [stateReg p]) p (.head _) c).wf

theorem accept_rest (d : Dev) (p : Page) (c : Nat) : (d.accept p c).drained = d.drained ∧ (d.accept p c).sky = d.sky :=
  ⟨Dev.moveTo_drained (d := d.setFld (stateReg p) 23 20 0) p c, Dev.moveTo_sky (d := d.setFld (stateReg p) 23 20 0) p c⟩

/-- A stream's page and a Hinge's leave DRAINING for READY. -/
theorem leaveDraining_leaves (hd : Assoc.wf regReset d.regs = true) (h3 : d.code p = 3) (ht : p.type = .hng ∨ p.type = .seq) :
    (d.leaveDraining p).code p = 1 ∧ (d.leaveDraining p).drained.contains (pageKey p) = false ∧
      (d.leaveDraining p).sky.rollback = d.sky.rollback := by
  have hleave : d.leaveDraining p = ((d.drainsOver (d.drained.filter fun k => k != pageKey p)).accept p 1).enterReady p := rfl
  have hover : ∀ l, Assoc.wf regReset (d.drainsOver l).regs = true ∧ (d.drainsOver l).code p ≠ 1 := fun l =>
    ⟨hd, fun h => absurd (h3.symm.trans h) (by decide)⟩
  rw [hleave]
  obtain ⟨hwf, hne⟩ := hover (d.drained.filter fun k => k != pageKey p)
  have hready := (Drains.refl (accept_wf hwf p 1)).enterReady ht
  obtain ⟨hdrained, hsky⟩ := accept_rest (d.drainsOver (d.drained.filter fun k => k != pageKey p)) p 1
  refine ⟨(congrArg (bits · 3 0) hready.reads.2).trans (Dev.accept_state hwf p (by decide) hne).1, ?_, ?_⟩
  · rw [hready.drained, hdrained]
    simp [Dev.drainsOver]
  · rw [hready.rollback, hsky]
    rfl

end

end Sys2Proof.Machine

namespace Sys2Proof.Proofs
set_option Elab.async false
open Sys2Proof Sys2Proof.Machine

/-- Settles O45: requests stale, refused, taken and held; drains that end with and without a request. -/
theorem stateRequests : Obligations.StateRequests := by
  unfold Obligations.StateRequests
  intro s hart p gen hd
  refine ⟨fun hl hreach c req hreq => ?requests, fun hr hin hcode hnot hover hroll => ?drains⟩
  case requests =>
    have hx := exec_stateRequest hl hreach hreq
    refine ⟨fun hgen => by rw [hx, stateRequest_stale hgen], fun hgen => ⟨fun hno => by rw [hx, stateRequest_refused hgen hno],
      fun hnone hyes => ?_⟩⟩
    rw [stateRequest_taken hgen hnone hyes] at hx
    refine ⟨fun hdirect => ?_, fun hc hfrom => ?_, fun hc hfrom hwait => ?_⟩
    · obtain ⟨e, he, htouch, hregs, hlow, hne⟩ := transition_taken hd.2 hdirect
      obtain ⟨hcode, hresult, hnew⟩ := Dev.accept_state hd.2 p hlow hne
      rw [he] at hx
      refine ⟨e, hx, htouch.only, ?_⟩
      rw [code_of_regs hregs, fld_of_regs hregs, fld_of_regs hregs, hgen]
      exact ⟨hcode, hresult, hnew⟩
    · subst hc
      have hne : s.dev.code p ≠ 3 := by omega
      obtain ⟨hcode, hresult, hnew⟩ := Dev.accept_state hd.2 p (c := 3) (by decide) hne
      have hwf : Assoc.wf regReset (s.dev.accept p 3).regs = true := accept_wf hd.2 p 3
      have hreads := (Drains.enterDraining (p := p) hwf).2
      rw [transition_draining hfrom] at hx
      have hleaves : Leaves (fun _ => true) s.dev ((s.dev.accept p 3).enterDraining p) := (Leaves.refl.accept p 3).enterDraining p
      refine ⟨_, hx, hleaves.calm hd, ?_⟩
      unfold Dev.code Dev.fld at *
      rw [hreads, hgen]
      exact ⟨hcode, hresult, hnew⟩
    · subst hc
      rw [transition_held hfrom hwait] at hx
      have hset : Assoc.wf regReset (s.dev.setFld (stateReg p) 23 20 1).regs = true := Assoc.wf_set hd.2 _ _
      have haway : ∀ {hi lo : Nat}, hi < 16 ∨ 19 < lo → ((s.dev.setFld (stateReg p) 23 20 1).reqResult p 4).fld (stateReg p) hi lo =
          (s.dev.setFld (stateReg p) 23 20 1).fld (stateReg p) hi lo := fun h => Dev.fld_setFld_other hset _ h _
      refine ⟨_, hx, (((Touches.refl hd.2).setFld (.head _) 23 20 1).reqResult p (.head _) 4).only, ?_,
        Dev.fld_setFld hset _ (by decide) (by decide) _, ?_, ?_⟩
      · rw [← hfrom]
        exact (haway (.inl (by decide))).trans (Dev.fld_setFld_other hd.2 _ (.inl (by decide)) _)
      · exact (haway (.inr (by decide))).trans (Dev.fld_setFld hd.2 _ (by decide) (by decide) _)
      · rw [hgen]
        exact (haway (.inl (by decide))).trans (Dev.fld_setFld_other hd.2 _ (.inl (by decide)) _)
  case drains =>
    have hx := exec_drainComplete hr hin hcode hnot hover
    have hconfig : ∀ {d}, exec (.drainComplete p) s = .next { s with dev := d } → s.dev.SameConfig d := fun he =>
      Leaving.sameConfig (show Leaving _ s (exec (.drainComplete p) s) from leaving_execDrainComplete p) he hd
    obtain ⟨hreads, hkept⟩ := drainOut_reads hd.2 p
    rw [completeDrain_over hd.2 hroll] at hx
    refine ⟨fun hnone => ?_, fun hasked ht => ?_⟩
    · rw [if_neg (by rw [hnone]; decide), startFlush_none (hkept.trans hroll)] at hx
      exact ⟨_, hx, hconfig hx, by simp [Dev.drainOut]⟩
    · obtain ⟨hready, hgone, hsky⟩ := leaveDraining_leaves hreads.1 ((congrArg (bits · 3 0) hreads.2).trans hcode) ht
      rw [if_pos hasked, startFlush_none (hsky.trans (hkept.trans hroll))] at hx
      exact ⟨_, hx, hconfig hx, hready, hgone⟩

end Sys2Proof.Proofs

/-! Configuration writes with an effect of their own: the Helm's slot size during a rollback (R271, R384). -/
namespace Sys2Proof.Machine
set_option Elab.async false

/-- The package after reset in a rollback, which keeps the ring as it is: no slot is FIXED. -/
def rollingBack : State :=
  { State.reset with dev := { State.reset.dev with sky := { State.reset.dev.sky with rollback := true } } }

theorem rollingBack_live : (rollingBack.liveHart 24).isSome = true := by decide +kernel

theorem rollingBack_tidy : rollingBack.dev.Tidy := by
  unfold Dev.Tidy
  decide +kernel

theorem rollingBack_ready : rollingBack.dev.ready hlmPage = true := by decide +kernel

/-- A write of the slot size wakes the Helm, but a rollback's ring has no slot FIXED by it. -/
theorem rollingBack_none : ((rollingBack.dev.store Reg.hlmRingSlot 1#32).wakeHelm.slotIn 3).isSome = false := by decide +kernel

theorem exec_hlmRingSlotWrite {s : State} {hart : Fin 28} (h : (s.liveHart hart).isSome = true) (v : Word) :
    exec (.hlmRingSlotWrite hart v) s = .next { s with dev := (s.dev.store Reg.hlmRingSlot v).wakeHelm } :=
  congrArg Host.Outcome.next (byHart_live h _)

end Sys2Proof.Machine

namespace Sys2Proof.Proofs
set_option Elab.async false
open Sys2Proof Sys2Proof.Machine

/-- Refutes O46: in a rollback the write of HLM_RING_SLOT that takes the Helm ACTIVE keeps the ring (R384), so that no slot need be
FIXED after it; the statement asks for one without excepting a rollback. -/
theorem not_writesWithEffects : ¬ Obligations.WritesWithEffects := by
  unfold Obligations.WritesWithEffects
  intro h
  obtain ⟨-, -, -, -, -, hslot, -⟩ := h rollingBack 24 1#32 _ rollingBack_live rollingBack_tidy rfl
  obtain ⟨d, hx, -, -, hfixed⟩ := hslot rollingBack_ready (by decide)
  have hsame : (rollingBack.dev.store Reg.hlmRingSlot 1#32).wakeHelm = d :=
    congrArg State.dev (Host.Outcome.next.inj ((exec_hlmRingSlotWrite rollingBack_live 1#32).symm.trans hx))
  rw [← hsame, rollingBack_none] at hfixed
  exact Bool.false_ne_true hfixed

end Sys2Proof.Proofs

/-! Events that a list of acts names are all set: what each act may set off costs less than the acts that a run may do (R418, R482). -/
namespace Sys2Proof.Machine
set_option Elab.async false

/-- One for an event bit that is not set. -/
def Dev.unset (d : Dev) (p : Page) (b : Nat) : Nat := if d.pend p b then 0 else 1

/-- The acts that the event bits set off by acts themselves, IRQ_MISSED, RECORD and LOST, may still bring. -/
def Dev.eventBudget (d : Dev) : Nat :=
  7 * (d.unset (page1 .irq) 1 + d.unset (page1 .log) 0 + d.unset (page1 .log) 3)

/-- An event that acts themselves set off. -/
def setOff (p : Page) (b : Nat) : Prop := p = page1 .irq ∧ b = 1 ∨ p = page1 .log ∧ (b = 0 ∨ b = 3)

/-- The acts that one act may bring, those of the event bits that acts set off aside. -/
def actCost : Act → Nat
  | .event p b f => if p = page1 .irq ∧ b = 1 ∨ p = page1 .log ∧ (b = 0 ∨ b = 3) then 1 else if f then 3 else 8
  | .edge _ => 2
  | .record _ => 5

def actsCost (as : List Act) : Nat := (as.map actCost).sum

section
variable {d e : Dev} {p : Page} {b n : Nat} {as : List Act} {a : Act} {f : Bool}

theorem actCost_setOff (h : setOff p b) : actCost (.event p b f) = 1 := if_pos h

theorem actCost_other (h : ¬ setOff p b) : actCost (.event p b f) = if f then 3 else 8 := if_neg h

theorem actCost_pos (a : Act) : 1 ≤ actCost a := by
  unfold actCost
  split
  · split
    · decide
    · split <;> decide
  · decide
  · decide

theorem actsCost_append (as bs : List Act) : actsCost (as ++ bs) = actsCost as + actsCost bs := by
  unfold actsCost
  rw [List.map_append, List.sum_append]

theorem unset_le (h : d.pend p b = true → e.pend p b = true) : e.unset p b ≤ d.unset p b := by
  unfold Dev.unset
  split
  · exact Nat.zero_le _
  · rename_i he
    rw [if_neg fun hd => he (h hd)]

/-- Event bits stay set. -/
theorem eventBudget_le (h : ∀ p b, d.pend p b = true → e.pend p b = true) : e.eventBudget ≤ d.eventBudget := by
  have h1 := unset_le (h (page1 .irq) 1)
  have h2 := unset_le (h (page1 .log) 0)
  have h3 := unset_le (h (page1 .log) 3)
  unfold Dev.eventBudget
  omega

theorem unset_set (hd : d.pend p b = false) (he : e.pend p b = true) : e.unset p b + 1 = d.unset p b := by
  unfold Dev.unset
  rw [hd, he]
  rfl

/-- One that acts set off uses up its part. -/
theorem eventBudget_lt (h : ∀ p b, d.pend p b = true → e.pend p b = true) (hs : setOff p b) (hd : d.pend p b = false)
    (he : e.pend p b = true) : e.eventBudget + 7 ≤ d.eventBudget := by
  have h1 := unset_le (h (page1 .irq) 1)
  have h2 := unset_le (h (page1 .log) 0)
  have h3 := unset_le (h (page1 .log) 3)
  have hset := unset_set hd he
  unfold Dev.eventBudget
  rcases hs with ⟨rfl, rfl⟩ | ⟨rfl, rfl | rfl⟩ <;> omega

theorem act_wf (hd : Assoc.wf regReset d.regs = true) (a : Act) : Assoc.wf regReset (d.act a).1.regs = true :=
  (Leaves.refl (B := noBytes).act a).regs hd

theorem act_pend (hd : Assoc.wf regReset d.regs = true) (a : Act) (p : Page) (b : Nat) (h : d.pend p b = true) :
    (d.act a).1.pend p b = true := (Pends.act ⟨hd, h⟩ a).pend

theorem setOff_irq : setOff (page1 .irq) 1 := .inl ⟨rfl, rfl⟩

theorem setOff_record : setOff (page1 .log) 0 := .inr ⟨rfl, .inl rfl⟩

theorem setOff_lost : setOff (page1 .log) 3 := .inr ⟨rfl, .inr rfl⟩

theorem edge_cost (d : Dev) (x : Nat) : actsCost (d.edge x).2 ≤ 1 := by
  have hmissed : actsCost [.event (page1 .irq) 1 false] ≤ 1 := by decide
  unfold Dev.edge
  split
  · exact Nat.zero_le _
  · split
    · dsimp only
      split
      · exact hmissed
      · exact Nat.zero_le _
    · exact Nat.zero_le _

theorem putRecord_cost (d : Dev) (bytes : List Byte) : actsCost (d.putRecord bytes).2 ≤ 2 := by
  have hone : actsCost [.event (page1 .log) 0 false] ≤ 2 := by decide
  have htwo : actsCost [.event (page1 .log) 0 false, .event (page1 .log) 0 false] ≤ 2 := by decide
  unfold Dev.putRecord
  dsimp only
  split
  · exact htwo
  · exact hone

theorem append_cost (d : Dev) (r : Rec) : actsCost (d.append r).2 ≤ 4 := by
  have hlost : actsCost [.event (page1 .log) 3 false] ≤ 4 := by decide
  have hloss : ∀ loss, actsCost (d.closeLoss loss).2 ≤ 2 := fun loss => by
    unfold Dev.closeLoss
    split
    · exact Nat.zero_le _
    · exact putRecord_cost _ _
  have hkeep : ∀ loss bytes, actsCost (d.keepRecord r loss bytes).2 ≤ 4 := fun loss bytes => by
    have hput := putRecord_cost ((({ (d.closeLoss loss).1 with log := { (d.closeLoss loss).1.log with lost := 0 } } : Dev).digestRec r
      bytes)) bytes
    have hl := hloss loss
    show actsCost ((d.closeLoss loss).2 ++ _) ≤ 4
    rw [actsCost_append]
    exact Nat.add_le_add hl hput
  have hite : ∀ (c : Prop) [Decidable c] (x y : Dev × List Act), actsCost x.2 ≤ 4 → actsCost y.2 ≤ 4 →
      actsCost (if c then x else y).2 ≤ 4 := fun c _ x y hx hy => by
    split
    · exact hx
    · exact hy
  exact hite _ _ _ (Nat.zero_le _) (hite _ _ _ hlost (hkeep _ _))

/-- The acts that a new event sets off. -/
theorem event_cost (d : Dev) (p : Page) (b : Nat) (f : Bool) : actsCost (d.event p b f).2 ≤ if f then 2 else 7 := by
  have hirq : ∀ c : Bool, actsCost (if c then [Act.edge (pageSource p)] else []) ≤ 2 := fun c => by
    cases c
    · exact Nat.zero_le _
    · exact Nat.le_refl 2
  have hlog : ∀ (c : Bool) (r : Rec), actsCost (if (!f && c) = true then [Act.record r] else []) ≤ if f then 0 else 5 := fun c r => by
    cases f
    · cases c
      · exact Nat.zero_le _
      · exact Nat.le_refl 5
    · exact Nat.le_refl 0
  unfold Dev.event
  dsimp only
  split
  · exact Nat.zero_le _
  · rw [actsCost_append]
    have h1 := hirq (d.flag (evEnReg p) b)
    have h2 := hlog (d.flag (pageAddr p.type p.inst + 0x010) 0) ((d.setFlag (evPendReg p) b true).eventRec p b 0xFFFF [])
    cases f
    · exact Nat.add_le_add h1 h2
    · exact Nat.add_le_add h1 h2

theorem event_set (hd : Assoc.wf regReset d.regs = true) (p : Page) (hb : b < 32) (f : Bool) : Pends (d.event p b f).1 p b := by
  cases hp : d.pend p b with
  | true => exact Pends.event ⟨hd, hp⟩ p b f
  | false =>
    have hset : (d.event p b f).1 = d.setFlag (evPendReg p) b true := by
      unfold Dev.event
      rw [show d.flag (evPendReg p) b = false from hp]
      rfl
    refine ⟨hset ▸ Assoc.wf_set hd _ _, ?_⟩
    rw [hset]
    show bit ((d.setReg (evPendReg p) (setBit (d.reg (evPendReg p)) b true)).reg (evPendReg p)) b = true
    rw [Dev.reg_setReg_same hd]
    exact bit_setBit _ hb true

/-- Each act brings less than it costs. -/
theorem act_cost (hd : Assoc.wf regReset d.regs = true) (a : Act) :
    (d.act a).1.eventBudget + actsCost (d.act a).2 + 1 ≤ d.eventBudget + actCost a := by
  have hle : (d.act a).1.eventBudget ≤ d.eventBudget := eventBudget_le fun p b => act_pend hd a p b
  cases a with
  | edge x =>
    have h := edge_cost d x
    show _ + actsCost (d.edge x).2 + 1 ≤ _ + 2
    omega
  | record r =>
    have h := append_cost d r
    show _ + actsCost (d.append r).2 + 1 ≤ _ + 5
    omega
  | event p b f =>
    have hcost := event_cost d p b f
    have hmost : (if f then 2 else 7) ≤ 7 := by cases f <;> decide
    show _ + actsCost (d.event p b f).2 + 1 ≤ _
    by_cases hs : setOff p b
    · rw [actCost_setOff hs]
      have hb : b < 32 := by
        rcases hs with ⟨-, rfl⟩ | ⟨-, rfl | rfl⟩ <;> decide
      cases hp : d.pend p b with
      | true =>
        have hnone : (d.event p b f).2 = [] := by
          unfold Dev.event
          rw [show d.flag (evPendReg p) b = true from hp]
          rfl
        rw [hnone]
        exact Nat.add_le_add_right hle 1
      | false =>
        have hlt : (d.act (.event p b f)).1.eventBudget + 7 ≤ d.eventBudget :=
          eventBudget_lt (fun p b => act_pend hd _ p b) hs hp (event_set hd p hb f).pend
        omega
    · rw [actCost_other hs]
      cases f <;> simp only [Bool.false_eq_true, if_true, if_false] at hcost ⊢ <;> omega

/-- A run with enough acts sets every event of its list. -/
theorem runActs_sets (hd : Assoc.wf regReset d.regs = true) (hn : d.eventBudget + actsCost as ≤ n) (h : Act.event p b f ∈ as)
    (hb : b < 32) : Pends (Dev.runActs n d as) p b := by
  induction n generalizing d as with
  | zero =>
    obtain ⟨before, after, rfl⟩ := List.append_of_mem h
    have hpos := actCost_pos (.event p b f)
    rw [actsCost_append] at hn
    have hcons : actsCost (.event p b f :: after) = actCost (.event p b f) + actsCost after := rfl
    omega
  | succ n ih =>
    cases as with
    | nil => exact absurd h List.not_mem_nil
    | cons a as =>
      have hcost := act_cost hd a
      have hcons : actsCost (a :: as) = actCost a + actsCost as := rfl
      rcases List.mem_cons.mp h with he | hrest
      · subst he
        exact (event_set hd p hb f).runActs n _
      · refine ih (act_wf hd a) ?_ (List.mem_append_right _ hrest)
        rw [actsCost_append]
        omega

theorem forced_cost (p : Page) (bs : List Nat) : actsCost (bs.map fun b => .event p b true) ≤ 3 * bs.length := by
  induction bs with
  | nil => exact Nat.le_refl 0
  | cons b bs ih =>
    have hone : actCost (.event p b true) ≤ 3 := by
      by_cases hs : setOff p b
      · rw [actCost_setOff hs]
        decide
      · rw [actCost_other hs]
        decide
    have hcons : actsCost ((b :: bs).map fun b => .event p b true) = actCost (.event p b true) +
        actsCost (bs.map fun b => .event p b true) := rfl
    rw [hcons, List.length_cons]
    omega

/-- Every event forced is set. -/
theorem forced_set (hd : Assoc.wf regReset d.regs = true) {bs : List Nat} (h : b ∈ bs) (hb : b < 32) :
    Pends (d.acts (bs.map fun b => .event p b true)) p b := by
  refine runActs_sets hd ?_ (List.mem_map.mpr ⟨b, h, rfl⟩) hb
  have hcost := forced_cost p bs
  have hbudget : d.eventBudget ≤ 21 := by
    have hone : ∀ p b, d.unset p b ≤ 1 := fun p b => by
      unfold Dev.unset
      split <;> decide
    have h1 := hone (page1 .irq) 1
    have h2 := hone (page1 .log) 0
    have h3 := hone (page1 .log) 3
    unfold Dev.eventBudget
    omega
  rw [List.length_map]
  omega

end

end Sys2Proof.Machine

/-! Harts' accesses to registers (R5, R410, R467, R476 to R478, R482, R488). -/
namespace Sys2Proof.Machine
set_option Elab.async false

section
variable {s : State} {o d e : Dev} {p : Page} {a off : Nat} {v : Word} {h : Hart} {hart : Fin 28} {i : Nat}

theorem live_isSome (hl : s.liveHart i = some h) : (s.liveHart i).isSome = true := by
  rw [hl]
  rfl

theorem live_hart (hl : s.liveHart i = some h) : s.harts[i]? = some h := by
  unfold State.liveHart at hl
  split at hl
  · rename_i x hx
    split at hl
    · rw [hx]
      exact hl
    · cases hl
  · cases hl

theorem onHart_live (hl : s.liveHart i = some h) (f : Hart → Hart) : s.onHart i f = { s with harts := s.harts.set i (f h) } := by
  unfold State.onHart
  rw [hl]

theorem windowAddr_page (ha : a < pageWindow) : windowAddr (windowBase + a) = some a := by
  unfold windowAddr
  rw [if_pos ⟨Nat.le_add_right _ _, Nat.add_lt_add_left ha _⟩, Nat.add_sub_cancel_left]

/-! Writes. -/

theorem exec_registerWrite (hl : (s.liveHart hart).isSome = true) (hp : pageOf a = some (p, off)) (h4 : a % 4 = 0)
    (ha : a < pageWindow) (hown : ownRow p off v = false) (hreach : s.reaches hart p true = true) :
    exec (.registerWrite hart (windowBase + a) v) s = .next { s with dev := s.dev.plainWrite p off a v } := by
  show execRegisterWrite hart (windowBase + a) v s = _
  unfold execRegisterWrite
  rw [windowAddr_page ha]
  dsimp only
  rw [hp]
  dsimp only
  rw [if_neg (by rw [h4, hown]; decide)]
  exact access_reaches hl hreach _

theorem exec_registerWrite_denied (hl : (s.liveHart hart).isSome = true) (hp : pageOf a = some (p, off)) (ha : a < pageWindow)
    (hreach : s.reaches hart p true = false) : exec (.registerWrite hart (windowBase + a) v) s = .next s := by
  have haccess : ∀ f, s.access hart p true f = .next s := fun f => by
    refine congrArg Host.Outcome.next ((byHart_live hl _).trans ?_)
    rw [hreach]
    rfl
  show execRegisterWrite hart (windowBase + a) v s = _
  unfold execRegisterWrite
  rw [windowAddr_page ha]
  dsimp only
  rw [hp]
  dsimp only
  split
  · rfl
  · exact haccess _

theorem exec_registerLoRead (hl : s.liveHart hart = some h) (hp : pageOf a = some (p, off)) (h4 : a % 4 = 0) (ha : a < pageWindow)
    (hown : ownRead p off = false) (hreach : s.reaches hart p false = true) :
    exec (.registerLoRead hart (windowBase + a)) s = .next { s with harts := s.harts.set hart (s.hartSees h p off a) } := by
  show execRegisterLoRead hart (windowBase + a) s = _
  unfold execRegisterLoRead
  rw [windowAddr_page ha]
  dsimp only
  rw [hp]
  dsimp only
  rw [if_pos ⟨h4, by rw [hown]; rfl, hreach⟩, onHart_live hl]

/-- A plain write to a register that has no more to it. -/
theorem plainWrite_store (h1 : off ≠ 0x018) (h2 : a ≠ Reg.logDrainedLo) (h3 : a ≠ Reg.thmCfg) (h4 : a ≠ Reg.chtPostHead)
    (h5 : [Reg.pwrCap, Reg.pwrClkLimits, Reg.thmAlertCap].contains a = false) : d.plainWrite p off a v = d.store a v := by
  unfold Dev.plainWrite
  rw [if_neg h1, if_neg h2, if_neg h3, if_neg h4, if_neg (by rw [h5]; decide)]

/-- A request for a state that may not be requested. -/
theorem stateRequest_refuses {c g : Nat} (hc : [1, 2, 3, 6].contains c = false) :
    d.stateRequest p c g = d.reqResult p (if g ≠ d.fld (stateReg p) 15 8 then 2 else 3) := by
  have hnot : (pageRequestable p.type).contains c = false := by
    have hsub : ∀ x ∈ pageRequestable p.type, x ∈ [1, 2, 3, 6] := by cases p.type <;> decide
    rw [List.contains_eq_mem, decide_eq_false_iff_not] at hc ⊢
    exact fun hx => hc (hsub c hx)
  by_cases hg : g = d.fld (stateReg p) 15 8
  · rw [stateRequest_refused hg (.inr hnot), if_neg (not_not_intro hg)]
  · rw [stateRequest_stale hg, if_pos hg]

theorem ownRow_request (ho : ownRow p 0x018 v = false) : [1, 2, 3, 6].contains (bits v 3 0) = false := by
  unfold ownRow at ho
  simp only [Bool.or_eq_false_iff] at ho
  exact ho.1.2

/-- The registers that a page's address names. -/
theorem pageOf_named (hp : pageOf a = some (p, off)) {t : PageType} {n : Nat} (ht : pageOf a = some (page1 t, n)) :
    p = page1 t ∧ off = n := by
  rw [hp] at ht
  exact ⟨congrArg Prod.fst (Option.some.inj ht), congrArg Prod.snd (Option.some.inj ht)⟩

theorem Reads.showPinned (hr : Reads o d a) (ha : eventReg a = false) (hp : a ≠ Reg.pwrPinned) : Reads o d.showPinned a := by
  unfold Dev.showPinned
  generalize d.pinnedBits.zipIdx = l
  induction l generalizing d with
  | nil => exact hr
  | cons b l ih =>
    have hflag : Reads o (d.setFlag Reg.pwrPinned b.2 b.1) a := hr.setFlag hp _ _
    exact ih ((hflag.acts ha _).ite hflag)

/-- A limit of power or clock stored; what follows it shows. -/
def Dev.limitWritten (d : Dev) (a : Nat) (v : Word) : Dev := (d.store a v).lowerCap.showPinned

theorem limits_quiet : ∀ a ∈ [Reg.pwrCap, Reg.pwrClkLimits, Reg.thmAlertCap],
    eventReg a = false ∧ a ≠ Reg.pwrPinned ∧ a ≠ Reg.thmCfg ∧ a ≠ Reg.logDrainedLo ∧ a ≠ Reg.chtPostHead := by decide

theorem limit_row (hp : pageOf a = some (p, off)) (ha : a ∈ [Reg.pwrCap, Reg.pwrClkLimits, Reg.thmAlertCap]) :
    d.plainWrite p off a v = d.limitWritten a v ∧ ownRow p off v = false := by
  simp only [List.mem_cons, List.not_mem_nil, or_false] at ha
  rcases ha with rfl | rfl | rfl
  · obtain ⟨rfl, rfl⟩ := pageOf_named (t := .pwr) (n := 0x060) hp (by decide)
    exact ⟨rfl, rfl⟩
  · obtain ⟨rfl, rfl⟩ := pageOf_named (t := .pwr) (n := 0x064) hp (by decide)
    exact ⟨rfl, rfl⟩
  · obtain ⟨rfl, rfl⟩ := pageOf_named (t := .thm) (n := 0x07C) hp (by decide)
    exact ⟨rfl, rfl⟩

/-! Events (R482). -/

theorem eventReg_header (h1 : a % 0x1000 ≠ 0x020) (h2 : a % 0x1000 ≠ 0x02C) (h3 : a % 0x1000 < 0x040) : eventReg a = false := by
  have hlog : ∀ x ∈ [Reg.logWriteLo, Reg.logWriteLo + 4, Reg.logRecords, Reg.logStatus, Reg.logLost], a ≠ x := by
    have hhigh : ∀ x ∈ [Reg.logWriteLo, Reg.logWriteLo + 4, Reg.logRecords, Reg.logStatus, Reg.logLost], 0x040 ≤ x % 0x1000 := by decide
    intro x hx hax
    have hlow := hhigh x hx
    rw [← hax] at hlow
    omega
  unfold eventReg
  simp only [Bool.or_eq_false_iff, beq_eq_false_iff_ne, decide_eq_false_iff_not, List.contains_eq_mem]
  exact ⟨⟨⟨⟨h1, h2⟩, by omega⟩, by omega⟩, fun hm => hlog a hm rfl⟩

theorem evEnReg_low (p : Page) : evEnReg p % 0x1000 = 0x024 := by
  unfold evEnReg pageAddr
  omega

theorem eventCount_le (p : Page) : eventCount p ≤ 7 := by
  unfold eventCount
  split
  · decide
  · cases p.type <;> decide

/-- The bits that exist of a word, as EV_EN takes them. -/
theorem bit_existing (v : Word) {n b : Nat} (hb : b < 32) :
    bit (BitVec.ofNat 32 (v.toNat % 2 ^ n)) b = (decide (b < n) && bit v b) := by
  unfold bit
  rw [BitVec.getLsbD_ofNat, decide_eq_true hb, Bool.true_and, Nat.testBit_mod_two_pow]
  rfl

/-- A write of EV_EN with the edge that it may bring. -/
theorem writeEnables_ends (d : Dev) (p : Page) (v : Word) : ∃ as,
    d.writeEnables p v = (d.setReg (evEnReg p) (BitVec.ofNat 32 (v.toNat % 2 ^ eventCount p))).acts as ∨
      d.writeEnables p v = d.setReg (evEnReg p) (BitVec.ofNat 32 (v.toNat % 2 ^ eventCount p)) := by
  unfold Dev.writeEnables
  dsimp only
  split
  · exact ⟨_, .inl rfl⟩
  · exact ⟨[], .inr rfl⟩

/-! Accesses that reach no register (R467, R477, R478). -/

theorem exec_absentPageAccess (hl : s.liveHart hart = some h) (hp : pageOf a = none) (h4 : a % 4 = 0) (ha : a < pageWindow)
    (write : Bool) : exec (.absentPageAccess hart (windowBase + a) write) s = .next { s with
      dev := s.dev.badAccess hart a write
      harts := (if write then s.harts else s.harts.set hart { h with lastRead := 0#32 }) } := by
  have hdev : s.byHart hart (fun d => d.badAccess hart a write) = { s with dev := s.dev.badAccess hart a write } :=
    byHart_live (live_isSome hl) _
  have hstill : ({ s with dev := s.dev.badAccess hart a write } : State).liveHart hart = some h := hl
  show execAbsentPageAccess hart (windowBase + a) write s = _
  unfold execAbsentPageAccess
  rw [windowAddr_page ha]
  dsimp only
  rw [if_pos ⟨h4, by rw [hp]; rfl⟩, hdev, onHart_live hstill]
  cases write <;> rfl

/-- The record of an access to an absent page. -/
theorem badAccess_shows (hd : Assoc.wf regReset d.regs = true) (hart : Fin 28) (ha : a < pageWindow) (write : Bool) :
    ((d.badAccess hart a write).reg Reg.hubBadAddrLo).toNat = a % 0x100000000 ∧
      (d.badAccess hart a write).fld Reg.hubBadAddrHi 3 0 = a / 0x100000000 ∧
      (d.badAccess hart a write).fld Reg.hubBadAddrHi 20 16 = hart.val ∧
      (d.badAccess hart a write).flag Reg.hubBadAddrHi 8 = write ∧
      (d.badAccess hart a write).reg Reg.hubBadCount = BitVec.ofNat 32 (min ((d.reg Reg.hubBadCount).toNat + 1) 0xFFFFFFFF) := by
  have hwf : ∀ w, Assoc.wf regReset (d.setReg Reg.hubBadAddrLo w).regs = true := fun w => Assoc.wf_set hd _ w
  have hwf2 : ∀ w x, Assoc.wf regReset ((d.setReg Reg.hubBadAddrLo w).setReg Reg.hubBadAddrHi x).regs = true := fun w x =>
    Assoc.wf_set (hwf w) _ x
  have hlo : (d.badAccess hart a write).reg Reg.hubBadAddrLo = BitVec.ofNat 32 a := by
    refine (((Reads.refl (hwf _) Reg.hubBadAddrLo).setReg _ (by decide)).addSat (by decide) 1).2.trans (Dev.reg_setReg_same hd _ _)
  have hhi : (d.badAccess hart a write).reg Reg.hubBadAddrHi =
      BitVec.ofNat 32 (a / 0x100000000 % 16 + (if write then 0x100 else 0) + 0x10000 * (hart.val % 32)) :=
    ((Reads.refl (hwf2 _ _) Reg.hubBadAddrHi).addSat (by decide) 1).2.trans (Dev.reg_setReg_same (hwf _) _ _)
  have hcount : (d.badAccess hart a write).reg Reg.hubBadCount = BitVec.ofNat 32 (min ((d.reg Reg.hubBadCount).toNat + 1) 0xFFFFFFFF) :=
    addSat_reg (((Reads.refl hd Reg.hubBadCount).setReg _ (by decide)).setReg _ (by decide)) 1
  have hhigh : a / 0x100000000 < 16 := by
    unfold pageWindow at ha
    omega
  have hh := hart.isLt
  rw [hlo, hcount]
  unfold Dev.fld Dev.flag
  rw [hhi, bit_eq_bits]
  unfold bits
  rw [BitVec.toNat_ofNat, BitVec.toNat_ofNat]
  generalize a / 0x100000000 = x at hhigh
  refine ⟨rfl, ?_, ?_, ?_, rfl⟩
  · cases write <;> simp <;> omega
  · cases write <;> simp <;> omega
  · cases write <;> simp <;> omega

theorem exec_accessFault (hl : s.liveHart hart = some h) (addr width : Nat) (write : Bool) :
    exec (.accessFault hart addr width write) s = .next (if s.accessFaults hart addr width write
      then { s with harts := s.harts.set hart { h with fault := some ⟨addr, width, write⟩ } } else s) := by
  show execAccessFault hart addr width write s = _
  unfold execAccessFault
  rw [onHart_live hl]

theorem denied_entry {addr : Nat} {write : Bool} {x : PmpEntry} (hh : s.harts[i]? = some h) (hx : x ∈ h.pmp) (hne : x ≠ secWindow)
    (hlo : x.lo ≤ addr) (hhi : addr < x.hi) : s.denied i addr write = true := by
  unfold State.denied
  rw [hh]
  refine List.any_eq_true.mpr ⟨x, hx, ?_⟩
  rw [decide_eq_true ⟨hlo, hhi⟩, beq_eq_false_iff_ne.mpr hne]
  rfl

/-- What raises an access fault. -/
theorem accessFaults_of (hh : s.harts[i]? = some h) {addr width : Nat} {write : Bool}
    (hx : hartRange addr = none ∨ hartRange addr = some .bootRom ∧ write = true ∨
      hartRange addr = some .pages ∧ (width ≠ 4 ∧ width ≠ 8 ∨ addr % width ≠ 0) ∨
      (∃ e ∈ h.pmp, e ≠ secWindow ∧ e.lo ≤ addr ∧ addr < e.hi) ∨ s.accessFaults i addr width write = true) :
    s.accessFaults i addr width write = true := by
  rcases hx with hx | ⟨hx, rfl⟩ | ⟨hx, hw⟩ | ⟨x, hmem, hne, hlo, hhi⟩ | hx
  · unfold State.accessFaults
    simp [hx]
  · unfold State.accessFaults
    simp [hx]
  · unfold State.accessFaults
    rcases hw with ⟨h4, h8⟩ | hmis
    · simp [hx, h4, h8]
    · simp [hx, hmis]
  · unfold State.accessFaults
    rw [denied_entry hh hmem hne hlo hhi]
    simp
  · exact hx

end

end Sys2Proof.Machine

namespace Sys2Proof.Proofs
set_option Elab.async false
open Sys2Proof Sys2Proof.Machine

/-- Settles O47: writes plain, of STATE_REQ, staged, checked and with a follower; reads; EV_EN and EV_FORCE; absent pages and faults. -/
theorem registerAccesses : Obligations.RegisterAccesses := by
  unfold Obligations.RegisterAccesses
  intro s hart p a off v h hl hd
  have hlive := live_isSome hl
  refine ⟨fun hp h4 ha => ⟨fun hreach hown h1 h2 h3 h5 h6 => ?plain, fun hreach hown hoff => ?request, fun hreach hlog => ?staged,
    fun hreach hlimit => ?limit, fun hreach hpost => ?post, exec_registerWrite_denied hlive hp ha,
    fun hown hreach => exec_registerLoRead hl hp h4 ha hown hreach⟩, fun hreach => ⟨?enables, ?force⟩,
    fun hp h4 ha write => ?absent, fun addr width write _ => ⟨fun hx => ?fault, fun hx => ?none⟩⟩
  case plain =>
    have hx := exec_registerWrite hlive hp h4 ha hown hreach
    rw [plainWrite_store h1 h2 h3 h5 h6] at hx
    exact ⟨_, hx, ((Touches.refl hd.2).store (.head _) v).only, fun f hf => ⟨store_ro hd.2 hf, fun htakes =>
      ⟨store_w1c hd.2 hf htakes, store_rw hd.2 hf htakes⟩⟩⟩
  case request =>
    subst hoff
    have hx := exec_registerWrite hlive hp h4 ha hown hreach
    have hplain : s.dev.plainWrite p 0x018 a v = s.dev.stateRequest p (bits v 3 0) (bits v 15 8) := if_pos rfl
    rw [hplain, stateRequest_refuses (ownRow_request hown)] at hx
    refine ⟨_, hx, ((Touches.refl hd.2).reqResult p (.head _) _).only, Dev.fld_setFld_other hd.2 _ (.inl (by decide)) _, ?_⟩
    refine (Dev.fld_setFld hd.2 _ (by decide) (by decide) _).trans ?_
    split <;> rfl
  case staged =>
    obtain ⟨rfl, rfl⟩ := pageOf_named (t := .log) (n := 0x04C) hp (hlog ▸ by decide)
    have hx := exec_registerWrite hlive hp h4 ha (v := v) rfl hreach
    have hplain : s.dev.plainWrite (page1 .log) 0x04C a v = { s.dev with log := { s.dev.log with drainedLo := v } } := if_pos hlog
    rw [hx, hplain]
  case limit =>
    rcases hlimit with rfl | hlimit
    · obtain ⟨rfl, rfl⟩ := pageOf_named (t := .thm) (n := 0x040) hp (by decide)
      have hx := exec_registerWrite hlive hp h4 ha (v := v) rfl hreach
      have hplain : s.dev.plainWrite (page1 .thm) 0x040 Reg.thmCfg v = s.dev.writeThmCfg v := rfl
      rw [hplain] at hx
      refine ⟨_, hx, (Keeps.refl (level := true).writeThmCfg v).steady, fun x _ => ?_, fun _ e he => he ▸ rfl, fun hne => absurd rfl hne⟩
      unfold Dev.writeThmCfg
      dsimp only
      split <;> rfl
    · have hmem : a ∈ [Reg.pwrCap, Reg.pwrClkLimits, Reg.thmAlertCap] := List.elem_iff.mp hlimit
      obtain ⟨hquiet, hpinned, hthm, hlog, hpost⟩ := limits_quiet a hmem
      have hplain : s.dev.plainWrite p off a v = s.dev.limitWritten a v ∧ ownRow p off v = false := limit_row hp hmem
      have hx := exec_registerWrite hlive hp h4 ha hplain.2 hreach
      rw [hplain.1] at hx
      have hstore : Assoc.wf regReset (s.dev.store a v).regs = true := Assoc.wf_set hd.2 _ _
      have hkeeps : Keeps true s.dev (s.dev.limitWritten a v) := (Keeps.other (d' := (s.dev.store a v).lowerCap)
        (Keeps.refl.store a v)).showPinned
      have hleaves : Leaves (fun _ => true) (s.dev.store a v) (s.dev.limitWritten a v) :=
        (Leaves.other (d' := (s.dev.store a v).lowerCap) Leaves.refl).showPinned
      refine ⟨_, hx, hkeeps.steady, fun x hx => hleaves.byte hd.1 x rfl hx, fun he => absurd he hthm, fun _ => ?_⟩
      exact ((Reads.other (e := (s.dev.store a v).lowerCap) (Reads.refl hstore a)).showPinned hquiet hpinned).2
  case post =>
    subst hpost
    obtain ⟨rfl, rfl⟩ := pageOf_named (t := .cht) (n := 0x0AC) hp (by decide)
    exact exec_registerWrite hlive hp h4 ha (v := v) rfl hreach
  case enables =>
    have hx : exec (.evEnWrite hart p v) s = .next { s with dev := s.dev.writeEnables p v } := access_reaches hlive hreach _
    have hset : Assoc.wf regReset (s.dev.setReg (evEnReg p) (BitVec.ofNat 32 (v.toNat % 2 ^ eventCount p))).regs = true :=
      Assoc.wf_set hd.2 _ _
    have hquiet : eventReg (evEnReg p) = false := by
      have hlow := evEnReg_low p
      exact eventReg_header (by omega) (by omega) (by omega)
    obtain ⟨as, hends⟩ := writeEnables_ends s.dev p v
    generalize hw : s.dev.writeEnables p v = e at hx hends
    obtain ⟨hl', hread, hk⟩ : Leaves (fun _ => true) (s.dev.setReg (evEnReg p) (BitVec.ofNat 32 (v.toNat % 2 ^ eventCount p))) e ∧
        e.reg (evEnReg p) = BitVec.ofNat 32 (v.toNat % 2 ^ eventCount p) ∧ Keeps true s.dev e := by
      rcases hends with rfl | rfl
      · exact ⟨Leaves.refl.acts as, ((Reads.refl hset _).acts hquiet as).2.trans (Dev.reg_setReg_same hd.2 _ _),
          (Keeps.refl.setReg _ _).acts as⟩
      · exact ⟨Leaves.refl, Dev.reg_setReg_same hd.2 _ _, Keeps.refl.setReg _ _⟩
    refine ⟨_, hx, fun x hx => hl'.byte hd.1 x rfl hx, hk.steady, fun x hc hne => ?_, fun b hb => ?_⟩
    · exact (hl'.config hset x hc).trans ((Reads.refl hd.2 x).setReg _ hne).2
    · unfold Dev.flag
      rw [hread]
      exact bit_existing v hb
  case force =>
    have hx : exec (.evForceWrite hart p v) s =
        .next { s with dev := s.dev.acts ((eventBits p v).map fun b => .event p b true) } := access_reaches hlive hreach _
    refine ⟨_, hx, (Leaves.refl.acts _).calm hd, (Keeps.refl (level := true).acts _).steady, fun b hb => ?_⟩
    have hlt : b < eventCount p := List.mem_range.mp (List.mem_filter.mp hb).1
    have hcount := eventCount_le p
    exact (forced_set hd.2 hb (by omega)).pend
  case absent =>
    obtain ⟨hlo, hhi, hhart, hwrite, hcount⟩ := badAccess_shows hd.2 hart ha write
    refine ⟨_, exec_absentPageAccess hl hp h4 ha write, ?_, hlo, hhi, hhart, hwrite, hcount, ?_⟩
    · have htouch : ∀ w x, Touches s.dev (((s.dev.setReg Reg.hubBadAddrLo w).setReg Reg.hubBadAddrHi x).addSat Reg.hubBadCount 1)
          [Reg.hubBadAddrLo, Reg.hubBadAddrHi, Reg.hubBadCount] := fun w x =>
        (((Touches.refl hd.2).setReg (.head _) w).setReg (.tail _ (.head _)) x).addSat (.tail _ (.tail _ (.head _))) 1
      exact (htouch _ _).only
    · have hrecord := live_hart hl
      cases write with
      | true => exact hrecord
      | false => exact List.getElem?_set_self (List.getElem?_eq_some_iff.mp hrecord).1
  case fault => rw [exec_accessFault hl, accessFaults_of (live_hart hl) hx, if_pos rfl]
  case none => rw [exec_accessFault hl, hx, if_neg Bool.false_ne_true]

end Sys2Proof.Proofs

/-! The time base: what events leave of the Logbook's status, PTP exchanges, the choice of port, PPS edges (R355, R412, R494). -/
namespace Sys2Proof.Machine
set_option Elab.async false

/-- `d` comes from `o` by changes that leave a bit of LOG_STATUS and the offset that PTP saw last. -/
structure Synced (b : Nat) (o d : Dev) : Prop where
  wf : Assoc.wf regReset d.regs = true
  flag : d.flag Reg.logStatus b = o.flag Reg.logStatus b
  offset : d.log.ptpOffset = o.log.ptpOffset

section
variable {s : State} {o d e : Dev} {b : Nat} {hart : Fin 28} {v : Word} {m : PtpMessage}

theorem Synced.refl (h : Assoc.wf regReset o.regs = true) : Synced b o o := ⟨h, rfl, rfl⟩

theorem Synced.other (h : Synced b o d) (hr : e.regs = d.regs := by rfl) (hl : e.log.ptpOffset = d.log.ptpOffset := by rfl) :
    Synced b o e :=
  ⟨by rw [hr]; exact h.wf, by
    rw [← h.flag]
    unfold Dev.flag Dev.reg
    rw [hr], hl.trans h.offset⟩

theorem Synced.setReg (h : Synced b o d) {a : Nat} (ha : Reg.logStatus ≠ a) (w : Word) : Synced b o (d.setReg a w) :=
  ⟨Assoc.wf_set h.wf _ _, by
    rw [← h.flag]
    exact congrArg (bit · b) ((Reads.refl h.wf Reg.logStatus).setReg w ha).2, h.offset⟩

/-- LOG_STATUS.LOST set. -/
theorem Synced.setLost (h : Synced b o d) (h3 : b ≠ 3) : Synced b o (d.setFlag Reg.logStatus 3 true) :=
  ⟨Assoc.wf_set h.wf _ _, by
    rw [← h.flag, flag_setFlag h.wf _ _ _ _ (by decide) true, if_neg fun h => h3 h.2], h.offset⟩

theorem Synced.ite1 {α : Type} {c : Prop} [Decidable c] {x y : Dev × α} (hx : Synced b o x.1) (hy : Synced b o y.1) :
    Synced b o (if c then x else y).1 := by
  split
  · exact hx
  · exact hy

theorem Synced.putRecord (h : Synced b o d) (bytes : List Byte) : Synced b o (d.putRecord bytes).1 := by
  have hmem : ∀ m l, Synced b o ({ d with mem := m, log := { d.log with journal := l } } : Dev) := fun _ _ => h.other
  exact (((hmem _ _).setReg (a := Reg.logWriteLo) (by decide) _).setReg (a := Reg.logWriteLo + 4) (by decide) _).setReg
    (a := Reg.logRecords) (by decide) _

theorem Synced.append (h : Synced b o d) (h3 : b ≠ 3) (r : Rec) : Synced b o (d.append r).1 := by
  have hlog : ∀ x y, Synced b o ({ d with log := { d.log with lost := x, lostFirst := y } } : Dev) := fun _ _ => h.other
  have hlost : Synced b o (d.loseRecord (d.recBytes r).length) :=
    Synced.other (((hlog _ _).setLost h3).setReg (a := Reg.logLost) (by decide) _)
  have hloss : ∀ loss, Synced b o (d.closeLoss loss).1 := fun loss => by
    unfold Dev.closeLoss
    exact Synced.ite1 h (h.putRecord _)
  have hdigest : ∀ loss bytes,
      Synced b o (({ (d.closeLoss loss).1 with log := { (d.closeLoss loss).1.log with lost := 0 } } : Dev).digestRec r bytes) :=
    fun loss bytes => by
      have hzero : Synced b o ({ (d.closeLoss loss).1 with log := { (d.closeLoss loss).1.log with lost := 0 } } : Dev) := (hloss loss).other
      unfold Dev.digestRec
      split
      · exact hzero
      · exact hzero.other
  unfold Dev.append
  exact Synced.ite1 h (Synced.ite1 hlost ((hdigest _ _).putRecord _))

theorem Synced.act (h : Synced b o d) (h3 : b ≠ 3) (a : Act) : Synced b o (d.act a).1 := by
  have hirq : ∀ x, Reg.logStatus ≠ Reg.irqPending x ∧ Reg.logStatus ≠ Reg.irqMissed x := fun x => by
    unfold Reg.logStatus Reg.irqPending Reg.irqMissed
    omega
  have hpage : ∀ p, Reg.logStatus ≠ evPendReg p ∧ Reg.logStatus ≠ evMissedReg p := fun p => by
    have h1 := evPendReg_low p
    have h2 := evMissedReg_low p
    unfold Reg.logStatus
    omega
  cases a with
  | event p c f =>
    have hmissed := (hpage p).2
    show Synced b o (d.event p c f).1
    unfold Dev.event
    exact Synced.ite1 ((h.setReg hmissed _).setReg hmissed _) (h.setReg (hpage p).1 _)
  | record r => exact h.append h3 r
  | edge x =>
    show Synced b o (d.edge x).1
    unfold Dev.edge
    exact Synced.ite1 h (Synced.ite1 (h.setReg (hirq _).2 _) (h.setReg (hirq _).1 _))

theorem Synced.acts (h : Synced b o d) (h3 : b ≠ 3) (as : List Act) : Synced b o (d.acts as) := by
  unfold Dev.acts
  generalize 32 * as.length + 32 = n
  induction n generalizing d as with
  | zero => exact h
  | succ n ih =>
    cases as with
    | nil => exact h
    | cons a as => exact ih (h.act h3 a) _

/-! PTP. -/

/-- The lock is as set, and the offset as it was. -/
theorem ptpLock_shows (hd : Assoc.wf regReset d.regs = true) (on : Bool) : (d.ptpLock on).flag Reg.logStatus 6 = on ∧
    (d.ptpLock on).log.ptpOffset = d.log.ptpOffset ∧ (d.ptpLock on).flag Reg.logStatus 7 = d.flag Reg.logStatus 7 ∧
    Reads d (d.ptpLock on) Reg.mgtPtpCtrl := by
  unfold Dev.ptpLock
  split
  · rename_i h
    exact ⟨h, rfl, rfl, Reads.refl hd _⟩
  · have hset : Assoc.wf regReset (d.setFlag Reg.logStatus 6 on).regs = true := Assoc.wf_set hd _ _
    have hsynced : ∀ b, b ≠ 3 → Synced b (d.setFlag Reg.logStatus 6 on)
        ((d.setFlag Reg.logStatus 6 on).raise mgtPage (if on then 2 else 3)) := fun b h3 => (Synced.refl hset).acts h3 _
    have h6 := hsynced 6 (by decide)
    have h7 := hsynced 7 (by decide)
    refine ⟨h6.flag.trans ?_, h6.offset, h7.flag.trans ?_, ((Reads.refl hd _).setFlag (by decide) 6 on).raise (by decide) _ _⟩
    · rw [flag_setFlag hd _ _ _ _ (by decide), if_pos ⟨rfl, rfl⟩]
    · rw [flag_setFlag hd _ _ _ _ (by decide), if_neg fun h => absurd h.2 (by decide)]

theorem exec_ptpMessage (hr : s.carrier.phase = .running) (ha : s.dev.active mgtPage = true) (hp : m.port = s.dev.fld Reg.mgtPtpCtrl 0 0)
    (hup : s.dev.mgt.up.getD m.port false = true) : exec (.ptpMessage m) s = .next { s with dev := s.dev.servo m.offsetNs } := by
  show execPtpMessage m s = _
  refine act_next hr ?_
  rw [if_pos ⟨ha, hp, hup⟩]

theorem exec_ptpMessage_ignored (hr : s.carrier.phase = .running)
    (h : s.dev.active mgtPage = false ∨ m.port ≠ s.dev.fld Reg.mgtPtpCtrl 0 0) : exec (.ptpMessage m) s = .next s := by
  show execPtpMessage m s = _
  refine act_next hr ?_
  rw [if_neg]
  rintro ⟨ha, hp, -⟩
  rcases h with h | h
  · exact Bool.false_ne_true (h.symm.trans ha)
  · exact h hp

theorem servo_shows (hd : Assoc.wf regReset d.regs = true) (offset : Int) : (d.servo offset).log.ptpOffset = offset ∧
    (d.servo offset).flag Reg.logStatus 6 = decide (offset.natAbs ≤ 1000) := by
  have hwf : ∀ l, Assoc.wf regReset ({ d.drawWord.2 with log := l } : Dev).regs = true := fun _ => hd
  obtain ⟨h6, hoffset, -⟩ := ptpLock_shows (hwf { d.drawWord.2.log with
    ptpOffset := offset, ptpShift := d.drawWord.2.log.ptpShift + d.drawWord.1.toInt }) (decide (offset.natAbs ≤ 1000))
  exact ⟨hoffset, h6⟩

/-- MGT_PTP_CTRL written: PPS_EN cleared ends the discipline, another port loses the lock. -/
def Dev.writePtpPort (d : Dev) (v : Word) : Dev :=
  let e := d.store Reg.mgtPtpCtrl v
  let e := if e.flag Reg.mgtPtpCtrl 1 then e else e.setFlag Reg.logStatus 7 false
  if e.flag Reg.mgtPtpCtrl 0 = d.flag Reg.mgtPtpCtrl 0 then e else e.ptpLock false

theorem exec_mgtPtpPortWrite (hl : (s.liveHart hart).isSome = true) (v : Word) :
    exec (.mgtPtpPortWrite hart v) s = .next { s with dev := s.dev.writePtpPort v } :=
  congrArg Host.Outcome.next (byHart_live hl _)

theorem store_ptpCtrl (hd : Assoc.wf regReset d.regs = true) (v : Word) :
    (d.store Reg.mgtPtpCtrl v).flag Reg.mgtPtpCtrl 0 = bit v 0 ∧ (d.store Reg.mgtPtpCtrl v).flag Reg.mgtPtpCtrl 1 = bit v 1 := by
  have hfields : ∀ i : Fin 2, ∃ r, RegField.rw i i r ∈ fieldsAt Reg.mgtPtpCtrl := fun i => by
    revert i
    intro i
    match i with
    | 0 => exact ⟨0, by decide⟩
    | 1 => exact ⟨0, by decide⟩
  have hbit : ∀ i : Fin 2, (d.store Reg.mgtPtpCtrl v).flag Reg.mgtPtpCtrl i = bit v i := fun i => by
    obtain ⟨r, hr⟩ := hfields i
    unfold Dev.flag
    rw [bit_eq_bits, bit_eq_bits]
    exact congrArg (· == 1) (store_plain hd hr rfl)
  exact ⟨hbit 0, hbit 1⟩

/-- A bit is its field. -/
theorem bit_eq_iff (w v : Word) (i : Nat) : bit w i = bit v i ↔ bits w i i = bits v i i := by
  have hw := bits_lt w i i
  have hv := bits_lt v i i
  rw [bit_eq_bits, bit_eq_bits]
  rw [show i + 1 - i = 1 by omega, pow_one] at hw hv
  refine ⟨fun h => ?_, fun h => by rw [h]⟩
  by_cases hx : bits w i i = 1
  · rw [hx] at h ⊢
    exact (beq_iff_eq.mp h.symm).symm
  · have hy : bits v i i ≠ 1 := fun hy => by
      rw [hy] at h
      exact hx (beq_iff_eq.mp h)
    omega

/-- Two bits are their field. -/
theorem bits_pair (w v : Word) (h0 : bit w 0 = bit v 0) (h1 : bit w 1 = bit v 1) : bits w 1 0 = bits v 1 0 := by
  have hsplit : ∀ x : Word, bits x 1 0 = bits x 0 0 + 2 * bits x 1 1 := fun x => by
    unfold bits
    omega
  rw [hsplit, hsplit, (bit_eq_iff w v 0).mp h0, (bit_eq_iff w v 1).mp h1]

theorem writePtpPort_shows (hd : Assoc.wf regReset d.regs = true) (v : Word) :
    (d.writePtpPort v).fld Reg.mgtPtpCtrl 1 0 = bits v 1 0 ∧
      (bit v 1 = false → (d.writePtpPort v).flag Reg.logStatus 7 = false) ∧
      (d.writePtpPort v).flag Reg.logStatus 6 = if bit v 0 = d.flag Reg.mgtPtpCtrl 0 then d.flag Reg.logStatus 6 else false := by
  obtain ⟨h0, h1⟩ := store_ptpCtrl hd v
  have hstore : Assoc.wf regReset (d.store Reg.mgtPtpCtrl v).regs = true := Assoc.wf_set hd _ _
  have hkept : (d.store Reg.mgtPtpCtrl v).flag Reg.logStatus 6 = d.flag Reg.logStatus 6 :=
    congrArg (bit · 6) ((Reads.refl hd Reg.logStatus).setReg _ (by decide)).2
  -- The device once PPS_EN has had its effect.
  obtain ⟨x, hx, hwf, hread, h7, h6⟩ : ∃ x, (if (d.store Reg.mgtPtpCtrl v).flag Reg.mgtPtpCtrl 1 = true then d.store Reg.mgtPtpCtrl v
      else (d.store Reg.mgtPtpCtrl v).setFlag Reg.logStatus 7 false) = x ∧ Assoc.wf regReset x.regs = true ∧
      x.reg Reg.mgtPtpCtrl = (d.store Reg.mgtPtpCtrl v).reg Reg.mgtPtpCtrl ∧ (bit v 1 = false → x.flag Reg.logStatus 7 = false) ∧
      x.flag Reg.logStatus 6 = d.flag Reg.logStatus 6 := by
    rw [h1]
    cases hb : bit v 1 with
    | true => exact ⟨_, rfl, hstore, rfl, fun h => absurd h (by decide), hkept⟩
    | false =>
      refine ⟨_, rfl, Assoc.wf_set hstore _ _, ((Reads.refl hstore _).setFlag (by decide) 7 false).2, fun _ => ?_, ?_⟩
      · exact (flag_setFlag hstore _ _ _ _ (by decide) false).trans (if_pos ⟨rfl, rfl⟩)
      · exact ((flag_setFlag hstore _ _ _ _ (by decide) false).trans (if_neg fun h => absurd h.2 (by decide))).trans hkept
  have hflag : ∀ i, x.flag Reg.mgtPtpCtrl i = (d.store Reg.mgtPtpCtrl v).flag Reg.mgtPtpCtrl i := fun i => congrArg (bit · i) hread
  obtain ⟨hlock, -, hlock7, hctrl⟩ := ptpLock_shows hwf false
  have hend : d.writePtpPort v = if bit v 0 = d.flag Reg.mgtPtpCtrl 0 then x else x.ptpLock false := by
    unfold Dev.writePtpPort
    dsimp only
    rw [hx, hflag 0, h0]
  have hpair : ∀ y : Dev, y.reg Reg.mgtPtpCtrl = x.reg Reg.mgtPtpCtrl → y.fld Reg.mgtPtpCtrl 1 0 = bits v 1 0 := fun y hy => by
    refine bits_pair _ _ ?_ ?_
    · rw [hy]
      exact (hflag 0).trans h0
    · rw [hy]
      exact (hflag 1).trans h1
  rw [hend]
  split
  · exact ⟨hpair _ rfl, h7, h6⟩
  · exact ⟨hpair _ hctrl.2, fun h => hlock7.trans (h7 h), hlock⟩

end

end Sys2Proof.Machine

namespace Sys2Proof.Proofs
set_option Elab.async false
open Sys2Proof Sys2Proof.Machine

/-- Settles O49: an exchange on the port in use and on another, the port's register, the edge of PPS. -/
theorem timeBase : Obligations.TimeBase := by
  unfold Obligations.TimeBase
  intro s hr hd
  refine ⟨fun m ha hp hup => ?exchange, fun m h => exec_ptpMessage_ignored hr h, fun hart v hl => ?port, fun hpps => ?edge, fun hpps => ?off⟩
  case exchange =>
    have hx := exec_ptpMessage hr ha hp hup
    obtain ⟨hoffset, hlock⟩ := servo_shows hd.2 m.offsetNs
    exact ⟨_, hx, (Leaves.refl.servo _).calm hd, (Keeps.refl (level := true).servo _).steady, hoffset, hlock⟩
  case port =>
    have hx := exec_mgtPtpPortWrite hl v
    obtain ⟨hfield, hpps, hlock⟩ := writePtpPort_shows hd.2 v
    have hstore : Leaves (fun _ => true) (s.dev.store Reg.mgtPtpCtrl v) (s.dev.writePtpPort v) := by
      have hflag := Leaves.ite (c := (s.dev.store Reg.mgtPtpCtrl v).flag Reg.mgtPtpCtrl 1 = true)
        (Leaves.refl (o := s.dev.store Reg.mgtPtpCtrl v) (B := fun _ => true)) (Leaves.refl.setFlag Reg.logStatus 7 false)
      exact hflag.ite (hflag.ptpLock false)
    have hkeeps : Keeps true s.dev (s.dev.writePtpPort v) := by
      have hset := (Keeps.refl (level := true) (o := s.dev)).store Reg.mgtPtpCtrl v
      have hflag := hset.ite (c := (s.dev.store Reg.mgtPtpCtrl v).flag Reg.mgtPtpCtrl 1 = true) (hset.setFlag Reg.logStatus 7 false)
      exact hflag.ite (hflag.ptpLock false)
    have hport : (s.dev.fld Reg.mgtPtpCtrl 0 0 = bits v 0 0) ↔ bit v 0 = s.dev.flag Reg.mgtPtpCtrl 0 :=
      (bit_eq_iff _ _ 0).symm.trans eq_comm
    refine ⟨_, hx, fun a ha => hstore.byte hd.1 a rfl ha, hkeeps.steady, hfield, hpps, fun hne => ?_, fun heq => ?_⟩
    · rw [hlock, if_neg fun h => hne (hport.mpr h)]
    · rw [hlock, if_pos (hport.mp heq)]
  case edge =>
    have hx : exec .ppsEdge s = .next { s with dev := s.dev.ppsEdge } := act_next hr rfl
    have hedge : ∃ l, s.dev.ppsEdge = { s.dev.drawWord.2.setFlag Reg.logStatus 7 true with log := l } := ⟨_, if_pos hpps⟩
    obtain ⟨l, hl⟩ := hedge
    have htouch : Touches s.dev (s.dev.drawWord.2.setFlag Reg.logStatus 7 true) [Reg.logStatus] :=
      (Touches.other (e := s.dev.drawWord.2) (Touches.refl hd.2)).setFlag (.head _) 7 true
    rw [hl] at hx
    refine ⟨_, hx, htouch.other.only, ?_⟩
    exact (flag_setFlag (d := s.dev.drawWord.2) hd.2 _ _ _ _ (by decide) true).trans (if_pos ⟨rfl, rfl⟩)
  case off =>
    refine act_next hr ?_
    unfold Dev.ppsEdge
    rw [hpps]
    rfl

end Sys2Proof.Proofs

/-! The interrupt controller: claims, completions, software's sources, hold-off (R418 to R424). -/
namespace Sys2Proof.Machine
set_option Elab.async false

section
variable {s t : State} {o d e : Dev} {x y g n : Nat} {hart : Fin 28} {v : Word} {h : Hart}

/-! Offers. -/

theorem offersFrom_mem {eff xs : List Nat} {k : Nat} (h : (x, k) ∈ d.offersFrom eff xs) : x ∈ xs := by
  induction xs generalizing eff with
  | nil => simp [Dev.offersFrom] at h
  | cons y ys ih =>
    unfold Dev.offersFrom at h
    split at h
    · rcases List.mem_cons.mp h with he | h
      · cases he
        exact .head _
      · exact .tail _ (ih h)
    · exact .tail _ (ih h)

/-- A source offered is pending. -/
theorem offered_pending {k : Nat} (h : s.offered k = some x) : s.dev.pendingSource x = true := by
  unfold State.offered at h
  rw [Option.map_eq_some_iff] at h
  obtain ⟨⟨y, z⟩, hf, rfl⟩ := h
  have hmem := offersFrom_mem (List.mem_of_find?_eq_some hf)
  unfold Dev.deliverables at hmem
  rw [List.mem_flatten] at hmem
  obtain ⟨l, hl, hx⟩ := hmem
  rw [List.mem_map] at hl
  obtain ⟨i, -, rfl⟩ := hl
  have hdeliver := (List.mem_filter.mp hx).2
  simp only [Bool.and_eq_true] at hdeliver
  exact hdeliver.1.1

/-! Claims and completions. -/

theorem atMailbox_live {k : Nat} (hl : s.liveHart k = some h) (f : Hart → State) : s.atMailbox k f = f h := by
  unfold State.atMailbox
  rw [hl]

/-- What a claim of another hart, or one with nothing offered, reads. -/
theorem exec_irqClaim_none (hl : s.liveHart hart = some h) {k : Fin 28} (hk : k = hart → s.offered hart = none) :
    exec (.irqClaim k hart) s = .next { s with harts := s.harts.set hart { h with lastRead := 0xFFFF#32 } } := by
  refine congrArg Host.Outcome.next ((atMailbox_live hl _).trans ?_)
  have hnone : (if k = hart then s.offered k else none) = none := by
    split
    · rename_i he
      rw [he]
      exact hk he
    · rfl
  rw [hnone]

theorem exec_irqClaim_some (hl : s.liveHart hart = some h) (hx : s.offered hart = some x) :
    exec (.irqClaim hart hart) s = .next { s with
      dev := s.dev.claimed x hart
      claims := s.claims.set hart (⟨x, s.dev.prioOf x⟩ :: s.claims.getD hart [])
      harts := s.harts.set hart { h with lastRead := BitVec.ofNat 32 x } } := by
  refine congrArg Host.Outcome.next ((atMailbox_live hl _).trans ?_)
  rw [if_pos rfl, hx]

theorem exec_irqComplete_other (hl : s.liveHart hart = some h) {k : Fin 28} (hk : k ≠ hart) :
    exec (.irqComplete k hart v) s = .next s := by
  refine congrArg Host.Outcome.next ((atMailbox_live hl _).trans ?_)
  rw [if_pos hk]

theorem exec_irqComplete_latest (hl : s.liveHart hart = some h) {c : Claim} {rest : List Claim}
    (hc : s.claims[hart.val]? = some (c :: rest)) (hs : c.source = bits v 9 0) :
    exec (.irqComplete hart hart v) s = .next { s with claims := s.claims.set hart rest } := by
  refine congrArg Host.Outcome.next ((atMailbox_live hl _).trans ?_)
  rw [if_neg (not_not_intro rfl), List.getD_eq_getElem?_getD, hc]
  exact if_pos hs

theorem exec_irqComplete_wrong (hl : s.liveHart hart = some h)
    (hc : ∀ c rest, s.claims[hart.val]? = some (c :: rest) → c.source ≠ bits v 9 0) :
    exec (.irqComplete hart hart v) s = .next { s with dev := s.dev.raise (page1 .irq) 2 } := by
  refine congrArg Host.Outcome.next ((atMailbox_live hl _).trans ?_)
  rw [if_neg (not_not_intro rfl), List.getD_eq_getElem?_getD]
  cases hh : s.claims[hart.val]? with
  | none => rfl
  | some l =>
    cases l with
    | nil => rfl
    | cons c rest => exact if_neg (hc c rest hh)

theorem claimed_starts {k : Nat} (hus : d.fld (Reg.irqHoldoff (x / 32)) 15 0 ≠ 0) (h0 : d.irq.holdUntil[x / 32]? = some 0) :
    (d.claimed x k).irq.holdUntil[x / 32]? = some (d.now + us (d.fld (Reg.irqHoldoff (x / 32)) 15 0)) := by
  obtain ⟨hlt, hget⟩ := List.getElem?_eq_some_iff.mp h0
  have hstarts : (d.fld (Reg.irqHoldoff (x / 32)) 15 0 != 0 && d.irq.holdUntil.getD (x / 32) 0 == 0) = true := by
    rw [List.getD_eq_getElem?_getD, h0, bne_iff_ne.mpr hus]
    rfl
  unfold Dev.claimed
  dsimp only
  rw [hstarts, if_pos rfl]
  exact List.getElem?_set_self hlt

/-- What a claim shows (R421 to R423). -/
theorem claimed_shows (hd : Assoc.wf regReset d.regs = true) (x k : Nat) :
    d.Only (d.claimed x k) [Reg.irqPending (x / 32)] ∧ (d.claimed x k).flag (Reg.irqPending (x / 32)) (x % 32) = false := by
  have htouch : Touches d (d.setFlag (Reg.irqPending (x / 32)) (x % 32) false) [Reg.irqPending (x / 32)] :=
    (Touches.refl hd).setFlag (.head _) _ _
  exact ⟨htouch.other.only, (flag_setFlag hd _ _ _ _ (Nat.mod_lt _ (by decide)) false).trans (if_pos ⟨rfl, rfl⟩)⟩

/-! Hold-off. -/

/-- The hold-off of a group over. -/
def Dev.heldOver (d : Dev) (g : Nat) : Dev := { d with irq := { d.irq with holdUntil := d.irq.holdUntil.set g 0 } }

theorem exec_holdoffExpiry (hr : s.carrier.phase = .running) {g : Fin 32} (hn : s.dev.irq.holdUntil[g.val]? = some n) (h0 : n ≠ 0) :
    exec (.holdoffExpiry g) s = .next { s with dev := (if n ≤ s.dev.now then s.dev.heldOver g else s.dev) } := by
  show execHoldoffExpiry g s = _
  refine act_next hr ?_
  dsimp only
  rw [List.getD_eq_getElem?_getD, hn, Option.getD_some]
  exact if_congr (and_iff_right h0) rfl rfl

theorem heldOver_off (h : d.irq.holdUntil[g]? = some n) : (d.heldOver g).irq.holdUntil[g]? = some 0 ∧ (d.heldOver g).heldOff g = false ∧
    ∀ k, k ≠ g → (d.heldOver g).heldOff k = d.heldOff k := by
  have hset : (d.heldOver g).irq.holdUntil[g]? = some 0 := List.getElem?_set_self (List.getElem?_eq_some_iff.mp h).1
  refine ⟨hset, ?_, fun k hk => ?_⟩
  · unfold Dev.heldOff
    rw [List.getD_eq_getElem?_getD, hset]
    rfl
  · have hother : (d.heldOver g).irq.holdUntil[k]? = d.irq.holdUntil[k]? := List.getElem?_set_ne (Ne.symm hk)
    unfold Dev.heldOff
    rw [List.getD_eq_getElem?_getD, List.getD_eq_getElem?_getD, hother]
    rfl

theorem live_running {k : Nat} (hl : s.liveHart k = some h) : s.carrier.phase = .running := by
  unfold State.liveHart at hl
  split at hl
  · split at hl
    · rename_i hc
      exact hc.1
    · cases hl
  · cases hl

end

end Sys2Proof.Machine

namespace Sys2Proof.Proofs
set_option Elab.async false
open Sys2Proof Sys2Proof.Machine

/-- Settles O51: claims and completions of the hart's own and of others, software's sources, missed counts, hold-off. -/
theorem interruptControl : Obligations.InterruptControl := by
  unfold Obligations.InterruptControl
  intro s hart h v hsound hl
  obtain ⟨hd, hharts, -, hclaims⟩ := hsound
  have hlive := live_isSome hl
  refine ⟨fun x hx => ?claim, fun hnone => exec_irqClaim_none hl fun _ => hnone,
    fun k hk => ⟨exec_irqClaim_none hl fun he => absurd he hk, exec_irqComplete_other hl hk⟩,
    fun c rest hc hs => exec_irqComplete_latest hl hc hs, fun hc => ?wrong, fun h1 h2 => ?trigger, fun hlow => ?reserved, ?missed,
    fun g n hn h0 => ?holdoff⟩
  case claim =>
    obtain ⟨honly, hclear⟩ := claimed_shows hd.2 x hart
    have hlt : hart.val < s.claims.length := by
      rw [hclaims.1]
      exact hart.isLt
    have hhart : hart.val < s.harts.length := by
      rw [hharts]
      exact hart.isLt
    have hrun : running (s.claims.set hart (⟨x, s.dev.prioOf x⟩ :: s.claims.getD hart [])) hart = s.dev.prioOf x := by
      unfold running
      rw [List.getD_eq_getElem?_getD, List.getElem?_set_self hlt]
      rfl
    exact ⟨_, exec_irqClaim_some hl hx, honly, State.offered_lt hart.isLt hx, hrun, offered_pending hx, hclear,
      claimed_starts, List.getElem?_set_self hhart,
      fun k hk => ⟨List.getElem?_set_ne (Ne.symm hk), List.getElem?_set_ne (Ne.symm hk)⟩⟩
  case wrong =>
    exact ⟨_, exec_irqComplete_wrong hl hc, (Leaves.refl.raise _ _).calm hd, (Keeps.refl (level := true).raise _ _).steady,
      (Pends.raised hd.2 _ (by decide)).pend⟩
  case trigger =>
    have hx : exec (.irqSwTrigger hart v) s = .next { s with dev := s.dev.irqEdge (bits v 9 0) } := by
      refine congrArg Host.Outcome.next ((byHart_live hlive _).trans ?_)
      rw [if_pos ⟨h1, h2⟩]
    have hexists : sourceExists (bits v 9 0) = true := decide_eq_true (by omega)
    have hpend := (SourcePends.irqEdge hd.2 hexists).pending
    have hplace : bits v 9 0 / 32 = 7 ∧ bits v 9 0 % 32 = bits v 9 0 - 224 := by omega
    refine ⟨_, hx, (Leaves.refl.irqEdge _).calm hd, (Keeps.refl (level := true).irqEdge _).steady, ?_⟩
    rw [← hplace.1, ← hplace.2]
    exact hpend
  case reserved =>
    refine congrArg Host.Outcome.next ((byHart_live hlive _).trans ?_)
    rw [if_neg fun hc => Nat.not_le.mpr hlow hc.1]
  case missed =>
    have hx : exec (.irqMissedClear hart v) s = .next { s with dev :=
        (s.dev.setFld (Reg.irqMissed (bits v 9 0 / 4)) (8 * (bits v 9 0 % 4) + 7) (8 * (bits v 9 0 % 4)) 0) } :=
      congrArg Host.Outcome.next (byHart_live hlive _)
    exact ⟨_, hx, ((Touches.refl hd.2).setFld (.head _) _ _ _).only, (Dev.fld_setFld hd.2 _ (by omega) (by omega) _).trans (Nat.zero_mod _)⟩
  case holdoff =>
    have hx := exec_holdoffExpiry (live_running hl) hn h0
    obtain ⟨hset, hoff, hothers⟩ := heldOver_off hn
    refine ⟨fun hle => ?_, fun hlt => by rw [hx, if_neg (Nat.not_le.mpr hlt)]⟩
    rw [if_pos hle] at hx
    exact ⟨_, hx, (Touches.other (e := s.dev.heldOver g) (Touches.refl hd.2)).only, hoff, hset, hothers⟩

end Sys2Proof.Proofs

/-! The carrier controller: insertion and removal, and what starts the package afresh (R409, R412, R431 to R433, R449 to R455). -/
namespace Sys2Proof.Machine
set_option Elab.async false

section
variable {s t : State} {d : Dev} {input rail : List InputRun} {cause : Nat} {p : CarrierPhase}

/-! Insertion and removal. -/

theorem exec_insertionDebounceEnd (input : List InputRun) : exec (.insertionDebounceEnd input) s = .next (
    if (decide (s.carrier.phase = .debounce ∧ s.carrier.since + ms 10 ≤ s.dev.now) || s.carrier.phase == .offRemoved) &&
      !s.latchOpen && inputInRange (s.sample input).carrier.newestAvg
    then { s.sample input with carrier := { (s.sample input).carrier with phase := .ramp, since := s.dev.now, cause := 1, retries := 0 } }
    else s.sample input) := by
  show execInsertionDebounceEnd s input = _
  unfold execInsertionDebounceEnd State.toPhase State.latchOpen
  simp only [State.sample_phase, State.sample_since, State.sample_dev]

theorem exec_prsntBreak_open (h1 : s.carrier.phase ≠ .dark) (h2 : s.carrier.phase ≠ .locked false) (h3 : s.carrier.phase.closed = false) :
    exec .prsntBreak s = .next { s with carrier := { s.carrier with mated := false, phase := .unmated, since := s.dev.now } } := by
  show execPrsntBreak s = _
  unfold execPrsntBreak
  dsimp only
  split
  · exact absurd ‹_› h1
  · exact absurd ‹_› h2
  · rw [h3]
    rfl

theorem exec_prsntBreak_closed (h : s.carrier.phase.closed = true) : exec .prsntBreak s = .next s := by
  show execPrsntBreak s = _
  unfold execPrsntBreak
  dsimp only
  split
  · rename_i hp
    rw [hp] at h
    cases h
  · rename_i hp
    rw [hp] at h
    cases h
  · rw [h]
    rfl

/-- Where the controller goes when the switch opens at once. -/
def State.openedTo (s : State) (p : CarrierPhase) : CarrierPhase :=
  match s.carrier.phase, s.carrier.afterOff with
  | .poweringOff _, .locked false => .locked false
  | _, _ => p

theorem cutPower_phase (s : State) (hp : p ≠ .dark) : (s.cutPower p).carrier.phase = s.openedTo p := by
  unfold State.openedTo State.cutPower State.toPhase
  dsimp only
  cases s.carrier.phase with
  | poweringOff n =>
    cases s.carrier.afterOff with
    | locked b =>
      cases b with
      | false => cases p with
        | dark => exact absurd rfl hp
        | _ => rfl
      | true => rfl
    | _ => rfl
  | _ => rfl

/-- Once the switch has opened the package keeps its flash alone. -/
theorem cutPower_keeps (s : State) (hp : p ≠ .dark) :
    (s.cutPower p).carrier = { s.carrier with phase := s.openedTo p, since := s.dev.now } ∧
      (s.cutPower p).dev.flash = s.dev.cutSpill.flash ∧ (s.cutPower p).dev.mem = [] ∧ (s.cutPower p).dev.regs = [] ∧
      (s.cutPower p).fuse = s.fuse ∧ (s.cutPower p).pending = s.pending := by
  have hcarrier : (s.cutPower p).carrier = { s.carrier with phase := (s.cutPower p).carrier.phase, since := s.dev.cutSpill.now } := rfl
  rw [cutPower_phase s hp, Dev.cutSpill_now] at hcarrier
  exact ⟨hcarrier, rfl, rfl, rfl, rfl, rfl⟩

/-! What starts the package afresh. -/

theorem release_afresh (s : State) (cause : Nat) : s.Afresh (s.release cause) cause := by
  have hwf : Assoc.wf regReset (Dev.resetWith s.dev.flash s.dev.ext s.dev.now s.dev.freeCtr).newNonce.regs = true := rfl
  have hleaves : Leaves (fun _ => true) (Dev.resetWith s.dev.flash s.dev.ext s.dev.now s.dev.freeCtr) (s.release cause).dev :=
    (Leaves.refl.newNonce.raise (page1 .thm) 1).ite Leaves.refl.newNonce
  have hhub : InState (Dev.resetWith s.dev.flash s.dev.ext s.dev.now s.dev.freeCtr).newNonce (page1 .hub) 0 := ⟨hwf, by
    show bits (regReset (stateReg (page1 .hub))) 3 0 = 0
    decide⟩
  have hend : InState (s.release cause).dev (page1 .hub) 0 ∧ (s.release cause).dev.boot.stage = 1 ∧
      (s.release cause).dev.flash = s.dev.flash := by
    unfold State.release
    dsimp only
    split
    · exact ⟨hhub.raise _ _, by rw [Dev.raise_boot]; rfl, by rw [Dev.raise_flash]; rfl⟩
    · exact ⟨hhub, rfl, rfl⟩
  obtain ⟨hcode, hstage, hflash⟩ := hend
  exact ⟨rfl, rfl, hstage, hcode.code, fun a ha => (hleaves.byte rfl a rfl ha).symm, fun a ha => hleaves.config rfl a ha, rfl, rfl, rfl, hflash,
    rfl, rfl⟩

theorem resetPackage_afresh (s : State) (cause : Nat) (h : s.carrier.refclk = true) : s.Afresh (s.resetPackage cause) cause := by
  unfold State.resetPackage
  rw [if_pos h]
  exact release_afresh s cause

/-- The phase has lasted as long as the release of reset asks. -/
theorem settled_of (h : s.carrier.phase = .softStart ∧ s.carrier.since + ms 4 ≤ s.dev.now ∨
    s.carrier.phase = .held ∧ s.carrier.since + ms 2 ≤ s.dev.now) : s.carrier.settled s.dev.now = true := by
  unfold Carrier.settled
  rcases h with ⟨hp, ht⟩ | ⟨hp, ht⟩ <;> rw [hp] <;> exact decide_eq_true ht

theorem not_settled_of (h : s.carrier.phase = .softStart ∧ s.dev.now < s.carrier.since + ms 4 ∨
    s.carrier.phase = .held ∧ s.dev.now < s.carrier.since + ms 2) : s.carrier.settled s.dev.now = false := by
  unfold Carrier.settled
  rcases h with ⟨hp, ht⟩ | ⟨hp, ht⟩ <;> rw [hp] <;> exact decide_eq_false (Nat.not_le.mpr ht)

theorem exec_resetRelease (input rail : List InputRun) : exec (.resetRelease input rail) s = .next (
    if s.carrier.settled s.dev.now && s.carrier.refclk && AvgRun.holds inputInRange 2000 (s.sample input).carrier.avg && railGood rail
    then (s.sample input).release s.carrier.cause else s.sample input) := by
  have hsettled : (s.sample input).carrier.settled s.dev.now = s.carrier.settled s.dev.now := by
    unfold Carrier.settled
    rw [State.sample_phase, State.sample_since]
  show execResetRelease s input rail = _
  unfold execResetRelease
  simp only [State.sample_refclk, State.sample_dev, State.sample_cause, hsettled]

theorem recoveryBundle_runs (hr : s.carrier.phase = .running) (hrec : s.dev.boot.recovery = true)
    (hup : s.dev.mgt.up.getD 0 false = true) (hsess : 0 < s.dev.mgt.sessions) (bundle : List Byte) :
    exec (.recoveryBundle bundle) s = .next (
      if (bundleOf bundle).checkAll s.fuse = 0 then
        ({ s with
          dev := { s.dev with flash := s.dev.flash.writeCopy (s.dev.boot.firstFailed.getD false) (bundleOf bundle) }
          carrier := s.carrier.rewritten (s.dev.boot.firstFailed.getD false) } : State).resetPackage s.carrier.cause
      else { s with dev := { s.dev with mgt := { s.dev.mgt with refused := (bundleOf bundle).checkAll s.fuse } } }) :=
  congrArg Host.Outcome.next (if_pos ⟨hr, hrec, hup, hsess⟩)

end

end Sys2Proof.Machine

namespace Sys2Proof.Proofs
set_option Elab.async false
open Sys2Proof Sys2Proof.Machine

/-- Settles O56: the controller's phases at each event of insertion and removal. -/
theorem insertionAndRemoval : Obligations.InsertionAndRemoval := by
  unfold Obligations.InsertionAndRemoval
  intro s
  refine ⟨fun h => ?mate, fun input t ht => ⟨fun hp hlatch hrange => ?ramp, fun h => ?waits⟩, fun h => ⟨?complete, ?fault⟩,
    fun h => ⟨fun ht => ?retry, fun ht => ?early⟩, exec_prsntBreak_open, fun h => ?locked, fun h => ⟨exec_prsntBreak_closed h,
    fun c p mated hc => ?cut⟩, fun h => ⟨?removal, ?trip⟩⟩
  case mate =>
    show execPrsntMate s = _
    unfold execPrsntMate
    dsimp only
    rw [if_pos h]
    rfl
  case ramp =>
    have hdue : (decide (s.carrier.phase = .debounce ∧ s.carrier.since + ms 10 ≤ s.dev.now) || s.carrier.phase == .offRemoved) = true := by
      rcases hp with hp | hp
      · rw [hp]
        rfl
      · rw [decide_eq_true hp]
        rfl
    subst ht
    rw [exec_insertionDebounceEnd, hdue, hlatch, hrange]
    rfl
  case waits =>
    subst ht
    rw [exec_insertionDebounceEnd, if_neg]
    rcases h with ⟨hp, ht⟩ | h | h
    · rw [hp, decide_eq_false fun h => Nat.not_le.mpr ht h.2]
      exact Bool.false_ne_true
    · rw [h]
      simp
    · rw [h]
      simp
  case complete =>
    have hx : exec .rampComplete s = .next (({ s with dev := s.dev.drawWord.2, carrier := { s.carrier with
        peakDa := s.dev.drawWord.1.toNat % 1201 } } : State).toPhase .softStart) := congrArg Host.Outcome.next (if_pos h)
    exact ⟨_, hx, rfl, rfl, Nat.le_of_lt_succ (Nat.mod_lt _ (by decide)), rfl⟩
  case fault => exact congrArg Host.Outcome.next (if_pos h)
  case retry => exact congrArg Host.Outcome.next (if_pos ⟨h, ht⟩)
  case early => exact congrArg Host.Outcome.next (if_neg fun hc => Nat.not_le.mpr ht hc.2)
  case locked =>
    show execPrsntBreak s = _
    unfold execPrsntBreak
    dsimp only
    rw [h]
  case cut =>
    simp only [List.mem_cons, Prod.mk.injEq, List.not_mem_nil, or_false] at hc
    rcases hc with ⟨rfl, rfl, rfl⟩ | ⟨rfl, rfl, rfl⟩
    · obtain ⟨hcarrier, hrest⟩ := cutPower_keeps ({ s with carrier := { s.carrier with mated := false } } : State)
        (p := .unmated) CarrierPhase.noConfusion
      exact ⟨_, congrArg Host.Outcome.next (if_pos h), hcarrier, hrest⟩
    · obtain ⟨hcarrier, hrest⟩ := cutPower_keeps s (p := .locked true) CarrierPhase.noConfusion
      exact ⟨_, congrArg Host.Outcome.next (if_pos h), hcarrier, hrest⟩
  case removal => exact congrArg Host.Outcome.next (if_neg (by rw [h]; decide))
  case trip => exact congrArg Host.Outcome.next (if_neg (by rw [h]; decide))

/-- Settles O54: the release of reset, the reset on request, the bundle of recovery mode. -/
theorem resetsStartAfresh : Obligations.ResetsStartAfresh := by
  unfold Obligations.ResetsStartAfresh
  intro s
  refine ⟨fun input rail t ht => ⟨fun hphase hclock hin hrail => ?released, fun h => ?held⟩, fun hr hc => ⟨fun hclock => ?request,
    fun hclock => ?waits⟩, fun bundle x hx hr hrec hup hsess => ⟨fun hgood hclock => ?bundle, fun hbad => ?refused⟩⟩
  case released =>
    subst ht
    have hx := exec_resetRelease (s := s) input rail
    rw [settled_of hphase, hclock, hin, hrail] at hx
    have hafresh := release_afresh (s.sample input) s.carrier.cause
    refine ⟨_, hx, ?_⟩
    unfold State.Afresh at hafresh ⊢
    simp only [State.sample_dev, State.sample_fuse, State.sample_pending] at hafresh
    exact hafresh
  case held =>
    subst ht
    rw [exec_resetRelease, if_neg]
    rcases h with h | h | h | h | h
    · rw [not_settled_of (.inl h)]
      exact Bool.false_ne_true
    · rw [not_settled_of (.inr h)]
      exact Bool.false_ne_true
    · rw [h]
      simp
    · rw [h]
      simp
    · rw [h]
      simp
  case request =>
    exact ⟨_, congrArg Host.Outcome.next (if_pos ⟨hr, hc⟩), resetPackage_afresh s 2 hclock⟩
  case waits =>
    refine (congrArg Host.Outcome.next (if_pos ⟨hr, hc⟩)).trans ?_
    unfold State.resetPackage
    rw [hclock]
    rfl
  case bundle =>
    subst hx
    have hx := recoveryBundle_runs hr hrec hup hsess bundle
    rw [if_pos hgood] at hx
    exact ⟨_, _, hx, rfl, resetPackage_afresh ({ s with
      dev := { s.dev with flash := s.dev.flash.writeCopy (s.dev.boot.firstFailed.getD false) (bundleOf bundle) }
      carrier := s.carrier.rewritten (s.dev.boot.firstFailed.getD false) } : State) s.carrier.cause hclock⟩
  case refused =>
    subst hx
    rw [recoveryBundle_runs hr hrec hup hsess bundle, if_neg hbad]

end Sys2Proof.Proofs

/-! Power taken away in order, and back (R433, R434, R439, R440, R447, R453, R454). -/
namespace Sys2Proof.Machine
set_option Elab.async false

section
variable {s t : State} {d e : Dev} {after : CarrierPhase} {n uv : Nat} {c : TripCause} {r : Rail} {input : List InputRun}

theorem powerOff_begins (s : State) (after : CarrierPhase) : (s.powerOff after).carrier.phase = .poweringOff 1 ∧
    (s.powerOff after).carrier.since = s.dev.now ∧ (s.powerOff after).carrier.afterOff = after ∧
    (s.powerOff after).carrier.trips = s.carrier.trips ∧ (s.powerOff after).dev = s.dev.cutSpill :=
  ⟨rfl, Dev.cutSpill_now s.dev, rfl, rfl, rfl⟩

theorem exec_controlledPowerOff (hr : s.carrier.phase = .running) : exec .controlledPowerOff s = .next (
    if s.dev.quiesceOver || (s.dev.pwr.quiesced && s.sagOver) then s.powerOff .offRemoved
    else if s.sagOver then s.powerOff .offSag else s) := congrArg Host.Outcome.next (if_pos hr)

theorem quiesceOver_quiesced (h : s.dev.pwr.quiesced = false) : s.dev.quiesceOver = false := by
  unfold Dev.quiesceOver
  rw [h]
  rfl

theorem sagOver_of (h : s.dev.pwr.level = 5 ∨ s.dev.pwr.level = 4 ∧ 4 * s.dev.sagThreshold 4 ≤ s.carrier.newestAvg) :
    s.sagOver = true := by
  unfold State.sagOver
  rcases h with h | ⟨h, hin⟩
  · rw [h]
    rfl
  · rw [h, decide_eq_true hin]
    rfl

theorem tripLockout_third (now : Nat) (trips : List Nat) : (if tripLockout (now :: trips) then CarrierPhase.locked false else .offTrip) =
    (match trips with
      | _ :: a :: _ => if now ≤ a + 600 * 1000000000 then .locked false else .offTrip
      | _ => .offTrip) := by
  match trips with
  | [] => rfl
  | [_] => rfl
  | _ :: a :: _ => exact if_congr decide_eq_true_iff rfl rfl

/-- A trip's cause kept with the time. -/
def State.tripped (s : State) : State := { s with carrier := { s.carrier with trips := s.dev.now :: s.carrier.trips } }

theorem exec_thermalTrip (hr : s.carrier.phase = .running) (ht : s.dev.trips c = true) : exec (.thermalTrip c) s =
    .next (s.tripped.powerOff (if tripLockout (s.dev.now :: s.carrier.trips) then .locked false else .offTrip)) :=
  congrArg Host.Outcome.next (if_pos ⟨hr, ht⟩)

/-! Rails. -/

theorem exec_railFault_core (hr : s.carrier.phase = .running) {x : Nat} (hoff : s.railOff (.core x) uv = true) (hx : x < 2400) :
    exec (.railFault (.core x) uv) s = .next { s with dev := (s.dev.raise pwrPage 4).cluTo x 7 } := by
  refine congrArg Host.Outcome.next ((if_pos ⟨hr, hoff⟩).trans ?_)
  dsimp only
  rw [if_pos hx]

theorem exec_railFault_other (hr : s.carrier.phase = .running) (hoff : s.railOff r uv = true) (hcore : ∀ x, r ≠ .core x) :
    exec (.railFault r uv) s = .next (({ s with dev := s.dev.railFault r } : State).powerOff (.locked true)) := by
  refine congrArg Host.Outcome.next ((if_pos ⟨hr, hoff⟩).trans ?_)
  cases r with
  | core x => exact absurd rfl (hcore x)
  | _ => rfl

/-- A cluster that a rail's fault has stopped. -/
theorem cluTo_fault (hd : Assoc.wf regReset d.regs = true) (x : Nat) : InState (d.cluTo x 7) (cluPage x) 7 := by
  unfold Dev.cluTo
  split
  · rename_i h
    exact ⟨hd, h⟩
  · exact (InState.moved hd _ (by decide)).raise _ _

/-- A rail's fault leaves the PWR and HUB pages in FAULT. -/
theorem railFault_pages (hd : Assoc.wf regReset d.regs = true) (r : Rail) :
    InState (d.railFault r) hubPage 7 ∧ InState (d.railFault r) pwrPage 7 := by
  have hraise : Assoc.wf regReset (d.raise pwrPage 4).regs = true := (Pends.raised hd pwrPage (by decide)).wf
  have hpwr : InState ((d.raise pwrPage 4).pageFault pwrPage) pwrPage 7 := InState.moved hraise _ (by decide)
  have hdie : Confined [0x011, 0x001] ((d.raise pwrPage 4).pageFault pwrPage) (match Rail.die r with
      | some x => if x < 12 then ((d.raise pwrPage 4).pageFault pwrPage).pageFault ⟨.die, x⟩ else (d.raise pwrPage 4).pageFault pwrPage
      | none => (d.raise pwrPage 4).pageFault pwrPage) := by
    cases Rail.die r with
    | none => exact .refl
    | some x => exact Confined.ite (Confined.refl.moveTo ⟨.die, x⟩ 7 (.head _)) .refl
  have hhub : Confined [0x011, 0x001] ((d.raise pwrPage 4).pageFault pwrPage) (d.railFault r) :=
    hdie.moveTo (page1 .hub) 7 (.tail _ (.head _))
  exact ⟨InState.moved (hdie.wf hpwr.wf) _ (by decide), hpwr.confined hhub (by decide)⟩

theorem cutSpill_regs (d : Dev) : d.cutSpill.regs = d.regs := by
  unfold Dev.cutSpill
  split <;> rfl

theorem cutSpill_inState {p : Page} {k : Nat} (h : InState d p k) : d.cutSpill.code p = k :=
  (h.other (cutSpill_regs d)).code

/-! The steps of the power-off, and the starts after it. -/

theorem exec_powerOffRailStep_waits (hp : s.carrier.phase = .poweringOff n) (ht : s.dev.now < s.carrier.since + ms 1) :
    exec .powerOffRailStep s = .next s := by
  show execPowerOffRailStep s = _
  unfold execPowerOffRailStep
  rw [hp]
  dsimp only
  rw [if_pos ht]

theorem exec_powerOffRailStep (hp : s.carrier.phase = .poweringOff n) (ht : s.carrier.since + ms 1 ≤ s.dev.now) :
    ∃ t, exec .powerOffRailStep s = .next t ∧ t.carrier.since = s.dev.now ∧
      t.carrier.phase = (if n = 5 then s.carrier.afterOff else .poweringOff (n + 1)) ∧
      (n = 2 → t.dev = { s.dev with mem := [] }) ∧ (n = 4 → t.dev.regs = [] ∧ t.dev.flash = s.dev.flash) ∧
      (n ≠ 2 → n ≠ 4 → t.dev = s.dev) := by
  show ∃ t, execPowerOffRailStep s = .next t ∧ _
  unfold execPowerOffRailStep
  rw [hp]
  dsimp only
  rw [if_neg (Nat.not_lt.mpr ht)]
  split
  · exact ⟨_, rfl, rfl, rfl, fun _ => rfl, fun h => absurd h (by decide), fun h => absurd rfl h⟩
  · exact ⟨_, rfl, rfl, rfl, fun h => absurd h (by decide), fun _ => ⟨rfl, rfl⟩, fun _ h => absurd rfl h⟩
  · exact ⟨_, rfl, rfl, rfl, fun h => absurd h (by decide), fun h => absurd h (by decide), fun _ _ => rfl⟩
  · rename_i h2 h4 h5
    exact ⟨_, rfl, rfl, (if_neg h5).symm, fun h => absurd h h2, fun h => absurd h h4, fun _ _ => rfl⟩

theorem exec_sagRestart (input : List InputRun) : exec (.sagRestart input) s = .next (
    if s.carrier.phase = .offSag ∧ s.carrier.since + ms 100 ≤ s.dev.now ∧ s.dev.recovered (s.sample input).carrier.avg 1 100000 = true
    then { s.sample input with
      carrier := { (s.sample input).carrier with phase := .ramp, since := s.dev.now, cause := 3, retries := 0 } }
    else s.sample input) := by
  show execSagRestart s input = _
  unfold execSagRestart State.restart State.toPhase
  simp only [State.sample_phase, State.sample_since, State.sample_dev]

end

end Sys2Proof.Machine

namespace Sys2Proof.Proofs
set_option Elab.async false
open Sys2Proof Sys2Proof.Machine

/-- Settles O57: what begins the power-off, its steps, and the starts after a sag and after a trip. -/
theorem powerOff : Obligations.PowerOff := by
  unfold Obligations.PowerOff
  intro s
  refine ⟨fun hr => ⟨fun h => ?removal, fun hq h => ?sag, fun hq h => ?goesOn, fun c => ⟨fun ht => ?trip, fun ht => ?cool⟩,
    fun r uv => ⟨fun hoff => ?railGood, fun hoff hd => ⟨fun x hcore hx => ?core, fun hcore => ?rail⟩⟩⟩,
    fun n hp => ⟨exec_powerOffRailStep hp, exec_powerOffRailStep_waits hp⟩,
    fun hp input t ht => ⟨fun hlong hin => ?restart, fun hnot => ?stays⟩, fun hp => ⟨fun hlong => ?again, fun hshort => ?waits⟩⟩
  case removal =>
    have hbegin : (s.dev.quiesceOver || (s.dev.pwr.quiesced && s.sagOver)) = true := by
      rcases h with h | ⟨h1, h2⟩
      · rw [h]
        rfl
      · rw [h1, h2]
        exact Bool.or_true _
    obtain ⟨hphase, hsince, hafter, -, hdev⟩ := powerOff_begins s .offRemoved
    exact ⟨_, (exec_controlledPowerOff hr).trans (congrArg _ (if_pos hbegin)), hphase, hsince, hafter, hdev⟩
  case sag =>
    obtain ⟨hphase, hsince, hafter, -, hdev⟩ := powerOff_begins s .offSag
    have hx := exec_controlledPowerOff hr
    rw [quiesceOver_quiesced hq, hq, sagOver_of h] at hx
    exact ⟨_, hx, hphase, hsince, hafter, hdev⟩
  case goesOn =>
    rw [exec_controlledPowerOff hr, hq, h, Bool.and_false]
    rfl
  case trip =>
    obtain ⟨hphase, -, hafter, htrips, hdev⟩ := powerOff_begins s.tripped
      (if tripLockout (s.dev.now :: s.carrier.trips) then .locked false else .offTrip)
    exact ⟨_, exec_thermalTrip hr ht, hphase, htrips, hdev, hafter.trans (tripLockout_third _ _)⟩
  case cool => exact congrArg Host.Outcome.next (if_neg fun h => Bool.false_ne_true (ht.symm.trans h.2))
  case railGood => exact congrArg Host.Outcome.next (if_neg fun h => Bool.false_ne_true (hoff.symm.trans h.2))
  case core =>
    subst hcore
    have hraise := Pends.raised hd.2 pwrPage (b := 4) (by decide)
    have hclu : Confined [0x012] (s.dev.raise pwrPage 4) ((s.dev.raise pwrPage 4).cluTo x 7) := Confined.refl.cluTo x 7 (.head _)
    exact ⟨_, exec_railFault_core hr hoff hx, ((Leaves.refl.raise _ _).cluTo _ _).calm hd, (cluTo_fault hraise.wf x).code,
      (hclu.pend _ _ hraise).pend⟩
  case rail =>
    obtain ⟨hphase, -, hafter, -, hdev⟩ := powerOff_begins { s with dev := s.dev.railFault r } (.locked true)
    obtain ⟨hhub, hpwr⟩ := railFault_pages hd.2 r
    exact ⟨_, exec_railFault_other hr hoff hcore, hphase, hafter, hdev ▸ cutSpill_inState hhub, hdev ▸ cutSpill_inState hpwr⟩
  case restart =>
    subst ht
    rw [exec_sagRestart, if_pos ⟨hp, hlong, hin⟩]
  case stays =>
    subst ht
    rw [exec_sagRestart, if_neg]
    rintro ⟨-, hlong, hin⟩
    rcases hnot with h | h
    · exact Nat.not_le.mpr h hlong
    · exact Bool.false_ne_true (h.symm.trans hin)
  case again => exact congrArg Host.Outcome.next (if_pos ⟨hp, hlong⟩)
  case waits => exact congrArg Host.Outcome.next (if_neg fun h => Nat.not_le.mpr hshort h.2)

end Sys2Proof.Proofs

/-! What parking, shedding and the quiesce leave (R434 to R442, R449 to R454), and the external inputs (R417, R442, R448, R452). -/
namespace Sys2Proof.Machine
set_option Elab.async false

/-- `d` comes from `o` by work that keeps the external inputs, the package's power state but for self-refresh and targets, the
time, the pending sources, the event bits and HOT_CTRL. -/
structure Sheds (o d : Dev) : Prop where
  ext : d.ext = o.ext
  pwr : d.pwr = { o.pwr with selfRefresh := d.pwr.selfRefresh, target := d.pwr.target }
  source : ∀ x, SourcePends o x → SourcePends d x
  pend : ∀ p b, Pends o p b → Pends d p b
  ctrl : Assoc.wf regReset o.regs = true → Reads o d Reg.hotCtrl
  now : d.now = o.now

section
variable {s : State} {o d e : Dev} {i n : Nat} {c : Carrier} {x : ExtInput}

theorem Sheds.refl : Sheds o o := ⟨rfl, rfl, fun _ => id, fun _ _ => id, fun h => .refl h _, rfl⟩

theorem Sheds.trans (h1 : Sheds o d) (h2 : Sheds d e) : Sheds o e := by
  refine ⟨h2.ext.trans h1.ext, ?_, fun x h => h2.source x (h1.source x h), fun p b h => h2.pend p b (h1.pend p b h),
    fun h => ⟨(h2.ctrl (h1.ctrl h).1).1, (h2.ctrl (h1.ctrl h).1).2.trans (h1.ctrl h).2⟩, h2.now.trans h1.now⟩
  have h := h2.pwr
  rw [h1.pwr] at h
  exact h

theorem Sheds.ite {c : Prop} [Decidable c] {x y : Dev} (hx : Sheds o x) (hy : Sheds o y) : Sheds o (if c then x else y) := by
  split
  · exact hx
  · exact hy

theorem Sheds.foldl {α : Type} {f : Dev → α → Dev} {l : List α} (h : Sheds o d) (hf : ∀ x a, Sheds x (f x a)) :
    Sheds o (l.foldl f d) := by
  induction l generalizing d with
  | nil => exact h
  | cons a l ih => exact ih (h.trans (hf d a))

/-- A change that leaves the registers. -/
theorem Sheds.other (h : Sheds o d) (hr : e.regs = d.regs := by rfl) (he : e.ext = d.ext := by rfl)
    (hp : e.pwr = { d.pwr with selfRefresh := e.pwr.selfRefresh, target := e.pwr.target } := by rfl)
    (hn : e.now = d.now := by rfl) : Sheds o e :=
  h.trans ⟨he, hp, fun _ hx => SourcePends.of_reads hx ((Reads.refl hx.wf _).other hr), fun _ _ hx => hx.other hr,
    fun hw => (Reads.refl hw _).other hr, hn⟩

theorem Sheds.setReg (h : Sheds o d) {a : Nat} (w : Word) (hlow : a % 0x1000 ≠ 0x020) (hpage : regPage a ≠ 0x004)
    (hctrl : Reg.hotCtrl ≠ a := by decide) : Sheds o (d.setReg a w) := by
  refine h.trans ⟨rfl, rfl, fun x hx => SourcePends.of_reads hx ((Reads.refl hx.wf _).setReg w ?_), fun p b hx => hx.setLow hlow w,
    fun hw => (Reads.refl hw _).setReg w hctrl, rfl⟩
  intro ha
  apply hpage
  rw [← ha]
  unfold Reg.irqPending regPage
  omega

theorem Sheds.acts (h : Sheds o d) (as : List Act) : Sheds o (d.acts as) :=
  h.trans ⟨Dev.acts_ext d as, by rw [Dev.acts_pwr], fun x hx => hx.runActs _ as, fun p b hx => hx.acts as,
    fun hw => (Reads.refl hw _).acts (by decide) as, Dev.acts_now d as⟩

theorem Sheds.raise (h : Sheds o d) (p : Page) (b : Nat) : Sheds o (d.raise p b) := h.acts _

theorem Sheds.moveTo (h : Sheds o d) (p : Page) (c : Nat) (hp : pageCode p.type ≠ 0x004) : Sheds o (d.moveTo p c) := by
  have hlow := stateReg_low p
  have hset : ∀ w, Sheds o (d.setReg (stateReg p) w) := fun w => h.setReg w (by omega) (by rw [regPage_stateReg]; exact hp)
    fun ha => absurd (congrArg (· % 0x1000) ha) (by unfold Reg.hotCtrl; omega)
  exact h.ite (hset _).other

theorem Sheds.dropQueues (h : Sheds o d) (q : Nat) : Sheds o (d.dropQueues q) := by
  unfold Dev.dropQueues
  refine h.foldl fun x a => ?_
  have hvia : Sheds x (x.freeVia a) := by
    unfold Dev.freeVia
    split
    · exact Sheds.refl.other
    · exact .refl
  unfold Dev.notAccepted
  exact hvia.ite hvia.other

theorem fabPort_page (q : Nat) : ∀ a ∈ [Reg.fabPeer q, Reg.fabLanes q, Reg.fabCtrl q], 
    a % 0x1000 ≠ 0x020 ∧ regPage a ≠ 0x004 ∧ Reg.hotCtrl ≠ a := by
  intro a ha
  simp only [List.mem_cons, List.not_mem_nil, or_false] at ha
  unfold regPage Reg.hotCtrl
  rcases ha with rfl | rfl | rfl
  · unfold Reg.fabPeer
    omega
  · unfold Reg.fabLanes
    omega
  · unfold Reg.fabCtrl
    omega

theorem Sheds.portOff (h : Sheds o d) (q : Nat) : Sheds o (d.portOff q) := by
  obtain ⟨hpeer, hpeer', hpeer''⟩ := fabPort_page q _ (.head _)
  obtain ⟨hlanes, hlanes', hlanes''⟩ := fabPort_page q _ (.tail _ (.head _))
  have hdown : Sheds o (if d.active (fabPage q) then d.raise (fabPage q) 1 else d) := (h.raise _ _).ite h
  have hlost : ∀ x, Sheds o x → Sheds o ((x.loseLink q).setPort q fun _ => Port.reset) := fun _ hx => hx.other
  exact (((hlost _ (hdown.dropQueues q)).setReg _ hpeer hpeer' hpeer'').setReg _ hlanes hlanes' hlanes'').moveTo _ _ (show (0x00E : Nat) ≠ 0x004 by decide)

theorem Sheds.parkPort (h : Sheds o d) (q : Nat) : Sheds o (d.parkPort q) := by
  obtain ⟨hctrl, hctrl', hctrl''⟩ := fabPort_page q _ (.tail _ (.tail _ (.head _)))
  have hoff : Sheds o ((d.portOff q).setPort q fun p => { p with parkWords := 64 }) := (h.portOff q).other
  exact (hoff.setReg _ hctrl hctrl' hctrl'').ite h

theorem Sheds.park (h : Sheds o d) : Sheds o d.park := by
  have hrefresh : Sheds o ({ d with pwr := { d.pwr with selfRefresh := d.pwr.selfRefresh || decide (3 ≤ d.pwr.level) } } : Dev) := h.other
  have hports := hrefresh.foldl (f := Dev.parkPort) (l := List.range 36) fun _ q => Sheds.refl.parkPort q
  exact ((hports.moveTo hubPage 3 (by decide)).ite hports).ite h

theorem Sheds.showPinned (h : Sheds o d) : Sheds o d.showPinned := by
  unfold Dev.showPinned
  refine h.foldl fun y b => ?_
  have hflag : Sheds y (y.setFlag Reg.pwrPinned b.2 b.1) := Sheds.refl.setReg _ (by decide) (by decide)
  exact (hflag.acts _).ite hflag

theorem Sheds.suspend (h : Sheds o d) (b : Nat) : Sheds o (d.suspend b) := by
  have hflag : Sheds o (d.setFlag (Reg.seqBfStatus 1) b true) := h.setReg _ (by decide) (by decide)
  exact h.ite (hflag.raise _ _)

theorem Sheds.setStream (h : Sheds o d) (st : Stream) (f : StreamState → StreamState) : Sheds o (d.setStream st f) := by
  cases st <;> exact h.other

theorem Sheds.shedActions (h : Sheds o d) (c : Carrier) (n : Nat) : Sheds o (d.shedActions c n) := by
  have hcount : ∀ w, Sheds o (d.setReg Reg.pwrShed w) := fun w => h.setReg w (by decide) (by decide)
  have htarget : ∀ l, Sheds o ({ d with pwr := { d.pwr with target := l } } : Dev) := fun _ => h.other
  have hcrash : ∀ x, Sheds o x → Sheds o (x.crash c) := fun _ hx => hx.other
  unfold Dev.shedActions
  split
  · exact (hcount _).suspend 2
  · exact (htarget _).showPinned
  · exact h.park
  · exact hcrash _ ((h.setStream .main _).setStream .backfill _).park
  · exact h

/-- The device as a shed level is entered. -/
def Dev.atLevel (d : Dev) (n : Nat) : Dev := { d with pwr := { d.pwr with level := n, since := d.now } }

theorem atLevel_pends (d : Dev) (n : Nat) : (∀ x, SourcePends d x → SourcePends (d.atLevel n) x) ∧
    ∀ p b, Pends d p b → Pends (d.atLevel n) p b :=
  ⟨fun x h => SourcePends.of_reads h ((Reads.refl h.wf _).other), fun _ _ h => h.other⟩

/-- What follows the entry of a level. -/
theorem enterLevel_sheds (c : Carrier) (d : Dev) (n : Nat) : Sheds (d.atLevel n) (Dev.enterLevel c d n) := by
  have hshed : ∀ w, Sheds (d.atLevel n) ((d.atLevel n).setReg Reg.pwrShed w) := fun w => Sheds.refl.setReg w (by decide) (by decide)
  exact ((hshed _).raise _ _).shedActions c n

theorem enterLevel_shows (c : Carrier) (d : Dev) (n : Nat) : (Dev.enterLevel c d n).ext = d.ext ∧ (Dev.enterLevel c d n).pwr.level = n ∧
    (Dev.enterLevel c d n).pwr.since = d.now ∧ (∀ x, SourcePends d x → SourcePends (Dev.enterLevel c d n) x) := by
  have h := enterLevel_sheds c d n
  refine ⟨h.ext, ?_, ?_, fun x hx => h.source x ((atLevel_pends d n).1 x hx)⟩ <;> rw [h.pwr] <;> rfl

/-- The power state of a package whose quiesce has begun. -/
def Dev.quiescing (d : Dev) : Dev := { d with pwr := { d.pwr with quiesced := true, graceFrom := none } }

theorem startQuiesce_sheds (h : d.pwr.quiesced = false) : Sheds d.quiescing d.startQuiesce := by
  have hstatus : ∀ x w, Sheds d.quiescing x → Sheds d.quiescing (x.setReg Reg.hotStatus w) := fun x w hx =>
    hx.setReg w (by decide) (by decide)
  have hbegin : d.startQuiesce = (((d.quiescing.moveTo hotPage 3).setFld Reg.hotStatus 2 1 2).raise hotPage 2).park := by
    unfold Dev.startQuiesce
    rw [h]
    rfl
  rw [hbegin]
  exact ((hstatus _ _ (Sheds.refl.moveTo hotPage 3 (by decide))).raise _ _).park

/-- A quiesce begun stands; inputs, sources and events are as before. -/
theorem startQuiesce_shows (d : Dev) : d.startQuiesce.pwr.quiesced = true ∧ d.startQuiesce.ext = d.ext ∧
    (∀ x, SourcePends d x → SourcePends d.startQuiesce x) ∧ ∀ p b, Pends d p b → Pends d.startQuiesce p b := by
  cases hq : d.pwr.quiesced with
  | true =>
    have hsame : d.startQuiesce = d := by
      unfold Dev.startQuiesce
      rw [hq]
      rfl
    rw [hsame]
    exact ⟨hq, rfl, fun _ => id, fun _ _ => id⟩
  | false =>
    have h := startQuiesce_sheds hq
    refine ⟨by rw [h.pwr]; rfl, h.ext, fun x hx => h.source x ?_, fun p b hx => h.pend p b hx.other⟩
    exact SourcePends.of_reads hx ((Reads.refl hx.wf _).other)

/-! The external inputs. -/

theorem input_of (h : d.ext[i]? = some x) : d.input i = x := by
  unfold Dev.input
  rw [List.getD_eq_getElem?_getD, h]
  rfl

theorem input_setInput (h : d.ext[i]? = some x) (y : ExtInput) : (d.setInput i y).input i = y :=
  input_of (List.getElem?_set_self (List.getElem?_eq_some_iff.mp h).1)

/-- LATCH open: its event, and the grace or the quiesce (R452). -/
theorem latchOpened_shows (hd : Assoc.wf regReset d.regs = true) : d.latchOpened.ext = d.ext ∧
    (∀ x, SourcePends d x → SourcePends d.latchOpened x) ∧ d.latchOpened.pend hotPage 0 = true ∧
    (d.latchOpened.pwr.quiesced = true ∨ d.latchOpened.pwr.graceFrom = some d.now) := by
  unfold Dev.latchOpened
  split
  · rename_i hq
    have hraise : Sheds d (d.raise hotPage 0) := Sheds.refl.raise _ _
    exact ⟨hraise.ext, hraise.source, (Pends.raised hd hotPage (by decide)).pend, .inl (by rw [hraise.pwr]; exact hq)⟩
  · obtain ⟨g, hg⟩ : ∃ g : Dev, g = { d with pwr := { d.pwr with graceFrom := some d.now } } := ⟨_, rfl⟩
    have hset : Assoc.wf regReset (g.setFld Reg.hotStatus 2 1 1).regs = true := by
      rw [hg]
      exact Assoc.wf_set hd _ _
    have hstatus : Sheds g (g.setFld Reg.hotStatus 2 1 1) := Sheds.refl.setReg _ (by decide) (by decide)
    have hraise := hstatus.raise hotPage 0
    have hpend := Pends.raised hset hotPage (b := 0) (by decide)
    have hsource : ∀ x, SourcePends d x → SourcePends g x := fun x hx => by
      rw [hg]
      exact SourcePends.of_reads hx (Reads.refl hx.wf _).other
    have hext : g.ext = d.ext := by rw [hg]
    have hgrace : g.pwr.graceFrom = some d.now := by rw [hg]
    dsimp only
    rw [← hg]
    split
    · obtain ⟨hq, he, hs, hp⟩ := startQuiesce_shows ((g.setFld Reg.hotStatus 2 1 1).raise hotPage 0)
      exact ⟨he.trans (hraise.ext.trans hext), fun x hx => hs x (hraise.source x (hsource x hx)), (hp _ _ hpend).pend, .inl hq⟩
    · exact ⟨hraise.ext.trans hext, fun x hx => hraise.source x (hsource x hx), hpend.pend, .inr (by rw [hraise.pwr]; exact hgrace)⟩

theorem latchClosed_ext (d : Dev) : d.latchClosed.ext = d.ext := by
  unfold Dev.latchClosed
  split
  · have hstatus : ∀ g : Dev, Sheds g ((g.setFld Reg.hotStatus 2 1 0).raise hotPage 1) := fun g =>
      Sheds.raise (Sheds.refl.setReg _ (by decide) (by decide)) _ _
    exact (hstatus _).ext
  · rfl

/-- PWR_FAIL brings level 3 (R442). -/
theorem pwrFail_shows (d : Dev) (c : Carrier) : (d.pwrFail c).ext = d.ext ∧ 3 ≤ (d.pwrFail c).pwr.level ∧
    ∀ x, SourcePends d x → SourcePends (d.pwrFail c) x := by
  unfold Dev.pwrFail
  split
  · rename_i h
    exact ⟨rfl, h, fun _ => id⟩
  · rename_i h
    have hfold : ∀ (l : List Nat) (e : Dev), (l.foldl (Dev.enterLevel c) e).ext = e.ext ∧
        ∀ x, SourcePends e x → SourcePends (l.foldl (Dev.enterLevel c) e) x := by
      intro l
      induction l with
      | nil => exact fun e => ⟨rfl, fun _ => id⟩
      | cons n l ih =>
        intro e
        obtain ⟨hext, -, -, hsource⟩ := enterLevel_shows c e n
        obtain ⟨hext', hsource'⟩ := ih (Dev.enterLevel c e n)
        exact ⟨hext'.trans hext, fun x hx => hsource' x (hsource x hx)⟩
    have hlast : (List.range 4).filter (fun n => d.pwr.level < n) = (List.range 3).filter (fun n => d.pwr.level < n) ++ [3] := by
      have hthree : decide (d.pwr.level < 3) = true := decide_eq_true (Nat.lt_of_not_le h)
      rw [show List.range 4 = List.range 3 ++ [3] from rfl, List.filter_append, List.filter_cons_of_pos (p := fun n => decide (d.pwr.level < n)) hthree,
        List.filter_nil]
    dsimp only
    rw [hlast, List.foldl_append]
    obtain ⟨hext, hsource⟩ := hfold ((List.range 3).filter fun n => d.pwr.level < n) d
    generalize ((List.range 3).filter fun n => d.pwr.level < n).foldl (Dev.enterLevel c) d = e at hext hsource
    obtain ⟨hext3, hlevel, -, hsource3⟩ := enterLevel_shows c e 3
    have hraise : Sheds (Dev.enterLevel c e 3) ((Dev.enterLevel c e 3).raise pwrPage 5) := Sheds.refl.raise _ _
    exact ⟨hraise.ext.trans (hext3.trans hext), by rw [List.foldl_cons, List.foldl_nil, hraise.pwr]; exact Nat.le_of_eq hlevel.symm,
      fun x hx => hraise.source x (hsource3 x (hsource x hx))⟩

/-- A logged event sets its bit too. -/
theorem Pends.raisedLogged (h : Assoc.wf regReset d.regs = true) (p : Page) {b : Nat} (hb : b < 32) (peer : Nat) (detail : List Byte) :
    Pends (d.raiseLogged p b peer detail) p b := Pends.runActs 95 _ (event_set h p hb true)

/-- The device as a filtered level changes, before the rest of the package takes notice. -/
def Dev.levelled (d : Dev) (i : Nat) : Dev :=
  let e := d.setInput i { d.input i with level := (d.input i).raw, activeSince := d.now, stuck := (d.input i).stuck && (d.input i).raw }
  if (d.input i).raw then e.irqEdge (160 + i) else e

theorem exec_extInputFiltered {i : Fin 5} (hrun : s.carrier.phase = .running) (hx : s.dev.ext[i.val]? = some x) (hne : x.raw ≠ x.level)
    (ht : x.rawSince + us 16 ≤ s.dev.now) :
    exec (.extInputFiltered i) s = .next { s with dev := (s.dev.levelled i).inputActs s.carrier i x.raw } := by
  have hin := input_of hx
  refine congrArg Host.Outcome.next ((if_pos hrun).trans ?_)
  unfold Dev.filterInput Dev.levelled
  beta_reduce
  rw [hin, if_neg (not_or.mpr ⟨hne, Nat.not_lt.mpr ht⟩)]

theorem exec_extInputFiltered_early {i : Fin 5} (hrun : s.carrier.phase = .running) (hx : s.dev.ext[i.val]? = some x)
    (ht : s.dev.now < x.rawSince + us 16) : exec (.extInputFiltered i) s = .next s := by
  refine congrArg Host.Outcome.next ((if_pos hrun).trans ?_)
  unfold Dev.filterInput
  beta_reduce
  rw [input_of hx, if_pos (.inr ht)]

theorem input_irqEdge (d : Dev) (i n : Nat) : (d.irqEdge n).input i = d.input i := by
  unfold Dev.input
  rw [Dev.irqEdge_ext]

theorem levelled_shows (hd : d.Tidy) (hi : i < 5) (hx : d.ext[i]? = some x) :
    ((d.levelled i).input i).level = x.raw ∧ (x.raw = true → SourcePends (d.levelled i) (160 + i)) ∧
      Assoc.wf regReset (d.levelled i).regs = true ∧ (d.levelled i).now = d.now ∧ (d.levelled i).cappedPower = d.cappedPower := by
  have hin := input_of hx
  obtain ⟨y, hy⟩ : ∃ y : ExtInput, y = { x with level := x.raw, activeSince := d.now, stuck := x.stuck && x.raw } := ⟨_, rfl⟩
  have hset : (d.setInput i y).input i = y := input_setInput hx y
  have hlevel : y.level = x.raw := by rw [hy]
  have hreads : ∀ a, Reads d (d.setInput i y) a := fun a => (Reads.refl hd.2 a).other
  unfold Dev.levelled
  rw [hin, ← hy]
  cases hraw : x.raw with
  | false =>
    refine ⟨?_, fun h => absurd h Bool.false_ne_true, hd.2, rfl, rfl⟩
    exact (congrArg ExtInput.level hset).trans (hlevel.trans hraw)
  | true =>
    have hexists : sourceExists (160 + i) = true := decide_eq_true (by omega)
    have hcap : ∀ a, eventReg a = false → ∀ h l, ((d.setInput i y).irqEdge (160 + i)).fld a h l = d.fld a h l := fun a ha h l => by
      unfold Dev.fld
      exact congrArg (bits · h l) ((hreads a).acts ha _).2
    refine ⟨?_, fun _ => SourcePends.irqEdge hd.2 hexists, (Keeps.refl (level := true).irqEdge _).regs hd.2, Dev.acts_now (d.setInput i y) _, ?_⟩
    · exact (congrArg ExtInput.level ((input_irqEdge _ i _).trans hset)).trans (hlevel.trans hraw)
    · unfold Dev.cappedPower Dev.powerCap
      rw [if_pos rfl, hcap Reg.pwrCap (by decide), hcap Reg.thmAlertCap (by decide)]

theorem inputActs_ext (c : Carrier) (d : Dev) (hd : Assoc.wf regReset d.regs = true) (i : Nat) (level : Bool) :
    (d.inputActs c i level).ext = d.ext := by
  unfold Dev.inputActs
  split
  · exact (latchOpened_shows hd).1
  · exact latchClosed_ext d
  · exact (pwrFail_shows d c).1
  · exact Dev.acts_ext _ _
  · rfl
  · rfl

/-- An edge that is pending stays so through what the package does. -/
theorem inputActs_source (c : Carrier) (hd : Assoc.wf regReset d.regs = true) (i : Nat) {n : Nat} (h : SourcePends d n) :
    SourcePends (d.inputActs c i true) n := by
  have halert : ∀ e : Dev, e.regs = d.regs → SourcePends (e.raise (page1 .thm) 2) n := fun e he =>
    (SourcePends.of_reads h ((Reads.refl h.wf _).other he)).runActs _ _
  unfold Dev.inputActs
  split
  · exact (latchOpened_shows hd).2.1 n h
  · rename_i hfalse
    exact absurd hfalse.symm Bool.false_ne_true
  · exact (pwrFail_shows d c).2.2 n h
  · exact halert _ rfl
  · rename_i hfalse
    exact absurd hfalse.symm Bool.false_ne_true
  · exact h

/-- ALERT holds the power to its cap (R448). -/
theorem alert_shows (c : Carrier) (hd : Assoc.wf regReset d.regs = true) :
    (d.inputActs c 2 true).pwr.alertCap = some d.cappedPower ∧ (d.inputActs c 2 true).pend (page1 .thm) 2 = true :=
  ⟨congrArg PwrState.alertCap (Dev.acts_pwr _ _), (Pends.raised (d := { d with pwr := { d.pwr with alertCap := some d.cappedPower } })
    hd (page1 .thm) (by decide)).pend⟩

/-- An input found stuck (R425). -/
def Dev.stuckInput (d : Dev) (i : Nat) : Dev :=
  ((d.setInput i { d.input i with stuck := true }).irqEdge (168 + i)).raiseLogged (page1 .irq) 0 0xFFFF (natBytes 4 i)

theorem stuckInput_shows (hd : d.Tidy) (hi : i < 5) (hx : d.ext[i]? = some x) :
    d.Calm (d.stuckInput i) ∧ d.Steady (d.stuckInput i) ∧ ((d.stuckInput i).input i).stuck = true ∧
      SourcePends (d.stuckInput i) (168 + i) ∧ (d.stuckInput i).pend (page1 .irq) 0 = true := by
  have hexists : sourceExists (168 + i) = true := decide_eq_true (by omega)
  obtain ⟨e, he⟩ : ∃ e : Dev, e = (d.setInput i { d.input i with stuck := true }).irqEdge (168 + i) := ⟨_, rfl⟩
  have hpend : SourcePends e (168 + i) := he ▸ SourcePends.irqEdge hd.2 hexists
  have hstuck : (e.input i).stuck = true := by
    rw [he, input_irqEdge, input_setInput hx]
  have hleaves : Leaves (fun _ => true) d e := he ▸ (Leaves.refl.setInput _ _).irqEdge _
  have hkeeps : Keeps true d e := he ▸ (Keeps.refl.setInput _ _).irqEdge _
  unfold Dev.stuckInput
  rw [← he]
  refine ⟨(hleaves.raiseLogged _ _ _ _).calm hd, (hkeeps.raiseLogged _ _ _ _).steady, ?_, hpend.runActs _ _, ?_⟩
  · unfold Dev.input Dev.raiseLogged
    rw [Dev.acts_ext]
    exact hstuck
  · exact (Pends.raisedLogged hpend.wf _ (by decide) _ _).pend

theorem exec_inputStuck {i : Fin 5} (hrun : s.carrier.phase = .running) (hx : s.dev.ext[i.val]? = some x) (hl : x.level = true)
    (hs : x.stuck = false) (ht : x.activeSince + ms (max 1 (s.dev.fld (Reg.irqExtCfg i) 15 0)) ≤ s.dev.now) :
    exec (.inputStuck i) s = .next { s with dev := s.dev.stuckInput i } := by
  refine congrArg Host.Outcome.next ((if_pos hrun).trans ?_)
  have hin := input_of hx
  dsimp only
  rw [if_pos (by rw [hin, hl, hs]; simpa using ht)]
  rfl

end

end Sys2Proof.Machine

namespace Sys2Proof.Proofs
set_option Elab.async false
open Sys2Proof Sys2Proof.Machine

/-- Settles O52: the raw level, the filtered one with what LATCH, PWR_FAIL and ALERT bring, and the stuck input. -/
theorem externalInputs : Obligations.ExternalInputs := by
  unfold Obligations.ExternalInputs
  intro s i x level hrun hd hx
  have hin := input_of hx
  have hedge : ∀ m < 32, (160 + m) / 32 = 5 ∧ (160 + m) % 32 = m := by omega
  refine ⟨fun hne => ?raw, fun hne ht => ?filtered, exec_extInputFiltered_early hrun hx, fun hl hs ht => ?stuck⟩
  case raw =>
    have hdark : s.carrier.phase ≠ .dark := by
      rw [hrun]
      exact CarrierPhase.noConfusion
    refine congrArg Host.Outcome.next ((if_neg hdark).trans ?_)
    dsimp only
    rw [hin, if_neg hne]
  case filtered =>
    have hexec := exec_extInputFiltered hrun hx hne ht
    obtain ⟨hlevel, hsource, hwf, hnow, hcap⟩ := levelled_shows hd i.isLt hx
    have hcalm := (Leaves.refl.filterInput s.carrier i).calm hd
    have heq : s.dev.filterInput s.carrier i = (s.dev.levelled i).inputActs s.carrier i x.raw :=
      congrArg State.dev (Host.Outcome.next.inj ((congrArg Host.Outcome.next (if_pos hrun)).symm.trans hexec))
    rw [heq] at hcalm
    refine ⟨_, hexec, hcalm.1, hcalm.2, ?_, fun hr => ?_, fun hr hi => ?_, fun hr hi => ?_, fun hr hi => ?_, fun hr hi => ?_⟩
    · unfold Dev.input
      rw [inputActs_ext s.carrier _ hwf]
      exact hlevel
    · have hpend := (inputActs_source s.carrier hwf i (hsource hr)).pending
      unfold Dev.pendingSource at hpend
      rw [(hedge i (by omega)).1, (hedge i (by omega)).2] at hpend
      rw [hr]
      exact hpend
    · subst hi
      rw [hr]
      exact (pwrFail_shows _ _).2.1
    · subst hi
      rw [hr, ← hnow]
      exact (latchOpened_shows hwf).2.2
    · subst hi
      rw [hr, ← hcap]
      exact alert_shows s.carrier hwf
    · subst hi
      rw [hr]
      rfl
  case stuck =>
    obtain ⟨hcalm, hsteady, hstuck, hsource, hpend⟩ := stuckInput_shows hd i.isLt hx
    have hplace : (168 + i.val) / 32 = 5 ∧ (168 + i.val) % 32 = i.val + 8 := by omega
    have hpending := hsource.pending
    unfold Dev.pendingSource at hpending
    rw [hplace.1, hplace.2] at hpending
    exact ⟨_, exec_inputStuck hrun hx hl hs ht, hcalm, hsteady, hstuck, hpending, hpend⟩

end Sys2Proof.Proofs

/-! Shed levels, thresholds and the quiesce (R434 to R442, R452, R460). -/
namespace Sys2Proof.Machine
set_option Elab.async false

section
variable {s : State} {o d e : Dev} {n : Nat}

theorem Sheds.releaseHeld (h : Sheds o d) (p : Page) (hp : pageCode p.type ≠ 0x004) : Sheds o (d.releaseHeld p) := by
  have hset : ∀ x w, Sheds o x → Sheds o (x.setReg (stateReg p) w) := fun x w hx => by
    have hlow := stateReg_low p
    exact hx.setReg w (by omega) (by rw [regPage_stateReg]; exact hp) fun ha =>
      absurd (congrArg (· % 0x1000) ha) (by unfold Reg.hotCtrl; omega)
  exact (hset _ _ ((hset _ _ h).moveTo p 1 hp)).ite h

/-- Entering a level raises its event. -/
theorem enterLevel_pends (hd : Assoc.wf regReset d.regs = true) (c : Carrier) (n : Nat) : Pends (Dev.enterLevel c d n) pwrPage 0 := by
  have hset : Assoc.wf regReset ((d.atLevel n).setFld Reg.pwrShed 6 4 (max n ((d.atLevel n).fld Reg.pwrShed 6 4))).regs = true :=
    Assoc.wf_set hd _ _
  exact (Sheds.refl.shedActions c n).pend _ _ (Pends.raised hset pwrPage (by decide))

/-- Level 4 stops the work of both streams (R438). -/
theorem enterLevel_stops (c : Carrier) (d : Dev) :
    (Dev.enterLevel c d 4).seqMain.running = none ∧ (Dev.enterLevel c d 4).seqBf.running = none := by
  have hpark : ∀ x : Dev, (((x.stopWork .main).stopWork .backfill).park).seqMain.running = none ∧
      (((x.stopWork .main).stopWork .backfill).park).seqBf.running = none := fun x => by
    obtain ⟨hmain, hbf, -⟩ := (Keeps.refl (level := true) (o := (x.stopWork .main).stopWork .backfill)).park.steady
    exact ⟨congrArg Prod.fst hmain, congrArg Prod.fst hbf⟩
  exact hpark _

theorem exec_shedLevelEnter (hrun : s.carrier.phase = .running) (level : Fin 6) (input : List InputRun) :
    exec (.shedLevelEnter level input) s = .next { s.sample input with dev :=
      (if level.val = s.dev.pwr.level + 1 ∧ AvgRun.holds (fun a => decide (a < 4 * s.dev.sagThreshold level)) (s.dev.persistUs level)
          (s.sample input).carrier.avg = true
        then s.dev.enterLevel (s.sample input).carrier level else s.dev) } := by
  show execShedLevelEnter level s input = _
  unfold execShedLevelEnter
  dsimp only
  rw [act_running ((State.sample_phase s input).trans hrun), State.sample_dev]

theorem exec_shedLevelLeave (hrun : s.carrier.phase = .running) (input : List InputRun) :
    exec (.shedLevelLeave input) s = .next { s.sample input with dev := s.dev.leaveLevel (s.sample input).carrier.avg } := by
  show execShedLevelLeave s input = _
  unfold execShedLevelLeave
  dsimp only
  rw [act_running ((State.sample_phase s input).trans hrun), State.sample_dev]

theorem sample_same (input : List InputRun) : { s.sample input with dev := s.dev } = s.sample input := by
  rw [← State.sample_dev s input]

/-- A level left (R440): the level below, with its event. -/
theorem leaveLevel_shows (hd : Assoc.wf regReset d.regs = true) {avg : List AvgRun} (hn : d.pwr.level = n + 1) (hlt : n < 3)
    (hheld : n = 2 → (d.input 1).level = false) (hr : d.recovered avg (if n = 2 then 1 else n + 1) d.recoverUs = true) :
    (d.leaveLevel avg).pwr.level = n ∧ Pends (d.leaveLevel avg) pwrPage 1 := by
  obtain ⟨x, hx⟩ : ∃ x : Dev, x = { d with pwr := { d.pwr with level := n, selfRefresh := false } } := ⟨_, rfl⟩
  have hwf : Assoc.wf regReset x.regs = true := hx ▸ hd
  have hlevel : x.pwr.level = n := by rw [hx]
  have hgo : ¬(n + 1 = 0 ∨ 3 < n + 1 ∨ (n + 1 == 3 && (d.input 1).level) = true ∨
      (!d.recovered avg (if n + 1 = 3 then 1 else n + 1) d.recoverUs) = true) := by
    have hsame : (if n + 1 = 3 then 1 else n + 1) = if n = 2 then 1 else n + 1 := by simp
    rw [hsame, hr]
    rintro (h | h | h | h)
    · omega
    · omega
    · obtain ⟨h3, hl⟩ := Bool.and_eq_true_iff.mp h
      rw [hheld (by have := beq_iff_eq.mp h3; omega)] at hl
      exact Bool.false_ne_true hl
    · exact Bool.false_ne_true h
  have hleft : ∀ y, Sheds (x.raise pwrPage 1) y → y.pwr.level = n ∧ Pends y pwrPage 1 := fun y hy =>
    ⟨by rw [hy.pwr]; exact (congrArg PwrState.level (Dev.acts_pwr x _)).trans hlevel, hy.pend _ _ (Pends.raised hwf pwrPage (by decide))⟩
  unfold Dev.leaveLevel
  dsimp only
  rw [hn, if_neg hgo, Nat.add_sub_cancel, ← hx]
  split
  · exact hleft _ (Sheds.refl.setReg _ (by decide) (by decide))
  · exact hleft _ (Sheds.refl.ite (Sheds.refl.releaseHeld hubPage (by decide)))
  · exact hleft _ .refl

theorem leaveLevel_stays {avg : List AvgRun} (h : 3 < d.pwr.level ∨
    (d.pwr.level = n + 1 ∧ d.recovered avg (if n = 2 then 1 else n + 1) d.recoverUs = false)) : d.leaveLevel avg = d := by
  unfold Dev.leaveLevel
  dsimp only
  rcases h with h | ⟨hn, hr⟩
  · rw [if_pos (.inr (.inl h))]
  · have hsame : (if n + 1 = 3 then 1 else n + 1) = if n = 2 then 1 else n + 1 := by simp
    rw [hn, hsame, hr, if_pos (.inr (.inr (.inr rfl)))]

/-! Thresholds (R434). -/

theorem sagCfg_field (k : Fin 5) : (∃ r, RegField.rw 15 0 r ∈ fieldsAt (Reg.pwrSagCfg k)) ∧
    ∀ d : Dev, d.takesWrite (Reg.pwrSagCfg k) 0 = true := by
  match k with
  | 0 => exact ⟨⟨_, .head _⟩, fun _ => rfl⟩
  | 1 => exact ⟨⟨_, .head _⟩, fun _ => rfl⟩
  | 2 => exact ⟨⟨_, .head _⟩, fun _ => rfl⟩
  | 3 => exact ⟨⟨_, .head _⟩, fun _ => rfl⟩
  | 4 => exact ⟨⟨_, .head _⟩, fun _ => rfl⟩

/-- What a threshold has to keep: its range and its distance from its neighbours. -/
def Dev.sagFits (d : Dev) (k : Nat) (v : Word) : Prop :=
  (sagRange k).1 ≤ bits v 15 0 ∧ bits v 15 0 ≤ (sagRange k).2 ∧ ∀ n < 4, d.sagMv k v (n + 1) + 1000 ≤ d.sagMv k v n

theorem sagFits_iff (d : Dev) (k : Nat) (v : Word) : d.sagFits k v ↔
    (sagRange k).1 ≤ d.sagMv k v k ∧ d.sagMv k v k ≤ (sagRange k).2 ∧
      ((List.range 4).all fun n => decide (d.sagMv k v (n + 1) + 1000 ≤ d.sagMv k v n)) = true := by
  have hown : d.sagMv k v k = bits v 15 0 := if_pos rfl
  unfold Dev.sagFits
  rw [hown, List.all_eq_true]
  simp

theorem exec_pwrSagCfgWrite {hart : Fin 28} (hl : (s.liveHart hart).isSome = true) {k : Fin 5} {v : Word} :
    (s.dev.sagFits k v → exec (.pwrSagCfgWrite hart k v) s = .next { s with dev := s.dev.store (Reg.pwrSagCfg k) v }) ∧
    (¬s.dev.sagFits k v → exec (.pwrSagCfgWrite hart k v) s = .next { s with dev := s.dev.raise pwrPage 3 }) := by
  refine ⟨fun h => congrArg Host.Outcome.next ((byHart_live hl _).trans ?_), fun h => congrArg Host.Outcome.next ((byHart_live hl _).trans ?_)⟩
  · dsimp only
    rw [if_pos ((sagFits_iff _ _ _).mp h)]
  · dsimp only
    rw [if_neg (mt (sagFits_iff _ _ _).mpr h)]

/-! The quiesce (R452, log entry 65). -/

/-- HOT_CTRL as a hart has written it. -/
def Dev.hotWritten (d : Dev) (v : Word) : Dev := (d.store Reg.hotCtrl v).setFlag Reg.hotCtrl 16 false

theorem exec_hotQuiesceWrite {hart : Fin 28} (hl : (s.liveHart hart).isSome = true) (v : Word) : exec (.hotQuiesceWrite hart v) s =
    .next { s with dev := (if bit v 16 = true then (s.dev.hotWritten v).startQuiesce else s.dev.hotWritten v) } :=
  congrArg Host.Outcome.next (byHart_live hl _)

theorem hotWritten_shows (hd : Assoc.wf regReset d.regs = true) (v : Word) : Assoc.wf regReset (d.hotWritten v).regs = true ∧
    (d.hotWritten v).flag Reg.hotCtrl 16 = false ∧ (bits v 11 0 ≤ 3600 → (d.hotWritten v).fld Reg.hotCtrl 11 0 = bits v 11 0) := by
  have hstore : Assoc.wf regReset (d.store Reg.hotCtrl v).regs = true := Assoc.wf_set hd _ _
  refine ⟨Assoc.wf_set hstore _ _, (flag_setFlag hstore _ _ _ _ (by decide) false).trans (if_pos ⟨rfl, rfl⟩), fun hle => ?_⟩
  have hfield : RegField.within 11 0 10 0 3600 ∈ fieldsAt Reg.hotCtrl := by decide
  have htaken := store_rw (d := d) (v := v) hd hfield rfl rfl (Nat.zero_le _) hle (Nat.zero_le _)
  have hother : (d.hotWritten v).fld Reg.hotCtrl 11 0 = (d.store Reg.hotCtrl v).fld Reg.hotCtrl 11 0 := by
    unfold Dev.hotWritten Dev.setFlag Dev.fld
    rw [Dev.reg_setReg_same hstore, bits_setBit_other _ (by decide)]
  exact hother.trans htaken

/-- A quiesce leaves HOT_CTRL. -/
theorem startQuiesce_ctrl (hd : Assoc.wf regReset d.regs = true) : Reads d d.startQuiesce Reg.hotCtrl := by
  cases hq : d.pwr.quiesced with
  | true =>
    unfold Dev.startQuiesce
    rw [hq]
    exact .refl hd _
  | false => exact (startQuiesce_sheds hq).ctrl hd

theorem exec_graceExpiry (hrun : s.carrier.phase = .running) {t : Nat} (ht : s.dev.pwr.graceFrom = some t) : exec .graceExpiry s =
    .next { s with dev := (if t + 1000 * ms (min 3600 (s.dev.fld Reg.hotCtrl 11 0)) ≤ s.dev.now ∨ (!s.dev.active hubPage) = true
      then s.dev.startQuiesce else s.dev) } := by
  show execGraceExpiry s = _
  refine act_next hrun ?_
  rw [ht]

end

end Sys2Proof.Machine

namespace Sys2Proof.Proofs
set_option Elab.async false
open Sys2Proof Sys2Proof.Machine

/-- Settles O58: levels entered and left by the averaged input, the thresholds, the quiesce as written and as the grace ends. -/
theorem sheddingAndQuiesce : Obligations.SheddingAndQuiesce := by
  unfold Obligations.SheddingAndQuiesce
  intro s hrun hd
  refine ⟨fun input t ht => ?levels, fun hart k v hl => ⟨fun h1 h2 h3 => ?taken, fun hno => ?refused, ?quiesce⟩, fun t ht => ?grace⟩
  case levels =>
    subst ht
    have henter := fun level => exec_shedLevelEnter hrun level input
    have hleave := exec_shedLevelLeave hrun input
    refine ⟨fun level hn hsag => ?enter, fun level hno => ?stay, fun n hn hlt hheld hr => ?leave, fun n hn _ hr => ?keep, fun h => ?deep⟩
    case enter =>
      have hx := henter level
      rw [if_pos ⟨hn, hsag⟩] at hx
      obtain ⟨-, hlevel, hsince, -⟩ := enterLevel_shows (s.sample input).carrier s.dev level
      have hcalm := (Leaves.refl.enterLevel (s.sample input).carrier level).calm hd
      refine ⟨_, hx, hcalm.1, hcalm.2, (enterLevel_sheds _ _ _).now, hlevel, hsince, (enterLevel_pends hd.2 _ _).pend, fun h4 => ?_⟩
      subst h4
      exact enterLevel_stops _ _
    case stay =>
      have hx := henter level
      rw [if_neg fun hc => hno.elim (fun h => h hc.1) fun h => Bool.false_ne_true (h.symm.trans hc.2), sample_same] at hx
      exact hx
    case leave =>
      obtain ⟨hlevel, hpend⟩ := leaveLevel_shows hd.2 hn hlt hheld hr
      exact ⟨_, hleave, (Leaves.refl.leaveLevel _).calm hd, (Keeps.refl (level := true).leaveLevel _).steady, hlevel, hpend.pend⟩
    case keep => rw [hleave, leaveLevel_stays (.inr ⟨hn, hr⟩), sample_same]
    case deep => rw [hleave, leaveLevel_stays (n := 0) (.inl h), sample_same]
  case taken =>
    obtain ⟨⟨r, hr⟩, htakes⟩ := sagCfg_field k
    exact ⟨_, (exec_pwrSagCfgWrite hl).1 ⟨h1, h2, h3⟩, ((Touches.refl hd.2).store (.head _) v).only, store_plain hd.2 hr (htakes _)⟩
  case refused =>
    have hno' : ¬s.dev.sagFits k v := by
      rintro ⟨h1, h2, h3⟩
      rcases hno with h | h | ⟨n, hn, h⟩
      · omega
      · omega
      · have := h3 n hn
        omega
    exact ⟨_, (exec_pwrSagCfgWrite hl).2 hno', (Leaves.refl.raise _ _).calm hd, (Keeps.refl (level := true).raise _ _).steady,
      (Pends.raised hd.2 _ (by decide)).pend⟩
  case quiesce =>
    obtain ⟨hwf, hflag, hfld⟩ := hotWritten_shows hd.2 v
    have hleaves : Leaves (fun _ => true) s.dev (s.dev.hotWritten v) := (Leaves.refl.store Reg.hotCtrl v).setFlag Reg.hotCtrl 16 false
    have hkeeps : Keeps true s.dev (s.dev.hotWritten v) := (Keeps.refl.store Reg.hotCtrl v).setFlag Reg.hotCtrl 16 false
    have hx := exec_hotQuiesceWrite hl v
    cases hb : bit v 16 with
    | true =>
      rw [if_pos hb] at hx
      have hctrl := (startQuiesce_ctrl hwf).2
      refine ⟨_, hx, (hleaves.startQuiesce.calm hd).2, hkeeps.startQuiesce.steady, (congrArg (bit · 16) hctrl).trans hflag,
        fun hle => (congrArg (bits · 11 0) hctrl).trans (hfld hle), fun _ => (startQuiesce_shows _).1, fun h => absurd h.symm Bool.false_ne_true⟩
    | false =>
      rw [hb, if_neg Bool.false_ne_true] at hx
      exact ⟨_, hx, (hleaves.calm hd).2, hkeeps.steady, hflag, hfld, fun h => absurd h Bool.false_ne_true, fun _ => rfl⟩
  case grace =>
    have hx := exec_graceExpiry hrun ht
    refine ⟨fun h => ?_, fun hlt hact => ?_⟩
    · rw [if_pos (h.imp_right fun hact => by rw [hact]; rfl)] at hx
      exact ⟨_, hx, Leaves.refl.startQuiesce.calm hd, (Keeps.refl (level := true)).startQuiesce.steady, (startQuiesce_shows _).1⟩
    · rw [if_neg (not_or.mpr ⟨Nat.not_le.mpr hlt, by rw [hact]; exact Bool.false_ne_true⟩)] at hx
      exact hx

end Sys2Proof.Proofs

/-! The managers: power and thermal periods, stretched cycles and the scrubber (R83, R122, R443, R446, R448). -/
namespace Sys2Proof.Machine
set_option Elab.async false

section
variable {s : State} {o d e : Dev} {a x n : Nat}

theorem Reads.foldl {α : Type} {f : Dev → α → Dev} {l : List α} (h : Reads o d a) (hf : ∀ y b, b ∈ l → Reads o y a → Reads o (f y b) a) :
    Reads o (l.foldl f d) a := by
  induction l generalizing d with
  | nil => exact h
  | cons b l ih => exact ih (hf d b (.head _) h) fun y c hc => hf y c (.tail _ hc)

theorem Reads.fld (h : Reads o d a) (hi lo : Nat) : d.fld a hi lo = o.fld a hi lo := congrArg (bits · hi lo) h.2

theorem Reads.flag (h : Reads o d a) (i : Nat) : d.flag a i = o.flag a i := congrArg (bit · i) h.2

theorem fld_setFlag (h : Assoc.wf regReset d.regs = true) (a : Nat) {hi lo i : Nat} (hi' : hi < i ∨ i < lo) (b : Bool) :
    (d.setFlag a i b).fld a hi lo = d.fld a hi lo := by
  unfold Dev.setFlag Dev.fld
  rw [Dev.reg_setReg_same h, bits_setBit_other _ hi']

theorem flag_setFld (h : Assoc.wf regReset d.regs = true) (a : Nat) {hi lo j : Nat} (hj : j < lo ∨ hi < j) (v : Nat) :
    (d.setFld a hi lo v).flag a j = d.flag a j := by
  unfold Dev.setFld Dev.flag
  rw [Dev.reg_setReg_same h, bit_setBits_other _ hj]

/-- A saturating field one higher. -/
theorem fld_addSatFld (h : Assoc.wf regReset d.regs = true) (a : Nat) {hi lo : Nat} (hh : hi < 32) (hl : lo ≤ hi) (n : Nat) :
    (d.addSatFld a hi lo n).fld a hi lo = min (2 ^ (hi + 1 - lo) - 1) (d.fld a hi lo + n) := by
  have hlt : min (d.fld a hi lo + n) (2 ^ (hi + 1 - lo) - 1) < 2 ^ (hi + 1 - lo) := by
    have := Nat.two_pow_pos (hi + 1 - lo)
    omega
  unfold Dev.addSatFld
  rw [Dev.fld_setFld h _ hh hl, Nat.mod_eq_of_lt hlt, Nat.min_comm]

/-! The power manager (R443, R444, R448). -/

/-- A list of keys that rise, with the default left out, reads as the function it was made of. -/
theorem get_sparse_list (dflt f : Nat → Nat) {l : List Nat} (hl : l.Pairwise (· < ·)) (x : Nat) :
    Assoc.get dflt ((l.map fun y => (y, f y)).filter fun e => e.2 != dflt e.1) x = if x ∈ l then f x else dflt x := by
  induction l with
  | nil => rfl
  | cons y l ih =>
    obtain ⟨hy, hrest⟩ := List.pairwise_cons.mp hl
    have hmem : x ∈ y :: l ↔ x = y ∨ x ∈ l := List.mem_cons
    have habove : x ≤ y → x ∉ l := fun hle hx => Nat.not_lt.mpr hle (hy x hx)
    rw [List.map_cons]
    by_cases hf : f y = dflt y
    · rw [List.filter_cons_of_neg (by simp [hf]), ih hrest]
      by_cases hx : x = y
      · subst hx
        rw [if_neg (habove (Nat.le_refl _)), if_pos (.head _), hf]
      · simp [hmem, hx]
    · rw [List.filter_cons_of_pos (by simpa using hf), Assoc.get, ih hrest]
      by_cases hx : x = y
      · subst hx
        rw [if_pos rfl, if_pos (.head _)]
      · rw [if_neg hx]
        by_cases hlt : x < y
        · rw [if_pos hlt, if_neg (by simp [hx, habove (Nat.le_of_lt hlt)])]
        · simp [hlt, hx]

theorem get_sparse (dflt f : Nat → Nat) (hx : x < 2400) : Assoc.get dflt (sparse dflt f) x = f x := by
  unfold sparse
  rw [get_sparse_list dflt f List.pairwise_lt_range, if_pos (List.mem_range.mpr hx)]

/-- A target lies in the clock's range, on its 25 MHz steps. -/
theorem targetMhz_range (d : Dev) (enabled x perf : Nat) : 2000 ≤ d.targetMhz enabled x perf ∧ d.targetMhz enabled x perf ≤ 3300 ∧
    d.targetMhz enabled x perf % 25 = 0 := by
  have hprot : d.protMhz x ≤ 3300 := Nat.le_trans (Nat.min_le_left _ _) (Nat.min_le_left _ _)
  unfold Dev.targetMhz
  dsimp only
  omega

theorem showPinned_pwr (d : Dev) : d.showPinned.pwr = d.pwr := by
  unfold Dev.showPinned
  generalize d.pinnedBits.zipIdx = l
  induction l generalizing d with
  | nil => rfl
  | cons b l ih =>
    rw [List.foldl_cons, ih]
    dsimp only
    split
    · exact Dev.acts_pwr _ _
    · rfl

theorem capLoop_over (h : d.effectiveCap < n) : d.capLoop n = max 2000 (d.fld Reg.pwrClkCap 11 0 - 25) := if_pos h

/-- The registers that a power period sets, before its power state. -/
def Dev.measured (d : Dev) (watts peak : Nat) : Dev :=
  (d.setFld Reg.pwrClkCap 11 0 (d.capLoop watts)).setFld Reg.pwrPeakW 15 0 (max (d.fld Reg.pwrPeakW 15 0) (min peak 65535))

theorem measured_shows (hd : Assoc.wf regReset d.regs = true) (watts peak : Nat) : Assoc.wf regReset (d.measured watts peak).regs = true ∧
    (d.measured watts peak).fld Reg.pwrPeakW 15 0 = max (d.fld Reg.pwrPeakW 15 0) (min peak 65535) ∧
    (d.measured watts peak).fld Reg.pwrClkCap 11 0 = d.capLoop watts % 4096 := by
  have hset : Assoc.wf regReset (d.setFld Reg.pwrClkCap 11 0 (d.capLoop watts)).regs = true := Assoc.wf_set hd _ _
  have hpeak := bits_lt (d.reg Reg.pwrPeakW) 15 0
  refine ⟨Assoc.wf_set hset _ _, ?_, ?_⟩
  · refine (Dev.fld_setFld hset _ (by decide) (by decide) _).trans (Nat.mod_eq_of_lt ?_)
    unfold Dev.fld
    omega
  · have hread := ((Reads.refl hset Reg.pwrClkCap).setReg (b := Reg.pwrPeakW) (setBits
      ((d.setFld Reg.pwrClkCap 11 0 (d.capLoop watts)).reg Reg.pwrPeakW) 15 0 (max (d.fld Reg.pwrPeakW 15 0) (min peak 65535))) (by decide))
    exact (hread.fld 11 0).trans (Dev.fld_setFld hd _ (by decide) (by decide) _)

/-- The power state after a power period. -/
def Dev.steered (d : Dev) (f : Fuse) (watts peak : Nat) : PwrState :=
  let e := d.measured watts peak
  let perf := fun x => d.seek watts x (d.perf x)
  { e.pwr with
    watts := watts
    probVRefused := (e.pwr.probVRefused && (List.range 2400).any fun x => e.fld (Reg.cluProbation x) 15 12 != 0)
    perf := sparse perfDefault perf
    target := (sparse targetDefault fun x => e.targetMhz (e.enabledCount f) x (perf x)) }

theorem powerPeriod_eq (d : Dev) (f : Fuse) (watts peak : Nat) :
    d.powerPeriod f watts peak = Dev.showPinned { d.measured watts peak with pwr := d.steered f watts peak } := rfl

theorem powerPeriod_shows (hd : Assoc.wf regReset d.regs = true) (f : Fuse) (watts peak : Nat) :
    (d.powerPeriod f watts peak).pwr.watts = watts ∧
      (d.powerPeriod f watts peak).fld Reg.pwrPeakW 15 0 = max (d.fld Reg.pwrPeakW 15 0) (min peak 65535) ∧
      (d.powerPeriod f watts peak).fld Reg.pwrClkCap 11 0 = d.capLoop watts % 4096 ∧
      ∀ x < 2400, ∃ enabled perf, Assoc.get targetDefault (d.powerPeriod f watts peak).pwr.target x =
        (d.measured watts peak).targetMhz enabled x perf := by
  obtain ⟨hwf, hpeak, hcap⟩ := measured_shows hd watts peak
  have hpwr : (d.powerPeriod f watts peak).pwr = d.steered f watts peak := by
    rw [powerPeriod_eq, showPinned_pwr]
  have hreads : ∀ b, eventReg b = false → b ≠ Reg.pwrPinned → Reads (d.measured watts peak) (d.powerPeriod f watts peak) b :=
    fun b hb hne => by
      rw [powerPeriod_eq]
      exact Reads.showPinned ((Reads.refl hwf b).other) hb hne
  rw [hpwr]
  refine ⟨rfl, ?_, ?_, fun x hx => ⟨(d.measured watts peak).enabledCount f, d.seek watts x (d.perf x), ?_⟩⟩
  · exact ((hreads _ (by decide) (by decide)).fld 15 0).trans hpeak
  · exact ((hreads _ (by decide) (by decide)).fld 11 0).trans hcap
  · unfold Dev.steered
    dsimp only
    rw [get_sparse _ _ hx]

theorem exec_powerManagerPeriod (hrun : s.carrier.phase = .running) (hact : s.dev.active pwrPage = true) (input : List InputRun)
    (watts peak : Nat) : exec (.powerManagerPeriod input watts peak) s =
      .next { s.sample input with dev := s.dev.powerPeriod s.fuse watts peak } := by
  show execPowerManagerPeriod input watts peak s = _
  unfold execPowerManagerPeriod
  rw [act_running ((State.sample_phase s input).trans hrun), State.sample_dev, if_pos hact]

/-! The thermal manager (R446). -/

theorem foldl_max_mem (l : List Int) (a : Int) : l.foldl max a ∈ a :: l ∧ ∀ u ∈ a :: l, u ≤ l.foldl max a := by
  induction l generalizing a with
  | nil => simp
  | cons b l ih =>
    obtain ⟨hmem, hle⟩ := ih (max a b)
    rw [List.foldl_cons]
    refine ⟨?_, fun u hu => ?_⟩
    · rcases List.mem_cons.mp hmem with h | h
      · rw [h]
        rcases max_choice a b with hm | hm <;> simp [hm]
      · simp [h]
    · have hmax := hle _ (.head _)
      rcases List.mem_cons.mp hu with rfl | hu
      · exact Int.le_trans (le_max_left _ _) hmax
      · rcases List.mem_cons.mp hu with rfl | hu
        · exact Int.le_trans (le_max_right _ _) hmax
        · exact hle u (.tail _ hu)

/-- The hottest sensor is the greatest of those in range. -/
theorem hottest_of (sensors : List Int) {t : Int} (ht : t ∈ (sensors.take 16).filter validTemp)
    (hmax : ∀ u ∈ (sensors.take 16).filter validTemp, u ≤ t) : hottest sensors = some t := by
  unfold hottest
  cases hts : (sensors.take 16).filter validTemp with
  | nil =>
    rw [hts] at ht
    exact absurd ht List.not_mem_nil
  | cons a l =>
    rw [hts] at ht hmax
    obtain ⟨hmem, hle⟩ := foldl_max_mem l a
    exact congrArg some (Int.le_antisymm (hmax _ hmem) (hle t ht))

theorem hottest_isNone (sensors : List Int) : (hottest sensors).isNone = ((sensors.take 16).filter validTemp).isEmpty := by
  unfold hottest
  cases (sensors.take 16).filter validTemp <;> rfl

theorem thmDie_quiet (x : Nat) : eventReg (Reg.thmDie x) = false := by
  refine eventReg_quiet ?_ ?_ ?_
  · unfold Reg.thmDie
    omega
  · unfold Reg.thmDie
    omega
  · have hpage : regPage (Reg.thmDie x) = 0x003 := by
      unfold regPage Reg.thmDie
      omega
    rw [hpage]
    decide

/-- The register of a die once its sensors have been read. -/
def Dev.dieRead (d : Dev) (x : Nat) (hot : Int) : Dev :=
  let d := ((d.setFlag (Reg.thmDie x) 31 false).setFld (Reg.thmDie x) 7 0 (tempByte hot))
  let d := d.setFld (Reg.thmDie x) 15 8 (max hot.toNat (d.fld (Reg.thmDie x) 15 8))
  d.setFld (Reg.thmDie x) 27 16 (d.nextCeil hot (d.fld (Reg.thmDie x) 27 16))

theorem thermalDie_some {sensors : List Int} {hot : Int} (h : hottest sensors = some hot) (d : Dev) (x : Nat) (was : Int) :
    d.thermalDie x was sensors =
      if (d.dieRead x hot).throttleC ≤ hot ∧ was < (d.dieRead x hot).throttleC then (d.dieRead x hot).raise thmPage 0
      else d.dieRead x hot := by
  unfold Dev.thermalDie
  rw [h]
  rfl

theorem thermalDie_none {sensors : List Int} (h : hottest sensors = none) (d : Dev) (x : Nat) (was : Int) :
    d.thermalDie x was sensors = d.setFlag (Reg.thmDie x) 31 true := by
  unfold Dev.thermalDie
  rw [h]

/-- A die's period writes its own register alone, but for what its event writes. -/
theorem Reads.thermalDie (h : Reads o d a) (ha : eventReg a = false) (hx : a ≠ Reg.thmDie x) (was : Int) (sensors : List Int) :
    Reads o (d.thermalDie x was sensors) a := by
  cases hhot : hottest sensors with
  | none =>
    rw [thermalDie_none hhot]
    exact h.setFlag hx _ _
  | some hot =>
    rw [thermalDie_some hhot]
    have hread : Reads o (d.dieRead x hot) a := (((h.setFlag hx _ _).setReg _ hx).setReg _ hx).setReg _ hx
    exact (hread.raise ha _ _).ite hread

theorem thermalDie_pwr (d : Dev) (x : Nat) (was : Int) (sensors : List Int) : (d.thermalDie x was sensors).pwr = d.pwr := by
  cases hhot : hottest sensors with
  | none => rw [thermalDie_none hhot]; rfl
  | some hot =>
    rw [thermalDie_some hhot]
    split
    · exact Dev.acts_pwr _ _
    · rfl

theorem throttleC_of (h : Reads o d Reg.thmCfg) : d.throttleC = o.throttleC := by
  unfold Dev.throttleC
  rw [h.fld]

/-- What a die's register shows after its sensors have been read. -/
theorem dieRead_shows (hd : Assoc.wf regReset d.regs = true) (x : Nat) (hot : Int) :
    (d.dieRead x hot).flag (Reg.thmDie x) 31 = false ∧ (d.dieRead x hot).fld (Reg.thmDie x) 7 0 = tempByte hot % 256 ∧
      (d.throttleC ≤ hot → (d.dieRead x hot).fld (Reg.thmDie x) 27 16 = max 2000 (d.fld (Reg.thmDie x) 27 16 - 100)) := by
  have hcfg : Reg.thmCfg ≠ Reg.thmDie x := by
    unfold Reg.thmCfg Reg.thmDie
    omega
  obtain ⟨y, hy⟩ : ∃ y, y = d.setFlag (Reg.thmDie x) 31 false := ⟨_, rfl⟩
  obtain ⟨z, hz⟩ : ∃ z, z = y.setFld (Reg.thmDie x) 7 0 (tempByte hot) := ⟨_, rfl⟩
  obtain ⟨w, hw⟩ : ∃ w, w = z.setFld (Reg.thmDie x) 15 8 (max hot.toNat (z.fld (Reg.thmDie x) 15 8)) := ⟨_, rfl⟩
  have hyw : Assoc.wf regReset y.regs = true := hy ▸ Assoc.wf_set hd _ _
  have hzw : Assoc.wf regReset z.regs = true := hz ▸ Assoc.wf_set hyw _ _
  have hww : Assoc.wf regReset w.regs = true := hw ▸ Assoc.wf_set hzw _ _
  have hlast : d.dieRead x hot = w.setFld (Reg.thmDie x) 27 16 (w.nextCeil hot (w.fld (Reg.thmDie x) 27 16)) := by
    rw [hw, hz, hy]
    rfl
  have hthrottle : w.throttleC = d.throttleC := by
    refine throttleC_of ?_
    rw [hw, hz, hy]
    exact (((Reads.refl hd _).setFlag hcfg _ _).setReg _ hcfg).setReg _ hcfg
  have hceil : w.fld (Reg.thmDie x) 27 16 = d.fld (Reg.thmDie x) 27 16 := by
    rw [hw, Dev.fld_setFld_other hzw _ (.inr (by decide)), hz, Dev.fld_setFld_other hyw _ (.inr (by decide)), hy,
      fld_setFlag hd _ (.inl (by decide))]
  have hbound := bits_lt (d.reg (Reg.thmDie x)) 27 16
  rw [hlast]
  refine ⟨?_, ?_, fun hle => ?_⟩
  · rw [flag_setFld hww _ (.inr (by decide)), hw, flag_setFld hzw _ (.inr (by decide)), hz, flag_setFld hyw _ (.inr (by decide)), hy]
    exact (flag_setFlag hd _ _ _ _ (by decide) false).trans (if_pos ⟨rfl, rfl⟩)
  · rw [Dev.fld_setFld_other hww _ (.inl (by decide)), hw, Dev.fld_setFld_other hzw _ (.inl (by decide)), hz]
    exact Dev.fld_setFld hyw _ (by decide) (by decide) _
  · rw [Dev.fld_setFld hww _ (by decide) (by decide), hceil]
    unfold Dev.nextCeil
    rw [if_pos (hthrottle ▸ hle)]
    refine Nat.mod_eq_of_lt ?_
    unfold Dev.fld
    omega

theorem thermalDie_shows (hd : Assoc.wf regReset d.regs = true) (x : Nat) (was : Int) (sensors : List Int) :
    (d.thermalDie x was sensors).flag (Reg.thmDie x) 31 = (hottest sensors).isNone ∧
      ∀ hot, hottest sensors = some hot → (d.thermalDie x was sensors).fld (Reg.thmDie x) 7 0 = tempByte hot % 256 ∧
        (d.throttleC ≤ hot → (d.thermalDie x was sensors).fld (Reg.thmDie x) 27 16 = max 2000 (d.fld (Reg.thmDie x) 27 16 - 100)) := by
  cases hhot : hottest sensors with
  | none =>
    rw [thermalDie_none hhot]
    exact ⟨(flag_setFlag hd _ _ _ _ (by decide) true).trans (if_pos ⟨rfl, rfl⟩), fun hot h => absurd h.symm (Option.some_ne_none hot)⟩
  | some hot =>
    obtain ⟨hflag, hbyte, hceil⟩ := dieRead_shows hd x hot
    have hwf : Assoc.wf regReset (d.dieRead x hot).regs = true :=
      Assoc.wf_set (Assoc.wf_set (Assoc.wf_set (Assoc.wf_set hd _ _) _ _) _ _) _ _
    have hself := Reads.refl hwf (Reg.thmDie x)
    have hread : Reads (d.dieRead x hot) (d.thermalDie x was sensors) (Reg.thmDie x) := by
      rw [thermalDie_some hhot]
      exact (hself.raise (thmDie_quiet x) _ _).ite hself
    refine ⟨(hread.flag 31).trans hflag, fun hot' h => ?_⟩
    obtain rfl := Option.some.inj h
    exact ⟨(hread.fld 7 0).trans hbyte, fun hle => (hread.fld 27 16).trans (hceil hle)⟩

end

end Sys2Proof.Machine

/-! The thermal period as a whole, stretched cycles and the scrubber (R83, R122, R446). -/
namespace Sys2Proof.Machine
set_option Elab.async false

section
variable {s : State} {o d e : Dev} {a x n : Nat}

/-- The dies of one thermal period. -/
def Dev.thermalDies (d : Dev) (was : Nat → Int) (ds : List DieSensors) (l : List Nat) : Dev :=
  l.foldl (fun d x => d.thermalDie x (was x) (ds.getD x [])) d

theorem Reads.thermalDies (h : Reads o d a) (ha : eventReg a = false) {l : List Nat} (hl : ∀ y ∈ l, a ≠ Reg.thmDie y)
    (was : Nat → Int) (ds : List DieSensors) : Reads o (d.thermalDies was ds l) a :=
  h.foldl fun _ y hy h => h.thermalDie ha (hl y hy) _ _

theorem thermalDies_pwr (d : Dev) (was : Nat → Int) (ds : List DieSensors) (l : List Nat) : (d.thermalDies was ds l).pwr = d.pwr := by
  unfold Dev.thermalDies
  induction l generalizing d with
  | nil => rfl
  | cons y l ih => rw [List.foldl_cons, ih, thermalDie_pwr]

theorem thmCfg_ne_die (x : Nat) : Reg.thmCfg ≠ Reg.thmDie x := by
  unfold Reg.thmCfg Reg.thmDie
  omega

theorem thmDie_ne (hx : x < 12) {y : Nat} (hy : y < 12) (hne : y ≠ x) : Reg.thmDie x ≠ Reg.thmDie y := by
  unfold Reg.thmDie
  omega

/-- Each die of a period shows what its own sensors read. -/
theorem thermalDies_shows (hd : Assoc.wf regReset d.regs = true) (hx : x < 12) (was : Nat → Int) (ds : List DieSensors) :
    (d.thermalDies was ds (List.range 12)).flag (Reg.thmDie x) 31 = (hottest (ds.getD x [])).isNone ∧
      ∀ hot, hottest (ds.getD x []) = some hot →
        (d.thermalDies was ds (List.range 12)).fld (Reg.thmDie x) 7 0 = tempByte hot % 256 ∧
        (d.throttleC ≤ hot → (d.thermalDies was ds (List.range 12)).fld (Reg.thmDie x) 27 16 =
          max 2000 (d.fld (Reg.thmDie x) 27 16 - 100)) := by
  obtain ⟨before, after, hsplit⟩ := List.append_of_mem (List.mem_range.mpr hx)
  have hnodup : (before ++ x :: after).Nodup := hsplit ▸ List.nodup_range
  have hapart : ∀ y ∈ before ++ after, Reg.thmDie x ≠ Reg.thmDie y := fun y hy => by
    have hy12 : y < 12 := List.mem_range.mp (hsplit ▸ by
      rcases List.mem_append.mp hy with h | h
      · exact List.mem_append_left _ h
      · exact List.mem_append_right _ (.tail _ h))
    refine thmDie_ne hx hy12 ?_
    rintro rfl
    exact (List.nodup_cons.mp (List.nodup_middle.mp hnodup)).1 hy
  have hfirst : Reads d (d.thermalDies was ds before) (Reg.thmDie x) :=
    (Reads.refl hd _).thermalDies (thmDie_quiet x) (fun y hy => hapart y (List.mem_append_left _ hy)) was ds
  have hcfg : Reads d (d.thermalDies was ds before) Reg.thmCfg :=
    (Reads.refl hd _).thermalDies (by decide) (fun y _ => thmCfg_ne_die y) was ds
  have hall : d.thermalDies was ds (List.range 12) =
      ((d.thermalDies was ds before).thermalDie x (was x) (ds.getD x [])).thermalDies was ds after := by
    unfold Dev.thermalDies
    rw [hsplit, List.foldl_append, List.foldl_cons]
  obtain ⟨hflag, hhot⟩ := thermalDie_shows hfirst.1 x (was x) (ds.getD x [])
  rw [hall]
  generalize d.thermalDies was ds before = e at hfirst hcfg hflag hhot
  have hwf : Assoc.wf regReset (e.thermalDie x (was x) (ds.getD x [])).regs = true :=
    (hcfg.thermalDie (by decide) (thmCfg_ne_die x) _ _).1
  have hlast := (Reads.refl hwf (Reg.thmDie x)).thermalDies (thmDie_quiet x)
    (fun y hy => hapart y (List.mem_append_right before hy)) was ds
  refine ⟨(hlast.flag 31).trans hflag, fun hot h => ?_⟩
  obtain ⟨hbyte, hceil⟩ := hhot hot h
  rw [throttleC_of hcfg, hfirst.fld] at hceil
  exact ⟨(hlast.fld 7 0).trans hbyte, fun hle => (hlast.fld 27 16).trans (hceil hle)⟩

/-- The temperatures after a thermal period. -/
def Dev.temperatures (d : Dev) (ds : List DieSensors) : List Int :=
  (List.range 12).map fun x => (hottest (ds.getD x [])).getD (d.tempC x)

/-- The power state after a thermal period. -/
def Dev.sensed (d : Dev) (ds : List DieSensors) : PwrState := { d.pwr with invalid := invalidSensors ds, temps := d.temperatures ds }

/-- A thermal period, but for the event of a sensor that has become invalid. -/
def Dev.warmed (d : Dev) (ds : List DieSensors) (inlet outlet : Int) : Dev :=
  (Dev.thermalDies { d with pwr := d.sensed ds } d.tempC ds (List.range 12)).setReg Reg.thmColdplate
    (BitVec.ofNat 32 (byteOfInt inlet + byteOfInt outlet * 0x100))

theorem thermalPeriod_eq (d : Dev) (ds : List DieSensors) (inlet outlet : Int) : d.thermalPeriod ds inlet outlet =
    if ((invalidSensors ds).any fun x => !d.pwr.invalid.contains x) = true then (d.warmed ds inlet outlet).raise thmPage 3
    else d.warmed ds inlet outlet := rfl

theorem thermalPeriod_shows (hd : Assoc.wf regReset d.regs = true) (hx : x < 12) (ds : List DieSensors) (inlet outlet : Int) :
    (d.thermalPeriod ds inlet outlet).tempC x = (hottest (ds.getD x [])).getD (d.tempC x) ∧
      (d.thermalPeriod ds inlet outlet).flag (Reg.thmDie x) 31 = (hottest (ds.getD x [])).isNone ∧
      ∀ hot, hottest (ds.getD x []) = some hot → (d.thermalPeriod ds inlet outlet).fld (Reg.thmDie x) 7 0 = tempByte hot % 256 ∧
        (d.throttleC ≤ hot → (d.thermalPeriod ds inlet outlet).fld (Reg.thmDie x) 27 16 = max 2000 (d.fld (Reg.thmDie x) 27 16 - 100)) := by
  obtain ⟨f, hf⟩ : ∃ f, f = Dev.thermalDies { d with pwr := d.sensed ds } d.tempC ds (List.range 12) := ⟨_, rfl⟩
  obtain ⟨hflag, hhot⟩ := thermalDies_shows (d := { d with pwr := d.sensed ds }) hd hx d.tempC ds
  have hfpwr : f.pwr = d.sensed ds := hf ▸ thermalDies_pwr _ _ _ _
  rw [← hf] at hflag hhot
  have hplate : Reg.thmDie x ≠ Reg.thmColdplate := by
    unfold Reg.thmDie Reg.thmColdplate
    omega
  have hfwf : Assoc.wf regReset f.regs = true := by
    rw [hf]
    exact ((Reads.refl (o := { d with pwr := d.sensed ds }) hd Reg.thmCfg).thermalDies (by decide) (fun y _ => thmCfg_ne_die y) _ _).1
  have hend : ∃ w, d.warmed ds inlet outlet = f.setReg Reg.thmColdplate w := ⟨_, by rw [hf]; rfl⟩
  obtain ⟨w, hw⟩ := hend
  have hset : Reads f (f.setReg Reg.thmColdplate w) (Reg.thmDie x) := (Reads.refl hfwf _).setReg w hplate
  have hread : Reads f (d.thermalPeriod ds inlet outlet) (Reg.thmDie x) := by
    rw [thermalPeriod_eq, hw]
    exact (hset.raise (thmDie_quiet x) _ _).ite hset
  have hpwr : (d.thermalPeriod ds inlet outlet).pwr = d.sensed ds := by
    rw [thermalPeriod_eq, hw]
    split
    · exact (Dev.acts_pwr _ _).trans hfpwr
    · exact hfpwr
  refine ⟨?_, (hread.flag 31).trans hflag, fun hot h => ⟨(hread.fld 7 0).trans (hhot hot h).1, fun hle =>
    (hread.fld 27 16).trans ((hhot hot h).2 hle)⟩⟩
  have htemp : (d.temperatures ds)[x]? = some ((hottest (ds.getD x [])).getD (d.tempC x)) := by
    unfold Dev.temperatures
    rw [List.getElem?_map, List.getElem?_range hx]
    rfl
  have hnow : (d.thermalPeriod ds inlet outlet).tempC x = (d.temperatures ds).getD x 0 := by
    conv_lhs => unfold Dev.tempC
    rw [hpwr]
    rfl
  rw [hnow, List.getD_eq_getElem?_getD, htemp]
  rfl

theorem tempByte_low {t : Int} (h : t < 128) : tempByte t % 256 = (t % 256).toNat := by
  unfold tempByte byteOfInt
  rw [if_pos h]
  omega

/-! Stretched cycles (R83). -/

theorem cluClock_quiet (x : Nat) : eventReg (Reg.cluClock x) = false := by
  refine eventReg_quiet ?_ ?_ ?_
  · unfold Reg.cluClock
    omega
  · unfold Reg.cluClock
    omega
  · have hpage : regPage (Reg.cluClock x) = 0x012 := by
      unfold regPage Reg.cluClock
      omega
    rw [hpage]
    decide

/-! The scrubber (R122). -/

theorem memScrubStatus_ne (x : Nat) {b : Nat} (hb : b % 0x1000 ≠ 0x068 ∨ regPage b ≠ 0x010) : Reg.memScrubStatus x ≠ b := by
  rintro rfl
  unfold regPage Reg.memScrubStatus at hb
  omega

theorem memScrubStatus_quiet (x : Nat) : eventReg (Reg.memScrubStatus x) = false := by
  refine eventReg_quiet ?_ ?_ ?_
  · unfold Reg.memScrubStatus
    omega
  · unfold Reg.memScrubStatus
    omega
  · have hpage : regPage (Reg.memScrubStatus x) = 0x010 := by
      unfold regPage Reg.memScrubStatus
      omega
    rw [hpage]
    decide

section
variable (h : Reads o d (Reg.memScrubStatus x))
include h

theorem Reads.scrubRaise (p : Page) (b : Nat) : Reads o (d.raise p b) (Reg.memScrubStatus x) := h.raise (memScrubStatus_quiet x) p b

theorem Reads.scrubMove (p : Page) (c : Nat) : Reads o (d.moveTo p c) (Reg.memScrubStatus x) := by
  have hlow := stateReg_low p
  exact h.moveTo p c (memScrubStatus_ne x (.inl (by omega)))

theorem Reads.scrubFault (p : Page) : Reads o ((d.pageFault p).packageFault) (Reg.memScrubStatus x) :=
  (h.scrubMove p 7).scrubMove _ 7

theorem Reads.scrubNote (t b : Nat) (met : Met) : Reads o (d.noteLoss t b met) (Reg.memScrubStatus x) := by
  have hlost : Reg.memScrubStatus x ≠ Reg.memLost t := memScrubStatus_ne x (.inl (by unfold Reg.memLost; omega))
  have hlo : Reg.memScrubStatus x ≠ Reg.memLostAddrLo t := memScrubStatus_ne x (.inl (by unfold Reg.memLostAddrLo; omega))
  have hhi : Reg.memScrubStatus x ≠ Reg.memLostAddrHi t := memScrubStatus_ne x (.inl (by unfold Reg.memLostAddrHi; omega))
  exact Reads.acts ((((h.setReg _ hlost).setReg _ hlo).setReg _ hhi).scrubRaise _ _) (memScrubStatus_quiet x) _

theorem Reads.scrubSpare (t row : Nat) : Reads o (d.spareRow t row) (Reg.memScrubStatus x) := by
  have hspared : Reads o ((d.setRemap t ⟨row :: (d.remap t).rows, (d.remap t).used + 1⟩).raise (memPage t) 2) (Reg.memScrubStatus x) :=
    Reads.scrubRaise h.other _ _
  exact ((hspared.scrubRaise _ _).ite hspared).ite ((h.scrubRaise _ _).scrubFault _)

theorem Reads.scrubLoss (b : Nat) : Reads o (d.lossEffect b) (Reg.memScrubStatus x) := by
  have hbad : Reads o d.badUnfixed (Reg.memScrubStatus x) := h.other
  have hslot : ∀ c, Reads o (d.slotLoss c) (Reg.memScrubStatus x) := fun c => by
    unfold Dev.slotLoss
    exact Reads.ite hbad.other (h.ite hbad)
  unfold Dev.lossEffect
  split
  · exact h.scrubFault _
  · exact hbad.ite h
  · unfold Dev.jobLoss
    split
    · exact hslot _
    · exact hbad
  · exact h

end

theorem Reads.scrubHinge (h : Reads o d (Reg.memScrubStatus x)) (b : Nat) : Reads o (d.hingeLoss b) (Reg.memScrubStatus x) := by
  unfold Dev.hingeLoss
  refine h.foldl fun y i _ hy => ?_
  split
  · exact hy
  · have hlast : Reg.memScrubStatus x ≠ Reg.hngFaultLast i := memScrubStatus_ne x (.inr (by unfold regPage Reg.hngFaultLast; omega))
    have hset : ∀ (g : Dev) (w : Word) (r : Rec), Reads o g (Reg.memScrubStatus x) → Reads o
        (((((g.setReg (Reg.hngFaultLast i) w).raise (hngPage i) 3).pageFault (hngPage i)).record r).bad) (Reg.memScrubStatus x) :=
      fun g w r hg => Reads.other (Reads.acts ((((hg.setReg w hlast).scrubRaise _ _).scrubMove _ 7)) (memScrubStatus_quiet x) _)
    exact hset _ _ _ hy.other

/-- The check of a block leaves the scrubber's own register. -/
theorem Reads.scrubCheck (h : Reads o d (Reg.memScrubStatus x)) (met : Met) (f : BlockFinding) :
    Reads o (d.blockFinding met f) (Reg.memScrubStatus x) := by
  unfold Dev.blockFinding
  split
  · exact h
  · have hcrc : Reg.memScrubStatus x ≠ Reg.memCrcTransient (f.addr / stackSpan) :=
      memScrubStatus_ne x (.inl (by unfold Reg.memCrcTransient; omega))
    exact (h.setReg _ hcrc).scrubRaise _ _
  · have hzero : ∀ b bs, Reads o (d.writeAt b bs) (Reg.memScrubStatus x) := fun _ _ => h.other
    exact (((((hzero _ _).scrubNote _ _ met).scrubSpare _ _).scrubLoss _).scrubHinge _)

theorem blockFinding_scrubAt (d : Dev) (met : Met) (f : BlockFinding) : (d.blockFinding met f).scrubAt = d.scrubAt := by
  obtain ⟨_, _, _, _, _, _, _, _, _, hrest⟩ := ((Checked.refl (o := d)).blockFinding met f).rest
  rw [hrest]

theorem scrubNext_scrubbed (hw : Assoc.wf scrubDefault d.scrubAt = true) (x n : Nat) :
    (d.scrubbed x n).scrubNext x = (n + 1) % scrubBlocks x := by
  have hset := Assoc.get_set_same hw x ((n + 1) % scrubBlocks x)
  unfold Dev.scrubNext Dev.scrubbed
  dsimp only
  split
  · rw [Dev.raise_scrubAt]
    exact hset
  · exact hset

/-- A block that is not the last of its stack. -/
theorem scrubbed_goes (hd : Assoc.wf regReset d.regs = true) (hn : n + 1 < scrubBlocks x) :
    (d.scrubbed x n).fld (Reg.memScrubStatus x) 22 16 = (n + 1) * 100 / scrubBlocks x := by
  have hlt : (n + 1) * 100 / scrubBlocks x < 100 := (Nat.div_lt_iff_lt_mul (by omega)).mpr (by omega)
  unfold Dev.scrubbed
  dsimp only
  rw [if_neg (Nat.ne_of_lt hn)]
  refine (Dev.fld_setFld (d := { d with scrubAt := Assoc.set scrubDefault d.scrubAt x ((n + 1) % scrubBlocks x) }) hd _ (by decide)
    (by decide) _).trans ?_
  exact Nat.mod_eq_of_lt (Nat.lt_trans hlt (by decide))

/-- The last block ends the pass. -/
theorem scrubbed_ends (hd : Assoc.wf regReset d.regs = true) (hn : n + 1 = scrubBlocks x) :
    (d.scrubbed x n).fld (Reg.memScrubStatus x) 15 0 = min 0xFFFF (d.fld (Reg.memScrubStatus x) 15 0 + 1) ∧
      (d.scrubbed x n).fld (Reg.memScrubStatus x) 22 16 = 0 ∧ (d.scrubbed x n).pend (memPage x) 5 = true := by
  obtain ⟨e, he⟩ : ∃ e : Dev, e = { d with scrubAt := Assoc.set scrubDefault d.scrubAt x ((n + 1) % scrubBlocks x) } := ⟨_, rfl⟩
  have hew : Assoc.wf regReset e.regs = true := he ▸ hd
  have hold : e.fld (Reg.memScrubStatus x) 15 0 = d.fld (Reg.memScrubStatus x) 15 0 := by rw [he]; rfl
  have hadd : Assoc.wf regReset (e.addSatFld (Reg.memScrubStatus x) 15 0 1).regs = true := Assoc.wf_set hew _ _
  have hset : Assoc.wf regReset ((e.addSatFld (Reg.memScrubStatus x) 15 0 1).setFld (Reg.memScrubStatus x) 22 16 0).regs = true :=
    Assoc.wf_set hadd _ _
  have hend : d.scrubbed x n = ((e.addSatFld (Reg.memScrubStatus x) 15 0 1).setFld (Reg.memScrubStatus x) 22 16 0).raise (memPage x) 5 := by
    unfold Dev.scrubbed
    dsimp only
    rw [if_pos hn, he]
  have hread := (Reads.refl hset (Reg.memScrubStatus x)).scrubRaise (memPage x) 5
  rw [hend]
  refine ⟨(hread.fld 15 0).trans ?_, (hread.fld 22 16).trans ?_, (Pends.raised hset _ (by decide)).pend⟩
  · rw [Dev.fld_setFld_other hadd _ (.inl (by decide)), fld_addSatFld hew _ (by decide) (by decide), hold]
    rfl
  · exact Dev.fld_setFld hadd _ (by decide) (by decide) 0

/-- The check of a block changes no byte but those of a block lost. -/
theorem blockFinding_calmBut (hd : d.Tidy) (met : Met) (f : BlockFinding) (x n : Nat) :
    d.CalmBut ((d.blockFinding met f).scrubbed x n) [f] := by
  have hleaves : Leaves (fun a => !lostBy [f] a) d ((d.blockFinding met f).scrubbed x n) := by
    refine (Leaves.refl.foundBlock met f fun hl a ha => ?_).scrubbed x n
    unfold lostBy at ha
    rw [List.any_cons, List.any_nil, Bool.or_false, hl, Bool.true_and, Bool.not_eq_true', decide_eq_false_iff_not] at ha
    omega
  exact ⟨hleaves.config hd.2, fun a ha hl => hleaves.byte hd.1 a (by rw [hl]; rfl) ha⟩

/-- The device after the scrubber's next block. -/
def Dev.scrubStep (d : Dev) (x : Nat) (f : BlockFinding) : Dev := (d.blockFinding .scrub f).scrubbed x (d.scrubNext x)

theorem exec_scrubRead {x : Fin 24} (hrun : s.carrier.phase = .running) (hact : s.dev.active (memPage x) = true)
    (hen : s.dev.flag (Reg.memScrubCtrl x) 0 = true) (first second : List Nat) : exec (.scrubRead x first second) s =
      .next { s with dev := s.dev.scrubStep x ⟨stackSpan * x.val + 256 * s.dev.scrubNext x,
        ⟨stackSpan * x.val + 256 * s.dev.scrubNext x, first⟩, ⟨stackSpan * x.val + 256 * s.dev.scrubNext x, second⟩, false⟩ } := by
  show execScrubRead x first second s = _
  refine act_next hrun ?_
  rw [hact, hen]
  rfl

end

end Sys2Proof.Machine

namespace Sys2Proof.Proofs
set_option Elab.async false
open Sys2Proof Sys2Proof.Machine

/-- Settles O59: a power period, a thermal one, a stretched cycle and the scrubber's blocks. -/
theorem managers : Obligations.Managers := by
  unfold Obligations.Managers
  intro s hrun hd
  refine ⟨fun input watts peak hact => ?power, fun sensors inlet outlet hact => ?thermal, fun x => ?stretch,
    fun x first second n a hact hen hw hn ha => ?scrub⟩
  case power =>
    obtain ⟨hwatts, hpeak, hcap, htarget⟩ := powerPeriod_shows hd.2 s.fuse watts peak
    refine ⟨_, exec_powerManagerPeriod hrun hact input watts peak, (Leaves.refl.powerPeriod _ _ _).calm hd,
      (Keeps.refl (level := true).powerPeriod _ _ _).steady, hwatts, hpeak, fun hover => ?_, fun x f hx hf => ?_⟩
    · rw [hcap, capLoop_over hover]
      refine Nat.mod_eq_of_lt ?_
      have hbound := bits_lt (s.dev.reg Reg.pwrClkCap) 11 0
      unfold Dev.fld
      omega
    · obtain ⟨enabled, perf, htarget⟩ := htarget x hx
      rw [hf, htarget]
      exact targetMhz_range _ _ _ _
  case thermal =>
    refine ⟨_, act_next hrun (if_pos hact), (Leaves.refl.thermalPeriod _ _ _).calm hd, (Keeps.refl (level := true).thermalPeriod _ _ _).steady,
      fun x ts hx hts => ?_⟩
    obtain ⟨htemp, hflag, hhot⟩ := thermalPeriod_shows hd.2 hx sensors inlet outlet
    refine ⟨by rw [hflag, hottest_isNone, hts], fun t ht hmax => ?_, fun hnone => ?_⟩
    · have hot := hottest_of _ (hts ▸ ht) (fun u hu => hmax u (hts ▸ hu))
      obtain ⟨hbyte, hceil⟩ := hhot t hot
      exact ⟨by rw [htemp, hot]; rfl, fun hlt => hbyte.trans (tempByte_low hlt), hceil⟩
    · have hnone' : (hottest (sensors.getD x [])).isNone = true := by rw [hottest_isNone, ← hts, hnone]; rfl
      rw [htemp, Option.isNone_iff_eq_none.mp hnone']
      rfl
  case stretch =>
    have hset : Assoc.wf regReset (s.dev.addSatFld (Reg.cluClock x) 31 16 1).regs = true := Assoc.wf_set hd.2 _ _
    refine ⟨_, act_next (f := fun d => (d.addSatFld (Reg.cluClock x) 31 16 1).raise (cluPage x) 4) hrun rfl, ((Leaves.refl.addSatFld _ _ _ _).raise _ _).calm hd,
      ((Keeps.refl (level := true).addSatFld _ _ _ _).raise _ _).steady, ?_, (Pends.raised hset _ (by decide)).pend⟩
    exact (((Reads.refl hset _).raise (cluClock_quiet x) _ _).fld 31 16).trans (fld_addSatFld hd.2 _ (by decide) (by decide) 1)
  case scrub =>
    have hx := exec_scrubRead hrun hact hen first second
    rw [← hn, ← ha] at hx
    have hsteady : ∀ f, s.dev.Steady (s.dev.scrubStep x f) := fun f => ((Keeps.refl (level := true).blockFinding _ f).scrubbed _ _).steady
    obtain ⟨f, hf⟩ : ∃ f : BlockFinding, f = ⟨a, ⟨a, first⟩, ⟨a, second⟩, false⟩ := ⟨_, rfl⟩
    rw [← hf] at hx ⊢
    have hread := (Reads.refl hd.2 (Reg.memScrubStatus x)).scrubCheck .scrub f
    have hnext : (s.dev.scrubStep x f).scrubNext x = (n + 1) % scrubBlocks x := by
      unfold Dev.scrubStep
      rw [← hn]
      exact scrubNext_scrubbed (by rw [blockFinding_scrubAt]; exact hw) x n
    have hbut : s.dev.CalmBut (s.dev.scrubStep x f) [f] := blockFinding_calmBut hd _ f x _
    refine ⟨fun hlt => ⟨_, hx, hsteady f, hbut, hnext.trans (Nat.mod_eq_of_lt hlt), ?_⟩, fun hlast => ?_⟩
    · unfold Dev.scrubStep
      rw [← hn]
      exact scrubbed_goes hread.1 hlt
    · obtain ⟨hcount, hpercent, hpend⟩ := scrubbed_ends hread.1 hlast
      rw [hread.fld] at hcount
      rw [hlast, Nat.mod_self] at hnext
      refine ⟨_, hx, hsteady f, hbut, hnext, ?_⟩
      unfold Dev.scrubStep
      rw [← hn]
      exact ⟨hcount, hpercent, hpend⟩

end Sys2Proof.Proofs

/-! A boot with no first failed copy to show (R465, R468). -/
namespace Sys2Proof.Machine
set_option Elab.async false

/-- The package in stage 2, its carrier controller leaving out both copies with code 0 and naming no copy that failed first. -/
def bothExcluded : State :=
  { State.reset with
    carrier := { State.reset.carrier with excluded := [(false, 0), (true, 0)] }
    dev := { State.reset.dev with boot := { State.reset.dev.boot with stage := 2 } } }

theorem bothExcluded_tidy : bothExcluded.dev.Tidy := by
  unfold Dev.Tidy
  decide +kernel

theorem bothExcluded_hub : bothExcluded.dev.code hubPage = 0 := by decide +kernel

theorem bothExcluded_none : bothExcluded.chooseCopy = none := by decide +kernel

/-- Stage 2 accepts neither copy, and has no code other than 0 to name a first failed copy by. -/
theorem bothExcluded_first : bothExcluded.stage2.carrier.firstFailed = none := by decide +kernel

/-- Stage 2 of a package whose boot goes on. -/
theorem exec_stage2 {s : State} (hrun : s.carrier.phase = .running) (hhub : s.dev.code hubPage = 0) (hstage : s.dev.boot.stage = 2) :
    exec (.bootStageComplete .done) s = .next s.stage2 := by
  have hdone : s.stageDone = s.stage2 := by
    unfold State.stageDone
    dsimp only
    rw [hstage]
    rfl
  exact congrArg Host.Outcome.next ((if_pos ⟨hrun, by rw [hstage]; decide, hhub⟩).trans hdone)

end Sys2Proof.Machine

namespace Sys2Proof.Proofs
set_option Elab.async false
open Sys2Proof Sys2Proof.Machine

/-- Refutes O55: where the carrier controller leaves out both copies with code 0 and names none that failed first, stage 2 accepts
neither and still names none, while the statement asks for a first failed copy. No run comes to this state, since a copy that is left
out is named at once as the first that failed; but the statement speaks of every state. -/
theorem not_bootStages : ¬ Obligations.BootStages := by
  unfold Obligations.BootStages
  intro h
  obtain ⟨hboot, -⟩ := h bothExcluded rfl bothExcluded_tidy
  obtain ⟨-, -, hstage2, -⟩ := hboot bothExcluded_hub
  obtain ⟨-, hnone⟩ := hstage2 rfl
  obtain ⟨d, f, hx, -⟩ := hnone bothExcluded_none
  have hsame := Host.Outcome.next.inj ((exec_stage2 rfl bothExcluded_hub rfl).symm.trans hx)
  have hfirst : bothExcluded.stage2.carrier.firstFailed = some f := congrArg (fun s => s.carrier.firstFailed) hsame
  rw [bothExcluded_first] at hfirst
  exact Option.some_ne_none f hfirst.symm

end Sys2Proof.Proofs
